-- ==== Sys2Proof/Syntax.lean ====
section
/-! DEFINITION. The commands of the module: one constructor for each row of the table of operations and events, with the
operands the event carries from outside the state. -/
namespace Sys2Proof

/-- A cay: its island and its number (R12, R29). -/
structure CayRef where
  island : Nat
  cay : Nat
deriving DecidableEq, Repr

/-- The fields of instruction format S (R170); `rsv` is its reserved bits [38:0]. -/
structure SFields where
  d : BitVec 5
  a : BitVec 5
  b : BitVec 5
  rsv : BitVec 39
deriving DecidableEq, Repr

/-- The fields of instruction format I (R170); `rsv` is its reserved bits [43:32]. -/
structure IFields where
  d : BitVec 5
  a : BitVec 5
  rsv : BitVec 12
  imm : BitVec 32
deriving DecidableEq, Repr

/-- The fields of instruction format B (R170); `rsv` is its reserved bits [43:32]. -/
structure BFields where
  a : BitVec 5
  b : BitVec 5
  rsv : BitVec 12
  off : BitVec 32
deriving DecidableEq, Repr

/-- The fields of instruction format C (R170), with its reserved bits [53:49], [43:32] and [11:0]. -/
structure CFields where
  rsvHi : BitVec 5
  a : BitVec 5
  rsvMid : BitVec 12
  mask : BitVec 16
  queued : BitVec 1
  engine : BitVec 3
  rsvLo : BitVec 12
deriving DecidableEq, Repr

/-- The fields of instruction format V (R170); `rsv` is its reserved bits [16:0]. -/
structure VFields where
  d : BitVec 5
  a : BitVec 5
  b : BitVec 5
  c : BitVec 5
  k : BitVec 5
  dfmt : BitVec 4
  sfmt : BitVec 4
  rmode : BitVec 2
  blk : BitVec 2
  rsv : BitVec 17
deriving DecidableEq, Repr

/-- The fields of MCFG (R181). -/
structure McfgFields where
  shape : BitVec 2
  array : BitVec 2
  aFmt : BitVec 4
  bFmt : BitVec 4
  rescale : BitVec 2
  rsv : BitVec 40
deriving DecidableEq, Repr

/-- The fields of MLDS (R181). -/
structure MldsFields where
  array : BitVec 2
  bank : BitVec 1
  a : BitVec 5
  rsv : BitVec 46
deriving DecidableEq, Repr

/-- The fields of MISS (R181). -/
structure MissFields where
  array : BitVec 2
  bank : BitVec 1
  axis : BitVec 1
  firstg : BitVec 1
  endg : BitVec 1
  firstb : BitVec 1
  endb : BitVec 1
  msk : BitVec 1
  gslot : BitVec 14
  bslot : BitVec 14
  a : BitVec 5
  rsv : BitVec 12
deriving DecidableEq, Repr

/-- The fields of MSEQ (R181). -/
structure MseqFields where
  array : BitVec 2
  a : BitVec 5
  b : BitVec 5
  rsv : BitVec 42
deriving DecidableEq, Repr

/-- The fields of MFIN (R181). -/
structure MfinFields where
  array : BitVec 2
  slot : BitVec 14
  rsv : BitVec 38
deriving DecidableEq, Repr

/-- The fields of MDRN (R181). -/
structure MdrnFields where
  array : BitVec 2
  slot : BitVec 14
  countM1 : BitVec 8
  d : BitVec 5
  a : BitVec 5
  b : BitVec 5
  rsv : BitVec 15
deriving DecidableEq, Repr

/-- A unit that the energy planner admits (R461): a record, an entry execution of a stage run by number, a serving step. -/
inductive UnitId where
  | record (ctx stream seq : Nat)
  | entry (num : Nat)
  | step (ctx : Nat)
deriving DecidableEq, Repr

/-- Energy of an interval attributed to a context's unit or work, or to a class (R455). `island` is 24 for a meter of no island; `ctx` is 64
and `cls` names the class where no context spent it; `unit` is the unit whose energy it is. -/
structure Attr where
  island : Nat
  ctx : Nat
  cls : Nat
  unit : Option UnitId
  nj : Nat
deriving DecidableEq, Repr

/-- A defect that field repair finds and burns (R485, R486). -/
inductive Defect where
  | arrayRow (cay array row : Nat)
  | lsRow (cay bank row : Nat)
  | cacheLine (set way : Nat)
  | hbmRow (row : Nat)
deriving DecidableEq, Repr

/-- An error an access found, as its record says it (R481): the memory, its island, stack or harbour die, the cay, the physical byte address in the memory, the syndrome, the HBM
symbol or the bits corrected, the context of the access, and whether the scrubber or the digest walk found it. -/
structure ErrAt where
  mem : Nat
  unit : Nat
  cay : Nat
  addr : Nat
  syndrome : Nat
  symbol : Nat
  nbits : Nat
  ctx : Nat
  scrub : Bool
deriving DecidableEq, Repr

/-- Who read poison (R479): a task at a device virtual address, an open collective by number, a checkpoint write, the journal manager at a place of the ring, the scrubber or digest walk. -/
inductive PoisonReader where
  | task (num dva : Nat)
  | coll (num dva : Nat)
  | ckpt (ctx stream seq dva : Nat)
  | journal (slot : Nat)
  | scrubber
deriving DecidableEq, Repr

/-- What holds the module in reset (R442, R443, R466, R468, R509). -/
inductive Hold where
  | smbus
  | pin
  | register
  | harbour
  | input
  | thermal
  | tap
  | standby
deriving DecidableEq, Repr

/-- A sample of a monitor signal that a page presents (R491): the page number, the signal's code, its value. -/
structure Sample where
  page : Nat
  code : Nat
  value : Int
deriving DecidableEq, Repr


/-- A command: an instruction a cay's running thread issues, an access or packet that arrives, a pin or line that changes, or an
event of an engine, timer or manager that takes place. Each is whole and indivisible. -/
inductive Instr where
  /-- ADD (R178): Scalar instruction writing the 64-bit sum of registers a and b to register d. -/
  | add (c : CayRef) (f : SFields)
  /-- SUB (R178): Scalar instruction writing a minus b to register d. -/
  | sub (c : CayRef) (f : SFields)
  /-- AND (R178): Scalar instruction writing the bitwise AND of a and b to d. -/
  | and (c : CayRef) (f : SFields)
  /-- OR (R178): Scalar instruction writing the bitwise OR of a and b to d. -/
  | or (c : CayRef) (f : SFields)
  /-- XOR (R178): Scalar instruction writing the bitwise XOR of a and b to d. -/
  | xor (c : CayRef) (f : SFields)
  /-- SHL (R178): Scalar instruction shifting a left by b[5:0] into d. -/
  | shl (c : CayRef) (f : SFields)
  /-- SHR (R178): Scalar instruction shifting a logically right by b[5:0] into d. -/
  | shr (c : CayRef) (f : SFields)
  /-- SAR (R178): Scalar instruction shifting a arithmetically right by b[5:0] into d. -/
  | sar (c : CayRef) (f : SFields)
  /-- MUL (R178): Scalar instruction writing the product of a and b modulo 2^64 to d. -/
  | mul (c : CayRef) (f : SFields)
  /-- SLT (R178): Scalar instruction setting d to 1 if a is less than b as signed values. -/
  | slt (c : CayRef) (f : SFields)
  /-- SLTU (R178): Scalar instruction setting d to 1 if a is less than b as unsigned values. -/
  | sltu (c : CayRef) (f : SFields)
  /-- ADDI (R178): Scalar instruction adding the sign-extended immediate to a into d. -/
  | addi (c : CayRef) (f : IFields)
  /-- ANDI (R178): Scalar instruction ANDing a with the sign-extended immediate into d. -/
  | andi (c : CayRef) (f : IFields)
  /-- ORI (R178): Scalar instruction ORing a with the sign-extended immediate into d. -/
  | ori (c : CayRef) (f : IFields)
  /-- SHLI (R178): Scalar instruction shifting a left by IMM[5:0] into d. -/
  | shli (c : CayRef) (f : IFields)
  /-- SHRI (R178): Scalar instruction shifting a logically right by IMM[5:0] into d. -/
  | shri (c : CayRef) (f : IFields)
  /-- LIH (R178): Scalar instruction placing IMM in the upper half of d over the low half of a. -/
  | lih (c : CayRef) (f : IFields)
  /-- SRD (R174): Reads the special register named by IMM[7:0] into d. -/
  | srd (c : CayRef) (f : IFields)
  /-- LD8 (R178): Loads an 8-bit local-store value, zero-extended, into d. -/
  | ld8 (c : CayRef) (f : IFields)
  /-- LD16 (R178): Loads a 16-bit local-store value, zero-extended, into d. -/
  | ld16 (c : CayRef) (f : IFields)
  /-- LD32 (R178): Loads a 32-bit local-store value, zero-extended, into d. -/
  | ld32 (c : CayRef) (f : IFields)
  /-- LD64 (R178): Loads a 64-bit local-store value into d. -/
  | ld64 (c : CayRef) (f : IFields)
  /-- ST16 (R178): Stores the low 16 bits of d to the local store. -/
  | st16 (c : CayRef) (f : IFields)
  /-- ST32 (R178): Stores the low 32 bits of d to the local store. -/
  | st32 (c : CayRef) (f : IFields)
  /-- ST64 (R178): Stores d to the local store. -/
  | st64 (c : CayRef) (f : IFields)
  /-- LDG32 (R178): Loads a 32-bit device-virtual value through the island cache into d. -/
  | ldg32 (c : CayRef) (f : IFields)
  /-- LDG64 (R178): Loads a 64-bit device-virtual value through the island cache into d. -/
  | ldg64 (c : CayRef) (f : IFields)
  /-- STG32 (R178): Stores the low 32 bits of d to device virtual memory, shadowed if speculative. -/
  | stg32 (c : CayRef) (f : IFields)
  /-- STG64 (R178): Stores d to device virtual memory, shadowed if speculative. -/
  | stg64 (c : CayRef) (f : IFields)
  /-- BEQ (R178): Branches by OFFSET if a equals b. -/
  | beq (c : CayRef) (f : BFields)
  /-- BNE (R178): Branches by OFFSET if a differs from b. -/
  | bne (c : CayRef) (f : BFields)
  /-- BLT (R178): Branches by OFFSET if a is less than b, signed. -/
  | blt (c : CayRef) (f : BFields)
  /-- BGE (R178): Branches by OFFSET if a is at least b, signed. -/
  | bge (c : CayRef) (f : BFields)
  /-- BLTU (R178): Branches by OFFSET if a is less than b, unsigned. -/
  | bltu (c : CayRef) (f : BFields)
  /-- BGEU (R178): Branches by OFFSET if a is at least b, unsigned. -/
  | bgeu (c : CayRef) (f : BFields)
  /-- JAL (R178): Writes pc + 8 to d and jumps by the sign-extended immediate. -/
  | jal (c : CayRef) (f : IFields)
  /-- JR (R178): Jumps to the address in register a. -/
  | jr (c : CayRef) (f : SFields)
  /-- TYLD (R178): The thread yields and the sequencer switches to the next ready thread. -/
  | tyld (c : CayRef) (f : SFields)
  /-- TBAR (R178): Blocks the thread until every live thread of the task on the cay has reached the barrier as often. -/
  | tbar (c : CayRef) (f : SFields)
  /-- NWAIT (R178): Blocks the thread until the named collective notification counter reaches a. -/
  | nwait (c : CayRef) (f : IFields)
  /-- CPOST (R321): Posts a local-store chunk to an open collective or, with DIRECT, to a receive. -/
  | cpost (c : CayRef) (f : SFields)
  /-- TEND (R178): Ends the issuing thread. -/
  | tend (c : CayRef) (f : SFields)
  /-- TDSC (R179): Marks a speculative task for discard and ends the thread. -/
  | tdsc (c : CayRef) (f : SFields)
  /-- TFAIL (R179): Ends the task with kernel fault, discarding its writes and stopping its other threads. -/
  | tfail (c : CayRef) (f : IFields)
  /-- CPY (R180): Issues the 32-byte copy descriptor at the given local-store address to the copy unit. -/
  | cpy (c : CayRef) (f : CFields)
  /-- CFEN (R180): Blocking or queued copy fence on the fence counters named by MASK. -/
  | cfen (c : CayRef) (f : CFields)
  /-- MCFG (R102): Configures an array or gang with shape, operand formats and rescale period. -/
  | mcfg (c : CayRef) (f : McfgFields)
  /-- MLDS (R97): Loads a stationary tile and its scale codes into one bank of an array. -/
  | mlds (c : CayRef) (f : MldsFields)
  /-- MISS (R183): One array issue of a streaming vector along the chosen axis, with group and block slot handling. -/
  | miss (c : CayRef) (f : MissFields) (gap : Nat)
  /-- MSEQ (R188): Runs the sequence of tile loads and issues described by an MSEQ descriptor. -/
  | mseq (c : CayRef) (f : MseqFields)
  /-- MFIN (R181): Merges the combine stack and writes the reduction result to the named slot. -/
  | mfin (c : CayRef) (f : MfinFields)
  /-- MDRN (R190): Drains slots through the output converter to the local store under a converter block. -/
  | mdrn (c : CayRef) (f : MdrnFields)
  /-- VADD (R192): Vector lane-wise addition with one rounding. -/
  | vadd (c : CayRef) (f : VFields)
  /-- VSUB (R192): Vector lane-wise subtraction with one rounding. -/
  | vsub (c : CayRef) (f : VFields)
  /-- VMUL (R192): Vector lane-wise multiplication with one rounding. -/
  | vmul (c : CayRef) (f : VFields)
  /-- VFMA (R192): Vector lane-wise fused multiply-add with one rounding. -/
  | vfma (c : CayRef) (f : VFields)
  /-- VMIN (R192): Vector lane-wise minimum. -/
  | vmin (c : CayRef) (f : VFields)
  /-- VMAX (R192): Vector lane-wise maximum. -/
  | vmax (c : CayRef) (f : VFields)
  /-- VABS (R192): Vector lane-wise absolute value. -/
  | vabs (c : CayRef) (f : VFields)
  /-- VNEG (R192): Vector lane-wise negation. -/
  | vneg (c : CayRef) (f : VFields)
  /-- VSCL (R192): Scales each lane by a power of two given by a scalar. -/
  | vscl (c : CayRef) (f : VFields)
  /-- VCMPLT (R192): Writes a scalar mask of lanes in which a is less than b. -/
  | vcmplt (c : CayRef) (f : VFields)
  /-- VCMPEQ (R192): Writes a scalar mask of lanes in which a equals b. -/
  | vcmpeq (c : CayRef) (f : VFields)
  /-- VSEL (R192): Selects a or b per lane by mask k, converting exactly if formats differ. -/
  | vsel (c : CayRef) (f : VFields)
  /-- VMOV (R192): Copies a to d, converted exactly to DFMT. -/
  | vmov (c : CayRef) (f : VFields)
  /-- VEXP2 (R196): Approximate base-2 exponential of each lane. -/
  | vexp2 (c : CayRef) (f : VFields)
  /-- VLOG2 (R196): Approximate base-2 logarithm of each lane. -/
  | vlog2 (c : CayRef) (f : VFields)
  /-- VRCP (R196): Approximate reciprocal of each lane. -/
  | vrcp (c : CayRef) (f : VFields)
  /-- VRSQRT (R196): Approximate reciprocal square root of each lane. -/
  | vrsqrt (c : CayRef) (f : VFields)
  /-- VSQRT (R196): Approximate square root of each lane. -/
  | vsqrt (c : CayRef) (f : VFields)
  /-- VCVT (R198): Converts lanes between formats in the encoded rounding mode with block scales as needed. -/
  | vcvt (c : CayRef) (f : VFields)
  /-- VRSUM (R195): Sums the enabled lanes with an incoming sum into an A32 scalar in canonical order. -/
  | vrsum (c : CayRef) (f : VFields)
  /-- VRMAX (R192): Takes the A32 maximum of the enabled lanes and an incoming value. -/
  | vrmax (c : CayRef) (f : VFields)
  /-- VLDG (R192): Gathers device-virtual elements by an index list into a vector operand. -/
  | vldg (c : CayRef) (f : VFields)
  /-- VSTG (R192): Scatters vector lanes to device-virtual addresses by an index list. -/
  | vstg (c : CayRef) (f : VFields)
  /-- THREAD_SWITCH_QUANTUM (R128): After 512 consecutive issue cycles with another thread ready, the sequencer switches threads. -/
  | threadSwitchQuantum (c : CayRef)
  /-- THREAD_MISS_RETURN (R129): The last line of a blocked thread's cache miss arrives and the thread becomes ready. -/
  | threadMissReturn (c : CayRef) (thread : Nat)
  /-- TASK_BIND (R127): The dispatcher binds a task to threads of a cay, loading code, constants and arguments. -/
  | taskBind (c : CayRef) (task : Nat)
  /-- TASK_END (R179): All threads have ended and queued work has completed, so the task reaches its commit point. -/
  | taskEnd (task : Nat)
  /-- CAY_CLOCK_GATE (R157): A cay idle for 32 consecutive cycles stops its fast clock. -/
  | cayClockGate (c : CayRef)
  /-- CAY_UNGATE (R158): A gated cay ungates in 4 cycles for a binding or a mesh access. -/
  | cayUngate (c : CayRef) (mesh : Bool)
  /-- SHADOW_RECOMPUTE (R118): An idle array of the cay recomputes a selected block sum in split-wide form and compares. -/
  | shadowRecompute (c : CayRef)
  /-- SHADOW_SELECT_EXPIRY (R119): A selection not started within 2^20 cycles is not taken and counts in SHADOW_SKIP. -/
  | shadowSelectExpiry (c : CayRef)
  /-- COPY_COMPLETE (R140): A copy finishes reading and performing its writes and decrements its fence counter. -/
  | copyComplete (c : CayRef) (copy : Nat)
  /-- COPY_PAGE_FAULT (R138): A copy reaching a faulting or host-tier page ends its task when that page is reached. -/
  | copyPageFault (c : CayRef) (copy : Nat)
  /-- QUEUED_FENCE_COMPLETE (R141): A queued fence's counters reach zero and its engine resumes its queue. -/
  | queuedFenceComplete (c : CayRef) (engine : Nat)
  /-- ISLAND_CACHE_FILL (R147): A demand fetch returns and installs its line, or is reissued if invalidated in flight. -/
  | islandCacheFill (island line : Nat)
  /-- RUN_AHEAD_FETCH (R148): A trained stride tracker fetches lines ahead of demand within prefetchable pages. -/
  | runAheadFetch (island tracker : Nat)
  /-- PREFETCH_ARRIVAL (R147): A prefetched line arrives in the prefetch buffer, or is dropped if invalidated. -/
  | prefetchArrival (island line : Nat)
  /-- HBM_WRITE_INVALIDATE (R145): An HBM controller performs a write after invalidating every cached copy of the line. -/
  | hbmWriteInvalidate (writer addr : Nat) (data : List (BitVec 8))
  /-- SPECULATIVE_REQUEUE (R154): A speculative write without shadow space discards and requeues the last-admitted speculative task. -/
  | speculativeRequeue (island writer : Nat)
  /-- SPECULATIVE_COMMIT (R155): A speculative task's shadowed lines are marked pending, written through and released. -/
  | speculativeCommit (task : Nat)
  /-- SPECULATIVE_DISCARD (R156): A speculative task's shadowed lines are freed without writing. -/
  | speculativeDiscard (task : Nat)
  /-- LANDING_WINDOW_WRITE (R211): A 128-byte record write is checked and accepted or refused with an acceptance status. -/
  | landingWindowWrite (ctx tag off : Nat) (data : List (BitVec 8))
  /-- LANDING_WINDOW_RESPONSE (R212): Once the accepted record is durable in both journal copies the response leaves the module. -/
  | landingWindowResponse (ctx stream seq : Nat)
  /-- RECORD_START (R214): A record whose ordering, dependencies, energy admission and arbitration are satisfied starts. -/
  | recordStart (ctx stream seq : Nat)
  /-- RECORD_COMMIT (R217): A record's commit entry becomes durable, releasing dependents and fixing its completion. -/
  | recordCommit (ctx stream seq : Nat)
  /-- TASK (R207): Task record running a kernel on the named islands' cays. -/
  | task (ctx stream seq : Nat)
  /-- COPY (R208): Copy record executed by the named island's copy path. -/
  | copy (ctx stream seq : Nat)
  /-- GROUP_CLOSE (R209): Closes a host-formed commit group, optionally aborting it. -/
  | groupClose (ctx stream seq : Nat)
  /-- MARKER (R206): Does no work and commits once every earlier record of its stream has committed. -/
  | marker (ctx stream seq : Nat)
  /-- REGISTER_WRITE (R210): Record applying up to nine register writes at its commit in entry order. -/
  | registerWrite (ctx stream seq : Nat)
  /-- GROUP_DECISION (R224): Once a group's members and close have reached their commit points it is decided commit or abort. -/
  | groupDecision (group : Nat)
  /-- GROUP_APPLY (R225): The transaction unit marks, applies and releases a decided group's actions. -/
  | groupApply (group : Nat)
  /-- GROUP_TIMEOUT (R224): A group undecided at GRP_TIMEOUT aborts with group timeout. -/
  | groupTimeout (group : Nat)
  /-- JOURNAL_ENTRY_WRITE (R230): A journal entry is written to copy A, then copy B, becoming durable. -/
  | journalEntryWrite (ctx stream seq : Nat)
  /-- JOURNAL_ENTRY_RETIRE (R231): A committed and consumed entry is retired and its place freed. -/
  | journalEntryRetire (ctx stream seq : Nat)
  /-- JOURNAL_RECOVERY (R232): The journal manager rebuilds state from both copies and raises RECOVERY_DONE. -/
  | journalRecovery
  /-- JOURNAL_STACK_LOSS (R233): Loss of one journal stack makes the journal continue on the surviving copy. -/
  | journalStackLoss
  /-- JOURNAL_REBUILD (R233): Writing JNL_REPL.GO copies unretired entries to a replacement stack. -/
  | journalRebuild (value : Nat)
  /-- JOURNAL_ENABLE (R227): Writing JNL_CTL.EN checks and locks the journal placement or sets PLACE_ERR. -/
  | journalEnable (value : Nat)
  /-- COMPLETION_WRITE (R221): A committed completion is written to its ring entry once ring space allows. -/
  | completionWrite (ctx stream seq : Nat)
  /-- COMPLETION_REWRITE (R235): After a module reset or takeover, unconsumed committed completions are rewritten. -/
  | completionRewrite (ctx stream seq : Nat)
  /-- CQ_CONSUMED_WRITE (R221): A write of CQ_CONSUMED frees ring space, letting waiting completions proceed. -/
  | cqConsumedWrite (ctx stream value : Nat)
  /-- LW_ENABLE (R238): Writing LW_CTL.EN enables or disables record acceptance on a stream. -/
  | lwEnable (writer ctx stream value : Nat)
  /-- CONTROL_TAKEOVER (R34): The other harbour die's control processors take over after the active die fails. -/
  | controlTakeover
  /-- ADMIT (R270): Serving command claiming the lowest free slot for a new request. -/
  | admitRequest (ctx stream seq : Nat)
  /-- CANCEL (R263): Serving command ending a request at once or at the next step boundary. -/
  | cancel (ctx stream seq : Nat)
  /-- PAUSE (R264): Serving command moving a decode request's KV pages to the host tier. -/
  | pause (ctx stream seq : Nat)
  /-- RESUME (R266): Serving command copying a paused request's pages back and checking their CRCs. -/
  | resume (ctx stream seq : Nat)
  /-- ADAPTER_INSTALL (R267): Serving command making an adapter image the adapter's current generation. -/
  | adapterInstall (ctx stream seq : Nat)
  /-- ADAPTER_RETIRE (R268): Serving command stopping new bindings of an adapter. -/
  | adapterRetire (ctx stream seq : Nat)
  /-- STEP_FORM (R252): The step planner fills, estimates and trims the next serving step of a context. -/
  | stepForm (ctx : Nat)
  /-- STEP_TASK_START (R249): The next task of the step program starts once the previous one has ended everywhere. -/
  | stepTaskStart (ctx : Nat)
  /-- SAMPLER_RUN (R255): After the last task the sampler draws tokens and accepts speculative guesses. -/
  | samplerRun (ctx : Nat)
  /-- STEP_BOUNDARY (R259): The step's outcomes commit as one module-formed commit group. -/
  | stepBoundary (ctx : Nat)
  /-- KV_POOL_EXHAUSTED (R247): After 64 steps without pages, the most recently admitted decode request ends. -/
  | kvPoolExhausted (ctx : Nat)
  /-- PAUSE_COPY_COMPLETE (R264): The pause copy completes, freeing pages and committing the pause. -/
  | pauseCopyComplete (ctx slot : Nat)
  /-- RESUME_COPY_COMPLETE (R266): The resume copy completes and the request returns to decode or ends corrupt. -/
  | resumeCopyComplete (ctx slot : Nat)
  /-- PAUSE_EXPIRY (R265): A paused request whose deadline passes is freed and an expired event written. -/
  | pauseExpiry (ctx slot : Nat)
  /-- ADAPTER_FREED (R268): An adapter copy no longer bound is freed and an adapter-freed event written. -/
  | adapterFreed (ctx copy : Nat)
  /-- REQUEST_EVENT_WRITE (R273): A committed request event is written to the context's event ring once space allows. -/
  | requestEventWrite (ctx : Nat)
  /-- SERVING_ENABLE (R274): Writing SRV_CTL.EN starts or stops step formation for the context. -/
  | servingEnable (ctx value : Nat)
  /-- SERVING_STATE_ENABLE (R275): Writing SPL_CTL.EN checks and locks the serving state area placement. -/
  | servingStateEnable (value : Nat)
  /-- STAGE_RUN (R283): Learning record running a stage program's micro-batch schedule. -/
  | stageRun (ctx stream seq : Nat)
  /-- STAGE_UNIT_START (R284): The next forward or backward unit starts once its predecessor committed and its receive completed. -/
  | stageUnitStart (run : Nat)
  /-- STAGE_ENTRY_START (R284): The next list entry of a unit starts after the previous entry has committed. -/
  | stageEntryStart (run : Nat)
  /-- QUANT_CHECK (R302): At a QUANT entry's commit point its statistics are checked and it falls back if exceeded. -/
  | quantCheck (run : Nat)
  /-- HAND_OFF (R294): After the HANDOFF entry of micro-batch M−1 commits, the layer's reduction is issued. -/
  | handOff (run : Nat)
  /-- STEP_OUT_OF_ORDER (R278): A record waiting on a seal with no reachable predecessor commits with step out of order. -/
  | stepOutOfOrder (ctx stream seq : Nat)
  /-- SEAL (R337): Learning record voting on the commit of a step across the training group. -/
  | seal (ctx stream seq : Nat)
  /-- SEAL_VOTE (R338): The member makes its commit or abort vote durable and sends it to rank 0. -/
  | sealVote (ctx tgroup : Nat)
  /-- SEAL_DECIDE (R339): Rank 0 decides commit or abort and sends the decision to every member. -/
  | sealDecide (ctx tgroup : Nat)
  /-- SEAL_APPLY (R339): A member applies a received seal decision as one commit group. -/
  | sealApply (ctx tgroup : Nat)
  /-- SEAL_TIMEOUT (R340): A voted member without a decision queries every member and resolves the seal. -/
  | sealTimeout (ctx tgroup : Nat)
  /-- SEAL_QUERY (R340): A member asked for its seal state answers, recording an abort vote if it had not voted. -/
  | sealQuery (island : Nat)
  /-- SEAL_ABORT (R341): Learning record making this module vote abort on a seal. -/
  | sealAbort (ctx stream seq : Nat)
  /-- BIND (R336): Learning record binding or rebinding a training group descriptor. -/
  | bind (ctx stream seq : Nat)
  /-- PUBLISH (R334): Learning record marking a new preconditioner root generation pending. -/
  | publish (ctx stream seq : Nat)
  /-- ALL_REDUCE (R312): Collective operation combining contributions canonically and delivering all elements to every member. -/
  | allReduce (ctx stream seq : Nat)
  /-- REDUCE_SCATTER (R312): Collective operation delivering each member its own combined range. -/
  | reduceScatter (ctx stream seq : Nat)
  /-- ALL_GATHER (R312): Collective operation gathering every member's own range to all. -/
  | allGather (ctx stream seq : Nat)
  /-- BROADCAST (R312): Collective operation sending rank 0's tensor to every member. -/
  | broadcast (ctx stream seq : Nat)
  /-- RECEIVE (R312): Collective operation landing posted chunks at the destination. -/
  | receive (ctx stream seq : Nat)
  /-- REDUCE_UPDATE_GATHER (R312): Collective operation reducing gradients, running the update pipe and gathering working weights. -/
  | reduceUpdateGather (ctx stream seq : Nat)
  /-- COLLECTIVE_ABORT (R326): Library abort closing the collective named by TAG on every member. -/
  | collectiveAbort (ctx stream seq : Nat)
  /-- CHUNK_SEND (R316): An engine sends a data chunk once credit for it is held. -/
  | chunkSend (island : Nat)
  /-- DATA_CHUNK_RECEIVE (R318): A receiver verifies a data chunk and lands, combines or forwards it and acknowledges or nacks. -/
  | dataChunkReceive (island : Nat)
  /-- CREDIT_RECEIVE (R316): A credit message arrives and is used, kept early, or answered not open. -/
  | creditReceive (island : Nat)
  /-- ACK_RECEIVE (R318): An acknowledgement releases the sender's verified copy of a chunk. -/
  | ackReceive (island : Nat)
  /-- NACK_RECEIVE (R318): A nack makes the hop sender replay the chunk with ATTEMPT increased. -/
  | nackReceive (island : Nat)
  /-- NOT_OPEN_RECEIVE (R316): A not-open answer makes the receiver grant again after RETRY. -/
  | notOpenReceive (island : Nat)
  /-- CREDIT_REGRANT (R316): After COL_CTL.RETRY the receiver grants credit again. -/
  | creditRegrant (island : Nat)
  /-- ABORT_RECEIVE (R326): An abort message closes the collective on this member, or is dropped if not open. -/
  | abortReceive (island : Nat)
  /-- RESYNC_RECEIVE (R327): A resync makes a member drop old-epoch chunks and resend to the resyncing engine. -/
  | resyncReceive (island : Nat)
  /-- CHUNK_ACK_TIMEOUT (R319): A chunk unanswered within ACK_TIMEOUT is sent again with the same ATTEMPT. -/
  | chunkAckTimeout (island ctx tag chunk lo log dfab : Nat)
  /-- CHUNK_RELAY (R324): An intermediate module verifies and forwards a relayed chunk by its direct entry. -/
  | chunkRelay (island : Nat)
  /-- COLLECTIVE_CLOSE (R313): A collective closes on an engine once all chunks are landed and acknowledged. -/
  | collectiveClose (ctx tag island : Nat)
  /-- COLLECTIVE_REOPEN (R327): After a reset an engine reopens its collectives with a new epoch and sends resync. -/
  | collectiveReopen (island : Nat)
  /-- UPDATE_TILE (R332): The update pipe computes a tile's new state and working weights into the alternate half. -/
  | updateTile (island : Nat)
  /-- LOAD (R353): Weight operation reading, hashing and verifying a manifest's shards, or repairing or updating in place. -/
  | load (ctx stream seq : Nat)
  /-- SWITCH (R358): Weight operation moving the serving pointer at the next step boundary. -/
  | switch (ctx stream seq : Nat)
  /-- DROP (R360): Weight operation freeing a ready generation. -/
  | drop (ctx stream seq : Nat)
  /-- VERIFY (R369): Weight operation hashing every shard of a generation. -/
  | verify (ctx stream seq : Nat)
  /-- PIN (R368): Weight operation pinning a model against eviction. -/
  | pin (ctx stream seq : Nat)
  /-- UNPIN (R368): Weight operation unpinning a model. -/
  | unpin (ctx stream seq : Nat)
  /-- CHECKPOINT_WRITE (R437): Weight operation writing HBM bytes to a storage target with a digest. -/
  | checkpointWrite (ctx stream seq : Nat)
  /-- SHARD_ARRIVAL_HASH (R353): A shard's storage bytes arrive and are hashed and compared with DIGEST. -/
  | shardArrivalHash (ctx stream seq shard : Nat)
  /-- INPLACE_LAYER_WRITE (R361): One layer of an in-place update is staged, verified and copied over the serving copy. -/
  | inplaceLayerWrite (ctx stream seq : Nat)
  /-- DIGEST_WALK (R355): The periodic walk hashes a resident shard and marks it invalid on mismatch. -/
  | digestWalk (ctx : Nat) (image : Bool) (model slot index : Nat)
  /-- TIERED_LAYER_STAGE (R366): A tiered layer is staged into HBM and hashed on arrival. -/
  | tieredLayerStage (ctx model layer : Nat)
  /-- MODEL_EVICT (R367): Evictable models are freed in order of last use until an operation fits. -/
  | modelEvict (ctx : Nat)
  /-- GENERATION_FREE (R359): A retained generation no longer bound or used is freed at a boundary. -/
  | generationFree (ctx model slot : Nat)
  /-- TURN (R372): Turn record opening a turn transaction that re-lays weights and changes roles and fabric. -/
  | turn (ctx stream seq : Nat)
  /-- TURN_RELAY_DONE (R374): All local map entries are sent, acknowledged and received, so the turn enters Quiet. -/
  | turnRelayDone
  /-- TURN_QUIET_DONE (R374): Every step in flight has committed, ending Quiet. -/
  | turnQuietDone
  /-- TURN_GO (R409): Writing TURN_GO ends Fabric wait and forces the named straits to retrain. -/
  | turnGo (ctx value : Nat)
  /-- TURN_RETRAIN_DONE (R374): Every named strait reports a peer and ROUTE is loaded. -/
  | turnRetrainDone
  /-- TURN_VOTE (R376): The member votes on the turn as for a seal. -/
  | turnVote
  /-- TURN_APPLY (R377): The turn decision is applied as one commit group. -/
  | turnApply
  /-- TURN_TIMEOUT (R376): A turn voter without a decision resolves under the seal timeout rules using TURN_TIMEOUT. -/
  | turnTimeout
  /-- BUILT_DIGEST_RECORD (R379): After a turn commits each built shard is hashed and its digest written. -/
  | builtDigestRecord (ctx model slot shard : Nat)
  /-- STRAIT_LIGHT_DETECT (R386): Light on 8 or more receive lanes moves a dark strait to lock. -/
  | straitLightDetect (strait lanes : Nat)
  /-- STRAIT_LOCK (R386): Enough lanes locked at good error ratio moves the strait to deskew. -/
  | straitLock (strait lanes : Nat)
  /-- STRAIT_DESKEW (R386): Lane identifiers read and skew removed moves the strait to ident. -/
  | straitDeskew (strait : Nat) (skew oma : List Nat)
  /-- IDENTITY_FRAME (R387): An identity frame is received during ident. -/
  | identityFrame (strait : Nat) (frame : List (BitVec 8))
  /-- STRAIT_CHECK (R388): The peer identity is checked and the strait goes up or refused. -/
  | straitCheck (strait : Nat)
  /-- STRAIT_STATE_BOUND_EXPIRY (R386): A lock, deskew or ident bound passes and the strait falls back. -/
  | straitStateBoundExpiry (strait : Nat)
  /-- STRAIT_RETRAIN (R394): A retrain trigger moves an up strait back to lock. -/
  | straitRetrain (strait : Nat)
  /-- STRAIT_RETRAIN_GO (R394): Writing STR_RETRAIN.GO forces the strait to retrain. -/
  | straitRetrainGo (strait value : Nat)
  /-- STRAIT_ENABLE (R386): Writing STR_CTL.EN enables the strait to train or disables it. -/
  | straitEnable (strait value : Nat)
  /-- DATA_FRAME_RECEIVE (R392): A data frame is accepted in order or dropped with one nack. -/
  | dataFrameReceive (strait : Nat) (frame : List (BitVec 8))
  /-- NACK_FRAME_RECEIVE (R393): A nack frame makes the sender resend every frame after the one named. -/
  | nackFrameReceive (strait : Nat) (frame : List (BitVec 8))
  /-- IDLE_FRAME_RECEIVE (R397): An idle frame updates acknowledgements and credit. -/
  | idleFrameReceive (strait : Nat) (frame : List (BitVec 8))
  /-- RETRAIN_REQUEST_FRAME (R394): A retrain-request frame with good CRC makes the strait retrain. -/
  | retrainRequestFrame (strait : Nat) (frame : List (BitVec 8))
  /-- FRAME_REPLAY_TIMEOUT (R393): No ACK advance within REPLAY_TIMEOUT resends from the oldest unacknowledged frame. -/
  | frameReplayTimeout (strait : Nat)
  /-- FRAME_SEND (R397): A frame is sent on a virtual channel once its credit covers it. -/
  | frameSend (strait : Nat)
  /-- ROUTE_LOAD (R405): Writing RT_CTL.LOAD loads and checks a route image. -/
  | routeLoad (value : Nat)
  /-- RT_ENTRY_WRITE (R406): A write of RT_ENTRY replaces one route entry if it passes the checks. -/
  | rtEntryWrite (value : Nat)
  /-- FAB_LOCK (R399): Writing FAB_LOCK.LOCK locks FAB_ID and FAB_SYSTEM. -/
  | fabLock (value : Nat)
  /-- CW_SIGNAL_DETECT (R417): Signal on 8 or more lanes moves the Causeway from Detect to Lock. -/
  | cwSignalDetect (lanes : Nat)
  /-- CW_LOCK (R417): Enough lanes locked moves the Causeway to Align. -/
  | cwLock (lanes : Nat)
  /-- CW_ALIGN (R416): Lane order and skew are resolved and the link enters Config. -/
  | cwAlign (order : Nat)
  /-- CW_CONFIG (R418): Width agreed and RESUME exchanged, the link becomes Active, resuming or restarting. -/
  | cwConfig
  /-- CW_STATE_BOUND_EXPIRY (R417): A Lock, Align or Config bound passes and the link falls back. -/
  | cwStateBoundExpiry
  /-- CW_RETRAIN (R418): A retrain trigger moves the Active link to Lock. -/
  | cwRetrain
  /-- CW_RETRAIN_WRITE (R418): Writing CW_CTL.RETRAIN forces the Causeway to retrain. -/
  | cwRetrainWrite (value : Nat)
  /-- CAUSEWAY_PACKET_RECEIVE (R423): A packet is accepted in SEQ order or dropped with one NACK. -/
  | causewayPacketReceive (packet : List (BitVec 8))
  /-- LINK_CONTROL_RECEIVE (R426): A link-control packet delivers NACK, credit, CONFIG and RESUME fields. -/
  | linkControlReceive (packet : List (BitVec 8))
  /-- LINK_CONTROL_SEND (R426): A link-control packet is sent every 1 µs while Active and on each READY change. -/
  | linkControlSend
  /-- CW_REPLAY_TIMEOUT (R423): No ACK advance within REPLAY_TIMEOUT resends every unacknowledged packet. -/
  | cwReplayTimeout
  /-- REGISTER_READ_PACKET (R421): A host register read is checked for reachability and answered with a read response. -/
  | registerReadPacket (ctx tag off len : Nat)
  /-- REGISTER_WRITE_PACKET (R421): A host register write is applied or dropped under the access rules. -/
  | registerWritePacket (ctx off : Nat) (data : List (BitVec 8))
  /-- MEMORY_READ (R421): A host memory read is translated and answered with data or a status. -/
  | memoryRead (ctx tag addr len : Nat)
  /-- MEMORY_WRITE (R421): A host memory write is translated and performed, or dropped. -/
  | memoryWrite (ctx addr : Nat) (data : List (BitVec 8))
  /-- READ_RESPONSE (R422): A host read response returns data for the module's host memory read, or fails its operation. -/
  | readResponse (tag status : Nat) (data : List (BitVec 8))
  /-- STORAGE_COMMAND_COMPLETE (R436): An NVMe command completes, or fails and is reissued up to four times. -/
  | storageCommandComplete (port num sct sc : Nat) (dnr : Bool) (data : List (BitVec 8))
  /-- QUEUE_PAIR_FAIL (R436): A failed queue pair is reconnected and its held commands reissued. -/
  | queuePairFail (port target queue : Nat) (refused : Bool)
  /-- STORAGE_ACK_TIMEOUT (R436): The local ACK timeout of a queue pair expires and transport retry follows. -/
  | storageAckTimeout (port target queue : Nat)
  /-- CE_MARKED_RECEIVE (R432): A CE-marked packet causes at most one congestion notification per 50 µs. -/
  | ceMarkedReceive (port target queue : Nat)
  /-- CNP_RECEIVE (R432): A congestion notification halves the queue pair's send rate. -/
  | cnpReceive (port target queue : Nat)
  /-- RATE_RESTORE (R432): Each 55 µs without a notification restores 5 % of line rate. -/
  | rateRestore (port target queue : Nat)
  /-- KEEP_ALIVE (R435): A Keep Alive command is sent every 5 s to each open target. -/
  | keepAlive (port target : Nat)
  /-- ARP_ND_REQUEST (R430): An ARP or Neighbor Discovery request for the port's address is answered. -/
  | arpNdRequest (port : Nat) (ipv6 : Bool) (addr : Nat)
  /-- STORAGE_PACKET_DROP (R431): A packet for an unknown queue pair or unsupported operation is dropped. -/
  | storagePacketDrop (port target queue : Nat) (unsupported : Bool)
  /-- STORAGE_ENABLE (R439): Writing STO_CTL.EN enables the port or closes every queue pair. -/
  | storageEnable (port value : Nat)
  /-- STATUS (R441): SMBus command returning the module status word. -/
  | status (pec : Bool)
  /-- POWERED_TIME (R441): SMBus command returning the powered-time counter. -/
  | poweredTime (pec : Bool)
  /-- TEMP_MAX (R441): SMBus command returning the hottest sensor reading. -/
  | tempMax (pec : Bool)
  /-- INPUT_POWER (R441): SMBus command returning the 48 V input power. -/
  | inputPower (pec : Bool)
  /-- INPUT_VOLTAGE (R441): SMBus command returning the 48 V input voltage. -/
  | inputVoltage (pec : Bool)
  /-- POWER_CAP (R441): SMBus command reading or writing the module input cap. -/
  | powerCap (pec : Bool) (write : Option Nat)
  /-- SMBUS_RESET_HOLD (R442): SMBus RESET 0xA5 holds module reset. -/
  | smbusResetHold (pec : Bool)
  /-- SMBUS_RESET_CLEARING (R442): SMBus RESET 0xC3 holds clearing module reset. -/
  | smbusResetClearing (pec : Bool)
  /-- SMBUS_RESET_RELEASE (R442): SMBus RESET 0x00 releases the SMBus hold of module reset. -/
  | smbusResetRelease (pec : Bool)
  /-- STANDBY_ENTER (R509): SMBus STANDBY 0x5A enters module standby. -/
  | standbyEnter (pec : Bool)
  /-- STANDBY_LEAVE (R509): SMBus STANDBY 0x00 leaves module standby. -/
  | standbyLeave (pec : Bool)
  /-- ALERT_STATUS (R441): SMBus command reading or clearing alert bits. -/
  | alertStatus (pec : Bool) (write : Option Nat)
  /-- ALERT_MASK (R441): SMBus command reading or writing the alert mask. -/
  | alertMask (pec : Bool) (write : Option Nat)
  /-- LOG_INDEX (R441): SMBus command selecting the sticky-log entry for LOG_READ. -/
  | logIndex (pec : Bool) (value : Nat)
  /-- LOG_READ (R441): SMBus command returning the selected sticky-log entry. -/
  | logRead (pec : Bool)
  /-- IDENTITY (R441): SMBus command returning the digest of the identity public key. -/
  | identity (pec : Bool)
  /-- FW_DIGEST (R441): SMBus command returning the digest of the running firmware. -/
  | fwDigest (pec : Bool)
  /-- FABRIC_ID (R441): SMBus command returning FAB_ID. -/
  | fabricId (pec : Bool)
  /-- BYPASS (R443): TAP instruction selecting the bypass register. -/
  | bypass
  /-- IDCODE (R443): TAP instruction selecting the identification register. -/
  | idcode
  /-- SAMPLE_PRELOAD (R443): TAP instruction sampling or preloading the boundary register. -/
  | samplePreload (pins preload : List Bool)
  /-- EXTEST (R443): TAP instruction driving connector pins from the boundary register under module reset. -/
  | extest
  /-- CLAMP (R443): TAP instruction clamping outputs under module reset. -/
  | clamp
  /-- HIGHZ (R443): TAP instruction placing outputs in high impedance under module reset. -/
  | highz
  /-- LANE_LB (R443): TAP instruction looping back each Causeway lane with PRBS31 and reporting pass bits. -/
  | laneLb (detached far : Nat)
  /-- TAP_RESET (R443): TRST_N low or Test-Logic-Reset returns the TAP controller to IDCODE. -/
  | tapReset
  /-- STANDBY_GOOD (R446): Standby 3.3 V rises above its good level, starting a cold power-up. -/
  | standbyGood
  /-- STANDBY_LOSS (R553): Loss of standby is a power cycle that drops the 48 V load and loses all state. -/
  | standbyLoss
  /-- MAIN_INPUT_GOOD (R552): The 48 V input stays above 44 V for 10 ms and becomes good. -/
  | mainInputGood (mv : Nat)
  /-- INPUT_UV (R466): The 48 V input stays below 42 V for 20 µs, holding admission and lowering islands. -/
  | inputUv (mv : Nat)
  /-- INPUT_UV_RESET (R466): The 48 V input stays below 38 V for 20 µs, holding module reset. -/
  | inputUvReset (mv : Nat)
  /-- MAIN_INPUT_LOSS (R466): The 48 V input falls below 30 V and HBM and the journal are lost. -/
  | mainInputLoss (mv : Nat)
  /-- INPUT_RECOVERY (R466): The input stays above 44 V for the required time and the undervoltage holds release. -/
  | inputRecovery (mv ms : Nat)
  /-- MOD_RST_N_ASSERT (R556): MOD_RST_N held low for 1 µs requests module reset. -/
  | modRstNAssert
  /-- MOD_RST_N_RELEASE (R509): MOD_RST_N release ends that source's hold of module reset. -/
  | modRstNRelease
  /-- CABLE_UNPLUG (R558): Loss of signal on every Causeway lane makes the link retrain and wait in Detect. -/
  | cableUnplug
  /-- OPERATING_POINT_CHANGE (R449): An island ramps its rail and switches its divider to a new operating point. -/
  | operatingPointChange (island : Nat)
  /-- PLANNER_TICK (R463): Every 100 µs the planner chooses each running island's operating point. -/
  | plannerTick (watts : Nat) (miss : List Nat)
  /-- CAP_EXCEEDED (R462): Module input over the cap lowers an island's point every 100 µs, then pauses tasks. -/
  | capExceeded (watts : Nat)
  /-- ADMISSION_CHECK (R461): Every 10 µs waiting units are checked against the energy budgets and admitted. -/
  | admissionCheck
  /-- BUDGET_PAUSE (R462): A context over 1.25 times its 1 ms budget has its tasks paused under energy hold. -/
  | budgetPause (ctx : Nat)
  /-- BUDGET_RESUME (R462): A paused context's tasks resume once used(1 ms) is within its budget. -/
  | budgetResume (ctx : Nat)
  /-- LEDGER_ATTRIBUTE (R455): Each 10 µs interval's metered energy is attributed to contexts and classes. -/
  | ledgerAttribute (parts : List Attr)
  /-- ISLAND_SLEEP (R452): An island quiet for SLEEP_US is put to sleep. -/
  | islandSleep (island : Nat)
  /-- ISLAND_OFF (R452): An idle island quiet for OFF_MS is put off after its stack enters self-refresh. -/
  | islandOff (island : Nat)
  /-- ISLAND_WAKE (R453): A sleeping or off island is woken and its profile re-applied. -/
  | islandWake (island : Nat)
  /-- UNCORE_WAKE (R453): An access to an off island's stack brings up its uncore. -/
  | uncoreWake (island : Nat)
  /-- ISLAND_FORCE (R454): Writing ISL_PWR_CTL.FORCE overrides the planner's power choice. -/
  | islandForce (island value : Nat)
  /-- WAKE (R454): Writing ISL_CTL.WAKE starts a wake of the island. -/
  | wake (island value : Nat)
  /-- RAIL_DIP (R465): The core rail crossing the warning level holds starts and stretches the clock. -/
  | railDip (island mv : Nat)
  /-- RAIL_DIP_RELEASE (R465): The rail stays above release for 10 µs and hold and stretch are released. -/
  | railDipRelease (island mv : Nat)
  /-- RAIL_RESET (R465): The core rail crossing the reset level starts an island reset. -/
  | railReset (island mv : Nat)
  /-- THERMAL_WARN (R468): A sensor crossing its warning level raises the thermal warning. -/
  | thermalWarn (sensor reading : Nat)
  /-- THERMAL_THROTTLE (R468): A sensor at throttle lowers islands, halves HBM bandwidth or stops admission. -/
  | thermalThrottle (sensor reading : Nat)
  /-- THROTTLE_STEP (R468): Every 1 ms a throttled island is lowered by one code until it cools. -/
  | throttleStep (island : Nat) (readings : List Nat)
  /-- THERMAL_TRIP (R468): A sensor at trip holds module reset or disables an optical engine's strait. -/
  | thermalTrip (sensor reading : Nat)
  /-- THERMAL_TRIP_RELEASE (R468): Sensors 10 °C below warning release the trip. -/
  | thermalTripRelease (sensor reading : Nat)
  /-- CORRECTED_ERROR (R476): An access finding a correctable error uses the corrected value and counts it. -/
  | correctedError (e : ErrAt) (row : Nat)
  /-- CORRECTED_WRITE_BACK (R476): The corrected word is written back when its bank or controller is free. -/
  | correctedWriteBack (mem unit addr : Nat)
  /-- UNCORRECTABLE_ERROR (R478): An uncorrectable error poisons the word or resets the island or module. -/
  | uncorrectableError (e : ErrAt) (row : Nat)
  /-- POISON_READ (R479): A read returning poison fails, aborts or recovers its reader. -/
  | poisonRead (reader : PoisonReader) (addr : Nat)
  /-- SCRUB_WALK (R482): The scrubber reads the next word of a memory at its period. -/
  | scrubWalk (island : Nat) (hbm : Bool)
  /-- SCRUB_PASS_END (R483): A scrub pass completes, emptying the row table and flagging lateness. -/
  | scrubPassEnd (island : Nat) (hbm late : Bool)
  /-- STACK_LOST (R487): A stack is declared lost and every access to it returns poison. -/
  | stackLost (stack cause : Nat)
  /-- STACK_EXCLUDE (R487): Writing MEM_CTL.EXCLUDE declares the stack lost. -/
  | stackExclude (stack value : Nat)
  /-- REPAIR_TEST (R486): REP_CTL.CMD 0b01 runs the island's field repair test. -/
  | repairTest (island : Nat) (found : List Defect)
  /-- REPAIR_BURN (R486): REP_CTL.CMD 0b10 burns the entries the test found, or is refused. -/
  | repairBurn (island : Nat)
  /-- MONITOR_SAMPLE (R492): A selected signal's sample updates its monitor unit's results. -/
  | monitorSample (x : Sample) (ctx : Option Nat)
  /-- MONITOR_PERIODIC (R491): Every MON_INTERVAL µs periodic signals are sampled. -/
  | monitorPeriodic (unit : Nat) (measured : Int)
  /-- SNAP (R493): MON_CMD SNAP copies the selected unit's results to its snapshot. -/
  | snap
  /-- CLEAR (R493): MON_CMD CLEAR zeroes the selected unit's results. -/
  | clear
  /-- MON_CFG_WRITE (R493): Writing MON_CFG configures the unit and clears its results. -/
  | monCfgWrite (value : Nat)
  /-- MODULE_RESET (R510): A module reset stops the module, puts HBM in self-refresh and holds while any source holds. -/
  | moduleReset (source : Hold) (clearing : Bool)
  /-- MODULE_RESET_RELEASE (R510): On release the firmware boots, recovers the journal and signals readiness. -/
  | moduleResetRelease
  /-- MOD_RESET_GO (R509): Writing MOD_RESET.GO starts a module reset, clearing if CLEAR is set, held 1 ms. -/
  | modResetGo (value : Nat)
  /-- MOD_RESET_HOLD_EXPIRY (R509): The 1 ms hold of a register- or error-started module reset ends. -/
  | modResetHoldExpiry
  /-- ISLAND_RESET (R511): An island stops, zeroes its SRAMs, resets its pages and retrains its strait. -/
  | islandReset (island : Nat)
  /-- MOD_ISL_RESET (R509): Writing MOD_ISL_RESET starts island resets of the named islands. -/
  | modIslReset (value : Nat)
  /-- CONTEXT_RESET (R512): A context reset stops its tasks, aborts its shared operations and ends its records. -/
  | contextReset (ctx : Nat)
  /-- CTX_RESET_GO (R509): Writing CTX_RESET.GO starts a context reset. -/
  | ctxResetGo (ctx value : Nat)
  /-- CTX_ENABLE (R498): Writing CTX_CTL.EN enables a context, or with 0 starts its reset. -/
  | ctxEnable (ctx value : Nat)
  /-- TEST_LOCK (R500): Writing MOD_TEST.LOCK clears test-enable and holds it at 0. -/
  | testLock (value : Nat)
  /-- TT_INVALIDATE (R505): Writing CTX_TT_INV.GO invalidates cached translations of a page or context. -/
  | ttInvalidate (ctx value : Nat)
  /-- TRANSLATION_WALK (R503): A translation walk resolves an address or raises a fault with a cause. -/
  | translationWalk (ctx dva agent island : Nat) (wr spec demand : Bool)
  /-- VECTOR_RAISE (R507): A module vector raised sends a message or sets PENDING if masked. -/
  | vectorRaise (vector : Nat)
  /-- VECTOR_UNMASK (R507): Clearing MASK with PENDING set sends one message. -/
  | vectorUnmask (vector value : Nat)
  /-- EVENT_ROUTE_MESSAGE (R508): A page's enabled cause turning non-zero sends its routed message. -/
  | eventRouteMessage (cls inst event : Nat)
  /-- EVT_TEST (R539): Writing CTL.EVT_TEST raises the named event of the page with test permission. -/
  | evtTest (ctx cls inst value : Nat)
  /-- QOS_ARBITRATE (R518): An arbitration point serves the waiting context of smallest virtual time. -/
  | qosArbitrate (point : Nat) (waiting : List (Nat × Nat)) (cost : Nat)
  /-- QOS_AGE (R518): A unit waiting a full QOS_AGE rises one priority class. -/
  | qosAge (ctx stream seq : Nat)
  /-- BOOT_CHAIN (R525): The boot ROM and firmware check and measure a bank's images and accept or reject it. -/
  | bootChain
  /-- INSTALL (R530): FW_CTL.INSTALL writes, checks and marks valid a new image set in the other bank. -/
  | install
  /-- ADVANCE (R531): FW_CTL.ADVANCE blows SVN fuses up to the requested value, or is refused. -/
  | advance
  /-- ERASE_ALT (R531): FW_CTL.ERASE_ALT clears the other bank's validity mark. -/
  | eraseAlt
  /-- REVOKE (R531): FW_CTL.REVOKE blows the revocation fuse of a key slot, or is refused. -/
  | revoke
  /-- ATTESTATION_REPORT (R532): Writing ATT_CTL.GO makes the firmware write a signed attestation report. -/
  | attestationReport (value : Nat)
  /-- SHADOW_CTL_WRITE (R117): Writing SHADOW_CTL sets the shadow rate, reserving or releasing shadow regions. -/
  | shadowCtlWrite (island value : Nat)
  /-- HI_HALF_WRITE (R542): A write of a _HI half applies it with any staged _LO half of a 64-bit value. -/
  | hiHalfWrite (ctx off value : Nat)
  /-- LO_HALF_READ (R543): A read of a _LO half latches the _HI half for the next read from the context. -/
  | loHalfRead (ctx tag off : Nat)
  /-- CLEAR_ON_READ (R17): A read of an RC field returns its value and clears it without losing arriving counts. -/
  | clearOnRead (ctx tag off : Nat)
  /-- GENERIC_REGISTER_WRITE (R17): A write to a register without behaviour of its own acts by its access codes. -/
  | genericRegisterWrite (ctx off value : Nat)
  /-- STRAIT_LIGHT_LOST (R386): A refused strait that loses light on every lane returns to dark. -/
  | straitLightLost (strait : Nat)
  /-- FAB_ID_WRITE (R386): A write of FAB_ID or FAB_SYSTEM returns every refused strait to dark. -/
  | fabIdWrite (system : Bool) (value : Nat)
  /-- SRV_EVQ_CONSUMED_WRITE (R273): A write of SRV_EVQ_CONSUMED frees event-ring space so waiting request events are written. -/
  | srvEvqConsumedWrite (ctx value : Nat)
  /-- STORAGE_LINK_DOWN (R439): The Ethernet link of a storage port goes down, clearing STO_STAT.LINK and raising LINK_DOWN. -/
  | storageLinkDown (port : Nat)
  /-- STORAGE_LINK_UP (R439): The Ethernet link of a storage port comes up and STO_STAT.LINK reads 1. -/
  | storageLinkUp (port : Nat)
  /-- RDMA_READ_REQUEST (R437): A target's RDMA READ request fetches checkpoint bytes from module memory, which are hashed as they leave. -/
  | rdmaReadRequest (port num off len : Nat)
  /-- PRIORITY_FLOW_CONTROL_FRAME (R430): A priority-based flow control frame on the configured priority pauses or resumes the port's transmission. -/
  | priorityFlowControlFrame (port prio : Nat) (pause : Bool)
  /-- THERMAL_THROTTLE_RELEASE (R468): A harbour-die or HBM sensor falls back below its throttle level, ending the admission stop or bandwidth limit. -/
  | thermalThrottleRelease (sensor reading : Nat)
  /-- CAUSEWAY_HARDWARE_FAILURE (R35): The Causeway hardware of harbour die 0 fails and the Causeway becomes unavailable. -/
  | causewayHardwareFailure
  /-- STORAGE_PORT_HARDWARE_FAILURE (R35): The storage-port hardware of harbour die 1 fails and the storage ports become unavailable. -/
  | storagePortHardwareFailure
deriving DecidableEq, Repr

end Sys2Proof
end

