-- ==== Sys2Proof/Word.lean ====
section
/-! DEFINITION. The words the spec moves: bytes, 32-bit register words and 64-bit scalar words
(R10, R11, R535, R172). -/
namespace Sys2Proof

/-- One byte. -/
abbrev Byte := BitVec 8

/-- One 32-bit register of the aperture (R535). -/
abbrev W32 := BitVec 32

/-- One 64-bit scalar register or instruction word (R168, R172). -/
abbrev W64 := BitVec 64

end Sys2Proof
end

