-- ==== Sys2Proof/Decode.lean ====
section
/-! DEFINITION. Words of the table, and the instruction words of a cay: how they are laid out (R168 to R171, R178 to R181, R192). -/
namespace Sys2Proof

/-- The command that a word of the table spells. The table gives none of its rows any bits, so no word spells a command. -/
def decodeTableWord (_nbits _w : Nat) : Option Instr := none

/-- Bits [hi:lo] of an instruction word. -/
def wordBits (w : W64) (lo n : Nat) : BitVec n := w.extractLsb' lo n

/-- Bits [53:0] of an instruction of format S (R170). -/
def SFields.pack (f : SFields) : BitVec 54 := f.d ++ f.a ++ f.b ++ f.rsv
/-- The fields of an instruction word of format S (R170). -/
def SFields.ofWord (w : W64) : SFields := ⟨wordBits w 49 5, wordBits w 44 5, wordBits w 39 5, wordBits w 0 39⟩

/-- Bits [53:0] of an instruction of format I (R170). -/
def IFields.pack (f : IFields) : BitVec 54 := f.d ++ f.a ++ f.rsv ++ f.imm
/-- The fields of an instruction word of format I (R170). -/
def IFields.ofWord (w : W64) : IFields := ⟨wordBits w 49 5, wordBits w 44 5, wordBits w 32 12, wordBits w 0 32⟩

/-- Bits [53:0] of an instruction of format B (R170). -/
def BFields.pack (f : BFields) : BitVec 54 := f.a ++ f.b ++ f.rsv ++ f.off
/-- The fields of an instruction word of format B (R170). -/
def BFields.ofWord (w : W64) : BFields := ⟨wordBits w 49 5, wordBits w 44 5, wordBits w 32 12, wordBits w 0 32⟩

/-- Bits [53:0] of an instruction of format C (R170). -/
def CFields.pack (f : CFields) : BitVec 54 := f.rsvHi ++ f.a ++ f.rsvMid ++ f.mask ++ f.queued ++ f.engine ++ f.rsvLo
/-- The fields of an instruction word of format C (R170). -/
def CFields.ofWord (w : W64) : CFields := ⟨wordBits w 49 5, wordBits w 44 5, wordBits w 32 12, wordBits w 16 16, wordBits w 15 1, wordBits w 12 3, wordBits w 0 12⟩

/-- Bits [53:0] of an instruction of format V (R170). -/
def VFields.pack (f : VFields) : BitVec 54 := f.d ++ f.a ++ f.b ++ f.c ++ f.k ++ f.dfmt ++ f.sfmt ++ f.rmode ++ f.blk ++ f.rsv
/-- The fields of an instruction word of format V (R170). -/
def VFields.ofWord (w : W64) : VFields := ⟨wordBits w 49 5, wordBits w 44 5, wordBits w 39 5, wordBits w 34 5, wordBits w 29 5, wordBits w 25 4, wordBits w 21 4, wordBits w 19 2, wordBits w 17 2, wordBits w 0 17⟩

/-- Bits [53:0] of an instruction of MCFG (R181). -/
def McfgFields.pack (f : McfgFields) : BitVec 54 := f.shape ++ f.array ++ f.aFmt ++ f.bFmt ++ f.rescale ++ f.rsv
/-- The fields of an instruction word of MCFG (R181). -/
def McfgFields.ofWord (w : W64) : McfgFields := ⟨wordBits w 52 2, wordBits w 50 2, wordBits w 46 4, wordBits w 42 4, wordBits w 40 2, wordBits w 0 40⟩

/-- Bits [53:0] of an instruction of MLDS (R181). -/
def MldsFields.pack (f : MldsFields) : BitVec 54 := f.array ++ f.bank ++ f.a ++ f.rsv
/-- The fields of an instruction word of MLDS (R181). -/
def MldsFields.ofWord (w : W64) : MldsFields := ⟨wordBits w 52 2, wordBits w 51 1, wordBits w 46 5, wordBits w 0 46⟩

/-- Bits [53:0] of an instruction of MISS (R181). -/
def MissFields.pack (f : MissFields) : BitVec 54 := f.array ++ f.bank ++ f.axis ++ f.firstg ++ f.endg ++ f.firstb ++ f.endb ++ f.msk ++ f.gslot ++ f.bslot ++ f.a ++ f.rsv
/-- The fields of an instruction word of MISS (R181). -/
def MissFields.ofWord (w : W64) : MissFields := ⟨wordBits w 52 2, wordBits w 51 1, wordBits w 50 1, wordBits w 49 1, wordBits w 48 1, wordBits w 47 1, wordBits w 46 1, wordBits w 45 1, wordBits w 31 14, wordBits w 17 14, wordBits w 12 5, wordBits w 0 12⟩

/-- Bits [53:0] of an instruction of MSEQ (R181). -/
def MseqFields.pack (f : MseqFields) : BitVec 54 := f.array ++ f.a ++ f.b ++ f.rsv
/-- The fields of an instruction word of MSEQ (R181). -/
def MseqFields.ofWord (w : W64) : MseqFields := ⟨wordBits w 52 2, wordBits w 47 5, wordBits w 42 5, wordBits w 0 42⟩

/-- Bits [53:0] of an instruction of MFIN (R181). -/
def MfinFields.pack (f : MfinFields) : BitVec 54 := f.array ++ f.slot ++ f.rsv
/-- The fields of an instruction word of MFIN (R181). -/
def MfinFields.ofWord (w : W64) : MfinFields := ⟨wordBits w 52 2, wordBits w 38 14, wordBits w 0 38⟩

/-- Bits [53:0] of an instruction of MDRN (R181). -/
def MdrnFields.pack (f : MdrnFields) : BitVec 54 := f.array ++ f.slot ++ f.countM1 ++ f.d ++ f.a ++ f.b ++ f.rsv
/-- The fields of an instruction word of MDRN (R181). -/
def MdrnFields.ofWord (w : W64) : MdrnFields := ⟨wordBits w 52 2, wordBits w 38 14, wordBits w 30 8, wordBits w 25 5, wordBits w 20 5, wordBits w 15 5, wordBits w 0 15⟩

/-- The place of an instruction in the encoding tables (R169, R178 to R181, R192): its group and opcode, with bits [53:0] of its word. A command that is no instruction has none. -/
def Instr.cayWordParts : Instr → Option (Nat × Nat × BitVec 54)
  | .add _ f => some (0, 0x00, f.pack)
  | .sub _ f => some (0, 0x01, f.pack)
  | .and _ f => some (0, 0x02, f.pack)
  | .or _ f => some (0, 0x03, f.pack)
  | .xor _ f => some (0, 0x04, f.pack)
  | .shl _ f => some (0, 0x05, f.pack)
  | .shr _ f => some (0, 0x06, f.pack)
  | .sar _ f => some (0, 0x07, f.pack)
  | .mul _ f => some (0, 0x08, f.pack)
  | .slt _ f => some (0, 0x09, f.pack)
  | .sltu _ f => some (0, 0x0a, f.pack)
  | .addi _ f => some (0, 0x10, f.pack)
  | .andi _ f => some (0, 0x11, f.pack)
  | .ori _ f => some (0, 0x12, f.pack)
  | .shli _ f => some (0, 0x13, f.pack)
  | .shri _ f => some (0, 0x14, f.pack)
  | .lih _ f => some (0, 0x15, f.pack)
  | .srd _ f => some (0, 0x18, f.pack)
  | .ld8 _ f => some (1, 0x00, f.pack)
  | .ld16 _ f => some (1, 0x01, f.pack)
  | .ld32 _ f => some (1, 0x02, f.pack)
  | .ld64 _ f => some (1, 0x03, f.pack)
  | .st16 _ f => some (1, 0x08, f.pack)
  | .st32 _ f => some (1, 0x09, f.pack)
  | .st64 _ f => some (1, 0x0a, f.pack)
  | .ldg32 _ f => some (1, 0x10, f.pack)
  | .ldg64 _ f => some (1, 0x11, f.pack)
  | .stg32 _ f => some (1, 0x18, f.pack)
  | .stg64 _ f => some (1, 0x19, f.pack)
  | .beq _ f => some (2, 0x00, f.pack)
  | .bne _ f => some (2, 0x01, f.pack)
  | .blt _ f => some (2, 0x02, f.pack)
  | .bge _ f => some (2, 0x03, f.pack)
  | .bltu _ f => some (2, 0x04, f.pack)
  | .bgeu _ f => some (2, 0x05, f.pack)
  | .jal _ f => some (2, 0x08, f.pack)
  | .jr _ f => some (2, 0x09, f.pack)
  | .tyld _ f => some (3, 0x00, f.pack)
  | .tbar _ f => some (3, 0x01, f.pack)
  | .nwait _ f => some (3, 0x02, f.pack)
  | .cpost _ f => some (3, 0x03, f.pack)
  | .tend _ f => some (3, 0x08, f.pack)
  | .tdsc _ f => some (3, 0x09, f.pack)
  | .tfail _ f => some (3, 0x0a, f.pack)
  | .cpy _ f => some (4, 0x00, f.pack)
  | .cfen _ f => some (4, 0x01, f.pack)
  | .mcfg _ f => some (5, 0x00, f.pack)
  | .mlds _ f => some (5, 0x01, f.pack)
  | .miss _ f _ => some (5, 0x02, f.pack)
  | .mseq _ f => some (5, 0x03, f.pack)
  | .mfin _ f => some (5, 0x04, f.pack)
  | .mdrn _ f => some (5, 0x05, f.pack)
  | .vadd _ f => some (6, 0x00, f.pack)
  | .vsub _ f => some (6, 0x01, f.pack)
  | .vmul _ f => some (6, 0x02, f.pack)
  | .vfma _ f => some (6, 0x03, f.pack)
  | .vmin _ f => some (6, 0x04, f.pack)
  | .vmax _ f => some (6, 0x05, f.pack)
  | .vabs _ f => some (6, 0x06, f.pack)
  | .vneg _ f => some (6, 0x07, f.pack)
  | .vscl _ f => some (6, 0x08, f.pack)
  | .vcmplt _ f => some (6, 0x09, f.pack)
  | .vcmpeq _ f => some (6, 0x0a, f.pack)
  | .vsel _ f => some (6, 0x0b, f.pack)
  | .vmov _ f => some (6, 0x0c, f.pack)
  | .vexp2 _ f => some (6, 0x10, f.pack)
  | .vlog2 _ f => some (6, 0x11, f.pack)
  | .vrcp _ f => some (6, 0x12, f.pack)
  | .vrsqrt _ f => some (6, 0x13, f.pack)
  | .vsqrt _ f => some (6, 0x14, f.pack)
  | .vcvt _ f => some (7, 0x00, f.pack)
  | .vrsum _ f => some (7, 0x08, f.pack)
  | .vrmax _ f => some (7, 0x09, f.pack)
  | .vldg _ f => some (8, 0x00, f.pack)
  | .vstg _ f => some (8, 0x01, f.pack)
  | _ => none

/-- The instruction word of an instruction (R168 to R170). -/
def Instr.cayWord (i : Instr) : Option W64 :=
  match i.cayWordParts with
  | none => none
  | some (g, o, p) => some (BitVec.ofNat 4 g ++ BitVec.ofNat 6 o ++ p)

/-- The instruction that a word spells on a cay (R168 to R171); none for a reserved group or opcode. `gap` is what MISS carries from outside its word:
the cycles by which other work delays its array. -/
def cayInstr (c : CayRef) (gap : Nat) (w : W64) : Option Instr :=
  match (wordBits w 60 4).toNat, (wordBits w 54 6).toNat with
  | 0, 0 => some (.add c (.ofWord w))
  | 0, 1 => some (.sub c (.ofWord w))
  | 0, 2 => some (.and c (.ofWord w))
  | 0, 3 => some (.or c (.ofWord w))
  | 0, 4 => some (.xor c (.ofWord w))
  | 0, 5 => some (.shl c (.ofWord w))
  | 0, 6 => some (.shr c (.ofWord w))
  | 0, 7 => some (.sar c (.ofWord w))
  | 0, 8 => some (.mul c (.ofWord w))
  | 0, 9 => some (.slt c (.ofWord w))
  | 0, 10 => some (.sltu c (.ofWord w))
  | 0, 16 => some (.addi c (.ofWord w))
  | 0, 17 => some (.andi c (.ofWord w))
  | 0, 18 => some (.ori c (.ofWord w))
  | 0, 19 => some (.shli c (.ofWord w))
  | 0, 20 => some (.shri c (.ofWord w))
  | 0, 21 => some (.lih c (.ofWord w))
  | 0, 24 => some (.srd c (.ofWord w))
  | 1, 0 => some (.ld8 c (.ofWord w))
  | 1, 1 => some (.ld16 c (.ofWord w))
  | 1, 2 => some (.ld32 c (.ofWord w))
  | 1, 3 => some (.ld64 c (.ofWord w))
  | 1, 8 => some (.st16 c (.ofWord w))
  | 1, 9 => some (.st32 c (.ofWord w))
  | 1, 10 => some (.st64 c (.ofWord w))
  | 1, 16 => some (.ldg32 c (.ofWord w))
  | 1, 17 => some (.ldg64 c (.ofWord w))
  | 1, 24 => some (.stg32 c (.ofWord w))
  | 1, 25 => some (.stg64 c (.ofWord w))
  | 2, 0 => some (.beq c (.ofWord w))
  | 2, 1 => some (.bne c (.ofWord w))
  | 2, 2 => some (.blt c (.ofWord w))
  | 2, 3 => some (.bge c (.ofWord w))
  | 2, 4 => some (.bltu c (.ofWord w))
  | 2, 5 => some (.bgeu c (.ofWord w))
  | 2, 8 => some (.jal c (.ofWord w))
  | 2, 9 => some (.jr c (.ofWord w))
  | 3, 0 => some (.tyld c (.ofWord w))
  | 3, 1 => some (.tbar c (.ofWord w))
  | 3, 2 => some (.nwait c (.ofWord w))
  | 3, 3 => some (.cpost c (.ofWord w))
  | 3, 8 => some (.tend c (.ofWord w))
  | 3, 9 => some (.tdsc c (.ofWord w))
  | 3, 10 => some (.tfail c (.ofWord w))
  | 4, 0 => some (.cpy c (.ofWord w))
  | 4, 1 => some (.cfen c (.ofWord w))
  | 5, 0 => some (.mcfg c (.ofWord w))
  | 5, 1 => some (.mlds c (.ofWord w))
  | 5, 2 => some (.miss c (.ofWord w) gap)
  | 5, 3 => some (.mseq c (.ofWord w))
  | 5, 4 => some (.mfin c (.ofWord w))
  | 5, 5 => some (.mdrn c (.ofWord w))
  | 6, 0 => some (.vadd c (.ofWord w))
  | 6, 1 => some (.vsub c (.ofWord w))
  | 6, 2 => some (.vmul c (.ofWord w))
  | 6, 3 => some (.vfma c (.ofWord w))
  | 6, 4 => some (.vmin c (.ofWord w))
  | 6, 5 => some (.vmax c (.ofWord w))
  | 6, 6 => some (.vabs c (.ofWord w))
  | 6, 7 => some (.vneg c (.ofWord w))
  | 6, 8 => some (.vscl c (.ofWord w))
  | 6, 9 => some (.vcmplt c (.ofWord w))
  | 6, 10 => some (.vcmpeq c (.ofWord w))
  | 6, 11 => some (.vsel c (.ofWord w))
  | 6, 12 => some (.vmov c (.ofWord w))
  | 6, 16 => some (.vexp2 c (.ofWord w))
  | 6, 17 => some (.vlog2 c (.ofWord w))
  | 6, 18 => some (.vrcp c (.ofWord w))
  | 6, 19 => some (.vrsqrt c (.ofWord w))
  | 6, 20 => some (.vsqrt c (.ofWord w))
  | 7, 0 => some (.vcvt c (.ofWord w))
  | 7, 8 => some (.vrsum c (.ofWord w))
  | 7, 9 => some (.vrmax c (.ofWord w))
  | 8, 0 => some (.vldg c (.ofWord w))
  | 8, 1 => some (.vstg c (.ofWord w))
  | _, _ => none

end Sys2Proof
end

