-- ==== Sys2Proof/Config.lean ====
section
/-! DEFINITION. What the spec leaves open: free values and functions with no body, so that no proof
can rest on a value of them. The log entry is named at each. -/
namespace Sys2Proof.Config

/-- A value of `w` bits that the spec leaves undefined, fresh for each value of the counter
`State.free` it is applied to (log entry 5). -/
opaque freeBits (w n : Nat) : BitVec w

/-- The offset, in units of the last place, of an approximate vector function from the exact result
(R196 bounds it and fixes nothing more): by operation, destination format code and operand bits
(log entry 12). The model clips it to the bound. -/
opaque approxOffset (op fmt bits : Nat) : Int

/-- The check of an ML-DSA-44 signature (R524, R526): public key, message digest, signature
(log entry 14). -/
opaque mldsaVerify (key msg sig : List (BitVec 8)) : Bool

/-- The ML-DSA-44 signature made with a private key over a message (R532) (log entry 14). -/
opaque mldsaSign (secret msg : List (BitVec 8)) : List (BitVec 8)

/-- The key pair derived from a secret (R532): its public key (log entry 14). -/
opaque mldsaPublic (secret : List (BitVec 8)) : List (BitVec 8)

/-- SHA3-256 digests of the image-signing public keys of the four key slots, burned at the factory (R521) (log entry 36). -/
opaque keyDigest (slot : Nat) : List (BitVec 8)

/-- The device secret, 256 bits (R521) (log entry 36). -/
opaque uds : List (BitVec 8)

/-- The MAC address of a storage port, burned at the factory (R439) (log entry 42). -/
opaque storageMac (port : Nat) : BitVec 48

/-- An image written at the factory, by TYPE (R522, R523): its key slot, security version, version and IMAGE_DIGEST (log entry 36). -/
opaque factorySlot (type : Nat) : BitVec 2
opaque factorySvn (type : Nat) : BitVec 6
opaque factoryVersion (type : Nat) : BitVec 64
opaque factoryDigest (type : Nat) : List (BitVec 8)

end Sys2Proof.Config
end

