-- ==== Sys2Proof/Machine/Tbl.lean ====
section
/-! DEFINITION. Sparse tables: lists of (key, value) pairs with strictly rising keys and no entry equal to
what an unlisted key reads as, so that equal tables are equal data. Memory is such a table of bytes. -/
namespace Sys2Proof.Machine

/-- A sparse table in canonical form. -/
abbrev Tbl (α : Type) := List (Nat × α)

/-- The value at `k`; an unlisted key reads as `d k`. -/
def Tbl.get {α : Type} (d : Nat → α) : Tbl α → Nat → α
  | [], k => d k
  | (j, v) :: t, k => if j = k then v else Tbl.get d t k

/-- The table without an entry at `k`. -/
def Tbl.erase {α : Type} : Tbl α → Nat → Tbl α
  | [], _ => []
  | (j, v) :: t, k => if j = k then Tbl.erase t k else (j, v) :: Tbl.erase t k

/-- The table with an entry put before the first one whose key is larger. -/
def Tbl.insert {α : Type} : Tbl α → Nat → α → Tbl α
  | [], k, v => [(k, v)]
  | (j, w) :: t, k, v => if k < j then (k, v) :: (j, w) :: t else (j, w) :: Tbl.insert t k v

/-- The table with `v` at `k`; a value equal to `d k` leaves no entry. -/
def Tbl.set {α : Type} [DecidableEq α] (d : Nat → α) (t : Tbl α) (k : Nat) (v : α) : Tbl α :=
  if v = d k then Tbl.erase t k else Tbl.insert (Tbl.erase t k) k v

/-- The value at `k` replaced by a function of it. -/
def Tbl.upd {α : Type} [DecidableEq α] (d : Nat → α) (t : Tbl α) (k : Nat) (f : α → α) : Tbl α :=
  Tbl.set d t k (f (Tbl.get d t k))

/-- The entries a predicate on the key keeps; the others read as unlisted. -/
def Tbl.keep {α : Type} (p : Nat → Bool) (t : Tbl α) : Tbl α := t.filter (fun e => p e.1)

/-- Every entry's value replaced by a function of it, in canonical form. -/
def Tbl.mapVals {α : Type} [DecidableEq α] (d : Nat → α) (f : Nat → α → α) (t : Tbl α) : Tbl α :=
  (t.map (fun e => (e.1, f e.1 e.2))).filter (fun e => decide (e.2 ≠ d e.1))

/-- Keys rise strictly from above `b` and no entry equals what its key would read as unlisted. -/
def Tbl.wfFrom {α : Type} [DecidableEq α] (d : Nat → α) : Option Nat → Tbl α → Bool
  | _, [] => true
  | b, (j, v) :: t =>
    (match b with | none => true | some x => decide (x < j)) && decide (v ≠ d j) && Tbl.wfFrom d (some j) t

/-- The canonical form. -/
def Tbl.wf {α : Type} [DecidableEq α] (d : Nat → α) (t : Tbl α) : Bool := Tbl.wfFrom d none t

/-- What an unlisted byte of memory reads as (log entry 3). -/
def byteZero (_ : Nat) : BitVec 8 := 0

/-- Byte memory: a table of bytes in which an unlisted address reads 0 (log entry 3). -/
abbrev Memory := List Host.Cell

/-- The byte at an address. -/
def Memory.read (m : Memory) (a : Nat) : BitVec 8 := Tbl.get byteZero m a

/-- The memory with one byte written. -/
def Memory.write (m : Memory) (a : Nat) (v : BitVec 8) : Memory := Tbl.set byteZero m a v

/-- The canonical form of a memory. -/
def Memory.wf (m : Memory) : Bool := Tbl.wf byteZero m

/-- `n` bytes from an address upward. -/
def Memory.readN (m : Memory) (a n : Nat) : List (BitVec 8) := (List.range n).map (fun i => Memory.read m (a + i))

/-- Bytes written from an address upward. -/
def Memory.writeN : Memory → Nat → List (BitVec 8) → Memory
  | m, _, [] => m
  | m, a, b :: bs => Memory.writeN (Memory.write m a b) (a + 1) bs

/-- The memory with every address of [lo, hi) back at what an unlisted address reads as. -/
def Memory.clear (m : Memory) (lo hi : Nat) : Memory := m.filter (fun e => decide (e.1 < lo) || decide (hi ≤ e.1))

end Sys2Proof.Machine
end

