-- ==== Sys2Proof/Machine/CayTypes.lean ====
section
/-! DEFINITION. The state of a cay: threads, engine queues, arrays, copies and the local store (R94 to R141, R172 to R177). -/
namespace Sys2Proof.Machine

/-- Where a loaded element comes from: an HBM address, or a host read by tag (R136, R502). -/
inductive Src where
  | hbm (key : Nat)
  | host (tag : Nat)
deriving DecidableEq, Repr

/-- One element of a gather: its lane, its source and its device virtual address. -/
structure GElem where
  lane : Nat
  src : Src
  dva : Nat
deriving DecidableEq, Repr

/-- What a load that misses does when its data has arrived (R129). -/
inductive MissOp where
  /-- LDG32 or LDG64: the destination register, the access size and the element. -/
  | ldg (d : BitVec 5) (size : Nat) (e : GElem)
  /-- VLDG: the local-store destination, the element size and the enabled lanes. -/
  | gather (dst size : Nat) (lanes : List GElem)
deriving DecidableEq, Repr

/-- What a blocked thread waits for (R129). -/
inductive Wait where
  | none
  /-- An island-cache miss: the HBM lines still awaited, the bytes of those that came, and the load; host data is awaited by tag. -/
  | miss (need : List Nat) (got : List (Nat × List (BitVec 8))) (op : MissOp)
  /-- The island's miss table is full: the access is not accepted and is made again. -/
  | missFull
  /-- A blocking fence over the counters of `mask`, for the copies numbered below `upto` (R141). -/
  | fence (mask upto : Nat)
  /-- NWAIT on a notification counter. -/
  | notif (counter atLeast : Nat)
  /-- TBAR. -/
  | bar
  /-- CPOST: the engine has not read the range yet, or has no place for the post. -/
  | post
  /-- The task is paused by the energy planner (R462). -/
  | energy
  /-- A speculative write waits for shadow capacity (R154). -/
  | shadow
  /-- A demand access to a tiered layer that is not staged (R366). -/
  | tier (model layer : Nat)
  /-- A result or a local-store range is still to be written (R176). -/
  | operand
  /-- The queue of an engine is full (R175, R137). -/
  | queue (engine : Nat)
deriving DecidableEq, Repr

/-- The states of a bound thread (R127). -/
inductive ThrSt where
  | ready
  | running
  | blocked
deriving DecidableEq, Repr

/-- One hardware thread (R127, R172). -/
structure Thread where
  bound : Bool
  task : Nat
  st : ThrSt
  wait : Wait
  cause : Nat
  pc : Nat
  regs : Tbl W64
deriving DecidableEq, Repr

/-- An unbound thread. -/
def Thread.reset : Thread := ⟨false, 0, .ready, .none, 15, 0, []⟩

def threadDef (_ : Nat) : Thread := Thread.reset

/-- The vector operations of R192. -/
inductive VOp where
  | add | sub | mul | fma | min | max | abs | neg | scl | cmplt | cmpeq | sel | mov
  | exp2 | log2 | rcp | rsqrt | sqrt | cvt | rsum | rmax | ldg | stg
deriving DecidableEq, Repr

/-- The register operands a vector instruction captured when it was issued. -/
structure VArgs where
  d : Nat
  a : Nat
  b : Nat
  c : Nat
  k : Nat
deriving DecidableEq, Repr

/-- An engine's queued work, with the register values captured at issue (R175). -/
inductive EngOp where
  | fence (mask : Nat)
  | mcfg (f : McfgFields)
  | mlds (f : MldsFields) (a : Nat)
  | miss (f : MissFields) (a gap : Nat)
  | mseq (f : MseqFields) (a b : Nat)
  | mfin (f : MfinFields)
  | mdrn (f : MdrnFields) (d a b : Nat)
  | vec (op : VOp) (f : VFields) (x : VArgs)
deriving DecidableEq, Repr

/-- One entry of an engine queue; `num` is its place in the issue order of the cay. -/
structure QEntry where
  num : Nat
  thread : Nat
  task : Nat
  op : EngOp
deriving DecidableEq, Repr

/-- One stationary bank (R94, R97): element codes of plane 0 and plane 1 by 16 × row + column, and the column and
row scale codes. -/
structure Bank where
  p0 : Tbl Nat
  p1 : Tbl Nat
  col : Tbl Nat
  row : Tbl Nat
deriving DecidableEq, Repr

def Bank.reset : Bank := ⟨[], [], [], []⟩

def natZero (_ : Nat) : Nat := 0

/-- The configuration of an array (R102, R124): shape code, member number in the gang, format codes, G. -/
structure ArrCfg where
  shape : Nat
  pos : Nat
  aFmt : Nat
  bFmt : Nat
  g : Nat
deriving DecidableEq, Repr

/-- What the array keeps beside a group slot (R107): the streaming scale code, zero point and zero-range flag and the stationary
lane codes of the scale group's first issue, and the reduction index it began at. -/
structure GroupRec where
  scale : Nat
  zp : Nat
  zr : Bool
  lanes : List Nat
  start : Nat
deriving DecidableEq, Repr

def GroupRec.reset : GroupRec := ⟨0xFF, 0, false, [], 0⟩

def groupDef (_ : Nat) : GroupRec := GroupRec.reset

/-- The conversion statistics of one tensor tag or of one of its channels (R298 to R301). -/
structure StatSum where
  sqerr : Nat
  count : Nat
  sat : Nat
  zruns : Nat
deriving DecidableEq, Repr

def StatSum.zero : StatSum := ⟨0, 0, 0, 0⟩

/-- One entry of the combine stack: blocks in its subtree, the reduction index it begins at and its lanes (R96, R134). -/
structure StackEnt where
  size : Nat
  start : Nat
  lanes : Nat
deriving DecidableEq, Repr

/-- Cycle bookkeeping of an array (R97 to R100, R159): the next free issue cycle, the cycle each bank's load ends and its last use
passes the multiply stage, the cycle all stages are complete, the last issue, the cycle each slot's write lands, and the cycles
without issue since the last issue by cause. -/
structure ArrClock where
  now : Nat
  loadFree : Nat
  loadEnd0 : Nat
  loadEnd1 : Nat
  useEnd0 : Nat
  useEnd1 : Nat
  done : Nat
  last : Option Nat
  slots : Tbl Nat
  wOperand : Nat
  wCopy : Nat
  wStarve : Nat
  wOther : Nat
deriving DecidableEq, Repr

def ArrClock.reset : ArrClock := ⟨0, 0, 0, 0, 0, 0, 0, none, [], 0, 0, 0, 0⟩

/-- One matrix array (R94 to R111). `marks` holds beside lane l of slot s, at 16 × s + l, 1 for a saturated lane (R81) plus 2 for a
masked one (R111); `blocks` holds the reduction index at which the block of a block slot began. -/
structure Arr where
  task : Option Nat
  cfg : Option ArrCfg
  bank0 : Bank
  bank1 : Bank
  marks : Tbl Nat
  groups : Tbl GroupRec
  blocks : Tbl Nat
  stack : List StackEnt
  clk : ArrClock
  stats : Tbl StatSum
  chan : Tbl StatSum
  invalid : Bool
deriving DecidableEq, Repr

def Arr.reset : Arr := ⟨none, none, Bank.reset, Bank.reset, [], [], [], [], ArrClock.reset, [], [], false⟩

def arrDef (_ : Nat) : Arr := Arr.reset

def boolFalse (_ : Nat) : Bool := false

def statDef (_ : Nat) : StatSum := StatSum.zero

/-- The fields of a copy descriptor (R136). -/
structure CopyDesc where
  kind : Nat
  src : Nat
  dst : Nat
  fence : Nat
  alloc : Bool
  lsOrder : Bool
  rowBytes : Nat
  srcStride : Nat
  dstStride : Nat
  srcAddr : Nat
  rows : Nat
  dstAddr : Nat
deriving DecidableEq, Repr

/-- A copy queued or in flight in a copy unit (R137). -/
structure CopyJob where
  num : Nat
  thread : Nat
  task : Nat
  desc : CopyDesc
deriving DecidableEq, Repr

/-- One issue's operands as the shadow path copies them (R117): streaming codes with their scale code, zero point and zero-range flag,
the stationary codes by index and lane, and the lanes' stationary scale codes. -/
structure ShadowIssue where
  stream : List Nat
  scale : Nat
  zp : Nat
  zr : Bool
  station : List (List Nat)
  lanes : List Nat
  endg : Bool
deriving DecidableEq, Repr

/-- A selected block sum held in the shadow region (R117). -/
structure ShadowSel where
  ctx : Nat
  array : Nat
  aFmt : Nat
  bFmt : Nat
  issues : List ShadowIssue
  lanes : List Nat
deriving DecidableEq, Repr

def shadowBufDef (_ : Nat) : List ShadowIssue := []

/-- What a cay keeps of a task bound on it: its mask buffer (R110). -/
structure CayTask where
  task : Nat
  nthreads : Nat
  codeLen : Nat
  maskBuf : List (BitVec 8)
deriving DecidableEq, Repr

/-- One cay. -/
structure Cay where
  threads : Tbl Thread
  lastRun : Nat
  lastCtx : Option Nat
  clock : Nat
  ls : Memory
  kernel : Option (Nat × Nat)
  istore : List (BitVec 8)
  arrs : Tbl Arr
  queues : Tbl (List QEntry)
  copies : List CopyJob
  issue : Nat
  tasks : List CayTask
  vecInvalid : Bool
  shadow : Option ShadowSel
  shadowBufs : Tbl (List ShadowIssue)
deriving DecidableEq, Repr

/-- A cay after reset: nothing bound, its fast clock stopped (R157, R163). -/
def Cay.reset : Cay := ⟨[], 7, none, 0, [], none, [], [], [], [], 0, [], false, none, []⟩

def cayDef (_ : Nat) : Cay := Cay.reset

def queueDef (_ : Nat) : List QEntry := []

end Sys2Proof.Machine
end

