-- ==== Sys2Proof/Machine/StrTypes.lean ====
section
/-! DEFINITION. Messages between collective engines, and the straits that carry them (R317, R386 to R398). -/
namespace Sys2Proof.Machine

/-- A chunk or control message (R317). `sctx` is the sending context, which stays in the sender; `again` marks one sent again, `turn` a turn chunk; `crc` is the CRC it
carries. -/
structure Msg where
  tag : Nat
  dctx : Nat
  disl : Nat
  sisl : Nat
  sfab : Nat
  dfab : Nat
  msg : Nat
  chunk : Nat
  lo : Nat
  log : Nat
  attempt : Nat
  epoch : Nat
  crc : Nat
  sctx : Nat
  again : Bool
  turn : Bool
  data : List (BitVec 8)
deriving DecidableEq, Repr

/-- A message at its engine, with the strait, the virtual channel and the credit units it holds there. -/
structure InMsg where
  m : Msg
  via : Option (Nat × Nat × Nat)
deriving DecidableEq, Repr

/-- A data frame kept until it is acknowledged (R391, R393). -/
structure Frame where
  seq : Nat
  vc : Nat
  first : Bool
  last : Bool
  data : List (BitVec 8)
deriving DecidableEq, Repr

/-- A chunk partly sent: its channel, the bytes left, whether its first frame is still to go, and the contexts by which it is eligible for injection. -/
structure Cur where
  vc : Nat
  rest : List (BitVec 8)
  first : Bool
  again : Bool
  dctx : Nat
  sctx : Nat
deriving DecidableEq, Repr

/-- What a strait interface keeps beside its registers: light on its lanes; the identity frame last received, how many like it came, and its RX_GOOD;
whether replay and sequence state were held since the strait was last up, and whether RESUME is not to be offered; the next SEQ to send and the frames unacknowledged;
the last SEQ accepted and whether a nack stands; replays since an ACK last advanced; per channel the credit granted to it, the credit it has used and the credit it grants;
the chunks that wait by channel; the chunk partly sent and the one partly received; which of VC 1 and VC 2 goes next; injection's count and what it holds back. -/
structure Strait where
  light : Nat
  ident : List (BitVec 8)
  same : Nat
  peerGood : Nat
  kept : Bool
  noResume : Bool
  txSeq : Nat
  unacked : List Frame
  rxSeq : Nat
  nacked : Bool
  streak : Nat
  granted : Tbl Nat
  used : Tbl Nat
  give : Tbl Nat
  waiting : Tbl (List Msg)
  cur : Option Cur
  part : List (BitVec 8)
  partUnits : Nat
  vc2next : Bool
  injSeen : Nat
  heldFrame : Option Frame
  heldMsg : Tbl (List Msg)
deriving DecidableEq, Repr

def noMsgs (_ : Nat) : List Msg := []

/-- Credit granted at first: the receive buffers of R396 in 256-byte units. -/
def vcBuffer (vc : Nat) : Nat := if vc = 0 then 256 else if vc = 1 then 4096 else 8192

def Strait.reset : Strait :=
  ⟨0, [], 0, 0, false, false, 1, [], 0, false, 0, [], [], [], [], none, [], 0, false, 0, none, []⟩

def strDef (_ : Nat) : Strait := Strait.reset

end Sys2Proof.Machine
end

