-- ==== Sys2Proof/Machine/WgtTypes.lean ====
section
/-! DEFINITION. Weights: shards, generation slots, models, adapter images (R346 to R368) and the turn (R372 to R379). -/
namespace Sys2Proof.Machine

/-- One resident shard (R351): its entry, its recorded digest once it has one, whether it is invalid (R355), the physical 2 MiB pages that
back it, and where it is tiered (R365, R366) its place in the host region. -/
structure Shard where
  index : Nat
  dva : Nat
  bytes : Nat
  layer : Nat
  tierable : Bool
  stack : Nat
  target : Nat
  offset : Nat
  digest : Option (List (BitVec 8))
  invalid : Bool
  arrived : Bool
  pages : List Nat
  host : Option Nat
deriving DecidableEq, Repr

/-- The states of a generation slot (R348). -/
inductive GenSt where
  | free
  | loading
  | ready
  | serving
  | retained
deriving DecidableEq, Repr

/-- The number of a state in WGT_GEN_STAT (R381). -/
def GenSt.code : GenSt → Nat
  | .free => 0
  | .loading => 1
  | .ready => 2
  | .serving => 3
  | .retained => 4

/-- A generation slot (R346, R348). `manifest` is the device virtual address of the manifest it came from. -/
structure GenSlot where
  st : GenSt
  num : Nat
  built : Bool
  manifest : Nat
  shards : List Shard
deriving DecidableEq, Repr

def GenSlot.reset : GenSlot := ⟨.free, 0, false, 0, []⟩

def genSlotDef (_ : Nat) : GenSlot := GenSlot.reset

/-- A model of a context (R346, R347, R361, R362, R367, R368): the greatest number it has held, whether it is in in-place mode, pinned,
evicted, held at the barrier; the powered time of its last use; the layers staged of its tiered shards, least recently used first. -/
structure Model where
  slots : Tbl GenSlot
  top : Nat
  inplace : Bool
  pins : Nat
  evicted : Bool
  barrier : Bool
  suspectAll : Bool
  lastUse : Nat
  staged : List Nat
deriving DecidableEq, Repr

def Model.reset : Model := ⟨[], 0, false, 0, false, false, false, 0, []⟩

def modelDef (_ : Nat) : Model := Model.reset

/-- An adapter image (R346, R353): the generation number its manifest gave, and its shard. -/
structure Image where
  num : Nat
  shard : Shard
deriving DecidableEq, Repr

/-- How a load runs (R353, R357, R361). -/
inductive LoadKind where
  | fresh
  | repair
  | inplace
deriving DecidableEq, Repr

/-- A shard still to arrive or to be verified: its entry, the bytes landed so far, and whether its digest has matched. -/
structure LoadShard where
  shard : Shard
  landed : Nat
  checked : Bool
deriving DecidableEq, Repr

/-- A load in progress: its record, the slot it fills (`none` for adapter images), its generation number and its shards. `buf` holds the bytes, by
2^42 × place + offset, of shards that do not land in their own HBM pages: tiered shards until they are hashed, and the layer an in-place update has
staged. `layer` is the place in the ascending list of LAYER values an in-place update has reached; `held` that its barrier is closed. -/
structure LoadJob where
  ctx : Nat
  stream : Nat
  seq : Nat
  model : Nat
  slot : Option Nat
  num : Nat
  manifest : Nat
  kind : LoadKind
  shards : List LoadShard
  buf : Memory
  layer : Nat
  held : Bool
deriving DecidableEq, Repr

/-- The weights of a context (R346, R349, R504): models and images, the 2 MiB pages that hold tables the module allocated and the 4 KiB tables used of them, and the pages
that an operation waits for under the evict policy (R367). -/
structure WgtCtx where
  models : Tbl Model
  images : List Image
  tables : List Nat
  tabUsed : Nat
  want : Option Nat
deriving DecidableEq, Repr

def WgtCtx.reset : WgtCtx := ⟨[], [], [], 0, none⟩

def wgtDef (_ : Nat) : WgtCtx := WgtCtx.reset

end Sys2Proof.Machine
end

