-- ==== Sys2Proof/Machine/ColTypes.lean ====
section
/-! DEFINITION. Collectives, collective engines, training groups, stage runs and turns (R276 to R345, R370 to R378). -/
namespace Sys2Proof.Machine

/-- An entry of a group descriptor (R308). -/
structure GEnt where
  fab : Nat
  ctx : Nat
  lo : Nat
  log : Nat
  sub : Nat
  engines : Nat
  ownStart : Nat
  ownCount : Nat
deriving DecidableEq, Repr

/-- A member of a group: its first entry. -/
structure GroupDesc where
  leaves : Nat
  ents : List GEnt
deriving DecidableEq, Repr

/-- What opened a collective: a record, a hand-off or a receive of a stage run by its number (R314). -/
inductive CollOwner where
  | record (stream seq : Nat)
  | handoff (run layer : Nat)
  | recv (run : Nat) (fwd : Bool) (mb : Nat)
deriving DecidableEq, Repr

/-- A chunk this module sends in a collective (R316 to R319): its engine and destination, the chunk and node, whether credit is held, whether it is out, acknowledged, its
attempt, and the verified copy kept until it is acknowledged. -/
structure Tx where
  isl : Nat
  dfab : Nat
  dctx : Nat
  disl : Nat
  chunk : Nat
  lo : Nat
  log : Nat
  credit : Bool
  out : Bool
  acked : Bool
  attempt : Nat
  copy : List (BitVec 8)
deriving DecidableEq, Repr

/-- A chunk this module expects: its engine, its sender, the chunk and node, whether credit for it has been granted or is to be granted again, and whether it has come. -/
structure Rx where
  isl : Nat
  sfab : Nat
  sctx : Nat
  sisl : Nat
  chunk : Nat
  lo : Nat
  log : Nat
  granted : Bool
  got : Bool
deriving DecidableEq, Repr

/-- A node's bytes held for a chunk: contributed by a post, received or combined (R323). -/
structure NodeVal where
  chunk : Nat
  lo : Nat
  log : Nat
  data : List (BitVec 8)
deriving DecidableEq, Repr

/-- An open collective (R310 to R313). `mask` holds the engines that carry this module's share, `open_` those on which it is still open; `rank` is this module's first entry;
`half` the alternate half of OP 6; `vals` the nodes held; `landed` the chunks landed; `tiles` the tiles the update pipe has done and `work` their working weights. -/
structure Coll where
  num : Nat
  ctx : Nat
  owner : CollOwner
  op : Nat
  tree : Bool
  fmt : Nat
  notify : Option Nat
  dstLs : Bool
  posted : Bool
  dstCay : Nat
  logChunk : Nat
  tgroup : Nat
  tag : Nat
  desc : GroupDesc
  rank : Nat
  src : Nat
  dst : Nat
  count : Nat
  map : Nat
  step : Nat
  half : Nat
  mask : Nat
  open_ : Nat
  tx : List Tx
  rx : List Rx
  vals : List NodeVal
  landed : List Nat
  tiles : List Nat
  work : List NodeVal
deriving DecidableEq, Repr

/-- A range posted by a thread with DIRECT (R321). -/
structure Post where
  ctx : Nat
  tag : Nat
  chunk : Nat
  dfab : Nat
  disl : Nat
  credit : Bool
  out : Bool
  again : Bool
  attempt : Nat
  data : List (BitVec 8)
deriving DecidableEq, Repr

/-- A chunk being relayed: kept until the next hop acknowledges it (R318, R324). -/
structure Relay where
  m : Msg
  out : Bool
deriving DecidableEq, Repr

/-- Values of a parameter group held by an update pipe for a step (R330). -/
structure PGroup where
  ctx : Nat
  tgroup : Nat
  step : Nat
  num : Nat
  mode : Nat
  wfmt : Nat
  rho : Nat
  lr : Nat
  wd : Nat
  mu : Nat
deriving DecidableEq, Repr

/-- A collective engine and the update pipe beside it: messages that have arrived, control messages and answers still to leave, credit for tags not yet open, posts,
relayed chunks, its open epoch, the epochs that other engines resynchronised with, and the parameter groups the pipe holds, the one used least recently first. -/
structure Engine where
  inbox : List InMsg
  outq : List Msg
  early : List Msg
  posts : List Post
  relays : List Relay
  epoch : Nat
  peers : Tbl Nat
  pgroups : List PGroup
deriving DecidableEq, Repr

def Engine.reset : Engine := ⟨[], [], [], [], [], 0, [], []⟩

def engDef (_ : Nat) : Engine := Engine.reset

/-- Stage runs and collectives of a step of a training group as this module counts them (R338): runs committed with success and those that ended otherwise, collectives
opened, closed with success and failed. -/
structure Acct where
  step : Nat
  runsOk : Nat
  runsBad : Nat
  opened : Nat
  closed : Nat
  failed : Nat
deriving DecidableEq, Repr

/-- What a member answered about a seal or a turn: it has not voted, it voted abort or commit, or it holds a decision. -/
inductive Answer where
  | none
  | vote (commit : Bool)
  | decided (commit : Bool)
deriving DecidableEq, Repr

/-- A ballot in progress, for a seal or a turn (R338 to R340, R376): when it began and when members were last asked, this module's vote, the votes rank 0 has, the rank of
the first abort vote, the answers of members to a query, and the decision. -/
structure Ballot where
  began : Nat
  asked : Nat
  vote : Option Bool
  votes : List (Nat × Bool)
  firstAbort : Nat
  answers : List (Nat × Answer)
  decision : Option Bool
deriving DecidableEq, Repr

def Ballot.start (now : Nat) : Ballot := ⟨now, now, none, [], 0xFFFF, [], none⟩

/-- A seal in progress (R337): its record, its step and what it counts. -/
structure Seal where
  stream : Nat
  seq : Nat
  step : Nat
  runs : Nat
  colls : Nat
  abortReq : Bool
  ballot : Ballot
deriving DecidableEq, Repr

/-- A member of a training group (R336). -/
structure TgMem where
  fab : Nat
  ctx : Nat
  isl : Nat
deriving DecidableEq, Repr

/-- A bound training group (R336, R342). -/
structure TGroup where
  ctx : Nat
  id : Nat
  desc : Nat
  mems : List TgMem
  sched : Nat
  live : Nat
  root : Nat
  sealed : Nat
  rootGen : Nat
  publish : Option Nat
  sealRun : Option Seal
  past : List (Nat × Bool)
  acct : List Acct
deriving DecidableEq, Repr

/-- A list entry of a stage program (R280), with its task descriptor as it stands in the list. -/
structure SEnt where
  desc : List (BitVec 8)
  stride : Nat
  layer : Nat
  variant : Bool
  handoff : Bool
  recomp : Bool
  quant : Bool
  eclass : Nat
  alt : Nat
  follow : Nat
  est : Nat
deriving DecidableEq, Repr

/-- A layer-table entry (R281). -/
structure SLayer where
  accA : Nat
  accB : Nat
  coll : List (BitVec 8)
  frozen : Bool
deriving DecidableEq, Repr

/-- A stage program as the dispatcher read it (R279). -/
structure SProg where
  stage : Nat
  stages : Nat
  layers : List SLayer
  fwd : List SEnt
  bwd : List SEnt
  recvF : List (BitVec 8)
  recvB : List (BitVec 8)
deriving DecidableEq, Repr

/-- A stage run in progress (R276 to R295): its record and fields; the program; FORCE and the limits as they stood at the start (R304, R307); the place in the order and in the unit's list; the task
that runs and the list index it runs for; whether a speculative task has passed its check; the halves recorded by micro-batch; the first micro-batch that fell back by entry; the layers handed off and those that wait, with whether each was counted as held; the
receives opened and those completed, as (forward, micro-batch). -/
structure Run where
  num : Nat
  ctx : Nat
  stream : Nat
  seq : Nat
  islands : Nat
  step : Nat
  tgroup : Nat
  m : Nat
  prog : SProg
  force : Nat
  limits : Nat × Nat
  unit : Nat
  started : Bool
  idx : Nat
  task : Option Nat
  unitId : Nat
  wide : Bool
  admitted : Bool
  halves : List (Nat × Nat)
  fell : Tbl (Option Nat)
  checked : Bool
  handed : List Nat
  hold : List (Nat × Bool)
  opened : List (Bool × Nat)
  recvd : List (Bool × Nat)
  fail : Option (Nat × Nat)
  class_ : Nat
deriving DecidableEq, Repr

/-- A piece of a layout map that this module sends or receives (R371): chunk number, the peer's fabric identifier and engine, this module's engine, address and bytes. -/
structure TurnPiece where
  chunk : Nat
  fab : Nat
  ctx : Nat
  isl : Nat
  mine : Nat
  addr : Nat
  bytes : Nat
  out : Bool
  done : Bool
  attempt : Nat
  copy : List (BitVec 8)
deriving DecidableEq, Repr

/-- An open turn (R372 to R378): its record and fields, the group, the phase and when phases 1, 2, 5 and 6 were entered, the slot being built and the built shards, the pieces it sends and
receives, the ballot, and why it fails where it does. -/
structure Turn where
  ctx : Nat
  stream : Nat
  seq : Nat
  dir : Bool
  fabric : Bool
  switch : Bool
  model : Nat
  tgroup : Nat
  gen : Nat
  tag : Nat
  desc : GroupDesc
  rank : Nat
  manifest : Nat
  shards : List Shard
  route : Nat
  roles : Nat
  straits : Nat
  slot : Option Nat
  inplace : Bool
  phase : Nat
  entered : Nat
  tx : List TurnPiece
  rx : List TurnPiece
  ballot : Ballot
  cause : Nat
  fail : Bool
  routed : Bool
deriving DecidableEq, Repr

end Sys2Proof.Machine
end

