-- ==== Sys2Proof/Machine/CwTypes.lean ====
section
/-! DEFINITION. The Causeway: its packets and what its link keeps beside its registers (R415 to R429), the SMBus port and the TAP (R440 to R444). -/
namespace Sys2Proof.Machine

/-- The credit classes of R420: posted, non-posted, response. -/
inductive CwClass where
  | posted
  | nonPosted
  | response
deriving DecidableEq, Repr

/-- A packet the module has formed (R419, R420): `ctx` is the context on whose behalf it was formed (R428), `len` the LENGTH field, and `ask` the host read
and the place in it that a host memory read is for; such a packet is given its TAG when it is first sent. -/
structure CwPkt where
  type : Nat
  ctx : Nat
  tag : Nat
  status : Nat
  addr : Nat
  len : Nat
  data : List (BitVec 8)
  ask : Option (Nat × Nat)
deriving DecidableEq, Repr

/-- A TAG in use by one of the module's host memory reads (R423): the host read, the place in it, the bytes asked for and the bytes that came. -/
structure CwTag where
  tag : Nat
  read : Nat
  off : Nat
  len : Nat
  data : Option (List (BitVec 8))
deriving DecidableEq, Repr

/-- What the Causeway keeps: whether its hardware has failed (R35), its usable width and whether it is held Off by LANE_LB; the last SEQ accepted and whether a NACK stands; the next SEQ,
the packets unacknowledged with their SEQ, and the replays since an ACK last advanced; per class the credit granted to it, the credit it has used and the credit it
grants; how much of the outbox has become packets, and the packets formed and not yet given a SEQ; the RESUME and WIDTH of the adapter's CONFIG packets; whether
sequence state has been kept since the link was last Active; TAGs in use; injection's count and what it holds back in each direction. -/
structure Causeway where
  failed : Bool
  width : Nat
  rxSeq : Nat
  nacked : Bool
  txSeq : Nat
  unacked : List (Nat × CwPkt)
  streak : Nat
  granted : Tbl Nat
  used : Tbl Nat
  give : Tbl Nat
  taken : Nat
  queue : List CwPkt
  peer : Option (Bool × Nat)
  kept : Bool
  tags : List CwTag
  injSeen : Nat
  heldTx : Option (Nat × CwPkt)
  heldRx : Option (List (BitVec 8))
deriving DecidableEq, Repr

def Causeway.reset : Causeway := ⟨false, 0, 0, false, 1, [], 0, [], [], [], 0, [], none, false, [], 0, none, none⟩

/-- The instructions of the boundary-scan port (R443). -/
inductive TapIr where
  | bypass
  | idcode
  | samplePreload
  | extest
  | clamp
  | highz
  | laneLb
deriving DecidableEq, Repr

/-- The SMBus port's registers (R441) and the boundary-scan port (R443): the alert bits and mask, the sticky-log entry selected, the TAP instruction, the boundary
register, and the data register of LANE_LB. -/
structure Ports where
  alert : Nat
  alertMask : Nat
  logIndex : Nat
  ir : TapIr
  boundary : List Bool
  laneBits : Nat
deriving DecidableEq, Repr

def Ports.reset : Ports := ⟨0, 0, 0, .idcode, [], 0⟩

end Sys2Proof.Machine
end

