-- ==== Sys2Proof/Machine/EmitTypes.lean ====
section
/-! DEFINITION. What leaves the module, in order, at its points of contact (R4), and the host reads it has open. -/
namespace Sys2Proof.Machine

/-- Who asked for a host read (R422): a load of a thread, a copy of a cay, or another operation by number. -/
inductive ReadOwner where
  | load (cay thread : Nat)
  | copy (cay num : Nat)
  | op (kind num : Nat)
deriving DecidableEq, Repr

/-- A read of host memory in progress, with its data once the response has come, the context it is made for, and whether the host refused it (R422). -/
structure HostRead where
  tag : Nat
  owner : ReadOwner
  addr : Nat
  len : Nat
  data : Option (List (BitVec 8))
  ctx : Nat
  failed : Bool
deriving DecidableEq, Repr

/-- One thing sent. -/
inductive Emit where
  /-- A message-interrupt packet for a module vector (R507). -/
  | message (vector : Nat)
  /-- A write of bytes to a host address on behalf of a context (R420, R428). -/
  | hostWrite (ctx addr : Nat) (data : List (BitVec 8))
  /-- A read of host bytes asked for. -/
  | hostRead (ctx tag addr len : Nat)
  /-- A response to a non-posted request of the host's, by its CTX: TAG, status, payload (R420, R421). -/
  | response (ctx tag status : Nat) (data : List (BitVec 8))
  /-- A completion write on behalf of a context: completion records or request events (R420). -/
  | completion (ctx addr : Nat) (data : List (BitVec 8))
  /-- A landing-window response: TAG and the 16 bytes of R211. -/
  | lwResponse (ctx tag : Nat) (data : List (BitVec 8))
  /-- A packet on the Causeway, as its bytes (R419). -/
  | packet (bytes : List (BitVec 8))
  /-- An NVMe command at a storage port: target, queue, number, operation code (0 Read, 1 Write, 2 Flush), first block and blocks (R433, R436). -/
  | nvme (port target queue num op slba blocks : Nat)
  /-- Bytes of a checkpoint returned to a target's RDMA READ (R437). -/
  | rdmaData (port num off : Nat) (data : List (BitVec 8))
  /-- A congestion notification packet (R432). -/
  | cnp (port target queue : Nat)
  /-- A Keep Alive command (R435). -/
  | keepAlive (port target : Nat)
  /-- An answer to an ARP or Neighbor Discovery request (R430). -/
  | arpReply (port : Nat)
  /-- What the SMBus port answers: the bytes of a read, no bytes for a write, `none` for a transaction that is not acknowledged (R440, R441). -/
  | smbus (data : Option (List (BitVec 8)))
  /-- SMBALERT# as it changes (R440). -/
  | alert (asserted : Bool)
  /-- The data register the TAP shifts out, by its width (R443). -/
  | tap (width value : Nat)
  /-- The connector pins as a boundary-scan instruction drives them: from the boundary register, or not at all (R443, R444). -/
  | pins (drive : Option (List Bool))
  /-- A frame on a strait, as its bytes (R391). -/
  | frame (strait : Nat) (bytes : List (BitVec 8))
deriving DecidableEq, Repr

end Sys2Proof.Machine
end

