-- ==== Sys2Proof/Machine/ModTypes.lean ====
section
/-! DEFINITION. The module as a whole: what holds its reset (R442, R509), the memories' error records (R477 to R489), monitor units (R490 to R494) and the flash and identity of its
firmware (R521 to R533). -/
namespace Sys2Proof.Machine

/-- The code of a source in the sticky log and in MOD_RESET_STAT; 0 where it makes no entry (R489, R509). -/
def holdCode : Hold → Nat
  | .smbus => 1
  | .pin => 2
  | .register => 2
  | .harbour => 3
  | .input => 4
  | .thermal => 5
  | .tap => 0
  | .standby => 0

/-- A row in which a controller corrected errors during the current pass (R477): corrections by word, and whether it is recurring. -/
structure RowEnt where
  row : Nat
  words : List (Nat × Nat)
  recurring : Bool
deriving DecidableEq, Repr

/-- The memory page's state of an island and its stack beside its registers (R477, R482, R486, R487): the row table, the next words the scrubber reads in SRAM and HBM,
the powered times of uncorrectable words in the last second, the HBM rows recurring or uncorrectable since cold power-up, and the last field repair test: whether it still stands,
and the defects it found. -/
structure MemSt where
  rows : List RowEnt
  sramAt : Nat
  hbmAt : Nat
  ues : List Nat
  bad : List Nat
  tested : Bool
  found : List Defect
deriving DecidableEq, Repr

def MemSt.reset : MemSt := ⟨[], 0, 0, [], [], false, []⟩

def memDef (_ : Nat) : MemSt := MemSt.reset

/-- The results of a monitor unit (R492). -/
structure MonRes where
  min : Int
  max : Int
  count : Nat
  sum : Int
  bins : Tbl Nat
deriving DecidableEq, Repr

def MonRes.reset : MonRes := ⟨2 ^ 31 - 1, -(2 ^ 31), 0, 0, []⟩

/-- A monitor unit: its results and its snapshot (R492, R493). -/
structure MonUnit where
  now : MonRes
  snap : MonRes
deriving DecidableEq, Repr

def MonUnit.reset : MonUnit := ⟨MonRes.reset, MonRes.reset⟩

def monDef (_ : Nat) : MonUnit := MonUnit.reset

/-- An image in the flash (R522, R523): as written at the factory, whose content the spec does not give (log entry 36), or its bytes. -/
inductive FlashImage where
  | factory (type : Nat)
  | given (bytes : List (BitVec 8))
deriving DecidableEq, Repr

/-- A bank (R522). -/
structure Bank2 where
  valid : Bool
  images : List FlashImage
deriving DecidableEq, Repr

/-- A measured image, as the attestation report lists it (R526, R532). -/
structure Measured where
  type : Nat
  slot : Nat
  svn : Nat
  version : Nat
  digest : List (BitVec 8)
deriving DecidableEq, Repr

/-- An attestation report or an install still waiting for host bytes is no part of it: the flash, the images measured at this boot in order, and what the boot ROM took
from the fuses. -/
structure Firmware where
  bankA : Bank2
  bankB : Bank2
  golden : List FlashImage
  active : Bool
  measured : List Measured
deriving DecidableEq, Repr

/-- A factory image as it is measured. -/
def Measured.ofFactory (t : Nat) : Measured :=
  ⟨t, (Config.factorySlot t).toNat, (Config.factorySvn t).toNat, (Config.factoryVersion t).toNat, Config.factoryDigest t⟩

/-- The factory's set in bank A, its recovery set in the golden region, bank A active and its images measured (log entry 36). -/
def Firmware.reset : Firmware :=
  ⟨⟨true, [.factory 1, .factory 2, .factory 3, .factory 4]⟩, ⟨false, []⟩, [.factory 6], false, [1, 2, 3, 4].map Measured.ofFactory⟩

/-- The module as a whole: standby and 48 V are good; what holds its reset, and whether that is the clearing variant; contexts whose reset ends with them disabled; the
last 512 entries of the sticky log, oldest first. -/
structure Module where
  standby : Bool
  main : Bool
  holds : List Hold
  clearing : Bool
  disabling : List Nat
  log : List (List (BitVec 8))
deriving DecidableEq, Repr

def Module.reset : Module := ⟨true, true, [], false, [], []⟩

end Sys2Proof.Machine
end

