-- ==== Sys2Proof/Machine/PwrTypes.lean ====
section
/-! DEFINITION. The energy ledger, admission, the islands' supplies and the thermal sensors (R445 to R472). -/
namespace Sys2Proof.Machine

/-- Energy attributed to an account at a powered time: contexts are 0 to 63, and 64 stands for every class. -/
structure Spend where
  acct : Nat
  time : Nat
  nj : Nat
deriving DecidableEq, Repr

/-- A unit admitted and not yet committed: its corrected estimate and the energy measured so far, in nJ (R460). -/
structure EUnit where
  id : UnitId
  ctx : Nat
  est : Nat
  nj : Nat
deriving DecidableEq, Repr

/-- A dip of a rail in progress (R465): its minimum in mV, when it began, and whether it crossed the reset level. -/
structure Dip where
  low : Nat
  start : Nat
  reset : Bool
deriving DecidableEq, Repr

/-- The supply and thermal state of an island (R449, R462, R463, R465, R468): a dip in progress; throttled; its stack at half bandwidth; the powered time at which it last cooled; the
codes by which the module cap, stalls and heat have lowered it; and the point it is to change to. -/
structure IslPwr where
  dip : Option Dip
  thrIsl : Bool
  thrStack : Bool
  cooled : Option Nat
  capDown : Nat
  stallDown : Nat
  heatDown : Nat
  ramp : Option Nat
deriving DecidableEq, Repr

def IslPwr.reset : IslPwr := ⟨none, false, false, none, 0, 0, 0, none⟩

def islPwrDef (_ : Nat) : IslPwr := IslPwr.reset

/-- The power state of the module: the spending of the last second; the ledgers by context, island and class, and their total; units admitted, and those counted as waiting; the SMBus
cap; the last reading of each sensor; the islands; the input power and voltage last measured; contexts and classes whose tasks are paused (R462); straits whose optical engine is
at trip (R468). -/
structure Pwr where
  spends : List Spend
  ctxNj : Tbl Nat
  islNj : Tbl Nat
  clsNj : Tbl Nat
  totNj : Nat
  units : List EUnit
  waited : List UnitId
  smbusCap : Nat
  temps : Tbl Nat
  isl : Tbl IslPwr
  inputW : Nat
  inputMv : Nat
  paused : List Nat
  pausedCls : List Nat
  tripped : List Nat
deriving DecidableEq, Repr

/-- Nothing spent, waiting, paused or hot; the SMBus cap at its reset value (log entry 23). -/
def Pwr.reset : Pwr := ⟨[], [], [], [], 0, [], [], 12000, [], [], 0, 0, [], [], []⟩

end Sys2Proof.Machine
end

