-- ==== Sys2Proof/Machine/RegTable.lean ====
section
/-! DEFINITION. The register fields of the aperture: for each field the block class of its page (R548), its offset, how many
consecutive registers hold it, its bits, its access code (R17) and its reset value, as the register tables of the chapters give them. -/
namespace Sys2Proof.Machine

/-- The access codes of R17; `rwOwner` and `w1sOwner` are writable from context 0 only (R499). -/
inductive Acc where
  | rw
  | ro
  | w1c
  | w1s
  | rc
  | wo
  | rwl
  | rwOwner
  | w1sOwner
deriving DecidableEq, Repr

/-- One register field. -/
structure Fld where
  cls : Nat
  off : Nat
  num : Nat
  hi : Nat
  lo : Nat
  acc : Acc
  reset : Nat
deriving DecidableEq, Repr

/-- NUMI_STAT.CAPT_VALID (R90) -/
def Fld.numiStatCaptValid : Fld := ⟨0x13, 0x040, 1, 31, 31, .w1c, 0x0⟩
/-- NUMI_STAT.CAPT_LOST (R90) -/
def Fld.numiStatCaptLost : Fld := ⟨0x13, 0x040, 1, 30, 30, .w1c, 0x0⟩
/-- NUMI_CAPT_SRC.CTX (R90) -/
def Fld.numiCaptSrcCtx : Fld := ⟨0x13, 0x044, 1, 31, 26, .ro, 0x0⟩
/-- NUMI_CAPT_SRC.CAY (R90) -/
def Fld.numiCaptSrcCay : Fld := ⟨0x13, 0x044, 1, 25, 17, .ro, 0x0⟩
/-- NUMI_CAPT_SRC.ARRAY (R90) -/
def Fld.numiCaptSrcArray : Fld := ⟨0x13, 0x044, 1, 16, 15, .ro, 0x0⟩
/-- NUMI_CAPT_SRC.UNIT (R90) -/
def Fld.numiCaptSrcUnit : Fld := ⟨0x13, 0x044, 1, 14, 14, .ro, 0x0⟩
/-- NUMI_CAPT_SRC.CAUSE (R90) -/
def Fld.numiCaptSrcCause : Fld := ⟨0x13, 0x044, 1, 13, 11, .ro, 0x0⟩
/-- NUMI_CAPT_SRC.STREAM (R90) -/
def Fld.numiCaptSrcStream : Fld := ⟨0x13, 0x044, 1, 10, 7, .ro, 0x0⟩
/-- NUMI_CAPT_CELL.ROW (R90) -/
def Fld.numiCaptCellRow : Fld := ⟨0x13, 0x048, 1, 11, 6, .ro, 0x0⟩
/-- NUMI_CAPT_CELL.COL (R90) -/
def Fld.numiCaptCellCol : Fld := ⟨0x13, 0x048, 1, 5, 0, .ro, 0x0⟩
/-- NUMI_CAPT_KIDX.KIDX (R90) -/
def Fld.numiCaptKidx : Fld := ⟨0x13, 0x04C, 1, 31, 0, .ro, 0x0⟩
/-- NUMI_CAPT_SEQ_LO.SEQ_LO (R90) -/
def Fld.numiCaptSeqLo : Fld := ⟨0x13, 0x050, 1, 31, 0, .ro, 0x0⟩
/-- NUMI_CAPT_SEQ_HI.SEQ_HI (R90) -/
def Fld.numiCaptSeqHi : Fld := ⟨0x13, 0x054, 1, 31, 0, .ro, 0x0⟩
/-- NUMI_INVALID_CNT.COUNT (R90) -/
def Fld.numiInvalidCnt : Fld := ⟨0x13, 0x058, 1, 31, 0, .rc, 0x0⟩
/-- NUMI_SAT_CNT.COUNT (R90) -/
def Fld.numiSatCnt : Fld := ⟨0x13, 0x05C, 1, 31, 0, .rc, 0x0⟩
/-- NUMC_CTL.FAIL_INVALID (R91) -/
def Fld.numcCtlFailInvalid : Fld := ⟨0x21, 0x040, 1, 0, 0, .rw, 0x0⟩
/-- NUMC_SEED.SEED (R91) -/
def Fld.numcSeed : Fld := ⟨0x21, 0x044, 1, 31, 0, .rw, 0x0⟩
/-- NUMC_INVALID_CNT.COUNT (R91) -/
def Fld.numcInvalidCnt : Fld := ⟨0x21, 0x048, 1, 31, 0, .rc, 0x0⟩
/-- NUMC_SAT_CNT.COUNT (R91) -/
def Fld.numcSatCnt : Fld := ⟨0x21, 0x04C, 1, 31, 0, .rc, 0x0⟩
/-- ARR_SEL.CAY (R124) -/
def Fld.arrSelCay : Fld := ⟨0x10, 0x040, 1, 10, 2, .rw, 0x0⟩
/-- ARR_SEL.ARRAY (R124) -/
def Fld.arrSelArray : Fld := ⟨0x10, 0x040, 1, 1, 0, .rw, 0x0⟩
/-- ARR_CFG.SHAPE (R124) -/
def Fld.arrCfgShape : Fld := ⟨0x10, 0x044, 1, 13, 12, .ro, 0x0⟩
/-- ARR_CFG.GANG_POS (R124) -/
def Fld.arrCfgGangPos : Fld := ⟨0x10, 0x044, 1, 11, 10, .ro, 0x0⟩
/-- ARR_CFG.RESCALE (R124) -/
def Fld.arrCfgRescale : Fld := ⟨0x10, 0x044, 1, 9, 8, .ro, 0x0⟩
/-- ARR_CFG.A_FMT (R124) -/
def Fld.arrCfgAFmt : Fld := ⟨0x10, 0x044, 1, 7, 4, .ro, 0x0⟩
/-- ARR_CFG.B_FMT (R124) -/
def Fld.arrCfgBFmt : Fld := ⟨0x10, 0x044, 1, 3, 0, .ro, 0x0⟩
/-- ARR_LAT.DISABLED (R124) -/
def Fld.arrLatDisabled : Fld := ⟨0x10, 0x048, 1, 8, 8, .ro, 0x0⟩
/-- ARR_LAT.SPARE_ROW (R124) -/
def Fld.arrLatSpareRow : Fld := ⟨0x10, 0x048, 1, 7, 4, .ro, 0x0⟩
/-- ARR_LAT.SPARE_EN (R124) -/
def Fld.arrLatSpareEn : Fld := ⟨0x10, 0x048, 1, 3, 3, .ro, 0x0⟩
/-- ARR_LAT.LATENCY (R124) -/
def Fld.arrLatLatency : Fld := ⟨0x10, 0x048, 1, 2, 0, .ro, 0x0⟩
/-- ARR_STAT.INVALID (R124) -/
def Fld.arrStatInvalid : Fld := ⟨0x10, 0x04C, 1, 31, 31, .ro, 0x0⟩
/-- ARR_STAT.HAZARD (R124) -/
def Fld.arrStatHazard : Fld := ⟨0x10, 0x04C, 1, 30, 30, .w1c, 0x0⟩
/-- ARR_STAT.SCALE_ERR (R124) -/
def Fld.arrStatScaleErr : Fld := ⟨0x10, 0x04C, 1, 29, 29, .w1c, 0x0⟩
/-- ARR_STAT.BUSY (R124) -/
def Fld.arrStatBusy : Fld := ⟨0x10, 0x04C, 1, 28, 28, .ro, 0x0⟩
/-- ARR_STAT.MASKED (R124) -/
def Fld.arrStatMasked : Fld := ⟨0x10, 0x04C, 1, 27, 27, .ro, 0x0⟩
/-- ARR_CAPT.CAUSE (R124) -/
def Fld.arrCaptCause : Fld := ⟨0x10, 0x050, 1, 14, 12, .ro, 0x0⟩
/-- ARR_CAPT.ROW (R124) -/
def Fld.arrCaptRow : Fld := ⟨0x10, 0x050, 1, 11, 6, .ro, 0x0⟩
/-- ARR_CAPT.COL (R124) -/
def Fld.arrCaptCol : Fld := ⟨0x10, 0x050, 1, 5, 0, .ro, 0x0⟩
/-- ARR_CAPT_KIDX.KIDX (R124) -/
def Fld.arrCaptKidx : Fld := ⟨0x10, 0x054, 1, 31, 0, .ro, 0x0⟩
/-- ARR_SAT_CNT.COUNT (R124) -/
def Fld.arrSatCnt : Fld := ⟨0x10, 0x058, 1, 31, 0, .rc, 0x0⟩
/-- ARR_HAZARD_SLOT.SLOT (R124) -/
def Fld.arrHazardSlotSlot : Fld := ⟨0x10, 0x05C, 1, 15, 0, .ro, 0x0⟩
/-- ARR_GATED_LO.COUNT (R124) -/
def Fld.arrGatedLo : Fld := ⟨0x10, 0x060, 1, 31, 0, .ro, 0x0⟩
/-- ARR_GATED_HI.COUNT (R124) -/
def Fld.arrGatedHi : Fld := ⟨0x10, 0x064, 1, 31, 0, .ro, 0x0⟩
/-- ARR_ACTIVE_LO.COUNT (R124) -/
def Fld.arrActiveLo : Fld := ⟨0x10, 0x068, 1, 31, 0, .ro, 0x0⟩
/-- ARR_ACTIVE_HI.COUNT (R124) -/
def Fld.arrActiveHi : Fld := ⟨0x10, 0x06C, 1, 31, 0, .ro, 0x0⟩
/-- ARR_MASK_SKIP.COUNT (R124) -/
def Fld.arrMaskSkip : Fld := ⟨0x10, 0x070, 1, 31, 0, .rc, 0x0⟩
/-- ARR_STALL_OPERAND.COUNT (R124) -/
def Fld.arrStallOperand : Fld := ⟨0x10, 0x080, 1, 31, 0, .rc, 0x0⟩
/-- ARR_STALL_COPY.COUNT (R124) -/
def Fld.arrStallCopy : Fld := ⟨0x10, 0x084, 1, 31, 0, .rc, 0x0⟩
/-- ARR_STALL_ENERGY.COUNT (R124) -/
def Fld.arrStallEnergy : Fld := ⟨0x10, 0x088, 1, 31, 0, .rc, 0x0⟩
/-- ARR_STALL_TXN.COUNT (R124) -/
def Fld.arrStallTxn : Fld := ⟨0x10, 0x08C, 1, 31, 0, .rc, 0x0⟩
/-- ARR_STALL_STARVE.COUNT (R124) -/
def Fld.arrStallStarve : Fld := ⟨0x10, 0x090, 1, 31, 0, .rc, 0x0⟩
/-- ARR_STALL_OTHER.COUNT (R124) -/
def Fld.arrStallOther : Fld := ⟨0x10, 0x094, 1, 31, 0, .rc, 0x0⟩
/-- SHADOW_CTL.THRESH (R124) -/
def Fld.shadowCtlThresh : Fld := ⟨0x10, 0x0C0, 1, 15, 8, .rw, 0xFF⟩
/-- SHADOW_CTL.RATE (R124) -/
def Fld.shadowCtlRate : Fld := ⟨0x10, 0x0C0, 1, 4, 0, .rw, 0x0⟩
/-- SHADOW_DONE.COUNT (R124) -/
def Fld.shadowDone : Fld := ⟨0x10, 0x0C4, 1, 31, 0, .rc, 0x0⟩
/-- SHADOW_SKIP.COUNT (R124) -/
def Fld.shadowSkip : Fld := ⟨0x10, 0x0C8, 1, 31, 0, .rc, 0x0⟩
/-- SHADOW_OVER.COUNT (R124) -/
def Fld.shadowOver : Fld := ⟨0x10, 0x0CC, 1, 31, 0, .rc, 0x0⟩
/-- SHADOW_CAPT.VALID (R124) -/
def Fld.shadowCaptValid : Fld := ⟨0x10, 0x0D0, 1, 31, 31, .w1c, 0x0⟩
/-- SHADOW_CAPT.CTX (R124) -/
def Fld.shadowCaptCtx : Fld := ⟨0x10, 0x0D0, 1, 30, 25, .ro, 0x0⟩
/-- SHADOW_CAPT.CAY (R124) -/
def Fld.shadowCaptCay : Fld := ⟨0x10, 0x0D0, 1, 24, 16, .ro, 0x0⟩
/-- SHADOW_CAPT.ARRAY (R124) -/
def Fld.shadowCaptArray : Fld := ⟨0x10, 0x0D0, 1, 15, 14, .ro, 0x0⟩
/-- SHADOW_CAPT.LANE (R124) -/
def Fld.shadowCaptLane : Fld := ⟨0x10, 0x0D0, 1, 11, 8, .ro, 0x0⟩
/-- SHADOW_CAPT.D (R124) -/
def Fld.shadowCaptD : Fld := ⟨0x10, 0x0D0, 1, 7, 0, .ro, 0x0⟩
/-- CAY_SEL.CAY (R163) -/
def Fld.caySelCay : Fld := ⟨0x11, 0x040, 1, 8, 0, .rw, 0x0⟩
/-- CAY_STAT.CLOCK (R163) -/
def Fld.cayStatClock : Fld := ⟨0x11, 0x044, 1, 31, 30, .ro, 0x0⟩
/-- CAY_STAT.CTX (R163) -/
def Fld.cayStatCtx : Fld := ⟨0x11, 0x044, 1, 29, 24, .ro, 0x0⟩
/-- CAY_STAT.THR_BOUND (R163) -/
def Fld.cayStatThrBound : Fld := ⟨0x11, 0x044, 1, 23, 16, .ro, 0x0⟩
/-- CAY_STAT.THR_BLOCKED (R163) -/
def Fld.cayStatThrBlocked : Fld := ⟨0x11, 0x044, 1, 15, 8, .ro, 0x0⟩
/-- CAY_STAT.SHADOW_RESV (R163) -/
def Fld.cayStatShadowResv : Fld := ⟨0x11, 0x044, 1, 0, 0, .ro, 0x0⟩
/-- CAY_THR_CAUSE.CAUSE (R163) -/
def Fld.cayThrCause : Fld := ⟨0x11, 0x048, 1, 31, 0, .ro, 0xFFFFFFFF⟩
/-- CAY_VEC_SAT_CNT.COUNT (R163) -/
def Fld.cayVecSatCnt : Fld := ⟨0x11, 0x04C, 1, 31, 0, .rc, 0x0⟩
/-- CAY_WAKE_CNT.COUNT (R163) -/
def Fld.cayWakeCnt : Fld := ⟨0x11, 0x050, 1, 31, 0, .rc, 0x0⟩
/-- CAY_LS_ZERO_CNT.COUNT (R163) -/
def Fld.cayLsZeroCnt : Fld := ⟨0x11, 0x054, 1, 31, 0, .rc, 0x0⟩
/-- CAY_COPY_STAT.LAST_ERR (R163) -/
def Fld.cayCopyStatLastErr : Fld := ⟨0x11, 0x058, 1, 15, 8, .ro, 0x0⟩
/-- CAY_COPY_STAT.HELD (R163) -/
def Fld.cayCopyStatHeld : Fld := ⟨0x11, 0x058, 1, 6, 0, .ro, 0x0⟩
/-- CAY_FENCE_BUSY.BUSY (R163) -/
def Fld.cayFenceBusyBusy : Fld := ⟨0x11, 0x05C, 1, 15, 0, .ro, 0x0⟩
/-- SEQ_STALL.COUNT (R163) -/
def Fld.seqStall : Fld := ⟨0x11, 0x080, 8, 31, 0, .rc, 0x0⟩
/-- VEC_STALL.COUNT (R163) -/
def Fld.vecStall : Fld := ⟨0x11, 0x0A0, 8, 31, 0, .rc, 0x0⟩
/-- COPY_STALL.COUNT (R163) -/
def Fld.copyStall : Fld := ⟨0x11, 0x0C0, 8, 31, 0, .rc, 0x0⟩
/-- IC_CTL.SPEC_WAYS (R166) -/
def Fld.icCtlSpecWays : Fld := ⟨0x12, 0x040, 1, 19, 16, .rw, 0x2⟩
/-- IC_CTL.RA_DEPTH (R166) -/
def Fld.icCtlRaDepth : Fld := ⟨0x12, 0x040, 1, 14, 8, .rw, 0x20⟩
/-- IC_CTL.PF_EN (R166) -/
def Fld.icCtlPfEn : Fld := ⟨0x12, 0x040, 1, 0, 0, .rw, 0x1⟩
/-- IC_STAT.SPEC_OPEN (R166) -/
def Fld.icStatSpecOpen : Fld := ⟨0x12, 0x044, 1, 21, 16, .ro, 0x0⟩
/-- IC_STAT.MISS_OUT (R166) -/
def Fld.icStatMissOut : Fld := ⟨0x12, 0x044, 1, 9, 0, .ro, 0x0⟩
/-- IC_HIT_LO.COUNT (R166) -/
def Fld.icHitLo : Fld := ⟨0x12, 0x048, 1, 31, 0, .ro, 0x0⟩
/-- IC_HIT_HI.COUNT (R166) -/
def Fld.icHitHi : Fld := ⟨0x12, 0x04C, 1, 31, 0, .ro, 0x0⟩
/-- IC_MISS_LO.COUNT (R166) -/
def Fld.icMissLo : Fld := ⟨0x12, 0x050, 1, 31, 0, .ro, 0x0⟩
/-- IC_MISS_HI.COUNT (R166) -/
def Fld.icMissHi : Fld := ⟨0x12, 0x054, 1, 31, 0, .ro, 0x0⟩
/-- IC_INVAL_CNT.COUNT (R166) -/
def Fld.icInvalCnt : Fld := ⟨0x12, 0x058, 1, 31, 0, .rc, 0x0⟩
/-- IC_PF_ISSUED.COUNT (R166) -/
def Fld.icPfIssued : Fld := ⟨0x12, 0x05C, 1, 31, 0, .rc, 0x0⟩
/-- IC_PF_USED.COUNT (R166) -/
def Fld.icPfUsed : Fld := ⟨0x12, 0x060, 1, 31, 0, .rc, 0x0⟩
/-- IC_PF_CANCEL.COUNT (R166) -/
def Fld.icPfCancel : Fld := ⟨0x12, 0x064, 1, 31, 0, .rc, 0x0⟩
/-- IC_RA_FAULT.COUNT (R166) -/
def Fld.icRaFault : Fld := ⟨0x12, 0x068, 1, 31, 0, .rc, 0x0⟩
/-- IC_RA_STOP.COUNT (R166) -/
def Fld.icRaStop : Fld := ⟨0x12, 0x06C, 1, 31, 0, .rc, 0x0⟩
/-- IC_SPEC_LINES.LINES (R166) -/
def Fld.icSpecLinesLines : Fld := ⟨0x12, 0x070, 1, 18, 0, .ro, 0x0⟩
/-- IC_SPEC_REQUEUE.COUNT (R166) -/
def Fld.icSpecRequeue : Fld := ⟨0x12, 0x074, 1, 31, 0, .rc, 0x0⟩
/-- IC_SPEC_FAIL.COUNT (R166) -/
def Fld.icSpecFail : Fld := ⟨0x12, 0x078, 1, 31, 0, .rc, 0x0⟩
/-- LW_ASTAT.ASTAT (R237) -/
def Fld.lwAstatAstat : Fld := ⟨0x3C, 0x080, 1, 7, 0, .ro, 0x0⟩
/-- LW_ASEQ_LO.ASEQ (R237) -/
def Fld.lwAseqLo : Fld := ⟨0x3C, 0x088, 1, 31, 0, .ro, 0x0⟩
/-- LW_ASEQ_HI.ASEQ (R237) -/
def Fld.lwAseqHi : Fld := ⟨0x3C, 0x08C, 1, 31, 0, .ro, 0x0⟩
/-- LW_NEXT_LO.NEXT (R237) -/
def Fld.lwNextLo : Fld := ⟨0x3C, 0x090, 1, 31, 0, .ro, 0x1⟩
/-- LW_NEXT_HI.NEXT (R237) -/
def Fld.lwNextHi : Fld := ⟨0x3C, 0x094, 1, 31, 0, .ro, 0x0⟩
/-- LW_DONE_LO.DONE (R237) -/
def Fld.lwDoneLo : Fld := ⟨0x3C, 0x098, 1, 31, 0, .ro, 0x0⟩
/-- LW_DONE_HI.DONE (R237) -/
def Fld.lwDoneHi : Fld := ⟨0x3C, 0x09C, 1, 31, 0, .ro, 0x0⟩
/-- LW_CTL.DEPTH (R237) -/
def Fld.lwCtlDepth : Fld := ⟨0x3C, 0x0A0, 1, 28, 16, .rw, 0x100⟩
/-- LW_CTL.EN (R237) -/
def Fld.lwCtlEn : Fld := ⟨0x3C, 0x0A0, 1, 0, 0, .rw, 0x0⟩
/-- LW_STAT.FULL (R237) -/
def Fld.lwStatFull : Fld := ⟨0x3C, 0x0A4, 1, 31, 31, .ro, 0x0⟩
/-- LW_STAT.WAIT_CQ (R237) -/
def Fld.lwStatWaitCq : Fld := ⟨0x3C, 0x0A4, 1, 30, 30, .ro, 0x0⟩
/-- LW_STAT.PENDING (R237) -/
def Fld.lwStatPending : Fld := ⟨0x3C, 0x0A4, 1, 12, 0, .ro, 0x0⟩
/-- CQ_BASE_LO.BASE (R237) -/
def Fld.cqBaseLoBase : Fld := ⟨0x3C, 0x0A8, 1, 31, 12, .rw, 0x0⟩
/-- CQ_BASE_HI.BASE (R237) -/
def Fld.cqBaseHi : Fld := ⟨0x3C, 0x0AC, 1, 31, 0, .rw, 0x0⟩
/-- CQ_CTL.LOG2_N (R237) -/
def Fld.cqCtlLog2N : Fld := ⟨0x3C, 0x0B0, 1, 20, 16, .rw, 0xA⟩
/-- CQ_CTL.VECTOR (R237) -/
def Fld.cqCtlVector : Fld := ⟨0x3C, 0x0B0, 1, 10, 0, .rw, 0x0⟩
/-- CQ_CONSUMED_LO.CONSUMED (R237) -/
def Fld.cqConsumedLo : Fld := ⟨0x3C, 0x0B8, 1, 31, 0, .rw, 0x0⟩
/-- CQ_CONSUMED_HI.CONSUMED (R237) -/
def Fld.cqConsumedHi : Fld := ⟨0x3C, 0x0BC, 1, 31, 0, .rw, 0x0⟩
/-- CQ_FULL_CNT.COUNT (R237) -/
def Fld.cqFullCnt : Fld := ⟨0x3C, 0x0C0, 1, 31, 0, .rc, 0x0⟩
/-- JNL_CTL.STACK_B (R239) -/
def Fld.jnlCtlStackB : Fld := ⟨0x05, 0x040, 1, 10, 6, .rwl, 0x0⟩
/-- JNL_CTL.STACK_A (R239) -/
def Fld.jnlCtlStackA : Fld := ⟨0x05, 0x040, 1, 5, 1, .rwl, 0x0⟩
/-- JNL_CTL.EN (R239) -/
def Fld.jnlCtlEn : Fld := ⟨0x05, 0x040, 1, 0, 0, .rwl, 0x0⟩
/-- JNL_SIZE.SIZE (R239) -/
def Fld.jnlSizeSize : Fld := ⟨0x05, 0x044, 1, 11, 0, .rwl, 0x20⟩
/-- JNL_BASE_A.BASE (R239) -/
def Fld.jnlBaseABase : Fld := ⟨0x05, 0x048, 1, 14, 0, .rwl, 0x0⟩
/-- JNL_BASE_B.BASE (R239) -/
def Fld.jnlBaseBBase : Fld := ⟨0x05, 0x04C, 1, 14, 0, .rwl, 0x0⟩
/-- JNL_STAT.SINGLE (R239) -/
def Fld.jnlStatSingle : Fld := ⟨0x05, 0x050, 1, 31, 31, .ro, 0x0⟩
/-- JNL_STAT.RECOVERING (R239) -/
def Fld.jnlStatRecovering : Fld := ⟨0x05, 0x050, 1, 30, 30, .ro, 0x0⟩
/-- JNL_STAT.REBUILD (R239) -/
def Fld.jnlStatRebuild : Fld := ⟨0x05, 0x050, 1, 29, 29, .ro, 0x0⟩
/-- JNL_STAT.PLACE_ERR (R239) -/
def Fld.jnlStatPlaceErr : Fld := ⟨0x05, 0x050, 1, 28, 28, .ro, 0x0⟩
/-- JNL_STAT.FILL (R239) -/
def Fld.jnlStatFill : Fld := ⟨0x05, 0x050, 1, 23, 0, .ro, 0x0⟩
/-- JNL_HIGH.LEVEL (R239) -/
def Fld.jnlHighLevel : Fld := ⟨0x05, 0x054, 1, 23, 0, .rw, 0xFFFFFF⟩
/-- JNL_REPL.GO (R239) -/
def Fld.jnlReplGo : Fld := ⟨0x05, 0x058, 1, 31, 31, .w1s, 0x0⟩
/-- JNL_REPL.STACK (R239) -/
def Fld.jnlReplStack : Fld := ⟨0x05, 0x058, 1, 19, 15, .rw, 0x0⟩
/-- JNL_REPL.BASE (R239) -/
def Fld.jnlReplBase : Fld := ⟨0x05, 0x058, 1, 14, 0, .rw, 0x0⟩
/-- GRP_TIMEOUT.LIMIT (R239) -/
def Fld.grpTimeoutLimit : Fld := ⟨0x05, 0x05C, 1, 23, 0, .rw, 0x186A0⟩
/-- GRP_OPEN.OPEN (R239) -/
def Fld.grpOpenOpen : Fld := ⟨0x05, 0x060, 1, 10, 0, .ro, 0x0⟩
/-- TXN_ABORT_CNT.COUNT (R239) -/
def Fld.txnAbortCnt : Fld := ⟨0x05, 0x064, 1, 31, 0, .rc, 0x0⟩
/-- JNL_REPLAY_CNT.COUNT (R239) -/
def Fld.jnlReplayCnt : Fld := ⟨0x05, 0x068, 1, 31, 0, .rc, 0x0⟩
/-- JNL_REWRITE_CNT.COUNT (R239) -/
def Fld.jnlRewriteCnt : Fld := ⟨0x05, 0x06C, 1, 31, 0, .rc, 0x0⟩
/-- ACC_REFUSE_CNT.COUNT (R239) -/
def Fld.accRefuseCnt : Fld := ⟨0x05, 0x070, 1, 31, 0, .rc, 0x0⟩
/-- SRV_CTL.SPEC_MAX (R274) -/
def Fld.srvCtlSpecMax : Fld := ⟨0x23, 0x040, 1, 7, 5, .rw, 0x0⟩
/-- SRV_CTL.EN (R274) -/
def Fld.srvCtlEn : Fld := ⟨0x23, 0x040, 1, 0, 0, .rw, 0x0⟩
/-- SRV_BUDGET.TOKENS_M1 (R274) -/
def Fld.srvBudgetTokensM1 : Fld := ⟨0x23, 0x044, 1, 14, 0, .rw, 0xFFF⟩
/-- SRV_CHUNK.CHUNK (R274) -/
def Fld.srvChunkChunk : Fld := ⟨0x23, 0x048, 1, 15, 0, .rw, 0x200⟩
/-- SRV_QUOTA.SLOTS (R274) -/
def Fld.srvQuotaSlots : Fld := ⟨0x23, 0x04C, 1, 16, 0, .rw, 0x0⟩
/-- SRV_KV_BASE_LO.BASE (R274) -/
def Fld.srvKvBaseLoBase : Fld := ⟨0x23, 0x050, 1, 31, 16, .rw, 0x0⟩
/-- SRV_KV_BASE_HI.BASE (R274) -/
def Fld.srvKvBaseHiBase : Fld := ⟨0x23, 0x054, 1, 15, 0, .rw, 0x0⟩
/-- SRV_KV_PAGES.PAGES (R274) -/
def Fld.srvKvPagesPages : Fld := ⟨0x23, 0x058, 1, 24, 0, .rw, 0x0⟩
/-- SRV_KV_LOW.LEVEL (R274) -/
def Fld.srvKvLowLevel : Fld := ⟨0x23, 0x05C, 1, 24, 0, .rw, 0x0⟩
/-- SRV_PROG_LO.ADDR (R274) -/
def Fld.srvProgLoAddr : Fld := ⟨0x23, 0x060, 1, 31, 6, .rw, 0x0⟩
/-- SRV_PROG_HI.ADDR (R274) -/
def Fld.srvProgHiAddr : Fld := ⟨0x23, 0x064, 1, 15, 0, .rw, 0x0⟩
/-- SRV_PMAP_BASE_LO.BASE (R274) -/
def Fld.srvPmapBaseLoBase : Fld := ⟨0x23, 0x068, 1, 31, 16, .rw, 0x0⟩
/-- SRV_PMAP_BASE_HI.BASE (R274) -/
def Fld.srvPmapBaseHiBase : Fld := ⟨0x23, 0x06C, 1, 15, 0, .rw, 0x0⟩
/-- SRV_MAX_PAGES.PAGES (R274) -/
def Fld.srvMaxPagesPages : Fld := ⟨0x23, 0x070, 1, 16, 0, .rw, 0x10000⟩
/-- SRV_EVQ_CTL.LOG2_N (R274) -/
def Fld.srvEvqCtlLog2N : Fld := ⟨0x23, 0x074, 1, 20, 16, .rw, 0xA⟩
/-- SRV_EVQ_CTL.VECTOR (R274) -/
def Fld.srvEvqCtlVector : Fld := ⟨0x23, 0x074, 1, 10, 0, .rw, 0x0⟩
/-- SRV_EVQ_BASE_LO.BASE (R274) -/
def Fld.srvEvqBaseLoBase : Fld := ⟨0x23, 0x078, 1, 31, 12, .rw, 0x0⟩
/-- SRV_EVQ_BASE_HI.BASE (R274) -/
def Fld.srvEvqBaseHi : Fld := ⟨0x23, 0x07C, 1, 31, 0, .rw, 0x0⟩
/-- SRV_EVQ_CONSUMED_LO.CONSUMED (R274) -/
def Fld.srvEvqConsumedLo : Fld := ⟨0x23, 0x080, 1, 31, 0, .rw, 0x0⟩
/-- SRV_EVQ_CONSUMED_HI.CONSUMED (R274) -/
def Fld.srvEvqConsumedHi : Fld := ⟨0x23, 0x084, 1, 31, 0, .rw, 0x0⟩
/-- SRV_STAT.SLOTS_USED (R274) -/
def Fld.srvStatSlotsUsed : Fld := ⟨0x23, 0x088, 1, 16, 0, .ro, 0x0⟩
/-- SRV_KV_FREE.PAGES (R274) -/
def Fld.srvKvFreePages : Fld := ⟨0x23, 0x08C, 1, 24, 0, .ro, 0x0⟩
/-- SRV_STEP_LO.STEP (R274) -/
def Fld.srvStepLo : Fld := ⟨0x23, 0x090, 1, 31, 0, .ro, 0x0⟩
/-- SRV_STEP_HI.STEP (R274) -/
def Fld.srvStepHi : Fld := ⟨0x23, 0x094, 1, 31, 0, .ro, 0x0⟩
/-- SRV_SPEC_PROPOSED.COUNT (R274) -/
def Fld.srvSpecProposed : Fld := ⟨0x23, 0x098, 1, 31, 0, .rc, 0x0⟩
/-- SRV_SPEC_ACCEPTED.COUNT (R274) -/
def Fld.srvSpecAccepted : Fld := ⟨0x23, 0x09C, 1, 31, 0, .rc, 0x0⟩
/-- SRV_TRIM_CNT.COUNT (R274) -/
def Fld.srvTrimCnt : Fld := ⟨0x23, 0x0A0, 1, 31, 0, .rc, 0x0⟩
/-- SRV_KV_DEFER_CNT.COUNT (R274) -/
def Fld.srvKvDeferCnt : Fld := ⟨0x23, 0x0A4, 1, 31, 0, .rc, 0x0⟩
/-- SRV_EXPIRED_CNT.COUNT (R274) -/
def Fld.srvExpiredCnt : Fld := ⟨0x23, 0x0A8, 1, 31, 0, .rc, 0x0⟩
/-- SRV_EVQ_FULL_CNT.COUNT (R274) -/
def Fld.srvEvqFullCnt : Fld := ⟨0x23, 0x0AC, 1, 31, 0, .rc, 0x0⟩
/-- SPL_CTL.STACK_B (R275) -/
def Fld.splCtlStackB : Fld := ⟨0x06, 0x040, 1, 10, 6, .rwl, 0x0⟩
/-- SPL_CTL.STACK_A (R275) -/
def Fld.splCtlStackA : Fld := ⟨0x06, 0x040, 1, 5, 1, .rwl, 0x0⟩
/-- SPL_CTL.EN (R275) -/
def Fld.splCtlEn : Fld := ⟨0x06, 0x040, 1, 0, 0, .rwl, 0x0⟩
/-- SPL_BASE_A.BASE (R275) -/
def Fld.splBaseABase : Fld := ⟨0x06, 0x044, 1, 14, 0, .rwl, 0x0⟩
/-- SPL_BASE_B.BASE (R275) -/
def Fld.splBaseBBase : Fld := ⟨0x06, 0x048, 1, 14, 0, .rwl, 0x0⟩
/-- SPL_STAT.PLACE_ERR (R275) -/
def Fld.splStatPlaceErr : Fld := ⟨0x06, 0x04C, 1, 31, 31, .ro, 0x0⟩
/-- SPL_STAT.SLOTS_USED (R275) -/
def Fld.splStatSlotsUsed : Fld := ⟨0x06, 0x04C, 1, 16, 0, .ro, 0x0⟩
/-- SPL_ADAPTERS.COPIES (R275) -/
def Fld.splAdaptersCopies : Fld := ⟨0x06, 0x050, 1, 10, 0, .ro, 0x0⟩
/-- SPL_STEP_CNT.COUNT (R275) -/
def Fld.splStepCnt : Fld := ⟨0x06, 0x054, 1, 31, 0, .rc, 0x0⟩
/-- QNT_CTL.STREAM_CHECK (R307) -/
def Fld.qntCtlStreamCheck : Fld := ⟨0x24, 0x040, 1, 2, 2, .rw, 0x0⟩
/-- QNT_CTL.FORCE (R307) -/
def Fld.qntCtlForce : Fld := ⟨0x24, 0x040, 1, 1, 0, .rw, 0x0⟩
/-- QNT_SAT_LIMIT.LIMIT (R307) -/
def Fld.qntSatLimit : Fld := ⟨0x24, 0x044, 1, 31, 0, .rw, 0x0⟩
/-- QNT_ERR_LIMIT.LIMIT (R307) -/
def Fld.qntErrLimit : Fld := ⟨0x24, 0x048, 1, 31, 0, .rw, 0x100000⟩
/-- QNT_STATS_BASE_LO.BASE (R307) -/
def Fld.qntStatsBaseLoBase : Fld := ⟨0x24, 0x04C, 1, 31, 17, .rw, 0x0⟩
/-- QNT_STATS_BASE_HI.BASE (R307) -/
def Fld.qntStatsBaseHiBase : Fld := ⟨0x24, 0x050, 1, 15, 0, .rw, 0x0⟩
/-- QNT_CHAN_TAG.TAG (R307) -/
def Fld.qntChanTag : Fld := ⟨0x24, 0x054, 1, 31, 0, .rw, 0x0⟩
/-- QNT_CHAN_BASE_LO.BASE (R307) -/
def Fld.qntChanBaseLoBase : Fld := ⟨0x24, 0x058, 1, 31, 4, .rw, 0x0⟩
/-- QNT_CHAN_BASE_HI.BASE (R307) -/
def Fld.qntChanBaseHiBase : Fld := ⟨0x24, 0x05C, 1, 15, 0, .rw, 0x0⟩
/-- QNT_CHAN_COUNT.EN (R307) -/
def Fld.qntChanCountEn : Fld := ⟨0x24, 0x060, 1, 31, 31, .rw, 0x0⟩
/-- QNT_CHAN_COUNT.COUNT (R307) -/
def Fld.qntChanCountCount : Fld := ⟨0x24, 0x060, 1, 16, 0, .rw, 0x0⟩
/-- LRN_STAT.RUNS (R307) -/
def Fld.lrnStatRuns : Fld := ⟨0x24, 0x064, 1, 31, 24, .ro, 0x0⟩
/-- LRN_STAT.REFS (R307) -/
def Fld.lrnStatRefs : Fld := ⟨0x24, 0x064, 1, 12, 0, .ro, 0x0⟩
/-- LRN_STEP.STEP (R307) -/
def Fld.lrnStep : Fld := ⟨0x24, 0x068, 1, 31, 0, .ro, 0x0⟩
/-- QNT_FALLBACK_CNT.COUNT (R307) -/
def Fld.qntFallbackCnt : Fld := ⟨0x24, 0x06C, 1, 31, 0, .rc, 0x0⟩
/-- QNT_LATCH_CNT.COUNT (R307) -/
def Fld.qntLatchCnt : Fld := ⟨0x24, 0x070, 1, 31, 0, .rc, 0x0⟩
/-- QNT_STAT_COLLIDE.COUNT (R307) -/
def Fld.qntStatCollide : Fld := ⟨0x24, 0x074, 1, 31, 0, .rc, 0x0⟩
/-- LRN_ORPHAN_CNT.COUNT (R307) -/
def Fld.lrnOrphanCnt : Fld := ⟨0x24, 0x078, 1, 31, 0, .rc, 0x0⟩
/-- LRN_WV_HOLD_CNT.COUNT (R307) -/
def Fld.lrnWvHoldCnt : Fld := ⟨0x24, 0x07C, 1, 31, 0, .rc, 0x0⟩
/-- LRN_HANDOFF_CNT.COUNT (R307) -/
def Fld.lrnHandoffCnt : Fld := ⟨0x24, 0x080, 1, 31, 0, .rc, 0x0⟩
/-- LRN_HANDOFF_HELD.COUNT (R307) -/
def Fld.lrnHandoffHeld : Fld := ⟨0x24, 0x084, 1, 31, 0, .rc, 0x0⟩
/-- COL_CTL.ACK_TIMEOUT (R344) -/
def Fld.colCtlAckTimeout : Fld := ⟨0x17, 0x040, 1, 15, 8, .rw, 0x64⟩
/-- COL_CTL.RETRY (R344) -/
def Fld.colCtlRetry : Fld := ⟨0x17, 0x040, 1, 7, 0, .rw, 0x2⟩
/-- COL_STAT.OPEN (R344) -/
def Fld.colStatOpen : Fld := ⟨0x17, 0x044, 1, 24, 16, .ro, 0x0⟩
/-- COL_STAT.EARLY (R344) -/
def Fld.colStatEarly : Fld := ⟨0x17, 0x044, 1, 15, 7, .ro, 0x0⟩
/-- COL_STAT.POSTS (R344) -/
def Fld.colStatPosts : Fld := ⟨0x17, 0x044, 1, 6, 0, .ro, 0x0⟩
/-- COL_CRC_FAIL_CNT.COUNT (R344) -/
def Fld.colCrcFailCnt : Fld := ⟨0x17, 0x048, 1, 31, 0, .rc, 0x0⟩
/-- COL_REPLAY_CNT.COUNT (R344) -/
def Fld.colReplayCnt : Fld := ⟨0x17, 0x04C, 1, 31, 0, .rc, 0x0⟩
/-- COL_ABORT_CNT.COUNT (R344) -/
def Fld.colAbortCnt : Fld := ⟨0x17, 0x050, 1, 31, 0, .rc, 0x0⟩
/-- COL_NOTOPEN_CNT.COUNT (R344) -/
def Fld.colNotopenCnt : Fld := ⟨0x17, 0x054, 1, 31, 0, .rc, 0x0⟩
/-- COL_RELAY_CNT.COUNT (R344) -/
def Fld.colRelayCnt : Fld := ⟨0x17, 0x058, 1, 31, 0, .rc, 0x0⟩
/-- COL_DUP_CNT.COUNT (R344) -/
def Fld.colDupCnt : Fld := ⟨0x17, 0x05C, 1, 31, 0, .rc, 0x0⟩
/-- COL_CRC_CAPT.VALID (R344) -/
def Fld.colCrcCaptValid : Fld := ⟨0x17, 0x060, 1, 31, 31, .w1c, 0x0⟩
/-- COL_CRC_CAPT.CTX (R344) -/
def Fld.colCrcCaptCtx : Fld := ⟨0x17, 0x060, 1, 30, 25, .ro, 0x0⟩
/-- COL_CRC_CAPT.SRC_FABRIC (R344) -/
def Fld.colCrcCaptSrcFabric : Fld := ⟨0x17, 0x060, 1, 24, 11, .ro, 0x0⟩
/-- COL_CRC_CAPT.SRC_ISLAND (R344) -/
def Fld.colCrcCaptSrcIsland : Fld := ⟨0x17, 0x060, 1, 10, 6, .ro, 0x0⟩
/-- COL_CRC_TAG_LO.TAG (R344) -/
def Fld.colCrcTagLo : Fld := ⟨0x17, 0x064, 1, 31, 0, .ro, 0x0⟩
/-- COL_CRC_TAG_HI.TAG (R344) -/
def Fld.colCrcTagHiTag : Fld := ⟨0x17, 0x068, 1, 15, 0, .ro, 0x0⟩
/-- COL_STALL.COUNT (R344) -/
def Fld.colStall : Fld := ⟨0x17, 0x080, 8, 31, 0, .rc, 0x0⟩
/-- UPD_STAT.BUSY (R344) -/
def Fld.updStatBusy : Fld := ⟨0x18, 0x040, 1, 31, 31, .ro, 0x0⟩
/-- UPD_STAT.PGROUPS (R344) -/
def Fld.updStatPgroups : Fld := ⟨0x18, 0x040, 1, 6, 0, .ro, 0x0⟩
/-- UPD_TILE_LO.COUNT (R344) -/
def Fld.updTileLo : Fld := ⟨0x18, 0x044, 1, 31, 0, .ro, 0x0⟩
/-- UPD_TILE_HI.COUNT (R344) -/
def Fld.updTileHi : Fld := ⟨0x18, 0x048, 1, 31, 0, .ro, 0x0⟩
/-- UPD_SAT_CNT.COUNT (R344) -/
def Fld.updSatCnt : Fld := ⟨0x18, 0x04C, 1, 31, 0, .rc, 0x0⟩
/-- UPD_INVALID_CNT.COUNT (R344) -/
def Fld.updInvalidCnt : Fld := ⟨0x18, 0x050, 1, 31, 0, .rc, 0x0⟩
/-- UPD_CAPT.VALID (R344) -/
def Fld.updCaptValid : Fld := ⟨0x18, 0x054, 1, 31, 31, .w1c, 0x0⟩
/-- UPD_CAPT.CTX (R344) -/
def Fld.updCaptCtx : Fld := ⟨0x18, 0x054, 1, 30, 25, .ro, 0x0⟩
/-- UPD_CAPT.PGROUP (R344) -/
def Fld.updCaptPgroup : Fld := ⟨0x18, 0x054, 1, 23, 12, .ro, 0x0⟩
/-- UPD_CAPT_TILE.TILE (R344) -/
def Fld.updCaptTile : Fld := ⟨0x18, 0x058, 1, 31, 0, .ro, 0x0⟩
/-- UPD_STALL.COUNT (R344) -/
def Fld.updStall : Fld := ⟨0x18, 0x080, 8, 31, 0, .rc, 0x0⟩
/-- SEAL_TIMEOUT.LIMIT (R345) -/
def Fld.sealTimeoutLimit : Fld := ⟨0x25, 0x040, 1, 23, 0, .rw, 0xF4240⟩
/-- COL_OPEN.OPEN (R345) -/
def Fld.colOpenOpen : Fld := ⟨0x25, 0x044, 1, 12, 0, .ro, 0x0⟩
/-- SEAL_COMMIT_CNT.COUNT (R345) -/
def Fld.sealCommitCnt : Fld := ⟨0x25, 0x048, 1, 31, 0, .rc, 0x0⟩
/-- SEAL_ABORT_CNT.COUNT (R345) -/
def Fld.sealAbortCnt : Fld := ⟨0x25, 0x04C, 1, 31, 0, .rc, 0x0⟩
/-- COL_REFUSE_CNT.COUNT (R345) -/
def Fld.colRefuseCnt : Fld := ⟨0x25, 0x050, 1, 31, 0, .rc, 0x0⟩
/-- TG_SEL.TGROUP (R345) -/
def Fld.tgSelTgroup : Fld := ⟨0x25, 0x054, 1, 15, 0, .rw, 0x0⟩
/-- TG_STAT.BOUND (R345) -/
def Fld.tgStatBound : Fld := ⟨0x25, 0x058, 1, 31, 31, .ro, 0x0⟩
/-- TG_STAT.LIVE (R345) -/
def Fld.tgStatLive : Fld := ⟨0x25, 0x058, 1, 30, 30, .ro, 0x0⟩
/-- TG_STAT.ROOT (R345) -/
def Fld.tgStatRoot : Fld := ⟨0x25, 0x058, 1, 29, 29, .ro, 0x0⟩
/-- TG_STAT.PUBLISH (R345) -/
def Fld.tgStatPublish : Fld := ⟨0x25, 0x058, 1, 28, 28, .ro, 0x0⟩
/-- TG_STAT.SEAL (R345) -/
def Fld.tgStatSeal : Fld := ⟨0x25, 0x058, 1, 27, 25, .ro, 0x0⟩
/-- TG_SEALED.STEP (R345) -/
def Fld.tgSealed : Fld := ⟨0x25, 0x05C, 1, 31, 0, .ro, 0x0⟩
/-- TG_ROOT_GEN.GEN (R345) -/
def Fld.tgRootGen : Fld := ⟨0x25, 0x060, 1, 31, 0, .ro, 0x0⟩
/-- WGT_CTL.TURN_PERM (R381) -/
def Fld.wgtCtlTurnPerm : Fld := ⟨0x26, 0x040, 1, 31, 31, .rw, 0x0⟩
/-- WGT_CTL.POLICY (R381) -/
def Fld.wgtCtlPolicy : Fld := ⟨0x26, 0x040, 1, 1, 0, .rw, 0x0⟩
/-- WGT_QUOTA.PAGES (R381) -/
def Fld.wgtQuotaPages : Fld := ⟨0x26, 0x044, 1, 19, 0, .rw, 0x0⟩
/-- WGT_USED.PAGES (R381) -/
def Fld.wgtUsedPages : Fld := ⟨0x26, 0x048, 1, 19, 0, .ro, 0x0⟩
/-- WGT_POOL_LO.BASE (R381) -/
def Fld.wgtPoolLoBase : Fld := ⟨0x26, 0x04C, 1, 31, 21, .rw, 0x0⟩
/-- WGT_POOL_HI.BASE (R381) -/
def Fld.wgtPoolHiBase : Fld := ⟨0x26, 0x050, 1, 15, 0, .rw, 0x0⟩
/-- WGT_POOL_SIZE.PAGES (R381) -/
def Fld.wgtPoolSizePages : Fld := ⟨0x26, 0x054, 1, 19, 0, .rw, 0x0⟩
/-- WGT_HOST_LO.BASE (R381) -/
def Fld.wgtHostLoBase : Fld := ⟨0x26, 0x058, 1, 31, 21, .rw, 0x0⟩
/-- WGT_HOST_HI.BASE (R381) -/
def Fld.wgtHostHiBase : Fld := ⟨0x26, 0x05C, 1, 15, 0, .rw, 0x0⟩
/-- WGT_HOST_SIZE.PAGES (R381) -/
def Fld.wgtHostSizePages : Fld := ⟨0x26, 0x060, 1, 19, 0, .rw, 0x0⟩
/-- WGT_WALK.INTERVAL (R381) -/
def Fld.wgtWalkInterval : Fld := ⟨0x26, 0x064, 1, 15, 0, .rw, 0x0⟩
/-- WGT_SERVE.MODEL (R381) -/
def Fld.wgtServeModel : Fld := ⟨0x26, 0x068, 1, 2, 0, .ro, 0x0⟩
/-- WGT_SERVE_GEN.GEN (R381) -/
def Fld.wgtServeGen : Fld := ⟨0x26, 0x06C, 1, 31, 0, .ro, 0x0⟩
/-- WGT_SEL.MODEL (R381) -/
def Fld.wgtSelModel : Fld := ⟨0x26, 0x070, 1, 4, 2, .rw, 0x0⟩
/-- WGT_SEL.SLOT (R381) -/
def Fld.wgtSelSlot : Fld := ⟨0x26, 0x070, 1, 1, 0, .rw, 0x0⟩
/-- WGT_GEN_STAT.STATE (R381) -/
def Fld.wgtGenStatState : Fld := ⟨0x26, 0x074, 1, 31, 29, .ro, 0x0⟩
/-- WGT_GEN_STAT.SUSPECT (R381) -/
def Fld.wgtGenStatSuspect : Fld := ⟨0x26, 0x074, 1, 28, 28, .ro, 0x0⟩
/-- WGT_GEN_STAT.PINNED (R381) -/
def Fld.wgtGenStatPinned : Fld := ⟨0x26, 0x074, 1, 27, 27, .ro, 0x0⟩
/-- WGT_GEN_STAT.BOUND (R381) -/
def Fld.wgtGenStatBound : Fld := ⟨0x26, 0x074, 1, 16, 0, .ro, 0x0⟩
/-- WGT_GEN_NUM.GEN (R381) -/
def Fld.wgtGenNum : Fld := ⟨0x26, 0x078, 1, 31, 0, .ro, 0x0⟩
/-- WGT_SUSPECT.VALID (R381) -/
def Fld.wgtSuspectValid : Fld := ⟨0x26, 0x07C, 1, 31, 31, .w1c, 0x0⟩
/-- WGT_SUSPECT.MODEL (R381) -/
def Fld.wgtSuspectModel : Fld := ⟨0x26, 0x07C, 1, 18, 16, .ro, 0x0⟩
/-- WGT_SUSPECT.SHARD (R381) -/
def Fld.wgtSuspectShard : Fld := ⟨0x26, 0x07C, 1, 15, 0, .ro, 0x0⟩
/-- TURN_GO.GO (R381) -/
def Fld.turnGoGo : Fld := ⟨0x26, 0x080, 1, 0, 0, .w1s, 0x0⟩
/-- WGT_DIGEST_FAIL_CNT.COUNT (R381) -/
def Fld.wgtDigestFailCnt : Fld := ⟨0x26, 0x084, 1, 31, 0, .rc, 0x0⟩
/-- WGT_WALK_CNT.COUNT (R381) -/
def Fld.wgtWalkCnt : Fld := ⟨0x26, 0x088, 1, 31, 0, .rc, 0x0⟩
/-- WGT_STAGE_MISS_CNT.COUNT (R381) -/
def Fld.wgtStageMissCnt : Fld := ⟨0x26, 0x08C, 1, 31, 0, .rc, 0x0⟩
/-- WGT_EVICT_CNT.COUNT (R381) -/
def Fld.wgtEvictCnt : Fld := ⟨0x26, 0x090, 1, 31, 0, .rc, 0x0⟩
/-- WGT_MISPLACE_CNT.COUNT (R381) -/
def Fld.wgtMisplaceCnt : Fld := ⟨0x26, 0x094, 1, 31, 0, .rc, 0x0⟩
/-- TURN_STAT.OPEN (R382) -/
def Fld.turnStatOpen : Fld := ⟨0x07, 0x040, 1, 31, 31, .ro, 0x0⟩
/-- TURN_STAT.PHASE (R382) -/
def Fld.turnStatPhase : Fld := ⟨0x07, 0x040, 1, 30, 28, .ro, 0x0⟩
/-- TURN_STAT.CTX (R382) -/
def Fld.turnStatCtx : Fld := ⟨0x07, 0x040, 1, 27, 22, .ro, 0x0⟩
/-- TURN_TIMEOUT.LIMIT (R382) -/
def Fld.turnTimeoutLimit : Fld := ⟨0x07, 0x044, 1, 23, 0, .rw, 0x2710⟩
/-- TURN_RELAY_US.TIME (R382) -/
def Fld.turnRelayUs : Fld := ⟨0x07, 0x048, 1, 31, 0, .ro, 0x0⟩
/-- TURN_RETRAIN_US.TIME (R382) -/
def Fld.turnRetrainUs : Fld := ⟨0x07, 0x04C, 1, 31, 0, .ro, 0x0⟩
/-- TURN_DECIDE_US.TIME (R382) -/
def Fld.turnDecideUs : Fld := ⟨0x07, 0x050, 1, 31, 0, .ro, 0x0⟩
/-- TURN_CNT.COUNT (R382) -/
def Fld.turnCnt : Fld := ⟨0x07, 0x054, 1, 31, 0, .rc, 0x0⟩
/-- TURN_ABORT_CNT.COUNT (R382) -/
def Fld.turnAbortCnt : Fld := ⟨0x07, 0x058, 1, 31, 0, .rc, 0x0⟩
/-- STR_CTL.REPLAY_TIMEOUT (R413) -/
def Fld.strCtlReplayTimeout : Fld := ⟨0x16, 0x040, 1, 15, 8, .rw, 0xA⟩
/-- STR_CTL.LOOPBACK (R413) -/
def Fld.strCtlLoopback : Fld := ⟨0x16, 0x040, 1, 1, 1, .rw, 0x0⟩
/-- STR_CTL.EN (R413) -/
def Fld.strCtlEn : Fld := ⟨0x16, 0x040, 1, 0, 0, .rw, 0x1⟩
/-- STR_RETRAIN.GO (R413) -/
def Fld.strRetrainGo : Fld := ⟨0x16, 0x044, 1, 0, 0, .w1s, 0x0⟩
/-- STR_STAT.STATE (R413) -/
def Fld.strStatState : Fld := ⟨0x16, 0x048, 1, 31, 28, .ro, 0x0⟩
/-- STR_STAT.WIDTH8 (R413) -/
def Fld.strStatWidth8 : Fld := ⟨0x16, 0x048, 1, 27, 27, .ro, 0x0⟩
/-- STR_STAT.RESUMED (R413) -/
def Fld.strStatResumed : Fld := ⟨0x16, 0x048, 1, 26, 26, .ro, 0x0⟩
/-- STR_STAT.REASON (R413) -/
def Fld.strStatReason : Fld := ⟨0x16, 0x048, 1, 2, 0, .ro, 0x0⟩
/-- STR_PEER.VALID (R413) -/
def Fld.strPeerValid : Fld := ⟨0x16, 0x04C, 1, 31, 31, .ro, 0x0⟩
/-- STR_PEER.STRAIT (R413) -/
def Fld.strPeerStrait : Fld := ⟨0x16, 0x04C, 1, 18, 14, .ro, 0x0⟩
/-- STR_PEER.FABRIC_ID (R413) -/
def Fld.strPeerFabricId : Fld := ⟨0x16, 0x04C, 1, 13, 0, .ro, 0x3FFF⟩
/-- STR_LANES.RX_GOOD (R413) -/
def Fld.strLanesRxGood : Fld := ⟨0x16, 0x050, 1, 31, 16, .ro, 0x0⟩
/-- STR_LANES.TX_ACTIVE (R413) -/
def Fld.strLanesTxActive : Fld := ⟨0x16, 0x050, 1, 15, 0, .ro, 0x0⟩
/-- STR_LANE_SEL.LANE (R413) -/
def Fld.strLaneSelLane : Fld := ⟨0x16, 0x054, 1, 3, 0, .rw, 0x0⟩
/-- STR_LANE_STAT.LOCK (R413) -/
def Fld.strLaneStatLock : Fld := ⟨0x16, 0x058, 1, 31, 31, .ro, 0x0⟩
/-- STR_LANE_STAT.SKEW (R413) -/
def Fld.strLaneStatSkew : Fld := ⟨0x16, 0x058, 1, 30, 24, .ro, 0x0⟩
/-- STR_LANE_STAT.RX_OMA (R413) -/
def Fld.strLaneStatRxOma : Fld := ⟨0x16, 0x058, 1, 15, 0, .ro, 0x0⟩
/-- STR_FEC_CORR_CNT.COUNT (R413) -/
def Fld.strFecCorrCnt : Fld := ⟨0x16, 0x05C, 1, 31, 0, .rc, 0x0⟩
/-- STR_FEC_UNCORR_CNT.COUNT (R413) -/
def Fld.strFecUncorrCnt : Fld := ⟨0x16, 0x060, 1, 31, 0, .rc, 0x0⟩
/-- STR_CRC_ERR_CNT.COUNT (R413) -/
def Fld.strCrcErrCnt : Fld := ⟨0x16, 0x064, 1, 31, 0, .rc, 0x0⟩
/-- STR_REPLAY_CNT.COUNT (R413) -/
def Fld.strReplayCnt : Fld := ⟨0x16, 0x068, 1, 31, 0, .rc, 0x0⟩
/-- STR_RETRAIN_CNT.COUNT (R413) -/
def Fld.strRetrainCnt : Fld := ⟨0x16, 0x06C, 1, 31, 0, .rc, 0x0⟩
/-- STR_LOCK_FAIL_CNT.COUNT (R413) -/
def Fld.strLockFailCnt : Fld := ⟨0x16, 0x070, 1, 31, 0, .rc, 0x0⟩
/-- STR_MISROUTE_CNT.COUNT (R413) -/
def Fld.strMisrouteCnt : Fld := ⟨0x16, 0x074, 1, 31, 0, .rc, 0x0⟩
/-- STR_INJ_CTL.MODE (R413) -/
def Fld.strInjCtlMode : Fld := ⟨0x16, 0x080, 1, 31, 30, .rw, 0x0⟩
/-- STR_INJ_CTL.LAYER (R413) -/
def Fld.strInjCtlLayer : Fld := ⟨0x16, 0x080, 1, 29, 29, .rw, 0x0⟩
/-- STR_INJ_CTL.TRIG (R413) -/
def Fld.strInjCtlTrig : Fld := ⟨0x16, 0x080, 1, 28, 28, .rw, 0x0⟩
/-- STR_INJ_CTL.CTX (R413) -/
def Fld.strInjCtlCtx : Fld := ⟨0x16, 0x080, 1, 27, 22, .rw, 0x0⟩
/-- STR_INJ_CTL.PARAM (R413) -/
def Fld.strInjCtlParam : Fld := ⟨0x16, 0x080, 1, 15, 0, .rw, 0x0⟩
/-- STR_INJ_PATTERN.PATTERN (R413) -/
def Fld.strInjPattern : Fld := ⟨0x16, 0x084, 1, 31, 0, .rw, 0x0⟩
/-- STR_INJ_OFFSET.OFFSET (R413) -/
def Fld.strInjOffsetOffset : Fld := ⟨0x16, 0x088, 1, 9, 0, .rw, 0x0⟩
/-- STR_INJ_CNT.COUNT (R413) -/
def Fld.strInjCnt : Fld := ⟨0x16, 0x08C, 1, 31, 0, .rc, 0x0⟩
/-- FAB_ID.ID (R414) -/
def Fld.fabIdId : Fld := ⟨0x08, 0x040, 1, 13, 0, .rwl, 0x3FFF⟩
/-- FAB_SYSTEM.SYSTEM (R414) -/
def Fld.fabSystem : Fld := ⟨0x08, 0x044, 1, 31, 0, .rwl, 0x0⟩
/-- FAB_LOCK.LOCK (R414) -/
def Fld.fabLockLock : Fld := ⟨0x08, 0x048, 1, 0, 0, .w1s, 0x0⟩
/-- RT_CTL.LOAD (R414) -/
def Fld.rtCtlLoad : Fld := ⟨0x08, 0x04C, 1, 0, 0, .w1s, 0x0⟩
/-- RT_IMAGE_LO.ADDR (R414) -/
def Fld.rtImageLoAddr : Fld := ⟨0x08, 0x050, 1, 31, 6, .rw, 0x0⟩
/-- RT_IMAGE_HI.ADDR (R414) -/
def Fld.rtImageHiAddr : Fld := ⟨0x08, 0x054, 1, 15, 0, .rw, 0x0⟩
/-- RT_INDEX.INDEX (R414) -/
def Fld.rtIndexIndex : Fld := ⟨0x08, 0x058, 1, 13, 0, .rw, 0x0⟩
/-- RT_ENTRY.ENTRY (R414) -/
def Fld.rtEntry : Fld := ⟨0x08, 0x05C, 1, 31, 0, .rw, 0x0⟩
/-- RT_STAT.ERR (R414) -/
def Fld.rtStatErr : Fld := ⟨0x08, 0x060, 1, 17, 15, .ro, 0x0⟩
/-- RT_STAT.VALID (R414) -/
def Fld.rtStatValid : Fld := ⟨0x08, 0x060, 1, 14, 0, .ro, 0x0⟩
/-- RT_LOAD_CNT.COUNT (R414) -/
def Fld.rtLoadCnt : Fld := ⟨0x08, 0x064, 1, 31, 0, .rc, 0x0⟩
/-- CW_CTL.REPLAY_TIMEOUT (R429) -/
def Fld.cwCtlReplayTimeout : Fld := ⟨0x09, 0x040, 1, 15, 8, .rw, 0x4⟩
/-- CW_CTL.RETRAIN (R429) -/
def Fld.cwCtlRetrain : Fld := ⟨0x09, 0x040, 1, 0, 0, .w1s, 0x0⟩
/-- CW_STAT.STATE (R429) -/
def Fld.cwStatState : Fld := ⟨0x09, 0x044, 1, 31, 29, .ro, 0x0⟩
/-- CW_STAT.WIDTH8 (R429) -/
def Fld.cwStatWidth8 : Fld := ⟨0x09, 0x044, 1, 28, 28, .ro, 0x0⟩
/-- CW_STAT.REVERSED (R429) -/
def Fld.cwStatReversed : Fld := ⟨0x09, 0x044, 1, 27, 27, .ro, 0x0⟩
/-- CW_STAT.READY (R429) -/
def Fld.cwStatReady : Fld := ⟨0x09, 0x044, 1, 26, 26, .ro, 0x0⟩
/-- CW_STAT.RESUMED (R429) -/
def Fld.cwStatResumed : Fld := ⟨0x09, 0x044, 1, 25, 25, .ro, 0x0⟩
/-- CW_CRC_ERR_CNT.COUNT (R429) -/
def Fld.cwCrcErrCnt : Fld := ⟨0x09, 0x048, 1, 31, 0, .rc, 0x0⟩
/-- CW_REPLAY_CNT.COUNT (R429) -/
def Fld.cwReplayCnt : Fld := ⟨0x09, 0x04C, 1, 31, 0, .rc, 0x0⟩
/-- CW_RETRAIN_CNT.COUNT (R429) -/
def Fld.cwRetrainCnt : Fld := ⟨0x09, 0x050, 1, 31, 0, .rc, 0x0⟩
/-- CW_DROP_CNT.COUNT (R429) -/
def Fld.cwDropCnt : Fld := ⟨0x09, 0x054, 1, 31, 0, .rc, 0x0⟩
/-- CW_DROP_CAPT.VALID (R429) -/
def Fld.cwDropCaptValid : Fld := ⟨0x09, 0x058, 1, 31, 31, .w1c, 0x0⟩
/-- CW_DROP_CAPT.STATUS (R429) -/
def Fld.cwDropCaptStatus : Fld := ⟨0x09, 0x058, 1, 30, 27, .ro, 0x0⟩
/-- CW_DROP_CAPT.CTX (R429) -/
def Fld.cwDropCaptCtx : Fld := ⟨0x09, 0x058, 1, 26, 21, .ro, 0x0⟩
/-- CW_NOTREADY_CNT.COUNT (R429) -/
def Fld.cwNotreadyCnt : Fld := ⟨0x09, 0x05C, 1, 31, 0, .rc, 0x0⟩
/-- CW_INJ_CTL.MODE (R429) -/
def Fld.cwInjCtlMode : Fld := ⟨0x09, 0x080, 1, 31, 30, .rw, 0x0⟩
/-- CW_INJ_CTL.DIR (R429) -/
def Fld.cwInjCtlDir : Fld := ⟨0x09, 0x080, 1, 29, 29, .rw, 0x0⟩
/-- CW_INJ_CTL.TRIG (R429) -/
def Fld.cwInjCtlTrig : Fld := ⟨0x09, 0x080, 1, 28, 28, .rw, 0x0⟩
/-- CW_INJ_CTL.CTX (R429) -/
def Fld.cwInjCtlCtx : Fld := ⟨0x09, 0x080, 1, 27, 22, .rw, 0x0⟩
/-- CW_INJ_CTL.PARAM (R429) -/
def Fld.cwInjCtlParam : Fld := ⟨0x09, 0x080, 1, 15, 0, .rw, 0x0⟩
/-- CW_INJ_PATTERN.PATTERN (R429) -/
def Fld.cwInjPattern : Fld := ⟨0x09, 0x084, 1, 31, 0, .rw, 0x0⟩
/-- CW_INJ_OFFSET.OFFSET (R429) -/
def Fld.cwInjOffsetOffset : Fld := ⟨0x09, 0x088, 1, 6, 0, .rw, 0x0⟩
/-- CW_INJ_CNT.COUNT (R429) -/
def Fld.cwInjCnt : Fld := ⟨0x09, 0x08C, 1, 31, 0, .rc, 0x0⟩
/-- STO_CTL.ACK_EXP (R439) -/
def Fld.stoCtlAckExp : Fld := ⟨0x0A, 0x040, 1, 12, 8, .rw, 0xE⟩
/-- STO_CTL.EN (R439) -/
def Fld.stoCtlEn : Fld := ⟨0x0A, 0x040, 1, 0, 0, .rw, 0x0⟩
/-- STO_STAT.LINK (R439) -/
def Fld.stoStatLink : Fld := ⟨0x0A, 0x044, 1, 31, 31, .ro, 0x0⟩
/-- STO_STAT.QP_OPEN (R439) -/
def Fld.stoStatQpOpen : Fld := ⟨0x0A, 0x044, 1, 10, 0, .ro, 0x0⟩
/-- STO_MAC_LO.MAC (R439) -/
def Fld.stoMacLo : Fld := ⟨0x0A, 0x048, 1, 31, 0, .ro, 0x0⟩
/-- STO_MAC_HI.MAC (R439) -/
def Fld.stoMacHiMac : Fld := ⟨0x0A, 0x04C, 1, 15, 0, .ro, 0x0⟩
/-- STO_IP_CTL.IPV6 (R439) -/
def Fld.stoIpCtlIpv6 : Fld := ⟨0x0A, 0x050, 1, 31, 31, .rw, 0x0⟩
/-- STO_IP_CTL.VLAN_EN (R439) -/
def Fld.stoIpCtlVlanEn : Fld := ⟨0x0A, 0x050, 1, 30, 30, .rw, 0x0⟩
/-- STO_IP_CTL.PCP (R439) -/
def Fld.stoIpCtlPcp : Fld := ⟨0x0A, 0x050, 1, 29, 27, .rw, 0x3⟩
/-- STO_IP_CTL.DSCP (R439) -/
def Fld.stoIpCtlDscp : Fld := ⟨0x0A, 0x050, 1, 26, 21, .rw, 0x1A⟩
/-- STO_IP_CTL.VLAN (R439) -/
def Fld.stoIpCtlVlan : Fld := ⟨0x0A, 0x050, 1, 11, 0, .rw, 0x0⟩
/-- STO_IP.ADDR (R439) -/
def Fld.stoIp : Fld := ⟨0x0A, 0x054, 4, 31, 0, .rw, 0x0⟩
/-- STO_TGT_LO.BASE (R439) -/
def Fld.stoTgtLoBase : Fld := ⟨0x0A, 0x064, 1, 31, 16, .rw, 0x0⟩
/-- STO_TGT_HI.BASE (R439) -/
def Fld.stoTgtHiBase : Fld := ⟨0x0A, 0x068, 1, 15, 0, .rw, 0x0⟩
/-- STO_CMD_CNT.COUNT (R439) -/
def Fld.stoCmdCnt : Fld := ⟨0x0A, 0x06C, 1, 31, 0, .rc, 0x0⟩
/-- STO_RETRY_CNT.COUNT (R439) -/
def Fld.stoRetryCnt : Fld := ⟨0x0A, 0x070, 1, 31, 0, .rc, 0x0⟩
/-- STO_ERR_CNT.COUNT (R439) -/
def Fld.stoErrCnt : Fld := ⟨0x0A, 0x074, 1, 31, 0, .rc, 0x0⟩
/-- STO_CNP_CNT.COUNT (R439) -/
def Fld.stoCnpCnt : Fld := ⟨0x0A, 0x078, 1, 31, 0, .rc, 0x0⟩
/-- STO_DROP_CNT.COUNT (R439) -/
def Fld.stoDropCnt : Fld := ⟨0x0A, 0x07C, 1, 31, 0, .rc, 0x0⟩
/-- STO_ERR_CAPT.VALID (R439) -/
def Fld.stoErrCaptValid : Fld := ⟨0x0A, 0x080, 1, 31, 31, .w1c, 0x0⟩
/-- STO_ERR_CAPT.CTX (R439) -/
def Fld.stoErrCaptCtx : Fld := ⟨0x0A, 0x080, 1, 30, 25, .ro, 0x0⟩
/-- STO_ERR_DETAIL.DETAIL (R439) -/
def Fld.stoErrDetail : Fld := ⟨0x0A, 0x084, 1, 31, 0, .ro, 0x0⟩
/-- PWR_CAP.CAP (R470) -/
def Fld.pwrCapCap : Fld := ⟨0x04, 0x040, 1, 15, 0, .rw, 0x2EE0⟩
/-- PWR_STAT.THROTTLE (R470) -/
def Fld.pwrStatThrottle : Fld := ⟨0x04, 0x044, 1, 31, 31, .ro, 0x0⟩
/-- PWR_STAT.UV (R470) -/
def Fld.pwrStatUv : Fld := ⟨0x04, 0x044, 1, 30, 30, .ro, 0x0⟩
/-- PWR_STAT.INPUT_W (R470) -/
def Fld.pwrStatInputW : Fld := ⟨0x04, 0x044, 1, 15, 0, .ro, 0x0⟩
/-- PWR_PTIME_LO.TIME (R470) -/
def Fld.pwrPtimeLo : Fld := ⟨0x04, 0x048, 1, 31, 0, .ro, 0x0⟩
/-- PWR_PTIME_HI.TIME (R470) -/
def Fld.pwrPtimeHi : Fld := ⟨0x04, 0x04C, 1, 31, 0, .ro, 0x0⟩
/-- PWR_LEDGER_LO.UJ (R470) -/
def Fld.pwrLedgerLo : Fld := ⟨0x04, 0x050, 1, 31, 0, .ro, 0x0⟩
/-- PWR_LEDGER_HI.UJ (R470) -/
def Fld.pwrLedgerHi : Fld := ⟨0x04, 0x054, 1, 31, 0, .ro, 0x0⟩
/-- PWR_CLASS_SEL.CLASS (R470) -/
def Fld.pwrClassSelClass : Fld := ⟨0x04, 0x058, 1, 2, 0, .rw, 0x0⟩
/-- PWR_CLASS_LO.UJ (R470) -/
def Fld.pwrClassLo : Fld := ⟨0x04, 0x05C, 1, 31, 0, .ro, 0x0⟩
/-- PWR_CLASS_HI.UJ (R470) -/
def Fld.pwrClassHi : Fld := ⟨0x04, 0x060, 1, 31, 0, .ro, 0x0⟩
/-- PWR_THROTTLE_CNT.COUNT (R470) -/
def Fld.pwrThrottleCnt : Fld := ⟨0x04, 0x064, 1, 31, 0, .rc, 0x0⟩
/-- PWR_TEMP_MAX.SENSOR (R470) -/
def Fld.pwrTempMaxSensor : Fld := ⟨0x04, 0x068, 1, 31, 16, .ro, 0x0⟩
/-- PWR_TEMP_MAX.TEMP (R470) -/
def Fld.pwrTempMaxTemp : Fld := ⟨0x04, 0x068, 1, 15, 0, .ro, 0x0⟩
/-- ISL_PWR_CTL.FORCE (R471) -/
def Fld.islPwrCtlForce : Fld := ⟨0x15, 0x040, 1, 31, 30, .rw, 0x0⟩
/-- ISL_PWR_CTL.OP_MAX (R471) -/
def Fld.islPwrCtlOpMax : Fld := ⟨0x15, 0x040, 1, 29, 28, .rw, 0x0⟩
/-- ISL_PWR_CTL.OP_MIN (R471) -/
def Fld.islPwrCtlOpMin : Fld := ⟨0x15, 0x040, 1, 27, 26, .rw, 0x3⟩
/-- ISL_PWR_CTL.SLEEP_EN (R471) -/
def Fld.islPwrCtlSleepEn : Fld := ⟨0x15, 0x040, 1, 25, 25, .rw, 0x1⟩
/-- ISL_PWR_CTL.OFF_EN (R471) -/
def Fld.islPwrCtlOffEn : Fld := ⟨0x15, 0x040, 1, 24, 24, .rw, 0x0⟩
/-- ISL_IDLE.OFF_MS (R471) -/
def Fld.islIdleOffMs : Fld := ⟨0x15, 0x044, 1, 31, 16, .rw, 0x64⟩
/-- ISL_IDLE.SLEEP_US (R471) -/
def Fld.islIdleSleepUs : Fld := ⟨0x15, 0x044, 1, 15, 0, .rw, 0x64⟩
/-- ISL_CTL.WAKE (R471) -/
def Fld.islCtlWake : Fld := ⟨0x15, 0x048, 1, 0, 0, .w1s, 0x0⟩
/-- ISL_STAT.STATE (R471) -/
def Fld.islStatState : Fld := ⟨0x15, 0x04C, 1, 31, 29, .ro, 0x0⟩
/-- ISL_STAT.OP (R471) -/
def Fld.islStatOp : Fld := ⟨0x15, 0x04C, 1, 28, 27, .ro, 0x0⟩
/-- ISL_STAT.READY (R471) -/
def Fld.islStatReady : Fld := ⟨0x15, 0x04C, 1, 26, 26, .ro, 0x0⟩
/-- ISL_STAT.HOLD (R471) -/
def Fld.islStatHold : Fld := ⟨0x15, 0x04C, 1, 25, 25, .ro, 0x0⟩
/-- ISL_RAIL_CFG.HYST_MV (R471) -/
def Fld.islRailCfgHystMv : Fld := ⟨0x15, 0x050, 1, 23, 16, .rw, 0xA⟩
/-- ISL_RAIL_CFG.RESET_MV (R471) -/
def Fld.islRailCfgResetMv : Fld := ⟨0x15, 0x050, 1, 15, 8, .rw, 0x50⟩
/-- ISL_RAIL_CFG.WARN_MV (R471) -/
def Fld.islRailCfgWarnMv : Fld := ⟨0x15, 0x050, 1, 7, 0, .rw, 0x28⟩
/-- ISL_RAIL_NOW.MV (R471) -/
def Fld.islRailNowMv : Fld := ⟨0x15, 0x054, 1, 9, 0, .ro, 0x0⟩
/-- ISL_DIP_MIN.MV (R471) -/
def Fld.islDipMinMv : Fld := ⟨0x15, 0x058, 1, 9, 0, .ro, 0x0⟩
/-- ISL_DIP_CNT.COUNT (R471) -/
def Fld.islDipCnt : Fld := ⟨0x15, 0x05C, 1, 31, 0, .rc, 0x0⟩
/-- ISL_UV_RESET_CNT.COUNT (R471) -/
def Fld.islUvResetCnt : Fld := ⟨0x15, 0x060, 1, 31, 0, .rc, 0x0⟩
/-- ISL_THROTTLE_CNT.COUNT (R471) -/
def Fld.islThrottleCnt : Fld := ⟨0x15, 0x064, 1, 31, 0, .rc, 0x0⟩
/-- ISL_WAKE_CNT.COUNT (R471) -/
def Fld.islWakeCnt : Fld := ⟨0x15, 0x068, 1, 31, 0, .rc, 0x0⟩
/-- ISL_TEMP.TEMP (R471) -/
def Fld.islTempTemp : Fld := ⟨0x15, 0x06C, 1, 15, 0, .ro, 0x0⟩
/-- ISL_LEDGER_LO.UJ (R471) -/
def Fld.islLedgerLo : Fld := ⟨0x15, 0x070, 1, 31, 0, .ro, 0x0⟩
/-- ISL_LEDGER_HI.UJ (R471) -/
def Fld.islLedgerHi : Fld := ⟨0x15, 0x074, 1, 31, 0, .ro, 0x0⟩
/-- ENG_CAP_1MS.W (R472) -/
def Fld.engCap1msW : Fld := ⟨0x22, 0x040, 1, 15, 0, .rw, 0x0⟩
/-- ENG_CAP_100MS.W (R472) -/
def Fld.engCap100msW : Fld := ⟨0x22, 0x044, 1, 15, 0, .rw, 0x0⟩
/-- ENG_CAP_1S.W (R472) -/
def Fld.engCap1sW : Fld := ⟨0x22, 0x048, 1, 15, 0, .rw, 0x0⟩
/-- ENG_DEFAULT_EST.UJ (R472) -/
def Fld.engDefaultEst : Fld := ⟨0x22, 0x04C, 1, 31, 0, .rw, 0x3E8⟩
/-- ENG_LEDGER_LO.UJ (R472) -/
def Fld.engLedgerLo : Fld := ⟨0x22, 0x050, 1, 31, 0, .ro, 0x0⟩
/-- ENG_LEDGER_HI.UJ (R472) -/
def Fld.engLedgerHi : Fld := ⟨0x22, 0x054, 1, 31, 0, .ro, 0x0⟩
/-- ENG_CAL_SEL.CLASS (R472) -/
def Fld.engCalSelClass : Fld := ⟨0x22, 0x058, 1, 7, 0, .rw, 0x0⟩
/-- ENG_CAL.FACTOR (R472) -/
def Fld.engCalFactor : Fld := ⟨0x22, 0x05C, 1, 15, 0, .rw, 0x100⟩
/-- ENG_USED_1MS.UJ (R472) -/
def Fld.engUsed1ms : Fld := ⟨0x22, 0x060, 1, 31, 0, .ro, 0x0⟩
/-- ENG_RESERVED.UJ (R472) -/
def Fld.engReserved : Fld := ⟨0x22, 0x064, 1, 31, 0, .ro, 0x0⟩
/-- ENG_WAIT_CNT.COUNT (R472) -/
def Fld.engWaitCnt : Fld := ⟨0x22, 0x068, 1, 31, 0, .rc, 0x0⟩
/-- ENG_PAUSE_CNT.COUNT (R472) -/
def Fld.engPauseCnt : Fld := ⟨0x22, 0x06C, 1, 31, 0, .rc, 0x0⟩
/-- MEM_CTL.EXCLUDE (R495) -/
def Fld.memCtlExclude : Fld := ⟨0x14, 0x040, 1, 31, 31, .rw, 0x0⟩
/-- MEM_CTL.UE_LIMIT (R495) -/
def Fld.memCtlUeLimit : Fld := ⟨0x14, 0x040, 1, 7, 0, .rw, 0x10⟩
/-- MEM_SCRUB.HBM_MIN (R495) -/
def Fld.memScrubHbmMin : Fld := ⟨0x14, 0x044, 1, 31, 16, .rw, 0x5A0⟩
/-- MEM_SCRUB.SRAM_MS (R495) -/
def Fld.memScrubSramMs : Fld := ⟨0x14, 0x044, 1, 15, 0, .rw, 0x1F40⟩
/-- MEM_STAT.STACK (R495) -/
def Fld.memStatStack : Fld := ⟨0x14, 0x048, 1, 31, 31, .ro, 0x0⟩
/-- MEM_STAT.SCRUB_LATE (R495) -/
def Fld.memStatScrubLate : Fld := ⟨0x14, 0x048, 1, 30, 30, .w1c, 0x0⟩
/-- MEM_CE_CNT.COUNT (R495) -/
def Fld.memCeCnt : Fld := ⟨0x14, 0x04C, 1, 31, 0, .rc, 0x0⟩
/-- MEM_UE_CNT.COUNT (R495) -/
def Fld.memUeCnt : Fld := ⟨0x14, 0x050, 1, 31, 0, .rc, 0x0⟩
/-- MEM_POISON_READ_CNT.COUNT (R495) -/
def Fld.memPoisonReadCnt : Fld := ⟨0x14, 0x054, 1, 31, 0, .rc, 0x0⟩
/-- MEM_SCRUB_PASS_CNT.COUNT (R495) -/
def Fld.memScrubPassCnt : Fld := ⟨0x14, 0x058, 1, 31, 0, .rc, 0x0⟩
/-- MEM_RECUR_CNT.COUNT (R495) -/
def Fld.memRecurCnt : Fld := ⟨0x14, 0x05C, 1, 31, 0, .rc, 0x0⟩
/-- MEM_CAYS_EN.COUNT (R495) -/
def Fld.memCaysEnCount : Fld := ⟨0x14, 0x070, 1, 8, 0, .ro, 0x0⟩
/-- REP_CTL.CMD (R495) -/
def Fld.repCtlCmd : Fld := ⟨0x14, 0x074, 1, 1, 0, .wo, 0x0⟩
/-- REP_STAT.BUSY (R495) -/
def Fld.repStatBusy : Fld := ⟨0x14, 0x078, 1, 31, 31, .ro, 0x0⟩
/-- REP_STAT.REPAIRABLE (R495) -/
def Fld.repStatRepairable : Fld := ⟨0x14, 0x078, 1, 30, 30, .ro, 0x0⟩
/-- REP_STAT.ERR (R495) -/
def Fld.repStatErr : Fld := ⟨0x14, 0x078, 1, 29, 27, .ro, 0x0⟩
/-- REP_STAT.FOUND (R495) -/
def Fld.repStatFound : Fld := ⟨0x14, 0x078, 1, 15, 8, .ro, 0x0⟩
/-- REP_STAT.FREE (R495) -/
def Fld.repStatFree : Fld := ⟨0x14, 0x078, 1, 7, 0, .ro, 0x0⟩
/-- LOG_HEAD.ENTRY (R496) -/
def Fld.logHead : Fld := ⟨0x02, 0x040, 1, 31, 0, .ro, 0x0⟩
/-- LOG_SEL.SLOT (R496) -/
def Fld.logSelSlot : Fld := ⟨0x02, 0x044, 1, 8, 0, .rw, 0x0⟩
/-- LOG_DATA.DATA (R496) -/
def Fld.logData : Fld := ⟨0x02, 0x048, 8, 31, 0, .ro, 0x0⟩
/-- HB_CE_CNT.COUNT (R496) -/
def Fld.hbCeCnt : Fld := ⟨0x02, 0x068, 1, 31, 0, .rc, 0x0⟩
/-- MON_UNIT.UNIT (R497) -/
def Fld.monUnitUnit : Fld := ⟨0x03, 0x040, 1, 7, 0, .rw, 0x0⟩
/-- MON_CFG.EN (R497) -/
def Fld.monCfgEn : Fld := ⟨0x03, 0x044, 1, 31, 31, .rw, 0x0⟩
/-- MON_CFG.SRC_B (R497) -/
def Fld.monCfgSrcB : Fld := ⟨0x03, 0x044, 1, 30, 30, .rw, 0x0⟩
/-- MON_CFG.PAGE (R497) -/
def Fld.monCfgPage : Fld := ⟨0x03, 0x044, 1, 29, 16, .rw, 0x0⟩
/-- MON_CFG.CTX_EN (R497) -/
def Fld.monCfgCtxEn : Fld := ⟨0x03, 0x044, 1, 15, 15, .rw, 0x0⟩
/-- MON_CFG.CTX (R497) -/
def Fld.monCfgCtx : Fld := ⟨0x03, 0x044, 1, 14, 9, .rw, 0x0⟩
/-- MON_CFG.HI_EN (R497) -/
def Fld.monCfgHiEn : Fld := ⟨0x03, 0x044, 1, 8, 8, .rw, 0x0⟩
/-- MON_CFG.LO_EN (R497) -/
def Fld.monCfgLoEn : Fld := ⟨0x03, 0x044, 1, 7, 7, .rw, 0x0⟩
/-- MON_BIN.BASE (R497) -/
def Fld.monBinBase : Fld := ⟨0x03, 0x048, 1, 31, 8, .rw, 0x0⟩
/-- MON_BIN.SHIFT (R497) -/
def Fld.monBinShift : Fld := ⟨0x03, 0x048, 1, 7, 3, .rw, 0x0⟩
/-- MON_BIN.LOG2 (R497) -/
def Fld.monBinLog2 : Fld := ⟨0x03, 0x048, 1, 0, 0, .rw, 0x0⟩
/-- MON_INTERVAL.US (R497) -/
def Fld.monIntervalUs : Fld := ⟨0x03, 0x04C, 1, 15, 0, .rw, 0x3E8⟩
/-- MON_HI.HI (R497) -/
def Fld.monHi : Fld := ⟨0x03, 0x050, 1, 31, 0, .rw, 0x7FFFFFFF⟩
/-- MON_LO.LO (R497) -/
def Fld.monLo : Fld := ⟨0x03, 0x054, 1, 31, 0, .rw, 0x80000000⟩
/-- MON_CMD.CLEAR (R497) -/
def Fld.monCmdClear : Fld := ⟨0x03, 0x058, 1, 1, 1, .wo, 0x0⟩
/-- MON_CMD.SNAP (R497) -/
def Fld.monCmdSnap : Fld := ⟨0x03, 0x058, 1, 0, 0, .wo, 0x0⟩
/-- MON_LIMIT_CAPT.VALID (R497) -/
def Fld.monLimitCaptValid : Fld := ⟨0x03, 0x060, 1, 31, 31, .w1c, 0x0⟩
/-- MON_LIMIT_CAPT.UNIT (R497) -/
def Fld.monLimitCaptUnit : Fld := ⟨0x03, 0x060, 1, 7, 0, .ro, 0x0⟩
/-- MON_LIMIT_VAL.VALUE (R497) -/
def Fld.monLimitVal : Fld := ⟨0x03, 0x064, 1, 31, 0, .ro, 0x0⟩
/-- MON_MIN.MIN (R497) -/
def Fld.monMin : Fld := ⟨0x03, 0x080, 1, 31, 0, .ro, 0x7FFFFFFF⟩
/-- MON_MAX.MAX (R497) -/
def Fld.monMax : Fld := ⟨0x03, 0x084, 1, 31, 0, .ro, 0x80000000⟩
/-- MON_COUNT.COUNT (R497) -/
def Fld.monCount : Fld := ⟨0x03, 0x088, 1, 31, 0, .ro, 0x0⟩
/-- MON_SUM_LO.SUM (R497) -/
def Fld.monSumLo : Fld := ⟨0x03, 0x08C, 1, 31, 0, .ro, 0x0⟩
/-- MON_SUM_HI.SUM (R497) -/
def Fld.monSumHi : Fld := ⟨0x03, 0x090, 1, 31, 0, .ro, 0x0⟩
/-- MON_BIN.COUNT (R497) -/
def Fld.monBin : Fld := ⟨0x03, 0x100, 32, 31, 0, .ro, 0x0⟩
/-- CTX_CTL.EN (R519) -/
def Fld.ctxCtlEn : Fld := ⟨0x20, 0x040, 1, 31, 31, .rwOwner, 0x0⟩
/-- CTX_CTL.TEST_PERM (R519) -/
def Fld.ctxCtlTestPerm : Fld := ⟨0x20, 0x040, 1, 30, 30, .rwOwner, 0x0⟩
/-- CTX_RESET.GO (R519) -/
def Fld.ctxResetGo : Fld := ⟨0x20, 0x044, 1, 0, 0, .w1s, 0x0⟩
/-- CTX_STAT.RESETTING (R519) -/
def Fld.ctxStatResetting : Fld := ⟨0x20, 0x048, 1, 31, 31, .ro, 0x0⟩
/-- CTX_STAT.STREAMS_EN (R519) -/
def Fld.ctxStatStreamsEn : Fld := ⟨0x20, 0x048, 1, 15, 0, .ro, 0x0⟩
/-- CTX_TT_BASE_LO.BASE (R519) -/
def Fld.ctxTtBaseLoBase : Fld := ⟨0x20, 0x04C, 1, 31, 12, .rwOwner, 0x0⟩
/-- CTX_TT_BASE_HI.BASE (R519) -/
def Fld.ctxTtBaseHiBase : Fld := ⟨0x20, 0x050, 1, 8, 0, .rwOwner, 0x0⟩
/-- CTX_TT_INV.BUSY (R519) -/
def Fld.ctxTtInvBusy : Fld := ⟨0x20, 0x054, 1, 31, 31, .ro, 0x0⟩
/-- CTX_TT_INV.SCOPE (R519) -/
def Fld.ctxTtInvScope : Fld := ⟨0x20, 0x054, 1, 1, 1, .rwOwner, 0x0⟩
/-- CTX_TT_INV.GO (R519) -/
def Fld.ctxTtInvGo : Fld := ⟨0x20, 0x054, 1, 0, 0, .w1sOwner, 0x0⟩
/-- CTX_TT_INV_ADDR_LO.ADDR (R519) -/
def Fld.ctxTtInvAddrLoAddr : Fld := ⟨0x20, 0x058, 1, 31, 16, .rwOwner, 0x0⟩
/-- CTX_TT_INV_ADDR_HI.ADDR (R519) -/
def Fld.ctxTtInvAddrHiAddr : Fld := ⟨0x20, 0x05C, 1, 15, 0, .rwOwner, 0x0⟩
/-- CTX_FAULT_CNT.COUNT (R519) -/
def Fld.ctxFaultCnt : Fld := ⟨0x20, 0x060, 1, 31, 0, .rc, 0x0⟩
/-- CTX_FAULT_CAPT.VALID (R519) -/
def Fld.ctxFaultCaptValid : Fld := ⟨0x20, 0x064, 1, 31, 31, .w1c, 0x0⟩
/-- CTX_FAULT_CAPT.CAUSE (R519) -/
def Fld.ctxFaultCaptCause : Fld := ⟨0x20, 0x064, 1, 30, 28, .ro, 0x0⟩
/-- CTX_FAULT_CAPT.AGENT (R519) -/
def Fld.ctxFaultCaptAgent : Fld := ⟨0x20, 0x064, 1, 27, 24, .ro, 0x0⟩
/-- CTX_FAULT_CAPT.ISLAND (R519) -/
def Fld.ctxFaultCaptIsland : Fld := ⟨0x20, 0x064, 1, 23, 19, .ro, 0x0⟩
/-- CTX_FAULT_ADDR_LO.ADDR (R519) -/
def Fld.ctxFaultAddrLo : Fld := ⟨0x20, 0x068, 1, 31, 0, .ro, 0x0⟩
/-- CTX_FAULT_ADDR_HI.ADDR (R519) -/
def Fld.ctxFaultAddrHiAddr : Fld := ⟨0x20, 0x06C, 1, 15, 0, .ro, 0x0⟩
/-- CTX_IRQ_RANGE.COUNT (R519) -/
def Fld.ctxIrqRangeCount : Fld := ⟨0x20, 0x070, 1, 23, 12, .rwOwner, 0x20⟩
/-- CTX_IRQ_RANGE.BASE (R519) -/
def Fld.ctxIrqRangeBase : Fld := ⟨0x20, 0x070, 1, 10, 0, .rwOwner, 0x0⟩
/-- IRQ_VSEL.VECTOR (R519) -/
def Fld.irqVselVector : Fld := ⟨0x20, 0x074, 1, 10, 0, .rw, 0x0⟩
/-- IRQ_VCTL.PENDING (R519) -/
def Fld.irqVctlPending : Fld := ⟨0x20, 0x078, 1, 1, 1, .ro, 0x0⟩
/-- IRQ_VCTL.MASK (R519) -/
def Fld.irqVctlMask : Fld := ⟨0x20, 0x078, 1, 0, 0, .rw, 0x0⟩
/-- IRQ_DROP_CNT.COUNT (R519) -/
def Fld.irqDropCnt : Fld := ⟨0x20, 0x07C, 1, 31, 0, .rc, 0x0⟩
/-- CTX_QOS.CAY (R519) -/
def Fld.ctxQosCay : Fld := ⟨0x20, 0x080, 1, 31, 24, .rwOwner, 0x10⟩
/-- CTX_QOS.HBM (R519) -/
def Fld.ctxQosHbm : Fld := ⟨0x20, 0x080, 1, 23, 16, .rwOwner, 0x10⟩
/-- CTX_QOS.STRAIT (R519) -/
def Fld.ctxQosStrait : Fld := ⟨0x20, 0x080, 1, 15, 8, .rwOwner, 0x10⟩
/-- CTX_QOS.ENERGY (R519) -/
def Fld.ctxQosEnergy : Fld := ⟨0x20, 0x080, 1, 7, 0, .rwOwner, 0x10⟩
/-- CTX_QOS_CLASS.CLASS_MAX (R519) -/
def Fld.ctxQosClassClassMax : Fld := ⟨0x20, 0x084, 1, 1, 0, .rwOwner, 0x3⟩
/-- QOS_AGED_CNT.COUNT (R519) -/
def Fld.qosAgedCnt : Fld := ⟨0x20, 0x088, 1, 31, 0, .rc, 0x0⟩
/-- MOD_RESET.CLEAR (R520) -/
def Fld.modResetClear : Fld := ⟨0x00, 0x040, 1, 1, 1, .rw, 0x0⟩
/-- MOD_RESET.GO (R520) -/
def Fld.modResetGo : Fld := ⟨0x00, 0x040, 1, 0, 0, .w1s, 0x0⟩
/-- MOD_ISL_RESET.ISLANDS (R520) -/
def Fld.modIslResetIslands : Fld := ⟨0x00, 0x044, 1, 23, 0, .w1s, 0x0⟩
/-- MOD_TEST.LOCK (R520) -/
def Fld.modTestLock : Fld := ⟨0x00, 0x048, 1, 31, 31, .w1s, 0x0⟩
/-- MOD_TEST.EN (R520) -/
def Fld.modTestEn : Fld := ⟨0x00, 0x048, 1, 0, 0, .rw, 0x0⟩
/-- QOS_AGE.US (R520) -/
def Fld.qosAgeUs : Fld := ⟨0x00, 0x04C, 1, 23, 0, .rw, 0x2710⟩
/-- MOD_RESET_STAT.CLEARING (R520) -/
def Fld.modResetStatClearing : Fld := ⟨0x00, 0x050, 1, 31, 31, .ro, 0x0⟩
/-- MOD_RESET_STAT.SOURCE (R520) -/
def Fld.modResetStatSource : Fld := ⟨0x00, 0x050, 1, 2, 0, .ro, 0x0⟩
/-- ISL_RESET_CNT.COUNT (R520) -/
def Fld.islResetCnt : Fld := ⟨0x00, 0x054, 1, 31, 0, .rc, 0x0⟩
/-- FW_STAT.BUSY (R533) -/
def Fld.fwStatBusy : Fld := ⟨0x01, 0x040, 1, 31, 31, .ro, 0x0⟩
/-- FW_STAT.RECOVERY (R533) -/
def Fld.fwStatRecovery : Fld := ⟨0x01, 0x040, 1, 30, 30, .ro, 0x0⟩
/-- FW_STAT.BANK (R533) -/
def Fld.fwStatBank : Fld := ⟨0x01, 0x040, 1, 29, 29, .ro, 0x0⟩
/-- FW_STAT.ALT_VALID (R533) -/
def Fld.fwStatAltValid : Fld := ⟨0x01, 0x040, 1, 28, 28, .ro, 0x0⟩
/-- FW_STAT.ERR (R533) -/
def Fld.fwStatErr : Fld := ⟨0x01, 0x040, 1, 27, 24, .ro, 0x0⟩
/-- FW_STAT.SVN_RUN (R533) -/
def Fld.fwStatSvnRun : Fld := ⟨0x01, 0x040, 1, 14, 8, .ro, 0x0⟩
/-- FW_STAT.SVN_FUSE (R533) -/
def Fld.fwStatSvnFuse : Fld := ⟨0x01, 0x040, 1, 6, 0, .ro, 0x0⟩
/-- FW_CTL.REVOKE (R533) -/
def Fld.fwCtlRevoke : Fld := ⟨0x01, 0x044, 1, 3, 3, .w1s, 0x0⟩
/-- FW_CTL.ERASE_ALT (R533) -/
def Fld.fwCtlEraseAlt : Fld := ⟨0x01, 0x044, 1, 2, 2, .w1s, 0x0⟩
/-- FW_CTL.ADVANCE (R533) -/
def Fld.fwCtlAdvance : Fld := ⟨0x01, 0x044, 1, 1, 1, .w1s, 0x0⟩
/-- FW_CTL.INSTALL (R533) -/
def Fld.fwCtlInstall : Fld := ⟨0x01, 0x044, 1, 0, 0, .w1s, 0x0⟩
/-- FW_SRC_LO.ADDR (R533) -/
def Fld.fwSrcLoAddr : Fld := ⟨0x01, 0x048, 1, 31, 12, .rw, 0x0⟩
/-- FW_SRC_HI.ADDR (R533) -/
def Fld.fwSrcHiAddr : Fld := ⟨0x01, 0x04C, 1, 15, 0, .rw, 0x0⟩
/-- FW_LEN.BYTES (R533) -/
def Fld.fwLenBytes : Fld := ⟨0x01, 0x050, 1, 25, 0, .rw, 0x0⟩
/-- FW_ADVANCE_SVN.SVN (R533) -/
def Fld.fwAdvanceSvnSvn : Fld := ⟨0x01, 0x054, 1, 6, 0, .rw, 0x0⟩
/-- FW_KEY.REVOKED (R533) -/
def Fld.fwKeyRevoked : Fld := ⟨0x01, 0x058, 1, 9, 6, .ro, 0x0⟩
/-- FW_KEY.SLOT (R533) -/
def Fld.fwKeySlot : Fld := ⟨0x01, 0x058, 1, 1, 0, .rw, 0x0⟩
/-- FW_BOOT.NEXT (R533) -/
def Fld.fwBootNext : Fld := ⟨0x01, 0x05C, 1, 0, 0, .rw, 0x0⟩
/-- ATT_CTL.BUSY (R533) -/
def Fld.attCtlBusy : Fld := ⟨0x01, 0x060, 1, 31, 31, .ro, 0x0⟩
/-- ATT_CTL.GO (R533) -/
def Fld.attCtlGo : Fld := ⟨0x01, 0x060, 1, 0, 0, .w1s, 0x0⟩
/-- ATT_ADDR_LO.ADDR (R533) -/
def Fld.attAddrLoAddr : Fld := ⟨0x01, 0x064, 1, 31, 12, .rw, 0x0⟩
/-- ATT_ADDR_HI.ADDR (R533) -/
def Fld.attAddrHiAddr : Fld := ⟨0x01, 0x068, 1, 15, 0, .rw, 0x0⟩
/-- ATT_NONCE.NONCE (R533) -/
def Fld.attNonce : Fld := ⟨0x01, 0x06C, 8, 31, 0, .rw, 0x0⟩
/-- MEM_CE_CAPT0.VALID (R481) -/
def Fld.memCeCaptValid : Fld := ⟨0x14, 0x060, 1, 31, 31, .w1c, 0x0⟩
/-- MEM_CE_CAPT0.OVERFLOW (R481) -/
def Fld.memCeCaptOverflow : Fld := ⟨0x14, 0x060, 1, 30, 30, .w1c, 0x0⟩
/-- MEM_CE_CAPT0: MEM, TYPE, UNIT and CAY (R481) -/
def Fld.memCeCaptWhere : Fld := ⟨0x14, 0x060, 1, 29, 10, .ro, 0x0⟩
/-- MEM_CE_CAPT1.ADDR (R481) -/
def Fld.memCeCaptAddr : Fld := ⟨0x14, 0x064, 1, 31, 0, .ro, 0x0⟩
/-- MEM_CE_CAPT2: SYNDROME, SYMBOL, WORD and NBITS (R481) -/
def Fld.memCeCapt2 : Fld := ⟨0x14, 0x068, 1, 31, 4, .ro, 0x0⟩
/-- MEM_CE_CAPT3: CTX, SCRUB and PTIME (R481) -/
def Fld.memCeCapt3 : Fld := ⟨0x14, 0x06C, 1, 31, 0, .ro, 0x0⟩

/-- The fields of the Owner page. -/
def fldsOwner : List Fld :=
  [.modResetClear, .modResetGo, .modIslResetIslands, .modTestLock, .modTestEn, .qosAgeUs, .modResetStatClearing, .modResetStatSource, .islResetCnt]

/-- The fields of the Security page. -/
def fldsSecurity : List Fld :=
  [.fwStatBusy, .fwStatRecovery, .fwStatBank, .fwStatAltValid, .fwStatErr, .fwStatSvnRun, .fwStatSvnFuse, .fwCtlRevoke, .fwCtlEraseAlt, .fwCtlAdvance, .fwCtlInstall, .fwSrcLoAddr, .fwSrcHiAddr, .fwLenBytes, .fwAdvanceSvnSvn, .fwKeyRevoked, .fwKeySlot, .fwBootNext, .attCtlBusy, .attCtlGo, .attAddrLoAddr, .attAddrHiAddr, .attNonce]

/-- The fields of the Reliability page. -/
def fldsReliability : List Fld :=
  [.logHead, .logSelSlot, .logData, .hbCeCnt]

/-- The fields of the Monitor page. -/
def fldsMonitor : List Fld :=
  [.monUnitUnit, .monCfgEn, .monCfgSrcB, .monCfgPage, .monCfgCtxEn, .monCfgCtx, .monCfgHiEn, .monCfgLoEn, .monBinBase, .monBinShift, .monBinLog2, .monIntervalUs, .monHi, .monLo, .monCmdClear, .monCmdSnap, .monLimitCaptValid, .monLimitCaptUnit, .monLimitVal, .monMin, .monMax, .monCount, .monSumLo, .monSumHi, .monBin]

/-- The fields of the Power page. -/
def fldsPower : List Fld :=
  [.pwrCapCap, .pwrStatThrottle, .pwrStatUv, .pwrStatInputW, .pwrPtimeLo, .pwrPtimeHi, .pwrLedgerLo, .pwrLedgerHi, .pwrClassSelClass, .pwrClassLo, .pwrClassHi, .pwrThrottleCnt, .pwrTempMaxSensor, .pwrTempMaxTemp]

/-- The fields of the Transaction page. -/
def fldsTransaction : List Fld :=
  [.jnlCtlStackB, .jnlCtlStackA, .jnlCtlEn, .jnlSizeSize, .jnlBaseABase, .jnlBaseBBase, .jnlStatSingle, .jnlStatRecovering, .jnlStatRebuild, .jnlStatPlaceErr, .jnlStatFill, .jnlHighLevel, .jnlReplGo, .jnlReplStack, .jnlReplBase, .grpTimeoutLimit, .grpOpenOpen, .txnAbortCnt, .jnlReplayCnt, .jnlRewriteCnt, .accRefuseCnt]

/-- The fields of the Planner page. -/
def fldsPlanner : List Fld :=
  [.splCtlStackB, .splCtlStackA, .splCtlEn, .splBaseABase, .splBaseBBase, .splStatPlaceErr, .splStatSlotsUsed, .splAdaptersCopies, .splStepCnt]

/-- The fields of the Turn page. -/
def fldsTurn : List Fld :=
  [.turnStatOpen, .turnStatPhase, .turnStatCtx, .turnTimeoutLimit, .turnRelayUs, .turnRetrainUs, .turnDecideUs, .turnCnt, .turnAbortCnt]

/-- The fields of the Fabric page. -/
def fldsFabric : List Fld :=
  [.fabIdId, .fabSystem, .fabLockLock, .rtCtlLoad, .rtImageLoAddr, .rtImageHiAddr, .rtIndexIndex, .rtEntry, .rtStatErr, .rtStatValid, .rtLoadCnt]

/-- The fields of the Causeway page. -/
def fldsCauseway : List Fld :=
  [.cwCtlReplayTimeout, .cwCtlRetrain, .cwStatState, .cwStatWidth8, .cwStatReversed, .cwStatReady, .cwStatResumed, .cwCrcErrCnt, .cwReplayCnt, .cwRetrainCnt, .cwDropCnt, .cwDropCaptValid, .cwDropCaptStatus, .cwDropCaptCtx, .cwNotreadyCnt, .cwInjCtlMode, .cwInjCtlDir, .cwInjCtlTrig, .cwInjCtlCtx, .cwInjCtlParam, .cwInjPattern, .cwInjOffsetOffset, .cwInjCnt]

/-- The fields of the Storage page. -/
def fldsStorage : List Fld :=
  [.stoCtlAckExp, .stoCtlEn, .stoStatLink, .stoStatQpOpen, .stoMacLo, .stoMacHiMac, .stoIpCtlIpv6, .stoIpCtlVlanEn, .stoIpCtlPcp, .stoIpCtlDscp, .stoIpCtlVlan, .stoIp, .stoTgtLoBase, .stoTgtHiBase, .stoCmdCnt, .stoRetryCnt, .stoErrCnt, .stoCnpCnt, .stoDropCnt, .stoErrCaptValid, .stoErrCaptCtx, .stoErrDetail]

/-- The fields of the Array page. -/
def fldsArray : List Fld :=
  [.arrSelCay, .arrSelArray, .arrCfgShape, .arrCfgGangPos, .arrCfgRescale, .arrCfgAFmt, .arrCfgBFmt, .arrLatDisabled, .arrLatSpareRow, .arrLatSpareEn, .arrLatLatency, .arrStatInvalid, .arrStatHazard, .arrStatScaleErr, .arrStatBusy, .arrStatMasked, .arrCaptCause, .arrCaptRow, .arrCaptCol, .arrCaptKidx, .arrSatCnt, .arrHazardSlotSlot, .arrGatedLo, .arrGatedHi, .arrActiveLo, .arrActiveHi, .arrMaskSkip, .arrStallOperand, .arrStallCopy, .arrStallEnergy, .arrStallTxn, .arrStallStarve, .arrStallOther, .shadowCtlThresh, .shadowCtlRate, .shadowDone, .shadowSkip, .shadowOver, .shadowCaptValid, .shadowCaptCtx] ++
  [.shadowCaptCay, .shadowCaptArray, .shadowCaptLane, .shadowCaptD]

/-- The fields of the Cay page. -/
def fldsCay : List Fld :=
  [.caySelCay, .cayStatClock, .cayStatCtx, .cayStatThrBound, .cayStatThrBlocked, .cayStatShadowResv, .cayThrCause, .cayVecSatCnt, .cayWakeCnt, .cayLsZeroCnt, .cayCopyStatLastErr, .cayCopyStatHeld, .cayFenceBusyBusy, .seqStall, .vecStall, .copyStall]

/-- The fields of the ICache page. -/
def fldsICache : List Fld :=
  [.icCtlSpecWays, .icCtlRaDepth, .icCtlPfEn, .icStatSpecOpen, .icStatMissOut, .icHitLo, .icHitHi, .icMissLo, .icMissHi, .icInvalCnt, .icPfIssued, .icPfUsed, .icPfCancel, .icRaFault, .icRaStop, .icSpecLinesLines, .icSpecRequeue, .icSpecFail]

/-- The fields of the INum page. -/
def fldsINum : List Fld :=
  [.numiStatCaptValid, .numiStatCaptLost, .numiCaptSrcCtx, .numiCaptSrcCay, .numiCaptSrcArray, .numiCaptSrcUnit, .numiCaptSrcCause, .numiCaptSrcStream, .numiCaptCellRow, .numiCaptCellCol, .numiCaptKidx, .numiCaptSeqLo, .numiCaptSeqHi, .numiInvalidCnt, .numiSatCnt]

/-- The fields of the Mem page. -/
def fldsMem : List Fld :=
  [.memCtlExclude, .memCtlUeLimit, .memScrubHbmMin, .memScrubSramMs, .memStatStack, .memStatScrubLate, .memCeCnt, .memUeCnt, .memPoisonReadCnt, .memScrubPassCnt, .memRecurCnt, .memCaysEnCount, .repCtlCmd, .repStatBusy, .repStatRepairable, .repStatErr, .repStatFound, .repStatFree, .memCeCaptValid, .memCeCaptOverflow, .memCeCaptWhere, .memCeCaptAddr, .memCeCapt2, .memCeCapt3]

/-- The fields of the IPower page. -/
def fldsIPower : List Fld :=
  [.islPwrCtlForce, .islPwrCtlOpMax, .islPwrCtlOpMin, .islPwrCtlSleepEn, .islPwrCtlOffEn, .islIdleOffMs, .islIdleSleepUs, .islCtlWake, .islStatState, .islStatOp, .islStatReady, .islStatHold, .islRailCfgHystMv, .islRailCfgResetMv, .islRailCfgWarnMv, .islRailNowMv, .islDipMinMv, .islDipCnt, .islUvResetCnt, .islThrottleCnt, .islWakeCnt, .islTempTemp, .islLedgerLo, .islLedgerHi]

/-- The fields of the Strait page. -/
def fldsStrait : List Fld :=
  [.strCtlReplayTimeout, .strCtlLoopback, .strCtlEn, .strRetrainGo, .strStatState, .strStatWidth8, .strStatResumed, .strStatReason, .strPeerValid, .strPeerStrait, .strPeerFabricId, .strLanesRxGood, .strLanesTxActive, .strLaneSelLane, .strLaneStatLock, .strLaneStatSkew, .strLaneStatRxOma, .strFecCorrCnt, .strFecUncorrCnt, .strCrcErrCnt, .strReplayCnt, .strRetrainCnt, .strLockFailCnt, .strMisrouteCnt, .strInjCtlMode, .strInjCtlLayer, .strInjCtlTrig, .strInjCtlCtx, .strInjCtlParam, .strInjPattern, .strInjOffsetOffset, .strInjCnt]

/-- The fields of the Coll page. -/
def fldsColl : List Fld :=
  [.colCtlAckTimeout, .colCtlRetry, .colStatOpen, .colStatEarly, .colStatPosts, .colCrcFailCnt, .colReplayCnt, .colAbortCnt, .colNotopenCnt, .colRelayCnt, .colDupCnt, .colCrcCaptValid, .colCrcCaptCtx, .colCrcCaptSrcFabric, .colCrcCaptSrcIsland, .colCrcTagLo, .colCrcTagHiTag, .colStall]

/-- The fields of the Upd page. -/
def fldsUpd : List Fld :=
  [.updStatBusy, .updStatPgroups, .updTileLo, .updTileHi, .updSatCnt, .updInvalidCnt, .updCaptValid, .updCaptCtx, .updCaptPgroup, .updCaptTile, .updStall]

/-- The fields of the Ctx page. -/
def fldsCtx : List Fld :=
  [.ctxCtlEn, .ctxCtlTestPerm, .ctxResetGo, .ctxStatResetting, .ctxStatStreamsEn, .ctxTtBaseLoBase, .ctxTtBaseHiBase, .ctxTtInvBusy, .ctxTtInvScope, .ctxTtInvGo, .ctxTtInvAddrLoAddr, .ctxTtInvAddrHiAddr, .ctxFaultCnt, .ctxFaultCaptValid, .ctxFaultCaptCause, .ctxFaultCaptAgent, .ctxFaultCaptIsland, .ctxFaultAddrLo, .ctxFaultAddrHiAddr, .ctxIrqRangeCount, .ctxIrqRangeBase, .irqVselVector, .irqVctlPending, .irqVctlMask, .irqDropCnt, .ctxQosCay, .ctxQosHbm, .ctxQosStrait, .ctxQosEnergy, .ctxQosClassClassMax, .qosAgedCnt]

/-- The fields of the CNum page. -/
def fldsCNum : List Fld :=
  [.numcCtlFailInvalid, .numcSeed, .numcInvalidCnt, .numcSatCnt]

/-- The fields of the Energy page. -/
def fldsEnergy : List Fld :=
  [.engCap1msW, .engCap100msW, .engCap1sW, .engDefaultEst, .engLedgerLo, .engLedgerHi, .engCalSelClass, .engCalFactor, .engUsed1ms, .engReserved, .engWaitCnt, .engPauseCnt]

/-- The fields of the Serving page. -/
def fldsServing : List Fld :=
  [.srvCtlSpecMax, .srvCtlEn, .srvBudgetTokensM1, .srvChunkChunk, .srvQuotaSlots, .srvKvBaseLoBase, .srvKvBaseHiBase, .srvKvPagesPages, .srvKvLowLevel, .srvProgLoAddr, .srvProgHiAddr, .srvPmapBaseLoBase, .srvPmapBaseHiBase, .srvMaxPagesPages, .srvEvqCtlLog2N, .srvEvqCtlVector, .srvEvqBaseLoBase, .srvEvqBaseHi, .srvEvqConsumedLo, .srvEvqConsumedHi, .srvStatSlotsUsed, .srvKvFreePages, .srvStepLo, .srvStepHi, .srvSpecProposed, .srvSpecAccepted, .srvTrimCnt, .srvKvDeferCnt, .srvExpiredCnt, .srvEvqFullCnt]

/-- The fields of the Learn page. -/
def fldsLearn : List Fld :=
  [.qntCtlStreamCheck, .qntCtlForce, .qntSatLimit, .qntErrLimit, .qntStatsBaseLoBase, .qntStatsBaseHiBase, .qntChanTag, .qntChanBaseLoBase, .qntChanBaseHiBase, .qntChanCountEn, .qntChanCountCount, .lrnStatRuns, .lrnStatRefs, .lrnStep, .qntFallbackCnt, .qntLatchCnt, .qntStatCollide, .lrnOrphanCnt, .lrnWvHoldCnt, .lrnHandoffCnt, .lrnHandoffHeld]

/-- The fields of the CColl page. -/
def fldsCColl : List Fld :=
  [.sealTimeoutLimit, .colOpenOpen, .sealCommitCnt, .sealAbortCnt, .colRefuseCnt, .tgSelTgroup, .tgStatBound, .tgStatLive, .tgStatRoot, .tgStatPublish, .tgStatSeal, .tgSealed, .tgRootGen]

/-- The fields of the Weight page. -/
def fldsWeight : List Fld :=
  [.wgtCtlTurnPerm, .wgtCtlPolicy, .wgtQuotaPages, .wgtUsedPages, .wgtPoolLoBase, .wgtPoolHiBase, .wgtPoolSizePages, .wgtHostLoBase, .wgtHostHiBase, .wgtHostSizePages, .wgtWalkInterval, .wgtServeModel, .wgtServeGen, .wgtSelModel, .wgtSelSlot, .wgtGenStatState, .wgtGenStatSuspect, .wgtGenStatPinned, .wgtGenStatBound, .wgtGenNum, .wgtSuspectValid, .wgtSuspectModel, .wgtSuspectShard, .turnGoGo, .wgtDigestFailCnt, .wgtWalkCnt, .wgtStageMissCnt, .wgtEvictCnt, .wgtMisplaceCnt]

/-- The fields of the Window page. -/
def fldsWindow : List Fld :=
  [.lwAstatAstat, .lwAseqLo, .lwAseqHi, .lwNextLo, .lwNextHi, .lwDoneLo, .lwDoneHi, .lwCtlDepth, .lwCtlEn, .lwStatFull, .lwStatWaitCq, .lwStatPending, .cqBaseLoBase, .cqBaseHi, .cqCtlLog2N, .cqCtlVector, .cqConsumedLo, .cqConsumedHi, .cqFullCnt]

/-- The fields of a page by its block class (R548); the context windows are classes 0x3C to 0x3F (R540). -/
def fldsOf (cls : Nat) : List Fld :=
  match cls with
  | 0x00 => fldsOwner
  | 0x01 => fldsSecurity
  | 0x02 => fldsReliability
  | 0x03 => fldsMonitor
  | 0x04 => fldsPower
  | 0x05 => fldsTransaction
  | 0x06 => fldsPlanner
  | 0x07 => fldsTurn
  | 0x08 => fldsFabric
  | 0x09 => fldsCauseway
  | 0x0A => fldsStorage
  | 0x10 => fldsArray
  | 0x11 => fldsCay
  | 0x12 => fldsICache
  | 0x13 => fldsINum
  | 0x14 => fldsMem
  | 0x15 => fldsIPower
  | 0x16 => fldsStrait
  | 0x17 => fldsColl
  | 0x18 => fldsUpd
  | 0x20 => fldsCtx
  | 0x21 => fldsCNum
  | 0x22 => fldsEnergy
  | 0x23 => fldsServing
  | 0x24 => fldsLearn
  | 0x25 => fldsCColl
  | 0x26 => fldsWeight
  | 0x3C | 0x3D | 0x3E | 0x3F => fldsWindow
  | _ => []

/-- The reset value of the fields at an offset of a page, without the common header and without what fuses and
the page's own instance decide. -/
def resetOf (fs : List Fld) (off : Nat) : Nat :=
  match fs with
  | [] => 0
  | f :: r => (if f.off ≤ off ∧ off < f.off + 4 * f.num ∧ off % 4 = 0 then f.reset * 2 ^ f.lo else 0) + resetOf r off

end Sys2Proof.Machine
end

