-- ==== Sys2Proof/Machine/SrvTypes.lean ====
section
/-! DEFINITION. Serving: request slots, steps, adapters and request events (R240 to R275). -/
namespace Sys2Proof.Machine

/-- The states of a slot that holds a request (R242). -/
inductive SlotSt where
  | reserved
  | prefill
  | decode
  | pausing
  | paused
  | resuming
deriving DecidableEq, Repr

/-- The number of a state, from free = 0 (R271). -/
def SlotSt.code : SlotSt → Nat
  | .reserved => 1
  | .prefill => 2
  | .decode => 3
  | .pausing => 4
  | .paused => 5
  | .resuming => 6

/-- A pause command that waits for its boundary or runs (R264): its record, the host-tier range and its time to live. -/
structure PauseCmd where
  stream : Nat
  seq : Nat
  host : Nat
  pages : Nat
  ttl : Nat
deriving DecidableEq, Repr

/-- A request (R241 to R243, R255, R264, R269). `stream` and `seq` name its admit record, `order` its place among admissions; `ran` counts prompt
tokens run, `delivered` tokens delivered, `last` the newest of them; `left` the consecutive steps that left it out. -/
structure Req where
  st : SlotSt
  epoch : Nat
  stream : Nat
  seq : Nat
  order : Nat
  prio : Nat
  pc : Bool
  logp : Bool
  specEn : Bool
  adapter : Nat
  promptLen : Nat
  promptAddr : Nat
  outAddr : Nat
  maxNew : Nat
  seed : Nat
  temp : Nat
  topP : Nat
  topK : Nat
  stops : List Nat
  admitted : Bool
  prompt : List Nat
  agen : Nat
  acopy : Nat
  wgen : Nat
  lastGen : Nat
  ran : Nat
  delivered : Nat
  last : Nat
  guesses : List Nat
  left : Nat
  pages : List Nat
  cancels : List (Nat × Nat)
  pauses : List PauseCmd
  pause : Option PauseCmd
  crcs : List Nat
  host : Nat
  deadline : Nat
  resume : Option (Nat × Nat)
deriving DecidableEq, Repr

def noReq (_ : Nat) : Option Req := none

/-- An entry of a token table (R250). -/
structure TokEnt where
  token : Nat
  pos : Nat
  kind : Nat
  specIdx : Nat
  sample : Bool
  gen : Nat
  slot : Nat
  acopy : Nat
deriving DecidableEq, Repr

/-- What the sampler found for a request (R255, R256): its slot, the tokens in order with their log-probabilities, the guesses that follow each token, and how
many guesses were accepted. -/
structure Sampled where
  slot : Nat
  toks : List (Nat × Nat)
  heads : List (List Nat)
  accepted : Nat
deriving DecidableEq, Repr

/-- The step in flight of a context (R249 to R260): its number, its table, the generations it uses, its carried slots, how many tasks of its list have been placed, the
task that runs, the status that ended it, its sampler results, its estimate in µJ before correction, and the runs it has had. -/
structure StepRun where
  num : Nat
  ents : List TokEnt
  gens : List Nat
  carried : List Nat
  placed : Nat
  task : Option Nat
  status : Nat
  sampled : Option (List Sampled)
  est : Nat
  execs : Nat
deriving DecidableEq, Repr

/-- A command that takes effect at the next boundary (R267, R268, R358, R361), with its record. -/
inductive BoundOp where
  | install (stream seq adapter dva len : Nat)
  | retire (stream seq adapter : Nat)
  | switch (stream seq model gen : Nat)
  | barrier (stream seq model : Nat)
deriving DecidableEq, Repr

/-- The current generation of an adapter identifier; `live` until it is retired (R267, R268). -/
structure Adapter where
  id : Nat
  gen : Nat
  live : Bool
deriving DecidableEq, Repr

/-- A resident adapter copy: its index in the module, its adapter and generation, and the address of its image (R267). -/
structure ACopy where
  index : Nat
  id : Nat
  gen : Nat
  dva : Nat
deriving DecidableEq, Repr

/-- A request event (R273): its number and fields, and how far its writing has come. -/
structure SrvEv where
  num : Nat
  kind : Nat
  stream : Nat
  seq : Nat
  slot : Nat
  epoch : Nat
  status : Nat
  tokens : Nat
  wgen : Nat
  agen : Nat
  adapter : Nat
  written : Bool
  signalled : Bool
  rew : Bool
  waited : Bool
deriving DecidableEq, Repr

/-- The serving state of a context. -/
structure SrvCtx where
  slots : Tbl (Option Req)
  epochs : Tbl Nat
  admits : Nat
  step : Option StepRun
  ops : List BoundOp
  adapters : List Adapter
  copies : List ACopy
  events : List SrvEv
  evNum : Nat
  dry : Nat
deriving DecidableEq, Repr

def SrvCtx.reset : SrvCtx := ⟨[], [], 0, none, [], [], [], [], 0, 0⟩

def srvDef (_ : Nat) : SrvCtx := SrvCtx.reset

end Sys2Proof.Machine
end

