-- ==== Sys2Proof/Machine/StoTypes.lean ====
section
/-! DEFINITION. The storage ports: commands, queue pairs and what waits to be issued (R430 to R439). -/
namespace Sys2Proof.Machine

/-- The operation a command belongs to: a shard of a load by its place in the load, or a checkpoint write. -/
inductive StoOwner where
  | load (ctx stream seq shard : Nat)
  | ckpt (ctx stream seq : Nat)
deriving DecidableEq, Repr

/-- The I/O commands of R433. -/
inductive StoOp where
  | read
  | write
  | flush
deriving DecidableEq, Repr

/-- A range of a target still to be divided into commands (R436): its operation, the target and its block size, the next byte in the target, the next byte of
the operation, and the bytes left. -/
structure StoRange where
  owner : StoOwner
  op : StoOp
  target : Nat
  block : Nat
  at_ : Nat
  off : Nat
  left : Nat
deriving DecidableEq, Repr

/-- A command outstanding: its number, its queue, its bytes in the target and in its operation, and how often it has been issued. -/
structure StoCmd where
  num : Nat
  owner : StoOwner
  op : StoOp
  target : Nat
  queue : Nat
  block : Nat
  at_ : Nat
  off : Nat
  bytes : Nat
  issues : Nat
deriving DecidableEq, Repr

/-- An open queue pair (R431, R432, R436): its target and queue (0 the admin queue), whether it is in its error state, its send rate in millionths of line rate, the powered
times of the last rate change downward and upward and of the last congestion notification sent, and transport retries without an answer. -/
structure StoQp where
  target : Nat
  queue : Nat
  err : Bool
  rate : Nat
  cut : Option Nat
  rose : Nat
  told : Option Nat
  retries : Nat
deriving DecidableEq, Repr

/-- A checkpoint write in progress (R437): its record, its fields, and the bytes that have left, by offset. -/
structure Ckpt where
  ctx : Nat
  stream : Nat
  seq : Nat
  flush : Bool
  target : Nat
  src : Nat
  bytes : Nat
  digest : Nat
  done : Nat
  sent : Memory
deriving DecidableEq, Repr

/-- A storage port; `held` is what waits while priority flow control pauses its transmission (R430). -/
structure StoPort where
  cmds : List StoCmd
  todo : List StoRange
  qps : List StoQp
  paused : Bool
  failed : Bool
  held : List Emit
deriving DecidableEq, Repr

def StoPort.reset : StoPort := ⟨[], [], [], false, false, []⟩

def stoDef (_ : Nat) : StoPort := StoPort.reset

end Sys2Proof.Machine
end

