-- ==== Sys2Proof/Machine/SysTypes.lean ====
section
/-! DEFINITION. Tasks, island caches and what leaves the module. -/
namespace Sys2Proof.Machine

/-- What a task belongs to: a task record, a task of a serving step (R248), or a unit of a stage run (R283). -/
inductive Origin where
  | record
  | serving (index : Nat)
  | stage (entry unit : Nat)
deriving DecidableEq, Repr

/-- Where a task stands: not yet bound everywhere, running, or ended everywhere (R179). -/
inductive TaskSt where
  | waiting
  | running
  | ended
deriving DecidableEq, Repr

/-- A mask descriptor (R110, R207). -/
structure MaskDesc where
  blocks : Bool
  addr : Nat
  rows : Nat
  base : Nat
deriving DecidableEq, Repr

/-- The conversion statistics a task has gathered, by tensor tag (R299) or by channel (R301): SQERR, COUNT, SAT, ZRUNS. -/
structure TagSum where
  tag : Nat
  sqerr : Nat
  count : Nat
  sat : Nat
  zruns : Nat
deriving DecidableEq, Repr

/-- What a task keeps of its kernel container's header (R200). -/
structure KHdr where
  topUsed : Bool
  latency : Nat
  threads : Nat
  fences : Nat
  codeOff : Nat
  codeLen : Nat
  dataOff : Nat
  dataLen : Nat
  dataLs : Nat
  entry : Nat
deriving DecidableEq, Repr

def KHdr.reset : KHdr := ⟨false, 0, 0, 0, 0, 0, 0, 0, 0, 0⟩

/-- A task the dispatchers hold (R127, R207). -/
structure Task where
  ctx : Nat
  stream : Nat
  seq : Nat
  origin : Origin
  tclass : Nat
  step : Nat
  spec : Bool
  failInv : Bool
  kernel : Nat
  args : Nat
  argsLs : Nat
  argsLen : Nat
  caysM1 : Nat
  islands : Nat
  fences : Nat
  accs : List (Nat × Nat)
  mask : Option MaskDesc
  shape : Nat
  arrMask : Nat
  hdr : KHdr
  served : List Nat
  bound : List Nat
  live : List Nat
  st : TaskSt
  status : Nat
  detail : Nat
  discard : Bool
  invalid : Bool
  sat : Nat
  paused : Bool
  execs : Nat
  order : Nat
  applied : Bool
  sums : List TagSum
  chans : List TagSum
deriving DecidableEq, Repr

/-- A task slot that holds nothing. -/
def Task.reset : Task :=
  ⟨0, 0, 0, .record, 0, 0, false, false, 0, 0, 0, 0, 0, 0, 0, [], none, 0, 0, KHdr.reset, [], [], [], .ended, 0, 0,
   false, false, 0, false, 0, 0, false, [], []⟩

def taskDef (_ : Nat) : Task := Task.reset

/-- A fetch of a line in flight (R147): `stale` once its line was invalidated; the threads it will serve. -/
structure Fetch where
  line : Nat
  demand : Bool
  stale : Bool
  waiters : List (Nat × Nat)
deriving DecidableEq, Repr

/-- A stride tracker (R148): its thread, the latest accesses it saw, its stride once trained, and the
next address it would fetch. Addresses are device virtual. -/
structure Tracker where
  cay : Nat
  thread : Nat
  ctx : Nat
  recent : List Nat
  stride : Option Int
  latest : Nat
  next : Nat
  stopped : Bool
deriving DecidableEq, Repr

/-- A shadowed line of a speculative task (R153): the line and the bytes written, by offset in the line. -/
structure ShadowLine where
  task : Nat
  line : Nat
  bytes : Tbl (Option (BitVec 8))
deriving DecidableEq, Repr

/-- The cache of one island (R143 to R156). The cache is write-through, so presence is all a line adds to HBM. -/
structure ICache where
  lines : List Nat
  fetches : List Fetch
  buffer : List Nat
  trackers : List Tracker
  shadow : List ShadowLine
deriving DecidableEq, Repr

def ICache.reset : ICache := ⟨[], [], [], [], []⟩

def icDef (_ : Nat) : ICache := ICache.reset

def optByteNone (_ : Nat) : Option (BitVec 8) := none

/-- What the fuses of the module hold (R33, R112, R114, R485, R486, R521): per array, its spare row, whether one is assigned, and whether the array is disabled; per island the cays
disabled; the field entries burned, by island; the SVN count and the revoked key slots. Key digests and the device secret are constants of Config. -/
structure Fuses where
  spare : Tbl Nat
  spareEn : Tbl Bool
  disabled : Tbl Bool
  caysOff : Tbl Nat
  repairs : List (Nat × Defect)
  svn : Nat
  revoked : Nat
deriving DecidableEq, Repr

/-- The fuses of the module that State.reset describes (log entry 4). -/
def Fuses.reset : Fuses := ⟨[], [], [], [], [], 0, 0⟩

end Sys2Proof.Machine
end

