-- ==== Sys2Proof/Machine/WorkTypes.lean ====
section
/-! DEFINITION. Work records as the journal holds them, and commit groups (R205, R224, R229). -/
namespace Sys2Proof.Machine

/-- The states of a record's journal entry (R229). -/
inductive ESt where
  | accepted
  | started
  | committed
  | signalled
deriving DecidableEq, Repr

/-- The code of a state in the journal entry (R229). -/
def ESt.code : ESt → Nat
  | .accepted => 1
  | .started => 2
  | .committed => 3
  | .signalled => 4

/-- One accepted record (R205, R211, R218, R229). `slot` is its place in the journal ring, `update` the count of updates written; `durable` says that
both copies hold the entry as it is; `owed` the landing-window responses still to leave, as TAG and ASTAT; `begun` that the record's own work
has begun; `point` the status and detail with which it reached its commit point; `waited` that its completion was counted as waiting for ring
space; `written` that its completion has been written since the last recovery; `rises` the class rises by aging since `since` (R518). -/
structure Entry where
  ctx : Nat
  stream : Nat
  seq : Nat
  raw : List (BitVec 8)
  st : ESt
  slot : Nat
  update : Nat
  durable : Bool
  owed : List (Nat × Nat)
  admitted : Bool
  begun : Bool
  point : Option (Nat × Nat)
  status : Nat
  detail : Nat
  invalid : Bool
  sat : Bool
  energy : Nat
  replays : Nat
  tAccept : Nat
  tCommit : Nat
  waited : Bool
  written : Bool
  rises : Nat
  since : Nat
  grp : Option Nat
  rew : Bool
deriving DecidableEq, Repr

/-- An open host-formed commit group, or one decided and not yet retired (R223 to R226): its number in the module, its identifier, the powered
time of its first member's acceptance, its decision, the low sequence number of the member that caused an abort, whether it timed out, its
transaction number, its place in the journal ring, and whether its actions have been applied. -/
structure Group where
  num : Nat
  ctx : Nat
  gid : Nat
  opened : Nat
  decision : Option Bool
  cause : Nat
  timedOut : Bool
  txn : Nat
  slot : Nat
  applied : Bool
deriving DecidableEq, Repr

/-- What the module is doing as a whole (R43, R446, R509, R510, R525, R528): without standby power or 48 V, held in reset, booting, ready, ready in
recovery, or stopped with no image it may run. -/
inductive RunSt where
  | off
  | held
  | boot
  | ready
  | recovery
  | stopped
deriving DecidableEq, Repr

end Sys2Proof.Machine
end

