-- ==== Sys2Proof/Machine/State.lean ====
section
/-! DEFINITION. The state of the module, as plain data, and the state after reset. -/
namespace Sys2Proof.Machine

/-- Why a command stops the machine. -/
inductive Fault where
  /-- A write was presented to an HBM controller at an address beyond the 24 stacks of 48 GiB (R21, R502): no such
  address exists. Raised by HBM_WRITE_INVALIDATE. Safe: the machine stops where nothing could be written. -/
  | addressAbsent
deriving DecidableEq, Repr

/-- Why a command has no meaning. -/
inductive Refusal where
  /-- The command has no meaning yet; raised only by the dispatch. Safe. -/
  | notModelled (mnemonic : String)
deriving DecidableEq, Repr

/-- The state of the module. -/
structure State where
  /-- How far the module has come up (R42, R43, R509): off, held in reset, boot, ready, recovery or stopped. -/
  run : RunSt
  /-- The active control die (R33, R34). -/
  die : Nat
  /-- Every register of the aperture that stands away from its reset word, by its key (R534 to R549). -/
  regs : Tbl W32
  /-- Halves of 64-bit pairs written and not yet applied, by key (R542). -/
  stage : Tbl (Option W32)
  /-- High halves of 64-bit counters latched by a read of the low half, by key (R543). -/
  latch : Tbl (Option W32)
  /-- The bytes of the 24 stacks (R30, R144), by stack and offset. -/
  hbm : Memory
  /-- The 8-byte words of HBM that hold poison (R474, R478). -/
  poison : List Nat
  /-- The fuses (R112, R485, R521). -/
  fuse : Fuses
  /-- The cays (R127, R131): threads, local store, copies, arrays, by island and cay. -/
  cays : Tbl Cay
  /-- The island caches (R143). -/
  ics : Tbl ICache
  /-- The tasks the dispatchers hold (R127, R207), by number. -/
  tasks : Tbl Task
  /-- The model's own: the number of the next task. -/
  taskNum : Nat
  /-- Per island, the block sums counted since its last shadow selection (R117). -/
  shadowCnt : Tbl Nat
  /-- Notification counters of each island and context (R320). -/
  notifs : Tbl Nat
  /-- The journal's entries (R229, R230), in the order of acceptance. -/
  entries : List Entry
  /-- The commit groups that are open, closing or decided (R223). -/
  groups : List Group
  /-- The model's own: the number of the next group. -/
  groupNum : Nat
  /-- The transaction number of the next transaction-log entry (R229). -/
  txnNum : Nat
  /-- The weight models, their generations and pools of each context (R346). -/
  wgts : Tbl WgtCtx
  /-- The islands' roles (R38): idle, generation or learning. -/
  roles : Tbl Nat
  /-- The request slots, pools, adapters and steps of each context (R240 to R275). -/
  srvs : Tbl SrvCtx
  /-- Energy, supply and heat (R448 to R471). -/
  pw : Pwr
  /-- The virtual time of each context at each arbitration point (R518). -/
  vts : Tbl Nat
  /-- The contexts that wait at each arbitration point (R518). -/
  vwait : Tbl (List Nat)
  /-- The loads of weights in progress (R353 to R367). -/
  loads : List LoadJob
  /-- The turn in progress (R373). -/
  turn : Option Turn
  /-- The decisions of the last turns, by tag (R376). -/
  turnPast : List (Nat × Bool)
  /-- The straits (R386 to R395). -/
  strs : Tbl Strait
  /-- The route table, by destination (R37, R400). -/
  routes : Tbl Nat
  /-- The islands' collective engines and update pipes (R308 to R335). -/
  engs : Tbl Engine
  /-- The open collectives (R308, R314). -/
  colls : List Coll
  /-- The model's own: the number of the next collective. -/
  collNum : Nat
  /-- The bound training groups and their seals (R336 to R345). -/
  tgs : List TGroup
  /-- The stage runs (R276 to R304). -/
  runs : List Run
  /-- The model's own: the number of the next stage run. -/
  runNum : Nat
  /-- The storage ports (R430 to R439). -/
  stos : Tbl StoPort
  /-- The model's own: the number of the next storage command. -/
  stoNum : Nat
  /-- The checkpoint writes in progress (R437). -/
  ckpts : List Ckpt
  /-- The Causeway's link (R415 to R427). -/
  cw : Causeway
  /-- The management ports: the alert, the log index, the test access port (R440 to R444). -/
  ports : Ports
  /-- Supplies, what holds the module in reset, and the sticky log (R466, R489, R509, R552). -/
  mod : Module
  /-- Error and repair state of each island's memories (R476 to R488). -/
  mems : Tbl MemSt
  /-- The results of the monitor units (R490 to R494). -/
  mons : Tbl MonUnit
  /-- The flash banks and what was measured at boot (R522 to R529). -/
  fw : Firmware
  /-- Reads of host memory that wait for their answer (R419). -/
  hostReads : List HostRead
  /-- The model's own: the number of the next such read. -/
  hostTag : Nat
  /-- What has left the module, oldest first: packets, frames, messages, answers, pins. -/
  outbox : List Emit
  /-- The powered-time counter in always-on cycles (R16). -/
  ptime : Nat
  /-- The model's own: how many free values have been drawn (log entry 5). -/
  free : Nat
  /-- The model's own: the commands that wait, first in, first out (log entry 1). -/
  pending : List Instr
deriving DecidableEq, Repr

/-- The machine right after reset. -/
def State.reset : State where
  run := .ready
  die := 0
  regs := []
  stage := []
  latch := []
  hbm := []
  poison := []
  fuse := Fuses.reset
  cays := []
  ics := []
  tasks := []
  taskNum := 0
  shadowCnt := []
  notifs := []
  entries := []
  groups := []
  groupNum := 0
  txnNum := 0
  wgts := []
  roles := []
  srvs := []
  pw := Pwr.reset
  vts := []
  vwait := []
  loads := []
  turn := none
  turnPast := []
  strs := []
  routes := []
  engs := []
  colls := []
  collNum := 0
  tgs := []
  runs := []
  runNum := 0
  stos := []
  stoNum := 0
  ckpts := []
  cw := Causeway.reset
  ports := Ports.reset
  mod := Module.reset
  mems := []
  mons := []
  fw := Firmware.reset
  hostReads := []
  hostTag := 0
  outbox := []
  ptime := 0
  free := 0
  pending := []

end Sys2Proof.Machine
end

