-- ==== Sys2Proof/Machine/Ops.lean ====
section
/-! DEFINITION. The named operations over registers, events, memory, translation and free values. -/
namespace Sys2Proof.Machine

/-- What every meaning answers. -/
abbrev Out := Host.Outcome State Fault Refusal

/-- An event that takes place only under its conditions; otherwise nothing happens (log entry 2). -/
def when (b : Bool) (t : State) (s : State) : Out := if b then .next t else .next s

/-! ### Registers -/

/-- Where a register is kept: block class, instance and offset as in R534, and a unit for the registers a select register shows
one of (R544); unit 0 is the register itself. -/
def rkey (cls inst off unit : Nat) : Nat := unit * 2 ^ 26 + cls * 2 ^ 20 + inst * 2 ^ 12 + off

/-- The reset value of the register at a key: its fields' reset values, and the two that depend on the page's context (R498, R506). -/
def resetWord (k : Nat) : W32 :=
  let o := k % 2 ^ 26
  let cls := o / 2 ^ 20
  let inst := o / 2 ^ 12 % 256
  let off := o % 2 ^ 12
  let extra :=
    if cls = 0x20 ∧ off = 0x040 ∧ inst = 0 then 2 ^ 31
    else if cls = 0x20 ∧ off = 0x070 then 32 * inst else 0
  BitVec.ofNat 32 (resetOf (fldsOf cls) off + extra)

/-- The register at a key. -/
def State.reg (s : State) (k : Nat) : W32 := Tbl.get resetWord s.regs k

/-- The state with a register replaced. -/
def State.setReg (s : State) (k : Nat) (w : W32) : State := { s with regs := Tbl.set resetWord s.regs k w }

/-- The field of register `n` of a run of registers. -/
def Fld.nth (f : Fld) (n : Nat) : Fld := { f with off := f.off + 4 * n }

/-- The key of a field's register. -/
def Fld.key (f : Fld) (inst unit : Nat) : Nat := rkey f.cls inst f.off unit

/-- A field of a register. -/
def State.fld (s : State) (f : Fld) (inst : Nat) (unit : Nat := 0) : Nat := bits (s.reg (f.key inst unit)).toNat f.hi f.lo

/-- A word with a field replaced. -/
def Fld.put (f : Fld) (w : W32) (v : Nat) : W32 := BitVec.ofNat 32 (ins w.toNat f.hi f.lo v)

/-- The state with a field of a register replaced. -/
def State.setFld (s : State) (f : Fld) (v inst : Nat) (unit : Nat := 0) : State :=
  s.setReg (f.key inst unit) (f.put (s.reg (f.key inst unit)) v)

/-- A counter field raised by `n`, stopping at all ones (R83, R161). -/
def State.bump (s : State) (f : Fld) (inst : Nat) (n : Nat := 1) (unit : Nat := 0) : State :=
  s.setFld f (min (s.fld f inst unit + n) (2 ^ (f.hi + 1 - f.lo) - 1)) inst unit

/-- A 64-bit counter held in a _LO and a _HI register, raised by `n`, wrapping (R123). -/
def State.bump64 (s : State) (lo hi : Fld) (inst : Nat) (n : Nat := 1) (unit : Nat := 0) : State :=
  let v := (s.fld lo inst unit + 2 ^ 32 * s.fld hi inst unit + n) % 2 ^ 64
  (s.setFld lo (v % 2 ^ 32) inst unit).setFld hi (v / 2 ^ 32) inst unit

/-- A 64-bit value of a _LO and a _HI register. -/
def State.fld64 (s : State) (lo hi : Fld) (inst : Nat) (unit : Nat := 0) : Nat :=
  s.fld lo inst unit * 2 ^ lo.lo + 2 ^ 32 * s.fld hi inst unit

/-- A context is enabled; context 0 always is (R498). -/
def State.ctxOn (s : State) (c : Nat) : Bool := c == 0 || s.fld .ctxCtlEn c == 1

/-! ### Free values -/

/-- A value the spec leaves undefined, of `w` bits. -/
def State.freeVal (s : State) (w : Nat) : Nat := (Config.freeBits w s.free).toNat

/-- The state after one free value has been taken. -/
def State.took (s : State) : State := { s with free := s.free + 1 }

/-! ### Messages and events -/

/-- The state with one more thing sent. -/
def State.emit (s : State) (e : Emit) : State := { s with outbox := s.outbox ++ [e] }

/-- Offsets of the common header (R537). -/
def evtCause : Nat := 0x010
def evtEnable : Nat := 0x014
def evtRoute : Nat := 0x018

/-- A module vector raised: sent, or left pending while masked (R507). The mask and pending bits of module vector v are those of
the IRQ_VCTL copy of unit 1 + v. -/
def State.raiseModule (s : State) (v : Nat) : State :=
  if s.fld .irqVctlMask 0 (1 + v) = 1 then s.setFld .irqVctlPending 1 0 (1 + v) else s.emit (.message v)

/-- An event of a page takes place: its cause bit is set while enabled (R538), a context vector is raised when the enabled causes turn from
zero to non-zero (R508), and a vector out of the context's range is dropped, which is an event of its own (R506). `fuel` bounds that chain. -/
def State.raiseAt : Nat → State → Nat → Nat → Nat → State
  | 0, s, _, _, _ => s
  | fuel + 1, s, cls, inst, n =>
    let en := (s.reg (rkey cls inst evtEnable 0)).toNat
    if en.testBit n then
      let c := (s.reg (rkey cls inst evtCause 0)).toNat
      let s1 := s.setReg (rkey cls inst evtCause 0) (BitVec.ofNat 32 (c ||| 2 ^ n))
      let r := (s.reg (rkey cls inst evtRoute 0)).toNat
      if c &&& en = 0 ∧ r.testBit 31 then
        let ctx := bits r 21 16
        let v := bits r 10 0
        if v < s1.fld .ctxIrqRangeCount ctx then s1.raiseModule (s1.fld .ctxIrqRangeBase ctx + v)
        else State.raiseAt fuel (s1.bump .irqDropCnt ctx) 0x20 ctx 2
      else s1
    else s

/-- An event of a page takes place. -/
def State.raise (s : State) (cls inst n : Nat) : State := State.raiseAt 65 s cls inst n

/-- A context vector is raised (R506). -/
def State.raiseVector (s : State) (ctx v : Nat) : State :=
  if v < s.fld .ctxIrqRangeCount ctx then s.raiseModule (s.fld .ctxIrqRangeBase ctx + v)
  else (s.bump .irqDropCnt ctx).raise 0x20 ctx 2

/-! ### HBM -/

/-- Bytes of one stack (R21). -/
def stackBytes : Nat := 48 * 2 ^ 30

/-- The key of byte `off` of stack `st`: the HBM address of R502. -/
def hbmKey (st off : Nat) : Nat := st * 2 ^ 36 + off

/-- The stack of an HBM address. -/
def stackOf (k : Nat) : Nat := k / 2 ^ 36

/-- A byte of HBM exists at the address (R21, R502). -/
def hbmExists (k : Nat) : Bool := decide (stackOf k < 24) && decide (k % 2 ^ 36 < stackBytes)

/-- The stack answers every access with poison (R487). MEM_STAT.STACK reads 1 when the stack is lost. -/
def State.stackLost (s : State) (st : Nat) : Bool := s.fld .memStatStack st == 1

/-- Some of the `n` bytes from an address lie in a poisoned word or on a lost stack (R478, R487). -/
def State.poisoned (s : State) (k n : Nat) : Bool :=
  s.stackLost (stackOf k) ||
    s.poison.any (fun w => decide (w * 8 < k + n) && decide (k < w * 8 + 8))

/-- `n` bytes of HBM. -/
def State.hbmBytes (s : State) (k n : Nat) : List (BitVec 8) := Memory.readN s.hbm k n

/-- A read that returns poison is counted at the owning island (R479). -/
def State.notePoison (s : State) (k : Nat) : State := s.bump .memPoisonReadCnt (stackOf k)

/-- The line of an HBM address (R143). -/
def lineOf (k : Nat) : Nat := k / 128

/-- Lines that `n` bytes from an address touch. -/
def linesOf (k n : Nat) : List Nat :=
  if n = 0 then [] else (List.range (lineOf (k + n - 1) - lineOf k + 1)).map (fun i => lineOf k + i)

/-- The cache of one island. -/
def State.ic (s : State) (isl : Nat) : ICache := Tbl.get icDef s.ics isl

/-- The state with the cache of one island replaced. -/
def State.setIc (s : State) (isl : Nat) (c : ICache) : State := { s with ics := Tbl.set icDef s.ics isl c }

/-- A cache after a line was written by someone else: its copy, its prefetch-buffer entry and its fetches in flight are invalidated (R145,
R147). `own` is true in the writer's own island, whose copy is updated instead (R144). -/
def ICache.invalidate (c : ICache) (own : Bool) (l : Nat) : ICache :=
  { c with
    lines := if own then c.lines else c.lines.filter (fun x => x != l)
    buffer := c.buffer.filter (fun x => x != l)
    fetches := c.fetches.map (fun f => if f.line = l then { f with stale := true } else f) }

/-- How many copies the invalidation of a line removes (R166, IC_INVAL_CNT). -/
def ICache.copiesOf (c : ICache) (own : Bool) (l : Nat) : Nat :=
  (if !own && c.lines.contains l then 1 else 0) + (if c.buffer.contains l then 1 else 0)

/-- A line is invalidated in one island's cache. -/
def State.invalidateIn (s : State) (writer : Option Nat) (l isl : Nat) : State :=
  let own := writer == some isl
  let c := s.ic isl
  let s1 := s.setIc isl (c.invalidate own l)
  let n := c.copiesOf own l
  if n = 0 then s1 else s1.bump .icInvalCnt isl n

/-- A line is invalidated in every island cache (R145). -/
def State.invalidateLine (s : State) (writer : Option Nat) (l : Nat) : State :=
  (List.range 24).foldl (fun t i => t.invalidateIn writer l i) s

/-- A write performed at the HBM controllers (R144, R145): every stale copy is invalidated, the bytes are written, and a poisoned word all of
whose bits were written is poisoned no more (R478). -/
def State.hbmWrite (s : State) (writer : Option Nat) (k : Nat) (data : List (BitVec 8)) : State :=
  if data.isEmpty then s
  else
    let s1 := (linesOf k data.length).foldl (fun t l => t.invalidateLine writer l) s
    { s1 with
      hbm := Memory.writeN s1.hbm k data
      poison := s1.poison.filter (fun w => !(decide (k ≤ w * 8) && decide (w * 8 + 8 ≤ k + data.length))) }

/-! ### Translation (R501 to R503) -/

/-- What a translation answers. -/
inductive Trans where
  | hbm (key : Nat)
  | host (addr : Nat)
  | aperture (off : Nat)
  | fault (cause : Nat)
deriving DecidableEq, Repr

/-- A translation with the attributes of its walk and the bytes left in its page; for CAUSE 7, in their place, the address of the poisoned
entry. -/
structure Walk where
  dest : Trans
  w : Bool
  pf : Bool
  suspect : Bool
  left : Nat
deriving DecidableEq, Repr

def Walk.fault (c : Nat) : Walk := ⟨.fault c, false, false, false, 0⟩

/-- The fields of a translation entry (R502). -/
def pteType (e : Nat) : Nat := bits e 62 61
def pteAddr (e : Nat) : Nat := bits e 51 8 * 256

/-- A page entry answers: its address, checked as CAUSE 2 of R503 states. -/
def pageWalk (e size dva : Nat) (w pf : Bool) : Walk :=
  let a := pteAddr e
  let off := dva % size
  let r (t : Trans) : Walk := ⟨t, w && bit e 60, pf && bit e 59, bit e 58, size - off⟩
  if a % size ≠ 0 then .fault 2
  else
    match pteType e with
    | 1 =>
      if bits a 51 41 ≠ 0 ∨ 24 ≤ bits a 40 36 ∨ stackBytes < a % 2 ^ 36 + size then .fault 2 else r (.hbm (a + off))
    | 2 => r (.host (a + off))
    | _ => if bits a 51 26 ≠ 0 ∨ size ≠ 0x10000 then .fault 2 else r (.aperture (a + off))

/-- A walk of the table at `table` for the levels in `ls`, each given by the shift of its index and the size of the table it points to. -/
def State.walkFrom (s : State) (dva : Nat) : List Nat → Nat → Nat → Bool → Bool → Walk
  | [], _, _, _, _ => .fault 2
  | sh :: rest, table, idxBits, w, pf =>
    let k := table + 8 * (dva / 2 ^ sh % 2 ^ idxBits)
    if s.poisoned k 8 then { Walk.fault 7 with left := k }
    else
      let e := leNat (s.hbmBytes k 8)
      let ty := pteType e
      if !bit e 63 then .fault 1
      else if bits e 57 52 ≠ 0 ∨ bits e 7 0 ≠ 0 then .fault 2
      else if ty = 0 then
        match rest with
        | [] => .fault 2
        | sh2 :: _ =>
          let nb := if sh2 = 16 then 5 else 9
          let a := pteAddr e
          if bit e 58 ∨ a % (8 * 2 ^ nb) ≠ 0 ∨ bits a 51 41 ≠ 0 ∨ 24 ≤ bits a 40 36 ∨ stackBytes < a % 2 ^ 36 + 8 * 2 ^ nb then .fault 2
          else s.walkFrom dva rest a nb (w && bit e 60) (pf && bit e 59)
      else if sh = 21 then (if ty = 3 then .fault 2 else pageWalk e (2 ^ 21) dva w pf)
      else if sh = 16 then pageWalk e (2 ^ 16) dva w pf
      else .fault 2

/-- The walk of a context's table for an address (R501), before the checks that depend on the access. -/
def State.walk (s : State) (ctx dva : Nat) : Walk :=
  if 2 ^ 48 ≤ dva then .fault 1
  else s.walkFrom dva [39, 30, 21, 16] (s.fld64 .ctxTtBaseLoBase .ctxTtBaseHiBase ctx) 9 true true

/-- The block classes' instance counts (R548); 0 for an unimplemented class. -/
def instances (cls : Nat) : Nat :=
  if cls ≤ 0x09 then 1 else if cls = 0x0A then 2 else if 0x10 ≤ cls ∧ cls ≤ 0x18 then 24
  else if 0x20 ≤ cls ∧ cls ≤ 0x26 then 64 else if 0x3C ≤ cls ∧ cls ≤ 0x3F then 256 else 0

/-- The context whose page an aperture offset lies on, where it is a per-context page or a context window (R540, R548). -/
def pageCtx (off : Nat) : Option Nat :=
  let cls := off / 2 ^ 20
  let inst := off / 2 ^ 12 % 256
  if 0x20 ≤ cls ∧ cls ≤ 0x26 ∧ inst < 64 then some inst
  else if 0x3C ≤ cls ∧ cls ≤ 0x3F then some (16 * (cls - 0x3C) + inst / 16) else none

/-- A context reaches the page of an aperture offset (R499, R536). -/
def reachable (ctx off : Nat) : Bool := ctx == 0 || pageCtx off == some ctx

/-- The CAUSE with which an access faults (R503), or 0: `wr` a write, `spec` a write of a speculative task, `noHost` a collective or storage
access, `demand` a demand access (R356). -/
def State.accessCause (_ : State) (ctx : Nat) (w : Walk) (wr spec noHost demand : Bool) : Nat :=
  match w.dest with
  | .fault c => c
  | .hbm _ => if wr && !w.w then 3 else if demand && w.suspect then 6 else 0
  | .host _ => if wr && !w.w then 3 else if (wr && spec) || noHost then 4 else if demand && w.suspect then 6 else 0
  | .aperture o => if wr && !w.w then 3 else if !reachable ctx o then 5 else 0

/-- A translation fault is counted, latched and raised (R503). AGENT codes are those of R519. -/
def State.noteFault (s : State) (ctx cause agent isl dva : Nat) : State :=
  let s1 := s.bump .ctxFaultCnt ctx
  let s2 :=
    if s1.fld .ctxFaultCaptValid ctx = 1 then s1
    else
      (((((s1.setFld .ctxFaultCaptValid 1 ctx).setFld .ctxFaultCaptCause cause ctx).setFld .ctxFaultCaptAgent agent ctx).setFld
        .ctxFaultCaptIsland isl ctx).setFld .ctxFaultAddrLo (dva % 2 ^ 32) ctx).setFld .ctxFaultAddrHiAddr (dva / 2 ^ 32 % 2 ^ 16) ctx
  s2.raise 0x20 ctx 1

/-- An access of `n` bytes to HBM-mapped pages of a context's translation, page by page: the HBM pieces, or the cause and address of the first
fault. `fuel` bounds the pages. -/
def State.hbmPieces (s : State) (ctx : Nat) (wr spec noHost demand : Bool) : Nat → Nat → Nat → List (Walk × Nat) → Except (Nat × Nat) (List (Walk × Nat))
  | 0, _, _, acc => .ok acc
  | fuel + 1, dva, n, acc =>
    if n = 0 then .ok acc
    else
      let w := s.walk ctx dva
      let c := s.accessCause ctx w wr spec noHost demand
      if c ≠ 0 then .error (c, dva)
      else
        let m := min n (max w.left 1)
        s.hbmPieces ctx wr spec noHost demand fuel (dva + m) (n - m) (acc ++ [(w, m)])

/-- The pieces of an access, one for each page it touches. -/
def State.pieces (s : State) (ctx dva n : Nat) (wr spec noHost demand : Bool) : Except (Nat × Nat) (List (Walk × Nat)) :=
  s.hbmPieces ctx wr spec noHost demand (n / 0x10000 + 2) dva n []

/-- Bytes of a context's device virtual memory that lie in HBM throughout, or the cause and address of a fault; CAUSE 7 also answers a poisoned
word of the data itself, with the HBM address in place of the virtual one when `data` is set. -/
def State.readDva (s : State) (ctx dva n : Nat) : Except (Nat × Nat) (List (BitVec 8)) :=
  match s.pieces ctx dva n false false true true with
  | .error e => .error e
  | .ok ps =>
    ps.foldl (fun acc p =>
      match acc, p.1.dest with
      | .error e, _ => .error e
      | .ok bs, .hbm k => if s.poisoned k p.2 then .error (8, k) else .ok (bs ++ s.hbmBytes k p.2)
      | .ok _, _ => .error (4, dva)) (.ok [])

/-- Bytes written to a context's device virtual memory that lies in HBM throughout. -/
def State.writeDva (s : State) (ctx dva : Nat) (data : List (BitVec 8)) : Except (Nat × Nat) State :=
  match s.pieces ctx dva data.length true false true true with
  | .error e => .error e
  | .ok ps =>
    .ok (ps.foldl (fun (a : State × List (BitVec 8)) p =>
      match p.1.dest with
      | .hbm k => (a.1.hbmWrite none k (a.2.take p.2), a.2.drop p.2)
      | _ => (a.1, a.2.drop p.2)) (s, data)).1

end Sys2Proof.Machine
end

