-- ==== Sys2Proof/Machine/Num.lean ====
section
/-! DEFINITION. Number formats and exact arithmetic: values, the formats of R47 to R49, rounding
(R74, R77, R81, R82), the 16-term sum (R61) and the rounded sum of R65. -/
namespace Sys2Proof.Machine

/-- A value read from a code (R48, R50, R54): NaN, an infinity, or ±mag × 2^exp exactly. A zero keeps the sign
of its code, which matters only where the spec speaks of a zero's sign (R51, R196). -/
inductive Val where
  | nan
  | inf (neg : Bool)
  | fin (neg : Bool) (mag : Nat) (exp : Int)
deriving DecidableEq, Repr, Inhabited

/-- +0. -/
def Val.zero : Val := .fin false 0 0

/-- 1. -/
def Val.one : Val := .fin false 1 0

def Val.isNan : Val → Bool
  | .nan => true
  | _ => false

def Val.isInf : Val → Bool
  | .inf _ => true
  | _ => false

/-- A zero of either sign (R51). -/
def Val.isZero : Val → Bool
  | .fin _ 0 _ => true
  | _ => false

def Val.isFin : Val → Bool
  | .fin _ _ _ => true
  | _ => false

def Val.isNeg : Val → Bool
  | .nan => false
  | .inf s => s
  | .fin s _ _ => s

/-- −v; NaN stays NaN. -/
def Val.negate : Val → Val
  | .nan => .nan
  | .inf s => .inf (!s)
  | .fin s m e => .fin (!s) m e

/-- |v|. -/
def Val.abs : Val → Val
  | .nan => .nan
  | .inf _ => .inf false
  | .fin _ m e => .fin false m e

/-- An integer as a value. -/
def Val.ofInt (i : Int) : Val := .fin (decide (i < 0)) i.natAbs 0

/-- v × 2^k exactly. -/
def Val.scale (v : Val) (k : Int) : Val :=
  match v with
  | .fin s m e => .fin s m (e + k)
  | x => x

/-- The signed integer n with v = n × 2^q, for q at or below the exponent of v. -/
def Val.atQ (v : Val) (q : Int) : Int :=
  match v with
  | .fin s m e => let n : Int := (m * 2 ^ (e - q).toNat : Nat); if s then -n else n
  | _ => 0

def Val.exp : Val → Int
  | .fin _ _ e => e
  | _ => 0

def Val.mag : Val → Nat
  | .fin _ m _ => m
  | _ => 0

/-- floor(log2 |v|) of a finite non-zero value. -/
def Val.ilog2 (v : Val) : Int := (v.mag.log2 : Int) + v.exp

/-- n × 2^q as a value; an exact zero is +0 (R51). -/
def Val.ofScaled (n : Int) (q : Int) : Val := .fin (decide (n < 0)) n.natAbs q

/-- The exact product; zero × infinity is NaN (R84). -/
def Val.mul : Val → Val → Val
  | .nan, _ => .nan
  | _, .nan => .nan
  | .inf s, y => if y.isZero then .nan else .inf (s != y.isNeg)
  | x, .inf t => if x.isZero then .nan else .inf (x.isNeg != t)
  | .fin s m e, .fin t n f => .fin (s != t) (m * n) (e + f)

/-- The exact sum; opposite infinities are NaN (R84), and an exact zero sum is +0 (R51, R65). -/
def Val.add : Val → Val → Val
  | .nan, _ => .nan
  | _, .nan => .nan
  | .inf s, .inf t => if s = t then .inf s else .nan
  | .inf s, .fin _ _ _ => .inf s
  | .fin _ _ _, .inf t => .inf t
  | .fin s m e, .fin t n f =>
    let q := min e f
    Val.ofScaled ((Val.fin s m e).atQ q + (Val.fin t n f).atQ q) q

/-- The exact difference. -/
def Val.sub (x y : Val) : Val := Val.add x y.negate

/-- x < y for values that are not NaN; zeros of either sign are equal (R51). -/
def Val.lt : Val → Val → Bool
  | .nan, _ => false
  | _, .nan => false
  | .inf s, .inf t => s && !t
  | .inf s, .fin _ _ _ => s
  | .fin _ _ _, .inf t => !t
  | .fin s m e, .fin t n f =>
    let q := min e f
    decide ((Val.fin s m e).atQ q < (Val.fin t n f).atQ q)

/-- x = y for values that are not NaN; zeros of either sign are equal. -/
def Val.eqv (x y : Val) : Bool :=
  if x.isNan || y.isNan then false else !(Val.lt x y) && !(Val.lt y x)

/-- The rounding modes of R74 and R77; a stochastic rounding carries its 16-bit draw. -/
inductive RMode where
  | rne
  | rtz
  | sr (draw : Nat)
deriving DecidableEq, Repr

/-- mag / 2^k rounded to an integer (R74, R77 steps 1 to 3). -/
def roundShift (mag k : Nat) (mode : RMode) : Nat :=
  let q := mag >>> k
  let r := mag % 2 ^ k
  match mode with
  | .rne => if 2 ^ k < 2 * r || (2 * r == 2 ^ k && q % 2 == 1) then q + 1 else q
  | .rtz => q
  | .sr d => if r ≠ 0 ∧ 2 ^ 16 ≤ r * 2 ^ 16 / 2 ^ k + d then q + 1 else q

/-- The integer n for which mag × 2^exp rounds to n × 2^q. -/
def roundAt (mag : Nat) (exp q : Int) (mode : RMode) : Nat :=
  if q ≤ exp then mag * 2 ^ (exp - q).toNat else roundShift mag (q - exp).toNat mode

/-- A floating-point format of R47: field widths, bias, the code of its largest finite magnitude, and
its infinity and NaN codes where it has them (R49). -/
structure FFmt where
  ebits : Nat
  mbits : Nat
  bias : Nat
  maxFin : Nat
  infCode : Option Nat
  nanFrom : Option Nat
  nanCode : Option Nat
deriving DecidableEq, Repr

def e2m1 : FFmt := ⟨2, 1, 1, 0x7, none, none, none⟩
def e4m3 : FFmt := ⟨4, 3, 7, 0x7E, none, some 0x7F, some 0x7F⟩
def e5m2 : FFmt := ⟨5, 2, 15, 0x7B, some 0x7C, some 0x7D, some 0x7E⟩
def fp16 : FFmt := ⟨5, 10, 15, 0x7BFF, some 0x7C00, some 0x7C01, some 0x7E00⟩
def bf16 : FFmt := ⟨8, 7, 127, 0x7F7F, some 0x7F80, some 0x7F81, some 0x7FC0⟩
def a32 : FFmt := ⟨8, 23, 127, 0x7F7FFFFF, some 0x7F800000, some 0x7F800001, some 0x7FC00000⟩

/-- The weight of the sign bit of a format. -/
def FFmt.signBit (f : FFmt) : Nat := 2 ^ (f.ebits + f.mbits)

/-- The value of a code (R47, R48). -/
def FFmt.decode (f : FFmt) (code : Nat) : Val :=
  let m := code % f.signBit
  let s := decide (code / f.signBit % 2 = 1)
  if (match f.nanFrom with | some n => decide (n ≤ m) | none => false) then .nan
  else if f.infCode = some m then .inf s
  else
    let e := m / 2 ^ f.mbits
    let fr := m % 2 ^ f.mbits
    if e = 0 then .fin s fr (1 - (f.bias : Int) - f.mbits)
    else .fin s (2 ^ f.mbits + fr) ((e : Int) - f.bias - f.mbits)

/-- A code and whether producing it saturated (R81). -/
structure Enc where
  code : Nat
  sat : Bool
deriving DecidableEq, Repr

/-- A finite magnitude rounded into a format: its magnitude code, saturating under R81. Consecutive
codes are consecutive magnitudes, so a rounding that carries moves to the next code by itself. -/
def FFmt.encodeMag (f : FFmt) (mag : Nat) (exp : Int) (mode : RMode) : Enc :=
  if mag = 0 then ⟨0, false⟩
  else
    let qmin : Int := 1 - (f.bias : Int) - f.mbits
    let q := max ((mag.log2 : Int) + exp - f.mbits) qmin
    let n := roundAt mag exp q mode
    let code := (q - qmin).toNat * 2 ^ f.mbits + n
    if f.maxFin < code then ⟨f.maxFin, true⟩ else ⟨code, false⟩

/-- A value converted into a floating-point format (R50, R51, R77, R81, R82). -/
def FFmt.encode (f : FFmt) (mode : RMode) (v : Val) : Enc :=
  match v with
  | .nan => ⟨f.nanCode.getD 0, false⟩
  | .inf s =>
    match f.infCode, f.nanCode with
    | some c, _ => ⟨c + b2n s * f.signBit, false⟩
    | none, some c => ⟨c, true⟩
    | none, none => ⟨f.maxFin + b2n s * f.signBit, true⟩
  | .fin s m e =>
    let r := f.encodeMag m e mode
    ⟨r.code + b2n s * f.signBit, r.sat⟩

/-- A value converted to a two's complement integer of `w` bits whose largest finite value is F (R81, R82). -/
def encodeInt (w F : Nat) (mode : RMode) (v : Val) : Enc :=
  let mk (s : Bool) (n : Nat) : Nat := if s then (2 ^ w - n) % 2 ^ w else n
  match v with
  | .nan => ⟨0, false⟩
  | .inf s => ⟨mk s F, true⟩
  | .fin s m e =>
    let n := roundAt m e 0 mode
    if F < n then ⟨mk s F, true⟩ else ⟨mk s n, false⟩

/-- The value of an A32 code held in a slot or a register. -/
def a32Val (w : BitVec 32) : Val := a32.decode w.toNat

/-- An A32 result with the saturation of its rounding. -/
structure ARes where
  code : Nat
  sat : Bool
deriving DecidableEq, Repr

/-- A value rounded once to A32 by round-to-nearest-even (R61 step 6, R65). -/
def roundA32 (v : Val) : ARes :=
  let r := a32.encode .rne v
  ⟨r.code, r.sat⟩

/-- round_a32(x + y) of R65. -/
def addA32 (x y : Val) : ARes := roundA32 (Val.add x y)

/-- The exponent of the value of an E8 scale code (R54); 0xFF marks a NaN block. -/
def e8Exp (c : Nat) : Int := (c : Int) - 127

/-- A code's value under its E8 scale (R54, R58). -/
def scaledBy (v : Val) (e8 : Nat) : Val := if e8 = 0xFF then .nan else v.scale (e8Exp e8)

/-- Truncation of a term's magnitude to a multiple of 2^q (R61 step 4), as a signed multiple. -/
def truncAt (q : Int) (v : Val) : Int :=
  let n : Nat := if q ≤ v.exp then v.mag * 2 ^ (v.exp - q).toNat else v.mag >>> (q - v.exp).toNat
  if v.isNeg then -(n : Int) else (n : Int)

/-- The largest floor(log2 |t|) over a non-empty list of finite non-zero terms. -/
def maxLog2 : List Val → Int
  | [] => 0
  | [v] => v.ilog2
  | v :: vs => max v.ilog2 (maxLog2 vs)

/-- The 16-term sum of R61 over an incoming partial sum and products already formed exactly. -/
def treeTerms (c : Val) (ps : List Val) : ARes :=
  let ts := ps ++ [c]
  if ts.any Val.isNan || (ts.any (fun t => t == Val.inf true) && ts.any (fun t => t == Val.inf false)) then
    roundA32 .nan
  else if ts.any (fun t => t == Val.inf true) then roundA32 (.inf true)
  else if ts.any (fun t => t == Val.inf false) then roundA32 (.inf false)
  else
    let live := ts.filter (fun t => !t.isZero)
    match live with
    | [] => ⟨0, false⟩
    | _ =>
      let q := maxLog2 live - 26
      roundA32 (Val.ofScaled ((live.map (truncAt q)).foldl (· + ·) 0) q)

/-- tree16 of R61. -/
def tree16 (c : Val) (ab : List (Val × Val)) : ARes :=
  treeTerms c (ab.map (fun p => Val.mul p.1 p.2))

/-- The cause and position of the first offending product of a sum (R84, R85): 1 = zero × infinity, 2 = NaN input,
3 = opposite infinities. `seen` is the sign of an infinite term met earlier, `i` the position reached. A NaN
incoming sum is the result of an invalid operation already recorded and raises none (log entry 15). -/
def firstInvalid : Option Bool → Nat → List (Val × Val) → Option (Nat × Nat)
  | _, _, [] => none
  | seen, i, (x, y) :: r =>
    if x.isNan || y.isNan then some (2, i)
    else
      match Val.mul x y with
      | .nan => some (1, i)
      | .inf s =>
        match seen with
        | some t => if s = t then firstInvalid seen (i + 1) r else some (3, i)
        | none => firstInvalid (some s) (i + 1) r
      | .fin _ _ _ => firstInvalid seen (i + 1) r

/-- The sign of an infinite value, for `firstInvalid`. -/
def infSign : Val → Option Bool
  | .inf s => some s
  | _ => none

end Sys2Proof.Machine
end

