-- ==== Sys2Proof/Machine/Quant.lean ====
section
/-! DEFINITION. Stored elements: format codes (R125, R193), packing (R53, R57), block scales (R58, R59), P16 blocks
(R55, R56), unsigned-form channels (R52, R88), and the stochastic generator (R77 to R79). -/
namespace Sys2Proof.Machine

/-- Width in bits of an element of format code `f` (R125, R193); 0 for a reserved code. -/
def fmtBits (f : Nat) : Nat :=
  match f with
  | 0 | 4 | 8 => 4
  | 1 | 2 | 3 | 7 => 8
  | 5 | 6 | 10 => 16
  | 9 => 32
  | _ => 0

/-- The floating-point layout of a format code, where it has one. -/
def fmtFloat (f : Nat) : Option FFmt :=
  match f with
  | 0 => some e2m1
  | 1 => some e4m3
  | 2 => some e5m2
  | 5 => some bf16
  | 6 => some fp16
  | 9 => some a32
  | _ => none

/-- F of R59, for the formats it names. -/
def fmtF (f : Nat) : Option Nat :=
  match f with
  | 0 => some 6
  | 1 => some 448
  | 2 => some 57344
  | 3 => some 127
  | 4 => some 7
  | _ => none

/-- The unsigned forms (R52). -/
def fmtUnsigned (f : Nat) : Bool := f == 7 || f == 8

/-- Largest code U of an unsigned form (R297). -/
def fmtU (f : Nat) : Nat := if f = 7 then 255 else 15

/-- The value of a signed or floating element code without its scale (R47, R52). -/
def decodeElem (f code : Nat) : Val :=
  match fmtFloat f with
  | some ff => ff.decode code
  | none => Val.ofInt (sgn (fmtBits f) code)

/-- A value converted to a signed or floating element code without a scale (R81, R82). -/
def encodeElem (f : Nat) (mode : RMode) (v : Val) : Enc :=
  match fmtFloat f with
  | some ff => ff.encode mode v
  | none => encodeInt (fmtBits f) ((fmtF f).getD 0) mode v

/-- Codes of `n` elements of `w` bits in a byte string: 4-bit elements two to a byte, even index low (R53);
others little-endian (R11), so the head of a 32-bit form stands above its tail (R57). -/
def unpackElems (w : Nat) (bs : List (BitVec 8)) (n : Nat) : List Nat :=
  (List.range n).map fun i =>
    if w = 4 then (leAt bs (i / 2) 1) / 2 ^ (4 * (i % 2)) % 16 else leAt bs (i * (w / 8)) (w / 8)

/-- Two 4-bit codes to a byte, even index low (R53). -/
def packNibbles : List Nat → List (BitVec 8)
  | [] => []
  | [a] => [BitVec.ofNat 8 (a % 16)]
  | a :: b :: r => BitVec.ofNat 8 (a % 16 + 16 * (b % 16)) :: packNibbles r

/-- Bytes of element codes of `w` bits. -/
def packElems (w : Nat) (cs : List Nat) : List (BitVec 8) :=
  if w = 4 then packNibbles cs else cs.flatMap (leBytes (w / 8))

/-- The value of an unsigned-form code under its channel's scale word and zero-point word (R52, R88, R54). -/
def unsignedVal (f code scaleWord zpWord : Nat) : Val :=
  let e8 := bits scaleWord 7 0
  let n : Int :=
    if bit scaleWord 8 then sgn (fmtBits f) code
    else ((code % (fmtU f + 1) : Nat) : Int) - ((zpWord % (fmtU f + 1) : Nat) : Int)
  scaledBy (Val.ofInt n) e8

/-- A value converted to an unsigned-form code of a channel, by round-to-nearest-even (R81, R82, R88, R198). -/
def encodeUnsigned (f : Nat) (scaleWord zpWord : Nat) (v : Val) : Enc :=
  let e8 := bits scaleWord 7 0
  let U := fmtU f
  let zr := bit scaleWord 8
  let z := if zr then 0 else zpWord % (U + 1)
  if e8 = 0xFF then ⟨0, false⟩
  else
    match v with
    | .nan => ⟨z, false⟩
    | .inf s => ⟨if s then 0 else U, true⟩
    | .fin s m e =>
      if zr then encodeInt (fmtBits f) (if f = 7 then 127 else 7) .rne (v.scale (-(e8Exp e8)))
      else
        let n := roundAt m (e - e8Exp e8) 0 .rne
        let c : Int := (if s then -(n : Int) else (n : Int)) + z
        if c < 0 then ⟨0, true⟩ else if (U : Int) < c then ⟨U, true⟩ else ⟨c.toNat, false⟩

/-- The largest finite magnitude of a run, 0 where it has none. -/
def maxMag : List Val → Val
  | [] => .zero
  | v :: vs =>
    let r := maxMag vs
    if v.isFin && Val.lt r v.abs then v.abs else r

/-- The smallest s with M × 2^(−s) ≤ F, for M > 0 (R59). -/
def scaleExp (F : Nat) (M : Val) : Int :=
  let s := M.ilog2 - (F.log2 : Int)
  if Val.lt (.fin false F s) M then s + 1 else s

/-- The scale code of a run and, where it has a finite non-zero value, the exponent it is quantised under (R59). -/
def runScale (f : Nat) (vs : List Val) : Nat × Option Int :=
  let M := maxMag vs
  let s : Option Int :=
    if M.isZero then none else some (min 127 (max (-127) (scaleExp ((fmtF f).getD 1) M)))
  if vs.any Val.isNan || (f != 2 && vs.any Val.isInf) then (0xFF, none)
  else ((s.map (fun x => (127 + x).toNat)).getD 0, s)

/-- One run quantised under its chosen scale: the scale code and the element codes (R59). -/
def quantRun (f : Nat) (mode : Nat → RMode) (i0 : Nat) (vs : List Val) : Nat × List Enc :=
  let r := runScale f vs
  if r.1 = 0xFF then (0xFF, vs.map (fun _ => ⟨0, false⟩))
  else
    (r.1, vs.zipIdx.map fun p =>
      match r.2 with
      | some s => encodeElem f (mode (i0 + p.2)) (p.1.scale (-s))
      | none => if p.1.isFin then ⟨0, false⟩ else encodeElem f (mode (i0 + p.2)) p.1)

/-- The magnitudes of a P16 block under exponent code E (R55, R56). -/
def p16Mags (E : Nat) (mode : Nat → RMode) (i0 : Nat) (vs : List Val) : List Nat :=
  vs.zipIdx.map fun p => roundAt p.1.mag p.1.exp ((E : Int) - 141) (mode (i0 + p.2))

/-- A block converted into P16 (R56): its E code and element codes. A carry at the largest exponent saturates (log entry 16). -/
def p16Block (mode : Nat → RMode) (i0 : Nat) (vs : List Val) : Nat × List Enc :=
  if vs.any (fun v => !v.isFin) then (0xFF, vs.map (fun v => ⟨0, v.isInf⟩))
  else
    let M := maxMag vs
    if M.isZero then (0, vs.map (fun _ => ⟨0, false⟩))
    else
      let E := (min 0xFE (max 0 (M.ilog2 + 127))).toNat
      let m1 := p16Mags E mode i0 vs
      let E2 := if m1.any (fun m => decide (2 ^ 15 ≤ m)) ∧ E < 0xFE then E + 1 else E
      let m2 := p16Mags E2 mode i0 vs
      (E2, (List.zip vs m2).map fun p =>
        ⟨min p.2 0x7FFF + b2n p.1.isNeg * 0x8000, decide (0x7FFF < p.2)⟩)

/-- The value of a P16 element (R55). -/
def p16Val (E code : Nat) : Val :=
  if E = 0xFF then .nan else .fin (bit code 15) (code % 0x8000) ((E : Int) - 141)

/-- A list cut into pieces of `n`; `fuel` bounds the pieces. -/
def chunks {α : Type} (n : Nat) : Nat → List α → List (List α)
  | 0, _ => []
  | fuel + 1, xs => if xs.isEmpty then [] else xs.take n :: chunks n fuel (xs.drop n)

/-- The element codes and the scale codes of a conversion. -/
structure Conv where
  elems : List Enc
  scales : List Nat
deriving DecidableEq, Repr

/-- A list of values converted to a signed, floating or P16 format, in runs of `run` where `run` is not 0. -/
def convertVals (f run : Nat) (mode : Nat → RMode) (vs : List Val) : Conv :=
  if f = 10 then
    let bs := (chunks 32 vs.length vs).zipIdx.map (fun p => p16Block mode (32 * p.2) p.1)
    ⟨bs.flatMap (·.2), bs.map (·.1)⟩
  else if run = 0 then ⟨vs.zipIdx.map (fun p => encodeElem f (mode p.2) p.1), []⟩
  else
    let bs := (chunks run vs.length vs).zipIdx.map (fun p => quantRun f mode (run * p.2) p.1)
    ⟨bs.flatMap (·.2), bs.map (·.1)⟩

/-- mix of R79. -/
def mix32 (x0 : Nat) : Nat :=
  let x := x0 % 2 ^ 32
  let x := x ^^^ (x >>> 16)
  let x := (x * 0x7FEB352D) % 2 ^ 32
  let x := x ^^^ (x >>> 15)
  let x := (x * 0x846CA68B) % 2 ^ 32
  x ^^^ (x >>> 16)

/-- The seed of a run of 64 elements (R79). -/
def runSeed (ctxSeed step tag runIndex : Nat) : Nat :=
  let s := mix32 ctxSeed
  let s := mix32 (s ^^^ (step % 2 ^ 32))
  let s := mix32 (s ^^^ (tag % 2 ^ 32))
  let s := mix32 (s ^^^ (runIndex % 2 ^ 32))
  if s = 0 then 1 else s

/-- One step of the generator (R78). -/
def lfsrStep (s : Nat) : Nat := if s % 2 = 1 then (s / 2) ^^^ 0x80200003 else s / 2

/-- `n` generator steps. -/
def lfsrSteps : Nat → Nat → Nat
  | 0, s => s
  | n + 1, s => lfsrSteps n (lfsrStep s)

/-- The draw of element `k` of a run whose seed is `s` (R78, R79). -/
def drawAt (s k : Nat) : Nat := bits (lfsrSteps (16 * (k + 1)) s) 31 16

end Sys2Proof.Machine
end

