-- ==== Sys2Proof/Machine/Status.lean ====
section
/-! DEFINITION. The completion status codes (R219 and the chapters it names). -/
namespace Sys2Proof.Machine

namespace St
def success : Nat := 0x0000
def numericInvalid : Nat := 0x0001
def kernelFault : Nat := 0x0002
def illegal : Nat := 0x0003
def kernelRefused : Nat := 0x0004
def unsupportedFormat : Nat := 0x0005
def arrayConfig : Nat := 0x0006
def arrayHazard : Nat := 0x0007
def scaleMismatch : Nat := 0x0008
def latencyMismatch : Nat := 0x0009
def layout : Nat := 0x000A
def copyRefused : Nat := 0x000B
def specHost : Nat := 0x000C
def translationFault : Nat := 0x000D
def specCapacity : Nat := 0x000E
def maskAlign : Nat := 0x000F
def discarded : Nat := 0x0010
def converter : Nat := 0x0011
def dependencyFailed : Nat := 0x0020
def groupAborted : Nat := 0x0021
def groupTimeout : Nat := 0x0022
def contextReset : Nat := 0x0023
def inputLost : Nat := 0x0024
def registerRefused : Nat := 0x0025
def calibration : Nat := 0x0200
def stageRefused : Nat := 0x0201
def stepOrder : Nat := 0x0203
def weightsSuspect : Nat := 0x0401
def energyBudget : Nat := 0x0500
end St

end Sys2Proof.Machine
end

