-- ==== Sys2Proof/Machine/CayOps.lean ====
section
/-! DEFINITION. Shared operations on cays, threads, tasks and local stores (R127 to R135, R172 to R179). -/
namespace Sys2Proof.Machine

/-- The number of a cay in the module. -/
def cayKey (r : CayRef) : Nat := r.island * 320 + r.cay

/-- The cay of a number. -/
def cayOfKey (k : Nat) : CayRef := ⟨k / 320, k % 320⟩

/-- The cay exists (R12). -/
def cayOk (r : CayRef) : Bool := decide (r.island < 24) && decide (r.cay < 320)

def State.cay (s : State) (r : CayRef) : Cay := Tbl.get cayDef s.cays (cayKey r)

def State.setCay (s : State) (r : CayRef) (c : Cay) : State := { s with cays := Tbl.set cayDef s.cays (cayKey r) c }

def State.task (s : State) (t : Nat) : Task := Tbl.get taskDef s.tasks t

def State.setTask (s : State) (t : Nat) (x : Task) : State := { s with tasks := Tbl.set taskDef s.tasks t x }

def Cay.thr (c : Cay) (t : Nat) : Thread := Tbl.get threadDef c.threads t

def Cay.setThr (c : Cay) (t : Nat) (x : Thread) : Cay := { c with threads := Tbl.set threadDef c.threads t x }

def Cay.arr (c : Cay) (a : Nat) : Arr := Tbl.get arrDef c.arrs a

def Cay.setArr (c : Cay) (a : Nat) (x : Arr) : Cay := { c with arrs := Tbl.set arrDef c.arrs a x }

def Cay.queue (c : Cay) (e : Nat) : List QEntry := Tbl.get queueDef c.queues e

def Cay.setQueue (c : Cay) (e : Nat) (q : List QEntry) : Cay := { c with queues := Tbl.set queueDef c.queues e q }

/-- The running thread (R127): only the thread scheduled last can be. -/
def Cay.running (c : Cay) : Option Nat :=
  if decide (c.lastRun < 8) && (c.thr c.lastRun).bound && (c.thr c.lastRun).st == .running then some c.lastRun else none

/-- The sequencer issues from the first ready thread after the last running one, wrapping from 7 to 0 (R128). -/
def Cay.schedule (c : Cay) : Cay :=
  match c.running with
  | some _ => c
  | none =>
    match ((List.range 8).map (fun i => (c.lastRun + 1 + i) % 8)).find? (fun t => (c.thr t).bound && (c.thr t).st == .ready) with
    | none => c
    | some t => { c.setThr t { c.thr t with st := .running } with lastRun := t }

/-- A thread blocks on a wait with its cause code (R129, R160). -/
def Cay.block (c : Cay) (t : Nat) (w : Wait) (cause : Nat) : Cay :=
  (c.setThr t { c.thr t with st := .blocked, wait := w, cause := cause }).schedule

/-- A blocked thread becomes ready (R129). -/
def Cay.wake (c : Cay) (t : Nat) : Cay :=
  if (c.thr t).bound && (c.thr t).st == .blocked then
    (c.setThr t { c.thr t with st := .ready, wait := .none, cause := 15 }).schedule
  else c

/-- A thread ends and is unbound (R178). -/
def Cay.endThread (c : Cay) (t : Nat) : Cay := (c.setThr t Thread.reset).schedule

/-- Threads that wait for something a predicate recognises become ready. -/
def Cay.wakeIf (c : Cay) (p : Nat → Wait → Bool) : Cay :=
  (List.range 8).foldl (fun x t => if (x.thr t).bound && p t (x.thr t).wait then x.wake t else x) c

/-- A scalar register; s0 reads zero (R172). -/
def Thread.reg (t : Thread) (r : BitVec 5) : W64 := if r = 0 then 0 else Tbl.get (fun _ => (0 : W64)) t.regs r.toNat

/-- A scalar register written; a write of s0 is discarded (R172). -/
def Thread.setReg (t : Thread) (r : BitVec 5) (v : W64) : Thread :=
  if r = 0 then t else { t with regs := Tbl.set (fun _ => (0 : W64)) t.regs r.toNat v }

/-- The thread after an instruction that falls through. -/
def Thread.next (t : Thread) : Thread := { t with pc := t.pc + 8 }

/-- The barrier releases once every thread of the task on the cay that has not ended has issued TBAR equally often (R178). -/
def Cay.releaseBar (c : Cay) (task : Nat) : Cay :=
  let ts := (List.range 8).filter (fun t => (c.thr t).bound && (c.thr t).task == task)
  if ts.all (fun t => (c.thr t).wait == .bar) then c.wakeIf (fun t w => (c.thr t).task == task && w == .bar) else c

/-- A task leaves the cay's engines: its threads end, and its queued work and copies are dropped (R179). -/
def Cay.dropTask (c : Cay) (task : Nat) : Cay :=
  let c1 := (List.range 8).foldl (fun x t => if (x.thr t).bound && (x.thr t).task == task then x.setThr t Thread.reset else x) c
  let c2 := (List.range 6).foldl (fun x e => x.setQueue e ((x.queue e).filter (fun q => q.task != task))) c1
  { c2 with copies := c2.copies.filter (fun j => j.task != task) }.schedule

/-- A task ends with a status: the first one given stands; its threads stop on every cay (R138, R171, R179). -/
def State.failTask (s : State) (t status detail : Nat) : State :=
  let x := s.task t
  if x.st == .ended then s
  else
    let s1 := s.setTask t (if x.status = 0 then { x with status := status, detail := detail } else x)
    x.live.foldl (fun u k => u.setCay (cayOfKey k) ((u.cay (cayOfKey k)).dropTask t)) s1

/-- An instruction that R171 makes illegal ends its task. -/
def State.illegal (s : State) (t : Nat) (r : CayRef) : State := s.failTask t St.illegal r.cay

/-- The running thread of a cay acts. With none, no instruction issues and nothing happens (log entry 2). A thread of a paused task blocks instead (R462). -/
def withThread (r : CayRef) (s : State) (f : Nat → Thread → State) : Out :=
  match (s.cay r).running with
  | none => .next s
  | some t =>
    let th := (s.cay r).thr t
    if (s.task th.task).paused then .next (s.setCay r ((s.cay r).block t .energy 4)) else .next (f t th)

/-- An instruction whose reserved field must be zero (R171). -/
def issue (r : CayRef) (rsvZero : Bool) (s : State) (f : Nat → Thread → State) : Out :=
  withThread r s (fun t th => if rsvZero then f t th else s.illegal th.task r)

/-- The running thread replaced. -/
def State.putThr (s : State) (r : CayRef) (t : Nat) (th : Thread) : State := s.setCay r ((s.cay r).setThr t th)

/-- The running thread blocks and will make the access again: its pc stays. -/
def State.blockThr (s : State) (r : CayRef) (t : Nat) (w : Wait) (cause : Nat) : State :=
  s.setCay r ((s.cay r).block t w cause)

/-! ### The local store -/

/-- Bytes of the local store (R131). -/
def lsTop : Nat := 0x400000

/-- The shadow region's first byte (R135). -/
def shadowBase : Nat := 0x3FE000

/-- The shadow region is reserved in the cays of an island (R135). -/
def State.shadowOn (s : State) (isl : Nat) : Bool := s.fld .shadowCtlRate isl != 0

/-- A local-store range inside the store, and outside the reserved shadow region where it is written (R131, R135, R173). -/
def State.lsOk (s : State) (isl a n : Nat) (wr : Bool) : Bool :=
  decide (a + n ≤ lsTop) && !(wr && s.shadowOn isl && decide (shadowBase < a + n))

/-- A register as a local-store operand of `n` bytes aligned to `al` (R173); `none` where the rules are broken. -/
def State.lsOperand (s : State) (isl v n al : Nat) (wr : Bool) : Option Nat :=
  let a := bits v 21 0
  if bits v 23 22 ≠ 0 ∨ a % al ≠ 0 ∨ !s.lsOk isl a n wr then none else some a

/-- The local-store address of a scalar load or store: a + sext(IMM) (R173, R178). -/
def State.lsScalar (s : State) (isl v : Nat) (imm : Int) (n : Nat) (wr : Bool) : Option Nat :=
  let x : Int := (bits v 21 0 : Nat) + imm
  if bits v 23 22 ≠ 0 ∨ x < 0 ∨ x.toNat % n ≠ 0 ∨ !s.lsOk isl x.toNat n wr then none else some x.toNat

def Cay.lsRead (c : Cay) (a n : Nat) : List (BitVec 8) := Memory.readN c.ls a n

def Cay.lsWrite (c : Cay) (a : Nat) (bs : List (BitVec 8)) : Cay := { c with ls := Memory.writeN c.ls a bs }

/-- A little-endian word of the local store. -/
def Cay.lsWord (c : Cay) (a n : Nat) : Nat := leNat (c.lsRead a n)

/-! ### Pending local-store writes (R176) -/

/-- Size of a vector operand of 64 lanes (R191). -/
def vecBytes (f : Nat) : Nat := 8 * fmtBits f

/-- The run length of a BLK code (R190, R198); 0 = none. -/
def blkRun (b : Nat) : Nat := if b = 0 then 0 else 8 * 2 ^ b

/-- The local-store ranges a queued entry is still to write (R176). -/
def EngOp.writes (op : EngOp) (ls : Memory) : List (Nat × Nat) :=
  match op with
  | .vec v f x =>
    match v with
    | .cmplt | .cmpeq | .rsum | .rmax | .stg => []
    | _ =>
      let d := bits x.d 21 0
      let base := [(d, vecBytes f.dfmt.toNat)]
      if v == .cvt then
        if f.dfmt.toNat = 10 then base ++ [(bits x.d 45 24, 2)]
        else if f.blk ≠ 0 ∧ (fmtF f.dfmt.toNat).isSome then base ++ [(bits x.d 45 24, 64 / blkRun f.blk.toNat)]
        else base
      else base
  | .mdrn f d a _ =>
    let w := leNat (Memory.readN ls (bits a 21 0) 4)
    [(bits d 21 0, (f.countM1.toNat + 1) * 16 * fmtBits (bits w 11 8) / 8)]
  | _ => []

/-- The scalar register a queued entry is still to write (R176). -/
def EngOp.regOut (op : EngOp) : Option (BitVec 5) :=
  match op with
  | .vec v f _ => if v == .cmplt || v == .cmpeq || v == .rsum || v == .rmax then some f.d else none
  | _ => none

/-- Every queued entry of the cay with a number below `upto`. -/
def Cay.queued (c : Cay) (upto : Nat) : List QEntry :=
  ((List.range 5).flatMap (fun e => c.queue e)).filter (fun q => decide (q.num < upto))

/-- Two ranges share a byte. -/
def overlaps (a n b m : Nat) : Bool := decide (a < b + m) && decide (b < a + n)

/-- Some of a range is still to be written by work queued before `upto` (R176). -/
def Cay.pendingRange (c : Cay) (upto a n : Nat) : Bool :=
  (c.queued upto).any (fun q => (q.op.writes c.ls).any (fun r => overlaps a n r.1 r.2))

/-- A scalar register of a thread is still to be written by queued work (R176). -/
def Cay.pendingReg (c : Cay) (t : Nat) (r : BitVec 5) : Bool :=
  (c.queued c.issue).any (fun q => q.thread == t && q.op.regOut == some r && r != 0)

/-- A task's numeric result is invalid for the first time in a unit: the island's and context's counters, the island's capture
registers and the context's event (R86, R87). -/
def State.noteInvalid (s : State) (task : Nat) (r : CayRef) (arr unit cause row col kidx : Nat) : State :=
  let x := s.task task
  let s1 := (s.bump .numiInvalidCnt r.island).bump .numcInvalidCnt x.ctx
  let s2 :=
    if s1.fld .numiStatCaptValid r.island = 1 then s1.setFld .numiStatCaptLost 1 r.island
    else
      let i := r.island
      ((((((((((((s1.setFld .numiStatCaptValid 1 i).setFld .numiCaptSrcCtx x.ctx i).setFld .numiCaptSrcCay r.cay i).setFld
        .numiCaptSrcArray arr i).setFld .numiCaptSrcUnit unit i).setFld .numiCaptSrcCause cause i).setFld
        .numiCaptSrcStream x.stream i).setFld .numiCaptCellRow row i).setFld .numiCaptCellCol col i).setFld
        .numiCaptKidx kidx i).setFld .numiCaptSeqLo (x.seq % 2 ^ 32) i).setFld .numiCaptSeqHi (x.seq / 2 ^ 32) i)
  let s3 := if x.invalid then s2 else s2.raise 0x21 x.ctx 0
  s3.setTask task { s3.task task with invalid := true }

/-- A task fails on an invalid operation where its flag or its context's is set (R87). -/
def State.failOnInvalid (s : State) (task : Nat) : State :=
  let x := s.task task
  if x.invalid && (x.failInv || s.fld .numcCtlFailInvalid x.ctx == 1) then s.failTask task St.numericInvalid 0 else s

/-- Saturated elements of a converting unit are counted for the island, the context and the task (R81, R116). -/
def State.noteSat (s : State) (task : Nat) (isl n : Nat) : State :=
  if n = 0 then s
  else
    let s1 := (s.bump .numiSatCnt isl n).bump .numcSatCnt (s.task task).ctx n
    s1.setTask task { s1.task task with sat := (s1.task task).sat + n }

end Sys2Proof.Machine
end

