-- ==== Sys2Proof/Machine/WgtOps.lean ====
section
/-! DEFINITION. Shared operations on weights: the leaf entries of translation, shards by address, invalid shards (R355, R356, R380). -/
namespace Sys2Proof.Machine

/-- The HBM key and index shift of the page entry that translates an address, where the walk reaches one. -/
def State.leafFrom (s : State) (dva : Nat) : List Nat → Nat → Nat → Option (Nat × Nat)
  | [], _, _ => none
  | sh :: rest, table, idxBits =>
    let k := table + 8 * (dva / 2 ^ sh % 2 ^ idxBits)
    let e := leNat (s.hbmBytes k 8)
    if sh = 16 then some (k, sh)
    else if sh = 21 ∧ (!bit e 63 ∨ pteType e ≠ 0) then some (k, sh)
    else if !bit e 63 then none
    else s.leafFrom dva rest (pteAddr e) (if sh = 21 then 5 else 9)

def State.leaf (s : State) (ctx dva : Nat) : Option (Nat × Nat) :=
  s.leafFrom dva [39, 30, 21, 16] (s.fld64 .ctxTtBaseLoBase .ctxTtBaseHiBase ctx) 9

/-- A page entry rewritten by the module (R504). -/
def State.editPte (s : State) (ctx dva : Nat) (f : Nat → Nat) : State :=
  match s.leaf ctx dva with
  | none => s
  | some (k, _) => s.hbmWrite none k (leBytes 8 (f (leNat (s.hbmBytes k 8))))

/-- The 2 MiB pages of a shard. -/
def Shard.npages (x : Shard) : Nat := ceilDiv x.bytes (2 ^ 21)

/-- The addresses of the pages of a shard. -/
def Shard.pageAddrs (x : Shard) : List Nat := (List.range x.npages).map (fun i => x.dva + i * 2 ^ 21)

/-- The address lies on a page of the shard. -/
def Shard.covers (x : Shard) (dva : Nat) : Bool := decide (x.dva ≤ dva) && decide (dva < x.dva + x.npages * 2 ^ 21)

/-- SUSPECT set or cleared on every page of a shard (R356, R357). -/
def State.markSuspect (s : State) (ctx : Nat) (x : Shard) (v : Bool) : State :=
  x.pageAddrs.foldl (fun t a => t.editPte ctx a (fun e => ins e 58 58 (b2n v))) s

/-- The entries of a shard's pages are made invalid (R504). -/
def State.unmapShard (s : State) (ctx : Nat) (x : Shard) : State := x.pageAddrs.foldl (fun t a => t.editPte ctx a (fun _ => 0)) s

def State.wgt (s : State) (ctx : Nat) : WgtCtx := Tbl.get wgtDef s.wgts ctx

def State.setWgt (s : State) (ctx : Nat) (w : WgtCtx) : State := { s with wgts := Tbl.set wgtDef s.wgts ctx w }

def WgtCtx.model (w : WgtCtx) (m : Nat) : Model := Tbl.get modelDef w.models m

def WgtCtx.setModel (w : WgtCtx) (m : Nat) (x : Model) : WgtCtx := { w with models := Tbl.set modelDef w.models m x }

def Model.slot (m : Model) (i : Nat) : GenSlot := Tbl.get genSlotDef m.slots i

def Model.setSlot (m : Model) (i : Nat) (g : GenSlot) : Model := { m with slots := Tbl.set genSlotDef m.slots i g }

/-- A model replaced by a function of it. -/
def State.modModel (s : State) (c m : Nat) (f : Model → Model) : State := s.setWgt c ((s.wgt c).setModel m (f ((s.wgt c).model m)))

/-- The adapter image at an address is freed: its pages are unmapped and released (R268, R349). -/
def State.freeImage (s : State) (ctx dva : Nat) : State :=
  let w := s.wgt ctx
  let s1 := (w.images.filter (fun i => i.shard.dva == dva)).foldl (fun t i => t.unmapShard ctx i.shard) s
  s1.setWgt ctx { s1.wgt ctx with images := (s1.wgt ctx).images.filter (fun i => i.shard.dva != dva) }

/-- Where a shard is held: the model and generation slot, or the image. -/
inductive ShardAt where
  | gen (model slot idx : Nat)
  | image (idx : Nat)
deriving DecidableEq, Repr

/-- The resident shard whose pages hold an address. -/
def WgtCtx.find (w : WgtCtx) (dva : Nat) : Option (ShardAt × Shard) :=
  let gens := (List.range 8).flatMap fun m => (List.range 4).flatMap fun i =>
    (((w.model m).slot i).shards.zipIdx.map (fun e => (ShardAt.gen m i e.2, e.1)))
  let ims := w.images.zipIdx.map (fun e => (ShardAt.image e.2, e.1.shard))
  (gens ++ ims).find? (fun e => e.2.covers dva)

/-- A demand access to a staged tiered layer makes it the one used last (R366). -/
def State.useTier (s : State) (ctx dva : Nat) : State :=
  match (s.wgt ctx).find dva with
  | some (.gen m _ _, x) =>
    if x.host.isSome && ((s.wgt ctx).model m).staged.contains x.layer then
      s.modModel ctx m (fun y => { y with staged := y.staged.filter (fun l => l != x.layer) ++ [x.layer] })
    else s
  | _ => s

/-- The shard at a place replaced by a function of it. -/
def WgtCtx.modShard (w : WgtCtx) (a : ShardAt) (f : Shard → Shard) : WgtCtx :=
  match a with
  | .gen m i k =>
    let x := w.model m
    let g := x.slot i
    w.setModel m (x.setSlot i { g with shards := modAt g.shards k f })
  | .image k => { w with images := modAt w.images k (fun e => { e with shard := f e.shard }) }

/-- The DETAIL that names a shard (R380). -/
def shardDetail (a : ShardAt) (x : Shard) : Nat :=
  match a with
  | .gen m _ _ => x.index % 2 ^ 16 + m * 2 ^ 16
  | .image _ => x.index % 2 ^ 16 + 2 ^ 19

/-- The DETAIL of "weights suspect" for an address. -/
def State.suspectDetail (s : State) (ctx dva : Nat) : Nat :=
  match (s.wgt ctx).find dva with
  | none => 0
  | some (a, x) => shardDetail a x

/-- A shard becomes invalid (R355, R356): it is counted, latched, marked and reported. -/
def State.invalidShard (s : State) (ctx : Nat) (a : ShardAt) (x : Shard) : State :=
  let s1 := (s.setWgt ctx ((s.wgt ctx).modShard a (fun y => { y with invalid := true }))).bump .wgtDigestFailCnt ctx
  let s2 :=
    if s1.fld .wgtSuspectValid ctx = 1 then s1
    else
      ((s1.setFld .wgtSuspectValid 1 ctx).setFld .wgtSuspectModel (match a with | .gen m _ _ => m | .image _ => 0) ctx).setFld
        .wgtSuspectShard (x.index % 2 ^ 16) ctx
  (s2.markSuspect ctx x true).raise 0x26 ctx 0

/-- What an access of a context that met poison ends with (R479): "weights suspect" where a shard is held there, which becomes invalid;
otherwise "input lost" with the stack. `dva` is the address the agent used, `k` the HBM address. -/
def State.poisonEnd (s : State) (ctx dva k : Nat) : State × Nat × Nat :=
  let s1 := s.notePoison k
  match (s1.wgt ctx).find dva with
  | some (a, x) => (if x.invalid then s1 else s1.invalidShard ctx a x, St.weightsSuspect, shardDetail a x)
  | none => (s1, St.inputLost, stackOf k)

/-- The status and detail with which a task, collective or record ends on a faulting access (R503), with the fault counted and latched. A walk
that met poison (CAUSE 7) ends as a reader of poison. The number 8 stands for a host read that the host refused (R422), which is no fault of a walk. -/
def State.faultEnd (s : State) (ctx cause agent isl dva : Nat) : State × Nat × Nat :=
  let s1 := if cause = 8 then s else s.noteFault ctx cause agent isl dva
  if cause = 6 then (s1, St.weightsSuspect, s1.suspectDetail ctx dva)
  else if cause = 7 then (s1.notePoison (s1.walk ctx dva).left, St.inputLost, stackOf (s1.walk ctx dva).left)
  else if cause = 4 then (s1, St.specHost, 0)
  else (s1, St.translationFault, dva / 2 ^ 16 % 2 ^ 32)

end Sys2Proof.Machine
end

