-- ==== Sys2Proof/Machine/DevMem.lean ====
section
/-! DEFINITION. Device virtual memory as cays reach it: the island cache, its misses and run-ahead trackers, shadowed writes of
speculative tasks, and faults (R143 to R156, R178, R503). -/
namespace Sys2Proof.Machine

/-! ### Shadowed writes (R153, R154) -/

/-- The set of a line (R143). -/
def icSetOf (l : Nat) : Nat := l % 24576

/-- Shadowed lines of a set. -/
def ICache.shadowIn (c : ICache) (set : Nat) : Nat := (c.shadow.filter (fun x => icSetOf x.line == set)).length

/-- A task's shadowed byte in one island's cache. -/
def ICache.shadowByte (c : ICache) (task k : Nat) : Option (BitVec 8) :=
  match c.shadow.find? (fun x => x.task == task && x.line == lineOf k) with
  | none => none
  | some x => Tbl.get optByteNone x.bytes (k % 128)

/-- The byte a task reads at an HBM address: its own shadowed byte, in its own island first, else the committed value (R153). -/
def State.taskByte (s : State) (isl task k : Nat) : BitVec 8 :=
  let spec := (s.task task).spec
  if !spec then Memory.read s.hbm k
  else
    match (isl :: (List.range 24)).findSome? (fun i => (s.ic i).shadowByte task k) with
    | some b => b
    | none => Memory.read s.hbm k

/-- `n` bytes as a task reads them. -/
def State.taskBytes (s : State) (isl task k n : Nat) : List (BitVec 8) := (List.range n).map (fun i => s.taskByte isl task (k + i))

/-- Lines that a shadowed write would have to allocate, and whether their sets have room (R154). -/
def State.shadowRoom (s : State) (isl task : Nat) (ls : List Nat) : Bool :=
  let c := s.ic isl
  let ways := s.fld .icCtlSpecWays isl
  let new := (ls.filter (fun l => !(c.shadow.any (fun x => x.task == task && x.line == l)))) |> noDups
  new.all (fun l => decide (c.shadowIn (icSetOf l) + (new.filter (fun m => icSetOf m == icSetOf l)).length ≤ ways))

/-- Bytes added to a task's shadowed line. -/
def ICache.shadowPut (c : ICache) (task k : Nat) (b : BitVec 8) : ICache :=
  let l := lineOf k
  let c1 := if c.shadow.any (fun x => x.task == task && x.line == l) then c else { c with shadow := c.shadow ++ [⟨task, l, []⟩] }
  { c1 with shadow := c1.shadow.map (fun x =>
      if x.task = task ∧ x.line = l then { x with bytes := Tbl.set optByteNone x.bytes (k % 128) (some b) } else x) }

/-- The count of shadowed lines shown by IC_SPEC_LINES. -/
def State.showSpecLines (s : State) (isl : Nat) : State := s.setFld .icSpecLinesLines (s.ic isl).shadow.length isl

/-- A shadowed write for which there is room. -/
def State.shadowWrite (s : State) (isl task k : Nat) (bs : List (BitVec 8)) : State :=
  (s.setIc isl (bs.zipIdx.foldl (fun c b => c.shadowPut task (k + b.2) b.1) (s.ic isl))).showSpecLines isl

/-- Other speculative tasks of the island hold shadowed lines. -/
def State.shadowOthers (s : State) (isl task : Nat) : Bool := (s.ic isl).shadow.any (fun x => x.task != task)

/-- A speculative write that cannot be shadowed while no other task holds lines ends its task (R154). -/
def State.specFail (s : State) (isl task : Nat) : State :=
  ((s.bump .icSpecFail isl).raise 0x12 isl 0).failTask task St.specCapacity isl

/-- A task's shadowed lines in an island are freed (R156). -/
def State.shadowDrop (s : State) (isl task : Nat) : State :=
  (s.setIc isl { s.ic isl with shadow := (s.ic isl).shadow.filter (fun x => x.task != task) }).showSpecLines isl

/-- A task's shadowed lines in an island are written through under their masks and freed (R155). -/
def State.shadowCommit (s : State) (isl task : Nat) : State :=
  let mine := (s.ic isl).shadow.filter (fun x => x.task == task)
  (mine.foldl (fun t x => x.bytes.foldl (fun u e =>
    match e.2 with
    | some b => u.hbmWrite (some isl) (x.line * 128 + e.1) [b]
    | none => u) t) s).shadowDrop isl task

/-! ### The island cache (R143, R147) -/

/-- A line is installed; where its set is full, a line of the set that the spec does not name is evicted (R143, R151). -/
def State.cacheInstall (s : State) (isl l : Nat) : State :=
  let c := s.ic isl
  if c.lines.contains l then s
  else
    let mates := c.lines.filter (fun x => icSetOf x == icSetOf l)
    if mates.length + c.shadowIn (icSetOf l) < 16 then s.setIc isl { c with lines := c.lines ++ [l] }
    else
      let v := mates.getD (s.freeVal 4 % max 1 mates.length) l
      s.took.setIc isl { c with lines := c.lines.filter (fun x => x != v) ++ [l] }

/-- A demand lookup of a line: a hit in the cache, a first hit in the prefetch buffer, which moves the line into the cache, or a miss (R143). -/
def State.lookup (s : State) (isl l : Nat) : State × Bool :=
  let c := s.ic isl
  if c.lines.contains l then (s.bump64 .icHitLo .icHitHi isl, true)
  else if c.buffer.contains l then
    (((s.setIc isl { c with buffer := c.buffer.filter (fun x => x != l) }).cacheInstall isl l).bump64 .icHitLo .icHitHi isl |>.bump .icPfUsed isl, true)
  else (s.bump64 .icMissLo .icMissHi isl, false)

/-- Misses outstanding in an island (R129, IC_STAT). -/
def ICache.missOut (c : ICache) : Nat := (c.fetches.filter (fun f => f.demand)).length

/-- A demand fetch of a line for a thread; one in flight serves it too. -/
def ICache.fetchFor (c : ICache) (l cay thread : Nat) : ICache :=
  if c.fetches.any (fun f => f.line == l) then
    { c with fetches := c.fetches.map (fun f => if f.line = l then { f with demand := true, waiters := f.waiters ++ [(cay, thread)] } else f) }
  else { c with fetches := c.fetches ++ [⟨l, true, false, [(cay, thread)]⟩] }

/-! ### Stride trackers (R148) -/

/-- Three addresses at equal non-zero spacing give their stride. -/
def strideOf : List Nat → Option Int
  | [a, b, c] => if (b : Int) - a = (c : Int) - b ∧ a ≠ b then some ((b : Int) - a) else none
  | _ => none

/-- A tracker after a demand access of its thread at a line address (R148). -/
def Tracker.see (t : Tracker) (a : Nat) (miss : Bool) : Tracker :=
  let advanced : Option Tracker :=
    match t.stride with
    | some d =>
      let gap : Int := (a : Int) - t.latest
      if gap % d = 0 ∧ 0 ≤ gap / d then
        let nx : Int := a + d
        some { t with latest := a, next := if ((t.next : Int) < nx ∧ 0 < d) ∨ (nx < t.next ∧ d < 0) then nx.toNat else t.next }
      else none
    | none => none
  let t1 := advanced.getD t
  if !miss then t1
  else
    let r := (t1.recent ++ [a]).drop (t1.recent.length - 2)
    match strideOf r with
    | some d => if t1.stride = some d then { t1 with recent := r } else { t1 with recent := r, stride := some d, latest := a, next := ((a : Int) + d).toNat, stopped := false }
    | none => { t1 with recent := r }

/-- A demand access is shown to the tracker of its thread and context; a thread without one takes a place on a miss, that of a tracker the spec
does not name where all 64 are in use (R148). -/
def State.track (s : State) (r : CayRef) (thread ctx dva : Nat) (miss : Bool) : State :=
  if s.fld .icCtlPfEn r.island = 0 then s
  else
    let c := s.ic r.island
    let a := dva / 128 * 128
    let mine (t : Tracker) : Bool := t.cay == r.cay && t.thread == thread && t.ctx == ctx
    if c.trackers.any mine then
      s.setIc r.island { c with trackers := c.trackers.map (fun t => if mine t then t.see a miss else t) }
    else if !miss then s
    else
      let n : Tracker := ⟨r.cay, thread, ctx, [a], none, a, a, false⟩
      if c.trackers.length < 64 then s.setIc r.island { c with trackers := c.trackers ++ [n] }
      else s.took.setIc r.island { c with trackers := setAt c.trackers (s.freeVal 6 % 64) n }

/-! ### Accesses of a task -/

/-- Where a task's access goes. -/
inductive Place where
  | hbm (key : Nat)
  | host (addr : Nat)
  | aperture (off : Nat)
  | tier (model layer : Nat)
  | fault (cause : Nat)
deriving DecidableEq, Repr

/-- The tiered layer that holds an address and is not staged (R366). -/
def State.tierMiss (s : State) (ctx dva : Nat) : Option (Nat × Nat) :=
  match (s.wgt ctx).find dva with
  | some (.gen m _ _, x) => if x.host.isSome && !(((s.wgt ctx).model m).staged.contains x.layer) then some (m, x.layer) else none
  | _ => none

/-- The place of a demand access of a context (R501 to R503, R366); `spec` for a speculative task. -/
def State.placeCtx (s : State) (ctx : Nat) (spec : Bool) (dva : Nat) (wr : Bool) : Place :=
  let w := s.walk ctx dva
  let c := s.accessCause ctx w wr spec false true
  if c ≠ 0 then .fault c
  else
    match w.dest with
    | .hbm k => .hbm k
    | .host a =>
      match s.tierMiss ctx dva with
      | some m => .tier m.1 m.2
      | none => .host a
    | .aperture o => .aperture o
    | .fault e => .fault e

/-- The place of a demand access of a task. -/
def State.place (s : State) (task dva : Nat) (wr : Bool) : Place := s.placeCtx (s.task task).ctx (s.task task).spec dva wr

/-- A load or store of a task faults: the fault is counted, latched and raised, and the task ends (R178, R503). -/
def State.accessFault (s : State) (r : CayRef) (task cause dva : Nat) : State :=
  let e := s.faultEnd (s.task task).ctx cause 0 r.island dva
  (e.1.raise 0x11 r.island 1).failTask task e.2.1 e.2.2

/-- A task read poison (R479). -/
def State.poisonTask (s : State) (task dva k : Nat) : State :=
  let e := s.poisonEnd (s.task task).ctx dva k
  e.1.failTask task e.2.1 e.2.2

/-- The outcome of one element's store. -/
inductive StoreRes where
  | done (s : State)
  | wait (s : State) (w : Wait) (cause : Nat)
  | ended (s : State)
deriving DecidableEq, Repr

/-- One element stored by a thread or the vector unit to HBM or the host tier (R144, R153, R154, R178). -/
def State.storeElem (s : State) (r : CayRef) (task dva : Nat) (bs : List (BitVec 8)) : StoreRes :=
  if dva % max 1 bs.length ≠ 0 then .ended (s.illegal task r)
  else
    match s.place task dva true with
    | .fault c => .ended (s.accessFault r task c dva)
    | .aperture _ => .ended (s.illegal task r)
    | .tier m l => .wait (s.bump .wgtStageMissCnt (s.task task).ctx) (.tier m l) 7
    | .host a => .done (s.emit (.hostWrite (s.task task).ctx a bs))
    | .hbm k =>
      if !(s.task task).spec then .done ((s.useTier (s.task task).ctx dva).hbmWrite (some r.island) k bs)
      else if s.shadowRoom r.island task [lineOf k] then .done (s.shadowWrite r.island task k bs)
      else if s.shadowOthers r.island task then .wait s .shadow 5
      else .ended (s.specFail r.island task)

/-- A host read asked for (R422). -/
def State.askHost (s : State) (ctx : Nat) (o : ReadOwner) (a n : Nat) : State × Nat :=
  let t := s.hostTag
  let s1 : State := { s with hostTag := t + 1, hostReads := s.hostReads ++ [HostRead.mk t o a n none ctx false] }
  (s1.emit (.hostRead ctx t a n), t)

/-- The host read of a tag. -/
def State.hostRead (s : State) (t : Nat) : Option HostRead := s.hostReads.find? (fun x => x.tag == t)

/-- What the elements of a load need before it can finish. -/
structure LoadPlan where
  elems : List GElem
  lines : List Nat
  hosts : List (Nat × Nat × Nat)
deriving DecidableEq, Repr

/-- The outcome of planning a load: its elements, or the reason it stops. -/
inductive PlanRes where
  | ok (p : LoadPlan)
  | tier (model layer : Nat)
  | fault (cause dva : Nat)
  | bad
deriving DecidableEq, Repr

/-- The elements of a load placed in lane order; a host element is given the next tag. -/
def State.planLoad (s : State) (task size : Nat) : List (Nat × Nat) → Nat → LoadPlan → PlanRes
  | [], _, p => .ok p
  | (lane, dva) :: rest, tag, p =>
    if dva % size ≠ 0 then .bad
    else
      match s.place task dva false with
      | .fault c => .fault c dva
      | .aperture _ => .bad
      | .tier m l => .tier m l
      | .host a => s.planLoad task size rest (tag + 1) { p with elems := p.elems ++ [⟨lane, .host tag, dva⟩], hosts := p.hosts ++ [(tag, a, size)] }
      | .hbm k => s.planLoad task size rest tag { p with elems := p.elems ++ [⟨lane, .hbm k, dva⟩], lines := if p.lines.contains (lineOf k) then p.lines else p.lines ++ [lineOf k] }

/-- Each distinct line of a load is looked up and shown to the tracker; the lines that miss are answered. -/
def State.lookupAll (s : State) (r : CayRef) (thread ctx : Nat) (es : List GElem) : List Nat → State × List Nat
  | [] => (s, [])
  | l :: ls =>
    let h := s.lookup r.island l
    let dva := ((es.find? (fun e => match e.src with | .hbm k => lineOf k == l | .host _ => false)).map (fun e => e.dva)).getD 0
    let t := h.1.track r thread ctx dva (!h.2)
    let rest := t.lookupAll r thread ctx es ls
    (rest.1, if h.2 then rest.2 else l :: rest.2)

/-- The bytes of an element of a load, once it has come: from the lines that arrived for the thread with the task's shadowed bytes over them, from
the cache, or from the host. -/
def State.elemBytes (s : State) (isl task : Nat) (got : List (Nat × List (BitVec 8))) (size : Nat) (e : GElem) : List (BitVec 8) :=
  match e.src with
  | .host t => ((s.hostRead t).bind (fun h => h.data)).getD (List.replicate size 0)
  | .hbm k =>
    match got.find? (fun g => g.1 == lineOf k) with
    | none => s.taskBytes isl task k size
    | some g =>
      (List.range size).map fun i =>
        match if (s.task task).spec then (isl :: (List.range 24)).findSome? (fun j => (s.ic j).shadowByte task (k + i)) else none with
        | some b => b
        | none => g.2.getD ((k + i) % 128) 0

/-- A finished load delivers its values: to the register, or to the lanes of the local store. -/
def State.deliver (s : State) (r : CayRef) (t task : Nat) (got : List (Nat × List (BitVec 8))) (op : MissOp) : State :=
  match op with
  | .ldg d size e =>
    match e.src with
    | .hbm k =>
      if s.poisoned k size then s.poisonTask task e.dva k
      else
        let th := (s.cay r).thr t
        s.putThr r t ((th.setReg d (BitVec.ofNat 64 (leNat (s.elemBytes r.island task got size e)))).next)
    | .host _ =>
      let th := (s.cay r).thr t
      s.putThr r t ((th.setReg d (BitVec.ofNat 64 (leNat (s.elemBytes r.island task got size e)))).next)
  | .gather dst size lanes =>
    let bad := lanes.find? (fun e => match e.src with | .hbm k => s.poisoned k size | .host _ => false)
    match bad.bind (fun e => match e.src with | .hbm k => some (e.dva, k) | .host _ => none) with
    | some p => s.poisonTask task p.1 p.2
    | none =>
      let c := lanes.foldl (fun c e => c.lsWrite (dst + e.lane * size) (s.elemBytes r.island task got size e)) (s.cay r)
      (s.setCay r c).putThr r t ((c.thr t).next)

/-- A load of a thread is issued: it faults, waits for a tiered layer, is not accepted, waits for its lines and host data, or finishes at once
(R129, R143, R178). -/
def State.load (s : State) (r : CayRef) (t task size : Nat) (as : List (Nat × Nat)) (mk : List GElem → MissOp) : State :=
  match s.planLoad task size as s.hostTag (LoadPlan.mk [] [] []) with
  | .bad => s.illegal task r
  | .fault c dva => s.accessFault r task c dva
  | .tier m l => (s.bump .wgtStageMissCnt (s.task task).ctx).blockThr r t (.tier m l) 7
  | .ok p =>
    let c0 := s.ic r.island
    let absent := p.lines.filter (fun l => !(c0.lines.contains l) && !(c0.buffer.contains l))
    let new := absent.filter (fun l => !(c0.fetches.any (fun f => f.line == l)))
    if new ≠ [] ∧ 512 < c0.missOut + new.length then s.blockThr r t .missFull 1
    else
      let h := s.lookupAll r t (s.task task).ctx p.elems p.lines
      let s1 := h.1.setIc r.island (h.2.foldl (fun c l => c.fetchFor l r.cay t) (h.1.ic r.island))
      let s0 := p.elems.foldl (fun u e => u.useTier (s.task task).ctx e.dva) s1
      let s2 := p.hosts.foldl (fun u e => (u.askHost (s.task task).ctx (.load (cayKey r) t) e.2.1 e.2.2).1) s0
      if h.2 = [] ∧ p.hosts = [] then s2.deliver r t task [] (mk p.elems)
      else s2.blockThr r t (.miss h.2 [] (mk p.elems)) (if h.2 = [] then 7 else 1)

/-- The elements of a load. -/
def MissOp.elems : MissOp → List GElem
  | .ldg _ _ e => [e]
  | .gather _ _ l => l

/-- Every line and host read a waiting load needs has come. -/
def State.loadReady (s : State) (w : Wait) : Bool :=
  match w with
  | .miss [] _ op => op.elems.all (fun e => match e.src with | .hbm _ => true | .host t => ((s.hostRead t).bind (fun h => h.data)).isSome)
  | _ => false

/-- A waiting load whose data has come finishes, and its thread becomes ready (R129). -/
def State.loadReturn (s : State) (r : CayRef) (t : Nat) : State :=
  let th := (s.cay r).thr t
  match th.wait with
  | .miss [] got op =>
    if !s.loadReady th.wait then s
    else
      let s1 := s.deliver r t th.task got op
      let tags := op.elems.filterMap (fun e => match e.src with | .host g => some g | .hbm _ => none)
      let s2 := { s1 with hostReads := s1.hostReads.filter (fun h => !(tags.contains h.tag)) }
      s2.setCay r ((s2.cay r).wake t)
  | _ => s

end Sys2Proof.Machine
end

