-- ==== Sys2Proof/Machine/Hash.lean ====
section
/-! DEFINITION. CRC-32C and SHA3-256, which the spec names and does not restate (log entry 20). -/
namespace Sys2Proof.Machine

/-- One bit of CRC-32C in its reflected form. -/
def crcBit (c : Nat) : Nat := if c % 2 = 1 then (c / 2) ^^^ 0x82F63B78 else c / 2

/-- One byte taken into CRC-32C. -/
def crcByte (c : Nat) (b : BitVec 8) : Nat :=
  let x := c ^^^ b.toNat
  crcBit (crcBit (crcBit (crcBit (crcBit (crcBit (crcBit (crcBit x)))))))

/-- CRC-32C of a byte string. -/
def crc32c (bs : List (BitVec 8)) : Nat := (bs.foldl crcByte 0xFFFFFFFF) ^^^ 0xFFFFFFFF

/-- A 64-bit word turned left. -/
def rotl64 (x n : Nat) : Nat := (x <<< (n % 64) ||| x >>> (64 - n % 64)) % 2 ^ 64

/-- The rotation offsets of Keccak by lane x + 5y. -/
def keccakRot : List Nat := [0, 1, 62, 28, 27, 36, 44, 6, 55, 20, 3, 10, 43, 25, 39, 41, 45, 15, 21, 8, 18, 2, 61, 56, 14]

/-- The round constants of Keccak. -/
def keccakRc : List Nat :=
  [0x0000000000000001, 0x0000000000008082, 0x800000000000808A, 0x8000000080008000, 0x000000000000808B, 0x0000000080000001,
   0x8000000080008081, 0x8000000000008009, 0x000000000000008A, 0x0000000000000088, 0x0000000080008009, 0x000000008000000A,
   0x000000008000808B, 0x800000000000008B, 0x8000000000008089, 0x8000000000008003, 0x8000000000008002, 0x8000000000000080,
   0x000000000000800A, 0x800000008000000A, 0x8000000080008081, 0x8000000000008080, 0x0000000080000001, 0x8000000080008008]

/-- One round of Keccak on 25 lanes. -/
def keccakRound (a : List Nat) (rc : Nat) : List Nat :=
  let g (l : List Nat) (i : Nat) : Nat := l.getD i 0
  let c := (List.range 5).map (fun x => g a x ^^^ g a (x + 5) ^^^ g a (x + 10) ^^^ g a (x + 15) ^^^ g a (x + 20))
  let d := (List.range 5).map (fun x => g c ((x + 4) % 5) ^^^ rotl64 (g c ((x + 1) % 5)) 1)
  let t := (List.range 25).map (fun i => g a i ^^^ g d (i % 5))
  let b := (List.range 25).map (fun i =>
    let x := i % 5
    let y := i / 5
    let sx := (x + 3 * y) % 5
    rotl64 (g t (sx + 5 * x)) (keccakRot.getD (sx + 5 * x) 0))
  let e := (List.range 25).map (fun i =>
    let x := i % 5
    let y := i / 5
    g b i ^^^ ((2 ^ 64 - 1 - g b ((x + 1) % 5 + 5 * y)) &&& g b ((x + 2) % 5 + 5 * y)))
  e.zipIdx.map (fun p => if p.2 = 0 then p.1 ^^^ rc else p.1)

/-- The permutation. -/
def keccakF (a : List Nat) : List Nat := keccakRc.foldl keccakRound a

/-- One block of 136 bytes absorbed. -/
def absorb (a : List Nat) (blk : List (BitVec 8)) : List Nat :=
  keccakF (a.zipIdx.map (fun p => if p.2 < 17 then p.1 ^^^ leAt blk (8 * p.2) 8 else p.1))

/-- Blocks absorbed in turn, the last padded. `fuel` bounds the blocks. -/
def absorbAll : Nat → List Nat → List (BitVec 8) → List Nat
  | 0, a, _ => a
  | fuel + 1, a, bs =>
    if bs.length < 136 then
      let pad := bs ++ [0x06] ++ List.replicate (135 - bs.length) 0
      absorb a (setAt pad 135 ((pad.getD 135 0) ||| 0x80))
    else absorbAll fuel (absorb a (bs.take 136)) (bs.drop 136)

/-- SHA3-256 of a byte string: 32 bytes. -/
def sha3 (bs : List (BitVec 8)) : List (BitVec 8) :=
  ((absorbAll (bs.length / 136 + 1) (List.replicate 25 0) bs).take 4).flatMap (leBytes 8)

end Sys2Proof.Machine
end

