-- ==== Sys2Proof/Machine/WorkOps.lean ====
section
/-! DEFINITION. Shared operations on work records, the journal and its entries, completions and dependencies (R202 to R237). -/
namespace Sys2Proof.Machine

/-! ### The record (R205) -/

/-- `n` bytes of a record at an offset, as a number. -/
def Entry.u (e : Entry) (o n : Nat) : Nat := leAt e.raw o n

def Entry.kind (e : Entry) : Nat := e.u 0x0B 1

/-- Bit `i` of the word at 0x08. -/
def Entry.flag (e : Entry) (i : Nat) : Bool := bit (e.u 8 4) i

def Entry.spec (e : Entry) : Bool := e.flag 23
def Entry.failInvalid (e : Entry) : Bool := e.flag 22
def Entry.noIrq (e : Entry) : Bool := e.flag 21
def Entry.overlap (e : Entry) : Bool := e.flag 20
def Entry.depAny (e : Entry) : Bool := e.flag 19
def Entry.grouped (e : Entry) : Bool := e.flag 18
def Entry.prio (e : Entry) : Nat := bits (e.u 8 4) 15 14
def Entry.gid (e : Entry) : Nat := e.u 0x0C 4
def Entry.est (e : Entry) : Nat := e.u 0x10 4
def Entry.eclass (e : Entry) : Nat := e.u 0x17 1
def Entry.user (e : Entry) : Nat := e.u 0x18 8

/-- The dependencies in force: stream and sequence number (R205). -/
def Entry.deps (e : Entry) : List (Nat × Nat) :=
  let w := e.u 8 4
  (if bit w 3 then [(bits w 11 8, e.u 0x20 8)] else []) ++ (if bit w 2 then [(bits w 7 4, e.u 0x28 8)] else [])

/-! ### Streams (R204, R237) -/

/-- The instance of a landing window: stream q of context c. -/
def lwInst (c q : Nat) : Nat := 16 * c + q

def State.lwNext (s : State) (c q : Nat) : Nat := s.fld64 .lwNextLo .lwNextHi (lwInst c q)

/-- A 64-bit value put into a _LO and a _HI register. -/
def State.put64 (s : State) (lo hi : Fld) (v inst : Nat) (unit : Nat := 0) : State :=
  (s.setFld lo (v % 2 ^ 32) inst unit).setFld hi (v / 2 ^ 32 % 2 ^ 32) inst unit

def Entry.is (e : Entry) (c q n : Nat) : Bool := e.ctx == c && e.stream == q && e.seq == n

def State.entry (s : State) (c q n : Nat) : Option Entry := s.entries.find? (fun e => e.is c q n)

def State.modEntry (s : State) (c q n : Nat) (f : Entry → Entry) : State :=
  { s with entries := s.entries.map (fun e => if e.is c q n then f e else e) }

/-- The entries of a stream, in sequence order. -/
def State.streamEntries (s : State) (c q : Nat) : List Entry := s.entries.filter (fun e => e.ctx == c && e.stream == q)

/-- Committed: its commit entry is durable (R217). -/
def Entry.done (e : Entry) : Bool := e.st == .committed || e.st == .signalled

/-- Records accepted and not committed. -/
def State.openRecords (s : State) (c q : Nat) : Nat := ((s.streamEntries c q).filter (fun e => !e.done)).length

/-- The oldest sequence number of a stream still held in the journal; the next number where none is held. -/
def State.oldest (s : State) (c q : Nat) : Nat :=
  ((s.streamEntries c q).map (fun e => e.seq)).foldl min (s.lwNext c q)

/-! ### The journal (R227 to R231) -/

/-- Bytes of one journal copy. -/
def State.jnlBytes (s : State) : Nat := s.fld .jnlSizeSize 0 * 2 ^ 21

/-- Entries the ring holds (R228). -/
def State.jnlCap (s : State) : Nat := (s.jnlBytes - 2 ^ 16) / 256

/-- The HBM address at which copy A or B begins. -/
def State.jnlBase (s : State) (b : Bool) : Nat :=
  if b then hbmKey (s.fld .jnlCtlStackB 0) (s.fld .jnlBaseBBase 0 * 2 ^ 21) else hbmKey (s.fld .jnlCtlStackA 0) (s.fld .jnlBaseABase 0 * 2 ^ 21)

/-- The completion record (R218, R220) of an entry, for a ring of `n` entries. -/
def Entry.completion (e : Entry) (n : Nat) : List (BitVec 8) :=
  let phase := if (e.seq - 1) / max 1 n % 2 = 0 then 1 else 0
  let w := e.status * 2 ^ 16 + e.kind * 2 ^ 8 + phase * 2 ^ 7 + b2n e.invalid * 2 ^ 6 + b2n e.sat * 2 ^ 5 + b2n (e.replays != 0) * 2 ^ 4
  leBytes 8 e.seq ++ leBytes 4 w ++ leBytes 4 e.detail ++ leBytes 6 e.energy ++
    leBytes 2 (e.ctx * 2 ^ 10 + e.stream * 2 ^ 6 + min 63 e.replays) ++ leBytes 8 e.user

/-- Entries of a stream's completion ring. -/
def State.ringN (s : State) (c q : Nat) : Nat := 2 ^ s.fld .cqCtlLog2N (lwInst c q)

/-- The 256 bytes of a journal entry (R229). -/
def Entry.image (e : Entry) (n : Nat) : List (BitVec 8) :=
  let hd := e.raw ++ leBytes 8 e.seq ++
    leBytes 4 (e.ctx * 2 ^ 26 + e.stream * 2 ^ 22 + e.st.code * 2 ^ 19 + min 63 e.replays) ++
    leBytes 4 e.gid ++ leBytes 8 e.tAccept ++ leBytes 8 e.tCommit ++
    (if e.done then e.completion n else List.replicate 32 0) ++ List.replicate 0x38 0 ++ leBytes 4 (e.update + 1)
  hd ++ leBytes 4 (crc32c hd)

/-- An entry written whole to copy A, then to copy B, on the stacks not lost: it is durable (R230, R233). -/
def State.journal (s : State) (e : Entry) : State :=
  let im := e.image (s.ringN e.ctx e.stream)
  let off := 2 ^ 16 + 256 * e.slot
  let put (t : State) (b : Bool) : State :=
    let k := s.jnlBase b
    if s.stackLost (stackOf k) then t else t.hbmWrite none (k + off) im
  (put (put s false) true).modEntry e.ctx e.stream e.seq (fun x => { x with update := x.update + 1, durable := true })

/-- The smallest free place of the ring. -/
def State.freeSlot (s : State) : Nat :=
  ((List.range (s.entries.length + s.groups.length + 1)).find? (fun i =>
    !(s.entries.any (fun e => e.slot == i)) && !(s.groups.any (fun g => g.decision.isSome && g.slot == i)))).getD 0

/-- Transaction-log entries not retired (R231): one for each decided group still listed. -/
def State.txnEntries (s : State) : Nat := (s.groups.filter (fun g => g.decision.isSome)).length

/-- Entries not retired. -/
def State.jnlFill (s : State) : Nat := s.entries.length + s.txnEntries

/-- JOURNAL_HIGH is raised when FILL crosses JNL_HIGH upward (R239); FILL itself is computed when it is read. -/
def State.fillFrom (s : State) (old : Nat) : State :=
  let lim := s.fld .jnlHighLevel 0
  if old ≤ lim ∧ lim < s.jnlFill then s.raise 0x05 0 0 else s

/-! ### Commit points and outcomes (R215, R216) -/

/-- A record reaches its commit point with a status; the first one stands. -/
def State.reach (s : State) (c q n status detail : Nat) : State :=
  s.modEntry c q n (fun e => if e.point.isSome then e else { e with point := some (status, detail) })

/-- What a dependency answers: not yet, or the status it ended with (R214, R215). -/
def State.depStatus (s : State) (c q n : Nat) : Option Nat :=
  if n < s.oldest c q then some 0
  else
    match s.entry c q n with
    | some e => if e.done then some e.status else none
    | none => none

/-- The first dependency in force that ended with a failure status. -/
def State.failedDep (s : State) (e : Entry) : Option (Nat × Nat) :=
  if e.depAny then none else e.deps.find? (fun d => match s.depStatus e.ctx d.1 d.2 with | some st => st != 0 | none => false)

/-- Every dependency in force has committed. -/
def State.depsDone (s : State) (e : Entry) : Bool := e.deps.all (fun d => (s.depStatus e.ctx d.1 d.2).isSome)

/-- Conditions 1 and 2 of R214 hold. -/
def State.orderOk (s : State) (e : Entry) : Bool :=
  (s.streamEntries e.ctx e.stream).all (fun x => decide (e.seq ≤ x.seq) || x.done || (e.overlap && x.st != .accepted)) && s.depsDone e

/-- Every earlier record of the stream has committed (R206, R236). -/
def State.earlierDone (s : State) (e : Entry) : Bool :=
  (s.streamEntries e.ctx e.stream).all (fun x => decide (e.seq ≤ x.seq) || x.done)

/-! ### Reads of device virtual memory by the harbour dies, dispatchers and engines -/

/-- What such a read answers: a fault, poison, a wait for host data that has now been asked for, or the bytes. -/
inductive DvaRead where
  | fault (cause dva : Nat)
  | poison (dva key : Nat)
  | wait (s : State)
  | ok (bytes : List (BitVec 8))
deriving DecidableEq, Repr

/-- Bytes of pages gathered in order. -/
def State.gatherPieces (s : State) (ctx : Nat) (o : ReadOwner) (dva : Nat) : List (Walk × Nat) → Bool → List (BitVec 8) → DvaRead
  | [], waiting, acc => if waiting then .wait s else .ok acc
  | (w, n) :: ps, waiting, acc =>
    match w.dest with
    | .hbm k => if s.poisoned k n then .poison dva k else s.gatherPieces ctx o (dva + n) ps waiting (acc ++ s.hbmBytes k n)
    | .host a =>
      match s.hostReads.find? (fun h => h.owner == o && h.addr == a && h.len == n) with
      | some h =>
        match h.data with
        | some bs => s.gatherPieces ctx o (dva + n) ps waiting (acc ++ bs)
        | none => if h.failed then .fault 8 dva else s.gatherPieces ctx o (dva + n) ps true acc
      | none => (s.askHost ctx o a n).1.gatherPieces ctx o (dva + n) ps true acc
    | .aperture _ => .fault 5 dva
    | .fault c => .fault c dva

/-- `n` bytes read through a context's translation as a demand access. `noHost` forbids the host tier. -/
def State.dvaRead (s : State) (ctx dva n : Nat) (o : ReadOwner) (noHost : Bool) : DvaRead :=
  match s.pieces ctx dva n false false noHost true with
  | .error e => .fault e.1 e.2
  | .ok ps => s.gatherPieces ctx o dva ps false []

/-- The host reads of an owner are done with. -/
def State.dropReads (s : State) (o : ReadOwner) : State := { s with hostReads := s.hostReads.filter (fun h => h.owner != o) }

end Sys2Proof.Machine
end

