-- ==== Sys2Proof/Machine/Qos.lean ====
section
/-! DEFINITION. Quality of service: effective classes and the virtual times of the arbitration points (R516 to R518). -/
namespace Sys2Proof.Machine

/-- Arbitration points: the dispatcher, HBM controller and collective engine of each island, and the energy planner (R517). -/
def ptCay (isl : Nat) : Nat := isl
def ptHbm (isl : Nat) : Nat := 24 + isl
def ptStrait (isl : Nat) : Nat := 48 + isl
def ptEnergy : Nat := 72

/-- The share a context has at a point. -/
def State.share (s : State) (pt ctx : Nat) : Nat :=
  if pt < 24 then s.fld .ctxQosCay ctx
  else if pt < 48 then s.fld .ctxQosHbm ctx
  else if pt < 72 then s.fld .ctxQosStrait ctx
  else s.fld .ctxQosEnergy ctx

/-- The virtual time of a context at a point (R518). -/
def State.vtime (s : State) (pt ctx : Nat) : Nat := Tbl.get natZero s.vts (pt * 64 + ctx)

def State.setVtime (s : State) (pt ctx v : Nat) : State := { s with vts := Tbl.set natZero s.vts (pt * 64 + ctx) (v % 2 ^ 64) }

def noCtxs (_ : Nat) : List Nat := []

/-- Contexts that begin to wait at a point take at least the smallest virtual time of those already waiting (R518, step 5). -/
def State.vwaiting (s : State) (pt : Nat) (now : List Nat) : State :=
  let old := (Tbl.get noCtxs s.vwait pt).filter (fun c => now.contains c)
  let low := (old.map (s.vtime pt)).min?
  let s1 := (now.filter (fun c => !old.contains c)).foldl (fun t c =>
    match low with
    | some v => t.setVtime pt c (max (s.vtime pt c) v)
    | none => t) s
  { s1 with vwait := Tbl.set noCtxs s1.vwait pt now }

/-- The context is served at a cost (R518, step 4). -/
def State.vserve (s : State) (pt ctx cost : Nat) : State :=
  let sh := s.share pt ctx
  if sh = 0 then s else s.setVtime pt ctx (s.vtime pt ctx + cost * 256 / sh)

/-- One candidate is served before another: of the same class, a non-zero share first, then the smaller virtual time, then the lower context. -/
def State.vbefore (s : State) (pt a b : Nat) : Bool :=
  let za := s.share pt a == 0
  let zb := s.share pt b == 0
  if za != zb then zb
  else decide (s.vtime pt a < s.vtime pt b) || (s.vtime pt a == s.vtime pt b && decide (a ≤ b))

/-- The context an arbitration point serves, of the waiting contexts with their effective classes (R518, steps 1 to 3). -/
def State.vpick (s : State) (pt : Nat) (ws : List (Nat × Nat)) : Option Nat :=
  let top := (ws.map (fun w => w.2)).foldl max 0
  ((ws.filter (fun w => w.2 == top)).map (fun w => w.1)).foldl (fun m c =>
    match m with
    | none => some c
    | some d => if s.vbefore pt d c then some d else some c) none

/-- The effective class of a record (R516, R518). -/
def State.recClass (s : State) (e : Entry) : Nat := min 3 (min e.prio (s.fld .ctxQosClassClassMax e.ctx) + e.rises)

/-- R518: a waiting unit that has waited a full aging period rises one class. -/
def State.age (s : State) (ctx stream seq : Nat) : State :=
  match s.entry ctx stream seq with
  | none => s
  | some e =>
    if e.done ∨ 3 ≤ s.recClass e then s
    else (s.modEntry ctx stream seq (fun x => { x with rises := x.rises + 1, since := s.ptime })).bump .qosAgedCnt ctx

end Sys2Proof.Machine
end

