-- ==== Sys2Proof/Machine/Energy.lean ====
section
/-! DEFINITION. The energy ledger, budgets and admission (R455 to R462). Energy is in nJ. -/
namespace Sys2Proof.Machine

/-- Powered-time counts in a number of µs (R447). -/
def us (n : Nat) : Nat := 25 * n

/-- The three windows, as counts, with the nJ one W spends over each (R460). -/
def windows : List (Nat × Nat) := [(us 1000, 1000000), (us 100000, 100000000), (us 1000000, 1000000000)]

/-- used(w) of a context, or of the module for account 64 (R460). -/
def State.used (s : State) (acct w : Nat) : Nat :=
  ((s.pw.spends.filter (fun x => decide (s.ptime < x.time + w) && (acct == 64 || x.acct == acct))).map (fun x => x.nj)).sum

/-- reserved of a context, or of the module (R460). -/
def State.reserved (s : State) (acct : Nat) : Nat :=
  ((s.pw.units.filter (fun u => acct == 64 || u.ctx == acct)).map (fun u => u.est - u.nj)).sum

/-- The module cap in W (R460). -/
def State.modCap (s : State) : Nat := min (s.fld .pwrCapCap 0) s.pw.smbusCap

/-- The caps of an account over the three windows; 0 means no cap. -/
def State.caps (s : State) (acct : Nat) : List Nat :=
  if acct = 64 then [s.modCap, s.modCap, s.modCap] else [s.fld .engCap1msW acct, s.fld .engCap100msW acct, s.fld .engCap1sW acct]

/-- The budgets in force over the windows: window and budget. -/
def State.budgets (s : State) (acct : Nat) : List (Nat × Nat) :=
  ((s.caps acct).zip windows).filterMap (fun p => if p.1 = 0 then none else some (p.2.1, p.1 * p.2.2))

/-- What a unit of an estimate would leave every budget of an account within. -/
def State.fits (s : State) (acct est : Nat) : Bool := (s.budgets acct).all (fun b => decide (s.used acct b.1 + s.reserved acct + est ≤ b.2))

/-- used(w) is within every budget of an account. -/
def State.within (s : State) (acct : Nat) : Bool := (s.budgets acct).all (fun b => decide (s.used acct b.1 ≤ b.2))

/-- The estimate alone exceeds a 1 ms or 100 ms budget of an account. -/
def State.exceedsShort (s : State) (acct est : Nat) : Bool := (s.budgets acct).any (fun b => decide (b.1 ≤ us 100000) && decide (b.2 < est))

/-- The estimate exceeds the 1 s budget of an account. -/
def State.exceedsLong (s : State) (acct est : Nat) : Bool := (s.budgets acct).any (fun b => b.1 == us 1000000 && decide (b.2 < est))

/-- The DETAIL of a unit that no 1 s budget can hold, or none (R461, R469). -/
def State.overBudget (s : State) (ctx est : Nat) : Option Nat :=
  if s.exceedsLong ctx est then some 1 else if s.exceedsLong 64 est then some 2 else none

/-- No new unit is admitted anywhere: an input undervoltage or a harbour die at throttle (R466, R468). -/
def State.admitHeld (s : State) : Bool := s.fld .pwrStatUv 0 == 1 || s.fld .pwrStatThrottle 0 == 1

/-- A unit of a context may be admitted (R461). -/
def State.admits (s : State) (ctx est : Nat) : Bool :=
  !s.admitHeld && ((s.fits ctx est && s.fits 64 est) ||
    ((s.exceedsShort ctx est || s.exceedsShort 64 est) && s.reserved ctx == 0 && s.within ctx && s.within 64))

/-- The grant to a step of a context: the least room over the six windows; none where no budget is in force (R461). -/
def State.grant (s : State) (ctx : Nat) : Option Nat :=
  if s.admitHeld then some 0
  else (([ctx, 64].flatMap (fun a => (s.budgets a).map (fun b => b.2 - s.used a b.1 - s.reserved a)))).min?

/-- A calibration factor of a context (R458). -/
def State.factor (s : State) (ctx cls : Nat) : Nat := if cls = 0 then 256 else s.fld .engCalFactor ctx (1 + cls)

/-- The corrected estimate of a unit, in nJ (R458). -/
def State.corrected (s : State) (ctx est cls : Nat) : Nat :=
  if est = 0 then s.fld .engDefaultEst ctx * 1000 else est * 1000 * s.factor ctx cls / 256

/-- A unit joins those admitted. -/
def State.addUnit (s : State) (u : EUnit) : State := { s with pw := { s.pw with units := s.pw.units ++ [u], waited := s.pw.waited.filter (fun x => x != u.id) } }

/-- A unit has committed. -/
def State.dropUnit (s : State) (i : UnitId) : State :=
  { s with pw := { s.pw with units := s.pw.units.filter (fun u => u.id != i), waited := s.pw.waited.filter (fun x => x != i) } }

/-- A unit that waits is counted once (R472). -/
def State.noteWait (s : State) (i : UnitId) (ctx : Nat) : State :=
  if s.pw.waited.contains i then s else ({ s with pw := { s.pw with waited := s.pw.waited ++ [i] } } : State).bump .engWaitCnt ctx

/-- The energy measured of a unit. -/
def State.unitNj (s : State) (i : UnitId) : Nat := ((s.pw.units.find? (fun u => u.id == i)).map (fun u => u.nj)).getD 0

/-- One attribution enters the ledgers, its unit and, for a record, the energy of its completion (R455 to R457). -/
def State.attribute (s : State) (a : Attr) : State :=
  let p := s.pw
  let up (t : Tbl Nat) (k : Nat) : Tbl Nat := Tbl.upd natZero t k (fun v => v + a.nj)
  let p1 : Pwr := { p with
    spends := ⟨a.ctx, s.ptime, a.nj⟩ :: p.spends
    ctxNj := if a.ctx < 64 then up p.ctxNj a.ctx else p.ctxNj
    islNj := if a.island < 24 then up p.islNj a.island else p.islNj
    clsNj := if a.ctx < 64 then p.clsNj else up p.clsNj a.cls
    totNj := p.totNj + a.nj
    units := p.units.map (fun u => if a.unit = some u.id then { u with nj := u.nj + a.nj } else u) }
  let s1 : State := { s with pw := p1 }
  match a.unit with
  | some (.record c q n) => s1.modEntry c q n (fun e => { e with energy := (e.energy + a.nj) % 2 ^ 48 })
  | some (.entry n) =>
    match s1.runs.find? (fun r => r.num == n / 2 ^ 32) with
    | some r => s1.modEntry r.ctx r.stream r.seq (fun e => { e with energy := (e.energy + a.nj) % 2 ^ 48 })
    | none => s1
  | _ => s1

/-- Spending older than the longest window is forgotten. -/
def State.pruneSpends (s : State) : State :=
  { s with pw := { s.pw with spends := s.pw.spends.filter (fun x => decide (s.ptime < x.time + us 1000000)) } }

end Sys2Proof.Machine
end

