-- ==== Sys2Proof/Machine/Matrix.lean ====
section
/-! DEFINITION. What the matrix arrays do with an instruction that has reached the head of their queue (R94 to R120, R181 to R190). -/
namespace Sys2Proof.Machine

/-! ### Shapes -/

/-- Rows and columns of a shape code (R101, R124). -/
def shapeDims (sh : Nat) : Nat × Nat :=
  match sh with
  | 0 => (16, 16)
  | 1 => (32, 32)
  | 2 => (16, 64)
  | _ => (64, 16)

/-- Length of the reduction line along an axis: 0 ROWS, 1 COLS (R101). -/
def axisDepth (sh ax : Nat) : Nat := if ax = 0 then (shapeDims sh).1 else (shapeDims sh).2

/-- Output lanes along an axis (R101). -/
def axisLanes (sh ax : Nat) : Nat := if ax = 0 then (shapeDims sh).2 else (shapeDims sh).1

/-- Width of the combine stack in slots (R134). -/
def stackWidth (sh : Nat) : Nat :=
  match sh with
  | 0 => 1
  | 1 => 2
  | _ => 4

/-- The member of a gang that holds the cell at a row and column of the configured shape (R101). -/
def memberAt (sh r q : Nat) : Nat :=
  match sh with
  | 0 => 0
  | 1 => r / 16 * 2 + q / 16
  | 2 => q / 16
  | _ => r / 16

/-- The arrays a configuration covers: one, or all four (R101). -/
def gangOf (sh a : Nat) : List Nat := if sh = 0 then [a] else [0, 1, 2, 3]

/-- G of a RESCALE code; 0 for 0b00 (R124). -/
def rescaleG (c : Nat) : Nat := if c = 0 then 0 else 16 * 2 ^ c

/-- The double-rate pairs of R63. -/
def doubleRate (a b : Nat) : Bool := (a == 0 && b == 0) || ((a == 4 || a == 8) && b == 4)

/-- The pairs at a quarter rate: BF16 or FP16 with any floating-point format (R63). -/
def wideRate (a b : Nat) : Bool :=
  let fl (x : Nat) := x == 0 || x == 1 || x == 2 || x == 5 || x == 6
  ((a == 5 || a == 6) && fl b) || ((b == 5 || b == 6) && fl a)

/-- The operand pairs the arrays accept (R63); a stationary operand of unsigned form is none of them (R52). -/
def pairOk (a b : Nat) : Bool :=
  let f8 (x : Nat) := x == 1 || x == 2
  let i8 (x : Nat) := x == 3 || x == 7
  let i4 (x : Nat) := x == 4 || x == 8
  !fmtUnsigned b &&
    (doubleRate a b || wideRate a b || (f8 a && (f8 b || b == 0)) || (a == 0 && f8 b) ||
      (i8 a && (b == 3 || b == 4)) || (i4 a && b == 3))

/-- LATENCY of an array (R112): 5 with its spare row assigned. -/
def State.latency (s : State) (r : CayRef) (a : Nat) : Nat :=
  if Tbl.get boolFalse s.fuse.spareEn (cayKey r * 4 + a) then 5 else 4

/-- The array is disabled (R114). -/
def State.arrDisabled (s : State) (r : CayRef) (a : Nat) : Bool := Tbl.get boolFalse s.fuse.disabled (cayKey r * 4 + a)

/-- The unit under which an array's registers are kept (R121). -/
def arrUnit (r : CayRef) (a : Nat) : Nat := 1 + r.cay * 4 + a

/-- The accumulator region of an array: the gang uses that of array 0 (R134). -/
def Task.region (x : Task) (a : Nat) : Nat × Nat := x.accs.getD a (0, 0)

/-- Slots of a region. -/
def Task.slots (x : Task) (a : Nat) : Nat := (x.region a).2 / 64

/-- The 16 lane codes of a slot. -/
def Cay.slot (c : Cay) (base s : Nat) : List Nat := (List.range 16).map (fun l => c.lsWord (base + 64 * s + 4 * l) 4)

/-- The lane codes of consecutive slots. -/
def Cay.slotsAt (c : Cay) (base s n : Nat) : List Nat := (List.range n).flatMap (fun i => c.slot base (s + i))

/-- Lanes written to consecutive slots; a lane whose mask flag is set is not written (R111). -/
def Cay.putLanes (c : Cay) (base s : Nat) (vs : List Nat) (skip : List Bool) : Cay :=
  vs.zipIdx.foldl (fun x p =>
    if skip.getD p.2 false then x else x.lsWrite (base + 64 * s + 4 * p.2) (leBytes 4 p.1)) c

/-- The marks of consecutive lanes from a slot. -/
def Arr.marksAt (a : Arr) (s n : Nat) : List Nat := (List.range n).map (fun l => Tbl.get natZero a.marks (16 * s + l))

/-- Marks set beside consecutive lanes from a slot. -/
def Arr.putMarks (a : Arr) (s : Nat) (ms : List Nat) : Arr :=
  { a with marks := ms.zipIdx.foldl (fun t p => Tbl.set natZero t (16 * s + p.2) p.1) a.marks }

def Arr.bank (a : Arr) (b : Nat) : Bank := if b = 0 then a.bank0 else a.bank1

/-! ### Stops -/

/-- An array instruction ends its task with the status and detail. -/
def arrStop (s : State) (q : QEntry) (status detail : Nat) : State := s.failTask q.task status detail

/-- An array's invalid flag is set and the first offending cell latched (R85), and reported (R86, R87). -/
def arrInvalid (s : State) (r : CayRef) (a task cause row col kidx : Nat) : State :=
  let c := s.cay r
  if (c.arr a).invalid then s
  else
    let u := arrUnit r a
    let i := r.island
    let s1 := s.setCay r (c.setArr a { c.arr a with invalid := true })
    let s2 := (((s1.setFld .arrCaptCause cause i u).setFld .arrCaptRow row i u).setFld .arrCaptCol col i u).setFld .arrCaptKidx kidx i u
    (s2.noteInvalid task r a 0 cause row col kidx).failOnInvalid task

/-! ### MCFG (R102, R103, R63, R134) -/

/-- The configuration takes effect once every issue in flight has retired; the cycles waited count as cause other. -/
def runMcfg (s : State) (r : CayRef) (q : QEntry) (f : McfgFields) : State :=
  let sh := f.shape.toNat
  let a := f.array.toNat
  let x := s.task q.task
  let c := s.cay r
  let gang := gangOf sh a
  let fa := f.aFmt.toNat
  let fb := f.bFmt.toNat
  if (sh ≠ 0 ∧ a ≠ 0) ∨ rescaleG f.rescale.toNat = 0 ∨ 9 ≤ fa ∨ 9 ≤ fb ∨ gang.any (fun m => s.arrDisabled r m || (c.arr m).task != some q.task) then
    arrStop s q St.arrayConfig 0
  else if !pairOk fa fb then arrStop s q St.unsupportedFormat 0
  else if x.slots a < 17 * stackWidth sh then arrStop s q St.layout 0
  else
    let t := (List.range 4).foldl (fun m i => max m (c.arr i).clk.done) (c.arr a).clk.now
    let leave := if ((c.arr a).cfg.map (fun g => decide (g.shape ≠ 0))).getD false then [0, 1, 2, 3] else []
    let c1 := leave.foldl (fun y m => y.setArr m { y.arr m with cfg := none }) c
    let c2 := gang.foldl (fun y m =>
      let z := y.arr m
      y.setArr m { z with
        cfg := some ⟨sh, if sh = 0 then 0 else m, fa, fb, rescaleG f.rescale.toNat⟩
        clk := { z.clk with now := max z.clk.now t, wOther := z.clk.wOther + (t - z.clk.now) } }) c1
    s.setCay r c2

/-! ### MLDS (R97, R173, R182) -/

/-- Bytes of a stationary tile (R182). -/
def tileBytes (g : ArrCfg) : Nat :=
  if doubleRate g.aFmt g.bFmt then 288 else 32 * fmtBits g.bFmt + 32

/-- A tile of a byte string as a bank (R182). -/
def tileBank (g : ArrCfg) (bs : List (BitVec 8)) : Bank :=
  let w := fmtBits g.bFmt
  let dbl := doubleRate g.aFmt g.bFmt
  let rowLen := if dbl then 32 else 16
  let es := unpackElems w bs (16 * rowLen)
  let scales := bs.drop (16 * rowLen * w / 8)
  let mk (p : Nat) : Tbl Nat :=
    (List.range 256).foldl (fun t i => Tbl.set natZero t i (es.getD (i / 16 * rowLen + 16 * p + i % 16) 0)) []
  let sc (o : Nat) : Tbl Nat := (List.range 16).foldl (fun t i => Tbl.set natZero t i (leAt scales (o + i) 1)) []
  ⟨mk 0, if dbl then mk 1 else [], sc 0, sc 16⟩

/-- One stationary load of one array: it begins once the array's load port is free and every issue naming the bank has passed its
multiply stage, and takes 16 cycles (R97). -/
def loadTile (g : ArrCfg) (z : Arr) (b : Nat) (bs : List (BitVec 8)) : Arr :=
  let k := z.clk
  let use := if b = 0 then k.useEnd0 else k.useEnd1
  let start := max (max k.now k.loadFree) use
  let bank := tileBank g bs
  if b = 0 then { z with bank0 := bank, clk := { k with loadFree := start + 16, loadEnd0 := start + 16 } }
  else { z with bank1 := bank, clk := { k with loadFree := start + 16, loadEnd1 := start + 16 } }

def runMlds (s : State) (r : CayRef) (q : QEntry) (f : MldsFields) (a : Nat) : State :=
  let m := f.array.toNat
  let c := s.cay r
  match (c.arr m).cfg with
  | none => arrStop s q St.arrayConfig 0
  | some g =>
    match s.lsOperand r.island a (tileBytes g) 32 false with
    | none => arrStop s q St.layout 0
    | some ad => s.setCay r (c.setArr m (loadTile g (c.arr m) f.bank.toNat (c.lsRead ad (tileBytes g))))

/-! ### One issue (R95, R98 to R111, R183 to R186, R189) -/

/-- The parameters of one issue. -/
structure IssueP where
  bank : Nat
  axis : Nat
  firstg : Bool
  endg : Bool
  firstb : Bool
  endb : Bool
  msk : Bool
  gslot : Nat
  bslot : Nat
  addr : Nat
  scale : Nat
  zp : Nat
  zr : Bool
  w : Nat
deriving DecidableEq, Repr

/-- Weight row `n` is masked (R110): its bit of the mask buffer is 0. Rows the descriptor does not cover are computed (log entry 17). -/
def rowMasked (m : Option MaskDesc) (buf : List (BitVec 8)) (n : Nat) : Bool :=
  match m with
  | none => false
  | some d =>
    if n < d.base ∨ d.base + d.rows ≤ n then false
    else
      let i := if d.blocks then (n - d.base) / 16 else n - d.base
      !bit (leAt buf (i / 8) 1) (i % 8)

/-- The value of a streaming code before its scale: exact, with the zero point subtracted (R52, R88, R183); every element of a NaN block
is NaN (R54). -/
def streamVal (f code scale zp : Nat) (zr : Bool) : Val :=
  if scale = 0xFF then .nan
  else if fmtUnsigned f then
    (if zr then Val.ofInt (sgn (fmtBits f) code) else Val.ofInt ((code : Int) - zp))
  else decodeElem f code

/-- The stationary code of line position `pos` and lane `j`, plane `p`. -/
def Cay.cellCode (c : Cay) (sh a bank ax p pos j : Nat) : Nat :=
  let r := if ax = 0 then pos else j
  let q := if ax = 0 then j else pos
  let m := if sh = 0 then a else memberAt sh r q
  let b := (c.arr m).bank bank
  Tbl.get natZero (if p = 0 then b.p0 else b.p1) (r % 16 * 16 + q % 16)

/-- The stationary scale codes of lane `j` in the members its line runs through, lowest indices first (R105). -/
def Cay.laneScales (c : Cay) (sh a bank ax j : Nat) : List Nat :=
  (List.range (axisDepth sh ax / 16)).map fun sec =>
    let m := if sh = 0 then a else (if ax = 0 then memberAt sh (16 * sec) j else memberAt sh j (16 * sec))
    let b := (c.arr m).bank bank
    Tbl.get natZero (if ax = 0 then b.col else b.row) (j % 16)

/-- Scale codes that differ, where neither marks a NaN block (R107). -/
def scaleDiffers (a b : Nat) : Bool := a != b && a != 0xFF && b != 0xFF

/-- The line position and plane of index `k` of an issue: at the double rate each 16-cell section covers 32 indices, plane 0 first (R95, R101). -/
def indexPos (dbl : Bool) (k : Nat) : Nat × Nat :=
  if dbl then (16 * (k / 32) + k % 16, k / 16 % 2) else (k, 0)

/-- The chained 16-term sums of one lane, over groups of 16 products in index order (R64, R101). -/
def chain (c : ARes) : Nat → List (List (Val × Val)) → ARes × List (Nat × Nat)
  | _, [] => (c, [])
  | k, g :: gs =>
    let cv := a32.decode c.code
    let t := tree16 cv g
    let rest := chain ⟨t.code, c.sat || t.sat⟩ (k + 16) gs
    match firstInvalid (infSign cv) k g with
    | some e => (rest.1, e :: rest.2)
    | none => rest

/-- A cell gates: one code a zero, the other finite (R108). -/
def gates (x w : Val) : Bool := (x.isZero && w.isFin) || (w.isZero && x.isFin)

/-- What one issue computes for one lane: the group result, and the offending cells as (row, column, cause, index). -/
structure LaneOut where
  res : ARes
  bad : List (Nat × Nat × Nat × Nat)
  pairs : List (Nat × Bool)
deriving DecidableEq, Repr

/-- The lowest of a list under row, then column (R85). -/
def firstCell : List (Nat × Nat × Nat × Nat) → Option (Nat × Nat × Nat × Nat)
  | [] => none
  | x :: xs =>
    match firstCell xs with
    | none => some x
    | some y => if y.1 < x.1 ∨ (y.1 = x.1 ∧ y.2.1 < x.2.1) then some y else some x

/-- One lane of an issue (R95). `xs` holds the streaming values by index. -/
def issueLane (c : Cay) (g : ArrCfg) (a : Nat) (p : IssueP) (xs : List Val) (sb j : Nat) (inc : ARes) : LaneOut :=
  let dbl := doubleRate g.aFmt g.bFmt
  let ws := xs.zipIdx.map fun e =>
    let ip := indexPos dbl e.2
    if sb = 0xFF then Val.nan else decodeElem g.bFmt (c.cellCode g.shape a p.bank p.axis ip.2 ip.1 j)
  let prs := List.zip xs ws
  let t := chain inc 0 (chunks 16 prs.length prs)
  let cell (k : Nat) : Nat × Nat := let pos := (indexPos dbl k).1; if p.axis = 0 then (pos, j) else (j, pos)
  ⟨t.1,
   t.2.map (fun e => ((cell e.2).1, (cell e.2).2, e.1, p.w + e.2)),
   prs.zipIdx.map (fun e => (let rc := cell e.2; if g.shape = 0 then a else memberAt g.shape rc.1 rc.2, gates e.1.1 e.1.2))⟩

/-- The latency L of an issue: LATENCY, three more for 16-bit operands, and the depth's own share (R99). -/
def issueLatency (lat depth : Nat) (wide : Bool) : Nat :=
  lat + (if wide then 3 else 0) + (if depth = 64 then 6 else if depth = 32 then 2 else 0)

/-- Lanes combined pairwise by round_a32 with their marks; the invalid lanes with the cause (R65, R81, R85). -/
def addLanes (xs ys xm ym : List Nat) : List Nat × List Nat × List Nat :=
  let rs := (List.zip xs ys).map (fun p => (addA32 (a32.decode p.1) (a32.decode p.2), p))
  (rs.map (fun e => e.1.code),
   rs.zipIdx.map (fun e => (b2n e.1.1.sat) ||| (xm.getD e.2 0 % 2) ||| (ym.getD e.2 0 % 2)),
   (rs.zipIdx.filter (fun e =>
      (a32.decode e.1.1.code).isNan && !(a32.decode e.1.2.1).isNan && !(a32.decode e.1.2.2).isNan)).map (·.2))

/-- The slot at which entry `e` of the combine stack begins (R134). -/
def stackSlot (slots w e : Nat) : Nat := slots - 17 * w + e * w

/-- Sibling subtrees of equal size at the top of the stack are merged (R96). `fuel` bounds the merges. -/
def mergeTop (r : CayRef) (a task base slots w : Nat) : Nat → State → State
  | 0, s => s
  | fuel + 1, s =>
    let c := s.cay r
    let st := (c.arr a).stack
    match st.reverse with
    | y :: x :: below =>
      if y.size ≠ x.size then s
      else
        let n := below.length
        let nl := y.lanes
        let sx := stackSlot slots w n
        let sy := stackSlot slots w (n + 1)
        let xs := (c.slotsAt base sx (nl / 16))
        let ys := (c.slotsAt base sy (nl / 16))
        let t := addLanes xs ys ((c.arr a).marksAt sx nl) ((c.arr a).marksAt sy nl)
        let c1 := c.putLanes base sx t.1 []
        let z := (c1.arr a).putMarks sx t.2.1
        let s1 := s.setCay r (c1.setArr a { z with stack := below.reverse ++ [⟨x.size + y.size, x.start, nl⟩] })
        let s2 := match t.2.2 with | [] => s1 | l :: _ => arrInvalid s1 r a task 3 0 l y.start
        mergeTop r a task base slots w fuel s2
    | _ => s

/-- A completed block sum is pushed and siblings are merged (R96). -/
def pushBlock (s : State) (r : CayRef) (a task base slots w : Nat) (vals marks : List Nat) (start : Nat) : State :=
  let c := s.cay r
  let n := (c.arr a).stack.length
  let sl := stackSlot slots w n
  let c1 := c.putLanes base sl vals []
  let z := (c1.arr a).putMarks sl marks
  let s1 := s.setCay r (c1.setArr a { z with stack := z.stack ++ [⟨1, start, vals.length⟩] })
  mergeTop r a task base slots w (n + 1) s1

/-- A block sum of an ungangled array is counted, and each 2^RATE-th one is copied to the shadow region, if it is free and another array of
the cay is enabled (R117, R119). -/
def shadowSelect (s : State) (r : CayRef) (a task : Nat) (g : ArrCfg) (gslot : Nat) (vals : List Nat) : State :=
  let k := s.fld .shadowCtlRate r.island
  if k = 0 ∨ g.shape ≠ 0 then s
  else
    let n := Tbl.get natZero s.shadowCnt r.island + 1
    let s1 := { s with shadowCnt := Tbl.set natZero s.shadowCnt r.island (n % 2 ^ k) }
    let c := s1.cay r
    let buf := Tbl.get shadowBufDef c.shadowBufs gslot
    let s2 := s1.setCay r { c with shadowBufs := Tbl.set shadowBufDef c.shadowBufs gslot [] }
    if n % 2 ^ k ≠ 0 then s2
    else if c.shadow.isSome ∨ !([1, 2, 3].any (fun i => !s.arrDisabled r ((a + i) % 4))) then s2.bump .shadowSkip r.island
    else s2.setCay r { s2.cay r with shadow := some ⟨(s.task task).ctx, a, g.aFmt, g.bFmt, buf, vals⟩ }

/-- The issue of one streaming vector. The caller has checked the configuration. -/
def doIssue (s : State) (r : CayRef) (q : QEntry) (a gap : Nat) (g : ArrCfg) (p : IssueP) : State :=
  let x := s.task q.task
  let c := s.cay r
  let z := c.arr a
  let dbl := doubleRate g.aFmt g.bFmt
  let wide := wideRate g.aFmt g.bFmt
  let depth := axisDepth g.shape p.axis
  let lanes := axisLanes g.shape p.axis
  let lines := if dbl then 2 * depth else depth
  let sw := lanes / 16
  let base := (x.region a).1
  let slots := x.slots a
  let top := slots - 17 * stackWidth g.shape
  let bytes := lines * fmtBits g.aFmt / 8
  let buf := ((c.tasks.find? (fun t => t.task == q.task)).map (·.maskBuf)).getD []
  let masked (n : Nat) : Bool := rowMasked x.mask buf n
  if g.g < lines then arrStop s q St.arrayConfig 0
  else if p.gslot % sw ≠ 0 ∨ top < p.gslot + sw ∨ (p.endg ∧ (p.bslot % sw ≠ 0 ∨ top < p.bslot + sw)) then arrStop s q St.layout 0
  else if p.msk ∧ x.mask.isSome ∧ (List.range lines).all (fun i => masked (p.w + i)) then
    s.bump .arrMaskSkip r.island 1 (arrUnit r a)
  else if p.msk ∧ x.mask.isSome ∧ (List.range lines).any (fun i => masked (p.w + i)) then arrStop s q St.maskAlign 0
  else
    match s.lsOperand r.island p.addr bytes (max 1 bytes) false with
    | none => arrStop s q St.layout 0
    | some ad =>
      let gang := gangOf g.shape a
      let k := z.clk
      let t0 := k.now + gap
      let loadEnd := gang.foldl (fun m i => max m (if p.bank = 0 then (c.arr i).clk.loadEnd0 else (c.arr i).clk.loadEnd1)) 0
      let t := max t0 loadEnd
      let rdy (sl : Nat) : Bool := (List.range sw).all (fun i => decide (Tbl.get natZero k.slots (sl + i) ≤ t))
      let hazard : Option Nat :=
        if !p.firstg && !rdy p.gslot then some p.gslot
        else if p.endg && !p.firstb && !rdy p.bslot then some p.bslot else none
      match hazard with
      | some sl =>
        let i := r.island
        let u := arrUnit r a
        let s1 := ((s.setFld .arrStatHazard 1 i u).setFld .arrHazardSlotSlot sl i u).raise 0x10 i 1
        arrStop s1 q St.arrayHazard sl
      | none =>
        let scs := (List.range lanes).map (fun j => c.laneScales g.shape a p.bank p.axis j)
        let lane := scs.map (fun l => l.headD 0)
        let grp := if p.firstg then (⟨p.scale, p.zp, p.zr, lane, p.w⟩ : GroupRec) else Tbl.get groupDef z.groups p.gslot
        let uns := fmtUnsigned g.aFmt
        let mism :=
          scs.any (fun l => l.any (fun y => scaleDiffers y (l.headD 0))) ||
            scaleDiffers p.scale grp.scale || (List.zip lane grp.lanes).any (fun y => scaleDiffers y.1 y.2) ||
            (uns && (p.zp != grp.zp || p.zr != grp.zr))
        if mism then
          arrStop ((s.setFld .arrStatScaleErr 1 r.island (arrUnit r a)).raise 0x10 r.island 3) q St.scaleMismatch 0
        else
          let codes := unpackElems (fmtBits g.aFmt) (c.lsRead ad bytes) lines
          let xs := codes.map (fun e => streamVal g.aFmt e p.scale p.zp p.zr)
          let skip := (List.range lanes).map (fun j => x.mask.isSome && !p.msk && masked (p.w + j))
          let old := c.slotsAt base p.gslot sw
          let oldm := z.marksAt p.gslot lanes
          let outs := (List.range lanes).map fun j =>
            if skip.getD j false then (⟨⟨0, false⟩, [], []⟩ : LaneOut)
            else issueLane c g a p xs (lane.getD j 0) j
              (if p.firstg then ⟨0, false⟩ else ⟨old.getD j 0, decide (oldm.getD j 0 % 2 = 1)⟩)
          let flag (j : Nat) (b : Bool) : Nat := b2n b + (if skip.getD j false then 2 else 0)
          let gvals := outs.map (fun o => o.res.code)
          let gm := outs.zipIdx.map (fun o => flag o.2 o.1.res.sat)
          let bold := c.slotsAt base p.bslot sw
          let bm0 := z.marksAt p.bslot lanes
          let e := if p.scale = 0xFF then (0 : Int) else e8Exp p.scale
          let bres := outs.zipIdx.map fun o =>
            let se := lane.getD o.2 0
            let gx := (a32.decode o.1.res.code).scale (e + (if se = 0xFF then 0 else e8Exp se))
            let prev := if p.firstb then Val.zero else a32.decode (bold.getD o.2 0)
            (addA32 prev gx, prev, gx)
          let bvals := bres.map (fun o => o.1.code)
          let bm := bres.zipIdx.map (fun o =>
            flag o.2 (o.1.1.sat || (outs.getD o.2 ⟨⟨0, false⟩, [], []⟩).res.sat || (!p.firstb && bm0.getD o.2 0 % 2 == 1)))
          let bbad := ((bres.zipIdx.filter (fun o =>
            !(skip.getD o.2 false) && (a32.decode o.1.1.code).isNan && !o.1.2.1.isNan && !o.1.2.2.isNan)).map
              (fun o => ((0 : Nat), o.2, (3 : Nat), grp.start)))
          let bad := match firstCell (outs.flatMap (·.bad)) with
            | some y => some y
            | none => if p.endg then firstCell bbad else none
          let lat := gang.foldl (fun m i => max m (s.latency r i)) 4
          let L := issueLatency lat depth wide
          let T := if wide then 4 else 1
          let fin := if p.endg then t + L + 1 else t + L
          let useEnd := t + (lat - 3) + (T - 1) + 1
          let slots1 := (List.range sw).foldl (fun y i => Tbl.set natZero y (p.gslot + i) (t + L)) k.slots
          let slots2 := if p.endg then (List.range sw).foldl (fun y i => Tbl.set natZero y (p.bslot + i) (t + L + 1)) slots1 else slots1
          let bstart := if p.firstb then grp.start else Tbl.get natZero z.blocks p.bslot
          let c1 := c.putLanes base p.gslot gvals skip
          let c2 := if p.endg then c1.putLanes base p.bslot bvals skip else c1
          let z1 := (c2.arr a).putMarks p.gslot gm
          let z2 := if p.endg then z1.putMarks p.bslot bm else z1
          let z3 := { z2 with
            groups := Tbl.set groupDef z2.groups p.gslot grp
            blocks := if p.endg then Tbl.set natZero z2.blocks p.bslot bstart else z2.blocks
            clk := { k with
              now := t + T, done := max k.done fin, last := some t, slots := slots2
              wOperand := 0, wCopy := 0, wStarve := 0, wOther := 0 } }
          let c3 := c2.setArr a z3
          let c4 := gang.foldl (fun y m =>
            let zm := y.arr m
            y.setArr m { zm with clk := (if p.bank = 0 then { zm.clk with useEnd0 := max zm.clk.useEnd0 useEnd }
              else { zm.clk with useEnd1 := max zm.clk.useEnd1 useEnd }) }) c3
          let c5 :=
            if s.fld .shadowCtlRate r.island = 0 ∨ g.shape ≠ 0 then c4
            else { c4 with shadowBufs := Tbl.upd shadowBufDef c4.shadowBufs p.gslot (fun l => l ++
              [⟨codes, p.scale, p.zp, p.zr,
                (List.range lines).map (fun i => (List.range lanes).map (fun j =>
                  c.cellCode g.shape a p.bank p.axis (indexPos dbl i).2 (indexPos dbl i).1 j)), lane, p.endg⟩]) }
          let s1 := s.setCay r c5
          let i := r.island
          let s2 :=
            if k.last.isNone then s1
            else
              (((s1.bump .arrStallOperand i (k.wOperand + (t - t0)) (arrUnit r a)).bump .arrStallCopy i k.wCopy (arrUnit r a)).bump
                .arrStallStarve i (k.wStarve + gap) (arrUnit r a)).bump .arrStallOther i k.wOther (arrUnit r a)
          let s3 := gang.foldl (fun y m =>
            let cells := (outs.flatMap (·.pairs)).filter (fun e => e.1 == m)
            let gt := (cells.filter (·.2)).length
            (y.bump64 .arrGatedLo .arrGatedHi i gt (arrUnit r m)).bump64 .arrActiveLo .arrActiveHi i (cells.length - gt) (arrUnit r m)) s2
          let s4 := match bad with
            | some y => arrInvalid s3 r a q.task y.2.2.1 y.1 y.2.1 y.2.2.2
            | none => s3
          if p.endg && p.endb then
            shadowSelect (pushBlock s4 r a q.task base slots (stackWidth g.shape) bvals bm bstart) r a q.task g p.gslot bvals
          else s4

/-- The array an instruction names, configured, and array 0 in a gang (R102, R103, R181). -/
def arrReady (s : State) (r : CayRef) (q : QEntry) (a : Nat) : Option ArrCfg :=
  let z := (s.cay r).arr a
  if z.task ≠ some q.task then none
  else
    match z.cfg with
    | some g => if g.shape ≠ 0 ∧ a ≠ 0 then none else some g
    | none => none

def runMiss (s : State) (r : CayRef) (q : QEntry) (f : MissFields) (a gap : Nat) : State :=
  let m := f.array.toNat
  match arrReady s r q m with
  | none => arrStop s q St.arrayConfig 0
  | some g =>
    if g.aFmt = 8 ∧ bits a 55 52 ≠ 0 then arrStop s q St.layout 0
    else
      doIssue s r q m gap g
        ⟨f.bank.toNat, f.axis.toNat, f.firstg == 1, f.endg == 1, f.firstb == 1, f.endb == 1, f.msk == 1, f.gslot.toNat,
         f.bslot.toNat, a, bits a 31 24, bits a 55 48, bit a 56, bits a 47 32⟩

/-! ### MSEQ (R187, R188) -/

/-- The MSEQ descriptor (R187). -/
structure SeqDesc where
  nOuter : Nat
  nInner : Nat
  streamBase : Nat
  streamSi : Nat
  streamSo : Nat
  tileBase : Nat
  tileSo : Nat
  msk : Bool
  endbEn : Bool
  bank0 : Nat
  axis : Nat
  bslotBase : Nat
  gslotBase : Nat
  scaleBase : Nat
deriving DecidableEq, Repr

/-- A descriptor read from its 32 bytes, and whether it keeps its limits. -/
def seqDesc (bs : List (BitVec 8)) : SeqDesc × Bool :=
  let w (i : Nat) := leAt bs (4 * i) 4
  let d : SeqDesc := ⟨bits (w 0) 31 16, bits (w 0) 15 0, bits (w 1) 21 0, bits (w 2) 21 0, bits (w 3) 21 0, bits (w 4) 21 0,
    bits (w 5) 21 0, bit (w 6) 31, bit (w 6) 30, bits (w 6) 29 29, bits (w 6) 28 28, bits (w 6) 27 14, bits (w 6) 13 0, bits (w 7) 21 0⟩
  (d, decide (1 ≤ d.nOuter) && decide (1 ≤ d.nInner) && decide (d.nInner ≤ 16384) && decide (d.tileSo % 32 = 0) &&
    (!d.endbEn || d.nInner == 1) && ([1, 2, 3, 4, 5, 7].all (fun i => bits (w i) 31 22 == 0)))

/-- One load of the sequence: every member of the gang, member m at m tile sizes on (R188). -/
def seqLoad (s : State) (r : CayRef) (q : QEntry) (a : Nat) (g : ArrCfg) (addr b : Nat) : State :=
  (gangOf g.shape a).foldl (fun t m =>
    let off := if g.shape = 0 then 0 else m * tileBytes g
    if (t.task q.task).status ≠ 0 then t
    else
      match t.lsOperand r.island (addr + off) (tileBytes g) 32 false with
      | none => arrStop t q St.layout 0
      | some ad =>
        let c := t.cay r
        let z := c.arr m
        let z1 := { z with clk := { z.clk with now := max z.clk.now (c.arr a).clk.now } }
        t.setCay r (c.setArr m (loadTile g z1 b (c.lsRead ad (tileBytes g))))) s

/-- Inner issue `i` of outer iteration `o` (R188). -/
def seqIssue (s : State) (r : CayRef) (q : QEntry) (a : Nat) (g : ArrCfg) (d : SeqDesc) (w o i : Nat) : State :=
  if (s.task q.task).status ≠ 0 then s
  else
    let lines := axisDepth g.shape d.axis * (if doubleRate g.aFmt g.bFmt then 2 else 1)
    let per := g.g / lines
    let bpt := 128 / lines
    let sw := axisLanes g.shape d.axis / 16
    let uns := fmtUnsigned g.aFmt
    let sz := if uns then 4 else 1
    let last := decide (o + 1 = d.nOuter)
    let endg := decide (o % per = per - 1) || last
    let firstb := endg && decide (o % bpt < per)
    let endb := d.endbEn && endg && (decide (o % bpt = bpt - 1) || last)
    let bslot := if d.endbEn then d.bslotBase else d.bslotBase + (o / bpt * d.nInner + i) * sw
    let sa := d.scaleBase + (o / per * d.nInner + i) * sz
    if !s.lsOk r.island sa sz false then arrStop s q St.layout 0
    else
      let word := (s.cay r).lsWord sa sz
      doIssue s r q a 0 g
        ⟨(d.bank0 + o) % 2, d.axis, decide (o % per = 0), endg, firstb, endb, d.msk, d.gslotBase + i * sw, bslot,
         min (d.streamBase + o * d.streamSo + i * d.streamSi) (2 ^ 24 - 1), word % 256, if uns then bits word 23 16 else 0,
         uns && bit word 8, w + o * lines⟩

/-- One outer iteration: the next tile's load, then the inner issues (R188). -/
def seqOuter (r : CayRef) (q : QEntry) (a : Nat) (g : ArrCfg) (d : SeqDesc) (w : Nat) (s : State) (o : Nat) : State :=
  let s1 :=
    if o + 1 < d.nOuter ∧ (s.task q.task).status = 0 then
      seqLoad s r q a g (d.tileBase + (o + 1) * d.tileSo) (1 - (d.bank0 + o) % 2)
    else s
  (List.range d.nInner).foldl (fun t i => seqIssue t r q a g d w o i) s1

def runMseq (s : State) (r : CayRef) (q : QEntry) (f : MseqFields) (a b : Nat) : State :=
  let m := f.array.toNat
  match arrReady s r q m with
  | none => arrStop s q St.arrayConfig 0
  | some g =>
    match s.lsOperand r.island a 32 32 false with
    | none => arrStop s q St.layout 0
    | some ad =>
      let dk := seqDesc ((s.cay r).lsRead ad 32)
      let d := dk.1
      let lines := axisDepth g.shape d.axis * (if doubleRate g.aFmt g.bFmt then 2 else 1)
      if !dk.2 ∨ (fmtUnsigned g.aFmt ∧ d.scaleBase % 4 ≠ 0) ∨ g.g < lines then arrStop s q St.arrayConfig 0
      else (List.range d.nOuter).foldl (seqOuter r q m g d b) (seqLoad s r q m g d.tileBase d.bank0)

/-! ### MFIN (R96, R181, R184) -/

/-- The stack merged from its top downward (R96): the accumulated lanes, their marks and the index at which they begin. -/
def finMerge (r : CayRef) (a task base slots w : Nat) : List (StackEnt × Nat) → State → List Nat → List Nat → Nat → State × List Nat × List Nat
  | [], s, acc, m, _ => (s, acc, m)
  | (e, n) :: below, s, acc, m, st =>
    let c := s.cay r
    let sl := stackSlot slots w n
    let t := addLanes (c.slotsAt base sl (e.lanes / 16)) acc ((c.arr a).marksAt sl e.lanes) m
    let s1 := match t.2.2 with | [] => s | l :: _ => arrInvalid s r a task 3 0 l st
    finMerge r a task base slots w below s1 t.1 t.2.1 e.start

def runMfin (s : State) (r : CayRef) (q : QEntry) (f : MfinFields) : State :=
  let a := f.array.toNat
  match arrReady s r q a with
  | none => arrStop s q St.arrayConfig 0
  | some g =>
    let x := s.task q.task
    let c := s.cay r
    let z := c.arr a
    let w := stackWidth g.shape
    let slots := x.slots a
    let base := (x.region a).1
    let st := z.stack.zipIdx.reverse
    let width := match st with | [] => w | e :: _ => e.1.lanes / 16
    let sl := f.slot.toNat
    if sl % width ≠ 0 ∨ slots - 17 * w < sl + width then arrStop s q St.layout 0
    else
      let t := max z.clk.now z.clk.done
      let m := match st with
        | [] => (s, List.replicate (16 * width) 0, List.replicate (16 * width) 0)
        | e :: below =>
          let top := stackSlot slots w e.2
          finMerge r a q.task base slots w below s (c.slotsAt base top width) (z.marksAt top (16 * width)) e.1.start
      let c1 := (m.1.cay r).putLanes base sl m.2.1 []
      let z1 := (c1.arr a).putMarks sl m.2.2
      m.1.setCay r (c1.setArr a { z1 with
        stack := []
        clk := { z1.clk with
          now := t + 1, done := max z1.clk.done (t + 1), wOperand := z1.clk.wOperand + (t + 1 - z.clk.now)
          slots := (List.range width).foldl (fun y i => Tbl.set natZero y (sl + i) (t + 1)) z1.clk.slots } })

/-! ### MDRN (R75, R76, R116, R190, R298 to R301) -/

/-- The converter block of a drain (R190). -/
structure ConvBlock where
  stats : Bool
  blk : Nat
  grad : Bool
  fmt : Nat
  shift : Int
  bias : Nat
  hi : Nat
  lo : Nat
  tag : Nat
  n : Nat
  scaleBase : Nat
deriving DecidableEq, Repr

/-- A converter block read from its 32 bytes, with the code of R190 that refuses it, or 0. -/
def convBlock (bs : List (BitVec 8)) : ConvBlock × Nat :=
  let w (i : Nat) := leAt bs (4 * i) 4
  let d : ConvBlock := ⟨bit (w 0) 16, bits (w 0) 15 14, bit (w 0) 12, bits (w 0) 11 8, sgn 8 (bits (w 0) 7 0), bits (w 1) 15 0,
    bits (w 2) 31 16, bits (w 2) 15 0, w 3, w 4, bits (w 5) 21 0⟩
  let bad :=
    if d.fmt = 7 ∨ d.fmt = 8 ∨ 10 ≤ d.fmt then 1
    else if d.n = 0 then 2
    else if bits (w 0) 31 17 ≠ 0 ∨ bit (w 0) 13 ∨ bits (w 1) 31 16 ≠ 0 ∨ bits (w 5) 31 22 ≠ 0 ∨ w 6 ≠ 0 ∨ w 7 ≠ 0 then 3
    else if d.blk ≠ 0 ∧ (fmtF d.fmt).isNone then 4 else 0
  (d, bad)

/-- min(max(y, lo), hi) of R75 step 3; a NaN passes, and a NaN bound sets no limit. -/
def clip (y lo hi : Val) : Val :=
  if y.isNan then y
  else
    let y1 := if !lo.isNan && Val.lt y lo then lo else y
    if !hi.isNan && Val.lt hi y1 then hi else y1

/-- Steps 1 to 3 of R75 on one accumulator: the clipped value and whether a rounding saturated. -/
def drainValue (d : ConvBlock) (acc : Nat) : Val × Bool :=
  let y1 := roundA32 ((a32.decode acc).scale d.shift)
  let y2 := addA32 (a32.decode y1.code) (bf16.decode d.bias)
  (clip (a32.decode y2.code) (bf16.decode d.lo) (bf16.decode d.hi), y1.sat || y2.sat)

/-- The draw of the element at logical position `p` (R77 to R79, R190). -/
def elementDraw (seed step tag n p : Nat) : Nat :=
  let i := p % n
  drawAt (runSeed seed step tag (p / n * ceilDiv n 64 + i / 64)) (i % 64)

/-- d of R298 for a value v, the value q of its code and the exponent and factor of R = F × 2^e. -/
def errorUnit (v q : Val) (F : Nat) (e : Int) : Nat :=
  let d := Val.sub v q
  let m := d.mag * d.mag
  let k : Int := 2 * d.exp - 2 * e + 32
  let den := F * F
  min (2 ^ 32) (if 0 ≤ k then m * 2 ^ k.toNat / den else m / (den * 2 ^ (-k).toNat))

/-- The statistics of one converted element (R298). `E` is the scale code of its run where it has one. -/
def elementStat (fmt : Nat) (E : Option Nat) (v : Val) (r : Enc) : Option StatSum :=
  if !v.isFin then none
  else
    let d :=
      if r.sat then 2 ^ 32
      else
        match E with
        | some e => errorUnit v (scaledBy (decodeElem fmt r.code) e) ((fmtF fmt).getD 1) (e8Exp e)
        | none => if v.isZero then 0 else errorUnit v (decodeElem fmt r.code) 1 v.ilog2
    some ⟨d, 1, b2n r.sat, 0⟩

def StatSum.add (a b : StatSum) : StatSum :=
  ⟨a.sqerr + b.sqerr, a.count + b.count, satAdd32 a.sat b.sat, satAdd32 a.zruns b.zruns⟩

/-- Elements drained, split into their scale runs: position of the first, and the values (R190). -/
def scaleRuns (n run : Nat) : Nat → Nat → List Val → List (Nat × List Val)
  | 0, _, _ => []
  | fuel + 1, p, vs =>
    if vs.isEmpty then []
    else
      let m := min (run - p % n % run) (n - p % n)
      (p, vs.take m) :: scaleRuns n run fuel (p + m) (vs.drop m)

/-- The elements of a drain converted: codes, and the scale codes with the position of their run (R75 step 4, R190). -/
def drainConvert (d : ConvBlock) (mode : Nat → RMode) (p0 : Nat) (vs : List Val) : List (Enc × Option Nat) × List (Nat × Nat × Bool) :=
  if d.blk = 0 then (vs.zipIdx.map (fun e => (encodeElem d.fmt (mode (p0 + e.2)) e.1, none)), [])
  else
    let rs := (scaleRuns d.n (blkRun d.blk) vs.length p0 vs).map (fun e => (e.1, quantRun d.fmt mode e.1 e.2, e.2.all Val.isZero))
    (rs.flatMap (fun e => e.2.1.2.map (fun c => (c, some e.2.1.1))), rs.map (fun e => (e.1, e.2.1.1, e.2.2)))

/-- Statistics added under a key of the array's table. -/
def Arr.addStat (z : Arr) (tag : Nat) (v : StatSum) : Arr := { z with stats := Tbl.upd statDef z.stats tag (fun x => x.add v) }

/-- Channel statistics added. -/
def Arr.addChan (z : Arr) (ch : Nat) (v : StatSum) : Arr := { z with chan := Tbl.upd statDef z.chan ch (fun x => x.add v) }

def runMdrn (s : State) (r : CayRef) (q : QEntry) (f : MdrnFields) (d a b : Nat) : State :=
  let m := f.array.toNat
  match arrReady s r q m with
  | none => arrStop s q St.arrayConfig 0
  | some g =>
    let x := s.task q.task
    let c := s.cay r
    let z := c.arr m
    let cnt := f.countM1.toNat + 1
    let sl := f.slot.toNat
    if x.slots m - 17 * stackWidth g.shape < sl + cnt then arrStop s q St.layout 0
    else
      match s.lsOperand r.island a 32 32 false with
      | none => arrStop s q St.layout 0
      | some ca =>
        let cb := convBlock (c.lsRead ca 32)
        let k := cb.1
        let run := blkRun k.blk
        let p1 := b + 16 * cnt - 1
        let part := k.blk ≠ 0 ∧ (b % k.n % run ≠ 0 ∨ !(p1 % k.n % run == run - 1 || p1 % k.n == k.n - 1))
        if cb.2 ≠ 0 then arrStop s q St.converter cb.2
        else if part then arrStop s q St.converter 5
        else
          let bytes := 16 * cnt * fmtBits k.fmt / 8
          let base := (x.region m).1
          let scAddr (p : Nat) : Nat := k.scaleBase + p / k.n * ceilDiv k.n run + p % k.n / run
          match s.lsOperand r.island d bytes (max 1 (fmtBits k.fmt / 8)) true with
          | none => arrStop s q St.layout 0
          | some da =>
            if k.blk ≠ 0 ∧ (!s.lsOk r.island (scAddr b) 1 true ∨ !s.lsOk r.island (scAddr p1) 1 true) then arrStop s q St.layout 0
            else if k.stats ∧ 8 ≤ z.stats.length ∧ !(z.stats.any (fun e => e.1 == k.tag)) then arrStop s q 0x0202 r.cay
            else
              let accs := c.slotsAt base sl cnt
              let marks := z.marksAt sl (16 * cnt)
              let ys := accs.map (drainValue k)
              let seed := s.fld .numcSeed x.ctx
              let mode (p : Nat) : RMode := if k.grad then .sr (elementDraw seed x.step k.tag k.n p) else .rne
              let cv := drainConvert k mode b (ys.map (·.1))
              let drop := marks.map (fun e => decide (2 ≤ e))
              let old := unpackElems (fmtBits k.fmt) (c.lsRead da bytes) (16 * cnt)
              let codes := cv.1.zipIdx.map (fun e => if drop.getD e.2 false then old.getD e.2 0 else e.1.1.code)
              let sats := (cv.1.zipIdx.filter (fun e =>
                !(drop.getD e.2 false) && (e.1.1.sat || (ys.getD e.2 (.zero, false)).2 || marks.getD e.2 0 % 2 == 1))).length
              let bad := (ys.zipIdx.filter (fun e => e.1.1.isNan && !(drop.getD e.2 false))).map (fun e => (e.2 % 16, accs.getD e.2 0))
              let c1 := c.lsWrite da (packElems (fmtBits k.fmt) codes)
              let c2 := cv.2.foldl (fun y e => y.lsWrite (scAddr e.1) [BitVec.ofNat 8 e.2.1]) c1
              let chanOn := k.stats && s.fld .qntChanCountEn x.ctx == 1 && s.fld .qntChanTag x.ctx == k.tag
              let z0 := c2.arr m
              let z1 :=
                if !k.stats then z0
                else
                  let zt := cv.1.zipIdx.foldl (fun y e =>
                    match elementStat k.fmt e.1.2 (ys.getD e.2 (.zero, false)).1
                        ⟨e.1.1.code, e.1.1.sat || (ys.getD e.2 (.zero, false)).2 || marks.getD e.2 0 % 2 == 1⟩ with
                    | none => y
                    | some st =>
                      let y1 := y.addStat k.tag st
                      let ch := (b + e.2) % k.n
                      if chanOn && decide (ch < s.fld .qntChanCountCount x.ctx) then y1.addChan ch st else y1) z0
                  zt.addStat k.tag ⟨0, 0, 0, (cv.2.filter (fun e => e.2.2)).length⟩
              let t := max z1.clk.now z1.clk.done
              let z2 := { z1 with clk := { z1.clk with now := t + cnt, wOperand := z1.clk.wOperand + (t + cnt - z1.clk.now) } }
              let s1 := (s.setCay r (c2.setArr m z2)).bump .arrSatCnt r.island sats (arrUnit r m)
              let s2 := s1.noteSat q.task r.island sats
              match bad with
              | [] => s2
              | e :: _ => arrInvalid s2 r m q.task (if (a32.decode e.2).isNan ∨ (bf16.decode k.bias).isNan then 2 else 3) 0 e.1 0

/-! ### The shadow path (R118, R119) -/

/-- The pieces of a value in the three-piece split (R72). -/
def split3 (x : Val) : List Val :=
  if !x.isFin then [x, .zero, .zero]
  else
    let rb (v : Val) : Val := bf16.decode (bf16.encode .rne v).code
    let x0 := rb x
    let d0 := Val.sub x x0
    let x1 := rb d0
    [x0, x1, rb (Val.sub d0 x1)]

/-- The passes of the three-piece variant, in order (R73). -/
def passes3 : List (Nat × Nat) := [(2, 0), (1, 1), (0, 2), (1, 0), (0, 1), (0, 0)]

/-- The passes of the two-piece variant, in order (R73). -/
def passes2 : List (Nat × Nat) := [(1, 0), (0, 1), (0, 0)]

/-- One pass of one 16-term group: outside (0, 0) a product with a zero or non-finite piece is excluded (R73). -/
def splitPass (pr : Nat × Nat) (c : Val) (ab : List (List Val × List Val)) : ARes :=
  let ps := ab.map (fun e => (e.1.getD pr.1 .zero, e.2.getD pr.2 .zero))
  let live := if pr = (0, 0) then ps else ps.filter (fun e => e.1.isFin && e.2.isFin && !e.1.isZero && !e.2.isZero)
  tree16 c live

/-- A 16-term group in split-wide form (R73). -/
def splitTree (passes : List (Nat × Nat)) (c : ARes) (ab : List (Val × Val)) : ARes :=
  let sp := ab.map (fun e => (split3 e.1, split3 e.2))
  passes.foldl (fun acc p => let t := splitPass p (a32.decode acc.code) sp; ⟨t.code, acc.sat || t.sat⟩) c

/-- One lane of the recomputed block sum: groups in index order, the rescale at each scale group's end (R64, R118). -/
def shadowLane (sel : ShadowSel) (j : Nat) : List ShadowIssue → ARes → ARes → ARes
  | [], acc, _ => acc
  | i :: is, acc, g =>
    let sb := i.lanes.getD j 0
    let xs := i.stream.map (fun e => streamVal sel.aFmt e i.scale i.zp i.zr)
    let ws := i.station.map (fun l => if sb = 0xFF then Val.nan else decodeElem sel.bFmt (l.getD j 0))
    let prs := List.zip xs ws
    let g1 := (chunks 16 prs.length prs).foldl (fun a p => splitTree passes3 a p) g
    if i.endg then
      let e := (if i.scale = 0xFF then (0 : Int) else e8Exp i.scale) + (if sb = 0xFF then 0 else e8Exp sb)
      shadowLane sel j is (addA32 (a32.decode acc.code) ((a32.decode g1.code).scale e)) ⟨0, false⟩
    else shadowLane sel j is acc g1

/-- floor(log2 (x / y)) of two positive values. -/
def ilog2Ratio (x y : Val) : Int :=
  let k := x.ilog2 - y.ilog2
  if Val.lt x (y.scale k) then k - 1 else k

/-- The disagreement code of a lane (R118). -/
def disagree (y ref : Nat) : Nat :=
  let vy := a32.decode y
  let vr := a32.decode ref
  if y = ref ∨ (vy.isNan ∧ vr.isNan) then 255
  else if vy.isNan ∨ vr.isNan ∨ vr.isZero then 0
  else if vy.isInf ∨ vr.isInf then 0
  else
    let d := (Val.sub vy vr).abs
    if d.isZero then 254 else min 254 (max 0 (-(ilog2Ratio d vr.abs))).toNat

/-- The lane of smallest code, lowest first, with its code. -/
def minLane : List Nat → Nat × Nat
  | [] => (0, 255)
  | [d] => (0, d)
  | d :: ds => let r := minLane ds; if d ≤ r.2 then (0, d) else (r.1 + 1, r.2)

/-- The comparison of a pending selection completes (R118, R119). -/
def shadowCompare (s : State) (r : CayRef) (sel : ShadowSel) : State :=
  let ds := (List.range 16).map (fun j => disagree (sel.lanes.getD j 0) (shadowLane sel j sel.issues ⟨0, false⟩ ⟨0, false⟩).code)
  let ld := minLane ds
  let i := r.island
  let s1 := (s.setCay r { s.cay r with shadow := none }).bump .shadowDone i
  if ld.2 < s1.fld .shadowCtlThresh i then
    let s2 := s1.bump .shadowOver i
    let s3 :=
      if s2.fld .shadowCaptValid i = 1 then s2
      else (((((s2.setFld .shadowCaptValid 1 i).setFld .shadowCaptCtx sel.ctx i).setFld .shadowCaptCay r.cay i).setFld
        .shadowCaptArray sel.array i).setFld .shadowCaptLane ld.1 i).setFld .shadowCaptD ld.2 i
    s3.raise 0x10 i 0
  else s1

end Sys2Proof.Machine
end

