-- ==== Sys2Proof/Machine/Approx.lean ====
section
/-! DEFINITION. The approximate vector functions (R196): the exact result compared with each code of the target, and the offset from it that the
spec leaves open within its bound. -/
namespace Sys2Proof.Machine

/-- The approximate functions. -/
inductive AFun where
  | exp2 | log2 | rcp | rsqrt | sqrt
deriving DecidableEq, Repr

def AFun.num : AFun → Nat
  | .exp2 => 0
  | .log2 => 1
  | .rcp => 2
  | .rsqrt => 3
  | .sqrt => 4

/-- A × 2^p ≤ B × 2^q. -/
def powLe (A : Nat) (p : Int) (B : Nat) (q : Int) : Bool :=
  if q ≤ p then decide (A * 2 ^ (p - q).toNat ≤ B) else decide (A ≤ B * 2 ^ (q - p).toNat)

/-- A magnitude and exponent with the trailing zeros below the unit taken out of the magnitude. -/
def reduce : Nat → Nat → Int → Nat × Int
  | 0, m, e => (m, e)
  | fuel + 1, m, e => if e < 0 ∧ m % 2 = 0 ∧ m ≠ 0 then reduce fuel (m / 2) (e + 1) else (m, e)

/-- v ≤ the magnitude of the exact result at x, for v of magnitude m × 2^e and x finite and in the function's domain. -/
def AFun.le (f : AFun) (x : Val) (m : Nat) (e : Int) : Bool :=
  match f with
  | .rcp => powLe (m * x.mag) (e + x.exp) 1 0
  | .sqrt => powLe (m * m) (2 * e) x.mag x.exp
  | .rsqrt => powLe (m * m * x.mag) (2 * e + x.exp) 1 0
  | .exp2 =>
    let r := reduce 200 x.mag x.exp
    let p : Int := if x.isNeg then -(r.1 : Int) else (r.1 : Int)
    if 0 ≤ r.2 then
      (if 20 < r.2 + r.1.log2 then (decide (m = 0) || !x.isNeg) else powLe m e 1 (p * 2 ^ r.2.toNat))
    else
      let N : Nat := 2 ^ (-r.2).toNat
      if 20 < r.2 + r.1.log2 then (decide (m = 0) || !x.isNeg) else powLe (m ^ N) (e * N) 1 p
  | .log2 =>
    let r := reduce 200 m e
    let below := x.ilog2 < 0
    if m = 0 then true
    else if 12 < e + m.log2 then false
    else
      let a := if 0 ≤ r.2 then r.1 * 2 ^ r.2.toNat else r.1
      let N : Nat := if 0 ≤ r.2 then 1 else 2 ^ (-r.2).toNat
      if below then powLe (x.mag ^ N) (x.exp * N + a) 1 0 else powLe 1 a (x.mag ^ N) (x.exp * N)

/-- The magnitude and exponent of a finite magnitude code, and of the one step beyond the largest. -/
def FFmt.magOf (f : FFmt) (code : Nat) : Nat × Int :=
  let top := f.decode (min code f.maxFin)
  (top.mag + (code - f.maxFin), top.exp)

/-- The largest magnitude code at or below the exact result, bit by bit from the top. -/
def floorCode (f : FFmt) (g : AFun) (x : Val) : Nat :=
  (List.range 31).foldl (fun acc i =>
    let c := acc + 2 ^ (30 - i)
    if c ≤ f.maxFin ∧ g.le x (f.magOf c).1 (f.magOf c).2 then c else acc) 0

/-- The exact result equals the value of the code. -/
def exactAt (g : AFun) (x : Val) (m : Nat) (e : Int) : Bool :=
  -- the next multiple of a far finer unit is above the result
  g.le x m e && !(g.le x (m * 2 ^ 64 + 1) (e - 64))

/-- An offset of R196 brought into its bound: adjacent codes for 16-bit targets, four units for A32. -/
def clipOffset (wide exact : Bool) (o : Int) : Int :=
  if wide then max (if exact then -4 else -3) (min 4 o) else max (if exact then -1 else 0) (min 1 o)

/-- The approximate function of a value that is not NaN: code, saturation, and the cause of R197 for a negative operand (0 = none). `key` is the
operand's code with its format. -/
def approx (g : AFun) (df : Nat) (f : FFmt) (x : Val) (key : Nat) : Enc × Nat :=
  let nan : Enc × Nat := (f.encode .rne .nan, 4)
  let sgnd (s : Bool) (e : Enc) : Enc := ⟨e.code + b2n s * f.signBit, e.sat⟩
  let big (s : Bool) : Enc × Nat := (sgnd s ⟨f.maxFin, true⟩, 0)
  let neg := x.isNeg && !x.isZero
  match x with
  | .nan => (f.encode .rne .nan, 2)
  | .inf s =>
    match g with
    | .exp2 => (if s then ⟨0, false⟩ else f.encode .rne (.inf false), 0)
    | .rcp => (sgnd s ⟨0, false⟩, 0)
    | .log2 => if s then nan else (f.encode .rne (.inf false), 0)
    | .sqrt => if s then nan else (f.encode .rne (.inf false), 0)
    | .rsqrt => if s then nan else (⟨0, false⟩, 0)
  | .fin s m _ =>
    if m = 0 ∧ (g = .rcp ∨ g = .rsqrt) then big s
    else if m = 0 ∧ g = .log2 then big true
    else if neg ∧ (g = .sqrt ∨ g = .rsqrt ∨ g = .log2) then nan
    else
      let sign := match g with
        | .rcp => s
        | .log2 => decide (x.ilog2 < 0)
        | _ => false
      let o := Config.approxOffset g.num df key
      if g.le x (f.magOf (f.maxFin + 1)).1 (f.magOf (f.maxFin + 1)).2 then big sign
      else
        let c := floorCode f g x
        let ex := exactAt g x (f.magOf c).1 (f.magOf c).2
        let r := (c : Int) + clipOffset (df == 9) ex o
        if (f.maxFin : Int) < r then big sign else (sgnd sign ⟨r.toNat, false⟩, 0)

end Sys2Proof.Machine
end

