-- ==== Sys2Proof/Machine/Vector.lean ====
section
/-! DEFINITION. What the vector unit does with an instruction at the head of its queue (R191 to R199). -/
namespace Sys2Proof.Machine

/-- The lanes a mask register enables; K = 0 encodes all (R191). -/
def laneOn (k : BitVec 5) (mask l : Nat) : Bool := k == 0 || bit mask l

/-- A lane's exact value and the cause of R197 that makes it invalid, 0 where none. `k` is VSCL's exponent. -/
def laneVal (op : VOp) (a b c : Val) (k : Int) : Val × Nat :=
  let bad (z : Val) (cause : Nat) : Val × Nat := (z, if z.isNan then cause else 0)
  match op with
  | .add => if a.isNan || b.isNan then (.nan, 2) else bad (Val.add a b) 3
  | .sub => if a.isNan || b.isNan then (.nan, 2) else bad (Val.sub a b) 3
  | .mul => if a.isNan || b.isNan then (.nan, 2) else bad (Val.mul a b) 1
  | .fma =>
    if a.isNan || b.isNan || c.isNan then (.nan, 2)
    else
      let p := Val.mul a b
      if p.isNan then (.nan, 1) else bad (Val.add p c) 3
  | .min => if a.isNan || b.isNan then (.nan, 2) else (if Val.lt b a then b else a, 0)
  | .max => if a.isNan || b.isNan then (.nan, 2) else (if Val.lt a b then b else a, 0)
  | .abs => bad a.abs 2
  | .neg => bad a.negate 2
  | .scl => bad (a.scale k) 2
  | _ => bad a 2

/-- Lane codes written over the lanes that are enabled (R191). -/
def Cay.putVec (c : Cay) (fmt addr : Nat) (on : List Bool) (codes : List Nat) : Cay :=
  let old := unpackElems (fmtBits fmt) (c.lsRead addr (vecBytes fmt)) 64
  c.lsWrite addr (packElems (fmtBits fmt) (codes.zipIdx.map (fun e => if on.getD e.2 false then e.1 else old.getD e.2 0)))

/-- The lane codes of an operand. -/
def Cay.getVec (c : Cay) (fmt addr : Nat) : List Nat := unpackElems (fmtBits fmt) (c.lsRead addr (vecBytes fmt)) 64

/-- Saturated elements of the vector unit (R81, R163). -/
def vecSat (s : State) (r : CayRef) (task n : Nat) : State :=
  if n = 0 then s else (s.bump .cayVecSatCnt r.island n (1 + r.cay)).noteSat task r.island n

/-- The lowest failing lane sets the unit's invalid flag and is captured where the flag was clear (R197). -/
def vecInvalid (s : State) (r : CayRef) (task : Nat) (bad : List (Nat × Nat)) : State :=
  match bad with
  | [] => s
  | (lane, cause) :: _ =>
    if (s.cay r).vecInvalid then s
    else
      let s1 := s.setCay r { s.cay r with vecInvalid := true }
      (s1.noteInvalid task r 0 1 cause 0 lane 0).failOnInvalid task

/-- A scalar result of the vector unit reaches its thread, if the thread is still bound to the task. -/
def vecReg (s : State) (r : CayRef) (q : QEntry) (d : BitVec 5) (f : W64 → W64) : State :=
  let th := (s.cay r).thr q.thread
  if th.bound ∧ th.task = q.task then s.putThr r q.thread (th.setReg d (f (th.reg d))) else s

/-- Bits [31:0] of a register replaced. -/
def low32 (v : Nat) (w : W64) : W64 := BitVec.ofNat 64 (ins w.toNat 31 0 v)

/-- Lanes of VRSUM folded 16 at a time (R195): the result with its mark, and the failing lanes. -/
def vrsum (c : ARes) : Nat → List (List Val) → ARes × List (Nat × Nat)
  | _, [] => (c, [])
  | l, g :: gs =>
    let cv := a32.decode c.code
    let ab := g.map (fun v => (v, Val.one))
    let t := tree16 cv ab
    let rest := vrsum ⟨t.code, c.sat || t.sat⟩ (l + 16) gs
    match firstInvalid (infSign cv) l ab with
    | some e => (rest.1, (e.2, e.1) :: rest.2)
    | none => rest

/-- The causes found, as (lane, cause), lowest lane first. -/
def badLanes (vs : List (Val × Nat)) (on : List Bool) : List (Nat × Nat) :=
  (vs.zipIdx.filter (fun e => on.getD e.2 false && e.1.2 != 0)).map (fun e => (e.2, e.1.2))

/-- Arithmetic, selection and moves: sources in SFMT, result in DFMT (R192). -/
def vecArith (s : State) (r : CayRef) (q : QEntry) (op : VOp) (f : VFields) (x : VArgs) : State :=
  let sf := f.sfmt.toNat
  let df := f.dfmt.toNat
  let two := op == .add || op == .sub || op == .mul || op == .fma || op == .min || op == .max || op == .sel
  let oA := s.lsOperand r.island x.a (vecBytes sf) (vecBytes sf) false
  let oB := if two then s.lsOperand r.island x.b (vecBytes sf) (vecBytes sf) false else some 0
  let oC := if op == .fma then s.lsOperand r.island x.c (vecBytes df) (vecBytes df) false else some 0
  match oA, oB, oC, s.lsOperand r.island x.d (vecBytes df) (vecBytes df) true with
  | some pa, some pb, some pc, some pd =>
    let c := s.cay r
    let ca := c.getVec sf pa
    let cb := if two then c.getVec sf pb else ca
    let on := (List.range 64).map (laneOn f.k x.k)
    let wr := if op == .sel then List.replicate 64 true else on
    if (op == .sel || op == .mov) ∧ sf = df then
      let codes := (List.zip ca cb).zipIdx.map (fun e => if op == .mov || on.getD e.2 false then e.1.1 else e.1.2)
      s.setCay r (c.putVec df pd wr codes)
    else
      let av := ca.map (decodeElem sf)
      let bv := cb.map (decodeElem sf)
      let cv := if op == .fma then (c.getVec df pc).map (decodeElem df) else av
      let k : Int := max (-1024) (min 1024 (sgn 64 x.b))
      let one (l : Nat) : Val × Nat :=
        if op == .sel then laneVal .mov (if on.getD l false then av.getD l .zero else bv.getD l .zero) .zero .zero 0
        else laneVal op (av.getD l .zero) (bv.getD l .zero) (cv.getD l .zero) k
      let vs := (List.range 64).map one
      let es := vs.map (fun v => encodeElem df .rne v.1)
      let sats := (es.zipIdx.filter (fun e => wr.getD e.2 false && e.1.sat)).length
      let s1 := s.setCay r (c.putVec df pd wr (es.map (·.code)))
      vecInvalid (vecSat s1 r q.task sats) r q.task (badLanes vs wr)
  | _, _, _, _ => s.failTask q.task St.layout 0

/-- An approximate function lane by lane (R196). -/
def vecApprox (s : State) (r : CayRef) (q : QEntry) (g : AFun) (f : VFields) (x : VArgs) : State :=
  let sf := f.sfmt.toNat
  let df := f.dfmt.toNat
  match s.lsOperand r.island x.a (vecBytes sf) (vecBytes sf) false, s.lsOperand r.island x.d (vecBytes df) (vecBytes df) true, fmtFloat df with
  | some pa, some pd, some ff =>
    let c := s.cay r
    let on := (List.range 64).map (laneOn f.k x.k)
    let es := (c.getVec sf pa).map (fun code => approx g df ff (decodeElem sf code) (code + sf * 2 ^ 32))
    let sats := (es.zipIdx.filter (fun e => on.getD e.2 false && e.1.1.sat)).length
    let bad := (es.zipIdx.filter (fun e => on.getD e.2 false && e.1.2 != 0)).map (fun e => (e.2, e.1.2))
    let s1 := s.setCay r (c.putVec df pd on (es.map (fun e => e.1.code)))
    vecInvalid (vecSat s1 r q.task sats) r q.task bad
  | _, _, _ => s.failTask q.task St.layout 0

/-- Comparisons: a mask of the enabled lanes in which the relation holds; a lane with a NaN source gives 0 (R192, R197). -/
def vecCompare (s : State) (r : CayRef) (q : QEntry) (lt : Bool) (f : VFields) (x : VArgs) : State :=
  let sf := f.sfmt.toNat
  match s.lsOperand r.island x.a (vecBytes sf) (vecBytes sf) false, s.lsOperand r.island x.b (vecBytes sf) (vecBytes sf) false with
  | some pa, some pb =>
    let c := s.cay r
    let on := (List.range 64).map (laneOn f.k x.k)
    let prs := List.zip ((c.getVec sf pa).map (decodeElem sf)) ((c.getVec sf pb).map (decodeElem sf))
    let m := prs.zipIdx.foldl (fun acc e =>
      if on.getD e.2 false && (if lt then Val.lt e.1.1 e.1.2 else Val.eqv e.1.1 e.1.2) then acc + 2 ^ e.2 else acc) 0
    let bad := (prs.zipIdx.filter (fun e => on.getD e.2 false && (e.1.1.isNan || e.1.2.isNan))).map (fun e => (e.2, 2))
    vecInvalid (vecReg s r q f.d (fun _ => BitVec.ofNat 64 m)) r q.task bad
  | _, _ => s.failTask q.task St.layout 0

/-- VRSUM and VRMAX: the enabled lanes with the incoming value c[31:0] (R192, R195, R197). -/
def vecReduce (s : State) (r : CayRef) (q : QEntry) (sum : Bool) (f : VFields) (x : VArgs) : State :=
  let sf := f.sfmt.toNat
  match s.lsOperand r.island x.a (vecBytes sf) (vecBytes sf) false with
  | none => s.failTask q.task St.layout 0
  | some pa =>
    let c := s.cay r
    let on := (List.range 64).map (laneOn f.k x.k)
    let vs := ((c.getVec sf pa).map (decodeElem sf)).zipIdx.map (fun e => if on.getD e.2 false then e.1 else Val.zero)
    let cc := bits x.c 31 0
    let cv := a32.decode cc
    let cBad : List (Nat × Nat) := if cv.isNan then [(0, 2)] else []
    if sum then
      let t := vrsum ⟨cc, false⟩ 0 (chunks 16 64 vs)
      let s1 := vecReg s r q f.d (low32 t.1.code)
      vecInvalid (vecSat s1 r q.task (b2n t.1.sat)) r q.task (cBad ++ t.2)
    else
      let nans := (vs.zipIdx.filter (fun e => e.1.isNan)).map (fun e => (e.2, 2))
      let bad := cBad ++ nans
      let best := if bad.isEmpty then vs.zipIdx.foldl (fun m e => if on.getD e.2 false && Val.lt m e.1 then e.1 else m) cv else .nan
      vecInvalid (vecReg s r q f.d (low32 (roundA32 best).code)) r q.task bad

/-- Where the second address field of a register, bits [45:24], points, checked as a local-store operand (R173, R198). -/
def State.lsSecond (s : State) (isl v n al : Nat) (wr : Bool) : Option Nat :=
  let a := bits v 45 24
  if a % al ≠ 0 ∨ !s.lsOk isl a n wr then none else some a

/-- A format to which R59 gives an F takes the run of BLK (R198). -/
def vecRun (fmt blk : Nat) : Nat := if (fmtF fmt).isSome then blkRun blk else 0

/-- Bytes of scale data an operand of VCVT keeps at its second address: scale codes, two block codes, or a channel's two words (R198). -/
def scaleBytes (fmt run : Nat) : Nat :=
  if fmt = 10 then 2 else if fmtUnsigned fmt then 4 else if run = 0 then 0 else 64 / run

/-- The values of a VCVT source (R198). -/
def cvtSource (c : Cay) (sf run pa sa : Nat) : List Val :=
  (c.getVec sf pa).zipIdx.map fun e =>
    if sf = 10 then p16Val (c.lsWord (sa + e.2 / 32) 1) e.1
    else if fmtUnsigned sf then unsignedVal sf e.1 (c.lsWord sa 2) (c.lsWord (sa + 2) 2)
    else if run = 0 then decodeElem sf e.1
    else scaledBy (decodeElem sf e.1) (c.lsWord (sa + e.2 / run) 1)

/-- VCVT (R198, R199). -/
def vecConvert (s : State) (r : CayRef) (q : QEntry) (f : VFields) (x : VArgs) : State :=
  let sf := f.sfmt.toNat
  let df := f.dfmt.toNat
  let sr := vecRun sf f.blk.toNat
  let dr := vecRun df f.blk.toNat
  let sn := scaleBytes sf sr
  let dn := if fmtUnsigned df then 0 else scaleBytes df dr
  let oS := if sn = 0 then some 0 else s.lsSecond r.island x.a sn (if fmtUnsigned sf then 4 else 1) false
  let oD := if dn = 0 then some 0 else s.lsSecond r.island x.d dn 1 true
  let oW := if fmtUnsigned df then s.lsOperand r.island x.b 4 4 false else some 0
  match s.lsOperand r.island x.a (vecBytes sf) (vecBytes sf) false, s.lsOperand r.island x.d (vecBytes df) (vecBytes df) true, oS, oD, oW with
  | some pa, some pd, some sa, some da, some wa =>
    let c := s.cay r
    let t := s.task q.task
    let stoch := f.rmode = 2
    let len := if stoch then (if bits x.c 37 32 = 0 then 64 else bits x.c 37 32) else 64
    let on := (List.range 64).map (fun l => laneOn f.k x.k l && decide (l < len))
    let seed := runSeed (s.fld .numcSeed t.ctx) t.step (bits x.b 31 0) (bits x.c 31 0)
    let mode (l : Nat) : RMode := if f.rmode = 0 then .rne else if f.rmode = 1 then .rtz else .sr (drawAt seed l)
    let vs := (cvtSource c sf sr pa sa).zipIdx.map (fun e => if on.getD e.2 false then e.1 else Val.zero)
    let sw := c.lsWord wa 2
    let zw := c.lsWord (wa + 2) 2
    let nanChan := fmtUnsigned df && bits sw 7 0 == 0xFF
    let cv := if fmtUnsigned df then (⟨vs.map (encodeUnsigned df sw zw), []⟩ : Conv) else convertVals df dr mode vs
    let sats := (cv.elems.zipIdx.filter (fun e => on.getD e.2 false && e.1.sat)).length
    let bad := (vs.zipIdx.filter (fun e => on.getD e.2 false && (nanChan || e.1.isNan))).map (fun e => (e.2, 2))
    let c1 := c.putVec df pd on (cv.elems.map (·.code))
    let c2 := if dn = 0 then c1 else c1.lsWrite da (cv.scales.map (BitVec.ofNat 8))
    vecInvalid (vecSat (s.setCay r c2) r q.task sats) r q.task bad
  | _, _, _, _, _ => s.failTask q.task St.layout 0

/-- Element addresses of a gather or scatter: b + index × size (R192). -/
def gatherAddrs (c : Cay) (f : VFields) (x : VArgs) (list : Nat) : List (Nat × Nat) :=
  ((List.range 64).filter (laneOn f.k x.k)).map (fun l => (l, (x.b + c.lsWord (list + 4 * l) 4 * (fmtBits f.dfmt.toNat / 8)) % 2 ^ 64))

/-- VSTG: each enabled lane's element is stored; the unit waits where a shadowed line cannot be allocated or a layer is not staged. -/
def vecScatter (s : State) (r : CayRef) (q : QEntry) (f : VFields) (x : VArgs) : State × Bool :=
  let df := f.dfmt.toNat
  let w := fmtBits df / 8
  match s.lsOperand r.island x.d 256 256 false, s.lsOperand r.island x.a (vecBytes df) (vecBytes df) false with
  | some pl, some pa =>
    let c := s.cay r
    (gatherAddrs c f x pl).foldl (fun (u : State × Bool) e =>
      if !u.2 ∨ (u.1.task q.task).st = .ended ∨ (u.1.task q.task).status ≠ 0 then u
      else
        match u.1.storeElem r q.task e.2 (c.lsRead (pa + e.1 * w) w) with
        | .done t => (t, true)
        | .ended t => (t, true)
        | .wait t _ _ => (t, false)) (s, true)
  | _, _ => (s.failTask q.task St.layout 0, true)

/-- An instruction at the head of the vector queue runs; the flag is false where it must wait. -/
def runVec (s : State) (r : CayRef) (q : QEntry) (op : VOp) (f : VFields) (x : VArgs) : State × Bool :=
  match op with
  | .cmplt => (vecCompare s r q true f x, true)
  | .cmpeq => (vecCompare s r q false f x, true)
  | .exp2 => (vecApprox s r q .exp2 f x, true)
  | .log2 => (vecApprox s r q .log2 f x, true)
  | .rcp => (vecApprox s r q .rcp f x, true)
  | .rsqrt => (vecApprox s r q .rsqrt f x, true)
  | .sqrt => (vecApprox s r q .sqrt f x, true)
  | .cvt => (vecConvert s r q f x, true)
  | .rsum => (vecReduce s r q true f x, true)
  | .rmax => (vecReduce s r q false f x, true)
  | .stg => vecScatter s r q f x
  | .ldg => (s, true)
  | _ => (vecArith s r q op f x, true)

end Sys2Proof.Machine
end

