-- ==== Sys2Proof/Machine/Engine.lean ====
section
/-! DEFINITION. The engine queues of a cay: what an entry reads and writes in the local store, when the head of a queue may run, and the run of
every head that may (R141, R175, R176). -/
namespace Sys2Proof.Machine

/-- The bounding range of `n` pieces of `len` bytes, `step` apart. -/
def span (base step n len : Nat) : Nat × Nat := (base, (n - 1) * step + len)

/-- Bytes of an issue's streaming operand along an axis. -/
def streamBytes (g : ArrCfg) (ax : Nat) : Nat :=
  axisDepth g.shape ax * (if doubleRate g.aFmt g.bFmt then 2 else 1) * fmtBits g.aFmt / 8

/-- The local-store ranges an entry reads; array slots are not tracked (R176). -/
def EngOp.reads (op : EngOp) (c : Cay) : List (Nat × Nat) :=
  let cfg (a : Nat) : ArrCfg := ((c.arr a).cfg).getD ⟨0, 0, 0, 0, 64⟩
  match op with
  | .fence _ => []
  | .mcfg _ => []
  | .mfin _ => []
  | .mlds f a => [(bits a 21 0, tileBytes (cfg f.array.toNat))]
  | .miss f a _ => [(bits a 21 0, streamBytes (cfg f.array.toNat) f.axis.toNat)]
  | .mseq f a _ =>
    let g := cfg f.array.toNat
    let ad := bits a 21 0
    let d := (seqDesc (c.lsRead ad 32)).1
    let lines := axisDepth g.shape d.axis * (if doubleRate g.aFmt g.bFmt then 2 else 1)
    let st := span d.streamBase d.streamSi d.nInner (streamBytes g d.axis)
    let per := max 1 (g.g / max 1 lines)
    [(ad, 32), (st.1, st.2 + (d.nOuter - 1) * d.streamSo),
     span d.tileBase d.tileSo d.nOuter (tileBytes g * (gangOf g.shape f.array.toNat).length),
     (d.scaleBase, ceilDiv d.nOuter per * d.nInner * (if fmtUnsigned g.aFmt then 4 else 1))]
  | .mdrn _ _ a _ => [(bits a 21 0, 32)]
  | .vec v f x =>
    let sb := vecBytes f.sfmt.toNat
    let db := vecBytes f.dfmt.toNat
    let a := (bits x.a 21 0, sb)
    let b := (bits x.b 21 0, sb)
    match v with
    | .add | .sub | .mul | .min | .max | .sel | .cmplt | .cmpeq => [a, b]
    | .fma => [a, b, (bits x.c 21 0, db)]
    | .cvt => [a, (bits x.a 45 24, 8), (bits x.b 21 0, if fmtUnsigned f.dfmt.toNat then 4 else 0)]
    | .ldg => [(bits x.a 21 0, 256)]
    | .stg => [(bits x.d 21 0, 256), (bits x.a 21 0, db)]
    | _ => [a]

/-- The entry must wait for a range that work issued earlier is still to write (R176). -/
def Cay.mustWait (c : Cay) (q : QEntry) : Bool :=
  (q.op.reads c ++ q.op.writes c.ls).any (fun r => r.2 != 0 && c.pendingRange q.num r.1 r.2)

def EngOp.isFence : EngOp → Bool
  | .fence _ => true
  | _ => false

/-- The head of a queue may start: it is no fence, its ranges have landed, and its task is neither paused nor ended (R141, R176, R462). -/
def State.mayRun (s : State) (r : CayRef) (q : QEntry) : Bool :=
  !q.op.isFence && !(s.cay r).mustWait q && !(s.task q.task).paused

/-- An entry runs; the flag is false where its engine must wait. -/
def runEntry (s : State) (r : CayRef) (q : QEntry) : State × Bool :=
  match q.op with
  | .fence _ => (s, true)
  | .mcfg f => (runMcfg s r q f, true)
  | .mlds f a => (runMlds s r q f a, true)
  | .miss f a gap => (runMiss s r q f a gap, true)
  | .mseq f a b => (runMseq s r q f a b, true)
  | .mfin f => (runMfin s r q f, true)
  | .mdrn f d a b => (runMdrn s r q f d a b, true)
  | .vec op f x => runVec s r q op f x

/-- An entry leaves its queue. -/
def Cay.dropEntry (c : Cay) (e num : Nat) : Cay := c.setQueue e ((c.queue e).filter (fun q => q.num != num))

/-- The first engine whose head may start. -/
def State.runnable (s : State) (r : CayRef) (skip : List Nat) : Option (Nat × QEntry) :=
  (List.range 5).findSome? (fun e =>
    if skip.contains e then none
    else
      match (s.cay r).queue e with
      | [] => none
      | q :: _ => if s.mayRun r q then some (e, q) else none)

/-- Every head that may start runs, in queue order, until none may. `skip` names engines found waiting. -/
def State.pumpLoop : Nat → State → CayRef → List Nat → State
  | 0, s, _, _ => s
  | fuel + 1, s, r, skip =>
    match s.runnable r skip with
    | none => s
    | some (e, q) =>
      let u := runEntry s r q
      if u.2 then State.pumpLoop fuel (u.1.setCay r ((u.1.cay r).dropEntry e q.num)) r skip
      else State.pumpLoop fuel u.1 r (e :: skip)

/-- Entries held in the queues of a cay. -/
def Cay.entries (c : Cay) : Nat := ((List.range 6).map (fun e => (c.queue e).length)).foldl (· + ·) 0

/-- Threads that wait for a result, a range or a place in a queue become ready, and make their access again (R175, R176). -/
def Cay.wakeOperands (c : Cay) : Cay :=
  c.wakeIf (fun _ w => match w with | .operand => true | .queue e => e != 5 | _ => false)

/-- The engines of a cay run on. -/
def State.pump (s : State) (r : CayRef) : State :=
  let n := (s.cay r).entries
  let s1 := State.pumpLoop (n + 6) s r []
  if (s1.cay r).entries = n then s1 else s1.setCay r (s1.cay r).wakeOperands

/-- Local-store ranges pending in a cay; up to 32 are tracked (R176). -/
def Cay.pendingCount (c : Cay) : Nat :=
  (((List.range 5).flatMap (fun e => c.queue e)).map (fun q => (q.op.writes c.ls).length)).foldl (· + ·) 0

/-- An instruction enters an engine's queue, its register values with it; the thread goes on, or blocks while the queue is full (R175) or all 32
ranges are pending (R176). -/
def enqueue (s : State) (r : CayRef) (t : Nat) (th : Thread) (e : Nat) (op : EngOp) : State :=
  let c := s.cay r
  if 16 ≤ (c.queue e).length then s.blockThr r t (.queue e) 7
  else if op.writes c.ls ≠ [] ∧ 32 ≤ c.pendingCount then s.blockThr r t .operand 0
  else
    let c1 := { c.setThr t th.next with issue := c.issue + 1 }
    (s.setCay r (c1.setQueue e (c1.queue e ++ [⟨c.issue, t, th.task, op⟩]))).pump r

/-- An instruction issues once the scalar registers it names hold their values (R176). -/
def issueRegs (r : CayRef) (rsvZero : Bool) (regs : List (BitVec 5)) (s : State) (f : Nat → Thread → State) : Out :=
  issue r rsvZero s (fun t th =>
    if regs.any (fun x => (s.cay r).pendingReg t x) then s.blockThr r t .operand 0 else f t th)

end Sys2Proof.Machine
end

