-- ==== Sys2Proof/Machine/CopyUnit.lean ====
section
/-! DEFINITION. The copy unit: descriptors and their checks, copies, fences (R136 to R142, R180). -/
namespace Sys2Proof.Machine

/-- A copy descriptor read from its 32 bytes, and whether its reserved bits and codes are in order (R136, code 0x01 of R138). -/
def copyDesc (bs : List (BitVec 8)) : CopyDesc × Bool :=
  let w0 := leAt bs 0 4
  let w1 := leAt bs 4 4
  let d : CopyDesc := ⟨bits w0 31 28, bits w0 27 26, bits w0 25 24, bits w0 23 20, bit w0 19, bit w0 18, bits w1 22 0, leAt bs 8 4,
    leAt bs 12 4, leAt bs 16 6, leAt bs 22 2 + 1, leAt bs 24 6⟩
  let bad := 3 < d.kind || 1 < d.src || d.dst == 3 || bits w0 17 0 != 0 || bits w1 31 23 != 0 || leAt bs 30 2 != 0 ||
    (d.kind == 2 && (d.srcStride % 4 != 0 || bits d.srcStride 31 22 != 0 || (d.src == 0 && d.dst == 0))) ||
    (d.kind == 0 && d.rows != 1) || (d.dst == 2 && (d.src == 0 || d.kind == 3))
  (d, !bad)

/-- Source address of row `i`: by stride, or by the index list as it stands (R136). -/
def CopyDesc.srcRow (d : CopyDesc) (c : Cay) (i : Nat) : Nat :=
  if d.kind = 2 then d.srcAddr + c.lsWord (d.srcStride + 4 * i) 4 * d.rowBytes else d.srcAddr + i * d.srcStride

/-- Destination address of row `i`. -/
def CopyDesc.dstRow (d : CopyDesc) (i : Nat) : Nat := d.dstAddr + i * d.dstStride

/-- The bounding range of rows: lowest address and the one past the highest. -/
def extent (rb : Nat) : List Nat → Nat × Nat
  | [] => (0, 0)
  | [a] => (a, a + rb)
  | a :: as => let r := extent rb as; (min a r.1, max (a + rb) r.2)

/-- The copy has a source of its own: all but a fill. -/
def CopyDesc.hasSrc (d : CopyDesc) : Bool := d.kind != 3

/-- The extents of a copy's source and destination. -/
def CopyDesc.extents (d : CopyDesc) (c : Cay) : (Nat × Nat) × (Nat × Nat) :=
  (if d.hasSrc then extent d.rowBytes ((List.range d.rows).map (d.srcRow c)) else (0, 0),
   if d.dst = 2 then (0, 0) else extent d.rowBytes ((List.range d.rows).map d.dstRow))

/-- The code of R138 that refuses a descriptor at issue, or 0. -/
def State.copyCheck (s : State) (r : CayRef) (task : Nat) (d : CopyDesc) (form : Bool) : Nat :=
  let c := s.cay r
  let e := d.extents c
  let srcLs := d.hasSrc && d.src == 0
  if !form then 1
  else if (srcLs && decide (lsTop < e.1.2)) || (d.dst == 0 && decide (lsTop < e.2.2)) || (d.kind == 2 && decide (lsTop < d.srcStride + 4 * d.rows)) then 2
  else if d.dst = 0 ∧ s.shadowOn r.island ∧ shadowBase < e.2.2 then 3
  else if d.hasSrc && d.src == d.dst && decide (e.1.1 < e.2.2) && decide (e.2.1 < e.1.2) then 4
  else if !bit (s.task task).fences d.fence then 5
  else if d.rowBytes = 0 ∨ d.rowBytes % 32 ≠ 0 ∨ 2 ^ 22 < d.rowBytes then 6
  else 0

/-- A descriptor is refused: its code is kept, COPY_REFUSED is raised, and the task ends (R138). -/
def State.copyRefuse (s : State) (r : CayRef) (task code status detail : Nat) : State :=
  ((s.setFld .cayCopyStatLastErr code r.island (1 + r.cay)).raise 0x11 r.island 0).failTask task status detail

/-- One piece of a copy within one page: row, offset in the row, its place and its bytes. -/
structure CopyPiece where
  dva : Nat
  len : Nat
  place : Place
deriving DecidableEq, Repr

/-- The pieces of `n` bytes of device virtual memory, page by page; `fuel` bounds the pages. -/
def State.copyPieces (s : State) (task : Nat) (wr : Bool) : Nat → Nat → Nat → List CopyPiece
  | 0, _, _ => []
  | fuel + 1, dva, n =>
    if n = 0 then []
    else
      let m := min n (2 ^ 16 - dva % 2 ^ 16)
      ⟨dva, m, s.place task dva wr⟩ :: s.copyPieces task wr fuel (dva + m) (n - m)

/-- The device virtual pieces a copy reads, in row order. -/
def State.srcPieces (s : State) (r : CayRef) (j : CopyJob) : List CopyPiece :=
  if j.desc.hasSrc ∧ j.desc.src = 1 then
    (List.range j.desc.rows).flatMap (fun i => s.copyPieces j.task false (j.desc.rowBytes / 2 ^ 16 + 2) (j.desc.srcRow (s.cay r) i) j.desc.rowBytes)
  else []

/-- The device virtual pieces a copy writes, in row order. -/
def State.dstPieces (s : State) (j : CopyJob) : List CopyPiece :=
  if j.desc.dst = 1 then
    (List.range j.desc.rows).flatMap (fun i => s.copyPieces j.task true (j.desc.rowBytes / 2 ^ 16 + 2) (j.desc.dstRow i) j.desc.rowBytes)
  else []

/-- Host reads a copy still lacks are asked for. -/
def State.askCopy (s : State) (r : CayRef) (j : CopyJob) : State :=
  (s.srcPieces r j).foldl (fun u p =>
    match p.place with
    | .host a =>
      if u.hostReads.any (fun h => h.owner == .copy (cayKey r) j.num && h.addr == a && h.len == p.len) then u
      else (u.askHost (u.task j.task).ctx (.copy (cayKey r) j.num) a p.len).1
    | _ => u) s

/-- The held host data of a copy. -/
def State.copyHost (s : State) (r : CayRef) (j : CopyJob) (a n : Nat) : Option (List (BitVec 8)) :=
  (s.hostReads.find? (fun h => h.owner == .copy (cayKey r) j.num && h.addr == a && h.len == n)).bind (fun h => h.data)

/-- CPY issues a copy (R137, R138, R180). -/
def issueCopy (s : State) (r : CayRef) (t : Nat) (th : Thread) (d : CopyDesc) (form : Bool) : State :=
  let c := s.cay r
  let e := s.copyCheck r th.task d form
  if e ≠ 0 then s.copyRefuse r th.task e St.copyRefused e
  else if 64 ≤ c.copies.length then s.blockThr r t (.queue 5) 2
  else
    let j : CopyJob := ⟨c.issue, t, th.task, d⟩
    let c1 := { c.setThr t th.next with issue := c.issue + 1, copies := c.copies ++ [j] }
    let s1 := (s.setCay r c1).askCopy r j
    if (s1.srcPieces r j).any (fun p => match p.place with | .tier _ _ => true | _ => false) then s1.bump .wgtStageMissCnt (s.task th.task).ctx
    else s1

/-- Copies before `upto` that name a counter of a mask and are not complete (R141). -/
def Cay.fenceBusy (c : Cay) (mask upto : Nat) : Bool :=
  c.copies.any (fun j => bit mask j.desc.fence && decide (j.num < upto))

/-- CFEN: a blocking fence stops its thread, a queued one the queue of its engine, until no earlier copy counts under its mask (R141, R180). -/
def issueFence (s : State) (r : CayRef) (t : Nat) (th : Thread) (f : CFields) : State :=
  let c := s.cay r
  let m := f.mask.toNat
  if 5 < f.engine.toNat then s.illegal th.task r
  else if (List.range 16).any (fun i => bit m i && !bit (s.task th.task).fences i) then s.failTask th.task St.copyRefused 5
  else if f.queued = 0 then
    (if c.fenceBusy m c.issue then (s.putThr r t th.next).blockThr r t (.fence m c.issue) 2 else s.putThr r t th.next)
  else
    let e := f.engine.toNat
    if !c.fenceBusy m c.issue then s.putThr r t th.next
    else if e < 5 ∧ 16 ≤ (c.queue e).length then s.blockThr r t (.queue e) 7
    else
      let c1 := { c.setThr t th.next with issue := c.issue + 1 }
      s.setCay r (c1.setQueue e (c1.queue e ++ [⟨c.issue, t, th.task, .fence m⟩]))

/-- The copy may proceed: no copy-unit fence stands before it, and under LS_ORDER no earlier local-store write of its thread is pending (R136, R141,
R177). -/
def State.copyMay (s : State) (r : CayRef) (j : CopyJob) : Bool :=
  let c := s.cay r
  !((c.queue 5).any (fun q => decide (q.num < j.num))) && !(s.task j.task).paused &&
    !(j.desc.lsOrder && (c.queued j.num).any (fun q => q.thread == j.thread && q.op.writes c.ls != []))

/-- What stops a piece: a fault, an aperture page, a layer that is not staged. -/
inductive PieceBad where
  | none
  | wait
  | fault (cause : Nat)
  | aperture
deriving DecidableEq, Repr

def Place.bad : Place → PieceBad
  | .hbm _ => .none
  | .host _ => .none
  | .aperture _ => .aperture
  | .tier _ _ => .wait
  | .fault c => .fault c

/-- Where each piece of a source comes from, as bytes; `none` where host data has not come. -/
def State.pieceBytes (s : State) (r : CayRef) (j : CopyJob) (p : CopyPiece) : Option (List (BitVec 8)) :=
  match p.place with
  | .hbm k => some (s.taskBytes r.island j.task k p.len)
  | .host a => s.copyHost r j a p.len
  | _ => none

/-- The bytes of a list of pieces, all or none. -/
def State.allBytes (s : State) (r : CayRef) (j : CopyJob) : List CopyPiece → Option (List (BitVec 8))
  | [] => some []
  | p :: ps =>
    match s.pieceBytes r j p, s.allBytes r j ps with
    | some a, some b => some (a ++ b)
    | _, _ => none

/-- The bytes a copy moves: its source rows in order, or the pattern of a fill over its destination. -/
def State.copyBytes (s : State) (r : CayRef) (j : CopyJob) : Option (List (BitVec 8)) :=
  let d := j.desc
  let c := s.cay r
  if d.kind = 3 then some ((List.range (d.rows * d.rowBytes)).map (fun i => BitVec.ofNat 8 (d.srcStride / 2 ^ (8 * (i % d.rowBytes % 4)))))
  else if d.src = 0 then some ((List.range d.rows).flatMap (fun i => c.lsRead (d.srcRow c i) d.rowBytes))
  else s.allBytes r j (s.srcPieces r j)

/-- Lines a copy reads are looked up, and installed where they missed and ALLOC or the destination asks for it (R136, R143). -/
def State.copyLines (s : State) (isl : Nat) (install : Bool) (ps : List CopyPiece) : State :=
  ps.foldl (fun u p =>
    match p.place with
    | .hbm k => (linesOf k p.len).foldl (fun v l => let h := v.lookup isl l; if !h.2 && install then h.1.cacheInstall isl l else h.1) u
    | _ => u) s

/-- The bytes of a copy written to its device virtual pieces in order. -/
def State.copyOut (s : State) (r : CayRef) (task : Nat) : List CopyPiece → List (BitVec 8) → State
  | [], _ => s
  | p :: ps, bs =>
    let b := bs.take p.len
    let s1 :=
      match p.place with
      | .hbm k => if (s.task task).spec then s.shadowWrite r.island task k b else s.hbmWrite (some r.island) k b
      | .host a => s.emit (.hostWrite (s.task task).ctx a b)
      | _ => s
    s1.copyOut r task ps (bs.drop p.len)

/-- The bytes of a copy written to its local-store rows in order. -/
def Cay.rowsIn (c : Cay) (d : CopyDesc) : List Nat → List (BitVec 8) → Cay
  | [], _ => c
  | i :: is, bs => (c.lsWrite (d.dstRow i) (bs.take d.rowBytes)).rowsIn d is (bs.drop d.rowBytes)

/-- A copy leaves the unit: its counter falls, and threads that waited for a place or for the counter become ready (R129, R140, R141). -/
def State.copyDone (s : State) (r : CayRef) (j : CopyJob) : State :=
  let c := s.cay r
  let c1 := { c with copies := c.copies.filter (fun x => x.num != j.num) }
  let c2 := c1.wakeIf (fun _ w =>
    match w with
    | .fence m u => !c1.fenceBusy m u
    | .queue e => e == 5
    | _ => false)
  let s1 := s.setCay r c2
  { s1 with hostReads := s1.hostReads.filter (fun h => h.owner != .copy (cayKey r) j.num) }

/-- The first piece of a copy that faults or is an aperture page. -/
def firstBad (ps : List CopyPiece) : Option CopyPiece :=
  ps.find? (fun p => match p.place.bad with | .fault _ => true | .aperture => true | _ => false)

/-- COPY_COMPLETE: the copy reads every source unit and performs its writes (R139, R140, R153, R154). -/
def completeCopy (s : State) (r : CayRef) (j : CopyJob) : State :=
  let sp := s.srcPieces r j
  let dp := s.dstPieces j
  let waits := (sp ++ dp).any (fun p => p.place.bad == .wait)
  if !s.copyMay r j ∨ waits ∨ (firstBad (sp ++ dp)).isSome then s
  else
    match sp.find? (fun p => match p.place with | .hbm k => s.poisoned k p.len | _ => false) with
    | some ⟨dva, _, .hbm k⟩ => s.poisonTask j.task dva k
    | _ =>
      let e := j.desc.extents (s.cay r)
      if j.desc.src = 0 ∧ j.desc.hasSrc ∧ lsTop < e.1.2 then s.copyRefuse r j.task 2 St.copyRefused 2
      else
        match s.copyBytes r j with
        | none => s.askCopy r j
        | some bs =>
          let lines := dp.flatMap (fun p => match p.place with | .hbm k => linesOf k p.len | _ => [])
          let spec := (s.task j.task).spec
          if spec && !s.shadowRoom r.island j.task lines then
            (if s.shadowOthers r.island j.task then s else s.specFail r.island j.task)
          else
            let s1 := (sp ++ dp).foldl (fun u p => u.useTier (s.task j.task).ctx p.dva) (s.copyLines r.island (j.desc.alloc || j.desc.dst == 2) sp)
            let s2 := if j.desc.dst = 0 then s1.setCay r ((s1.cay r).rowsIn j.desc (List.range j.desc.rows) bs) else s1.copyOut r j.task dp bs
            s2.copyDone r j

/-- COPY_PAGE_FAULT: the copy reaches a page it may not use, and its task ends (R138, R546). -/
def faultCopy (s : State) (r : CayRef) (j : CopyJob) : State :=
  if !s.copyMay r j then s
  else
    match firstBad (s.srcPieces r j ++ s.dstPieces j) with
    | none => s
    | some p =>
      match p.place.bad with
      | .aperture => s.illegal j.task r
      | .fault 4 =>
        let s1 := s.noteFault (s.task j.task).ctx 4 1 r.island p.dva
        s1.copyRefuse r j.task 7 St.specHost 0
      | .fault c =>
        let e := s.faultEnd (s.task j.task).ctx c 1 r.island p.dva
        e.1.copyRefuse r j.task 8 e.2.1 e.2.2
      | _ => s

end Sys2Proof.Machine
end

