-- ==== Sys2Proof/Machine/Scalar.lean ====
section
/-! DEFINITION. Scalar arithmetic, local-store access, control flow and thread control (R172 to R179). -/
namespace Sys2Proof.Machine

/-! ### Scalar arithmetic -/

/-- An S-format instruction: d := f a b (R178). -/
def aluS (r : CayRef) (x : SFields) (s : State) (f : W64 → W64 → W64) : Out :=
  issueRegs r (x.rsv == 0) [x.d, x.a, x.b] s (fun t th => s.putThr r t ((th.setReg x.d (f (th.reg x.a) (th.reg x.b))).next))

/-- An I-format instruction: d := f a IMM (R178). -/
def aluI (r : CayRef) (x : IFields) (s : State) (f : W64 → W64 → W64) : Out :=
  issueRegs r (x.rsv == 0) [x.d, x.a] s (fun t th => s.putThr r t ((th.setReg x.d (f (th.reg x.a) (x.imm.signExtend 64))).next))

/-- A shift count: bits [5:0] of a value. -/
def shiftOf (v : W64) : Nat := v.toNat % 64

def execAdd (c : CayRef) (f : SFields) (s : State) : Out := aluS c f s (fun a b => a + b)
def execSub (c : CayRef) (f : SFields) (s : State) : Out := aluS c f s (fun a b => a - b)
def execAnd (c : CayRef) (f : SFields) (s : State) : Out := aluS c f s (fun a b => a &&& b)
def execOr (c : CayRef) (f : SFields) (s : State) : Out := aluS c f s (fun a b => a ||| b)
def execXor (c : CayRef) (f : SFields) (s : State) : Out := aluS c f s (fun a b => a ^^^ b)
def execShl (c : CayRef) (f : SFields) (s : State) : Out := aluS c f s (fun a b => a <<< shiftOf b)
def execShr (c : CayRef) (f : SFields) (s : State) : Out := aluS c f s (fun a b => a >>> shiftOf b)
def execSar (c : CayRef) (f : SFields) (s : State) : Out := aluS c f s (fun a b => a.sshiftRight (shiftOf b))
def execMul (c : CayRef) (f : SFields) (s : State) : Out := aluS c f s (fun a b => a * b)
def execSlt (c : CayRef) (f : SFields) (s : State) : Out := aluS c f s (fun a b => if a.slt b then 1 else 0)
def execSltu (c : CayRef) (f : SFields) (s : State) : Out := aluS c f s (fun a b => if a.ult b then 1 else 0)
def execAddi (c : CayRef) (f : IFields) (s : State) : Out := aluI c f s (fun a i => a + i)
def execAndi (c : CayRef) (f : IFields) (s : State) : Out := aluI c f s (fun a i => a &&& i)
def execOri (c : CayRef) (f : IFields) (s : State) : Out := aluI c f s (fun a i => a ||| i)
def execShli (c : CayRef) (f : IFields) (s : State) : Out := aluI c f s (fun a i => a <<< shiftOf i)
def execShri (c : CayRef) (f : IFields) (s : State) : Out := aluI c f s (fun a i => a >>> shiftOf i)
def execLih (c : CayRef) (f : IFields) (s : State) : Out := aluI c f s (fun a i => (i <<< 32) + (a &&& 0xFFFFFFFF))

/-- What the cay keeps of a task bound on it. -/
def Cay.taskInfo (c : Cay) (task : Nat) : CayTask := (c.tasks.find? (fun x => x.task == task)).getD ⟨task, 0, 0, []⟩

/-- A special register (R174). The cycle count of index 9 is not fixed by the model, which keeps no cycles (log entry 18). -/
def special (s : State) (r : CayRef) (t : Nat) (th : Thread) (i : Nat) : Nat :=
  let x := s.task th.task
  match i with
  | 0 => t
  | 1 => ((s.cay r).taskInfo th.task).nthreads
  | 2 => r.cay
  | 3 => r.island
  | 4 => x.ctx
  | 5 => x.argsLs
  | 6 => x.step
  | 7 => x.seq
  | 8 => s.latency r 0 + 8 * s.latency r 1 + 64 * s.latency r 2 + 512 * s.latency r 3
  | 9 => s.freeVal 64
  | 10 => s.ptime
  | 11 => b2n x.spec
  | _ => 0

def execSrd (c : CayRef) (f : IFields) (s : State) : Out :=
  issueRegs c (f.rsv == 0) [f.d] s (fun t th =>
    let i := f.imm.toNat % 256
    let s1 := s.putThr c t ((th.setReg f.d (BitVec.ofNat 64 (special s c t th i))).next)
    if i = 9 then s1.took else s1)

/-! ### Local-store loads and stores -/

/-- d := `n` bytes of the local store, zero-extended (R178). -/
def loadLs (r : CayRef) (x : IFields) (s : State) (n : Nat) : Out :=
  issueRegs r (x.rsv == 0) [x.d, x.a] s (fun t th =>
    match s.lsScalar r.island (th.reg x.a).toNat x.imm.toInt n false with
    | none => s.failTask th.task St.layout 0
    | some a =>
      let c := s.cay r
      if c.pendingRange c.issue a n then s.blockThr r t .operand 0
      else s.putThr r t ((th.setReg x.d (BitVec.ofNat 64 (c.lsWord a n))).next))

/-- The low bytes of d into the local store (R178). -/
def storeLs (r : CayRef) (x : IFields) (s : State) (n : Nat) : Out :=
  issueRegs r (x.rsv == 0) [x.d, x.a] s (fun t th =>
    match s.lsScalar r.island (th.reg x.a).toNat x.imm.toInt n true with
    | none => s.failTask th.task St.layout 0
    | some a =>
      let c := s.cay r
      if c.pendingRange c.issue a n ∨ 32 ≤ c.pendingCount then s.blockThr r t .operand 0
      else s.setCay r ((c.lsWrite a (leBytes n (th.reg x.d).toNat)).setThr t th.next))

def execLd8 (c : CayRef) (f : IFields) (s : State) : Out := loadLs c f s 1
def execLd16 (c : CayRef) (f : IFields) (s : State) : Out := loadLs c f s 2
def execLd32 (c : CayRef) (f : IFields) (s : State) : Out := loadLs c f s 4
def execLd64 (c : CayRef) (f : IFields) (s : State) : Out := loadLs c f s 8
def execSt16 (c : CayRef) (f : IFields) (s : State) : Out := storeLs c f s 2
def execSt32 (c : CayRef) (f : IFields) (s : State) : Out := storeLs c f s 4
def execSt64 (c : CayRef) (f : IFields) (s : State) : Out := storeLs c f s 8

/-! ### Device-virtual loads and stores -/

/-- The device virtual address a + sext(IMM) (R178). -/
def dvAddr (th : Thread) (x : IFields) : Nat := (th.reg x.a + x.imm.signExtend 64).toNat

/-- d := `n` bytes of device virtual memory through the island cache (R178). -/
def loadDv (s : State) (r : CayRef) (x : IFields) (n t : Nat) (th : Thread) : State :=
  s.load r t th.task n [(0, dvAddr th x)] (fun es => .ldg x.d n (es.headD ⟨0, .hbm 0, 0⟩))

/-- The low bytes of d into device virtual memory (R178). -/
def storeDv (s : State) (r : CayRef) (x : IFields) (n t : Nat) (th : Thread) : State :=
  match s.storeElem r th.task (dvAddr th x) (leBytes n (th.reg x.d).toNat) with
  | .done u => u.putThr r t th.next
  | .ended u => u
  | .wait u w cause => u.blockThr r t w cause

def execLdg64 (c : CayRef) (f : IFields) (s : State) : Out :=
  issueRegs c (f.rsv == 0) [f.d, f.a] s (fun t th => loadDv s c f 8 t th)

def execStg64 (c : CayRef) (f : IFields) (s : State) : Out :=
  issueRegs c (f.rsv == 0) [f.d, f.a] s (fun t th => storeDv s c f 8 t th)

/-! ### Control flow -/

/-- The thread goes to a target; one outside the kernel's code is illegal (R171). -/
def jumpTo (s : State) (r : CayRef) (t : Nat) (th : Thread) (target : Int) : State :=
  if target < 0 ∨ (((s.cay r).taskInfo th.task).codeLen : Int) ≤ target ∨ target % 8 ≠ 0 then s.illegal th.task r
  else s.putThr r t { th with pc := target.toNat }

/-- A branch: an OFFSET that is no multiple of 8 is illegal whether or not it is taken (R171, R178). -/
def branch (r : CayRef) (x : BFields) (s : State) (p : W64 → W64 → Bool) : Out :=
  issueRegs r (x.rsv == 0) [x.a, x.b] s (fun t th =>
    if x.off.toNat % 8 ≠ 0 then s.illegal th.task r
    else if p (th.reg x.a) (th.reg x.b) then jumpTo s r t th ((th.pc : Int) + x.off.toInt)
    else s.putThr r t th.next)

def execBeq (c : CayRef) (f : BFields) (s : State) : Out := branch c f s (fun a b => a == b)
def execBne (c : CayRef) (f : BFields) (s : State) : Out := branch c f s (fun a b => a != b)
def execBlt (c : CayRef) (f : BFields) (s : State) : Out := branch c f s (fun a b => a.slt b)
def execBge (c : CayRef) (f : BFields) (s : State) : Out := branch c f s (fun a b => !a.slt b)
def execBltu (c : CayRef) (f : BFields) (s : State) : Out := branch c f s (fun a b => a.ult b)
def execBgeu (c : CayRef) (f : BFields) (s : State) : Out := branch c f s (fun a b => !a.ult b)

def execJal (c : CayRef) (f : IFields) (s : State) : Out :=
  issueRegs c (f.rsv == 0) [f.d] s (fun t th =>
    if f.imm.toNat % 8 ≠ 0 then s.illegal th.task c
    else jumpTo s c t (th.setReg f.d (BitVec.ofNat 64 (th.pc + 8))) ((th.pc : Int) + f.imm.toInt))

def execJr (c : CayRef) (f : SFields) (s : State) : Out :=
  issueRegs c (f.rsv == 0) [f.a] s (fun t th => jumpTo s c t th (th.reg f.a).toNat)

/-! ### Thread and task control -/

/-- The running thread becomes ready and the next ready thread runs (R128). -/
def Cay.switch (c : Cay) (t : Nat) : Cay := (c.setThr t { c.thr t with st := .ready }).schedule

def execTyld (c : CayRef) (f : SFields) (s : State) : Out :=
  issue c (f.rsv == 0) s (fun t th => let u := s.putThr c t th.next; u.setCay c ((u.cay c).switch t))

def execTbar (c : CayRef) (f : SFields) (s : State) : Out :=
  issue c (f.rsv == 0) s (fun t th =>
    let u := (s.putThr c t th.next).blockThr c t .bar 7
    u.setCay c ((u.cay c).releaseBar th.task))

/-- The key of a notification counter: those of a context in an island (R320). -/
def notifKey (isl ctx i : Nat) : Nat := isl * 1024 + ctx * 16 + i

def State.notif (s : State) (isl ctx i : Nat) : Nat := Tbl.get natZero s.notifs (notifKey isl ctx i)

def execNwait (c : CayRef) (f : IFields) (s : State) : Out :=
  issueRegs c (f.rsv == 0) [f.a] s (fun t th =>
    let n := f.imm.toNat % 16
    let a := (th.reg f.a).toNat
    if a ≤ s.notif c.island (s.task th.task).ctx n then s.putThr c t th.next
    else (s.putThr c t th.next).blockThr c t (.notif n a) 3)

/-- The issuing thread ends (R178); a barrier it was awaited at may release. -/
def endRunning (s : State) (r : CayRef) (t : Nat) (th : Thread) : State :=
  s.setCay r (((s.cay r).endThread t).releaseBar th.task)

def execTend (c : CayRef) (f : SFields) (s : State) : Out :=
  issue c (f.rsv == 0) s (fun t th => endRunning s c t th)

def execTdsc (c : CayRef) (f : SFields) (s : State) : Out :=
  issue c (f.rsv == 0) s (fun t th =>
    let x := s.task th.task
    if !x.spec then s.illegal th.task c
    else endRunning (s.setTask th.task { x with discard := true }) c t th)

def execTfail (c : CayRef) (f : IFields) (s : State) : Out :=
  issue c (f.rsv == 0) s (fun _ th => s.failTask th.task St.kernelFault (f.imm.toNat % 2 ^ 16))

/-! ### Copies and fences -/

def execCpy (c : CayRef) (f : CFields) (s : State) : Out :=
  issueRegs c (f.rsvHi == 0 && f.rsvMid == 0 && f.rsvLo == 0) [f.a] s (fun t th =>
    match s.lsOperand c.island (th.reg f.a).toNat 32 32 false with
    | none => s.failTask th.task St.layout 0
    | some a =>
      let y := s.cay c
      if y.pendingRange y.issue a 32 then s.blockThr c t .operand 0
      else let d := copyDesc (y.lsRead a 32); issueCopy s c t th d.1 d.2)

def execCfen (c : CayRef) (f : CFields) (s : State) : Out :=
  issue c (f.rsvHi == 0 && f.rsvMid == 0 && f.rsvLo == 0) s (fun t th => issueFence s c t th f)

/-! ### Matrix instructions: they enter their array's queue (R175, R181) -/

/-- An instruction for an array; in a gang, ARRAY other than 0 is refused (R103, R181). -/
def toArray (s : State) (r : CayRef) (t : Nat) (th : Thread) (a : BitVec 2) (op : EngOp) : State :=
  enqueue s r t th a.toNat op

def execMcfg (c : CayRef) (f : McfgFields) (s : State) : Out :=
  issue c (f.rsv == 0) s (fun t th => toArray s c t th f.array (.mcfg f))

def execMlds (c : CayRef) (f : MldsFields) (s : State) : Out :=
  issueRegs c (f.rsv == 0) [f.a] s (fun t th => toArray s c t th f.array (.mlds f (th.reg f.a).toNat))

def execMiss (c : CayRef) (f : MissFields) (gap : Nat) (s : State) : Out :=
  issueRegs c (f.rsv == 0) [f.a] s (fun t th =>
    if f.endb = 1 ∧ f.endg = 0 then s.illegal th.task c
    else toArray s c t th f.array (.miss f (th.reg f.a).toNat gap))

def execMseq (c : CayRef) (f : MseqFields) (s : State) : Out :=
  issueRegs c (f.rsv == 0) [f.a, f.b] s (fun t th => toArray s c t th f.array (.mseq f (th.reg f.a).toNat (th.reg f.b).toNat))

def execMfin (c : CayRef) (f : MfinFields) (s : State) : Out :=
  issue c (f.rsv == 0) s (fun t th => toArray s c t th f.array (.mfin f))

def execMdrn (c : CayRef) (f : MdrnFields) (s : State) : Out :=
  issueRegs c (f.rsv == 0) [f.d, f.a, f.b] s (fun t th =>
    toArray s c t th f.array (.mdrn f (th.reg f.d).toNat (th.reg f.a).toNat (th.reg f.b).toNat))

/-! ### Vector instructions -/

/-- Source formats of arithmetic (R192). -/
def arithSrc (f : Nat) : Bool := decide (f ≤ 6) || f == 9

/-- Result formats of arithmetic (R192). -/
def arithDst (f : Nat) : Bool := f == 5 || f == 6 || f == 9

/-- A format that holds every value of another exactly (R171). -/
def holdsAll (d s : Nat) : Bool := d == s || d == 9 || ((d == 5 || d == 6) && decide (s ≤ 4))

/-- The formats and modes of a vector instruction are among those R171 permits (log entry 19). -/
def vecLegal (op : VOp) (f : VFields) : Bool :=
  let sf := f.sfmt.toNat
  let df := f.dfmt.toNat
  match op with
  | .cvt =>
    let hasF := (fmtF sf).isSome || (fmtF df).isSome
    f.rmode != 3 && decide (sf ≤ 10) && decide (df ≤ 10) && (f.blk == 0 || hasF) && !(fmtUnsigned df && f.rmode != 0)
  | .ldg | .stg => decide (df ≤ 10) && !(fmtBits df == 4)
  | .mov => f.rmode == 0 && f.blk == 0 && arithSrc sf && arithDst df && holdsAll df sf
  | .sel => f.rmode == 0 && f.blk == 0 && arithSrc sf && arithDst df && holdsAll df sf
  | _ => f.rmode == 0 && f.blk == 0 && arithSrc sf && arithDst df

/-- The register values of a vector instruction. -/
def vecArgs (th : Thread) (f : VFields) : VArgs :=
  ⟨(th.reg f.d).toNat, (th.reg f.a).toNat, (th.reg f.b).toNat, (th.reg f.c).toNat, (th.reg f.k).toNat⟩

/-- A vector instruction enters the vector unit's queue (R175). -/
def vecIssue (r : CayRef) (f : VFields) (s : State) (op : VOp) : Out :=
  issueRegs r (f.rsv == 0) [f.d, f.a, f.b, f.c, f.k] s (fun t th =>
    if !vecLegal op f then s.illegal th.task r else enqueue s r t th 4 (.vec op f (vecArgs th f)))

def execVadd (c : CayRef) (f : VFields) (s : State) : Out := vecIssue c f s .add
def execVsub (c : CayRef) (f : VFields) (s : State) : Out := vecIssue c f s .sub
def execVmul (c : CayRef) (f : VFields) (s : State) : Out := vecIssue c f s .mul
def execVfma (c : CayRef) (f : VFields) (s : State) : Out := vecIssue c f s .fma
def execVmin (c : CayRef) (f : VFields) (s : State) : Out := vecIssue c f s .min
def execVmax (c : CayRef) (f : VFields) (s : State) : Out := vecIssue c f s .max
def execVabs (c : CayRef) (f : VFields) (s : State) : Out := vecIssue c f s .abs
def execVneg (c : CayRef) (f : VFields) (s : State) : Out := vecIssue c f s .neg
def execVscl (c : CayRef) (f : VFields) (s : State) : Out := vecIssue c f s .scl
def execVcmplt (c : CayRef) (f : VFields) (s : State) : Out := vecIssue c f s .cmplt
def execVcmpeq (c : CayRef) (f : VFields) (s : State) : Out := vecIssue c f s .cmpeq
def execVsel (c : CayRef) (f : VFields) (s : State) : Out := vecIssue c f s .sel
def execVmov (c : CayRef) (f : VFields) (s : State) : Out := vecIssue c f s .mov
def execVexp2 (c : CayRef) (f : VFields) (s : State) : Out := vecIssue c f s .exp2
def execVlog2 (c : CayRef) (f : VFields) (s : State) : Out := vecIssue c f s .log2
def execVrcp (c : CayRef) (f : VFields) (s : State) : Out := vecIssue c f s .rcp
def execVrsqrt (c : CayRef) (f : VFields) (s : State) : Out := vecIssue c f s .rsqrt
def execVsqrt (c : CayRef) (f : VFields) (s : State) : Out := vecIssue c f s .sqrt
def execVcvt (c : CayRef) (f : VFields) (s : State) : Out := vecIssue c f s .cvt
def execVrsum (c : CayRef) (f : VFields) (s : State) : Out := vecIssue c f s .rsum
def execVrmax (c : CayRef) (f : VFields) (s : State) : Out := vecIssue c f s .rmax
def execVstg (c : CayRef) (f : VFields) (s : State) : Out := vecIssue c f s .stg

/-- VLDG gathers once the vector unit has reached it; its thread blocks on a miss (R129, R192). -/
def execVldg (c : CayRef) (f : VFields) (s : State) : Out :=
  issueRegs c (f.rsv == 0) [f.d, f.a, f.b, f.k] s (fun t th =>
    if !vecLegal .ldg f then s.illegal th.task c
    else
      let x := vecArgs th f
      let y := s.cay c
      let df := f.dfmt.toNat
      match s.lsOperand c.island x.a 256 256 false, s.lsOperand c.island x.d (vecBytes df) (vecBytes df) true with
      | some pl, some pd =>
        if y.queue 4 ≠ [] ∨ y.pendingRange y.issue pl 256 ∨ y.pendingRange y.issue pd (vecBytes df) then s.blockThr c t .operand 0
        else s.load c t th.task (fmtBits df / 8) (gatherAddrs y f x pl) (fun es => .gather pd (fmtBits df / 8) es)
      | _, _ => s.failTask th.task St.layout 0)

end Sys2Proof.Machine
end

