-- ==== Sys2Proof/Machine/TaskOps.lean ====
section
/-! DEFINITION. Tasks: the task descriptor and the kernel container, placement, binding to a cay, the end of a task, its statistics and its shadowed
writes (R127 to R130, R134, R153 to R158, R179, R200, R201, R207, R299 to R301). -/
namespace Sys2Proof.Machine

/-! ### The descriptor (R207) -/

/-- The accumulator region of array `n`: base and size (R134, R207). -/
def descAcc (d : List (BitVec 8)) (n : Nat) : Nat × Nat :=
  let w := leAt d (0x24 + 4 * n) 4
  (bits w 21 0, (bits w 31 23 + 1) * 2048)

/-- The mask descriptor, where the task carries one (R110, R207). -/
def descMask (d : List (BitVec 8)) : Option MaskDesc :=
  let w := leAt d 0x34 4
  if bit w 23 then some ⟨bit w 22, bits w 21 0, leAt d 0x38 2 + 1, leAt d 0x3C 4⟩ else none

/-- A task from the 80 bytes of its descriptor, not yet placed. -/
def mkTask (d : List (BitVec 8)) (ctx stream seq : Nat) (o : Origin) (spec failInv : Bool) : Task :=
  { Task.reset with
    ctx := ctx, stream := stream, seq := seq, origin := o, spec := spec, failInv := failInv
    kernel := leAt d 0 6, args := leAt d 8 6, argsLs := bits (leAt d 0x10 4) 21 0, argsLen := leAt d 0x16 2
    caysM1 := bits (leAt d 0x14 2) 8 0, tclass := leAt d 0x1B 1, islands := leAt d 0x18 3, step := leAt d 0x1C 4
    fences := leAt d 0x22 2, accs := (List.range 4).map (descAcc d), mask := descMask d, st := .waiting }

/-- The descriptor's reserved fields are zero and its fields lie within their limits; checked at acceptance (R207, R211). -/
def descOk (d : List (BitVec 8)) : Bool :=
  leAt d 6 2 == 0 && leAt d 14 2 == 0 && leAt d 0 6 % 64 == 0 && bits (leAt d 0x10 4) 31 22 == 0 && leAt d 0x10 4 % 32 == 0 &&
    leAt d 0x16 2 % 32 == 0 && decide (leAt d 0x14 2 < 320) && decide (leAt d 0x1B 1 ≤ 5) && leAt d 0x20 2 == 0 &&
    (List.range 4).all (fun n => !bit (leAt d (0x24 + 4 * n) 4) 22) &&
    leAt d 0x37 1 == 0 && bits (leAt d 0x34 4) 31 24 == 0 && (!bit (leAt d 0x34 4) 23 || leAt d 0x1B 1 == 3) &&
    leAt d 0x3A 2 == 0 && (d.drop 0x40).all (fun b => b == 0)

/-! ### The container (R200, R201) -/

/-- The header of a kernel container, where R201 does not refuse it, with its shape code and array mask. -/
def kernelHdr (b : List (BitVec 8)) : Option (KHdr × Nat × Nat) :=
  let f (o n : Nat) := leAt b o n
  let h : KHdr := ⟨bit (f 6 2) 0, f 8 1, f 11 1, f 12 1, f 0x10 4, f 0x14 4, f 0x18 4, f 0x1C 4, f 0x20 4, f 0x24 4⟩
  let ok := f 0 4 == 0x4B594143 && f 4 2 == 1 && bits (f 6 2) 15 2 == 0 && (h.latency == 4 || h.latency == 5) && decide (f 9 1 ≤ 3) &&
    decide (f 10 1 < 16) && decide (1 ≤ h.threads) && decide (h.threads ≤ 8) && decide (h.fences ≤ 16) && f 13 3 == 0 &&
    h.codeOff % 8 == 0 && h.codeLen % 8 == 0 && decide (h.codeLen ≤ 65536) && h.dataLen % 32 == 0 && decide (h.dataLen ≤ 2 ^ 20) &&
    h.dataLs % 32 == 0 && h.entry % 8 == 0 && decide (h.entry < h.codeLen) && (b.drop 0x28).all (fun x => x == 0) &&
    decide (h.dataLs + h.dataLen ≤ lsTop) && (h.topUsed || h.dataLen == 0 || decide (h.dataLs + h.dataLen ≤ shadowBase))
  if ok then some (h, f 9 1, f 10 1) else none

/-- The arrays a task uses: those of its mask, or the whole gang (R101, R200). -/
def Task.arrays (x : Task) : List Nat := if x.shape = 0 then (List.range 4).filter (fun a => bit x.arrMask a) else [0, 1, 2, 3]

/-- The accumulator regions that count: ACC0 alone for a gang (R134). -/
def Task.regions (x : Task) : List (Nat × Nat) := if x.shape = 0 then x.arrays.map x.region else [x.region 0]

/-- No two of a list of ranges overlap. -/
def disjointAll : List (Nat × Nat) → Bool
  | [] => true
  | a :: as => as.all (fun b => !overlaps a.1 a.2 b.1 b.2) && disjointAll as

/-- The regions and the argument block keep to the local store, and out of the shadow region of an island that reserves it (R134, R135, R207). -/
def State.layoutOk (s : State) (x : Task) : Bool :=
  let isl := (List.range 24).filter (fun i => bit x.islands i)
  let inside (r : Nat × Nat) : Bool := decide (r.1 + r.2 ≤ lsTop) && (decide (r.1 + r.2 ≤ shadowBase) || r.2 == 0 || isl.all (fun i => !s.shadowOn i))
  x.regions.all (fun r => r.1 % 2048 == 0 && inside r) && disjointAll x.regions && inside (x.argsLs, x.argsLen)

/-- The latency a task's arrays have on a cay; the gang takes its largest member's (R102, R115). A disabled array fits no task (R114). -/
def State.cayFits (s : State) (x : Task) (r : CayRef) : Bool :=
  let as := x.arrays
  as.all (fun a => !s.arrDisabled r a) &&
    (if x.shape = 0 then as.all (fun a => s.latency r a == x.hdr.latency)
     else (as.map (s.latency r)).foldl max 0 == x.hdr.latency)

/-- Cays of an island that may run tasks (R12, R33). -/
def State.cayOn (s : State) (r : CayRef) : Bool := cayOk r && !bit (Tbl.get natZero s.fuse.caysOff r.island) r.cay

/-- Cays of an island that fit a task. -/
def State.fitting (s : State) (x : Task) (isl : Nat) : Nat :=
  ((List.range 320).filter (fun c => s.cayOn (CayRef.mk isl c) && s.cayFits x (CayRef.mk isl c))).length

/-- What placing a task answers. -/
inductive PlaceRes where
  | ok (s : State) (t : Nat)
  | fail (s : State) (status detail : Nat)
  | wait (s : State)
deriving DecidableEq, Repr

/-- The status, detail and state with which an agent's failed read of a kernel, argument block or program ends its work (R356, R479, R503). -/
def State.readEnd (s : State) (ctx agent isl : Nat) : DvaRead → State × Nat × Nat
  | .fault c dva => s.faultEnd ctx c agent isl dva
  | .poison dva k => s.poisonEnd ctx dva k
  | _ => (s, 0, 0)

/-- The dispatcher places a task: it reads and checks the container's header, the layout and the latency (R115, R134, R201, R207). -/
def State.placeTask (s : State) (x : Task) : PlaceRes :=
  let o := ReadOwner.op 1 s.taskNum
  match s.dvaRead x.ctx x.kernel 64 o false with
  | .wait u => .wait u
  | .ok b =>
    let s0 := s.dropReads o
    match kernelHdr b with
    | none => .fail s0 St.kernelRefused 0
    | some (h, sh, am) =>
      let y := { x with hdr := h, shape := sh, arrMask := am, order := s0.taskNum, execs := 1 }
      let isl := (List.range 24).filter (fun i => bit y.islands i)
      if !s0.layoutOk y then .fail s0 St.layout 0
      else
        match isl.find? (fun i => decide (s0.fitting y i < y.caysM1 + 1)) with
        | some i => .fail (s0.raise 0x10 i 2) St.latencyMismatch h.latency
        | none => .ok (({ s0 with taskNum := s0.taskNum + 1 } : State).setTask s0.taskNum y) s0.taskNum
  | d =>
    let e := (s.dropReads o).readEnd x.ctx 6 0 d
    .fail e.1 e.2.1 e.2.2

/-! ### Binding (R127, R130, R158, R201, R207) -/

/-- The island runs, has its profile applied and is not held (R451, R453, R465). -/
def State.islandReady (s : State) (i : Nat) : Bool :=
  s.fld .islStatState i == 0 && s.fld .islStatReady i == 1 && s.fld .islStatHold i == 0

/-- Cays of a list that lie in an island. -/
def inIsland (i : Nat) (ks : List Nat) : List Nat := ks.filter (fun k => (cayOfKey k).island == i)

/-- The threads of a cay that are free. -/
def Cay.freeThreads (c : Cay) : List Nat := (List.range 8).filter (fun t => !(c.thr t).bound)

/-- The speculative tasks of an island neither committed nor discarded (R154). -/
def State.specOpen (s : State) (i : Nat) : List Nat :=
  (s.tasks.filter (fun k => k.2.spec && !k.2.applied && !(inIsland i k.2.bound).isEmpty)).map (fun k => k.1)

/-- A task may be bound to a cay now. -/
def State.mayBind (s : State) (r : CayRef) (t : Nat) : Bool :=
  let x := s.task t
  let c := s.cay r
  let others := c.tasks.map (fun k => s.task k.task)
  x.st != .ended && x.status == 0 && !x.paused && !s.pw.paused.contains x.ctx && s.cayOn r && bit x.islands r.island && s.islandReady r.island && x.served.contains r.island &&
    !(x.bound.contains (cayKey r)) && decide ((inIsland r.island x.bound).length < x.caysM1 + 1) && s.cayFits x r &&
    decide (x.hdr.threads ≤ c.freeThreads.length) &&
    others.all (fun y => y.ctx == x.ctx && y.fences &&& x.fences == 0 && y.kernel == x.kernel &&
      x.regions.all (fun a => y.regions.all (fun b => !overlaps a.1 a.2 b.1 b.2))) &&
    x.arrays.all (fun a => (c.arr a).task.isNone) &&
    (!x.spec || decide (((s.specOpen r.island).filter (fun k => k != t)).length < 32)) && !(x.hdr.topUsed && s.shadowOn r.island)

/-- An array is given to a task: its flags, capture, statistics and combine stack start afresh (R85, R299); its banks keep their contents (R157). -/
def Arr.take (z : Arr) (t : Nat) : Arr :=
  { z with task := some t, cfg := none, marks := [], groups := [], blocks := [], stack := [], stats := [], chan := [], invalid := false, clk := ArrClock.reset }

/-- The bytes of the mask buffer: one bit for each row, or each 16 rows (R110). -/
def maskBytes (m : MaskDesc) : Nat := ceilDiv (if m.blocks then ceilDiv m.rows 16 else m.rows) 8

/-- A task bound to a cay, its kernel's code and constants and its argument block in hand. -/
def State.bindCay (s : State) (r : CayRef) (t : Nat) (code data args : List (BitVec 8)) : State :=
  let x := s.task t
  let c0 := s.cay r
  let zero := c0.lastCtx != some x.ctx
  let s0 := if zero then s.bump .cayLsZeroCnt r.island 1 (1 + r.cay) else s
  let c1 := if zero then { c0 with ls := [] } else c0
  let c2 := (c1.lsWrite x.hdr.dataLs data).lsWrite x.argsLs args
  let buf := match x.mask with | some m => c2.lsRead m.addr (maskBytes m) | none => []
  let c3 : Cay := { c2 with
    lastCtx := some x.ctx, istore := code, kernel := some (x.ctx, x.kernel), vecInvalid := false
    clock := if c2.clock = 0 then 1 else c2.clock
    tasks := c2.tasks ++ [CayTask.mk t x.hdr.threads x.hdr.codeLen buf] }
  let c4 := (c3.freeThreads.take x.hdr.threads).foldl (fun y i => y.setThr i { Thread.reset with bound := true, task := t, st := .ready, pc := x.hdr.entry }) c3
  let c5 := x.arrays.foldl (fun y a => y.setArr a ((y.arr a).take t)) c4
  let s1 := s0.setCay r (if c5.clock = 2 then c5.schedule else c5)
  let s2 := x.arrays.foldl (fun u a =>
    (((u.setFld .arrCaptCause 0 r.island (arrUnit r a)).setFld .arrCaptRow 0 r.island (arrUnit r a)).setFld .arrCaptCol 0 r.island (arrUnit r a)).setFld
      .arrCaptKidx 0 r.island (arrUnit r a)) s1
  let s3 : State := { s2 with mems := Tbl.upd memDef s2.mems r.island (fun m => { m with tested := false }) }
  s3.setTask t { x with st := .running, bound := x.bound ++ [cayKey r], live := x.live ++ [cayKey r] }

/-- TASK_BIND: the code, constants and arguments are read, and the task is bound; a failed read ends it. -/
def State.bindTask (s : State) (r : CayRef) (t : Nat) : State :=
  if !s.mayBind r t then s
  else
    let x := s.task t
    let o := ReadOwner.op 2 (t * 8192 + cayKey r)
    let fail (d : DvaRead) : State := let e := (s.dropReads o).readEnd x.ctx 0 r.island d; e.1.failTask t e.2.1 e.2.2
    match s.dvaRead x.ctx (x.kernel + x.hdr.codeOff) x.hdr.codeLen o false with
    | .wait u => u
    | .ok code =>
      match s.dvaRead x.ctx (x.kernel + x.hdr.dataOff) x.hdr.dataLen o false with
      | .wait u => u
      | .ok data =>
        match s.dvaRead x.ctx x.args x.argsLen o false with
        | .wait u => u
        | .ok args => (s.dropReads o).bindCay r t code data args
        | d => fail d
      | d => fail d
    | d => fail d

/-! ### The end of a task (R179) -/

/-- Nothing of the task is left on a cay: no thread, queued entry or copy. -/
def Cay.clearOf (c : Cay) (t : Nat) : Bool :=
  (List.range 8).all (fun i => !((c.thr i).bound && (c.thr i).task == t)) && (List.range 6).all (fun e => (c.queue e).all (fun q => q.task != t)) &&
    c.copies.all (fun j => j.task != t)

/-- Cays the task is to run on. -/
def Task.places (x : Task) : Nat := ((List.range 24).filter (fun i => bit x.islands i)).length * (x.caysM1 + 1)

/-- A table of sums with one more entry added in. -/
def addSum (l : List TagSum) (k : Nat) (v : StatSum) : List TagSum :=
  if l.any (fun e => e.tag == k) then
    l.map (fun e => if e.tag = k then ⟨k, e.sqerr + v.sqerr, e.count + v.count, satAdd32 e.sat v.sat, satAdd32 e.zruns v.zruns⟩ else e)
  else l ++ [⟨k, v.sqerr, v.count, v.sat, v.zruns⟩]

/-- The statistics a task's arrays on a cay gathered, added to the task's (R300, R301). -/
def Task.gather (x : Task) (c : Cay) (t : Nat) : Task :=
  (List.range 4).foldl (fun y a =>
    if (c.arr a).task = some t then
      { y with sums := (c.arr a).stats.foldl (fun l e => addSum l e.1 e.2) y.sums, chans := (c.arr a).chan.foldl (fun l e => addSum l e.1 e.2) y.chans }
    else y) x

/-- The task leaves a cay: its arrays' configurations end with it (R102). -/
def Cay.release (c : Cay) (t : Nat) : Cay :=
  let c1 := (List.range 4).foldl (fun y a => if (y.arr a).task = some t then y.setArr a { y.arr a with task := none, cfg := none } else y) c
  { c1 with tasks := c1.tasks.filter (fun k => k.task != t) }

/-- TASK_END takes place: every thread has ended and all queued work and copies are complete, everywhere, or the task has failed (R179). -/
def State.mayEnd (s : State) (t : Nat) : Bool :=
  let x := s.task t
  x.st != .ended && (x.status != 0 || x.bound.length == x.places) && x.live.all (fun k => (s.cay (cayOfKey k)).clearOf t)

/-- A speculative task marked for discard ends with "discarded" (R217). -/
def Task.finish (x : Task) : Task := { x with st := .ended, live := [], status := if x.status = 0 ∧ x.discard then St.discarded else x.status }

/-- The check of a task's conversion statistics against limits (R302): bit 31 of the detail for the saturation limit, bit 30 for the error
limit, or 0 (R306). -/
def quantCheck (limits : Nat × Nat) (x : Task) : Nat :=
  let sq := (x.sums.map (fun e => e.sqerr)).sum
  let n := (x.sums.map (fun e => e.count)).sum
  (if limits.1 < x.sat then 2 ^ 31 else 0) + (if n * limits.2 < sq then 2 ^ 30 else 0)

/-- A context's limits as they stand. -/
def State.quantLimits (s : State) (ctx : Nat) : Nat × Nat := (s.fld .qntSatLimit ctx, s.fld .qntErrLimit ctx)

/-- A speculative task of a stream that exceeds the limits where STREAM_CHECK asks for it ends with "calibration exceeded" (R305). -/
def State.streamCheck (s : State) (x : Task) : Task :=
  let d := quantCheck (s.quantLimits x.ctx) x
  if x.spec ∧ x.origin = .record ∧ x.status = 0 ∧ s.fld .qntCtlStreamCheck x.ctx = 1 ∧ s.fld .qntCtlForce x.ctx = 0 ∧ d ≠ 0 then
    { x with status := St.calibration, detail := d }
  else x

/-- The task ends and reaches its commit point; a record's entry reaches it with it (R216). -/
def State.endTask (s : State) (t : Nat) : State :=
  if !s.mayEnd t then s
  else
    let x := s.task t
    let y := x.live.foldl (fun y k => y.gather (s.cay (cayOfKey k)) t) x
    let s1 := x.live.foldl (fun u k => u.setCay (cayOfKey k) ((u.cay (cayOfKey k)).release t)) s
    let z := s.streamCheck y.finish
    let s2 := s1.setTask t z
    match z.origin with
    | .record =>
      let s3 := s2.modEntry z.ctx z.stream z.seq (fun e => { e with invalid := e.invalid || (z.invalid && z.status == 0), sat := e.sat || z.sat != 0 })
      s3.reach z.ctx z.stream z.seq z.status z.detail
    | _ => s2

/-! ### Statistics at a task's commit (R300, R301) -/

/-- A value written through a context's translation by a harbour die; a fault is counted and nothing is written (log entry 21). -/
def State.dieWrite (s : State) (ctx dva : Nat) (bs : List (BitVec 8)) : State :=
  match s.writeDva ctx dva bs with
  | .ok u => u
  | .error e => s.noteFault ctx e.1 6 0 e.2

/-- The statistics entry of one tag (R300). -/
def State.commitTag (s : State) (ctx step : Nat) (e : TagSum) : State :=
  let a := s.fld64 .qntStatsBaseLoBase .qntStatsBaseHiBase ctx + 32 * (e.tag % 4096)
  match s.readDva ctx a 32 with
  | .error f => s.noteFault ctx f.1 6 0 f.2
  | .ok old =>
    let tag := leAt old 0x18 4
    let stp := leAt old 0x1C 4
    let same := tag == e.tag && stp == step
    let sq := if same then leAt old 0 8 else 0
    let cn := if same then leAt old 8 8 else 0
    let sa := if same then leAt old 16 4 else 0
    let zr := if same then leAt old 20 4 else 0
    let s1 := s.dieWrite ctx a (leBytes 8 (sq + e.sqerr) ++ leBytes 8 (cn + e.count) ++ leBytes 4 (satAdd32 sa e.sat) ++ leBytes 4 (satAdd32 zr e.zruns) ++
      leBytes 4 e.tag ++ leBytes 4 step)
    if !same ∧ stp = step ∧ tag ≠ e.tag then (s1.bump .qntStatCollide ctx).raise 0x24 ctx 2 else s1

/-- The statistics entry of one channel (R301). -/
def State.commitChan (s : State) (ctx : Nat) (e : TagSum) : State :=
  let a := s.fld64 .qntChanBaseLoBase .qntChanBaseHiBase ctx + 16 * e.tag
  match s.readDva ctx a 16 with
  | .error f => s.noteFault ctx f.1 6 0 f.2
  | .ok old =>
    s.dieWrite ctx a (leBytes 8 (leAt old 0 8 + e.sqerr) ++ leBytes 4 (satAdd32 (leAt old 8 4) e.count) ++ leBytes 4 (satAdd32 (leAt old 12 4) e.sat))

/-- A task's statistics at its commit; a discarded task writes none. -/
def State.commitStats (s : State) (x : Task) : State :=
  x.chans.foldl (fun u e => u.commitChan x.ctx e) (x.sums.foldl (fun u e => u.commitTag x.ctx x.step e) s)

/-! ### Speculative tasks at their commit (R155, R156) -/

/-- A task's shadowed writes become visible as a whole, on every island (R155). -/
def State.specCommit (s : State) (t : Nat) : State :=
  let s1 := (List.range 24).foldl (fun u i => u.shadowCommit i t) s
  s1.setTask t { s1.task t with applied := true }

/-- A task's shadowed writes vanish (R156). -/
def State.specDiscard (s : State) (t : Nat) : State :=
  let s1 := (List.range 24).foldl (fun u i => u.shadowDrop i t) s
  s1.setTask t { s1.task t with applied := true }

/-- A task that has ended commits: shadowed writes and statistics, or nothing of either where it failed or was discarded (R217, R300). -/
def State.settle (s : State) (t : Nat) (commit : Bool) : State :=
  let x := s.task t
  if x.applied then s
  else if commit && x.status == 0 then (s.specCommit t).commitStats x else s.specDiscard t

/-- A task is forgotten once its outcome is fixed. -/
def State.dropTaskRec (s : State) (t : Nat) : State := { s with tasks := Tbl.set taskDef s.tasks t Task.reset }

end Sys2Proof.Machine
end

