-- ==== Sys2Proof/Machine/CayEvents.lean ====
section
/-! DEFINITION. What happens at a cay and an island cache beside its instructions: scheduling, bindings and ends, fills and prefetches, copies, the shadow path and speculative
tasks (R128, R129, R140 to R158). -/
namespace Sys2Proof.Machine

/-- R128: a thread that has issued for 512 cycles gives way while another is ready. -/
def execThreadSwitchQuantum (c : CayRef) (s : State) : Out :=
  let y := s.cay c
  match y.running with
  | none => .next s
  | some t => when ((List.range 8).any (fun i => (y.thr i).bound && (y.thr i).st == .ready)) (s.setCay c (y.switch t)) s

/-- R129: the last line of a blocked thread's access has come. -/
def execThreadMissReturn (c : CayRef) (thread : Nat) (s : State) : Out := .next (s.loadReturn c thread)

def execTaskBind (c : CayRef) (task : Nat) (s : State) : Out := .next (s.bindTask c task)

def execTaskEnd (task : Nat) (s : State) : Out := .next (s.endTask task)

/-- R157: nothing bound, held, in flight, pending or accessed. -/
def Cay.idle (c : Cay) : Bool :=
  (List.range 8).all (fun t => !(c.thr t).bound) && c.copies.isEmpty && c.entries == 0 && c.shadow.isNone

def execCayClockGate (c : CayRef) (s : State) : Out :=
  let y := s.cay c
  when (y.clock == 2 && y.idle) (s.setCay c { y with clock := 0 }) s

/-- R158: a binding ungates the sequencer, which is counted; a mesh access ungates only the local store and its port. -/
def execCayUngate (c : CayRef) (mesh : Bool) (s : State) : Out :=
  let y := s.cay c
  when (!mesh && y.clock == 1) ((s.bump .cayWakeCnt c.island 1 (1 + c.cay)).setCay c ({ y with clock := 2 }.schedule)) s

/-- The array on which a selected block sum is recomputed: the next enabled one after its own (R118). -/
def State.shadowArray (s : State) (r : CayRef) (a : Nat) : Option Nat :=
  ([(a + 1) % 4, (a + 2) % 4, (a + 3) % 4]).find? (fun b => !s.arrDisabled r b)

def execShadowRecompute (c : CayRef) (s : State) : Out :=
  match (s.cay c).shadow with
  | none => .next s
  | some sel =>
    match s.shadowArray c sel.array with
    | none => .next s
    | some b => when (((s.cay c).arr b).task.isNone) (shadowCompare s c sel) s

/-- R119: a selection whose recomputation has not started in time is not taken. -/
def execShadowSelectExpiry (c : CayRef) (s : State) : Out :=
  when ((s.cay c).shadow.isSome) ((s.setCay c { s.cay c with shadow := none }).bump .shadowSkip c.island) s

/-! ### Copies and fences -/

/-- The held copy of a number. -/
def Cay.copyJob (c : Cay) (num : Nat) : Option CopyJob := c.copies.find? (fun j => j.num == num)

def execCopyComplete (c : CayRef) (copy : Nat) (s : State) : Out :=
  match (s.cay c).copyJob copy with
  | none => .next s
  | some j => .next (completeCopy s c j)

def execCopyPageFault (c : CayRef) (copy : Nat) (s : State) : Out :=
  match (s.cay c).copyJob copy with
  | none => .next s
  | some j => .next (faultCopy s c j)

/-- R141: a queued fence at the head of its engine's queue completes once no earlier copy counts under its mask. -/
def execQueuedFenceComplete (c : CayRef) (engine : Nat) (s : State) : Out :=
  let y := s.cay c
  match y.queue engine with
  | ⟨n, _, _, .fence m⟩ :: rest => when (!y.fenceBusy m n) ((s.setCay c ((y.setQueue engine rest).wakeOperands)).pump c) s
  | _ => .next s

/-! ### Fills and prefetches -/

/-- Threads of an island's cays whose wait a predicate recognises become ready. -/
def State.wakeIsland (s : State) (isl : Nat) (p : Wait → Bool) : State :=
  { s with cays := Tbl.mapVals cayDef (fun k c => if k / 320 = isl then c.wakeIf (fun _ w => p w) else c) s.cays }

/-- A waiting load receives a line. -/
def Wait.receive (w : Wait) (l : Nat) (bs : List (BitVec 8)) : Wait :=
  match w with
  | .miss need got op => if need.contains l then .miss (need.filter (fun x => x != l)) (got ++ [(l, bs)]) op else w
  | _ => w

/-- A line is handed to the threads that wait for it. -/
def State.handLine (s : State) (isl l : Nat) (bs : List (BitVec 8)) (ws : List (Nat × Nat)) : State :=
  ws.foldl (fun u w =>
    let r : CayRef := ⟨isl, w.1⟩
    let th := (u.cay r).thr w.2
    u.putThr r w.2 { th with wait := th.wait.receive l bs }) s

/-- R147: a demand fetch installs its line and serves its threads, or is made again where its line was invalidated in flight. -/
def execIslandCacheFill (island line : Nat) (s : State) : Out :=
  let c := s.ic island
  match c.fetches.find? (fun f => f.line == line && f.demand) with
  | none => .next s
  | some f =>
    if f.stale then
      .next (s.setIc island { c with fetches := c.fetches.map (fun g => if g.line = line then { g with stale := false } else g) })
    else
      let s1 := (s.setIc island { c with fetches := c.fetches.filter (fun g => g.line != line) }).cacheInstall island line
      .next ((s1.handLine island line (s.hbmBytes (line * 128) 128) f.waiters).wakeIsland island (fun w => w == .missFull))

/-- The tracker stops; it must train again (R148). -/
def Tracker.halt (t : Tracker) : Tracker := { t with stride := none, recent := [], stopped := true }

/-- R148 to R150: the next line of a trained tracker's stride is fetched, within RA_DEPTH of its latest access and within the pages it may enter. -/
def execRunAheadFetch (island tracker : Nat) (s : State) : Out :=
  let c := s.ic island
  match c.trackers[tracker]? with
  | none => .next s
  | some t =>
    match t.stride with
    | none => .next s
    | some d =>
      let ahead : Int := ((t.next : Int) - t.latest) / d
      if s.fld .icCtlPfEn island = 0 ∨ (s.fld .icCtlRaDepth island : Int) < ahead then .next s
      else
        let put (u : State) (x : Tracker) : State := u.setIc island { u.ic island with trackers := setAt (u.ic island).trackers tracker x }
        let w := s.walk t.ctx t.next
        let v := s.walk t.ctx t.latest
        let same := t.next + w.left == t.latest + v.left
        match w.dest with
        | .fault _ => .next (put (s.bump .icRaFault island) t.halt)
        | .host _ => .next (put (s.bump .icRaStop island) t.halt)
        | .aperture _ => .next (put (s.bump .icRaStop island) t.halt)
        | .hbm k =>
          if w.suspect || (!same && !w.pf) then .next (put (s.bump .icRaStop island) t.halt)
          else
            let nx : Int := (t.next : Int) + d
            let t1 := if nx < 0 then t.halt else { t with next := nx.toNat }
            let l := lineOf k
            if c.lines.contains l || c.buffer.contains l || c.fetches.any (fun f => f.line == l) then .next (put s t1)
            else .next ((put (s.setIc island { c with fetches := c.fetches ++ [⟨l, false, false, []⟩] }) t1).bump .icPfIssued island)

/-- R147: a prefetched line enters the buffer of 256 lines, or is dropped where it was invalidated in flight. -/
def execPrefetchArrival (island line : Nat) (s : State) : Out :=
  let c := s.ic island
  match c.fetches.find? (fun f => f.line == line && !f.demand) with
  | none => .next s
  | some f =>
    let c1 := { c with fetches := c.fetches.filter (fun g => g.line != line) }
    if f.stale then .next ((s.setIc island c1).bump .icPfCancel island)
    else if c1.buffer.length < 256 then .next (s.setIc island { c1 with buffer := c1.buffer ++ [line] })
    else
      let v := c1.buffer.getD (s.freeVal 8 % 256) line
      .next (s.took.setIc island { c1 with buffer := c1.buffer.filter (fun x => x != v) ++ [line] })

/-- R144, R145: a write performed at the HBM controllers. `writer` is the writing island, or 24 and above for any other agent. -/
def execHbmWriteInvalidate (writer addr : Nat) (data : List (BitVec 8)) (s : State) : Out :=
  if !data.isEmpty && !(hbmExists addr && hbmExists (addr + data.length - 1) && stackOf addr == stackOf (addr + data.length - 1)) then .fault .addressAbsent
  else .next (s.hbmWrite (if writer < 24 then some writer else none) addr data)

/-! ### Speculative tasks -/

/-- A task is taken off every cay and made to run again from its inputs (R154, R156, R234). -/
def State.requeueTask (s : State) (t : Nat) : State :=
  let x := s.task t
  let s1 := x.live.foldl (fun u k => u.setCay (cayOfKey k) (((u.cay (cayOfKey k)).dropTask t).release t)) s
  let s2 := (List.range 24).foldl (fun u i => u.shadowDrop i t) s1
  let s3 := s2.setTask t { x with
    bound := [], live := [], served := [], st := .waiting, status := 0, detail := 0, discard := false, invalid := false, sat := 0, execs := x.execs + 1
    sums := [], chans := [] }
  match x.origin with
  | .record => s3.modEntry x.ctx x.stream x.seq (fun e => { e with replays := e.replays + 1 })
  | _ => s3

/-- A task waits for shadow capacity in an island: a thread, the vector unit's head, or a copy (R154). -/
def State.wantsShadow (s : State) (isl t : Nat) : Bool :=
  (inIsland isl (s.task t).live).any (fun k =>
    let r := cayOfKey k
    let c := s.cay r
    (List.range 8).any (fun i => (c.thr i).bound && (c.thr i).task == t && (c.thr i).wait == .shadow) ||
      (match c.queue 4 with | ⟨_, _, u, .vec .stg _ _⟩ :: _ => u == t | _ => false) ||
      c.copies.any (fun j => j.task == t &&
        !s.shadowRoom isl t ((s.dstPieces j).flatMap (fun p => match p.place with | .hbm a => linesOf a p.len | _ => []))))

/-- The speculative task admitted last among the others that hold shadowed lines in an island (R154). -/
def State.lastHolder (s : State) (isl t : Nat) : Option Nat :=
  (((s.ic isl).shadow.map (fun x => x.task)).filter (fun u => u != t)).foldl (fun m u =>
    match m with
    | none => some u
    | some v => if (s.task v).order < (s.task u).order then some u else some v) none

/-- R154: a writer without shadow space makes the island discard and requeue the task admitted last, and goes on. -/
def execSpeculativeRequeue (island writer : Nat) (s : State) : Out :=
  match s.lastHolder island writer with
  | none => .next s
  | some v =>
    if !((s.task writer).spec && s.wantsShadow island writer) then .next s
    else
      let s1 := (s.requeueTask v).bump .icSpecRequeue island
      let s2 := s1.wakeIsland island (fun w => w == .shadow)
      .next ((inIsland island (s2.task writer).live).foldl (fun u k => u.pump (cayOfKey k)) s2)

/-- A record's factor is calibrated when it commits with success, was estimated, has a class and ran once (R459). -/
def State.calibrate (s : State) (ctx cls est energy : Nat) (once : Bool) : State :=
  if cls = 0 ∨ est = 0 ∨ !once then s
  else
    let r := min (max (256 * energy / (1000 * est)) 0x10) 0x1000
    let f := s.fld .engCalFactor ctx (1 + cls)
    s.setFld .engCalFactor ((15 * f + r + 8) / 16) ctx (1 + cls)

/-- The tasks of a record. -/
def State.recordTasks (s : State) (e : Entry) : List Nat :=
  (s.tasks.filter (fun k => k.2.origin == .record && k.2.ctx == e.ctx && k.2.stream == e.stream && k.2.seq == e.seq)).map (fun k => k.1)

/-- A record commits: its commit entry becomes durable with its outcome, its speculative writes become visible or vanish, and its stream's DONE
moves (R217, R230, R237). -/
def State.commitRecord (s : State) (e : Entry) (status detail : Nat) : State :=
  let e1 := { e with st := .committed, status := status, detail := detail, tCommit := s.ptime, durable := true, point := some (status, detail) }
  let s1 := (s.modEntry e.ctx e.stream e.seq (fun _ => e1)).journal e1
  let s2 := (s.recordTasks e).foldl (fun u t => (u.settle t (status == 0)).dropTaskRec t) s1
  let s3 := (s2.put64 .lwDoneLo .lwDoneHi e.seq (lwInst e.ctx e.stream)).dropUnit (.record e.ctx e.stream e.seq)
  if status = 0 then s3.calibrate e.ctx e.eclass e.est e.energy (e.replays == 0) else s3

/-- The record of a task. -/
def State.taskEntry (s : State) (t : Nat) : Option Entry := let x := s.task t; s.entry x.ctx x.stream x.seq

/-- R155, R216: the transaction unit commits a speculative task that has ended with success: an ungrouped record's task with its record, a task of a stage run
on its own once it has passed its check (R302). -/
def execSpeculativeCommit (task : Nat) (s : State) : Out :=
  let x := s.task task
  if !x.spec ∨ x.st ≠ .ended ∨ x.status ≠ 0 ∨ x.applied then .next s
  else
    match x.origin with
    | .record =>
      match s.taskEntry task with
      | none => .next s
      | some e => when (!e.done && e.grp.isNone && e.point == some (0, 0) && s.earlierDone e) (s.commitRecord e 0 0) s
    | .stage _ _ => when (s.runs.any (fun r => r.task == some task && r.checked)) (s.settle task true) s
    | .serving _ => .next (s.settle task true)

/-- R156, R217: a speculative task that failed, was marked for discard, or whose group aborted, has its shadowed lines freed. -/
def execSpeculativeDiscard (task : Nat) (s : State) : Out :=
  let x := s.task task
  let aborted :=
    match s.taskEntry task with
    | none => false
    | some e => s.groups.any (fun g => e.grp == some g.num && g.decision == some false)
  when (x.spec && x.st == .ended && !x.applied && (x.status != 0 || aborted)) (s.settle task false) s

end Sys2Proof.Machine
end

