-- ==== Sys2Proof/Machine/RecordForm.lean ====
section
/-! DEFINITION. What a record must look like to be accepted: its header, its body, and what its context may send (R205 to R211, R223, R458). -/
namespace Sys2Proof.Machine

/-- Bytes [lo, hi) of a record are zero. -/
def Entry.zero (e : Entry) (lo hi : Nat) : Bool := ((e.raw.drop lo).take (hi - lo)).all (fun b => b == 0)

/-- An entry of a landing window's bytes, as it is kept when accepted (R229). -/
def mkEntry (c q : Nat) (raw : List (BitVec 8)) (now slot : Nat) (owed : List (Nat × Nat)) : Entry :=
  { ctx := c, stream := q, seq := leAt raw 0 8, raw := raw, st := .accepted, slot := slot, update := 0, durable := false, owed := owed,
    admitted := false, begun := false, point := none, status := 0, detail := 0, invalid := false, sat := false, energy := 0, replays := 0,
    tAccept := now, tCommit := 0, waited := false, written := false, rises := 0, since := now, grp := none, rew := false }

/-- The header's reserved bits, its group fields, its class and its dependencies (R205, R211, R458). -/
def Entry.headOk (e : Entry) : Bool :=
  let w := e.u 8 4
  bits w 17 16 == 0 && bits w 13 12 == 0 && bits w 1 0 == 0 && e.zero 0x14 0x17 && decide (e.eclass < 0xFD) &&
    (e.grouped == (e.gid != 0)) && e.deps.all (fun d => !(d.1 == e.stream && decide (e.seq < d.2)))

/-! ### Bodies -/

/-- A copy record: the descriptor's reserved bits, its fixed fields and the island (R136, R208). -/
def Entry.copyForm (e : Entry) : Bool :=
  let w0 := e.u 0x30 4
  let k := bits w0 31 28
  bits w0 17 0 == 0 && bits (e.u 0x34 4) 31 23 == 0 && e.u 0x4E 2 == 0 && decide (k ≤ 3) && bits w0 27 26 == 1 &&
    (bits w0 25 24 == 1 || bits w0 25 24 == 2) && bits w0 23 20 == 0 && (k != 2 || bits (e.u 0x38 4) 31 22 == 0) &&
    decide (e.u 0x50 4 < 24) && e.zero 0x54 0x80

/-- A group-close record (R209). -/
def Entry.closeForm (e : Entry) : Bool :=
  e.u 0x30 4 != 0 && decide (1 ≤ e.u 0x34 4) && decide (e.u 0x34 4 ≤ 256) && decide (e.u 0x38 4 ≤ 1) && e.zero 0x3C 0x80 && !e.grouped

/-- The register writes of a register-write record: offset and value (R210). -/
def Entry.regWrites (e : Entry) : List (Nat × Nat) :=
  (List.range (e.u 0x30 8)).map (fun i => (bits (e.u (0x38 + 8 * i) 4) 25 0, e.u (0x3C + 8 * i) 4))

/-- A register-write record (R210). -/
def Entry.regForm (e : Entry) : Bool :=
  let n := e.u 0x30 8
  decide (1 ≤ n) && decide (n ≤ 9) && (List.range n).all (fun i => decide (e.u (0x38 + 8 * i) 4 < 2 ^ 26) && e.u (0x38 + 8 * i) 4 % 4 == 0) &&
    e.zero (0x38 + 8 * n) 0x80

/-- The operation code of a serving, learning, weight or collective record: bits [31:24] of bytes 0x30 to 0x33. -/
def Entry.op (e : Entry) : Nat := e.u 0x33 1

/-- A 48-bit address in eight bytes, aligned. -/
def Entry.addrOk (e : Entry) (o al : Nat) : Bool := e.u (o + 6) 2 == 0 && e.u o 6 % al == 0

/-- A serving command (R269). -/
def Entry.serveForm (e : Entry) : Bool :=
  let w := e.u 0x30 4
  let hnd := bits w 23 16 == 0 && e.u 0x36 2 == 0
  match e.op with
  | 1 => bits w 20 10 == 0 && decide (1 ≤ e.u 0x34 4) && decide (e.u 0x34 4 ≤ 2 ^ 20) && e.addrOk 0x38 64 && e.addrOk 0x40 64 &&
      decide (1 ≤ e.u 0x48 4) && decide (e.u 0x48 4 ≤ 2 ^ 24) && e.zero 0x68 0x80
  | 2 | 4 => hnd && e.zero 0x38 0x80
  | 3 => hnd && e.addrOk 0x38 65536 && decide (e.u 0x40 4 < 2 ^ 25) && e.u 0x44 4 != 0 && e.zero 0x48 0x80
  | 5 => bits w 23 10 == 0 && bits w 9 0 != 0x3FF && e.u 0x34 4 == 0 && e.addrOk 0x38 1 && e.zero 0x44 0x80
  | 6 => bits w 23 10 == 0 && bits w 9 0 != 0x3FF && e.zero 0x34 0x80
  | _ => false

/-- A checkpoint write (R437). -/
def Entry.ckptForm (e : Entry) : Bool :=
  bits (e.u 0x30 4) 22 8 == 0 && e.zero 0x34 0x38 && e.addrOk 0x38 4096 && e.u 0x40 8 % 4096 == 0 && e.u 0x48 8 % 4096 == 0 && decide (4096 ≤ e.u 0x48 8) &&
    decide (e.u 0x48 8 ≤ 2 ^ 40) && e.addrOk 0x50 32 && e.zero 0x58 0x80

/-- A weight operation (R369). -/
def Entry.wgtForm (e : Entry) : Bool :=
  if e.op = 7 then e.ckptForm
  else
  bits (e.u 0x30 4) 23 3 == 0 && decide (1 ≤ e.op) && decide (e.op ≤ 6) && e.addrOk 0x38 64 && e.zero 0x40 0x80

/-- A collective operation (R311, R312). -/
def Entry.collForm (e : Entry) : Bool :=
  let w := e.u 0x30 4
  let fmt := bits w 21 18
  let op := e.op
  let red := op == 1 || op == 2 || op == 6
  let k := bits (e.u 0x34 4) 28 24
  decide (1 ≤ op) && decide (op ≤ 7) && decide (bits w 23 22 ≤ 1) && !bit w 9 && bits (e.u 0x34 4) 31 29 == 0 && bits (e.u 0x34 4) 23 0 == 0 && e.zero 0x6C 0x80 &&
    (op == 7 || (decide (12 ≤ k) && decide (k ≤ 16) && fmtBits fmt != 0 && (!red || fmt == 9) && (fmtBits fmt != 4 || e.u 0x58 4 % 2 == 0) &&
      e.addrOk 0x40 64 && e.addrOk 0x48 1 && e.addrOk 0x50 1 && e.addrOk 0x60 1 && (op == 6 || e.u 0x60 8 == 0) && (op != 6 || e.u 0x3E 2 != 0xFFFF) &&
      e.u 0x5C 4 % 64 == 0 && (!bit w 11 || decide (bits w 8 0 < 320)) && (op != 5 || e.u 0x40 8 == 0)))

/-- A learning-step record (R276, R334, R336, R337, R341). -/
def Entry.learnForm (e : Entry) : Bool :=
  let tg := bits (e.u 0x30 4) 23 16 == 0
  match e.op with
  | 1 => e.addrOk 0x38 64 && bits (e.u 0x40 4) 31 16 == 0 && bits (e.u 0x44 4) 31 12 == 0 && e.zero 0x48 0x80
  | 2 => tg && e.zero 0x40 0x80
  | 3 => tg && e.zero 0x34 0x38 && e.addrOk 0x38 1 && e.zero 0x40 0x80
  | 4 => tg && e.zero 0x38 0x80
  | 5 => tg && e.zero 0x38 0x80
  | _ => false

/-- The body of a record of its KIND (R206). A turn's fields are checked at its open (R373). -/
def Entry.bodyOk (e : Entry) : Bool :=
  match e.kind with
  | 0x01 => descOk (e.raw.drop 0x30)
  | 0x02 => e.copyForm
  | 0x03 => e.collForm
  | 0x04 => e.wgtForm
  | 0x05 => true
  | 0x06 => e.serveForm
  | 0x07 => e.learnForm
  | 0x08 => e.closeForm
  | 0x09 => e.zero 0x30 0x80
  | 0x0A => e.regForm
  | _ => false

/-- The record and its register writes are permitted to its context (R206, R210, R211, R372). -/
def State.permitted (s : State) (e : Entry) : Bool :=
  match e.kind with
  | 0x0A => e.regWrites.all (fun w => reachable e.ctx w.1)
  | 0x05 => e.ctx == 0 || s.fld .wgtCtlTurnPerm e.ctx == 1
  | _ => true

/-! ### Commit-group limits (R223) -/

/-- The group's identifier that a record names: its own, or the one it closes. -/
def Entry.names (e : Entry) : Option Nat :=
  if e.kind = 0x08 then some (e.u 0x30 4) else if e.grouped then some e.gid else none

/-- The undecided group of an identifier. -/
def State.openGroup (s : State) (c gid : Nat) : Option Group := s.groups.find? (fun g => g.ctx == c && g.gid == gid && g.decision.isNone)

/-- The member records of a group, in the order of their acceptance. -/
def State.members (s : State) (num : Nat) : List Entry := s.entries.filter (fun e => e.grp == some num && e.kind != 0x08)

/-- The close record of a group. -/
def State.closer (s : State) (num : Nat) : Option Entry := s.entries.find? (fun e => e.grp == some num && e.kind == 0x08)

/-- Groups not yet decided. -/
def State.openGroups (s : State) : List Group := s.groups.filter (fun g => g.decision.isNone)

/-- The actions a record adds to its group: its register writes and its completion record. -/
def Entry.actions (e : Entry) : Nat := 1 + (if e.kind = 0x0A then e.u 0x30 8 else 0)

/-- The record keeps within the limits of its group (R223); a group has one close record and no more members than that names (log entry 22). -/
def State.groupFits (s : State) (e : Entry) : Bool :=
  match e.names with
  | none => true
  | some gid =>
    match s.openGroup e.ctx gid with
    | none => decide ((s.openGroups.filter (fun g => g.ctx == e.ctx)).length < 64) && decide (s.openGroups.length < 1024)
    | some g =>
      let ms := s.members g.num
      let rw := ((ms ++ [e]).map (fun x => if x.kind = 0x0A then x.u 0x30 8 else 0)).sum
      let acts := ((ms ++ [e]).map Entry.actions).sum
      decide (rw ≤ 512) && decide (acts ≤ 4096) &&
        (if e.kind = 0x08 then (s.closer g.num).isNone && decide (ms.length ≤ e.u 0x34 4)
         else decide (ms.length < 256) && (match s.closer g.num with | some k => decide (ms.length < k.u 0x34 4) | none => true))

end Sys2Proof.Machine
end

