-- ==== Sys2Proof/Machine/Records.lean ====
section
/-! DEFINITION. Work records: acceptance at a landing window, start, the bodies of task, copy, group-close and marker records, commit groups, completions and the
registers of a landing window (R202 to R226, R235 to R238). -/
namespace Sys2Proof.Machine

/-! ### Acceptance (R202, R203, R211, R212) -/

/-- The module answers "not ready" at every landing window (R211, R227, R232, R427). -/
def State.notReady (s : State) : Bool := s.run != .ready || s.fld .jnlStatRecovering 0 == 1 || s.fld .jnlCtlEn 0 == 0

/-- The 16 bytes of an acceptance result (R211). -/
def accResult (astat aseq : Nat) : List (BitVec 8) := leBytes 1 astat ++ List.replicate 7 0 ++ leBytes 8 aseq

/-- The acceptance status of a well-sized record at a ready window, from the first check that fails (R211). -/
def State.astat (s : State) (e : Entry) : Nat :=
  let c := e.ctx
  let q := e.stream
  let next := s.lwNext c q
  match s.entry c q e.seq with
  | some x => if x.raw = e.raw then 1 else 2
  | none =>
    if next < e.seq then 3
    else if e.seq < next then 4
    else if s.fld .lwCtlDepth (lwInst c q) ≤ s.openRecords c q then 5
    else if s.jnlCap ≤ s.jnlFill then 6
    else if !(e.headOk && e.bodyOk && s.groupFits e) then 7
    else if !(s.permitted e && s.ctxOn c) then 8
    else if s.fld .lwCtlEn (lwInst c q) = 0 then 9
    else if s.fld .ctxStatResetting c = 1 then 10
    else 0

/-- The ASEQ that goes with a status (R211). -/
def State.aseq (s : State) (e : Entry) (astat : Nat) : Nat :=
  if astat ≤ 2 then e.seq else if astat = 0x0B ∨ astat = 0x0C then 0 else s.lwNext e.ctx e.stream

/-- ASTAT and ASEQ placed in the window, and a refusal counted (R211, R239). -/
def State.setAstat (s : State) (i astat aseq : Nat) : State :=
  let s1 := (s.setFld .lwAstatAstat astat i).put64 .lwAseqLo .lwAseqHi aseq i
  if astat ≤ 1 then s1 else s1.bump .accRefuseCnt 0

/-- The record joins its commit group, which it opens where none is (R223). -/
def State.joinGroup (s : State) (e : Entry) : State × Entry :=
  match e.names with
  | none => (s, e)
  | some gid =>
    match s.openGroup e.ctx gid with
    | some g => (s, { e with grp := some g.num })
    | none =>
      ({ s with
          groupNum := s.groupNum + 1
          groups := s.groups ++ [Group.mk s.groupNum e.ctx gid s.ptime none 0 false 0 0 false] },
       { e with grp := some s.groupNum })

/-- A record is accepted: its entry joins the journal's index, not yet durable, and the next expected number rises (R204, R212). -/
def State.accept (s : State) (e : Entry) : State :=
  let g := s.joinGroup e
  let old := g.1.jnlFill
  let s1 := (({ g.1 with entries := g.1.entries ++ [g.2] } : State).put64 .lwNextLo .lwNextHi (e.seq + 1) (lwInst e.ctx e.stream))
  s1.fillFrom old

/-- The window and the stream at an aperture offset: context and stream (R540). -/
def windowAt (off : Nat) : Option (Nat × Nat) :=
  if 0x03C00000 ≤ off ∧ off < 2 ^ 26 then some ((off - 0x03C00000) / 2 ^ 16, (off - 0x03C00000) / 2 ^ 12 % 16) else none

/-- R211, R212: a landing-window write by the request context `ctx`; `off` is its aperture offset. -/
def State.landingWrite (s : State) (ctx tag off : Nat) (data : List (BitVec 8)) : State :=
  let refuse (t : State) (astat aseq : Nat) : State := t.emit (.lwResponse ctx tag (accResult astat aseq))
  match windowAt off with
  | none => refuse (s.bump .accRefuseCnt 0) 0x0C 0
  | some (c, q) =>
    let i := lwInst c q
    if s.notReady then refuse (s.setAstat i 0x0B 0) 0x0B 0
    else if data.length ≠ 128 ∨ off % 2 ^ 12 ≠ 0 then refuse (s.setAstat i 0x0C 0) 0x0C 0
    else if !(s.ctxOn ctx && (ctx == 0 || ctx == c)) then refuse (s.bump .accRefuseCnt 0) 8 (s.lwNext c q)
    else
      let e := mkEntry c q data s.ptime s.freeSlot [(tag, 0)]
      let a := s.astat e
      let n := s.aseq e a
      let s1 := s.setAstat i a n
      if a = 0 then s1.accept e
      else if a = 1 then
        if (s.entry c q e.seq).any (fun x => x.durable) then refuse s1 a n
        else s1.modEntry c q e.seq (fun x => { x with owed := x.owed ++ [(tag, 1)] })
      else refuse s1 a n

def execLandingWindowWrite (ctx tag off : Nat) (data : List (BitVec 8)) (s : State) : Out := .next (s.landingWrite ctx tag off data)

/-- R212: the response to an accepted record leaves once its entry is durable. -/
def execLandingWindowResponse (ctx stream seq : Nat) (s : State) : Out :=
  match s.entry ctx stream seq with
  | none => .next s
  | some e =>
    match e.owed with
    | [] => .next s
    | (tag, a) :: rest =>
      when e.durable ((s.modEntry ctx stream seq (fun x => { x with owed := rest })).emit (.lwResponse ctx tag (accResult a seq))) s

/-! ### Starting (R214, R215) -/

/-- R214, R215: a record starts; one whose dependency failed reaches its commit point without starting, and so does a member of a group that has
already aborted. -/
def execRecordStart (ctx stream seq : Nat) (s : State) : Out :=
  match s.entry ctx stream seq with
  | none => .next s
  | some e =>
    let ended := s.groups.any (fun g => e.grp == some g.num && g.decision == some false)
    if !(e.st == .accepted && e.durable && s.ctxOn ctx && s.run == .ready && s.fld .jnlStatRecovering 0 == 0 && s.orderOk e && e.point.isNone) then .next s
    else if ended then .next (s.reach ctx stream seq St.groupAborted 0)
    else
      match s.failedDep e with
      | some d => .next (s.reach ctx stream seq St.dependencyFailed (d.1 + d.2 % 2 ^ 28 * 16))
      | none =>
        when e.admitted
          ((s.modEntry ctx stream seq (fun x => { x with st := .started })).journal { e with st := .started }) s

/-- An entry whose own work may begin. -/
def Entry.ripe (e : Entry) (kind : Nat) : Bool := e.kind == kind && e.st == .started && !e.begun && e.point.isNone

/-- A record's own work, where its entry is started and of the KIND. -/
def State.withRecord (s : State) (ctx stream seq kind : Nat) (f : Entry → State) : Out :=
  match s.entry ctx stream seq with
  | none => .next s
  | some e => if e.ripe kind then .next (f e) else .next s

/-- The record's work has begun. -/
def State.begin (s : State) (e : Entry) : State := s.modEntry e.ctx e.stream e.seq (fun x => { x with begun := true })

/-- R207: the task is placed, or ends without starting. -/
def execTask (ctx stream seq : Nat) (s : State) : Out :=
  s.withRecord ctx stream seq 1 (fun e =>
    let x := mkTask (e.raw.drop 0x30) ctx stream seq .record e.spec e.failInvalid
    match s.placeTask x with
    | .ok u _ => u.begin e
    | .wait u => u
    | .fail u st d => (u.begin e).reach ctx stream seq st d)

/-! ### Copy records (R208) -/

/-- The owner of the host reads of a record's own copy. -/
def copyOwner (e : Entry) : ReadOwner := .op 3 ((e.ctx * 16 + e.stream) * 2 ^ 64 + e.seq)

/-- The pieces of `n` bytes of a context's memory for a record's copy, page by page; `fuel` bounds the pages. -/
def State.recPieces (s : State) (ctx : Nat) (wr : Bool) : Nat → Nat → Nat → List CopyPiece
  | 0, _, _ => []
  | fuel + 1, dva, n =>
    if n = 0 then []
    else
      let m := min n (2 ^ 16 - dva % 2 ^ 16)
      ⟨dva, m, s.placeCtx ctx false dva wr⟩ :: s.recPieces ctx wr fuel (dva + m) (n - m)

/-- The bytes of a source piece, where they are at hand. -/
def State.recBytes (s : State) (o : ReadOwner) (p : CopyPiece) : Option (List (BitVec 8)) :=
  match p.place with
  | .hbm k => some (s.hbmBytes k p.len)
  | .host a => (s.hostReads.find? (fun h => h.owner == o && h.addr == a && h.len == p.len)).bind (fun h => h.data)
  | _ => none

/-- The bytes of every piece, or none while some is awaited. -/
def State.recAll (s : State) (o : ReadOwner) : List CopyPiece → Option (List (BitVec 8))
  | [] => some []
  | p :: ps =>
    match s.recBytes o p, s.recAll o ps with
    | some a, some b => some (a ++ b)
    | _, _ => none

/-- Host reads a record's copy still lacks are asked for. -/
def State.recAsk (s : State) (ctx : Nat) (o : ReadOwner) (ps : List CopyPiece) : State :=
  ps.foldl (fun u p =>
    match p.place with
    | .host a => if u.hostReads.any (fun h => h.owner == o && h.addr == a && h.len == p.len) then u else (u.askHost ctx o a p.len).1
    | _ => u) s

/-- Bytes written to destination pieces in order by a record's copy on an island. -/
def State.recOut (s : State) (ctx isl : Nat) : List CopyPiece → List (BitVec 8) → State
  | [], _ => s
  | p :: ps, bs =>
    let s1 := match p.place with
      | .hbm k => s.hbmWrite (some isl) k (bs.take p.len)
      | .host a => s.emit (.hostWrite ctx a (bs.take p.len))
      | _ => s
    s1.recOut ctx isl ps (bs.drop p.len)

/-- The code of R138 that refuses a copy record's descriptor, or 0. -/
def recCheck (d : CopyDesc) : Nat :=
  let rows (a st : Nat) : Nat × Nat := extent d.rowBytes ((List.range d.rows).map (fun i => a + i * st))
  let src := if d.hasSrc then rows d.srcAddr d.srcStride else (0, 0)
  let dst := if d.dst = 2 then (0, 0) else rows d.dstAddr d.dstStride
  if d.kind = 2 ∨ (d.kind = 0 ∧ d.rows ≠ 1) ∨ (d.dst = 2 ∧ d.kind = 3) then 1
  else if d.hasSrc ∧ d.dst = 1 ∧ src.1 < dst.2 ∧ dst.1 < src.2 then 4
  else if d.rowBytes = 0 ∨ d.rowBytes % 32 ≠ 0 ∨ 2 ^ 22 < d.rowBytes then 6
  else 0

/-- R208: the copy of a copy record, whole: its checks, its pages, its bytes, its writes. -/
def State.runCopyRecord (s : State) (e : Entry) : State :=
  let d := (copyDesc ((e.raw.drop 0x30).take 32)).1
  let isl := e.u 0x50 4
  let o := copyOwner e
  let fin (t : State) (st det : Nat) : State := ((t.dropReads o).begin e).reach e.ctx e.stream e.seq st det
  let code := recCheck d
  if code ≠ 0 then fin (s.raise 0x11 isl 0) St.copyRefused code
  else
    let rows (a st : Nat) (wr : Bool) : List CopyPiece :=
      (List.range d.rows).flatMap (fun i => s.recPieces e.ctx wr (d.rowBytes / 2 ^ 16 + 2) (a + i * st) d.rowBytes)
    let sp := if d.hasSrc then rows d.srcAddr d.srcStride false else []
    let dp := if d.dst = 1 then rows d.dstAddr d.dstStride true else []
    match firstBad (sp ++ dp) with
    | some p =>
      match p.place.bad with
      | .fault c => let f := s.faultEnd e.ctx c 1 isl p.dva; fin (f.1.raise 0x11 isl 0) f.2.1 f.2.2
      | _ => fin s St.illegal 0
    | none =>
      if (sp ++ dp).any (fun p => p.place.bad == .wait) then s
      else
        match sp.find? (fun p => match p.place with | .hbm k => s.poisoned k p.len | _ => false) with
        | some ⟨dva, _, .hbm k⟩ => let f := s.poisonEnd e.ctx dva k; fin f.1 f.2.1 f.2.2
        | _ =>
          let pat := (List.range (d.rows * d.rowBytes)).map (fun i => BitVec.ofNat 8 (d.srcStride / 2 ^ (8 * (i % 4))))
          match (if d.hasSrc then s.recAll o sp else some pat) with
          | none => s.recAsk e.ctx o sp
          | some bs => fin ((s.copyLines isl (d.alloc || d.dst == 2) sp).recOut e.ctx isl dp bs) 0 0

def execCopy (ctx stream seq : Nat) (s : State) : Out :=
  s.withRecord ctx stream seq 2 (fun e => if s.islandReady (e.u 0x50 4) then s.runCopyRecord e else s)

/-! ### Markers and groups (R206, R209, R216, R224) -/

/-- R206, R216: a marker reaches its commit point once every earlier record of its stream has committed. -/
def execMarker (ctx stream seq : Nat) (s : State) : Out :=
  s.withRecord ctx stream seq 9 (fun e => if s.earlierDone e then (s.begin e).reach ctx stream seq 0 0 else s)

/-- Every member record a close record counts has reached its commit point. -/
def State.allReached (s : State) (num n : Nat) : Bool :=
  let ms := s.members num
  ms.length == n && ms.all (fun x => x.point.isSome)

/-- R209, R216: a group close reaches its commit point when every member has. -/
def execGroupClose (ctx stream seq : Nat) (s : State) : Out :=
  s.withRecord ctx stream seq 8 (fun e =>
    match e.grp with
    | none => s
    | some g => if s.allReached g (e.u 0x34 4) then (s.begin e).reach ctx stream seq 0 0 else s)

/-- A group's decision made durable as one transaction-log entry in both copies (R225, R229). What the entry's RECORD bytes hold of the action list
is not laid out by the spec: they are a free value. -/
def State.txnLog (s : State) (ctx gid slot : Nat) : State :=
  let old := s.jnlFill
  let hd := leBytes 128 (s.freeVal 1024) ++ leBytes 8 s.txnNum ++ leBytes 4 (ctx * 2 ^ 26 + 5 * 2 ^ 19) ++ leBytes 4 gid ++
    leBytes 8 s.ptime ++ leBytes 8 s.ptime ++ List.replicate 0x58 0 ++ leBytes 4 1
  let im := hd ++ leBytes 4 (crc32c hd)
  let put (t : State) (b : Bool) : State :=
    let k := s.jnlBase b
    if s.stackLost (stackOf k) then t else t.hbmWrite none (k + 2 ^ 16 + 256 * slot) im
  let s1 := (put (put s.took false) true)
  (({ s1 with txnNum := s1.txnNum + 1 } : State)).fillFrom old

/-- A group decided: its decision is durable (R224, R225). -/
def State.decideGroup (s : State) (g : Group) (commit : Bool) (cause : Nat) (timedOut : Bool) : State :=
  let slot := s.freeSlot
  let g1 := { g with decision := some commit, cause := cause, timedOut := timedOut, txn := s.txnNum, slot := slot }
  let s1 := ({ s with groups := s.groups.map (fun x => if x.num = g.num then g1 else x) } : State).txnLog g.ctx g.gid slot
  if commit then s1 else s1.bump .txnAbortCnt 0

/-- R224: the group is decided once its close record and its members have reached their commit points. -/
def execGroupDecision (group : Nat) (s : State) : Out :=
  match s.groups.find? (fun g => g.num == group && g.decision.isNone), s.closer group with
  | some g, some k =>
    if k.point.isNone ∨ !s.allReached group (k.u 0x34 4) then .next s
    else
      let abort := k.u 0x38 4 == 1
      let bad := (s.members group).find? (fun x => match x.point with | some p => p.1 != 0 | none => true)
      if abort then .next (s.decideGroup g false 0 false)
      else
        match bad with
        | some x => .next (s.decideGroup g false (x.seq % 2 ^ 32) false)
        | none => .next (s.decideGroup g true 0 false)
  | _, _ => .next s

/-- R224: a group undecided at its limit aborts. -/
def execGroupTimeout (group : Nat) (s : State) : Out :=
  match s.groups.find? (fun g => g.num == group && g.decision.isNone) with
  | none => .next s
  | some g => .next ((s.decideGroup g false 0 true).raise 0x05 0 2)

/-- The status and detail with which a record of a decided group commits (R219, R224). -/
def groupOutcome (g : Group) (point : Option (Nat × Nat)) : Nat × Nat :=
  let p := point.getD (0, 0)
  if g.decision = some true then p
  else if g.timedOut then (St.groupTimeout, 0)
  else if p.1 = St.groupAborted then (St.groupAborted, g.cause)
  else if p.1 ≠ 0 then p
  else (St.groupAborted, g.cause)

/-! ### Completions (R218, R220 to R222, R235) -/

/-- The host address of a completion's ring entry (R220). -/
def State.ringAddr (s : State) (c q seq : Nat) : Nat :=
  s.fld64 .cqBaseLoBase .cqBaseHi (lwInst c q) + 32 * ((seq - 1) % s.ringN c q)

def State.consumed (s : State) (c q : Nat) : Nat := s.fld64 .cqConsumedLo .cqConsumedHi (lwInst c q)

/-- The ring has space for the completion (R221). -/
def State.ringSpace (s : State) (c q seq : Nat) : Bool := decide (seq ≤ s.consumed c q + s.ringN c q)

/-- A completion leaves the module, and its stream's interrupt follows once the journal records it, unless NO_IRQ is set or it was raised
before (R221, R222, R235). -/
def State.sendCompletion (s : State) (e : Entry) : State :=
  let s1 := s.emit (.completion e.ctx (s.ringAddr e.ctx e.stream e.seq) (e.completion (s.ringN e.ctx e.stream)))
  let e1 := { e with written := true, rew := false }
  if e.noIrq || e.st == .signalled then s1.modEntry e.ctx e.stream e.seq (fun _ => e1)
  else
    let e2 := { e1 with st := .signalled }
    ((s1.modEntry e.ctx e.stream e.seq (fun _ => e2)).journal e2).raiseVector e.ctx (s.fld .cqCtlVector (lwInst e.ctx e.stream))

/-- Every earlier completion of the stream has been written. -/
def State.earlierWritten (s : State) (e : Entry) : Bool :=
  (s.streamEntries e.ctx e.stream).all (fun x => decide (e.seq ≤ x.seq) || (x.written && !x.rew))

/-- R221, R222: a committed completion is written in order once the ring has space; one that waits is counted once. -/
def execCompletionWrite (ctx stream seq : Nat) (s : State) : Out :=
  match s.entry ctx stream seq with
  | none => .next s
  | some e =>
    if !(e.done && e.durable && !e.written && !e.rew && s.earlierWritten e && s.run == .ready) then .next s
    else if s.ringSpace ctx stream seq then .next (s.sendCompletion e)
    else when (!e.waited) ((s.modEntry ctx stream seq (fun x => { x with waited := true })).bump .cqFullCnt (lwInst ctx stream)) s

/-- R235: a completion that must be rewritten is written again; after the last, RECOVERY_DONE is raised once. -/
def execCompletionRewrite (ctx stream seq : Nat) (s : State) : Out :=
  match s.entry ctx stream seq with
  | none => .next s
  | some e =>
    if !(e.rew && s.run == .ready && (s.streamEntries ctx stream).all (fun x => decide (seq ≤ x.seq) || !x.rew)) then .next s
    else
      let s1 := (s.sendCompletion e).bump .jnlRewriteCnt 0
      .next (if s1.entries.any (fun x => x.rew) then s1 else s1.raise 0x05 0 3)

/-- Completions committed and not yet consumed, and already within the ring's reach, are marked to be written again (R235). -/
def State.markRewrite (s : State) : State :=
  { s with entries := s.entries.map (fun e =>
      if e.done && decide (s.consumed e.ctx e.stream < e.seq) && s.ringSpace e.ctx e.stream e.seq then { e with rew := true } else e) }

/-- The last completion of a stream written (R221). -/
def State.lastWritten (s : State) (c q : Nat) : Nat :=
  (((s.streamEntries c q).filter (fun e => e.written)).map (fun e => e.seq)).foldl max (s.consumed c q)

/-- R221: CQ_CONSUMED takes a value that does not pass the last completion written and does not fall. -/
def State.setConsumed (s : State) (c q v : Nat) : State :=
  if v < s.consumed c q ∨ s.lastWritten c q < v then s else s.put64 .cqConsumedLo .cqConsumedHi v (lwInst c q)

def execCqConsumedWrite (ctx stream value : Nat) (s : State) : Out := .next (s.setConsumed ctx stream value)

/-- R237, R238: a write of LW_CTL by context `writer`; DEPTH is the owner's and keeps its value when out of range. -/
def State.writeLwCtl (s : State) (writer c q w : Nat) : State :=
  let i := lwInst c q
  let d := bits w 28 16
  let s1 := if writer = 0 ∧ 1 ≤ d ∧ d ≤ 4096 then s.setFld .lwCtlDepth d i else s
  s1.setFld .lwCtlEn (bits w 0 0) i

def execLwEnable (writer ctx stream value : Nat) (s : State) : Out := .next (s.writeLwCtl writer ctx stream value)

end Sys2Proof.Machine
end

