-- ==== Sys2Proof/Machine/Sampler.lean ====
section
/-! DEFINITION. The sampler's arithmetic (R255, R289, R291): the canonical sum of a row, log-probabilities, and the draw of one token. -/
namespace Sys2Proof.Machine

/-- A32 rounding of an exact value, as a value. -/
def rA32 (v : Val) : Val := a32.decode (roundA32 v).code

/-- The quotient of finite values to far more bits than A32 keeps, with a sticky last bit; the rule of R84 for infinities and zeros is not met here. -/
def Val.quot (x y : Val) : Val :=
  match x, y with
  | .nan, _ => .nan
  | _, .nan => .nan
  | .inf _, .inf _ => .nan
  | .inf s, y => .inf (s != y.isNeg)
  | .fin s _ _, .inf t => .fin (s != t) 0 0
  | .fin s m e, .fin t n f =>
    if n = 0 then (if m = 0 then .nan else .inf (s != t))
    else .fin (s != t) (2 * ((m * 2 ^ 64) / n) + b2n (m * 2 ^ 64 % n != 0)) (e - f - 65)

/-- One block of 128 of the canonical sum with no scales (R64, R65). -/
def blockSum (vs : List Val) : Val :=
  (chunks 16 vs.length vs).foldl (fun acc g => a32.decode (tree16 acc (g.map (fun v => (v, Val.one)))).code) .zero

/-- One level of the combine tree: neighbours are added, a last one alone passes through (R64). -/
def pairUp : List Val → List Val
  | a :: b :: r => a32.decode (addA32 a b).code :: pairUp r
  | l => l

/-- The combine tree over block sums (R64). -/
def combineAll : Nat → List Val → Val
  | 0, l => l.headD .zero
  | fuel + 1, l =>
    match l with
    | [] => .zero
    | [a] => a
    | l => combineAll fuel (pairUp l)

/-- The canonical sum of a row (R64, G = 128). -/
def csum (vs : List Val) : Val := let bs := (chunks 128 vs.length vs).map blockSum; combineAll bs.length bs

/-- L2E and LN2 (R289). -/
def cL2E : Val := a32.decode 0x3FB8AA3B
def cLN2 : Val := a32.decode 0x3F317218

/-- The fixed vexp2 and vlog2 of the 32-bit form (R196). -/
def vexp2 (x : Val) : Val := let c := (roundA32 x).code; a32.decode (approx .exp2 9 a32 (a32.decode c) c).1.code
def vlog2 (x : Val) : Val := let c := (roundA32 x).code; a32.decode (approx .log2 9 a32 (a32.decode c) c).1.code

/-- The parameters of a request that the sampler uses. -/
structure SampPar where
  temp : Nat
  topP : Nat
  topK : Nat
  seed : Nat

/-- The largest of the values that are not NaN, with its lowest index. -/
def maxIdx (ws : List Val) : Option (Val × Nat) :=
  ws.zipIdx.foldl (fun m p =>
    if p.1.isNan then m
    else
      match m with
      | none => some p
      | some q => if Val.lt q.1 p.1 then some p else m) none

/-- Indices by value descending, ties by lower index, NaN last. -/
def byDesc (es : List Val) : List (Val × Nat) :=
  sortBy (fun a b => if a.1.isNan then b.1.isNan && decide (a.2 ≤ b.2) else b.1.isNan || Val.lt b.1 a.1 || (Val.eqv a.1 b.1 && decide (a.2 ≤ b.2))) es.zipIdx

/-- The shortest prefix whose sequential A32 sum is at least a target. -/
def prefixTo (target : Val) : Val → List (Val × Nat) → List (Val × Nat)
  | _, [] => []
  | acc, p :: ps =>
    let a := rA32 (Val.add acc p.1)
    if !a.isNan && !target.isNan && !Val.lt a target then [p] else p :: prefixTo target a ps

/-- The first index whose running sequential sum exceeds a threshold. -/
def firstOver (thr : Val) : Val → List (Val × Nat) → Option Nat
  | _, [] => none
  | acc, p :: ps => let a := rA32 (Val.add acc p.1); if Val.lt thr a then some p.2 else firstOver thr a ps

/-- R255: the token drawn from logits at a position, with the code of its log-probability. Where no running sum exceeds the threshold (a NaN among the
logits) the rule names no token and `open_` is taken. -/
def sampleTok (z : List Val) (p : SampPar) (pos open_ : Nat) : Nat × Nat :=
  let tv := bf16.decode p.temp
  let t := if Val.lt .zero tv then tv else Val.one
  let w := z.map (fun x => rA32 (Val.quot x t))
  let mx := maxIdx w
  let m := match mx with | some q => q.1 | none => .nan
  let e := w.map (fun x => vexp2 (rA32 (Val.mul (rA32 (Val.sub x m)) cL2E)))
  let sum := csum e
  let tok :=
    if tv.isZero then (match mx with | some q => q.2 | none => open_)
    else
      let c0 := byDesc e
      let c1 := if p.topK = 0 then c0 else c0.take p.topK
      let tp := bf16.decode p.topP
      let c2 := if Val.lt .zero tp && Val.lt tp Val.one then prefixTo (Val.mul tp sum) .zero c1 else c1
      let kept := c2.foldl (fun a q => rA32 (Val.add a q.1)) .zero
      let r := mix32 (mix32 p.seed ^^^ (pos % 2 ^ 32))
      (firstOver (Val.mul (.fin false r (-32)) kept) .zero c2).getD open_
  let lnS := rA32 (Val.mul (vlog2 sum) cLN2)
  (tok, (roundA32 (Val.sub (Val.sub (w.getD tok .nan) m) lnS)).code)

end Sys2Proof.Machine
end

