-- ==== Sys2Proof/Machine/SrvOps.lean ====
section
/-! DEFINITION. Shared operations of serving: slots, KV pages, the step program, request events, generations and adapters (R240 to R251, R267, R268, R271 to R273). -/
namespace Sys2Proof.Machine

namespace St
def alreadyComplete : Nat := 0x0100
def slotQuotaFull : Nat := 0x0101
def adapterAbsent : Nat := 0x0102
def invalidHandle : Nat := 0x0103
def kvExhausted : Nat := 0x0104
def pausedExpired : Nat := 0x0105
def wrongState : Nat := 0x0106
def adapterTableFull : Nat := 0x0107
def pausedCorrupt : Nat := 0x0108
def servingDisabled : Nat := 0x0109
def requestTooLong : Nat := 0x010A
def pcUnavailable : Nat := 0x0408
end St

def State.srv (s : State) (c : Nat) : SrvCtx := Tbl.get srvDef s.srvs c

def State.setSrv (s : State) (c : Nat) (x : SrvCtx) : State := { s with srvs := Tbl.set srvDef s.srvs c x }

def State.modSrv (s : State) (c : Nat) (f : SrvCtx → SrvCtx) : State := s.setSrv c (f (s.srv c))

def SrvCtx.req (x : SrvCtx) (slot : Nat) : Option Req := Tbl.get noReq x.slots slot

def SrvCtx.setReq (x : SrvCtx) (slot : Nat) (r : Option Req) : SrvCtx := { x with slots := Tbl.set noReq x.slots slot r }

def State.setReq (s : State) (c slot : Nat) (r : Option Req) : State := s.modSrv c (fun x => x.setReq slot r)

def State.modReq (s : State) (c slot : Nat) (f : Req → Req) : State := s.modSrv c (fun x => x.setReq slot ((x.req slot).map f))

/-- The requests of a context by slot. -/
def SrvCtx.reqs (x : SrvCtx) : List (Nat × Req) := x.slots.filterMap (fun e => e.2.map (fun r => (e.1, r)))

/-- The epoch of a slot (R241). -/
def SrvCtx.epoch (x : SrvCtx) (slot : Nat) : Nat := Tbl.get natZero x.epochs slot

/-- A step of the context is in flight. -/
def State.stepping (s : State) (c : Nat) : Bool := (s.srv c).step.isSome

/-! ### A record's outcome -/

/-- A record that commits with the step boundary or at once: its commit is fixed now where nothing earlier of its stream is open, and it reaches its commit
point otherwise. -/
def State.finish (s : State) (c q n status detail : Nat) : State :=
  match s.entry c q n with
  | none => s
  | some e =>
    if e.done then s
    else if e.grp.isNone && s.earlierDone e && e.point.isNone then s.commitRecord e status detail
    else s.reach c q n status detail

/-! ### Addresses -/

/-- Bytes written through a context's translation by a harbour die, to HBM or the host tier; a fault is counted and nothing is written (log entry 21). -/
def State.devWrite (s : State) (ctx dva : Nat) (bs : List (BitVec 8)) : State :=
  match s.pieces ctx dva bs.length true false false true with
  | .error e => s.noteFault ctx e.1 6 0 e.2
  | .ok ps =>
    (ps.foldl (fun (a : State × List (BitVec 8)) p =>
      match p.1.dest with
      | .hbm k => (a.1.hbmWrite none k (a.2.take p.2), a.2.drop p.2)
      | .host h => (a.1.emit (.hostWrite ctx h (a.2.take p.2)), a.2.drop p.2)
      | _ => (a.1, a.2.drop p.2)) (s, bs)).1

/-! ### The step program (R248, R251) -/

/-- What a step program's header gives. -/
structure Prog where
  heads : Nat
  sets : Nat
  tokens : Nat
  vocab : Nat
  eDecode : Nat
  eSpec : Nat
  ePrefill : Nat
  eFixed : Nat
  tasks : Nat
  count : Nat
  tt : Nat
  out : Nat
  outLen : Nat
deriving DecidableEq, Repr

/-- A power of two from 16 to 1,024. -/
def pageTokensOk (n : Nat) : Bool := [16, 32, 64, 128, 256, 512, 1024].contains n

/-- The header of a step program, where R251 does not refuse it. -/
def parseProg (b : List (BitVec 8)) : Option Prog :=
  let f (o n : Nat) := leAt b o n
  let p : Prog := ⟨f 6 1, f 7 1, f 8 2, f 0x0C 4, f 0x10 4, f 0x14 4, f 0x18 4, f 0x1C 4, f 0x20 6, f 0x28 2, f 0x2A 6, f 0x30 6, f 0x38 6⟩
  let ok := f 0 4 == 0x53505247 && f 4 2 == 1 && decide (p.heads ≤ 4) && decide (1 ≤ p.sets) && decide (p.sets ≤ 64) && pageTokensOk p.tokens &&
    f 0x0A 2 == 0 && decide (2 ≤ p.vocab) && decide (p.vocab ≤ 2 ^ 24) && f 0x26 2 == 0 && decide (1 ≤ p.count) && decide (p.count ≤ 256) &&
    p.tt % 2 ^ 21 == 0 && p.out % 2 ^ 16 == 0 && f 0x36 2 == 0 && f 0x3E 2 == 0 && p.outLen % 2 ^ 16 == 0 &&
    decide (2 ^ 19 + 4 * p.vocab ≤ p.outLen)
  if ok then some p else none

/-- The step program of a context as it stands in HBM. -/
def State.prog (s : State) (c : Nat) : Option Prog :=
  match s.readDva c (s.fld64 .srvProgLoAddr .srvProgHiAddr c) 64 with
  | .ok b => parseProg b
  | .error _ => none

/-- Entries with SAMPLE set that a step may carry (R251). -/
def Prog.sampleMax (p : Prog) : Nat := min 32768 ((p.outLen - 2 ^ 19) / (4 * p.vocab))

/-- Pages that `n` positions take (R244). -/
def Prog.pagesFor (p : Prog) (n : Nat) : Nat := ceilDiv n p.tokens * p.sets

/-! ### KV pages (R244 to R247) -/

/-- Pages of the pool that requests hold. -/
def SrvCtx.used (x : SrvCtx) : List Nat := x.reqs.flatMap (fun r => r.2.pages)

/-- Free pages of a context's pool; SRV_KV_FREE. -/
def State.kvFree (s : State) (c : Nat) : Nat := s.fld .srvKvPagesPages c - (s.srv c).used.length

/-- The k-th number that a sorted list does not hold. -/
def nthFree : List Nat → Nat → Nat
  | [], k => k
  | u :: us, k => if u ≤ k then nthFree us (k + 1) else k

/-- One free page of a context's pool; which one the spec leaves open. -/
def State.pickPage (s : State) (c : Nat) (taken : List Nat) : State × Nat :=
  let used := sortBy (fun a b => decide (a ≤ b)) ((s.srv c).used ++ taken)
  (s.took, nthFree used (s.freeVal 32 % max 1 (s.fld .srvKvPagesPages c - used.length)))

/-- `n` free pages of a context's pool. -/
def State.pickPages (s : State) (c : Nat) : Nat → List Nat → State × List Nat
  | 0, acc => (s, acc)
  | n + 1, acc => let p := s.pickPage c acc; p.1.pickPages c n (acc ++ [p.2])

/-- KV_LOW is raised when the free pages fall below their threshold (R274). -/
def State.kvFrom (s : State) (c old : Nat) : State :=
  let lim := s.fld .srvKvLowLevel c
  if lim ≤ old ∧ s.kvFree c < lim then s.raise 0x23 c 0 else s

/-- The address of a slot's page map (R245). -/
def State.pmapAddr (s : State) (c slot : Nat) : Nat :=
  s.fld64 .srvPmapBaseLoBase .srvPmapBaseHiBase c + 4 * s.fld .srvMaxPagesPages c * slot

/-- Pages join a request and its page map. -/
def State.givePages (s : State) (c slot : Nat) (ps : List Nat) : State :=
  match (s.srv c).req slot with
  | none => s
  | some r =>
    if ps.isEmpty then s
    else
      let old := s.kvFree c
      let s1 := s.setReq c slot (some { r with pages := r.pages ++ ps })
      (s1.devWrite c (s.pmapAddr c slot + 4 * r.pages.length) (ps.flatMap (leBytes 4))).kvFrom c old

/-- The address of a page of the pool. -/
def State.pageAddr (s : State) (c page : Nat) : Nat := s.fld64 .srvKvBaseLoBase .srvKvBaseHiBase c + 2 ^ 16 * page

/-! ### Events (R273) -/

/-- A request event is formed. -/
def State.srvEvent (s : State) (c kind slot : Nat) (r : Req) (status : Nat) : State :=
  s.modSrv c (fun x =>
    { x with
      evNum := x.evNum + 1
      events := x.events ++ [⟨x.evNum + 1, kind, r.stream, r.seq, slot, r.epoch, status, r.delivered, r.lastGen, r.agen, r.adapter, false, false, false, false⟩] })

/-- Entries of a context's event ring. -/
def State.evRing (s : State) (c : Nat) : Nat := 2 ^ s.fld .srvEvqCtlLog2N c

/-- The 32 bytes of a request event (R273). -/
def SrvEv.bytes (e : SrvEv) (n : Nat) : List (BitVec 8) :=
  let phase := if (e.num - 1) / max 1 n % 2 = 0 then 1 else 0
  leBytes 8 e.seq ++ leBytes 4 (e.kind * 2 ^ 24 + phase * 2 ^ 23 + e.stream * 2 ^ 19 + e.slot) ++ leBytes 2 e.status ++ leBytes 2 e.epoch ++
    leBytes 4 e.tokens ++ leBytes 4 e.wgen ++ leBytes 4 e.agen ++ leBytes 4 e.adapter

/-! ### Output buffers (R272) -/

/-- The header of a request's output buffer. -/
def State.outHeader (s : State) (c : Nat) (r : Req) (st : Nat) : State := s.devWrite c r.outAddr (leBytes 4 r.delivered ++ leBytes 4 st ++ List.replicate 8 0)

/-- Tokens delivered, with their log-probabilities, appended to the output buffer. -/
def State.outTokens (s : State) (c : Nat) (r : Req) (ts : List (Nat × Nat)) : State :=
  if ts.isEmpty then s
  else s.devWrite c (r.outAddr + 16 + 8 * r.delivered) (ts.flatMap (fun t => leBytes 4 t.1 ++ leBytes 4 (if r.logp then t.2 else 0)))

/-! ### The end of a request (R241, R246, R261 to R263) -/

/-- A request ends: its pages and slot are freed, its epoch rises, its event is formed and its output buffer says so; commands that wait for it complete with
"already complete", and the cancel that ended it with success. -/
def State.endReq (s : State) (c slot kind status : Nat) : State :=
  match (s.srv c).req slot with
  | none => s
  | some r =>
    let s1 := s.srvEvent c kind slot r status
    let s2 := s1.modSrv c (fun x => { x.setReq slot none with epochs := Tbl.upd natZero x.epochs slot (fun e => (e + 1) % 2 ^ 16) })
    let s3 := if r.st = .reserved then s2 else s2.outHeader c r 1
    let s4 := match r.cancels with
      | [] => s3
      | (q, n) :: rest =>
        let first := if kind = 4 then s3.finish c q n 0 r.delivered else s3.finish c q n St.alreadyComplete r.delivered
        rest.foldl (fun t k => t.finish c k.1 k.2 St.alreadyComplete r.delivered) first
    let s5 := (r.pauses ++ r.pause.toList).foldl (fun t p => t.finish c p.stream p.seq St.alreadyComplete r.delivered) s4
    match r.resume with
    | none => s5
    | some k => s5.finish c k.1 k.2 (if status = 0 then St.alreadyComplete else status) (if status = 0 then r.delivered else 0)

/-! ### Generations and adapters (R254, R356, R358 to R363) -/

/-- The slot of a model that holds a generation number. -/
def Model.slotOf (m : Model) (gen : Nat) : Option Nat := (List.range 4).find? (fun i => (m.slot i).st != .free && (m.slot i).num == gen)

/-- The generation is suspect: a shard is invalid, or the model is marked in every shard (R348, R362). -/
def State.genSuspect (s : State) (c model gen : Nat) : Bool :=
  let m := (s.wgt c).model model
  m.suspectAll || (match m.slotOf gen with | some i => (m.slot i).shards.any (fun x => x.invalid) | none => false)

/-- The served model and generation of a context. -/
def State.served (s : State) (c : Nat) : Nat × Nat := (s.fld .wgtServeModel c, s.fld .wgtServeGen c)

/-- Requests that bind a generation of the served model. -/
def State.binders (s : State) (c gen : Nat) : Nat := ((s.srv c).reqs.filter (fun r => r.2.pc && r.2.admitted && r.2.wgen == gen)).length

/-- The generation a request uses in the next step (R254). -/
def State.genOf (s : State) (c : Nat) (r : Req) : Nat := if r.pc && r.admitted then r.wgen else (s.served c).2

/-- The adapter copy's image is invalid, or is not held (R356). -/
def State.copyBad (s : State) (c : Nat) (k : ACopy) : Bool :=
  !((s.wgt c).images.any (fun i => i.shard.dva == k.dva && i.shard.arrived && !i.shard.invalid))

/-- The current copy of an adapter that may be bound: live, and with a valid image. -/
def State.adapterNow (s : State) (c id : Nat) : Option ACopy :=
  let x := s.srv c
  match x.adapters.find? (fun a => a.id == id && a.live) with
  | none => none
  | some a => x.copies.find? (fun k => k.id == id && k.gen == a.gen && !s.copyBad c k)

/-- Resident adapter copies of the module. -/
def State.allCopies (s : State) : List ACopy := s.srvs.flatMap (fun e => e.2.copies)

end Sys2Proof.Machine
end

