-- ==== Sys2Proof/Machine/Journal.lean ====
section
/-! DEFINITION. The journal: its placement, durable entries, retirement, recovery, loss and rebuilding of a copy, and the takeover by the other harbour die
(R34, R227 to R236). -/
namespace Sys2Proof.Machine

/-- R230: a new or changed entry is written whole to copy A and then to copy B; it is durable. -/
def execJournalEntryWrite (ctx stream seq : Nat) (s : State) : Out :=
  match s.entry ctx stream seq with
  | none => .next s
  | some e => when (s.fld .jnlCtlEn 0 == 1 && !e.durable) (s.journal e) s

/-- Groups decided, applied and with no member left leave the transaction log (R231). -/
def State.retireGroups (s : State) : State :=
  { s with groups := s.groups.filter (fun g => !(g.decision.isSome && g.applied && s.entries.all (fun e => e.grp != some g.num))) }

/-- R231: an entry retires once its record has committed and its completion is consumed. -/
def execJournalEntryRetire (ctx stream seq : Nat) (s : State) : Out :=
  match s.entry ctx stream seq with
  | none => .next s
  | some e =>
    when (e.done && e.written && e.owed.isEmpty && decide (seq ≤ s.consumed ctx stream))
      (({ s with entries := s.entries.filter (fun x => !x.is ctx stream seq) } : State).retireGroups) s

/-! ### Placement (R227, R275) -/

/-- A copy placed in HBM: its stack, its first 2 MiB unit and its units. -/
structure Placed where
  stack : Nat
  base : Nat
  units : Nat
deriving DecidableEq, Repr

/-- Two copies share a byte. -/
def Placed.overlaps (a b : Placed) : Bool := a.stack == b.stack && decide (a.base < b.base + b.units) && decide (b.base < a.base + a.units)

/-- The stack exists and is not lost, and the copy lies within its 48 GiB. -/
def State.placeable (s : State) (p : Placed) : Bool := decide (p.stack < 24) && !s.stackLost p.stack && decide (p.base + p.units ≤ 24576)

/-- The serving state area's copies, while it is in use (R275). -/
def State.splPlaced (s : State) : List Placed :=
  if s.fld .splCtlEn 0 = 1 then
    [⟨s.fld .splCtlStackA 0, s.fld .splBaseABase 0, 32⟩, ⟨s.fld .splCtlStackB 0, s.fld .splBaseBBase 0, 32⟩]
  else []

/-- The journal's copies, while it is in use. -/
def State.jnlPlaced (s : State) : List Placed :=
  if s.fld .jnlCtlEn 0 = 1 then
    [⟨s.fld .jnlCtlStackA 0, s.fld .jnlBaseABase 0, s.fld .jnlSizeSize 0⟩, ⟨s.fld .jnlCtlStackB 0, s.fld .jnlBaseBBase 0, s.fld .jnlSizeSize 0⟩]
  else []

/-- R227: a write of JNL_CTL. EN set locks the placement, or the write is ignored whole with PLACE_ERR. -/
def State.writeJnlCtl (s : State) (w : Nat) : State :=
  if s.fld .jnlCtlEn 0 = 1 then s
  else
    let a := bits w 5 1
    let b := bits w 10 6
    let s0 := s.setFld .jnlStatPlaceErr 0 0
    let set (v : Nat) : State := ((s0.setFld .jnlCtlStackA a 0).setFld .jnlCtlStackB b 0).setFld .jnlCtlEn v 0
    if !bit w 0 then set 0
    else
      let pa : Placed := ⟨a, s.fld .jnlBaseABase 0, s.fld .jnlSizeSize 0⟩
      let pb : Placed := ⟨b, s.fld .jnlBaseBBase 0, s.fld .jnlSizeSize 0⟩
      let ok := a != b && s.placeable pa && s.placeable pb && s.splPlaced.all (fun x => !x.overlaps pa && !x.overlaps pb)
      if ok then set 1 else s0.setFld .jnlStatPlaceErr 1 0

def execJournalEnable (value : Nat) (s : State) : Out := .next (s.writeJnlCtl value)

/-! ### Loss and rebuilding of a copy (R233) -/

/-- The lost copy, where exactly one stack of the journal is lost: true for copy B. -/
def State.lostCopy (s : State) : Option Bool :=
  match s.stackLost (s.fld .jnlCtlStackA 0), s.stackLost (s.fld .jnlCtlStackB 0) with
  | true, false => some false
  | false, true => some true
  | _, _ => none

/-- R233: the journal continues on the surviving copy. -/
def execJournalStackLoss (s : State) : Out :=
  when (s.fld .jnlCtlEn 0 == 1 && s.fld .jnlStatSingle 0 == 0 && s.lostCopy.isSome) ((s.setFld .jnlStatSingle 1 0).raise 0x05 0 1) s

/-- R233: a write of JNL_REPL. With GO and SINGLE set and a stack other than the surviving one, every entry that has not retired is copied to the
replacement, which takes the lost copy's place, and SINGLE clears. -/
def State.writeJnlRepl (s : State) (w : Nat) : State :=
  let st := bits w 19 15
  let ba := bits w 14 0
  let s0 := (s.setFld .jnlReplStack st 0).setFld .jnlReplBase ba 0
  match s.lostCopy with
  | none => s0
  | some b =>
    let live := if b then s.fld .jnlCtlStackA 0 else s.fld .jnlCtlStackB 0
    if !bit w 31 ∨ s.fld .jnlStatSingle 0 = 0 ∨ st = live ∨ !s.placeable ⟨st, ba, s.fld .jnlSizeSize 0⟩ then s0
    else
      let src := s.jnlBase (!b)
      let dst := hbmKey st (ba * 2 ^ 21)
      let put (t : State) (slot : Nat) : State :=
        t.hbmWrite none (dst + 2 ^ 16 + 256 * slot) (s.hbmBytes (src + 2 ^ 16 + 256 * slot) 256)
      let slots := (s.entries.filter (fun e => decide (1 ≤ e.update))).map (fun e => e.slot) ++
        (s.groups.filter (fun g => g.decision.isSome)).map (fun g => g.slot)
      let s1 := slots.foldl put s0
      let s2 := if b then (s1.setFld .jnlCtlStackB st 0).setFld .jnlBaseBBase ba 0 else (s1.setFld .jnlCtlStackA st 0).setFld .jnlBaseABase ba 0
      s2.setFld .jnlStatSingle 0 0

def execJournalRebuild (value : Nat) (s : State) : Out := .next (s.writeJnlRepl value)

/-! ### Recovery (R232, R234) -/

/-- A journal entry's bytes have a valid ECRC. -/
def entryValid (b : List (BitVec 8)) : Bool := leAt b 0xFC 4 == crc32c (b.take 0xFC)

/-- The bytes of a place of the ring that recovery takes: the valid copy with the higher UPDATE (R232). -/
def State.entryBytes (s : State) (slot : Nat) : Option (List (BitVec 8)) :=
  let get (b : Bool) : Option (List (BitVec 8)) :=
    let k := s.jnlBase b
    if s.stackLost (stackOf k) then none
    else
      let x := s.hbmBytes (k + 2 ^ 16 + 256 * slot) 256
      if entryValid x then some x else none
  match get false, get true with
  | some a, some b => if leAt a 0xF8 4 < leAt b 0xF8 4 then some b else some a
  | some a, none => some a
  | none, b => b

/-- The places of the ring that hold a byte other than zero in either copy; an entry of zeros has no valid ECRC. -/
def State.usedSlots (s : State) : List Nat :=
  let of (b : Bool) : List Nat :=
    let lo := s.jnlBase b + 2 ^ 16
    (s.hbm.filter (fun c => decide (lo ≤ c.1) && decide (c.1 < lo + 256 * s.jnlCap))).map (fun c => (c.1 - lo) / 256)
  noDups (of false ++ of true)

/-- The entry that journal bytes hold; what the journal does not hold of it (its energy so far, the responses owed, its place in a group) comes from the
mirrored index (R231). -/
def State.parseEntry (s : State) (slot : Nat) (b : List (BitVec 8)) : Option Entry :=
  let w := leAt b 0x88 4
  let c := bits w 31 26
  let q := bits w 25 22
  let seq := leAt b 0x80 8
  let st := bits w 21 19
  let old := s.entry c q seq
  let e0 := mkEntry c q (b.take 128) (leAt b 0x90 8) slot []
  let en := (old.map (fun x => x.energy)).getD 0
  let rep := bits w 5 0
  let cw := leAt b 0xA8 4
  let base := { e0 with
    seq := seq, update := leAt b 0xF8 4, durable := true, replays := rep, energy := en
    grp := (old.bind (fun x => x.grp)), tCommit := leAt b 0x98 8 }
  if st = 1 then some base
  else if st = 2 then some { base with replays := rep + 1 }
  else if st = 3 ∨ st = 4 then
    some { base with
      st := if st = 3 then .committed else .signalled, admitted := true, begun := true
      status := bits cw 31 16, detail := leAt b 0xAC 4, energy := leAt b 0xB0 6, invalid := bit cw 6, sat := bit cw 5
      point := some (bits cw 31 16, leAt b 0xAC 4) }
  else none

/-- An entry of the ring has retired: its record committed and its completion was consumed (R231). -/
def State.retired (s : State) (e : Entry) : Bool := e.done && decide (e.seq ≤ s.consumed e.ctx e.stream)

/-- A record's work that goes on across a module reset, held in memory that survives it: a collective, a stage run, a seal, a turn, or a serving command that waits. -/
def State.keepsWork (s : State) (e : Entry) : Bool :=
  let is (q n : Nat) : Bool := e.stream == q && e.seq == n
  s.colls.any (fun k => k.ctx == e.ctx && (match k.owner with | .record q n => is q n | _ => false)) ||
  s.runs.any (fun r => r.ctx == e.ctx && is r.stream r.seq) ||
  s.tgs.any (fun g => g.ctx == e.ctx && g.sealRun.any (fun x => is x.stream x.seq)) ||
  s.turn.any (fun u => u.ctx == e.ctx && is u.stream u.seq) ||
  (s.srv e.ctx).ops.any (fun o => match o with | .install q n _ _ _ => is q n | .retire q n _ => is q n | .switch q n _ _ => is q n | .barrier q n _ => is q n) ||
  (s.srv e.ctx).reqs.any (fun r => r.2.cancels.any (fun k => is k.1 k.2) || (r.2.pauses ++ r.2.pause.toList).any (fun p => is p.stream p.seq) ||
    r.2.resume.any (fun k => is k.1 k.2))

/-- R232, R234 to R236: the index of entries is rebuilt from both copies, unfinished records will run again, committed completions will be written
again, and RECOVERY_DONE is raised. -/
def State.recover (s : State) : State :=
  let es := (s.usedSlots.filterMap (fun i => (s.entryBytes i).bind (s.parseEntry i))).filter (fun e => !s.retired e)
  let es := es.map (fun e => if !e.done && s.keepsWork e then { e with st := .started, admitted := true, begun := true } else e)
  let es1 := sortBy (fun a b => decide (lwInst a.ctx a.stream < lwInst b.ctx b.stream ∨ (lwInst a.ctx a.stream = lwInst b.ctx b.stream ∧ a.seq ≤ b.seq))) es
  let again := (es1.filter (fun e => e.st == .accepted && e.replays != 0 && (match s.entry e.ctx e.stream e.seq with | some x => e.replays != x.replays | none => true))).length
  let s1 := (({ s with entries := es1 } : State).bump .jnlReplayCnt 0 again).setFld .jnlStatRecovering 0 0
  (s1.markRewrite.retireGroups).raise 0x05 0 3

/-! ### Takeover (R34, R226, R235) -/

/-- Entries that never became durable are gone, and their streams expect their numbers again (R34, R212). -/
def State.dropVolatile (s : State) : State :=
  let lost := s.entries.filter (fun e => e.update == 0)
  let s1 := lost.foldl (fun t e =>
    if e.seq < t.lwNext e.ctx e.stream then t.put64 .lwNextLo .lwNextHi e.seq (lwInst e.ctx e.stream) else t) s
  { s1 with entries := s1.entries.filter (fun e => e.update != 0) }

/-- R34, R235: the other harbour die's control processors resume from the last durable entries; unconsumed completions will be written again. -/
def execControlTakeover (s : State) : Out :=
  if s.run != .ready then .next s
  else
    let s1 := ({ s.dropVolatile with die := 1 - s.die } : State).markRewrite
    .next (if s1.entries.any (fun e => e.rew) then s1 else s1.raise 0x05 0 3)

end Sys2Proof.Machine
end

