-- ==== Sys2Proof/Machine/WgtLoad.lean ====
section
/-! DEFINITION. Weights in HBM: pages and tables of the pool, manifests, the shortage policies, and generations freed (R346 to R352, R364 to R367, R504). -/
namespace Sys2Proof.Machine

namespace St
def digestMismatch : Nat := 0x0400
def manifestRefused : Nat := 0x0402
def weightQuota : Nat := 0x0403
def slotsFull : Nat := 0x0404
def genNotReady : Nat := 0x0405
def genInUse : Nat := 0x0406
def modelEvicted : Nat := 0x0407
def turnInProgress : Nat := 0x0409
def turnRefused : Nat := 0x040A
def turnAborted : Nat := 0x040B
def storageRead : Nat := 0x040C
def storageWrite : Nat := 0x040D
end St

/-! ### Pages (R349) -/

/-- Every shard of a context: of its generations, its images and its loads. -/
def State.ctxShards (s : State) (ctx : Nat) : List Shard :=
  let w := s.wgt ctx
  w.models.flatMap (fun m => m.2.slots.flatMap (fun g => g.2.shards)) ++ w.images.map (fun i => i.shard) ++
    (s.loads.filter (fun j => j.ctx == ctx && j.kind == .fresh)).flatMap (fun j => j.shards.map (fun x => x.shard))

/-- 2 MiB pages that count against a context's quota: the pages of its shards outside the host tier and of its tables; WGT_USED. -/
def State.wgtUsed (s : State) (ctx : Nat) : Nat :=
  (((s.ctxShards ctx).filter (fun x => x.host.isNone)).map (fun x => x.pages.length)).sum + (s.wgt ctx).tables.length

/-- The 2 MiB units of a stack that the module holds: for weights, the journal and the serving state area. -/
def State.heldUnits (s : State) (st : Nat) : List Nat :=
  let pages := (List.range 64).flatMap (fun c => (s.ctxShards c).flatMap (fun x => x.pages) ++ (s.wgt c).tables)
  let mine := (pages.filter (fun k => stackOf k == st)).map (fun k => k % 2 ^ 36 / 2 ^ 21)
  let area := ((s.splPlaced ++ s.jnlPlaced).filter (fun p => p.stack == st)).flatMap (fun p => (List.range p.units).map (fun i => p.base + i))
  sortBy (fun a b => decide (a ≤ b)) (noDups (mine ++ area))

/-- Isthmus hops between two islands (R22, R23). -/
def hops (a b : Nat) : Nat := (a % 4 - b % 4) + (b % 4 - a % 4) + (a / 4 - b / 4) + (b / 4 - a / 4)

/-- The stacks in the order in which a page is looked for: by hops from the preferred one, lowest number first (R349). -/
def stackOrder (pref : Nat) : List Nat := sortBy (fun a b => decide (hops pref a < hops pref b ∨ (hops pref a = hops pref b ∧ a ≤ b))) (List.range 24)

/-- One free page of HBM; which of a stack's free pages it is, the spec leaves open (log entry 24). -/
def State.pickHbm (s : State) (pref : Nat) (taken : List Nat) : Option (State × Nat) :=
  let free (st : Nat) : List Nat := sortBy (fun a b => decide (a ≤ b)) (noDups (s.heldUnits st ++ (taken.filter (fun k => stackOf k == st)).map (fun k => k % 2 ^ 36 / 2 ^ 21)))
  match (stackOrder pref).find? (fun st => !s.stackLost st && decide ((free st).length < 24576)) with
  | none => none
  | some st => some (s.took, hbmKey st (nthFree (free st) (s.freeVal 32 % (24576 - (free st).length)) * 2 ^ 21))

/-- `n` pages; those of shards are counted where they are off their preferred stack (R349). -/
def State.pickHbms (s : State) (ctx pref : Nat) (shard : Bool) : Nat → List Nat → List Nat → Option (State × List Nat)
  | 0, _, acc => some (s, acc)
  | n + 1, taken, acc =>
    match s.pickHbm pref (taken ++ acc) with
    | none => none
    | some (t, k) => (if !shard || stackOf k == pref then t else t.bump .wgtMisplaceCnt ctx).pickHbms ctx pref shard n taken (acc ++ [k])

/-- Every shard that is not tiered is given its pages. -/
def State.backShards (s : State) (ctx : Nat) : List Shard → List Nat → List Shard → Option (State × List Shard)
  | [], _, acc => some (s, acc)
  | x :: xs, taken, acc =>
    if x.host.isSome then s.backShards ctx xs taken (acc ++ [x])
    else
      match s.pickHbms ctx x.stack true x.npages taken [] with
      | none => none
      | some (t, ks) => t.backShards ctx xs (taken ++ ks) (acc ++ [{ x with pages := ks }])

/-! ### Tables (R501, R502, R504) -/

/-- The tables missing for a page address: 2, 1 or 0, from the entries of levels 0 and 1. -/
def State.tablesFor (s : State) (ctx dva : Nat) : Nat :=
  let b := s.fld64 .ctxTtBaseLoBase .ctxTtBaseHiBase ctx
  let e0 := leNat (s.hbmBytes (b + 8 * (dva / 2 ^ 39 % 512)) 8)
  if !bit e0 63 then 2
  else if bit (leNat (s.hbmBytes (pteAddr e0 + 8 * (dva / 2 ^ 30 % 512)) 8)) 63 then 0 else 1

/-- Tables missing for a list of page addresses: one for each gigabyte and one for each 512 gigabytes not yet reached. -/
def State.tablesAll (s : State) (ctx : Nat) (as : List Nat) : Nat :=
  (noDups ((as.filter (fun a => s.tablesFor ctx a != 0)).map (fun a => a / 2 ^ 30))).length +
    (noDups ((as.filter (fun a => s.tablesFor ctx a == 2)).map (fun a => a / 2 ^ 39))).length

/-- 2 MiB pages to add so that `n` more tables fit in those the module holds for a context. -/
def State.tablePages (s : State) (ctx n : Nat) : Nat := ceilDiv ((s.wgt ctx).tabUsed + n) 512 - (s.wgt ctx).tables.length

/-- One 4 KiB table, zeroed, from the pages the module holds for tables. -/
def State.newTable (s : State) (ctx : Nat) : State × Nat :=
  let w := s.wgt ctx
  let k := w.tables.getD (w.tabUsed / 512) 0 + w.tabUsed % 512 * 4096
  ((s.setWgt ctx { w with tabUsed := w.tabUsed + 1 }).hbmWrite none k (List.replicate 4096 0), k)

/-- A pointer entry that takes nothing from the attributes of the page below it. -/
def ptePointer (k : Nat) : Nat := 2 ^ 63 + 2 ^ 60 + 2 ^ 59 + k

/-- The entry at a key points to a table: the one it names, or a new one. -/
def State.tableAt (s : State) (ctx k : Nat) : State × Nat :=
  let e := leNat (s.hbmBytes k 8)
  if bit e 63 then (s, pteAddr e)
  else
    let t := s.newTable ctx
    (t.1.hbmWrite none k (leBytes 8 (ptePointer t.2)), t.2)

/-- The key of the level-2 entry of a page address, its tables made where they are missing. -/
def State.entryKey (s : State) (ctx dva : Nat) : State × Nat :=
  let b := s.fld64 .ctxTtBaseLoBase .ctxTtBaseHiBase ctx
  let t1 := s.tableAt ctx (b + 8 * (dva / 2 ^ 39 % 512))
  let t2 := t1.1.tableAt ctx (t1.2 + 8 * (dva / 2 ^ 30 % 512))
  (t2.1, t2.2 + 8 * (dva / 2 ^ 21 % 512))

/-- A 2 MiB page entry: type, address, and W and PF, which the spec does not give for weight pages (log entry 25). -/
def pteOf (ty addr attrs : Nat) : Nat := 2 ^ 63 + ty * 2 ^ 61 + (attrs % 4) * 2 ^ 59 + addr

/-- A shard's pages are mapped: to its HBM pages, or to its place in the host tier (R349, R366). -/
def State.mapShard (s : State) (ctx : Nat) (x : Shard) : State :=
  let attrs := s.freeVal 2
  let put (t : State) (i : Nat) : State :=
    let k := t.entryKey ctx (x.dva + i * 2 ^ 21)
    let e := match x.pages[i]?, x.host with
      | some p, _ => pteOf 1 p attrs
      | none, some h => pteOf 2 (h + i * 2 ^ 21) attrs
      | none, none => 0
    k.1.hbmWrite none k.2 (leBytes 8 e)
  (List.range x.npages).foldl put s.took

/-! ### Generations freed (R353, R359, R360, R367) -/

/-- A generation slot is freed: its pages are unmapped and released. -/
def State.freeGen (s : State) (ctx model i : Nat) : State :=
  let g := ((s.wgt ctx).model model).slot i
  let s1 := g.shards.foldl (fun t x => t.unmapShard ctx x) s
  s1.modModel ctx model (fun m => m.setSlot i GenSlot.reset)

/-- A model has a generation. -/
def Model.holds (m : Model) : Bool := m.slots.any (fun g => g.2.st != .free)

/-- A model that the evict policy may free: it holds a generation that is not being loaded, is not served, not pinned, and no request binds it (R367). -/
def State.evictable (s : State) (ctx m : Nat) : Bool :=
  let x := (s.wgt ctx).model m
  x.holds && x.slots.all (fun g => g.2.st != .loading) && x.pins == 0 && !(s.fld .wgtServeGen ctx != 0 && s.fld .wgtServeModel ctx == m)

/-- HBM pages of a model. -/
def Model.pages (m : Model) : Nat := (m.slots.map (fun g => ((g.2.shards.filter (fun x => x.host.isNone)).map (fun x => x.pages.length)).sum)).sum

/-- Evictable models in ascending order of last use. -/
def State.evictOrder (s : State) (ctx : Nat) : List Nat :=
  sortBy (fun a b => decide (((s.wgt ctx).model a).lastUse ≤ ((s.wgt ctx).model b).lastUse)) ((List.range 8).filter (s.evictable ctx))

/-- A model is evicted with all its generations (R367). -/
def State.evict (s : State) (ctx m : Nat) : State :=
  let s1 := (List.range 4).foldl (fun t i => t.freeGen ctx m i) s
  ((s1.modModel ctx m (fun x => { x with evicted := true })).bump .wgtEvictCnt ctx).raise 0x26 ctx 2

/-- Models evicted in order until `need` more pages fit the quota. -/
def State.evictFor (s : State) (ctx need : Nat) : List Nat → State
  | [] => s
  | m :: ms => if s.wgtUsed ctx + need ≤ s.fld .wgtQuotaPages ctx then s else (s.evict ctx m).evictFor ctx need ms

/-- R367: models are freed in order of last use until the operation that waits for it fits. -/
def execModelEvict (ctx : Nat) (s : State) : Out :=
  match (s.wgt ctx).want with
  | none => .next s
  | some n =>
    let s1 := s.evictFor ctx n (s.evictOrder ctx)
    .next (s1.setWgt ctx { s1.wgt ctx with want := none })

/-- R359: a retained generation that no request binds and no step in flight uses is freed. -/
def execGenerationFree (ctx model slot : Nat) (s : State) : Out :=
  let g := ((s.wgt ctx).model model).slot slot
  let inUse := match (s.srv ctx).step with | some r => (s.served ctx).1 == model && r.gens.contains g.num | none => false
  let bound := (s.served ctx).1 == model && s.binders ctx g.num != 0
  when (g.st == .retained && !inUse && !bound) ((s.freeGen ctx model slot).raise 0x26 ctx 1) s

/-! ### Manifests (R350 to R352) -/

/-- A manifest: its flags, model, generation and shards. -/
structure Manifest where
  adapter : Bool
  inplace : Bool
  built : Bool
  model : Nat
  gen : Nat
  shards : List Shard
deriving DecidableEq, Repr

/-- A shard entry of 64 bytes (R351). -/
def parseShard (i : Nat) (b : List (BitVec 8)) : Shard :=
  let f (o n : Nat) := leAt b o n
  { index := i, dva := f 0 6, bytes := f 8 4, layer := f 0xC 2, tierable := bit (f 0xE 1) 5, stack := bits (f 0xE 1) 4 0, target := f 0xF 1, offset := f 0x10 8,
    digest := some ((b.drop 0x20).take 32), invalid := false, arrived := false, pages := [], host := none }

/-- The fields of a shard entry are within their limits (R351). -/
def shardOk (built : Bool) (b : List (BitVec 8)) : Bool :=
  let f (o n : Nat) := leAt b o n
  f 6 2 == 0 && f 0 6 % 2 ^ 21 == 0 && f 8 4 != 0 && f 8 4 % 64 == 0 && bits (f 0xE 1) 7 6 == 0 && decide (bits (f 0xE 1) 4 0 < 24) &&
    (built || f 0x10 8 % 4096 == 0) && f 0x18 8 == 0

/-- Two shards share a page. -/
def Shard.meets (a b : Shard) : Bool := decide (a.dva < b.dva + b.npages * 2 ^ 21) && decide (b.dva < a.dva + a.npages * 2 ^ 21)

/-- The shard lies within the context's pool (R349). -/
def State.inPool (s : State) (ctx : Nat) (x : Shard) : Bool :=
  let b := s.fld64 .wgtPoolLoBase .wgtPoolHiBase ctx
  decide (b ≤ x.dva) && decide (x.dva + x.npages * 2 ^ 21 ≤ b + s.fld .wgtPoolSizePages ctx * 2 ^ 21)

/-- No two shards of a list share a page. -/
def apart : List Shard → Bool
  | [] => true
  | x :: xs => xs.all (fun y => !x.meets y) && apart xs

/-- A resident generation that a manifest would repair (R357). -/
def State.repairs (s : State) (ctx : Nat) (m : Manifest) : Option Nat :=
  if m.adapter then none
  else (((s.wgt ctx).model m.model).slotOf m.gen).bind (fun i => if (((s.wgt ctx).model m.model).slot i).st = .loading then none else some i)

/-- An in-place update: the model is in in-place mode and serves a generation (R361, R378). -/
def State.updates (s : State) (ctx : Nat) (m : Manifest) : Option Nat :=
  let x := (s.wgt ctx).model m.model
  if m.adapter || !m.inplace || !x.inplace then none else (List.range 4).find? (fun i => (x.slot i).st == .serving)

/-- R347: the number is not reserved and greater than every number the model holds or has held. -/
def State.genRises (s : State) (ctx : Nat) (m : Manifest) : Bool :=
  let x := (s.wgt ctx).model m.model
  m.gen != 0 && m.gen != 0xFFFFFFFF && decide (x.top < m.gen) && x.slots.all (fun g => g.2.st == .free || decide (g.2.num < m.gen))

/-- A repair's manifest gives the recorded digest of every shard, none of which a turn built (R357). -/
def repairOk (g : GenSlot) (m : Manifest) : Bool :=
  !g.built && g.shards.length == m.shards.length &&
    (g.shards.zip m.shards).all (fun p => p.1.digest == p.2.digest && p.1.dva == p.2.dva && p.1.bytes == p.2.bytes)

/-- The checks of R352 on a manifest that has been read: the DETAIL of the first that fails. `turn` for a turn. -/
def State.checkManifest (s : State) (ctx : Nat) (turn : Bool) (hd body : List (BitVec 8)) : Except Nat Manifest :=
  let f (o n : Nat) := leAt hd o n
  let n := f 0x10 4
  let fl := f 6 2
  let ents := (List.range n).map (fun i => (body.drop (64 * i)).take 64)
  let m : Manifest := ⟨bit fl 2, bit fl 1, bit fl 0, f 8 4 % 8, f 0xC 4, ents.zipIdx.map (fun e => parseShard e.2 e.1)⟩
  let x := (s.wgt ctx).model m.model
  let fix := if turn then none else s.repairs ctx m
  let upd := s.updates ctx m
  let own : List Shard := match fix, upd with | some i, _ => (x.slot i).shards | none, some i => (x.slot i).shards | none, none => []
  let others := (s.ctxShards ctx).filter (fun y => !own.contains y)
  let covered (y : Shard) : Bool := upd.isNone || own.any (fun o => decide (o.dva ≤ y.dva) && decide (y.dva + y.npages * 2 ^ 21 ≤ o.dva + o.npages * 2 ^ 21))
  if f 0 4 ≠ 0x574D4E46 ∨ f 4 2 ≠ 1 then .error 1
  else if bits fl 15 3 ≠ 0 ∨ bits (f 8 4) 31 3 ≠ 0 ∨ n = 0 ∨ 65536 < n ∨ !(hd.drop 0x14).all (fun b => b == 0) ∨ !ents.all (shardOk m.built) then .error 2
  else if !m.shards.all (s.inPool ctx) ∨ !apart m.shards ∨ m.shards.any (fun y => others.any (fun o => o.meets y)) ∨ !m.shards.all covered then .error 3
  else if (!m.adapter && (match fix with | some i => !repairOk (x.slot i) m | none => !s.genRises ctx m)) = true then .error 4
  else if !m.adapter ∧ x.holds ∧ m.inplace ≠ x.inplace then .error 5
  else if m.built ≠ turn then .error 6
  else .ok m

/-- A manifest read through the context's translation. -/
inductive ManRead where
  | wait (s : State)
  | fail (s : State) (status detail : Nat)
  | ok (m : Manifest)

/-- A manifest is read and checked. -/
def State.readManifest (s : State) (ctx dva : Nat) (turn : Bool) (o : ReadOwner) : ManRead :=
  let bad (r : DvaRead) : ManRead :=
    match r with
    | .wait t => .wait t
    | .fault c a => let e := s.faultEnd ctx c 6 0 a; .fail e.1 e.2.1 e.2.2
    | .poison a k => let e := s.poisonEnd ctx a k; .fail e.1 e.2.1 e.2.2
    | .ok _ => .fail s St.manifestRefused 1
  match s.dvaRead ctx dva 64 o false with
  | .ok hd =>
    let n := leAt hd 0x10 4
    if leAt hd 0 4 ≠ 0x574D4E46 ∨ leAt hd 4 2 ≠ 1 then .fail s St.manifestRefused 1
    else if n = 0 ∨ 65536 < n then .fail s St.manifestRefused 2
    else
      match s.dvaRead ctx (dva + 64) (64 * n) o false with
      | .ok body => match s.checkManifest ctx turn hd body with | .ok m => .ok m | .error d => .fail s St.manifestRefused d
      | r => bad r
  | r => bad r

/-! ### When HBM is short (R364, R365, R367) -/

/-- Pages and table pages that shards would take. -/
def State.needPages (s : State) (ctx : Nat) (xs : List Shard) : Nat :=
  ((xs.filter (fun x => x.host.isNone)).map Shard.npages).sum + s.tablePages ctx (s.tablesAll ctx (xs.flatMap Shard.pageAddrs))

/-- Units of the host region that tiered shards hold, by their place in it. -/
def State.hostHeld (s : State) (ctx : Nat) (taken : List Shard) : List Nat :=
  let b := s.fld64 .wgtHostLoBase .wgtHostHiBase ctx
  (s.ctxShards ctx ++ taken).flatMap (fun x => match x.host with | some h => (List.range x.npages).map (fun i => (h - b) / 2 ^ 21 + i) | none => [])

/-- A place in the host region for a shard: the lowest run of free units (log entry 26). -/
def State.hostPlace (s : State) (ctx : Nat) (taken : List Shard) (x : Shard) : Option Nat :=
  let held := s.hostHeld ctx taken
  let n := s.fld .wgtHostSizePages ctx
  ((List.range n).find? (fun i => decide (i + x.npages ≤ n) && (List.range x.npages).all (fun j => !held.contains (i + j)))).map
    (fun i => s.fld64 .wgtHostLoBase .wgtHostHiBase ctx + i * 2 ^ 21)

/-- TIERABLE shards placed in the host tier, in the order given, until the others fit the quota (R365). -/
def State.tierShards (s : State) (ctx : Nat) : List Nat → List Shard → Option (List Shard)
  | order, xs =>
    if s.wgtUsed ctx + s.needPages ctx xs ≤ s.fld .wgtQuotaPages ctx then some xs
    else
      match order with
      | [] => none
      | i :: rest =>
        match xs[i]? with
        | none => s.tierShards ctx rest xs
        | some x =>
          match s.hostPlace ctx xs x with
          | none => s.tierShards ctx rest xs
          | some h => s.tierShards ctx rest (setAt xs i { x with host := some h })

/-- The places of TIERABLE shards in descending LAYER order. -/
def tierOrder (xs : List Shard) : List Nat :=
  (sortBy (fun a b => decide (b.1.layer ≤ a.1.layer)) ((xs.zipIdx).filter (fun e => e.1.tierable))).map (fun e => e.2)

/-- What the quota and the shortage policy answer for shards (R364). -/
inductive Fit where
  | ok (xs : List Shard)
  | lacking (n : Nat)
  | evict (need : Nat)

/-- The policy of a context applied to the shards of a load or turn. -/
def State.fit (s : State) (ctx : Nat) (xs : List Shard) : Fit :=
  let need := s.needPages ctx xs
  let quota := s.fld .wgtQuotaPages ctx
  let used := s.wgtUsed ctx
  if used + need ≤ quota then .ok xs
  else
    match s.fld .wgtCtlPolicy ctx with
    | 1 => match s.tierShards ctx (tierOrder xs) xs with | some ys => .ok ys | none => .lacking (used + need - quota)
    | 2 =>
      let gain := ((s.evictOrder ctx).map (fun m => ((s.wgt ctx).model m).pages)).sum
      if used + need ≤ quota + gain then .evict need else .lacking (used + need - quota)
    | _ => .lacking (used + need - quota)

/-- The shards are backed with pages and the tables they need are taken; none where no physical page is free anywhere (R349). -/
def State.back (s : State) (ctx : Nat) (xs : List Shard) : Option (State × List Shard) :=
  let nt := s.tablePages ctx (s.tablesAll ctx (xs.flatMap Shard.pageAddrs))
  match s.pickHbms ctx ((xs.map (fun x => x.stack)).getD 0 0) false nt [] [] with
  | none => none
  | some (t, tabs) =>
    let w := t.wgt ctx
    (t.setWgt ctx { w with tables := w.tables ++ tabs }).backShards ctx xs [] []

end Sys2Proof.Machine
end

