-- ==== Sys2Proof/Machine/FabOps.lean ====
section
/-! DEFINITION. The fabric: messages on the wire, the route table, and how a message leaves an engine by a strait (R317, R391, R396 to R403, R411, R412). -/
namespace Sys2Proof.Machine

def State.str (s : State) (i : Nat) : Strait := Tbl.get strDef s.strs i

def State.modStr (s : State) (i : Nat) (f : Strait → Strait) : State := { s with strs := Tbl.set strDef s.strs i (f (s.str i)) }

def State.eng (s : State) (i : Nat) : Engine := Tbl.get engDef s.engs i

def State.modEng (s : State) (i : Nat) (f : Engine → Engine) : State := { s with engs := Tbl.set engDef s.engs i (f (s.eng i)) }

/-- The module's fabric identifier (R399). -/
def State.fabId (s : State) : Nat := s.fld .fabIdId 0

/-- The optical engine of a strait is at trip, which disables the strait (R468). -/
def State.strTripped (s : State) (i : Nat) : Bool := s.pw.tripped.contains i

/-- The island is off (R28). -/
def State.islOff (s : State) (i : Nat) : Bool := s.fld .islStatState i == 2

/-- How many of the low `n` bits are set. -/
def ones (n w : Nat) : Nat := ((List.range n).filter (fun i => bit w i)).length

/-! ### Messages (R317, R318) -/

/-- The header's first 28 bytes. -/
def Msg.head (m : Msg) : List (BitVec 8) :=
  leBytes 6 m.tag ++ leBytes 2 (m.dctx * 2 ^ 10 + m.disl * 2 ^ 5 + m.sisl) ++ leBytes 4 (m.sfab * 2 ^ 18 + m.dfab * 2 ^ 4 + m.msg) ++ leBytes 4 m.chunk ++
    leBytes 4 (m.lo * 2 ^ 18 + m.log * 2 ^ 14 + m.attempt * 2 ^ 10) ++ leBytes 4 m.data.length ++ leBytes 4 m.epoch

/-- The CRC of the header and payload. -/
def Msg.sum (m : Msg) : Nat := crc32c (m.head ++ m.data)

/-- A message with its CRC formed. -/
def Msg.sealed (m : Msg) : Msg := { m with crc := m.sum }

/-- The message as its bytes. -/
def Msg.bytes (m : Msg) : List (BitVec 8) := m.head ++ leBytes 4 m.crc ++ m.data

/-- The message that bytes spell. -/
def parseMsg (b : List (BitVec 8)) : Msg :=
  let f (o n : Nat) := leAt b o n
  let w := f 6 2
  let v := f 8 4
  let n := f 0x10 4
  { tag := f 0 6, dctx := bits w 15 10, disl := bits w 9 5, sisl := bits w 4 0, sfab := bits v 31 18, dfab := bits v 17 4, msg := bits v 3 0, chunk := f 0xC 4,
    lo := bits n 31 18, log := bits n 17 14, attempt := bits n 13 10, epoch := f 0x18 4, crc := f 0x1C 4, sctx := 0, again := false, turn := false, data := b.drop 32 }

/-! ### Routes (R400 to R403) -/

def State.route (s : State) (d : Nat) : Nat := Tbl.get natZero s.routes d

def routeKind (e : Nat) : Nat := bits e 31 30

/-- A strait is up with a module as its recorded peer (R389, R401). -/
def State.upTo (s : State) (i d : Nat) : Bool := s.fld .strStatState i == 6 && s.fld .strPeerValid i == 1 && s.fld .strPeerFabricId i == d

/-- The straits that a direct entry names and that are up to its destination. -/
def State.straitsTo (s : State) (d : Nat) : List Nat := (List.range 24).filter (fun i => bit (s.route d) i && s.upTo i d)

/-- The module at the end of the next hop towards a destination, where its entry is valid. -/
def State.hopTo (s : State) (d : Nat) : Option Nat :=
  let e := s.route d
  if routeKind e = 1 then some d else if routeKind e = 2 ∧ routeKind (s.route (bits e 13 0)) = 1 then some (bits e 13 0) else none

/-- An entry names a valid route (R325, R403). -/
def State.routed (s : State) (d : Nat) : Bool := decide (routeKind (s.route d) = 1) || decide (routeKind (s.route d) = 2)

/-- The strait a chunk of an engine leaves by: its own island's where that qualifies, else the nearest by hops, lowest number first (R402). -/
def State.straitFor (s : State) (isl d : Nat) : Option Nat :=
  match s.hopTo d with
  | none => none
  | some h => (stackOrder isl).find? (fun i => (s.straitsTo h).contains i)

/-! ### Leaving by a strait (R396, R398, R411, R412) -/

def State.testPerm (s : State) (c : Nat) : Bool := s.fld .modTestEn 0 == 1 && (c == 0 || s.fld .ctxCtlTestPerm c == 1)

/-- Injection applies at a strait, at a layer, to a chunk of the contexts named, not sent before (R411). -/
def State.injects (s : State) (i layer dctx sctx : Nat) (again : Bool) : Bool :=
  let c := s.fld .strInjCtlCtx i
  s.fld .strInjCtlMode i != 0 && s.fld .strInjCtlLayer i == layer && s.testPerm c && (dctx == c || sctx == c) && !again

/-- An eligible frame or chunk is seen: the trigger of R412 answers whether it is injected. -/
def State.injectNow (s : State) (i : Nat) : State × Bool :=
  let p := s.fld .strInjCtlParam i
  if s.fld .strInjCtlTrig i = 0 then
    let n := (s.str i).injSeen + 1
    if n < p then (s.modStr i (fun x => { x with injSeen := n }), false)
    else ((s.modStr i (fun x => { x with injSeen := 0 })).bump .strInjCnt i, true)
  else if s.freeVal p = 0 then (s.took.bump .strInjCnt i, true)
  else (s.took, false)

/-- A payload with the injection pattern XORed in at its word OFFSET. -/
def State.corrupt (s : State) (i : Nat) (bs : List (BitVec 8)) : List (BitVec 8) :=
  let o := 4 * s.fld .strInjOffsetOffset i
  let p := leBytes 4 (s.fld .strInjPattern i)
  bs.zipIdx.map (fun e => if o ≤ e.2 ∧ e.2 < o + 4 then e.1 ^^^ p.getD (e.2 - o) 0 else e.1)

/-- The channel of a chunk towards a peer (R396). -/
def vcOf (m : Msg) (peer : Nat) : Nat := if peer = m.dfab then (if m.msg = 0 then 1 else 0) else 2

/-- A message joins the chunks that wait at a strait; one held back for reordering follows it. -/
def State.strQueue (s : State) (i vc : Nat) (m : Msg) : State :=
  s.modStr i (fun x =>
    { x with waiting := Tbl.upd noMsgs x.waiting vc (fun q => q ++ [m] ++ Tbl.get noMsgs x.heldMsg vc), heldMsg := Tbl.set noMsgs x.heldMsg vc [] })

/-- A message starts its hop on a strait; injection at the chunk layer may drop it, corrupt it or hold it back (R412). -/
def State.strSend (s : State) (i : Nat) (m : Msg) : State :=
  let vc := vcOf m (s.fld .strPeerFabricId i)
  if s.injects i 1 m.dctx m.sctx m.again then
    let t := s.injectNow i
    if !t.2 then t.1.strQueue i vc m
    else
      match s.fld .strInjCtlMode i with
      | 1 => t.1
      | 2 => t.1.strQueue i vc { m with data := s.corrupt i m.data }
      | _ => t.1.modStr i (fun x => { x with heldMsg := Tbl.upd noMsgs x.heldMsg vc (fun q => q ++ [m]) })
  else s.strQueue i vc m

/-- A message leaves an engine: within the module it reaches the other engine at once (R398); elsewhere it takes a strait, where one qualifies. -/
def State.hop (s : State) (isl : Nat) (m : Msg) : Option State :=
  if m.dfab = s.fabId then some (s.modEng m.disl (fun e => { e with inbox := e.inbox ++ [⟨m, none⟩] }))
  else (s.straitFor isl m.dfab).map (fun i => s.strSend i m)

/-- A control message of an engine, which waits there until it can leave. -/
def State.control (s : State) (isl : Nat) (m : Msg) : State := s.modEng isl (fun e => { e with outq := e.outq ++ [m.sealed] })

/-- The link credit a message held goes back to its sender (R396, R397). -/
def State.freeVia (s : State) (v : Option (Nat × Nat × Nat)) : State :=
  match v with
  | none => s
  | some (i, vc, n) => s.modStr i (fun x => { x with give := Tbl.upd vcBuffer x.give vc (fun g => (g + n) % 2 ^ 16) })

end Sys2Proof.Machine
end

