-- ==== Sys2Proof/Machine/ColOps.lean ====
section
/-! DEFINITION. Collectives: groups, chunks and nodes, what a module sends and expects, the canonical combine, landing, and how a collective ends (R308 to R326). -/
namespace Sys2Proof.Machine

namespace St
def windowFull : Nat := 0x0300
def tagInUse : Nat := 0x0301
def collAborted : Nat := 0x0302
def unreachable : Nat := 0x0303
def groupRefused : Nat := 0x0304
def sealAborted : Nat := 0x0305
def publishRefused : Nat := 0x0306
def tgUnknown : Nat := 0x0307
def tgBusy : Nat := 0x0308
def scheduleRefused : Nat := 0x0309
end St

/-! ### Groups (R308, R309) -/

/-- The smallest k with `n` not above 2^k. -/
def logUp (n : Nat) : Nat := if n ≤ 1 then 0 else (n - 1).log2 + 1

/-- An entry of 32 bytes. -/
def parseGEnt (b : List (BitVec 8)) : GEnt :=
  let f (o : Nat) := leAt b o 4
  ⟨bits (f 0) 31 18, bits (f 0) 17 12, bits (f 4) 31 18, bits (f 4) 17 14, bits (f 4) 3 0, bits (f 8) 23 0, f 0x10, f 0x14⟩

/-- The entry's reserved bits and limits. -/
def gentOk (b : List (BitVec 8)) : Bool :=
  let f (o : Nat) := leAt b o 4
  bits (f 0) 11 0 == 0 && bits (f 4) 13 4 == 0 && bits (f 8) 31 24 == 0 && bits (f 8) 23 0 != 0 && f 0xC == 0 && f 0x18 == 0 && f 0x1C == 0 &&
    decide (bits (f 4) 31 18 % 2 ^ bits (f 4) 17 14 = 0)

/-- Each leaf below L lies under exactly one entry, and every entry has one. -/
def coversLeaves (d : GroupDesc) : Bool :=
  d.ents.all (fun e => decide (e.lo < d.leaves)) &&
    (List.range d.leaves).all (fun l => ((d.ents.filter (fun e => decide (e.lo ≤ l) && decide (l < e.lo + 2 ^ e.log))).length == 1))

/-- The entries of a member stand together with SUB numbered from 0, and only the first carries an own range. -/
def subsOk (es : List GEnt) : Bool :=
  (es.zipIdx).all (fun p =>
    let before := (es.take p.2).filter (fun e => e.fab == p.1.fab)
    p.1.sub == before.length && decide (p.1.sub ≤ 15) && (p.1.sub == 0 || (((es.take p.2).getLast?).any (fun e => e.fab == p.1.fab) && p.1.ownCount == 0)))

/-- Own ranges keep apart, end within COUNT and stand on chunk boundaries (R309). `unit` is the elements of a chunk, `tile` 1,024 for OP 6. -/
def rangesOk (es : List GEnt) (count unit tile : Nat) : Bool :=
  es.all (fun e => e.ownCount == 0 || (decide (e.ownStart + e.ownCount ≤ count) && e.ownStart % unit == 0 && e.ownCount % tile == 0 && e.ownStart % tile == 0 &&
    ((e.ownStart + e.ownCount) % unit == 0 || e.ownStart + e.ownCount == count))) &&
  (es.zipIdx).all (fun p => (es.zipIdx).all (fun q => decide (q.2 ≤ p.2) || p.1.ownCount == 0 || q.1.ownCount == 0 ||
    decide (p.1.ownStart + p.1.ownCount ≤ q.1.ownStart) || decide (q.1.ownStart + q.1.ownCount ≤ p.1.ownStart)))

/-- The rank of this module: its first entry. -/
def State.rankIn (s : State) (d : GroupDesc) : Option Nat := d.ents.findIdx? (fun e => e.fab == s.fabId)

/-- The checks of R309 on a descriptor: the DETAIL of the first that fails. `ranged` for operations with own ranges. -/
def State.checkGroup (s : State) (hd body : List (BitVec 8)) (count unit tile : Nat) (ranged : Bool) : Except Nat GroupDesc :=
  let n := leAt hd 8 4
  let leaves := leAt hd 0xC 4
  let bs := (List.range n).map (fun i => (body.drop (32 * i)).take 32)
  let d : GroupDesc := ⟨leaves, bs.map parseGEnt⟩
  let w0 := ((d.ents.head?).map (fun e => ones 24 e.engines)).getD 0
  let off := d.ents.any (fun e => e.fab == s.fabId && (List.range 24).any (fun i => bit e.engines i && s.islOff i))
  if leAt hd 0 4 ≠ 0x47434F4C ∨ leAt hd 4 2 ≠ 1 ∨ leAt hd 6 2 ≠ 0 ∨ !((hd.drop 0x10).all (fun b => b == 0)) ∨ n = 0 ∨ 16384 < n ∨ leaves = 0 ∨ 16384 < leaves ∨ !bs.all gentOk then .error 1
  else if !coversLeaves d then .error 2
  else if d.ents.any (fun e => ones 24 e.engines != w0) ∨ off then .error 3
  else if ranged && !rangesOk d.ents count unit tile then .error 4
  else if (s.rankIn d).isNone then .error 5
  else if !subsOk d.ents then .error 6
  else .ok d

/-- The distinct members of a group: their first entries. -/
def GroupDesc.members (d : GroupDesc) : List GEnt := d.ents.filter (fun e => e.sub == 0)

def GroupDesc.member (d : GroupDesc) (fab : Nat) : Option GEnt := d.ents.find? (fun e => e.fab == fab)

/-- The engine of a member that carries a chunk (R315). -/
def engineFor (mask c : Nat) : Nat := ((List.range 24).filter (fun i => bit mask i)).getD (c % max 1 (ones 24 mask)) 0

/-! ### Chunks and nodes (R315, R323) -/

/-- Bytes of the whole tensor. -/
def Coll.total (k : Coll) : Nat := k.count * fmtBits k.fmt / 8

def Coll.nchunks (k : Coll) : Nat := ceilDiv k.total (2 ^ k.logChunk)

/-- Where a chunk begins in the tensor, and its length. -/
def Coll.start (k : Coll) (c : Nat) : Nat := c * 2 ^ k.logChunk
def Coll.len (k : Coll) (c : Nat) : Nat := min (2 ^ k.logChunk) (k.total - k.start c)

/-- The operation combines contributions. -/
def Coll.reduces (k : Coll) : Bool := k.op == 1 || k.op == 2 || k.op == 6

/-- The member whose range holds a chunk; rank 0 for a broadcast. -/
def Coll.ownerOf (k : Coll) (c : Nat) : Option GEnt :=
  if k.op = 4 then k.desc.ents.head?
  else k.desc.ents.find? (fun e =>
    decide (e.ownStart * fmtBits k.fmt / 8 ≤ k.start c) && decide (k.start c < (e.ownStart + e.ownCount) * fmtBits k.fmt / 8))

/-- The level of the root. -/
def Coll.top (k : Coll) : Nat := logUp k.desc.leaves

def Coll.entry (k : Coll) (lo log : Nat) : Option GEnt := k.desc.ents.find? (fun e => e.lo == lo && e.log == log)

/-- The module that combines a node: the owner of the chunk, or the holder of its leftmost leaf (R323). -/
def Coll.site (k : Coll) (owner lo : Nat) : Nat :=
  if k.tree then ((k.desc.ents.find? (fun e => decide (e.lo ≤ lo) && decide (lo < e.lo + 2 ^ e.log))).map (fun e => e.fab)).getD owner else owner

/-- The module at which a node's value arises. -/
def Coll.home (k : Coll) (owner lo log : Nat) : Nat :=
  match k.entry lo log with
  | some e => e.fab
  | none => k.site owner lo

/-- The nodes present at and below a node. -/
def Coll.nodes (k : Coll) : Nat → Nat → List (Nat × Nat)
  | lo, log =>
    if k.desc.leaves ≤ lo then []
    else if (k.entry lo log).isSome then [(lo, log)]
    else
      match log with
      | 0 => []
      | n + 1 => (lo, n + 1) :: (k.nodes lo n ++ k.nodes (lo + 2 ^ n) n)

/-- A message of a chunk: from one module to another, with its node. -/
structure Route where
  src : Nat
  dst : Nat
  lo : Nat
  log : Nat
deriving DecidableEq, Repr

/-- The messages of a chunk while it is combined, and while it is gathered. -/
def Coll.routes (k : Coll) (c : Nat) : List Route :=
  match k.ownerOf c with
  | none => []
  | some o =>
    let red := if !k.reduces then [] else
      (k.nodes 0 k.top).filterMap (fun n =>
        let src := k.home o.fab n.1 n.2
        let dst := if n.2 = k.top then o.fab else k.site o.fab (n.1 / 2 ^ (n.2 + 1) * 2 ^ (n.2 + 1))
        if src = dst then none else some ⟨src, dst, n.1, n.2⟩)
    let gat := if k.op = 2 then [] else (k.desc.members.filter (fun m => m.fab != o.fab)).map (fun m => ⟨o.fab, m.fab, 0, k.top⟩)
    red ++ gat

/-- What this module sends and expects in a collective (R315). -/
def Coll.plan (k : Coll) (me : Nat) : List Tx × List Rx :=
  let eng (fab c : Nat) : Nat := ((k.desc.member fab).map (fun e => engineFor e.engines c)).getD 0
  let ctx (fab : Nat) : Nat := ((k.desc.member fab).map (fun e => e.ctx)).getD 0
  let rs := (List.range k.nchunks).flatMap (fun c => (k.routes c).map (fun r => (c, r)))
  ((rs.filter (fun p => p.2.src == me)).map (fun p => ⟨eng me p.1, p.2.dst, ctx p.2.dst, eng p.2.dst p.1, p.1, p.2.lo, p.2.log, false, false, false, 0, []⟩),
   (rs.filter (fun p => p.2.dst == me)).map (fun p => ⟨eng me p.1, p.2.src, ctx p.2.src, eng p.2.src p.1, p.1, p.2.lo, p.2.log, false, false⟩))

/-! ### The collectives of a module -/

def State.coll (s : State) (ctx tag : Nat) : Option Coll := s.colls.find? (fun k => k.ctx == ctx && k.tag == tag)

def State.modColl (s : State) (num : Nat) (f : Coll → Coll) : State := { s with colls := s.colls.map (fun k => if k.num = num then f k else k) }

/-- The collective open on an engine under a context and a tag (R310). -/
def State.collAt (s : State) (isl ctx tag : Nat) : Option Coll := s.colls.find? (fun k => k.ctx == ctx && k.tag == tag && bit k.open_ isl)

def State.tgroup (s : State) (ctx id : Nat) : Option TGroup := s.tgs.find? (fun g => g.ctx == ctx && g.id == id)

def State.modTg (s : State) (ctx id : Nat) (f : TGroup → TGroup) : State := { s with tgs := s.tgs.map (fun g => if g.ctx = ctx ∧ g.id = id then f g else g) }

/-- The count of a step. -/
def TGroup.acctOf (g : TGroup) (step : Nat) : Acct := (g.acct.find? (fun a => a.step == step)).getD ⟨step, 0, 0, 0, 0, 0⟩

/-- A step's count is changed (R338). -/
def State.account (s : State) (ctx tg step : Nat) (f : Acct → Acct) : State :=
  if tg = 0xFFFF then s
  else s.modTg ctx tg (fun g => { g with acct := f (g.acctOf step) :: g.acct.filter (fun a => a.step != step) })

/-- The message that names a chunk of a collective, from this module. -/
def State.msgTo (s : State) (k : Coll) (isl kind dfab dctx disl chunk lo log : Nat) : Msg :=
  { tag := k.tag, dctx := dctx, disl := disl, sisl := isl, sfab := s.fabId, dfab := dfab, msg := kind, chunk := chunk, lo := lo, log := log, attempt := 0,
    epoch := (s.eng isl).epoch, crc := 0, sctx := k.ctx, again := false, turn := false, data := [] }

/-- Notification counter of a collective (R320): raised by one for a chunk landed by an engine. -/
def State.notify (s : State) (k : Coll) (isl : Nat) : State :=
  match k.notify with
  | none => s
  | some n =>
    let key := isl * 1024 + k.ctx * 16 + n
    let s1 : State := { s with notifs := Tbl.upd natZero s.notifs key (fun v => (v + 1) % 2 ^ 32) }
    let v := Tbl.get natZero s1.notifs key
    s1.wakeIsland isl (fun w => match w with | .notif i a => i == n && decide (a ≤ v) | _ => false)

/-! ### How a collective ends (R312, R313, R326) -/

/-- The engines on which a collective is still open leave it. -/
def State.dropColl (s : State) (k : Coll) : State := { s with colls := s.colls.filter (fun x => x.num != k.num) }

/-- A collective ends with a status on every engine of this module. -/
def State.endColl (s : State) (k : Coll) (status detail : Nat) : State :=
  let s1 := (s.dropColl k).account k.ctx k.tgroup k.step (fun a => if status = 0 then { a with closed := a.closed + 1 } else { a with failed := a.failed + 1 })
  match k.owner with
  | .record q n => s1.finish k.ctx q n status detail
  | .handoff _ _ => s1
  | .recv r f i =>
    { s1 with runs := s1.runs.map (fun x => if x.num = r then
        (if status = 0 then { x with recvd := x.recvd ++ [(f, i)] } else { x with fail := x.fail.or (some (status, detail)) }) else x) }

/-- This module closes an aborted collective (R326): the cause and the originating module. -/
def State.abortHere (s : State) (k : Coll) (cause fab : Nat) : State :=
  let on := (List.range 24).filter (fun i => bit k.open_ i)
  let s1 := on.foldl (fun t i => (t.bump .colAbortCnt i).raise 0x17 i 1) s
  s1.endColl k St.collAborted (cause * 2 ^ 28 + fab)

/-- This module aborts a collective: it closes here, and every other member is told (R326). -/
def State.abortColl (s : State) (k : Coll) (cause : Nat) : State :=
  let isl := engineFor k.mask 0
  let tell (t : State) (m : GEnt) : State :=
    t.control isl { t.msgTo k isl 5 m.fab m.ctx (engineFor m.engines 0) 0 0 0 with chunk := cause }
  ((k.desc.members.filter (fun m => m.fab != s.fabId)).foldl tell s).abortHere k cause s.fabId

/-- A collective meets a fault of its context's translation (R312, R356, R479, R503). -/
def State.faultColl (s : State) (k : Coll) (cause dva : Nat) : State :=
  let isl := engineFor k.mask 0
  let e := s.faultEnd k.ctx cause 2 isl dva
  if cause = 7 then e.1.abortColl k 6
  else if cause = 4 then e.1.endColl k St.translationFault (dva / 2 ^ 16 % 2 ^ 32)
  else e.1.endColl k e.2.1 e.2.2

/-- A collective read poison (R479). -/
def State.poisonColl (s : State) (k : Coll) (dva key : Nat) : State := (s.poisonEnd k.ctx dva key).1.abortColl k 6

/-! ### Values of nodes (R323) -/

/-- What a value answers: not there yet, the bytes with the saturations of their combines, or the collective's end. -/
inductive NodeRes where
  | wait
  | ok (data : List (BitVec 8)) (sats : Nat)
  | ended (s : State)

/-- Bytes of a member's own memory for a collective. -/
def State.collRead (s : State) (k : Coll) (dva n : Nat) : NodeRes :=
  match s.dvaRead k.ctx dva n (.op 11 k.num) true with
  | .ok bs => .ok bs 0
  | .fault c a => .ended (s.faultColl k c a)
  | .poison a key => .ended (s.poisonColl k a key)
  | .wait _ => .wait

/-- Two nodes' elements added once each under R65, with the saturations counted. -/
def addNodes (a b : List (BitVec 8)) : List (BitVec 8) × Nat :=
  let n := a.length / 4
  let rs := (List.range n).map (fun i => addA32 (a32.decode (leAt a (4 * i) 4)) (a32.decode (leAt b (4 * i) 4)))
  (rs.flatMap (fun r => leBytes 4 r.code), (rs.filter (fun r => r.sat)).length)

/-- The value of a node at this module: held, contributed from the source, or combined from its children. -/
def State.nodeVal (s : State) (k : Coll) (c owner : Nat) : Nat → Nat → NodeRes
  | lo, log =>
    match k.vals.find? (fun v => v.chunk == c && v.lo == lo && v.log == log) with
    | some v => .ok v.data 0
    | none =>
      match k.entry lo log with
      | some e =>
        if e.fab ≠ s.fabId ∨ k.posted then .wait
        else s.collRead k (k.src + e.sub * 4 * k.count + k.start c) (k.len c)
      | none =>
        if k.site owner lo ≠ s.fabId then .wait
        else
          match log with
          | 0 => .wait
          | n + 1 =>
            match s.nodeVal k c owner lo n with
            | .wait => .wait
            | .ended t => .ended t
            | .ok a sa =>
              if k.desc.leaves ≤ lo + 2 ^ n then .ok a sa
              else
                match s.nodeVal k c owner (lo + 2 ^ n) n with
                | .wait => .wait
                | .ended t => .ended t
                | .ok b sb => let r := addNodes a b; .ok r.1 (sa + sb + r.2)

/-- The bytes of a chunk this module sends: a node, or its own range's finished chunk. -/
def State.txVal (s : State) (k : Coll) (t : Tx) : NodeRes :=
  match k.ownerOf t.chunk with
  | none => .wait
  | some o =>
    let gather := t.lo == 0 && t.log == k.top && o.fab == s.fabId && t.dfab != o.fab
    if k.reduces && !gather then s.nodeVal k t.chunk o.fab t.lo t.log
    else
      match (if k.op = 6 then k.work else k.vals).find? (fun v => v.chunk == t.chunk && v.lo == 0 && v.log == k.top) with
      | some v => .ok v.data 0
      | none =>
        if k.posted || k.reduces then .wait
        else if k.op = 3 then s.collRead k (k.src + (k.start t.chunk - o.ownStart * fmtBits k.fmt / 8)) (k.len t.chunk)
        else s.collRead k (k.src + k.start t.chunk) (k.len t.chunk)

/-- Saturations of an engine's combines are counted (R81, R83). -/
def State.countSats (s : State) (isl ctx n : Nat) : State := if n = 0 then s else (s.bump .numiSatCnt isl n).bump .numcSatCnt ctx n

/-! ### Landing (R312, R320, R322) -/

/-- A task of the context is bound on a cay (R322). -/
def State.boundOn (s : State) (isl cay ctx : Nat) : Bool := (s.cay ⟨isl, cay⟩).tasks.any (fun t => (s.task t.task).ctx == ctx)

/-- Bytes land at an offset of the destination by an engine, or the collective ends. -/
def State.land (s : State) (k : Coll) (isl chunk off : Nat) (bs : List (BitVec 8)) : Except State State :=
  let done (t : State) : State := (t.modColl k.num (fun x => { x with landed := x.landed ++ [chunk] })).notify k isl
  if k.dstLs then
    let r : CayRef := ⟨isl, k.dstCay⟩
    .ok (done (s.setCay r ((s.cay r).lsWrite (k.dst + off) bs)))
  else
    match s.pieces k.ctx (k.dst + off) bs.length true false true true with
    | .error e => .error (s.faultColl k e.1 e.2)
    | .ok _ => .ok (done (s.devWrite k.ctx (k.dst + off) bs))

/-- Where a chunk lands: the whole tensor's place, or that of the own range (R312). For OP 6 the chunk's tiles stand in the order of the tensor (log entry 30). -/
def Coll.landAt (k : Coll) (chunk n : Nat) : Nat :=
  if k.op = 2 then k.start chunk - ((k.ownerOf chunk).map (fun o => o.ownStart * 4)).getD 0
  else if k.op = 6 then
    let per := 2 ^ k.logChunk / 4096
    let here := ceilDiv (k.len chunk) 4096
    chunk * per * (n / max 1 here)
  else k.start chunk

/-- The chunk of this module's own range, once its root is there: landed, or handed to the update pipe (R312, R323, R328). -/
def State.ownChunk (s : State) (num c : Nat) : State :=
  match s.colls.find? (fun k => k.num == num) with
  | none => s
  | some k =>
    match k.ownerOf c with
    | none => s
    | some o =>
      if o.fab ≠ s.fabId ∨ k.landed.contains c then s
      else
        let isl := engineFor k.mask c
        if k.reduces then
          if k.vals.any (fun v => v.chunk == c && v.lo == 0 && v.log == k.top && k.op == 6) then s
          else
            match s.nodeVal k c o.fab 0 k.top with
            | .wait => s
            | .ended t => t
            | .ok bs n =>
              let s1 := (s.countSats isl k.ctx n).modColl num (fun x =>
                { x with vals := x.vals.filter (fun v => v.chunk != c) ++ (if k.op = 2 then [] else [⟨c, 0, k.top, bs⟩]) })
              if k.op = 6 then s1
              else match s1.land k isl c (k.landAt c bs.length) bs with | .ok t => t | .error t => t
        else
          match s.txVal k ⟨isl, 0x4000, 0, 0, c, 0, k.top, false, false, false, 0, []⟩ with
          | .wait => s
          | .ended t => t
          | .ok bs _ => match s.land k isl c (k.landAt c bs.length) bs with | .ok t => t | .error t => t

/-! ### Credit (R316, R322) -/

/-- A chunk expected lands in a local store that no task of the context has. -/
def State.withheld (s : State) (k : Coll) (x : Rx) : Bool :=
  let lands := !k.reduces || (x.lo == 0 && x.log == k.top && ((k.ownerOf x.chunk).map (fun o => o.fab)) != some s.fabId)
  k.dstLs && lands && !(s.boundOn (if x.isl < 24 then x.isl else engineFor k.mask 0) k.dstCay k.ctx)

/-- Credit granted for the chunks an engine of a collective expects and has not granted yet. Whom a receive of posted chunks grants to, the spec leaves open (log entry 29). -/
def State.grantAll (s : State) (k : Coll) (isl : Option Nat) : State :=
  let due (x : Rx) : Bool := !x.granted && !x.got && !s.withheld k x && (match isl with | some i => x.isl == i || x.isl == 24 | none => true)
  let send (t : State) (x : Rx) : State :=
    if x.isl = 24 then
      let e := engineFor k.mask 0
      t.took.control e (t.msgTo k e 1 (t.freeVal 14) k.ctx ((Config.freeBits 5 (t.free + 1)).toNat) x.chunk x.lo x.log)
    else t.control x.isl (t.msgTo k x.isl 1 x.sfab x.sctx x.sisl x.chunk x.lo x.log)
  ((k.rx.filter due).foldl send s).modColl k.num (fun y => { y with rx := y.rx.map (fun x => if due x then { x with granted := true } else x) })

/-! ### Opening (R309, R310, R314, R325) -/

/-- What opening answers. -/
inductive OpenRes where
  | ok (s : State)
  | refuse (s : State) (status detail : Nat)
  | full

/-- Collectives open on an engine, and those of a context. -/
def State.openOn (s : State) (isl : Nat) : Nat := (s.colls.filter (fun k => bit k.open_ isl)).length
def State.openOnCtx (s : State) (isl ctx : Nat) : Nat := (s.colls.filter (fun k => bit k.open_ isl && k.ctx == ctx)).length

/-- The 80 bytes of a collective operation or a template as a collective not yet placed (R311). -/
def collOf (b : List (BitVec 8)) (ctx num : Nat) (owner : CollOwner) : Coll :=
  let f (o n : Nat) := leAt b o n
  let w := f 0 4
  { num := num, ctx := ctx, owner := owner, op := bits w 31 24, tree := bits w 23 22 == 1, fmt := bits w 21 18, notify := if bit w 17 then some (bits w 16 13) else none,
    dstLs := bit w 11, posted := bit w 10, dstCay := bits w 8 0, logChunk := bits (f 4 4) 28 24, tgroup := f 0xE 2, tag := f 8 6, desc := ⟨0, []⟩, rank := 0,
    src := f 0x18 6, dst := f 0x20 6, count := f 0x28 4, map := f 0x30 6, step := f 0x38 4, half := 0, mask := 0, open_ := 0, tx := [], rx := [], vals := [],
    landed := [], tiles := [], work := [] }

/-- A collective whose group is known is opened on its engines: credit is granted, credit kept for its tag is used, and its own chunks are begun. -/
def State.place? (s : State) (k : Coll) (clr : Bool) : State :=
  let p := k.plan s.fabId
  let rx := if k.op = 5 then (List.range k.nchunks).map (fun c => (⟨24, 0, 0, 0, c, 0, 0, false, false⟩ : Rx)) else p.2
  let early (t : Tx) : Bool := (s.eng t.isl).early.any (fun m => m.dctx == k.ctx && m.tag == k.tag && m.chunk == t.chunk && m.lo == t.lo && m.log == t.log && m.sfab == t.dfab)
  let k1 := { k with open_ := k.mask, tx := p.1.map (fun t => { t with credit := early t }), rx := rx }
  let on := (List.range 24).filter (fun i => bit k.mask i)
  let s1 := on.foldl (fun t i => t.modEng i (fun e => { e with early := e.early.filter (fun m => !(m.dctx == k.ctx && m.tag == k.tag)) }))
    ({ s with colls := s.colls ++ [k1], collNum := s.collNum + 1 } : State)
  let s2 := match clr, k.notify with
    | true, some n => on.foldl (fun (t : State) i => { t with notifs := Tbl.set natZero t.notifs (i * 1024 + k.ctx * 16 + n) 0 }) s1
    | _, _ => s1
  let s3 := (s2.account k.ctx k.tgroup k.step (fun a => { a with opened := a.opened + 1 })).grantAll k1 none
  (List.range k.nchunks).foldl (fun t c => t.ownChunk k.num c) s3

/-- R309, R310, R325: a collective opens, or is refused. `clr` clears its notification counter. -/
def State.openColl (s : State) (k : Coll) (group : Nat) (clr : Bool) : OpenRes :=
  let fits (k1 : Coll) : OpenRes :=
    let on := (List.range 24).filter (fun i => bit k1.mask i)
    match on.find? (fun i => decide (256 ≤ s.openOn i) || decide (16 ≤ s.openOnCtx i k.ctx)) with
    | some i => (match k.owner with | .record _ _ => .refuse (s.bump .colRefuseCnt k.ctx) St.windowFull i | _ => .full)
    | none =>
      match on.find? (fun i => (s.collAt i k.ctx k.tag).isSome) with
      | some i => (match k.owner with | .record _ _ => .refuse (s.bump .colRefuseCnt k.ctx) St.tagInUse i | _ => .full)
      | none =>
        match (k1.desc.members.filter (fun m => m.fab != s.fabId)).find? (fun m => !s.routed m.fab) with
        | some m => .refuse s St.unreachable m.fab
        | none => .ok (s.place? k1 clr)
  if k.op = 5 then fits { k with mask := (List.range 24).foldl (fun m i => if s.islOff i then m else m + 2 ^ i) 0 }
  else
    let bad (r : DvaRead) : OpenRes :=
      match r with
      | .fault c a => let e := s.faultEnd k.ctx c 2 0 a; .refuse e.1 (if c = 4 then St.translationFault else e.2.1) (if c = 4 then a / 2 ^ 16 % 2 ^ 32 else e.2.2)
      | .poison a key => let e := s.poisonEnd k.ctx a key; .refuse e.1 e.2.1 e.2.2
      | _ => .refuse s St.groupRefused 1
    let unit := 2 ^ k.logChunk * 8 / max 1 (fmtBits k.fmt)
    match s.dvaRead k.ctx group 32 (.op 11 0) true with
    | .ok hd =>
      if leAt hd 0 4 ≠ 0x47434F4C ∨ 16384 < leAt hd 8 4 then .refuse s St.groupRefused 1
      else
        match s.dvaRead k.ctx (group + 32) (32 * leAt hd 8 4) (.op 11 0) true with
        | .ok body =>
          (match s.checkGroup hd body k.count unit (if k.op = 6 then 1024 else 1) (k.op != 4) with
          | .error d => .refuse s St.groupRefused d
          | .ok d =>
            let r := (s.rankIn d).getD 0
            fits { k with desc := d, rank := r, mask := ((d.ents[r]?).map (fun e => e.engines)).getD 0 })
        | x => bad x
    | x => bad x

end Sys2Proof.Machine
end

