-- ==== Sys2Proof/Machine/StepForm.lean ====
section
/-! DEFINITION. The step planner: filling, estimating, trimming and starting a serving step (R246, R247, R249 to R254). -/
namespace Sys2Proof.Machine

/-- Islands that hold a role: 0 idle, 1 generation, 2 learning (R38). -/
def State.role (s : State) (isl : Nat) : Nat := Tbl.get natZero s.roles isl

/-- The generation islands, as a mask. -/
def State.genIslands (s : State) : Nat := ((List.range 24).filter (fun i => s.role i == 1)).foldl (fun m i => m + 2 ^ i) 0

/-- A turn that has reached Quiet stops step formation (R375). -/
def State.quiet (s : State) : Bool := s.turn.any (fun u => decide (3 ≤ u.phase))

/-- A step being filled: the carried requests with their entries, and what is left of the limits. -/
structure Fill where
  s : State
  plan : List (Nat × List TokEnt)
  gens : List Nat
  budget : Nat
  samples : Nat
  free : Nat
  stop : Bool
  short : Bool
  wait : Bool

/-- The pages more that a request needs to hold `n` positions. -/
def pagesMore (p : Prog) (r : Req) (n : Nat) : Nat := p.pagesFor n - r.pages.length

/-- The request's generation may be used in the step: valid, and at most the second the step uses (R254, R356). -/
def Fill.genOk (f : Fill) (c : Nat) (r : Req) : Bool :=
  let g := f.s.genOf c r
  !f.s.genSuspect c (f.s.served c).1 g && (f.gens.contains g || decide (f.gens.length < 2))

def Fill.addGen (f : Fill) (g : Nat) : Fill := { f with gens := if f.gens.contains g then f.gens else f.gens ++ [g] }

/-- The position of a decode request's input token. -/
def Req.pos (r : Req) : Nat := r.promptLen + r.delivered - 1

/-- Step 1 of R252 for one request: a decode entry, or a deferral where its page is lacking (R247). -/
def Fill.decode (f : Fill) (c : Nat) (p : Prog) (slot : Nat) (r : Req) : Fill :=
  if f.stop ∨ f.budget = 0 ∨ f.samples = 0 ∨ 4096 ≤ f.plan.length then { f with stop := true }
  else if !f.genOk c r then f
  else
    let n := pagesMore p r (r.pos + 1)
    if f.free < n then { f with s := f.s.bump .srvKvDeferCnt c, short := true }
    else
      let e : TokEnt := ⟨r.last, r.pos, 0, 0, true, f.s.genOf c r, slot, r.acopy⟩
      { f with plan := f.plan ++ [(slot, [e])], budget := f.budget - 1, samples := f.samples - 1, free := f.free - n }.addGen (f.s.genOf c r)

/-- Step 2 of R252 for one guess of a carried request. -/
def Fill.guess (f : Fill) (p : Prog) (slot : Nat) (r : Req) (h tok : Nat) : Fill :=
  if f.stop ∨ f.budget = 0 ∨ f.samples = 0 then { f with stop := true }
  else
    match f.plan.find? (fun x => x.1 == slot) with
    | none => f
    | some (_, es) =>
      let n := pagesMore p r (r.pos + h + 1) - pagesMore p r (r.pos + h)
      if es.length ≠ h ∨ f.free < n then f
      else
        let e : TokEnt := ⟨tok, r.pos + h, 1, h, true, (es.headD ⟨0, 0, 0, 0, false, 0, 0, 0⟩).gen, slot, r.acopy⟩
        { f with plan := f.plan.map (fun x => if x.1 = slot then (slot, es ++ [e]) else x), budget := f.budget - 1, samples := f.samples - 1, free := f.free - n }

/-- Step 2 of R252 for one carried request with speculation enabled. -/
def Fill.guesses (f : Fill) (c : Nat) (p : Prog) (slot : Nat) (r : Req) : Fill :=
  if r.specEn then
    ((r.guesses.take (min (f.s.fld .srvCtlSpecMax c) p.heads)).zipIdx).foldl (fun g e => g.guess p slot r (e.2 + 1) e.1) f
  else f

/-- The owner of the host reads of a request's prompt. -/
def promptOwner (c slot : Nat) : ReadOwner := .op 4 (c * 65536 + slot)

/-- Step 3 of R252 for one request whose prompt is at hand: its chunk. -/
def Fill.chunk (f : Fill) (c : Nat) (p : Prog) (slot : Nat) (r : Req) : Fill :=
  let rest := r.promptLen - r.ran
  let n1 := min (min (f.s.fld .srvChunkChunk c) rest) (f.budget / 16 * 16)
  let full := n1 = rest ∧ f.samples = 0
  let n := if full then n1 - 1 else n1
  if n = 0 then { f with stop := true }
  else
    let need := pagesMore p r (r.ran + n)
    if f.free < need then { f with short := true }
    else
      let es := (List.range n).map (fun i =>
        let q := r.ran + i
        TokEnt.mk (r.prompt.getD q 0) q 2 0 (q + 1 == r.promptLen) (f.s.genOf c r) slot r.acopy)
      { f with
        plan := f.plan ++ [(slot, es)], budget := f.budget - n, free := f.free - need
        samples := f.samples - (if n = rest then 1 else 0), stop := decide full }.addGen (f.s.genOf c r)

/-- A carried reserved request is admitted: its bindings are fixed at the start of its first step (R243). -/
def State.bindReq (s : State) (c slot : Nat) : State :=
  match (s.srv c).req slot with
  | none => s
  | some r =>
    if r.st ≠ .reserved then s
    else
      let k := if r.adapter = 0x3FF then none else s.adapterNow c r.adapter
      let g := (s.served c).2
      s.setReq c slot (some { r with
        st := .prefill, wgen := if r.pc then g else 0, lastGen := g
        agen := (k.map (fun a => a.gen)).getD 0, acopy := (k.map (fun a => a.index)).getD 0x3FF })

/-- Step 3 of R252 for one request: a reserved request is admitted when it is carried; one whose adapter is gone, or whose prompt cannot be read, ends. -/
def Fill.prefill (f : Fill) (c : Nat) (p : Prog) (slot : Nat) (r : Req) : Fill :=
  if f.stop ∨ f.wait ∨ f.budget = 0 ∨ 4096 ≤ f.plan.length then { f with stop := true }
  else if !f.genOk c r then f
  else if r.st = .prefill then f.chunk c p slot r
  else
    let k := if r.adapter = 0x3FF then none else f.s.adapterNow c r.adapter
    if r.adapter ≠ 0x3FF ∧ k.isNone then { f with s := f.s.endReq c slot 5 St.adapterAbsent }
    else
      match f.s.dvaRead c r.promptAddr (4 * r.promptLen) (promptOwner c slot) false with
      | .wait u => { f with s := u, wait := true }
      | .ok bs =>
        let toks := (List.range r.promptLen).map (fun i => leAt bs (4 * i) 4)
        let s1 := f.s.dropReads (promptOwner c slot)
        let r0 : Req := { r with prompt := toks, acopy := (k.map (fun a : ACopy => a.index)).getD 0x3FF }
        let probe := ({ f with s := s1 } : Fill).chunk c p slot r0
        if probe.plan.length = f.plan.length then probe
        else { probe with s := probe.s.setReq c slot (some { r with prompt := toks }) }
      | d =>
        let e := (f.s.dropReads (promptOwner c slot)).readEnd c 6 0 d
        { f with s := e.1.endReq c slot 5 e.2.1 }

/-- Requests in decode, those left out longest first, then by slot (R252). -/
def SrvCtx.decodes (x : SrvCtx) : List (Nat × Req) :=
  sortBy (fun a b => decide (b.2.left < a.2.left) || (a.2.left == b.2.left && decide (a.1 ≤ b.1))) (x.reqs.filter (fun r => r.2.st == .decode))

/-- Requests in prefill, then reserved ones, each in order of their admissions (R252). -/
def SrvCtx.prefills (x : SrvCtx) : List (Nat × Req) :=
  sortBy (fun a b => decide (a.2.order ≤ b.2.order)) (x.reqs.filter (fun r => r.2.st == .prefill)) ++
    sortBy (fun a b => decide (a.2.order ≤ b.2.order)) (x.reqs.filter (fun r => r.2.st == .reserved))

/-- The fill of R252. -/
def State.fill (s : State) (c : Nat) (p : Prog) : Fill :=
  let f0 : Fill := ⟨s, [], [], s.fld .srvBudgetTokensM1 c + 1, p.sampleMax, s.kvFree c, false, false, false⟩
  let x := s.srv c
  let f1 := x.decodes.foldl (fun f r => f.decode c p r.1 r.2) f0
  let f2 := x.decodes.foldl (fun f r => f.guesses c p r.1 r.2) f1
  x.prefills.foldl (fun f r => f.prefill c p r.1 r.2) f2

/-! ### Estimate and trim (R253) -/

/-- Entries of a kind in a plan. -/
def planCount (plan : List (Nat × List TokEnt)) (kind : Nat) : Nat := ((plan.flatMap (fun x => x.2)).filter (fun e => e.kind == kind)).length

/-- A per-step figure corrected by the factor of class 0xFC, in nJ. -/
def State.stepFig (s : State) (c e : Nat) : Nat := e * s.factor c 0xFC / 256

/-- The corrected estimate of a plan, in nJ. -/
def State.planEst (s : State) (c : Nat) (p : Prog) (plan : List (Nat × List TokEnt)) : Nat :=
  s.stepFig c p.eFixed + planCount plan 0 * s.stepFig c p.eDecode + planCount plan 1 * s.stepFig c p.eSpec + planCount plan 2 * s.stepFig c p.ePrefill

/-- The estimate before correction, in µJ. -/
def planRaw (p : Prog) (plan : List (Nat × List TokEnt)) : Nat :=
  (p.eFixed + planCount plan 0 * p.eDecode + planCount plan 1 * p.eSpec + planCount plan 2 * p.ePrefill) / 1000

/-- The class of a request (R516). -/
def State.reqClass (s : State) (c : Nat) (r : Req) : Nat := min r.prio (s.fld .ctxQosClassClassMax c)

/-- A request of the plan with its entries and its admission order and class. -/
def State.planReq (s : State) (c slot : Nat) : Nat × Nat :=
  match (s.srv c).req slot with
  | some r => (s.reqClass c r, r.order)
  | none => (0, 0)

/-- The slot whose entries of a kind go next: prefill by the latest admission; the others by the lowest class and, for guesses, the highest index first,
then by the latest admission. -/
def State.trimPick (s : State) (c : Nat) (plan : List (Nat × List TokEnt)) (kind : Nat) : Option Nat :=
  let cand := plan.filter (fun x => x.2.any (fun e => e.kind == kind))
  let key (x : Nat × List TokEnt) : Nat × Nat × Nat :=
    let k := s.planReq c x.1
    (if kind = 2 then 0 else k.1, if kind = 1 then ((x.2.filter (fun e => e.kind == 1)).map (fun e => e.specIdx)).foldl max 0 else 0, k.2)
  let better (a b : Nat × Nat × Nat) : Bool :=
    decide (a.1 < b.1) || (a.1 == b.1 && (decide (b.2.1 < a.2.1) || (a.2.1 == b.2.1 && decide (b.2.2 < a.2.2))))
  (cand.foldl (fun m x => match m with | none => some x | some y => if better (key x) (key y) then some x else some y) (none : Option (Nat × List TokEnt))).map
    (fun x => x.1)

/-- Entries go from the end of a request's list; a request left with none is not carried. -/
def trimAt (plan : List (Nat × List TokEnt)) (slot n : Nat) : List (Nat × List TokEnt) :=
  (plan.map (fun x => if x.1 = slot then (x.1, x.2.take (x.2.length - n)) else x)).filter (fun x => !x.2.isEmpty)

/-- R253: entries are removed until the estimate fits the grant. -/
def State.trim (s : State) (c : Nat) (p : Prog) (grant : Option Nat) : Nat → List (Nat × List TokEnt) → List (Nat × List TokEnt)
  | 0, plan => plan
  | fuel + 1, plan =>
    match grant with
    | none => plan
    | some g =>
      if s.planEst c p plan ≤ g then plan
      else
        match s.trimPick c plan 2, s.trimPick c plan 1, s.trimPick c plan 0 with
        | some x, _, _ => s.trim c p grant fuel (trimAt plan x 16)
        | none, some x, _ => s.trim c p grant fuel (trimAt plan x 1)
        | none, none, some x => s.trim c p grant fuel (trimAt plan x 1)
        | none, none, none => plan

/-! ### The token table (R250) -/

/-- The 16 bytes of an entry. -/
def TokEnt.bytes (e : TokEnt) (gens : List Nat) : List (BitVec 8) :=
  let g := if gens.headD 0 = e.gen then 0 else 1
  leBytes 4 e.token ++ leBytes 4 e.pos ++ leBytes 4 (e.kind * 2 ^ 30 + e.specIdx * 2 ^ 27 + b2n e.sample * 2 ^ 26 + g * 2 ^ 25 + e.slot) ++ leBytes 4 e.acopy

/-- A generation number of the table's header; 0xFFFF_FFFF where absent. -/
def genWord (gens : List Nat) (i : Nat) : Nat := let g := gens.getD i 0; if g = 0 then 0xFFFFFFFF else g

/-- The token table of a step. -/
def tokTable (num : Nat) (ents : List TokEnt) (nreq : Nat) (gens : List Nat) : List (BitVec 8) :=
  leBytes 8 num ++ leBytes 4 ents.length ++ leBytes 4 nreq ++ leBytes 4 (genWord gens 0) ++ leBytes 4 (genWord gens 1) ++ List.replicate 0x28 0 ++
    ents.flatMap (fun e => e.bytes gens)

/-! ### Forming the step -/

/-- A step may be formed for the context now (R252, R274, R361, R375). -/
def State.mayForm (s : State) (c : Nat) : Bool :=
  s.run == .ready && s.ctxOn c && s.fld .ctxStatResetting c == 0 && s.fld .srvCtlEn c == 1 && !s.stepping c && s.genIslands != 0 && !s.quiet &&
    !((s.wgt c).model (s.served c).1).barrier && !s.admitHeld

/-- Pages for the positions a carried request writes (R246). -/
def State.allocReq (s : State) (c : Nat) (p : Prog) (x : Nat × List TokEnt) : State :=
  match (s.srv c).req x.1 with
  | none => s
  | some r =>
    let top := (x.2.map (fun e => e.pos + 1)).foldl max 0
    let a := s.pickPages c (pagesMore p r top) []
    a.1.givePages c x.1 a.2

/-- Requests in decode that the step left out count it. -/
def State.countLeft (s : State) (c : Nat) (carried : List Nat) : State :=
  s.modSrv c (fun x => x.decodes.foldl (fun y r => y.setReq r.1 (some { r.2 with left := if carried.contains r.1 then 0 else r.2.left + 1 })) x)

/-- A filled and trimmed plan becomes the step in flight. -/
def State.launch (s : State) (c : Nat) (p : Prog) (plan : List (Nat × List TokEnt)) (gens : List Nat) : State :=
  let num := s.fld64 .srvStepLo .srvStepHi c + 1
  let ents := plan.flatMap (fun x => x.2)
  let carried := plan.map (fun x => x.1)
  let s1 := plan.foldl (fun t x => (t.bindReq c x.1).allocReq c p x) s
  let s2 := s1.devWrite c (p.tt + num % 2 * 2 ^ 20) (tokTable num ents plan.length gens)
  let run : StepRun := ⟨num, ents, gens, carried, 0, none, 0, none, planRaw p plan, 1⟩
  let s3 := (s2.countLeft c carried).modSrv c (fun x => { x with step := some run, dry := 0 })
  s3.addUnit ⟨.step c, c, s.planEst c p plan, 0⟩

/-- R252 to R254: the next step of a context is filled, estimated, trimmed and formed. -/
def execStepForm (ctx : Nat) (s : State) : Out :=
  match s.prog ctx with
  | none => .next s
  | some p =>
    if !s.mayForm ctx then .next s
    else
      let f := s.fill ctx p
      if f.wait then .next f.s
      else if f.plan.isEmpty then
        .next (if f.short then f.s.modSrv ctx (fun x => { x with dry := x.dry + 1 }) else f.s)
      else
        let ents := (f.plan.flatMap (fun x => x.2)).length
        let plan := f.s.trim ctx p (f.s.grant ctx) (ents + 1) f.plan
        let cut := ents - (plan.flatMap (fun x => x.2)).length
        let s1 := if cut = 0 then f.s else f.s.bump .srvTrimCnt ctx cut
        if plan.isEmpty then
          .next (if (f.s.overBudget ctx (f.s.stepFig ctx p.eFixed)).isSome then s1.raise 0x22 ctx 1 else s1)
        else .next (s1.launch ctx p plan (noDups (plan.flatMap (fun x => x.2.map (fun e => e.gen)))))

/-! ### Running the step (R249) -/

/-- The step in flight of a context. -/
def State.step? (s : State) (c : Nat) : Option StepRun := (s.srv c).step

def State.modStep (s : State) (c : Nat) (f : StepRun → StepRun) : State := s.modSrv c (fun x => { x with step := x.step.map f })

/-- The owner of the reads of a step's task list. -/
def stepOwner (c : Nat) : ReadOwner := .op 5 c

/-- R249: the next task of the step program is placed once the one before has ended everywhere; a task that failed ends the step. -/
def execStepTaskStart (ctx : Nat) (s : State) : Out :=
  match s.prog ctx, s.step? ctx with
  | some p, some r =>
    if r.status ≠ 0 then .next s
    else
      let cur := r.task.map s.task
      if cur.any (fun t => t.st != .ended) then .next s
      else
        let st := (cur.map (fun t => t.status)).getD 0
        let s0 := match r.task with | some t => (s.settle t true).dropTaskRec t | none => s
        let s1 := s0.modStep ctx (fun x => { x with task := none, status := st })
        if st ≠ 0 ∨ p.count ≤ r.placed then .next s1
        else
          match s1.dvaRead ctx (p.tasks + 80 * r.placed) 80 (stepOwner ctx) false with
          | .wait u => .next u
          | .ok d =>
            let t0 := mkTask d ctx 0 0 (.serving r.placed) false false
            match (s1.dropReads (stepOwner ctx)).placeTask { t0 with step := r.num % 2 ^ 32, islands := t0.islands &&& s1.genIslands } with
            | .ok u t => .next (u.modStep ctx (fun x => { x with task := some t, placed := x.placed + 1 }))
            | .wait u => .next u
            | .fail u stt _ => .next (u.modStep ctx (fun x => { x with status := stt }))
          | d =>
            let e := (s1.dropReads (stepOwner ctx)).readEnd ctx 6 0 d
            .next (e.1.modStep ctx (fun x => { x with status := e.2.1 }))
  | _, _ => .next s

end Sys2Proof.Machine
end

