-- ==== Sys2Proof/Machine/Serving.lean ====
section
/-! DEFINITION. Serving: the sampler's run and the step boundary, the serving commands, pauses and resumes, adapters, request events, and the writes of SRV_CTL, SPL_CTL and
SRV_EVQ_CONSUMED (R247, R255 to R275). -/
namespace Sys2Proof.Machine

/-! ### The sampler (R255, R256) -/

/-- The parameters of a request. -/
def Req.par (r : Req) : SampPar := ⟨r.temp, r.topP, r.topK, r.seed⟩

/-- The tokens drawn for a request's SAMPLE entries in position order: it goes on while the drawn token equals the next entry's guess. Each entry comes with its
number among the step's SAMPLE entries. -/
def State.draw (s : State) (c : Nat) (p : Prog) (r : Req) : List (Nat × TokEnt) → Except DvaRead (List (Nat × Nat) × List (List Nat))
  | [] => .ok ([], [])
  | (e, t) :: rest =>
    match s.dvaRead c (p.out + 2 ^ 19 + 4 * p.vocab * e) (4 * p.vocab) (stepOwner c) true with
    | .ok bs =>
      let z := (List.range p.vocab).map (fun i => a32.decode (leAt bs (4 * i) 4))
      let x := sampleTok z r.par (t.pos + 1) (s.freeVal 32 % p.vocab)
      match (if p.heads = 0 then DvaRead.ok [] else s.dvaRead c (p.out + 16 * e) (4 * p.heads) (stepOwner c) true) with
      | .ok gs =>
        let hs := (List.range p.heads).map (fun i => leAt gs (4 * i) 4)
        match rest with
        | [] => .ok ([x], [hs])
        | n :: _ =>
          if n.2.token = x.1 then
            match s.draw c p r rest with
            | .ok q => .ok (x :: q.1, hs :: q.2)
            | .error d => .error d
          else .ok ([x], [hs])
      | d => .error d
    | d => .error d

/-- The SAMPLE entries of a step with their numbers. -/
def StepRun.samples (r : StepRun) : List (Nat × TokEnt) := ((r.ents.filter (fun e => e.sample)).zipIdx).map (fun e => (e.2, e.1))

/-- What the sampler finds for every carried request. -/
def State.drawAll (s : State) (c : Nat) (p : Prog) (r : StepRun) : List Nat → Except DvaRead (List Sampled)
  | [] => .ok []
  | slot :: rest =>
    match (s.srv c).req slot with
    | none => s.drawAll c p r rest
    | some q =>
      match s.draw c p q (r.samples.filter (fun e => e.2.slot == slot)), s.drawAll c p r rest with
      | .ok a, .ok b => .ok (⟨slot, a.1, a.2, a.1.length - 1⟩ :: b)
      | .error d, _ => .error d
      | _, .error d => .error d

/-- R255, R256: after the last task has ended the sampler runs. -/
def execSamplerRun (ctx : Nat) (s : State) : Out :=
  match s.prog ctx, s.step? ctx with
  | some p, some r =>
    if r.status ≠ 0 ∨ r.sampled.isSome ∨ r.task.isSome ∨ r.placed < p.count then .next s
    else
      match s.drawAll ctx p r r.carried with
      | .ok xs => .next (s.took.modStep ctx (fun x => { x with sampled := some xs }))
      | .error d => let e := s.readEnd ctx 6 0 d; .next (e.1.modStep ctx (fun x => { x with status := e.2.1 }))
  | _, _ => .next s

/-! ### What a boundary applies (R259, R263, R264, R267, R268, R358, R361) -/

/-- The serving pointer moves to a ready generation; the one served before is retained (R358). -/
def State.applySwitch (s : State) (c model gen : Nat) : State :=
  let old := s.served c
  let retain (m : Model) : Model := match m.slotOf old.2 with | some i => m.setSlot i { m.slot i with st := .retained } | none => m
  let serve (m : Model) : Model := match m.slotOf gen with | some i => m.setSlot i { m.slot i with st := .serving } | none => m
  let s1 := if old.2 = 0 then s else s.modModel c old.1 retain
  let s2 := s1.modModel c model serve
  (s2.setFld .wgtServeModel model c).setFld .wgtServeGen gen c

/-- The smallest choice the spec leaves open: a free index of the adapter-copy table. -/
def State.pickCopy (s : State) : State × Nat :=
  let used := sortBy (fun a b => decide (a ≤ b)) (s.allCopies.map (fun k => k.index))
  (s.took, nthFree used (s.freeVal 16 % max 1 (1024 - used.length)))

/-- An install, where its image is loaded and the table has room (R267). -/
def State.applyInstall (s : State) (c q n id dva len : Nat) : State :=
  let ok := (s.wgt c).images.any (fun i => i.shard.dva == dva && i.shard.bytes == len && i.shard.arrived && !i.shard.invalid)
  if !ok then s.finish c q n St.adapterAbsent id
  else if 1024 ≤ s.allCopies.length then s.finish c q n St.adapterTableFull 0
  else
    let k := s.pickCopy
    let x := k.1.srv c
    let gen := ((x.adapters.find? (fun a => a.id == id)).map (fun a => a.gen)).getD 0 + 1
    (k.1.setSrv c { x with
      adapters := x.adapters.filter (fun a => a.id != id) ++ [⟨id, gen, true⟩]
      copies := x.copies ++ [⟨k.2, id, gen, dva⟩] }).finish c q n 0 0

/-- A retire, where the adapter is present (R268). -/
def State.applyRetire (s : State) (c q n id : Nat) : State :=
  let x := s.srv c
  if x.adapters.any (fun a => a.id == id && a.live) then
    (s.setSrv c { x with adapters := x.adapters.map (fun a => if a.id = id then { a with live := false } else a) }).finish c q n 0 0
  else s.finish c q n St.adapterAbsent id

/-- A command placed at the boundary takes effect. -/
def State.applyOp (s : State) (c : Nat) (o : BoundOp) : State :=
  match o with
  | .install q n id dva len => s.applyInstall c q n id dva len
  | .retire q n id => s.applyRetire c q n id
  | .switch q n m g =>
    let x := (s.wgt c).model m
    let st := match x.slotOf g with | some i => (x.slot i).st | none => .free
    if st = .ready then (s.applySwitch c m g).finish c q n 0 0 else s.finish c q n 0x0405 st.code
  | .barrier _ _ m => s.modModel c m (fun x => { x with barrier := true })

/-- A command for the next boundary, or applied at once when no step is running. -/
def State.atBoundary (s : State) (c : Nat) (o : BoundOp) : State :=
  if s.stepping c then s.modSrv c (fun x => { x with ops := x.ops ++ [o] }) else s.applyOp c o

/-- A decode request leaves the step set to be paused, where the host range is large enough (R264). -/
def State.startPauses (s : State) (c slot : Nat) : State :=
  match (s.srv c).req slot with
  | none => s
  | some r =>
    r.pauses.foldl (fun t k =>
      match (t.srv c).req slot with
      | none => t
      | some x =>
        if x.st = .decode ∧ x.pages.length ≤ k.pages then t.setReq c slot (some { x with st := .pausing, pause := some k, pauses := [] })
        else (t.setReq c slot (some { x with pauses := [] })).finish c k.stream k.seq St.wrongState x.st.code) s

/-- The tokens of a step delivered to a request, cut at a stop token or MAX_NEW (R258), with the event that ends it, 0 for none. -/
def cutToks (r : Req) : Nat → List (Nat × Nat) → List (Nat × Nat) × Nat
  | _, [] => ([], 0)
  | d, t :: ts =>
    if r.stops.any (fun x => x == t.1 && x != 0xFFFFFFFF) then ([t], 2)
    else if d + 1 = r.maxNew then ([t], 3)
    else let q := cutToks r (d + 1) ts; (t :: q.1, q.2)

/-- The request's generation or adapter is suspect at the boundary (R261, R356). -/
def State.reqSuspect (s : State) (c : Nat) (r : Req) (carried : Bool) : Bool :=
  let gens := (if carried then [r.lastGen] else []) ++ (if r.pc then [r.wgen] else [])
  let bad := r.acopy != 0x3FF && ((s.srv c).copies.find? (fun k => k.index == r.acopy)).any (fun k => s.copyBad c k)
  r.st != .reserved && (gens.any (fun g => s.genSuspect c (s.served c).1 g) || bad)

/-- A carried request's progress in a step that ran: prompt tokens, delivered tokens, guesses and state; the event that ends it, 0 for none. -/
def State.reqOutcome (s : State) (c : Nat) (run : StepRun) (slot : Nat) (r : Req) : State × Nat :=
  let ents := run.ents.filter (fun e => e.slot == slot)
  let smp := ((run.sampled.getD []).find? (fun x => x.slot == slot)).getD ⟨slot, [], [], 0⟩
  let pre := (ents.filter (fun e => e.kind == 2)).length
  let cut := cutToks r r.delivered smp.toks
  let n := cut.1.length
  let gen := (ents.headD ⟨0, 0, 0, 0, false, 0, 0, 0⟩).gen
  let r1 := { r with
    ran := r.ran + pre, delivered := r.delivered + n, lastGen := gen
    last := ((cut.1.getLast?).map (fun t => t.1)).getD r.last
    guesses := if n = 0 then r.guesses else smp.heads.getD (n - 1) []
    st := if r.ran + pre = r.promptLen then .decode else .prefill }
  let proposed := (ents.filter (fun e => e.kind == 1)).length
  let s1 := (s.bump .srvSpecProposed c proposed).bump .srvSpecAccepted c smp.accepted
  let s2 := (s1.outTokens c r cut.1).setReq c slot (some r1)
  (if cut.2 = 0 then s2.outHeader c r1 0 else s2, cut.2)

/-- One slot at the boundary: admitted event, outcome or failure, then what ends it (R259, R261, R263). -/
def State.slotBoundary (s : State) (c : Nat) (run : StepRun) (slot : Nat) : State :=
  match (s.srv c).req slot with
  | none => s
  | some r0 =>
    let carried := run.carried.contains slot
    let r := if carried then { r0 with admitted := true } else r0
    let s0 := if carried && !r0.admitted then (s.setReq c slot (some r)).srvEvent c 1 slot r 0 else s
    if carried ∧ run.status ≠ 0 then s0.endReq c slot 5 run.status
    else
      let o := if carried then s0.reqOutcome c run slot r else (s0, 0)
      match (o.1.srv c).req slot with
      | none => o.1
      | some x =>
        if o.2 ≠ 0 then o.1.endReq c slot o.2 0
        else if !x.cancels.isEmpty && x.st != .pausing && x.st != .resuming then o.1.endReq c slot 4 0
        else if o.1.reqSuspect c x carried && x.st != .pausing && x.st != .resuming then o.1.endReq c slot 5 St.weightsSuspect
        else o.1.startPauses c slot

/-- The slots of a context that hold requests, ascending. -/
def State.slotList (s : State) (c : Nat) : List Nat := (s.srv c).reqs.map (fun r => r.1)

/-- R259: the step's outcomes commit as one module-formed group. -/
def execStepBoundary (ctx : Nat) (s : State) : Out :=
  match s.step? ctx with
  | none => .next s
  | some run =>
    if run.status = 0 ∧ run.sampled.isNone then .next s
    else if run.task.any (fun t => (s.task t).st != .ended) then .next s
    else
      let s0 := match run.task with | some t => (s.settle t false).dropTaskRec t | none => s
      let s1 := s0.txnLog ctx 0 s0.freeSlot
      let s2 := (s1.slotList ctx).foldl (fun t k => t.slotBoundary ctx run k) s1
      let ops := (s2.srv ctx).ops
      let s3 := s2.modSrv ctx (fun x => { x with step := none, ops := [] })
      let s4 := ops.foldl (fun t o => t.applyOp ctx o) s3
      let s5 := s4.modModel ctx (s4.served ctx).1 (fun m => { m with lastUse := s4.ptime })
      let s6 := (s5.put64 .srvStepLo .srvStepHi run.num ctx).bump .splStepCnt 0
      let s7 := if run.status = 0 then s6.calibrate ctx 0xFC run.est (s6.unitNj (.step ctx)) (run.execs == 1) else s6
      .next (s7.dropUnit (.step ctx))

/-- R247: after 64 steps without pages the decode request admitted last ends. -/
def execKvPoolExhausted (ctx : Nat) (s : State) : Out :=
  if (s.srv ctx).dry < 64 ∨ s.stepping ctx then .next s
  else
    let ds := (s.srv ctx).decodes
    let last := ds.foldl (fun m r => match m with | none => some r | some q => if q.2.order < r.2.order then some r else some q) (none : Option (Nat × Req))
    let s1 := s.modSrv ctx (fun x => { x with dry := 0 })
    match last with
    | none => .next s1
    | some r => .next (s1.endReq ctx r.1 5 St.kvExhausted)

/-! ### Serving commands (R262, R263, R266 to R270) -/

/-- A serving command of an operation code, where its record is started. -/
def State.withOp (s : State) (c q n kind op : Nat) (f : Entry → State) : Out :=
  s.withRecord c q n kind (fun e => if e.op = op then f e else s)

/-- A command that commits where it stands. -/
def State.endOp (s : State) (e : Entry) (status detail : Nat) : State := (s.begin e).finish e.ctx e.stream e.seq status detail

/-- The lowest free slot of a context's range. -/
def State.freeReqSlot (s : State) (c : Nat) : Option Nat := (List.range (s.fld .srvQuotaSlots c)).find? (fun i => ((s.srv c).req i).isNone)

/-- The request an admit record describes (R269). -/
def newReq (e : Entry) (epoch order : Nat) : Req :=
  let w := e.u 0x30 4
  { st := .reserved, epoch := epoch, stream := e.stream, seq := e.seq, order := order, prio := e.prio
    pc := bit w 23, logp := bit w 22, specEn := bit w 21, adapter := bits w 9 0
    promptLen := e.u 0x34 4, promptAddr := e.u 0x38 6, outAddr := e.u 0x40 6, maxNew := e.u 0x48 4, seed := e.u 0x4C 4
    temp := e.u 0x50 2, topP := e.u 0x52 2, topK := e.u 0x54 4, stops := [e.u 0x58 4, e.u 0x5C 4, e.u 0x60 4, e.u 0x64 4]
    admitted := false, prompt := [], agen := 0, acopy := 0x3FF, wgen := 0, lastGen := 0, ran := 0, delivered := 0, last := 0, guesses := []
    left := 0, pages := [], cancels := [], pauses := [], pause := none, crcs := [], host := 0, deadline := 0, resume := none }

/-- R270, R363: an admit claims the lowest free slot and commits at once. -/
def State.admitReq (s : State) (e : Entry) : State :=
  let c := e.ctx
  let w := e.u 0x30 4
  match s.prog c with
  | none => s.endOp e St.servingDisabled 0
  | some p =>
    let need := p.pagesFor (e.u 0x34 4 + e.u 0x48 4)
    if s.fld .srvCtlEn c = 0 then s.endOp e St.servingDisabled 0
    else if bit w 23 && ((s.wgt c).model (s.served c).1).inplace then s.endOp e St.pcUnavailable 0
    else if s.fld .srvMaxPagesPages c < need then s.endOp e St.requestTooLong need
    else if bits w 9 0 ≠ 0x3FF ∧ (s.adapterNow c (bits w 9 0)).isNone then s.endOp e St.adapterAbsent (bits w 9 0)
    else
      match s.freeReqSlot c with
      | none => s.endOp e St.slotQuotaFull 0
      | some i =>
        let x := s.srv c
        let r := Sys2Proof.Machine.newReq e (x.epoch i) x.admits
        (s.setSrv c { x.setReq i (some r) with admits := x.admits + 1 }).endOp e 0 (i + x.epoch i * 2 ^ 16)

def execAdmitRequest (ctx stream seq : Nat) (s : State) : Out := s.withOp ctx stream seq 6 1 s.admitReq

/-- What a handle names (R241, R262). -/
inductive Handle where
  | req (slot : Nat) (r : Req)
  | gone
  | invalid

/-- The request a command names. -/
def State.handle (s : State) (e : Entry) : Handle :=
  let slot := e.u 0x30 2
  let ep := e.u 0x34 2
  let x := s.srv e.ctx
  if s.fld .srvQuotaSlots e.ctx ≤ slot then .invalid
  else
    match x.req slot with
    | some r => if r.epoch = ep then .req slot r else .gone
    | none => if x.epoch slot = ep then .invalid else .gone

/-- A command for a request, with the two outcomes of R262. -/
def State.withHandle (s : State) (e : Entry) (f : Nat → Req → State) : State :=
  match s.handle e with
  | .invalid => s.endOp e St.invalidHandle 0
  | .gone => s.endOp e St.alreadyComplete 0
  | .req slot r => f slot r

/-- R263, R362: a cancel ends a reserved, paused or held request at once, and any other at the next boundary. -/
def State.cancel (s : State) (e : Entry) : State :=
  s.withHandle e (fun slot r =>
    let held := ((s.wgt e.ctx).model (s.served e.ctx).1).barrier
    let s1 := (s.begin e).setReq e.ctx slot (some { r with cancels := r.cancels ++ [(e.stream, e.seq)] })
    if r.st = .reserved ∨ r.st = .paused then s1.endReq e.ctx slot 4 0
    else if r.st = .pausing ∨ r.st = .resuming then s1
    else if !s.stepping e.ctx || held then s1.endReq e.ctx slot 4 0
    else s1)

def execCancel (ctx stream seq : Nat) (s : State) : Out := s.withOp ctx stream seq 6 2 s.cancel

/-- R264: a pause is taken in decode alone, and begins at the next boundary. -/
def State.pauseCmd (s : State) (e : Entry) : State :=
  s.withHandle e (fun slot r =>
    if r.st ≠ .decode then s.endOp e St.wrongState r.st.code
    else
      let k : PauseCmd := ⟨e.stream, e.seq, e.u 0x38 6, bits (e.u 0x40 4) 24 0, e.u 0x44 4⟩
      let s1 := (s.begin e).setReq e.ctx slot (some { r with pauses := r.pauses ++ [k] })
      if s.stepping e.ctx then s1 else s1.startPauses e.ctx slot)

def execPause (ctx stream seq : Nat) (s : State) : Out := s.withOp ctx stream seq 6 3 s.pauseCmd

/-- The bytes of a request's pages, in order, or the read that stops them. -/
def State.pageBytes (s : State) (c : Nat) (o : ReadOwner) : List Nat → DvaRead
  | [] => .ok []
  | p :: ps =>
    match s.dvaRead c (s.pageAddr c p) 0x10000 o true, s.pageBytes c o ps with
    | .ok a, .ok b => .ok (a ++ b)
    | .ok _, d => d
    | d, _ => d

/-- 64 KiB pages of a byte string. -/
def pagesOf (n : Nat) (bs : List (BitVec 8)) : List (List (BitVec 8)) := (List.range n).map (fun i => (bs.drop (0x10000 * i)).take 0x10000)

/-- R264: the copy to the host tier is complete; pages, slot, event and record commit together. A page that cannot be read ends the request. -/
def execPauseCopyComplete (ctx slot : Nat) (s : State) : Out :=
  match (s.srv ctx).req slot with
  | none => .next s
  | some r =>
    match r.st, r.pause with
    | .pausing, some k =>
      match s.pageBytes ctx (promptOwner ctx slot) r.pages with
      | .ok bs =>
        let s1 := (s.txnLog ctx 0 s.freeSlot).devWrite ctx k.host bs
        let r1 := { r with
          st := .paused, pages := [], pause := none, pauses := [], crcs := (pagesOf r.pages.length bs).map crc32c
          deadline := s.ptime + 25000 * k.ttl, host := k.host }
        let s2 := ((s1.setReq ctx slot (some r1)).outHeader ctx r1 2).srvEvent ctx 6 slot r1 0
        let s3 := s2.finish ctx k.stream k.seq 0 0
        .next (if r.cancels.isEmpty then s3 else s3.endReq ctx slot 4 0)
      | d => let e := s.readEnd ctx 6 0 d; .next (e.1.endReq ctx slot 5 e.2.1)
    | _, _ => .next s

/-- The owner of the host reads of a resume. -/
def resumeOwner (c slot : Nat) : ReadOwner := .op 6 (c * 65536 + slot)

/-- R265, R266: a resume that starts in time and finds pages for the whole request begins its copy. -/
def State.resumeCmd (s : State) (e : Entry) : State :=
  s.withHandle e (fun slot r =>
    if r.st ≠ .paused then s.endOp e St.wrongState r.st.code
    else if r.deadline < s.ptime then s.endOp e St.pausedExpired 0
    else if s.kvFree e.ctx < r.crcs.length then s.endOp e St.kvExhausted (s.kvFree e.ctx)
    else
      let a := s.pickPages e.ctx r.crcs.length []
      let s1 := (a.1.begin e).setReq e.ctx slot (some { r with st := .resuming, resume := some (e.stream, e.seq) })
      s1.givePages e.ctx slot a.2)

def execResume (ctx stream seq : Nat) (s : State) : Out := s.withOp ctx stream seq 6 4 s.resumeCmd

/-- R266: the pages are back; each CRC-32C is checked. -/
def execResumeCopyComplete (ctx slot : Nat) (s : State) : Out :=
  match (s.srv ctx).req slot with
  | none => .next s
  | some r =>
    if r.st ≠ .resuming then .next s
    else
      match s.dvaRead ctx r.host (0x10000 * r.pages.length) (resumeOwner ctx slot) false with
      | .wait u => .next u
      | .ok bs =>
        let s0 := s.dropReads (resumeOwner ctx slot)
        let ps := pagesOf r.pages.length bs
        match (ps.zip r.crcs).findIdx? (fun p => crc32c p.1 != p.2) with
        | some i =>
          let s1 := match r.resume with | some k => s0.finish ctx k.1 k.2 St.pausedCorrupt i | none => s0
          .next ((s1.setReq ctx slot (some { r with resume := none })).endReq ctx slot 5 St.pausedCorrupt)
        | none =>
          let s1 := (r.pages.zip ps).foldl (fun t p => t.devWrite ctx (t.pageAddr ctx p.1) p.2) s0
          let r1 := { r with st := .decode, resume := none, crcs := [] }
          let s2 := ((s1.setReq ctx slot (some r1)).outHeader ctx r1 0).srvEvent ctx 7 slot r1 0
          let s3 := match r.resume with | some k => s2.finish ctx k.1 k.2 0 0 | none => s2
          .next (if r.cancels.isEmpty then s3 else s3.endReq ctx slot 4 0)
      | d => let e := (s.dropReads (resumeOwner ctx slot)).readEnd ctx 6 0 d; .next (e.1.endReq ctx slot 5 e.2.1)

/-- R265: a paused request whose deadline has passed is freed. -/
def execPauseExpiry (ctx slot : Nat) (s : State) : Out :=
  match (s.srv ctx).req slot with
  | none => .next s
  | some r =>
    when (r.st == .paused && decide (r.deadline < s.ptime)) (((s.endReq ctx slot 8 0).bump .srvExpiredCnt ctx).raise 0x23 ctx 2) s

def execAdapterInstall (ctx stream seq : Nat) (s : State) : Out :=
  s.withOp ctx stream seq 6 5 (fun e => (s.begin e).atBoundary ctx (.install stream seq (bits (e.u 0x30 4) 9 0) (e.u 0x38 6) (e.u 0x40 4)))

def execAdapterRetire (ctx stream seq : Nat) (s : State) : Out :=
  s.withOp ctx stream seq 6 6 (fun e => (s.begin e).atBoundary ctx (.retire stream seq (bits (e.u 0x30 4) 9 0)))

/-- R268: a copy that is no longer its adapter's current live generation and that no request binds is freed, with its event. -/
def execAdapterFreed (ctx copy : Nat) (s : State) : Out :=
  let x := s.srv ctx
  match x.copies.find? (fun k => k.index == copy) with
  | none => .next s
  | some k =>
    let now := x.adapters.any (fun a => a.id == k.id && a.gen == k.gen && a.live)
    let bound := x.reqs.any (fun r => r.2.st != .reserved && r.2.acopy == copy)
    if now || bound then .next s
    else
      let s0 := s.setSrv ctx { x with copies := x.copies.filter (fun y => y.index != copy) }
      let s1 := if x.copies.any (fun y => y.index != copy && y.dva == k.dva) then s0 else s0.freeImage ctx k.dva
      .next (s1.modSrv ctx (fun y =>
        { y with
          evNum := y.evNum + 1
          events := y.events ++ [⟨y.evNum + 1, 9, 0, 0, 0xFFFF, 0, 0, 0, 0, k.gen, k.id, false, false, false, false⟩] }))

/-! ### The event ring (R273) -/

def State.evConsumed (s : State) (c : Nat) : Nat := s.fld64 .srvEvqConsumedLo .srvEvqConsumedHi c

def State.modEv (s : State) (c num : Nat) (f : SrvEv → SrvEv) : State :=
  s.modSrv c (fun x => { x with events := x.events.map (fun e => if e.num = num then f e else e) })

/-- R273: the next event is written once the ring has space, and its interrupt follows once. -/
def execRequestEventWrite (ctx : Nat) (s : State) : Out :=
  match (s.srv ctx).events.find? (fun e => !e.written || e.rew) with
  | none => .next s
  | some e =>
    if s.run ≠ .ready then .next s
    else if s.evConsumed ctx + s.evRing ctx < e.num then
      when (!e.waited) (((s.modEv ctx e.num (fun x => { x with waited := true })).bump .srvEvqFullCnt ctx).raise 0x23 ctx 1) s
    else
      let a := s.fld64 .srvEvqBaseLoBase .srvEvqBaseHi ctx + 32 * ((e.num - 1) % s.evRing ctx)
      let s1 := (s.emit (.completion ctx a (e.bytes (s.evRing ctx)))).modEv ctx e.num (fun x => { x with written := true, signalled := true, rew := false })
      .next (if e.signalled then s1 else s1.raiseVector ctx (s.fld .srvEvqCtlVector ctx))

/-- R221, R273: SRV_EVQ_CONSUMED takes a value that does not pass the last event written and does not fall; consumed events are forgotten. -/
def State.setEvConsumed (s : State) (c v : Nat) : State :=
  let last := (((s.srv c).events.filter (fun e => e.written)).map (fun e => e.num)).foldl max (s.evConsumed c)
  if v < s.evConsumed c ∨ last < v then s
  else (s.put64 .srvEvqConsumedLo .srvEvqConsumedHi v c).modSrv c (fun x => { x with events := x.events.filter (fun e => decide (v < e.num)) })

def execSrvEvqConsumedWrite (ctx value : Nat) (s : State) : Out := .next (s.setEvConsumed ctx value)

/-! ### Enables (R251, R274, R275) -/

/-- R274: a write of SRV_CTL. -/
def State.writeSrvCtl (s : State) (c w : Nat) : State :=
  let m := bits w 7 5
  let s1 := if m ≤ 4 then s.setFld .srvCtlSpecMax m c else s
  if !bit w 0 then s1.setFld .srvCtlEn 0 c
  else if s.fld .splCtlEn 0 = 0 ∨ (s.prog c).isNone then s1
  else s1.setFld .srvCtlEn 1 c

def execServingEnable (ctx value : Nat) (s : State) : Out := .next (s.writeSrvCtl ctx value)

/-- R275: a write of SPL_CTL. EN set locks the placement, or the write is ignored whole with PLACE_ERR. -/
def State.writeSplCtl (s : State) (w : Nat) : State :=
  if s.fld .splCtlEn 0 = 1 then s
  else
    let a := bits w 5 1
    let b := bits w 10 6
    let s0 := s.setFld .splStatPlaceErr 0 0
    let set (v : Nat) : State := ((s0.setFld .splCtlStackA a 0).setFld .splCtlStackB b 0).setFld .splCtlEn v 0
    if !bit w 0 then set 0
    else
      let pa : Placed := ⟨a, s.fld .splBaseABase 0, 32⟩
      let pb : Placed := ⟨b, s.fld .splBaseBBase 0, 32⟩
      let ok := a != b && s.placeable pa && s.placeable pb && s.jnlPlaced.all (fun x => !x.overlaps pa && !x.overlaps pb)
      if ok then set 1 else s0.setFld .splStatPlaceErr 1 0

def execServingStateEnable (value : Nat) (s : State) : Out := .next (s.writeSplCtl value)

end Sys2Proof.Machine
end

