-- ==== Sys2Proof/Machine/LoadOps.lean ====
section
/-! DEFINITION. Loads in progress and the storage commands that carry them: bytes landed, failures and commits (R353, R357, R361, R362, R430 to R438). -/
namespace Sys2Proof.Machine

/-! ### Jobs -/

def LoadJob.is (j : LoadJob) (c q n : Nat) : Bool := j.ctx == c && j.stream == q && j.seq == n

def State.job (s : State) (c q n : Nat) : Option LoadJob := s.loads.find? (fun j => j.is c q n)

def State.modJob (s : State) (c q n : Nat) (f : LoadJob → LoadJob) : State := { s with loads := s.loads.map (fun j => if j.is c q n then f j else j) }

def State.dropJob (s : State) (j : LoadJob) : State := { s with loads := s.loads.filter (fun x => !x.is j.ctx j.stream j.seq) }

def State.sto (s : State) (p : Nat) : StoPort := Tbl.get stoDef s.stos p

def State.modSto (s : State) (p : Nat) (f : StoPort → StoPort) : State := { s with stos := Tbl.set stoDef s.stos p (f (s.sto p)) }

/-- The owner's record. -/
def StoOwner.key (o : StoOwner) : Nat × Nat × Nat :=
  match o with
  | .load c q n _ => (c, q, n)
  | .ckpt c q n => (c, q, n)

/-- Commands and ranges of an operation leave both ports. -/
def State.dropCmds (s : State) (k : Nat × Nat × Nat) : State :=
  [0, 1].foldl (fun t p => t.modSto p (fun x => { x with cmds := x.cmds.filter (fun m => m.owner.key != k), todo := x.todo.filter (fun r => r.owner.key != k) })) s

/-- Where byte `off` of a shard stands in HBM. -/
def Shard.key (x : Shard) (off : Nat) : Option Nat := (x.pages[off / 2 ^ 21]?).map (fun k => k + off % 2 ^ 21)

/-- Bytes written to a shard's own pages, page by page. `fuel` bounds the pages. -/
def State.shardWrite (s : State) (ctx : Nat) (x : Shard) : Nat → Nat → List (BitVec 8) → State
  | 0, _, _ => s
  | fuel + 1, off, bs =>
    if bs.isEmpty then s
    else
      let n := min bs.length (2 ^ 21 - off % 2 ^ 21)
      let t := match x.key off with
        | some k => s.hbmWrite none k (bs.take n)
        | none => match x.host with | some h => s.emit (.hostWrite ctx (h + off) (bs.take n)) | none => s
      t.shardWrite ctx x fuel (off + n) (bs.drop n)

/-- Some byte of a shard's pages is poisoned. -/
def State.shardPoison (s : State) (x : Shard) : Bool :=
  x.pages.zipIdx.any (fun p => s.poisoned p.1 (min (2 ^ 21) (x.bytes - p.2 * 2 ^ 21)))

/-- The bytes of a shard in its pages. -/
def State.shardBytes (s : State) (x : Shard) : List (BitVec 8) :=
  (x.pages.flatMap (fun k => s.hbmBytes k (2 ^ 21))).take x.bytes

/-- Bytes of a load do not land in the shard's own pages: an in-place update stages them, and tiered shards are hashed before they are written to the
host. -/
def LoadJob.buffered (j : LoadJob) (x : Shard) : Bool := j.kind == .inplace || x.host.isSome

/-- Bytes that a storage Read brought for a shard. -/
def State.landLoad (s : State) (c q n i off : Nat) (bs : List (BitVec 8)) : State :=
  match s.job c q n with
  | none => s
  | some j =>
    match j.shards[i]? with
    | none => s
    | some x =>
      let upd (b : Memory) : LoadJob := { j with buf := b, shards := setAt j.shards i { x with landed := x.landed + bs.length } }
      if j.buffered x.shard then s.modJob c q n (fun _ => upd (Memory.writeN j.buf (i * 2 ^ 42 + off) bs))
      else (s.modJob c q n (fun _ => upd j.buf)).shardWrite c x.shard (bs.length / 2 ^ 21 + 2) off bs

/-- R362: an in-place update that fails leaves what it wrote, every shard of the model suspect, and the barrier closed. -/
def State.spoil (s : State) (ctx model i : Nat) : State :=
  let g := ((s.wgt ctx).model model).slot i
  let s1 := g.shards.foldl (fun t x => t.markSuspect ctx x true) s
  s1.modModel ctx model (fun m => { m.setSlot i { m.slot i with st := .serving, shards := (m.slot i).shards.map (fun x => { x with invalid := true }) } with suspectAll := true })

/-- A load ends without committing (R353, R357, R362). -/
def State.failJob (s : State) (j : LoadJob) (status detail : Nat) : State :=
  let s1 := (s.dropJob j).dropCmds (j.ctx, j.stream, j.seq)
  let s2 := match j.kind, j.slot with
    | .fresh, some i => s1.modModel j.ctx j.model (fun m => m.setSlot i GenSlot.reset)
    | .inplace, some i => if j.held then s1.spoil j.ctx j.model i else s1
    | _, _ => s1
  s2.finish j.ctx j.stream j.seq status detail

/-- A fresh load commits: its shards are mapped and its generation is ready, or its images are installable (R353). -/
def State.commitFresh (s : State) (j : LoadJob) : State :=
  let xs := j.shards.map (fun x => { x.shard with arrived := true })
  let s1 := xs.foldl (fun t x => t.mapShard j.ctx x) (s.dropJob j)
  match j.slot with
  | some i => s1.modModel j.ctx j.model (fun m => { m.setSlot i { m.slot i with st := .ready, shards := xs } with top := max m.top j.num, evicted := false })
  | none => s1.setWgt j.ctx { s1.wgt j.ctx with images := (s1.wgt j.ctx).images ++ xs.map (fun x => ⟨j.num, x⟩) }

/-- A repair commits: no shard of the generation is invalid or suspect (R357). -/
def State.commitRepair (s : State) (j : LoadJob) : State :=
  match j.slot with
  | none => s.dropJob j
  | some i =>
    let s1 := (s.dropJob j).modModel j.ctx j.model (fun m => m.setSlot i { m.slot i with shards := (m.slot i).shards.map (fun x => { x with invalid := false }) })
    (((s1.wgt j.ctx).model j.model).slot i).shards.foldl (fun t x => t.markSuspect j.ctx x false) s1

/-- A load whose shards have all matched commits. -/
def State.commitJob (s : State) (j : LoadJob) : State :=
  (match j.kind with | .fresh => s.commitFresh j | .repair => s.commitRepair j | .inplace => s).finish j.ctx j.stream j.seq 0 0

/-! ### Storage ports: issue (R433 to R436) -/

/-- A message that a port sends, or holds while it is paused (R430). -/
def State.stoEmit (s : State) (p : Nat) (e : Emit) : State :=
  if (s.sto p).paused then s.modSto p (fun x => { x with held := x.held ++ [e] }) else s.emit e

def StoOp.code (o : StoOp) : Nat := match o with | .read => 0 | .write => 1 | .flush => 2

/-- A command issued. -/
def State.stoIssue (s : State) (p : Nat) (m : StoCmd) : State :=
  s.stoEmit p (.nvme p m.target m.queue m.num m.op.code (m.at_ / m.block) (m.bytes / m.block))

/-- Bytes of one command at most (R435; log entry 27). -/
def stoMax : Nat := 2 ^ 20

/-- Commands formed from the ranges that wait, while fewer than 4,096 are outstanding (R435, R436). Which I/O queue of the target takes one, the spec leaves open. -/
def State.stoPump (s : State) (p : Nat) : Nat → State
  | 0 => s
  | fuel + 1 =>
    let x := s.sto p
    match x.todo with
    | [] => s
    | r :: rest =>
      if 4096 ≤ x.cmds.length then s
      else
        let n := min r.left stoMax
        let io := (x.qps.filter (fun k => k.target == r.target)).length - 1
        let m : StoCmd := ⟨s.stoNum, r.owner, r.op, r.target, 1 + s.freeVal 3 % max 1 io, r.block, r.at_, r.off, n, 1⟩
        let rest1 := if r.left ≤ n then rest else { r with at_ := r.at_ + n, off := r.off + n, left := r.left - n } :: rest
        let s1 := ({ s.took with stoNum := s.stoNum + 1 } : State).modSto p (fun y => { y with todo := rest1, cmds := y.cmds ++ [m] })
        (s1.stoIssue p m).stoPump p fuel

def State.stoRun (s : State) (p : Nat) : State := s.stoPump p 4096

/-- What is left of CLASS, TARGET and ATTEMPTS in a storage DETAIL (R438). -/
def stoDetail (cls target attempts : Nat) : Nat := cls * 2 ^ 28 + target * 2 ^ 16 + attempts

/-- The entry of a target, where it is in use and permits the context (R434, R436): block size and I/O queues. -/
def State.target (s : State) (ctx t : Nat) : Option (Nat × Nat) :=
  let p := t / 128
  match s.readDva 0 (s.fld64 .stoTgtLoBase .stoTgtHiBase p + 512 * (t % 128)) 512 with
  | .error _ => none
  | .ok b =>
    let w := leAt b 0 4
    let ioq := bits w 19 16
    if bit w 31 && decide (1 ≤ ioq) && decide (ioq ≤ 8) && decide (1 ≤ bits w 6 0) && bits w 28 20 == 0 && bits w 15 7 == 0 && bit (leAt b 8 8) ctx then
      some (if bit w 29 then 4096 else 512, ioq)
    else none

/-- The CLASS with which a range of a target cannot be started, or its block size and the state with the target's queues open (R435 to R438, log entry 28). -/
def State.stoOpen (s : State) (ctx t off bytes : Nat) : Except Nat (State × Nat) :=
  let p := t / 128
  let x := s.sto p
  if s.fld .stoCtlEn p = 0 || x.failed then .error 3
  else
    match s.target ctx t with
    | none => .error 4
    | some (blk, ioq) =>
      if off % blk ≠ 0 ∨ bytes % blk ≠ 0 then .error 5
      else if x.qps.any (fun k => k.target == t) then .ok (s, blk)
      else if 1152 < x.qps.length + 1 + ioq then .error 3
      else .ok (s.modSto p (fun y => { y with qps := y.qps ++ (List.range (ioq + 1)).map (fun i => ⟨t, i, false, 1000000, none, s.ptime, none, 0⟩) }), blk)

/-- Every range of an operation is checked and its target opened before any byte moves: its block size, or the CLASS and target of the first that fails. -/
def State.stoOpenAll (s : State) (ctx : Nat) : List (Nat × Nat × Nat) → List Nat → Except (Nat × Nat) (State × List Nat)
  | [], acc => .ok (s, acc)
  | (t, off, n) :: rest, acc =>
    match s.stoOpen ctx t off n with
    | .error c => .error (c, t)
    | .ok (u, b) => u.stoOpenAll ctx rest (acc ++ [b])

/-- An operation's failure is counted, latched and raised at its port (R438, R439). -/
def State.stoNote (s : State) (p ctx detail : Nat) : State :=
  let s1 := s.bump .stoErrCnt p
  let s2 := if s1.fld .stoErrCaptValid p = 1 then s1
    else ((s1.setFld .stoErrCaptValid 1 p).setFld .stoErrCaptCtx ctx p).setFld .stoErrDetail detail p
  s2.raise 0x0A p 1

/-- Ranges join the ports they go to. -/
def State.stoQueue (s : State) (rs : List StoRange) : State :=
  let s1 := rs.foldl (fun t r => t.modSto (r.target / 128) (fun x => { x with todo := x.todo ++ [r] })) s
  (s1.stoRun 0).stoRun 1

/-! ### Checkpoint writes (R437) -/

def State.ckpt (s : State) (c q n : Nat) : Option Ckpt := s.ckpts.find? (fun k => k.ctx == c && k.stream == q && k.seq == n)

def State.modCkpt (s : State) (c q n : Nat) (f : Ckpt → Ckpt) : State :=
  { s with ckpts := s.ckpts.map (fun k => if k.ctx = c ∧ k.stream = q ∧ k.seq = n then f k else k) }

/-- A checkpoint write ends. -/
def State.endCkpt (s : State) (k : Ckpt) (status detail : Nat) : State :=
  (({ s with ckpts := s.ckpts.filter (fun x => !(x.ctx == k.ctx && x.stream == k.stream && x.seq == k.seq)) } : State).dropCmds (k.ctx, k.stream, k.seq)).finish
    k.ctx k.stream k.seq status detail

/-- The status and detail of a checkpoint write whose access faults (R437, R503). -/
def State.ckptFault (s : State) (ctx cause dva : Nat) : State × Nat × Nat :=
  let e := s.faultEnd ctx cause 5 0 dva
  if cause = 4 then (e.1, St.translationFault, dva / 2 ^ 16 % 2 ^ 32) else e

/-- Every Write, and the Flush where one is asked for, has succeeded: the digest is written and the record commits (R437). -/
def State.finishCkpt (s : State) (k : Ckpt) : State :=
  if k.digest = 0 then s.endCkpt k 0 0
  else
    match s.pieces k.ctx k.digest 32 true false true true with
    | .error e => let f := s.ckptFault k.ctx e.1 e.2; f.1.endCkpt k f.2.1 f.2.2
    | .ok _ => (s.devWrite k.ctx k.digest (sha3 (Memory.readN k.sent 0 k.bytes))).endCkpt k 0 0

/-- An operation of a port fails (R436, R438). -/
def State.stoFail (s : State) (p : Nat) (o : StoOwner) (detail : Nat) : State :=
  let k := o.key
  match o with
  | .load c q n _ =>
    match s.job c q n with
    | none => s.dropCmds k
    | some j => (s.stoNote p c detail).failJob j St.storageRead detail
  | .ckpt c q n =>
    match s.ckpt c q n with
    | none => s.dropCmds k
    | some j => (s.stoNote p c detail).endCkpt j St.storageWrite detail

/-- A command succeeded: its bytes are in place, or its part of the checkpoint is written (R436, R437). -/
def State.stoDone (s : State) (p : Nat) (m : StoCmd) (data : List (BitVec 8)) : State :=
  let s1 := (s.modSto p (fun x => { x with
    cmds := x.cmds.filter (fun y => y.num != m.num)
    qps := x.qps.map (fun k => if k.target = m.target ∧ k.queue = m.queue then { k with retries := 0 } else k) })).bump .stoCmdCnt p
  match m.owner with
  | .load c q n i => (s1.landLoad c q n i m.off data).stoRun p
  | .ckpt c q n =>
    match s1.ckpt c q n with
    | none => s1.stoRun p
    | some k =>
      if m.op = .flush then s1.finishCkpt k
      else
        let k1 := { k with done := k.done + m.bytes }
        let s2 := s1.modCkpt c q n (fun _ => k1)
        if k1.done < k.bytes then s2.stoRun p
        else if k.flush then (s2.stoQueue [⟨m.owner, .flush, m.target, m.block, 0, 0, 0⟩])
        else s2.finishCkpt k1

/-- A command issued again, or failed where it has been issued four times (R436). -/
def State.stoAgain (s : State) (p : Nat) (m : StoCmd) (cls : Nat) : State :=
  if 4 ≤ m.issues then s.stoFail p m.owner (stoDetail cls m.target m.issues)
  else
    let m1 := { m with issues := m.issues + 1 }
    ((s.modSto p (fun x => { x with cmds := x.cmds.map (fun y => if y.num = m.num then m1 else y) })).bump .stoRetryCnt p).stoIssue p m1

end Sys2Proof.Machine
end

