-- ==== Sys2Proof/Machine/Collect.lean ====
section
/-! DEFINITION. Collective records, CPOST, and what the collective engines send and receive (R310 to R327). -/
namespace Sys2Proof.Machine

/-! ### Records (R311, R312, R326) -/

/-- A collective record opens its collective on its engines, or is refused (R309, R310, R325, R336). -/
def State.collOp (s : State) (e : Entry) : State :=
  let k0 := collOf (e.raw.drop 0x30) e.ctx s.collNum (.record e.stream e.seq)
  let live := ((s.tgroup e.ctx k0.tgroup).map (fun g => g.live)).getD 0
  if k0.tgroup ≠ 0xFFFF ∧ (s.tgroup e.ctx k0.tgroup).isNone then s.endOp e St.tgUnknown k0.tgroup
  else
    let half := if k0.op = 6 then 1 - live else 0
    let k := { k0 with half := half, dst := k0.dst + half * e.u 0x5C 4 }
    match (s.begin e).openColl k (e.u 0x40 6) (bit (e.u 0x30 4) 12) with
    | .ok t => t
    | .refuse t st d => t.endOp e st d
    | .full => s

def execAllReduce (ctx stream seq : Nat) (s : State) : Out := s.withOp ctx stream seq 3 1 s.collOp
def execReduceScatter (ctx stream seq : Nat) (s : State) : Out := s.withOp ctx stream seq 3 2 s.collOp
def execAllGather (ctx stream seq : Nat) (s : State) : Out := s.withOp ctx stream seq 3 3 s.collOp
def execBroadcast (ctx stream seq : Nat) (s : State) : Out := s.withOp ctx stream seq 3 4 s.collOp
def execReceive (ctx stream seq : Nat) (s : State) : Out := s.withOp ctx stream seq 3 5 s.collOp
def execReduceUpdateGather (ctx stream seq : Nat) (s : State) : Out := s.withOp ctx stream seq 3 6 s.collOp

/-- R326: a library abort closes the collective of its tag on every member. -/
def State.abortOp (s : State) (e : Entry) : State :=
  match s.coll e.ctx (e.u 0x38 6) with
  | none => s.endOp e 0 0
  | some k => (s.abortColl k 1).endOp e 0 0

def execCollectiveAbort (ctx stream seq : Nat) (s : State) : Out := s.withOp ctx stream seq 3 7 s.abortOp

/-! ### CPOST (R321) -/

/-- The operands of CPOST. -/
structure PostArgs where
  ls : Nat
  chunk : Nat
  bytes : Nat
  dfab : Nat
  disl : Nat
  direct : Bool
  tag : Nat

def postArgs (a b d : Nat) : PostArgs :=
  ⟨bits a 21 0, bits a 63 32, bits b 16 0, bits b 45 32, bits b 50 46, bit b 51, bits d 47 0⟩

/-- A contribution joins its collective; one posted twice is counted and dropped (R320). -/
def State.contribute (s : State) (isl : Nat) (k : Coll) (chunk : Nat) (bs : List (BitVec 8)) : State :=
  let n : Nat × Nat := if k.reduces then ((k.desc.ents[k.rank]?).map (fun e => (e.lo, e.log))).getD (0, 0) else (0, k.top)
  if k.vals.any (fun v => v.chunk == chunk && v.lo == n.1 && v.log == n.2) ∨ k.landed.contains chunk then s.bump .colDupCnt isl
  else (s.modColl k.num (fun x => { x with vals := x.vals ++ [⟨chunk, n.1, n.2, bs⟩] })).ownChunk k.num chunk

/-- A contribution may be posted to a collective: open with POSTED, of that chunk's length. -/
def State.postable (s : State) (k : Coll) (p : PostArgs) : Bool :=
  k.posted && decide (p.chunk < k.nchunks) && p.bytes == k.len p.chunk &&
    (k.reduces || ((k.ownerOf p.chunk).any (fun o => o.fab == s.fabId)))

/-- The credit held early for a post. -/
def Engine.creditFor (e : Engine) (ctx tag chunk dfab disl : Nat) : Bool :=
  e.early.any (fun m => m.tag == tag && m.chunk == chunk && m.sfab == dfab && m.sisl == disl && m.dctx == ctx)

def execCpost (c : CayRef) (f : SFields) (s : State) : Out :=
  issueRegs c (f.rsv == 0) [f.d, f.a, f.b] s (fun t th =>
    let p := postArgs (th.reg f.a).toNat (th.reg f.b).toNat (th.reg f.d).toNat
    let y := s.cay c
    let ctx := (s.task th.task).ctx
    let refuse := s.failTask th.task St.copyRefused 0
    match s.lsOperand c.island (th.reg f.a).toNat p.bytes 1 false with
    | none => s.failTask th.task St.layout 0
    | some ls =>
      if ls % 64 ≠ 0 ∨ p.bytes = 0 ∨ p.bytes % 64 ≠ 0 ∨ 65536 < p.bytes then refuse
      else if y.pendingRange y.issue ls p.bytes then s.blockThr c t .operand 0
      else if p.direct then
        if 64 ≤ (s.eng c.island).posts.length then s.blockThr c t .post 3
        else
          let g := (s.eng c.island).creditFor ctx p.tag p.chunk p.dfab p.disl
          let q : Post := ⟨ctx, p.tag, p.chunk, p.dfab, p.disl, g, false, false, 0, y.lsRead ls p.bytes⟩
          (s.modEng c.island (fun e => { e with
            posts := e.posts ++ [q]
            early := e.early.filter (fun m => !(m.tag == p.tag && m.chunk == p.chunk && m.sfab == p.dfab && m.sisl == p.disl && m.dctx == ctx)) })).putThr c t th.next
      else
        match s.collAt c.island ctx p.tag with
        | none => refuse
        | some k => if s.postable k p then (s.putThr c t th.next).contribute c.island k p.chunk (y.lsRead ls p.bytes) else refuse)

/-! ### Sending (R316 to R318, R371) -/

/-- The first of a list for which a step answers. -/
def firstSome {α β : Type} (f : α → Option β) : List α → Option β
  | [] => none
  | x :: xs => match f x with | some y => some y | none => firstSome f xs

/-- A control message that can leave now. -/
def State.sendControl (s : State) (isl : Nat) : Option State :=
  firstSome (fun (p : Msg × Nat) => (s.modEng isl (fun e => { e with outq := e.outq.eraseIdx p.2 })).hop isl p.1) ((s.eng isl).outq.zipIdx)

/-- A relayed chunk that can leave now. -/
def State.sendRelay (s : State) (isl : Nat) : Option State :=
  firstSome (fun (p : Relay × Nat) =>
    if p.1.out then none
    else (s.hop isl p.1.m).map (fun t => t.modEng isl (fun e => { e with relays := setAt e.relays p.2 { p.1 with out := true } }))) ((s.eng isl).relays.zipIdx)

/-- The source bytes of a piece a turn sends (R371). -/
def State.turnBytes (s : State) (u : Turn) (p : TurnPiece) : Option (List (BitVec 8)) :=
  if p.copy ≠ [] then some p.copy
  else match s.dvaRead u.ctx p.addr p.bytes (.op 12 0) true with | .ok bs => some bs | _ => none

/-- A turn chunk that can leave now; one whose source cannot be read fails the turn. -/
def State.sendTurn (s : State) (isl : Nat) : Option State :=
  match s.turn with
  | none => none
  | some u =>
    if u.phase ≠ 2 then none
    else
      firstSome (fun (p : TurnPiece × Nat) =>
        if p.1.mine ≠ isl ∨ p.1.out ∨ p.1.done then none
        else
          match s.turnBytes u p.1 with
          | none => some { s with turn := some { u with fail := true, cause := 3 } }
          | some bs =>
            let m : Msg :=
              { tag := u.tag, dctx := p.1.ctx, disl := p.1.isl, sisl := isl, sfab := s.fabId, dfab := p.1.fab, msg := 0, chunk := p.1.chunk, lo := 0, log := 0,
                attempt := p.1.attempt, epoch := (s.eng isl).epoch, crc := 0, sctx := u.ctx, again := p.1.copy != [], turn := true, data := bs }
            (s.hop isl m.sealed).map (fun t => { t with turn := some { u with tx := setAt u.tx p.2 { p.1 with out := true, copy := bs } } })) u.tx.zipIdx

/-- A chunk of a collective leaves, or its collective ends because its value cannot be formed. -/
def State.sendTx (s : State) (k : Coll) (t : Tx) : Option State :=
  if !t.credit || t.out || t.acked then none
  else
    match (if t.copy = [] then s.txVal k t else .ok t.copy 0) with
    | .wait => none
    | .ended u => some u
    | .ok bs n =>
      let m := { s.msgTo k t.isl 0 t.dfab t.dctx t.disl t.chunk t.lo t.log with attempt := t.attempt, again := t.copy != [], data := bs }.sealed
      ((s.countSats t.isl k.ctx n).hop t.isl m).map (fun u =>
        u.modColl k.num (fun x => { x with tx := x.tx.map (fun y => if y = t then { t with out := true, copy := bs } else y) }))

/-- A posted chunk leaves. -/
def State.sendPost (s : State) (isl : Nat) (p : Post) (i : Nat) : Option State :=
  if !p.credit || p.out then none
  else
    let m : Msg :=
      { tag := p.tag, dctx := p.ctx, disl := p.disl, sisl := isl, sfab := s.fabId, dfab := p.dfab, msg := 0, chunk := p.chunk, lo := 0, log := 0,
        attempt := p.attempt, epoch := (s.eng isl).epoch, crc := 0, sctx := p.ctx, again := p.again, turn := false, data := p.data }
    (s.hop isl m.sealed).map (fun t => t.modEng isl (fun e => { e with posts := setAt e.posts i { p with out := true, again := true } }))

/-- The class with which a collective waits at its engine (R516): that of the record it belongs to. -/
def State.collClass (s : State) (k : Coll) : Nat :=
  let of (q n : Nat) : Nat := ((s.entry k.ctx q n).map s.recClass).getD 0
  let run (r : Nat) : Nat := ((s.runs.find? (fun x => x.num == r)).map (fun x => of x.stream x.seq)).getD 0
  match k.owner with
  | .record q n => of q n
  | .handoff r _ => run r
  | .recv r _ _ => run r

/-- What an engine may send for its contexts: the context, its class, the bytes and the state after. -/
def State.sendable (s : State) (isl : Nat) : List (Nat × Nat × Nat × State) :=
  let tx := s.colls.flatMap (fun k => (k.tx.filter (fun t => t.isl == isl)).filterMap (fun t => (s.sendTx k t).map (fun u => (k.ctx, s.collClass k, k.len t.chunk, u))))
  let ps := (s.eng isl).posts.zipIdx.filterMap (fun p => (s.sendPost isl p.1 p.2).map (fun u => (p.1.ctx, 0, p.1.data.length, u)))
  tx ++ ps

/-- R316, R375, R517: an engine sends: control messages and relayed chunks first, then turn chunks, then the chunk of the context its arbitration serves. -/
def execChunkSend (island : Nat) (s : State) : Out :=
  match s.sendControl island with
  | some t => .next t
  | none =>
    match s.sendRelay island with
    | some t => .next t
    | none =>
      match s.sendTurn island with
      | some t => .next t
      | none =>
        if s.turn.any (fun u => u.phase == 4 || u.phase == 5) then .next s
        else
          let ws := s.sendable island
          let s1 := s.vwaiting (ptStrait island) (noDups (ws.map (fun w => w.1)))
          match s1.vpick (ptStrait island) (ws.map (fun w => (w.1, w.2.1))) with
          | none => .next s1
          | some c =>
            match (s1.sendable island).find? (fun w => w.1 == c) with
            | none => .next s1
            | some w => .next (w.2.2.2.vserve (ptStrait island) c w.2.2.1)

/-! ### Receiving -/

/-- The first message at an engine that a predicate takes, and the state without it, its link credit returned (R396). -/
def State.takeMsg (s : State) (isl : Nat) (p : Msg → Bool) : Option (InMsg × State) :=
  match (s.eng isl).inbox.findIdx? (fun x => p x.m) with
  | none => none
  | some i =>
    match (s.eng isl).inbox[i]? with
    | none => none
    | some x => some (x, (s.modEng isl (fun e => { e with inbox := e.inbox.eraseIdx i })).freeVia x.via)

/-- The first message of a kind for this module. -/
def State.takeKind (s : State) (isl kind : Nat) : Option (Msg × State) :=
  (s.takeMsg isl (fun m => m.msg == kind && m.dfab == s.fabId)).map (fun r => (r.1.m, r.2))

/-- An answer to the sender of a chunk's hop: the chunk's own names, with the two ends exchanged; from a relay it stands for the destination. -/
def State.answer (s : State) (isl : Nat) (x : InMsg) (kind : Nat) : State :=
  let m := x.m
  let back : Nat × Nat := match x.via with
    | none => (m.sfab, m.sisl)
    | some (i, _, _) => let peer := s.fld .strPeerFabricId i; if peer = m.sfab then (m.sfab, m.sisl) else (peer, s.fld .strPeerStrait i)
  s.control isl { m with dfab := back.1, disl := back.2, sfab := m.dfab, sisl := m.disl, msg := kind, data := [] }

/-- A chunk whose CRC fails is counted and captured, and its hop's sender told (R318). -/
def State.badChunk (s : State) (isl : Nat) (x : InMsg) : State :=
  let m := x.m
  let s1 := (s.answer isl x 3).bump .colCrcFailCnt isl
  let s2 :=
    if s1.fld .colCrcCaptValid isl = 1 then s1
    else (((((s1.setFld .colCrcCaptValid 1 isl).setFld .colCrcCaptCtx m.dctx isl).setFld .colCrcCaptSrcFabric m.sfab isl).setFld .colCrcCaptSrcIsland m.sisl isl).setFld
      .colCrcTagLo (m.tag % 2 ^ 32) isl).setFld .colCrcTagHiTag (m.tag / 2 ^ 32) isl
  s2.raise 0x17 isl 0

/-- The engines of the modules by number, as epochs are kept. -/
def engKey (fab isl : Nat) : Nat := fab * 32 + isl

/-- A chunk from before its sender was reopened (R327). -/
def State.stale (s : State) (isl : Nat) (m : Msg) : Bool := decide (m.epoch < Tbl.get natZero (s.eng isl).peers (engKey m.sfab m.sisl))

/-- A turn chunk lands: in the pages of a built shard, or in working weights (R371). -/
def State.landPiece (s : State) (u : Turn) (i : Nat) (p : TurnPiece) (bs : List (BitVec 8)) : State :=
  let done (t : State) : State := { t with turn := some { u with rx := setAt u.rx i { p with done := true } } }
  match u.shards.find? (fun x => x.covers p.addr) with
  | some x =>
    (match x.host with
    | some h => done (s.emit (.hostWrite u.ctx (h + (p.addr - x.dva)) bs))
    | none => done (s.shardWrite u.ctx x (bs.length / 2 ^ 21 + 2) (p.addr - x.dva) bs))
  | none =>
    match s.pieces u.ctx p.addr bs.length true false true true with
    | .error e => let t := s.noteFault u.ctx e.1 2 p.mine e.2; { t with turn := some { u with fail := true, cause := 3 } }
    | .ok _ => done (s.devWrite u.ctx p.addr bs)

/-- A verified chunk reaches its collective: landed, or kept as a node to combine (R318, R320, R323). -/
def State.acceptChunk (s : State) (isl : Nat) (k : Coll) (x : InMsg) : State :=
  let m := x.m
  let isIt (r : Rx) : Bool := r.chunk == m.chunk && ((r.isl == isl && r.lo == m.lo && r.log == m.log && r.sfab == m.sfab) || r.isl == 24)
  match k.rx.find? isIt with
  | none => s
  | some r =>
    let s1 := s.answer isl x 2
    if r.got then s1.bump .colDupCnt isl
    else
      let s2 := s1.modColl k.num (fun y => { y with rx := y.rx.map (fun z => if z = r then { z with got := true } else z) })
      let own := (k.ownerOf m.chunk).any (fun o => o.fab == s.fabId)
      if k.op ≠ 5 ∧ k.reduces ∧ (own ∨ m.log ≠ k.top) then
        (s2.modColl k.num (fun y => { y with vals := y.vals ++ [⟨m.chunk, m.lo, m.log, m.data⟩] })).ownChunk k.num m.chunk
      else match s2.land k isl m.chunk (k.landAt m.chunk m.data.length) m.data with | .ok t => t | .error t => t

/-- R318, R320: a data chunk that has come to this module. -/
def execDataChunkReceive (island : Nat) (s : State) : Out :=
  match s.takeMsg island (fun m => m.msg == 0 && m.dfab == s.fabId) with
  | none => .next s
  | some (x, s1) =>
    let m := x.m
    if m.crc ≠ m.sum then .next (s1.badChunk island x)
    else if s1.stale island m then .next s1
    else
      let piece := s1.turn.bind (fun u => if u.tag = m.tag ∧ u.ctx = m.dctx then (u.rx.findIdx? (fun p => p.chunk == m.chunk && p.fab == m.sfab)).map (fun i => (u, i)) else none)
      match piece with
      | some (u, i) =>
        (match u.rx[i]? with
        | none => .next s1
        | some p => .next (if p.done then (s1.answer island x 2).bump .colDupCnt island else (s1.answer island x 2).landPiece u i p m.data))
      | none =>
        match s1.collAt island m.dctx m.tag with
        | some k => .next (s1.acceptChunk island k x)
        | none => .next ((s1.answer island x 2).bump .colDupCnt island)

/-- A chunk sent, as an answer names it. -/
def Tx.named (t : Tx) (m : Msg) : Bool :=
  t.chunk == m.chunk && t.lo == m.lo && t.log == m.log && t.dfab == m.sfab && t.disl == m.sisl

/-- The collective and the chunk sent that an answer names. -/
def State.sentTx (s : State) (isl : Nat) (m : Msg) (p : Coll → Tx → Bool) : Option (Coll × Tx) :=
  firstSome (fun (k : Coll) => if k.tag = m.tag then (k.tx.find? (fun t => t.isl == isl && t.named m && p k t)).map (fun t => (k, t)) else none) s.colls

/-- One chunk sent is changed. -/
def State.modTx (s : State) (num : Nat) (t t1 : Tx) : State := s.modColl num (fun x => { x with tx := x.tx.map (fun y => if y = t then t1 else y) })

/-- The post, relay or turn piece an answer names. -/
def Post.named (p : Post) (m : Msg) : Bool := p.tag == m.tag && p.chunk == m.chunk && p.dfab == m.sfab && p.disl == m.sisl
def Relay.named (r : Relay) (m : Msg) : Bool :=
  r.m.tag == m.tag && r.m.chunk == m.chunk && r.m.lo == m.lo && r.m.log == m.log && r.m.dfab == m.sfab && r.m.disl == m.sisl
def Turn.named (u : Turn) (isl : Nat) (m : Msg) : Option Nat :=
  if u.tag = m.tag then u.tx.findIdx? (fun p => p.mine == isl && p.chunk == m.chunk && p.fab == m.sfab && p.isl == m.sisl) else none

/-- R316: credit is used, kept early, or answered "not open". -/
def execCreditReceive (island : Nat) (s : State) : Out :=
  match s.takeKind island 1 with
  | none => .next s
  | some (m, s1) =>
    match s1.sentTx island m (fun k _ => k.ctx == m.dctx) with
    | some (k, t) => .next (s1.modTx k.num t { t with credit := true })
    | none =>
      match (s1.eng island).posts.findIdx? (fun p => p.named m && p.ctx == m.dctx && !p.credit) with
      | some i => .next (s1.modEng island (fun e => { e with posts := modAt e.posts i (fun p => { p with credit := true }) }))
      | none =>
        if (s1.collAt island m.dctx m.tag).isSome then .next s1
        else if (s1.eng island).early.length < 256 then .next (s1.modEng island (fun e => { e with early := e.early ++ [m] }))
        else .next ((s1.control island { m with dfab := m.sfab, disl := m.sisl, sfab := m.dfab, sisl := m.disl, msg := 4 }).bump .colNotopenCnt island)

/-- R318: an acknowledgement releases the copy kept of a chunk. -/
def execAckReceive (island : Nat) (s : State) : Out :=
  match s.takeKind island 2 with
  | none => .next s
  | some (m, s1) =>
    match s1.sentTx island m (fun _ t => t.out && t.dctx == m.dctx) with
    | some (k, t) => .next (s1.modTx k.num t { t with acked := true, out := false, copy := [] })
    | none =>
      match s1.turn.bind (fun u => (u.named island m).map (fun i => (u, i))) with
      | some (u, i) => .next { s1 with turn := some { u with tx := modAt u.tx i (fun p => { p with done := true, out := false, copy := [] }) } }
      | none =>
        match (s1.eng island).relays.findIdx? (fun r => r.named m) with
        | some i => .next (s1.modEng island (fun e => { e with relays := e.relays.eraseIdx i }))
        | none =>
          match (s1.eng island).posts.findIdx? (fun p => p.named m && p.out) with
          | some i => .next ((s1.modEng island (fun e => { e with posts := e.posts.eraseIdx i })).wakeIsland island (fun w => w == .post))
          | none => .next s1

/-- An abort message to one end of a chunk that has used up its attempts. -/
def State.tellAbort (s : State) (isl : Nat) (m : Msg) (fab eng cause : Nat) : State :=
  s.control isl { m with dfab := fab, disl := eng, sfab := s.fabId, sisl := isl, msg := 5, chunk := cause, data := [] }

/-- R318: a nack makes the chunk's hop sender replay it, or ends the collective after the eighth attempt. -/
def execNackReceive (island : Nat) (s : State) : Out :=
  match s.takeKind island 3 with
  | none => .next s
  | some (m, s1) =>
    let limit (t : State) : State := t.raise 0x17 island 2
    let again (t : State) : State := t.bump .colReplayCnt island
    match s1.sentTx island m (fun _ t => t.out && t.dctx == m.dctx) with
    | some (k, t) =>
      .next (if 8 ≤ t.attempt then (limit s1).abortColl k 2 else again (s1.modTx k.num t { t with attempt := t.attempt + 1, out := false }))
    | none =>
      match s1.turn.bind (fun u => (u.named island m).map (fun i => (u, i))) with
      | some (u, i) =>
        .next (if (u.tx[i]?).any (fun p => decide (8 ≤ p.attempt)) then limit { s1 with turn := some { u with fail := true, cause := 3 } }
          else again { s1 with turn := some { u with tx := modAt u.tx i (fun p => { p with attempt := p.attempt + 1, out := false }) } })
      | none =>
        match (s1.eng island).relays.findIdx? (fun r => r.named m) with
        | some i =>
          (match (s1.eng island).relays[i]? with
          | none => .next s1
          | some r =>
            if 8 ≤ r.m.attempt then
              .next (limit (((s1.modEng island (fun e => { e with relays := e.relays.eraseIdx i })).tellAbort island r.m r.m.dfab r.m.disl 2).tellAbort island r.m r.m.sfab r.m.sisl 2))
            else
              .next (again (s1.modEng island (fun e => { e with relays := setAt e.relays i { r with m := { r.m with attempt := r.m.attempt + 1, again := true }.sealed, out := false } }))))
        | none =>
          match (s1.eng island).posts.findIdx? (fun p => p.named m && p.out) with
          | none => .next s1
          | some i =>
            match (s1.eng island).posts[i]? with
            | none => .next s1
            | some p =>
              if 8 ≤ p.attempt then
                .next ((limit ((s1.modEng island (fun e => { e with posts := e.posts.eraseIdx i })).tellAbort island m p.dfab p.disl 2)).wakeIsland island (fun w => w == .post))
              else .next (again (s1.modEng island (fun e => { e with posts := setAt e.posts i { p with attempt := p.attempt + 1, out := false } })))

/-- R316: a grant answered "not open" is to be granted again. -/
def execNotOpenReceive (island : Nat) (s : State) : Out :=
  match s.takeKind island 4 with
  | none => .next s
  | some (m, s1) =>
    .next { s1 with colls := s1.colls.map (fun k =>
      if k.tag = m.tag then
        { k with rx := k.rx.map (fun r =>
            if r.chunk = m.chunk ∧ !r.got ∧ (r.isl = 24 ∨ (r.isl = island ∧ r.lo = m.lo ∧ r.log = m.log ∧ r.sfab = m.sfab ∧ r.sctx = m.dctx)) then { r with granted := false } else r) }
      else k) }

/-- R316, R322: after RETRY, credit is granted for what an engine expects and has not granted. -/
def execCreditRegrant (island : Nat) (s : State) : Out :=
  .next ((s.colls.filter (fun k => bit k.open_ island)).foldl (fun t k => t.grantAll k (some island)) s)

/-- R326: an abort closes the collective here; one for a tag not open is dropped. A turn whose chunks are aborted fails. -/
def execAbortReceive (island : Nat) (s : State) : Out :=
  match s.takeKind island 5 with
  | none => .next s
  | some (m, s1) =>
    if s1.turn.any (fun u => u.tag == m.tag) then .next { s1 with turn := s1.turn.map (fun u => { u with fail := true, cause := 3 }) }
    else
      match s1.colls.find? (fun k => k.tag == m.tag && (k.ctx == m.dctx || k.tx.any (fun t => t.dctx == m.dctx))) with
      | none => .next s1
      | some k => .next (s1.abortHere k m.chunk m.sfab)

/-- R327: another engine was reopened: its old chunks are dropped, and every chunk for it is sent again. -/
def State.resynced (s : State) (m : Msg) : State :=
  let old (x : InMsg) : Bool := x.m.sfab == m.sfab && x.m.sisl == m.sisl && x.m.msg == 0 && decide (x.m.epoch < m.epoch)
  let s1 := (List.range 24).foldl (fun (t : State) i =>
    let gone := (t.eng i).inbox.filter old
    gone.foldl (fun u x => u.freeVia x.via)
      (t.modEng i (fun e => { e with inbox := e.inbox.filter (fun x => !old x), peers := Tbl.set natZero e.peers (engKey m.sfab m.sisl) m.epoch }))) s
  match s1.coll m.dctx m.tag with
  | none => s1
  | some k =>
    let mine (t : Tx) : Bool := t.dfab == m.sfab && t.disl == m.sisl
    if k.posted ∧ k.tx.any (fun t => mine t && t.acked) then s1.abortColl k 4
    else
      let k1 := { k with
        tx := k.tx.map (fun t => if mine t then { t with credit := false, out := false, acked := false, copy := [] } else t)
        rx := k.rx.map (fun (r : Rx) => if r.sfab = m.sfab ∧ r.sisl = m.sisl then { r with granted := true } else r) }
      let due : List Rx := k1.rx.filter (fun r => r.sfab == m.sfab && r.sisl == m.sisl && r.isl != 24)
      due.foldl (fun (t : State) (r : Rx) => t.control r.isl (t.msgTo k r.isl 1 r.sfab r.sctx r.sisl r.chunk r.lo r.log)) (s1.modColl k.num (fun _ => k1))

def execResyncReceive (island : Nat) (s : State) : Out :=
  match s.takeKind island 6 with
  | none => .next s
  | some (m, s1) => .next (s1.resynced m)

/-- R319: a chunk without an answer in time is sent again with the same ATTEMPT. -/
def execChunkAckTimeout (island ctx tag chunk lo log dfab : Nat) (s : State) : Out :=
  let s1 : State := { s with
    colls := s.colls.map (fun k =>
      if k.ctx = ctx ∧ k.tag = tag then
        { k with tx := k.tx.map (fun t =>
            if t.isl = island ∧ t.chunk = chunk ∧ t.lo = lo ∧ t.log = log ∧ t.dfab = dfab then { t with out := false } else t) }
      else k)
    turn := s.turn.map (fun u =>
      if u.ctx = ctx ∧ u.tag = tag then { u with tx := u.tx.map (fun p => if p.mine = island ∧ p.chunk = chunk ∧ p.fab = dfab then { p with out := false } else p) } else u) }
  .next (s1.modEng island (fun e => { e with
    posts := e.posts.map (fun p => if p.ctx = ctx ∧ p.tag = tag ∧ p.chunk = chunk ∧ p.dfab = dfab then { p with out := false } else p)
    relays := e.relays.map (fun r => if r.m.dctx = ctx ∧ r.m.tag = tag ∧ r.m.chunk = chunk ∧ r.m.lo = lo ∧ r.m.log = log ∧ r.m.dfab = dfab then { r with out := false } else r) }))

/-- Bytes of the relay buffer of an engine in use (R324). -/
def Engine.relayed (e : Engine) : Nat := (e.relays.map (fun r => r.m.data.length)).sum

/-- R324: a chunk for another module is verified and sent on by this module's direct entry. -/
def execChunkRelay (island : Nat) (s : State) : Out :=
  match (s.eng island).inbox.find? (fun x => x.m.dfab != s.fabId) with
  | none => .next s
  | some x0 =>
    if x0.m.msg = 0 ∧ routeKind (s.route x0.m.dfab) = 1 ∧ x0.m.crc = x0.m.sum ∧ 2 ^ 21 < (s.eng island).relayed + x0.m.data.length then .next s
    else
      match s.takeMsg island (fun m => m.dfab != s.fabId) with
      | none => .next s
      | some (x, s1) =>
        let m := x.m
        if m.msg = 0 ∧ m.crc ≠ m.sum then .next (s1.badChunk island x)
        else if routeKind (s1.route m.dfab) ≠ 1 then .next (if m.msg = 0 then s1.tellAbort island m m.sfab m.sisl 3 else s1)
        else if m.msg ≠ 0 then .next (s1.modEng island (fun e => { e with outq := e.outq ++ [m] }))
        else .next ((s1.answer island x 2).bump .colRelayCnt island |>.modEng island (fun e => { e with relays := e.relays ++ [⟨m, false⟩] }))

/-! ### Closing and reopening (R313, R327) -/

/-- The chunks of a collective that land on this module by an engine. -/
def Coll.lands (k : Coll) (me isl : Nat) : List Nat :=
  (List.range k.nchunks).filter (fun c =>
    (k.op == 5 || engineFor k.mask c == isl) && (k.op != 2 || (k.ownerOf c).any (fun o => o.fab == me)) && (k.ownerOf c).isSome || k.op == 5)

/-- Every chunk it must land has landed and every chunk it sent has been acknowledged, on an engine. -/
def State.closable (s : State) (k : Coll) (isl : Nat) : Bool :=
  (k.lands s.fabId isl).all (fun c => k.landed.contains c) && (k.rx.filter (fun r => r.isl == isl)).all (fun r => r.got) &&
    (k.tx.filter (fun t => t.isl == isl)).all (fun t => t.acked)

/-- R313: a collective closes on an engine, and with the last of them its record commits. -/
def execCollectiveClose (ctx tag island : Nat) (s : State) : Out :=
  match s.collAt island ctx tag with
  | none => .next s
  | some k =>
    if !s.closable k island then .next s
    else
      let o := k.open_ - 2 ^ island
      .next (if o = 0 then s.endColl k 0 0 else s.modColl k.num (fun x => { x with open_ := o }))

/-- One collective reopens on an engine (R327). -/
def State.reopenColl (s : State) (isl : Nat) (k : Coll) : State :=
  let mine (c : Nat) : Bool := engineFor k.mask c == isl
  if k.posted ∧ (k.vals.any (fun v => mine v.chunk) ∨ (k.dstLs ∧ k.landed.any mine)) then s.abortColl k 4
  else
    let k1 := { k with
      tx := k.tx.map (fun t => if t.isl = isl then { t with credit := false, out := false, acked := false, copy := [] } else t)
      rx := k.rx.map (fun r => if r.isl = isl then { r with granted := false, got := false } else if r.isl = 24 ∧ !r.got then { r with granted := false } else r)
      vals := k.vals.filter (fun v => !mine v.chunk)
      landed := if k.op = 5 then k.landed else k.landed.filter (fun c => !mine c) }
    let s1 := s.modColl k.num (fun _ => k1)
    let tell (t : State) (m : GEnt) : State := t.control isl (t.msgTo k1 isl 6 m.fab m.ctx (engineFor m.engines 0) 0 0 0)
    let s2 := (k1.desc.members.filter (fun m => m.fab != s.fabId)).foldl tell s1
    (List.range k1.nchunks).foldl (fun t c => if mine c then t.ownChunk k.num c else t) (s2.grantAll k1 (some isl))

/-- R327: after a reset an engine opens its collectives again in a new epoch. -/
def execCollectiveReopen (island : Nat) (s : State) : Out :=
  let s1 := s.modEng island (fun e => { e with epoch := (e.epoch + 1) % 2 ^ 32 })
  .next ((s.colls.filter (fun k => bit k.open_ island)).foldl (fun t k => t.reopenColl island k) s1)

end Sys2Proof.Machine
end

