-- ==== Sys2Proof/Machine/Storage.lean ====
section
/-! DEFINITION. The storage ports: what arrives at them, their queue pairs and their registers (R430 to R439). -/
namespace Sys2Proof.Machine

/-- R436: a command completes with a status code type and status code of 0, or fails and is issued again unless it must not be. A Read's data has landed with it. -/
def execStorageCommandComplete (port num sct sc : Nat) (dnr : Bool) (data : List (BitVec 8)) (s : State) : Out :=
  match (s.sto port).cmds.find? (fun m => m.num == num) with
  | none => .next s
  | some m =>
    if sct = 0 ∧ sc = 0 then when (m.op != .read || data.length == m.bytes) (s.stoDone port m data) s
    else if dnr || decide (4 ≤ m.issues) then
      .next (s.stoFail port m.owner (stoDetail 1 m.target m.issues + b2n dnr * 2 ^ 15 + sct % 8 * 2 ^ 12 + sc % 256 * 2 ^ 4))
    else .next (s.stoAgain port m 1)

def State.modQp (s : State) (port target queue : Nat) (f : StoQp → StoQp) : State :=
  s.modSto port (fun x => { x with qps := x.qps.map (fun k => if k.target = target ∧ k.queue = queue then f k else k) })

def State.qp (s : State) (port target queue : Nat) : Option StoQp := (s.sto port).qps.find? (fun k => k.target == target && k.queue == queue)

/-- R436, R438: a queue pair fails; it is reconnected and its commands are issued again, or the connection is refused and their operations fail. -/
def execQueuePairFail (port target queue : Nat) (refused : Bool) (s : State) : Out :=
  match s.qp port target queue with
  | none => .next s
  | some _ =>
    let mine := (s.sto port).cmds.filter (fun m => m.target == target && m.queue == queue)
    let s1 := s.modQp port target queue (fun k => { k with err := false, retries := 0 })
    if refused then
      let s2 := s1.modSto port (fun x => { x with qps := x.qps.filter (fun k => k.target != target) })
      let all := (s.sto port).cmds.filter (fun m => m.target == target)
      .next (all.foldl (fun t m => t.stoFail port m.owner (stoDetail 3 target m.issues)) s2)
    else .next (mine.foldl (fun t m => if (t.sto port).cmds.any (fun y => y.num == m.num) then t.stoAgain port m 2 else t) s1)

/-- R436: the local ACK timeout of a queue pair with commands outstanding passes; after 7 retries the queue pair is in error. -/
def execStorageAckTimeout (port target queue : Nat) (s : State) : Out :=
  match s.qp port target queue with
  | none => .next s
  | some k =>
    if k.err || !(s.sto port).cmds.any (fun m => m.target == target && m.queue == queue) then .next s
    else if k.retries < 7 then .next (s.modQp port target queue (fun x => { x with retries := x.retries + 1 }))
    else .next (s.modQp port target queue (fun x => { x with err := true }))

/-- R432: a CE-marked packet is answered with a congestion notification at most once in 50 µs. -/
def execCeMarkedReceive (port target queue : Nat) (s : State) : Out :=
  match s.qp port target queue with
  | none => .next s
  | some k =>
    when (match k.told with | some t => decide (t + us 50 ≤ s.ptime) | none => true)
      ((s.modQp port target queue (fun x => { x with told := some s.ptime })).stoEmit port (.cnp port target queue)) s

/-- R432: a congestion notification is counted and halves the send rate, at most once in 50 µs. -/
def execCnpReceive (port target queue : Nat) (s : State) : Out :=
  match s.qp port target queue with
  | none => .next s
  | some k =>
    let s1 := s.bump .stoCnpCnt port
    if (match k.cut with | some t => decide (t + us 50 ≤ s.ptime) | none => true) then
      .next (s1.modQp port target queue (fun x => { x with rate := x.rate / 2, cut := some s.ptime, rose := s.ptime }))
    else .next s1

/-- R432: 55 µs without a notification restore 5 % of line rate. -/
def execRateRestore (port target queue : Nat) (s : State) : Out :=
  match s.qp port target queue with
  | none => .next s
  | some k => when (decide (k.rose + us 55 ≤ s.ptime)) (s.modQp port target queue (fun x => { x with rate := min 1000000 (x.rate + 50000), rose := s.ptime })) s

/-- R435: Keep Alive to an open target. -/
def execKeepAlive (port target : Nat) (s : State) : Out := when (s.qp port target 0).isSome (s.stoEmit port (.keepAlive port target)) s

/-- R430: a request for the port's own address is answered. -/
def execArpNdRequest (port : Nat) (ipv6 : Bool) (addr : Nat) (s : State) : Out :=
  let own := s.fld (Fld.stoIp.nth 0) port +
    (if ipv6 then 2 ^ 32 * s.fld (Fld.stoIp.nth 1) port + 2 ^ 64 * s.fld (Fld.stoIp.nth 2) port + 2 ^ 96 * s.fld (Fld.stoIp.nth 3) port else 0)
  when (s.fld .stoIpCtlIpv6 port == b2n ipv6 && addr == own) (s.stoEmit port (.arpReply port)) s

/-- R431: a packet for an unknown queue pair, or of an unsupported operation, is dropped; the latter puts an open queue pair into its error state. -/
def execStoragePacketDrop (port target queue : Nat) (unsupported : Bool) (s : State) : Out :=
  match s.qp port target queue with
  | none => .next (s.bump .stoDropCnt port)
  | some _ => when unsupported ((s.bump .stoDropCnt port).modQp port target queue (fun k => { k with err := true })) s

/-- Every operation in flight at a port fails, and its queue pairs close (R439). -/
def State.stoClose (s : State) (port : Nat) : State :=
  let x := s.sto port
  let cs := x.cmds.foldl (fun t m => t.stoFail port m.owner (stoDetail 3 m.target m.issues)) s
  let rs := x.todo.foldl (fun t r => t.stoFail port r.owner (stoDetail 3 r.target 1)) cs
  rs.modSto port (fun y => { y with qps := [], cmds := [], todo := [], held := [] })

/-- R439: a write of STO_CTL. -/
def State.writeStoCtl (s : State) (port w : Nat) : State :=
  let a := bits w 12 8
  let s1 := if 8 ≤ a ∧ a ≤ 20 then s.setFld .stoCtlAckExp a port else s
  let s2 := s1.setFld .stoCtlEn (bits w 0 0) port
  if s.fld .stoCtlEn port = 1 ∧ bits w 0 0 = 0 then s2.stoClose port else s2

def execStorageEnable (port value : Nat) (s : State) : Out := when (decide (port < 2)) (s.writeStoCtl port value) s

/-- The link of a port goes down (R439). -/
def State.stoLinkDown (s : State) (port : Nat) : State :=
  if s.fld .stoStatLink port = 1 then (s.setFld .stoStatLink 0 port).raise 0x0A port 0 else s

def execStorageLinkDown (port : Nat) (s : State) : Out := when (decide (port < 2)) (s.stoLinkDown port) s

def execStorageLinkUp (port : Nat) (s : State) : Out := when (decide (port < 2) && !(s.sto port).failed) (s.setFld .stoStatLink 1 port) s

/-- R437: a target's RDMA READ fetches bytes of a Write, which are hashed as they leave. -/
def execRdmaReadRequest (port num off len : Nat) (s : State) : Out :=
  match (s.sto port).cmds.find? (fun m => m.num == num && m.op == .write) with
  | none => .next s
  | some m =>
    match m.owner with
    | .load _ _ _ _ => .next s
    | .ckpt c q n =>
      match s.ckpt c q n with
      | none => .next s
      | some k =>
        if m.bytes < off + len then .next s
        else
          let a := k.src + m.off + off
          match s.dvaRead c a len (.op 8 num) true with
          | .fault e d => let f := s.ckptFault c e d; .next (f.1.endCkpt k f.2.1 f.2.2)
          | .poison d h => let f := s.poisonEnd c d h; .next (f.1.endCkpt k f.2.1 f.2.2)
          | .wait t => .next t
          | .ok bs => .next ((s.modCkpt c q n (fun x => { x with sent := Memory.writeN x.sent (m.off + off) bs })).stoEmit port (.rdmaData port num off bs))

/-- R430: a flow-control frame on the port's priority pauses or resumes its transmission. -/
def execPriorityFlowControlFrame (port prio : Nat) (pause : Bool) (s : State) : Out :=
  if prio ≠ s.fld .stoIpCtlPcp port then .next s
  else if pause then .next (s.modSto port (fun x => { x with paused := true }))
  else
    let held := (s.sto port).held
    .next (held.foldl (fun t e => t.emit e) (s.modSto port (fun x => { x with paused := false, held := [] })))

/-- R35: the storage-port hardware fails; the ports are unavailable. -/
def execStoragePortHardwareFailure (s : State) : Out :=
  .next ([0, 1].foldl (fun t p => ((t.stoLinkDown p).stoClose p).modSto p (fun x => { x with failed := true })) s)

end Sys2Proof.Machine
end

