-- ==== Sys2Proof/Machine/Weights.lean ====
section
/-! DEFINITION. Weight operations: loads, repairs and in-place updates, switches, drops, verification, pins, checkpoint writes, the digest walk and tiered layers (R353 to R369, R437). -/
namespace Sys2Proof.Machine

/-- The open turn builds or reads the model (R375). -/
def State.turnOn (s : State) (ctx model : Nat) : Bool := s.turn.any (fun t => t.ctx == ctx && t.model == model)

/-- The host reads of a weight operation. -/
def wgtOwner (e : Entry) : ReadOwner := .op 7 ((e.ctx * 16 + e.stream) * 2 ^ 64 + e.seq)

/-! ### Loads (R353, R357, R361, R364, R365) -/

/-- The ranges that bring shards of a load, from their places. -/
def LoadJob.ranges (j : LoadJob) (is : List Nat) (blks : List Nat) : List StoRange :=
  (is.zip blks).filterMap (fun p => (j.shards[p.1]?).map (fun x =>
    ⟨.load j.ctx j.stream j.seq p.1, .read, x.shard.target, p.2, x.shard.offset, 0, x.shard.bytes⟩))

/-- Shards of a load are asked for from storage, or the load fails before any byte moves (R436). -/
def State.fetchShards (s : State) (j : LoadJob) (is : List Nat) : State :=
  let want := is.filterMap (fun i => (j.shards[i]?).map (fun x => (x.shard.target, x.shard.offset, x.shard.bytes)))
  match s.stoOpenAll j.ctx want [] with
  | .error (c, t) =>
    let d := stoDetail c t (s.freeVal 2 + 1)
    (s.took.stoNote (t / 128) j.ctx d).failJob j St.storageRead d
  | .ok (u, blks) => u.stoQueue (j.ranges is blks)

/-- A load joins the loads in progress, its record begun. -/
def State.addJob (s : State) (e : Entry) (j : LoadJob) : State := { s.begin e with loads := s.loads ++ [j] }

def loadJob (e : Entry) (m : Manifest) (slot : Option Nat) (kind : LoadKind) (xs : List Shard) : LoadJob :=
  { ctx := e.ctx, stream := e.stream, seq := e.seq, model := m.model, slot := slot, num := m.gen, manifest := e.u 0x38 6, kind := kind,
    shards := xs.map (fun x => ⟨x, 0, false⟩), buf := [], layer := 0, held := false }

/-- A load of new shards: its slot, its pages under the shortage policy, and its reads. -/
def State.startFresh (s : State) (e : Entry) (m : Manifest) : State :=
  let x := (s.wgt e.ctx).model m.model
  let slot := if m.adapter then none else if m.inplace && x.holds then none else (List.range 4).find? (fun i => (x.slot i).st == .free)
  if !m.adapter && slot.isNone then s.endOp e St.slotsFull m.model
  else
    match s.fit e.ctx m.shards with
    | .lacking n => s.endOp e St.weightQuota n
    | .evict need => s.setWgt e.ctx { s.wgt e.ctx with want := some need }
    | .ok xs =>
      match s.back e.ctx xs with
      | none => s.endOp e St.weightQuota 0
      | some (t, ys) =>
        let j := loadJob e m slot .fresh ys
        let t1 := match slot with
          | some i => t.modModel e.ctx m.model (fun y => { y.setSlot i ⟨.loading, m.gen, false, e.u 0x38 6, []⟩ with inplace := m.inplace })
          | none => t
        (t1.addJob e j).fetchShards j (List.range ys.length)

/-- A repair reads again the invalid shards of a resident generation (R357). -/
def State.startRepair (s : State) (e : Entry) (m : Manifest) (i : Nat) : State :=
  let g := ((s.wgt e.ctx).model m.model).slot i
  let bad := (g.shards.zip m.shards).filterMap (fun p => if p.1.invalid then some { p.1 with target := p.2.target, offset := p.2.offset } else none)
  let j := loadJob e m (some i) .repair bad
  if bad.isEmpty then s.endOp e 0 0 else (s.addJob e j).fetchShards j (List.range bad.length)

/-- An in-place update waits for its barrier (R361). -/
def State.startUpdate (s : State) (e : Entry) (m : Manifest) (i : Nat) : State :=
  (s.addJob e (loadJob e m (some i) .inplace m.shards)).atBoundary e.ctx (.barrier e.stream e.seq m.model)

/-- R353, R357, R361: a load, a repair or an in-place update begins. -/
def State.load? (s : State) (e : Entry) : State :=
  match s.readManifest e.ctx (e.u 0x38 6) false (wgtOwner e) with
  | .wait u => u
  | .fail u st d => (u.dropReads (wgtOwner e)).endOp e st d
  | .ok m =>
    let s1 := s.dropReads (wgtOwner e)
    if !m.adapter && s1.turnOn e.ctx m.model then s1.endOp e St.turnInProgress e.ctx
    else
      match s1.repairs e.ctx m, s1.updates e.ctx m with
      | some i, _ => s1.startRepair e m i
      | none, some i => s1.startUpdate e m i
      | none, none => s1.startFresh e m

def execLoad (ctx stream seq : Nat) (s : State) : Out := s.withOp ctx stream seq 4 1 s.load?

/-- The bytes a shard of a load brought, before they are verified; none where a word of them is poisoned. -/
def State.arrived (s : State) (j : LoadJob) (i : Nat) (x : Shard) : Option (List (BitVec 8)) :=
  if j.buffered x then some (Memory.readN j.buf (i * 2 ^ 42) x.bytes)
  else if s.shardPoison x then none else some (s.shardBytes x)

/-- A tiered shard verified goes to its place in the host region, and to its staging pages where it is staged (R365). -/
def State.sendTiered (s : State) (ctx : Nat) (x : Shard) (bs : List (BitVec 8)) : State :=
  match x.host with
  | none => s
  | some h =>
    let s1 := if x.pages.isEmpty then s else s.shardWrite ctx x (bs.length / 2 ^ 21 + 2) 0 bs
    s1.emit (.hostWrite ctx h bs)

/-- R353: a shard whose bytes have all arrived is hashed and compared; the last to match commits a load or a repair. -/
def execShardArrivalHash (ctx stream seq shard : Nat) (s : State) : Out :=
  match s.job ctx stream seq with
  | none => .next s
  | some j =>
    match j.shards[shard]? with
    | none => .next s
    | some x =>
      if x.checked ∨ x.landed < x.shard.bytes then .next s
      else
        match s.arrived j shard x.shard with
        | none => .next (s.failJob j St.digestMismatch x.shard.index)
        | some bs =>
          if some (sha3 bs) ≠ x.shard.digest then .next (s.failJob j St.digestMismatch x.shard.index)
          else
            let tier := j.kind != .inplace && x.shard.host.isSome
            let j1 := { j with
              shards := setAt j.shards shard { x with checked := true }
              buf := if tier then Memory.clear j.buf (shard * 2 ^ 42) ((shard + 1) * 2 ^ 42) else j.buf }
            let s1 := if tier then s.sendTiered ctx x.shard bs else s
            let s2 := s1.modJob ctx stream seq (fun _ => j1)
            .next (if j.kind != .inplace && j1.shards.all (fun y => y.checked) then s2.commitJob j1 else s2)

/-! ### In-place updates (R361, R362) -/

/-- The LAYER values of a load in ascending order. -/
def LoadJob.layers (j : LoadJob) : List Nat := sortBy (fun a b => decide (a ≤ b)) (noDups (j.shards.map (fun x => x.shard.layer)))

/-- Places of the shards of the layer an in-place update has reached. -/
def LoadJob.current (j : LoadJob) : List Nat :=
  match j.layers[j.layer]? with
  | none => []
  | some l => ((j.shards.zipIdx).filter (fun e => e.1.shard.layer == l)).map (fun e => e.2)

/-- The pages of the serving copy that lie under a shard. -/
def pagesUnder (own : List Shard) (x : Shard) : List Nat :=
  x.pageAddrs.filterMap (fun a => (own.find? (fun o => o.covers a)).bind (fun o => o.pages[(a - o.dva) / 2 ^ 21]?))

/-- The last layer of an in-place update has been written (R361). -/
def State.commitUpdate (s : State) (j : LoadJob) (i : Nat) : State :=
  let own := (((s.wgt j.ctx).model j.model).slot i).shards
  let xs := j.shards.map (fun x => { x.shard with arrived := true, pages := pagesUnder own x.shard })
  let s1 := own.foldl (fun t x => t.markSuspect j.ctx x false) (s.dropJob j)
  let s2 := s1.modModel j.ctx j.model (fun m =>
    { m.setSlot i ⟨.serving, j.num, false, j.manifest, xs⟩ with top := max m.top j.num, barrier := false, suspectAll := false, evicted := false })
  (if s2.fld .wgtServeModel j.ctx = j.model then s2.setFld .wgtServeGen j.num j.ctx else s2).finish j.ctx j.stream j.seq 0 0

/-- R361: once the barrier is closed the first layer is read; a layer whose shards are all verified is copied over the serving copy, and the next is read, until the last
commits the update. -/
def execInplaceLayerWrite (ctx stream seq : Nat) (s : State) : Out :=
  match s.job ctx stream seq with
  | none => .next s
  | some j =>
    match j.kind, j.slot with
    | .inplace, some i =>
      let m := (s.wgt ctx).model j.model
      if !m.barrier || s.stepping ctx then .next s
      else if !j.held then
        let j1 := { j with held := true }
        let s1 := (s.modJob ctx stream seq (fun _ => j1)).modModel ctx j.model (fun y => y.setSlot i { y.slot i with st := .loading })
        .next (s1.fetchShards j1 j1.current)
      else if j.current.any (fun k => !((j.shards[k]?).any (fun x => x.checked))) then .next s
      else
        let own := (m.slot i).shards
        let put (t : State) (k : Nat) : State :=
          match j.shards[k]? with
          | none => t
          | some x => t.shardWrite ctx { x.shard with pages := pagesUnder own x.shard } (x.shard.bytes / 2 ^ 21 + 2) 0 (Memory.readN j.buf (k * 2 ^ 42) x.shard.bytes)
        let s1 := j.current.foldl put s
        let j1 := { j with layer := j.layer + 1, buf := [] }
        let s2 := s1.modJob ctx stream seq (fun _ => j1)
        .next (if j1.layer < j1.layers.length then s2.fetchShards j1 j1.current else s2.commitUpdate j1 i)
    | _, _ => .next s

/-! ### Switches, drops, pins and verification (R358, R360, R367 to R369) -/

/-- The state of a generation of a model, free where it holds none of the number. -/
def State.genState (s : State) (ctx model gen : Nat) : GenSt :=
  let m := (s.wgt ctx).model model
  match m.slotOf gen with | some i => (m.slot i).st | none => .free

/-- MODEL and GEN of a weight operation. -/
def Entry.model (e : Entry) : Nat := bits (e.u 0x30 4) 2 0
def Entry.gen (e : Entry) : Nat := e.u 0x34 4

/-- R358: a switch takes effect at the next boundary, or is refused. -/
def State.switchOp (s : State) (e : Entry) : State :=
  let st := s.genState e.ctx e.model e.gen
  let old := s.served e.ctx
  if ((s.wgt e.ctx).model e.model).evicted then s.endOp e St.modelEvicted e.model
  else if old.2 ≠ 0 ∧ old.1 ≠ e.model ∧ (s.srv e.ctx).reqs ≠ [] then s.endOp e St.genInUse (s.binders e.ctx old.2)
  else if st ≠ .ready then s.endOp e St.genNotReady st.code
  else (s.begin e).atBoundary e.ctx (.switch e.stream e.seq e.model e.gen)

def execSwitch (ctx stream seq : Nat) (s : State) : Out := s.withOp ctx stream seq 4 2 s.switchOp

/-- R360: a ready generation is freed at once. -/
def State.dropOp (s : State) (e : Entry) : State :=
  let m := (s.wgt e.ctx).model e.model
  match s.genState e.ctx e.model e.gen, m.slotOf e.gen with
  | .ready, some i => (s.freeGen e.ctx e.model i).endOp e 0 0
  | .serving, _ => s.endOp e St.genInUse (s.binders e.ctx e.gen)
  | .retained, _ => s.endOp e St.genInUse (s.binders e.ctx e.gen)
  | st, _ => s.endOp e St.genNotReady st.code

def execDrop (ctx stream seq : Nat) (s : State) : Out := s.withOp ctx stream seq 4 3 s.dropOp

/-- R368: a model is pinned. -/
def State.pinOp (s : State) (e : Entry) : State :=
  if ((s.wgt e.ctx).model e.model).evicted then s.endOp e St.modelEvicted e.model
  else (s.modModel e.ctx e.model (fun m => { m with pins := 1 })).endOp e 0 0

def execPin (ctx stream seq : Nat) (s : State) : Out := s.withOp ctx stream seq 4 5 s.pinOp

/-- R367, R368: a model is unpinned, which counts as its last use. -/
def execUnpin (ctx stream seq : Nat) (s : State) : Out :=
  s.withOp ctx stream seq 4 6 (fun e => (s.modModel e.ctx e.model (fun m => { m with pins := 0, lastUse := s.ptime })).endOp e 0 0)

/-- The bytes of a resident shard: from its pages, or from the host tier, whose data is asked for. -/
inductive ShardRead where
  | bad
  | wait (s : State)
  | ok (bytes : List (BitVec 8))

/-- A shard read through the scrubber path or the Causeway. -/
def State.readShard (s : State) (ctx : Nat) (o : ReadOwner) (x : Shard) : ShardRead :=
  match x.pages, x.host with
  | [], some h =>
    match s.hostReads.find? (fun r => r.owner == o && r.addr == h && r.len == x.bytes) with
    | some r => match r.data with | some bs => .ok bs | none => .wait s
    | none => .wait (s.askHost ctx o h x.bytes).1
  | _, _ => if s.shardPoison x then .bad else .ok (s.shardBytes x)

/-- R369: every shard that carries a digest is hashed; the first that fails is named. -/
def State.verifyAll (s : State) (ctx : Nat) (o : ReadOwner) : List Shard → State × Option (Option Nat)
  | [] => (s, some none)
  | x :: xs =>
    if x.digest.isNone then s.verifyAll ctx o xs
    else
      match s.readShard ctx o x with
      | .wait t => (t, none)
      | .bad => (s, some (some x.index))
      | .ok bs => if some (sha3 bs) = x.digest then s.verifyAll ctx o xs else (s, some (some x.index))

def State.verifyOp (s : State) (e : Entry) : State :=
  let m := (s.wgt e.ctx).model e.model
  match m.slotOf e.gen with
  | none => s.endOp e St.genNotReady 0
  | some i =>
    let g := m.slot i
    if g.st = .loading then s.endOp e St.genNotReady 1
    else if s.hostReads.any (fun h => h.owner == wgtOwner e && h.failed) then (s.dropReads (wgtOwner e)).endOp e St.translationFault 0
    else
      match s.verifyAll e.ctx (wgtOwner e) g.shards with
      | (t, none) => t
      | (t, some none) => (t.dropReads (wgtOwner e)).endOp e 0 0
      | (t, some (some k)) => (t.dropReads (wgtOwner e)).endOp e St.digestMismatch k

def execVerify (ctx stream seq : Nat) (s : State) : Out := s.withOp ctx stream seq 4 4 s.verifyOp

/-! ### Checkpoint writes (R437) -/

/-- R437: a checkpoint write begins. -/
def State.ckptOp (s : State) (e : Entry) : State :=
  let t := e.u 0x30 1
  let off := e.u 0x40 8
  let n := e.u 0x48 8
  match s.stoOpen e.ctx t off n with
  | .error c =>
    let d := stoDetail c t (s.freeVal 2 + 1)
    (s.took.stoNote (t / 128) e.ctx d).endOp e St.storageWrite d
  | .ok (u, blk) =>
    let k : Ckpt := { ctx := e.ctx, stream := e.stream, seq := e.seq, flush := bit (e.u 0x30 4) 23, target := t, src := e.u 0x38 6, bytes := n,
                      digest := e.u 0x50 6, done := 0, sent := [] }
    let s1 : State := { u.begin e with ckpts := u.ckpts ++ [k] }
    s1.stoQueue [⟨.ckpt e.ctx e.stream e.seq, .write, t, blk, off, 0, n⟩]

def execCheckpointWrite (ctx stream seq : Nat) (s : State) : Out := s.withOp ctx stream seq 4 7 s.ckptOp

/-! ### The digest walk (R355) -/

/-- R355: the walk hashes a resident shard, counts it, and marks it invalid where its digest differs or a word of it is poisoned. -/
def execDigestWalk (ctx : Nat) (image : Bool) (model slot index : Nat) (s : State) : Out :=
  if s.fld .wgtWalkInterval ctx = 0 then .next s
  else
    let w := s.wgt ctx
    let g := (w.model model).slot slot
    let at_ : ShardAt := if image then .image index else .gen model slot index
    let x? := if image then (w.images[index]?).map (fun i => i.shard) else if g.st = .loading then none else g.shards[index]?
    match x? with
    | none => .next s
    | some x =>
      if x.pages.isEmpty || x.digest.isNone then .next s
      else
        let s1 := s.bump .wgtWalkCnt ctx
        let bad := s.shardPoison x
        let s2 := if bad then s1.notePoison (((x.pages.find? (fun k => s.poisoned k (2 ^ 21))).getD 0)) else s1
        if x.invalid then .next s2
        else if bad ∨ some (sha3 (s.shardBytes x)) ≠ x.digest then .next (s2.invalidShard ctx at_ x)
        else .next s2

/-! ### Tiered layers (R366) -/

/-- The tiered shards of a layer of a model, with their places. -/
def State.layerShards (s : State) (ctx model layer : Nat) : List (ShardAt × Shard) :=
  let m := (s.wgt ctx).model model
  (List.range 4).flatMap (fun i => ((m.slot i).shards.zipIdx.filter (fun e => e.1.host.isSome && e.1.layer == layer)).map (fun e => (ShardAt.gen model i e.2, e.1)))

/-- Pages of a tiered layer. -/
def State.layerPages (s : State) (ctx model layer : Nat) : Nat := ((s.layerShards ctx model layer).map (fun e => e.2.npages)).sum

/-- The tiered layers of a model in ascending order. -/
def State.tieredLayers (s : State) (ctx model : Nat) : List Nat :=
  let m := (s.wgt ctx).model model
  sortBy (fun a b => decide (a ≤ b)) (noDups ((List.range 4).flatMap (fun i => ((m.slot i).shards.filter (fun x => x.host.isSome)).map (fun x => x.layer))))

/-- Pages of the staging area: those of the two largest tiered layers. -/
def State.stageRoom (s : State) (ctx model : Nat) : Nat :=
  ((sortBy (fun a b => decide (b ≤ a)) ((s.tieredLayers ctx model).map (s.layerPages ctx model))).take 2).sum

/-- A staged layer goes back to the host tier. -/
def State.unstage (s : State) (ctx model layer : Nat) : State :=
  let s1 := (s.layerShards ctx model layer).foldl (fun t e =>
    let x := { e.2 with pages := [] }
    (t.setWgt ctx ((t.wgt ctx).modShard e.1 (fun _ => x))).mapShard ctx x) s
  s1.modModel ctx model (fun m => { m with staged := m.staged.filter (fun l => l != layer) })

/-- Staged layers leave, least recently used first, until `n` pages fit the staging area. -/
def State.makeRoom (s : State) (ctx model n : Nat) : Nat → State
  | 0 => s
  | fuel + 1 =>
    match ((s.wgt ctx).model model).staged with
    | [] => s
    | l :: ls =>
      if ((l :: ls).map (s.layerPages ctx model)).sum + n ≤ s.stageRoom ctx model then s
      else (s.unstage ctx model l).makeRoom ctx model n fuel

/-- The layer that follows another in ascending order, wrapping to the lowest. -/
def layerAfter (ls : List Nat) (l : Nat) : Nat := (ls.find? (fun x => decide (l < x))).getD (ls.headD 0)

/-- A layer is staged: its shards get pages and their bytes, are mapped to them, and become invalid where their digest differs. -/
def State.stageShard (s : State) (ctx : Nat) (o : ReadOwner) (e : ShardAt × Shard) : State :=
  match s.readShard ctx o e.2, s.pickHbms ctx e.2.stack false e.2.npages [] [] with
  | .ok bs, some (t, ks) =>
    let x := { e.2 with pages := ks }
    let s1 := (t.setWgt ctx ((t.wgt ctx).modShard e.1 (fun _ => x))).shardWrite ctx x (bs.length / 2 ^ 21 + 2) 0 bs
    let s2 := s1.mapShard ctx x
    if x.digest.isSome && some (sha3 bs) != x.digest && !x.invalid then s2.invalidShard ctx e.1 x else if x.invalid then s2.markSuspect ctx x true else s2
  | _, _ => s

/-- R366: a tiered layer that a thread waits for, or that follows a staged layer, is staged once its bytes have come over the Causeway. -/
def execTieredLayerStage (ctx model layer : Nat) (s : State) : Out :=
  let m := (s.wgt ctx).model model
  let xs := s.layerShards ctx model layer
  let waited := s.cays.any (fun c => c.2.threads.any (fun t => t.2.wait == .tier model layer && (s.task t.2.task).ctx == ctx))
  let next := m.staged.any (fun l => layerAfter (s.tieredLayers ctx model) l == layer)
  let o : ReadOwner := .op 9 ((ctx * 8 + model) * 2 ^ 16 + layer)
  if xs.isEmpty ∨ m.staged.contains layer ∨ !(waited || next) then .next s
  else if s.hostReads.any (fun h => h.owner == o && h.failed) then
    .next (s.cays.foldl (fun t c => c.2.threads.foldl (fun u x =>
      if x.2.wait == .tier model layer && (u.task x.2.task).ctx == ctx then u.failTask x.2.task St.translationFault 0 else u) t) (s.dropReads o))
  else
    let asked := xs.foldl (fun t e => match t.readShard ctx o e.2 with | .wait u => u | _ => t) s
    let ready := xs.all (fun e => match s.readShard ctx o e.2 with | .ok _ => true | _ => false)
    if !ready then .next asked
    else
      let s1 := s.makeRoom ctx model (s.layerPages ctx model layer) 65536
      let s2 := xs.foldl (fun t e => t.stageShard ctx o e) s1
      let s3 := (s2.dropReads o).modModel ctx model (fun y => { y with staged := y.staged ++ [layer] })
      .next ((List.range 24).foldl (fun t i => t.wakeIsland i (fun w => w == .tier model layer)) s3)

end Sys2Proof.Machine
end

