-- ==== Sys2Proof/Machine/CwLink.lean ====
section
/-! DEFINITION. The Causeway link: training, packets, replay, credit and ordering (R415 to R429). What the module forms for the host stands in the outbox in the order
formed; it becomes packets when the link next runs, and each packet sent is itself an entry of the outbox. -/
namespace Sys2Proof.Machine

/-- The Causeway replaced by a function of it. -/
def State.modCw (s : State) (f : Causeway → Causeway) : State := { s with cw := f s.cw }

/-! ### Forming packets (R419 to R421) -/

def cwClassOf (type : Nat) : CwClass :=
  if type = 0x30 ∨ type = 0x31 then .response else if type = 0x10 ∨ type = 0x12 ∨ type = 0x14 ∨ type = 0x20 then .nonPosted else .posted

def CwClass.num : CwClass → Nat
  | .posted => 0
  | .nonPosted => 1
  | .response => 2

/-- The units of the module's receive buffers by class (R424): the credit it grants first. -/
def cwBuffer (c : Nat) : Nat := if c = 1 then 512 else 2048

/-- Credit units of a packet (R424). -/
def cwUnits (payload : Nat) : Nat := ceilDiv (20 + payload) 64

/-- An access cut so that no piece passes 512 bytes or leaves a 4 KiB page (R420, R421). -/
def cwPieces : Nat → Nat → Nat → List (Nat × Nat)
  | 0, _, _ => []
  | fuel + 1, a, n =>
    if n = 0 then []
    else
      let m := min n (min 512 (4096 - a % 4096))
      (a, m) :: cwPieces fuel (a + m) (n - m)

def cwCut (a n : Nat) : List (Nat × Nat) := cwPieces (n / 512 + n / 4096 + 3) a n

/-- The packets of writes of a type. -/
def cwWrites (type ctx a : Nat) (data : List (BitVec 8)) : List CwPkt :=
  (cwCut a data.length).map (fun p => ⟨type, ctx, 0, 0, p.1, p.2, (data.drop (p.1 - a)).take p.2, none⟩)

/-- The packets of a host read, over whole 4-byte words. -/
def cwReads (ctx read a n : Nat) : List CwPkt :=
  let lo := a / 4 * 4
  let hi := ceilDiv (a + n) 4 * 4
  (cwCut lo (hi - lo)).map (fun p => ⟨0x20, ctx, 0, 0, p.1, p.2, [], some (read, p.1 - lo)⟩)

/-- The context whose range of module vectors holds a vector (R506). -/
def State.vectorCtx (s : State) (v : Nat) : Nat :=
  ((List.range 64).find? (fun c => decide (s.fld .ctxIrqRangeBase c ≤ v) && decide (v < s.fld .ctxIrqRangeBase c + s.fld .ctxIrqRangeCount c))).getD 0

/-- The packets of one thing sent to the host. -/
def State.cwForm (s : State) : Emit → List CwPkt
  | .message v => [⟨0x23, s.vectorCtx v, 0, 0, v, 0, [], none⟩]
  | .hostWrite ctx a d => cwWrites 0x21 ctx a d
  | .completion ctx a d => cwWrites 0x22 ctx a d
  | .hostRead ctx t a n => cwReads ctx t a n
  | .response ctx t st d => [⟨0x30, ctx, t, st, 0, d.length, d, none⟩]
  | .lwResponse ctx t d => [⟨0x31, ctx, t, 0, 0, d.length, d, none⟩]
  | _ => []

/-- A packet's bytes, with the ACK given now (R419). -/
def State.cwBytes (s : State) (seq : Nat) (p : CwPkt) : List (BitVec 8) :=
  let b := leBytes 4 (p.type * 2 ^ 24 + seq * 2 ^ 12 + s.cw.rxSeq) ++ leBytes 4 (p.tag * 2 ^ 22 + p.status * 2 ^ 12 + p.len) ++ leBytes 8 p.addr ++ p.data
  b ++ leBytes 4 (crc32c b)

/-- What READY says (R43); a module in recovery sends it too (R528). -/
def State.cwReady (s : State) : Bool := s.run == .ready || s.run == .recovery

/-- A link-control packet (R426). -/
def State.cwControl (s : State) (nack : Bool) : List (BitVec 8) :=
  let config := s.fld .cwStatState 0 == 4
  let g (c : Nat) := leBytes 2 (Tbl.get cwBuffer s.cw.give c)
  let w := b2n nack * 2 ^ 31 + b2n s.cwReady * 2 ^ 30 + b2n (config && s.cw.kept) * 2 ^ 29 + b2n config * 2 ^ 28 +
    (if s.cw.width = 16 then 2 else if s.cw.width = 8 then 1 else 0) * 2 ^ 26
  let b := leBytes 4 s.cw.rxSeq ++ leBytes 4 w ++ g 0 ++ g 1 ++ g 2 ++ [0, 0]
  b ++ leBytes 4 (crc32c b)

def State.cwSendControl (s : State) (nack : Bool) : State := (s.emit (.packet (s.cwControl nack))).setFld .cwStatReady (b2n s.cwReady) 0

/-! ### Injection (R428) -/

/-- A packet of a context is eligible for injection in a direction: 0 transmit, 1 receive. -/
def State.cwInjects (s : State) (dir ctx : Nat) : Bool :=
  s.fld .cwInjCtlMode 0 != 0 && s.fld .cwInjCtlDir 0 == dir && s.testPerm (s.fld .cwInjCtlCtx 0) && s.fld .cwInjCtlCtx 0 == ctx

/-- An eligible packet is seen: the trigger answers whether it is injected. -/
def State.cwInject (s : State) : State × Bool :=
  let p := s.fld .cwInjCtlParam 0
  if s.fld .cwInjCtlTrig 0 = 0 then
    let n := s.cw.injSeen + 1
    if n < p then (s.modCw (fun x => { x with injSeen := n }), false)
    else ((s.modCw (fun x => { x with injSeen := 0 })).bump .cwInjCnt 0, true)
  else if s.freeVal p = 0 then (s.took.bump .cwInjCnt 0, true)
  else (s.took, false)

/-- The pattern XORed in at a payload word. -/
def State.cwCorrupt (s : State) (bs : List (BitVec 8)) : List (BitVec 8) :=
  let o := 16 + 4 * s.fld .cwInjOffsetOffset 0
  let p := leBytes 4 (s.fld .cwInjPattern 0)
  bs.zipIdx.map (fun e => if o ≤ e.2 ∧ e.2 < o + 4 ∧ e.2 + 4 < bs.length then e.1 ^^^ p.getD (e.2 - o) 0 else e.1)

/-! ### Sending (R423 to R425) -/

/-- Credit left in a class. -/
def Causeway.credit (x : Causeway) (c : CwClass) : Nat := (Tbl.get natZero x.granted c.num + 2 ^ 16 - Tbl.get natZero x.used c.num) % 2 ^ 16

/-- The lowest TAG not in use. -/
def Causeway.freeTag (x : Causeway) : Option Nat := (List.range 1024).find? (fun t => !x.tags.any (fun g => g.tag == t))

/-- The first packet that may go: nothing passes a posted packet that waits; of the others one class does not hold up another (R425). -/
def Causeway.pick (x : Causeway) : List CwPkt → List CwClass → Option CwPkt
  | [], _ => none
  | p :: ps, held =>
    let c := cwClassOf p.type
    if !held.contains c && decide (cwUnits p.data.length ≤ x.credit c) && (p.ask.isNone || x.freeTag.isSome) then some p
    else if c = .posted then none
    else x.pick ps (c :: held)

/-- A packet leaves: as it is, or dropped, corrupted or held back by injection (R428). One held back follows the next. -/
def State.cwPut (s : State) (seq : Nat) (p : CwPkt) : State :=
  let behind := s.cw.heldTx
  let r := if s.cwInjects 0 p.ctx then s.cwInject else (s, false)
  let t := r.1
  let mode := t.fld .cwInjCtlMode 0
  let s1 :=
    if !r.2 then t.emit (.packet (t.cwBytes seq p))
    else if mode = 1 then t
    else if mode = 2 then t.emit (.packet (t.cwCorrupt (t.cwBytes seq p)))
    else t.modCw (fun x => { x with heldTx := some (seq, p) })
  match behind with
  | none => s1
  | some g =>
    let s2 := s1.emit (.packet (s1.cwBytes g.1 g.2))
    if r.2 && mode == 3 then s2 else s2.modCw (fun x => { x with heldTx := none })

/-- A packet is given its SEQ, and its TAG where it is a host read, and leaves. -/
def State.cwSend (s : State) (p : CwPkt) : State :=
  let x := s.cw
  let t := x.freeTag.getD 0
  let q := match p.ask with | some _ => { p with tag := t } | none => p
  let tags := match p.ask with | some a => x.tags ++ [⟨t, a.1, a.2, p.len, none⟩] | none => x.tags
  let c := (cwClassOf p.type).num
  let y := { x with
    queue := x.queue.eraseP (fun z => z == p)
    txSeq := (x.txSeq + 1) % 2 ^ 12
    unacked := x.unacked ++ [(x.txSeq, q)]
    used := Tbl.upd natZero x.used c (fun u => (u + cwUnits p.data.length) % 2 ^ 16)
    tags := tags }
  ({ s with cw := y } : State).cwPut x.txSeq q

/-- Bytes the replay buffer holds. -/
def Causeway.held (x : Causeway) : Nat := (x.unacked.map (fun p => p.2.data.length + 20)).sum

/-- Packets leave while credit, the replay buffer and its 1,024 packets allow. -/
def State.cwDrain : Nat → State → State
  | 0, s => s
  | fuel + 1, s =>
    match s.cw.pick s.cw.queue [] with
    | none => s
    | some p =>
      if 1024 ≤ s.cw.unacked.length ∨ 512 * 1024 < s.cw.held + p.data.length + 20 then s
      else State.cwDrain fuel (s.cwSend p)

/-- An answer to a request of the host's. -/
def Emit.answers : Emit → Bool
  | .response _ _ _ _ => true
  | .lwResponse _ _ _ => true
  | _ => false

/-- What has been formed for the host since the link last ran becomes packets; while the module is not ready only answers do (R42, R427). -/
def State.cwTake (s : State) : State :=
  let ps := (s.outbox.drop s.cw.taken).flatMap (fun e => if s.cwReady || e.answers then s.cwForm e else [])
  s.modCw (fun x => { x with taken := s.outbox.length, queue := x.queue ++ ps })

/-- The link runs: new packets are formed and, while it is Active, sent. -/
def State.cwPump (s : State) : State :=
  let s1 := s.cwTake
  if s1.fld .cwStatState 0 = 5 then State.cwDrain s1.cw.queue.length s1 else s1

/-- Every packet after the last acknowledged is sent again, with no injection. -/
def State.cwResend (s : State) : State := s.cw.unacked.foldl (fun t p => t.emit (.packet (t.cwBytes p.1 p.2))) s

/-! ### Retraining (R418) -/

/-- An Active link goes to Lock. -/
def State.cwRetrain (s : State) : State :=
  if s.fld .cwStatState 0 ≠ 5 then s
  else
    (((s.setFld .cwStatState 2 0).setFld .cwCtlRetrain 0 0).bump .cwRetrainCnt 0).modCw (fun x => { x with kept := true, streak := 0, peer := none }) |>.raise 0x09 0 0

/-- R423: a replay; eight without an ACK advancing retrain the link. -/
def State.cwReplay (s : State) : State :=
  let s1 := ((s.modCw (fun x => { x with streak := x.streak + 1 })).bump .cwReplayCnt 0).cwResend
  if 8 ≤ s1.cw.streak then s1.cwRetrain else s1

/-- The packets an ACK covers are forgotten. -/
def State.cwAck (s : State) (ack : Nat) : State :=
  match s.cw.unacked.findIdx? (fun p => p.1 == ack) with
  | none => s
  | some k => s.modCw (fun x => { x with unacked := x.unacked.drop (k + 1), streak := 0 })

/-! ### Training (R416, R417) -/

/-- The Causeway may train: 48 V is good, its hardware works and LANE_LB does not hold it. -/
def State.cwMay (s : State) : Bool := s.run != .off && !s.cw.failed && s.ports.ir != .laneLb

/-- The Causeway is in Detect; Off with power good is Detect (R417). -/
def State.cwDetecting (s : State) : Bool := s.cwMay && (s.fld .cwStatState 0 == 1 || s.fld .cwStatState 0 == 0)

def execCwSignalDetect (lanes : Nat) (s : State) : Out := when (s.cwDetecting && decide (8 ≤ ones 16 lanes)) (s.setFld .cwStatState 2 0) s

/-- The width that usable lanes give (R416); 0 where they give none. -/
def cwWidth (lanes : Nat) : Nat :=
  let l := lanes % 2 ^ 16
  if l = 0xFFFF then 16 else if bits l 7 0 = 0xFF ∨ bits l 15 8 = 0xFF then 8 else 0

def execCwLock (lanes : Nat) (s : State) : Out :=
  when (s.fld .cwStatState 0 == 2 && cwWidth lanes != 0) ((s.setFld .cwStatState 3 0).modCw (fun x => { x with width := cwWidth lanes })) s

/-- R416: lane order and skew are resolved: lanes in order (0) or fully reversed (1); any other order leaves the link in Align. -/
def execCwAlign (order : Nat) (s : State) : Out :=
  when (s.fld .cwStatState 0 == 3 && decide (order ≤ 1))
    (((s.setFld .cwStatState 4 0).setFld .cwStatReversed order 0).modCw (fun x => { x with peer := none })) s

/-- R418: both sides start afresh: replay buffers are emptied, completions and request events not consumed are written again, the module's host reads outstanding are issued again, and the
host's outstanding requests get no response. -/
def State.cwRestart (s : State) : State :=
  let s1 := s.cwTake
  let keep := s1.cw.queue.filter (fun p => cwClassOf p.type == .posted)
  let reads := (s1.hostReads.filter (fun h => h.data.isNone && !h.failed)).flatMap (fun h => cwReads h.ctx h.tag h.addr h.len)
  let s2 := s1.markRewrite.modCw (fun x =>
    { x with rxSeq := 0, nacked := false, txSeq := 1, unacked := [], streak := 0, used := [], give := [], queue := keep ++ reads, tags := [], heldTx := none, heldRx := none })
  { s2 with
    entries := s2.entries.map (fun e => { e with owed := [] })
    srvs := Tbl.mapVals srvDef (fun _ v => { v with events := v.events.map (fun e => if e.written then { e with rew := true } else e) }) s2.srvs }

/-- R418: Config ends once a CONFIG packet of the adapter has come that offers a width. -/
def execCwConfig (s : State) : Out :=
  match s.cw.peer with
  | none => .next s
  | some (offer, width) =>
    if s.fld .cwStatState 0 ≠ 4 ∨ width = 0 then .next s
    else
      let resume := offer && s.cw.kept
      let s1 := ((s.setFld .cwStatState 5 0).setFld .cwStatWidth8 (b2n (s.cw.width == 8 || width == 8)) 0).setFld .cwStatResumed (b2n resume) 0
      let s2 := if resume then s1.cwResend else s1.cwRestart
      .next (s2.modCw (fun x => { x with kept := true, nacked := false })).cwPump

def execCwStateBoundExpiry (s : State) : Out :=
  match s.fld .cwStatState 0 with
  | 2 => .next (s.setFld .cwStatState 1 0)
  | 3 => .next (s.setFld .cwStatState 2 0)
  | 4 => .next ((s.setFld .cwStatState 2 0).modCw (fun x => { x with peer := none }))
  | _ => .next s

/-- R418: an active lane loses signal or lock. -/
def execCwRetrain (s : State) : Out := .next s.cwRetrain

/-- R418, R429: a write of CW_CTL. -/
def State.writeCwCtl (s : State) (w : Nat) : State :=
  let t := bits w 15 8
  let s1 := if t = 0 then s else s.setFld .cwCtlReplayTimeout t 0
  if bit w 0 then s1.cwRetrain else s1

def execCwRetrainWrite (value : Nat) (s : State) : Out := .next (s.writeCwCtl value)

/-- R558: signal is lost on every lane. -/
def execCableUnplug (s : State) : Out :=
  let s1 := s.cwRetrain
  when (s.fld .cwStatState 0 != 0) (s1.setFld .cwStatState 1 0) s

/-- R35: the Causeway's hardware fails. -/
def State.cwOff (s : State) : State := (s.setFld .cwStatState 0 0).modCw (fun x => { x with kept := false, peer := none })

def execCausewayHardwareFailure (s : State) : Out := .next (s.cwOff.modCw (fun x => { x with failed := true }))

/-! ### Receiving (R423, R426) -/

/-- A packet's length and CRC are good. -/
def cwGood (b : List (BitVec 8)) : Bool :=
  decide (20 ≤ b.length) && decide (b.length ≤ 532) && b.length % 4 == 0 && leAt b (b.length - 4) 4 == crc32c (b.take (b.length - 4))

def cwType (b : List (BitVec 8)) : Nat := leAt b 3 1

/-- A packet dropped: counted, with one NACK until a packet is next accepted. -/
def State.cwBad (s : State) : State :=
  let s1 := s.bump .cwCrcErrCnt 0
  if s1.cw.nacked then s1 else (s1.cwSendControl true).modCw (fun x => { x with nacked := true })

def execLinkControlReceive (packet : List (BitVec 8)) (s : State) : Out :=
  let st := s.fld .cwStatState 0
  if st ≠ 4 ∧ st ≠ 5 then .next s
  else if !cwGood packet || cwType packet != 0 then .next (if st = 5 then s.cwBad else s)
  else
    let w := leAt packet 4 4
    let g (o : Nat) := leAt packet o 2
    let s1 := (s.cwAck (leAt packet 0 2 % 2 ^ 12)).modCw (fun x =>
      { x with granted := Tbl.set natZero (Tbl.set natZero (Tbl.set natZero x.granted 0 (g 8)) 1 (g 10)) 2 (g 12) })
    let width := match bits w 27 26 with | 1 => 8 | 2 => 16 | _ => 0
    if st = 4 then
      .next (if bit w 28 then s1.modCw (fun x => { x with peer := some (bit w 29, width) }) else s1)
    else if bit w 28 then .next s1.cwRetrain
    else .next (if bit w 31 then s1.cwReplay.cwPump else s1.cwPump)

/-- R426: a link-control packet is sent; what waits for the link is sent behind it. -/
def execLinkControlSend (s : State) : Out :=
  let st := s.fld .cwStatState 0
  if st ≠ 4 ∧ st ≠ 5 then .next s else .next (s.cwSendControl false).cwPump

/-- R423: no ACK advances within the replay timeout. -/
def execCwReplayTimeout (s : State) : Out := when (s.fld .cwStatState 0 == 5 && !s.cw.unacked.isEmpty) s.cwReplay s

/-- The class of a packet the host sends; a type reserved to it counts as one that is answered (R420, R422). -/
def cwClassIn (type : Nat) : CwClass := if type = 0x11 ∨ type = 0x13 then .posted else if type = 0x30 then .response else .nonPosted

/-- A packet not of link control is accepted in order, and its credit is granted again; `none` where it is dropped. -/
def State.cwAccept (s : State) (b : List (BitVec 8)) : State × Bool :=
  let w := leAt b 0 4
  if !cwGood b || bits w 23 12 != (s.cw.rxSeq + 1) % 2 ^ 12 then (s.cwBad, false)
  else
    let c := (cwClassIn (cwType b)).num
    ((s.cwAck (bits w 11 0)).modCw (fun x =>
      { x with rxSeq := bits w 23 12, nacked := false,
               give := Tbl.upd cwBuffer x.give c (fun u => (u + cwUnits (b.length - 20)) % 2 ^ 16) }), true)

/-! ### Responses to the module's reads (R422) -/

/-- The operation that issued a read ends with "translation fault". -/
def State.readRefused (s : State) (h : HostRead) : State :=
  let s1 : State := { s with hostReads := s.hostReads.filter (fun x => x.tag != h.tag) }
  match h.owner with
  | .load c t => s1.failTask ((s1.cay (cayOfKey c)).thr t).task St.translationFault 0
  | .copy c n =>
    match (s1.cay (cayOfKey c)).copies.find? (fun j => j.num == n) with
    | some j => s1.failTask j.task St.translationFault 0
    | none => s1
  | .op 3 n => s1.reach (n / 2 ^ 68) (n / 2 ^ 64 % 16) (n % 2 ^ 64) St.translationFault 0
  | .op _ _ => { s with hostReads := s.hostReads.map (fun x => if x.tag = h.tag then { x with failed := true } else x) }

/-- Every piece of a host read has come: its bytes are put together. -/
def State.readWhole (s : State) (h : HostRead) : State :=
  let gs := s.cw.tags.filter (fun g => g.read == h.tag)
  let lo := h.addr / 4 * 4
  let n := ceilDiv (h.addr + h.len) 4 * 4 - lo
  let whole := (gs.map (fun g => g.len)).sum == n && gs.all (fun g => g.data.isSome)
  if !whole then s
  else
    let m := gs.foldl (fun m g => Memory.writeN m g.off (g.data.getD [])) ([] : Memory)
    let s1 := s.modCw (fun x => { x with tags := x.tags.filter (fun g => g.read != h.tag) })
    { s1 with hostReads := s1.hostReads.map (fun x => if x.tag = h.tag then { x with data := some (Memory.readN m (h.addr - lo) h.len) } else x) }

/-- R422: the host answers a read by its TAG; a response to no read outstanding, and one of another length, does nothing. -/
def State.takeResponse (s : State) (tag status : Nat) (data : List (BitVec 8)) : State :=
  match s.cw.tags.find? (fun g => g.tag == tag && g.data.isNone) with
  | none => s
  | some g =>
    match s.hostRead g.read with
    | none => s.modCw (fun x => { x with tags := x.tags.filter (fun y => y.tag != tag && !(y.read == g.read && y.data.isSome)) })
    | some h =>
      if status ≠ 0 then
        (s.modCw (fun x => { x with queue := x.queue.filter (fun p => p.ask.all (fun a => a.1 != h.tag)), tags := x.tags.filter (fun y => y.tag != tag) })).readRefused h
      else if data.length ≠ g.len then s
      else (s.modCw (fun x => { x with tags := x.tags.map (fun y => if y.tag = tag then { y with data := some data } else y) })).readWhole h

def execReadResponse (tag status : Nat) (data : List (BitVec 8)) (s : State) : Out := .next (s.takeResponse tag status data)

end Sys2Proof.Machine
end

