-- ==== Sys2Proof/Machine/Update.lean ====
section
/-! DEFINITION. The update pipe (R328 to R333). -/
namespace Sys2Proof.Machine

/-! ### Arithmetic: values with the saturations met in forming them (R332, R333) -/

/-- A rounding to A32. -/
def rndA (v : Val) : Val × Nat := let r := roundA32 v; (a32.decode r.code, b2n r.sat)

def mulA (x y : Val) : Val × Nat := rndA (x.mul y)

/-- x × y + z, the product rounded before the sum. -/
def mulAddA (x y z : Val) : Val × Nat :=
  let p := mulA x y
  let r := rndA (p.1.add z)
  (r.1, p.2 + r.2)

/-- Round-to-nearest-even into BF16. -/
def toBf16 (v : Val) : Val × Nat := let e := bf16.encode .rne v; (bf16.decode e.code, b2n e.sat)

/-- Values and saturations of a list of results. -/
def unzipSat (l : List (Val × Nat)) : List Val × Nat := (l.map (fun p => p.1), (l.map (fun p => p.2)).sum)

/-- One element of a matrix product with K = 32: two 16-term sums in order (R61, R64). -/
def dot32 (ab : List (Val × Val)) : Val × Nat :=
  let g0 := tree16 .zero (ab.take 16)
  let g1 := tree16 (a32.decode g0.code) (ab.drop 16)
  (a32.decode g1.code, b2n g0.sat + b2n g1.sat)

/-- Element (i, j) of a 32 × 32 matrix held by rows. -/
def at32 (m : List Val) (i j : Nat) : Val := m.getD (32 * i + j) .zero

/-- A product of 32 × 32 matrices whose operands are read by index functions. -/
def mat32 (x y : Nat → Nat → Val) : List (Val × Nat) :=
  (List.range 1024).map (fun n => dot32 ((List.range 32).map (fun k => (x (n / 32) k, y k (n % 32)))))

/-! ### The schedule (R330, R331) -/

/-- A curve of a schedule entry: its points. -/
def curve (b : List (BitVec 8)) (o n : Nat) : List (Nat × Nat) := (List.range n).map (fun i => (leAt b (o + 8 * i) 4, leAt b (o + 8 * i + 4) 4))

/-- The STEP values ascend strictly. -/
def rising : List (Nat × Nat) → Bool
  | a :: b :: r => decide (a.1 < b.1) && rising (b :: r)
  | _ => true

/-- The value of a curve at a step (R331). -/
def curveAt (ps : List (Nat × Nat)) (t : Nat) : Val :=
  let v (p : Nat × Nat) : Val := a32.decode p.2
  match ps.head?, ps.getLast? with
  | some f, some l =>
    if t ≤ f.1 then v f
    else if l.1 ≤ t then v l
    else
      let i := ((List.range ps.length).filter (fun i => decide ((ps.getD i (0, 0)).1 ≤ t))).length - 1
      let a := ps.getD i (0, 0)
      let b := ps.getD (i + 1) (0, 0)
      let fr := rA32 (Val.quot (Val.ofInt (t - a.1 : Nat)) (Val.ofInt (b.1 - a.1 : Nat)))
      let d := rA32 ((v b).sub (v a))
      rA32 ((v a).add (rA32 (d.mul fr)))
  | _, _ => .zero

/-- A schedule entry that keeps its limits, its values at a step (R330). -/
def schedule (b : List (BitVec 8)) (ctx tg step num : Nat) : Option PGroup :=
  let w := leAt b 0 4
  let wf := bits w 29 26
  let n (o : Nat) := leAt b o 1
  let inLim (o : Nat) : Bool := decide (1 ≤ n o) && decide (n o ≤ 64)
  let zero (lo hi : Nat) : Bool := ((b.drop lo).take (hi - lo)).all (fun x => x == 0)
  let cs := [curve b 0x40 (n 8), curve b 0x240 (n 9), curve b 0x440 (n 10)]
  if decide (bits w 31 30 ≤ 1) && (wf == 1 || wf == 5 || wf == 6) && bits w 25 0 == 0 && inLim 8 && inLim 9 && inLim 10 && zero 0xB 0x40 && zero 0x640 0x800 && cs.all rising then
    let c (i : Nat) : Nat := (roundA32 (curveAt (cs.getD i []) step)).code
    some ⟨ctx, tg, step, num, bits w 31 30, wf, leAt b 4 4, c 0, c 1, c 2⟩
  else none

/-! ### The tile (R328, R332, R333) -/

/-- Values of a P16 tile of 2,112 bytes. -/
def p16Tile (b : List (BitVec 8)) : List Val := (List.range 1024).map (fun n => p16Val (leAt b (2048 + n / 32) 1) (leAt b (2 * n) 2))

/-- A list of 1,024 values as a P16 tile: its values, its bytes, its saturations, or none where a row has no finite scale. -/
def toP16 (vs : List Val) : Option (List Val × List (BitVec 8) × Nat) :=
  let rows := (chunks 32 1024 vs).map (p16Block (fun _ => .rne) 0)
  if rows.any (fun r => r.1 == 0xFF) then none
  else
    let vals := rows.flatMap (fun r => r.2.map (fun e => p16Val r.1 e.code))
    let bytes := rows.flatMap (fun r => r.2.flatMap (fun e => leBytes 2 e.code)) ++ rows.map (fun r => BitVec.ofNat 8 r.1) ++ List.replicate 32 0
    some (vals, bytes, (rows.map (fun r => (r.2.filter (fun e => e.sat)).length)).sum)

/-- The working weights of a tile in the working format (R332). -/
def toWork (wf : Nat) (vs : List Val) : List (BitVec 8) × Nat :=
  if wf = 1 then
    let rows := (chunks 32 1024 vs).map (quantRun 1 (fun _ => .rne) 0)
    (rows.flatMap (fun r => r.2.map (fun e => BitVec.ofNat 8 e.code)) ++ rows.map (fun r => BitVec.ofNat 8 r.1) ++ List.replicate 32 0,
      (rows.map (fun r => (r.2.filter (fun e => e.sat)).length)).sum)
  else
    let es := vs.map (encodeElem wf .rne)
    (es.flatMap (fun e => leBytes 2 e.code), (es.filter (fun e => e.sat)).length)

/-- The state a tile reads: master weights, momentum, and in MODE 1 statistics l, r and roots ql, qr. -/
structure TileIn where
  g : List Val
  w : List Val
  m : List Val
  l : List Val
  r : List Val
  ql : List Val
  qr : List Val

/-- What a tile writes: master weights, momentum, statistics and working weights, with its saturations. -/
structure TileOut where
  w : List (BitVec 8)
  m : List (BitVec 8)
  stats : List (BitVec 8)
  k : List (BitVec 8)
  sats : Nat
deriving DecidableEq, Repr

/-- A32 values as bytes. -/
def a32Bytes (vs : List Val) : List (BitVec 8) := vs.flatMap (fun v => leBytes 4 (roundA32 v).code)

/-- The preconditioned gradient and the new statistics of MODE 1, with the saturations, or none on an invalid operation. -/
def precondition (p : PGroup) (x : TileIn) : Option (List Val × List (BitVec 8) × Nat) :=
  let rho := a32.decode p.rho
  let gb := unzipSat (x.g.map toBf16)
  let G := at32 gb.1
  let decay (old : List Val) (add : List (Val × Nat)) : List Val × Nat :=
    unzipSat ((old.zip add).map (fun e => let r := mulAddA rho e.1 e.2.1; (r.1, r.2 + e.2.2)))
  let l := decay x.l (mat32 G (fun k j => G j k))
  let r := decay x.r (mat32 (fun i k => G k i) G)
  let h0 := unzipSat (mat32 (at32 x.ql) G)
  let h := unzipSat (h0.1.map toBf16)
  let u := unzipSat (mat32 (at32 h.1) (at32 x.qr))
  if (gb.1 ++ l.1 ++ r.1 ++ h.1 ++ u.1).any Val.isNan then none
  else some (u.1, a32Bytes l.1 ++ a32Bytes r.1, gb.2 + l.2 + r.2 + h0.2 + h.2 + u.2)

/-- The update of one tile (R332), or none where R333 finds it invalid. -/
def updateTile (p : PGroup) (x : TileIn) : Option TileOut :=
  let lr := a32.decode p.lr
  let wd := a32.decode p.wd
  let mu := a32.decode p.mu
  match (if p.mode = 1 then precondition p x else some (x.g, [], 0)) with
  | none => none
  | some (u, st, n0) =>
    let m1 := unzipSat ((x.m.zip u).map (fun e => mulAddA mu e.1 e.2))
    match toP16 m1.1 with
    | none => none
    | some (mv, mb, n1) =>
      let a := mulA lr wd
      let w1 := unzipSat ((x.w.zip mv).map (fun e =>
        let d := mulA a.1 e.1
        let y := rndA (e.1.sub d.1)
        let z := mulA lr e.2
        let r := rndA (y.1.sub z.1)
        (r.1, d.2 + y.2 + z.2 + r.2)))
      match toP16 w1.1 with
      | none => none
      | some (wv, wb, n2) =>
        let k := toWork p.wfmt wv
        some ⟨wb, mb, st, k.1, n0 + m1.2 + n1 + a.2 + w1.2 + n2 + k.2⟩

/-- Bytes of a tile's working weights. -/
def workBytes (wf : Nat) : Nat := if wf = 1 then 1088 else 2048

/-! ### The update map (R329) -/

/-- A run of an update map. -/
structure URun where
  tiles : Nat
  pgroup : Nat
  master : Nat
  moment : Nat
  stats : Nat
  roots : Nat
  work : Nat
  half : Nat
deriving DecidableEq, Repr

def parseRun (b : List (BitVec 8)) : URun := ⟨leAt b 0 4, leAt b 4 2, leAt b 8 6, leAt b 0x10 6, leAt b 0x18 6, leAt b 0x20 6, leAt b 0x28 6, leAt b 0x30 8⟩

/-- The run of a tile and the tile's place in it. -/
def runOf : List URun → Nat → Option (URun × Nat)
  | [], _ => none
  | r :: rs, t => if t < r.tiles then some (r, t) else runOf rs (t - r.tiles)

/-- What reading for a tile answers: the value, or the state to answer where the pipe waits or the collective has ended. -/
abbrev Need (α : Type) := Except State α

/-- Bytes of the member's own memory, or why the tile stops. -/
def State.need (s : State) (k : Coll) (dva n : Nat) : Need (List (BitVec 8)) :=
  match s.collRead k dva n with
  | .ok bs _ => .ok bs
  | .wait => .error s
  | .ended t => .error t

/-- The collective's update map; one outside its limits ends it as an invalid update (log entry 31). -/
def State.updateMap (s : State) (k : Coll) : Need (List URun) :=
  match s.need k k.map 16 with
  | .error t => .error t
  | .ok hd =>
    let n := leAt hd 0 4
    if n = 0 ∨ 4096 < n then .error (s.abortColl k 5)
    else
      match s.need k (k.map + 16) (64 * n) with
      | .error t => .error t
      | .ok b => .ok ((List.range n).map (fun i => parseRun ((b.drop (64 * i)).take 64)))

/-- The values of a parameter group for the step, held by the pipe or evaluated anew (R330). -/
def State.pgroup (s : State) (k : Coll) (g : TGroup) (isl num : Nat) : Need (State × PGroup) :=
  let same (p : PGroup) : Bool := p.ctx == k.ctx && p.tgroup == k.tgroup && p.step == k.step && p.num == num
  let hold (t : State) (p : PGroup) : State :=
    t.modEng isl (fun e => { e with pgroups := (let rest := e.pgroups.filter (fun x => !same x); if 64 ≤ rest.length then rest.drop 1 else rest) ++ [p] })
  match (s.eng isl).pgroups.find? same with
  | some p => .ok (hold s p, p)
  | none =>
    match s.need k (g.sched + 2048 * num) 2048 with
    | .error t => .error t
    | .ok b =>
      match schedule b k.ctx k.tgroup k.step num with
      | none => .error (s.endColl k St.scheduleRefused num)
      | some p => .ok (hold s p, p)

/-- Values of an A32 or BF16 tensor. -/
def valsOf (f n : Nat) (b : List (BitVec 8)) : List Val := (List.range n).map (fun i => decodeElem f (leAt b (i * (fmtBits f / 8)) (fmtBits f / 8)))

/-- The state of a tile read from the live half and the current root half (R328, R332). -/
def State.tileIn (s : State) (k : Coll) (g : TGroup) (r : URun) (i : Nat) (p : PGroup) (grad : List (BitVec 8)) : Need TileIn :=
  let live := g.live * r.half
  match s.need k (r.master + live + 2112 * i) 2112, s.need k (r.moment + live + 2112 * i) 2112 with
  | .ok w, .ok m =>
    let x : TileIn := ⟨valsOf 9 1024 grad, p16Tile w, p16Tile m, [], [], [], []⟩
    if p.mode = 0 then .ok x
    else
      (match s.need k (r.stats + live + 8192 * i) 8192, s.need k (r.roots + g.root * r.half + 4096 * i) 4096 with
      | .ok st, .ok ro =>
        .ok { x with l := valsOf 9 1024 st, r := valsOf 9 1024 (st.drop 4096), ql := valsOf 5 1024 ro, qr := valsOf 5 1024 (ro.drop 2048) }
      | .error t, _ => .error t
      | _, .error t => .error t)
  | .error t, _ => .error t
  | _, .error t => .error t

/-- Writes of a tile to its context's HBM, all or none. -/
def State.tileOut (s : State) (k : Coll) (ws : List (Nat × List (BitVec 8))) : Need State :=
  match firstSome (fun (w : Nat × List (BitVec 8)) => match s.pieces k.ctx w.1 w.2.length true false true true with | .error e => some e | .ok _ => none) ws with
  | some e => .error (s.faultColl k e.1 e.2)
  | none => .ok (ws.foldl (fun t w => t.devWrite k.ctx w.1 w.2) s)

/-- The owning member's record ends with "numeric invalid"; the other members are told of the abort (R326, R333). -/
def State.abortUpdate (s : State) (k : Coll) : State :=
  let isl := engineFor k.mask 0
  let tell (t : State) (m : GEnt) : State := t.control isl { t.msgTo k isl 5 m.fab m.ctx (engineFor m.engines 0) 0 0 0 with chunk := 5 }
  let s1 := (k.desc.members.filter (fun m => m.fab != s.fabId)).foldl tell s
  let on := (List.range 24).filter (fun i => bit k.open_ i)
  (on.foldl (fun t i => (t.bump .colAbortCnt i).raise 0x17 i 1) s1).endColl k St.numericInvalid 0

/-- An invalid tile is counted and captured, and its collective aborts (R333). -/
def State.invalidTile (s : State) (k : Coll) (isl pg tile : Nat) : State :=
  let s1 := s.bump .updInvalidCnt isl
  let s2 :=
    if s1.fld .updCaptValid isl = 1 then s1
    else (((s1.setFld .updCaptValid 1 isl).setFld .updCaptCtx k.ctx isl).setFld .updCaptPgroup pg isl).setFld .updCaptTile tile isl
  let s3 := s2.raise 0x18 isl 0
  (s3.bump .numiInvalidCnt isl |>.bump .numcInvalidCnt k.ctx).abortUpdate k

/-- The tiles of a chunk of the own range: their indexes in it. -/
def Coll.tilesOf (k : Coll) (own c : Nat) : List Nat := (List.range (k.len c / 4096)).map (fun j => (k.start c / 4 - own) / 1024 + j)

/-- The work of a chunk, once all its tiles are done: joined in order, to be sent to every member. -/
def State.workDone (s : State) (k : Coll) (own c : Nat) : State :=
  let ts := k.tilesOf own c
  if !ts.all (fun t => k.tiles.contains t) then s
  else
    let of (t : Nat) : List (BitVec 8) := ((k.work.find? (fun v => v.chunk == t && v.log == 0xFF)).map (fun v => v.data)).getD []
    s.modColl k.num (fun x => { x with
      work := x.work.filter (fun v => !(v.log == 0xFF && ts.contains v.chunk)) ++ [⟨c, 0, k.top, ts.flatMap of⟩]
      vals := x.vals.filter (fun v => v.chunk != c)
      landed := x.landed ++ [c] })

/-- A chunk of working weights counts as landed once its last tile is done (R320). -/
def State.landNote (s : State) (k : Coll) (isl own c : Nat) : State := if (k.tilesOf own c).all (fun t => k.tiles.contains t) then s.notify k isl else s

/-- One tile of a chunk whose combined gradient is there. -/
def State.doTile (s : State) (k : Coll) (g : TGroup) (isl own c t : Nat) (grad : List (BitVec 8)) : State :=
  let run : Need State :=
    match s.updateMap k with
    | .error u => .error u
    | .ok rs =>
      match runOf rs t with
      | none => .error (s.abortColl k 5)
      | some (r, i) =>
        match s.pgroup k g isl r.pgroup with
        | .error u => .error u
        | .ok (s1, p) =>
          match s1.tileIn k g r i p grad with
          | .error u => .error u
          | .ok x =>
            match updateTile p x with
            | none => .ok (s1.invalidTile k isl r.pgroup t)
            | some o =>
              let alt := (1 - g.live) * r.half
              let ws := [(r.master + alt + 2112 * i, o.w), (r.moment + alt + 2112 * i, o.m), (k.dst + r.work + o.k.length * i, o.k)] ++
                (if p.mode = 1 then [(r.stats + alt + 8192 * i, o.stats)] else [])
              match s1.tileOut k ws with
              | .error u => .error u
              | .ok s2 =>
                let s3 := ((s2.bump64 .updTileLo .updTileHi isl).bump .updSatCnt isl o.sats).countSats isl k.ctx o.sats
                let k1 := { k with tiles := k.tiles ++ [t], work := k.work ++ [⟨t, 0, 0xFF, o.k⟩] }
                .ok (((s3.modColl k.num (fun _ => k1)).workDone k1 own c).landNote k1 isl own c)
  match run with | .ok u => u | .error u => u

/-- The next tile an engine has for its update pipe: the collective, its group, its own range, the chunk, the tile and the gradient. -/
def State.nextTile (s : State) (isl : Nat) : Option (Coll × TGroup × Nat × Nat × Nat × List (BitVec 8)) :=
  firstSome (fun (k : Coll) =>
    if k.op ≠ 6 then none
    else
      match s.tgroup k.ctx k.tgroup, k.desc.ents[k.rank]? with
      | some g, some e =>
        firstSome (fun (v : NodeVal) =>
          if v.lo = 0 ∧ v.log = k.top ∧ engineFor k.mask v.chunk = isl ∧ (k.ownerOf v.chunk).any (fun o => o.fab == s.fabId) then
            ((k.tilesOf e.ownStart v.chunk).find? (fun t => !k.tiles.contains t)).map (fun t =>
              let j := t - (k.start v.chunk / 4 - e.ownStart) / 1024
              (k, g, e.ownStart, v.chunk, t, (v.data.drop (4096 * j)).take 4096))
          else none) k.vals
      | _, _ => none) s.colls

/-- R332: the update pipe of an island computes its next tile. -/
def execUpdateTile (island : Nat) (s : State) : Out :=
  match s.nextTile island with
  | none => .next s
  | some (k, g, own, c, t, grad) => .next (s.doTile k g island own c t grad)

end Sys2Proof.Machine
end

