-- ==== Sys2Proof/Machine/Train.lean ====
section
/-! DEFINITION. Training groups: binding, publishing, and the seals of their steps (R334 to R342). -/
namespace Sys2Proof.Machine

/-- The training group a learning record names. -/
def Entry.tg (e : Entry) : Nat := e.u 0x30 2

/-- A learning record other than a stage run, where its group is bound. -/
def State.withTg (s : State) (e : Entry) (f : TGroup → State) : State :=
  match s.tgroup e.ctx e.tg with
  | none => s.endOp e St.tgUnknown e.tg
  | some g => f g

/-- A stage run, a seal or a collective of the group is in progress (R336, R373). -/
def State.tgBusy (s : State) (ctx id : Nat) (colls : Bool) : Bool :=
  s.runs.any (fun r => r.ctx == ctx && r.tgroup == id) || (s.tgroup ctx id).any (fun g => g.sealRun.isSome) ||
    (colls && s.colls.any (fun k => k.ctx == ctx && k.tgroup == id))

/-- R336: a training group is bound, or its descriptor replaced. What a malformed descriptor ends with, the spec does not say (log entry 32). -/
def State.bindOp (s : State) (e : Entry) : State :=
  let a := e.u 0x38 6
  let o := ReadOwner.op 13 ((e.ctx * 16 + e.stream) * 2 ^ 64 + e.seq)
  let bad (r : DvaRead) : State := let f := (s.dropReads o).readEnd e.ctx 6 0 r; f.1.endOp e f.2.1 f.2.2
  if s.tgBusy e.ctx e.tg true then s.endOp e St.tgBusy e.tg
  else
    match s.dvaRead e.ctx a 32 o false with
    | .wait u => u
    | .ok hd =>
      let n := leAt hd 4 4
      if leAt hd 0 4 ≠ 0x54475250 ∨ n = 0 ∨ 10240 < n then (s.dropReads o).endOp e St.groupRefused 1
      else
        (match s.dvaRead e.ctx (a + 32) (8 * n) o false with
        | .wait u => u
        | .ok b =>
          let mems := (List.range n).map (fun i => let w := leAt b (8 * i) 4; (⟨bits w 13 0, bits w 21 16, bits w 28 24⟩ : TgMem))
          let s1 := s.dropReads o
          (match s1.tgroup e.ctx e.tg with
          | some _ => (s1.modTg e.ctx e.tg (fun g => { g with desc := a, mems := mems, sched := leAt hd 8 6 })).endOp e 0 0
          | none =>
            if 256 ≤ s1.tgs.length then s1.endOp e St.groupRefused 1
            else ({ s1 with tgs := s1.tgs ++ [⟨e.ctx, e.tg, a, mems, leAt hd 8 6, 0, 0, 0, 0, none, none, [], []⟩] } : State).endOp e 0 0)
        | r => bad r)
    | r => bad r

def execBind (ctx stream seq : Nat) (s : State) : Out := s.withOp ctx stream seq 7 3 s.bindOp

/-- R334: a new generation of preconditioner roots is marked pending. -/
def State.publishOp (s : State) (e : Entry) : State :=
  s.withTg e (fun g =>
    if e.u 0x34 4 ≠ g.rootGen + 1 ∨ g.publish.isSome then s.endOp e St.publishRefused g.rootGen
    else (s.modTg e.ctx e.tg (fun g => { g with publish := some (e.u 0x34 4) })).endOp e 0 0)

def execPublish (ctx stream seq : Nat) (s : State) : Out := s.withOp ctx stream seq 7 4 s.publishOp

/-- The seal of a step has been decided on this module, or no seal of it is needed (R277, R278, R337). -/
def TGroup.decided (g : TGroup) (step : Nat) : Bool := decide (step ≤ g.sealed) || g.past.any (fun p => p.1 == step)

/-- A seal record of a step that a waiting record can wait for (R278). -/
def State.sealHeld (s : State) (e : Entry) (tg step : Nat) : Bool :=
  s.entries.any (fun x => x.ctx == e.ctx && x.kind == 7 && x.op == 2 && x.tg == tg && x.u 0x34 4 == step && !x.done &&
    !(x.stream == e.stream && decide (e.seq ≤ x.seq)))

/-- The open turn stands on the group (R375). -/
def State.turnOnGroup (s : State) (ctx id : Nat) : Option Nat := (s.turn.filter (fun u => u.ctx == ctx && u.tgroup == id)).map (fun u => u.ctx)

/-- R337: a seal starts once the seal of the step before is decided. -/
def State.sealOp (s : State) (e : Entry) : State :=
  s.withTg e (fun g =>
    let step := e.u 0x34 4
    match s.turnOnGroup e.ctx e.tg with
    | some c => s.endOp e St.turnInProgress c
    | none =>
      if step ≤ g.sealed then s.endOp e St.stepOrder g.sealed
      else if !g.decided (step - 1) then (if s.sealHeld e e.tg (step - 1) then s else s.endOp e St.stepOrder g.sealed)
      else if g.sealRun.isSome then s
      else
        (s.begin e).modTg e.ctx e.tg (fun g => { g with
          past := g.past.filter (fun p => p.1 != step)
          sealRun := some ⟨e.stream, e.seq, step, e.u 0x38 4, e.u 0x3C 4, false, Ballot.start s.ptime⟩ }))

def execSeal (ctx stream seq : Nat) (s : State) : Out := s.withOp ctx stream seq 7 2 s.sealOp

/-- R341: this module is to vote abort on a seal it has not voted on. -/
def State.sealAbortOp (s : State) (e : Entry) : State :=
  s.withTg e (fun g =>
    let step := e.u 0x34 4
    let s1 :=
      match g.sealRun with
      | some x => if x.step = step then s.modTg e.ctx e.tg (fun g => { g with sealRun := some { x with abortReq := true } })
                  else s.account e.ctx e.tg step (fun a => { a with failed := a.failed + 1 })
      | none => if g.decided step then s else s.account e.ctx e.tg step (fun a => { a with failed := a.failed + 1 })
    s1.endOp e 0 0)

def execSealAbort (ctx stream seq : Nat) (s : State) : Out := s.withOp ctx stream seq 7 5 s.sealAbortOp

/-! ### Ballots (R338 to R340, R376) -/

/-- What is voted on: the seal of a step of a group, or the open turn. -/
inductive Topic where
  | sealOf (ctx tg step : Nat)
  | turnOf
deriving DecidableEq, Repr

/-- The members who vote: fabric identifier, context, engine. -/
def State.voters (s : State) : Topic → List TgMem
  | .sealOf c g _ => ((s.tgroup c g).map (fun x => x.mems)).getD []
  | .turnOf => (s.turn.map (fun u => u.desc.members.map (fun e => (⟨e.fab, e.ctx, engineFor e.engines 0⟩ : TgMem)))).getD []

/-- The ballot of a topic, where one is in progress. -/
def State.ballot (s : State) : Topic → Option Ballot
  | .sealOf c g st => ((s.tgroup c g).bind (fun x => x.sealRun)).bind (fun x => if x.step = st then some x.ballot else none)
  | .turnOf => s.turn.map (fun u => u.ballot)

def State.setBallot (s : State) (t : Topic) (b : Ballot) : State :=
  match t with
  | .sealOf c g _ => s.modTg c g (fun x => { x with sealRun := x.sealRun.map (fun y => { y with ballot := b }) })
  | .turnOf => { s with turn := s.turn.map (fun u => { u with ballot := b }) }

/-- A ballot message: a vote (7), a decision (8) or a query (9). TAG names the group or the turn, CHUNK the step; NODE_LO 1 marks a turn; NODE_LOG2 carries 1 for commit,
0 for abort, 3 for an abort by timeout; EPOCH the rank of the sender, or of the first abort vote (log entry 33). -/
def State.ballotMsg (s : State) (t : Topic) (isl : Nat) (dst : TgMem) (kind val rank : Nat) : Msg :=
  let names : Nat × Nat × Nat := match t with | .sealOf _ g st => (g, st, 0) | .turnOf => ((s.turn.map (fun u => u.tag)).getD 0, 0, 1)
  { tag := names.1, dctx := dst.ctx, disl := dst.isl, sisl := isl, sfab := s.fabId, dfab := dst.fab, msg := kind, chunk := names.2.1, lo := names.2.2, log := val,
    attempt := 0, epoch := rank, crc := 0, sctx := 0, again := false, turn := false, data := [] }

/-- This module's rank among the voters, and its engine. -/
def State.voterRank (s : State) (t : Topic) : Option (Nat × TgMem) :=
  match (s.voters t).findIdx? (fun m => m.fab == s.fabId) with
  | none => none
  | some r => ((s.voters t)[r]?).map (fun m => (r, m))

/-- The topic that a ballot message is about, on this module. -/
def State.topicOf (s : State) (m : Msg) : Option Topic :=
  if m.lo = 1 then (s.turn.bind (fun u => if u.tag = m.tag then some .turnOf else none))
  else if (s.tgroup m.dctx m.tag).isSome then some (.sealOf m.dctx m.tag m.chunk) else none

/-- A vote or a decision that has come enters its ballot. -/
def Ballot.take (b : Ballot) (rank0 : Bool) (m : Msg) : Ballot :=
  let com := m.log == 1
  let r := m.epoch
  if m.msg = 8 then
    { b with
      answers := (r, .decided com) :: b.answers
      decision := if b.decision.isSome then b.decision else some com
      firstAbort := if com || b.decision.isSome then b.firstAbort else r }
  else
    { b with
      answers := (r, .vote com) :: b.answers
      votes := if rank0 && !b.votes.any (fun v => v.1 == r) then b.votes ++ [(r, com)] else b.votes
      firstAbort := if com || (b.votes.any (fun v => !v.2)) then b.firstAbort else (if m.log = 3 then 0xFFFF else r) }

/-- Ballot messages at an engine for a topic enter its ballot. -/
def State.takeBallots (s : State) (t : Topic) : State :=
  match s.voterRank t, s.ballot t with
  | some (r, me), some b =>
    let mine (x : InMsg) : Bool := (x.m.msg == 7 || x.m.msg == 8) && x.m.dfab == s.fabId && s.topicOf x.m == some t
    let ms := (s.eng me.isl).inbox.filter mine
    let s1 := ms.foldl (fun u x => u.freeVia x.via) (s.modEng me.isl (fun e => { e with inbox := e.inbox.filter (fun x => !mine x) }))
    s1.setBallot t (ms.foldl (fun c x => c.take (r == 0) x.m) b)
  | _, _ => s

/-- This module votes; its vote is durable, and is sent to rank 0 (R338). -/
def State.castVote (s : State) (t : Topic) (commit timeout : Bool) : State :=
  match s.voterRank t, s.ballot t, (s.voters t).head? with
  | some (r, me), some b, some zero =>
    if b.vote.isSome then s
    else
      let val := if commit then 1 else if timeout then 3 else 0
      let m := s.ballotMsg t me.isl zero 7 val r
      let b1 := { b with vote := some commit, asked := s.ptime }
      if r = 0 then s.setBallot t (b1.take true m) else (s.setBallot t b1).control me.isl m
  | _, _, _ => s

/-- Rank 0 decides: abort on the first abort vote, commit when every member has voted commit; the decision is durable and is sent to every member (R339). -/
def State.decideBallot (s0 : State) (t : Topic) : State :=
  let s := s0.takeBallots t
  match s.voterRank t, s.ballot t with
  | some (0, me), some b =>
    let n := (s.voters t).length
    let abort := b.votes.any (fun v => !v.2)
    let commit := (List.range n).all (fun i => b.votes.any (fun v => v.1 == i && v.2))
    if b.decision.isSome ∨ !(abort || commit) then s
    else
      let d := !abort
      let c := match t with | .sealOf c _ _ => c | .turnOf => (s.turn.map (fun u => u.ctx)).getD 0
      let s1 := (s.setBallot t { b with decision := some d }).txnLog c 0 s.freeSlot
      ((s.voters t).filter (fun m => m.fab != s.fabId)).foldl (fun u m => u.control me.isl (u.ballotMsg t me.isl m 8 (b2n d) (if d then 0 else b.firstAbort))) s1
  | _, _ => s

/-- Members' answers resolve a ballot whose decision has not come (R340). -/
def Ballot.resolve (b : Ballot) : Ballot :=
  if b.decision.isSome then b
  else if b.answers.any (fun a => a.2 == .decided true) then { b with decision := some true }
  else
    match b.answers.find? (fun a => a.2 == .decided false || a.2 == .vote false) with
    | some a => { b with decision := some false, firstAbort := a.1 }
    | none => b

/-- A voter without a decision asks every member after each limit (R340); `stuck` is what it raises on waiting further. -/
def State.askMembers (s0 : State) (t : Topic) (limit : Nat) (stuck : State → State) : State :=
  let s := s0.takeBallots t
  match s.voterRank t, s.ballot t with
  | some (_, me), some b =>
    if b.vote ≠ some true then s
    else
      let b1 := b.resolve
      if b1.decision.isSome then s.setBallot t b1
      else if s.ptime < b.asked + limit then s
      else
        let s1 := ((s.voters t).filter (fun m => m.fab != s.fabId)).foldl (fun u m => u.control me.isl (u.ballotMsg t me.isl m 9 0 ((s.voterRank t).map (fun r => r.1) |>.getD 0)))
          (s.setBallot t { b with asked := s.ptime })
        if b.asked = b.began then s1 else stuck s1
  | _, _ => s

/-! ### Seals -/

/-- References held by stage runs of a step of a group (R285). -/
def State.refsOf (s : State) (ctx tg step : Nat) : Nat :=
  ((s.runs.filter (fun r => r.ctx == ctx && r.tgroup == tg && r.step == step)).map (fun r => r.halves.length)).sum

/-- The seal in progress of a group as a topic. -/
def TGroup.topic (g : TGroup) : Option (Seal × Topic) := g.sealRun.map (fun x => (x, .sealOf g.ctx g.id x.step))

/-- What a member votes on a seal, where it can vote now: its vote, and whether a timeout is why (R338). -/
def State.sealVote (s : State) (g : TGroup) (x : Seal) : Option (Bool × Bool) :=
  let a := g.acctOf x.step
  let running := s.runs.any (fun r => r.ctx == g.ctx && r.tgroup == g.id && r.step == x.step)
  let ended := !running && decide (x.runs ≤ a.runsOk + a.runsBad)
  if x.abortReq ∨ a.runsBad ≠ 0 ∨ a.failed ≠ 0 ∨ (ended ∧ a.opened < x.colls) then some (false, false)
  else if a.runsOk = x.runs ∧ a.closed = x.colls ∧ s.refsOf g.ctx g.id x.step = 0 then some (true, false)
  else if x.ballot.began + us (s.fld .sealTimeoutLimit g.ctx) ≤ s.ptime then some (false, true)
  else none

/-- R338: the member makes its vote durable and sends it. -/
def execSealVote (ctx tgroup : Nat) (s : State) : Out :=
  match s.tgroup ctx tgroup with
  | none => .next s
  | some g =>
    match g.topic with
    | none => .next s
    | some (x, t) =>
      match s.sealVote g x with
      | none => .next s
      | some (v, late) => .next (s.castVote t v late)

/-- R339: rank 0 decides. -/
def execSealDecide (ctx tgroup : Nat) (s : State) : Out :=
  match (s.tgroup ctx tgroup).bind TGroup.topic with
  | none => .next s
  | some (_, t) => .next (s.decideBallot t)

/-- R339: the decision is applied as one commit group. -/
def State.applySeal (s : State) (g : TGroup) (x : Seal) (b : Ballot) (commit : Bool) : State :=
  let s1 := s.modTg g.ctx g.id (fun y =>
    let z := { y with sealRun := none, past := (x.step, commit) :: y.past.filter (fun p => p.1 != x.step), acct := y.acct.filter (fun a => a.step != x.step) }
    if commit then
      { z with
        live := 1 - z.live, sealed := x.step
        root := if z.publish.isSome then 1 - z.root else z.root, rootGen := z.publish.getD z.rootGen, publish := none }
    else z)
  if commit then (s1.bump .sealCommitCnt g.ctx).finish g.ctx x.stream x.seq 0 0
  else ((s1.bump .sealAbortCnt g.ctx).raise 0x25 g.ctx 0).finish g.ctx x.stream x.seq St.sealAborted b.firstAbort

def execSealApply (ctx tgroup : Nat) (s : State) : Out :=
  match (s.tgroup ctx tgroup).bind TGroup.topic with
  | none => .next s
  | some (_, t) =>
    let s1 := s.takeBallots t
    match s1.tgroup ctx tgroup, s1.ballot t with
    | some g, some b =>
      (match g.sealRun, b.decision with
      | some x, some d => .next (s1.applySeal g x b d)
      | _, _ => .next s1)
    | _, _ => .next s1

/-- R340: a voted member without a decision asks every member and follows their answers. -/
def execSealTimeout (ctx tgroup : Nat) (s : State) : Out :=
  match (s.tgroup ctx tgroup).bind TGroup.topic with
  | none => .next s
  | some (_, t) => .next (s.askMembers t (us (s.fld .sealTimeoutLimit ctx)) (fun u => u.raise 0x25 ctx 1))

/-- What a member answers about a topic: the kind and value of the message, with the state in which an unvoted member has recorded its abort vote. -/
def State.ballotAnswer (s : State) (m : Msg) : State × Nat × Nat :=
  let past : Option Bool := if m.lo = 1 then (s.turnPast.find? (fun p => p.1 == m.dctx * 2 ^ 48 + m.tag)).map (fun p => p.2)
    else (s.tgroup m.dctx m.tag).bind (fun g => if m.chunk ≤ g.sealed ∧ g.past.all (fun p => p.1 != m.chunk) then some true else (g.past.find? (fun p => p.1 == m.chunk)).map (fun p => p.2))
  match past with
  | some d => (s, 8, b2n d)
  | none =>
    match (s.topicOf m).bind (fun t => (s.ballot t).map (fun b => (t, b))) with
    | some (t, b) =>
      (match b.decision, b.vote with
      | some d, _ => (s, 8, b2n d)
      | none, some v => (s, 7, b2n v)
      | none, none => (s.castVote t false false, 7, 0))
    | none => (if m.lo = 1 then s else s.account m.dctx m.tag m.chunk (fun a => { a with failed := a.failed + 1 }), 7, 0)

/-- R340: a member that is asked answers; one that had not voted records an abort vote. -/
def execSealQuery (island : Nat) (s : State) : Out :=
  match s.takeKind island 9 with
  | none => .next s
  | some (m, s1) =>
    let a := s1.ballotAnswer m
    let t := (s1.topicOf m).getD .turnOf
    let r := ((s1.voterRank t).map (fun x => x.1)).getD 0
    let ask := ((s1.voters t)[m.epoch]?).map (fun x => x.ctx)
    .next (a.1.control island { m with dfab := m.sfab, disl := m.sisl, dctx := ask.getD m.dctx, sfab := m.dfab, sisl := m.disl, msg := a.2.1, log := a.2.2, epoch := r })

end Sys2Proof.Machine
end

