-- ==== Sys2Proof/Machine/Stage.lean ====
section
/-! DEFINITION. Stage runs of a learning step: the program and its checks, units and entries, hand-offs, and the check of quantised entries (R276 to R304). -/
namespace Sys2Proof.Machine

/-! ### The stage program (R279 to R282) -/

/-- Pieces of a context's memory read in order. -/
def State.readParts (s : State) (ctx : Nat) (o : ReadOwner) : List (Nat × Nat) → Except DvaRead (List (List (BitVec 8)))
  | [] => .ok []
  | (a, n) :: rest =>
    match s.dvaRead ctx a n o false with
    | .ok b => (match s.readParts ctx o rest with | .ok bs => .ok (b :: bs) | .error r => .error r)
    | r => .error r

/-- A list entry of 96 bytes, and a layer-table entry of 32. -/
def parseSEnt (b : List (BitVec 8)) : SEnt :=
  let f := leAt b 0x56 1
  ⟨b.take 0x50, leAt b 0x50 4, leAt b 0x54 2, bit f 4, bit f 3, bit f 2, bit f 1, leAt b 0x57 1, leAt b 0x58 2, leAt b 0x5A 2, leAt b 0x5C 4⟩

def parseSLayer (b coll : List (BitVec 8)) : SLayer := ⟨leAt b 0 6, leAt b 8 6, coll, leAt b 0x10 6 == 0⟩

/-- Fields and reserved bits of a list entry (DETAIL 2). -/
def sentOk (layers : Nat) (b : List (BitVec 8)) : Bool :=
  let f := leAt b 0x56 1
  leAt b 0x50 4 % 32 == 0 && bits f 7 5 == 0 && !bit f 0 && decide (leAt b 0x57 1 < 0xFD) && (leAt b 0x54 2 == 0xFFFF || decide (leAt b 0x54 2 < layers))

/-- ALT and FOLLOW of a list (DETAIL 4). -/
def linksOk (fwd es : List SEnt) : Bool :=
  es.all (fun e =>
    (!e.quant || (es[e.alt]?).any (fun a => a.variant)) && (!(e.recomp && e.quant) || (fwd[e.follow]?).any (fun a => a.quant)))

/-- HANDOFF only for layers that are not frozen, once for each (DETAIL 5). -/
def handoffsOk (ls : List SLayer) (es : List SEnt) : Bool :=
  let hs := (es.filter (fun e => e.handoff)).map (fun e => e.layer)
  hs.all (fun l => (ls[l]?).any (fun x => !x.frozen)) && (noDups hs).length == hs.length

/-- What reading a stage program answers. -/
inductive ProgRead where
  | wait (s : State)
  | fail (s : State) (status detail : Nat)
  | ok (p : SProg)

/-- The header's fields and reserved bits (DETAIL 2). -/
def stageHeadOk (h : List (BitVec 8)) : Bool :=
  let n (o k : Nat) := leAt h o k
  let addr (o al : Nat) : Bool := n (o + 6) 2 == 0 && n o 6 % al == 0
  decide (1 ≤ n 7 1) && decide (n 7 1 ≤ 64) && decide (n 6 1 < n 7 1) && decide (1 ≤ n 8 2) && decide (n 8 2 ≤ 256) && decide (1 ≤ n 0xA 2) && decide (n 0xA 2 ≤ 1024) &&
    decide (n 0xC 2 ≤ 1024) && n 0xE 2 == 0 && addr 0x10 32 && addr 0x18 32 && addr 0x20 32 && addr 0x28 1 && addr 0x30 1 && n 0x38 8 == 0

/-- A stage program read once and checked (R279, R282). -/
def State.readStage (s : State) (e : Entry) : ProgRead :=
  let o := ReadOwner.op 14 ((e.ctx * 16 + e.stream) * 2 ^ 64 + e.seq)
  let bad (r : DvaRead) : ProgRead :=
    match r with
    | .wait u => .wait u
    | r => let f := (s.dropReads o).readEnd e.ctx 6 0 r; .fail f.1 f.2.1 f.2.2
  let refuse (d : Nat) : ProgRead := .fail (s.dropReads o) St.stageRefused d
  match s.dvaRead e.ctx (e.u 0x38 6) 64 o false with
  | .ok h =>
    let n (o k : Nat) := leAt h o k
    if n 0 4 ≠ 0x4C524E50 ∨ n 4 2 ≠ 1 then refuse 1
    else if !stageHeadOk h then refuse 2
    else
      let L := n 8 2
      let F := n 0xA 2
      let B := n 0xC 2
      let rf := if n 6 1 = 0 then [] else [(n 0x28 6, 80)]
      let rb := if n 6 1 + 1 = n 7 1 then [] else [(n 0x30 6, 80)]
      (match s.readParts e.ctx o ([(n 0x10 6, 96 * F), (n 0x18 6, 96 * B), (n 0x20 6, 32 * L)] ++ rf ++ rb) with
      | .error r => bad r
      | .ok parts =>
        let cut (k m : Nat) (b : List (BitVec 8)) : List (List (BitVec 8)) := (List.range m).map (fun i => (b.drop (k * i)).take k)
        let fb := cut 96 F (parts.getD 0 [])
        let bb := cut 96 B (parts.getD 1 [])
        let lb := cut 32 L (parts.getD 2 [])
        (match s.readParts e.ctx o (lb.map (fun b => (leAt b 0x10 6, if leAt b 0x10 6 = 0 then 0 else 80))) with
        | .error r => bad r
        | .ok colls =>
          let ls := (lb.zip colls).map (fun p => parseSLayer p.1 p.2)
          let fwd := fb.map parseSEnt
          let bwd := bb.map parseSEnt
          let islands := (List.range 24).filter (fun i => bit (e.u 0x30 4) i)
          if !((fb ++ bb).all (sentOk L)) ∨ !(lb.all (fun b => leAt b 6 2 == 0 && leAt b 0xE 2 == 0 && leAt b 0x16 2 == 0 && leAt b 0x1C 4 == 0)) then refuse 2
          else if islands.any (fun i => s.role i != 2) then refuse 3
          else if !(linksOk fwd fwd && linksOk fwd bwd) then refuse 4
          else if !handoffsOk ls (fwd ++ bwd) then refuse 5
          else if !((fb ++ bb).all (fun b => descOk (b.take 0x50))) then refuse 6
          else .ok ⟨n 6 1, n 7 1, ls, fwd, bwd, if rf.isEmpty then [] else parts.getD 3 [], if rb.isEmpty then [] else parts.getD (3 + rf.length) []⟩))
  | r => bad r

/-! ### Runs (R277, R278, R283 to R286, R295) -/

def State.modRun (s : State) (num : Nat) (f : Run → Run) : State := { s with runs := s.runs.map (fun r => if r.num = num then f r else r) }

def State.findRun (s : State) (num : Nat) : Option Run := s.runs.find? (fun r => r.num == num)

/-- The order of the units: forward or backward, and the micro-batch (R283). -/
def Run.order (r : Run) : List (Bool × Nat) :=
  let w := min (r.prog.stages - 1 - r.prog.stage) r.m
  let all := (List.range w).map (fun i => (true, i)) ++ (List.range (r.m - w)).flatMap (fun i => [(true, w + i), (false, i)]) ++
    (List.range w).map (fun i => (false, r.m - w + i))
  if r.prog.bwd.isEmpty then all.filter (fun u => u.1) else all

/-- A unit has a receive (R284). -/
def Run.receives (r : Run) (u : Bool × Nat) : Bool := if u.1 then r.prog.stage != 0 else r.prog.stage + 1 != r.prog.stages

/-- The receive of a unit opens where the window has room (R284, R310, R314). -/
def State.openReceive (s : State) (r : Run) (i : Nat) : State :=
  match r.order[i]? with
  | none => s
  | some u =>
    if !r.receives u ∨ r.opened.contains u then s
    else
      let b := if u.1 then r.prog.recvF else r.prog.recvB
      let k0 := collOf b r.ctx s.collNum (.recv r.num u.1 u.2)
      let k := { k0 with tag := (k0.tag + u.2) % 2 ^ 48, dst := k0.dst + u.2 * leAt b 0x2C 4 }
      match s.openColl k 0 (bit (leAt b 0 4) 12) with
      | .ok t => t.modRun r.num (fun x => { x with opened := x.opened ++ [u] })
      | .refuse t st d => t.modRun r.num (fun x => { x with fail := x.fail.or (some (st, d)) })
      | .full => s

/-- A run ends: its references are dropped, and its record commits (R286, R295, R338). -/
def State.endRun (s : State) (r : Run) (status detail : Nat) : State :=
  let n := r.halves.length
  let s1 := ({ s with runs := s.runs.filter (fun x => x.num != r.num) } : State).account r.ctx r.tgroup r.step (fun a =>
    if status = 0 then { a with runsOk := a.runsOk + 1 } else { a with runsBad := a.runsBad + 1 })
  let s2 := if n = 0 then s1 else (s1.bump .lrnOrphanCnt r.ctx n).raise 0x24 r.ctx 1
  (s2.dropUnit (.entry r.unitId)).finish r.ctx r.stream r.seq status detail

/-- Islands whose role the open turn changes (R375). -/
def Turn.changes (u : Turn) (i : Nat) : Bool := bits u.roles (2 * i + 1) (2 * i) != 0

/-- R276 to R279: a stage run starts, waits, or is turned away. -/
def State.stageOp (s : State) (e : Entry) : State :=
  let tg := e.u 0x40 2
  let step := e.u 0x34 4
  let isl := bits (e.u 0x30 4) 23 0
  match s.tgroup e.ctx tg with
  | none => s.endOp e St.tgUnknown tg
  | some g =>
    let turned := s.turn.filter (fun u => (u.ctx == e.ctx && u.tgroup == tg) || (List.range 24).any (fun i => bit isl i && u.changes i))
    match turned with
    | some u => s.endOp e St.turnInProgress u.ctx
    | none =>
      if step ≤ g.sealed then s.endOp e St.stepOrder g.sealed
      else if !g.decided (step - 1) then (if s.sealHeld e tg (step - 1) then s else s.endOp e St.stepOrder g.sealed)
      else if s.runs.any (fun r => r.ctx == e.ctx && r.tgroup == tg && r.step == step && (r.islands &&& isl) != 0) then s
      else
        match s.readStage e with
        | .wait u => u
        | .fail u st d => (u.account e.ctx tg step (fun a => { a with runsBad := a.runsBad + 1 })).endOp e st d
        | .ok p =>
          let s1 := ((s.dropReads (.op 14 ((e.ctx * 16 + e.stream) * 2 ^ 64 + e.seq))).begin e).setFld .lrnStep step e.ctx
          let r : Run :=
            { num := s1.runNum, ctx := e.ctx, stream := e.stream, seq := e.seq, islands := isl, step := step, tgroup := tg, m := bits (e.u 0x44 4) 11 0 + 1, prog := p,
              force := s.fld .qntCtlForce e.ctx, limits := s.quantLimits e.ctx, unit := 0, started := false, idx := 0, task := none, unitId := s1.runNum * 2 ^ 32, wide := false, admitted := false,
              checked := false, halves := [], fell := [], handed := [], hold := [], opened := [], recvd := [], fail := none, class_ := s.recClass e }
          ({ s1 with runs := s1.runs ++ [r], runNum := s1.runNum + 1 } : State).openReceive r 0

def execStageRun (ctx stream seq : Nat) (s : State) : Out := s.withOp ctx stream seq 7 1 s.stageOp

/-- R278: a stage run or a seal that waits for a seal which can no longer come commits with "step out of order". -/
def execStepOutOfOrder (ctx stream seq : Nat) (s : State) : Out :=
  match s.entry ctx stream seq with
  | none => .next s
  | some e =>
    let tg := if e.op = 1 then e.u 0x40 2 else e.tg
    match s.tgroup ctx tg with
    | none => .next s
    | some g =>
      let step := e.u 0x34 4
      when (e.ripe 7 && (e.op == 1 || e.op == 2) && !g.decided (step - 1) && !s.sealHeld e tg (step - 1)) (s.endOp e St.stepOrder g.sealed) s

/-- R284: the next unit of a run starts once the unit before it has committed and its receive has completed; the receive of the unit after it opens. -/
def execStageUnitStart (run : Nat) (s : State) : Out :=
  match s.findRun run with
  | none => .next s
  | some r =>
    match r.order[r.unit]?, r.fail with
    | some u, none =>
      if r.started then .next (s.openReceive r (r.unit + 1))
      else if r.receives u ∧ !r.recvd.contains u then .next (s.openReceive r r.unit)
      else .next ((s.modRun run (fun x => { x with started := true, idx := 0 })).openReceive r (r.unit + 1))
    | _, _ => .next s

/-- The list a unit runs, and the key of an entry of it among those that fell back. -/
def Run.list (r : Run) (fwd : Bool) : List SEnt := if fwd then r.prog.fwd else r.prog.bwd
def fellKey (fwd : Bool) (i : Nat) : Nat := if fwd then i else 2048 + i
def noFall (_ : Nat) : Option Nat := none
def Run.fellAt (r : Run) (fwd : Bool) (i : Nat) : Option Nat := Tbl.get noFall r.fell (fellKey fwd i)

/-- The next entry of a unit's list that runs in its own right (R284). -/
def nextEntry (es : List SEnt) (i : Nat) : Option Nat := ((List.range es.length).drop i).find? (fun j => (es[j]?).any (fun e => !e.variant))

/-- How an entry runs: speculatively, as its wide variant, and whether that is under the latch (R288, R302 to R304). -/
structure Mode where
  spec : Bool
  wide : Bool
  latch : Bool
deriving DecidableEq, Repr

def Run.mode (r : Run) (fwd : Bool) (mb i : Nat) (e : SEnt) : Mode :=
  if !e.quant then ⟨false, false, false⟩
  else if e.recomp then ⟨false, r.force == 2 || (r.force == 0 && (r.fellAt true e.follow).any (fun j => decide (j ≤ mb))), false⟩
  else if r.force = 1 then ⟨false, false, false⟩
  else if r.force = 2 then ⟨false, true, false⟩
  else if r.wide then ⟨false, true, false⟩
  else match r.fellAt fwd i with | some _ => ⟨false, true, true⟩ | none => ⟨true, false, false⟩

/-- The entry a run is at: the direction and micro-batch of its unit, the index and the entry. -/
def Run.at (r : Run) : Option (Bool × Nat × Nat × SEnt) :=
  match r.order[r.unit]? with
  | none => none
  | some u =>
    if !r.started then none
    else (nextEntry (r.list u.1) r.idx).bind (fun i => ((r.list u.1)[i]?).map (fun e => (u.1, u.2, i, e)))

/-- The task of an entry for a micro-batch (R280). -/
def Run.taskOf (r : Run) (failInv : Bool) (mb i : Nat) (e : SEnt) (spec : Bool) : Task :=
  let x := mkTask e.desc r.ctx r.stream r.seq (.stage i r.unit) spec failInv
  { x with islands := x.islands &&& r.islands, step := r.step, args := x.args + mb * e.stride }

/-- An entry of a run has committed (R284, R285, R294): its unit of energy is done, and its layer waits to be handed off. -/
def State.entryDone (s : State) (r : Run) (mb i : Nat) (e : SEnt) (t : Nat) : State :=
  let once := (s.task t).execs == 1 && !r.wide
  let s1 := s.calibrate r.ctx e.eclass e.est (s.unitNj (.entry r.unitId)) once
  ((s1.dropTaskRec t).dropUnit (.entry r.unitId)).modRun r.num (fun x => { x with
    idx := i + 1, task := none, unitId := x.unitId + 1, wide := false, admitted := false, checked := false
    hold := if e.handoff ∧ mb + 1 = x.m then x.hold ++ [(e.layer, false)] else x.hold })

/-- The unit has no further entry: the next one may start, and its micro-batch's reference is released with its last unit (R284, R285). -/
def State.unitDone (s : State) (r : Run) (u : Bool × Nat) : State :=
  let last := !u.1 || r.prog.bwd.isEmpty
  s.modRun r.num (fun x => { x with
    unit := x.unit + 1, started := false, idx := 0
    halves := if last then x.halves.filter (fun h => h.1 != u.2) else x.halves })

/-- R284, R288, R303: a run goes on with its list: the entry that has ended commits, the next one starts once it is admitted, and the run ends after the last or on a
failure (R295). -/
def execStageEntryStart (run : Nat) (s : State) : Out :=
  match s.findRun run with
  | none => .next s
  | some r =>
    match r.fail, r.order[r.unit]? with
    | some (st, d), _ =>
      (match r.task with
      | none => .next (s.endRun r st d)
      | some t => if (s.task t).st = .ended then .next (((s.settle t false).dropTaskRec t).endRun r st d) else .next (s.failTask t st d))
    | none, none => when (r.hold.isEmpty) (s.endRun r 0 0) s
    | none, some u =>
      if !r.started then .next s
      else
        match r.at with
        | none => .next (s.unitDone r u)
        | some (fwd, mb, i, e) =>
          match r.task with
          | some t =>
            let x := s.task t
            if x.st ≠ .ended then .next s
            else if x.status ≠ 0 then .next (((s.settle t false).dropTaskRec t).endRun r x.status x.detail)
            else if x.spec ∧ !x.applied then .next s
            else .next ((s.settle t true).entryDone r mb i e t)
          | none =>
            if !r.admitted then .next s
            else
              let md := r.mode fwd mb i e
              let run1 := if md.wide then ((r.list fwd)[e.alt]?).getD e else e
              let fi := (s.entry r.ctx r.stream r.seq).any (fun x => x.failInvalid)
              match s.placeTask (r.taskOf fi mb i run1 md.spec) with
              | .wait u => .next u
              | .fail u st d => .next (u.endRun r st d)
              | .ok s1 t =>
                let live := ((s.tgroup r.ctx r.tgroup).map (fun g => g.live)).getD 0
                let s2 := if md.latch then s1.bump .qntLatchCnt r.ctx else s1
                .next (s2.modRun run (fun x => { x with
                  task := some t, wide := md.wide
                  halves := if fwd && x.halves.all (fun h => h.1 != mb) && i == ((nextEntry r.prog.fwd 0).getD 0) then x.halves ++ [(mb, live)] else x.halves }))

/-- R302: a quantised entry's task at its commit point passes the check, or is discarded and its wide variant runs in its place. -/
def execQuantCheck (run : Nat) (s : State) : Out :=
  match s.findRun run with
  | none => .next s
  | some r =>
    match r.at, r.task with
    | some (fwd, mb, i, _), some t =>
      let x := s.task t
      if !x.spec ∨ x.st ≠ .ended ∨ x.status ≠ 0 ∨ x.applied ∨ r.checked then .next s
      else if quantCheck r.limits x = 0 then .next (s.modRun run (fun y => { y with checked := true }))
      else
        let s1 := ((s.settle t false).dropTaskRec t).modRun run (fun y => { y with task := none, wide := true, fell := Tbl.set noFall y.fell (fellKey fwd i) (some mb) })
        .next ((s1.bump .qntFallbackCnt r.ctx).raise 0x24 r.ctx 0)
    | _, _ => .next s

/-- R294, R314: the first hand-off that waits is issued, or held while the matching window is full. -/
def execHandOff (run : Nat) (s : State) : Out :=
  match s.findRun run with
  | none => .next s
  | some r =>
    match r.hold with
    | [] => .next s
    | (l, counted) :: rest =>
      match r.prog.layers[l]? with
      | none => .next (s.modRun run (fun x => { x with hold := rest }))
      | some ly =>
        let b := ly.coll
        let k0 := collOf b r.ctx s.collNum (.handoff r.num l)
        let live := ((s.tgroup r.ctx r.tgroup).map (fun g => g.live)).getD 0
        let half := if k0.op = 6 then 1 - live else 0
        let k := { k0 with
          step := r.step, tgroup := r.tgroup, src := if r.m % 2 = 1 then ly.accA else ly.accB, half := half, dst := k0.dst + half * leAt b 0x2C 4 }
        let issued (t : State) : State := (t.modRun run (fun x => { x with hold := rest, handed := x.handed ++ [l] })).bump .lrnHandoffCnt r.ctx
        match s.openColl k (leAt b 0x10 6) (bit (leAt b 0 4) 12) with
        | .ok t => .next (issued t)
        | .refuse t _ _ => .next (issued (t.account r.ctx r.tgroup r.step (fun a => { a with opened := a.opened + 1, failed := a.failed + 1 })))
        | .full => when (!counted) ((s.modRun run (fun x => { x with hold := (l, true) :: rest })).bump .lrnHandoffHeld r.ctx) s

end Sys2Proof.Machine
end

