-- ==== Sys2Proof/Machine/Straits.lean ====
section
/-! DEFINITION. The straits: training and peer discovery, link frames, replay and credit, and the route table's registers (R386 to R409). -/
namespace Sys2Proof.Machine

/-! ### Frames (R391) -/

/-- Credit units of a frame with a payload of `n` bytes (R397). -/
def frameUnits (n : Nat) : Nat := ceilDiv (n + 20) 256

/-- The bytes of a frame of a strait, with the ACK and credit it gives now. -/
def State.frameOf (s : State) (i type vc : Nat) (first last : Bool) (seq : Nat) (data : List (BitVec 8)) : List (BitVec 8) :=
  let x := s.str i
  let g (v : Nat) := leBytes 2 (Tbl.get vcBuffer x.give v)
  let b := leBytes 4 (type * 2 ^ 28 + vc * 2 ^ 26 + b2n first * 2 ^ 25 + b2n last * 2 ^ 24 + data.length) ++ leBytes 2 seq ++ leBytes 2 x.rxSeq ++
    g 0 ++ g 1 ++ g 2 ++ [0, 0] ++ data
  b ++ leBytes 4 (crc32c b)

/-- A data frame sent. -/
def State.sendFrame (s : State) (i : Nat) (f : Frame) : State := s.emit (.frame i (s.frameOf i 1 f.vc f.first f.last f.seq f.data))

/-- A frame without data sent: idle 0, nack 2, retrain request 4. -/
def State.sendPlain (s : State) (i type : Nat) : State := s.emit (.frame i (s.frameOf i type 0 false false 0 []))

/-- The frame's length and CRC are good. -/
def frameGood (b : List (BitVec 8)) : Bool :=
  let n := bits (leAt b 0 4) 12 0
  decide (n ≤ 4096) && b.length == 20 + n && leAt b (16 + n) 4 == crc32c (b.take (16 + n))

def frameType (b : List (BitVec 8)) : Nat := bits (leAt b 0 4) 31 28

/-- Frames left once an ACK covers those up to a SEQ. -/
def ackFrames (fs : List Frame) (ack : Nat) : List Frame :=
  match fs.findIdx? (fun f => f.seq == ack) with
  | none => fs
  | some k => fs.drop (k + 1)

/-- The ACK and credit fields of a good frame are taken (R392, R393, R397). -/
def State.takeFields (s : State) (i : Nat) (b : List (BitVec 8)) : State :=
  s.modStr i (fun x =>
    let left := ackFrames x.unacked (leAt b 6 2 % 2 ^ 12)
    { x with
      unacked := left
      streak := if left.length < x.unacked.length then 0 else x.streak
      granted := (Tbl.set natZero (Tbl.set natZero (Tbl.set natZero x.granted 0 (leAt b 8 2)) 1 (leAt b 10 2)) 2 (leAt b 12 2)) })

/-! ### Leaving up (R389, R394) -/

/-- Chunks that wait at a strait go back to their engines. -/
def State.requeue (s : State) (i : Nat) : State :=
  let x := s.str i
  let ms := (List.range 3).flatMap (fun vc => Tbl.get noMsgs x.waiting vc ++ Tbl.get noMsgs x.heldMsg vc)
  let s1 := s.modStr i (fun y => { y with waiting := [], heldMsg := [] })
  ms.foldl (fun t m => t.modEng (if m.sfab = s.fabId then m.sisl else i) (fun e => { e with outq := e.outq ++ [m] })) s1

/-- The strait leaves up for a state. -/
def State.leaveUp (s : State) (i st : Nat) : State :=
  let s1 := ((s.setFld .strStatState st i).setFld .strPeerValid 0 i).setFld .strLanesTxActive 0 i
  ((s1.modStr i (fun x => { x with ident := [], same := 0, heldFrame := none })).requeue i).raise 0x16 i 1

/-- A strait that is up retrains (R394). -/
def State.retrain (s : State) (i : Nat) : State :=
  if s.fld .strStatState i ≠ 6 then s
  else ((((s.sendPlain i 4).leaveUp i 2).setFld .strRetrainGo 0 i).bump .strRetrainCnt i).modStr i (fun x => { x with kept := true, streak := 0 })

/-- Every frame unacknowledged is sent again; sixteen such replays without an ACK advancing retrain the strait (R393, R394). -/
def State.replay (s : State) (i : Nat) : State :=
  let s1 := (s.modStr i (fun x => { x with streak := x.streak + 1 })).bump .strReplayCnt i
  let s2 := (s1.str i).unacked.foldl (fun t f => t.sendFrame i f) s1
  if 16 ≤ (s2.str i).streak then s2.retrain i else s2

/-! ### Training (R386 to R389, R395) -/

def execStraitLightDetect (strait lanes : Nat) (s : State) : Out :=
  let st := s.fld .strStatState strait
  let dark := st == 1 || (st == 0 && s.fld .strCtlEn strait == 1 && !s.islOff strait && !s.strTripped strait)
  when (decide (strait < 24) && dark && decide (8 ≤ ones 16 lanes)) ((s.setFld .strStatState 2 strait).modStr strait (fun x => { x with light := lanes % 2 ^ 16 })) s

def execStraitLock (strait lanes : Nat) (s : State) : Out :=
  when (s.fld .strStatState strait == 2 && decide (8 ≤ ones 16 lanes)) ((s.setFld .strStatState 3 strait).setFld .strLanesRxGood (lanes % 2 ^ 16) strait) s

/-- The identity frame a strait sends (R387). -/
def State.identity (s : State) (i : Nat) : List (BitVec 8) :=
  let x := s.str i
  let p := leBytes 4 0x53545249 ++ leBytes 2 s.fabId ++ leBytes 1 i ++ leBytes 1 (s.fld .strCtlLoopback i * 2 + b2n (x.kept && !x.noResume)) ++
    leBytes 4 (s.fld .fabSystem 0) ++ leBytes 2 (s.fld .strLanesRxGood i) ++ leBytes 2 x.rxSeq ++ List.replicate 48 0
  s.frameOf i 3 0 false false 0 p

/-- R386: lane identifiers are read and skew removed; three identity frames are sent. `skew` and `oma` are what the receivers measured on each lane. -/
def execStraitDeskew (strait : Nat) (skew oma : List Nat) (s : State) : Out :=
  if s.fld .strStatState strait ≠ 3 then .next s
  else
    let lane (t : State) (l : Nat) : State :=
      ((t.setFld .strLaneStatLock (b2n (bit (s.fld .strLanesRxGood strait) l)) strait (1 + l)).setFld .strLaneStatSkew (skew.getD l 0) strait (1 + l)).setFld
        .strLaneStatRxOma (oma.getD l 0) strait (1 + l)
    let s1 := ((List.range 16).foldl lane s).setFld .strStatState 4 strait
    let f := s1.identity strait
    .next (((s1.emit (.frame strait f)).emit (.frame strait f)).emit (.frame strait f))

/-- R386: identity frames are compared; the third in a row that is the same, with good CRC, leads to check. -/
def execIdentityFrame (strait : Nat) (frame : List (BitVec 8)) (s : State) : Out :=
  if s.fld .strStatState strait ≠ 4 ∨ frameType frame ≠ 3 ∨ !frameGood frame then .next s
  else
    let p := (frame.drop 16).take 64
    let x := s.str strait
    let n := if x.ident = p then x.same + 1 else 1
    let s1 := s.modStr strait (fun y => { y with ident := p, same := n, peerGood := leAt p 0xC 2 })
    .next (if 3 ≤ n ∧ leAt p 0 4 = 0x53545249 then s1.setFld .strStatState 5 strait else s1)

/-- The code of the first condition of R388 that does not hold; 0 where all hold. -/
def State.peerReason (s : State) (i : Nat) : Nat :=
  let p := (s.str i).ident
  let fab := bits (leAt p 4 2) 13 0
  if s.fabId = 0x3FFF then 1
  else if fab = 0x3FFF then 2
  else if leAt p 8 4 ≠ s.fld .fabSystem 0 then 3
  else if fab = s.fabId ∧ !(s.fld .strCtlLoopback i == 1 && bit (leAt p 7 1) 1) then 4
  else if ones 16 (s.fld .strLanesRxGood i) < 8 ∨ ones 16 (s.str i).peerGood < 8 then 5
  else 0

/-- The lanes used of those usable: all 16, or the 8 lowest-numbered (R388). -/
def lanesUsed (good : Nat) : Nat :=
  if good % 2 ^ 16 = 0xFFFF then 0xFFFF
  else (((List.range 16).filter (fun l => bit good l)).take 8).foldl (fun m l => m + 2 ^ l) 0

/-- R395: the link resumes where both ends offer it to the same peer strait; otherwise both start afresh. -/
def State.startLink (s : State) (i : Nat) (resume : Bool) : State :=
  if resume then
    let ack := bits (leAt (s.str i).ident 0xE 2) 11 0
    let s1 := s.modStr i (fun x => { x with unacked := ackFrames x.unacked ack, nacked := false, streak := 0 })
    (s1.str i).unacked.foldl (fun t f => t.sendFrame i f) s1
  else
    let busy := (s.str i)
    s.modStr i (fun _ =>
      { Strait.reset with light := busy.light, ident := busy.ident, same := busy.same, peerGood := busy.peerGood, waiting := busy.waiting, heldMsg := busy.heldMsg,
                          injSeen := busy.injSeen })

/-- R388, R389: a strait in check goes up, or is refused. -/
def execStraitCheck (strait : Nat) (s : State) : Out :=
  if s.fld .strStatState strait ≠ 5 then .next s
  else
    let r := s.peerReason strait
    if r ≠ 0 then .next (((s.setFld .strStatState 7 strait).setFld .strStatReason r strait).raise 0x16 strait 2)
    else
      let x := s.str strait
      let fab := bits (leAt x.ident 4 2) 13 0
      let num := bits (leAt x.ident 6 1) 4 0
      let same := fab == s.fld .strPeerFabricId strait && num == s.fld .strPeerStrait strait
      let resume := x.kept && !x.noResume && bit (leAt x.ident 7 1) 0 && same
      let narrow := s.fld .strLanesRxGood strait != 0xFFFF || x.peerGood != 0xFFFF
      let s1 := (s.startLink strait resume).modStr strait (fun y => { y with kept := true, noResume := false })
      let s2 := (((s1.setFld .strStatState 6 strait).setFld .strStatReason 0 strait).setFld .strStatWidth8 (b2n narrow) strait).setFld .strStatResumed (b2n resume) strait
      let s3 := (((s2.setFld .strPeerValid 1 strait).setFld .strPeerStrait num strait).setFld .strPeerFabricId fab strait).setFld .strLanesTxActive (lanesUsed x.peerGood) strait
      let s4 := s3.raise 0x16 strait 0
      let s5 := if same then s4 else s4.raise 0x08 0 2
      .next (if narrow then s5.raise 0x16 strait 3 else s5)

/-- R386: a bound passes. -/
def execStraitStateBoundExpiry (strait : Nat) (s : State) : Out :=
  match s.fld .strStatState strait with
  | 2 => .next ((s.setFld .strStatState 1 strait).bump .strLockFailCnt strait)
  | 3 => .next (s.setFld .strStatState 2 strait)
  | 4 => .next ((s.setFld .strStatState 2 strait).modStr strait (fun x => { x with ident := [], same := 0 }))
  | _ => .next s

/-- R394: an active lane loses light or lock, or its error ratio rises above its limit. -/
def execStraitRetrain (strait : Nat) (s : State) : Out := .next (s.retrain strait)

/-- R386, R394: a write of STR_RETRAIN. -/
def State.writeStrRetrain (s : State) (i w : Nat) : State :=
  if !bit w 0 then s
  else if s.fld .strStatState i = 6 then s.retrain i
  else if s.fld .strStatState i = 7 then (s.setFld .strStatState 1 i).setFld .strStatReason 0 i
  else s

def execStraitRetrainGo (strait value : Nat) (s : State) : Out := when (decide (strait < 24)) (s.writeStrRetrain strait value) s

/-- R386, R390: a write of STR_CTL. -/
def State.writeStrCtl (s : State) (i w : Nat) : State :=
  let t := bits w 15 8
  let s1 := if t = 0 then s else s.setFld .strCtlReplayTimeout t i
  let s2 := s1.setFld .strCtlLoopback (if bit w 1 && s.fld .modTestEn 0 == 1 then 1 else 0) i
  let s3 := s2.setFld .strCtlEn (bits w 0 0) i
  let st := s.fld .strStatState i
  if bit w 0 then (if st = 0 ∧ !s.islOff i ∧ !s.strTripped i then s3.setFld .strStatState 1 i else s3)
  else if st = 6 then (s3.leaveUp i 0).modStr i (fun x => { x with kept := false })
  else (s3.setFld .strStatState 0 i).setFld .strStatReason 0 i

def execStraitEnable (strait value : Nat) (s : State) : Out := when (decide (strait < 24)) (s.writeStrCtl strait value) s

/-- R386: a refused strait that loses light on every lane returns to dark. -/
def execStraitLightLost (strait : Nat) (s : State) : Out :=
  when (s.fld .strStatState strait == 7) (((s.setFld .strStatState 1 strait).setFld .strStatReason 0 strait).modStr strait (fun x => { x with light := 0 })) s

/-! ### Frames received (R392 to R398) -/

/-- A whole chunk has come over a strait: to its engine, to the engine of the strait's island where it is to be relayed (R324), or dropped where it came on a channel that is not its own (R398). -/
def State.arriveMsg (s : State) (i vc : Nat) : State :=
  let x := s.str i
  let m := parseMsg x.part
  let via := some (i, vc, x.partUnits)
  let s1 := s.modStr i (fun y => { y with part := [], partUnits := 0 })
  let mine := m.dfab == s.fabId
  if mine != (vc != 2) then (s1.bump .strMisrouteCnt i).freeVia via
  else if mine then s1.modEng m.disl (fun e => { e with inbox := e.inbox ++ [⟨m, via⟩] })
  else s1.modEng i (fun e => { e with inbox := e.inbox ++ [⟨m, via⟩] })

/-- R392: a data frame is accepted in order, or dropped with one nack. -/
def execDataFrameReceive (strait : Nat) (frame : List (BitVec 8)) (s : State) : Out :=
  if s.fld .strStatState strait ≠ 6 then .next s
  else
    let x := s.str strait
    let good := frameGood frame && frameType frame == 1
    let seq := leAt frame 4 2 % 2 ^ 12
    if !good ∨ seq ≠ (x.rxSeq + 1) % 2 ^ 12 then
      let s1 := if good then s.takeFields strait frame else s.bump .strCrcErrCnt strait
      .next (if x.nacked then s1 else (s1.sendPlain strait 2).modStr strait (fun y => { y with nacked := true }))
    else
      let w := leAt frame 0 4
      let n := bits w 12 0
      let s1 := (s.takeFields strait frame).modStr strait (fun y =>
        { y with rxSeq := seq, nacked := false, part := (if bit w 25 then [] else y.part) ++ (frame.drop 16).take n,
                 partUnits := (if bit w 25 then 0 else y.partUnits) + frameUnits n })
      .next (if bit w 24 then s1.arriveMsg strait (bits w 27 26) else s1)

def execNackFrameReceive (strait : Nat) (frame : List (BitVec 8)) (s : State) : Out :=
  when (s.fld .strStatState strait == 6 && frameGood frame && frameType frame == 2) ((s.takeFields strait frame).replay strait) s

def execIdleFrameReceive (strait : Nat) (frame : List (BitVec 8)) (s : State) : Out :=
  when (s.fld .strStatState strait == 6 && frameGood frame && frameType frame == 0) (s.takeFields strait frame) s

def execRetrainRequestFrame (strait : Nat) (frame : List (BitVec 8)) (s : State) : Out :=
  when (s.fld .strStatState strait == 6 && frameGood frame && frameType frame == 4) ((s.takeFields strait frame).retrain strait) s

/-- R393: no ACK advances within the replay timeout. -/
def execFrameReplayTimeout (strait : Nat) (s : State) : Out :=
  when (s.fld .strStatState strait == 6 && !(s.str strait).unacked.isEmpty) (s.replay strait) s

/-! ### Frames sent (R393, R396, R397, R412) -/

/-- Credit left on a channel, in units. -/
def Strait.credit (x : Strait) (vc : Nat) : Nat := (Tbl.get natZero x.granted vc + 2 ^ 16 - Tbl.get natZero x.used vc) % 2 ^ 16

/-- The next chunk of a channel: a turn chunk ahead of others on VC 1 and VC 2 (R397). -/
def Strait.nextMsg (x : Strait) (vc : Nat) : Option Msg :=
  let q := Tbl.get noMsgs x.waiting vc
  if vc = 0 then q.head? else (q.find? (fun m => m.turn)).or q.head?

/-- The channel served next among those with a chunk ready and credit for its first frame. -/
def Strait.pickVc (x : Strait) : Option Nat :=
  let ok (vc : Nat) : Bool := match x.nextMsg vc with | some m => decide (frameUnits (min 4096 m.bytes.length) ≤ x.credit vc) | none => false
  (if x.vc2next then [0, 2, 1] else [0, 1, 2]).find? ok

/-- The chunk that is sent next: the one partly sent, or a new one. -/
def Strait.load (x : Strait) : Strait :=
  match x.cur with
  | some _ => x
  | none =>
    match x.pickVc with
    | none => x
    | some vc =>
      match x.nextMsg vc with
      | none => x
      | some m =>
        { x with
          cur := some ⟨vc, m.bytes, true, m.again, m.dctx, m.sctx⟩
          waiting := Tbl.upd noMsgs x.waiting vc (fun q => q.eraseP (fun y => y == m))
          vc2next := if vc = 0 then x.vc2next else vc == 1 }

/-- A data frame leaves: as it is, or dropped, corrupted or held back by injection (R412). A frame held back follows the next. -/
def State.putFrame (s : State) (i : Nat) (f : Frame) (inj : Bool) : State :=
  let behind := (s.str i).heldFrame
  let s1 :=
    if !inj then s.sendFrame i f
    else
      match s.fld .strInjCtlMode i with
      | 1 => s
      | 2 =>
        let b := s.frameOf i 1 f.vc f.first f.last f.seq f.data
        s.emit (.frame i (b.take 16 ++ s.corrupt i f.data ++ b.drop (16 + f.data.length)))
      | _ => s.modStr i (fun x => { x with heldFrame := some f })
  match behind with
  | none => s1
  | some g => let s2 := s1.sendFrame i g; if inj && s.fld .strInjCtlMode i == 3 then s2 else s2.modStr i (fun x => { x with heldFrame := none })

/-- R397: the next frame of a chunk leaves once its channel's credit and the replay buffer hold it; otherwise an idle frame carries ACK and credit. -/
def execFrameSend (strait : Nat) (s : State) : Out :=
  if s.fld .strStatState strait ≠ 6 then .next s
  else
    let x := (s.str strait).load
    let s0 := s.modStr strait (fun _ => x)
    match x.cur with
    | none => .next (s0.sendPlain strait 0)
    | some c =>
      let d := c.rest.take 4096
      let held := (x.unacked.map (fun f => f.data.length + 20)).sum
      if x.credit c.vc < frameUnits d.length ∨ 2047 ≤ x.unacked.length ∨ 2 ^ 20 < held + d.length + 20 then .next (s0.sendPlain strait 0)
      else
        let rest := c.rest.drop 4096
        let f : Frame := ⟨x.txSeq, c.vc, c.first, rest.isEmpty, d⟩
        let s1 := s0.modStr strait (fun y =>
          { y with
            txSeq := (x.txSeq + 1) % 2 ^ 12
            unacked := y.unacked ++ [f]
            used := Tbl.upd natZero y.used c.vc (fun u => (u + frameUnits d.length) % 2 ^ 16)
            cur := if rest.isEmpty then none else some { c with rest := rest, first := false } })
        if s1.injects strait 0 c.dctx c.sctx c.again then
          let t := s1.injectNow strait
          .next (t.1.putFrame strait f t.2)
        else .next (s1.putFrame strait f false)

/-! ### The route table and the fabric registers (R399, R404 to R406) -/

/-- The code of R404 that refuses an entry at D, from codes 3 to 5; 0 where none does. -/
def entryErr (own d : Nat) (e : Nat) (at_ : Nat → Nat) : Nat :=
  let k := routeKind e
  let via := bits e 13 0
  if k = 3 ∨ (k ≠ 0 ∧ d = 0x3FFF) then 3
  else if k = 1 ∧ bits e 23 0 = 0 then 4
  else if k = 2 ∧ (routeKind (at_ via) ≠ 1 ∨ via = own ∨ via = d) then 5
  else 0

/-- Reserved bits of an entry are zero (R400). -/
def entryPlain (e : Nat) : Bool := bits e 29 24 == 0 && (routeKind e != 2 || bits e 23 14 == 0)

/-- The first code of R404 that refuses an image; 0 where none does. -/
def State.imageErr (s : State) (b : List (BitVec 8)) : Nat :=
  let f (o n : Nat) := leAt b o n
  let es := (List.range 16384).map (fun d => (d, f (64 + 4 * d) 4))
  let look (d : Nat) : Nat := f (64 + 4 * d) 4
  let errs := es.map (fun e => entryErr s.fabId e.1 e.2 look)
  if f 0 4 ≠ 0x5254424C ∨ f 4 2 ≠ 1 ∨ f 6 2 ≠ 0 ∨ bits (f 0xC 2) 15 14 ≠ 0 ∨ !((b.drop 0xE).take 50).all (fun x => x == 0) ∨ !es.all (fun e => entryPlain e.2) then 1
  else if f 8 4 ≠ s.fld .fabSystem 0 ∨ bits (f 0xC 2) 13 0 ≠ s.fabId then 2
  else if errs.contains 3 then 3
  else if errs.contains 4 then 4
  else if errs.contains 5 then 5
  else if 10239 < (es.filter (fun e => routeKind e.2 != 0 && e.1 != s.fabId)).length then 6
  else 0

/-- An image is loaded, or refused, which leaves the table unchanged (R404, R405). -/
def State.loadImage (s : State) (b : List (BitVec 8)) : State × Bool :=
  let e := s.imageErr b
  if e ≠ 0 then ((s.setFld .rtStatErr e 0).raise 0x08 0 1, false)
  else
    let t : Tbl Nat := (List.range 16384).foldr (fun d acc => let v := leAt b (64 + 4 * d) 4; if v = 0 then acc else (d, v) :: acc) []
    ((({ s with routes := t } : State).bump .rtLoadCnt 0).raise 0x08 0 0, true)

/-- The host reads of a route image. -/
def routeOwner : ReadOwner := .op 10 0

/-- The image at an address of a context's translation, the owner's for RT_CTL, is loaded; whether it was is answered once it has been read. -/
def State.readImage (s : State) (dva : Nat) (ctx : Nat := 0) : State × Option Bool :=
  match s.dvaRead ctx dva 65600 routeOwner false with
  | .wait t => (t, none)
  | .ok b => let r := (s.dropReads routeOwner).loadImage b; (r.1, some r.2)
  | .fault c a => (((s.faultEnd ctx c 6 0 a).1.dropReads routeOwner).raise 0x08 0 1, some false)
  | .poison a k => (((s.poisonEnd ctx a k).1.dropReads routeOwner).raise 0x08 0 1, some false)

/-- R405: a write of RT_CTL; LOAD reads 1 until the load ends. -/
def State.writeRtCtl (s : State) (w : Nat) : State :=
  if !bit w 0 && s.fld .rtCtlLoad 0 == 0 then s
  else
    let r := s.readImage (s.fld64 .rtImageLoAddr .rtImageHiAddr 0)
    r.1.setFld .rtCtlLoad (b2n r.2.isNone) 0

def execRouteLoad (value : Nat) (s : State) : Out := .next (s.writeRtCtl value)

/-- R406: a write of RT_ENTRY replaces the entry selected, unless codes 3 to 5 refuse it. -/
def State.writeRtEntry (s : State) (w : Nat) : State :=
  let d := s.fld .rtIndexIndex 0
  let e := entryErr s.fabId d w s.route
  if e ≠ 0 then s.setFld .rtStatErr e 0 else { s with routes := Tbl.set natZero s.routes d w }

def execRtEntryWrite (value : Nat) (s : State) : Out := .next (s.writeRtEntry (value % 2 ^ 32))

/-- R399: a write of FAB_LOCK. -/
def execFabLock (value : Nat) (s : State) : Out := when (bit value 0) (s.setFld .fabLockLock 1 0) s

/-- R386, R399: a write of FAB_ID or FAB_SYSTEM, ignored once locked, returns every refused strait to dark. -/
def State.writeFab (s : State) (system : Bool) (w : Nat) : State :=
  if s.fld .fabLockLock 0 = 1 then s
  else
    let s1 := if system then s.setFld .fabSystem w 0 else s.setFld .fabIdId w 0
    (List.range 24).foldl (fun t i => if t.fld .strStatState i = 7 then (t.setFld .strStatState 1 i).setFld .strStatReason 0 i else t) s1

def execFabIdWrite (system : Bool) (value : Nat) (s : State) : Out := .next (s.writeFab system value)

end Sys2Proof.Machine
end

