-- ==== Sys2Proof/Machine/Turns.lean ====
section
/-! DEFINITION. Turns between learning and generation (R370 to R379, R409). -/
namespace Sys2Proof.Machine

/-! ### The layout map (R370, R371) -/

/-- An entry of a layout map. -/
structure MapEnt where
  src : Nat
  dst : Nat
  shard : Nat
  from_ : Nat
  target : Nat
  bytes : Nat
deriving DecidableEq, Repr

def parseMapEnt (b : List (BitVec 8)) : MapEnt := ⟨leAt b 0 2, leAt b 2 2, leAt b 4 2, leAt b 8 6, leAt b 0x10 6, leAt b 0x18 4⟩

def mapEntOk (b : List (BitVec 8)) : Bool :=
  leAt b 6 2 == 0 && leAt b 0xE 2 == 0 && leAt b 0x16 2 == 0 && leAt b 0x1C 4 == 0 && leAt b 0x18 4 != 0 && leAt b 0x18 4 % 64 == 0

/-- The chunks of a map in its order, each of at most 64 KiB: number, entry, offset, bytes (log entry 35). -/
def mapChunks : List MapEnt → Nat → List (Nat × MapEnt × Nat × Nat)
  | [], _ => []
  | e :: es, n =>
    let k := ceilDiv e.bytes 65536
    (List.range k).map (fun i => (n + i, e, i * 65536, min 65536 (e.bytes - i * 65536))) ++ mapChunks es (n + k)

/-- Intervals, sorted by start, that cover from `a` to `z` exactly once. -/
def tiles (a z : Nat) : List (Nat × Nat) → Bool
  | [] => a == z
  | (p, n) :: r => p == a && tiles (a + n) z r

/-- The entries for this module cover every byte of every built shard once (R371). -/
def coversShards (es : List MapEnt) (mine : Nat → Bool) (xs : List Shard) : Bool :=
  xs.all (fun x =>
    let on := (es.filter (fun e => mine e.dst && e.shard == x.index)).map (fun e => (e.target, e.bytes))
    tiles x.dva (x.dva + x.bytes) (sortBy (fun a b => decide (a.1 ≤ b.1)) on)) &&
  es.all (fun e => !mine e.dst || e.shard == 0xFFFF || decide (e.shard < xs.length))

/-- The island that owns the stack of an address of a context (R371). -/
def State.stackIsland (s : State) (ctx dva : Nat) : Nat := match (s.walk ctx dva).dest with | .hbm k => stackOf k | _ => 0

/-- What a turn's map gives this module: the pieces it sends and those it receives. -/
def State.turnPieces (s : State) (ctx : Nat) (d : GroupDesc) (es : List MapEnt) (srcAdd dstAdd : Nat) : List TurnPiece × List TurnPiece :=
  let ent (r : Nat) : GEnt := (d.ents[r]?).getD ⟨0, 0, 0, 0, 0, 0, 0, 0⟩
  let cs := mapChunks es 0
  let tx := (cs.filter (fun c => (ent c.2.1.src).fab == s.fabId)).map (fun c =>
    let rcv := ent c.2.1.dst
    let a := c.2.1.from_ + srcAdd + c.2.2.1
    (⟨c.1, rcv.fab, rcv.ctx, engineFor rcv.engines c.1, s.stackIsland ctx a, a, c.2.2.2, false, false, 0, []⟩ : TurnPiece))
  let rx := (cs.filter (fun c => (ent c.2.1.dst).fab == s.fabId)).map (fun c =>
    let fr := ent c.2.1.src
    (⟨c.1, fr.fab, fr.ctx, 0, engineFor (ent c.2.1.dst).engines c.1, c.2.1.target + dstAdd + c.2.2.1, c.2.2.2, false, false, 0, []⟩ : TurnPiece))
  (tx, rx)

/-! ### Opening (R372, R373, R375, R378) -/

/-- The fields of a turn record. -/
structure TurnRec where
  dir : Bool
  fabric : Bool
  switch : Bool
  model : Nat
  tg : Nat
  gen : Nat
  tag : Nat
  group : Nat
  map : Nat
  manifest : Nat
  route : Nat
  roles : Nat
  straits : Nat

def Entry.turnRec (e : Entry) : TurnRec :=
  let w := e.u 0x30 4
  ⟨bit w 29, bit w 28, bit w 27, bits w 26 24, bits w 15 0, e.u 0x34 4, e.u 0x38 6, e.u 0x40 6, e.u 0x48 6, e.u 0x50 6, e.u 0x58 6, e.u 0x60 6, bits (e.u 0x68 4) 23 0⟩

/-- DETAIL 1 of R373: reserved bits and the fields that other fields exclude. -/
def Entry.turnFields (e : Entry) : Bool :=
  let r := e.turnRec
  bits (e.u 0x30 4) 31 30 == 0 && bits (e.u 0x30 4) 23 16 == 0 && e.u 0x3E 2 == 0 && e.addrOk 0x40 64 && e.addrOk 0x48 64 && e.addrOk 0x50 64 && e.addrOk 0x58 1 &&
    e.u 0x66 2 == 0 && bits (e.u 0x68 4) 31 24 == 0 && e.zero 0x6C 0x80 && !(r.switch && r.dir) && ((!r.dir && r.map != 0) == (r.manifest != 0))

def turnOwner (e : Entry) : ReadOwner := .op 15 ((e.ctx * 16 + e.stream) * 2 ^ 64 + e.seq)

/-- Reading for a turn: the bytes, or the state to answer. -/
def State.turnRead (s : State) (e : Entry) (a n : Nat) : Except State (List (BitVec 8)) :=
  match s.dvaRead e.ctx a n (turnOwner e) false with
  | .ok b => .ok b
  | .wait u => .error u
  | r => let f := (s.dropReads (turnOwner e)).readEnd e.ctx 6 0 r; .error (f.1.endOp e f.2.1 f.2.2)

/-- The turn group, checked (DETAIL 2). -/
def State.turnGroup (s : State) (e : Entry) (a : Nat) (refuse : Nat → State) : Except State GroupDesc :=
  match s.turnRead e a 32 with
  | .error u => .error u
  | .ok hd =>
    if leAt hd 0 4 ≠ 0x47434F4C ∨ 16384 < leAt hd 8 4 then .error (refuse 2)
    else
      match s.turnRead e (a + 32) (32 * leAt hd 8 4) with
      | .error u => .error u
      | .ok b => match s.checkGroup hd b 0 1 1 false with | .ok d => .ok d | .error _ => .error (refuse 2)

/-- The layout map and its HALF, its own fields checked (DETAIL 3). -/
def State.turnMap (s : State) (e : Entry) (a n : Nat) (refuse : Nat → State) : Except State (List MapEnt × Nat) :=
  if a = 0 then .ok ([], 0)
  else
    match s.turnRead e a 16 with
    | .error u => .error u
    | .ok hd =>
      let k := leAt hd 4 4
      if leAt hd 0 4 ≠ 0x4C4D4150 ∨ k = 0 ∨ 2 ^ 20 < k then .error (refuse 3)
      else
        match s.turnRead e (a + 16) (32 * k) with
        | .error u => .error u
        | .ok b =>
          let bs := (List.range k).map (fun i => (b.drop (32 * i)).take 32)
          let es := bs.map parseMapEnt
          if bs.all mapEntOk && es.all (fun x => decide (x.src < n) && decide (x.dst < n)) then .ok (es, leAt hd 8 8) else .error (refuse 3)

/-- The manifest of a turn that builds, checked (DETAIL 4). -/
def State.turnManifest (s : State) (e : Entry) (r : TurnRec) (refuse : Nat → State) : Except State (List Shard × Bool) :=
  if r.manifest = 0 then .ok ([], false)
  else
    match s.readManifest e.ctx r.manifest true (turnOwner e) with
    | .wait u => .error u
    | .fail u st d => .error (if st = St.manifestRefused then refuse 4 else (u.dropReads (turnOwner e)).endOp e st d)
    | .ok m => if m.adapter ∨ m.model ≠ r.model ∨ m.gen ≠ r.gen then .error (refuse 4) else .ok (m.shards.map (fun x => { x with digest := none }), m.inplace)

/-- The generation slot of a turn: where it builds, where it writes in place, or the source (DETAIL 7); the shards with their pages. -/
def State.turnSlot (s : State) (e : Entry) (r : TurnRec) (xs : List Shard) (inplace : Bool) (refuse : Nat → State) : Except State (State × Option Nat × Bool × List Shard) :=
  let m := (s.wgt e.ctx).model r.model
  let resident : Option Nat := (m.slotOf r.gen).bind (fun i => if (m.slot i).st = .loading then none else some i)
  if r.dir then (match r.map, resident with | 0, _ => .ok (s, none, false, []) | _, some i => .ok (s, some i, false, []) | _, none => .error (refuse 7))
  else if xs.isEmpty then
    (if !r.switch then .ok (s, none, false, []) else match resident with | some i => .ok (s, some i, false, []) | none => .error (refuse 7))
  else
    match (if inplace && m.inplace then (List.range 4).find? (fun i => (m.slot i).st == .serving) else none) with
    | some i => .ok (s, some i, true, xs.map (fun x => { x with pages := pagesUnder (m.slot i).shards x }))
    | none =>
      match (List.range 4).find? (fun i => (m.slot i).st == .free) with
      | none => .error (refuse 7)
      | some i =>
        match s.fit e.ctx xs with
        | .lacking n => .error ((s.dropReads (turnOwner e)).endOp e St.weightQuota n)
        | .evict need => .error (s.setWgt e.ctx { s.wgt e.ctx with want := some need })
        | .ok ys =>
          match s.back e.ctx ys with
          | none => .error ((s.dropReads (turnOwner e)).endOp e St.weightQuota 0)
          | some (t, zs) => .ok (t.modModel e.ctx r.model (fun y => { y.setSlot i ⟨.loading, r.gen, true, r.manifest, zs⟩ with inplace := inplace }), some i, false, zs)

/-- R372, R373: a turn opens, or is refused with the code of the first check that fails. A turn of roles and fabric alone names no training group (log entry 34). -/
def State.turnOp (s : State) (e : Entry) : State :=
  let r := e.turnRec
  let refuse (d : Nat) : State := (s.dropReads (turnOwner e)).endOp e St.turnRefused d
  match s.turn with
  | some u => s.endOp e St.turnInProgress u.ctx
  | none =>
    if !e.turnFields then refuse 1
    else
      let res : Except State State := do
        let d ← s.turnGroup e r.group refuse
        let mp ← s.turnMap e r.map d.ents.length refuse
        let mf ← s.turnManifest e r refuse
        let mine (i : Nat) : Bool := (d.ents[i]?).any (fun x => x.fab == s.fabId)
        let g := s.tgroup e.ctx r.tg
        let busyIsl := s.runs.any (fun x => (List.range 24).any (fun i => bit x.islands i && bits r.roles (2 * i + 1) (2 * i) != 0 && bits r.roles (2 * i + 1) (2 * i) != 2))
        if r.map ≠ 0 ∧ !coversShards mp.1 mine mf.1 then .error (refuse 3)
        else if (r.map ≠ 0 ∨ r.tg ≠ 0xFFFF) ∧ (g.isNone ∨ s.tgBusy e.ctx r.tg false) then .error (refuse 5)
        else if busyIsl then .error (refuse 6)
        else
          let sl ← s.turnSlot e r mf.1 mf.2 refuse
          let live := (g.map (fun x => x.live)).getD 0
          let ps := s.turnPieces e.ctx d mp.1 (if r.dir then 0 else live * mp.2) (if r.dir then live * mp.2 else 0)
          let u : Turn :=
            { ctx := e.ctx, stream := e.stream, seq := e.seq, dir := r.dir, fabric := r.fabric, switch := r.switch, model := r.model, tgroup := r.tg, gen := r.gen, tag := r.tag,
              desc := d, rank := (s.rankIn d).getD 0, manifest := r.manifest, shards := sl.2.2.2, route := r.route, roles := r.roles, straits := r.straits, slot := sl.2.1,
              inplace := sl.2.2.1, phase := 2, entered := s.ptime, tx := ps.1, rx := ps.2, ballot := Ballot.start s.ptime, cause := 0, fail := false, routed := r.route == 0 }
          let t := { ((sl.1.dropReads (turnOwner e)).begin e) with turn := some u }
          .ok (if sl.2.2.1 then t.atBoundary e.ctx (.barrier e.stream e.seq r.model) else t)
      match res with | .ok t => t | .error t => t

def execTurn (ctx stream seq : Nat) (s : State) : Out := s.withRecord ctx stream seq 5 s.turnOp

/-! ### Phases (R374, R409) -/

/-- Whole µs since the phase was entered. -/
def State.phaseUs (s : State) (u : Turn) : Nat := min ((s.ptime - u.entered) / us 1) (2 ^ 32 - 1)

def State.setTurn (s : State) (u : Turn) : State := { s with turn := some u }

/-- R374: every local map entry has been sent and acknowledged, and every byte received: Quiet begins. -/
def execTurnRelayDone (s : State) : Out :=
  match s.turn with
  | none => .next s
  | some u =>
    when (u.phase == 2 && !u.fail && u.tx.all (fun p => p.done) && u.rx.all (fun p => p.done))
      ((s.setFld .turnRelayUs (s.phaseUs u) 0).setTurn { u with phase := 3, entered := s.ptime }) s

/-- R374: every step in flight has committed: the fabric wait begins, or the vote. -/
def execTurnQuietDone (s : State) : Out :=
  match s.turn with
  | none => .next s
  | some u =>
    if u.phase ≠ 3 ∨ (List.range 64).any (fun c => s.stepping c) then .next s
    else if u.fabric then .next ((s.setTurn { u with phase := 4, entered := s.ptime }).raise 0x07 0 0)
    else .next (s.setTurn { u with phase := 6, entered := s.ptime })

/-- R374, R409: TURN_GO ends the fabric wait, and the straits named retrain. -/
def State.writeTurnGo (s : State) (ctx w : Nat) : State :=
  match s.turn with
  | none => s
  | some u =>
    if !bit w 0 ∨ u.phase ≠ 4 ∨ u.ctx ≠ ctx then s
    else ((List.range 24).filter (fun i => bit u.straits i)).foldl (fun t i => (t.retrain i).modStr i (fun x => { x with noResume := true })) (s.setTurn { u with phase := 5, entered := s.ptime })

def execTurnGo (ctx value : Nat) (s : State) : Out := .next (s.writeTurnGo ctx value)

/-- Every strait the turn names reports a peer. -/
def State.straitsBack (s : State) (u : Turn) : Bool := (List.range 24).all (fun i => !bit u.straits i || (s.fld .strStatState i == 6 && s.fld .strPeerValid i == 1))

/-- R374: ROUTE is loaded once the straits report their peers, and the vote begins. -/
def execTurnRetrainDone (s : State) : Out :=
  match s.turn with
  | none => .next s
  | some u =>
    if u.phase ≠ 5 ∨ !s.straitsBack u then .next s
    else
      let r : State × Option Bool := if u.routed then (s, some true) else s.readImage u.route u.ctx
      match r.2 with
      | none => .next r.1
      | some false => .next (r.1.setTurn { u with fail := true, cause := 4 })
      | some true => .next ((r.1.setFld .turnRetrainUs (s.phaseUs u) 0).setTurn { u with phase := 6, entered := s.ptime, routed := true })

/-- Cycles of the vote limit (R376, R382). -/
def State.turnLimit (s : State) : Nat := us (1000 * s.fld .turnTimeoutLimit 0)

/-- The turn votes abort: the cause is kept. -/
def State.turnAbort (s : State) (u : Turn) (cause : Nat) (late : Bool) : State :=
  (s.setTurn { u with cause := cause, fail := true, phase := 6, entered := if u.phase = 6 then u.entered else s.ptime }).castVote .turnOf false late

/-- R376: the member votes commit once it has finished its phases, or abort on a failure, an unready strait or the limit. -/
def execTurnVote (s : State) : Out :=
  match s.turn with
  | none => .next s
  | some u =>
    if u.ballot.vote.isSome then .next s
    else if u.fail then .next (s.turnAbort u u.cause false)
    else if u.phase = 6 then .next (s.castVote .turnOf true false)
    else if u.phase = 5 ∧ u.entered + us 24000 ≤ s.ptime ∧ !s.straitsBack u then .next (s.turnAbort u 4 false)
    else if u.ballot.began + s.turnLimit ≤ s.ptime then .next (s.turnAbort u 2 true)
    else .next s

/-! ### The decision (R376 to R378) -/

/-- The roles a turn gives (R377). -/
def State.takeRoles (s : State) (u : Turn) : State :=
  (List.range 24).foldl (fun (t : State) i =>
    match bits u.roles (2 * i + 1) (2 * i) with
    | 0 => t
    | 1 => { t with roles := Tbl.set natZero t.roles i 1 }
    | 2 => { t with roles := Tbl.set natZero t.roles i 2 }
    | _ => { t with roles := Tbl.set natZero t.roles i 0 }) s

/-- What a committed turn does to the generation it built (R377, R378). -/
def State.turnWeights (s : State) (u : Turn) : State :=
  match u.slot with
  | none => s
  | some i =>
    if u.dir then s
    else
      let xs := u.shards.map (fun x => { x with arrived := true })
      let s1 :=
        if u.shards.isEmpty then s
        else if u.inplace then
          let own := (((s.wgt u.ctx).model u.model).slot i).shards
          let t := (own.foldl (fun t x => t.markSuspect u.ctx x false) s).modModel u.ctx u.model (fun m =>
            { m.setSlot i ⟨.serving, u.gen, true, u.manifest, xs⟩ with top := max m.top u.gen, barrier := false, suspectAll := false, evicted := false })
          if t.fld .wgtServeModel u.ctx = u.model then t.setFld .wgtServeGen u.gen u.ctx else t
        else
          (xs.foldl (fun t x => t.mapShard u.ctx x) s).modModel u.ctx u.model (fun m =>
            { m.setSlot i { m.slot i with st := .ready, shards := xs } with top := max m.top u.gen, evicted := false })
      if u.switch ∧ !u.inplace then s1.applySwitch u.ctx u.model u.gen else s1

/-- What an aborted turn leaves of the generation it was building (R377, R378). -/
def State.turnUndo (s : State) (u : Turn) : State :=
  match u.slot with
  | none => s
  | some i => if u.dir ∨ u.shards.isEmpty then s else if u.inplace then s.spoil u.ctx u.model i else s.modModel u.ctx u.model (fun m => m.setSlot i GenSlot.reset)

/-- R377: the turn's decision is applied as one commit group. -/
def State.applyTurn (s : State) (u : Turn) (commit : Bool) : State :=
  let s1 := (s.setFld .turnDecideUs (s.phaseUs u) 0)
  let past := (u.ctx * 2 ^ 48 + u.tag, commit) :: s.turnPast.filter (fun p => p.1 != u.ctx * 2 ^ 48 + u.tag)
  let close (t : State) : State := { t with turn := none, turnPast := past }
  if commit then (close ((((s1.turnWeights u).takeRoles u).bump .turnCnt 0))).finish u.ctx u.stream u.seq 0 0
  else
    let first := u.ballot.firstAbort
    let cause := if u.fail then u.cause else if first = 0xFFFF then 2 else 1
    (close (((s1.turnUndo u).bump .turnAbortCnt 0).raise 0x07 0 1)).finish u.ctx u.stream u.seq St.turnAborted (cause * 2 ^ 28 + first)

/-- R376, R377: rank 0 decides where the votes are in; the decision, once held, is applied. -/
def execTurnApply (s : State) : Out :=
  if s.turn.isNone then .next s
  else
    let s1 := (s.decideBallot .turnOf).takeBallots .turnOf
    match s1.turn with
    | none => .next s1
    | some u => match u.ballot.decision with | some d => .next (s1.applyTurn u d) | none => .next s1

/-- R376: a voter without a decision asks the members, as for a seal. -/
def execTurnTimeout (s : State) : Out := .next (s.askMembers .turnOf s.turnLimit id)

/-- R379: a built shard of a committed turn is hashed, and its digest written into the manifest. -/
def execBuiltDigestRecord (ctx model slot shard : Nat) (s : State) : Out :=
  let g := ((s.wgt ctx).model model).slot slot
  match g.shards[shard]? with
  | none => .next s
  | some x =>
    if !g.built ∨ g.st = .loading ∨ g.st = .free ∨ x.digest.isSome ∨ x.host.isSome ∨ s.shardPoison x then .next s
    else
      let h := sha3 (s.shardBytes x)
      .next ((s.modModel ctx model (fun m => m.setSlot slot { g with shards := setAt g.shards shard { x with digest := some h } })).devWrite ctx
        (g.manifest + 64 + 64 * x.index + 0x20) h)

end Sys2Proof.Machine
end

