-- ==== Sys2Proof/Machine/Resets.lean ====
section
/-! DEFINITION. The sticky log and alerts, and the resets: of an island, of the module, and of a context (R442, R489, R509 to R514). -/
namespace Sys2Proof.Machine

/-! ### Alerts and the sticky log (R441, R489) -/

/-- Some unmasked alert bit is set (R440). -/
def Ports.asserts (p : Ports) : Bool := (List.range 4).any (fun i => bit p.alert i && !bit p.alertMask i)

/-- The SMBus port's registers change, and SMBALERT# with them. -/
def State.setPorts (s : State) (p : Ports) : State :=
  let s1 : State := { s with ports := p }
  if s.ports.asserts = p.asserts then s1 else s1.emit (.alert p.asserts)

/-- An alert bit of R441 is set. -/
def State.alert (s : State) (i : Nat) : State := s.setPorts { s.ports with alert := s.ports.alert ||| 2 ^ i }

/-- An entry joins the sticky log (R489). -/
def State.logAdd (s : State) (kind unit : Nat) (data : List (BitVec 8)) : State :=
  let n := (s.fld .logHead 0 + 1) % 2 ^ 32
  let e := leBytes 4 n ++ leBytes 8 s.ptime ++ leBytes 1 kind ++ leBytes 1 unit ++ [0, 0] ++ (data ++ List.replicate 16 0).take 16
  let all := s.mod.log ++ [e]
  let s1 : State := { s with mod := { s.mod with log := all.drop (all.length - 512) } }
  ((s1.setFld .logHead n 0).raise 0x02 0 0).alert 3

/-- The module's run state changes; a change of READY sets the alert for it (R426, R441). -/
def State.setRun (s : State) (r : RunSt) : State :=
  let s1 : State := { s with run := r }
  if s1.cwReady = s.cwReady then s1 else s1.alert 0

/-! ### Parts of a key (R534) -/

def keyCls (k : Nat) : Nat := k % 2 ^ 26 / 2 ^ 20
def keyInst (k : Nat) : Nat := k % 2 ^ 20 / 2 ^ 12
def keyOff (k : Nat) : Nat := k % 2 ^ 12
def keyUnit (k : Nat) : Nat := k / 2 ^ 26

/-- Offset of MON_SEL in every page header (R537). -/
def monSel : Nat := 0x01C

/-- The register is one of the stall counters of an island page (R514). -/
def isStall (k : Nat) : Bool :=
  let c := keyCls k
  let o := keyOff k
  (c == 0x10 && decide (0x080 ≤ o) && decide (o < 0x098)) || (c == 0x11 && decide (0x080 ≤ o) && decide (o < 0x0E0)) ||
    ((c == 0x17 || c == 0x18) && decide (0x080 ≤ o) && decide (o < 0x0A0))

/-- The key belongs to a page of an island. -/
def ofIsland (i k : Nat) : Bool := decide (0x10 ≤ keyCls k) && decide (keyCls k ≤ 0x18) && keyInst k == i

/-- Registers a predicate keeps, with those staged halves and latches of the same pages (R542). -/
def State.keepRegs (s : State) (p : Nat → Bool) : State :=
  { s with regs := Tbl.keep p s.regs, stage := Tbl.keep (fun k => p (k % 2 ^ 60)) s.stage, latch := Tbl.keep (fun k => p (k % 2 ^ 60)) s.latch }

/-! ### What runs on an island -/

/-- A task is taken off every cay, and its shadowed lines vanish; it is not run again. -/
def State.removeTask (s : State) (t : Nat) : State :=
  let x := s.task t
  let s1 := x.live.foldl (fun u k => u.setCay (cayOfKey k) (((u.cay (cayOfKey k)).dropTask t).release t)) s
  let s2 := (List.range 24).foldl (fun u i => u.shadowDrop i t) s1
  s2.setTask t { s2.task t with live := [], st := .ended }

/-- A step runs again from the same token table and the same bindings (R260). -/
def State.restartStep (s : State) (c : Nat) : State :=
  match (s.srv c).step with
  | none => s
  | some r =>
    let s1 := match r.task with | some t => (s.removeTask t).dropTaskRec t | none => s
    s1.modSrv c (fun x => { x with step := some { r with placed := 0, task := none, status := 0, sampled := none, execs := r.execs + 1 } })

/-- The task runs on the island. -/
def State.runsOn (s : State) (i t : Nat) : Bool := !(inIsland i (s.task t).live).isEmpty

/-- A task interrupted by the reset of an island runs again: a step from its start, any other task from its inputs (R234, R260). -/
def State.interrupt (s : State) (t : Nat) : State :=
  match (s.task t).origin with
  | .serving _ => s.restartStep (s.task t).ctx
  | _ => s.requeueTask t

/-! ### Island reset (R511, R514) -/

/-- The monitor units of an island (R490). -/
def islandMons (i : Nat) : List Nat := (List.range 8).map (fun u => 8 * i + u)

/-- Results of monitor units return to zero; snapshots stay (R490, R493). -/
def State.clearMons (s : State) (us : List Nat) : State :=
  { s with mons := Tbl.mapVals monDef (fun u m => if us.contains u then { m with now := MonRes.reset } else m) s.mons }

/-- What is in the cays, the cache and the engine buffers of an island is gone. -/
def State.wipeIsland (s : State) (i : Nat) : State :=
  { s with
    cays := Tbl.keep (fun k => k / 320 != i) s.cays
    ics := Tbl.keep (fun k => k != i) s.ics
    notifs := Tbl.keep (fun k => k / 1024 != i) s.notifs
    shadowCnt := Tbl.keep (fun k => k != i) s.shadowCnt
    hostReads := s.hostReads.filter (fun h => match h.owner with | .load c _ => c / 320 != i | .copy c _ => c / 320 != i | .op _ _ => true)
    engs := Tbl.set engDef s.engs i { Engine.reset with epoch := (s.eng i).epoch } }

/-- The virtual times of the points of an island restart (R518). -/
def State.clearVts (s : State) (p : Nat → Bool) : State :=
  { s with vts := Tbl.keep (fun k => !p (k / 64)) s.vts, vwait := Tbl.keep (fun k => !p k) s.vwait }

/-- The strait of an island leaves up and keeps nothing (R395, R410). -/
def State.dropStrait (s : State) (i st : Nat) : State :=
  let s1 := if s.fld .strStatState i = 6 then s.leaveUp i st else s.setFld .strStatState st i
  { s1 with strs := Tbl.keep (fun k => k != i) s1.strs }

/-- A turn in progress that names the island among its roles fails if this module has not voted (R378). -/
def State.failTurn (s : State) (p : Turn → Bool) : State :=
  match s.turn with
  | none => s
  | some u => if p u && u.ballot.vote.isNone && !u.fail then { s with turn := some { u with fail := true, cause := 5 } } else s

/-- An island reset, whole: work on it runs again, its SRAMs and pages are reset, its strait trains afresh, and it is ready (R511). -/
def State.islandReset (s : State) (i : Nat) : State :=
  if s.fld .islStatState i = 2 ∨ 24 ≤ i ∨ s.run != .ready then s
  else
    let ts := (s.tasks.filter (fun k => s.runsOn i k.1)).map (fun k => k.1)
    let s1 := ts.foldl (fun t k => if (t.task k).st = .running then t.interrupt k else t) s
    let s2 := (s1.failTurn (fun u => u.changes i)).dropStrait i 1
    let s3 := (((s2.wipeIsland i).clearMons (islandMons i)).clearVts (fun p => p == i || p == 24 + i || p == 48 + i)).keepRegs (fun k =>
      !(ofIsland i k && (keyOff k == monSel || !(keyCls k == 0x14 || keyCls k == 0x15))))
    let s4 := s3.setFld .strStatState (if s.strTripped i then 0 else 1) i
    let s5 := { s4 with mems := Tbl.upd memDef s4.mems i (fun m => { m with sramAt := 0, tested := false }) }
    ((((s5.setFld .islStatState 0 i).setFld .islStatReady 1 i).setFld .islCtlWake 0 i).bump .islResetCnt 0).raise 0x00 0 0

/-! ### Module reset (R510, R514) -/

/-- The registers a module reset keeps (R514); the clearing variant keeps fewer. -/
def keptAtReset (clearing : Bool) (k : Nat) : Bool :=
  let c := keyCls k
  let o := keyOff k
  if c = 0x04 ∨ c = 0x09 then true
  else if c = 0x01 then o == 0x05C
  else if c = 0x02 then o == 0x040 || !clearing
  else if c = 0x00 then !clearing && (o == 0x048 || o == 0x04C || o == 0x050)
  else if c = 0x05 then !clearing && decide (o < 0x054)
  else if c = 0x06 then !clearing
  else if c = 0x07 then !clearing && o == 0x044
  else if c = 0x08 then !clearing && (o == 0x040 || o == 0x044 || o == 0x048)
  else if 0x20 ≤ c then !clearing
  else false

/-- MEM_CTL.EXCLUDE and the loss of stacks across a reset (R488, R514): EXCLUDE stays; a stack retested is used again unless excluded. -/
def State.keepStacks (s : State) (old : State) (retest : Bool) : State :=
  (List.range 24).foldl (fun t i =>
    let ex := old.fld .memCtlExclude i
    (t.setFld .memCtlExclude ex i).setFld .memStatStack (if retest then ex else old.fld .memStatStack i) i) s

/-- Pending bits of module vectors return to zero (R514). -/
def State.clearPending (s : State) : State :=
  { s with regs := Tbl.mapVals resetWord (fun k w => if keyCls k = 0x20 ∧ keyOff k = Fld.irqVctlPending.off then Fld.put .irqVctlPending w 0 else w) s.regs }

/-- What waits to be sent over the Causeway and has no SEQ is not sent (R427). -/
def State.cwHush (s : State) : State := s.modCw (fun x => { x with queue := [], taken := s.outbox.length })

/-- What every module reset stops and loses: tasks, island contents, straits, storage sessions, host reads, energy units and pauses (R510, R514). -/
def State.stopAll (s : State) : State :=
  let cs := s.srvs.map (fun e => e.1)
  let s1 := cs.foldl (fun t c => t.restartStep c) s
  let jobs := s1.loads
  let s2 : State := { s1 with
    tasks := [], cays := [], ics := [], notifs := [], shadowCnt := [], strs := [], hostReads := [], ckpts := [], loads := [], vts := [], vwait := []
    engs := Tbl.mapVals engDef (fun _ e => { Engine.reset with epoch := e.epoch }) s1.engs
    stos := Tbl.mapVals stoDef (fun _ p => { StoPort.reset with failed := p.failed }) s1.stos
    runs := s1.runs.map (fun r => { r with task := none, admitted := false, checked := false })
    entries := s1.entries.map (fun e => { e with owed := [] })
    pw := { s1.pw with units := [], waited := [], paused := [], pausedCls := [], isl := [] }
    mems := Tbl.mapVals memDef (fun _ m => { m with rows := [], sramAt := 0, tested := false }) s1.mems }
  let s3 := jobs.foldl (fun t j =>
    match j.kind, j.slot with
    | .fresh, some i => t.modModel j.ctx j.model (fun m => m.setSlot i GenSlot.reset)
    | .inplace, some i => if j.held then t.spoil j.ctx j.model i else t
    | _, _ => t) s2
  (((s3.failTurn (fun _ => true)).clearMons (List.range 256)).clearPending).cwHush

/-- A module reset begins: the module stops, and every island enters off (R510, steps 1 to 3). -/
def State.stopModule (s : State) : State :=
  let s1 := (s.stopAll.keepRegs (keptAtReset false)).keepStacks s false
  (((List.range 24).foldl (fun t i => t.setFld .islStatState 2 i) s1)).setRun .held

/-- A source holds the module in reset (R442, R509): the first starts the reset; a clearing request turns one that is held into the clearing variant. -/
def State.holdReset (s : State) (h : Hold) (clearing : Bool) : State :=
  let s0 : State := { s with mod := { s.mod with
    holds := if s.mod.holds.contains h then s.mod.holds else s.mod.holds ++ [h]
    clearing := s.mod.clearing || clearing } }
  if s.run = .off then s0
  else if s.run = .held then (if clearing then s0.setFld .modResetStatClearing 1 0 else s0)
  else
    let s1 : State := { s0 with mod := { s0.mod with clearing := clearing } }
    let s2 := s1.stopModule
    if (holdCode h) = 0 then s2
    else
      ((s2.setFld .modResetStatSource (holdCode h) 0).setFld .modResetStatClearing (b2n clearing) 0).logAdd 0x07 0xFF (leBytes 4 ((holdCode h) + b2n clearing * 256))

/-- A source lets go. -/
def State.unhold (s : State) (h : Hold) : State := { s with mod := { s.mod with holds := s.mod.holds.filter (fun x => x != h) } }

/-- What the clearing variant adds before the firmware starts (R510, R514). -/
def State.clearModule (s : State) : State :=
  let s1 := (s.keepRegs (keptAtReset true)).keepStacks s true
  let s2 := (s1.setFld .modResetStatClearing (s.fld .modResetStatClearing 0) 0).setFld .modResetStatSource (s.fld .modResetStatSource 0) 0
  { s2 with
    hbm := [], poison := [], entries := [], groups := [], wgts := [], roles := [], srvs := [], turn := none, turnPast := [], routes := [], colls := [], tgs := [], runs := []
    pw := { s2.pw with spends := [], ctxNj := [], islNj := [], clsNj := [], totNj := 0 }
    mems := Tbl.mapVals memDef (fun _ m => { m with hbmAt := 0, bad := [] }) s2.mems }

/-- The reset is released: the clearing variant clears, and the firmware starts (R510, step 5). -/
def State.release (s : State) : State :=
  let s1 := if s.mod.clearing then s.clearModule else s
  let s2 := (List.range 24).foldl (fun t i => t.setFld .islStatState 2 i) s1
  { s2 with run := .boot, mod := { s2.mod with clearing := s.mod.clearing } }

/-- R510: the module leaves reset once no source holds it. -/
def execModuleResetRelease (s : State) : Out := when (s.run == .held && s.mod.holds.isEmpty && s.mod.main) s.release s

/-- R510: a module reset is requested by a source, in either variant. -/
def execModuleReset (source : Hold) (clearing : Bool) (s : State) : Out := .next (s.holdReset source clearing)

/-- R509, R520: a write of MOD_RESET: the reset is held for 1 ms. -/
def State.writeModReset (s : State) (w : Nat) : State :=
  let s1 := s.setFld .modResetClear (bits w 1 1) 0
  if bit w 0 then s1.holdReset .register (bit w 1) else s1

def execModResetGo (value : Nat) (s : State) : Out := .next (s.writeModReset value)

/-- R509: the 1 ms of a reset that a register write or an error started has passed. -/
def execModResetHoldExpiry (s : State) : Out := .next ((s.unhold .register).unhold .harbour)

/-- R511: an island reset. -/
def execIslandReset (island : Nat) (s : State) : Out := .next (s.islandReset island)

/-- R509: the islands named are reset. -/
def State.writeIslReset (s : State) (w : Nat) : State := ((List.range 24).filter (fun i => bit w i)).foldl (fun t i => t.islandReset i) s

def execModIslReset (value : Nat) (s : State) : Out := .next (s.writeIslReset value)

/-! ### Context reset (R512, R513) -/

/-- A context reset is asked for: landing windows answer with it from now on (R512, step 1). -/
def State.startCtxReset (s : State) (c : Nat) (disable : Bool) : State :=
  let s1 : State := if disable ∧ c ≠ 0 ∧ !s.mod.disabling.contains c then { s with mod := { s.mod with disabling := s.mod.disabling ++ [c] } } else s
  (s1.setFld .ctxStatResetting 1 c).setFld .ctxResetGo 1 c

/-- A decided group of the context whose actions are still to be applied (R512, step 3). -/
def State.groupPending (s : State) (c : Nat) : Bool := s.groups.any (fun g => g.ctx == c && g.decision == some true && !g.applied)

/-- The steps of R512 once decided groups are applied. -/
def State.ctxReset (s : State) (c : Nat) : State :=
  let ts := (s.tasks.filter (fun k => k.2.ctx == c)).map (fun k => k.1)
  let s1 := (ts.foldl (fun t k => t.removeTask k) s).modSrv c (fun x => { x with step := none, ops := [] })
  -- collectives, seals, turns and groups
  let s2 := (s1.groups.filter (fun g => g.ctx == c && g.decision.isNone)).foldl (fun t g => t.decideGroup g false 0 false) s1
  let open_ := sortBy (fun (a b : Entry) => decide (lwInst a.ctx a.stream < lwInst b.ctx b.stream ∨ (lwInst a.ctx a.stream = lwInst b.ctx b.stream ∧ a.seq ≤ b.seq)))
    (s2.entries.filter (fun e => e.ctx == c && !e.done))
  let s3 := open_.foldl (fun t e => t.commitRecord e St.contextReset 0) s2
  let s4 := (s3.colls.filter (fun k => k.ctx == c)).foldl (fun t k => t.abortColl k 1) s3
  let s5 := (s4.tgs.filter (fun g => g.ctx == c)).foldl (fun t g => match g.topic with | some x => t.castVote x.2 false false | none => t) s4
  let s6 := if s5.turn.any (fun u => u.ctx == c) then s5.castVote .turnOf false false else s5
  -- requests, loads, checkpoint writes and stage runs
  let s7 := (s6.slotList c).foldl (fun t i => t.endReq c i 5 St.contextReset) s6
  let s8 := (s7.loads.filter (fun j => j.ctx == c)).foldl (fun t j => t.failJob j St.contextReset 0) s7
  let s9 := (s8.ckpts.filter (fun k => k.ctx == c)).foldl (fun t k => t.endCkpt k St.contextReset 0) s8
  let s10 := (s9.runs.filter (fun r => r.ctx == c)).foldl (fun t r => t.endRun r St.contextReset 0) s9
  let rest := (s10.tasks.filter (fun k => k.2.ctx == c)).map (fun k => k.1)
  let s11 := rest.foldl (fun t k => t.dropTaskRec k) s10
  let s12 := (List.range 16).foldl (fun t q => t.setFld .lwCtlEn 0 (lwInst c q)) s11
  let s13 : State := { s12 with
    notifs := Tbl.keep (fun k => k / 16 % 64 != c) s12.notifs
    pw := { s12.pw with units := s12.pw.units.filter (fun u => u.ctx != c), paused := s12.pw.paused.filter (fun x => x != c) } }
  let off := s13.mod.disabling.contains c
  let s14 := if off then s13.setFld .ctxCtlEn 0 c else s13
  let s15 : State := { s14 with mod := { s14.mod with disabling := s14.mod.disabling.filter (fun x => x != c) } }
  ((s15.setFld .ctxStatResetting 0 c).setFld .ctxResetGo 0 c).raise 0x20 c 0

/-- R512: a context reset that was asked for runs, once every decided group of the context has been applied. -/
def execContextReset (ctx : Nat) (s : State) : Out :=
  when (s.fld .ctxStatResetting ctx == 1 && s.run == .ready && s.fld .jnlStatRecovering 0 == 0 && !s.groupPending ctx) (s.ctxReset ctx) s

/-- R509, R512: a write of CTX_RESET. -/
def State.writeCtxReset (s : State) (c w : Nat) : State := if bit w 0 && s.fld .ctxStatResetting c == 0 then s.startCtxReset c false else s

def execCtxResetGo (ctx value : Nat) (s : State) : Out := when (decide (ctx < 64)) (s.writeCtxReset ctx value) s

/-- R498, R519: a write of CTX_CTL by the owner; a write of 0 to EN starts a context reset, and EN reads 0 when it has ended. -/
def State.writeCtxCtl (s : State) (c w : Nat) : State :=
  let s1 := s.setFld .ctxCtlTestPerm (bits w 30 30) c
  if c = 0 then s1
  else if bit w 31 then s1.setFld .ctxCtlEn 1 c
  else if s.fld .ctxCtlEn c = 0 then s1
  else if s.fld .ctxStatResetting c = 0 then s1.startCtxReset c true
  else if s1.mod.disabling.contains c then s1
  else { s1 with mod := { s1.mod with disabling := s1.mod.disabling ++ [c] } }

def execCtxEnable (ctx value : Nat) (s : State) : Out := when (decide (ctx < 64)) (s.writeCtxCtl ctx value) s

/-- R500, R520: a write of MOD_TEST. -/
def State.writeModTest (s : State) (w : Nat) : State :=
  if bit w 31 then (s.setFld .modTestLock 1 0).setFld .modTestEn 0 0
  else if s.fld .modTestLock 0 = 1 then s
  else s.setFld .modTestEn (bits w 0 0) 0

def execTestLock (value : Nat) (s : State) : Out := .next (s.writeModTest value)

end Sys2Proof.Machine
end

