-- ==== Sys2Proof/Machine/Shown.lean ====
section
/-! DEFINITION. What the array window and cay window pages show of the arrays and cays of an island (R102, R112, R124, R127, R163). The pages of an island that is off
show what they showed when it went off (R541). -/
namespace Sys2Proof.Machine

/-- CAY_STAT and the other live words of a cay; `w` is what the register itself holds. -/
def State.cayWord (s : State) (r : CayRef) (off w : Nat) : Nat :=
  let c := s.cay r
  let each (p : Nat → Nat) : Nat := ((List.range 8).map p).sum
  match off with
  | 0x044 =>
    c.clock * 2 ^ 30 + c.lastCtx.getD 0 * 2 ^ 24 + each (fun t => b2n (c.thr t).bound * 2 ^ (16 + t)) +
      each (fun t => b2n ((c.thr t).bound && (c.thr t).st == .blocked) * 2 ^ (8 + t)) + b2n (s.shadowOn r.island)
  | 0x048 => each (fun t => (if (c.thr t).bound && (c.thr t).st == .blocked then (c.thr t).cause % 16 else 15) * 16 ^ t)
  | 0x058 => ins w 6 0 c.copies.length
  | 0x05C => ((List.range 16).map (fun f => b2n (c.copies.any (fun j => j.desc.fence == f)) * 2 ^ f)).sum
  | _ => w

/-- ARR_CFG, ARR_LAT and ARR_STAT of an array. -/
def State.arrWord (s : State) (r : CayRef) (a off w : Nat) : Nat :=
  let x := (s.cay r).arr a
  let k := cayKey r * 4 + a
  match off with
  | 0x044 =>
    match x.cfg with
    | none => 0
    | some g => g.shape * 2 ^ 12 + g.pos * 2 ^ 10 + (match g.g with | 32 => 1 | 64 => 2 | 128 => 3 | _ => 0) * 2 ^ 8 + g.aFmt * 2 ^ 4 + g.bFmt
  | 0x048 =>
    b2n (s.arrDisabled r a) * 2 ^ 8 + Tbl.get natZero s.fuse.spare k % 16 * 2 ^ 4 + b2n (Tbl.get boolFalse s.fuse.spareEn k) * 2 ^ 3 + s.latency r a
  | 0x04C =>
    let masked := x.task.any (fun t => (s.task t).mask.isSome)
    ins (ins (ins w 31 31 (b2n x.invalid)) 28 28 (b2n x.task.isSome)) 27 27 (b2n masked)
  | _ => w

/-- The words of one cay and its arrays as they stand are kept for the time the island is off. -/
def State.freezeCay (s : State) (k : Nat) : State :=
  let r := cayOfKey k
  let put (t : State) (cls off unit : Nat) (f : Nat → Nat) : State :=
    let key := rkey cls r.island off unit
    t.setReg key (BitVec.ofNat 32 (f (t.reg key).toNat))
  let s1 := [0x044, 0x048, 0x058, 0x05C].foldl (fun t o => put t 0x11 o (1 + r.cay) (s.cayWord r o)) s
  (List.range 4).foldl (fun t a => [0x044, 0x04C].foldl (fun t o => put t 0x10 o (arrUnit r a) (s.arrWord r a o)) t) s1

/-- The pages of an island keep what they show (R541); a cay at reset shows what its registers hold, but for SHADOW_RESV. -/
def State.freeze (s : State) (i : Nat) : State :=
  (if s.shadowOn i then (List.range 320).map (fun c => i * 320 + c) else (s.cays.filter (fun c => c.1 / 320 == i)).map (fun c => c.1)).foldl
    (fun t k => t.freezeCay k) s

end Sys2Proof.Machine
end

