-- ==== Sys2Proof/Machine/Power.lean ====
section
/-! DEFINITION. Admission and the planner, island power states, rails, the input supplies and heat (R446 to R468, R551 to R558). -/
namespace Sys2Proof.Machine

def State.ipw (s : State) (i : Nat) : IslPwr := Tbl.get islPwrDef s.pw.isl i

def State.modIpw (s : State) (i : Nat) (f : IslPwr → IslPwr) : State := { s with pw := { s.pw with isl := Tbl.upd islPwrDef s.pw.isl i f } }

/-! ### Admission (R460, R461) -/

/-- A record that waits for the energy planner alone (R214). -/
def State.waitsEnergy (s : State) (e : Entry) : Bool :=
  e.st == .accepted && e.durable && !e.admitted && e.point.isNone && s.ctxOn e.ctx && s.orderOk e && s.depsDone e && (s.failedDep e).isNone &&
    !s.groups.any (fun g => e.grp == some g.num && g.decision == some false)

/-- A unit that waits for admission: its account, its estimate in nJ, its effective class. -/
structure Waiting where
  id : UnitId
  ctx : Nat
  est : Nat
  cls : Nat
deriving DecidableEq, Repr

/-- Units that wait, in the order of R214 within each context. -/
def State.energyQueue (s : State) : List Waiting :=
  (s.entries.filter s.waitsEnergy).map (fun e => ⟨.record e.ctx e.stream e.seq, e.ctx, s.corrected e.ctx e.est e.eclass, s.recClass e⟩) ++
    s.runs.filterMap (fun r =>
      match r.at with
      | some x => if r.started ∧ r.task = none ∧ !r.admitted ∧ r.fail = none then
          some ⟨.entry r.unitId, r.ctx, s.corrected r.ctx x.2.2.2.est x.2.2.2.eclass, r.class_⟩ else none
      | none => none)

/-- The unit is admitted. -/
def State.admitUnit (s : State) (w : Waiting) : State :=
  let s1 := s.addUnit ⟨w.id, w.ctx, w.est, 0⟩
  match w.id with
  | .record c q n => s1.modEntry c q n (fun e => { e with admitted := true })
  | .entry n => { s1 with runs := s1.runs.map (fun r => if r.unitId = n then { r with admitted := true } else r) }
  | .step _ => s1

/-- A unit that no 1 s budget can hold commits at once (R461, R469). -/
def State.refuseUnit (s : State) (w : Waiting) (detail : Nat) : State :=
  let s1 := s.raise 0x22 w.ctx 1
  match w.id with
  | .record c q n => s1.reach c q n St.energyBudget detail
  | .entry n => { s1 with runs := s1.runs.map (fun r => if r.unitId = n then { r with fail := r.fail.or (some (St.energyBudget, detail)) } else r) }
  | .step _ => s1

/-- Units are considered one by one: the arbitration of R518 chooses the context, whose first unit is admitted, refused, or holds its context up. -/
def State.admitAll : Nat → State → List Waiting → State
  | 0, s, _ => s
  | fuel + 1, s, ws =>
    match s.vpick ptEnergy (ws.map (fun w => (w.ctx, w.cls))) with
    | none => s
    | some c =>
      match ws.find? (fun w => w.ctx == c) with
      | none => s
      | some w =>
        let rest := ws.filter (fun x => x.id != w.id)
        match s.overBudget w.ctx w.est with
        | some d => State.admitAll fuel (s.refuseUnit w d) rest
        | none =>
          if s.admits w.ctx w.est then State.admitAll fuel ((s.admitUnit w).vserve ptEnergy c (w.est / 1000)) rest
          else State.admitAll fuel (s.noteWait w.id w.ctx) (rest.filter (fun x => x.ctx != c))

/-- R461: waiting units are checked against the budgets. -/
def execAdmissionCheck (s : State) : Out :=
  let s0 := s.pruneSpends
  let ws := s0.energyQueue
  when (s.run == .ready) (State.admitAll ws.length (s0.vwaiting ptEnergy (noDups (ws.map (fun w => w.ctx)))) ws) s

/-- R455: an interval's metered energy, as attributed. -/
def execLedgerAttribute (parts : List Attr) (s : State) : Out := .next (parts.foldl (fun t a => t.attribute a) s)

/-! ### Pauses (R462) -/

/-- The priority class of a task: its record's, its stage run's, or the highest of the requests its step carries (R516). -/
def State.taskClass (s : State) (t : Nat) : Nat :=
  let x := s.task t
  match x.origin with
  | .record => ((s.taskEntry t).map s.recClass).getD 0
  | .stage _ _ => ((s.runs.find? (fun r => r.task == some t)).map (fun r => r.class_)).getD 0
  | .serving _ =>
    let cap := s.fld .ctxQosClassClassMax x.ctx
    match (s.srv x.ctx).step with
    | none => 0
    | some r => (r.carried.map (fun i => (((s.srv x.ctx).req i).map (fun q => min q.prio cap)).getD 0)).foldl max 0

/-- Tasks that have not ended, by number. -/
def State.liveTasks (s : State) : List Nat := (s.tasks.filter (fun k => k.2.st != .ended)).map (fun k => k.1)

/-- Tasks are paused: their threads block at the next instruction, and nothing of theirs starts (R462). -/
def State.pauseTasks (s : State) (p : Nat → Bool) : State := (s.liveTasks.filter p).foldl (fun t k => t.setTask k { t.task k with paused := true }) s

/-- Paused tasks go on. -/
def State.resumeTasks (s : State) (p : Nat → Bool) : State :=
  (s.liveTasks.filter (fun k => (s.task k).paused && p k)).foldl (fun t k =>
    let u := t.setTask k { t.task k with paused := false }
    (t.task k).live.foldl (fun v c =>
      let r := cayOfKey c
      (v.setCay r ((v.cay r).wakeIf (fun i w => ((v.cay r).thr i).task == k && w == .energy))).pump r) u) s

/-- The 1 ms budget of a context in nJ, where it has one. -/
def State.budget1ms (s : State) (c : Nat) : Option Nat := if s.fld .engCap1msW c = 0 then none else some (s.fld .engCap1msW c * 1000000)

/-- R462: a context that has spent more than 1.25 times its 1 ms budget is paused. -/
def execBudgetPause (ctx : Nat) (s : State) : Out :=
  match s.budget1ms ctx with
  | none => .next s
  | some b =>
    when (decide (ctx < 64) && !s.pw.paused.contains ctx && decide (5 * b < 4 * s.used ctx (us 1000)))
      (((({ s with pw := { s.pw with paused := s.pw.paused ++ [ctx] } } : State).pauseTasks (fun t => (s.task t).ctx == ctx)).bump .engPauseCnt ctx).raise 0x22 ctx 0) s

/-- R462: its tasks resume once used(1 ms) is within the budget. -/
def execBudgetResume (ctx : Nat) (s : State) : Out :=
  let inside := match s.budget1ms ctx with | none => true | some b => decide (s.used ctx (us 1000) ≤ b)
  when (s.pw.paused.contains ctx && inside)
    (({ s with pw := { s.pw with paused := s.pw.paused.filter (fun x => x != ctx) } } : State).resumeTasks (fun t => (s.task t).ctx == ctx && !s.pw.pausedCls.contains (s.taskClass t))) s

/-! ### Operating points (R448, R449, R462, R463) -/

/-- The nominal core rail of an operating point, in mV (R448). -/
def nominalMv (code : Nat) : Nat := match code with | 0 => 800 | 1 => 700 | 2 => 620 | _ => 550

/-- The island is in run. -/
def State.islRun (s : State) (i : Nat) : Bool := decide (i < 24) && s.fld .islStatState i == 0

def State.op (s : State) (i : Nat) : Nat := s.fld .islStatOp i

/-- The point an island is going to, or stands at. -/
def State.opGoal (s : State) (i : Nat) : Nat := (s.ipw i).ramp.getD (s.op i)

/-- An island is asked to change its point. -/
def State.askOp (s : State) (i c : Nat) : State := s.modIpw i (fun p => { p with ramp := if c = s.op i then none else some c })

/-- R449: a change of operating point is made: the divider switches and the rail stands at its nominal value. None is made while a rail hold is in force. -/
def execOperatingPointChange (island : Nat) (s : State) : Out :=
  match (s.ipw island).ramp with
  | none => .next s
  | some c =>
    when (s.islRun island && (s.ipw island).dip.isNone)
      (((s.setFld .islStatOp c island).setFld .islRailNowMv (nominalMv c) island).modIpw island (fun p => { p with ramp := none })) s

/-- The point the planner gives an island (R463, R466, R468): the fastest allowed, lowered for stalls no further than OP_MIN, then for the cap and for heat; code 3 under an input
undervoltage. -/
def State.pointFor (s : State) (i : Nat) : Nat :=
  let p := s.ipw i
  if s.fld .pwrStatUv 0 = 1 then 3
  else min 3 (min (s.fld .islPwrCtlOpMax i + p.stallDown) (max (s.fld .islPwrCtlOpMin i) (s.fld .islPwrCtlOpMax i)) + p.capDown + p.heatDown)

/-- Heat no longer holds an island that cooled 10 ms ago (R468). -/
def State.forgetHeat (s : State) (i : Nat) : State :=
  match (s.ipw i).cooled with
  | some t => if t + us 10000 ≤ s.ptime then s.modIpw i (fun p => { p with heatDown := 0, cooled := none }) else s
  | none => s

/-- R463: the planner chooses the point of each island in run; `miss` is each island's share of island-cache-miss stalls in percent, and `watts` the input power over the last 1 ms. Once that is
within the cap, what R462 lowered and paused for the cap is restored. -/
def execPlannerTick (watts : Nat) (miss : List Nat) (s : State) : Out :=
  let s0 : State := { s with pw := { s.pw with inputW := watts } }
  let ok := decide (watts ≤ s.modCap)
  let one (t : State) (i : Nat) : State :=
    if !t.islRun i then t
    else
      let share := miss.getD i 25
      let t1 := (t.forgetHeat i).modIpw i (fun p =>
        { p with
          stallDown := if 50 < share then min 3 (p.stallDown + 1) else if share < 25 then p.stallDown - 1 else p.stallDown
          capDown := if ok then 0 else p.capDown })
      t1.askOp i (t1.pointFor i)
  let s1 := (List.range 24).foldl one s0
  let s2 := if ok && !s.pw.pausedCls.isEmpty then
      ({ s1 with pw := { s1.pw with pausedCls := [] } } : State).resumeTasks (fun t => !s.pw.paused.contains (s.task t).ctx)
    else s1
  when (s.run == .ready) s2 s

/-- The lowest class of the tasks on an island; 4 where it has none. -/
def State.islClass (s : State) (i : Nat) : Nat := ((s.liveTasks.filter (s.runsOn i)).map s.taskClass).foldl min 4

/-- R462: the input power exceeds the cap: one running island is lowered by one code, the one whose tasks are of the lowest class first; with every one at code 3, tasks of the lowest class
present are paused. -/
def execCapExceeded (watts : Nat) (s : State) : Out :=
  let s0 := ({ s with pw := { s.pw with inputW := watts } } : State).raise 0x04 0 3
  let up := (List.range 24).filter (fun i => s.islRun i && decide (s.opGoal i < 3))
  let pick := up.foldl (fun (m : Option Nat) i => match m with | none => some i | some j => if s.islClass i < s.islClass j then some i else some j) none
  let s1 :=
    match pick with
    | some i => (s0.modIpw i (fun p => { p with capDown := min 3 (p.capDown + 1) })).askOp i (s.opGoal i + 1)
    | none =>
      let open_ := s.liveTasks.filter (fun t => !(s.task t).paused)
      match (open_.map s.taskClass).min? with
      | none => s0
      | some c => ({ s0 with pw := { s0.pw with pausedCls := noDups (s0.pw.pausedCls ++ [c]) } } : State).pauseTasks (fun t => s.taskClass t == c)
  when (s.run == .ready && decide (s.modCap < watts)) s1 s

/-! ### Island power states (R451 to R454) -/

/-- No bound task, no copy descriptor, no open speculative task and no shadow recomputation (R452). -/
def State.quietIsland (s : State) (i : Nat) : Bool :=
  (s.cays.filter (fun c => c.1 / 320 == i)).all (fun c => c.2.tasks.isEmpty && c.2.copies.isEmpty && c.2.shadow.isNone) && (s.specOpen i).isEmpty

/-- The islands not off hold together, and reach both harbour dies (R23, R24, R28). -/
def gridWhole (on : List Nat) : Bool :=
  let near (a b : Nat) : Bool := (a / 4 == b / 4 && (a % 4 + 1 == b % 4 || b % 4 + 1 == a % 4)) || (a % 4 == b % 4 && (a / 4 + 1 == b / 4 || b / 4 + 1 == a / 4))
  let grow (seen : List Nat) : List Nat := on.filter (fun x => seen.contains x || seen.any (fun y => near x y))
  let reach := (List.range 24).foldl (fun seen _ => grow seen) (on.take 1)
  on.all (fun x => reach.contains x) && (on.isEmpty || (on.any (fun x => decide (x < 4)) && on.any (fun x => decide (20 ≤ x))))

/-- Taking the island off leaves the grid whole (R28). -/
def State.mayCut (s : State) (i : Nat) : Bool := gridWhole ((List.range 24).filter (fun x => x != i && !s.islOff x))

/-- The stack of an island holds no copy of the journal or of the serving state area (R452). -/
def State.stackFree (s : State) (i : Nat) : Bool := (s.jnlPlaced ++ s.splPlaced).all (fun p => p.stack != i)

/-- The engine of an island holds no open collective, post or relay (R452). -/
def State.engineFree (s : State) (i : Nat) : Bool := s.colls.all (fun k => !bit k.open_ i) && (s.eng i).posts.isEmpty && (s.eng i).relays.isEmpty

/-- R452: a quiet island goes to sleep, where the planner may choose it or the owner forces it. -/
def execIslandSleep (island : Nat) (s : State) : Out :=
  let f := s.fld .islPwrCtlForce island
  when (s.islRun island && s.quietIsland island && ((f == 0 && s.fld .islPwrCtlSleepEn island == 1) || f == 2))
    (((s.setFld .islStatState 1 island).setFld .islStatReady 0 island).raise 0x15 island 3) s

/-- An island goes off: what its SRAMs hold is lost, its strait is dark, and of its pages only stall counters and monitor selections are lost (R451, R514, R515). -/
def State.islandOff (s : State) (i : Nat) : State :=
  let s1 := ((((s.freeze i).dropStrait i 0).wipeIsland i).clearMons (islandMons i)).clearVts (fun p => p == i || p == 24 + i || p == 48 + i)
  let s2 := s1.keepRegs (fun k => !(ofIsland i k && (isStall k || keyOff k == monSel)))
  let s3 : State := { s2 with mems := Tbl.upd memDef s2.mems i (fun m => { m with tested := false }) }
  ((s3.setFld .islStatState 2 i).setFld .islStatReady 0 i).raise 0x15 i 3

/-- R452, R454: an idle island that is quiet goes off. -/
def execIslandOff (island : Nat) (s : State) : Out :=
  let f := s.fld .islPwrCtlForce island
  let st := s.fld .islStatState island
  when (decide (island < 24) && decide (st ≤ 1) && s.role island == 0 && s.quietIsland island && s.engineFree island && s.stackFree island && s.mayCut island &&
      ((f == 0 && s.fld .islPwrCtlOffEn island == 1) || f == 3)) (s.islandOff island) s

/-- Field entries take effect (R113): each array's row is replaced, or the array is disabled where it has no spare left. -/
def Fuses.apply (f : Fuses) (i : Nat) : Fuses :=
  (f.repairs.filter (fun r => r.1 == i)).foldl (fun g r =>
    match r.2 with
    | .arrayRow c a row =>
      let k := (i * 320 + c) * 4 + a
      if !Tbl.get boolFalse g.spareEn k then { g with spareEn := Tbl.set boolFalse g.spareEn k true, spare := Tbl.set natZero g.spare k row }
      else if Tbl.get natZero g.spare k = row then g
      else { g with disabled := Tbl.set boolFalse g.disabled k true }
    | _ => g) f

/-- An island leaves off: its field entries take effect (R113). -/
def State.leaveOff (s : State) (i : Nat) : State := if s.islOff i then { s with fuse := s.fuse.apply i } else s

/-- R453: an island wakes: its profile is applied, and after off its strait trains from dark. A dip during the wake holds it up (R465). -/
def execIslandWake (island : Nat) (s : State) : Out :=
  let st := s.fld .islStatState island
  let asleep := st == 1 || st == 2 || st == 3
  let s1 := (((((s.leaveOff island).setFld .islStatState 0 island).setFld .islStatReady 1 island).setFld .islCtlWake 0 island).setFld .islRailNowMv (nominalMv (s.op island)) island)
  let s2 := if s.fld .strStatState island = 0 ∧ s.fld .strCtlEn island = 1 ∧ !s.strTripped island then s1.setFld .strStatState 1 island else s1
  when (decide (island < 24) && s.run == .ready && (s.ipw island).dip.isNone && (asleep || s.fld .islStatReady island == 0))
    (if asleep then (s2.bump .islWakeCnt island).raise 0x15 island 3 else s2) s

/-- R453: an access to the stack of an off island brings up its uncore, and the island stands in sleep. -/
def execUncoreWake (island : Nat) (s : State) : Out :=
  when (decide (island < 24) && s.fld .islStatState island == 2 && s.run == .ready) (((s.leaveOff island).setFld .islStatState 1 island).raise 0x15 island 3) s

/-- R454, R471: a write of ISL_PWR_CTL. Off is ignored unless the island is idle and the grid stays whole; OP_MIN below OP_MAX leaves the register unchanged. -/
def State.writeIslPwr (s : State) (i w : Nat) : State :=
  let f := bits w 31 30
  if bits w 27 26 < bits w 29 28 then s
  else
    let s1 := if f = 3 ∧ !(s.role i == 0 && s.mayCut i) then s else s.setFld .islPwrCtlForce f i
    (((s1.setFld .islPwrCtlOpMax (bits w 29 28) i).setFld .islPwrCtlOpMin (bits w 27 26) i).setFld .islPwrCtlSleepEn (bits w 25 25) i).setFld .islPwrCtlOffEn (bits w 24 24) i

def execIslandForce (island value : Nat) (s : State) : Out := when (decide (island < 24)) (s.writeIslPwr island value) s

/-- R454, R471: a write of ISL_CTL starts a wake. -/
def State.writeIslCtl (s : State) (i w : Nat) : State :=
  if !bit w 0 ∨ s.fld .islStatReady i = 1 then s
  else
    let s1 := (s.leaveOff i).setFld .islCtlWake 1 i
    let st := s.fld .islStatState i
    if st = 1 ∨ st = 2 then s1.setFld .islStatState 3 i else s1

def execWake (island value : Nat) (s : State) : Out := when (decide (island < 24)) (s.writeIslCtl island value) s

/-! ### Rails (R464, R465) -/

/-- HOLD is in force by the rail or by heat at code 3 (R465, R468). -/
def State.setHold (s : State) (i : Nat) : State :=
  let p := s.ipw i
  s.setFld .islStatHold (b2n (p.dip.isSome || (p.thrIsl && s.op i == 3))) i

/-- The levels of an island's rail in mV: warning, reset, release (R464). -/
def State.railWarn (s : State) (i : Nat) : Nat := nominalMv (s.op i) - s.fld .islRailCfgWarnMv i
def State.railReset (s : State) (i : Nat) : Nat := nominalMv (s.op i) - s.fld .islRailCfgResetMv i
def State.railRelease (s : State) (i : Nat) : Nat := s.railWarn i + s.fld .islRailCfgHystMv i

/-- The rail of an island reads a value during a dip. -/
def State.dipTo (s : State) (i mv : Nat) (reset : Bool) : State :=
  (s.modIpw i (fun p => { p with dip := some (match p.dip with
    | none => ⟨mv, s.ptime, reset⟩
    | some d => ⟨min d.low mv, d.start, d.reset || reset⟩) })).setFld .islRailNowMv mv i

/-- R465: the rail crosses the warning level, or falls again within the same dip: starts are held. -/
def execRailDip (island mv : Nat) (s : State) : Out :=
  let d := (s.ipw island).dip
  when (decide (island < 24) && !s.islOff island && (if d.isSome then decide (mv < s.railRelease island) else decide (mv < s.railWarn island)))
    ((s.dipTo island mv false).setHold island) s

/-- R465: the rail has stayed above the release level: the dip is counted, logged and over. After a reset-level crossing the island then wakes. -/
def execRailDipRelease (island mv : Nat) (s : State) : Out :=
  match (s.ipw island).dip with
  | none => .next s
  | some d =>
    if mv ≤ s.railRelease island then .next s
    else
      let s1 := ((s.modIpw island (fun p => { p with dip := none })).setFld .islRailNowMv mv island).setHold island
      let s2 := (s1.bump .islDipCnt island).setFld .islDipMinMv d.low island
      let s3 := (s2.logAdd 0x04 island (leBytes 4 d.low ++ leBytes 4 ((s.ptime - d.start) * 40))).raise 0x15 island 0
      .next (if d.reset ∧ s3.fld .islStatState island = 0 then s3.setFld .islStatReady 1 island else s3)

/-- R465: the rail crosses the reset level: the island is reset and stays held; a wake in progress starts again from off. -/
def execRailReset (island mv : Nat) (s : State) : Out :=
  if 24 ≤ island ∨ s.islOff island ∨ s.railReset island ≤ mv then .next s
  else
    let s0 := s.dipTo island mv true
    let low := ((s0.ipw island).dip.map (fun d => d.low)).getD mv
    let waking := s.fld .islStatState island = 3
    let s1 := if waking then s0.islandOff island else s0.islandReset island
    let s2 := if waking then s1.setFld .islCtlWake 1 island else s1.setFld .islStatReady 0 island
    let s3 := (s2.bump .islUvResetCnt island).setHold island
    .next ((s3.logAdd 0x05 island (leBytes 4 low)).raise 0x15 island 1)

/-! ### Supplies (R446, R466, R551 to R553) -/

/-- Everything but the fuses and the flash is as at cold power-up; what stands in the queue, what was sent and the counter of free values are no state of the module (R446, R514). -/
def State.cold (s : State) : State :=
  { State.reset with
    fuse := (List.range 24).foldl Fuses.apply s.fuse, fw := { s.fw with measured := [] }, outbox := s.outbox, free := s.free, pending := s.pending, die := 0, taskNum := s.taskNum, groupNum := s.groupNum, txnNum := s.txnNum
    collNum := s.collNum, runNum := s.runNum, stoNum := s.stoNum, hostTag := s.hostTag
    cw := { Causeway.reset with failed := s.cw.failed, taken := s.outbox.length }, stos := Tbl.mapVals stoDef (fun _ p => { StoPort.reset with failed := p.failed }) s.stos }

/-- The boot bank named first is kept with the flash (R533). -/
def State.coldBoot (s : State) (main : Bool) : State :=
  let t := (s.cold.setFld .fwBootNext (s.fld .fwBootNext 0) 0)
  { t with run := if main then .boot else .off, mod := { Module.reset with main := main, clearing := true } }

/-- R446, R553: standby rises above its good level: a cold power-up. -/
def execStandbyGood (s : State) : Out := when (!s.mod.standby) (s.coldBoot s.mod.main) s

/-- R553: loss of standby is a power cycle: the 48 V load is dropped and all state is lost. -/
def execStandbyLoss (s : State) : Out :=
  let t := s.coldBoot false
  when s.mod.standby { t with mod := { t.mod with standby := false, main := s.mod.main } } s

/-- R552, R553: 48 V has become good; with standby good the boot ROM runs, as at the release of a module reset. -/
def execMainInputGood (mv : Nat) (s : State) : Out :=
  if s.mod.main ∨ mv < 44000 then .next s
  else
    let s1 : State := { s with mod := { s.mod with main := true }, pw := { s.pw with inputMv := mv } }
    if !s.mod.standby then .next s1
    else
      let s2 := if s.fld .cwStatState 0 = 0 ∧ s1.ports.ir ≠ .laneLb then s1.setFld .cwStatState 1 0 else s1
      .next ((if s.mod.holds.isEmpty then { s2 with run := .boot } else { s2 with run := .held }))

/-- R466: the input has stayed below 42.0 V: nothing new is admitted and every running island goes to code 3. -/
def execInputUv (mv : Nat) (s : State) : Out :=
  let s1 : State := { s with pw := { s.pw with inputMv := mv } }
  let s2 := ((s1.setFld .pwrStatUv 1 0).raise 0x04 0 2).alert 2
  when (s.mod.main && decide (mv < 42000) && s.fld .pwrStatUv 0 == 0)
    (((List.range 24).filter (fun i => s.islRun i)).foldl (fun t i => t.askOp i 3) s2) s

/-- R466: the input has stayed below 38.0 V: module reset is held. -/
def execInputUvReset (mv : Nat) (s : State) : Out :=
  when (s.mod.main && decide (mv < 38000)) ((({ s with pw := { s.pw with inputMv := mv } } : State).holdReset .input false).alert 2) s

/-- R466: below 30.0 V the 48 V input is lost, with HBM and the journal; the always-on domain stays (R446). -/
def execMainInputLoss (mv : Nat) (s : State) : Out :=
  let s1 := (if s.run = .held ∨ s.run = .off then s else s.stopModule).cwOff
  when (s.mod.main && decide (mv < 30000))
    ({ (s1.setRun .off).alert 2 with
      hbm := [], poison := [], entries := [], groups := [], wgts := [], roles := [], srvs := [], turn := none, colls := [], tgs := [], runs := []
      mod := { s1.mod with main := false, holds := s1.mod.holds.filter (fun h => h != .input) }, pw := { s1.pw with inputMv := mv } }) s

/-- R466: the input has stayed above 44.0 V for `ms`: after 1 ms admission goes on, after 10 ms module reset is let go. -/
def execInputRecovery (mv ms : Nat) (s : State) : Out :=
  if mv ≤ 44000 ∨ ms = 0 then .next s
  else
    let s1 := ({ s with pw := { s.pw with inputMv := mv } } : State).setFld .pwrStatUv 0 0
    .next (if 10 ≤ ms then s1.unhold .input else s1)

/-- R556: the module-reset input is held low. -/
def execModRstNAssert (s : State) : Out := .next (s.holdReset .pin false)

/-- R509: the module-reset input is released. -/
def execModRstNRelease (s : State) : Out := .next (s.unhold .pin)

/-! ### Heat (R467, R468) -/

/-- A reading in 0.125 °C, 16-bit two's complement (R467, R470). -/
def tempOf (r : Nat) : Int := sgn 16 (r % 2 ^ 16)

/-- Sensors are numbered islands first (4 of each), harbour dies (2 of each), stacks, then optical engines (log entry 37). The limits of a sensor in 0.125 °C: warning, throttle,
trip. -/
def sensorLimits (n : Nat) : Int × Int × Int :=
  if n < 100 then (760, 800, 880) else if n < 124 then (680, 720, 800) else (560, 2 ^ 20, 680)

def sensors : Nat := 148

/-- The reading of a sensor; one never read stands at 0. -/
def State.temp (s : State) (n : Nat) : Int := tempOf (Tbl.get natZero s.pw.temps n)

def State.setTemp (s : State) (n r : Nat) : State := { s with pw := { s.pw with temps := Tbl.set natZero s.pw.temps n (r % 2 ^ 16) } }

/-- The sensors of an island. -/
def islSensors (i : Nat) : List Nat := (List.range 4).map (fun k => 4 * i + k)

/-- R468: a sensor crosses its warning level. -/
def execThermalWarn (sensor reading : Nat) (s : State) : Out :=
  when (decide (sensor < sensors) && decide ((sensorLimits sensor).1 ≤ tempOf reading)) (((s.setTemp sensor reading).raise 0x04 0 0).alert 1) s

/-- The island is lowered by one code for heat; at code 3 its starts are held (R468). -/
def State.heatStep (s : State) (i : Nat) : State :=
  if s.op i = 3 then s.setHold i
  else (s.modIpw i (fun p => { p with heatDown := min 3 (p.heatDown + 1) })).askOp i (min 3 (s.opGoal i + 1))

/-- R468: a sensor crosses its throttle level. -/
def execThermalThrottle (sensor reading : Nat) (s : State) : Out :=
  if sensors ≤ sensor ∨ tempOf reading < (sensorLimits sensor).2.1 then .next s
  else
    let s1 := s.setTemp sensor reading
    if 96 ≤ sensor ∧ sensor < 100 then .next ((s1.setFld .pwrStatThrottle 1 0).bump .pwrThrottleCnt 0)
    else
      let i := if sensor < 96 then sensor / 4 else sensor - 100
      let s2 := s1.modIpw i (fun p => { p with thrIsl := true, cooled := none, thrStack := p.thrStack || decide (100 ≤ sensor) })
      .next (((s2.heatStep i).bump .islThrottleCnt i).raise 0x15 i 2)

/-- The hottest reading of the sensors that throttle an island, below their throttle level by a margin. -/
def State.coolBy (s : State) (i : Nat) (margin : Int) : Bool :=
  (islSensors i ++ [100 + i]).all (fun n => decide (s.temp n + margin ≤ (sensorLimits n).2.1))

/-- R468: 1 ms later a throttled island is lowered again, until its hottest sensor is 3 °C below throttle. -/
def execThrottleStep (island : Nat) (readings : List Nat) (s : State) : Out :=
  let s1 := ((islSensors island ++ [100 + island]).zip readings).foldl (fun t p => t.setTemp p.1 p.2) s
  let s2 := if s1.coolBy island 24 then (s1.modIpw island (fun p => { p with thrIsl := false, cooled := some s.ptime })).setHold island else s1.heatStep island
  when (decide (island < 24) && (s.ipw island).thrIsl) s2 s

/-- R468: a harbour-die or stack sensor falls back below its throttle level. -/
def execThermalThrottleRelease (sensor reading : Nat) (s : State) : Out :=
  if sensor < 96 ∨ 124 ≤ sensor ∨ (sensorLimits sensor).2.1 ≤ tempOf reading then .next s
  else
    let s1 := s.setTemp sensor reading
    if sensor < 100 then .next (if [96, 97, 98, 99].all (fun n => decide (s1.temp n < (sensorLimits n).2.1)) then s1.setFld .pwrStatThrottle 0 0 else s1)
    else .next (s1.modIpw (sensor - 100) (fun p => { p with thrStack := false }))

/-- R468: an optical engine at trip disables its strait; any other sensor at trip holds module reset. -/
def execThermalTrip (sensor reading : Nat) (s : State) : Out :=
  if sensors ≤ sensor ∨ tempOf reading < (sensorLimits sensor).2.2 then .next s
  else
    let s1 := s.setTemp sensor reading
    if 124 ≤ sensor then
      let i := sensor - 124
      .next (({ s1 with pw := { s1.pw with tripped := noDups (s1.pw.tripped ++ [i]) } } : State).dropStrait i 0)
    else .next ((s1.logAdd 0x06 0xFF (leBytes 4 sensor ++ leBytes 4 (reading % 2 ^ 16))).holdReset .thermal false)

/-- R468: sensors are 10 °C below warning: an optical engine's strait may train again; with every other sensor so, module reset is let go and THERMAL_TRIP is raised. -/
def execThermalTripRelease (sensor reading : Nat) (s : State) : Out :=
  let cool (t : State) (n : Nat) : Bool := decide (t.temp n + 80 ≤ (sensorLimits n).1)
  let s1 := s.setTemp sensor reading
  if sensors ≤ sensor ∨ !cool s1 sensor then .next s
  else if 124 ≤ sensor then
    let i := sensor - 124
    let s1 : State := { s1 with pw := { s1.pw with tripped := s1.pw.tripped.filter (fun x => x != i) } }
    .next (if s.fld .strStatState i = 0 ∧ s.fld .strCtlEn i = 1 ∧ !s.islOff i ∧ s.run = .ready then s1.setFld .strStatState 1 i else s1)
  else if s.mod.holds.contains .thermal && (List.range sensors).all (cool s1) then .next ((s1.unhold .thermal).raise 0x04 0 1)
  else .next s1

end Sys2Proof.Machine
end

