-- ==== Sys2Proof/Machine/Ctxs.lean ====
section
/-! DEFINITION. Contexts: translation, message interrupts, the events of pages, and arbitration (R501 to R508, R516 to R518, R538, R539). -/
namespace Sys2Proof.Machine

/-! ### Translation (R501 to R505) -/

/-- R505: a write of CTX_TT_INV. No translation is held beyond the access it was walked for, so the invalidation has ended at once (log entry 39). -/
def State.writeTtInv (s : State) (c w : Nat) : State := s.setFld .ctxTtInvScope (bits w 1 1) c

def execTtInvalidate (ctx value : Nat) (s : State) : Out := when (decide (ctx < 64)) (s.writeTtInv ctx value) s

/-- A fault of CAUSE 7 is a read of poison at the entry it read (R479). -/
def State.walkFault (s : State) (ctx cause agent isl dva : Nat) : State :=
  let s1 := if cause = 7 then s.notePoison (s.walk ctx dva).left else s
  s1.noteFault ctx cause agent isl dva

/-- R503: an agent's access is translated; a fault is counted, latched and raised. The agents are those of CTX_FAULT_CAPT: collectives, the update pipe and storage reach no host tier. -/
def execTranslationWalk (ctx dva agent island : Nat) (wr spec demand : Bool) (s : State) : Out :=
  let cause := s.accessCause ctx (s.walk ctx dva) wr spec (agent == 2 || agent == 3 || agent == 5) demand
  when (decide (ctx < 64) && decide (agent < 7) && cause != 0) (s.walkFault ctx cause agent (if agent < 4 then island else 0) dva) s

/-! ### Message interrupts (R506 to R508) -/

/-- R507: a module vector is raised. -/
def execVectorRaise (vector : Nat) (s : State) : Out := when (decide (vector < 2048)) (s.raiseModule vector) s

/-- R507: MASK of a module vector is written; from 1 to 0 with PENDING set one message is sent. -/
def State.maskVector (s : State) (v m : Nat) : State :=
  let s1 := s.setFld .irqVctlMask m 0 (1 + v)
  if s.fld .irqVctlMask 0 (1 + v) = 1 ∧ m = 0 ∧ s.fld .irqVctlPending 0 (1 + v) = 1 then (s1.setFld .irqVctlPending 0 0 (1 + v)).emit (.message v) else s1

def execVectorUnmask (vector value : Nat) (s : State) : Out := when (decide (vector < 2048)) (s.maskVector vector (bits value 0 0)) s

/-- The defined event bits of each page's class (R537, R549). -/
def nevt (cls : Nat) : Nat :=
  match cls with
  | 0x00 => 1 | 0x01 => 2 | 0x02 => 1 | 0x03 => 1 | 0x04 => 4 | 0x05 => 4 | 0x07 => 2 | 0x08 => 3 | 0x09 => 2 | 0x0A => 2
  | 0x10 => 4 | 0x11 => 2 | 0x12 => 1 | 0x14 => 4 | 0x15 => 4 | 0x16 => 4 | 0x17 => 3 | 0x18 => 1
  | 0x20 => 3 | 0x21 => 1 | 0x22 => 2 | 0x23 => 3 | 0x24 => 3 | 0x25 => 2 | 0x26 => 3
  | _ => 0

/-- R508, R538: an event of a page takes place and its message is sent where it is enabled and routed. -/
def execEventRouteMessage (cls inst event : Nat) (s : State) : Out :=
  when (decide (inst < instances cls) && decide (event < nevt cls)) (s.raise cls inst event) s

/-- The page belongs to the logic of an island that is off (R541); the memory and power pages are held in the harbour dies (R471, R495). -/
def State.pageOff (s : State) (cls inst : Nat) : Bool := decide (0x10 ≤ cls) && decide (cls ≤ 0x18) && cls != 0x14 && cls != 0x15 && s.islOff inst

/-- R539: a write of CTL.EVT_TEST of a page. -/
def State.evtTest (s : State) (ctx cls inst w : Nat) : State :=
  if !s.testPerm ctx || s.pageOff cls inst then s
  else ((List.range (min 8 (nevt cls))).filter (fun n => bit w n)).foldl (fun t n => t.raise cls inst n) s

def execEvtTest (ctx cls inst value : Nat) (s : State) : Out :=
  when (decide (inst < instances cls) && reachable ctx (cls * 2 ^ 20 + inst * 2 ^ 12)) (s.evtTest ctx cls inst value) s

/-! ### Arbitration (R517, R518) -/

/-- R518: an arbitration point serves one of the contexts that wait, given with the effective class of the unit each presents, at a cost. -/
def State.arbitrate (s : State) (pt : Nat) (waiting : List (Nat × Nat)) (cost : Nat) : State :=
  let s1 := s.vwaiting pt (noDups (waiting.map (fun w => w.1)))
  match s1.vpick pt waiting with
  | none => s1
  | some c => s1.vserve pt c cost

def execQosArbitrate (point : Nat) (waiting : List (Nat × Nat)) (cost : Nat) (s : State) : Out :=
  when (decide (point ≤ ptEnergy) && waiting.all (fun w => decide (w.1 < 64) && decide (w.2 < 4))) (s.arbitrate point waiting cost) s

/-- R518: a unit has waited a full QOS_AGE at a point. -/
def execQosAge (ctx stream seq : Nat) (s : State) : Out := .next (s.age ctx stream seq)

end Sys2Proof.Machine
end

