-- ==== Sys2Proof/Machine/Reliab.lean ====
section
/-! DEFINITION. Errors and poison, scrubbing, field repair, stack loss, and the monitor units (R473 to R494). -/
namespace Sys2Proof.Machine

def State.memst (s : State) (i : Nat) : MemSt := Tbl.get memDef s.mems i

def State.modMem (s : State) (i : Nat) (f : MemSt → MemSt) : State := { s with mems := Tbl.upd memDef s.mems i f }

/-! ### Error records (R480, R481) -/

/-- The four words of an error record; `type` is 1 corrected or 2 uncorrectable. -/
def errWords (e : ErrAt) (type ptime : Nat) : List Nat :=
  [ 2 ^ 31 + e.mem * 2 ^ 26 + type * 2 ^ 24 + e.unit * 2 ^ 19 + e.cay % 2 ^ 9 * 2 ^ 10,
    bits e.addr 36 5,
    e.syndrome % 2 ^ 16 * 2 ^ 16 + e.symbol % 2 ^ 5 * 2 ^ 8 + bits e.addr 4 3 * 2 ^ 6 + e.nbits % 4 * 2 ^ 4,
    e.ctx % 64 * 2 ^ 26 + b2n e.scrub * 2 ^ 25 + bits ptime 47 23 ]

/-- The island of an error: a stack's is the island that owns it. -/
def errSound (e : ErrAt) : Bool := if e.mem = 6 then decide (e.unit < 2) else decide (e.mem < 6) && decide (e.unit < 24)

/-- The first error after VALID was cleared is captured; a later one sets OVERFLOW (R480). -/
def State.captureErr (s : State) (cls inst off : Nat) (ws : List Nat) : State :=
  let k := rkey cls inst off 0
  let w := (s.reg k).toNat
  if bit w 31 then s.setReg k (BitVec.ofNat 32 (w ||| 2 ^ 30))
  else ws.zipIdx.foldl (fun t x => t.setReg (rkey cls inst (off + 4 * x.2) 0) (BitVec.ofNat 32 x.1)) s

/-- Offsets of MEM_CE_CAPT0 and of ERR_LOG0 (R495, R537). -/
def ceCapt : Nat := 0x060
def errLog : Nat := 0x020

/-! ### Corrected errors (R476, R477) -/

/-- Corrections a row has had. -/
def RowEnt.total (r : RowEnt) : Nat := (r.words.map (fun w => w.2)).sum

/-- One more correction at a word of a row. -/
def RowEnt.add (r : RowEnt) (w : Nat) : RowEnt :=
  { r with words := if r.words.any (fun x => x.1 == w) then r.words.map (fun x => if x.1 = w then (w, x.2 + 1) else x) else r.words ++ [(w, 1)] }

/-- Three distinct words, or three corrections at one word. -/
def RowEnt.recurs (r : RowEnt) : Bool := decide (3 ≤ r.words.length) || r.words.any (fun x => decide (3 ≤ x.2))

/-- A full table loses the row with the fewest corrections, the lowest among equals. -/
def evictRow (rs : List RowEnt) : List RowEnt :=
  if rs.length < 64 then rs
  else
    match rs.foldl (fun (m : Option RowEnt) r => match m with
      | none => some r
      | some x => if r.total < x.total ∨ (r.total = x.total ∧ r.row < x.row) then some r else some x) none with
    | none => rs
    | some v => rs.filter (fun r => r.row != v.row)

/-- A correction in HBM enters the row table; a row that becomes recurring is counted, logged, raised and offered to repair. -/
def State.noteRow (s : State) (i row addr : Nat) : State :=
  let m := s.memst i
  let old := (m.rows.find? (fun r => r.row == row)).getD ⟨row, [], false⟩
  let r := old.add (addr / 8)
  let now := r.recurs && !old.recurring
  let r1 := { r with recurring := r.recurring || now }
  let rest := m.rows.filter (fun x => x.row != row)
  let keep := if m.rows.any (fun x => x.row == row) then rest else evictRow rest
  let s1 := s.modMem i (fun x => { x with rows := keep ++ [r1], bad := if now then noDups (x.bad ++ [row]) else x.bad })
  if !now then s1 else ((s1.bump .memRecurCnt i).logAdd 0x02 i (leBytes 4 (bits addr 36 5) ++ leBytes 4 r1.total)).raise 0x14 i 2

/-- R476, R477: an access finds a correctable error and uses the corrected value; `row` is the HBM row it lies in. -/
def execCorrectedError (e : ErrAt) (row : Nat) (s : State) : Out :=
  if !errSound e then .next s
  else if e.mem = 6 then .next (s.bump .hbCeCnt 0)
  else
    let s1 := (s.bump .memCeCnt e.unit).captureErr 0x14 e.unit ceCapt (errWords e 1 s.ptime)
    .next (if e.mem = 4 then s1.noteRow e.unit row e.addr else s1)

/-- R476: the corrected word is written back, which changes no value and invalidates nothing. -/
def execCorrectedWriteBack (mem unit addr : Nat) (s : State) : Out :=
  let _ := (mem, unit, addr)
  .next s

/-! ### Stack loss (R487) -/

/-- The shards of every context with a page on a stack. -/
def State.shardsOn (s : State) (st : Nat) : List (Nat × ShardAt × Shard) :=
  s.wgts.flatMap (fun e =>
    let w := e.2
    let gens := w.models.flatMap (fun m => m.2.slots.flatMap (fun g => g.2.shards.zipIdx.map (fun x => (e.1, ShardAt.gen m.1 g.1 x.2, x.1))))
    let ims := w.images.zipIdx.map (fun x => (e.1, ShardAt.image x.2, x.1.shard))
    (gens ++ ims).filter (fun x => !x.2.2.invalid && x.2.2.pages.any (fun k => stackOf k == st)))

/-- A stack is lost: it answers with poison, its shards are invalid, and the loss is raised and logged (R487). -/
def State.loseStack (s : State) (st cause : Nat) : State :=
  if s.stackLost st then s
  else
    let s1 := (s.setFld .memStatStack 1 st).raise 0x14 st 1
    let s2 := (s.shardsOn st).foldl (fun t x => t.invalidShard x.1 x.2.1 x.2.2) s1
    s2.logAdd 0x03 st (leBytes 4 cause)

/-- R487: a stack fails retraining three times (1), or reports an internal fault (2). -/
def execStackLost (stack cause : Nat) (s : State) : Out := when (decide (stack < 24) && (cause == 1 || cause == 2)) (s.loseStack stack cause) s

/-- R487, R495: a write of MEM_CTL. -/
def State.writeMemCtl (s : State) (i w : Nat) : State :=
  let s1 := (if bits w 7 0 = 0 then s else s.setFld .memCtlUeLimit (bits w 7 0) i).setFld .memCtlExclude (bits w 31 31) i
  if bit w 31 then s1.loseStack i 4 else s1

def execStackExclude (stack value : Nat) (s : State) : Out := when (decide (stack < 24)) (s.writeMemCtl stack value) s

/-! ### Uncorrectable errors and poison (R478, R479) -/

/-- An uncorrectable error is counted, captured, logged and raised. -/
def State.noteUe (s : State) (e : ErrAt) : State :=
  let ws := errWords e 2 s.ptime
  ((((s.bump .memUeCnt e.unit).captureErr 0x14 e.unit errLog ws).logAdd 0x01 e.unit (ws.flatMap (leBytes 4))).raise 0x14 e.unit 0)

/-- R478: an uncorrectable error poisons the word or resets the island or the module; a word already poisoned has neither. -/
def execUncorrectableError (e : ErrAt) (row : Nat) (s : State) : Out :=
  if !errSound e then .next s
  else if e.mem = 6 then
    let ws := errWords e 2 s.ptime
    .next (((s.captureErr 0x02 0 errLog ws).logAdd 0x01 (0x20 + e.unit) (ws.flatMap (leBytes 4))).holdReset .harbour false)
  else if e.mem ≠ 4 then .next ((s.noteUe e).islandReset e.unit)
  else
    let k := hbmKey e.unit (e.addr % 2 ^ 36)
    if !hbmExists k ∨ s.poisoned (k / 8 * 8) 8 then .next s
    else
      let s1 : State := { s with poison := s.poison ++ [k / 8] }
      let recent := ((s.memst e.unit).ues.filter (fun t => decide (s.ptime < t + us 1000000))) ++ [s.ptime]
      let s2 := (s1.modMem e.unit (fun m => { m with ues := recent, bad := noDups (m.bad ++ [row]) })).noteUe e
      let s3 := if s.fld .memCtlUeLimit e.unit < recent.length then s2.loseStack e.unit 3 else s2
      .next (s3.islandReset e.unit)

/-- A poisoned place of the journal's ring is written again from the other copy (R479). -/
def State.mendJournal (s : State) (slot : Nat) : State :=
  match s.entryBytes slot with
  | none => s
  | some b =>
    [false, true].foldl (fun t c =>
      let k := t.jnlBase c + 2 ^ 16 + 256 * slot
      if !t.stackLost (stackOf k) && t.poisoned k 256 then t.hbmWrite none k b else t) s

/-- R479: a read of an HBM address returns poison to a reader. -/
def execPoisonRead (reader : PoisonReader) (addr : Nat) (s : State) : Out :=
  if !hbmExists addr ∨ !s.poisoned addr 1 then .next s
  else
    match reader with
    | .task t dva => .next (s.poisonTask t dva addr)
    | .coll n dva => match s.colls.find? (fun k => k.num == n) with | some k => .next (s.poisonColl k dva addr) | none => .next (s.notePoison addr)
    | .ckpt c q n dva =>
      (match s.ckpt c q n with
      | some k => let e := s.poisonEnd c dva addr; .next (e.1.endCkpt k e.2.1 e.2.2)
      | none => .next (s.notePoison addr))
    | .journal slot => .next ((s.notePoison addr).mendJournal slot)
    | .scrubber => .next (s.notePoison addr)

/-! ### Scrubbing (R482 to R484) -/

/-- 64-bit words of an HBM stack, and of the SRAMs of an island: its local stores, its cache and its instruction stores, in that order; other SRAM sizes are given by no rule
(log entry 38). -/
def hbmWords : Nat := stackBytes / 8
def sramWords : Nat := (320 * lsTop + 48 * 2 ^ 20 + 320 * 2 ^ 16) / 8

/-- R482, R484: the scrubber reads the next word; a poisoned one is counted only. -/
def execScrubWalk (island : Nat) (hbm : Bool) (s : State) : Out :=
  let st := s.fld .islStatState island
  if 24 ≤ island ∨ s.run ≠ .ready then .next s
  else if hbm then
    if st = 2 then .next s
    else
      let k := hbmKey island (8 * (s.memst island).hbmAt)
      let s1 := s.modMem island (fun m => { m with hbmAt := (m.hbmAt + 1) % hbmWords })
      .next (if s.poisoned k 8 then s1.notePoison k else s1)
  else when (st == 0) (s.modMem island (fun m => { m with sramAt := (m.sramAt + 1) % sramWords })) s

/-- R477, R483: a pass ends; `late` where it overran its period by more than 25 %. -/
def execScrubPassEnd (island : Nat) (hbm late : Bool) (s : State) : Out :=
  let s1 := if hbm then (s.bump .memScrubPassCnt island).modMem island (fun m => { m with rows := [], hbmAt := 0 }) else s.modMem island (fun m => { m with sramAt := 0 })
  when (decide (island < 24)) (if late then s1.setFld .memStatScrubLate 1 island else s1) s

/-! ### Field repair (R485, R486) -/

/-- Field entries left of an island's pool of 64. -/
def State.repFree (s : State) (i : Nat) : Nat := 64 - (s.fuse.repairs.filter (fun r => r.1 == i)).length

/-- The owner's test-enable bit is set and the island is idle. -/
def State.repAllowed (s : State) (i : Nat) : Bool := s.fld .modTestEn 0 == 1 && s.role i == 0

/-- R486: the test starts or runs to its end: `found` are the defects of SRAMs and arrays; recurring and uncorrectable HBM rows join them. -/
def execRepairTest (island : Nat) (found : List Defect) (s : State) : Out :=
  let all := found ++ (s.memst island).bad.map Defect.hbmRow
  let fits := decide (all.length ≤ s.repFree island)
  let s1 : State := { s with cays := Tbl.mapVals cayDef (fun k c => if k / 320 = island then { c with ls := [] } else c) s.cays, ics := Tbl.keep (fun k => k != island) s.ics }
  let s2 := s1.modMem island (fun m => { m with tested := true, found := all })
  when (decide (island < 24) && s.repAllowed island)
    ((((s2.setFld .repStatBusy 0 island).setFld .repStatFound (min 255 all.length) island).setFld .repStatRepairable (b2n fits) island).raise 0x14 island 3) s

/-- A burned array row takes its array's spare; a second one disables the array (R112, R114, R485). -/
def Fuses.burn (f : Fuses) (i : Nat) (d : Defect) : Fuses := { f with repairs := f.repairs ++ [(i, d)] }

/-- The first code that refuses a burn; 0 where none does (R486). -/
def State.burnErr (s : State) (i : Nat) : Nat :=
  if s.fld .modTestEn 0 = 0 then 1
  else if !(s.memst i).tested then 2
  else if s.fld .repStatRepairable i = 0 then 3
  else if s.role i ≠ 0 then 4
  else 0

/-- The entries the test found are burned, or the burn is refused. -/
def State.burn (s : State) (i : Nat) : State :=
  let e := s.burnErr i
  if e ≠ 0 then s.setFld .repStatErr e i
  else
    let ds := (s.memst i).found
    let s1 : State := { s with fuse := ds.foldl (fun f d => f.burn i d) s.fuse }
    (((s1.modMem i (fun m => { m with found := [] })).setFld .repStatErr 0 i).logAdd 0x08 i (leBytes 4 ds.length ++ leBytes 4 (s1.repFree i))).raise 0x14 i 3

/-- R486, R495: a write of REP_CTL. -/
def State.writeRepCtl (s : State) (i w : Nat) : State :=
  match bits w 1 0 with
  | 1 => if s.repAllowed i then s.setFld .repStatBusy 1 i else s
  | 2 => s.burn i
  | _ => s

def execRepairBurn (island : Nat) (s : State) : Out := when (decide (island < 24)) (s.burn island) s

/-! ### Monitor units (R490 to R494) -/

def State.mon (s : State) (u : Nat) : MonUnit := Tbl.get monDef s.mons u

/-- The codes a page presents (R491). -/
def signalOk (cls code : Nat) : Bool :=
  if code = 1 then [0x10, 0x11, 0x12, 0x14, 0x15, 0x17, 0x18, 0x16, 0x09, 0x0A, 0x05, 0x23, 0x22, 0x24, 0x04].contains cls
  else if code = 2 then [0x11, 0x12, 0x14, 0x15, 0x16, 0x05, 0x23, 0x22].contains cls
  else if code = 3 then [0x14, 0x15, 0x23].contains cls
  else false

/-- The signal is sampled periodically. -/
def signalPeriodic (cls code : Nat) : Bool :=
  (code == 2 && (cls == 0x11 || cls == 0x12 || cls == 0x14 || cls == 0x15 || cls == 0x16 || cls == 0x05)) || (code == 3 && (cls == 0x14 || cls == 0x15)) ||
    (code == 1 && (cls == 0x15 || cls == 0x16 || cls == 0x04))

/-- The page of a class and instance by its number. -/
def pageCls (p : Nat) : Nat := p / 256
def pageInst (p : Nat) : Nat := p % 256

/-- The pages a unit may select (R490). -/
def monMay (u p : Nat) : Bool := if u < 192 then decide (0x10 ≤ pageCls p) && decide (pageCls p ≤ 0x18) && pageInst p == u / 8 else decide (u < 256)

/-- A value as a signed integer of `w` bits, saturated. -/
def satInt (w : Nat) (v : Int) : Int := max (-(2 ^ (w - 1) : Int)) (min (2 ^ (w - 1) - 1 : Int) v)

/-- The bin of a sample (R492). -/
def binOf (log2 : Bool) (base shift v : Int) : Nat :=
  let edge (i : Nat) : Int := if log2 then 2 ^ (shift.toNat + i) else base + (i : Int) * 2 ^ shift.toNat
  if v < edge 0 then 0 else ((List.range 30).find? (fun i => decide (v < edge (i + 1)))).elim 31 (fun i => i + 1)

/-- One sample enters a unit's results (R492). -/
def monAdd (m : MonRes) (bin : Nat) (v : Int) : MonRes :=
  ⟨min m.min v, max m.max v, min (2 ^ 32 - 1) (m.count + 1), satInt 64 (m.sum + v), Tbl.upd natZero m.bins bin (fun n => min (2 ^ 32 - 1) (n + 1))⟩

/-- A unit takes a sample, and its limits are checked (R492, R494). -/
def State.monTake (s : State) (u : Nat) (x : Int) : State :=
  let f (fl : Fld) : Nat := s.fld fl 0 (1 + u)
  let v := satInt 32 x
  let b := binOf (f .monBinLog2 == 1) (sgn 24 (f .monBinBase)) (f .monBinShift : Nat) v
  let s1 : State := { s with mons := Tbl.upd monDef s.mons u (fun m => { m with now := monAdd m.now b v }) }
  let past := (f .monCfgHiEn == 1 && decide (sgn 32 (f .monHi) < v)) || (f .monCfgLoEn == 1 && decide (v < sgn 32 (f .monLo)))
  if !past then s1
  else
    let s2 := s1.raise 0x03 0 0
    if s2.fld .monLimitCaptValid 0 = 1 then s2
    else ((s2.setFld .monLimitCaptValid 1 0).setFld .monLimitCaptUnit u 0).setFld .monLimitVal ((v % 2 ^ 32).toNat) 0

/-- The units that watch a signal of a page now; `ctx` is the context that caused the sample, where one did (R491). -/
def State.monUnits (s : State) (page code : Nat) (ctx : Option Nat) : List Nat :=
  let sel := (s.reg (rkey (pageCls page) (pageInst page) monSel 0)).toNat
  let island := decide (0x10 ≤ pageCls page) && decide (pageCls page ≤ 0x18)
  if code = 0 ∨ !signalOk (pageCls page) code then []
  else
    (List.range 256).filter (fun u =>
      let f (fl : Fld) : Nat := s.fld fl 0 (1 + u)
      f .monCfgEn == 1 && f .monCfgPage == page && (if f .monCfgSrcB = 1 then bits sel 15 8 else bits sel 7 0) == code &&
        (!(island && f .monCfgCtxEn == 1) || signalPeriodic (pageCls page) code || ctx == some (f .monCfgCtx)))

def State.monSample (s : State) (x : Sample) (ctx : Option Nat) : State := (s.monUnits x.page x.code ctx).foldl (fun t u => t.monTake u x.value) s

/-- R492: a signal that is not periodic has a sample. -/
def execMonitorSample (x : Sample) (ctx : Option Nat) (s : State) : Out :=
  when (!signalPeriodic (pageCls x.page) x.code) (s.monSample x ctx) s

/-- The value of a periodic signal that the module's state gives; none where it is measured (R491). -/
def State.signalNow (s : State) (cls inst code : Nat) : Option Int :=
  let nat (n : Nat) : Option Int := some (n : Int)
  if cls = 0x11 ∧ code = 2 then
    nat ((s.cays.filter (fun c => c.1 / 320 == inst)).map (fun c => ((List.range 8).filter (fun t => (c.2.thr t).bound && (c.2.thr t).st != .blocked)).length)).sum
  else if cls = 0x12 ∧ code = 2 then nat (s.ic inst).fetches.length
  else if cls = 0x14 ∧ code = 3 then some (s.temp (100 + inst))
  else if cls = 0x15 ∧ code = 2 then (islSensors inst).map s.temp |>.max?
  else if cls = 0x16 ∧ code = 1 then nat (((s.str inst).unacked.map (fun f => f.data.length + 20)).sum / 1024)
  else if cls = 0x05 ∧ code = 2 then nat s.jnlFill
  else if cls = 0x04 ∧ code = 1 then nat s.pw.inputW
  else none

/-- R491: a unit's interval passes: its periodic signal is sampled; `measured` is the value where no state of the module gives it. -/
def execMonitorPeriodic (unit : Nat) (measured : Int) (s : State) : Out :=
  let f (fl : Fld) : Nat := s.fld fl 0 (1 + unit)
  let p := f .monCfgPage
  let sel := (s.reg (rkey (pageCls p) (pageInst p) monSel 0)).toNat
  let code := if f .monCfgSrcB = 1 then bits sel 15 8 else bits sel 7 0
  when (decide (unit < 256) && f .monCfgEn == 1 && signalOk (pageCls p) code && signalPeriodic (pageCls p) code)
    (s.monTake unit ((s.signalNow (pageCls p) (pageInst p) code).getD measured)) s

/-- R493: a write of MON_CMD: the snapshot is taken, then the results are zeroed. -/
def State.writeMonCmd (s : State) (w : Nat) : State :=
  let u := s.fld .monUnitUnit 0
  { s with mons := Tbl.upd monDef s.mons u (fun m => ⟨if bit w 1 then MonRes.reset else m.now, if bit w 0 then m.now else m.snap⟩) }

def execSnap (s : State) : Out := .next (s.writeMonCmd 1)

def execClear (s : State) : Out := .next (s.writeMonCmd 2)

/-- R493, R497: a write of MON_CFG configures the selected unit and clears its results; a page it may not select leaves it unchanged. -/
def State.writeMonCfg (s : State) (w : Nat) : State :=
  let u := s.fld .monUnitUnit 0
  if !monMay u (bits w 29 16) then s
  else
    let s1 := s.setReg (rkey 0x03 0 Fld.monCfgEn.off (1 + u)) (BitVec.ofNat 32 (w / 2 ^ 7 * 2 ^ 7))
    { s1 with mons := Tbl.upd monDef s1.mons u (fun m => { m with now := MonRes.reset }) }

def execMonCfgWrite (value : Nat) (s : State) : Out := .next (s.writeMonCfg (value % 2 ^ 32))

end Sys2Proof.Machine
end

