-- ==== Sys2Proof/Machine/Security.lean ====
section
/-! DEFINITION. Boot, firmware and attestation (R521 to R533). -/
namespace Sys2Proof.Machine

/-! ### Images (R523, R524) -/

/-- A byte string cut or filled with zeros to a length. -/
def padTo (n : Nat) (bs : List (BitVec 8)) : List (BitVec 8) := (bs ++ List.replicate n 0).take n

def FlashImage.bytes : FlashImage → List (BitVec 8)
  | .factory _ => []
  | .given b => b

/-- IMAGE_DIGEST (R523). -/
def imageDigest (b : List (BitVec 8)) : List (BitVec 8) := sha3 (b.take 0x560)

/-- An image as it is measured: its TYPE, KEY_SLOT, SVN, VERSION and IMAGE_DIGEST. -/
def FlashImage.measure : FlashImage → Measured
  | .factory t => Measured.ofFactory t
  | .given b => ⟨leAt b 6 1, leAt b 7 1, leAt b 8 4, leAt b 0x10 8, imageDigest b⟩

/-- The first check of R524 that refuses an image of an expected TYPE; 0 where none does. A factory image passes the checks of its digests and signature (log entry 36). -/
def State.imageCode (s : State) (type : Nat) (im : FlashImage) : Nat :=
  let m := im.measure
  let zero (b : List (BitVec 8)) (o n : Nat) : Bool := ((b.drop o).take n).all (fun x => x == 0)
  let shape := match im with
    | .factory t => t == type
    | .given b => leAt b 0 4 == 0x4257494D && leAt b 4 2 == 1 && m.type == type && zero b 0x18 8 && zero b 0xED4 44
  let key := match im with | .factory _ => true | .given b => sha3 ((b.drop 0x40).take 1312) == padTo 32 (Config.keyDigest m.slot)
  let sum := match im with | .factory _ => true | .given b => sha3 ((b.drop 0xF00).take (leAt b 0xC 4)) == (b.drop 0x20).take 32
  let sig := match im with | .factory _ => true | .given b => Config.mldsaVerify ((b.drop 0x40).take 1312) m.digest ((b.drop 0x560).take 2420)
  if !shape then 1
  else if 4 ≤ m.slot ∨ bit s.fuse.revoked m.slot ∨ !key then 2
  else if m.svn < s.fuse.svn then 3
  else if !sum then 4
  else if !sig then 5
  else 0

/-! ### The boot chain (R525 to R528) -/

/-- An image of a TYPE in a bank. -/
def Bank2.image (b : Bank2) (type : Nat) : Option FlashImage := b.images.find? (fun im => im.measure.type == type)

/-- The boot configuration's payload: FLAGS, FAB_ID, FAB_SYSTEM (R527); the factory's leaves the fabric unassigned (log entry 36). -/
def bootConf (b : Bank2) : Nat × Nat × Nat :=
  match b.image 4 with
  | some (.given x) => (leAt x 0xF00 4, leAt x 0xF04 2, leAt x 0xF08 4)
  | _ => (0, 0x3FFF, 0)

/-- The images of a bank that a boot checks, in order (R525): the route image where the boot configuration names one. -/
def bootTypes (b : Bank2) : List Nat := [1, 2, 3, 4] ++ (if bit (bootConf b).1 0 && (b.image 5).isSome then [5] else [])

/-- The first image of a bank that fails, with its TYPE and code. -/
def State.bankFails (s : State) (b : Bank2) : Option (Nat × Nat) :=
  (bootTypes b).findSome? (fun t =>
    let code := match b.image t with | some im => s.imageCode t im | none => 1
    if code = 0 then none else some (t, code))

def Firmware.bank (f : Firmware) (b : Bool) : Bank2 := if b then f.bankB else f.bankA

def Firmware.setBank (f : Firmware) (b : Bool) (x : Bank2) : Firmware := if b then { f with bankB := x } else { f with bankA := x }

def State.bootLog (s : State) (bank type code : Nat) : State := s.logAdd 0x09 0x20 (leBytes 1 bank ++ leBytes 1 type ++ leBytes 1 code)

/-- A bank is tried: accepted and made active, or rejected, which clears its mark and is logged (R525). -/
def State.tryBank (s : State) (b : Bool) : State × Bool :=
  let x := s.fw.bank b
  if !x.valid then (s, false)
  else
    match s.bankFails x with
    | some (t, code) => (({ s with fw := s.fw.setBank b { x with valid := false } } : State).bootLog (b2n b) t code, false)
    | none => ({ s with fw := { s.fw with active := b, measured := ((bootTypes x).filterMap x.image).map FlashImage.measure } }, true)

/-- The boot configuration acts at a cold power-up and a clearing module reset (R527). -/
def State.bootConfigure (s : State) : State :=
  let x := s.fw.bank s.fw.active
  let c := bootConf x
  let s1 := (s.setFld .fabIdId c.2.1 0).setFld .fabSystem c.2.2 0
  let s2 := if bit c.1 0 then (match x.image 5 with | some im => (s1.loadImage (im.bytes.drop 0xF00)).1 | none => s1) else s1
  if bit c.1 1 then s2.setFld .fabLockLock 1 0 else s2

/-- The firmware goes on (R43, R510): readiness follows at once, or once the journal has recovered. -/
def State.goReady (s : State) : State :=
  let s1 := if s.mod.clearing then s.bootConfigure else s
  let s2 : State := { s1 with mod := { s1.mod with clearing := false } }
  if s2.fld .jnlCtlEn 0 = 1 then s2.setFld .jnlStatRecovering 1 0 else s2.setRun .ready

/-- Both banks are rejected: the golden set runs in recovery, or nothing does (R525, R528). -/
def State.goRecovery (s : State) : State :=
  match s.fw.golden.head? with
  | none => s.setRun .stopped
  | some im =>
    let code := s.imageCode 6 im
    if code ≠ 0 then (s.bootLog 2 6 code).setRun .stopped
    else
      let s1 : State := { s with fw := { s.fw with measured := [im.measure] }, mod := { s.mod with clearing := false } }
      s1.setRun .recovery

/-- R525: the boot ROM and the firmware check the banks and go on. -/
def execBootChain (s : State) : Out :=
  if s.run != .boot || !s.mod.main || s.fld .jnlStatRecovering 0 == 1 then .next s
  else
    let next := s.fld .fwBootNext 0 == 1
    let first := if (s.fw.bank next).valid then next else s.fw.active
    let s0 : State := { s with fw := { s.fw with measured := [] } }
    let r := s0.tryBank first
    if r.2 then .next r.1.goReady
    else
      let r2 := r.1.tryBank (!first)
      .next (if r2.2 then r2.1.goReady else r2.1.goRecovery)

/-- R232: the journal recovers; where the firmware waits for it, readiness follows (R43). -/
def execJournalRecovery (s : State) : Out :=
  when (s.fld .jnlStatRecovering 0 == 1 && s.fld .jnlCtlEn 0 == 1) (if s.run = .boot then s.recover.setRun .ready else s.recover) s

/-! ### Installation and fuses (R530, R531) -/

/-- The images of a set, each on a 4 KiB boundary; none where the set is not made of whole images. `fuel` bounds them. -/
def splitSet : Nat → List (BitVec 8) → Option (List FlashImage)
  | 0, bs => if bs.isEmpty then some [] else none
  | fuel + 1, bs =>
    if bs.isEmpty then some []
    else
      let n := leAt bs 0xC 4
      let size := 0xF00 + n
      if bs.length < size ∨ n = 0 ∨ 2 ^ 25 < n then none
      else
        match splitSet fuel (bs.drop (ceilDiv size 4096 * 4096)) with
        | none => none
        | some rest => some (.given (bs.take size) :: rest)

/-- What an install answers for the bytes of a set: the code of its first image that fails, 8 where the set is not complete, 0 where it may be written. -/
def State.setCode (s : State) (bs : List (BitVec 8)) : Nat × List FlashImage :=
  match splitSet (bs.length / 4096 + 1) bs with
  | none => (8, [])
  | some ims =>
    let types := ims.map (fun im => im.measure.type)
    let bad := ims.findSome? (fun im =>
      let t := im.measure.type
      let c := if 1 ≤ t ∧ t ≤ 5 then s.imageCode t im else 1
      if c = 0 then none else some c)
    match bad with
    | some c => (c, [])
    | none =>
      let whole := [1, 2, 3, 4].all (fun t => types.count t == 1) && decide (types.count 5 ≤ 1)
      if whole then (0, ims) else (8, [])

/-- The host reads of an install. -/
def fwOwner : ReadOwner := .op 20 0

/-- An operation of the security page ends with a code (R530). -/
def State.fwEnd (s : State) (err : Nat) : State := (((s.dropReads fwOwner).setFld .fwStatBusy 0 0).setFld .fwStatErr err 0).raise 0x01 0 0

/-- An install goes on: it waits for host bytes, or ends (R530). -/
def State.install (s : State) : State :=
  let n := s.fld .fwLenBytes 0
  let other := !s.fw.active
  if n % 4096 ≠ 0 ∨ n = 0 ∨ 48 * 2 ^ 20 < n then s.fwEnd 8
  else
    match s.dvaRead 0 (s.fld64 .fwSrcLoAddr .fwSrcHiAddr 0) n fwOwner false with
    | .wait t => t
    | .fault c a => (s.faultEnd 0 c 6 0 a).1.fwEnd 8
    | .poison a k => (s.poisonEnd 0 a k).1.fwEnd 8
    | .ok b =>
      let r := s.setCode b
      if r.1 ≠ 0 then s.fwEnd r.1
      else (({ s with fw := s.fw.setBank other ⟨true, r.2⟩ } : State).setFld .fwBootNext (b2n other) 0).fwEnd 0

/-- The install begins: the other bank's mark is cleared, and is written last (R530). -/
def State.installing (s : State) : State := ({ s with fw := s.fw.setBank (!s.fw.active) ⟨false, []⟩ } : State).setFld .fwStatBusy 1 0

def State.startInstall (s : State) : State := s.installing.install

/-- R531: SVN_FUSE is advanced, or the advance is refused. -/
def State.advance (s : State) : State :=
  let v := s.fld .fwAdvanceSvnSvn 0
  let old := s.fw.bank (!s.fw.active)
  let below (b : Bank2) : Bool := b.images.any (fun im => decide (im.measure.svn < v))
  if v ≤ s.fuse.svn ∨ below (s.fw.bank s.fw.active) ∨ (old.valid && below old) then s.fwEnd 6
  else ({ s with fuse := { s.fuse with svn := v } } : State).fwEnd 0

/-- R531: the other bank's mark is cleared. -/
def State.eraseAlt (s : State) : State :=
  let b := !s.fw.active
  ({ s with fw := s.fw.setBank b { s.fw.bank b with valid := false } } : State).fwEnd 0

/-- R531: a key slot is revoked, or the revocation is refused. -/
def State.revoke (s : State) : State :=
  let k := s.fld .fwKeySlot 0
  let old := s.fw.bank (!s.fw.active)
  let names (b : Bank2) : Bool := b.images.any (fun im => im.measure.slot == k)
  let others := [0, 1, 2, 3].any (fun j => j != k && !bit s.fuse.revoked j)
  if names (s.fw.bank s.fw.active) || (old.valid && names old) || !others then s.fwEnd 7
  else ({ s with fuse := { s.fuse with revoked := s.fuse.revoked ||| 2 ^ k } } : State).fwEnd 0

/-- The state goes on unless an operation is in progress (R530). -/
def State.ifIdle (s : State) (b : Bool) (f : State → State) : State := if b && s.fld .fwStatBusy 0 == 0 then f s else s

/-- R530, R531, R533: a write of FW_CTL; while BUSY is 1 it is ignored. -/
def State.writeFwCtl (s : State) (w : Nat) : State :=
  if s.fld .fwStatBusy 0 = 1 then s
  else (((s.ifIdle (bit w 1) State.advance).ifIdle (bit w 2) State.eraseAlt).ifIdle (bit w 3) State.revoke).ifIdle (bit w 0) State.startInstall

/-- R530: an install is asked for, or goes on while BUSY is 1. -/
def execInstall (s : State) : Out :=
  .next (if s.fld .fwStatBusy 0 = 1 then s.install else s.startInstall)

def execAdvance (s : State) : Out := .next (s.ifIdle true State.advance)
def execEraseAlt (s : State) : Out := .next (s.ifIdle true State.eraseAlt)
def execRevoke (s : State) : Out := .next (s.ifIdle true State.revoke)

/-! ### Identity and attestation (R526, R529, R532) -/

/-- The seed of the identity key pair: SHA3-256 of "BW-NK4-ID" and UDS (R529). -/
def identitySeed : List (BitVec 8) := sha3 ([0x42, 0x57, 0x2D, 0x4E, 0x4B, 0x34, 0x2D, 0x49, 0x44] ++ padTo 32 Config.uds)

/-- The identity public key, and the digest that SMBus IDENTITY returns. -/
def identityKey : List (BitVec 8) := padTo 1312 (Config.mldsaPublic identitySeed)
def identityDigest : List (BitVec 8) := sha3 identityKey

/-- MEAS (R526). -/
def Firmware.meas (f : Firmware) : List (BitVec 8) := f.measured.foldl (fun m x => sha3 (m ++ padTo 32 x.digest)) (List.replicate 32 0)

/-- An entry of the report's image list. -/
def Measured.entry (m : Measured) : List (BitVec 8) :=
  leBytes 1 m.type ++ [0] ++ leBytes 1 m.slot ++ [0] ++ leBytes 4 m.svn ++ leBytes 8 m.version ++ padTo 32 m.digest

/-- One bit for each context. -/
def ctxBits (p : Nat → Bool) : Nat := ((List.range 64).map (fun c => b2n (p c) * 2 ^ c)).sum

/-- Bytes 0x000 to 0x75F of the report (R532). -/
def State.reportHead (s : State) : List (BitVec 8) :=
  let flags := b2n (s.run == .recovery) + 2 * s.fld .modTestEn 0 + 4 * s.fld .modTestLock 0 + 8 * b2n s.fw.active
  leBytes 4 0x41545354 ++ leBytes 2 1 ++ leBytes 1 s.fw.measured.length ++ leBytes 1 flags ++
    ((List.range 8).flatMap (fun i => leBytes 4 (s.fld (Fld.nth .attNonce i) 0))) ++ identityDigest ++ s.fw.meas ++ leBytes 4 s.fuse.svn ++
    leBytes 2 (s.fld .fabIdId 0) ++ [0, 0] ++ leBytes 4 (s.fld .fabSystem 0) ++ leBytes 4 (s.reg (Fld.key .modResetStatSource 0 0)).toNat ++ leBytes 8 s.ptime ++
    leBytes 8 (ctxBits s.ctxOn) ++ leBytes 8 (ctxBits (fun c => s.fld .ctxCtlTestPerm c == 1)) ++ leBytes 8 (ctxBits (fun c => s.fld .wgtCtlTurnPerm c == 1)) ++
    List.replicate 40 0 ++ padTo 384 (s.fw.measured.flatMap Measured.entry) ++ identityKey

/-- The report, signed by the identity key. -/
def State.report (s : State) : List (BitVec 8) :=
  let h := s.reportHead
  padTo 4352 (h ++ padTo 2420 (Config.mldsaSign identitySeed (sha3 h)))

/-- R532: a write of ATT_CTL: the report is written and ATT_DONE is raised. -/
def State.writeAttCtl (s : State) (w : Nat) : State :=
  if !bit w 0 then s else (s.devWrite 0 (s.fld64 .attAddrLoAddr .attAddrHiAddr 0) s.report).raise 0x01 0 1

def execAttestationReport (value : Nat) (s : State) : Out := .next (s.writeAttCtl value)

end Sys2Proof.Machine
end

