-- ==== Sys2Proof/Machine/Ports.lean ====
section
/-! DEFINITION. The SMBus management port, the boundary-scan port and the sideband pins (R440 to R444, R552, R555, R556). -/
namespace Sys2Proof.Machine

/-! ### SMBus (R440 to R442) -/

/-- A transaction at the port: none while standby is absent; one with a bad PEC byte is not acknowledged and has no effect (R440). -/
def smbus (pec : Bool) (s : State) (f : State → State × List (BitVec 8)) : Out :=
  if !s.mod.standby then .next s
  else if !pec then .next (s.emit (.smbus none))
  else .next ((f s).1.emit (.smbus (some (f s).2)))

/-- A read: the state does not change. -/
def smbusRead (pec : Bool) (s : State) (f : State → List (BitVec 8)) : Out := smbus pec s (fun t => (t, f t))

/-- A write: it answers no bytes. -/
def smbusWrite (pec : Bool) (s : State) (f : State → State) : Out := smbus pec s (fun t => (f t, []))

/-- A word that is read, or written with a value. -/
def smbusWord (pec : Bool) (write : Option Nat) (s : State) (get : State → Nat) (put : State → Nat → State) : Out :=
  match write with
  | none => smbusRead pec s (fun t => leBytes 2 (get t))
  | some v => smbusWrite pec s (fun t => put t (v % 2 ^ 16))

/-- Some sensor stands at its warning level or above. -/
def State.thermalWarning (s : State) : Bool := (List.range sensors).any (fun n => decide ((sensorLimits n).1 ≤ s.temp n))

/-- The STATUS word (R441). -/
def State.smbusStatus (s : State) : Nat :=
  b2n s.mod.standby + 2 * b2n s.mod.main + 4 * b2n s.cwReady + 8 * b2n (s.run == .held) + 16 * b2n (s.run == .held && s.mod.holds.contains .standby) +
    32 * b2n s.thermalWarning + 64 * b2n s.ports.asserts

def execStatus (pec : Bool) (s : State) : Out := smbusRead pec s (fun t => leBytes 2 t.smbusStatus)

def execPoweredTime (pec : Bool) (s : State) : Out := smbusRead pec s (fun t => leBytes 8 t.ptime)

/-- The hottest sensor: its index and reading, the lowest index among equals. -/
def State.hottest (s : State) : Nat × Int :=
  (List.range sensors).foldl (fun m n => if m.2 < s.temp n then (n, s.temp n) else m) (0, s.temp 0)

def execTempMax (pec : Bool) (s : State) : Out := smbusRead pec s (fun t => leBytes 2 (t.hottest.2 % 2 ^ 16).toNat)

def execInputPower (pec : Bool) (s : State) : Out := smbusRead pec s (fun t => leBytes 2 t.pw.inputW)

def execInputVoltage (pec : Bool) (s : State) : Out := smbusRead pec s (fun t => leBytes 2 t.pw.inputMv)

/-- R441: the cap is 1,000 to 12,000 W; other values are ignored. -/
def execPowerCap (pec : Bool) (write : Option Nat) (s : State) : Out :=
  smbusWord pec write s (fun t => t.pw.smbusCap) (fun t v => if 1000 ≤ v ∧ v ≤ 12000 then { t with pw := { t.pw with smbusCap := v } } else t)

def execSmbusResetHold (pec : Bool) (s : State) : Out := smbusWrite pec s (fun t => t.holdReset .smbus false)

def execSmbusResetClearing (pec : Bool) (s : State) : Out := smbusWrite pec s (fun t => t.holdReset .smbus true)

def execSmbusResetRelease (pec : Bool) (s : State) : Out := smbusWrite pec s (fun t => t.unhold .smbus)

def execStandbyEnter (pec : Bool) (s : State) : Out := smbusWrite pec s (fun t => t.holdReset .standby false)

def execStandbyLeave (pec : Bool) (s : State) : Out := smbusWrite pec s (fun t => t.unhold .standby)

/-- R441: a written 1 clears an alert bit. -/
def execAlertStatus (pec : Bool) (write : Option Nat) (s : State) : Out :=
  smbusWord pec write s (fun t => t.ports.alert) (fun t v => t.setPorts { t.ports with alert := t.ports.alert &&& (15 - v % 16) })

def execAlertMask (pec : Bool) (write : Option Nat) (s : State) : Out :=
  smbusWord pec write s (fun t => t.ports.alertMask) (fun t v => t.setPorts { t.ports with alertMask := v })

def execLogIndex (pec : Bool) (value : Nat) (s : State) : Out := smbusWrite pec s (fun t => { t with ports := { t.ports with logIndex := value % 2 ^ 16 } })

/-- A sticky-log entry by what recognises its number; 32 bytes of zeros where none is held. -/
def State.logEntry (s : State) (p : Nat → Bool) : List (BitVec 8) := (s.mod.log.find? (fun e => p (leAt e 0 4))).getD (List.replicate 32 0)

def execLogRead (pec : Bool) (s : State) : Out := smbusRead pec s (fun t => t.logEntry (fun n => n == t.ports.logIndex))

def execIdentity (pec : Bool) (s : State) : Out := smbusRead pec s (fun _ => identityDigest)

/-- The running firmware image is the control firmware, the first measured; zeros before one runs. -/
def State.fwDigest (s : State) : List (BitVec 8) := padTo 32 ((s.fw.measured.head?.map (fun m => m.digest)).getD [])

def execFwDigest (pec : Bool) (s : State) : Out := smbusRead pec s (fun t => t.fwDigest)

def execFabricId (pec : Bool) (s : State) : Out := smbusRead pec s (fun t => leBytes 2 t.fabId)

/-! ### Boundary scan (R443, R444) -/

/-- Instructions under which the module is held in reset. -/
def TapIr.holds : TapIr → Bool
  | .bypass => false
  | .idcode => false
  | .samplePreload => false
  | .extest => true
  | .clamp => true
  | .highz => true
  | .laneLb => true

/-- An instruction is selected; leaving LANE_LB the Causeway trains from Detect. The port runs from standby power. -/
def State.selectTap (s : State) (ir : TapIr) : State :=
  if !s.mod.standby then s
  else
    let left := s.ports.ir == .laneLb && ir != .laneLb
    let s1 : State := { s with ports := { s.ports with ir := ir } }
    let s2 := if left && s.mod.main && !s.cw.failed then s1.setFld .cwStatState 1 0 else s1
    if ir.holds then s2.holdReset .tap false else s2.unhold .tap

/-- What the port shows once an instruction is selected, while it is powered. -/
def State.tapShow (s : State) (e : Emit) : State := if s.mod.standby then s.emit e else s

def execBypass (s : State) : Out := .next ((s.selectTap .bypass).tapShow (.tap 1 0))

def execIdcode (s : State) : Out := .next ((s.selectTap .idcode).tapShow (.tap 32 0x1A4B4A63))

/-- The value of a boundary register, its first cell lowest. -/
def boundaryVal (bs : List Bool) : Nat := (bs.zipIdx.map (fun p => b2n p.1 * 2 ^ p.2)).sum

/-- R443: the pins are sampled and shifted out while the boundary register is loaded. -/
def execSamplePreload (pins preload : List Bool) (s : State) : Out :=
  let s1 := s.selectTap .samplePreload
  .next (({ s1 with ports := { s1.ports with boundary := if s.mod.standby then preload else s1.ports.boundary } } : State).tapShow (.tap pins.length (boundaryVal pins)))

def execExtest (s : State) : Out := .next ((s.selectTap .extest).tapShow (.pins (some s.ports.boundary)))

def execClamp (s : State) : Out := .next ((s.selectTap .clamp).tapShow (.pins (some s.ports.boundary)))

def execHighz (s : State) : Out := .next ((s.selectTap .highz).tapShow (.pins none))

/-- R443: the Causeway goes to Off, its lanes are looped back, and one pass bit for each lane is reported: `detached` with the cable detached, `far` at the adapter's loopback. -/
def execLaneLb (detached far : Nat) (s : State) : Out :=
  let v := detached % 2 ^ 16 + 2 ^ 16 * (far % 2 ^ 16)
  let s1 := (s.selectTap .laneLb).cwOff
  .next (if s.mod.standby then ({ s1 with ports := { s1.ports with laneBits := v } } : State).emit (.tap 32 v) else s)

def execTapReset (s : State) : Out := .next (s.selectTap .idcode)

/-! ### Sideband outputs (R556) -/

/-- MOD_PRSNT_N, MOD_PWRGD and MOD_READY as the module drives them: true is released. -/
def State.modPrsntN (s : State) : Bool := !s.mod.standby
def State.modPwrgd (s : State) : Bool := s.mod.main
def State.modReady (s : State) : Bool := s.cwReady

end Sys2Proof.Machine
end

