-- ==== Sys2Proof/Machine/Registers.lean ====
section
/-! DEFINITION. The register aperture: which register an access reaches, what it reads, and what a write does (R17 to R20, R534 to R547). -/
namespace Sys2Proof.Machine

/-! ### Which register (R534, R540, R544) -/

/-- The copy of a page's selects, staged halves and latches that an access uses: 1 for context 0 on another context's page (R544). -/
def side (a off : Nat) : Nat := match pageCtx off with | some c => if a = 0 ∧ c ≠ 0 then 1 else 0 | none => 0

/-- The instance of a page's fields: landing windows count on across their four classes (R540). -/
def pageInstance (off : Nat) : Nat := if 0x3C ≤ off / 2 ^ 20 then (off - 0x3C * 2 ^ 20) / 2 ^ 12 else off / 2 ^ 12 % 256

/-- The class that names a page's fields. -/
def fieldCls (off : Nat) : Nat := min (off / 2 ^ 20) 0x3C

/-- The register that an access by context `a` to an aperture offset reaches, as a key: registers that a select register shows one of have a unit (R544). None where the select names
no unit; such a register reads zero and ignores writes (log entry 40). -/
def State.regKey (s : State) (a off : Nat) : Option Nat :=
  let cls := off / 2 ^ 20
  let inst := pageInstance off
  let o := off % 2 ^ 12
  let k (unit : Nat) : Option Nat := some (off + unit * 2 ^ 26)
  let sd := side a off
  if cls = 0x10 ∧ 0x044 ≤ o ∧ o < 0x098 then
    let c := s.fld .arrSelCay inst
    if 320 ≤ c then none else k (1 + c * 4 + s.fld .arrSelArray inst)
  else if cls = 0x11 ∧ 0x044 ≤ o ∧ o < 0x0E0 then
    let c := s.fld .caySelCay inst
    if 320 ≤ c then none else k (1 + c)
  else if cls = 0x03 ∧ 0x044 ≤ o ∧ o < 0x058 then k (1 + s.fld .monUnitUnit 0)
  else if cls = 0x16 ∧ o = 0x058 then k (1 + s.fld .strLaneSelLane inst)
  else if cls = 0x22 ∧ o = 0x05C then k (1 + s.fld .engCalSelClass inst sd)
  else if cls = 0x20 ∧ o = 0x078 then
    let v := s.fld .irqVselVector inst sd
    if v < s.fld .ctxIrqRangeCount inst then some (rkey 0x20 0 0x078 (1 + s.fld .ctxIrqRangeBase inst + v)) else none
  else if (cls = 0x25 ∧ o = 0x054) ∨ (cls = 0x26 ∧ o = 0x070) ∨ (cls = 0x22 ∧ o = 0x058) ∨ (cls = 0x20 ∧ o = 0x074) then k sd
  else k 0

/-- The fields of the register at an aperture offset, of those below the header. -/
def fieldsAt (off : Nat) : List Fld :=
  let o := off % 2 ^ 12
  (fldsOf (off / 2 ^ 20)).filter (fun f => decide (f.off ≤ o) && decide (o < f.off + 4 * f.num))

/-- The page begins with the common header (R537). -/
def hasHeader (off : Nat) : Bool := decide (off / 2 ^ 20 < 0x3C)

/-- The page exists (R548). -/
def pageExists (off : Nat) : Bool := decide (off / 2 ^ 12 % 256 < instances (off / 2 ^ 20))

/-! ### 64-bit values (R542, R543) -/

/-- The 64-bit values that software writes. -/
def rwPairs : List (Fld × Fld) :=
  [(.cqBaseLoBase, .cqBaseHi), (.cqConsumedLo, .cqConsumedHi), (.srvKvBaseLoBase, .srvKvBaseHiBase), (.srvProgLoAddr, .srvProgHiAddr), (.srvPmapBaseLoBase, .srvPmapBaseHiBase),
   (.srvEvqBaseLoBase, .srvEvqBaseHi), (.srvEvqConsumedLo, .srvEvqConsumedHi), (.qntStatsBaseLoBase, .qntStatsBaseHiBase), (.qntChanBaseLoBase, .qntChanBaseHiBase),
   (.wgtPoolLoBase, .wgtPoolHiBase), (.wgtHostLoBase, .wgtHostHiBase), (.rtImageLoAddr, .rtImageHiAddr), (.stoTgtLoBase, .stoTgtHiBase), (.ctxTtBaseLoBase, .ctxTtBaseHiBase),
   (.ctxTtInvAddrLoAddr, .ctxTtInvAddrHiAddr), (.fwSrcLoAddr, .fwSrcHiAddr), (.attAddrLoAddr, .attAddrHiAddr)]

/-- The 64-bit values that are only read. -/
def roPairs : List (Fld × Fld) :=
  [(.numiCaptSeqLo, .numiCaptSeqHi), (.arrGatedLo, .arrGatedHi), (.arrActiveLo, .arrActiveHi), (.icHitLo, .icHitHi), (.icMissLo, .icMissHi), (.lwAseqLo, .lwAseqHi), (.lwNextLo, .lwNextHi),
   (.lwDoneLo, .lwDoneHi), (.srvStepLo, .srvStepHi), (.colCrcTagLo, .colCrcTagHiTag), (.updTileLo, .updTileHi), (.stoMacLo, .stoMacHiMac), (.pwrPtimeLo, .pwrPtimeHi),
   (.pwrLedgerLo, .pwrLedgerHi), (.pwrClassLo, .pwrClassHi), (.islLedgerLo, .islLedgerHi), (.engLedgerLo, .engLedgerHi), (.monSumLo, .monSumHi), (.ctxFaultAddrLo, .ctxFaultAddrHiAddr)]

/-- The pair whose _LO (or _HI) register lies at an aperture offset. -/
def pairLo (ps : List (Fld × Fld)) (off : Nat) : Option (Fld × Fld) := ps.find? (fun p => p.1.cls == fieldCls off && p.1.off == off % 2 ^ 12)
def pairHi (ps : List (Fld × Fld)) (off : Nat) : Option (Fld × Fld) := ps.find? (fun p => p.2.cls == fieldCls off && p.2.off == off % 2 ^ 12)

def noHalf (_ : Nat) : Option W32 := none

/-- Where a staged or latched half of the register with a key stands, by the copy used (R544). -/
def halfKey (a off k : Nat) : Nat := k + side a off * 2 ^ 60

/-! ### Live values -/

/-- The bytes of a sticky-log slot (R489). -/
def State.logSlot (s : State) (slot : Nat) : List (BitVec 8) :=
  ((s.mod.log.find? (fun e => (leAt e 0 4 + 511) % 512 == slot)).getD [])

/-- The word of a monitor unit's snapshot (R492, R497). -/
def MonRes.word (m : MonRes) (o : Nat) : Nat :=
  let of (w : Nat) (v : Int) : Nat := (v % (2 ^ w : Int)).toNat
  match o with
  | 0x080 => of 32 m.min
  | 0x084 => of 32 m.max
  | 0x088 => m.count
  | 0x08C => of 64 m.sum % 2 ^ 32
  | 0x090 => of 64 m.sum / 2 ^ 32
  | _ => Tbl.get natZero m.bins ((o - 0x100) / 4)

/-- The word of a ledger of nJ at its _LO or _HI register, in µJ (R457). -/
def ledgerWord (nj : Nat) (hi : Bool) : Nat := if hi then nj / 1000 / 2 ^ 32 % 2 ^ 32 else nj / 1000 % 2 ^ 32

/-- What a stream shows in LW_STAT (R237). -/
def State.lwStat (s : State) (c q : Nat) : Nat :=
  let n := s.openRecords c q
  let waits := (s.streamEntries c q).any (fun e => e.done && !e.written && !s.ringSpace c q e.seq)
  b2n (decide (s.fld .lwCtlDepth (lwInst c q) ≤ n)) * 2 ^ 31 + b2n waits * 2 ^ 30 + n

/-- What the selected training group shows in TG_STAT (R345). -/
def TGroup.stat (g : TGroup) : Nat :=
  let phase :=
    match g.sealRun with
    | none => 0
    | some x => if x.ballot.decision = some true then 4 else match x.ballot.vote with | none => 1 | some true => 2 | some false => 3
  2 ^ 31 + g.live % 2 * 2 ^ 30 + g.root % 2 * 2 ^ 29 + b2n g.publish.isSome * 2 ^ 28 + phase * 2 ^ 25

/-- What the selected slot shows in WGT_GEN_STAT (R381). -/
def State.genStat (s : State) (c m i : Nat) : Nat :=
  let x := (s.wgt c).model m
  let g := x.slot i
  let here := (s.served c).1 == m && g.st != .free
  g.st.code * 2 ^ 29 + b2n (g.shards.any (fun h => h.invalid)) * 2 ^ 28 + b2n (x.pins != 0) * 2 ^ 27 + (if here then s.binders c g.num else 0)

/-- Request slots of a context that are not free (R274, R275). -/
def State.slotsUsed (s : State) (c : Nat) : Nat := (s.srv c).reqs.length

/-- The live fields of a register, over what the register holds (`w`), as its chapter's table gives them; `a` is the context that reads. -/
def State.live (s : State) (a off w : Nat) : Nat :=
  let inst := pageInstance off
  let sd := side a off
  let isl := s.fld .islStatState inst == 2
  match off / 2 ^ 20, off % 2 ^ 12 with
  | 0x10, o => if isl && o != 0x048 then w else s.arrWord ⟨inst, s.fld .arrSelCay inst⟩ (s.fld .arrSelArray inst) o w
  | 0x11, o => if isl then w else s.cayWord ⟨inst, s.fld .caySelCay inst⟩ o w
  | 0x12, 0x044 => if isl then w else (s.specOpen inst).length * 2 ^ 16 + (s.ic inst).missOut
  | 0x05, 0x050 => ins w 23 0 s.jnlFill
  | 0x05, 0x060 => s.openGroups.length
  | 0x23, 0x088 => s.slotsUsed inst
  | 0x23, 0x08C => s.kvFree inst
  | 0x06, 0x04C => ins w 16 0 ((List.range 64).map s.slotsUsed).sum
  | 0x06, 0x050 => ((List.range 64).map (fun c => (s.srv c).copies.length)).sum
  | 0x24, 0x064 =>
    let rs := s.runs.filter (fun r => r.ctx == inst)
    (rs.length % 256) * 2 ^ 24 + (rs.map (fun r => r.halves.length)).sum % 2 ^ 13
  | 0x17, 0x044 =>
    if isl then w
    else (s.colls.filter (fun k => bit k.open_ inst)).length * 2 ^ 16 + (s.eng inst).early.length * 2 ^ 7 + (s.eng inst).posts.length
  | 0x18, 0x040 => if isl then w else ins w 6 0 (s.eng inst).pgroups.length
  | 0x25, 0x044 => ((s.colls.filter (fun k => k.ctx == inst)).map (fun k => ones 24 k.open_)).sum
  | 0x25, 0x058 => ((s.tgroup inst (s.fld .tgSelTgroup inst sd)).map TGroup.stat).getD 0
  | 0x25, 0x05C => ((s.tgroup inst (s.fld .tgSelTgroup inst sd)).map (fun g => g.sealed)).getD 0
  | 0x25, 0x060 => ((s.tgroup inst (s.fld .tgSelTgroup inst sd)).map (fun g => g.rootGen)).getD 0
  | 0x26, 0x048 => s.wgtUsed inst
  | 0x26, 0x074 => s.genStat inst (s.fld .wgtSelModel inst sd) (s.fld .wgtSelSlot inst sd)
  | 0x26, 0x078 => (((s.wgt inst).model (s.fld .wgtSelModel inst sd)).slot (s.fld .wgtSelSlot inst sd)).num
  | 0x07, 0x040 => match s.turn with | none => 0 | some u => 2 ^ 31 + u.phase * 2 ^ 28 + u.ctx * 2 ^ 22
  | 0x08, 0x05C => s.route (s.fld .rtIndexIndex 0)
  | 0x08, 0x060 => ins w 14 0 (s.routes.filter (fun e => routeKind e.2 != 0)).length
  | 0x0A, 0x044 => ins w 10 0 (s.sto inst).qps.length
  | 0x04, 0x044 => ins w 15 0 s.pw.inputW
  | 0x04, 0x048 => s.ptime % 2 ^ 32
  | 0x04, 0x04C => s.ptime / 2 ^ 32 % 2 ^ 32
  | 0x04, 0x050 => ledgerWord s.pw.totNj false
  | 0x04, 0x054 => ledgerWord s.pw.totNj true
  | 0x04, 0x05C => ledgerWord (Tbl.get natZero s.pw.clsNj (s.fld .pwrClassSelClass 0)) false
  | 0x04, 0x060 => ledgerWord (Tbl.get natZero s.pw.clsNj (s.fld .pwrClassSelClass 0)) true
  | 0x04, 0x068 => s.hottest.1 * 2 ^ 16 + (s.hottest.2 % 2 ^ 16).toNat
  | 0x15, 0x06C => ((((islSensors inst).map s.temp |>.max?).getD 0) % 2 ^ 16).toNat
  | 0x15, 0x070 => ledgerWord (Tbl.get natZero s.pw.islNj inst) false
  | 0x15, 0x074 => ledgerWord (Tbl.get natZero s.pw.islNj inst) true
  | 0x22, 0x050 => ledgerWord (Tbl.get natZero s.pw.ctxNj inst) false
  | 0x22, 0x054 => ledgerWord (Tbl.get natZero s.pw.ctxNj inst) true
  | 0x22, 0x060 => min (2 ^ 32 - 1) (s.used inst (us 1000) / 1000)
  | 0x22, 0x064 => min (2 ^ 32 - 1) (s.reserved inst / 1000)
  | 0x14, 0x070 => 320 - ones 320 (Tbl.get natZero s.fuse.caysOff inst)
  | 0x14, 0x078 => ins w 7 0 (s.repFree inst)
  | 0x02, o => if 0x048 ≤ o ∧ o < 0x068 then leAt (s.logSlot (s.fld .logSelSlot 0)) (o - 0x048) 4 else w
  | 0x03, o => if (0x080 ≤ o ∧ o < 0x094) ∨ (0x100 ≤ o ∧ o < 0x180) then ((s.mon (s.fld .monUnitUnit 0)).snap).word o else w
  | 0x20, 0x048 => ins w 15 0 ((List.range 16).map (fun q => s.fld .lwCtlEn (lwInst inst q) * 2 ^ q)).sum
  | 0x01, 0x040 =>
    b2n (s.run == .recovery) * 2 ^ 30 + b2n s.fw.active * 2 ^ 29 + b2n (s.fw.bank (!s.fw.active)).valid * 2 ^ 28 +
      ((s.fw.measured.map (fun m => m.svn)).min?.getD 0) % 128 * 2 ^ 8 + s.fuse.svn % 128 + bits w 31 31 * 2 ^ 31 + bits w 27 24 * 2 ^ 24
  | 0x01, 0x058 => ins w 9 6 s.fuse.revoked
  | 0x0A, 0x048 => (Config.storageMac inst).toNat % 2 ^ 32
  | 0x0A, 0x04C => (Config.storageMac inst).toNat / 2 ^ 32
  | c, o => if 0x3C ≤ c ∧ o = 0x0A4 then s.lwStat (inst / 16) (inst % 16) else w

/-! ### The common header (R537, R538, R549) -/

/-- CAPS of a class (R549). -/
def capsWord (cls : Nat) : Nat :=
  b2n (nevt cls != 0) * 2 ^ 31 + b2n ((List.range 256).any (fun n => signalOk cls n)) * 2 ^ 30 + b2n (cls == 0x14 || cls == 0x02) * 2 ^ 29 + b2n (decide (cls < 0x20)) * 2 ^ 28 +
    nevt cls * 2 ^ 16

/-- A header register as it reads. -/
def State.headerWord (s : State) (off : Nat) : Nat :=
  let cls := off / 2 ^ 20
  let inst := off / 2 ^ 12 % 256
  let page := off / 2 ^ 12 * 2 ^ 12
  let r (o : Nat) : Nat := (s.reg (page + o)).toNat
  match off % 2 ^ 12 with
  | 0x000 => cls * 2 ^ 26 + inst * 2 ^ 18 + 1
  | 0x004 => capsWord cls
  | 0x00C =>
    b2n (r 0x010 &&& r 0x014 != 0) * 2 ^ 31 + bits (r 0x020) 31 31 * 2 ^ 30 + b2n (decide (0x10 ≤ cls) && decide (cls ≤ 0x18) && s.islOff inst) * 2 ^ 29
  | o => r o

/-- A write of a header register by context `a` (R19, R491, R508, R537 to R539). -/
def State.writeHeader (s : State) (a off w : Nat) : State :=
  let cls := off / 2 ^ 20
  let inst := off / 2 ^ 12 % 256
  let dead := s.pageOff cls inst
  let old := (s.reg off).toNat
  let put (v : Nat) : State := s.setReg off (BitVec.ofNat 32 v)
  match off % 2 ^ 12 with
  | 0x008 => s.evtTest a cls inst w
  | 0x010 => if dead then s else put (old - (old &&& w))
  | 0x014 => put (w % 2 ^ nevt cls)
  | 0x018 => if a ≠ 0 ∧ bits w 21 16 ≠ 0 ∧ bits w 21 16 ≠ a then s else put (bits w 31 31 * 2 ^ 31 + bits w 21 16 * 2 ^ 16 + bits w 10 0)
  | 0x01C => put (bits w 15 0)
  | 0x020 => if cls = 0x14 ∨ cls = 0x02 then put (old - (old &&& (bits w 31 30 * 2 ^ 30))) else s
  | 0x030 => put w
  | _ => s

/-! ### Reads (R17, R543) -/

/-- The bits of a word that fields other than write-only ones hold; reserved bits read zero (R19). -/
def fieldMask (fs : List Fld) : Nat := (fs.map (fun f => if f.acc = .wo then 0 else (2 ^ (f.hi + 1 - f.lo) - 1) * 2 ^ f.lo)).sum

/-- What the register with a key at an offset reads, before a latch is considered. -/
def State.word (s : State) (a off k : Nat) : Nat := (s.live a off (s.reg k).toNat) &&& fieldMask (fieldsAt off)

/-- The clear-on-read fields of a register are cleared (R17). -/
def State.clearRead (s : State) (off k : Nat) : State :=
  let w := (s.reg k).toNat
  let v := (fieldsAt off).foldl (fun x f => if f.acc = .rc then ins x f.hi f.lo 0 else x) w
  if s.pageOff (off / 2 ^ 20) (pageInstance off) || v == w then s else s.setReg k (BitVec.ofNat 32 v)

/-- A register is read by context `a`: a _HI half returns and drops its latch, a _LO half latches its _HI half, and clear-on-read fields are cleared. -/
def State.regRead (s : State) (a off0 : Nat) : State × Nat :=
  let off := off0 / 4 * 4
  if !pageExists off then (s, 0)
  else if hasHeader off && decide (off % 2 ^ 12 < 0x040) then (s, s.headerWord off)
  else
    match s.regKey a off with
    | none => (s, 0)
    | some k =>
      let v := s.word a off k
      match Tbl.get noHalf s.latch (halfKey a off k) with
      | some h => ({ s with latch := Tbl.set noHalf s.latch (halfKey a off k) none }, h.toNat)
      | none =>
        let s1 := s.clearRead off k
        match pairLo roPairs off with
        | none => (s1, v)
        | some _ =>
          let hi := s.word a (off + 4) (k + 4)
          ({ s1 with latch := Tbl.set noHalf s1.latch (halfKey a off (k + 4)) (some (BitVec.ofNat 32 hi)) }, v)

/-! ### Writes by the access codes (R17 to R20) -/

/-- A value a field takes; one outside a field's limits leaves the field unchanged, as its register's table says. -/
def fieldTakes (f : Fld) (v : Nat) : Bool :=
  match f.cls, f.off, f.lo with
  | 0x10, 0x0C0, 0 => v == 0 || (decide (8 ≤ v) && decide (v ≤ 16))
  | 0x12, 0x040, 16 => decide (v ≤ 8)
  | 0x12, 0x040, 8 => decide (v ≤ 64)
  | 0x3C, 0x0B0, 16 => decide (6 ≤ v) && decide (v ≤ 16)
  | 0x05, 0x044, _ => decide (0x20 ≤ v) && decide (v ≤ 0x800)
  | 0x05, 0x05C, _ => v != 0
  | 0x23, 0x044, _ => decide (15 ≤ v)
  | 0x23, 0x048, _ => decide (16 ≤ v) && decide (v ≤ 32768) && v % 16 == 0
  | 0x23, 0x04C, _ => decide (v ≤ 65536)
  | 0x23, 0x070, _ => decide (1 ≤ v) && decide (v ≤ 65536)
  | 0x23, 0x074, 16 => decide (6 ≤ v) && decide (v ≤ 16)
  | 0x24, 0x040, 0 => v != 3
  | 0x24, 0x060, 0 => decide (1 ≤ v) && decide (v ≤ 65536)
  | 0x17, 0x040, _ => v != 0
  | 0x25, 0x040, _ => v != 0
  | 0x26, 0x040, 0 => v != 3
  | 0x07, 0x044, _ => v != 0
  | 0x04, 0x040, _ => decide (1000 ≤ v) && decide (v ≤ 12000)
  | 0x14, 0x044, 16 => decide (10 ≤ v)
  | 0x14, 0x044, 0 => decide (100 ≤ v)
  | 0x03, 0x04C, _ => v != 0
  | 0x00, 0x04C, _ => v != 0
  | 0x22, 0x05C, _ => decide (0x10 ≤ v) && decide (v ≤ 0x1000)
  | _, _, _ => true

/-- A word after a write by context `a`, field by field (R17); `dead` that write-one-to-clear has no effect (R541). -/
def putFields (a : Nat) (dead : Bool) (fs : List Fld) (old w : Nat) : Nat :=
  fs.foldl (fun x f =>
    let v := bits w f.hi f.lo
    match f.acc with
    | .rw | .rwl => if fieldTakes f v then ins x f.hi f.lo v else x
    | .rwOwner => if a = 0 ∧ fieldTakes f v then ins x f.hi f.lo v else x
    | .w1c => if dead then x else ins x f.hi f.lo (bits x f.hi f.lo - (bits x f.hi f.lo &&& v))
    | _ => x) old

/-- The register ignores a write by context `a` in the present state: it is locked, in use, or the owner's alone (R227, R237, R274, R275, R307, R381, R439, R458, R472). -/
def State.ignores (s : State) (a off : Nat) : Bool :=
  let i := pageInstance off
  let o := off % 2 ^ 12
  let within (lo hi : Nat) : Bool := decide (lo ≤ o) && decide (o < hi)
  match off / 2 ^ 20 with
  | 0x05 => s.fld .jnlCtlEn 0 == 1 && within 0x044 0x050
  | 0x06 => s.fld .splCtlEn 0 == 1 && within 0x044 0x04C
  | 0x0A => s.fld .stoCtlEn i == 1 && within 0x050 0x06C
  | 0x22 => (a != 0 && within 0x040 0x04C) || (o == 0x05C && s.fld .engCalSelClass i (side a off) == 0)
  | 0x23 => (a != 0 && (o == 0x04C || o == 0x070)) || (s.fld .srvCtlEn i == 1 && (within 0x050 0x05C || within 0x060 0x070 || within 0x074 0x080))
  | 0x24 => s.runs.any (fun r => r.ctx == i) && (within 0x04C 0x054 || within 0x058 0x064)
  | 0x26 => (a != 0 && within 0x040 0x048) ||
      (within 0x04C 0x064 && ((s.wgt i).models.any (fun m => m.2.slots.any (fun g => g.2.st != .free)) || !(s.wgt i).images.isEmpty))
  | c => decide (0x3C ≤ c) && within 0x0A8 0x0B4 && (s.fld .lwCtlEn i == 1 || s.openRecords (i / 16) (i % 16) != 0)

/-- The fields of an injection register are in range (R412, R428). -/
def injectOk (pattern w : Nat) : Bool :=
  let p := bits w 15 0
  pattern != 0 && (if bit w 28 then decide (1 ≤ p) && decide (p ≤ 24) else decide (2 ≤ p))

/-- The new word suits its register as a whole (R240, R412, R428, R464, R506). -/
def State.wordOk (s : State) (off w : Nat) : Bool :=
  let i := pageInstance off
  match off / 2 ^ 20, off % 2 ^ 12 with
  | 0x15, 0x050 => decide (bits w 7 0 + 20 ≤ bits w 15 8)
  | 0x16, 0x080 => injectOk (s.fld .strInjPattern i) w
  | 0x09, 0x080 => injectOk (s.fld .cwInjPattern 0) w
  | 0x23, 0x04C => decide (bits w 16 0 + (((List.range 64).filter (fun c => c != i)).map (fun c => s.fld .srvQuotaSlots c)).sum ≤ 65536)
  | 0x20, 0x070 =>
    let b := bits w 10 0
    let n := bits w 23 12
    decide (b + n ≤ 2048) &&
      ((List.range 64).filter (fun c => c != i)).all (fun c =>
        decide (b + n ≤ s.fld .ctxIrqRangeBase c) || decide (s.fld .ctxIrqRangeBase c + s.fld .ctxIrqRangeCount c ≤ b) || n == 0 || s.fld .ctxIrqRangeCount c == 0)
  | _, _ => true

/-- A register without behaviour of its own is written (R17). -/
def State.plainWrite (s : State) (a off k w : Nat) : State :=
  let old := (s.reg k).toNat
  let new := putFields a (s.pageOff (off / 2 ^ 20) (pageInstance off)) (fieldsAt off) old w
  if s.ignores a off || !s.wordOk off new then s else s.setReg k (BitVec.ofNat 32 new)

/-! ### 64-bit values written -/

/-- The owner's alone (R519). -/
def ownerPair (p : Fld × Fld) : Bool := p.1.acc == .rwOwner

/-- A _LO half is staged (R542). -/
def State.stageLo (s : State) (a off k w : Nat) (p : Fld × Fld) : State :=
  if ownerPair p && a != 0 then s else { s with stage := Tbl.set noHalf s.stage (halfKey a off k) (some (BitVec.ofNat 32 w)) }

/-- A _HI half is written: both halves take effect at once, and nothing is staged any more (R542). -/
def State.applyHi (s : State) (a off k w : Nat) (p : Fld × Fld) : State :=
  if ownerPair p && a != 0 then s
  else
    let hk := halfKey a off (k - 4)
    let lo := match Tbl.get noHalf s.stage hk with | some h => h.toNat | none => (s.reg (k - 4)).toNat
    let s1 : State := { s with stage := Tbl.set noHalf s.stage hk none }
    let i := pageInstance off
    if p.1 = .cqConsumedLo then s1.setConsumed (i / 16) (i % 16) (lo + 2 ^ 32 * w)
    else if p.1 = .srvEvqConsumedLo then s1.setEvConsumed i (lo + 2 ^ 32 * w)
    else if s.ignores a off then s1
    else
      (s1.setReg (k - 4) (BitVec.ofNat 32 (bits lo p.1.hi p.1.lo * 2 ^ p.1.lo))).setReg k (BitVec.ofNat 32 (bits w p.2.hi p.2.lo * 2 ^ p.2.lo))

/-! ### Registers with behaviour of their own -/

/-- R117, R135: a write of SHADOW_CTL. With RATE 0 the path is off and what the regions held is dropped (log entry 41). -/
def State.writeShadowCtl (s : State) (a i w : Nat) : State :=
  let s1 := s.plainWrite a (rkey 0x10 i 0x0C0 0) (rkey 0x10 i 0x0C0 0) w
  if s1.fld .shadowCtlRate i ≠ 0 then s1
  else { s1 with cays := Tbl.mapVals cayDef (fun k c => if k / 320 = i then { c with shadow := none, shadowBufs := [] } else c) s1.cays }

/-- R165: a write of IC_CTL. Clearing PF_EN stops every tracker. -/
def State.writeIcCtl (s : State) (a i w : Nat) : State :=
  let s1 := s.plainWrite a (rkey 0x12 i 0x040 0) (rkey 0x12 i 0x040 0) w
  if s1.fld .icCtlPfEn i = 1 then s1 else s1.setIc i { s1.ic i with trackers := (s1.ic i).trackers.map (fun t => { t with stopped := true }) }

/-- A write that the fields of a register alone do not explain; none where the access codes do. -/
def State.ownWrite (s : State) (a off w : Nat) : Option State :=
  let i := pageInstance off
  let dead := s.pageOff (off / 2 ^ 20) i
  match off / 2 ^ 20, off % 2 ^ 12 with
  | 0x10, 0x0C0 => some (s.writeShadowCtl a i w)
  | 0x12, 0x040 => some (s.writeIcCtl a i w)
  | 0x05, 0x040 => some (s.writeJnlCtl w)
  | 0x05, 0x058 => some (s.writeJnlRepl w)
  | 0x06, 0x040 => some (s.writeSplCtl w)
  | 0x07, _ => none
  | 0x08, 0x040 => some (s.writeFab false w)
  | 0x08, 0x044 => some (s.writeFab true w)
  | 0x08, 0x048 => some (if bit w 0 then s.setFld .fabLockLock 1 0 else s)
  | 0x08, 0x04C => some (s.writeRtCtl w)
  | 0x08, 0x05C => some (s.writeRtEntry w)
  | 0x09, 0x040 => some (s.writeCwCtl w)
  | 0x0A, 0x040 => some (s.writeStoCtl i w)
  | 0x14, 0x040 => some (s.writeMemCtl i w)
  | 0x14, 0x074 => some (s.writeRepCtl i w)
  | 0x15, 0x040 => some (s.writeIslPwr i w)
  | 0x15, 0x048 => some (s.writeIslCtl i w)
  | 0x16, 0x040 => some (s.writeStrCtl i w)
  | 0x16, 0x044 => some (if dead then s else s.writeStrRetrain i w)
  | 0x03, 0x044 => some (s.writeMonCfg w)
  | 0x03, 0x058 => some (s.writeMonCmd w)
  | 0x20, 0x040 => some (if a = 0 then s.writeCtxCtl i w else s)
  | 0x20, 0x044 => some (s.writeCtxReset i w)
  | 0x20, 0x054 => some (if a = 0 then s.writeTtInv i w else s)
  | 0x20, 0x078 =>
    let v := s.fld .irqVselVector i (side a off)
    some (if v < s.fld .ctxIrqRangeCount i then s.maskVector (s.fld .ctxIrqRangeBase i + v) (bits w 0 0) else s)
  | 0x23, 0x040 => some (s.writeSrvCtl i w)
  | 0x26, 0x080 => some (s.writeTurnGo i w)
  | 0x00, 0x040 => some (s.writeModReset w)
  | 0x00, 0x044 => some (s.writeIslReset w)
  | 0x00, 0x048 => some (s.writeModTest w)
  | 0x01, 0x044 => some (s.writeFwCtl w)
  | 0x01, 0x060 => some (s.writeAttCtl w)
  | c, o =>
    if 0x3C ≤ c then
      if o < 0x080 then some (s.setFld .lwAstatAstat 0x0C i)
      else if o = 0x0A0 then some (s.writeLwCtl a (i / 16) (i % 16) w)
      else none
    else none

/-- A register is written by context `a` (R17 to R20, R536, R542). -/
def State.regWrite (s : State) (a off0 w0 : Nat) : State :=
  let off := off0 / 4 * 4
  let w := w0 % 2 ^ 32
  if !pageExists off then s
  else if hasHeader off && decide (off % 2 ^ 12 < 0x040) then s.writeHeader a off w
  else
    match s.ownWrite a off w with
    | some t => t
    | none =>
      match s.regKey a off with
      | none => s
      | some k =>
        match pairLo rwPairs off, pairHi rwPairs off with
        | some p, _ => s.stageLo a off k w p
        | none, some p => s.applyHi a off k w p
        | none, none => s.plainWrite a off k w

/-! ### Who may (R498, R499, R528, R536) -/

/-- The status with which an access by context `a` to an aperture offset completes (R422): 2 where the page is out of its reach or the context is disabled, 1 in recovery for
every page but the security and reliability pages, else 0. -/
def State.regStatus (s : State) (a off : Nat) : Nat :=
  if !reachable a off || !s.ctxOn a then 2
  else if s.run == .recovery && !(off / 2 ^ 20 == 1 || off / 2 ^ 20 == 2) then 1
  else 0

/-- An access of a register is permitted now. -/
def State.mayAccess (s : State) (a off : Nat) : Bool := decide (a < 64) && decide (off < 2 ^ 26) && (s.run == .ready || s.run == .recovery) && s.regStatus a off == 0

/-! ### The register commands (R17, R117, R542, R543) -/

/-- A register has a 64-bit value's half at an offset, by the pairs given. -/
def isHi (ps : List (Fld × Fld)) (off : Nat) : Bool := (pairHi ps (off / 4 * 4)).isSome

def execHiHalfWrite (ctx off value : Nat) (s : State) : Out :=
  when (s.mayAccess ctx off && pageExists off && isHi rwPairs off) (s.regWrite ctx off value) s

/-- A read answers the value with its TAG (R420). -/
def State.readAnswer (s : State) (ctx tag off : Nat) : State :=
  let r := s.regRead ctx off
  r.1.emit (.response ctx tag 0 (leBytes 4 r.2))

def execLoHalfRead (ctx tag off : Nat) (s : State) : Out :=
  when (s.mayAccess ctx off && pageExists off && (pairLo roPairs (off / 4 * 4)).isSome) (s.readAnswer ctx tag off) s

def execClearOnRead (ctx tag off : Nat) (s : State) : Out :=
  when (s.mayAccess ctx off && pageExists off && (fieldsAt (off / 4 * 4)).any (fun f => f.acc == .rc)) (s.readAnswer ctx tag off) s

/-- R17: a write of a register by its access codes alone. -/
def execGenericRegisterWrite (ctx off value : Nat) (s : State) : Out :=
  when (s.mayAccess ctx off && pageExists off && (s.ownWrite ctx (off / 4 * 4) (value % 2 ^ 32)).isNone) (s.regWrite ctx off value) s

def execShadowCtlWrite (island value : Nat) (s : State) : Out :=
  when (decide (island < 24)) (s.regWrite 0 (rkey 0x10 island 0x0C0 0) value) s

end Sys2Proof.Machine
end

