-- ==== Sys2Proof/Machine/Apply.lean ====
section
/-! DEFINITION. Register writes of records and of tasks, the commit of records, and the application of commit groups (R210, R216, R217, R225, R226, R502, R545, R546). -/
namespace Sys2Proof.Machine

/-! ### Aperture pages (R545, R546) -/

/-- The aperture offset that a 32-bit access of a task reaches; none where it reaches none or the task is speculative. -/
def State.apertureAt (s : State) (th : Thread) (x : IFields) (wr : Bool) : Option Nat :=
  let a := dvAddr th x
  if (s.task th.task).spec || a % 4 != 0 then none
  else match s.place th.task a wr with | .aperture o => some o | _ => none

def execLdg32 (c : CayRef) (f : IFields) (s : State) : Out :=
  issueRegs c (f.rsv == 0) [f.d, f.a] s (fun t th =>
    match s.apertureAt th f false with
    | none => loadDv s c f 4 t th
    | some o =>
      let r := s.regRead (s.task th.task).ctx o
      r.1.putThr c t ((th.setReg f.d (BitVec.ofNat 64 r.2)).next))

def execStg32 (c : CayRef) (f : IFields) (s : State) : Out :=
  issueRegs c (f.rsv == 0) [f.d, f.a] s (fun t th =>
    match s.apertureAt th f true with
    | none => storeDv s c f 4 t th
    | some o => (s.putThr c t th.next).regWrite (s.task th.task).ctx o (th.reg f.d).toNat)

/-! ### Register-write records (R210, R216) -/

/-- R210, R216: a register-write record reaches its commit point when it starts; one that names a register out of its context's reach is refused with the entry's index. -/
def execRegisterWrite (ctx stream seq : Nat) (s : State) : Out :=
  s.withRecord ctx stream seq 0x0A (fun e =>
    match e.regWrites.findIdx? (fun w => s.regStatus ctx w.1 != 0) with
    | some i => (s.begin e).reach ctx stream seq St.registerRefused i
    | none => (s.begin e).reach ctx stream seq 0 0)

/-- The register writes of a record take effect, in entry order. -/
def State.applyWrites (s : State) (e : Entry) : State :=
  if e.kind = 0x0A then e.regWrites.foldl (fun t w => t.regWrite e.ctx w.1 w.2) s else s

/-! ### Commit (R217, R225) -/

/-- R217: a record that has reached its commit point commits in the order of its stream: on its own, or with its group's outcome once the group is decided and applied. -/
def execRecordCommit (ctx stream seq : Nat) (s : State) : Out :=
  match s.entry ctx stream seq with
  | none => .next s
  | some e =>
    match e.point with
    | none => .next s
    | some p =>
      if e.done || !s.earlierDone e || s.notReady then .next s
      else
        match e.grp with
        | none =>
          let t := s.commitRecord e p.1 p.2
          .next (if p.1 = 0 then t.applyWrites e else t)
        | some n =>
          match s.groups.find? (fun g => g.num == n && g.decision.isSome && g.applied) with
          | none => .next s
          | some g => .next (s.commitRecord e (groupOutcome g e.point).1 (groupOutcome g e.point).2)

/-- A member's actions are applied, or vanish with its group. -/
def State.applyMember (s : State) (commit : Bool) (e : Entry) : State :=
  let s1 := (s.recordTasks e).foldl (fun u t => u.settle t commit) s
  if commit then s1.applyWrites e else s1

/-- R225: the actions of a decided group take effect at once, in the order in which its members were accepted; those of an aborted group vanish. -/
def execGroupApply (group : Nat) (s : State) : Out :=
  match s.groups.find? (fun g => g.num == group && g.decision.isSome && !g.applied) with
  | none => .next s
  | some g =>
    if s.notReady then .next s
    else
      let s1 := (s.members group).foldl (fun t e => t.applyMember (g.decision == some true) e) s
      .next { s1 with groups := s1.groups.map (fun x => if x.num = group then { x with applied := true } else x) }

end Sys2Proof.Machine
end

