-- ==== Sys2Proof/Machine/HostPort.lean ====
section
/-! DEFINITION. Requests from the host: packets received on the Causeway and what they ask for (R420 to R428, R498, R503, R536). -/
namespace Sys2Proof.Machine

/-- A posted request is dropped for a status of R422: counted, and its cause latched. -/
def State.cwDrop (s : State) (ctx status : Nat) : State :=
  let s1 := s.bump .cwDropCnt 0
  let s2 := if s1.fld .cwDropCaptValid 0 = 1 then s1 else ((s1.setFld .cwDropCaptValid 1 0).setFld .cwDropCaptStatus status 0).setFld .cwDropCaptCtx ctx 0
  s2.raise 0x09 0 1

/-- The module serves requests (R422, R427, R528). -/
def State.serves (s : State) : Bool := s.run == .ready || s.run == .recovery

/-! ### Registers (R421, R535, R536) -/

/-- The status of a register packet: not ready, a disabled context, an offset or length that is none of a register's, then reachability. -/
def State.regPacketStatus (s : State) (ctx off len : Nat) : Nat :=
  if !s.serves then 1
  else if !s.ctxOn ctx then 2
  else if 2 ^ 26 ≤ off ∨ off % 4 ≠ 0 ∨ len ≠ 4 then 4
  else s.regStatus ctx off

def State.readPacket (s : State) (ctx tag off len : Nat) : State :=
  let st := s.regPacketStatus ctx off len
  if st ≠ 0 then s.emit (.response ctx tag st []) else s.readAnswer ctx tag off

def execRegisterReadPacket (ctx tag off len : Nat) (s : State) : Out := when (decide (ctx < 64)) (s.readPacket ctx tag off len) s

def State.writePacket (s : State) (ctx off : Nat) (data : List (BitVec 8)) : State :=
  let st := s.regPacketStatus ctx off data.length
  if !s.serves then s.bump .cwNotreadyCnt 0
  else if st ≠ 0 then s.cwDrop ctx st
  else s.regWrite ctx off (leNat data)

def execRegisterWritePacket (ctx off : Nat) (data : List (BitVec 8)) (s : State) : Out := when (decide (ctx < 64)) (s.writePacket ctx off data) s

/-! ### Memory (R421, R503) -/

/-- Where a memory packet goes: HBM, or the status it ends with and the state after. -/
inductive MemPlace where
  | hbm (key : Nat)
  | fails (status : Nat) (s : State)
deriving DecidableEq, Repr

/-- A memory access of the host's is checked and translated. A page that maps the aperture takes no memory access (R545). -/
def State.memPlace (s : State) (ctx addr len : Nat) (wr : Bool) : MemPlace :=
  if s.run != .ready then .fails 1 s
  else if !s.ctxOn ctx then .fails 2 s
  else if 2 ^ 48 ≤ addr ∨ addr % 4 ≠ 0 ∨ len % 4 ≠ 0 ∨ len < 4 ∨ 512 < len ∨ 4096 < addr % 4096 + len then .fails 4 s
  else
    let w := s.walk ctx addr
    let c := s.accessCause ctx w wr false false true
    if c ≠ 0 then .fails (if c = 7 then 5 else 3) (s.walkFault ctx c 4 0 addr)
    else
      match w.dest with
      | .hbm k => .hbm k
      | .host _ => .fails 3 s
      | _ => .fails 4 s

def State.memRead (s : State) (ctx tag addr len : Nat) : State :=
  match s.memPlace ctx addr len false with
  | .fails st t => t.emit (.response ctx tag st [])
  | .hbm k => if s.poisoned k len then (s.notePoison k).emit (.response ctx tag 5 []) else s.emit (.response ctx tag 0 (s.hbmBytes k len))

def execMemoryRead (ctx tag addr len : Nat) (s : State) : Out := when (decide (ctx < 64)) (s.memRead ctx tag addr len) s

def State.memWrite (s : State) (ctx addr : Nat) (data : List (BitVec 8)) : State :=
  match s.memPlace ctx addr data.length true with
  | .fails st t => if s.serves then t.cwDrop ctx st else t.bump .cwNotreadyCnt 0
  | .hbm k => s.hbmWrite none k data

def execMemoryWrite (ctx addr : Nat) (data : List (BitVec 8)) (s : State) : Out := when (decide (ctx < 64)) (s.memWrite ctx addr data) s

/-! ### Packets (R419, R420, R423, R425) -/

/-- What an accepted packet asks for is done. A type the host may not send is answered with status 4. -/
def State.perform (s : State) (b : List (BitVec 8)) : State :=
  let w := leAt b 4 4
  let tag := bits w 31 22
  let ctx := bits w 21 16
  let len := bits w 9 0
  let addr := leAt b 8 8
  let data := (b.drop 16).take (b.length - 20)
  let bad := !(data.length == len)
  match cwType b with
  | 0x10 => s.readPacket ctx tag addr (if data.isEmpty then len else 0)
  | 0x11 => s.writePacket ctx addr (if bad then [] else data)
  | 0x12 => s.memRead ctx tag addr (if data.isEmpty then len else 0)
  | 0x13 => s.memWrite ctx addr (if bad then [] else data)
  | 0x14 => s.landingWrite ctx tag addr (if bad then [] else data)
  | 0x30 => s.takeResponse tag (bits w 15 12) data
  | _ => s.emit (.response ctx tag (if s.serves then 4 else 1) [])

/-- A packet arrives at the link: accepted and performed, or dropped (R423). -/
def State.cwArrive (s : State) (b : List (BitVec 8)) : State :=
  let r := s.cwAccept b
  if r.2 then r.1.perform b else r.1

/-- R423, R428: a packet other than link control is received, past injection; one held back is taken after the next. -/
def execCausewayPacketReceive (packet : List (BitVec 8)) (s : State) : Out :=
  if s.fld .cwStatState 0 ≠ 5 ∨ cwType packet = 0 then .next s
  else
    let behind := s.cw.heldRx
    let r := if cwGood packet && s.cwInjects 1 (bits (leAt packet 4 4) 21 16) then s.cwInject else (s, false)
    let t := r.1
    let mode := t.fld .cwInjCtlMode 0
    let s1 :=
      if !r.2 then t.cwArrive packet
      else if mode = 1 then t
      else if mode = 2 then t.cwArrive (t.cwCorrupt packet)
      else t.modCw (fun x => { x with heldRx := some packet })
    let s2 :=
      match behind with
      | none => s1
      | some h => (if r.2 && mode == 3 then s1 else s1.modCw (fun x => { x with heldRx := none })).cwArrive h
    .next s2.cwPump

end Sys2Proof.Machine
end

