-- ==== Sys2Proof/Machine/Dispatch.lean ====
section
/-! DEFINITION. One arm for each command; each calls the command's own meaning. -/
namespace Sys2Proof.Machine

/-- The effect of a command on everything but the queue. -/
def exec (i : Instr) (s : State) : Host.Outcome State Fault Refusal :=
  match i with
  | .add c f => Sys2Proof.Machine.execAdd c f s
  | .sub c f => Sys2Proof.Machine.execSub c f s
  | .and c f => Sys2Proof.Machine.execAnd c f s
  | .or c f => Sys2Proof.Machine.execOr c f s
  | .xor c f => Sys2Proof.Machine.execXor c f s
  | .shl c f => Sys2Proof.Machine.execShl c f s
  | .shr c f => Sys2Proof.Machine.execShr c f s
  | .sar c f => Sys2Proof.Machine.execSar c f s
  | .mul c f => Sys2Proof.Machine.execMul c f s
  | .slt c f => Sys2Proof.Machine.execSlt c f s
  | .sltu c f => Sys2Proof.Machine.execSltu c f s
  | .addi c f => Sys2Proof.Machine.execAddi c f s
  | .andi c f => Sys2Proof.Machine.execAndi c f s
  | .ori c f => Sys2Proof.Machine.execOri c f s
  | .shli c f => Sys2Proof.Machine.execShli c f s
  | .shri c f => Sys2Proof.Machine.execShri c f s
  | .lih c f => Sys2Proof.Machine.execLih c f s
  | .srd c f => Sys2Proof.Machine.execSrd c f s
  | .ld8 c f => Sys2Proof.Machine.execLd8 c f s
  | .ld16 c f => Sys2Proof.Machine.execLd16 c f s
  | .ld32 c f => Sys2Proof.Machine.execLd32 c f s
  | .ld64 c f => Sys2Proof.Machine.execLd64 c f s
  | .st16 c f => Sys2Proof.Machine.execSt16 c f s
  | .st32 c f => Sys2Proof.Machine.execSt32 c f s
  | .st64 c f => Sys2Proof.Machine.execSt64 c f s
  | .ldg32 c f => Sys2Proof.Machine.execLdg32 c f s
  | .ldg64 c f => Sys2Proof.Machine.execLdg64 c f s
  | .stg32 c f => Sys2Proof.Machine.execStg32 c f s
  | .stg64 c f => Sys2Proof.Machine.execStg64 c f s
  | .beq c f => Sys2Proof.Machine.execBeq c f s
  | .bne c f => Sys2Proof.Machine.execBne c f s
  | .blt c f => Sys2Proof.Machine.execBlt c f s
  | .bge c f => Sys2Proof.Machine.execBge c f s
  | .bltu c f => Sys2Proof.Machine.execBltu c f s
  | .bgeu c f => Sys2Proof.Machine.execBgeu c f s
  | .jal c f => Sys2Proof.Machine.execJal c f s
  | .jr c f => Sys2Proof.Machine.execJr c f s
  | .tyld c f => Sys2Proof.Machine.execTyld c f s
  | .tbar c f => Sys2Proof.Machine.execTbar c f s
  | .nwait c f => Sys2Proof.Machine.execNwait c f s
  | .cpost c f => Sys2Proof.Machine.execCpost c f s
  | .tend c f => Sys2Proof.Machine.execTend c f s
  | .tdsc c f => Sys2Proof.Machine.execTdsc c f s
  | .tfail c f => Sys2Proof.Machine.execTfail c f s
  | .cpy c f => Sys2Proof.Machine.execCpy c f s
  | .cfen c f => Sys2Proof.Machine.execCfen c f s
  | .mcfg c f => Sys2Proof.Machine.execMcfg c f s
  | .mlds c f => Sys2Proof.Machine.execMlds c f s
  | .miss c f gap => Sys2Proof.Machine.execMiss c f gap s
  | .mseq c f => Sys2Proof.Machine.execMseq c f s
  | .mfin c f => Sys2Proof.Machine.execMfin c f s
  | .mdrn c f => Sys2Proof.Machine.execMdrn c f s
  | .vadd c f => Sys2Proof.Machine.execVadd c f s
  | .vsub c f => Sys2Proof.Machine.execVsub c f s
  | .vmul c f => Sys2Proof.Machine.execVmul c f s
  | .vfma c f => Sys2Proof.Machine.execVfma c f s
  | .vmin c f => Sys2Proof.Machine.execVmin c f s
  | .vmax c f => Sys2Proof.Machine.execVmax c f s
  | .vabs c f => Sys2Proof.Machine.execVabs c f s
  | .vneg c f => Sys2Proof.Machine.execVneg c f s
  | .vscl c f => Sys2Proof.Machine.execVscl c f s
  | .vcmplt c f => Sys2Proof.Machine.execVcmplt c f s
  | .vcmpeq c f => Sys2Proof.Machine.execVcmpeq c f s
  | .vsel c f => Sys2Proof.Machine.execVsel c f s
  | .vmov c f => Sys2Proof.Machine.execVmov c f s
  | .vexp2 c f => Sys2Proof.Machine.execVexp2 c f s
  | .vlog2 c f => Sys2Proof.Machine.execVlog2 c f s
  | .vrcp c f => Sys2Proof.Machine.execVrcp c f s
  | .vrsqrt c f => Sys2Proof.Machine.execVrsqrt c f s
  | .vsqrt c f => Sys2Proof.Machine.execVsqrt c f s
  | .vcvt c f => Sys2Proof.Machine.execVcvt c f s
  | .vrsum c f => Sys2Proof.Machine.execVrsum c f s
  | .vrmax c f => Sys2Proof.Machine.execVrmax c f s
  | .vldg c f => Sys2Proof.Machine.execVldg c f s
  | .vstg c f => Sys2Proof.Machine.execVstg c f s
  | .threadSwitchQuantum c => Sys2Proof.Machine.execThreadSwitchQuantum c s
  | .threadMissReturn c thread => Sys2Proof.Machine.execThreadMissReturn c thread s
  | .taskBind c task => Sys2Proof.Machine.execTaskBind c task s
  | .taskEnd task => Sys2Proof.Machine.execTaskEnd task s
  | .cayClockGate c => Sys2Proof.Machine.execCayClockGate c s
  | .cayUngate c mesh => Sys2Proof.Machine.execCayUngate c mesh s
  | .shadowRecompute c => Sys2Proof.Machine.execShadowRecompute c s
  | .shadowSelectExpiry c => Sys2Proof.Machine.execShadowSelectExpiry c s
  | .copyComplete c copy => Sys2Proof.Machine.execCopyComplete c copy s
  | .copyPageFault c copy => Sys2Proof.Machine.execCopyPageFault c copy s
  | .queuedFenceComplete c engine => Sys2Proof.Machine.execQueuedFenceComplete c engine s
  | .islandCacheFill island line => Sys2Proof.Machine.execIslandCacheFill island line s
  | .runAheadFetch island tracker => Sys2Proof.Machine.execRunAheadFetch island tracker s
  | .prefetchArrival island line => Sys2Proof.Machine.execPrefetchArrival island line s
  | .hbmWriteInvalidate writer addr data => Sys2Proof.Machine.execHbmWriteInvalidate writer addr data s
  | .speculativeRequeue island writer => Sys2Proof.Machine.execSpeculativeRequeue island writer s
  | .speculativeCommit task => Sys2Proof.Machine.execSpeculativeCommit task s
  | .speculativeDiscard task => Sys2Proof.Machine.execSpeculativeDiscard task s
  | .landingWindowWrite ctx tag off data => Sys2Proof.Machine.execLandingWindowWrite ctx tag off data s
  | .landingWindowResponse ctx stream seq => Sys2Proof.Machine.execLandingWindowResponse ctx stream seq s
  | .recordStart ctx stream seq => Sys2Proof.Machine.execRecordStart ctx stream seq s
  | .recordCommit ctx stream seq => Sys2Proof.Machine.execRecordCommit ctx stream seq s
  | .task ctx stream seq => Sys2Proof.Machine.execTask ctx stream seq s
  | .copy ctx stream seq => Sys2Proof.Machine.execCopy ctx stream seq s
  | .groupClose ctx stream seq => Sys2Proof.Machine.execGroupClose ctx stream seq s
  | .marker ctx stream seq => Sys2Proof.Machine.execMarker ctx stream seq s
  | .registerWrite ctx stream seq => Sys2Proof.Machine.execRegisterWrite ctx stream seq s
  | .groupDecision group => Sys2Proof.Machine.execGroupDecision group s
  | .groupApply group => Sys2Proof.Machine.execGroupApply group s
  | .groupTimeout group => Sys2Proof.Machine.execGroupTimeout group s
  | .journalEntryWrite ctx stream seq => Sys2Proof.Machine.execJournalEntryWrite ctx stream seq s
  | .journalEntryRetire ctx stream seq => Sys2Proof.Machine.execJournalEntryRetire ctx stream seq s
  | .journalRecovery => Sys2Proof.Machine.execJournalRecovery s
  | .journalStackLoss => Sys2Proof.Machine.execJournalStackLoss s
  | .journalRebuild value => Sys2Proof.Machine.execJournalRebuild value s
  | .journalEnable value => Sys2Proof.Machine.execJournalEnable value s
  | .completionWrite ctx stream seq => Sys2Proof.Machine.execCompletionWrite ctx stream seq s
  | .completionRewrite ctx stream seq => Sys2Proof.Machine.execCompletionRewrite ctx stream seq s
  | .cqConsumedWrite ctx stream value => Sys2Proof.Machine.execCqConsumedWrite ctx stream value s
  | .lwEnable writer ctx stream value => Sys2Proof.Machine.execLwEnable writer ctx stream value s
  | .controlTakeover => Sys2Proof.Machine.execControlTakeover s
  | .admitRequest ctx stream seq => Sys2Proof.Machine.execAdmitRequest ctx stream seq s
  | .cancel ctx stream seq => Sys2Proof.Machine.execCancel ctx stream seq s
  | .pause ctx stream seq => Sys2Proof.Machine.execPause ctx stream seq s
  | .resume ctx stream seq => Sys2Proof.Machine.execResume ctx stream seq s
  | .adapterInstall ctx stream seq => Sys2Proof.Machine.execAdapterInstall ctx stream seq s
  | .adapterRetire ctx stream seq => Sys2Proof.Machine.execAdapterRetire ctx stream seq s
  | .stepForm ctx => Sys2Proof.Machine.execStepForm ctx s
  | .stepTaskStart ctx => Sys2Proof.Machine.execStepTaskStart ctx s
  | .samplerRun ctx => Sys2Proof.Machine.execSamplerRun ctx s
  | .stepBoundary ctx => Sys2Proof.Machine.execStepBoundary ctx s
  | .kvPoolExhausted ctx => Sys2Proof.Machine.execKvPoolExhausted ctx s
  | .pauseCopyComplete ctx slot => Sys2Proof.Machine.execPauseCopyComplete ctx slot s
  | .resumeCopyComplete ctx slot => Sys2Proof.Machine.execResumeCopyComplete ctx slot s
  | .pauseExpiry ctx slot => Sys2Proof.Machine.execPauseExpiry ctx slot s
  | .adapterFreed ctx copy => Sys2Proof.Machine.execAdapterFreed ctx copy s
  | .requestEventWrite ctx => Sys2Proof.Machine.execRequestEventWrite ctx s
  | .servingEnable ctx value => Sys2Proof.Machine.execServingEnable ctx value s
  | .servingStateEnable value => Sys2Proof.Machine.execServingStateEnable value s
  | .stageRun ctx stream seq => Sys2Proof.Machine.execStageRun ctx stream seq s
  | .stageUnitStart run => Sys2Proof.Machine.execStageUnitStart run s
  | .stageEntryStart run => Sys2Proof.Machine.execStageEntryStart run s
  | .quantCheck run => Sys2Proof.Machine.execQuantCheck run s
  | .handOff run => Sys2Proof.Machine.execHandOff run s
  | .stepOutOfOrder ctx stream seq => Sys2Proof.Machine.execStepOutOfOrder ctx stream seq s
  | .seal ctx stream seq => Sys2Proof.Machine.execSeal ctx stream seq s
  | .sealVote ctx tgroup => Sys2Proof.Machine.execSealVote ctx tgroup s
  | .sealDecide ctx tgroup => Sys2Proof.Machine.execSealDecide ctx tgroup s
  | .sealApply ctx tgroup => Sys2Proof.Machine.execSealApply ctx tgroup s
  | .sealTimeout ctx tgroup => Sys2Proof.Machine.execSealTimeout ctx tgroup s
  | .sealQuery island => Sys2Proof.Machine.execSealQuery island s
  | .sealAbort ctx stream seq => Sys2Proof.Machine.execSealAbort ctx stream seq s
  | .bind ctx stream seq => Sys2Proof.Machine.execBind ctx stream seq s
  | .publish ctx stream seq => Sys2Proof.Machine.execPublish ctx stream seq s
  | .allReduce ctx stream seq => Sys2Proof.Machine.execAllReduce ctx stream seq s
  | .reduceScatter ctx stream seq => Sys2Proof.Machine.execReduceScatter ctx stream seq s
  | .allGather ctx stream seq => Sys2Proof.Machine.execAllGather ctx stream seq s
  | .broadcast ctx stream seq => Sys2Proof.Machine.execBroadcast ctx stream seq s
  | .receive ctx stream seq => Sys2Proof.Machine.execReceive ctx stream seq s
  | .reduceUpdateGather ctx stream seq => Sys2Proof.Machine.execReduceUpdateGather ctx stream seq s
  | .collectiveAbort ctx stream seq => Sys2Proof.Machine.execCollectiveAbort ctx stream seq s
  | .chunkSend island => Sys2Proof.Machine.execChunkSend island s
  | .dataChunkReceive island => Sys2Proof.Machine.execDataChunkReceive island s
  | .creditReceive island => Sys2Proof.Machine.execCreditReceive island s
  | .ackReceive island => Sys2Proof.Machine.execAckReceive island s
  | .nackReceive island => Sys2Proof.Machine.execNackReceive island s
  | .notOpenReceive island => Sys2Proof.Machine.execNotOpenReceive island s
  | .creditRegrant island => Sys2Proof.Machine.execCreditRegrant island s
  | .abortReceive island => Sys2Proof.Machine.execAbortReceive island s
  | .resyncReceive island => Sys2Proof.Machine.execResyncReceive island s
  | .chunkAckTimeout island ctx tag chunk lo log dfab => Sys2Proof.Machine.execChunkAckTimeout island ctx tag chunk lo log dfab s
  | .chunkRelay island => Sys2Proof.Machine.execChunkRelay island s
  | .collectiveClose ctx tag island => Sys2Proof.Machine.execCollectiveClose ctx tag island s
  | .collectiveReopen island => Sys2Proof.Machine.execCollectiveReopen island s
  | .updateTile island => Sys2Proof.Machine.execUpdateTile island s
  | .load ctx stream seq => Sys2Proof.Machine.execLoad ctx stream seq s
  | .switch ctx stream seq => Sys2Proof.Machine.execSwitch ctx stream seq s
  | .drop ctx stream seq => Sys2Proof.Machine.execDrop ctx stream seq s
  | .verify ctx stream seq => Sys2Proof.Machine.execVerify ctx stream seq s
  | .pin ctx stream seq => Sys2Proof.Machine.execPin ctx stream seq s
  | .unpin ctx stream seq => Sys2Proof.Machine.execUnpin ctx stream seq s
  | .checkpointWrite ctx stream seq => Sys2Proof.Machine.execCheckpointWrite ctx stream seq s
  | .shardArrivalHash ctx stream seq shard => Sys2Proof.Machine.execShardArrivalHash ctx stream seq shard s
  | .inplaceLayerWrite ctx stream seq => Sys2Proof.Machine.execInplaceLayerWrite ctx stream seq s
  | .digestWalk ctx image model slot index => Sys2Proof.Machine.execDigestWalk ctx image model slot index s
  | .tieredLayerStage ctx model layer => Sys2Proof.Machine.execTieredLayerStage ctx model layer s
  | .modelEvict ctx => Sys2Proof.Machine.execModelEvict ctx s
  | .generationFree ctx model slot => Sys2Proof.Machine.execGenerationFree ctx model slot s
  | .turn ctx stream seq => Sys2Proof.Machine.execTurn ctx stream seq s
  | .turnRelayDone => Sys2Proof.Machine.execTurnRelayDone s
  | .turnQuietDone => Sys2Proof.Machine.execTurnQuietDone s
  | .turnGo ctx value => Sys2Proof.Machine.execTurnGo ctx value s
  | .turnRetrainDone => Sys2Proof.Machine.execTurnRetrainDone s
  | .turnVote => Sys2Proof.Machine.execTurnVote s
  | .turnApply => Sys2Proof.Machine.execTurnApply s
  | .turnTimeout => Sys2Proof.Machine.execTurnTimeout s
  | .builtDigestRecord ctx model slot shard => Sys2Proof.Machine.execBuiltDigestRecord ctx model slot shard s
  | .straitLightDetect strait lanes => Sys2Proof.Machine.execStraitLightDetect strait lanes s
  | .straitLock strait lanes => Sys2Proof.Machine.execStraitLock strait lanes s
  | .straitDeskew strait skew oma => Sys2Proof.Machine.execStraitDeskew strait skew oma s
  | .identityFrame strait frame => Sys2Proof.Machine.execIdentityFrame strait frame s
  | .straitCheck strait => Sys2Proof.Machine.execStraitCheck strait s
  | .straitStateBoundExpiry strait => Sys2Proof.Machine.execStraitStateBoundExpiry strait s
  | .straitRetrain strait => Sys2Proof.Machine.execStraitRetrain strait s
  | .straitRetrainGo strait value => Sys2Proof.Machine.execStraitRetrainGo strait value s
  | .straitEnable strait value => Sys2Proof.Machine.execStraitEnable strait value s
  | .dataFrameReceive strait frame => Sys2Proof.Machine.execDataFrameReceive strait frame s
  | .nackFrameReceive strait frame => Sys2Proof.Machine.execNackFrameReceive strait frame s
  | .idleFrameReceive strait frame => Sys2Proof.Machine.execIdleFrameReceive strait frame s
  | .retrainRequestFrame strait frame => Sys2Proof.Machine.execRetrainRequestFrame strait frame s
  | .frameReplayTimeout strait => Sys2Proof.Machine.execFrameReplayTimeout strait s
  | .frameSend strait => Sys2Proof.Machine.execFrameSend strait s
  | .routeLoad value => Sys2Proof.Machine.execRouteLoad value s
  | .rtEntryWrite value => Sys2Proof.Machine.execRtEntryWrite value s
  | .fabLock value => Sys2Proof.Machine.execFabLock value s
  | .cwSignalDetect lanes => Sys2Proof.Machine.execCwSignalDetect lanes s
  | .cwLock lanes => Sys2Proof.Machine.execCwLock lanes s
  | .cwAlign order => Sys2Proof.Machine.execCwAlign order s
  | .cwConfig => Sys2Proof.Machine.execCwConfig s
  | .cwStateBoundExpiry => Sys2Proof.Machine.execCwStateBoundExpiry s
  | .cwRetrain => Sys2Proof.Machine.execCwRetrain s
  | .cwRetrainWrite value => Sys2Proof.Machine.execCwRetrainWrite value s
  | .causewayPacketReceive packet => Sys2Proof.Machine.execCausewayPacketReceive packet s
  | .linkControlReceive packet => Sys2Proof.Machine.execLinkControlReceive packet s
  | .linkControlSend => Sys2Proof.Machine.execLinkControlSend s
  | .cwReplayTimeout => Sys2Proof.Machine.execCwReplayTimeout s
  | .registerReadPacket ctx tag off len => Sys2Proof.Machine.execRegisterReadPacket ctx tag off len s
  | .registerWritePacket ctx off data => Sys2Proof.Machine.execRegisterWritePacket ctx off data s
  | .memoryRead ctx tag addr len => Sys2Proof.Machine.execMemoryRead ctx tag addr len s
  | .memoryWrite ctx addr data => Sys2Proof.Machine.execMemoryWrite ctx addr data s
  | .readResponse tag status data => Sys2Proof.Machine.execReadResponse tag status data s
  | .storageCommandComplete port num sct sc dnr data => Sys2Proof.Machine.execStorageCommandComplete port num sct sc dnr data s
  | .queuePairFail port target queue refused => Sys2Proof.Machine.execQueuePairFail port target queue refused s
  | .storageAckTimeout port target queue => Sys2Proof.Machine.execStorageAckTimeout port target queue s
  | .ceMarkedReceive port target queue => Sys2Proof.Machine.execCeMarkedReceive port target queue s
  | .cnpReceive port target queue => Sys2Proof.Machine.execCnpReceive port target queue s
  | .rateRestore port target queue => Sys2Proof.Machine.execRateRestore port target queue s
  | .keepAlive port target => Sys2Proof.Machine.execKeepAlive port target s
  | .arpNdRequest port ipv6 addr => Sys2Proof.Machine.execArpNdRequest port ipv6 addr s
  | .storagePacketDrop port target queue unsupported => Sys2Proof.Machine.execStoragePacketDrop port target queue unsupported s
  | .storageEnable port value => Sys2Proof.Machine.execStorageEnable port value s
  | .status pec => Sys2Proof.Machine.execStatus pec s
  | .poweredTime pec => Sys2Proof.Machine.execPoweredTime pec s
  | .tempMax pec => Sys2Proof.Machine.execTempMax pec s
  | .inputPower pec => Sys2Proof.Machine.execInputPower pec s
  | .inputVoltage pec => Sys2Proof.Machine.execInputVoltage pec s
  | .powerCap pec write => Sys2Proof.Machine.execPowerCap pec write s
  | .smbusResetHold pec => Sys2Proof.Machine.execSmbusResetHold pec s
  | .smbusResetClearing pec => Sys2Proof.Machine.execSmbusResetClearing pec s
  | .smbusResetRelease pec => Sys2Proof.Machine.execSmbusResetRelease pec s
  | .standbyEnter pec => Sys2Proof.Machine.execStandbyEnter pec s
  | .standbyLeave pec => Sys2Proof.Machine.execStandbyLeave pec s
  | .alertStatus pec write => Sys2Proof.Machine.execAlertStatus pec write s
  | .alertMask pec write => Sys2Proof.Machine.execAlertMask pec write s
  | .logIndex pec value => Sys2Proof.Machine.execLogIndex pec value s
  | .logRead pec => Sys2Proof.Machine.execLogRead pec s
  | .identity pec => Sys2Proof.Machine.execIdentity pec s
  | .fwDigest pec => Sys2Proof.Machine.execFwDigest pec s
  | .fabricId pec => Sys2Proof.Machine.execFabricId pec s
  | .bypass => Sys2Proof.Machine.execBypass s
  | .idcode => Sys2Proof.Machine.execIdcode s
  | .samplePreload pins preload => Sys2Proof.Machine.execSamplePreload pins preload s
  | .extest => Sys2Proof.Machine.execExtest s
  | .clamp => Sys2Proof.Machine.execClamp s
  | .highz => Sys2Proof.Machine.execHighz s
  | .laneLb detached far => Sys2Proof.Machine.execLaneLb detached far s
  | .tapReset => Sys2Proof.Machine.execTapReset s
  | .standbyGood => Sys2Proof.Machine.execStandbyGood s
  | .standbyLoss => Sys2Proof.Machine.execStandbyLoss s
  | .mainInputGood mv => Sys2Proof.Machine.execMainInputGood mv s
  | .inputUv mv => Sys2Proof.Machine.execInputUv mv s
  | .inputUvReset mv => Sys2Proof.Machine.execInputUvReset mv s
  | .mainInputLoss mv => Sys2Proof.Machine.execMainInputLoss mv s
  | .inputRecovery mv ms => Sys2Proof.Machine.execInputRecovery mv ms s
  | .modRstNAssert => Sys2Proof.Machine.execModRstNAssert s
  | .modRstNRelease => Sys2Proof.Machine.execModRstNRelease s
  | .cableUnplug => Sys2Proof.Machine.execCableUnplug s
  | .operatingPointChange island => Sys2Proof.Machine.execOperatingPointChange island s
  | .plannerTick watts miss => Sys2Proof.Machine.execPlannerTick watts miss s
  | .capExceeded watts => Sys2Proof.Machine.execCapExceeded watts s
  | .admissionCheck => Sys2Proof.Machine.execAdmissionCheck s
  | .budgetPause ctx => Sys2Proof.Machine.execBudgetPause ctx s
  | .budgetResume ctx => Sys2Proof.Machine.execBudgetResume ctx s
  | .ledgerAttribute parts => Sys2Proof.Machine.execLedgerAttribute parts s
  | .islandSleep island => Sys2Proof.Machine.execIslandSleep island s
  | .islandOff island => Sys2Proof.Machine.execIslandOff island s
  | .islandWake island => Sys2Proof.Machine.execIslandWake island s
  | .uncoreWake island => Sys2Proof.Machine.execUncoreWake island s
  | .islandForce island value => Sys2Proof.Machine.execIslandForce island value s
  | .wake island value => Sys2Proof.Machine.execWake island value s
  | .railDip island mv => Sys2Proof.Machine.execRailDip island mv s
  | .railDipRelease island mv => Sys2Proof.Machine.execRailDipRelease island mv s
  | .railReset island mv => Sys2Proof.Machine.execRailReset island mv s
  | .thermalWarn sensor reading => Sys2Proof.Machine.execThermalWarn sensor reading s
  | .thermalThrottle sensor reading => Sys2Proof.Machine.execThermalThrottle sensor reading s
  | .throttleStep island readings => Sys2Proof.Machine.execThrottleStep island readings s
  | .thermalTrip sensor reading => Sys2Proof.Machine.execThermalTrip sensor reading s
  | .thermalTripRelease sensor reading => Sys2Proof.Machine.execThermalTripRelease sensor reading s
  | .correctedError e row => Sys2Proof.Machine.execCorrectedError e row s
  | .correctedWriteBack mem unit addr => Sys2Proof.Machine.execCorrectedWriteBack mem unit addr s
  | .uncorrectableError e row => Sys2Proof.Machine.execUncorrectableError e row s
  | .poisonRead reader addr => Sys2Proof.Machine.execPoisonRead reader addr s
  | .scrubWalk island hbm => Sys2Proof.Machine.execScrubWalk island hbm s
  | .scrubPassEnd island hbm late => Sys2Proof.Machine.execScrubPassEnd island hbm late s
  | .stackLost stack cause => Sys2Proof.Machine.execStackLost stack cause s
  | .stackExclude stack value => Sys2Proof.Machine.execStackExclude stack value s
  | .repairTest island found => Sys2Proof.Machine.execRepairTest island found s
  | .repairBurn island => Sys2Proof.Machine.execRepairBurn island s
  | .monitorSample x ctx => Sys2Proof.Machine.execMonitorSample x ctx s
  | .monitorPeriodic unit measured => Sys2Proof.Machine.execMonitorPeriodic unit measured s
  | .snap => Sys2Proof.Machine.execSnap s
  | .clear => Sys2Proof.Machine.execClear s
  | .monCfgWrite value => Sys2Proof.Machine.execMonCfgWrite value s
  | .moduleReset source clearing => Sys2Proof.Machine.execModuleReset source clearing s
  | .moduleResetRelease => Sys2Proof.Machine.execModuleResetRelease s
  | .modResetGo value => Sys2Proof.Machine.execModResetGo value s
  | .modResetHoldExpiry => Sys2Proof.Machine.execModResetHoldExpiry s
  | .islandReset island => Sys2Proof.Machine.execIslandReset island s
  | .modIslReset value => Sys2Proof.Machine.execModIslReset value s
  | .contextReset ctx => Sys2Proof.Machine.execContextReset ctx s
  | .ctxResetGo ctx value => Sys2Proof.Machine.execCtxResetGo ctx value s
  | .ctxEnable ctx value => Sys2Proof.Machine.execCtxEnable ctx value s
  | .testLock value => Sys2Proof.Machine.execTestLock value s
  | .ttInvalidate ctx value => Sys2Proof.Machine.execTtInvalidate ctx value s
  | .translationWalk ctx dva agent island wr spec demand => Sys2Proof.Machine.execTranslationWalk ctx dva agent island wr spec demand s
  | .vectorRaise vector => Sys2Proof.Machine.execVectorRaise vector s
  | .vectorUnmask vector value => Sys2Proof.Machine.execVectorUnmask vector value s
  | .eventRouteMessage cls inst event => Sys2Proof.Machine.execEventRouteMessage cls inst event s
  | .evtTest ctx cls inst value => Sys2Proof.Machine.execEvtTest ctx cls inst value s
  | .qosArbitrate point waiting cost => Sys2Proof.Machine.execQosArbitrate point waiting cost s
  | .qosAge ctx stream seq => Sys2Proof.Machine.execQosAge ctx stream seq s
  | .bootChain => Sys2Proof.Machine.execBootChain s
  | .install => Sys2Proof.Machine.execInstall s
  | .advance => Sys2Proof.Machine.execAdvance s
  | .eraseAlt => Sys2Proof.Machine.execEraseAlt s
  | .revoke => Sys2Proof.Machine.execRevoke s
  | .attestationReport value => Sys2Proof.Machine.execAttestationReport value s
  | .shadowCtlWrite island value => Sys2Proof.Machine.execShadowCtlWrite island value s
  | .hiHalfWrite ctx off value => Sys2Proof.Machine.execHiHalfWrite ctx off value s
  | .loHalfRead ctx tag off => Sys2Proof.Machine.execLoHalfRead ctx tag off s
  | .clearOnRead ctx tag off => Sys2Proof.Machine.execClearOnRead ctx tag off s
  | .genericRegisterWrite ctx off value => Sys2Proof.Machine.execGenericRegisterWrite ctx off value s
  | .straitLightLost strait => Sys2Proof.Machine.execStraitLightLost strait s
  | .fabIdWrite system value => Sys2Proof.Machine.execFabIdWrite system value s
  | .srvEvqConsumedWrite ctx value => Sys2Proof.Machine.execSrvEvqConsumedWrite ctx value s
  | .storageLinkDown port => Sys2Proof.Machine.execStorageLinkDown port s
  | .storageLinkUp port => Sys2Proof.Machine.execStorageLinkUp port s
  | .rdmaReadRequest port num off len => Sys2Proof.Machine.execRdmaReadRequest port num off len s
  | .priorityFlowControlFrame port prio pause => Sys2Proof.Machine.execPriorityFlowControlFrame port prio pause s
  | .thermalThrottleRelease sensor reading => Sys2Proof.Machine.execThermalThrottleRelease sensor reading s
  | .causewayHardwareFailure => Sys2Proof.Machine.execCausewayHardwareFailure s
  | .storagePortHardwareFailure => Sys2Proof.Machine.execStoragePortHardwareFailure s

end Sys2Proof.Machine
end

