-- ==== Sys2Proof/Machine/Step.lean ====
section
/-! DEFINITION. One step of the module: the command at the front of the queue takes place; on an empty queue a cycle passes. -/
namespace Sys2Proof.Machine

/-- One cycle of the always-on clock (R445) with nothing commanded: the powered time counts while the module has standby power (log entry 1). -/
def State.tick (s : State) : State := if s.run = .off then s else { s with ptime := s.ptime + 1 }

/-- The step: the command at the front of the queue, with the rest of the queue left; on an empty queue a cycle passes. -/
def step (s : State) : Host.Outcome State Fault Refusal :=
  match s.pending with
  | [] => .next s.tick
  | c :: rest => exec c { s with pending := rest }

/-- The state with the command that a word of the table spells put at the front of the queue. The table gives no row bits, so no word spells one. -/
def State.withFetchWord (s : State) (nbits w : Nat) : State :=
  match decodeTableWord nbits w with
  | none => s
  | some c => { s with pending := c :: s.pending }

end Sys2Proof.Machine
end

