-- ==== Sys2Proof/WellFormed.lean ====
section
/-! DEFINITION. Which commands can be sent: every operand that numbers a unit, a register or a field lies in the range the spec gives it. -/
namespace Sys2Proof
open Sys2Proof.Machine

/-- An error names a memory of the module and a unit that has it (R477, R481). -/
def errOk (e : ErrAt) : Bool := errSound e && decide (e.cay < 320) && decide (e.ctx < 64)

/-- The command is well formed. -/
def Instr.wf : Instr → Bool
  | .add c _ => cayOk c
  | .sub c _ => cayOk c
  | .and c _ => cayOk c
  | .or c _ => cayOk c
  | .xor c _ => cayOk c
  | .shl c _ => cayOk c
  | .shr c _ => cayOk c
  | .sar c _ => cayOk c
  | .mul c _ => cayOk c
  | .slt c _ => cayOk c
  | .sltu c _ => cayOk c
  | .addi c _ => cayOk c
  | .andi c _ => cayOk c
  | .ori c _ => cayOk c
  | .shli c _ => cayOk c
  | .shri c _ => cayOk c
  | .lih c _ => cayOk c
  | .srd c _ => cayOk c
  | .ld8 c _ => cayOk c
  | .ld16 c _ => cayOk c
  | .ld32 c _ => cayOk c
  | .ld64 c _ => cayOk c
  | .st16 c _ => cayOk c
  | .st32 c _ => cayOk c
  | .st64 c _ => cayOk c
  | .ldg32 c _ => cayOk c
  | .ldg64 c _ => cayOk c
  | .stg32 c _ => cayOk c
  | .stg64 c _ => cayOk c
  | .beq c _ => cayOk c
  | .bne c _ => cayOk c
  | .blt c _ => cayOk c
  | .bge c _ => cayOk c
  | .bltu c _ => cayOk c
  | .bgeu c _ => cayOk c
  | .jal c _ => cayOk c
  | .jr c _ => cayOk c
  | .tyld c _ => cayOk c
  | .tbar c _ => cayOk c
  | .nwait c _ => cayOk c
  | .cpost c _ => cayOk c
  | .tend c _ => cayOk c
  | .tdsc c _ => cayOk c
  | .tfail c _ => cayOk c
  | .cpy c _ => cayOk c
  | .cfen c _ => cayOk c
  | .mcfg c _ => cayOk c
  | .mlds c _ => cayOk c
  | .miss c _ _ => cayOk c
  | .mseq c _ => cayOk c
  | .mfin c _ => cayOk c
  | .mdrn c _ => cayOk c
  | .vadd c _ => cayOk c
  | .vsub c _ => cayOk c
  | .vmul c _ => cayOk c
  | .vfma c _ => cayOk c
  | .vmin c _ => cayOk c
  | .vmax c _ => cayOk c
  | .vabs c _ => cayOk c
  | .vneg c _ => cayOk c
  | .vscl c _ => cayOk c
  | .vcmplt c _ => cayOk c
  | .vcmpeq c _ => cayOk c
  | .vsel c _ => cayOk c
  | .vmov c _ => cayOk c
  | .vexp2 c _ => cayOk c
  | .vlog2 c _ => cayOk c
  | .vrcp c _ => cayOk c
  | .vrsqrt c _ => cayOk c
  | .vsqrt c _ => cayOk c
  | .vcvt c _ => cayOk c
  | .vrsum c _ => cayOk c
  | .vrmax c _ => cayOk c
  | .vldg c _ => cayOk c
  | .vstg c _ => cayOk c
  | .threadSwitchQuantum c => cayOk c
  | .threadMissReturn c thread => cayOk c && decide (thread < 8)
  | .taskBind c _ => cayOk c
  | .taskEnd _ => true
  | .cayClockGate c => cayOk c
  | .cayUngate c _ => cayOk c
  | .shadowRecompute c => cayOk c
  | .shadowSelectExpiry c => cayOk c
  | .copyComplete c _ => cayOk c
  | .copyPageFault c _ => cayOk c
  | .queuedFenceComplete c engine => cayOk c && decide (engine < 6)
  | .islandCacheFill island _ => decide (island < 24)
  | .runAheadFetch island _ => decide (island < 24)
  | .prefetchArrival island _ => decide (island < 24)
  | .hbmWriteInvalidate writer addr _ => decide (writer ≤ 24) && decide (addr < 2 ^ 41)
  | .speculativeRequeue island _ => decide (island < 24)
  | .speculativeCommit _ => true
  | .speculativeDiscard _ => true
  | .landingWindowWrite ctx tag off _ => decide (ctx < 64) && decide (tag < 2 ^ 48) && decide (off < 2 ^ 26)
  | .landingWindowResponse ctx stream seq => decide (ctx < 64) && decide (stream < 16) && decide (seq < 2 ^ 32)
  | .recordStart ctx stream seq => decide (ctx < 64) && decide (stream < 16) && decide (seq < 2 ^ 32)
  | .recordCommit ctx stream seq => decide (ctx < 64) && decide (stream < 16) && decide (seq < 2 ^ 32)
  | .task ctx stream seq => decide (ctx < 64) && decide (stream < 16) && decide (seq < 2 ^ 32)
  | .copy ctx stream seq => decide (ctx < 64) && decide (stream < 16) && decide (seq < 2 ^ 32)
  | .groupClose ctx stream seq => decide (ctx < 64) && decide (stream < 16) && decide (seq < 2 ^ 32)
  | .marker ctx stream seq => decide (ctx < 64) && decide (stream < 16) && decide (seq < 2 ^ 32)
  | .registerWrite ctx stream seq => decide (ctx < 64) && decide (stream < 16) && decide (seq < 2 ^ 32)
  | .groupDecision _ => true
  | .groupApply _ => true
  | .groupTimeout _ => true
  | .journalEntryWrite ctx stream seq => decide (ctx < 64) && decide (stream < 16) && decide (seq < 2 ^ 32)
  | .journalEntryRetire ctx stream seq => decide (ctx < 64) && decide (stream < 16) && decide (seq < 2 ^ 32)
  | .journalRecovery => true
  | .journalStackLoss => true
  | .journalRebuild value => decide (value < 2 ^ 32)
  | .journalEnable value => decide (value < 2 ^ 32)
  | .completionWrite ctx stream seq => decide (ctx < 64) && decide (stream < 16) && decide (seq < 2 ^ 32)
  | .completionRewrite ctx stream seq => decide (ctx < 64) && decide (stream < 16) && decide (seq < 2 ^ 32)
  | .cqConsumedWrite ctx stream value => decide (ctx < 64) && decide (stream < 16) && decide (value < 2 ^ 32)
  | .lwEnable writer ctx stream value => decide (writer < 64) && decide (ctx < 64) && decide (stream < 16) && decide (value < 2 ^ 32)
  | .controlTakeover => true
  | .admitRequest ctx stream seq => decide (ctx < 64) && decide (stream < 16) && decide (seq < 2 ^ 32)
  | .cancel ctx stream seq => decide (ctx < 64) && decide (stream < 16) && decide (seq < 2 ^ 32)
  | .pause ctx stream seq => decide (ctx < 64) && decide (stream < 16) && decide (seq < 2 ^ 32)
  | .resume ctx stream seq => decide (ctx < 64) && decide (stream < 16) && decide (seq < 2 ^ 32)
  | .adapterInstall ctx stream seq => decide (ctx < 64) && decide (stream < 16) && decide (seq < 2 ^ 32)
  | .adapterRetire ctx stream seq => decide (ctx < 64) && decide (stream < 16) && decide (seq < 2 ^ 32)
  | .stepForm ctx => decide (ctx < 64)
  | .stepTaskStart ctx => decide (ctx < 64)
  | .samplerRun ctx => decide (ctx < 64)
  | .stepBoundary ctx => decide (ctx < 64)
  | .kvPoolExhausted ctx => decide (ctx < 64)
  | .pauseCopyComplete ctx slot => decide (ctx < 64) && decide (slot < 2 ^ 16)
  | .resumeCopyComplete ctx slot => decide (ctx < 64) && decide (slot < 2 ^ 16)
  | .pauseExpiry ctx slot => decide (ctx < 64) && decide (slot < 2 ^ 16)
  | .adapterFreed ctx _ => decide (ctx < 64)
  | .requestEventWrite ctx => decide (ctx < 64)
  | .servingEnable ctx value => decide (ctx < 64) && decide (value < 2 ^ 32)
  | .servingStateEnable value => decide (value < 2 ^ 32)
  | .stageRun ctx stream seq => decide (ctx < 64) && decide (stream < 16) && decide (seq < 2 ^ 32)
  | .stageUnitStart _ => true
  | .stageEntryStart _ => true
  | .quantCheck _ => true
  | .handOff _ => true
  | .stepOutOfOrder ctx stream seq => decide (ctx < 64) && decide (stream < 16) && decide (seq < 2 ^ 32)
  | .seal ctx stream seq => decide (ctx < 64) && decide (stream < 16) && decide (seq < 2 ^ 32)
  | .sealVote ctx tgroup => decide (ctx < 64) && decide (tgroup < 2 ^ 16)
  | .sealDecide ctx tgroup => decide (ctx < 64) && decide (tgroup < 2 ^ 16)
  | .sealApply ctx tgroup => decide (ctx < 64) && decide (tgroup < 2 ^ 16)
  | .sealTimeout ctx tgroup => decide (ctx < 64) && decide (tgroup < 2 ^ 16)
  | .sealQuery island => decide (island < 24)
  | .sealAbort ctx stream seq => decide (ctx < 64) && decide (stream < 16) && decide (seq < 2 ^ 32)
  | .bind ctx stream seq => decide (ctx < 64) && decide (stream < 16) && decide (seq < 2 ^ 32)
  | .publish ctx stream seq => decide (ctx < 64) && decide (stream < 16) && decide (seq < 2 ^ 32)
  | .allReduce ctx stream seq => decide (ctx < 64) && decide (stream < 16) && decide (seq < 2 ^ 32)
  | .reduceScatter ctx stream seq => decide (ctx < 64) && decide (stream < 16) && decide (seq < 2 ^ 32)
  | .allGather ctx stream seq => decide (ctx < 64) && decide (stream < 16) && decide (seq < 2 ^ 32)
  | .broadcast ctx stream seq => decide (ctx < 64) && decide (stream < 16) && decide (seq < 2 ^ 32)
  | .receive ctx stream seq => decide (ctx < 64) && decide (stream < 16) && decide (seq < 2 ^ 32)
  | .reduceUpdateGather ctx stream seq => decide (ctx < 64) && decide (stream < 16) && decide (seq < 2 ^ 32)
  | .collectiveAbort ctx stream seq => decide (ctx < 64) && decide (stream < 16) && decide (seq < 2 ^ 32)
  | .chunkSend island => decide (island < 24)
  | .dataChunkReceive island => decide (island < 24)
  | .creditReceive island => decide (island < 24)
  | .ackReceive island => decide (island < 24)
  | .nackReceive island => decide (island < 24)
  | .notOpenReceive island => decide (island < 24)
  | .creditRegrant island => decide (island < 24)
  | .abortReceive island => decide (island < 24)
  | .resyncReceive island => decide (island < 24)
  | .chunkAckTimeout island ctx tag _ _ _ dfab => decide (island < 24) && decide (ctx < 64) && decide (tag < 2 ^ 48) && decide (dfab < 2 ^ 14)
  | .chunkRelay island => decide (island < 24)
  | .collectiveClose ctx tag island => decide (ctx < 64) && decide (tag < 2 ^ 48) && decide (island < 24)
  | .collectiveReopen island => decide (island < 24)
  | .updateTile island => decide (island < 24)
  | .load ctx stream seq => decide (ctx < 64) && decide (stream < 16) && decide (seq < 2 ^ 32)
  | .switch ctx stream seq => decide (ctx < 64) && decide (stream < 16) && decide (seq < 2 ^ 32)
  | .drop ctx stream seq => decide (ctx < 64) && decide (stream < 16) && decide (seq < 2 ^ 32)
  | .verify ctx stream seq => decide (ctx < 64) && decide (stream < 16) && decide (seq < 2 ^ 32)
  | .pin ctx stream seq => decide (ctx < 64) && decide (stream < 16) && decide (seq < 2 ^ 32)
  | .unpin ctx stream seq => decide (ctx < 64) && decide (stream < 16) && decide (seq < 2 ^ 32)
  | .checkpointWrite ctx stream seq => decide (ctx < 64) && decide (stream < 16) && decide (seq < 2 ^ 32)
  | .shardArrivalHash ctx stream seq shard => decide (ctx < 64) && decide (stream < 16) && decide (seq < 2 ^ 32) && decide (shard < 2 ^ 16)
  | .inplaceLayerWrite ctx stream seq => decide (ctx < 64) && decide (stream < 16) && decide (seq < 2 ^ 32)
  | .digestWalk ctx _ model slot _ => decide (ctx < 64) && decide (model < 8) && decide (slot < 4)
  | .tieredLayerStage ctx model layer => decide (ctx < 64) && decide (model < 8) && decide (layer < 2 ^ 16)
  | .modelEvict ctx => decide (ctx < 64)
  | .generationFree ctx model slot => decide (ctx < 64) && decide (model < 8) && decide (slot < 4)
  | .turn ctx stream seq => decide (ctx < 64) && decide (stream < 16) && decide (seq < 2 ^ 32)
  | .turnRelayDone => true
  | .turnQuietDone => true
  | .turnGo ctx value => decide (ctx < 64) && decide (value < 2 ^ 32)
  | .turnRetrainDone => true
  | .turnVote => true
  | .turnApply => true
  | .turnTimeout => true
  | .builtDigestRecord ctx model slot shard => decide (ctx < 64) && decide (model < 8) && decide (slot < 4) && decide (shard < 2 ^ 16)
  | .straitLightDetect strait _ => decide (strait < 24)
  | .straitLock strait _ => decide (strait < 24)
  | .straitDeskew strait skew _ => decide (strait < 24) && decide (skew.length ≤ 32)
  | .identityFrame strait _ => decide (strait < 24)
  | .straitCheck strait => decide (strait < 24)
  | .straitStateBoundExpiry strait => decide (strait < 24)
  | .straitRetrain strait => decide (strait < 24)
  | .straitRetrainGo strait value => decide (strait < 24) && decide (value < 2 ^ 32)
  | .straitEnable strait value => decide (strait < 24) && decide (value < 2 ^ 32)
  | .dataFrameReceive strait _ => decide (strait < 24)
  | .nackFrameReceive strait _ => decide (strait < 24)
  | .idleFrameReceive strait _ => decide (strait < 24)
  | .retrainRequestFrame strait _ => decide (strait < 24)
  | .frameReplayTimeout strait => decide (strait < 24)
  | .frameSend strait => decide (strait < 24)
  | .routeLoad value => decide (value < 2 ^ 32)
  | .rtEntryWrite value => decide (value < 2 ^ 32)
  | .fabLock value => decide (value < 2 ^ 32)
  | .cwSignalDetect _ => true
  | .cwLock _ => true
  | .cwAlign _ => true
  | .cwConfig => true
  | .cwStateBoundExpiry => true
  | .cwRetrain => true
  | .cwRetrainWrite value => decide (value < 2 ^ 32)
  | .causewayPacketReceive _ => true
  | .linkControlReceive _ => true
  | .linkControlSend => true
  | .cwReplayTimeout => true
  | .registerReadPacket ctx tag off len => decide (ctx < 64) && decide (tag < 2 ^ 48) && decide (off < 2 ^ 26) && decide (len < 2 ^ 32)
  | .registerWritePacket ctx off _ => decide (ctx < 64) && decide (off < 2 ^ 26)
  | .memoryRead ctx tag addr len => decide (ctx < 64) && decide (tag < 2 ^ 48) && decide (addr < 2 ^ 64) && decide (len < 2 ^ 32)
  | .memoryWrite ctx addr _ => decide (ctx < 64) && decide (addr < 2 ^ 64)
  | .readResponse tag _ _ => decide (tag < 2 ^ 48)
  | .storageCommandComplete port _ sct sc _ _ => decide (port < 2) && decide (sct < 8) && decide (sc < 256)
  | .queuePairFail port target queue _ => decide (port < 2) && decide (target < 256) && decide (queue < 9)
  | .storageAckTimeout port target queue => decide (port < 2) && decide (target < 256) && decide (queue < 9)
  | .ceMarkedReceive port target queue => decide (port < 2) && decide (target < 256) && decide (queue < 9)
  | .cnpReceive port target queue => decide (port < 2) && decide (target < 256) && decide (queue < 9)
  | .rateRestore port target queue => decide (port < 2) && decide (target < 256) && decide (queue < 9)
  | .keepAlive port target => decide (port < 2) && decide (target < 256)
  | .arpNdRequest port _ addr => decide (port < 2) && decide (addr < 2 ^ 128)
  | .storagePacketDrop port target queue _ => decide (port < 2) && decide (target < 256) && decide (queue < 9)
  | .storageEnable port value => decide (port < 2) && decide (value < 2 ^ 32)
  | .status _ => true
  | .poweredTime _ => true
  | .tempMax _ => true
  | .inputPower _ => true
  | .inputVoltage _ => true
  | .powerCap _ write => write.all (fun v => decide (v < 2 ^ 16))
  | .smbusResetHold _ => true
  | .smbusResetClearing _ => true
  | .smbusResetRelease _ => true
  | .standbyEnter _ => true
  | .standbyLeave _ => true
  | .alertStatus _ write => write.all (fun v => decide (v < 2 ^ 16))
  | .alertMask _ write => write.all (fun v => decide (v < 2 ^ 16))
  | .logIndex _ value => decide (value < 2 ^ 32)
  | .logRead _ => true
  | .identity _ => true
  | .fwDigest _ => true
  | .fabricId _ => true
  | .bypass => true
  | .idcode => true
  | .samplePreload pins preload => decide (pins.length = preload.length)
  | .extest => true
  | .clamp => true
  | .highz => true
  | .laneLb detached far => decide (detached < 2 ^ 32) && decide (far < 2 ^ 32)
  | .tapReset => true
  | .standbyGood => true
  | .standbyLoss => true
  | .mainInputGood _ => true
  | .inputUv _ => true
  | .inputUvReset _ => true
  | .mainInputLoss _ => true
  | .inputRecovery _ _ => true
  | .modRstNAssert => true
  | .modRstNRelease => true
  | .cableUnplug => true
  | .operatingPointChange island => decide (island < 24)
  | .plannerTick _ _ => true
  | .capExceeded _ => true
  | .admissionCheck => true
  | .budgetPause ctx => decide (ctx < 64)
  | .budgetResume ctx => decide (ctx < 64)
  | .ledgerAttribute parts => parts.all (fun a => decide (a.island ≤ 24) && decide (a.ctx ≤ 64) && decide (a.cls < 8))
  | .islandSleep island => decide (island < 24)
  | .islandOff island => decide (island < 24)
  | .islandWake island => decide (island < 24)
  | .uncoreWake island => decide (island < 24)
  | .islandForce island value => decide (island < 24) && decide (value < 2 ^ 32)
  | .wake island value => decide (island < 24) && decide (value < 2 ^ 32)
  | .railDip island _ => decide (island < 24)
  | .railDipRelease island _ => decide (island < 24)
  | .railReset island _ => decide (island < 24)
  | .thermalWarn sensor _ => decide (sensor < 148)
  | .thermalThrottle sensor _ => decide (sensor < 148)
  | .throttleStep island readings => decide (island < 24) && decide (readings.length = 5)
  | .thermalTrip sensor _ => decide (sensor < 148)
  | .thermalTripRelease sensor _ => decide (sensor < 148)
  | .correctedError e _ => errOk e
  | .correctedWriteBack mem unit _ => decide (mem < 7) && decide (unit < 24)
  | .uncorrectableError e _ => errOk e
  | .poisonRead _ _ => true
  | .scrubWalk island _ => decide (island < 24)
  | .scrubPassEnd island _ _ => decide (island < 24)
  | .stackLost stack _ => decide (stack < 24)
  | .stackExclude stack value => decide (stack < 24) && decide (value < 2 ^ 32)
  | .repairTest island _ => decide (island < 24)
  | .repairBurn island => decide (island < 24)
  | .monitorSample _ ctx => ctx.all (fun c => decide (c < 64))
  | .monitorPeriodic unit _ => decide (unit < 256)
  | .snap => true
  | .clear => true
  | .monCfgWrite value => decide (value < 2 ^ 32)
  | .moduleReset _ _ => true
  | .moduleResetRelease => true
  | .modResetGo value => decide (value < 2 ^ 32)
  | .modResetHoldExpiry => true
  | .islandReset island => decide (island < 24)
  | .modIslReset value => decide (value < 2 ^ 32)
  | .contextReset ctx => decide (ctx < 64)
  | .ctxResetGo ctx value => decide (ctx < 64) && decide (value < 2 ^ 32)
  | .ctxEnable ctx value => decide (ctx < 64) && decide (value < 2 ^ 32)
  | .testLock value => decide (value < 2 ^ 32)
  | .ttInvalidate ctx value => decide (ctx < 64) && decide (value < 2 ^ 32)
  | .translationWalk ctx dva agent island _ _ _ => decide (ctx < 64) && decide (dva < 2 ^ 64) && decide (agent < 7) && decide (island < 24)
  | .vectorRaise vector => decide (vector < 2048)
  | .vectorUnmask vector value => decide (vector < 2048) && decide (value < 2 ^ 32)
  | .eventRouteMessage cls inst event => decide (cls < 64) && decide (inst < 256) && decide (event < 32)
  | .evtTest ctx cls inst value => decide (ctx < 64) && decide (cls < 64) && decide (inst < 256) && decide (value < 2 ^ 32)
  | .qosArbitrate point waiting _ => decide (point < 73) && waiting.all (fun w => decide (w.1 < 64) && decide (w.2 < 8))
  | .qosAge ctx stream seq => decide (ctx < 64) && decide (stream < 16) && decide (seq < 2 ^ 32)
  | .bootChain => true
  | .install => true
  | .advance => true
  | .eraseAlt => true
  | .revoke => true
  | .attestationReport value => decide (value < 2 ^ 32)
  | .shadowCtlWrite island value => decide (island < 24) && decide (value < 2 ^ 32)
  | .hiHalfWrite ctx off value => decide (ctx < 64) && decide (off < 2 ^ 26) && decide (value < 2 ^ 32)
  | .loHalfRead ctx tag off => decide (ctx < 64) && decide (tag < 2 ^ 48) && decide (off < 2 ^ 26)
  | .clearOnRead ctx tag off => decide (ctx < 64) && decide (tag < 2 ^ 48) && decide (off < 2 ^ 26)
  | .genericRegisterWrite ctx off value => decide (ctx < 64) && decide (off < 2 ^ 26) && decide (value < 2 ^ 32)
  | .straitLightLost strait => decide (strait < 24)
  | .fabIdWrite _ value => decide (value < 2 ^ 32)
  | .srvEvqConsumedWrite ctx value => decide (ctx < 64) && decide (value < 2 ^ 32)
  | .storageLinkDown port => decide (port < 2)
  | .storageLinkUp port => decide (port < 2)
  | .rdmaReadRequest port _ off len => decide (port < 2) && decide (off < 2 ^ 26) && decide (len < 2 ^ 32)
  | .priorityFlowControlFrame port prio _ => decide (port < 2) && decide (prio < 8)
  | .thermalThrottleRelease sensor _ => decide (sensor < 148)
  | .causewayHardwareFailure => true
  | .storagePortHardwareFailure => true

end Sys2Proof
end

