-- ==== Sys2Proof/Safety.lean ====
section
/-! DEFINITION. What a run must respect to be a run of the module: commands that can be sent, and instructions that the kernel's code holds. -/
namespace Sys2Proof.Machine

/-- The cay that an instruction is issued on, where a command is an instruction of a cay: the one its word was read on. -/
def fetched (s : State) (r : CayRef) : Option W64 :=
  match (s.cay r).running with
  | none => none
  | some t =>
    let pc := ((s.cay r).thr t).pc
    if pc + 8 ≤ (s.cay r).istore.length then some (BitVec.ofNat 64 (leAt (s.cay r).istore pc 8)) else none

/-- An instruction of a cay is the one in the cay's instruction store at the running thread's pc (R168); any other command is unconstrained. The
model's commands name their instruction themselves (log entry 6), so that a run is one of the module only where this holds at each of them. -/
def Faithful (s : State) (i : Instr) : Prop :=
  ∀ w, i.cayWord = some w → ∃ r gap, cayInstr r gap w = some i ∧ fetched s r = some w

/-- A run that the module can make: each command is well formed and, where it is an instruction, the one its cay fetched; no step stops. -/
inductive SafeRun : State → State → Prop where
  | refl (s : State) : SafeRun s s
  | step (s t u : State) (c : Instr) (rest : List Instr) : s.pending = c :: rest → c.wf = true → Faithful s c → Sys2Proof.Machine.step s = .next t →
      SafeRun t u → SafeRun s u

/-- What every state of the module is to keep: HBM and the registers in their canonical form, at most 512 entries in the sticky log (R489), and the SMBus cap in its
range (R441). -/
def StateInv (s : State) : Prop :=
  s.hbm.wf = true ∧ Tbl.wf resetWord s.regs = true ∧ s.mod.log.length ≤ 512 ∧ 1000 ≤ s.pw.smbusCap ∧ s.pw.smbusCap ≤ 12000

/-! ### The words of the statements -/

/-- Thread `t` of a cay can issue: it is the cay's running thread (R127), and its task is not paused by the energy planner (R462). -/
def Issues (s : State) (c : CayRef) (t : Nat) : Prop :=
  (s.cay c).running = some t ∧ (s.task ((s.cay c).thr t).task).paused = false

/-- No work queued earlier is still to write one of the registers (R176). -/
def Settled (s : State) (c : CayRef) (t : Nat) (rs : List (BitVec 5)) : Prop := ∀ x ∈ rs, (s.cay c).pendingReg t x = false

/-- Everything but one thread's pc and scalar registers is unchanged: every other thread, engine, array, copy and local-store byte of the cay, every other cay, every register of
every page, every byte of HBM, and all else the state holds. -/
def OnlyThread (s u : State) (c : CayRef) (t : Nat) : Prop :=
  u = { s with cays := u.cays } ∧ (∀ r, cayKey r ≠ cayKey c → u.cay r = s.cay r) ∧
    u.cay c = { s.cay c with threads := (u.cay c).threads } ∧ (∀ i, i ≠ t → (u.cay c).thr i = (s.cay c).thr i) ∧
    (u.cay c).thr t = { (s.cay c).thr t with pc := ((u.cay c).thr t).pc, regs := ((u.cay c).thr t).regs }

/-- No engine of a cay holds queued work (R175). -/
def Vacant (s : State) (c : CayRef) : Prop := ∀ e, (s.cay c).queue e = []

/-- The state in which an instruction has entered its engine's queue and its thread has gone on. -/
def State.entered (s : State) (c : CayRef) (t : Nat) (e : Nat) (op : EngOp) : State :=
  let y := s.cay c
  let th := y.thr t
  s.setCay c (({ y.setThr t th.next with issue := y.issue + 1 } : Cay).setQueue e [⟨y.issue, t, th.task, op⟩])

/-- The entry an instruction makes. -/
def State.queuedEntry (s : State) (c : CayRef) (t : Nat) (op : EngOp) : QEntry := ⟨(s.cay c).issue, t, ((s.cay c).thr t).task, op⟩

/-- Nothing outside one cay is changed. -/
def OnlyCay (s u : State) (c : CayRef) : Prop := u = { s with cays := u.cays } ∧ ∀ r, cayKey r ≠ cayKey c → u.cay r = s.cay r

/-- A task has ended with a status (R171, R219): the status and its DETAIL stand in the task, no thread of a cay it was live on is bound to it, local stores are as they were, and nothing but
cays and tasks has changed. -/
def EndedWith (s u : State) (k status detail : Nat) : Prop :=
  (u.task k).status = status ∧ (u.task k).detail = detail ∧ (∀ n, n ≠ k → u.task n = s.task n) ∧
    (∀ x ∈ (s.task k).live, ∀ i, i < 8 → ¬ (((u.cay (cayOfKey x)).thr i).bound = true ∧ ((u.cay (cayOfKey x)).thr i).task = k)) ∧
    (∀ r, (u.cay r).ls = (s.cay r).ls) ∧ u = { s with cays := u.cays, tasks := u.tasks }

/-- A task that has not ended and has no status yet. -/
def Unfinished (s : State) (k : Nat) : Prop := (s.task k).st ≠ .ended ∧ (s.task k).status = 0

/-- A counting field has risen by `n`, or stands at all ones (R83). -/
def Counted (s u : State) (f : Fld) (i : Nat) (unit : Nat := 0) (n : Nat := 1) : Prop :=
  u.fld f i unit = min (s.fld f i unit + n) (2 ^ (f.hi + 1 - f.lo) - 1)

/-- Event `n` of a page has taken place: where it is enabled, its cause bit is set (R538). -/
def Raised (s u : State) (cls inst n : Nat) : Prop :=
  (s.reg (rkey cls inst evtEnable 0)).toNat.testBit n = true → (u.reg (rkey cls inst evtCause 0)).toNat.testBit n = true

/-- A record has its outcome: it has reached its commit point, or committed, with a status and DETAIL (R216, R217). -/
def Outcome (u : State) (c q n st d : Nat) : Prop := ∃ e, u.entry c q n = some e ∧ e.point = some (st, d)

/-- Of all registers only those at the keys given may differ, and those in which events leave their mark: causes, vectors and dropped interrupts (R506 to R508, R538). -/
def OnlyRegsEvents (s u : State) (ks : List Nat) : Prop :=
  ∀ k, k ∉ ks → k % 2 ^ 12 ≠ 0x010 → k % 2 ^ 12 ≠ 0x078 → k % 2 ^ 12 ≠ 0x07C → u.reg k = s.reg k

/-- Of all record entries only the one named may differ, and nothing but entries does. -/
def OnlyEntry (s u : State) (c q n : Nat) : Prop :=
  u = { s with entries := u.entries } ∧ ∀ c' q' n', ¬ (c' = c ∧ q' = q ∧ n' = n) → u.entry c' q' n' = s.entry c' q' n'

/-- Of all registers only those at the keys given may differ. -/
def OnlyRegs (s u : State) (ks : List Nat) : Prop := ∀ k, k ∉ ks → u.reg k = s.reg k

end Sys2Proof.Machine
end

