-- ==== Sys2Proof/Certificates/Slice0/Obligations.lean ====
section
/-! DEFINITION. The statements for the provers. -/
open Sys2Proof Sys2Proof.Machine

/-! ### The machine as a whole -/

/-- A step takes the command at the front of the queue; with none there, a cycle passes (R446; that a cycle passes then is the model's choice, log entry 1). -/
def Obligations.StepRunsFront : Prop :=
  (∀ (s : State) (c : Instr) (rest : List Instr), s.pending = c :: rest → step s = exec c { s with pending := rest }) ∧
  (∀ (s : State), s.pending = [] → step s = .next (if s.run = .off then s else { s with ptime := s.ptime + 1 }))

/-- What reset leaves (R16, R204, R407, R446, R489, R498, R506). That State.reset is the module as its firmware has just signalled readiness is the model's choice (log entry 4). -/
def Obligations.ResetState : Prop :=
  State.reset.pending = [] ∧ State.reset.outbox = [] ∧ State.reset.entries = [] ∧ State.reset.groups = [] ∧ State.reset.tasks = [] ∧ State.reset.mod.log = [] ∧ State.reset.mod.holds = [] ∧ State.reset.ptime = 0 ∧
  State.reset.run = .ready ∧ (∀ r, State.reset.cay r = Cay.reset) ∧ (∀ a, State.reset.hbm.read a = 0) ∧ (∀ d, State.reset.route d = 0) ∧ (∀ i, State.reset.role i = 0) ∧
  (∀ c q, c < 64 → q < 16 → State.reset.fld .lwNextLo (lwInst c q) = 1 ∧ State.reset.fld .lwNextHi (lwInst c q) = 0 ∧ State.reset.fld .lwCtlEn (lwInst c q) = 0) ∧
  (∀ c, c < 64 → State.reset.fld .ctxCtlEn c = (if c = 0 then 1 else 0) ∧ State.reset.fld .ctxIrqRangeBase c = 32 * c ∧ State.reset.fld .ctxIrqRangeCount c = 32) ∧
  (∀ v, v < 2048 → State.reset.fld .irqVctlMask 0 (1 + v) = 0 ∧ State.reset.fld .irqVctlPending 0 (1 + v) = 0) ∧
  State.reset.fld .fabIdId 0 = 0x3FFF ∧ State.reset.fld .fabLockLock 0 = 0 ∧ State.reset.fld .pwrCapCap 0 = 12000 ∧ State.reset.fld .logHead 0 = 0 ∧
  (∀ i, i < 24 → State.reset.fld .islStatState i = 0 ∧ State.reset.fld .islStatOp i = 0 ∧ State.reset.fld .memStatStack i = 0)

/-- The invariant holds at State.reset. The reset value of the SMBus cap is the model's choice (log entry 23). -/
def Obligations.ResetKeepsInvariant : Prop := StateInv State.reset

/-- Every step keeps the invariant: equal memories and registers stay equal data, the sticky log of R489 never holds more than its 512 entries, and the SMBus cap of R441 never leaves its range. -/
def Obligations.InvariantKept : Prop := ∀ (s u : State), StateInv s → step s = .next u → StateInv u

/-- R531: fuse writes are permanent; no step lowers SVN_FUSE or unrevokes a key. The queue loses its front and nothing else. -/
def Obligations.FusesStayBurned : Prop :=
  ∀ (s u : State), step s = .next u → u.pending = s.pending.drop 1 ∧ s.fuse.svn ≤ u.fuse.svn ∧ ∀ k, s.fuse.revoked.testBit k = true → u.fuse.revoked.testBit k = true

/-- R168 to R170, R178, R181, R192: the words of the instructions of a cay, each way. -/
def Obligations.InstructionWords : Prop :=
  (∀ (i : Instr) (w : W64), i.cayWord = some w → ∃ c gap, cayInstr c gap w = some i) ∧
  (∀ (i : Instr) (w : W64) (c : CayRef) (gap : Nat), cayInstr c gap w = some i → i.cayWord = some w)

/-! ### Scalar instructions -/

/-- R178: the S-format arithmetic instructions write `op a b` to register d and fall through; a write of s0 is discarded (R172). Nothing else changes. R178: the I-format arithmetic instructions write `op a IMM` to register d, with IMM sign-extended, and fall through. Nothing else changes. R174: SRD writes the special register named by IMM[7:0] to d; an index past the table reads zero. The cycle count of index 9 is a free value (log entry 18), of which nothing is stated; indexes 1, 5 and 8 read
what the binding and the module's calibration left. -/
def Obligations.ScalarInstructions : Prop :=
  (∀ (mk : CayRef → SFields → Instr) (op : W64 → W64 → W64),
    (mk, op) ∈ ([(.add, fun a b => a + b), (.sub, fun a b => a - b), (.and, fun a b => a &&& b), (.or, fun a b => a ||| b), (.xor, fun a b => a ^^^ b),
      (.shl, fun a b => a <<< (b.toNat % 64)), (.shr, fun a b => a >>> (b.toNat % 64)), (.sar, fun a b => a.sshiftRight (b.toNat % 64)), (.mul, fun a b => a * b),
      (.slt, fun a b => if a.toInt < b.toInt then 1 else 0), (.sltu, fun a b => if a.toNat < b.toNat then 1 else 0)] : List ((CayRef → SFields → Instr) × (W64 → W64 → W64))) →
    ∀ (s : State) (c : CayRef) (t : Nat) (f : SFields), Issues s c t → Settled s c t [f.d, f.a, f.b] → f.rsv = 0 →
      ∃ u, exec (mk c f) s = .next u ∧ ((u.cay c).thr t).pc = ((s.cay c).thr t).pc + 8 ∧
        (∀ x, ((u.cay c).thr t).reg x = if x = f.d ∧ x ≠ 0 then op (((s.cay c).thr t).reg f.a) (((s.cay c).thr t).reg f.b) else ((s.cay c).thr t).reg x) ∧
        OnlyThread s u c t) ∧
  (∀ (mk : CayRef → IFields → Instr) (op : W64 → BitVec 32 → W64),
    (mk, op) ∈ ([(.addi, fun a i => a + i.signExtend 64), (.andi, fun a i => a &&& i.signExtend 64), (.ori, fun a i => a ||| i.signExtend 64),
      (.shli, fun a i => a <<< (i.toNat % 64)), (.shri, fun a i => a >>> (i.toNat % 64)),
      (.lih, fun a i => BitVec.ofNat 64 (i.toNat * 2 ^ 32 + a.toNat % 2 ^ 32))] : List ((CayRef → IFields → Instr) × (W64 → BitVec 32 → W64))) →
    ∀ (s : State) (c : CayRef) (t : Nat) (f : IFields), Issues s c t → Settled s c t [f.d, f.a] → f.rsv = 0 →
      ∃ u, exec (mk c f) s = .next u ∧ ((u.cay c).thr t).pc = ((s.cay c).thr t).pc + 8 ∧
        (∀ x, ((u.cay c).thr t).reg x = if x = f.d ∧ x ≠ 0 then op (((s.cay c).thr t).reg f.a) f.imm else ((s.cay c).thr t).reg x) ∧
        OnlyThread s u c t) ∧
  (∀ (s : State) (c : CayRef) (t : Nat) (f : IFields), Issues s c t → Settled s c t [f.d] → f.rsv = 0 → f.imm.toNat % 256 ≠ 9 →
    ∃ u v, exec (.srd c f) s = .next u ∧ ((u.cay c).thr t).pc = ((s.cay c).thr t).pc + 8 ∧
      (∀ x, ((u.cay c).thr t).reg x = if x = f.d ∧ x ≠ 0 then BitVec.ofNat 64 v else ((s.cay c).thr t).reg x) ∧ OnlyThread s u c t ∧
      (f.imm.toNat % 256 = 0 → v = t) ∧ (f.imm.toNat % 256 = 2 → v = c.cay) ∧ (f.imm.toNat % 256 = 3 → v = c.island) ∧
      (f.imm.toNat % 256 = 4 → v = (s.task ((s.cay c).thr t).task).ctx) ∧ (f.imm.toNat % 256 = 6 → v = (s.task ((s.cay c).thr t).task).step) ∧
      (f.imm.toNat % 256 = 7 → v = (s.task ((s.cay c).thr t).task).seq) ∧ (f.imm.toNat % 256 = 10 → v = s.ptime) ∧
      (f.imm.toNat % 256 = 11 → v = if (s.task ((s.cay c).thr t).task).spec then 1 else 0) ∧ (11 < f.imm.toNat % 256 → v = 0))

/-- R173, R178: a local-store load from a + IMM, with bits [23:22] of a zero and the address aligned to the access and inside the store, writes the bytes there, zero-extended, to d. R173, R178: a local-store store to a + IMM writes the low bytes of d there, low byte first; outside a reserved shadow region (R135). Every other local-store byte is unchanged, and so are the scalar registers and all of HBM. -/
def Obligations.LocalAccess : Prop :=
  (∀ (mk : CayRef → IFields → Instr) (n : Nat), (mk, n) ∈ ([(.ld8, 1), (.ld16, 2), (.ld32, 4), (.ld64, 8)] : List ((CayRef → IFields → Instr) × Nat)) →
    ∀ (s : State) (c : CayRef) (t : Nat) (f : IFields) (a : Nat), Issues s c t → Settled s c t [f.d, f.a] → f.rsv = 0 →
      bits (((s.cay c).thr t).reg f.a).toNat 23 22 = 0 → (a : Int) = (bits (((s.cay c).thr t).reg f.a).toNat 21 0 : Nat) + f.imm.toInt → a % n = 0 → a + n ≤ 2 ^ 22 →
      (s.cay c).pendingRange (s.cay c).issue a n = false →
      ∃ u, exec (mk c f) s = .next u ∧ ((u.cay c).thr t).pc = ((s.cay c).thr t).pc + 8 ∧
        (∀ x, ((u.cay c).thr t).reg x = if x = f.d ∧ x ≠ 0 then BitVec.ofNat 64 (leNat (Memory.readN (s.cay c).ls a n)) else ((s.cay c).thr t).reg x) ∧ OnlyThread s u c t) ∧
  (∀ (mk : CayRef → IFields → Instr) (n : Nat), (mk, n) ∈ ([(.st16, 2), (.st32, 4), (.st64, 8)] : List ((CayRef → IFields → Instr) × Nat)) →
    ∀ (s : State) (c : CayRef) (t : Nat) (f : IFields) (a : Nat), Issues s c t → Settled s c t [f.d, f.a] → f.rsv = 0 →
      bits (((s.cay c).thr t).reg f.a).toNat 23 22 = 0 → (a : Int) = (bits (((s.cay c).thr t).reg f.a).toNat 21 0 : Nat) + f.imm.toInt → a % n = 0 → a + n ≤ 2 ^ 22 →
      (s.shadowOn c.island = true → a + n ≤ 0x3FE000) → (s.cay c).pendingRange (s.cay c).issue a n = false → (s.cay c).pendingCount < 32 →
      ∃ u, exec (mk c f) s = .next u ∧ u = { s with cays := u.cays } ∧ (∀ r, cayKey r ≠ cayKey c → u.cay r = s.cay r) ∧
        ((u.cay c).thr t) = { (s.cay c).thr t with pc := ((s.cay c).thr t).pc + 8 } ∧ (∀ i, i ≠ t → (u.cay c).thr i = (s.cay c).thr i) ∧
        u.cay c = { s.cay c with threads := (u.cay c).threads, ls := (u.cay c).ls } ∧
        (∀ x, (u.cay c).ls.read x = if a ≤ x ∧ x < a + n then BitVec.ofNat 8 ((((s.cay c).thr t).reg f.d).toNat / 256 ^ (x - a)) else (s.cay c).ls.read x))

/-- R143, R178: a device-virtual load of an ordinary task whose page maps HBM and whose line the island cache holds delivers the bytes at once; it stores nothing. R144, R178: a device-virtual store of an ordinary task whose page maps HBM is performed there, low byte first; every other byte of HBM is unchanged. -/
def Obligations.DeviceAccess : Prop :=
  (∀ (mk : CayRef → IFields → Instr) (n : Nat), (mk, n) ∈ ([(.ldg32, 4), (.ldg64, 8)] : List ((CayRef → IFields → Instr) × Nat)) →
    ∀ (s : State) (c : CayRef) (t : Nat) (f : IFields) (k : Nat), Issues s c t → Settled s c t [f.d, f.a] → f.rsv = 0 →
      (dvAddr ((s.cay c).thr t) f) % n = 0 → (s.task ((s.cay c).thr t).task).spec = false →
      s.place ((s.cay c).thr t).task (dvAddr ((s.cay c).thr t) f) false = .hbm k → cayOk c = true → stackOf k < 24 → (s.ic c.island).lines.contains (lineOf k) = true → s.poisoned k n = false →
      ∃ u, exec (mk c f) s = .next u ∧ ((u.cay c).thr t).pc = ((s.cay c).thr t).pc + 8 ∧
        (∀ x, ((u.cay c).thr t).reg x = if x = f.d ∧ x ≠ 0 then BitVec.ofNat 64 (leNat (s.hbmBytes k n)) else ((s.cay c).thr t).reg x) ∧
        (∀ a, u.hbm.read a = s.hbm.read a) ∧ u.tasks = s.tasks ∧ (∀ i, i ≠ t → (u.cay c).thr i = (s.cay c).thr i) ∧ (u.cay c).ls = (s.cay c).ls) ∧
  (∀ (mk : CayRef → IFields → Instr) (n : Nat), (mk, n) ∈ ([(.stg32, 4), (.stg64, 8)] : List ((CayRef → IFields → Instr) × Nat)) →
    ∀ (s : State) (c : CayRef) (t : Nat) (f : IFields) (k : Nat), Issues s c t → Settled s c t [f.d, f.a] → f.rsv = 0 →
      (dvAddr ((s.cay c).thr t) f) % n = 0 → (s.task ((s.cay c).thr t).task).spec = false →
      s.place ((s.cay c).thr t).task (dvAddr ((s.cay c).thr t) f) true = .hbm k →
      ∃ u, exec (mk c f) s = .next u ∧ ((u.cay c).thr t) = { (s.cay c).thr t with pc := ((s.cay c).thr t).pc + 8 } ∧
        (∀ a, u.hbm.read a = if k ≤ a ∧ a < k + n then BitVec.ofNat 8 ((((s.cay c).thr t).reg f.d).toNat / 256 ^ (a - k)) else s.hbm.read a) ∧
        u.tasks = s.tasks ∧ (∀ i, i ≠ t → (u.cay c).thr i = (s.cay c).thr i) ∧ (u.cay c).ls = (s.cay c).ls)

/-- R178: a branch whose OFFSET is a multiple of 8 adds it to the pc if the registers compare as named, the target lying in the kernel's code, and otherwise falls through; it changes nothing else. R178: JAL writes pc + 8 to d and jumps by IMM; JR jumps to register a. Nothing else changes. -/
def Obligations.ControlFlow : Prop :=
  (∀ (mk : CayRef → BFields → Instr) (p : W64 → W64 → Prop),
    (mk, p) ∈ ([(.beq, fun a b => a = b), (.bne, fun a b => a ≠ b), (.blt, fun a b => a.toInt < b.toInt), (.bge, fun a b => b.toInt ≤ a.toInt),
      (.bltu, fun a b => a.toNat < b.toNat), (.bgeu, fun a b => b.toNat ≤ a.toNat)] : List ((CayRef → BFields → Instr) × (W64 → W64 → Prop))) →
    ∀ (s : State) (c : CayRef) (t : Nat) (f : BFields), Issues s c t → Settled s c t [f.a, f.b] → f.rsv = 0 → f.off.toNat % 8 = 0 → ((s.cay c).thr t).pc % 8 = 0 →
      (p (((s.cay c).thr t).reg f.a) (((s.cay c).thr t).reg f.b) → 0 ≤ (((s.cay c).thr t).pc : Int) + f.off.toInt ∧
        (((s.cay c).thr t).pc : Int) + f.off.toInt < ((s.cay c).taskInfo ((s.cay c).thr t).task).codeLen) →
      ∃ u, exec (mk c f) s = .next u ∧
        (p (((s.cay c).thr t).reg f.a) (((s.cay c).thr t).reg f.b) → (((u.cay c).thr t).pc : Int) = ((s.cay c).thr t).pc + f.off.toInt) ∧
        (¬ p (((s.cay c).thr t).reg f.a) (((s.cay c).thr t).reg f.b) → ((u.cay c).thr t).pc = ((s.cay c).thr t).pc + 8) ∧
        (∀ x, ((u.cay c).thr t).reg x = ((s.cay c).thr t).reg x) ∧ OnlyThread s u c t) ∧
  ((∀ (s : State) (c : CayRef) (t : Nat) (f : IFields), Issues s c t → Settled s c t [f.d] → f.rsv = 0 → f.imm.toNat % 8 = 0 → ((s.cay c).thr t).pc % 8 = 0 →
    0 ≤ (((s.cay c).thr t).pc : Int) + f.imm.toInt → (((s.cay c).thr t).pc : Int) + f.imm.toInt < ((s.cay c).taskInfo ((s.cay c).thr t).task).codeLen →
    ∃ u, exec (.jal c f) s = .next u ∧ (((u.cay c).thr t).pc : Int) = ((s.cay c).thr t).pc + f.imm.toInt ∧
      (∀ x, ((u.cay c).thr t).reg x = if x = f.d ∧ x ≠ 0 then BitVec.ofNat 64 (((s.cay c).thr t).pc + 8) else ((s.cay c).thr t).reg x) ∧ OnlyThread s u c t) ∧
  (∀ (s : State) (c : CayRef) (t : Nat) (f : SFields), Issues s c t → Settled s c t [f.a] → f.rsv = 0 → (((s.cay c).thr t).reg f.a).toNat % 8 = 0 →
    (((s.cay c).thr t).reg f.a).toNat < ((s.cay c).taskInfo ((s.cay c).thr t).task).codeLen →
    ∃ u, exec (.jr c f) s = .next u ∧ ((u.cay c).thr t).pc = (((s.cay c).thr t).reg f.a).toNat ∧
      (∀ x, ((u.cay c).thr t).reg x = ((s.cay c).thr t).reg x) ∧ OnlyThread s u c t))

/-! ### Vector instructions -/

/-- R192: an arithmetic vector instruction computes each enabled lane exactly, rounds once to DFMT (R74) and writes it; a disabled lane keeps its bytes (R191). With no lane invalid and none saturated, nothing
else changes but the issuing thread's pc and the cay's issue count. R192: with SFMT equal to DFMT, VMOV copies enabled lanes bit by bit and VSEL chooses, in all 64 lanes, between a and b. Nothing else changes but the pc. -/
def Obligations.VectorElementwise : Prop :=
  (∀ (mk : CayRef → VFields → Instr) (n : Nat) (op : Val → Val → Val → Nat → Val),
    (mk, n, op) ∈ ([(.vadd, 2, fun a b _ _ => Val.add a b), (.vsub, 2, fun a b _ _ => Val.sub a b), (.vmul, 2, fun a b _ _ => Val.mul a b),
      (.vfma, 3, fun a b c _ => Val.add (Val.mul a b) c),
      (.vmin, 2, fun a b _ _ => if a.isNan || b.isNan then .nan else if Val.lt b a then b else a),
      (.vmax, 2, fun a b _ _ => if a.isNan || b.isNan then .nan else if Val.lt a b then b else a),
      (.vabs, 1, fun a _ _ _ => a.abs), (.vneg, 1, fun a _ _ _ => a.negate),
      (.vscl, 1, fun a _ _ k => a.scale (max (-1024) (min 1024 (sgn 64 k))))] : List ((CayRef → VFields → Instr) × Nat × (Val → Val → Val → Nat → Val))) →
    ∀ (s : State) (c : CayRef) (t : Nat) (f : VFields) (pa pb pc pd : Nat), Issues s c t → Settled s c t [f.d, f.a, f.b, f.c, f.k] → Vacant s c →
      f.rsv = 0 → f.rmode = 0 → f.blk = 0 → arithSrc f.sfmt.toNat = true → arithDst f.dfmt.toNat = true →
      s.lsOperand c.island (((s.cay c).thr t).reg f.a).toNat (vecBytes f.sfmt.toNat) (vecBytes f.sfmt.toNat) false = some pa →
      (2 ≤ n → s.lsOperand c.island (((s.cay c).thr t).reg f.b).toNat (vecBytes f.sfmt.toNat) (vecBytes f.sfmt.toNat) false = some pb) →
      (n = 3 → s.lsOperand c.island (((s.cay c).thr t).reg f.c).toNat (vecBytes f.dfmt.toNat) (vecBytes f.dfmt.toNat) false = some pc) →
      s.lsOperand c.island (((s.cay c).thr t).reg f.d).toNat (vecBytes f.dfmt.toNat) (vecBytes f.dfmt.toNat) true = some pd →
      ∀ (on : List Bool) (lane : Nat → Val), on = (List.range 64).map (laneOn f.k (((s.cay c).thr t).reg f.k).toNat) →
      (∀ l, lane l = op (decodeElem f.sfmt.toNat (((s.cay c).getVec f.sfmt.toNat pa).getD l 0)) (decodeElem f.sfmt.toNat (((s.cay c).getVec f.sfmt.toNat pb).getD l 0))
        (decodeElem f.dfmt.toNat (((s.cay c).getVec f.dfmt.toNat pc).getD l 0)) (((s.cay c).thr t).reg f.b).toNat) →
      ∃ u, exec (mk c f) s = .next u ∧
        (u.cay c).ls = ((s.cay c).putVec f.dfmt.toNat pd on ((List.range 64).map (fun l => (encodeElem f.dfmt.toNat .rne (lane l)).code))).ls ∧
        (∀ r, cayKey r ≠ cayKey c → (u.cay r).ls = (s.cay r).ls) ∧ (∀ a, u.hbm.read a = s.hbm.read a) ∧
        ((∀ l, l < 64 → on.getD l false = true → (lane l).isNan = false ∧ (encodeElem f.dfmt.toNat .rne (lane l)).sat = false) →
          u = { s with cays := u.cays } ∧ (∀ r, cayKey r ≠ cayKey c → u.cay r = s.cay r) ∧ (u.cay c).arrs = (s.cay c).arrs ∧
          ((u.cay c).thr t).pc = ((s.cay c).thr t).pc + 8 ∧ (∀ i, ((u.cay c).thr i).regs = ((s.cay c).thr i).regs))) ∧
  (∀ (sel : Bool) (s : State) (c : CayRef) (t : Nat) (f : VFields) (pa pb pd : Nat), Issues s c t → Settled s c t [f.d, f.a, f.b, f.c, f.k] → Vacant s c →
    f.rsv = 0 → f.rmode = 0 → f.blk = 0 → f.sfmt = f.dfmt → (f.dfmt = 5 ∨ f.dfmt = 6 ∨ f.dfmt = 9) →
    s.lsOperand c.island (((s.cay c).thr t).reg f.a).toNat (vecBytes f.dfmt.toNat) (vecBytes f.dfmt.toNat) false = some pa →
    (sel = true → s.lsOperand c.island (((s.cay c).thr t).reg f.b).toNat (vecBytes f.dfmt.toNat) (vecBytes f.dfmt.toNat) false = some pb) →
    s.lsOperand c.island (((s.cay c).thr t).reg f.d).toNat (vecBytes f.dfmt.toNat) (vecBytes f.dfmt.toNat) true = some pd →
    ∀ (on : List Bool), on = (List.range 64).map (laneOn f.k (((s.cay c).thr t).reg f.k).toNat) →
    ∃ u, exec (if sel then .vsel c f else .vmov c f) s = .next u ∧ u = { s with cays := u.cays } ∧ (∀ r, cayKey r ≠ cayKey c → u.cay r = s.cay r) ∧
      (u.cay c).arrs = (s.cay c).arrs ∧ ((u.cay c).thr t).pc = ((s.cay c).thr t).pc + 8 ∧ (∀ i, ((u.cay c).thr i).regs = ((s.cay c).thr i).regs) ∧
      (sel = true → (u.cay c).ls = ((s.cay c).putVec f.dfmt.toNat pd (List.replicate 64 true) ((List.range 64).map (fun l =>
        if on.getD l false then ((s.cay c).getVec f.dfmt.toNat pa).getD l 0 else ((s.cay c).getVec f.dfmt.toNat pb).getD l 0))).ls) ∧
      (sel = false → (u.cay c).ls = ((s.cay c).putVec f.dfmt.toNat pd on ((List.range 64).map (fun l => ((s.cay c).getVec f.dfmt.toNat pa).getD l 0))).ls))

/-- R192: VCMPLT and VCMPEQ write a 64-bit lane mask to d; VRMAX writes the maximum of the enabled lanes and c[31:0] to d[31:0]. Stated where no value they read is NaN (R197 says what happens otherwise). R195, R196, R198: the reduction by sums, the approximate functions and the plain conversions, with the destinations they write. The offset of an approximate result within its bound is the model's free value (log entry 12). -/
def Obligations.VectorReductions : Prop :=
  ((∀ (lt : Bool) (s : State) (c : CayRef) (t : Nat) (f : VFields) (pa pb : Nat), Issues s c t → Settled s c t [f.d, f.a, f.b, f.c, f.k] → Vacant s c →
    f.rsv = 0 → f.rmode = 0 → f.blk = 0 → arithSrc f.sfmt.toNat = true → arithDst f.dfmt.toNat = true →
    s.lsOperand c.island (((s.cay c).thr t).reg f.a).toNat (vecBytes f.sfmt.toNat) (vecBytes f.sfmt.toNat) false = some pa →
    s.lsOperand c.island (((s.cay c).thr t).reg f.b).toNat (vecBytes f.sfmt.toNat) (vecBytes f.sfmt.toNat) false = some pb →
    ∀ (on : Nat → Bool) (x y : Nat → Val), (∀ l, on l = laneOn f.k (((s.cay c).thr t).reg f.k).toNat l) →
    (∀ l, x l = decodeElem f.sfmt.toNat (((s.cay c).getVec f.sfmt.toNat pa).getD l 0)) → (∀ l, y l = decodeElem f.sfmt.toNat (((s.cay c).getVec f.sfmt.toNat pb).getD l 0)) →
    (∀ l, l < 64 → on l = true → (x l).isNan = false ∧ (y l).isNan = false) →
    ∃ u, exec (if lt then .vcmplt c f else .vcmpeq c f) s = .next u ∧ u = { s with cays := u.cays } ∧ (∀ r, cayKey r ≠ cayKey c → u.cay r = s.cay r) ∧
      (u.cay c).ls = (s.cay c).ls ∧ (u.cay c).arrs = (s.cay c).arrs ∧ ((u.cay c).thr t).pc = ((s.cay c).thr t).pc + 8 ∧
      (∀ r, r ≠ f.d ∨ r = 0 → ((u.cay c).thr t).reg r = ((s.cay c).thr t).reg r) ∧
      (f.d ≠ 0 → ∀ l, l < 64 → (((u.cay c).thr t).reg f.d).getLsbD l = (on l && (if lt then Val.lt (x l) (y l) else Val.eqv (x l) (y l))))) ∧
  (∀ (s : State) (c : CayRef) (t : Nat) (f : VFields) (pa : Nat), Issues s c t → Settled s c t [f.d, f.a, f.b, f.c, f.k] → Vacant s c →
    f.rsv = 0 → f.rmode = 0 → f.blk = 0 → arithSrc f.sfmt.toNat = true → arithDst f.dfmt.toNat = true →
    s.lsOperand c.island (((s.cay c).thr t).reg f.a).toNat (vecBytes f.sfmt.toNat) (vecBytes f.sfmt.toNat) false = some pa →
    ∀ (on : Nat → Bool) (x : Nat → Val) (m : Val), (∀ l, on l = laneOn f.k (((s.cay c).thr t).reg f.k).toNat l) →
    (∀ l, x l = decodeElem f.sfmt.toNat (((s.cay c).getVec f.sfmt.toNat pa).getD l 0)) →
    (∀ l, l < 64 → on l = true → (x l).isNan = false) → (a32.decode (bits (((s.cay c).thr t).reg f.c).toNat 31 0)).isNan = false →
    m = (List.range 64).foldl (fun b l => if on l && Val.lt b (x l) then x l else b) (a32.decode (bits (((s.cay c).thr t).reg f.c).toNat 31 0)) →
    ∃ u, exec (.vrmax c f) s = .next u ∧ u = { s with cays := u.cays } ∧ (∀ r, cayKey r ≠ cayKey c → u.cay r = s.cay r) ∧
      (u.cay c).ls = (s.cay c).ls ∧ (u.cay c).arrs = (s.cay c).arrs ∧ ((u.cay c).thr t).pc = ((s.cay c).thr t).pc + 8 ∧
      (∀ r, ((u.cay c).thr t).reg r = if r = f.d ∧ r ≠ 0 then BitVec.ofNat 64 (ins (((s.cay c).thr t).reg f.d).toNat 31 0 (roundA32 m).code) else ((s.cay c).thr t).reg r))) ∧
  ((∀ (s : State) (c : CayRef) (t : Nat) (f : VFields) (pa : Nat), Issues s c t → Settled s c t [f.d, f.a, f.b, f.c, f.k] → Vacant s c →
    f.rsv = 0 → f.rmode = 0 → f.blk = 0 → arithSrc f.sfmt.toNat = true → arithDst f.dfmt.toNat = true →
    s.lsOperand c.island (((s.cay c).thr t).reg f.a).toNat (vecBytes f.sfmt.toNat) (vecBytes f.sfmt.toNat) false = some pa →
    ∀ (vs : List Val) (cc : Nat), cc = bits (((s.cay c).thr t).reg f.c).toNat 31 0 →
    vs = (List.range 64).map (fun l => if laneOn f.k (((s.cay c).thr t).reg f.k).toNat l then decodeElem f.sfmt.toNat (((s.cay c).getVec f.sfmt.toNat pa).getD l 0) else .zero) →
    (a32.decode cc).isNan = false → (vrsum ⟨cc, false⟩ 0 (chunks 16 64 vs)).2 = [] → (vrsum ⟨cc, false⟩ 0 (chunks 16 64 vs)).1.sat = false →
    ∃ u, exec (.vrsum c f) s = .next u ∧ u = { s with cays := u.cays } ∧ (∀ r, cayKey r ≠ cayKey c → u.cay r = s.cay r) ∧ (u.cay c).ls = (s.cay c).ls ∧
      (u.cay c).arrs = (s.cay c).arrs ∧ ((u.cay c).thr t).pc = ((s.cay c).thr t).pc + 8 ∧
      (∀ r, ((u.cay c).thr t).reg r = if r = f.d ∧ r ≠ 0 then BitVec.ofNat 64 (ins (((s.cay c).thr t).reg f.d).toNat 31 0 (vrsum ⟨cc, false⟩ 0 (chunks 16 64 vs)).1.code)
        else ((s.cay c).thr t).reg r)) ∧
  (∀ (mk : CayRef → VFields → Instr) (g : AFun), (mk, g) ∈ ([(.vexp2, .exp2), (.vlog2, .log2), (.vrcp, .rcp), (.vrsqrt, .rsqrt), (.vsqrt, .sqrt)] : List ((CayRef → VFields → Instr) × AFun)) →
    ∀ (s : State) (c : CayRef) (t : Nat) (f : VFields) (pa pd : Nat) (ff : FFmt), Issues s c t → Settled s c t [f.d, f.a, f.b, f.c, f.k] → Vacant s c →
    f.rsv = 0 → f.rmode = 0 → f.blk = 0 → arithSrc f.sfmt.toNat = true → arithDst f.dfmt.toNat = true → fmtFloat f.dfmt.toNat = some ff →
    s.lsOperand c.island (((s.cay c).thr t).reg f.a).toNat (vecBytes f.sfmt.toNat) (vecBytes f.sfmt.toNat) false = some pa →
    s.lsOperand c.island (((s.cay c).thr t).reg f.d).toNat (vecBytes f.dfmt.toNat) (vecBytes f.dfmt.toNat) true = some pd →
    ∃ u, exec (mk c f) s = .next u ∧
      (u.cay c).ls = ((s.cay c).putVec f.dfmt.toNat pd ((List.range 64).map (laneOn f.k (((s.cay c).thr t).reg f.k).toNat))
        (((s.cay c).getVec f.sfmt.toNat pa).map (fun x => (approx g f.dfmt.toNat ff (decodeElem f.sfmt.toNat x) (x + f.sfmt.toNat * 2 ^ 32)).1.code))).ls ∧
      (∀ r, cayKey r ≠ cayKey c → (u.cay r).ls = (s.cay r).ls) ∧ (∀ a, u.hbm.read a = s.hbm.read a)) ∧
  (∀ (s : State) (c : CayRef) (t : Nat) (f : VFields) (pa pd : Nat), Issues s c t → Settled s c t [f.d, f.a, f.b, f.c, f.k] → Vacant s c →
    f.rsv = 0 → f.rmode.toNat < 2 → f.blk = 0 → arithSrc f.sfmt.toNat = true → arithSrc f.dfmt.toNat = true →
    s.lsOperand c.island (((s.cay c).thr t).reg f.a).toNat (vecBytes f.sfmt.toNat) (vecBytes f.sfmt.toNat) false = some pa →
    s.lsOperand c.island (((s.cay c).thr t).reg f.d).toNat (vecBytes f.dfmt.toNat) (vecBytes f.dfmt.toNat) true = some pd →
    ∃ u, exec (.vcvt c f) s = .next u ∧
      (u.cay c).ls = ((s.cay c).putVec f.dfmt.toNat pd ((List.range 64).map (laneOn f.k (((s.cay c).thr t).reg f.k).toNat))
        ((List.range 64).map (fun l => (encodeElem f.dfmt.toNat (if f.rmode = 0 then .rne else .rtz)
          (if laneOn f.k (((s.cay c).thr t).reg f.k).toNat l then decodeElem f.sfmt.toNat (((s.cay c).getVec f.sfmt.toNat pa).getD l 0) else .zero)).code))).ls ∧
      (∀ r, cayKey r ≠ cayKey c → (u.cay r).ls = (s.cay r).ls) ∧ (∀ a, u.hbm.read a = s.hbm.read a)))

/-- R192: VLDG gathers the elements at b plus index times size; VSTG scatters them. Stated for elements in HBM: for VLDG where every line is held in the island cache, for VSTG for one enabled lane, whose
address is computed as the meaning computes it. -/
def Obligations.GatherScatter : Prop :=
  (∀ (s : State) (c : CayRef) (t : Nat) (f : VFields) (pl pd : Nat) (k : Nat), Issues s c t → Settled s c t [f.d, f.a, f.b, f.k] → Vacant s c → cayOk c = true →
    f.rsv = 0 → f.dfmt.toNat ≤ 10 → fmtBits f.dfmt.toNat ≠ 4 → (s.task ((s.cay c).thr t).task).spec = false →
    s.lsOperand c.island (((s.cay c).thr t).reg f.a).toNat 256 256 false = some pl →
    s.lsOperand c.island (((s.cay c).thr t).reg f.d).toNat (vecBytes f.dfmt.toNat) (vecBytes f.dfmt.toNat) true = some pd →
    ∀ (l dva : Nat), gatherAddrs (s.cay c) f (vecArgs ((s.cay c).thr t) f) pl = [(l, dva)] → dva % (fmtBits f.dfmt.toNat / 8) = 0 →
    s.place ((s.cay c).thr t).task dva false = .hbm k → stackOf k < 24 → (s.ic c.island).lines.contains (lineOf k) = true → s.poisoned k (fmtBits f.dfmt.toNat / 8) = false →
    ∃ u, exec (.vldg c f) s = .next u ∧ (∀ a, u.hbm.read a = s.hbm.read a) ∧ (∀ r, cayKey r ≠ cayKey c → u.cay r = s.cay r) ∧
      ((u.cay c).thr t).pc = ((s.cay c).thr t).pc + 8 ∧ (∀ i, ((u.cay c).thr i).regs = ((s.cay c).thr i).regs) ∧
      (∀ a, (u.cay c).ls.read a = if pd + l * (fmtBits f.dfmt.toNat / 8) ≤ a ∧ a < pd + (l + 1) * (fmtBits f.dfmt.toNat / 8) then s.hbm.read (k + (a - (pd + l * (fmtBits f.dfmt.toNat / 8))))
        else (s.cay c).ls.read a)) ∧
  (∀ (s : State) (c : CayRef) (t : Nat) (f : VFields) (pl pa : Nat) (k : Nat), Issues s c t → Settled s c t [f.d, f.a, f.b, f.c, f.k] → Vacant s c →
    f.rsv = 0 → f.dfmt.toNat ≤ 10 → fmtBits f.dfmt.toNat ≠ 4 → (s.task ((s.cay c).thr t).task).spec = false →
    (s.task ((s.cay c).thr t).task).st ≠ .ended → (s.task ((s.cay c).thr t).task).status = 0 →
    s.lsOperand c.island (((s.cay c).thr t).reg f.d).toNat 256 256 false = some pl →
    s.lsOperand c.island (((s.cay c).thr t).reg f.a).toNat (vecBytes f.dfmt.toNat) (vecBytes f.dfmt.toNat) false = some pa →
    ∀ (l dva : Nat), gatherAddrs (s.cay c) f (vecArgs ((s.cay c).thr t) f) pl = [(l, dva)] → dva % (fmtBits f.dfmt.toNat / 8) = 0 →
    s.place ((s.cay c).thr t).task dva true = .hbm k →
    ∃ u, exec (.vstg c f) s = .next u ∧ (∀ r, cayKey r ≠ cayKey c → u.cay r = s.cay r) ∧ (u.cay c).ls = (s.cay c).ls ∧
      ((u.cay c).thr t).pc = ((s.cay c).thr t).pc + 8 ∧ (∀ i, ((u.cay c).thr i).regs = ((s.cay c).thr i).regs) ∧
      (∀ a, u.hbm.read a = if k ≤ a ∧ a < k + fmtBits f.dfmt.toNat / 8 then (s.cay c).ls.read (pa + l * (fmtBits f.dfmt.toNat / 8) + (a - k)) else s.hbm.read a))

/-! ### Threads, matrix arrays and copies -/

/-- R171: an instruction with a reserved field that is not zero is illegal: its task ends with status "illegal instruction" and DETAIL the cay. Stated for the six formats whose reserved bits are one field. -/
def Obligations.ReservedFieldIllegal : Prop :=
  ∀ (i : Instr) (c : CayRef) (rsvZero : Bool),
    (∃ f : SFields, rsvZero = (f.rsv == 0) ∧ i ∈ [.add c f, .sub c f, .and c f, .or c f, .xor c f, .shl c f, .shr c f, .sar c f, .mul c f, .slt c f, .sltu c f, .jr c f, .tyld c f, .tbar c f, .tend c f, .tdsc c f]) ∨
    (∃ f : IFields, rsvZero = (f.rsv == 0) ∧ i ∈ [.addi c f, .andi c f, .ori c f, .shli c f, .shri c f, .lih c f, .srd c f, .jal c f, .ld8 c f, .ld16 c f, .ld32 c f, .ld64 c f, .st16 c f, .st32 c f, .st64 c f,
      .ldg32 c f, .ldg64 c f, .stg32 c f, .stg64 c f, .nwait c f, .tfail c f]) ∨
    (∃ f : BFields, rsvZero = (f.rsv == 0) ∧ i ∈ [.beq c f, .bne c f, .blt c f, .bge c f, .bltu c f, .bgeu c f]) ∨
    (∃ f : VFields, rsvZero = (f.rsv == 0) ∧ i ∈ [.vadd c f, .vsub c f, .vmul c f, .vfma c f, .vmin c f, .vmax c f, .vabs c f, .vneg c f, .vscl c f, .vcmplt c f, .vcmpeq c f, .vsel c f, .vmov c f, .vexp2 c f, .vlog2 c f,
      .vrcp c f, .vrsqrt c f, .vsqrt c f, .vcvt c f, .vrsum c f, .vrmax c f, .vldg c f, .vstg c f]) ∨
    (∃ f : McfgFields, rsvZero = (f.rsv == 0) ∧ i = .mcfg c f) ∨ (∃ f : MldsFields, rsvZero = (f.rsv == 0) ∧ i = .mlds c f) ∨
    (∃ (f : MissFields) (gap : Nat), rsvZero = (f.rsv == 0) ∧ i = .miss c f gap) ∨ (∃ f : MseqFields, rsvZero = (f.rsv == 0) ∧ i = .mseq c f) ∨
    (∃ f : MfinFields, rsvZero = (f.rsv == 0) ∧ i = .mfin c f) ∨ (∃ f : MdrnFields, rsvZero = (f.rsv == 0) ∧ i = .mdrn c f) →
    rsvZero = false → ∀ (s : State) (t : Nat), Issues s c t → Unfinished s ((s.cay c).thr t).task →
    ∃ u, exec i s = .next u ∧ EndedWith s u ((s.cay c).thr t).task St.illegal c.cay

/-- R128, R178: TYLD, TBAR and NWAIT, each with the thread that goes on. R178: TEND ends its thread, TDSC asks for discard and ends its thread (illegal in a task that is not speculative), TFAIL ends its task with its code. -/
def Obligations.ThreadsWaitAndEnd : Prop :=
  ((∀ (s : State) (c : CayRef) (t w : Nat) (f : SFields), Issues s c t → f.rsv = 0 → w < 8 →
    (w = t ∨ ((s.cay c).thr w).bound = true ∧ ((s.cay c).thr w).st = .ready) →
    (∀ i, i < (w + 7 - t) % 8 → ¬ (((s.cay c).thr ((t + 1 + i) % 8)).bound = true ∧ ((s.cay c).thr ((t + 1 + i) % 8)).st = .ready)) →
    ∃ u, exec (.tyld c f) s = .next u ∧ OnlyCay s u c ∧ u.cay c = { s.cay c with threads := (u.cay c).threads, lastRun := w } ∧
      (u.cay c).thr t = { (s.cay c).thr t with pc := ((s.cay c).thr t).pc + 8, st := if w = t then .running else .ready } ∧
      (w ≠ t → (u.cay c).thr w = { (s.cay c).thr w with st := .running }) ∧ (∀ i, i ≠ t → i ≠ w → (u.cay c).thr i = (s.cay c).thr i)) ∧
  (∀ (s : State) (c : CayRef) (t : Nat) (f : SFields), Issues s c t → f.rsv = 0 →
    ∃ u, exec (.tbar c f) s = .next u ∧ OnlyCay s u c ∧ u.cay c = { s.cay c with threads := (u.cay c).threads, lastRun := (u.cay c).lastRun } ∧
      ((u.cay c).thr t).pc = ((s.cay c).thr t).pc + 8 ∧ (∀ i, ((u.cay c).thr i).regs = ((s.cay c).thr i).regs) ∧ (∀ i, i ≠ t → ((u.cay c).thr i).pc = ((s.cay c).thr i).pc) ∧
      ((∃ i, i < 8 ∧ i ≠ t ∧ ((s.cay c).thr i).bound = true ∧ ((s.cay c).thr i).task = ((s.cay c).thr t).task ∧ ((s.cay c).thr i).wait ≠ .bar) →
        ((u.cay c).thr t).st = .blocked ∧ ((u.cay c).thr t).wait = .bar) ∧
      ((∀ i, i < 8 → i ≠ t → ((s.cay c).thr i).bound = true → ((s.cay c).thr i).task = ((s.cay c).thr t).task → ((s.cay c).thr i).wait = .bar ∧ ((s.cay c).thr i).st = .blocked) →
        ∀ i, i < 8 → ((s.cay c).thr i).bound = true → ((s.cay c).thr i).task = ((s.cay c).thr t).task → ((u.cay c).thr i).wait = .none ∧ ((u.cay c).thr i).st ≠ .blocked)) ∧
  (∀ (s : State) (c : CayRef) (t : Nat) (f : IFields), Issues s c t → Settled s c t [f.a] → f.rsv = 0 →
    (((s.cay c).thr t).reg f.a).toNat ≤ s.notif c.island (s.task ((s.cay c).thr t).task).ctx (f.imm.toNat % 16) →
    ∃ u, exec (.nwait c f) s = .next u ∧ ((u.cay c).thr t).pc = ((s.cay c).thr t).pc + 8 ∧ (∀ x, ((u.cay c).thr t).reg x = ((s.cay c).thr t).reg x) ∧ OnlyThread s u c t) ∧
  (∀ (s : State) (c : CayRef) (t : Nat) (f : IFields), Issues s c t → Settled s c t [f.a] → f.rsv = 0 →
    s.notif c.island (s.task ((s.cay c).thr t).task).ctx (f.imm.toNat % 16) < (((s.cay c).thr t).reg f.a).toNat →
    ∃ u, exec (.nwait c f) s = .next u ∧ OnlyCay s u c ∧ ((u.cay c).thr t).pc = ((s.cay c).thr t).pc + 8 ∧ ((u.cay c).thr t).st = .blocked ∧
      ((u.cay c).thr t).wait = .notif (f.imm.toNat % 16) (((s.cay c).thr t).reg f.a).toNat ∧ (∀ i, ((u.cay c).thr i).regs = ((s.cay c).thr i).regs) ∧ (u.cay c).ls = (s.cay c).ls)) ∧
  ((∀ (s : State) (c : CayRef) (t : Nat) (f : SFields), Issues s c t → f.rsv = 0 →
    ∃ u, exec (.tend c f) s = .next u ∧ OnlyCay s u c ∧ u.cay c = { s.cay c with threads := (u.cay c).threads, lastRun := (u.cay c).lastRun } ∧
      ((u.cay c).thr t).bound = false ∧ (∀ i, i ≠ t → ((u.cay c).thr i).regs = ((s.cay c).thr i).regs ∧ ((u.cay c).thr i).pc = ((s.cay c).thr i).pc ∧
        ((u.cay c).thr i).bound = ((s.cay c).thr i).bound)) ∧
  (∀ (s : State) (c : CayRef) (t : Nat) (f : SFields), Issues s c t → f.rsv = 0 → (s.task ((s.cay c).thr t).task).spec = true →
    ∃ u, exec (.tdsc c f) s = .next u ∧ u = { s with cays := u.cays, tasks := u.tasks } ∧ ((u.cay c).thr t).bound = false ∧
      u.task ((s.cay c).thr t).task = { s.task ((s.cay c).thr t).task with discard := true } ∧ (∀ k, k ≠ ((s.cay c).thr t).task → u.task k = s.task k) ∧
      (∀ i, i ≠ t → ((u.cay c).thr i).regs = ((s.cay c).thr i).regs) ∧ (u.cay c).ls = (s.cay c).ls ∧ (∀ r, cayKey r ≠ cayKey c → u.cay r = s.cay r)) ∧
  (∀ (s : State) (c : CayRef) (t : Nat) (f : SFields), Issues s c t → f.rsv = 0 → (s.task ((s.cay c).thr t).task).spec = false → Unfinished s ((s.cay c).thr t).task →
    ∃ u, exec (.tdsc c f) s = .next u ∧ EndedWith s u ((s.cay c).thr t).task St.illegal c.cay) ∧
  (∀ (s : State) (c : CayRef) (t : Nat) (f : IFields), Issues s c t → f.rsv = 0 → Unfinished s ((s.cay c).thr t).task →
    ∃ u, exec (.tfail c f) s = .next u ∧ EndedWith s u ((s.cay c).thr t).task St.kernelFault (f.imm.toNat % 2 ^ 16)))

/-- R136 to R141, R180: the copy unit's commands, each where it goes through. -/
def Obligations.CopiesAndFences : Prop :=
  (∀ (s : State) (c : CayRef) (t : Nat) (f : CFields) (a : Nat) (d : CopyDesc), Issues s c t → Settled s c t [f.a] → f.rsvHi = 0 → f.rsvMid = 0 → f.rsvLo = 0 →
    s.lsOperand c.island (((s.cay c).thr t).reg f.a).toNat 32 32 false = some a → (s.cay c).pendingRange (s.cay c).issue a 32 = false →
    copyDesc ((s.cay c).lsRead a 32) = (d, true) → s.copyCheck c ((s.cay c).thr t).task d true = 0 → (s.cay c).copies.length < 64 →
    ∃ u, exec (.cpy c f) s = .next u ∧ (∀ r, cayKey r ≠ cayKey c → u.cay r = s.cay r) ∧ u.hbm = s.hbm ∧ u.tasks = s.tasks ∧
      u.cay c = { (s.cay c).setThr t ((s.cay c).thr t).next with issue := (s.cay c).issue + 1, copies := (s.cay c).copies ++ [⟨(s.cay c).issue, t, ((s.cay c).thr t).task, d⟩] }) ∧
  (∀ (s : State) (c : CayRef) (n : Nat) (j : CopyJob) (bs : List (BitVec 8)), (s.cay c).copyJob n = some j → j.desc.dst = 0 → s.copyMay c j = true →
    (∀ p ∈ s.srcPieces c j, ∃ k, p.place = .hbm k ∧ s.poisoned k p.len = false) → (j.desc.src = 0 → j.desc.kind ≠ 3 → (j.desc.extents (s.cay c)).1.2 ≤ lsTop) →
    s.copyBytes c j = some bs →
    ∃ u, exec (.copyComplete c n) s = .next u ∧ (u.cay c).ls = ((s.cay c).rowsIn j.desc (List.range j.desc.rows) bs).ls ∧
      (u.cay c).copies = (s.cay c).copies.filter (fun x => x.num != j.num) ∧ (∀ a, u.hbm.read a = s.hbm.read a) ∧ (∀ r, cayKey r ≠ cayKey c → u.cay r = s.cay r) ∧
      (∀ i, ((u.cay c).thr i).regs = ((s.cay c).thr i).regs) ∧ u.tasks = s.tasks) ∧
  (∀ (s : State) (c : CayRef) (n : Nat) (j : CopyJob) (bs : List (BitVec 8)) (p : CopyPiece) (k : Nat), (s.cay c).copyJob n = some j → j.desc.dst = 1 → j.desc.src = 0 → s.copyMay c j = true →
    s.dstPieces j = [p] → p.place = .hbm k → (j.desc.kind ≠ 3 → (j.desc.extents (s.cay c)).1.2 ≤ lsTop) → (s.task j.task).spec = false → s.copyBytes c j = some bs → bs.length = p.len →
    ∃ u, exec (.copyComplete c n) s = .next u ∧ (∀ a, u.hbm.read a = if k ≤ a ∧ a < k + p.len then bs.getD (a - k) 0 else s.hbm.read a) ∧
      (u.cay c).ls = (s.cay c).ls ∧ (u.cay c).copies = (s.cay c).copies.filter (fun x => x.num != j.num) ∧ u.tasks = s.tasks) ∧
  (∀ (s : State) (c : CayRef) (t : Nat) (f : CFields), Issues s c t → f.rsvHi = 0 → f.rsvMid = 0 → f.rsvLo = 0 → f.engine.toNat ≤ 5 →
    (∀ i, i < 16 → bit f.mask.toNat i = true → bit (s.task ((s.cay c).thr t).task).fences i = true) →
    ∃ u, exec (.cfen c f) s = .next u ∧ OnlyCay s u c ∧ (∀ i, ((u.cay c).thr i).regs = ((s.cay c).thr i).regs) ∧ (u.cay c).ls = (s.cay c).ls ∧ (u.cay c).copies = (s.cay c).copies ∧
      ((s.cay c).fenceBusy f.mask.toNat (s.cay c).issue = false → OnlyThread s u c t ∧ ((u.cay c).thr t).pc = ((s.cay c).thr t).pc + 8) ∧
      ((s.cay c).fenceBusy f.mask.toNat (s.cay c).issue = true → f.queued = 0 →
        ((u.cay c).thr t).st = .blocked ∧ ((u.cay c).thr t).wait = .fence f.mask.toNat (s.cay c).issue ∧ ((u.cay c).thr t).pc = ((s.cay c).thr t).pc + 8) ∧
      ((s.cay c).fenceBusy f.mask.toNat (s.cay c).issue = true → f.queued ≠ 0 → ((s.cay c).queue f.engine.toNat).length < 16 →
        (u.cay c).queue f.engine.toNat = (s.cay c).queue f.engine.toNat ++ [⟨(s.cay c).issue, t, ((s.cay c).thr t).task, .fence f.mask.toNat⟩] ∧
        ((u.cay c).thr t).pc = ((s.cay c).thr t).pc + 8)) ∧
  (∀ (s : State) (c : CayRef) (e n t k m : Nat), e < 6 → (s.cay c).queue e = [⟨n, t, k, .fence m⟩] → (∀ x, x ≠ e → (s.cay c).queue x = []) → (s.cay c).fenceBusy m n = false →
    ∃ u, exec (.queuedFenceComplete c e) s = .next u ∧ OnlyCay s u c ∧ Vacant u c ∧ (u.cay c).ls = (s.cay c).ls ∧ (∀ i, ((u.cay c).thr i).regs = ((s.cay c).thr i).regs)) ∧
  (∀ (s : State) (c : CayRef) (n : Nat) (j : CopyJob) (p : CopyPiece) (o : Nat), (s.cay c).copyJob n = some j → s.copyMay c j = true → Unfinished s j.task →
    firstBad (s.srcPieces c j ++ s.dstPieces j) = some p → p.place = .aperture o →
    ∃ u, exec (.copyPageFault c n) s = .next u ∧ EndedWith s u j.task St.illegal c.cay)

/-- R102, R97: MCFG and MLDS where they go through: configurations and banks of the arrays named, and nothing else of the machine. -/
def Obligations.ArraysConfigured : Prop :=
  (∀ (s : State) (c : CayRef) (t : Nat) (f : McfgFields), Issues s c t → Vacant s c → f.rsv = 0 → (f.shape = 0 ∨ f.array = 0) → f.rescale ≠ 0 →
    f.aFmt.toNat < 9 → f.bFmt.toNat < 9 → pairOk f.aFmt.toNat f.bFmt.toNat = true →
    (∀ m ∈ gangOf f.shape.toNat f.array.toNat, s.arrDisabled c m = false ∧ ((s.cay c).arr m).task = some ((s.cay c).thr t).task) →
    17 * stackWidth f.shape.toNat ≤ (s.task ((s.cay c).thr t).task).slots f.array.toNat →
    ∃ u, exec (.mcfg c f) s = .next u ∧ OnlyCay s u c ∧ (u.cay c).ls = (s.cay c).ls ∧ (∀ i, ((u.cay c).thr i).regs = ((s.cay c).thr i).regs) ∧
      ((u.cay c).thr t).pc = ((s.cay c).thr t).pc + 8 ∧
      (∀ m, ((u.cay c).arr m).bank0 = ((s.cay c).arr m).bank0 ∧ ((u.cay c).arr m).bank1 = ((s.cay c).arr m).bank1 ∧ ((u.cay c).arr m).marks = ((s.cay c).arr m).marks ∧
        ((u.cay c).arr m).task = ((s.cay c).arr m).task) ∧
      (∀ m ∈ gangOf f.shape.toNat f.array.toNat, ((u.cay c).arr m).cfg = some ⟨f.shape.toNat, if f.shape = 0 then 0 else m, f.aFmt.toNat, f.bFmt.toNat, 16 * 2 ^ f.rescale.toNat⟩) ∧
      (∀ m, m < 4 → m ∉ gangOf f.shape.toNat f.array.toNat → ((u.cay c).arr m).cfg =
        if (((s.cay c).arr f.array.toNat).cfg.map (fun g => decide (g.shape ≠ 0))).getD false then none else ((s.cay c).arr m).cfg)) ∧
  (∀ (s : State) (c : CayRef) (t : Nat) (f : MldsFields) (g : ArrCfg) (a : Nat), Issues s c t → Settled s c t [f.a] → Vacant s c → f.rsv = 0 →
    ((s.cay c).arr f.array.toNat).cfg = some g → s.lsOperand c.island (((s.cay c).thr t).reg f.a).toNat (tileBytes g) 32 false = some a →
    ∃ u, exec (.mlds c f) s = .next u ∧ OnlyCay s u c ∧ (u.cay c).ls = (s.cay c).ls ∧ (∀ i, ((u.cay c).thr i).regs = ((s.cay c).thr i).regs) ∧
      ((u.cay c).thr t).pc = ((s.cay c).thr t).pc + 8 ∧ (∀ m, m ≠ f.array.toNat → (u.cay c).arr m = (s.cay c).arr m) ∧
      ((u.cay c).arr f.array.toNat).cfg = some g ∧ ((u.cay c).arr f.array.toNat).marks = ((s.cay c).arr f.array.toNat).marks ∧
      ((u.cay c).arr f.array.toNat).bank f.bank.toNat = tileBank g ((s.cay c).lsRead a (tileBytes g)) ∧
      ((u.cay c).arr f.array.toNat).bank (1 - f.bank.toNat) = ((s.cay c).arr f.array.toNat).bank (1 - f.bank.toNat))

/-- R95, R188, R96, R75: what the issue, sequence, merge and drain instructions leave in the local store. -/
def Obligations.MatrixResults : Prop :=
  (∀ (s : State) (c : CayRef) (t : Nat) (f : MissFields) (gap : Nat) (g : ArrCfg) (a : Nat) (x : Task) (v : Nat), Issues s c t → Settled s c t [f.a] → Vacant s c → f.rsv = 0 →
    x = s.task ((s.cay c).thr t).task → v = (((s.cay c).thr t).reg f.a).toNat →
    ((s.cay c).arr f.array.toNat).task = some ((s.cay c).thr t).task → ((s.cay c).arr f.array.toNat).cfg = some g → g.shape = 0 → (g.aFmt ≠ 8 ∨ bits v 55 52 = 0) →
    f.firstg = 1 → f.endg = 0 → f.endb = 0 → x.mask = none → (if doubleRate g.aFmt g.bFmt then 32 else 16) ≤ g.g → f.gslot.toNat + 18 ≤ x.slots f.array.toNat →
    ∀ (n bytes : Nat), n = (if doubleRate g.aFmt g.bFmt then 32 else 16) → bytes = n * fmtBits g.aFmt / 8 → s.lsOperand c.island v bytes (max 1 bytes) false = some a →
    ∀ (p : IssueP), p = ⟨f.bank.toNat, f.axis.toNat, true, false, f.firstb == 1, false, f.msk == 1, f.gslot.toNat, f.bslot.toNat, v, bits v 31 24, bits v 55 48, bit v 56, bits v 47 32⟩ →
    ∃ u, exec (.miss c f gap) s = .next u ∧ u.hbm = s.hbm ∧ (∀ r, cayKey r ≠ cayKey c → (u.cay r).ls = (s.cay r).ls) ∧
      (u.cay c).ls = ((s.cay c).putLanes (x.region f.array.toNat).1 f.gslot.toNat ((List.range 16).map (fun j =>
        (issueLane (s.cay c) g f.array.toNat p ((unpackElems (fmtBits g.aFmt) ((s.cay c).lsRead a bytes) n).map (fun e => streamVal g.aFmt e p.scale p.zp p.zr))
          (((s.cay c).laneScales 0 f.array.toNat p.bank p.axis j).headD 0) j ⟨0, false⟩).res.code)) []).ls) ∧
  (∀ (s : State) (c : CayRef) (t : Nat) (f : MseqFields) (g : ArrCfg) (a : Nat) (d : SeqDesc) (y : State) (q : QEntry), Issues s c t → Settled s c t [f.a, f.b] → Vacant s c → f.rsv = 0 →
    ((s.cay c).arr f.array.toNat).task = some ((s.cay c).thr t).task → ((s.cay c).arr f.array.toNat).cfg = some g → (g.shape = 0 ∨ f.array = 0) →
    s.lsOperand c.island (((s.cay c).thr t).reg f.a).toNat 32 32 false = some a → seqDesc ((s.cay c).lsRead a 32) = (d, true) → (fmtUnsigned g.aFmt = true → d.scaleBase % 4 = 0) →
    axisDepth g.shape d.axis * (if doubleRate g.aFmt g.bFmt then 2 else 1) ≤ g.g →
    y = s.entered c t f.array.toNat (.mseq f (((s.cay c).thr t).reg f.a).toNat (((s.cay c).thr t).reg f.b).toNat) →
    q = s.queuedEntry c t (.mseq f (((s.cay c).thr t).reg f.a).toNat (((s.cay c).thr t).reg f.b).toNat) →
    ∃ u, exec (.mseq c f) s = .next u ∧ u.hbm = s.hbm ∧
      (∀ r, (u.cay r).ls = (((List.range d.nOuter).foldl (seqOuter c q f.array.toNat g d (((s.cay c).thr t).reg f.b).toNat) (seqLoad y c q f.array.toNat g d.tileBase d.bank0)).cay r).ls)) ∧
  (∀ (s : State) (c : CayRef) (t : Nat) (f : MfinFields) (g : ArrCfg) (e : StackEnt) (x : Task) (w : Nat), Issues s c t → Vacant s c → f.rsv = 0 → x = s.task ((s.cay c).thr t).task →
    ((s.cay c).arr f.array.toNat).task = some ((s.cay c).thr t).task → ((s.cay c).arr f.array.toNat).cfg = some g → (g.shape = 0 ∨ f.array = 0) →
    ((s.cay c).arr f.array.toNat).stack = [e] → w = stackWidth g.shape → f.slot.toNat % (e.lanes / 16) = 0 → f.slot.toNat + e.lanes / 16 ≤ x.slots f.array.toNat - 17 * w →
    ∃ u, exec (.mfin c f) s = .next u ∧ OnlyCay s u c ∧ ((u.cay c).arr f.array.toNat).stack = [] ∧ (∀ i, ((u.cay c).thr i).regs = ((s.cay c).thr i).regs) ∧
      ((u.cay c).thr t).pc = ((s.cay c).thr t).pc + 8 ∧
      (u.cay c).ls = ((s.cay c).putLanes (x.region f.array.toNat).1 f.slot.toNat ((s.cay c).slotsAt (x.region f.array.toNat).1 (x.slots f.array.toNat - 17 * w) (e.lanes / 16)) []).ls) ∧
  (∀ (s : State) (c : CayRef) (t : Nat) (f : MdrnFields) (g : ArrCfg) (x : Task) (ca da b n bytes base : Nat) (k : ConvBlock), Issues s c t → Settled s c t [f.d, f.a, f.b] → Vacant s c → f.rsv = 0 →
    x = s.task ((s.cay c).thr t).task → b = (((s.cay c).thr t).reg f.b).toNat →
    ((s.cay c).arr f.array.toNat).task = some ((s.cay c).thr t).task → ((s.cay c).arr f.array.toNat).cfg = some g → (g.shape = 0 ∨ f.array = 0) →
    n = f.countM1.toNat + 1 → f.slot.toNat + n ≤ x.slots f.array.toNat - 17 * stackWidth g.shape →
    s.lsOperand c.island (((s.cay c).thr t).reg f.a).toNat 32 32 false = some ca → convBlock ((s.cay c).lsRead ca 32) = (k, 0) → k.blk = 0 → k.stats = false →
    bytes = 16 * n * fmtBits k.fmt / 8 → s.lsOperand c.island (((s.cay c).thr t).reg f.d).toNat bytes (max 1 (fmtBits k.fmt / 8)) true = some da → base = (x.region f.array.toNat).1 →
    ∃ u, exec (.mdrn c f) s = .next u ∧ u.hbm = s.hbm ∧ (∀ r, cayKey r ≠ cayKey c → (u.cay r).ls = (s.cay r).ls) ∧
      (u.cay c).ls = ((s.cay c).lsWrite da (packElems (fmtBits k.fmt) ((List.range (16 * n)).map (fun i =>
        if 2 ≤ (((s.cay c).arr f.array.toNat).marksAt f.slot.toNat (16 * n)).getD i 0 then (unpackElems (fmtBits k.fmt) ((s.cay c).lsRead da bytes) (16 * n)).getD i 0
        else (encodeElem k.fmt (if k.grad then .sr (elementDraw (s.fld .numcSeed x.ctx) x.step k.tag k.n (b + i)) else .rne)
          (drainValue k (((s.cay c).slotsAt base f.slot.toNat n).getD i 0)).1).code)))).ls)

/-! ### Events of cays and island caches -/

/-- R128, R129, R157, R158, R118, R119: the events of a cay beside its instructions, each where its conditions hold. -/
def Obligations.CayEvents : Prop :=
  (∀ (s : State) (c : CayRef) (t w : Nat), (s.cay c).running = some t → w < 8 → w ≠ t → ((s.cay c).thr w).bound = true → ((s.cay c).thr w).st = .ready →
    (∀ i, i < (w + 7 - t) % 8 → ¬ (((s.cay c).thr ((t + 1 + i) % 8)).bound = true ∧ ((s.cay c).thr ((t + 1 + i) % 8)).st = .ready)) →
    ∃ u, exec (.threadSwitchQuantum c) s = .next u ∧ OnlyCay s u c ∧ u.cay c = { s.cay c with threads := (u.cay c).threads, lastRun := w } ∧
      (u.cay c).thr t = { (s.cay c).thr t with st := .ready } ∧ (u.cay c).thr w = { (s.cay c).thr w with st := .running } ∧
      (∀ i, i ≠ t → i ≠ w → (u.cay c).thr i = (s.cay c).thr i)) ∧
  (∀ (s : State) (c : CayRef) (t n l k dva : Nat) (d : BitVec 5) (bs : List (BitVec 8)), ((s.cay c).thr t).wait = .miss [] [(lineOf k, bs)] (.ldg d n ⟨l, .hbm k, dva⟩) →
    ((s.cay c).thr t).bound = true → ((s.cay c).thr t).st = .blocked → s.poisoned k n = false → (s.task ((s.cay c).thr t).task).spec = false →
    ∃ u, exec (.threadMissReturn c t) s = .next u ∧ OnlyCay s u c ∧ (u.cay c).ls = (s.cay c).ls ∧ ((u.cay c).thr t).pc = ((s.cay c).thr t).pc + 8 ∧
      ((u.cay c).thr t).st ≠ .blocked ∧ ((u.cay c).thr t).wait = .none ∧ (∀ i, i ≠ t → ((u.cay c).thr i).regs = ((s.cay c).thr i).regs) ∧
      (∀ x, ((u.cay c).thr t).reg x = if x = d ∧ x ≠ 0 then BitVec.ofNat 64 (leNat ((List.range n).map (fun i => bs.getD ((k + i) % 128) 0))) else ((s.cay c).thr t).reg x)) ∧
  (∀ (s : State) (c : CayRef), (s.cay c).clock = 2 → (s.cay c).idle = true →
    ∃ u, exec (.cayClockGate c) s = .next u ∧ OnlyCay s u c ∧ u.cay c = { s.cay c with clock := 0 }) ∧
  (∀ (s : State) (c : CayRef), (s.cay c).clock = 1 →
    ∃ u, exec (.cayUngate c false) s = .next u ∧ u = { s with cays := u.cays, regs := u.regs } ∧ (u.cay c).clock = 2 ∧ Counted s u .cayWakeCnt c.island (1 + c.cay) ∧
      OnlyRegs s u [Fld.key .cayWakeCnt c.island (1 + c.cay)] ∧ (u.cay c).ls = (s.cay c).ls ∧ (∀ i, ((u.cay c).thr i).regs = ((s.cay c).thr i).regs)) ∧
  (∀ (s : State) (c : CayRef) (sel : ShadowSel) (b : Nat), (s.cay c).shadow = some sel → s.shadowArray c sel.array = some b → ((s.cay c).arr b).task = none →
    ∃ u, exec (.shadowRecompute c) s = .next u ∧ u = { s with cays := u.cays, regs := u.regs, outbox := u.outbox } ∧ u.cay c = { s.cay c with shadow := none } ∧
      (∀ r, cayKey r ≠ cayKey c → u.cay r = s.cay r) ∧ Counted s u .shadowDone c.island ∧
      OnlyRegsEvents s u [Fld.key .shadowDone c.island 0, Fld.key .shadowOver c.island 0, Fld.key .shadowCaptValid c.island 0, Fld.key .shadowCaptCtx c.island 0, Fld.key .shadowCaptCay c.island 0,
        Fld.key .shadowCaptArray c.island 0, Fld.key .shadowCaptLane c.island 0, Fld.key .shadowCaptD c.island 0]) ∧
  (∀ (s : State) (c : CayRef) (sel : ShadowSel), (s.cay c).shadow = some sel →
    ∃ u, exec (.shadowSelectExpiry c) s = .next u ∧ u = { s with cays := u.cays, regs := u.regs } ∧ u.cay c = { s.cay c with shadow := none } ∧
      (∀ r, cayKey r ≠ cayKey c → u.cay r = s.cay r) ∧ Counted s u .shadowSkip c.island ∧ OnlyRegs s u [Fld.key .shadowSkip c.island 0])

/-- R127, R207, R179: binding a task to a cay, and its end. -/
def Obligations.TasksBindAndEnd : Prop :=
  (∀ (s : State) (c : CayRef) (k : Nat) (x : Task) (code data args : List (BitVec 8)), s.mayBind c k = true → x = s.task k →
    s.dvaRead x.ctx (x.kernel + x.hdr.codeOff) x.hdr.codeLen (.op 2 (k * 8192 + cayKey c)) false = .ok code →
    s.dvaRead x.ctx (x.kernel + x.hdr.dataOff) x.hdr.dataLen (.op 2 (k * 8192 + cayKey c)) false = .ok data →
    s.dvaRead x.ctx x.args x.argsLen (.op 2 (k * 8192 + cayKey c)) false = .ok args →
    ∃ u, exec (.taskBind c k) s = .next u ∧ (u.task k).st = .running ∧ (u.task k).bound = x.bound ++ [cayKey c] ∧ (u.task k).live = x.live ++ [cayKey c] ∧
      (∀ n, n ≠ k → u.task n = s.task n) ∧ u.hbm = s.hbm ∧ (∀ r, cayKey r ≠ cayKey c → u.cay r = s.cay r) ∧ (u.cay c).istore = code ∧
      (u.cay c).ls = ((if (s.cay c).lastCtx = some x.ctx then (s.cay c).ls else []).writeN x.hdr.dataLs data).writeN x.argsLs args ∧
      (∀ i, i ∈ (s.cay c).freeThreads.take x.hdr.threads → ((u.cay c).thr i).bound = true ∧ ((u.cay c).thr i).task = k ∧ ((u.cay c).thr i).pc = x.hdr.entry ∧ ((u.cay c).thr i).regs = []) ∧
      (∀ a, a ∈ x.arrays → ((u.cay c).arr a).task = some k ∧ ((u.cay c).arr a).cfg = none ∧ ((u.cay c).arr a).bank0 = ((s.cay c).arr a).bank0)) ∧
  (∀ (s : State) (k : Nat), s.mayEnd k = true →
    ∃ u, exec (.taskEnd k) s = .next u ∧ u.hbm = s.hbm ∧ u.regs = s.regs ∧ (u.task k).st = .ended ∧ (u.task k).live = [] ∧ (∀ n, n ≠ k → u.task n = s.task n) ∧
      ((s.task k).status ≠ 0 → (u.task k).status = (s.task k).status ∧ (u.task k).detail = (s.task k).detail) ∧
      ((s.task k).status = 0 → (s.task k).spec = false → (s.task k).discard = false → (u.task k).status = 0) ∧
      (∀ x ∈ (s.task k).live, ∀ y ∈ (u.cay (cayOfKey x)).tasks, y.task ≠ k) ∧ (∀ r, (u.cay r).ls = (s.cay r).ls) ∧
      ((s.task k).origin = .record → ∀ e, s.entry (s.task k).ctx (s.task k).stream (s.task k).seq = some e → e.point = none →
        ∃ e', u.entry (s.task k).ctx (s.task k).stream (s.task k).seq = some e' ∧ e'.point = some ((u.task k).status, (u.task k).detail) ∧ e'.raw = e.raw ∧ e'.st = e.st))

/-- R143 to R150, R502: fills, prefetches, run-ahead and writes performed at the HBM controllers. -/
def Obligations.IslandCaches : Prop :=
  (∀ (s : State) (i l : Nat) (f : Fetch), (s.ic i).fetches.find? (fun f => f.line == l && f.demand) = some f → f.stale = false → (s.ic i).lines.contains l = false →
    ((s.ic i).lines.filter (fun x => icSetOf x == icSetOf l)).length + (s.ic i).shadowIn (icSetOf l) < 16 →
    ∃ u, exec (.islandCacheFill i l) s = .next u ∧ u = { s with cays := u.cays, ics := u.ics } ∧
      u.ic i = { s.ic i with lines := (s.ic i).lines ++ [l], fetches := (s.ic i).fetches.filter (fun g => g.line != l) } ∧ (∀ j, j ≠ i → u.ic j = s.ic j) ∧
      (∀ r, (u.cay r).ls = (s.cay r).ls)) ∧
  (∀ (s : State) (i l : Nat) (f : Fetch), (s.ic i).fetches.find? (fun f => f.line == l && f.demand) = some f → f.stale = true →
    ∃ u, exec (.islandCacheFill i l) s = .next u ∧ u = { s with ics := u.ics } ∧ (u.ic i).lines = (s.ic i).lines ∧
      (∀ g ∈ (u.ic i).fetches, g.line = l → g.stale = false) ∧ (u.ic i).fetches.length = (s.ic i).fetches.length) ∧
  (∀ (s : State) (i l : Nat) (f : Fetch), (s.ic i).fetches.find? (fun f => f.line == l && !f.demand) = some f →
    ∃ u, exec (.prefetchArrival i l) s = .next u ∧ u = { s with ics := u.ics, regs := u.regs, free := u.free } ∧ (u.ic i).lines = (s.ic i).lines ∧
      (u.ic i).fetches = (s.ic i).fetches.filter (fun g => g.line != l) ∧
      (f.stale = true → (u.ic i).buffer = (s.ic i).buffer ∧ Counted s u .icPfCancel i) ∧ (f.stale = false → l ∈ (u.ic i).buffer ∧ u.regs = s.regs)) ∧
  (∀ (s : State) (i n : Nat) (t : Tracker) (d : Int) (k : Nat), (s.ic i).trackers[n]? = some t → t.stride = some d → s.fld .icCtlPfEn i ≠ 0 →
    ((t.next : Int) - t.latest) / d ≤ s.fld .icCtlRaDepth i → (s.walk t.ctx t.next).dest = .hbm k → (s.walk t.ctx t.next).suspect = false →
    (t.next + (s.walk t.ctx t.next).left = t.latest + (s.walk t.ctx t.latest).left ∨ (s.walk t.ctx t.next).pf = true) →
    (s.ic i).lines.contains (lineOf k) = false → (s.ic i).buffer.contains (lineOf k) = false → (s.ic i).fetches.any (fun f => f.line == lineOf k) = false →
    ∃ u, exec (.runAheadFetch i n) s = .next u ∧ u = { s with ics := u.ics, regs := u.regs } ∧ (u.ic i).fetches = (s.ic i).fetches ++ [⟨lineOf k, false, false, []⟩] ∧
      (u.ic i).lines = (s.ic i).lines ∧ Counted s u .icPfIssued i ∧ OnlyRegs s u [Fld.key .icPfIssued i 0]) ∧
  (∀ (s : State) (i n : Nat) (t : Tracker) (d : Int) (cause : Nat), (s.ic i).trackers[n]? = some t → t.stride = some d → s.fld .icCtlPfEn i ≠ 0 →
    ((t.next : Int) - t.latest) / d ≤ s.fld .icCtlRaDepth i → (s.walk t.ctx t.next).dest = .fault cause →
    ∃ u, exec (.runAheadFetch i n) s = .next u ∧ u = { s with ics := u.ics, regs := u.regs } ∧ (u.ic i).trackers = setAt (s.ic i).trackers n t.halt ∧
      (u.ic i).fetches = (s.ic i).fetches ∧ Counted s u .icRaFault i ∧ OnlyRegs s u [Fld.key .icRaFault i 0]) ∧
  (∀ (s : State) (w a : Nat) (bs : List (BitVec 8)), bs ≠ [] → hbmExists a = true → hbmExists (a + bs.length - 1) = true → stackOf a = stackOf (a + bs.length - 1) →
    ∃ u, exec (.hbmWriteInvalidate w a bs) s = .next u ∧ u = { s with ics := u.ics, regs := u.regs, hbm := u.hbm, poison := u.poison } ∧
      (∀ x, u.hbm.read x = if a ≤ x ∧ x < a + bs.length then bs.getD (x - a) 0 else s.hbm.read x) ∧
      (∀ l ∈ linesOf a bs.length, ∀ i, i < 24 → i ≠ w → l ∉ (u.ic i).lines ∧ l ∉ (u.ic i).buffer)) ∧
  (∀ (s : State) (w a : Nat) (bs : List (BitVec 8)), bs ≠ [] → (hbmExists a = false ∨ hbmExists (a + bs.length - 1) = false ∨ stackOf a ≠ stackOf (a + bs.length - 1)) →
    exec (.hbmWriteInvalidate w a bs) s = .fault .addressAbsent)

/-- R154 to R156: what becomes of a speculative task's shadowed writes. -/
def Obligations.SpeculativeTasks : Prop :=
  (∀ (s : State) (k : Nat) (n : Nat), (s.task k).spec = true → (s.task k).st = .ended → (s.task k).status = 0 → (s.task k).applied = false → (s.task k).origin = .serving n →
    (s.task k).sums = [] → (s.task k).chans = [] →
    ∃ u, exec (.speculativeCommit k) s = .next u ∧ (u.task k).applied = true ∧ (∀ j, j ≠ k → u.task j = s.task j) ∧
      u.hbm = ((List.range 24).foldl (fun v i => v.shadowCommit i k) s).hbm ∧ (∀ i, i < 24 → ∀ x ∈ (u.ic i).shadow, x.task ≠ k) ∧ u.cays = s.cays) ∧
  (∀ (s : State) (k : Nat), (s.task k).spec = true → (s.task k).st = .ended → (s.task k).applied = false → (s.task k).status ≠ 0 →
    ∃ u, exec (.speculativeDiscard k) s = .next u ∧ (u.task k).applied = true ∧ (∀ j, j ≠ k → u.task j = s.task j) ∧ u.hbm = s.hbm ∧
      (∀ i, i < 24 → ∀ x ∈ (u.ic i).shadow, x.task ≠ k) ∧ u.cays = s.cays) ∧
  (∀ (s : State) (i w v : Nat), s.lastHolder i w = some v → (s.task w).spec = true → s.wantsShadow i w = true → (∀ k ∈ inIsland i (s.task w).live, Vacant s (cayOfKey k)) →
    ∃ u, exec (.speculativeRequeue i w) s = .next u ∧ u.hbm = s.hbm ∧ (u.task v).st = .waiting ∧ (u.task v).bound = [] ∧ (u.task v).live = [] ∧ (u.task v).status = 0 ∧
      (u.task v).execs = (s.task v).execs + 1 ∧ (∀ j, j ≠ v → u.task j = s.task j) ∧ (∀ j, j < 24 → ∀ x ∈ (u.ic j).shadow, x.task ≠ v) ∧ (∀ r, (u.cay r).ls = (s.cay r).ls))

/-! ### Work records, groups and completions -/

/-- R211, R212: acceptance at a landing window and the response to it. -/
def Obligations.LandingWindows : Prop :=
  (∀ (s : State) (ctx tag c q : Nat) (data : List (BitVec 8)) (e : Entry), c < 64 → q < 16 → s.notReady = false → data.length = 128 → s.ctxOn ctx = true → (ctx = 0 ∨ ctx = c) →
    e = mkEntry c q data s.ptime s.freeSlot [(tag, 0)] → s.astat e = 0 → e.names = none →
    ∃ u, exec (.landingWindowWrite ctx tag (0x03C00000 + c * 2 ^ 16 + q * 2 ^ 12) data) s = .next u ∧ u.entries = s.entries ++ [e] ∧
      u = { s with regs := u.regs, entries := u.entries, outbox := u.outbox } ∧ u.lwNext c q = (e.seq + 1) % 2 ^ 64 ∧ u.fld .lwAstatAstat (lwInst c q) = 0 ∧
      u.fld64 .lwAseqLo .lwAseqHi (lwInst c q) = e.seq) ∧
  (∀ (s : State) (ctx tag c q : Nat) (data : List (BitVec 8)) (e x : Entry), c < 64 → q < 16 → s.notReady = false → data.length = 128 → s.ctxOn ctx = true → (ctx = 0 ∨ ctx = c) →
    e = mkEntry c q data s.ptime s.freeSlot [(tag, 0)] → s.entry c q e.seq = some x → x.raw = data → x.durable = false →
    ∃ u, exec (.landingWindowWrite ctx tag (0x03C00000 + c * 2 ^ 16 + q * 2 ^ 12) data) s = .next u ∧ u.entry c q e.seq = some { x with owed := x.owed ++ [(tag, 1)] } ∧
      u = { s with regs := u.regs, entries := u.entries } ∧ u.entries.length = s.entries.length ∧ u.fld .lwAstatAstat (lwInst c q) = 1) ∧
  (∀ (s : State) (ctx tag c q : Nat) (data : List (BitVec 8)), c < 64 → q < 16 → s.notReady = true →
    ∃ u, exec (.landingWindowWrite ctx tag (0x03C00000 + c * 2 ^ 16 + q * 2 ^ 12) data) s = .next u ∧ u = { s with regs := u.regs, outbox := u.outbox } ∧
      u.outbox = s.outbox ++ [.lwResponse ctx tag (accResult 0x0B 0)] ∧ u.fld .lwAstatAstat (lwInst c q) = 0x0B ∧ Counted s u .accRefuseCnt 0) ∧
  (∀ (s : State) (c q n tag a : Nat) (e : Entry) (rest : List (Nat × Nat)), s.entry c q n = some e → e.owed = (tag, a) :: rest → e.durable = true →
    ∃ u, exec (.landingWindowResponse c q n) s = .next u ∧ u.entry c q n = some { e with owed := rest } ∧ u.outbox = s.outbox ++ [.lwResponse c tag (accResult a n)] ∧
      u = { s with entries := u.entries, outbox := u.outbox }) ∧
  (∀ (s : State) (w c q v : Nat), 
    ∃ u, exec (.lwEnable w c q v) s = .next u ∧ u = { s with regs := u.regs } ∧ OnlyRegs s u [Fld.key .lwCtlEn (lwInst c q) 0] ∧ u.fld .lwCtlEn (lwInst c q) = v % 2 ∧
      u.fld .lwCtlDepth (lwInst c q) = if w = 0 ∧ 1 ≤ bits v 28 16 ∧ bits v 28 16 ≤ 4096 then bits v 28 16 else s.fld .lwCtlDepth (lwInst c q))

/-- R206 to R209, R214 to R216: starting a record, and the work of the kinds that need no engine. -/
def Obligations.RecordsStart : Prop :=
  (∀ (s : State) (c q n : Nat) (e : Entry), s.entry c q n = some e → e.st = .accepted → e.durable = true → s.ctxOn c = true → s.run = .ready → s.fld .jnlStatRecovering 0 = 0 →
    s.orderOk e = true → e.point = none → (s.groups.any (fun g => e.grp == some g.num && g.decision == some false)) = false →
    (∀ d, s.failedDep e = some d → ∃ u, exec (.recordStart c q n) s = .next u ∧ OnlyEntry s u c q n ∧
      u.entry c q n = some { e with point := some (St.dependencyFailed, d.1 + d.2 % 2 ^ 28 * 16) }) ∧
    (s.failedDep e = none → e.admitted = true → ∃ u e', exec (.recordStart c q n) s = .next u ∧ u.entry c q n = some e' ∧ e'.st = .started ∧ e'.durable = true ∧ e'.raw = e.raw ∧
      (∀ c' q' n', ¬ (c' = c ∧ q' = q ∧ n' = n) → u.entry c' q' n' = s.entry c' q' n') ∧ u.tasks = s.tasks ∧ u.cays = s.cays)) ∧
  (∀ (s : State) (c q n : Nat) (e : Entry), s.entry c q n = some e → e.ripe 9 = true → s.earlierDone e = true →
    ∃ u, exec (.marker c q n) s = .next u ∧ OnlyEntry s u c q n ∧ u.entry c q n = some { e with begun := true, point := some (0, 0) }) ∧
  (∀ (s : State) (c q n g : Nat) (e : Entry), s.entry c q n = some e → e.ripe 8 = true → e.grp = some g → s.allReached g (e.u 0x34 4) = true →
    ∃ u, exec (.groupClose c q n) s = .next u ∧ OnlyEntry s u c q n ∧ u.entry c q n = some { e with begun := true, point := some (0, 0) }) ∧
  (∀ (s : State) (c q n k : Nat) (e : Entry) (v : State), s.entry c q n = some e → e.ripe 1 = true → s.placeTask (mkTask (e.raw.drop 0x30) c q n .record e.spec e.failInvalid) = .ok v k →
    ∃ u, exec (.task c q n) s = .next u ∧ (∃ e', u.entry c q n = some e' ∧ e'.begun = true ∧ e'.point = none) ∧ (u.task k).st = .waiting ∧ (u.task k).ctx = c ∧ (u.task k).kernel = leAt (e.raw.drop 0x30) 0 6 ∧
      u.hbm = s.hbm ∧ u.cays = s.cays) ∧
  (∀ (s : State) (c q n : Nat) (e : Entry) (d : CopyDesc), s.entry c q n = some e → e.ripe 2 = true → s.islandReady (e.u 0x50 4) = true →
    d = (copyDesc ((e.raw.drop 0x30).take 32)).1 → recCheck d ≠ 0 →
    ∃ u e', exec (.copy c q n) s = .next u ∧ u.entry c q n = some e' ∧ e'.begun = true ∧ e'.point = some (St.copyRefused, recCheck d) ∧ u.hbm = s.hbm ∧ Raised s u 0x11 (e.u 0x50 4) 0) ∧
  (∀ (s : State) (c q n : Nat) (e : Entry) (d : CopyDesc) (k : Nat), s.entry c q n = some e → e.ripe 2 = true → s.islandReady (e.u 0x50 4) = true →
    d = (copyDesc ((e.raw.drop 0x30).take 32)).1 → recCheck d = 0 → d.kind = 3 → d.dst = 1 → d.rows = 1 → d.dstAddr % 2 ^ 16 + d.rowBytes ≤ 2 ^ 16 → s.placeCtx c false d.dstAddr true = .hbm k →
    ∃ u e', exec (.copy c q n) s = .next u ∧ u.entry c q n = some e' ∧ e'.begun = true ∧ e'.point = some (0, 0) ∧
      (∀ a, u.hbm.read a = if k ≤ a ∧ a < k + d.rowBytes then BitVec.ofNat 8 (d.srcStride / 2 ^ (8 * ((a - k) % 4))) else s.hbm.read a)) ∧
  (∀ (s : State) (c q n : Nat) (e : Entry), s.entry c q n = some e → e.ripe 0x0A = true →
    ∃ u, exec (.registerWrite c q n) s = .next u ∧ OnlyEntry s u c q n ∧
      (e.regWrites.findIdx? (fun w => s.regStatus c w.1 != 0) = none → u.entry c q n = some { e with begun := true, point := some (0, 0) }) ∧
      (∀ i, e.regWrites.findIdx? (fun w => s.regStatus c w.1 != 0) = some i → u.entry c q n = some { e with begun := true, point := some (St.registerRefused, i) }))

/-- R216 to R222, R235: commit and completion of records. -/
def Obligations.RecordsComplete : Prop :=
  (∀ (s : State) (c q n st d : Nat) (e : Entry), s.entry c q n = some e → e.point = some (st, d) → e.done = false → s.earlierDone e = true → s.notReady = false → e.grp = none →
    e.kind ≠ 0x0A → s.recordTasks e = [] → e.eclass = 0 →
    ∃ u e', exec (.recordCommit c q n) s = .next u ∧ u.entry c q n = some e' ∧ e'.st = .committed ∧ e'.status = st ∧ e'.detail = d ∧ e'.durable = true ∧ e'.tCommit = s.ptime ∧ e'.raw = e.raw ∧
      u.fld64 .lwDoneLo .lwDoneHi (lwInst c q) = n % 2 ^ 64 ∧ u.tasks = s.tasks ∧ u.cays = s.cays ∧
      (∀ c' q' n', ¬ (c' = c ∧ q' = q ∧ n' = n) → u.entry c' q' n' = s.entry c' q' n')) ∧
  (∀ (s : State) (c q n : Nat) (e : Entry), s.entry c q n = some e → e.done = true → e.durable = true → e.written = false → e.rew = false → s.earlierWritten e = true → s.run = .ready →
    (s.ringSpace c q n = true → ∃ u e' out, exec (.completionWrite c q n) s = .next u ∧ u.entry c q n = some e' ∧ e'.written = true ∧ (e.noIrq = false → e'.st = .signalled) ∧
      u.outbox = s.outbox ++ [.completion c (s.fld64 .cqBaseLoBase .cqBaseHi (lwInst c q) + 32 * ((n - 1) % s.ringN c q)) (e.completion (s.ringN c q))] ++ out) ∧
    (s.ringSpace c q n = false → e.waited = false → ∃ u, exec (.completionWrite c q n) s = .next u ∧ u.entry c q n = some { e with waited := true } ∧ u = { s with entries := u.entries, regs := u.regs } ∧
      Counted s u .cqFullCnt (lwInst c q) ∧ OnlyRegs s u [Fld.key .cqFullCnt (lwInst c q) 0])) ∧
  (∀ (s : State) (c q n : Nat) (e : Entry), s.entry c q n = some e → e.rew = true → e.noIrq = true → s.run = .ready → (∀ x ∈ s.streamEntries c q, x.seq < n → x.rew = false) →
    ∃ u e', exec (.completionRewrite c q n) s = .next u ∧ u.entry c q n = some e' ∧ e'.rew = false ∧ e'.written = true ∧ Counted s u .jnlRewriteCnt 0 ∧
      (Emit.completion c (s.ringAddr c q n) (e.completion (s.ringN c q))) ∈ u.outbox) ∧
  (∀ (s : State) (c q v : Nat), v < 2 ^ 64 →
    ∃ u, exec (.cqConsumedWrite c q v) s = .next u ∧ u = { s with regs := u.regs } ∧ OnlyRegs s u [Fld.key .cqConsumedLo (lwInst c q) 0, Fld.key .cqConsumedHi (lwInst c q) 0] ∧
      u.consumed c q = if s.consumed c q ≤ v ∧ v ≤ s.lastWritten c q then v else s.consumed c q)

/-- R224, R225: deciding a commit group, timing it out, and applying it. -/
def Obligations.CommitGroups : Prop :=
  (∀ (s : State) (n : Nat) (g : Group) (k : Entry), s.groups.find? (fun g => g.num == n && g.decision.isNone) = some g → s.closer n = some k → k.point.isSome = true →
    s.allReached n (k.u 0x34 4) = true →
    ∃ u g', exec (.groupDecision n) s = .next u ∧ g' ∈ u.groups ∧ g'.num = n ∧ g'.ctx = g.ctx ∧ g'.gid = g.gid ∧ g'.timedOut = false ∧ u.entries = s.entries ∧ u.tasks = s.tasks ∧
      (g'.decision = some true ↔ (k.u 0x38 4 ≠ 1 ∧ ∀ x ∈ s.members n, ∀ p, x.point = some p → p.1 = 0)) ∧ (g'.decision = some true ∨ g'.decision = some false)) ∧
  (∀ (s : State) (n : Nat) (g : Group), s.groups.find? (fun g => g.num == n && g.decision.isNone) = some g →
    ∃ u g', exec (.groupTimeout n) s = .next u ∧ g' ∈ u.groups ∧ g'.num = n ∧ g'.decision = some false ∧ g'.timedOut = true ∧ Raised s u 0x05 0 2 ∧ u.entries = s.entries) ∧
  (∀ (s : State) (n : Nat) (g : Group), s.groups.find? (fun g => g.num == n && g.decision.isSome && !g.applied) = some g → s.notReady = false → s.members n = [] →
    ∃ u, exec (.groupApply n) s = .next u ∧ u = { s with groups := u.groups } ∧ u.groups = s.groups.map (fun x => if x.num = n then { x with applied := true } else x))

/-! ### The journal and the firmware -/

/-- R227 to R235, R34: what the journal's commands leave, each where its conditions hold. -/
def Obligations.Journal : Prop :=
  (∀ (s : State) (c q n : Nat) (e : Entry), s.entry c q n = some e → s.fld .jnlCtlEn 0 = 1 → e.durable = false → e.raw.length = 128 →
    ∃ u, exec (.journalEntryWrite c q n) s = .next u ∧ u.entry c q n = some { e with update := e.update + 1, durable := true } ∧
      (∀ c' q' n', ¬ (c' = c ∧ q' = q ∧ n' = n) → u.entry c' q' n' = s.entry c' q' n') ∧ u.tasks = s.tasks ∧
      (s.stackLost (stackOf (s.jnlBase true)) = false → u.hbmBytes (s.jnlBase true + (2 ^ 16 + 256 * e.slot)) 256 = e.image (s.ringN c q)) ∧
      (s.stackLost (stackOf (s.jnlBase true)) = true → s.stackLost (stackOf (s.jnlBase false)) = false →
        u.hbmBytes (s.jnlBase false + (2 ^ 16 + 256 * e.slot)) 256 = e.image (s.ringN c q))) ∧
  (∀ (s : State) (c q n : Nat) (e : Entry), s.entry c q n = some e → e.done = true → e.written = true → e.owed = [] → n ≤ s.consumed c q →
    ∃ u, exec (.journalEntryRetire c q n) s = .next u ∧ u = { s with entries := u.entries, groups := u.groups } ∧ u.entry c q n = none ∧
      (∀ c' q' n', ¬ (c' = c ∧ q' = q ∧ n' = n) → u.entry c' q' n' = s.entry c' q' n')) ∧
  (∀ (s : State) (v : Nat), v % 2 = 1 → s.fld .jnlCtlEn 0 = 0 → bits v 5 1 ≠ bits v 10 6 →
    s.placeable ⟨bits v 5 1, s.fld .jnlBaseABase 0, s.fld .jnlSizeSize 0⟩ = true → s.placeable ⟨bits v 10 6, s.fld .jnlBaseBBase 0, s.fld .jnlSizeSize 0⟩ = true → s.fld .splCtlEn 0 = 0 →
    ∃ u, exec (.journalEnable v) s = .next u ∧ u = { s with regs := u.regs } ∧ u.fld .jnlCtlEn 0 = 1 ∧ u.fld .jnlCtlStackA 0 = bits v 5 1 ∧ u.fld .jnlCtlStackB 0 = bits v 10 6 ∧
      u.fld .jnlStatPlaceErr 0 = 0 ∧ OnlyRegs s u [Fld.key .jnlCtlEn 0 0, Fld.key .jnlStatPlaceErr 0 0]) ∧
  (∀ (s : State) (v : Nat), v % 2 = 1 → s.fld .jnlCtlEn 0 = 0 → bits v 5 1 = bits v 10 6 →
    ∃ u, exec (.journalEnable v) s = .next u ∧ u = { s with regs := u.regs } ∧ u.fld .jnlCtlEn 0 = 0 ∧ u.fld .jnlStatPlaceErr 0 = 1 ∧ OnlyRegs s u [Fld.key .jnlStatPlaceErr 0 0]) ∧
  (∀ (s : State) (v : Nat), s.fld .jnlCtlEn 0 = 1 → exec (.journalEnable v) s = .next s) ∧
  (∀ (s : State) (b : Bool), s.fld .jnlCtlEn 0 = 1 → s.fld .jnlStatSingle 0 = 0 → s.lostCopy = some b →
    ∃ u, exec .journalStackLoss s = .next u ∧ u = { s with regs := u.regs, outbox := u.outbox } ∧ u.fld .jnlStatSingle 0 = 1 ∧ Raised s u 0x05 0 1 ∧
      OnlyRegsEvents s u [Fld.key .jnlStatSingle 0 0]) ∧
  (∀ (s : State) (v : Nat) (b : Bool), bit v 31 = true → s.lostCopy = some b → s.fld .jnlStatSingle 0 = 1 → bits v 19 15 ≠ (if b then s.fld .jnlCtlStackA 0 else s.fld .jnlCtlStackB 0) →
    s.placeable ⟨bits v 19 15, bits v 14 0, s.fld .jnlSizeSize 0⟩ = true →
    ∃ u, exec (.journalRebuild v) s = .next u ∧ u.fld .jnlStatSingle 0 = 0 ∧ u.entries = s.entries ∧ u.jnlBase b = hbmKey (bits v 19 15) (bits v 14 0 * 2 ^ 21) ∧ u.jnlBase (!b) = s.jnlBase (!b)) ∧
  (∀ (s : State), s.fld .jnlStatRecovering 0 = 1 → s.fld .jnlCtlEn 0 = 1 →
    ∃ u, exec .journalRecovery s = .next u ∧ u.fld .jnlStatRecovering 0 = 0 ∧ u.run = (if s.run = .boot then .ready else s.run) ∧ u.hbm = s.hbm ∧ Raised s u 0x05 0 3) ∧
  (∀ (s : State), s.run = .ready →
    ∃ u, exec .controlTakeover s = .next u ∧ u.die = 1 - s.die ∧ (∀ e ∈ u.entries, e.update ≠ 0) ∧ u.hbm = s.hbm ∧ u.tasks = s.tasks ∧ u.cays = s.cays)

/-- R525 to R532: boot, installation, fuses and attestation. The factory's images and keys are the model's constants (log entry 36). -/
def Obligations.BootAndFirmware : Prop :=
  (∀ (s : State) (b : Bool), s.run = .boot → s.mod.main = true → s.mod.clearing = false → s.fld .jnlStatRecovering 0 = 0 → s.fld .jnlCtlEn 0 = 0 →
    b = (if (s.fw.bank (s.fld .fwBootNext 0 == 1)).valid then s.fld .fwBootNext 0 == 1 else s.fw.active) → (s.fw.bank b).valid = true → s.bankFails (s.fw.bank b) = none →
    ∃ u, exec .bootChain s = .next u ∧ u.run = .ready ∧ u.fw.active = b ∧ u.fw.bankA = s.fw.bankA ∧ u.fw.bankB = s.fw.bankB ∧
      u.fw.measured = ((bootTypes (s.fw.bank b)).filterMap (s.fw.bank b).image).map FlashImage.measure ∧ u.hbm = s.hbm ∧ u.fuse = s.fuse) ∧
  (∀ (s : State), s.run = .boot → s.mod.main = true → s.fld .jnlStatRecovering 0 = 0 → s.fw.bankA.valid = false → s.fw.bankB.valid = false →
    (∀ im, s.fw.golden.head? = some im → s.imageCode 6 im = 0 → ∃ u, exec .bootChain s = .next u ∧ u.run = .recovery ∧ u.fw.measured = [im.measure] ∧ u.fuse = s.fuse) ∧
    (s.fw.golden = [] → ∃ u, exec .bootChain s = .next u ∧ u.run = .stopped)) ∧
  (∀ (s : State) (bs : List (BitVec 8)), s.fld .fwStatBusy 0 = 0 → s.fld .fwLenBytes 0 % 4096 = 0 → s.fld .fwLenBytes 0 ≠ 0 → s.fld .fwLenBytes 0 ≤ 48 * 2 ^ 20 →
    s.installing.dvaRead 0 (s.installing.fld64 .fwSrcLoAddr .fwSrcHiAddr 0) (s.installing.fld .fwLenBytes 0) fwOwner false = .ok bs →
    ∃ u, exec .install s = .next u ∧ u.fw.bank s.fw.active = s.fw.bank s.fw.active ∧ u.fld .fwStatBusy 0 = 0 ∧ u.fld .fwStatErr 0 = (s.installing.setCode bs).1 ∧ Raised s u 0x01 0 0 ∧
      u.fw.bank (!s.fw.active) = (if (s.installing.setCode bs).1 = 0 then ⟨true, (s.installing.setCode bs).2⟩ else ⟨false, []⟩) ∧
      u.fld .fwBootNext 0 = (if (s.installing.setCode bs).1 = 0 then b2n (!s.fw.active) else s.fld .fwBootNext 0)) ∧
  (∀ (s : State), s.fld .fwStatBusy 0 = 0 → s.fld .fwLenBytes 0 = 0 →
    ∃ u, exec .install s = .next u ∧ (u.fw.bank (!s.fw.active)).valid = false ∧ u.fw.bank s.fw.active = s.fw.bank s.fw.active ∧ u.fld .fwStatErr 0 = 8 ∧ u.fld .fwStatBusy 0 = 0 ∧ Raised s u 0x01 0 0) ∧
  (∀ (s : State), s.fld .fwStatBusy 0 = 0 → s.fw.bank (!s.fw.active) = ⟨false, []⟩ →
    ∃ u, exec .advance s = .next u ∧ u.fld .fwStatBusy 0 = 0 ∧ Raised s u 0x01 0 0 ∧ u.fw = s.fw ∧ u.hbm = s.hbm ∧
      (s.fuse.svn < s.fld .fwAdvanceSvnSvn 0 → (∀ im ∈ (s.fw.bank s.fw.active).images, s.fld .fwAdvanceSvnSvn 0 ≤ im.measure.svn) →
        u.fuse = { s.fuse with svn := s.fld .fwAdvanceSvnSvn 0 } ∧ u.fld .fwStatErr 0 = 0) ∧
      (s.fld .fwAdvanceSvnSvn 0 ≤ s.fuse.svn → u.fuse = s.fuse ∧ u.fld .fwStatErr 0 = 6)) ∧
  (∀ (s : State), s.fld .fwStatBusy 0 = 0 →
    ∃ u, exec .eraseAlt s = .next u ∧ (u.fw.bank (!s.fw.active)).valid = false ∧ u.fw.bank s.fw.active = s.fw.bank s.fw.active ∧ u.fld .fwStatErr 0 = 0 ∧ u.fuse = s.fuse ∧ Raised s u 0x01 0 0) ∧
  (∀ (s : State), s.fld .fwStatBusy 0 = 0 → (s.fw.bank (!s.fw.active)).valid = false →
    ∃ u, exec .revoke s = .next u ∧ u.fw = s.fw ∧ Raised s u 0x01 0 0 ∧
      ((∃ im ∈ (s.fw.bank s.fw.active).images, im.measure.slot = s.fld .fwKeySlot 0) → u.fuse = s.fuse ∧ u.fld .fwStatErr 0 = 7) ∧
      ((∀ im ∈ (s.fw.bank s.fw.active).images, im.measure.slot ≠ s.fld .fwKeySlot 0) → (∃ j, j < 4 ∧ j ≠ s.fld .fwKeySlot 0 ∧ bit s.fuse.revoked j = false) →
        u.fuse = { s.fuse with revoked := s.fuse.revoked ||| 2 ^ s.fld .fwKeySlot 0 } ∧ u.fld .fwStatErr 0 = 0)) ∧
  (∀ (s : State) (v : Nat), v % 2 = 1 → ∃ u, exec (.attestationReport v) s = .next u ∧ Raised s u 0x01 0 1 ∧ u.fuse = s.fuse ∧ u.fw = s.fw ∧ u.cays = s.cays ∧
      (∀ k m, s.pieces 0 (s.fld64 .attAddrLoAddr .attAddrHiAddr 0) 4352 true false false true = .ok [m] → m.1.dest = .hbm k → m.2 = 4352 →
        ∀ a, u.hbm.read a = if k ≤ a ∧ a < k + 4352 then s.report.getD (a - k) 0 else s.hbm.read a))

/-! ### Serving -/

/-- R262 to R270: the serving commands, each where it is accepted. -/
def Obligations.ServingCommands : Prop :=
  (∀ (s : State) (c q n i : Nat) (e : Entry) (p : Prog), s.entry c q n = some e → e.ripe 6 = true → e.op = 1 → s.prog c = some p → s.fld .srvCtlEn c = 1 →
    (bit (e.u 0x30 4) 23 && ((s.wgt c).model (s.served c).1).inplace) = false → p.pagesFor (e.u 0x34 4 + e.u 0x48 4) ≤ s.fld .srvMaxPagesPages c →
    (bits (e.u 0x30 4) 9 0 = 0x3FF ∨ (s.adapterNow c (bits (e.u 0x30 4) 9 0)).isSome = true) → s.freeReqSlot c = some i →
    ∃ u, exec (.admitRequest c q n) s = .next u ∧ Outcome u c q n 0 (i + (s.srv c).epoch i * 2 ^ 16) ∧ (u.srv c).req i = some (newReq e ((s.srv c).epoch i) (s.srv c).admits) ∧
      (u.srv c).admits = (s.srv c).admits + 1 ∧ (∀ j, j ≠ i → (u.srv c).req j = (s.srv c).req j) ∧ (∀ d, d ≠ c → u.srv d = s.srv d)) ∧
  (∀ (s : State) (c q n slot : Nat) (e : Entry) (r : Req), s.entry c q n = some e → e.ripe 6 = true → e.op = 2 → s.handle e = .req slot r → r.st = .reserved → r.cancels = [] → r.pauses = [] →
    r.pause = none → r.resume = none →
    ∃ u, exec (.cancel c q n) s = .next u ∧ Outcome u c q n 0 r.delivered ∧ (u.srv c).req slot = none ∧ (u.srv c).epoch slot = ((s.srv c).epoch slot + 1) % 2 ^ 16 ∧
      (∀ j, j ≠ slot → (u.srv c).req j = (s.srv c).req j) ∧ (u.srv c).evNum = (s.srv c).evNum + 1) ∧
  (∀ (s : State) (c q n slot : Nat) (e : Entry) (r : Req), s.entry c q n = some e → e.ripe 6 = true → e.op = 3 → s.handle e = .req slot r →
    (r.st ≠ .decode → ∃ u, exec (.pause c q n) s = .next u ∧ Outcome u c q n St.wrongState r.st.code ∧ u.srvs = s.srvs) ∧
    (r.st = .decode → s.stepping c = true → ∃ u, exec (.pause c q n) s = .next u ∧ (u.srv c).req slot =
      some { r with pauses := r.pauses ++ [⟨q, n, e.u 0x38 6, bits (e.u 0x40 4) 24 0, e.u 0x44 4⟩] } ∧ u.entry c q n = some { e with begun := true })) ∧
  (∀ (s : State) (c q n slot : Nat) (e : Entry) (r : Req), s.entry c q n = some e → e.ripe 6 = true → e.op = 4 → s.handle e = .req slot r → r.st = .paused → s.ptime ≤ r.deadline →
    r.crcs.length ≤ s.kvFree c →
    ∃ u r', exec (.resume c q n) s = .next u ∧ (u.srv c).req slot = some r' ∧ r'.st = .resuming ∧ r'.resume = some (q, n) ∧ r'.pages.length = r.pages.length + r.crcs.length ∧
      u.entry c q n = some { e with begun := true }) ∧
  (∀ (s : State) (c q n : Nat) (e : Entry), s.entry c q n = some e → e.ripe 6 = true → e.op = 5 →
    (s.stepping c = true → ∃ u, exec (.adapterInstall c q n) s = .next u ∧ (u.srv c).ops = (s.srv c).ops ++ [.install q n (bits (e.u 0x30 4) 9 0) (e.u 0x38 6) (e.u 0x40 4)] ∧
      u.entry c q n = some { e with begun := true }) ∧
    (s.stepping c = false → ((s.wgt c).images.any (fun i => i.shard.dva == e.u 0x38 6 && i.shard.bytes == e.u 0x40 4 && i.shard.arrived && !i.shard.invalid)) = true → s.allCopies.length < 1024 →
      ∃ u k a, exec (.adapterInstall c q n) s = .next u ∧ Outcome u c q n 0 0 ∧ (u.srv c).copies = (s.srv c).copies ++ [k] ∧ k.id = bits (e.u 0x30 4) 9 0 ∧ k.dva = e.u 0x38 6 ∧
        a ∈ (u.srv c).adapters ∧ a.id = k.id ∧ a.gen = k.gen ∧ a.live = true)) ∧
  (∀ (s : State) (c q n : Nat) (e : Entry), s.entry c q n = some e → e.ripe 6 = true → e.op = 6 → s.stepping c = false →
    (((s.srv c).adapters.any (fun a => a.id == bits (e.u 0x30 4) 9 0 && a.live)) = true → ∃ u, exec (.adapterRetire c q n) s = .next u ∧ Outcome u c q n 0 0 ∧
      (∀ a ∈ (u.srv c).adapters, a.id = bits (e.u 0x30 4) 9 0 → a.live = false) ∧ (u.srv c).copies = (s.srv c).copies) ∧
    (((s.srv c).adapters.any (fun a => a.id == bits (e.u 0x30 4) 9 0 && a.live)) = false → ∃ u, exec (.adapterRetire c q n) s = .next u ∧ Outcome u c q n St.adapterAbsent (bits (e.u 0x30 4) 9 0) ∧
      u.srvs = s.srvs))

/-- R247, R249 to R259: forming a step, running its tasks and its sampler, and its boundary. -/
def Obligations.ServingSteps : Prop :=
  (∀ (s : State) (c : Nat) (p : Prog) (f : Fill) (plan : List (Nat × List TokEnt)), s.prog c = some p → s.mayForm c = true → f = s.fill c p → f.wait = false → f.plan ≠ [] →
    plan = f.s.trim c p (f.s.grant c) ((f.plan.flatMap (fun x => x.2)).length + 1) f.plan → plan ≠ [] →
    ∃ u run, exec (.stepForm c) s = .next u ∧ (u.srv c).step = some run ∧ run.carried = plan.map (fun x => x.1) ∧ run.ents = plan.flatMap (fun x => x.2) ∧ run.placed = 0 ∧ run.status = 0 ∧
      run.sampled = none ∧ (u.srv c).dry = 0) ∧
  (∀ (s s1 u1 : State) (c t : Nat) (p : Prog) (r : StepRun) (d : List (BitVec 8)), s.prog c = some p → s.step? c = some r → r.status = 0 → r.task = none → r.placed < p.count →
    s1 = s.modStep c (fun x => { x with task := none, status := 0 }) → s1.dvaRead c (p.tasks + 80 * r.placed) 80 (stepOwner c) false = .ok d →
    (s1.dropReads (stepOwner c)).placeTask { mkTask d c 0 0 (.serving r.placed) false false with
      step := r.num % 2 ^ 32, islands := (mkTask d c 0 0 (.serving r.placed) false false).islands &&& s1.genIslands } = .ok u1 t →
    ∃ u, exec (.stepTaskStart c) s = .next u ∧ (u.srv c).step = some { r with task := some t, placed := r.placed + 1, status := 0 } ∧ (u.task t).st = .waiting ∧ u.hbm = s.hbm) ∧
  (∀ (s : State) (c : Nat) (p : Prog) (r : StepRun) (xs : List Sampled), s.prog c = some p → s.step? c = some r → r.status = 0 → r.sampled = none → r.task = none → p.count ≤ r.placed →
    s.drawAll c p r r.carried = .ok xs →
    ∃ u, exec (.samplerRun c) s = .next u ∧ u = { s with srvs := u.srvs, free := u.free } ∧ (u.srv c).step = some { r with sampled := some xs }) ∧
  (∀ (s : State) (c : Nat) (run : StepRun), s.step? c = some run → run.status = 0 → run.sampled.isSome = true → run.task = none → s.slotList c = [] → (s.srv c).ops = [] → run.num < 2 ^ 64 → c < 64 →
    ∃ u, exec (.stepBoundary c) s = .next u ∧ (u.srv c).step = none ∧ (u.srv c).ops = [] ∧ u.fld64 .srvStepLo .srvStepHi c = run.num ∧ Counted s u .splStepCnt 0) ∧
  (∀ (s : State) (c slot : Nat) (r : Req), 64 ≤ (s.srv c).dry → s.stepping c = false → (s.srv c).decodes = [(slot, r)] → (s.srv c).req slot = some r →
    ∃ u, exec (.kvPoolExhausted c) s = .next u ∧ (u.srv c).req slot = none ∧ (u.srv c).dry = 0 ∧ (u.srv c).epoch slot = ((s.srv c).epoch slot + 1) % 2 ^ 16 ∧
      (u.srv c).evNum = (s.srv c).evNum + 1)

/-- R264 to R275: the events of serving beside its steps, and its enables. -/
def Obligations.ServingEvents : Prop :=
  (∀ (s : State) (c slot : Nat) (r : Req) (k : PauseCmd) (bs : List (BitVec 8)), (s.srv c).req slot = some r → r.st = .pausing → r.pause = some k → r.cancels = [] →
    s.pageBytes c (promptOwner c slot) r.pages = .ok bs → (∀ e, s.entry c k.stream k.seq = some e → e.done = false ∧ e.point = none) → (s.entry c k.stream k.seq).isSome = true →
    ∃ u r', exec (.pauseCopyComplete c slot) s = .next u ∧ (u.srv c).req slot = some r' ∧ r'.st = .paused ∧ r'.pages = [] ∧ r'.pause = none ∧ r'.host = k.host ∧
      r'.deadline = s.ptime + 25000 * k.ttl ∧ Outcome u c k.stream k.seq 0 0) ∧
  (∀ (s : State) (c slot : Nat) (r : Req) (bs : List (BitVec 8)), (s.srv c).req slot = some r → r.st = .resuming → r.cancels = [] → r.resume = none →
    s.dvaRead c r.host (0x10000 * r.pages.length) (resumeOwner c slot) false = .ok bs → ((pagesOf r.pages.length bs).zip r.crcs).findIdx? (fun p => crc32c p.1 != p.2) = none →
    ∃ u, exec (.resumeCopyComplete c slot) s = .next u ∧ (u.srv c).req slot = some { r with st := .decode, resume := none, crcs := [] } ∧ (u.srv c).evNum = (s.srv c).evNum + 1) ∧
  (∀ (s : State) (c slot : Nat) (r : Req), c < 64 → (s.srv c).req slot = some r → r.st = .paused → r.deadline < s.ptime → r.cancels = [] → r.pauses = [] → r.pause = none → r.resume = none →
    ∃ u, exec (.pauseExpiry c slot) s = .next u ∧ (u.srv c).req slot = none ∧ Counted s u .srvExpiredCnt c ∧ Raised s u 0x23 c 2) ∧
  (∀ (s : State) (c i : Nat) (k : ACopy), (s.srv c).copies.find? (fun k => k.index == i) = some k → ((s.srv c).adapters.any (fun a => a.id == k.id && a.gen == k.gen && a.live)) = false →
    ((s.srv c).reqs.any (fun r => r.2.st != .reserved && r.2.acopy == i)) = false →
    ∃ u, exec (.adapterFreed c i) s = .next u ∧ (u.srv c).copies = (s.srv c).copies.filter (fun y => y.index != i) ∧ (u.srv c).evNum = (s.srv c).evNum + 1) ∧
  (∀ (s : State) (c : Nat) (e : SrvEv), (s.srv c).events.find? (fun e => !e.written || e.rew) = some e → s.run = .ready → e.num ≤ s.evConsumed c + s.evRing c →
    ∃ u out, exec (.requestEventWrite c) s = .next u ∧ u.outbox = s.outbox ++ [.completion c (s.fld64 .srvEvqBaseLoBase .srvEvqBaseHi c + 32 * ((e.num - 1) % s.evRing c)) (e.bytes (s.evRing c))] ++ out ∧
      u.hbm = s.hbm ∧ (∀ x ∈ (u.srv c).events, x.num = e.num → x.written = true ∧ x.rew = false)) ∧
  (∀ (s : State) (c v : Nat), v < 2 ^ 64 → s.evConsumed c ≤ v → (∃ e ∈ (s.srv c).events, e.written = true ∧ v ≤ e.num) →
    ∃ u, exec (.srvEvqConsumedWrite c v) s = .next u ∧ u.evConsumed c = v ∧ u = { s with regs := u.regs, srvs := u.srvs } ∧ (∀ e ∈ (u.srv c).events, v < e.num) ∧
      OnlyRegs s u [Fld.key .srvEvqConsumedLo c 0, Fld.key .srvEvqConsumedHi c 0]) ∧
  (∀ (s : State) (c v : Nat),
    (v % 2 = 0 → ∃ u, exec (.servingEnable c v) s = .next u ∧ u.fld .srvCtlEn c = 0 ∧ OnlyRegs s u [Fld.key .srvCtlEn c 0] ∧ u = { s with regs := u.regs }) ∧
    (v % 2 = 1 → s.fld .splCtlEn 0 = 1 → (s.prog c).isSome = true → ∃ u, exec (.servingEnable c v) s = .next u ∧ u.fld .srvCtlEn c = 1 ∧
      u.fld .srvCtlSpecMax c = (if bits v 7 5 ≤ 4 then bits v 7 5 else s.fld .srvCtlSpecMax c) ∧ OnlyRegs s u [Fld.key .srvCtlEn c 0] ∧ u = { s with regs := u.regs })) ∧
  (∀ (s : State) (v : Nat), v % 2 = 1 → s.fld .splCtlEn 0 = 0 → bits v 5 1 ≠ bits v 10 6 → s.placeable ⟨bits v 5 1, s.fld .splBaseABase 0, 32⟩ = true →
    s.placeable ⟨bits v 10 6, s.fld .splBaseBBase 0, 32⟩ = true → s.fld .jnlCtlEn 0 = 0 →
    ∃ u, exec (.servingStateEnable v) s = .next u ∧ u = { s with regs := u.regs } ∧ u.fld .splCtlEn 0 = 1 ∧ u.fld .splCtlStackA 0 = bits v 5 1 ∧ u.fld .splCtlStackB 0 = bits v 10 6 ∧
      OnlyRegs s u [Fld.key .splCtlEn 0 0, Fld.key .splStatPlaceErr 0 0])

/-! ### Learning -/

/-- R277 to R282, R334, R336, R337, R341: the learning records. -/
def Obligations.LearningRecords : Prop :=
  (∀ (s : State) (c q n : Nat) (e : Entry) (hd b : List (BitVec 8)), s.entry c q n = some e → e.ripe 7 = true → e.op = 3 → s.tgBusy c e.tg true = false →
    s.dvaRead c (e.u 0x38 6) 32 (.op 13 ((c * 16 + q) * 2 ^ 64 + n)) false = .ok hd → leAt hd 0 4 = 0x54475250 → 1 ≤ leAt hd 4 4 → leAt hd 4 4 ≤ 10240 →
    s.dvaRead c (e.u 0x38 6 + 32) (8 * leAt hd 4 4) (.op 13 ((c * 16 + q) * 2 ^ 64 + n)) false = .ok b →
    (s.tgroup c e.tg = none → s.tgs.length < 256 → ∃ u g, exec (.bind c q n) s = .next u ∧ Outcome u c q n 0 0 ∧ u.tgroup c e.tg = some g ∧ g.desc = e.u 0x38 6 ∧ g.mems.length = leAt hd 4 4 ∧
      g.sched = leAt hd 8 6 ∧ g.live = 0 ∧ g.root = 0 ∧ g.sealed = 0 ∧ g.rootGen = 0 ∧ g.sealRun = none ∧ (∀ c' t', ¬ (c' = c ∧ t' = e.tg) → u.tgroup c' t' = s.tgroup c' t')) ∧
    (∀ g, s.tgroup c e.tg = some g → ∃ u g', exec (.bind c q n) s = .next u ∧ Outcome u c q n 0 0 ∧ u.tgroup c e.tg = some g' ∧ g' = { g with desc := e.u 0x38 6, mems := g'.mems, sched := leAt hd 8 6 } ∧
      g'.mems.length = leAt hd 4 4 ∧ (∀ c' t', ¬ (c' = c ∧ t' = e.tg) → u.tgroup c' t' = s.tgroup c' t'))) ∧
  (∀ (s : State) (c q n : Nat) (e : Entry) (g : TGroup), s.entry c q n = some e → e.ripe 7 = true → e.op = 4 → s.tgroup c e.tg = some g →
    (e.u 0x34 4 = g.rootGen + 1 → g.publish = none → ∃ u, exec (.publish c q n) s = .next u ∧ Outcome u c q n 0 0 ∧ u.tgroup c e.tg = some { g with publish := some (g.rootGen + 1) } ∧
      (∀ c' t', ¬ (c' = c ∧ t' = e.tg) → u.tgroup c' t' = s.tgroup c' t')) ∧
    (e.u 0x34 4 ≠ g.rootGen + 1 ∨ g.publish.isSome = true → ∃ u, exec (.publish c q n) s = .next u ∧ Outcome u c q n St.publishRefused g.rootGen ∧ u.tgs = s.tgs)) ∧
  (∀ (s : State) (c q n : Nat) (e : Entry) (g : TGroup), s.entry c q n = some e → e.ripe 7 = true → e.op = 2 → s.tgroup c e.tg = some g → s.turnOnGroup c e.tg = none →
    (g.sealed < e.u 0x34 4 → g.decided (e.u 0x34 4 - 1) = true → g.sealRun = none → ∃ u, exec (.seal c q n) s = .next u ∧ u = { s with entries := u.entries, tgs := u.tgs } ∧
      u.entry c q n = some { e with begun := true } ∧ ∃ g', u.tgroup c e.tg = some g' ∧
        g'.sealRun = some ⟨q, n, e.u 0x34 4, e.u 0x38 4, e.u 0x3C 4, false, ⟨s.ptime, s.ptime, none, [], 0xFFFF, [], none⟩⟩ ∧ g' = { g with past := g'.past, sealRun := g'.sealRun }) ∧
    (e.u 0x34 4 ≤ g.sealed → ∃ u, exec (.seal c q n) s = .next u ∧ Outcome u c q n St.stepOrder g.sealed ∧ u.tgs = s.tgs)) ∧
  (∀ (s : State) (c q n : Nat) (e : Entry) (g : TGroup) (x : Seal), s.entry c q n = some e → e.ripe 7 = true → e.op = 5 → s.tgroup c e.tg = some g → g.sealRun = some x → x.step = e.u 0x34 4 →
    ∃ u, exec (.sealAbort c q n) s = .next u ∧ Outcome u c q n 0 0 ∧ u.tgroup c e.tg = some { g with sealRun := some { x with abortReq := true } }) ∧
  (∀ (s : State) (c q n : Nat) (e : Entry) (g : TGroup) (p : SProg), c < 64 → s.entry c q n = some e → e.ripe 7 = true → e.op = 1 → s.tgroup c (e.u 0x40 2) = some g → s.turn = none →
    g.sealed < e.u 0x34 4 → g.decided (e.u 0x34 4 - 1) = true →
    (s.runs.any (fun r => r.ctx == c && r.tgroup == e.u 0x40 2 && r.step == e.u 0x34 4 && (r.islands &&& bits (e.u 0x30 4) 23 0) != 0)) = false → s.readStage e = .ok p →
    ∃ u r, exec (.stageRun c q n) s = .next u ∧ r ∈ u.runs ∧ r.num = s.runNum ∧ u.runNum = s.runNum + 1 ∧ r.ctx = c ∧ r.stream = q ∧ r.seq = n ∧ r.step = e.u 0x34 4 ∧ r.tgroup = e.u 0x40 2 ∧
      r.islands = bits (e.u 0x30 4) 23 0 ∧ r.m = bits (e.u 0x44 4) 11 0 + 1 ∧ r.prog = p ∧ r.unit = 0 ∧ r.started = false ∧ r.task = none ∧ r.halves = [] ∧ u.fld .lrnStep c = e.u 0x34 4 ∧
      u.entry c q n = some { e with begun := true }) ∧
  (∀ (s : State) (c q n : Nat) (e : Entry) (g : TGroup), s.entry c q n = some e → e.ripe 7 = true → (e.op = 1 ∨ e.op = 2) → s.tgroup c (if e.op = 1 then e.u 0x40 2 else e.tg) = some g →
    g.decided (e.u 0x34 4 - 1) = false → s.sealHeld e (if e.op = 1 then e.u 0x40 2 else e.tg) (e.u 0x34 4 - 1) = false →
    ∃ u, exec (.stepOutOfOrder c q n) s = .next u ∧ Outcome u c q n St.stepOrder g.sealed ∧ u.tgs = s.tgs ∧ u.runs = s.runs)

/-- R283 to R288, R294, R295, R302: how a stage run goes on. -/
def Obligations.StageRuns : Prop :=
  (∀ (s : State) (k : Nat) (r : Run) (w : Bool × Nat), s.findRun k = some r → r.order[r.unit]? = some w → r.fail = none → r.started = false → (r.receives w = true → w ∈ r.recvd) →
    ∃ u r', exec (.stageUnitStart k) s = .next u ∧ u.findRun k = some r' ∧ r'.started = true ∧ r'.idx = 0 ∧ r'.unit = r.unit ∧ r'.task = r.task ∧ r'.halves = r.halves ∧ u.tasks = s.tasks) ∧
  (∀ (s s1 : State) (k t mb i : Nat) (fwd : Bool) (r : Run) (e : SEnt), s.findRun k = some r → r.fail = none → r.at = some (fwd, mb, i, e) → r.task = none → r.admitted = true → e.quant = false →
    s.placeTask (r.taskOf ((s.entry r.ctx r.stream r.seq).any (fun x => x.failInvalid)) mb i e false) = .ok s1 t →
    ∃ u r', exec (.stageEntryStart k) s = .next u ∧ u.findRun k = some r' ∧ r'.task = some t ∧ r'.idx = r.idx ∧ r'.unit = r.unit ∧ u = { s1 with runs := u.runs }) ∧
  (∀ (s : State) (k t mb i : Nat) (fwd : Bool) (r : Run) (e : SEnt), s.findRun k = some r → r.fail = none → r.at = some (fwd, mb, i, e) → r.task = some t → (s.task t).st = .ended → (s.task t).status = 0 →
    ((s.task t).spec = true → (s.task t).applied = true) →
    ∃ u r', exec (.stageEntryStart k) s = .next u ∧ u.findRun k = some r' ∧ r'.idx = i + 1 ∧ r'.task = none ∧ r'.unit = r.unit ∧ r'.wide = false ∧ r'.checked = false ∧ r'.unitId = r.unitId + 1 ∧
      r'.hold = (if e.handoff = true ∧ mb + 1 = r.m then r.hold ++ [(e.layer, false)] else r.hold)) ∧
  (∀ (s : State) (k : Nat) (r : Run) (w : Bool × Nat), s.findRun k = some r → r.fail = none → r.order[r.unit]? = some w → r.started = true → r.at = none →
    ∃ u r', exec (.stageEntryStart k) s = .next u ∧ u = { s with runs := u.runs } ∧ u.findRun k = some r' ∧ r'.unit = r.unit + 1 ∧ r'.started = false ∧ r'.idx = 0 ∧
      r'.halves = (if w.1 = false ∨ r.prog.bwd = [] then r.halves.filter (fun h => h.1 != w.2) else r.halves)) ∧
  (∀ (s : State) (k : Nat) (r : Run) (e : Entry), s.findRun k = some r → r.fail = none → r.order[r.unit]? = none → r.hold = [] → r.ctx < 64 →
    s.entry r.ctx r.stream r.seq = some e → e.done = false → e.point = none →
    ∃ u, exec (.stageEntryStart k) s = .next u ∧ u.findRun k = none ∧ Outcome u r.ctx r.stream r.seq 0 0) ∧
  (∀ (s : State) (k st d : Nat) (r : Run) (e : Entry), s.findRun k = some r → r.fail = some (st, d) → r.task = none → r.halves ≠ [] → r.ctx < 64 →
    s.entry r.ctx r.stream r.seq = some e → e.done = false → e.point = none →
    ∃ u, exec (.stageEntryStart k) s = .next u ∧ u.findRun k = none ∧ Outcome u r.ctx r.stream r.seq st d ∧ Counted s u .lrnOrphanCnt r.ctx 0 r.halves.length ∧ Raised s u 0x24 r.ctx 1) ∧
  (∀ (s : State) (k t mb i : Nat) (fwd : Bool) (r : Run) (e : SEnt), s.findRun k = some r → r.at = some (fwd, mb, i, e) → r.task = some t → (s.task t).spec = true → (s.task t).st = .ended →
    (s.task t).status = 0 → (s.task t).applied = false → r.checked = false → r.ctx < 64 →
    (quantCheck r.limits (s.task t) = 0 → ∃ u, exec (.quantCheck k) s = .next u ∧ u = { s with runs := u.runs } ∧ u.findRun k = some { r with checked := true }) ∧
    (quantCheck r.limits (s.task t) ≠ 0 → ∃ u r', exec (.quantCheck k) s = .next u ∧ u.findRun k = some r' ∧ r'.task = none ∧ r'.wide = true ∧ r'.idx = r.idx ∧ r'.fellAt fwd i = some mb ∧
      Counted s u .qntFallbackCnt r.ctx ∧ Raised s u 0x24 r.ctx 0)) ∧
  (∀ (s t : State) (k l : Nat) (counted : Bool) (rest : List (Nat × Bool)) (r : Run) (ly : SLayer) (o o' : Coll), s.findRun k = some r → r.hold = (l, counted) :: rest → r.prog.layers[l]? = some ly →
    r.ctx < 64 → o = collOf ly.coll r.ctx s.collNum (.handoff r.num l) →
    o' = { o with
      step := r.step, tgroup := r.tgroup, src := if r.m % 2 = 1 then ly.accA else ly.accB
      half := if o.op = 6 then 1 - ((s.tgroup r.ctx r.tgroup).map (fun g => g.live)).getD 0 else 0
      dst := o.dst + (if o.op = 6 then 1 - ((s.tgroup r.ctx r.tgroup).map (fun g => g.live)).getD 0 else 0) * leAt ly.coll 0x2C 4 } →
    s.openColl o' (leAt ly.coll 0x10 6) (bit (leAt ly.coll 0 4) 12) = .ok t → t.findRun k = some r →
    ∃ u, exec (.handOff k) s = .next u ∧ u.findRun k = some { r with hold := rest, handed := r.handed ++ [l] } ∧ Counted t u .lrnHandoffCnt r.ctx ∧ u = { t with runs := u.runs, regs := u.regs })

/-- R328 to R333, R338 to R340: seals, and the update pipe. -/
def Obligations.SealsAndUpdates : Prop :=
  (∀ (s : State) (c i r : Nat) (g : TGroup) (x : Seal) (me : TgMem) (v late : Bool), s.tgroup c i = some g → g.sealRun = some x → x.ballot.vote = none → s.sealVote g x = some (v, late) →
    s.voterRank (.sealOf c i x.step) = some (r, me) →
    ∃ u b, exec (.sealVote c i) s = .next u ∧ u.ballot (.sealOf c i x.step) = some b ∧ b.vote = some v ∧ b.asked = s.ptime ∧
      (r = 0 → u.engs = s.engs ∧ (x.ballot.votes = [] → b.votes = [(0, v)])) ∧
      (r ≠ 0 → ∃ m, (u.eng me.isl).outq = (s.eng me.isl).outq ++ [m] ∧ m.msg = 7 ∧ m.log = (if v then 1 else if late then 3 else 0) ∧ m.epoch = r ∧ m.tag = i ∧ m.chunk = x.step)) ∧
  (∀ (s s0 : State) (c i : Nat) (g : TGroup) (x : Seal) (me : TgMem) (b : Ballot), s.tgroup c i = some g → g.sealRun = some x → s0 = s.takeBallots (.sealOf c i x.step) →
    s0.voterRank (.sealOf c i x.step) = some (0, me) → s0.ballot (.sealOf c i x.step) = some b → b.decision = none →
    ((∀ j, j < (s0.voters (.sealOf c i x.step)).length → (j, true) ∈ b.votes) → (∀ j, (j, false) ∉ b.votes) →
      ∃ u, exec (.sealDecide c i) s = .next u ∧ u.ballot (.sealOf c i x.step) = some { b with decision := some true } ∧
        ∀ m ∈ s0.voters (.sealOf c i x.step), m.fab ≠ s0.fabId → ∃ y ∈ (u.eng me.isl).outq, y.msg = 8 ∧ y.dfab = m.fab ∧ y.dctx = m.ctx ∧ y.log = 1) ∧
    ((∃ j, (j, false) ∈ b.votes) →
      ∃ u, exec (.sealDecide c i) s = .next u ∧ u.ballot (.sealOf c i x.step) = some { b with decision := some false } ∧
        ∀ m ∈ s0.voters (.sealOf c i x.step), m.fab ≠ s0.fabId → ∃ y ∈ (u.eng me.isl).outq, y.msg = 8 ∧ y.dfab = m.fab ∧ y.dctx = m.ctx ∧ y.log = 0 ∧ y.epoch = b.firstAbort)) ∧
  (∀ (s s1 : State) (c i : Nat) (g g1 : TGroup) (x x1 : Seal) (e : Entry), c < 64 → s.tgroup c i = some g → g.sealRun = some x → s1 = s.takeBallots (.sealOf c i x.step) → s1.tgroup c i = some g1 →
    g1.sealRun = some x1 → x1.step = x.step → s.entry c x1.stream x1.seq = some e → e.done = false → e.point = none →
    (x1.ballot.decision = some true → ∃ u g', exec (.sealApply c i) s = .next u ∧ u.tgroup c i = some g' ∧ g'.sealed = x.step ∧ g'.live = 1 - g1.live ∧ g'.sealRun = none ∧
      g'.root = (if g1.publish.isSome then 1 - g1.root else g1.root) ∧ g'.rootGen = g1.publish.getD g1.rootGen ∧ g'.publish = none ∧ Outcome u c x1.stream x1.seq 0 0 ∧ Counted s u .sealCommitCnt c) ∧
    (x1.ballot.decision = some false → ∃ u g', exec (.sealApply c i) s = .next u ∧ u.tgroup c i = some g' ∧ g' = { g1 with sealRun := none, past := g'.past, acct := g'.acct } ∧
      Outcome u c x1.stream x1.seq St.sealAborted x1.ballot.firstAbort ∧ Counted s u .sealAbortCnt c ∧ Raised s u 0x25 c 0)) ∧
  (∀ (s s0 : State) (c i r : Nat) (g : TGroup) (x : Seal) (me : TgMem) (b : Ballot), s.tgroup c i = some g → g.sealRun = some x → s0 = s.takeBallots (.sealOf c i x.step) →
    s0.voterRank (.sealOf c i x.step) = some (r, me) → s0.ballot (.sealOf c i x.step) = some b → b.vote = some true → b.resolve.decision = none → b.asked + us (s.fld .sealTimeoutLimit c) ≤ s.ptime →
    ∃ u, exec (.sealTimeout c i) s = .next u ∧ u.ballot (.sealOf c i x.step) = some { b with asked := s.ptime } ∧ (b.asked ≠ b.began → Raised s u 0x25 c 1) ∧
      ∀ m ∈ s0.voters (.sealOf c i x.step), m.fab ≠ s0.fabId → ∃ y ∈ (u.eng me.isl).outq, y.msg = 9 ∧ y.dfab = m.fab ∧ y.dctx = m.ctx ∧ y.chunk = x.step) ∧
  (∀ (s s1 : State) (isl : Nat) (m : Msg), s.takeKind isl 9 = some (m, s1) →
    ∃ u y, exec (.sealQuery isl) s = .next u ∧ (u.eng isl).outq.getLast? = some y ∧ y.dfab = m.sfab ∧ y.disl = m.sisl ∧ y.tag = m.tag ∧ y.chunk = m.chunk ∧ y.msg = (s1.ballotAnswer m).2.1 ∧
      y.log = (s1.ballotAnswer m).2.2 ∧ (y.msg = 7 ∨ y.msg = 8)) ∧
  (∀ (s s1 s2 : State) (isl own c t i : Nat) (k : Coll) (g : TGroup) (grad : List (BitVec 8)) (rs : List URun) (r : URun) (p : PGroup) (x : TileIn), isl < 24 → k.ctx < 64 →
    s.nextTile isl = some (k, g, own, c, t, grad) → s.updateMap k = .ok rs → runOf rs t = some (r, i) → s.pgroup k g isl r.pgroup = .ok (s1, p) → s1.tileIn k g r i p grad = .ok x →
    (∀ o, updateTile p x = some o →
      s1.tileOut k ([(r.master + (1 - g.live) * r.half + 2112 * i, o.w), (r.moment + (1 - g.live) * r.half + 2112 * i, o.m), (k.dst + r.work + o.k.length * i, o.k)] ++
        (if p.mode = 1 then [(r.stats + (1 - g.live) * r.half + 8192 * i, o.stats)] else [])) = .ok s2 →
      ∃ u, exec (.updateTile isl) s = .next u ∧ u.hbm = s2.hbm ∧ (∃ k' ∈ u.colls, k'.num = k.num ∧ k'.tiles = k.tiles ++ [t]) ∧ Counted s2 u .updSatCnt isl 0 o.sats) ∧
    (updateTile p x = none → ∃ u, exec (.updateTile isl) s = .next u ∧ (∀ k' ∈ u.colls, k'.num ≠ k.num) ∧ Counted s u .updInvalidCnt isl ∧ Raised s u 0x18 isl 0))

/-! ### Collectives -/

/-- R310, R311, R321, R325, R326: collective records and CPOST. -/
def Obligations.CollectiveRecords : Prop :=
  (∀ (mk : Nat → Nat → Nat → Instr) (op : Nat),
    (mk, op) ∈ ([(.allReduce, 1), (.reduceScatter, 2), (.allGather, 3), (.broadcast, 4), (.receive, 5), (.reduceUpdateGather, 6)] : List ((Nat → Nat → Nat → Instr) × Nat)) →
    ∀ (s : State) (c q n half : Nat) (e : Entry) (k0 k : Coll), s.entry c q n = some e → e.ripe 3 = true → e.op = op → k0 = collOf (e.raw.drop 0x30) c s.collNum (.record q n) →
      (k0.tgroup ≠ 0xFFFF → s.tgroup c k0.tgroup = none → ∃ u, exec (mk c q n) s = .next u ∧ Outcome u c q n St.tgUnknown k0.tgroup ∧ u.colls = s.colls) ∧
      ((k0.tgroup = 0xFFFF ∨ (s.tgroup c k0.tgroup).isSome = true) → half = (if op = 6 then 1 - ((s.tgroup c k0.tgroup).map (fun g => g.live)).getD 0 else 0) →
        k = { k0 with half := half, dst := k0.dst + half * e.u 0x5C 4 } →
        (∀ t st d, (s.begin e).openColl k (e.u 0x40 6) (bit (e.u 0x30 4) 12) = .refuse t st d → ∃ u, exec (mk c q n) s = .next u ∧ Outcome u c q n st d ∧ u.colls = s.colls) ∧
        (∀ t, (s.begin e).openColl k (e.u 0x40 6) (bit (e.u 0x30 4) 12) = .ok t → (t.colls.any (fun x => x.num == s.collNum)) = true → (∀ x ∈ s.colls, x.num ≠ s.collNum) →
          ∃ u k', exec (mk c q n) s = .next u ∧ k' ∈ u.colls ∧ k'.num = s.collNum ∧ u.collNum = s.collNum + 1 ∧ k'.ctx = c ∧ k'.op = op ∧ k'.tag = e.u 0x38 6 ∧ k'.count = e.u 0x58 4 ∧
            k'.src = e.u 0x48 6 ∧ k'.dst = e.u 0x50 6 + half * e.u 0x5C 4 ∧ k'.owner = .record q n ∧ k'.open_ = k'.mask ∧ u.entry c q n = some { e with begun := true }))) ∧
  (∀ (s : State) (c q n : Nat) (e : Entry), s.entry c q n = some e → e.ripe 3 = true → e.op = 7 →
    (s.coll c (e.u 0x38 6) = none → ∃ u, exec (.collectiveAbort c q n) s = .next u ∧ Outcome u c q n 0 0 ∧ u.colls = s.colls) ∧
    (∀ k, s.coll c (e.u 0x38 6) = some k → k.owner ≠ .record q n → ∃ u, exec (.collectiveAbort c q n) s = .next u ∧ Outcome u c q n 0 0 ∧ (∀ x ∈ u.colls, x.num ≠ k.num) ∧
      (∀ i, i < 24 → bit k.open_ i = true → Counted s u .colAbortCnt i ∧ Raised s u 0x17 i 1) ∧
      (∀ m ∈ k.desc.members, m.fab ≠ s.fabId → ∃ y ∈ (u.eng (engineFor k.mask 0)).outq, y.msg = 5 ∧ y.tag = k.tag ∧ y.dfab = m.fab ∧ y.dctx = m.ctx ∧ y.chunk = 1))) ∧
  (∀ (s : State) (c : CayRef) (t ls : Nat) (f : SFields) (p : PostArgs), Issues s c t → Settled s c t [f.d, f.a, f.b] → f.rsv = 0 →
    p = postArgs (((s.cay c).thr t).reg f.a).toNat (((s.cay c).thr t).reg f.b).toNat (((s.cay c).thr t).reg f.d).toNat →
    s.lsOperand c.island (((s.cay c).thr t).reg f.a).toNat p.bytes 1 false = some ls → ls % 64 = 0 → p.bytes ≠ 0 → p.bytes % 64 = 0 → p.bytes ≤ 65536 →
    (s.cay c).pendingRange (s.cay c).issue ls p.bytes = false →
    (p.direct = true → (s.eng c.island).posts.length < 64 → ∃ u g, exec (.cpost c f) s = .next u ∧ u = { s with cays := u.cays, engs := u.engs } ∧
      (u.eng c.island).posts = (s.eng c.island).posts ++ [⟨(s.task ((s.cay c).thr t).task).ctx, p.tag, p.chunk, p.dfab, p.disl, g, false, false, 0, (s.cay c).lsRead ls p.bytes⟩] ∧
      (∀ i, i ≠ c.island → u.eng i = s.eng i) ∧ (u.cay c).thr t = ((s.cay c).thr t).next ∧ (u.cay c).ls = (s.cay c).ls) ∧
    (∀ k, p.direct = false → s.collAt c.island (s.task ((s.cay c).thr t).task).ctx p.tag = some k → s.postable k p = true → s.colls.find? (fun x => x.num == k.num) = some k → k.reduces = true →
      (∀ o, k.ownerOf p.chunk = some o → o.fab ≠ s.fabId) → (∀ v ∈ k.vals, v.chunk ≠ p.chunk) → p.chunk ∉ k.landed →
      ∃ u k' v, exec (.cpost c f) s = .next u ∧ u = { s with cays := u.cays, colls := u.colls } ∧ k' ∈ u.colls ∧ k' = { k with vals := k.vals ++ [v] } ∧ v.chunk = p.chunk ∧
        v.data = (s.cay c).lsRead ls p.bytes ∧ (u.cay c).thr t = ((s.cay c).thr t).next))

/-- R316 to R320, R324: what engines send and receive. -/
def Obligations.Chunks : Prop :=
  (∀ (s : State) (isl : Nat) (m : Msg) (rest : List Msg), (s.eng isl).outq = m :: rest →
    (m.dfab = s.fabId → ∃ u, exec (.chunkSend isl) s = .next u ∧ (u.eng isl).outq = rest ∧ (u.eng m.disl).inbox = (s.eng m.disl).inbox ++ [⟨m, none⟩] ∧ u = { s with engs := u.engs }) ∧
    (∀ i, m.dfab ≠ s.fabId → s.straitFor isl m.dfab = some i → s.fld .strInjCtlMode i = 0 → ∃ u, exec (.chunkSend isl) s = .next u ∧ (u.eng isl).outq = rest ∧
      u = { s with engs := u.engs, strs := u.strs } ∧
      Tbl.get noMsgs (u.str i).waiting (vcOf m (s.fld .strPeerFabricId i)) =
        Tbl.get noMsgs (s.str i).waiting (vcOf m (s.fld .strPeerFabricId i)) ++ [m] ++ Tbl.get noMsgs (s.str i).heldMsg (vcOf m (s.fld .strPeerFabricId i)))) ∧
  (∀ (s : State) (isl i sat : Nat) (k : Coll) (t : Tx) (bs : List (BitVec 8)), isl < 24 → k.ctx < 64 → (s.eng isl).outq = [] → (s.eng isl).relays = [] → (s.eng isl).posts = [] → s.turn = none → s.colls = [k] →
    k.tx = [t] → t.isl = isl → t.credit = true → t.out = false → t.acked = false → t.copy = [] → (∀ v w, ({ s with vts := v, vwait := w } : State).txVal k t = .ok bs sat) → t.dfab ≠ s.fabId → s.straitFor isl t.dfab = some i →
    s.fld .strInjCtlMode i = 0 →
    ∃ u m, exec (.chunkSend isl) s = .next u ∧ u.colls = [{ k with tx := [{ t with out := true, copy := bs }] }] ∧ m ∈ Tbl.get noMsgs (u.str i).waiting (vcOf m (s.fld .strPeerFabricId i)) ∧
      m.msg = 0 ∧ m.data = bs ∧ m.tag = k.tag ∧ m.chunk = t.chunk ∧ m.dfab = t.dfab ∧ m.attempt = t.attempt ∧ m.crc = m.sum ∧ u.hbm = s.hbm) ∧
  (∀ (s s1 : State) (isl : Nat) (x : InMsg), isl < 24 → s.takeMsg isl (fun m => m.msg == 0 && m.dfab == s.fabId) = some (x, s1) →
    (x.m.crc ≠ x.m.sum → ∃ u, exec (.dataChunkReceive isl) s = .next u ∧ u = { s1 with engs := u.engs, regs := u.regs, outbox := u.outbox } ∧ Counted s1 u .colCrcFailCnt isl ∧ Raised s1 u 0x17 isl 0 ∧
      u.fld .colCrcCaptValid isl = 1 ∧ (s1.fld .colCrcCaptValid isl ≠ 1 → u.fld .colCrcCaptCtx isl = x.m.dctx % 64) ∧
      ∃ y, (u.eng isl).outq = (s1.eng isl).outq ++ [y] ∧ y.msg = 3 ∧ y.tag = x.m.tag ∧ y.chunk = x.m.chunk ∧ y.attempt = x.m.attempt) ∧
    (∀ k r t, x.m.crc = x.m.sum → s1.stale isl x.m = false → s1.turn = none → s1.collAt isl x.m.dctx x.m.tag = some k → k.rx = [r] → r.isl = isl → r.chunk = x.m.chunk → r.lo = x.m.lo →
      r.log = x.m.log → r.sfab = x.m.sfab → r.got = false → k.reduces = false →
      ((s1.answer isl x 2).modColl k.num (fun y => { y with rx := y.rx.map (fun z => if z = r then { z with got := true } else z) })).land k isl x.m.chunk (k.landAt x.m.chunk x.m.data.length) x.m.data =
        .ok t →
      ∃ u k', exec (.dataChunkReceive isl) s = .next u ∧ k' ∈ u.colls ∧ k' = { k with rx := [{ r with got := true }], landed := k.landed ++ [x.m.chunk] } ∧
        (∃ y ∈ (u.eng isl).outq, y.msg = 2 ∧ y.chunk = x.m.chunk ∧ y.tag = x.m.tag) ∧
        (k.dstLs = true → (u.cay ⟨isl, k.dstCay⟩).ls = Memory.writeN (s1.cay ⟨isl, k.dstCay⟩).ls (k.dst + k.landAt x.m.chunk x.m.data.length) x.m.data ∧ u.hbm = s.hbm)) ∧
    (x.m.crc = x.m.sum → s1.stale isl x.m = false → s1.turn = none → s1.collAt isl x.m.dctx x.m.tag = none → ∃ u, exec (.dataChunkReceive isl) s = .next u ∧
      u = { s1 with engs := u.engs, regs := u.regs } ∧ Counted s1 u .colDupCnt isl ∧ ∃ y, (u.eng isl).outq = (s1.eng isl).outq ++ [y] ∧ y.msg = 2 ∧ y.chunk = x.m.chunk)) ∧
  (∀ (s s1 : State) (isl : Nat) (m : Msg), isl < 24 → s.takeKind isl 1 = some (m, s1) →
    (∀ k t, s1.sentTx isl m (fun k _ => k.ctx == m.dctx) = some (k, t) → ∃ u k', exec (.creditReceive isl) s = .next u ∧ u = { s1 with colls := u.colls } ∧ k' ∈ u.colls ∧ k'.num = k.num ∧
      { t with credit := true } ∈ k'.tx) ∧
    (s1.sentTx isl m (fun k _ => k.ctx == m.dctx) = none → (s1.eng isl).posts = [] → s1.collAt isl m.dctx m.tag = none →
      ((s1.eng isl).early.length < 256 → ∃ u, exec (.creditReceive isl) s = .next u ∧ (u.eng isl).early = (s1.eng isl).early ++ [m] ∧ u = { s1 with engs := u.engs }) ∧
      (256 ≤ (s1.eng isl).early.length → ∃ u y, exec (.creditReceive isl) s = .next u ∧ (u.eng isl).outq = (s1.eng isl).outq ++ [y] ∧ y.msg = 4 ∧ y.dfab = m.sfab ∧ y.chunk = m.chunk ∧
        Counted s1 u .colNotopenCnt isl))) ∧
  (∀ (s s1 : State) (isl : Nat) (m : Msg) (k : Coll) (t : Tx), s.takeKind isl 2 = some (m, s1) → s1.sentTx isl m (fun _ t => t.out && t.dctx == m.dctx) = some (k, t) →
    ∃ u k', exec (.ackReceive isl) s = .next u ∧ u = { s1 with colls := u.colls } ∧ k' ∈ u.colls ∧ k'.num = k.num ∧ { t with acked := true, out := false, copy := [] } ∈ k'.tx) ∧
  (∀ (s s1 : State) (isl : Nat) (m : Msg) (k : Coll) (t : Tx), isl < 24 → s.takeKind isl 3 = some (m, s1) → s1.sentTx isl m (fun _ t => t.out && t.dctx == m.dctx) = some (k, t) →
    (t.attempt < 8 → ∃ u k', exec (.nackReceive isl) s = .next u ∧ u = { s1 with colls := u.colls, regs := u.regs } ∧ k' ∈ u.colls ∧ k'.num = k.num ∧
      { t with attempt := t.attempt + 1, out := false } ∈ k'.tx ∧ Counted s1 u .colReplayCnt isl) ∧
    (8 ≤ t.attempt → ∃ u, exec (.nackReceive isl) s = .next u ∧ (∀ x ∈ u.colls, x.num ≠ k.num) ∧ Raised s1 u 0x17 isl 2 ∧ ∀ q n e, k.owner = .record q n → s1.entry k.ctx q n = some e → e.done = false →
      e.point = none → Outcome u k.ctx q n St.collAborted (2 * 2 ^ 28 + s1.fabId))) ∧
  (∀ (s : State) (isl ctx tag chunk lo log dfab : Nat), ∃ u, exec (.chunkAckTimeout isl ctx tag chunk lo log dfab) s = .next u ∧ u = { s with colls := u.colls, turn := u.turn, engs := u.engs } ∧
    (∀ k ∈ u.colls, k.ctx = ctx → k.tag = tag → ∀ t ∈ k.tx, t.isl = isl → t.chunk = chunk → t.lo = lo → t.log = log → t.dfab = dfab → t.out = false) ∧
    u.colls.map (fun k => k.tx.map (fun t => (t.chunk, t.attempt, t.acked, t.copy))) = s.colls.map (fun k => k.tx.map (fun t => (t.chunk, t.attempt, t.acked, t.copy)))) ∧
  (∀ (s s1 : State) (isl : Nat) (x : InMsg), isl < 24 → s.takeMsg isl (fun m => m.dfab != s.fabId) = some (x, s1) → x.m.msg = 0 → routeKind (s.route x.m.dfab) = 1 → x.m.crc = x.m.sum →
    (s.eng isl).relayed + x.m.data.length ≤ 2 ^ 21 →
    ∃ u y, exec (.chunkRelay isl) s = .next u ∧ u = { s1 with engs := u.engs, regs := u.regs } ∧ (u.eng isl).relays = (s1.eng isl).relays ++ [⟨x.m, false⟩] ∧
      (u.eng isl).outq = (s1.eng isl).outq ++ [y] ∧ y.msg = 2 ∧ y.chunk = x.m.chunk ∧ Counted s1 u .colRelayCnt isl)

/-- R313, R316, R322, R326, R327: grants, aborts, closing and reopening. -/
def Obligations.CollectiveEnds : Prop :=
  (∀ (s s1 : State) (isl : Nat) (m : Msg), s.takeKind isl 4 = some (m, s1) → ∃ u, exec (.notOpenReceive isl) s = .next u ∧ u = { s1 with colls := u.colls } ∧
    (∀ k ∈ u.colls, k.tag = m.tag → ∀ r ∈ k.rx, r.isl = isl → r.chunk = m.chunk → r.got = false → r.lo = m.lo → r.log = m.log → r.sfab = m.sfab → r.sctx = m.dctx → r.granted = false) ∧
    u.colls.map (fun k => k.rx.map (fun r => (r.chunk, r.got))) = s1.colls.map (fun k => k.rx.map (fun r => (r.chunk, r.got)))) ∧
  (∀ (s : State) (isl : Nat), isl < 24 → ∃ u, exec (.creditRegrant isl) s = .next u ∧ u.hbm = s.hbm ∧ u.regs = s.regs ∧
    ∀ k ∈ s.colls, bit k.open_ isl = true → ∀ r ∈ k.rx, r.isl = isl → r.granted = false → r.got = false → s.withheld k r = false →
      ∃ y ∈ (u.eng isl).outq, y.msg = 1 ∧ y.tag = k.tag ∧ y.dfab = r.sfab ∧ y.dctx = r.sctx ∧ y.disl = r.sisl ∧ y.chunk = r.chunk ∧ y.lo = r.lo ∧ y.log = r.log) ∧
  (∀ (s s1 : State) (isl : Nat) (m : Msg) (k : Coll), s.takeKind isl 5 = some (m, s1) → s1.turn = none →
    s1.colls.find? (fun k => k.tag == m.tag && (k.ctx == m.dctx || k.tx.any (fun t => t.dctx == m.dctx))) = some k →
    ∃ u, exec (.abortReceive isl) s = .next u ∧ (∀ x ∈ u.colls, x.num ≠ k.num) ∧ (∀ i, i < 24 → bit k.open_ i = true → Counted s1 u .colAbortCnt i ∧ Raised s1 u 0x17 i 1) ∧
      ∀ q n e, k.owner = .record q n → s1.entry k.ctx q n = some e → e.done = false → e.point = none → Outcome u k.ctx q n St.collAborted (m.chunk * 2 ^ 28 + m.sfab)) ∧
  (∀ (s s1 : State) (isl : Nat) (m : Msg), s.takeKind isl 6 = some (m, s1) →
    ∃ u, exec (.resyncReceive isl) s = .next u ∧
      (∀ i, i < 24 → Tbl.get natZero (u.eng i).peers (engKey m.sfab m.sisl) = m.epoch ∧
        ∀ x ∈ (u.eng i).inbox, ¬ (x.m.sfab = m.sfab ∧ x.m.sisl = m.sisl ∧ x.m.msg = 0 ∧ x.m.epoch < m.epoch)) ∧
      ∀ k, s1.coll m.dctx m.tag = some k → k.posted = false → ∃ k' ∈ u.colls, k'.num = k.num ∧ k'.tx.length = k.tx.length ∧
        ∀ t ∈ k'.tx, t.dfab = m.sfab → t.disl = m.sisl → t.credit = false ∧ t.out = false ∧ t.acked = false ∧ t.copy = []) ∧
  (∀ (s : State) (c tag isl : Nat) (k : Coll), isl < 24 → s.collAt isl c tag = some k → s.closable k isl = true →
    (k.open_ = 2 ^ isl → ∃ u, exec (.collectiveClose c tag isl) s = .next u ∧ (∀ x ∈ u.colls, x.num ≠ k.num) ∧
      ∀ q n e, k.owner = .record q n → s.entry c q n = some e → e.done = false → e.point = none → Outcome u c q n 0 0) ∧
    (k.open_ ≠ 2 ^ isl → ∃ u, exec (.collectiveClose c tag isl) s = .next u ∧ u = { s with colls := u.colls } ∧ { k with open_ := k.open_ - 2 ^ isl } ∈ u.colls)) ∧
  (∀ (s : State) (isl : Nat), isl < 24 → ∃ u, exec (.collectiveReopen isl) s = .next u ∧ (u.eng isl).epoch = ((s.eng isl).epoch + 1) % 2 ^ 32 ∧
    ∀ k ∈ s.colls, bit k.open_ isl = true → k.posted = false → ∀ m ∈ k.desc.members, m.fab ≠ s.fabId →
      ∃ y ∈ (u.eng isl).outq, y.msg = 6 ∧ y.tag = k.tag ∧ y.dfab = m.fab ∧ y.dctx = m.ctx ∧ y.epoch = ((s.eng isl).epoch + 1) % 2 ^ 32)

/-! ### Weights and storage -/

/-- R353, R358, R360, R361, R368, R369, R437: the weight operations, each where it is accepted. -/
def Obligations.WeightOperations : Prop :=
  (∀ (s s1 t t1 : State) (v : State × List Nat) (c q n i : Nat) (e : Entry) (m : Manifest) (xs ys : List Shard) (j : LoadJob), s.entry c q n = some e → e.ripe 4 = true → e.op = 1 →
    s.readManifest c (e.u 0x38 6) false (wgtOwner e) = .ok m → m.adapter = false → s.turn = none → s1 = s.dropReads (wgtOwner e) → s1.repairs c m = none → s1.updates c m = none →
    (m.inplace && ((s1.wgt c).model m.model).holds) = false → (List.range 4).find? (fun i => (((s1.wgt c).model m.model).slot i).st == .free) = some i → s1.fit c m.shards = .ok xs →
    s1.back c xs = some (t, ys) → j = loadJob e m (some i) .fresh ys →
    t1 = (t.modModel c m.model (fun y => { y.setSlot i ⟨.loading, m.gen, false, e.u 0x38 6, []⟩ with inplace := m.inplace })).addJob e j →
    t1.stoOpenAll c ((List.range ys.length).filterMap (fun i => (j.shards[i]?).map (fun x => (x.shard.target, x.shard.offset, x.shard.bytes)))) [] = .ok v →
    ∃ u, exec (.load c q n) s = .next u ∧ j ∈ u.loads ∧ j.ctx = c ∧ j.num = m.gen ∧ j.shards.length = ys.length ∧ ((u.wgt c).model m.model).slot i = ⟨.loading, m.gen, false, e.u 0x38 6, []⟩ ∧
      u.entry c q n = some { e with begun := true }) ∧
  (∀ (s s1 : State) (c q n i : Nat) (e : Entry) (m : Manifest), s.entry c q n = some e → e.ripe 4 = true → e.op = 1 → s.readManifest c (e.u 0x38 6) false (wgtOwner e) = .ok m → m.adapter = false →
    s.turn = none → s1 = s.dropReads (wgtOwner e) → s1.repairs c m = none → s1.updates c m = some i → s.stepping c = false →
    ∃ u j, exec (.load c q n) s = .next u ∧ u.loads = s.loads ++ [j] ∧ j.ctx = c ∧ j.stream = q ∧ j.seq = n ∧ j.kind = .inplace ∧ j.slot = some i ∧ j.num = m.gen ∧
      ((u.wgt c).model m.model).barrier = true ∧ u.hbm = s.hbm) ∧
  (∀ (s : State) (c q n i : Nat) (e : Entry) (x : Model), c < 64 → s.entry c q n = some e → e.ripe 4 = true → e.op = 2 → x = (s.wgt c).model e.model → x.evicted = false → x.slotOf e.gen = some i →
    (x.slot i).st = .ready → (s.served c).2 ≠ e.gen → ((s.served c).2 = 0 ∨ (s.served c).1 = e.model ∨ (s.srv c).reqs = []) →
    (s.stepping c = true → ∃ u, exec (.switch c q n) s = .next u ∧ (u.srv c).ops = (s.srv c).ops ++ [.switch q n e.model e.gen] ∧ u.wgts = s.wgts ∧ u.entry c q n = some { e with begun := true }) ∧
    (s.stepping c = false → ∃ u, exec (.switch c q n) s = .next u ∧ Outcome u c q n 0 0 ∧ u.served c = (e.model, e.gen) ∧ (((u.wgt c).model e.model).slot i).st = .serving ∧
      (∀ k, (s.served c).2 ≠ 0 → ((s.wgt c).model (s.served c).1).slotOf (s.served c).2 = some k → (((u.wgt c).model (s.served c).1).slot k).st = .retained))) ∧
  (∀ (s : State) (c q n : Nat) (e : Entry) (x : Model), s.entry c q n = some e → e.ripe 4 = true → e.op = 3 → x = (s.wgt c).model e.model →
    (∀ i, x.slotOf e.gen = some i → (x.slot i).st = .ready → ∃ u, exec (.drop c q n) s = .next u ∧ Outcome u c q n 0 0 ∧ ((u.wgt c).model e.model).slot i = GenSlot.reset ∧
      (∀ k, k ≠ i → ((u.wgt c).model e.model).slot k = x.slot k)) ∧
    (∀ i, x.slotOf e.gen = some i → ((x.slot i).st = .serving ∨ (x.slot i).st = .retained) → ∃ u, exec (.drop c q n) s = .next u ∧ Outcome u c q n St.genInUse (s.binders c e.gen) ∧ u.wgts = s.wgts) ∧
    (x.slotOf e.gen = none → ∃ u, exec (.drop c q n) s = .next u ∧ Outcome u c q n St.genNotReady 0 ∧ u.wgts = s.wgts)) ∧
  (∀ (s t : State) (c q n i : Nat) (e : Entry), s.entry c q n = some e → e.ripe 4 = true → e.op = 4 → ((s.wgt c).model e.model).slotOf e.gen = some i → (((s.wgt c).model e.model).slot i).st ≠ .loading →
    (s.hostReads.any (fun h => h.owner == wgtOwner e && h.failed)) = false →
    (s.verifyAll c (wgtOwner e) (((s.wgt c).model e.model).slot i).shards = (t, some none) → ∃ u, exec (.verify c q n) s = .next u ∧ Outcome u c q n 0 0 ∧ u.wgts = s.wgts) ∧
    (∀ k, s.verifyAll c (wgtOwner e) (((s.wgt c).model e.model).slot i).shards = (t, some (some k)) → ∃ u, exec (.verify c q n) s = .next u ∧ Outcome u c q n St.digestMismatch k ∧ u.wgts = s.wgts)) ∧
  (∀ (s : State) (c q n : Nat) (e : Entry), s.entry c q n = some e → e.ripe 4 = true →
    (e.op = 5 → ((s.wgt c).model e.model).evicted = false → ∃ u, exec (.pin c q n) s = .next u ∧ Outcome u c q n 0 0 ∧ (u.wgt c).model e.model = { (s.wgt c).model e.model with pins := 1 }) ∧
    (e.op = 5 → ((s.wgt c).model e.model).evicted = true → ∃ u, exec (.pin c q n) s = .next u ∧ Outcome u c q n St.modelEvicted e.model ∧ u.wgts = s.wgts) ∧
    (e.op = 6 → ∃ u, exec (.unpin c q n) s = .next u ∧ Outcome u c q n 0 0 ∧ (u.wgt c).model e.model = { (s.wgt c).model e.model with pins := 0, lastUse := s.ptime })) ∧
  (∀ (s : State) (c q n : Nat) (e : Entry), s.entry c q n = some e → e.ripe 4 = true → e.op = 7 →
    (∀ v, s.stoOpen c (e.u 0x30 1) (e.u 0x40 8) (e.u 0x48 8) = .ok v → ∃ u k, exec (.checkpointWrite c q n) s = .next u ∧ u.ckpts = s.ckpts ++ [k] ∧ k.ctx = c ∧ k.stream = q ∧ k.seq = n ∧
      k.target = e.u 0x30 1 ∧ k.src = e.u 0x38 6 ∧ k.bytes = e.u 0x48 8 ∧ k.digest = e.u 0x50 6 ∧ k.flush = bit (e.u 0x30 4) 23 ∧ k.done = 0 ∧ u.entry c q n = some { e with begun := true }) ∧
    (∀ cls, s.stoOpen c (e.u 0x30 1) (e.u 0x40 8) (e.u 0x48 8) = .error cls → ∃ u d, exec (.checkpointWrite c q n) s = .next u ∧ Outcome u c q n St.storageWrite d ∧ d / 2 ^ 28 = cls ∧
      d / 2 ^ 16 % 2 ^ 12 = e.u 0x30 1 ∧ u.ckpts = s.ckpts))

/-- R353 to R367: events of weights. -/
def Obligations.WeightEvents : Prop :=
  (∀ (s : State) (c q n i : Nat) (j : LoadJob) (x : LoadShard) (bs : List (BitVec 8)) (e : Entry), s.job c q n = some j → j.shards[i]? = some x → x.checked = false → x.shard.bytes ≤ x.landed →
    s.arrived j i x.shard = some bs → j.kind = .fresh → x.shard.host = none → s.entry c q n = some e → e.done = false → e.point = none →
    (some (sha3 bs) ≠ x.shard.digest → ∃ u, exec (.shardArrivalHash c q n i) s = .next u ∧ u.job c q n = none ∧ Outcome u c q n St.digestMismatch x.shard.index) ∧
    (some (sha3 bs) = x.shard.digest → (∃ k y, k ≠ i ∧ j.shards[k]? = some y ∧ y.checked = false) → ∃ u, exec (.shardArrivalHash c q n i) s = .next u ∧ u = { s with loads := u.loads } ∧
      u.job c q n = some { j with shards := setAt j.shards i { x with checked := true } }) ∧
    (∀ k, some (sha3 bs) = x.shard.digest → (∀ k y, k ≠ i → j.shards[k]? = some y → y.checked = true) → j.slot = some k → ∃ u, exec (.shardArrivalHash c q n i) s = .next u ∧ u.job c q n = none ∧
      Outcome u c q n 0 0 ∧ (((u.wgt c).model j.model).slot k).st = .ready ∧ (((u.wgt c).model j.model).slot k).shards = j.shards.map (fun y => { y.shard with arrived := true }) ∧
      ((u.wgt c).model j.model).top = max ((s.wgt c).model j.model).top j.num)) ∧
  (∀ (s : State) (c q n i : Nat) (j : LoadJob) (e : Entry), c < 64 → s.job c q n = some j → j.kind = .inplace → j.slot = some i → ((s.wgt c).model j.model).barrier = true → s.stepping c = false →
    j.held = true → (∀ k ∈ j.current, ∃ x, j.shards[k]? = some x ∧ x.checked = true) → j.layers.length ≤ j.layer + 1 → s.entry c q n = some e → e.done = false → e.point = none →
    ∃ u, exec (.inplaceLayerWrite c q n) s = .next u ∧ u.job c q n = none ∧ Outcome u c q n 0 0 ∧ ((u.wgt c).model j.model).barrier = false ∧ (((u.wgt c).model j.model).slot i).st = .serving ∧
      (((u.wgt c).model j.model).slot i).num = j.num ∧ (s.fld .wgtServeModel c = j.model → u.fld .wgtServeGen c = j.num % 2 ^ 32)) ∧
  (∀ (s : State) (c m k i : Nat) (x : Shard), c < 64 → s.fld .wgtWalkInterval c ≠ 0 → (((s.wgt c).model m).slot k).st ≠ .loading → (((s.wgt c).model m).slot k).shards[i]? = some x → x.pages ≠ [] →
    x.digest.isSome = true → s.shardPoison x = false → x.invalid = false →
    (some (sha3 (s.shardBytes x)) = x.digest → ∃ u, exec (.digestWalk c false m k i) s = .next u ∧ Counted s u .wgtWalkCnt c ∧ u = { s with regs := u.regs } ∧ OnlyRegs s u [Fld.key .wgtWalkCnt c 0]) ∧
    (some (sha3 (s.shardBytes x)) ≠ x.digest → ∃ u, exec (.digestWalk c false m k i) s = .next u ∧ Counted s u .wgtWalkCnt c ∧ Counted s u .wgtDigestFailCnt c ∧ Raised s u 0x26 c 0 ∧
      (((u.wgt c).model m).slot k).shards[i]? = some { x with invalid := true } ∧ u.fld .wgtSuspectValid c = 1)) ∧
  (∀ (s : State) (c m l : Nat) (o : ReadOwner), o = .op 9 ((c * 8 + m) * 2 ^ 16 + l) → s.layerShards c m l ≠ [] → l ∉ ((s.wgt c).model m).staged →
    (((s.wgt c).model m).staged.any (fun x => layerAfter (s.tieredLayers c m) x == l)) = true → (s.hostReads.any (fun h => h.owner == o && h.failed)) = false →
    ((∀ x ∈ s.layerShards c m l, ∃ bs, s.readShard c o x.2 = .ok bs) → ∃ u, exec (.tieredLayerStage c m l) s = .next u ∧ l ∈ ((u.wgt c).model m).staged ∧ (∀ h ∈ u.hostReads, h.owner ≠ o)) ∧
    ((∃ x ∈ s.layerShards c m l, ∃ w, s.readShard c o x.2 = .wait w) → ∃ u, exec (.tieredLayerStage c m l) s = .next u ∧ u.wgts = s.wgts ∧ u.hbm = s.hbm)) ∧
  (∀ (s : State) (c m n : Nat), c < 64 → (s.wgt c).want = some n → s.evictOrder c = [m] → s.fld .wgtQuotaPages c < s.wgtUsed c + n →
    ∃ u, exec (.modelEvict c) s = .next u ∧ (u.wgt c).want = none ∧ ((u.wgt c).model m).evicted = true ∧ (∀ i, i < 4 → ((u.wgt c).model m).slot i = GenSlot.reset) ∧ Counted s u .wgtEvictCnt c ∧
      Raised s u 0x26 c 2) ∧
  (∀ (s : State) (c m k : Nat), c < 64 → (((s.wgt c).model m).slot k).st = .retained → s.stepping c = false → ((s.served c).1 ≠ m ∨ s.binders c (((s.wgt c).model m).slot k).num = 0) →
    ∃ u, exec (.generationFree c m k) s = .next u ∧ ((u.wgt c).model m).slot k = GenSlot.reset ∧ (∀ i, i ≠ k → ((u.wgt c).model m).slot i = ((s.wgt c).model m).slot i) ∧ Raised s u 0x26 c 1)

/-- R432 to R438: commands and queue pairs of the storage ports. -/
def Obligations.StorageCommands : Prop :=
  (∀ (s : State) (p num c q n i : Nat) (data : List (BitVec 8)) (m : StoCmd) (j : LoadJob) (x : LoadShard) (dnr : Bool), p < 2 → (s.sto p).cmds.find? (fun m => m.num == num) = some m → m.op = .read →
    m.owner = .load c q n i → data.length = m.bytes → (s.sto p).todo = [] → s.job c q n = some j → j.shards[i]? = some x →
    ∃ u, exec (.storageCommandComplete p num 0 0 dnr data) s = .next u ∧ (∀ y ∈ (u.sto p).cmds, y.num ≠ num) ∧ Counted s u .stoCmdCnt p ∧
      ∃ j', u.job c q n = some j' ∧ j'.shards[i]? = some { x with landed := x.landed + m.bytes }) ∧
  (∀ (s : State) (p num sct sc : Nat) (data : List (BitVec 8)) (m : StoCmd) (dnr : Bool), p < 2 → (s.sto p).cmds.find? (fun m => m.num == num) = some m → ¬ (sct = 0 ∧ sc = 0) →
    (dnr = false → m.issues < 4 → (s.sto p).paused = false → ∃ u, exec (.storageCommandComplete p num sct sc dnr data) s = .next u ∧ { m with issues := m.issues + 1 } ∈ (u.sto p).cmds ∧
      Counted s u .stoRetryCnt p ∧ u.outbox = s.outbox ++ [.nvme p m.target m.queue num m.op.code (m.at_ / m.block) (m.bytes / m.block)]) ∧
    (∀ c q n k e, (dnr = true ∨ 4 ≤ m.issues) → m.owner = .ckpt c q n → s.ckpt c q n = some k → s.entry c q n = some e → e.done = false → e.point = none →
      ∃ u, exec (.storageCommandComplete p num sct sc dnr data) s = .next u ∧ u.ckpt c q n = none ∧ Counted s u .stoErrCnt p ∧ Raised s u 0x0A p 1 ∧
        Outcome u c q n St.storageWrite (1 * 2 ^ 28 + m.target * 2 ^ 16 + m.issues + (if dnr then 1 else 0) * 2 ^ 15 + sct % 8 * 2 ^ 12 + sc % 256 * 2 ^ 4))) ∧
  (∀ (s : State) (p target queue : Nat) (k : StoQp) (m : StoCmd), p < 2 → s.qp p target queue = some k → (s.sto p).cmds = [m] → m.target = target →
    (m.queue = queue → m.issues < 4 → ∃ u, exec (.queuePairFail p target queue false) s = .next u ∧ (u.sto p).cmds = [{ m with issues := m.issues + 1 }] ∧ Counted s u .stoRetryCnt p ∧
      u.qp p target queue = some { k with err := false, retries := 0 }) ∧
    (∀ c q n x e, m.owner = .ckpt c q n → s.ckpt c q n = some x → s.entry c q n = some e → e.done = false → e.point = none → ∃ u, exec (.queuePairFail p target queue true) s = .next u ∧
      (∀ y ∈ (u.sto p).qps, y.target ≠ target) ∧ (u.sto p).cmds = [] ∧ Outcome u c q n St.storageWrite (3 * 2 ^ 28 + target * 2 ^ 16 + m.issues))) ∧
  (∀ (s : State) (p target queue : Nat) (k : StoQp) (m : StoCmd), s.qp p target queue = some k → k.err = false → m ∈ (s.sto p).cmds → m.target = target → m.queue = queue →
    ∃ u, exec (.storageAckTimeout p target queue) s = .next u ∧ u = { s with stos := u.stos } ∧
      u.qp p target queue = some (if k.retries < 7 then { k with retries := k.retries + 1 } else { k with err := true }) ∧ (u.sto p).cmds = (s.sto p).cmds) ∧
  (∀ (s : State) (p target queue : Nat) (k : StoQp), s.qp p target queue = some k → (s.sto p).paused = false →
    ((∀ t, k.told = some t → t + us 50 ≤ s.ptime) → ∃ u, exec (.ceMarkedReceive p target queue) s = .next u ∧ u.outbox = s.outbox ++ [.cnp p target queue] ∧
      u.qp p target queue = some { k with told := some s.ptime }) ∧
    (∀ t, k.told = some t → s.ptime < t + us 50 → exec (.ceMarkedReceive p target queue) s = .next s)) ∧
  (∀ (s : State) (p target queue : Nat) (k : StoQp), p < 2 → s.qp p target queue = some k →
    ((∀ t, k.cut = some t → t + us 50 ≤ s.ptime) → ∃ u, exec (.cnpReceive p target queue) s = .next u ∧ Counted s u .stoCnpCnt p ∧
      u.qp p target queue = some { k with rate := k.rate / 2, cut := some s.ptime, rose := s.ptime }) ∧
    (∀ t, k.cut = some t → s.ptime < t + us 50 → ∃ u, exec (.cnpReceive p target queue) s = .next u ∧ Counted s u .stoCnpCnt p ∧ u = { s with regs := u.regs })) ∧
  (∀ (s : State) (p target queue : Nat) (k : StoQp), s.qp p target queue = some k → k.rose + us 55 ≤ s.ptime →
    ∃ u, exec (.rateRestore p target queue) s = .next u ∧ u = { s with stos := u.stos } ∧ u.qp p target queue = some { k with rate := min 1000000 (k.rate + 50000), rose := s.ptime }) ∧
  (∀ (s : State) (p num off len c q n : Nat) (m : StoCmd) (k : Ckpt) (bs : List (BitVec 8)), (s.sto p).cmds.find? (fun m => m.num == num && m.op == .write) = some m → m.owner = .ckpt c q n →
    s.ckpt c q n = some k → off + len ≤ m.bytes → s.dvaRead c (k.src + m.off + off) len (.op 8 num) true = .ok bs → (s.sto p).paused = false →
    ∃ u, exec (.rdmaReadRequest p num off len) s = .next u ∧ u.outbox = s.outbox ++ [.rdmaData p num off bs] ∧ u.ckpt c q n = some { k with sent := Memory.writeN k.sent (m.off + off) bs } ∧
      u = { s with ckpts := u.ckpts, outbox := u.outbox })

/-- R35, R430, R431, R435, R439: the storage ports themselves. -/
def Obligations.StoragePorts : Prop :=
  (∀ (s : State) (p v : Nat), p < 2 → ∃ u, exec (.storageEnable p v) s = .next u ∧ u.fld .stoCtlEn p = v % 2 ∧
    u.fld .stoCtlAckExp p = (if 8 ≤ bits v 12 8 ∧ bits v 12 8 ≤ 20 then bits v 12 8 else s.fld .stoCtlAckExp p) ∧
    (s.fld .stoCtlEn p = 1 → v % 2 = 0 → (u.sto p).qps = [] ∧ (u.sto p).cmds = [] ∧ (u.sto p).todo = []) ∧ (v % 2 = 1 → u = { s with regs := u.regs })) ∧
  (∀ (s : State) (p : Nat), p < 2 → (∃ u, exec (.storageLinkDown p) s = .next u ∧ u.fld .stoStatLink p = 0 ∧ (s.fld .stoStatLink p = 1 → Raised s u 0x0A p 0)) ∧
    ((s.sto p).failed = false → ∃ u, exec (.storageLinkUp p) s = .next u ∧ u.fld .stoStatLink p = 1 ∧ u = { s with regs := u.regs })) ∧
  (∀ (s : State) (p prio : Nat),
    (prio ≠ s.fld .stoIpCtlPcp p → ∀ pause, exec (.priorityFlowControlFrame p prio pause) s = .next s) ∧
    (prio = s.fld .stoIpCtlPcp p → (∃ u, exec (.priorityFlowControlFrame p prio true) s = .next u ∧ (u.sto p).paused = true ∧ u.outbox = s.outbox) ∧
      (∃ u, exec (.priorityFlowControlFrame p prio false) s = .next u ∧ (u.sto p).paused = false ∧ (u.sto p).held = [] ∧ u.outbox = s.outbox ++ (s.sto p).held))) ∧
  (∀ (s : State) (p : Nat), (s.sto p).paused = false → s.fld .stoIpCtlIpv6 p = 0 →
    (∃ u, exec (.arpNdRequest p false (s.fld (Fld.stoIp.nth 0) p)) s = .next u ∧ u = { s with outbox := s.outbox ++ [.arpReply p] }) ∧
    (∀ a, a ≠ s.fld (Fld.stoIp.nth 0) p → exec (.arpNdRequest p false a) s = .next s)) ∧
  (∀ (s : State) (p target : Nat) (k : StoQp), s.qp p target 0 = some k → (s.sto p).paused = false → ∃ u, exec (.keepAlive p target) s = .next u ∧
    u = { s with outbox := s.outbox ++ [.keepAlive p target] }) ∧
  (∀ (s : State) (p target queue : Nat), p < 2 →
    (∀ b, s.qp p target queue = none → ∃ u, exec (.storagePacketDrop p target queue b) s = .next u ∧ Counted s u .stoDropCnt p ∧ u = { s with regs := u.regs }) ∧
    (∀ k, s.qp p target queue = some k → ∃ u, exec (.storagePacketDrop p target queue true) s = .next u ∧ Counted s u .stoDropCnt p ∧ u.qp p target queue = some { k with err := true })) ∧
  (∀ (s : State), ∃ u, exec .storagePortHardwareFailure s = .next u ∧ ∀ p, p < 2 → (u.sto p).failed = true ∧ (u.sto p).qps = [] ∧ (u.sto p).cmds = [] ∧ u.fld .stoStatLink p = 0)

/-! ### Turns and straits -/

/-- R372 to R379, R409: turns. -/
def Obligations.Turns : Prop :=
  (∀ (s : State) (c q n : Nat) (e : Entry) (t : Turn), s.entry c q n = some e → e.ripe 5 = true → s.turn = some t → ∃ u, exec (.turn c q n) s = .next u ∧ Outcome u c q n St.turnInProgress t.ctx ∧
    u.turn = some t) ∧
  (∀ (s : State) (c q n : Nat) (e : Entry) (r : TurnRec) (refuse : Nat → State) (d : GroupDesc) (mp : List MapEnt × Nat) (mf : List Shard × Bool) (sl : State × Option Nat × Bool × List Shard),
    s.entry c q n = some e → e.ripe 5 = true → s.turn = none → e.turnFields = true → r = e.turnRec → refuse = (fun k => (s.dropReads (turnOwner e)).endOp e St.turnRefused k) →
    s.turnGroup e r.group refuse = .ok d → s.turnMap e r.map d.ents.length refuse = .ok mp → s.turnManifest e r refuse = .ok mf →
    (r.map ≠ 0 → coversShards mp.1 (fun i => (d.ents[i]?).any (fun x => x.fab == s.fabId)) mf.1 = true) →
    ((r.map = 0 ∧ r.tg = 0xFFFF) ∨ ((s.tgroup c r.tg).isSome = true ∧ s.tgBusy c r.tg false = false)) →
    (∀ x ∈ s.runs, ∀ i, i < 24 → bit x.islands i = true → bits r.roles (2 * i + 1) (2 * i) = 0 ∨ bits r.roles (2 * i + 1) (2 * i) = 2) → s.turnSlot e r mf.1 mf.2 refuse = .ok sl →
    ∃ u t, exec (.turn c q n) s = .next u ∧ u.turn = some t ∧ t.ctx = c ∧ t.stream = q ∧ t.seq = n ∧ t.phase = 2 ∧ t.entered = s.ptime ∧ t.fail = false ∧ t.tag = r.tag ∧ t.dir = r.dir ∧
      t.fabric = r.fabric ∧ t.switch = r.switch ∧ t.model = r.model ∧ t.tgroup = r.tg ∧ t.gen = r.gen ∧ t.roles = r.roles ∧ t.straits = r.straits ∧ t.route = r.route ∧ t.desc = d ∧
      t.shards = sl.2.2.2 ∧ t.slot = sl.2.1 ∧ t.ballot.vote = none ∧ t.ballot.decision = none ∧ u.entry c q n = some { e with begun := true }) ∧
  (∀ (s : State) (t : Turn), s.turn = some t → t.phase = 2 → t.fail = false → (∀ p ∈ t.tx, p.done = true) → (∀ p ∈ t.rx, p.done = true) →
    ∃ u, exec .turnRelayDone s = .next u ∧ u = { s with regs := u.regs, turn := some { t with phase := 3, entered := s.ptime } } ∧
      u.fld .turnRelayUs 0 = min ((s.ptime - t.entered) / us 1) (2 ^ 32 - 1) ∧ OnlyRegs s u [Fld.key .turnRelayUs 0 0]) ∧
  (∀ (s : State) (t : Turn), s.turn = some t → t.phase = 3 → (∀ c, c < 64 → s.stepping c = false) → ∃ u, exec .turnQuietDone s = .next u ∧
    u.turn = some { t with phase := if t.fabric then 4 else 6, entered := s.ptime } ∧ (t.fabric = true → Raised s u 0x07 0 0) ∧ (t.fabric = false → u.regs = s.regs)) ∧
  (∀ (s : State) (t : Turn) (v : Nat), s.turn = some t → t.phase = 4 → v % 2 = 1 → ∃ u, exec (.turnGo t.ctx v) s = .next u ∧ u.turn = some { t with phase := 5, entered := s.ptime } ∧
    ∀ i, i < 24 → bit t.straits i = true → (u.str i).noResume = true ∧ (s.fld .strStatState i = 6 → u.fld .strStatState i = 2)) ∧
  (∀ (s : State) (t : Turn), s.turn = some t → t.phase = 5 → s.straitsBack t = true →
    ((t.routed = true ∨ (s.readImage t.route t.ctx).2 = some true) → ∃ u, exec .turnRetrainDone s = .next u ∧ u.turn = some { t with phase := 6, entered := s.ptime, routed := true }) ∧
    (t.routed = false → (s.readImage t.route t.ctx).2 = some false → ∃ u, exec .turnRetrainDone s = .next u ∧ u.turn = some { t with fail := true, cause := 4 })) ∧
  (∀ (s : State) (t : Turn) (r : Nat) (me : TgMem), s.turn = some t → t.ballot.vote = none → s.voterRank .turnOf = some (r, me) →
    (t.fail = false → t.phase = 6 → ∃ u t', exec .turnVote s = .next u ∧ u.turn = some t' ∧ t'.ballot.vote = some true ∧ t'.phase = 6 ∧
      (r ≠ 0 → ∃ m, (u.eng me.isl).outq = (s.eng me.isl).outq ++ [m] ∧ m.msg = 7 ∧ m.log = 1 ∧ m.epoch = r)) ∧
    (t.fail = true → ∃ u t', exec .turnVote s = .next u ∧ u.turn = some t' ∧ t'.ballot.vote = some false ∧ t'.phase = 6 ∧ t'.cause = t.cause ∧
      (r ≠ 0 → ∃ m, (u.eng me.isl).outq = (s.eng me.isl).outq ++ [m] ∧ m.msg = 7 ∧ m.log = 0 ∧ m.epoch = r)) ∧
    (t.fail = false → t.phase ≠ 5 → t.phase ≠ 6 → t.ballot.began + s.turnLimit ≤ s.ptime → ∃ u t', exec .turnVote s = .next u ∧ u.turn = some t' ∧ t'.ballot.vote = some false ∧ t'.fail = true ∧
      t'.cause = 2)) ∧
  (∀ (s s1 : State) (t : Turn) (e : Entry), s.turn.isSome = true → s1 = (s.decideBallot .turnOf).takeBallots .turnOf → s1.turn = some t → s1.entry t.ctx t.stream t.seq = some e → e.done = false →
    e.point = none →
    (t.ballot.decision = some true → ∃ u, exec .turnApply s = .next u ∧ u.turn = none ∧ Outcome u t.ctx t.stream t.seq 0 0 ∧ Counted s1 u .turnCnt 0 ∧
      ∀ i, i < 24 → u.role i = (match bits t.roles (2 * i + 1) (2 * i) with | 0 => s1.role i | 1 => 1 | 2 => 2 | _ => 0)) ∧
    (t.ballot.decision = some false → ∃ u, exec .turnApply s = .next u ∧ u.turn = none ∧ Counted s1 u .turnAbortCnt 0 ∧ Raised s1 u 0x07 0 1 ∧ u.roles = s1.roles ∧
      Outcome u t.ctx t.stream t.seq St.turnAborted ((if t.fail then t.cause else if t.ballot.firstAbort = 0xFFFF then 2 else 1) * 2 ^ 28 + t.ballot.firstAbort))) ∧
  (∀ (s s0 : State) (r : Nat) (me : TgMem) (b : Ballot), s0 = s.takeBallots .turnOf → s0.voterRank .turnOf = some (r, me) → s0.ballot .turnOf = some b → b.vote = some true →
    b.resolve.decision = none → b.asked + s.turnLimit ≤ s.ptime →
    ∃ u, exec .turnTimeout s = .next u ∧ u.ballot .turnOf = some { b with asked := s.ptime } ∧
      ∀ m ∈ s0.voters .turnOf, m.fab ≠ s0.fabId → ∃ y ∈ (u.eng me.isl).outq, y.msg = 9 ∧ y.lo = 1 ∧ y.dfab = m.fab ∧ y.dctx = m.ctx) ∧
  (∀ (s : State) (c m k i : Nat) (x : Shard), (((s.wgt c).model m).slot k).shards[i]? = some x → (((s.wgt c).model m).slot k).built = true → (((s.wgt c).model m).slot k).st ≠ .loading →
    (((s.wgt c).model m).slot k).st ≠ .free → x.digest = none → x.host = none → s.shardPoison x = false →
    ∃ u, exec (.builtDigestRecord c m k i) s = .next u ∧ (((u.wgt c).model m).slot k).shards[i]? = some { x with digest := some (sha3 (s.shardBytes x)) } ∧
      ∀ j, j ≠ i → (((u.wgt c).model m).slot k).shards[j]? = (((s.wgt c).model m).slot k).shards[j]?)

/-- R386 to R390, R394: the states of a strait. -/
def Obligations.StraitTraining : Prop :=
  (∀ (s : State) (i lanes : Nat), i < 24 → 8 ≤ ones 16 lanes →
    (s.fld .strStatState i = 1 → ∃ u, exec (.straitLightDetect i lanes) s = .next u ∧ u.fld .strStatState i = 2 ∧ (u.str i).light = lanes % 2 ^ 16 ∧ OnlyRegs s u [Fld.key .strStatState i 0] ∧
      u = { s with regs := u.regs, strs := u.strs }) ∧
    (s.fld .strStatState i = 2 → ∃ u, exec (.straitLock i lanes) s = .next u ∧ u.fld .strStatState i = 3 ∧ u.fld .strLanesRxGood i = lanes % 2 ^ 16 ∧ u = { s with regs := u.regs })) ∧
  (∀ (s : State) (i : Nat) (skew oma : List Nat), i < 24 → s.fld .strStatState i = 3 → ∃ u, exec (.straitDeskew i skew oma) s = .next u ∧ u.fld .strStatState i = 4 ∧
    (∀ l, l < 16 → u.fld .strLaneStatLock i (1 + l) = (if bit (s.fld .strLanesRxGood i) l then 1 else 0)) ∧ u = { s with regs := u.regs, outbox := u.outbox } ∧
    u.outbox = s.outbox ++ [.frame i (u.identity i), .frame i (u.identity i), .frame i (u.identity i)]) ∧
  (∀ (s : State) (i : Nat) (f : List (BitVec 8)), i < 24 → s.fld .strStatState i = 4 → frameType f = 3 → frameGood f = true →
    ((s.str i).ident = (f.drop 16).take 64 → 2 ≤ (s.str i).same → leAt ((f.drop 16).take 64) 0 4 = 0x53545249 → ∃ u, exec (.identityFrame i f) s = .next u ∧ u.fld .strStatState i = 5) ∧
    ((s.str i).ident ≠ (f.drop 16).take 64 → ∃ u, exec (.identityFrame i f) s = .next u ∧ u = { s with strs := u.strs } ∧ (u.str i).ident = (f.drop 16).take 64 ∧ (u.str i).same = 1)) ∧
  (∀ (s : State) (i : Nat), i < 24 → s.fld .strStatState i = 5 →
    (s.peerReason i = 0 → ∃ u, exec (.straitCheck i) s = .next u ∧ u.fld .strStatState i = 6 ∧ u.fld .strPeerValid i = 1 ∧ u.fld .strPeerFabricId i = bits (leAt (s.str i).ident 4 2) 13 0 ∧
      u.fld .strPeerStrait i = bits (leAt (s.str i).ident 6 1) 4 0 ∧ u.fld .strStatReason i = 0 ∧ Raised s u 0x16 i 0 ∧ (u.str i).waiting = (s.str i).waiting) ∧
    (s.peerReason i ≠ 0 → ∃ u, exec (.straitCheck i) s = .next u ∧ u.fld .strStatState i = 7 ∧ u.fld .strStatReason i = s.peerReason i ∧ Raised s u 0x16 i 2 ∧ u.strs = s.strs)) ∧
  (∀ (s : State) (i : Nat), i < 24 →
    (s.fld .strStatState i = 2 → ∃ u, exec (.straitStateBoundExpiry i) s = .next u ∧ u.fld .strStatState i = 1 ∧ Counted s u .strLockFailCnt i ∧ u = { s with regs := u.regs }) ∧
    (s.fld .strStatState i = 3 ∨ s.fld .strStatState i = 4 → ∃ u, exec (.straitStateBoundExpiry i) s = .next u ∧ u.fld .strStatState i = 2 ∧ OnlyRegs s u [Fld.key .strStatState i 0])) ∧
  (∀ (s : State) (i : Nat) (v : Nat), i < 24 → s.fld .strStatState i = 6 → v % 2 = 1 → ∃ u, exec (.straitRetrain i) s = .next u ∧ exec (.straitRetrainGo i v) s = .next u ∧ u.fld .strStatState i = 2 ∧
    u.fld .strPeerValid i = 0 ∧ Counted s u .strRetrainCnt i ∧ Raised s u 0x16 i 1 ∧ (u.str i).kept = true ∧ (u.str i).unacked = (s.str i).unacked ∧ (u.str i).rxSeq = (s.str i).rxSeq ∧
    ∃ b out, u.outbox = s.outbox ++ [.frame i b] ++ out ∧ b = s.frameOf i 4 0 false false 0 []) ∧
  (∀ (s : State) (i v : Nat), i < 24 → s.fld .strStatState i = 7 →
    (v % 2 = 1 → ∃ u, exec (.straitRetrainGo i v) s = .next u ∧ u.fld .strStatState i = 1 ∧ u.fld .strStatReason i = 0 ∧ u = { s with regs := u.regs }) ∧
    (∃ u, exec (.straitLightLost i) s = .next u ∧ u.fld .strStatState i = 1 ∧ u.fld .strStatReason i = 0 ∧ (u.str i).light = 0)) ∧
  (∀ (s : State) (i v : Nat), i < 24 → ∃ u, exec (.straitEnable i v) s = .next u ∧ u.fld .strCtlEn i = v % 2 ∧ u.fld .strCtlReplayTimeout i = (if bits v 15 8 = 0 then s.fld .strCtlReplayTimeout i else bits v 15 8) ∧
    (v % 2 = 1 → s.fld .strStatState i = 0 → s.islOff i = false → s.strTripped i = false → u.fld .strStatState i = 1) ∧ (v % 2 = 1 → s.fld .strStatState i ≠ 0 → u.fld .strStatState i = s.fld .strStatState i) ∧
    (v % 2 = 0 → u.fld .strStatState i = 0) ∧ (v % 2 = 0 → s.fld .strStatState i = 6 → Raised s u 0x16 i 1 ∧ u.fld .strPeerValid i = 0))

/-- R391 to R398, R404 to R406, R399: link frames and the route table. -/
def Obligations.StraitFrames : Prop :=
  (∀ (s : State) (i : Nat) (f : List (BitVec 8)), i < 24 → s.fld .strStatState i = 6 →
    (frameGood f = true → frameType f = 1 → leAt f 4 2 % 2 ^ 12 = ((s.str i).rxSeq + 1) % 2 ^ 12 → bit (leAt f 0 4) 24 = false → ∃ u, exec (.dataFrameReceive i f) s = .next u ∧
      u = { s with strs := u.strs } ∧ (u.str i).rxSeq = leAt f 4 2 % 2 ^ 12 ∧ (u.str i).nacked = false ∧
      (u.str i).part = (if bit (leAt f 0 4) 25 then [] else (s.str i).part) ++ (f.drop 16).take (bits (leAt f 0 4) 12 0)) ∧
    (∀ m, frameGood f = true → frameType f = 1 → leAt f 4 2 % 2 ^ 12 = ((s.str i).rxSeq + 1) % 2 ^ 12 → bit (leAt f 0 4) 24 = true → bit (leAt f 0 4) 25 = true →
      m = parseMsg ((f.drop 16).take (bits (leAt f 0 4) 12 0)) →
      ((m.dfab = s.fabId ↔ bits (leAt f 0 4) 27 26 ≠ 2) → ∃ u, exec (.dataFrameReceive i f) s = .next u ∧ u = { s with strs := u.strs, engs := u.engs } ∧ (u.str i).part = [] ∧
        (u.eng (if m.dfab = s.fabId then m.disl else i)).inbox =
          (s.eng (if m.dfab = s.fabId then m.disl else i)).inbox ++ [⟨m, some (i, bits (leAt f 0 4) 27 26, frameUnits (bits (leAt f 0 4) 12 0))⟩]) ∧
      (¬ (m.dfab = s.fabId ↔ bits (leAt f 0 4) 27 26 ≠ 2) → ∃ u, exec (.dataFrameReceive i f) s = .next u ∧ u.engs = s.engs ∧ Counted s u .strMisrouteCnt i)) ∧
    (frameGood f = false → ∃ u, exec (.dataFrameReceive i f) s = .next u ∧ Counted s u .strCrcErrCnt i ∧ (u.str i).nacked = true ∧ (u.str i).rxSeq = (s.str i).rxSeq ∧ u.engs = s.engs ∧
      u.outbox = s.outbox ++ (if (s.str i).nacked then [] else [.frame i (s.frameOf i 2 0 false false 0 [])]))) ∧
  (∀ (s : State) (i : Nat) (f : List (BitVec 8)), i < 24 → s.fld .strStatState i = 6 → frameGood f = true →
    (frameType f = 0 → ∃ u, exec (.idleFrameReceive i f) s = .next u ∧ u = { s with strs := u.strs } ∧ (u.str i).unacked = ackFrames (s.str i).unacked (leAt f 6 2 % 2 ^ 12) ∧
      Tbl.get natZero (u.str i).granted 0 = leAt f 8 2 ∧ Tbl.get natZero (u.str i).granted 1 = leAt f 10 2 ∧ Tbl.get natZero (u.str i).granted 2 = leAt f 12 2 ∧ (u.str i).rxSeq = (s.str i).rxSeq) ∧
    (frameType f = 4 → ∃ u, exec (.retrainRequestFrame i f) s = .next u ∧ u.fld .strStatState i = 2 ∧ Counted s u .strRetrainCnt i ∧ Raised s u 0x16 i 1) ∧
    (∀ k, frameType f = 2 → ackFrames (s.str i).unacked (leAt f 6 2 % 2 ^ 12) = [k] → (s.str i).streak < 15 →
      ∃ u, exec (.nackFrameReceive i f) s = .next u ∧ Counted s u .strReplayCnt i ∧ u.outbox = s.outbox ++ [.frame i (s.frameOf i 1 k.vc k.first k.last k.seq k.data)] ∧
        (u.str i).unacked = [k] ∧ u.fld .strStatState i = 6)) ∧
  (∀ (s : State) (i : Nat) (k : Frame), i < 24 → s.fld .strStatState i = 6 → (s.str i).unacked = [k] → (s.str i).streak < 15 → ∃ u, exec (.frameReplayTimeout i) s = .next u ∧
    Counted s u .strReplayCnt i ∧ u.outbox = s.outbox ++ [.frame i (s.frameOf i 1 k.vc k.first k.last k.seq k.data)] ∧ (u.str i).streak = (s.str i).streak + 1 ∧ u.fld .strStatState i = 6) ∧
  (∀ (s : State) (i : Nat), i < 24 → s.fld .strStatState i = 6 →
    ((s.str i).load.cur = none → ∃ u, exec (.frameSend i) s = .next u ∧ u.outbox = s.outbox ++ [.frame i (u.frameOf i 0 0 false false 0 [])] ∧ u = { s with strs := u.strs, outbox := u.outbox }) ∧
    (∀ c, (s.str i).load.cur = some c → s.fld .strInjCtlMode i = 0 → (s.str i).heldFrame = none → frameUnits (c.rest.take 4096).length ≤ (s.str i).load.credit c.vc →
      (s.str i).unacked.length < 2047 → ((s.str i).unacked.map (fun f => f.data.length + 20)).sum + (c.rest.take 4096).length + 20 ≤ 2 ^ 20 →
      ∃ u, exec (.frameSend i) s = .next u ∧ u = { s with strs := u.strs, outbox := u.outbox } ∧
        u.outbox = s.outbox ++ [.frame i (u.frameOf i 1 c.vc c.first (c.rest.drop 4096).isEmpty (s.str i).txSeq (c.rest.take 4096))] ∧
        (u.str i).unacked = (s.str i).unacked ++ [⟨(s.str i).txSeq, c.vc, c.first, (c.rest.drop 4096).isEmpty, c.rest.take 4096⟩] ∧ (u.str i).txSeq = ((s.str i).txSeq + 1) % 2 ^ 12)) ∧
  (∀ (s : State) (v : Nat) (b : List (BitVec 8)), v % 2 = 1 → s.dvaRead 0 (s.fld64 .rtImageLoAddr .rtImageHiAddr 0) 65600 routeOwner false = .ok b →
    (s.imageErr b = 0 → ∃ u, exec (.routeLoad v) s = .next u ∧ (∀ d, d < 16384 → u.route d = leAt b (64 + 4 * d) 4) ∧ Counted s u .rtLoadCnt 0 ∧ Raised s u 0x08 0 0 ∧ u.fld .rtCtlLoad 0 = 0) ∧
    (s.imageErr b ≠ 0 → ∃ u, exec (.routeLoad v) s = .next u ∧ u.routes = s.routes ∧ u.fld .rtStatErr 0 = s.imageErr b ∧ Raised s u 0x08 0 1 ∧ u.fld .rtCtlLoad 0 = 0)) ∧
  (∀ (s : State) (v : Nat) (sys : Bool), (s.fld .fabLockLock 0 = 1 → exec (.fabIdWrite sys v) s = .next s) ∧
    (s.fld .fabLockLock 0 = 0 → ∃ u, exec (.fabIdWrite sys v) s = .next u ∧ u = { s with regs := u.regs } ∧ (sys = false → u.fld .fabIdId 0 = v % 2 ^ 14) ∧ (sys = true → u.fld .fabSystem 0 = v % 2 ^ 32) ∧
      ∀ i, i < 24 → u.fld .strStatState i = (if s.fld .strStatState i = 7 then 1 else s.fld .strStatState i))) ∧
  (∀ (s : State) (v : Nat), v % 2 = 1 → ∃ u, exec (.fabLock v) s = .next u ∧ u.fld .fabLockLock 0 = 1 ∧ u = { s with regs := u.regs } ∧ OnlyRegs s u [Fld.key .fabLockLock 0 0]) ∧
  (∀ (s : State) (v : Nat), entryErr s.fabId (s.fld .rtIndexIndex 0) (v % 2 ^ 32) s.route = 0 → ∃ u, exec (.rtEntryWrite v) s = .next u ∧ u = { s with routes := u.routes } ∧
    u.route (s.fld .rtIndexIndex 0) = v % 2 ^ 32 ∧ ∀ d, d ≠ s.fld .rtIndexIndex 0 → u.route d = s.route d)

/-! ### Causeway and registers -/

/-- R35, R416 to R418, R558: the states of the Causeway. -/
def Obligations.CausewayTraining : Prop :=
  (∀ (s : State) (lanes : Nat), 8 ≤ ones 16 lanes → s.run ≠ .off → s.cw.failed = false → s.ports.ir ≠ .laneLb → s.fld .cwStatState 0 = 1 →
    ∃ u, exec (.cwSignalDetect lanes) s = .next u ∧ u.fld .cwStatState 0 = 2 ∧ OnlyRegs s u [Fld.key .cwStatState 0 0] ∧ u = { s with regs := u.regs }) ∧
  (∀ (s : State) (lanes : Nat), s.fld .cwStatState 0 = 2 → (lanes % 2 ^ 16 = 0xFFFF ∨ bits lanes 7 0 = 0xFF ∨ bits lanes 15 8 = 0xFF) →
    ∃ u, exec (.cwLock lanes) s = .next u ∧ u.fld .cwStatState 0 = 3 ∧ u = { s with regs := u.regs, cw := u.cw } ∧
      u.cw = { s.cw with width := if lanes % 2 ^ 16 = 0xFFFF then 16 else 8 }) ∧
  (∀ (s : State) (order : Nat), s.fld .cwStatState 0 = 3 → order ≤ 1 →
    ∃ u, exec (.cwAlign order) s = .next u ∧ u.fld .cwStatState 0 = 4 ∧ u.fld .cwStatReversed 0 = order ∧ u = { s with regs := u.regs, cw := { s.cw with peer := none } }) ∧
  (∀ (s : State) (offer : Bool) (width : Nat), s.cw.peer = some (offer, width) → width ≠ 0 → s.fld .cwStatState 0 = 4 →
    ∃ u, exec .cwConfig s = .next u ∧ u.fld .cwStatState 0 = 5 ∧ u.fld .cwStatWidth8 0 = (if s.cw.width = 8 ∨ width = 8 then 1 else 0) ∧
      u.fld .cwStatResumed 0 = (if offer = true ∧ s.cw.kept = true then 1 else 0) ∧ u.cw.kept = true ∧ u.hbm = s.hbm ∧
      (offer = true → s.cw.kept = true → ∃ out, u.outbox = s.outbox ++ s.cw.unacked.map (fun p => .packet (s.cwBytes p.1 p.2)) ++ out) ∧
      (¬ (offer = true ∧ s.cw.kept = true) → u.cw.rxSeq = 0 ∧ ∀ e ∈ u.entries, e.owed = [])) ∧
  (∀ (s : State),
    (s.fld .cwStatState 0 = 2 → ∃ u, exec .cwStateBoundExpiry s = .next u ∧ u.fld .cwStatState 0 = 1 ∧ u = { s with regs := u.regs }) ∧
    (s.fld .cwStatState 0 = 3 ∨ s.fld .cwStatState 0 = 4 → ∃ u, exec .cwStateBoundExpiry s = .next u ∧ u.fld .cwStatState 0 = 2 ∧ OnlyRegs s u [Fld.key .cwStatState 0 0])) ∧
  (∀ (s : State),
    (s.fld .cwStatState 0 = 5 → ∃ u, exec .cwRetrain s = .next u ∧ u.fld .cwStatState 0 = 2 ∧ Counted s u .cwRetrainCnt 0 ∧ Raised s u 0x09 0 0 ∧
      u.cw = { s.cw with kept := true, streak := 0, peer := none } ∧ u.hbm = s.hbm) ∧
    (s.fld .cwStatState 0 ≠ 5 → exec .cwRetrain s = .next s)) ∧
  (∀ (s : State) (v : Nat),
    (v % 2 = 1 → s.fld .cwStatState 0 = 5 → ∃ u, exec (.cwRetrainWrite v) s = .next u ∧ u.fld .cwStatState 0 = 2 ∧ Counted s u .cwRetrainCnt 0 ∧ Raised s u 0x09 0 0) ∧
    (v % 2 = 0 → ∃ u, exec (.cwRetrainWrite v) s = .next u ∧ u = { s with regs := u.regs } ∧ u.fld .cwStatState 0 = s.fld .cwStatState 0 ∧
      u.fld .cwCtlReplayTimeout 0 = (if bits v 15 8 = 0 then s.fld .cwCtlReplayTimeout 0 else bits v 15 8))) ∧
  (∀ (s : State), s.fld .cwStatState 0 ≠ 0 → ∃ u, exec .cableUnplug s = .next u ∧ u.fld .cwStatState 0 = 1 ∧ u.cw.unacked = s.cw.unacked ∧ (s.fld .cwStatState 0 = 5 → Raised s u 0x09 0 0)) ∧
  (∀ (s : State), ∃ u, exec .causewayHardwareFailure s = .next u ∧ u.fld .cwStatState 0 = 0 ∧ u.cw = { s.cw with failed := true, kept := false, peer := none } ∧ u = { s with regs := u.regs, cw := u.cw })

/-- R419 to R426, R503: packets between the module and its host. -/
def Obligations.CausewayPackets : Prop :=
  (∀ (s : State) (b : List (BitVec 8)), s.fld .cwStatState 0 = 5 → cwType b ≠ 0 → s.fld .cwInjCtlMode 0 = 0 → s.cw.heldRx = none →
    (cwGood b = true → bits (leAt b 0 4) 23 12 = (s.cw.rxSeq + 1) % 2 ^ 12 → cwType b = 0x13 → bits (leAt b 4 4) 9 0 = b.length - 20 → bits (leAt b 4 4) 21 16 = 0 →
      ∀ k, s.memPlace 0 (leAt b 8 8) (b.length - 20) true = .hbm k →
        ∃ u, exec (.causewayPacketReceive b) s = .next u ∧ u.cw.rxSeq = bits (leAt b 0 4) 23 12 ∧ u.cw.nacked = false ∧ u.hbmBytes k (b.length - 20) = (b.drop 16).take (b.length - 20)) ∧
    (cwGood b = false → s.cw.taken = s.outbox.length → s.cw.queue = [] → ∃ u, exec (.causewayPacketReceive b) s = .next u ∧ Counted s u .cwCrcErrCnt 0 ∧ u.cw.nacked = true ∧
      u.cw.rxSeq = s.cw.rxSeq ∧ u.hbm = s.hbm ∧ u.outbox = s.outbox ++ (if s.cw.nacked then [] else [.packet (s.cwControl true)]))) ∧
  (∀ (s : State) (b : List (BitVec 8)), cwGood b = true → cwType b = 0 →
    (s.fld .cwStatState 0 = 5 → bit (leAt b 4 4) 28 = false → s.cw.taken = s.outbox.length → s.cw.queue = [] → s.cw.streak < 7 → ∃ u, exec (.linkControlReceive b) s = .next u ∧
      (∀ k, s.cw.unacked.findIdx? (fun p => p.1 == leAt b 0 2 % 2 ^ 12) = some k → u.cw.unacked = s.cw.unacked.drop (k + 1)) ∧
      (s.cw.unacked.findIdx? (fun p => p.1 == leAt b 0 2 % 2 ^ 12) = none → u.cw.unacked = s.cw.unacked) ∧
      Tbl.get natZero u.cw.granted 0 = leAt b 8 2 ∧ Tbl.get natZero u.cw.granted 1 = leAt b 10 2 ∧ Tbl.get natZero u.cw.granted 2 = leAt b 12 2 ∧
      (bit (leAt b 4 4) 31 = true → Counted s u .cwReplayCnt 0 ∧ u.outbox = s.outbox ++ u.cw.unacked.map (fun p => .packet (s.cwBytes p.1 p.2))) ∧
      (bit (leAt b 4 4) 31 = false → u.outbox = s.outbox ∧ u.regs = s.regs)) ∧
    (s.fld .cwStatState 0 = 5 → bit (leAt b 4 4) 28 = true → ∃ u, exec (.linkControlReceive b) s = .next u ∧ u.fld .cwStatState 0 = 2 ∧ Raised s u 0x09 0 0) ∧
    (s.fld .cwStatState 0 = 4 → bit (leAt b 4 4) 28 = true → ∃ u, exec (.linkControlReceive b) s = .next u ∧
      u.cw.peer = some (bit (leAt b 4 4) 29, if bits (leAt b 4 4) 27 26 = 1 then 8 else if bits (leAt b 4 4) 27 26 = 2 then 16 else 0) ∧ u.regs = s.regs)) ∧
  (∀ (s : State), s.fld .cwStatState 0 = 5 → s.cw.taken = s.outbox.length → s.cw.queue = [] →
    (∃ u out, exec .linkControlSend s = .next u ∧ u.outbox = s.outbox ++ [.packet (s.cwControl false)] ++ out ∧ u.fld .cwStatReady 0 = (if s.cwReady then 1 else 0)) ∧
    (s.cw.unacked ≠ [] → s.cw.streak < 7 → ∃ u, exec .cwReplayTimeout s = .next u ∧ Counted s u .cwReplayCnt 0 ∧ u.cw.streak = s.cw.streak + 1 ∧
      u.outbox = s.outbox ++ s.cw.unacked.map (fun p => .packet (s.cwBytes p.1 p.2)))) ∧
  (∀ (s : State) (tag st : Nat) (data : List (BitVec 8)) (g : CwTag) (h : HostRead), s.cw.tags = [g] → g.tag = tag → g.data = none → s.hostRead g.read = some h →
    (st = 0 → g.off = 0 → h.addr % 4 = 0 → h.len % 4 = 0 → g.len = h.len → data.length = h.len → ∃ u h', exec (.readResponse tag st data) s = .next u ∧ u.hostRead g.read = some h' ∧
      h' = { h with data := some data } ∧ u.cw.tags = [] ∧ u = { s with hostReads := u.hostReads, cw := u.cw }) ∧
    (∀ k n, st ≠ 0 → h.owner = .op k n → k ≠ 3 → ∃ u, exec (.readResponse tag st data) s = .next u ∧ u.hostRead g.read = some { h with failed := true } ∧ u.cw.tags = [] ∧
      u = { s with hostReads := u.hostReads, cw := u.cw })) ∧
  (∀ (s : State) (ctx tag off len : Nat), ctx < 64 →
    (s.regPacketStatus ctx off len ≠ 0 → ∃ u, exec (.registerReadPacket ctx tag off len) s = .next u ∧ u = { s with outbox := s.outbox ++ [.response ctx tag (s.regPacketStatus ctx off len) []] }) ∧
    (s.regPacketStatus ctx off len = 0 → ∃ u, exec (.registerReadPacket ctx tag off len) s = .next u ∧ u.outbox = s.outbox ++ [.response ctx tag 0 (leBytes 4 (s.regRead ctx off).2)] ∧ u.hbm = s.hbm)) ∧
  (∀ (s : State) (ctx off : Nat) (data : List (BitVec 8)), ctx < 64 →
    (s.serves = false → ∃ u, exec (.registerWritePacket ctx off data) s = .next u ∧ Counted s u .cwNotreadyCnt 0 ∧ u = { s with regs := u.regs } ∧ OnlyRegs s u [Fld.key .cwNotreadyCnt 0 0]) ∧
    (s.serves = true → s.regPacketStatus ctx off data.length ≠ 0 → ∃ u, exec (.registerWritePacket ctx off data) s = .next u ∧ Counted s u .cwDropCnt 0 ∧ Raised s u 0x09 0 1 ∧
      u.fld .cwDropCaptValid 0 = 1 ∧ (s.fld .cwDropCaptValid 0 ≠ 1 → u.fld .cwDropCaptStatus 0 = s.regPacketStatus ctx off data.length ∧ u.fld .cwDropCaptCtx 0 = ctx)) ∧
    (s.serves = true → s.regPacketStatus ctx off data.length = 0 → pageExists off = true → s.ownWrite ctx off (leNat data) = none → ∃ u, exec (.registerWritePacket ctx off data) s = .next u ∧
      exec (.genericRegisterWrite ctx off (leNat data)) s = .next u)) ∧
  (∀ (s : State) (ctx tag addr len : Nat), ctx < 64 →
    (∀ k, s.memPlace ctx addr len false = .hbm k → ∃ u, exec (.memoryRead ctx tag addr len) s = .next u ∧ u.hbm = s.hbm ∧
      (s.poisoned k len = false → u = { s with outbox := s.outbox ++ [.response ctx tag 0 (s.hbmBytes k len)] }) ∧
      (s.poisoned k len = true → u.outbox = s.outbox ++ [.response ctx tag 5 []] ∧ Counted s u .memPoisonReadCnt (stackOf k))) ∧
    (s.run ≠ .ready → ∃ u, exec (.memoryRead ctx tag addr len) s = .next u ∧ u = { s with outbox := s.outbox ++ [.response ctx tag 1 []] })) ∧
  (∀ (s : State) (ctx addr : Nat) (data : List (BitVec 8)), ctx < 64 →
    (∀ k, s.memPlace ctx addr data.length true = .hbm k → ∃ u, exec (.memoryWrite ctx addr data) s = .next u ∧ u.hbmBytes k data.length = data ∧
      (∀ b, b < k ∨ k + data.length ≤ b → Memory.read u.hbm b = Memory.read s.hbm b) ∧ u = { s with hbm := u.hbm, ics := u.ics, regs := u.regs, poison := u.poison }) ∧
    (s.serves = false → ∃ u, exec (.memoryWrite ctx addr data) s = .next u ∧ Counted s u .cwNotreadyCnt 0 ∧ u.hbm = s.hbm))

/-- R17, R19, R117, R135, R537, R538, R542, R543: the register commands. -/
def Obligations.Registers : Prop :=
  (∀ (s : State) (ctx off v k : Nat), off % 4 = 0 → v < 2 ^ 32 → s.mayAccess ctx off = true → pageExists off = true → (hasHeader off = true → 0x040 ≤ off % 2 ^ 12) → s.ownWrite ctx off v = none →
    s.regKey ctx off = some k → pairLo rwPairs off = none → pairHi rwPairs off = none → s.ignores ctx off = false →
    s.wordOk off (putFields ctx (s.pageOff (off / 2 ^ 20) (pageInstance off)) (fieldsAt off) (s.reg k).toNat v) = true →
    ∃ u, exec (.genericRegisterWrite ctx off v) s = .next u ∧ u = { s with regs := u.regs } ∧ OnlyRegs s u [k] ∧ ∀ f ∈ fieldsAt off,
      bits (u.reg k).toNat f.hi f.lo = (match f.acc with
        | .rw | .rwl => if fieldTakes f (bits v f.hi f.lo) = true then bits v f.hi f.lo else bits (s.reg k).toNat f.hi f.lo
        | .rwOwner => if ctx = 0 ∧ fieldTakes f (bits v f.hi f.lo) = true then bits v f.hi f.lo else bits (s.reg k).toNat f.hi f.lo
        | .w1c => if s.pageOff (off / 2 ^ 20) (pageInstance off) = true then bits (s.reg k).toNat f.hi f.lo
                  else bits (s.reg k).toNat f.hi f.lo - (bits (s.reg k).toNat f.hi f.lo &&& bits v f.hi f.lo)
        | _ => bits (s.reg k).toNat f.hi f.lo)) ∧
  (∀ (s : State) (ctx page v : Nat), page % 2 ^ 12 = 0 → page < 0x3C * 2 ^ 20 → v < 2 ^ 32 → s.mayAccess ctx page = true → pageExists page = true →
    (∃ u, exec (.genericRegisterWrite ctx (page + 0x030) v) s = .next u ∧ u = { s with regs := u.regs } ∧ OnlyRegs s u [page + 0x030] ∧ (u.reg (page + 0x030)).toNat = v) ∧
    (∃ u, exec (.genericRegisterWrite ctx (page + 0x014) v) s = .next u ∧ u = { s with regs := u.regs } ∧ OnlyRegs s u [page + 0x014] ∧
      (u.reg (page + 0x014)).toNat = v % 2 ^ nevt (page / 2 ^ 20)) ∧
    (s.pageOff (page / 2 ^ 20) (page / 2 ^ 12 % 256) = false → ∃ u, exec (.genericRegisterWrite ctx (page + 0x010) v) s = .next u ∧ u = { s with regs := u.regs } ∧ OnlyRegs s u [page + 0x010] ∧
      ∀ n, (u.reg (page + 0x010)).toNat.testBit n = ((s.reg (page + 0x010)).toNat.testBit n && !v.testBit n))) ∧
  (∀ (s : State) (ctx off v k : Nat) (p : Fld × Fld), off % 4 = 0 → v < 2 ^ 32 → s.mayAccess ctx off = true → pageExists off = true → (hasHeader off = true → 0x040 ≤ off % 2 ^ 12) →
    s.ownWrite ctx off v = none → s.regKey ctx off = some k → (p.1.acc ≠ .rwOwner ∨ ctx = 0) →
    (pairLo rwPairs off = some p → ∃ u, exec (.genericRegisterWrite ctx off v) s = .next u ∧ u = { s with stage := u.stage } ∧
      Tbl.get noHalf u.stage (halfKey ctx off k) = some (BitVec.ofNat 32 v)) ∧
    (∀ h : W32, pairLo rwPairs off = none → pairHi rwPairs off = some p → p.1 ≠ .cqConsumedLo → p.1 ≠ .srvEvqConsumedLo → s.ignores ctx off = false →
      Tbl.get noHalf s.stage (halfKey ctx off (k - 4)) = some h → ∃ u, exec (.hiHalfWrite ctx off v) s = .next u ∧ u = { s with regs := u.regs, stage := u.stage } ∧ OnlyRegs s u [k, k - 4] ∧
        (u.reg (k - 4)).toNat = bits h.toNat p.1.hi p.1.lo * 2 ^ p.1.lo ∧ (u.reg k).toNat = bits v p.2.hi p.2.lo * 2 ^ p.2.lo ∧ Tbl.get noHalf u.stage (halfKey ctx off (k - 4)) = none)) ∧
  (∀ (s : State) (ctx tag off k : Nat), off % 4 = 0 → s.mayAccess ctx off = true → pageExists off = true → (hasHeader off = true → 0x040 ≤ off % 2 ^ 12) → s.regKey ctx off = some k →
    Tbl.get noHalf s.latch (halfKey ctx off k) = none →
    ((pairLo roPairs off).isSome = true → ∃ u, exec (.loHalfRead ctx tag off) s = .next u ∧ u.outbox = s.outbox ++ [.response ctx tag 0 (leBytes 4 (s.word ctx off k))] ∧
      Tbl.get noHalf u.latch (halfKey ctx off (k + 4)) = some (BitVec.ofNat 32 (s.word ctx (off + 4) (k + 4)))) ∧
    ((∃ f ∈ fieldsAt off, f.acc = .rc) → (pairLo roPairs off) = none → s.pageOff (off / 2 ^ 20) (pageInstance off) = false → ∃ u, exec (.clearOnRead ctx tag off) s = .next u ∧
      u = { s with regs := u.regs, outbox := s.outbox ++ [.response ctx tag 0 (leBytes 4 (s.word ctx off k))] } ∧ OnlyRegs s u [k] ∧
      ∀ f ∈ fieldsAt off, bits (u.reg k).toNat f.hi f.lo = if f.acc = .rc then 0 else bits (s.reg k).toNat f.hi f.lo)) ∧
  (∀ (s : State) (i v : Nat), i < 24 → v < 2 ^ 32 →
    ∃ u, exec (.shadowCtlWrite i v) s = .next u ∧ u = { s with regs := u.regs, cays := u.cays } ∧ OnlyRegs s u [Fld.key .shadowCtlRate i 0] ∧
      (bits v Fld.shadowCtlRate.hi 0 = 0 ∨ (8 ≤ bits v Fld.shadowCtlRate.hi 0 ∧ bits v Fld.shadowCtlRate.hi 0 ≤ 16) → u.fld .shadowCtlRate i = bits v Fld.shadowCtlRate.hi 0) ∧
      (u.fld .shadowCtlRate i = 0 → ∀ c, c < 320 → (u.cay ⟨i, c⟩).shadow = none) ∧ (u.fld .shadowCtlRate i ≠ 0 → u.cays = s.cays))

/-! ### The management ports -/

/-- R440 to R444: the SMBus port and the boundary scan port. -/
def Obligations.ManagementPorts : Prop :=
  (∀ (s : State) (w : Option Nat) (v : Nat) (pec : Bool),
    ∀ c ∈ [Instr.status, .poweredTime, .tempMax, .inputPower, .inputVoltage, fun p => .powerCap p w, .smbusResetHold, .smbusResetClearing, .smbusResetRelease, .standbyEnter, .standbyLeave,
      fun p => .alertStatus p w, fun p => .alertMask p w, fun p => .logIndex p v, .logRead, .identity, .fwDigest, .fabricId],
    (s.mod.standby = false → exec (c pec) s = .next s) ∧ (s.mod.standby = true → exec (c false) s = .next { s with outbox := s.outbox ++ [.smbus none] })) ∧
  (∀ (s : State), s.mod.standby = true →
    (∃ b, exec (.status true) s = .next { s with outbox := s.outbox ++ [.smbus (some b)] } ∧ b.length = 2 ∧ (leAt b 0 2).testBit 0 = true ∧ (leAt b 0 2).testBit 1 = s.mod.main ∧
      ((leAt b 0 2).testBit 2 = true ↔ s.run = .ready ∨ s.run = .recovery) ∧ ((leAt b 0 2).testBit 3 = true ↔ s.run = .held) ∧
      ((leAt b 0 2).testBit 5 = true ↔ ∃ n, n < 148 ∧ (sensorLimits n).1 ≤ s.temp n) ∧ ((leAt b 0 2).testBit 6 = true ↔ ∃ i, i < 4 ∧ bit s.ports.alert i = true ∧ bit s.ports.alertMask i = false)) ∧
    (∃ b, exec (.tempMax true) s = .next { s with outbox := s.outbox ++ [.smbus (some b)] } ∧ b.length = 2 ∧ (∃ n, n < 148 ∧ tempOf (leAt b 0 2) = s.temp n) ∧
      ∀ n, n < 148 → s.temp n ≤ tempOf (leAt b 0 2)) ∧
    (∀ p ∈ [(Instr.poweredTime true, leBytes 8 s.ptime), (.inputPower true, leBytes 2 s.pw.inputW), (.inputVoltage true, leBytes 2 s.pw.inputMv), (.powerCap true none, leBytes 2 s.pw.smbusCap),
      (.alertStatus true none, leBytes 2 s.ports.alert), (.alertMask true none, leBytes 2 s.ports.alertMask), (.identity true, identityDigest), (.fwDigest true, s.fwDigest),
      (.fabricId true, leBytes 2 (s.fld .fabIdId 0))], exec p.1 s = .next { s with outbox := s.outbox ++ [.smbus (some p.2)] }) ∧
    (∀ e, e ∈ s.mod.log → leAt e 0 4 = s.ports.logIndex → (∀ x ∈ s.mod.log, leAt x 0 4 = s.ports.logIndex → x = e) →
      exec (.logRead true) s = .next { s with outbox := s.outbox ++ [.smbus (some e)] })) ∧
  (∀ (s : State) (v : Nat), s.mod.standby = true → v < 2 ^ 16 →
    (1000 ≤ v → v ≤ 12000 → exec (.powerCap true (some v)) s = .next { s with pw := { s.pw with smbusCap := v }, outbox := s.outbox ++ [.smbus (some [])] }) ∧
    (v < 1000 ∨ 12000 < v → exec (.powerCap true (some v)) s = .next { s with outbox := s.outbox ++ [.smbus (some [])] }) ∧
    exec (.logIndex true v) s = .next { s with ports := { s.ports with logIndex := v }, outbox := s.outbox ++ [.smbus (some [])] } ∧
    (∃ u, exec (.alertStatus true (some v)) s = .next u ∧ u = { s with ports := u.ports, outbox := u.outbox } ∧
      (∀ i, i < 4 → u.ports.alert.testBit i = (s.ports.alert.testBit i && !v.testBit i)) ∧ u.ports.alertMask = s.ports.alertMask ∧
      u.outbox = s.outbox ++ (if s.ports.asserts = u.ports.asserts then [] else [.alert u.ports.asserts]) ++ [.smbus (some [])]) ∧
    (∃ u, exec (.alertMask true (some v)) s = .next u ∧ u = { s with ports := { s.ports with alertMask := v }, outbox := u.outbox } ∧
      u.outbox = s.outbox ++ (if s.ports.asserts = u.ports.asserts then [] else [.alert u.ports.asserts]) ++ [.smbus (some [])])) ∧
  (∀ (s : State), s.mod.standby = true →
    (∃ u, exec (.smbusResetHold true) s = .next u ∧ .smbus ∈ u.mod.holds ∧ (s.run ≠ .off → u.run = .held)) ∧
    (∃ u, exec (.smbusResetClearing true) s = .next u ∧ .smbus ∈ u.mod.holds ∧ u.mod.clearing = true ∧ (s.run ≠ .off → u.run = .held)) ∧
    (∃ u, exec (.smbusResetRelease true) s = .next u ∧ u = { s with mod := u.mod, outbox := u.outbox } ∧ ∀ h, h ∈ u.mod.holds ↔ h ∈ s.mod.holds ∧ h ≠ .smbus) ∧
    (∃ u, exec (.standbyEnter true) s = .next u ∧ .standby ∈ u.mod.holds ∧ u.mod.log = s.mod.log ∧ (s.run ≠ .off → u.run = .held)) ∧
    (∃ u, exec (.standbyLeave true) s = .next u ∧ u = { s with mod := u.mod, outbox := u.outbox } ∧ ∀ h, h ∈ u.mod.holds ↔ h ∈ s.mod.holds ∧ h ≠ .standby)) ∧
  (∀ (s : State) (pins ld : List Bool) (a b : Nat), s.mod.standby = true →
    (s.ports.ir ≠ .laneLb → ∀ p ∈ [(Instr.bypass, TapIr.bypass, [Emit.tap 1 0]), (.idcode, .idcode, [.tap 32 0x1A4B4A63]), (.tapReset, .idcode, [])],
      ∃ u, exec p.1 s = .next u ∧ u = { s with ports := { s.ports with ir := p.2.1 }, mod := u.mod, outbox := s.outbox ++ p.2.2 } ∧ ∀ h, h ∈ u.mod.holds ↔ h ∈ s.mod.holds ∧ h ≠ .tap) ∧
    (s.ports.ir ≠ .laneLb → ∃ u v, exec (.samplePreload pins ld) s = .next u ∧ u = { s with ports := { s.ports with ir := .samplePreload, boundary := ld }, mod := u.mod, outbox := s.outbox ++ [.tap pins.length v] } ∧ (∀ i b, pins[i]? = some b → v.testBit i = b) ∧ ∀ h, h ∈ u.mod.holds ↔ h ∈ s.mod.holds ∧ h ≠ .tap) ∧
    (∀ p ∈ [(Instr.extest, TapIr.extest, Emit.pins (some s.ports.boundary)), (.clamp, .clamp, .pins (some s.ports.boundary)), (.highz, .highz, .pins none)],
      ∃ u l, exec p.1 s = .next u ∧ u.ports.ir = p.2.1 ∧ .tap ∈ u.mod.holds ∧ u.mod.log = s.mod.log ∧ (s.run ≠ .off → u.run = .held) ∧ u.outbox = l ++ [p.2.2]) ∧
    (∃ u l, exec (.laneLb a b) s = .next u ∧ u.ports.ir = .laneLb ∧ .tap ∈ u.mod.holds ∧ u.mod.log = s.mod.log ∧ (s.run ≠ .off → u.run = .held) ∧ u.fld .cwStatState 0 = 0 ∧
      u.ports.laneBits = a % 2 ^ 16 + 2 ^ 16 * (b % 2 ^ 16) ∧ u.outbox = l ++ [.tap 32 (a % 2 ^ 16 + 2 ^ 16 * (b % 2 ^ 16))]) ∧
    (s.ports.ir = .laneLb → s.mod.main = true → s.cw.failed = false → ∃ u, exec .idcode s = .next u ∧ u.fld .cwStatState 0 = 1 ∧ u.ports.ir = .idcode ∧ .tap ∉ u.mod.holds))

/-! ### Power, energy and heat -/

/-- R446, R466, R552, R553, R556: the supplies and the module-reset input. -/
def Obligations.Supplies : Prop :=
  (∀ (s : State), s.mod.standby = false → ∃ u, exec .standbyGood s = .next u ∧ u.mod.standby = true ∧ u.mod.main = s.mod.main ∧ u.ptime = 0 ∧ u.run = (if s.mod.main then .boot else .off) ∧
    u.hbm = [] ∧ u.entries = [] ∧ u.tasks = [] ∧ u.cays = [] ∧ u.mod.log = [] ∧ u.mod.holds = [] ∧ u.fw.bankA = s.fw.bankA ∧ u.fw.bankB = s.fw.bankB ∧ u.fuse.svn = s.fuse.svn) ∧
  (∀ (s : State), s.mod.standby = true → exec .standbyGood s = .next s ∧ ∃ u, exec .standbyLoss s = .next u ∧ u.mod.standby = false ∧ u.mod.main = s.mod.main ∧ u.run = .off ∧ u.hbm = [] ∧
    u.entries = [] ∧ u.mod.log = []) ∧
  (∀ (s : State) (mv : Nat), s.mod.main = false → 44000 ≤ mv → ∃ u, exec (.mainInputGood mv) s = .next u ∧ u.mod = { s.mod with main := true } ∧ u.pw.inputMv = mv ∧ u.hbm = s.hbm ∧ u.entries = s.entries ∧
    (s.mod.standby = false → u.run = s.run) ∧ (s.mod.standby = true → s.mod.holds = [] → u.run = .boot) ∧ (s.mod.standby = true → s.mod.holds ≠ [] → u.run = .held) ∧
    (s.mod.standby = true → s.fld .cwStatState 0 = 0 → s.ports.ir ≠ .laneLb → u.fld .cwStatState 0 = 1)) ∧
  (∀ (s : State) (mv : Nat), s.mod.main = true → mv < 42000 → s.fld .pwrStatUv 0 = 0 → ∃ u, exec (.inputUv mv) s = .next u ∧ u.fld .pwrStatUv 0 = 1 ∧ Raised s u 0x04 0 2 ∧ u.ports.alert.testBit 2 = true ∧
    u.pw.inputMv = mv ∧ u.admitHeld = true ∧ (∀ i, s.islRun i = true → u.opGoal i = 3) ∧ (∀ i, s.islRun i = false → u.ipw i = s.ipw i) ∧
    u = { s with regs := u.regs, pw := u.pw, ports := u.ports, outbox := u.outbox }) ∧
  (∀ (s : State) (mv : Nat), s.mod.main = true → mv < 38000 → ∃ u, exec (.inputUvReset mv) s = .next u ∧ .input ∈ u.mod.holds ∧ (s.run ≠ .off → u.run = .held) ∧ u.ports.alert.testBit 2 = true) ∧
  (∀ (s : State) (mv : Nat), s.mod.main = true → mv < 30000 → ∃ u, exec (.mainInputLoss mv) s = .next u ∧ u.run = .off ∧ u.mod.main = false ∧ u.mod.log = s.mod.log ∧ u.hbm = [] ∧ u.poison = [] ∧ u.entries = [] ∧
    u.ptime = s.ptime ∧ u.fld .cwStatState 0 = 0 ∧ u.ports.alert.testBit 2 = true) ∧
  (∀ (s : State) (mv ms : Nat), 44000 < mv → 1 ≤ ms → ∃ u, exec (.inputRecovery mv ms) s = .next u ∧ u = { s with regs := u.regs, pw := { s.pw with inputMv := mv }, mod := u.mod } ∧
    u.fld .pwrStatUv 0 = 0 ∧ OnlyRegs s u [Fld.key .pwrStatUv 0 0] ∧ (ms < 10 → u.mod = s.mod) ∧ (10 ≤ ms → ∀ h, h ∈ u.mod.holds ↔ h ∈ s.mod.holds ∧ h ≠ .input)) ∧
  (∀ (s : State), (∃ u, exec .modRstNAssert s = .next u ∧ .pin ∈ u.mod.holds ∧ (s.run ≠ .off → u.run = .held)) ∧
    ∃ u, exec .modRstNRelease s = .next u ∧ u = { s with mod := u.mod } ∧ ∀ h, h ∈ u.mod.holds ↔ h ∈ s.mod.holds ∧ h ≠ .pin)

/-- R449, R455, R460 to R463: the ledger, admission, pauses and operating points. -/
def Obligations.EnergyAndPoints : Prop :=
  (∀ (s : State) (ps : List Attr), ∃ u, exec (.ledgerAttribute ps) s = .next u ∧ u.pw.totNj = s.pw.totNj + (ps.map (fun a => a.nj)).sum ∧ u.pw.spends.length = s.pw.spends.length + ps.length ∧
    u = { s with pw := u.pw, entries := u.entries } ∧ (∀ c, c < 64 → Tbl.get natZero u.pw.ctxNj c = Tbl.get natZero s.pw.ctxNj c + ((ps.filter (fun a => a.ctx == c)).map (fun a => a.nj)).sum) ∧
    ∀ c, c < 64 → u.used c (us 1000) = s.used c (us 1000) + ((ps.filter (fun a => a.ctx == c)).map (fun a => a.nj)).sum) ∧
  (∀ (s s0 : State) (w : Waiting), s.run = .ready → s0 = s.pruneSpends → s0.energyQueue = [w] → s.admitHeld = false → w.ctx < 64 →
    (∀ a ∈ [w.ctx, 64], ∀ b ∈ s.budgets a, s0.used a b.1 + s0.reserved a + w.est ≤ b.2) →
    ∃ u, exec .admissionCheck s = .next u ∧ u.pw.units = s.pw.units ++ [⟨w.id, w.ctx, w.est, 0⟩] ∧ u.regs = s.regs ∧ ∀ c q n, w.id = .record c q n → ∃ e, u.entry c q n = some e ∧ e.admitted = true) ∧
  (∀ (s s0 : State) (w : Waiting), s.run = .ready → s0 = s.pruneSpends → s0.energyQueue = [w] → w.ctx < 64 →
    (∀ c q n d e, w.id = .record c q n → s.entry c q n = some e → e.point = none → s0.overBudget w.ctx w.est = some d →
      ∃ u, exec .admissionCheck s = .next u ∧ Outcome u c q n St.energyBudget d ∧ Raised s u 0x22 w.ctx 1 ∧ u.pw.units = s.pw.units) ∧
    (s0.overBudget w.ctx w.est = none → s0.admits w.ctx w.est = false → s.pw.waited.contains w.id = false →
      ∃ u, exec .admissionCheck s = .next u ∧ Counted s u .engWaitCnt w.ctx ∧ u.pw.units = s.pw.units ∧ u.entries = s.entries)) ∧
  (∀ (s : State) (c : Nat), c < 64 → s.pw.paused.contains c = false → s.fld .engCap1msW c ≠ 0 → 5 * (s.fld .engCap1msW c * 1000000) < 4 * s.used c (us 1000) →
    ∃ u, exec (.budgetPause c) s = .next u ∧ u.pw.paused = s.pw.paused ++ [c] ∧ Counted s u .engPauseCnt c ∧ Raised s u 0x22 c 0 ∧
      (∀ k, (s.task k).ctx = c → (s.task k).st ≠ .ended → (u.task k).paused = true) ∧ (∀ k, (s.task k).ctx ≠ c → u.task k = s.task k)) ∧
  (∀ (s : State) (c : Nat), s.pw.paused.contains c = true → s.pw.pausedCls = [] → s.fld .engCap1msW c ≠ 0 → s.used c (us 1000) ≤ s.fld .engCap1msW c * 1000000 →
    ∃ u, exec (.budgetResume c) s = .next u ∧ u.pw.paused.contains c = false ∧ ∀ k, (s.task k).ctx = c → (s.task k).st ≠ .ended → (u.task k).paused = false) ∧
  (∀ (s : State) (w : Nat) (miss : List Nat), s.run = .ready → s.pw.pausedCls = [] → w ≤ s.modCap → ∃ u, exec (.plannerTick w miss) s = .next u ∧ u = { s with pw := u.pw } ∧ u.pw.inputW = w ∧
    (∀ i, s.islRun i = false → u.ipw i = s.ipw i) ∧
    ∀ i, s.islRun i = true → u.opGoal i = u.pointFor i ∧ s.fld .islPwrCtlOpMax i ≤ u.opGoal i ∧ u.opGoal i ≤ 3 ∧ (u.ipw i).capDown = 0 ∧
      (s.fld .pwrStatUv 0 = 0 → (u.ipw i).heatDown = 0 → u.opGoal i ≤ max (s.fld .islPwrCtlOpMin i) (s.fld .islPwrCtlOpMax i)) ∧ (s.fld .pwrStatUv 0 = 1 → u.opGoal i = 3) ∧
      (50 < miss.getD i 25 → (u.ipw i).stallDown = min 3 ((s.ipw i).stallDown + 1)) ∧ (miss.getD i 25 < 25 → (u.ipw i).stallDown = (s.ipw i).stallDown - 1)) ∧
  (∀ (s : State) (w i : Nat), s.run = .ready → s.modCap < w → s.islRun i = true → s.opGoal i < 3 → ∃ u j, exec (.capExceeded w) s = .next u ∧ Raised s u 0x04 0 3 ∧ u.pw.inputW = w ∧ s.islRun j = true ∧
    s.opGoal j < 3 ∧ u.opGoal j = s.opGoal j + 1 ∧ (∀ k, k ≠ j → u.ipw k = s.ipw k) ∧ (∀ k, s.islRun k = true → s.opGoal k < 3 → s.islClass j ≤ s.islClass k) ∧ u.tasks = s.tasks) ∧
  (∀ (s : State) (i c : Nat), s.islRun i = true → (s.ipw i).ramp = some c → c < 4 →
    ((s.ipw i).dip = none → ∃ u, exec (.operatingPointChange i) s = .next u ∧ u.fld .islStatOp i = c ∧ u.fld .islRailNowMv i = nominalMv c ∧ (u.ipw i).ramp = none ∧
      u = { s with regs := u.regs, pw := u.pw } ∧ OnlyRegs s u [Fld.key .islStatOp i 0, Fld.key .islRailNowMv i 0] ∧ u.fld .islStatState i = 0) ∧
    ((s.ipw i).dip ≠ none → exec (.operatingPointChange i) s = .next s))

/-- R113, R451 to R454, R464, R465, R471: island states and rails. -/
def Obligations.IslandPower : Prop :=
  (∀ (s : State) (i : Nat), s.islRun i = true →
    (s.quietIsland i = true → (s.fld .islPwrCtlForce i = 0 ∧ s.fld .islPwrCtlSleepEn i = 1) ∨ s.fld .islPwrCtlForce i = 2 → ∃ u, exec (.islandSleep i) s = .next u ∧ u.fld .islStatState i = 1 ∧
      u.fld .islStatReady i = 0 ∧ Raised s u 0x15 i 3 ∧ u = { s with regs := u.regs, outbox := u.outbox }) ∧
    (s.quietIsland i = false → exec (.islandSleep i) s = .next s)) ∧
  (∀ (s : State) (i : Nat), i < 24 → s.fld .islStatState i ≤ 1 → s.role i = 0 → s.quietIsland i = true → s.engineFree i = true → s.stackFree i = true → s.mayCut i = true →
    (s.fld .islPwrCtlForce i = 0 ∧ s.fld .islPwrCtlOffEn i = 1) ∨ s.fld .islPwrCtlForce i = 3 → ∃ u, exec (.islandOff i) s = .next u ∧ u.fld .islStatState i = 2 ∧ u.fld .islStatReady i = 0 ∧
      Raised s u 0x15 i 3 ∧ u.fld .strStatState i = 0 ∧ u.hbm = s.hbm ∧ u.entries = s.entries ∧ (∀ r, cayKey r / 320 = i → u.cay r = cayDef 0) ∧ (∀ r, cayKey r / 320 ≠ i → u.cay r = s.cay r)) ∧
  (∀ (s : State) (i : Nat), i < 24 → s.run = .ready → (s.ipw i).dip = none →
    (1 ≤ s.fld .islStatState i → s.fld .islStatState i ≤ 3 → ∃ u, exec (.islandWake i) s = .next u ∧ u.fld .islStatState i = 0 ∧ u.fld .islStatReady i = 1 ∧ u.fld .islCtlWake i = 0 ∧
      u.fld .islRailNowMv i = nominalMv (s.fld .islStatOp i) ∧ Counted s u .islWakeCnt i ∧ Raised s u 0x15 i 3 ∧ u = { s with regs := u.regs, fuse := u.fuse, outbox := u.outbox }) ∧
    (s.fld .islStatState i = 0 → s.fld .islStatReady i = 0 → ∃ u, exec (.islandWake i) s = .next u ∧ u.fld .islStatState i = 0 ∧ u.fld .islStatReady i = 1 ∧
      u.fld .islWakeCnt i = s.fld .islWakeCnt i ∧ u = { s with regs := u.regs }) ∧
    (s.fld .islStatState i = 2 → ∃ u, exec (.uncoreWake i) s = .next u ∧ u.fld .islStatState i = 1 ∧ Raised s u 0x15 i 3 ∧ u = { s with regs := u.regs, fuse := u.fuse, outbox := u.outbox })) ∧
  (∀ (s : State) (i : Nat) (k c a : Nat), i < 24 → s.fld .islStatState i = 2 → s.run = .ready → k = (i * 320 + c) * 4 + a → s.fuse.repairs.filter (fun r => r.1 == i) = [(i, .arrayRow c a 5)] →
    Tbl.get boolFalse s.fuse.spareEn k = false → ∃ u, exec (.uncoreWake i) s = .next u ∧ Tbl.get boolFalse u.fuse.spareEn k = true ∧ Tbl.get natZero u.fuse.spare k = 5 ∧
      Tbl.get boolFalse u.fuse.disabled k = Tbl.get boolFalse s.fuse.disabled k) ∧
  (∀ (s : State) (i v : Nat), i < 24 →
    (bits v 27 26 < bits v 29 28 → exec (.islandForce i v) s = .next s) ∧
    (bits v 29 28 ≤ bits v 27 26 → ∃ u, exec (.islandForce i v) s = .next u ∧ u.fld .islPwrCtlOpMax i = bits v 29 28 ∧ u.fld .islPwrCtlOpMin i = bits v 27 26 ∧
      u.fld .islPwrCtlSleepEn i = bits v 25 25 ∧ u.fld .islPwrCtlOffEn i = bits v 24 24 ∧ (bits v 31 30 ≠ 3 → u.fld .islPwrCtlForce i = bits v 31 30) ∧
      (bits v 31 30 = 3 → s.role i ≠ 0 ∨ s.mayCut i = false → u.fld .islPwrCtlForce i = s.fld .islPwrCtlForce i) ∧ (bits v 31 30 = 3 → s.role i = 0 → s.mayCut i = true → u.fld .islPwrCtlForce i = 3) ∧
      u = { s with regs := u.regs } ∧ OnlyRegs s u [Fld.key .islPwrCtlForce i 0]) ∧
    (s.fld .islStatReady i = 1 ∨ v % 2 = 0 → exec (.wake i v) s = .next s) ∧
    (s.fld .islStatReady i = 0 → v % 2 = 1 → ∃ u, exec (.wake i v) s = .next u ∧ u.fld .islCtlWake i = 1 ∧
      u.fld .islStatState i = (if s.fld .islStatState i = 1 ∨ s.fld .islStatState i = 2 then 3 else s.fld .islStatState i) ∧ u = { s with regs := u.regs, fuse := u.fuse })) ∧
  (∀ (s : State) (i mv : Nat), i < 24 → s.fld .islStatState i ≠ 2 → mv < 1024 → (s.ipw i).dip = none →
    (nominalMv (s.fld .islStatOp i) - s.fld .islRailCfgWarnMv i ≤ mv → exec (.railDip i mv) s = .next s) ∧
    (mv < nominalMv (s.fld .islStatOp i) - s.fld .islRailCfgWarnMv i → ∃ u, exec (.railDip i mv) s = .next u ∧ u.fld .islStatHold i = 1 ∧ u.fld .islRailNowMv i = mv ∧
      (u.ipw i).dip = some ⟨mv, s.ptime, false⟩ ∧ (∀ k, k ≠ i → u.ipw k = s.ipw k) ∧ u = { s with regs := u.regs, pw := u.pw }) ∧
    (mv < nominalMv (s.fld .islStatOp i) - s.fld .islRailCfgResetMv i → s.run = .ready → s.fld .islStatState i ≠ 3 → ∃ u, exec (.railReset i mv) s = .next u ∧ u.fld .islStatState i = 0 ∧
      u.fld .islStatReady i = 0 ∧ u.fld .islStatHold i = 1 ∧ (u.ipw i).dip = some ⟨mv, s.ptime, true⟩ ∧ Counted s u .islUvResetCnt i ∧ Raised s u 0x15 i 1 ∧
      (∀ r, cayKey r / 320 = i → u.cay r = cayDef 0) ∧ ∃ e, u.mod.log.getLast? = some e ∧ leAt e 12 1 = 5 ∧ leAt e 13 1 = i ∧ leAt e 16 4 = mv) ∧
    (mv < nominalMv (s.fld .islStatOp i) - s.fld .islRailCfgResetMv i → s.run = .ready → s.fld .islStatState i = 3 → ∃ u, exec (.railReset i mv) s = .next u ∧ u.fld .islStatState i = 2 ∧
      u.fld .islCtlWake i = 1 ∧ Counted s u .islUvResetCnt i)) ∧
  (∀ (s : State) (i mv : Nat) (d : Dip), i < 24 → mv < 1024 → (s.ipw i).dip = some d → d.low < 1024 →
    (mv ≤ s.railRelease i → exec (.railDipRelease i mv) s = .next s) ∧
    (s.railRelease i < mv → ∃ u, exec (.railDipRelease i mv) s = .next u ∧ (u.ipw i).dip = none ∧ u.fld .islStatHold i = (if (s.ipw i).thrIsl = true ∧ s.fld .islStatOp i = 3 then 1 else 0) ∧
      u.fld .islRailNowMv i = mv ∧ Counted s u .islDipCnt i ∧ u.fld .islDipMinMv i = d.low ∧ Raised s u 0x15 i 0 ∧ (d.reset = false → u.fld .islStatReady i = s.fld .islStatReady i) ∧
      (d.reset = true → s.fld .islStatState i = 0 → u.fld .islStatReady i = 1) ∧ ∃ e, u.mod.log.getLast? = some e ∧ leAt e 12 1 = 4 ∧ leAt e 13 1 = i ∧ leAt e 16 4 = d.low))

/-- R467, R468: heat. -/
def Obligations.Heat : Prop :=
  (∀ (s : State) (n r : Nat), n < 148 → (sensorLimits n).1 ≤ tempOf r → ∃ u, exec (.thermalWarn n r) s = .next u ∧ u.temp n = tempOf r ∧ Raised s u 0x04 0 0 ∧ u.ports.alert.testBit 1 = true ∧
    (∀ m, m ≠ n → u.temp m = s.temp m) ∧ u = { s with regs := u.regs, pw := u.pw, ports := u.ports, outbox := u.outbox }) ∧
  (∀ (s : State) (n i r : Nat), n < 124 → n < 96 ∨ 100 ≤ n → i = (if n < 96 then n / 4 else n - 100) → (sensorLimits n).2.1 ≤ tempOf r → ∃ u, exec (.thermalThrottle n r) s = .next u ∧ u.temp n = tempOf r ∧
    Counted s u .islThrottleCnt i ∧ Raised s u 0x15 i 2 ∧ (u.ipw i).thrIsl = true ∧ (100 ≤ n → (u.ipw i).thrStack = true) ∧ (s.op i ≠ 3 → u.opGoal i = min 3 (s.opGoal i + 1)) ∧
    (s.op i = 3 → u.fld .islStatHold i = 1) ∧ ∀ k, k ≠ i → u.ipw k = s.ipw k) ∧
  (∀ (s : State) (n r : Nat), 96 ≤ n → n < 100 → 800 ≤ tempOf r → ∃ u, exec (.thermalThrottle n r) s = .next u ∧ u.fld .pwrStatThrottle 0 = 1 ∧ Counted s u .pwrThrottleCnt 0 ∧ u.admitHeld = true) ∧
  (∀ (s : State) (i a b c d e : Nat), i < 24 → (s.ipw i).thrIsl = true →
    ((∀ x ∈ [a, b, c, d], tempOf x ≤ 776) → tempOf e ≤ 696 → ∃ u, exec (.throttleStep i [a, b, c, d, e]) s = .next u ∧ (u.ipw i).thrIsl = false ∧ (u.ipw i).cooled = some s.ptime ∧
      (u.ipw i).ramp = (s.ipw i).ramp ∧ ((s.ipw i).dip = none → u.fld .islStatHold i = 0)) ∧
    ((∃ x ∈ [a, b, c, d], 776 < tempOf x) ∨ 696 < tempOf e → s.op i ≠ 3 → ∃ u, exec (.throttleStep i [a, b, c, d, e]) s = .next u ∧ (u.ipw i).thrIsl = true ∧
      u.opGoal i = min 3 (s.opGoal i + 1) ∧ u.regs = s.regs)) ∧
  (∀ (s : State) (n r : Nat), (100 ≤ n → n < 124 → tempOf r < 720 → ∃ u, exec (.thermalThrottleRelease n r) s = .next u ∧ (u.ipw (n - 100)).thrStack = false ∧ u = { s with pw := u.pw }) ∧
    (96 ≤ n → n < 100 → tempOf r < 800 → (∀ m, 96 ≤ m → m < 100 → m ≠ n → s.temp m < 800) → ∃ u, exec (.thermalThrottleRelease n r) s = .next u ∧ u.fld .pwrStatThrottle 0 = 0 ∧
      u = { s with regs := u.regs, pw := u.pw } ∧ OnlyRegs s u [Fld.key .pwrStatThrottle 0 0])) ∧
  (∀ (s : State) (n r : Nat), (sensorLimits n).2.2 ≤ tempOf r →
    (124 ≤ n → n < 148 → ∃ u, exec (.thermalTrip n r) s = .next u ∧ n - 124 ∈ u.pw.tripped ∧ u.fld .strStatState (n - 124) = 0 ∧ u.run = s.run ∧ u.mod = s.mod) ∧
    (n < 124 → ∃ u, exec (.thermalTrip n r) s = .next u ∧ .thermal ∈ u.mod.holds ∧ (s.run ≠ .off → u.run = .held) ∧ ∃ e ∈ u.mod.log, leAt e 12 1 = 6 ∧ leAt e 16 4 = n)) ∧
  (∀ (s : State) (n r : Nat), tempOf r + 80 ≤ (sensorLimits n).1 →
    (124 ≤ n → n < 148 → ∃ u, exec (.thermalTripRelease n r) s = .next u ∧ n - 124 ∉ u.pw.tripped ∧
      (s.fld .strStatState (n - 124) = 0 → s.fld .strCtlEn (n - 124) = 1 → s.fld .islStatState (n - 124) ≠ 2 → s.run = .ready → u.fld .strStatState (n - 124) = 1)) ∧
    (n < 124 → .thermal ∈ s.mod.holds → (∀ m, m < 148 → m ≠ n → s.temp m + 80 ≤ (sensorLimits m).1) → ∃ u, exec (.thermalTripRelease n r) s = .next u ∧ Raised s u 0x04 0 1 ∧
      (∀ h, h ∈ u.mod.holds ↔ h ∈ s.mod.holds ∧ h ≠ .thermal)))

/-! ### Resets, reliability and contexts -/

/-- R442, R489, R498, R500, R509 to R514: the resets. -/
def Obligations.ResetSequences : Prop :=
  (∀ (s : State) (h : Hold) (cl : Bool), s.run ≠ .off → s.run ≠ .held → ∃ u, exec (.moduleReset h cl) s = .next u ∧ u.run = .held ∧ h ∈ u.mod.holds ∧ u.mod.clearing = cl ∧ u.tasks = [] ∧ u.cays = [] ∧
    u.strs = [] ∧ u.ptime = s.ptime ∧ (∀ i, i < 24 → u.fld .islStatState i = 2) ∧ u.fld .pwrCapCap 0 = s.fld .pwrCapCap 0 ∧ u.fld .fabIdId 0 = s.fld .fabIdId 0 ∧ u.routes = s.routes ∧
    (s.loads = [] → u.hbm = s.hbm) ∧ (h = .tap ∨ h = .standby → u.mod.log = s.mod.log) ∧
    (h ≠ .tap → h ≠ .standby → u.fld .modResetStatSource 0 = holdCode h ∧ u.fld .modResetStatClearing 0 = (if cl then 1 else 0) ∧
      ∃ e, u.mod.log.getLast? = some e ∧ leAt e 0 4 = (s.fld .logHead 0 + 1) % 2 ^ 32 ∧ leAt e 4 8 = s.ptime % 2 ^ 64 ∧ leAt e 12 1 = 7 ∧ leAt e 16 4 = holdCode h + (if cl then 256 else 0))) ∧
  (∀ (s : State) (h : Hold) (cl : Bool), s.run = .held → ∃ u, exec (.moduleReset h cl) s = .next u ∧ u = { s with regs := u.regs, mod := u.mod } ∧ h ∈ u.mod.holds ∧ u.mod.log = s.mod.log ∧
    u.mod.clearing = (s.mod.clearing || cl)) ∧
  (∀ (s : State), (s.run ≠ .held ∨ s.mod.holds ≠ [] ∨ s.mod.main = false → exec .moduleResetRelease s = .next s) ∧
    (s.run = .held → s.mod.holds = [] → s.mod.main = true →
      (s.mod.clearing = false → ∃ u, exec .moduleResetRelease s = .next u ∧ u = { s with regs := u.regs, run := .boot } ∧ ∀ i, i < 24 → u.fld .islStatState i = 2) ∧
      (s.mod.clearing = true → ∃ u, exec .moduleResetRelease s = .next u ∧ u.run = .boot ∧ u.hbm = [] ∧ u.poison = [] ∧ u.entries = [] ∧ u.groups = [] ∧ u.colls = [] ∧ u.tgs = [] ∧ u.routes = [] ∧
        u.mod.log = s.mod.log ∧ u.fld .fabIdId 0 = 0x3FFF ∧ u.fld .pwrCapCap 0 = s.fld .pwrCapCap 0 ∧ ∀ i, i < 24 → u.fld .islStatState i = 2))) ∧
  (∀ (s : State) (v : Nat), s.run ≠ .off → s.run ≠ .held → v % 2 = 1 → ∃ u, exec (.modResetGo v) s = .next u ∧ u.run = .held ∧ .register ∈ u.mod.holds ∧ u.mod.clearing = bit v 1) ∧
  (∀ (s : State), ∃ u, exec .modResetHoldExpiry s = .next u ∧ u = { s with mod := u.mod } ∧ ∀ h, h ∈ u.mod.holds ↔ h ∈ s.mod.holds ∧ h ≠ .register ∧ h ≠ .harbour) ∧
  (∀ (s : State) (i : Nat), i < 24 → (s.fld .islStatState i = 2 → exec (.islandReset i) s = .next s) ∧
    (s.run = .ready → s.fld .islStatState i ≠ 2 → ∃ u, exec (.islandReset i) s = .next u ∧ u.fld .islStatState i = 0 ∧ u.fld .islStatReady i = 1 ∧ u.fld .islCtlWake i = 0 ∧ Counted s u .islResetCnt 0 ∧
      Raised s u 0x00 0 0 ∧ (∀ r, cayKey r / 320 = i → u.cay r = cayDef 0) ∧ (u.ic i).lines = [] ∧ u.fld .strStatState i = (if s.strTripped i then 0 else 1) ∧ u.hbm = s.hbm ∧ u.run = .ready ∧
      exec (.modIslReset (2 ^ i)) s = .next u)) ∧
  (∀ (s : State) (v : Nat), s.run = .ready → ∃ u, exec (.modIslReset v) s = .next u ∧ (∀ i, i < 24 → bit v i = true → s.fld .islStatState i ≠ 2 → u.fld .islStatState i = 0 ∧ u.fld .islStatReady i = 1) ∧
    (∀ i, i < 24 → bit v i = false → u.fld .islStatState i = s.fld .islStatState i)) ∧
  (∀ (s : State) (c v : Nat), c < 64 →
    (v % 2 = 1 → s.fld .ctxStatResetting c = 0 → ∃ u, exec (.ctxResetGo c v) s = .next u ∧ u.fld .ctxStatResetting c = 1 ∧ u.fld .ctxResetGo c = 1 ∧ u = { s with regs := u.regs } ∧
      OnlyRegs s u [Fld.key .ctxStatResetting c 0, Fld.key .ctxResetGo c 0]) ∧
    (v % 2 = 0 ∨ s.fld .ctxStatResetting c = 1 → exec (.ctxResetGo c v) s = .next s) ∧
    (c ≠ 0 → bit v 31 = true → ∃ u, exec (.ctxEnable c v) s = .next u ∧ u.fld .ctxCtlEn c = 1 ∧ u.fld .ctxCtlTestPerm c = bits v 30 30 ∧ u = { s with regs := u.regs } ∧
      OnlyRegs s u [Fld.key .ctxCtlEn c 0]) ∧
    (c ≠ 0 → bit v 31 = false → s.fld .ctxCtlEn c = 1 → s.fld .ctxStatResetting c = 0 → ∃ u, exec (.ctxEnable c v) s = .next u ∧ u.fld .ctxCtlEn c = 1 ∧ u.fld .ctxCtlTestPerm c = bits v 30 30 ∧
      u.fld .ctxStatResetting c = 1 ∧ c ∈ u.mod.disabling) ∧
    (∃ u, exec (.ctxEnable 0 v) s = .next u ∧ u.fld .ctxCtlEn 0 = s.fld .ctxCtlEn 0 ∧ u.fld .ctxCtlTestPerm 0 = bits v 30 30)) ∧
  (∀ (s : State) (c : Nat), c < 64 → s.fld .ctxStatResetting c = 1 → s.run = .ready → s.fld .jnlStatRecovering 0 = 0 →
    (s.groupPending c = true → exec (.contextReset c) s = .next s) ∧
    (s.groupPending c = false → ∃ u, exec (.contextReset c) s = .next u ∧ u.fld .ctxStatResetting c = 0 ∧ u.fld .ctxResetGo c = 0 ∧ Raised s u 0x20 c 0 ∧ c ∉ u.mod.disabling ∧
      (c ∈ s.mod.disabling → u.fld .ctxCtlEn c = 0) ∧ (∀ q, q < 16 → u.fld .lwCtlEn (lwInst c q) = 0) ∧ (∀ i n, n < 16 → u.notif i c n = 0) ∧
      (∀ k, (u.task k).ctx = c → u.task k = Task.reset) ∧ (∀ x ∈ u.pw.units, x.ctx ≠ c) ∧
      ∀ q n e, s.entry c q n = some e → e.done = false → Outcome u c q n St.contextReset 0)) ∧
  (∀ (s : State) (v : Nat), ∃ u, exec (.testLock v) s = .next u ∧ u = { s with regs := u.regs } ∧ OnlyRegs s u [Fld.key .modTestEn 0 0] ∧
    (bit v 31 = true → u.fld .modTestLock 0 = 1 ∧ u.fld .modTestEn 0 = 0) ∧ (bit v 31 = false → s.fld .modTestLock 0 = 1 → u = s) ∧
    (bit v 31 = false → s.fld .modTestLock 0 = 0 → u.fld .modTestEn 0 = v % 2 ∧ u.fld .modTestLock 0 = 0))

/-- R476 to R487: errors, poison, scrubbing, repair. -/
def Obligations.ErrorsAndRepair : Prop :=
  (∀ (s : State) (e : ErrAt) (row : Nat),
    (e.mem = 6 → e.unit < 2 → ∃ u, exec (.correctedError e row) s = .next u ∧ Counted s u .hbCeCnt 0 ∧ u = { s with regs := u.regs } ∧ OnlyRegs s u [Fld.key .hbCeCnt 0 0]) ∧
    (e.mem < 6 → e.unit < 24 → ∃ u, exec (.correctedError e row) s = .next u ∧ Counted s u .memCeCnt e.unit ∧ u.hbm = s.hbm ∧ u.cays = s.cays ∧ u.poison = s.poison ∧
      (bit (s.reg (rkey 0x14 e.unit 0x060 0)).toNat 31 = false → ∀ j w, (errWords e 1 s.ptime)[j]? = some w → u.reg (rkey 0x14 e.unit (0x060 + 4 * j) 0) = BitVec.ofNat 32 w) ∧
      (bit (s.reg (rkey 0x14 e.unit 0x060 0)).toNat 31 = true → u.reg (rkey 0x14 e.unit 0x060 0) = s.reg (rkey 0x14 e.unit 0x060 0) ||| 0x40000000#32 ∧
        ∀ j, 1 ≤ j → j < 4 → u.reg (rkey 0x14 e.unit (0x060 + 4 * j) 0) = s.reg (rkey 0x14 e.unit (0x060 + 4 * j) 0)))) ∧
  (∀ (s : State) (m n a : Nat), exec (.correctedWriteBack m n a) s = .next s) ∧
  (∀ (s : State) (e : ErrAt) (row : Nat), s.run = .ready →
    (e.mem = 6 → e.unit < 2 → ∃ u, exec (.uncorrectableError e row) s = .next u ∧ .harbour ∈ u.mod.holds ∧ u.run = .held ∧ ∃ x ∈ u.mod.log, leAt x 12 1 = 1 ∧ leAt x 13 1 = 0x20 + e.unit) ∧
    (e.mem < 6 → e.mem ≠ 4 → e.unit < 24 → s.fld .islStatState e.unit ≠ 2 → ∃ u, exec (.uncorrectableError e row) s = .next u ∧ Counted s u .memUeCnt e.unit ∧ Raised s u 0x14 e.unit 0 ∧
      Counted s u .islResetCnt 0 ∧ (∀ r, cayKey r / 320 = e.unit → u.cay r = cayDef 0) ∧ u.poison = s.poison ∧ u.hbm = s.hbm ∧ ∃ x, u.mod.log.getLast? = some x ∧ leAt x 12 1 = 1 ∧ leAt x 13 1 = e.unit) ∧
    (∀ k, e.mem = 4 → e.unit < 24 → k = hbmKey e.unit (e.addr % 2 ^ 36) → e.addr % 2 ^ 36 < stackBytes → (s.poisoned (k / 8 * 8) 8 = true → exec (.uncorrectableError e row) s = .next s) ∧
      (s.poisoned (k / 8 * 8) 8 = false → ∃ u, exec (.uncorrectableError e row) s = .next u ∧ u.poison = s.poison ++ [k / 8] ∧ u.poisoned k 1 = true ∧ Counted s u .memUeCnt e.unit ∧
        Raised s u 0x14 e.unit 0 ∧ row ∈ (u.memst e.unit).bad))) ∧
  (∀ (s : State) (k t dva : Nat) (rd : PoisonReader), (s.poisoned k 1 = false → exec (.poisonRead rd k) s = .next s) ∧
    (hbmExists k = true → s.poisoned k 1 = true → (∃ u, exec (.poisonRead .scrubber k) s = .next u ∧ Counted s u .memPoisonReadCnt (stackOf k) ∧ u = { s with regs := u.regs } ∧
        OnlyRegs s u [Fld.key .memPoisonReadCnt (stackOf k) 0]) ∧
      (Unfinished s t → (s.wgt (s.task t).ctx).find dva = none → ∃ u, exec (.poisonRead (.task t dva) k) s = .next u ∧ Counted s u .memPoisonReadCnt (stackOf k) ∧ (u.task t).status = St.inputLost ∧
        (u.task t).detail = stackOf k))) ∧
  (∀ (s : State) (i : Nat), i < 24 → s.run = .ready →
    (s.fld .islStatState i ≠ 2 → ∃ u, exec (.scrubWalk i true) s = .next u ∧ u = { s with regs := u.regs, mems := u.mems } ∧ (u.memst i).hbmAt = ((s.memst i).hbmAt + 1) % (stackBytes / 8) ∧
      (s.poisoned (hbmKey i (8 * (s.memst i).hbmAt)) 8 = false → u.regs = s.regs)) ∧
    (s.fld .islStatState i = 0 → ∃ u, exec (.scrubWalk i false) s = .next u ∧ u = { s with mems := u.mems } ∧ (u.memst i).hbmAt = (s.memst i).hbmAt) ∧
    (s.fld .islStatState i = 2 → ∀ hbm, exec (.scrubWalk i hbm) s = .next s)) ∧
  (∀ (s : State) (i : Nat) (late : Bool), i < 24 → ∃ u, exec (.scrubPassEnd i true late) s = .next u ∧ u = { s with regs := u.regs, mems := u.mems } ∧ Counted s u .memScrubPassCnt i ∧
    (u.memst i).rows = [] ∧ (u.memst i).hbmAt = 0 ∧ (u.memst i).bad = (s.memst i).bad ∧ (late = true → u.fld .memStatScrubLate i = 1) ∧ (late = false → u.fld .memStatScrubLate i = s.fld .memStatScrubLate i)) ∧
  (∀ (s : State) (i cause v : Nat), i < 24 → s.fld .memStatStack i = 0 →
    (cause = 1 ∨ cause = 2 → ∃ u, exec (.stackLost i cause) s = .next u ∧ u.fld .memStatStack i = 1 ∧ Raised s u 0x14 i 1 ∧ (∀ o n, u.poisoned (hbmKey i (o % 2 ^ 36)) n = true) ∧
      (∀ x, s.shardsOn i = [x] → u.wgt x.1 = (s.wgt x.1).modShard x.2.1 (fun y => { y with invalid := true })) ∧
      ∃ e, u.mod.log.getLast? = some e ∧ leAt e 12 1 = 3 ∧ leAt e 13 1 = i ∧ leAt e 16 4 = cause) ∧
    (bit v 31 = true → ∃ u, exec (.stackExclude i v) s = .next u ∧ u.fld .memStatStack i = 1 ∧ u.fld .memCtlExclude i = 1 ∧ Raised s u 0x14 i 1 ∧ ∃ e, u.mod.log.getLast? = some e ∧ leAt e 12 1 = 3 ∧
      leAt e 16 4 = 4) ∧
    (bit v 31 = false → ∃ u, exec (.stackExclude i v) s = .next u ∧ u = { s with regs := u.regs } ∧ OnlyRegs s u [Fld.key .memCtlExclude i 0] ∧ u.fld .memCtlExclude i = 0 ∧
      u.fld .memCtlUeLimit i = (if bits v 7 0 = 0 then s.fld .memCtlUeLimit i else bits v 7 0))) ∧
  (∀ (s : State) (i : Nat) (ds : List Defect), i < 24 →
    (s.fld .modTestEn 0 = 1 → s.role i = 0 → ∃ u, exec (.repairTest i ds) s = .next u ∧ u.fld .repStatBusy i = 0 ∧ (u.memst i).tested = true ∧
      (u.memst i).found = ds ++ (s.memst i).bad.map Defect.hbmRow ∧ u.fld .repStatFound i = min 255 (ds.length + (s.memst i).bad.length) ∧
      u.fld .repStatRepairable i = (if ds.length + (s.memst i).bad.length ≤ s.repFree i then 1 else 0) ∧ Raised s u 0x14 i 3 ∧ u.fuse = s.fuse) ∧
    (s.fld .modTestEn 0 = 0 ∨ s.role i ≠ 0 → exec (.repairTest i ds) s = .next s) ∧
    (s.fld .modTestEn 0 = 1 → s.role i = 0 → (s.memst i).tested = true → s.fld .repStatRepairable i = 1 → ∃ u, exec (.repairBurn i) s = .next u ∧
      u.fuse = { s.fuse with repairs := s.fuse.repairs ++ (s.memst i).found.map (fun d => (i, d)) } ∧ u.fld .repStatErr i = 0 ∧ (u.memst i).found = [] ∧ Raised s u 0x14 i 3 ∧
      ∃ e, u.mod.log.getLast? = some e ∧ leAt e 12 1 = 8 ∧ leAt e 16 4 = (s.memst i).found.length % 2 ^ 32) ∧
    (∀ x, x = (if s.fld .modTestEn 0 = 0 then 1 else if (s.memst i).tested = false then 2 else if s.fld .repStatRepairable i = 0 then 3 else if s.role i ≠ 0 then 4 else 0) → x ≠ 0 →
      ∃ u, exec (.repairBurn i) s = .next u ∧ u = { s with regs := u.regs } ∧ u.fld .repStatErr i = x ∧ OnlyRegs s u [Fld.key .repStatErr i 0]))

/-- R490 to R494: monitor units. -/
def Obligations.Monitors : Prop :=
  (∀ (s : State) (x : Sample) (c : Option Nat) (k : Nat) (v : Int) (m : MonRes), signalPeriodic (pageCls x.page) x.code = false → s.monUnits x.page x.code c = [k] → v = satInt 32 x.value →
    m = (s.mon k).now → ∃ u, exec (.monitorSample x c) s = .next u ∧ (u.mon k).now.count = min (2 ^ 32 - 1) (m.count + 1) ∧ (u.mon k).now.min = min m.min v ∧ (u.mon k).now.max = max m.max v ∧
      (u.mon k).now.sum = satInt 64 (m.sum + v) ∧ (u.mon k).snap = (s.mon k).snap ∧ (∀ j, j ≠ k → u.mon j = s.mon j) ∧ u = { s with mons := u.mons, regs := u.regs, outbox := u.outbox } ∧
      (s.fld .monBinLog2 0 (1 + k) = 0 → (v < sgn 24 (s.fld .monBinBase 0 (1 + k)) → Tbl.get natZero (u.mon k).now.bins 0 = min (2 ^ 32 - 1) (Tbl.get natZero m.bins 0 + 1)) ∧
        ∀ i : Nat, i < 30 → sgn 24 (s.fld .monBinBase 0 (1 + k)) + (i : Int) * 2 ^ s.fld .monBinShift 0 (1 + k) ≤ v →
          v < sgn 24 (s.fld .monBinBase 0 (1 + k)) + ((i : Int) + 1) * 2 ^ s.fld .monBinShift 0 (1 + k) →
          Tbl.get natZero (u.mon k).now.bins (i + 1) = min (2 ^ 32 - 1) (Tbl.get natZero m.bins (i + 1) + 1)) ∧
      (s.fld .monCfgHiEn 0 (1 + k) = 1 → sgn 32 (s.fld .monHi 0 (1 + k)) < v → Raised s u 0x03 0 0 ∧ u.fld .monLimitCaptValid 0 = 1 ∧
        (s.fld .monLimitCaptValid 0 = 0 → u.fld .monLimitCaptUnit 0 = k ∧ sgn 32 (u.fld .monLimitVal 0) = v)) ∧
      (s.fld .monCfgHiEn 0 (1 + k) = 0 → s.fld .monCfgLoEn 0 (1 + k) = 0 → u.regs = s.regs)) ∧
  (∀ (s : State) (k p code : Nat) (z : Int), k < 256 → s.fld .monCfgEn 0 (1 + k) = 1 → p = s.fld .monCfgPage 0 (1 + k) → s.fld .monCfgSrcB 0 (1 + k) = 0 →
    code = bits (s.reg (rkey (pageCls p) (pageInst p) monSel 0)).toNat 7 0 → signalOk (pageCls p) code = true → signalPeriodic (pageCls p) code = true →
    ∃ u, exec (.monitorPeriodic k z) s = .next u ∧ (u.mon k).now.count = min (2 ^ 32 - 1) ((s.mon k).now.count + 1) ∧
      (u.mon k).now.sum = satInt 64 ((s.mon k).now.sum + satInt 32 ((s.signalNow (pageCls p) (pageInst p) code).getD z))) ∧
  (∀ (s : State) (k : Nat), k = s.fld .monUnitUnit 0 →
    (∃ u, exec .snap s = .next u ∧ u = { s with mons := u.mons } ∧ (u.mon k).snap = (s.mon k).now ∧ (u.mon k).now = (s.mon k).now ∧ ∀ j, j ≠ k → u.mon j = s.mon j) ∧
    (∃ u, exec .clear s = .next u ∧ u = { s with mons := u.mons } ∧ (u.mon k).now = MonRes.reset ∧ (u.mon k).snap = (s.mon k).snap ∧ ∀ j, j ≠ k → u.mon j = s.mon j)) ∧
  (∀ (s : State) (k v : Nat), k = s.fld .monUnitUnit 0 →
    (monMay k (bits v 29 16) = true → ∃ u, exec (.monCfgWrite v) s = .next u ∧ u = { s with regs := u.regs, mons := u.mons } ∧ u.fld .monCfgEn 0 (1 + k) = bits v 31 31 ∧
      u.fld .monCfgSrcB 0 (1 + k) = bits v 30 30 ∧ u.fld .monCfgPage 0 (1 + k) = bits v 29 16 ∧ u.fld .monCfgCtxEn 0 (1 + k) = bits v 15 15 ∧ u.fld .monCfgCtx 0 (1 + k) = bits v 14 9 ∧
      u.fld .monCfgHiEn 0 (1 + k) = bits v 8 8 ∧ u.fld .monCfgLoEn 0 (1 + k) = bits v 7 7 ∧ (u.mon k).now = MonRes.reset ∧ (u.mon k).snap = (s.mon k).snap ∧
      OnlyRegs s u [Fld.key .monCfgEn 0 (1 + k)]) ∧
    (monMay k (bits v 29 16) = false → exec (.monCfgWrite v) s = .next s))

/-- R503, R505 to R508, R518, R538, R539: contexts. -/
def Obligations.ContextEvents : Prop :=
  (∀ (s : State) (c v : Nat), c < 64 → ∃ u, exec (.ttInvalidate c v) s = .next u ∧ u = { s with regs := u.regs } ∧ u.fld .ctxTtInvScope c = bits v 1 1 ∧ u.fld .ctxTtInvBusy c = s.fld .ctxTtInvBusy c ∧
    OnlyRegs s u [Fld.key .ctxTtInvScope c 0]) ∧
  (∀ (s : State) (c dva ag isl : Nat) (wr sp dm : Bool), c < 64 → ag < 7 →
    (∀ x, (s.walk c dva).dest = .fault x → x ≠ 0 → x < 7 → isl < 24 → ∃ u, exec (.translationWalk c dva ag isl wr sp dm) s = .next u ∧ Counted s u .ctxFaultCnt c ∧ Raised s u 0x20 c 1 ∧
      u = { s with regs := u.regs, outbox := u.outbox } ∧ u.fld .ctxFaultCaptValid c = 1 ∧
      (s.fld .ctxFaultCaptValid c = 0 → u.fld .ctxFaultCaptCause c = x ∧ u.fld .ctxFaultCaptAgent c = ag ∧ u.fld .ctxFaultCaptIsland c = (if ag < 4 then isl else 0) ∧
        u.fld .ctxFaultAddrLo c = dva % 2 ^ 32 ∧ u.fld .ctxFaultAddrHiAddr c = dva / 2 ^ 32 % 2 ^ 16) ∧
      (s.fld .ctxFaultCaptValid c = 1 → u.fld .ctxFaultCaptCause c = s.fld .ctxFaultCaptCause c ∧ u.fld .ctxFaultAddrLo c = s.fld .ctxFaultAddrLo c)) ∧
    (∀ k, (s.walk c dva).dest = .hbm k → (wr = true → (s.walk c dva).w = false → ∃ u, exec (.translationWalk c dva ag isl wr sp dm) s = .next u ∧ Counted s u .ctxFaultCnt c ∧
        (s.fld .ctxFaultCaptValid c = 0 → u.fld .ctxFaultCaptCause c = 3)) ∧
      ((wr = true → (s.walk c dva).w = true) → (dm = true → (s.walk c dva).suspect = false) → exec (.translationWalk c dva ag isl wr sp dm) s = .next s))) ∧
  (∀ (s : State) (v m : Nat), v < 2048 →
    (s.fld .irqVctlMask 0 (1 + v) = 0 → exec (.vectorRaise v) s = .next { s with outbox := s.outbox ++ [.message v] }) ∧
    (s.fld .irqVctlMask 0 (1 + v) = 1 → ∃ u, exec (.vectorRaise v) s = .next u ∧ u.fld .irqVctlPending 0 (1 + v) = 1 ∧ u = { s with regs := u.regs } ∧ OnlyRegs s u [Fld.key .irqVctlPending 0 (1 + v)]) ∧
    (∃ u, exec (.vectorUnmask v m) s = .next u ∧ u = { s with regs := u.regs, outbox := u.outbox } ∧ u.fld .irqVctlMask 0 (1 + v) = m % 2 ∧ OnlyRegs s u [Fld.key .irqVctlMask 0 (1 + v)] ∧
      (s.fld .irqVctlMask 0 (1 + v) = 1 ∧ s.fld .irqVctlPending 0 (1 + v) = 1 ∧ m % 2 = 0 → u.outbox = s.outbox ++ [.message v] ∧ u.fld .irqVctlPending 0 (1 + v) = 0) ∧
      (¬ (s.fld .irqVctlMask 0 (1 + v) = 1 ∧ s.fld .irqVctlPending 0 (1 + v) = 1 ∧ m % 2 = 0) → u.outbox = s.outbox ∧ u.fld .irqVctlPending 0 (1 + v) = s.fld .irqVctlPending 0 (1 + v)))) ∧
  (∀ (s : State) (cls inst n en cs rt c v : Nat), inst < instances cls → n < nevt cls → en = (s.reg (rkey cls inst 0x014 0)).toNat → cs = (s.reg (rkey cls inst 0x010 0)).toNat →
    rt = (s.reg (rkey cls inst 0x018 0)).toNat → c = bits rt 21 16 → v = bits rt 10 0 → (en.testBit n = false → exec (.eventRouteMessage cls inst n) s = .next s) ∧
    (en.testBit n = true → ∃ u, exec (.eventRouteMessage cls inst n) s = .next u ∧ (u.reg (rkey cls inst 0x010 0)).toNat.testBit n = true ∧ u = { s with regs := u.regs, outbox := u.outbox } ∧
      (cs &&& en ≠ 0 ∨ rt.testBit 31 = false → u.outbox = s.outbox) ∧
      (cs &&& en = 0 → rt.testBit 31 = true → v < s.fld .ctxIrqRangeCount c → s.fld .irqVctlMask 0 (1 + (s.fld .ctxIrqRangeBase c + v)) = 0 →
        u.outbox = s.outbox ++ [.message (s.fld .ctxIrqRangeBase c + v)]) ∧
      (cs &&& en = 0 → rt.testBit 31 = true → s.fld .ctxIrqRangeCount c ≤ v → cls ≠ 0x20 → Raised s u 0x20 c 2 ∧ ((s.reg (rkey 0x20 c 0x014 0)).toNat.testBit 2 = false → Counted s u .irqDropCnt c)))) ∧
  (∀ (s : State) (c cls inst v : Nat), inst < instances cls → reachable c (cls * 2 ^ 20 + inst * 2 ^ 12) = true →
    (s.testPerm c = true → s.pageOff cls inst = false → ∃ u, exec (.evtTest c cls inst v) s = .next u ∧ ∀ n, n < 8 → n < nevt cls → v.testBit n = true → Raised s u cls inst n) ∧
    (s.testPerm c = false ∨ s.pageOff cls inst = true → exec (.evtTest c cls inst v) s = .next s)) ∧
  (∀ (s : State) (pt cost : Nat) (ws : List (Nat × Nat)), pt ≤ 72 → ws ≠ [] → (∀ w ∈ ws, w.1 < 64 ∧ w.2 < 4) → (∀ w ∈ ws, w.1 ∈ Tbl.get noCtxs s.vwait pt) →
    ∃ u c k, exec (.qosArbitrate pt ws cost) s = .next u ∧ u = { s with vts := u.vts, vwait := u.vwait } ∧ (c, k) ∈ ws ∧ (∀ w ∈ ws, w.2 ≤ k) ∧
      (∀ d, (d, k) ∈ ws → (s.share pt c = 0 → s.share pt d = 0) ∧ ((s.share pt c = 0 ↔ s.share pt d = 0) → s.vtime pt c ≤ s.vtime pt d ∧ (s.vtime pt c = s.vtime pt d → c ≤ d))) ∧
      u.vtime pt c = (if s.share pt c = 0 then s.vtime pt c else (s.vtime pt c + cost * 256 / s.share pt c) % 2 ^ 64) ∧ ∀ d, d < 64 → d ≠ c → u.vtime pt d = s.vtime pt d) ∧
  (∀ (s : State) (c q n : Nat) (e : Entry), s.entry c q n = some e → e.done = false → (s.recClass e < 3 → ∃ u, exec (.qosAge c q n) s = .next u ∧
      u.entry c q n = some { e with rises := e.rises + 1, since := s.ptime } ∧ Counted s u .qosAgedCnt c ∧ u = { s with regs := u.regs, entries := u.entries }) ∧
    (3 ≤ s.recClass e → exec (.qosAge c q n) s = .next s))

/-! ### Rules of the spec, whole -/

/-- R53: E2M1 (0) and INT4 (4), and INT4 in its unsigned form (8), stand two to a byte. -/
def Obligations.FourBitPacking : Prop :=
  ∀ f ∈ [0, 4, 8], (∀ (bs : List (BitVec 8)) (n i : Nat) (b : BitVec 8), i < n → bs[i / 2]? = some b →
      (unpackElems (fmtBits f) bs n)[i]? = some (if i % 2 = 0 then bits b.toNat 3 0 else bits b.toNat 7 4)) ∧
    (∀ cs : List Nat, (∀ x ∈ cs, x < 16) → (packElems (fmtBits f) cs).length = (cs.length + 1) / 2 ∧ unpackElems (fmtBits f) (packElems (fmtBits f) cs) cs.length = cs)

/-- R78: the generator. -/
def Obligations.GeneratorSteps : Prop :=
  (∀ x : BitVec 32, BitVec.ofNat 32 (lfsrStep x.toNat) = (if x.getLsbD 0 then (x >>> 1) ^^^ 0x80200003#32 else x >>> 1) ∧ lfsrStep x.toNat < 2 ^ 32 ∧ (x ≠ 0 → lfsrStep x.toNat ≠ 0)) ∧
  (∀ i : Nat, (0x80200003#32).getLsbD i = true ↔ i + 1 ∈ [32, 22, 2, 1]) ∧
  (∀ s n k, s < 2 ^ 32 → lfsrSteps (n + k) s = lfsrSteps n (lfsrSteps k s)) ∧
  (∀ s k, drawAt s k = bits (lfsrSteps (16 * k + 16) s) 31 16)

/-- R360: a drop, of a generation in each of its states. -/
def Obligations.DropsOfGenerations : Prop :=
  ∀ (s : State) (c q n i : Nat) (e : Entry) (x : Model), s.entry c q n = some e → e.ripe 4 = true → e.op = 3 → x = (s.wgt c).model e.model → x.slotOf e.gen = some i →
    ((x.slot i).st = .ready → ∃ u, exec (.drop c q n) s = .next u ∧ Outcome u c q n 0 0 ∧ ((u.wgt c).model e.model).slot i = GenSlot.reset ∧ (((u.wgt c).model e.model).slot i).st = .free) ∧
    ((x.slot i).st = .serving ∨ (x.slot i).st = .retained → ∃ u d, exec (.drop c q n) s = .next u ∧ Outcome u c q n St.genInUse d ∧ u.wgts = s.wgts) ∧
    ((x.slot i).st = .loading → ∃ u d, exec (.drop c q n) s = .next u ∧ Outcome u c q n St.genNotReady d ∧ u.wgts = s.wgts)

/-- R406: RT_ENTRY. KIND is bits [31:30], STRAITS bits [23:0] of a direct entry and VIA bits [13:0] of a relay entry. -/
def Obligations.RouteEntryWrites : Prop :=
  ∀ (s : State) (v d k : Nat), v < 2 ^ 32 → d = s.fld .rtIndexIndex 0 → k = (if bits v 31 30 = 3 ∨ (bits v 31 30 ≠ 0 ∧ d = 0x3FFF) then 3 else if bits v 31 30 = 1 ∧ bits v 23 0 = 0 then 4
      else if bits v 31 30 = 2 ∧ (bits (s.route (bits v 13 0)) 31 30 ≠ 1 ∨ bits v 13 0 = s.fabId ∨ bits v 13 0 = d) then 5 else 0) →
    (k = 0 → ∃ u, exec (.rtEntryWrite v) s = .next u ∧ u = { s with routes := u.routes } ∧ u.route d = v ∧ ∀ x, x ≠ d → u.route x = s.route x) ∧
    (k ≠ 0 → ∃ u, exec (.rtEntryWrite v) s = .next u ∧ u = { s with regs := u.regs } ∧ u.fld .rtStatErr 0 = k ∧ OnlyRegs s u [Fld.key .rtStatErr 0 0]) ∧
    (v = 0 → k = 0)
end

