-- ==== Sys2Proof/Laws/State.lean ====
section
/-! SUPPORT. What each update of State leaves: one lemma for each field and update. -/
namespace Sys2Proof.Machine

@[simp] theorem State.setReg_run (s : State) (k : Nat) (w : W32) : (s.setReg k w).run = s.run := rfl
@[simp] theorem State.setReg_die (s : State) (k : Nat) (w : W32) : (s.setReg k w).die = s.die := rfl
@[simp] theorem State.setReg_stage (s : State) (k : Nat) (w : W32) : (s.setReg k w).stage = s.stage := rfl
@[simp] theorem State.setReg_latch (s : State) (k : Nat) (w : W32) : (s.setReg k w).latch = s.latch := rfl
@[simp] theorem State.setReg_hbm (s : State) (k : Nat) (w : W32) : (s.setReg k w).hbm = s.hbm := rfl
@[simp] theorem State.setReg_poison (s : State) (k : Nat) (w : W32) : (s.setReg k w).poison = s.poison := rfl
@[simp] theorem State.setReg_fuse (s : State) (k : Nat) (w : W32) : (s.setReg k w).fuse = s.fuse := rfl
@[simp] theorem State.setReg_cays (s : State) (k : Nat) (w : W32) : (s.setReg k w).cays = s.cays := rfl
@[simp] theorem State.setReg_ics (s : State) (k : Nat) (w : W32) : (s.setReg k w).ics = s.ics := rfl
@[simp] theorem State.setReg_tasks (s : State) (k : Nat) (w : W32) : (s.setReg k w).tasks = s.tasks := rfl
@[simp] theorem State.setReg_taskNum (s : State) (k : Nat) (w : W32) : (s.setReg k w).taskNum = s.taskNum := rfl
@[simp] theorem State.setReg_shadowCnt (s : State) (k : Nat) (w : W32) : (s.setReg k w).shadowCnt = s.shadowCnt := rfl
@[simp] theorem State.setReg_notifs (s : State) (k : Nat) (w : W32) : (s.setReg k w).notifs = s.notifs := rfl
@[simp] theorem State.setReg_entries (s : State) (k : Nat) (w : W32) : (s.setReg k w).entries = s.entries := rfl
@[simp] theorem State.setReg_groups (s : State) (k : Nat) (w : W32) : (s.setReg k w).groups = s.groups := rfl
@[simp] theorem State.setReg_groupNum (s : State) (k : Nat) (w : W32) : (s.setReg k w).groupNum = s.groupNum := rfl
@[simp] theorem State.setReg_txnNum (s : State) (k : Nat) (w : W32) : (s.setReg k w).txnNum = s.txnNum := rfl
@[simp] theorem State.setReg_wgts (s : State) (k : Nat) (w : W32) : (s.setReg k w).wgts = s.wgts := rfl
@[simp] theorem State.setReg_roles (s : State) (k : Nat) (w : W32) : (s.setReg k w).roles = s.roles := rfl
@[simp] theorem State.setReg_srvs (s : State) (k : Nat) (w : W32) : (s.setReg k w).srvs = s.srvs := rfl
@[simp] theorem State.setReg_pw (s : State) (k : Nat) (w : W32) : (s.setReg k w).pw = s.pw := rfl
@[simp] theorem State.setReg_vts (s : State) (k : Nat) (w : W32) : (s.setReg k w).vts = s.vts := rfl
@[simp] theorem State.setReg_vwait (s : State) (k : Nat) (w : W32) : (s.setReg k w).vwait = s.vwait := rfl
@[simp] theorem State.setReg_loads (s : State) (k : Nat) (w : W32) : (s.setReg k w).loads = s.loads := rfl
@[simp] theorem State.setReg_turn (s : State) (k : Nat) (w : W32) : (s.setReg k w).turn = s.turn := rfl
@[simp] theorem State.setReg_turnPast (s : State) (k : Nat) (w : W32) : (s.setReg k w).turnPast = s.turnPast := rfl
@[simp] theorem State.setReg_strs (s : State) (k : Nat) (w : W32) : (s.setReg k w).strs = s.strs := rfl
@[simp] theorem State.setReg_routes (s : State) (k : Nat) (w : W32) : (s.setReg k w).routes = s.routes := rfl
@[simp] theorem State.setReg_engs (s : State) (k : Nat) (w : W32) : (s.setReg k w).engs = s.engs := rfl
@[simp] theorem State.setReg_colls (s : State) (k : Nat) (w : W32) : (s.setReg k w).colls = s.colls := rfl
@[simp] theorem State.setReg_collNum (s : State) (k : Nat) (w : W32) : (s.setReg k w).collNum = s.collNum := rfl
@[simp] theorem State.setReg_tgs (s : State) (k : Nat) (w : W32) : (s.setReg k w).tgs = s.tgs := rfl
@[simp] theorem State.setReg_runs (s : State) (k : Nat) (w : W32) : (s.setReg k w).runs = s.runs := rfl
@[simp] theorem State.setReg_runNum (s : State) (k : Nat) (w : W32) : (s.setReg k w).runNum = s.runNum := rfl
@[simp] theorem State.setReg_stos (s : State) (k : Nat) (w : W32) : (s.setReg k w).stos = s.stos := rfl
@[simp] theorem State.setReg_stoNum (s : State) (k : Nat) (w : W32) : (s.setReg k w).stoNum = s.stoNum := rfl
@[simp] theorem State.setReg_ckpts (s : State) (k : Nat) (w : W32) : (s.setReg k w).ckpts = s.ckpts := rfl
@[simp] theorem State.setReg_cw (s : State) (k : Nat) (w : W32) : (s.setReg k w).cw = s.cw := rfl
@[simp] theorem State.setReg_ports (s : State) (k : Nat) (w : W32) : (s.setReg k w).ports = s.ports := rfl
@[simp] theorem State.setReg_mod (s : State) (k : Nat) (w : W32) : (s.setReg k w).mod = s.mod := rfl
@[simp] theorem State.setReg_mems (s : State) (k : Nat) (w : W32) : (s.setReg k w).mems = s.mems := rfl
@[simp] theorem State.setReg_mons (s : State) (k : Nat) (w : W32) : (s.setReg k w).mons = s.mons := rfl
@[simp] theorem State.setReg_fw (s : State) (k : Nat) (w : W32) : (s.setReg k w).fw = s.fw := rfl
@[simp] theorem State.setReg_hostReads (s : State) (k : Nat) (w : W32) : (s.setReg k w).hostReads = s.hostReads := rfl
@[simp] theorem State.setReg_hostTag (s : State) (k : Nat) (w : W32) : (s.setReg k w).hostTag = s.hostTag := rfl
@[simp] theorem State.setReg_outbox (s : State) (k : Nat) (w : W32) : (s.setReg k w).outbox = s.outbox := rfl
@[simp] theorem State.setReg_ptime (s : State) (k : Nat) (w : W32) : (s.setReg k w).ptime = s.ptime := rfl
@[simp] theorem State.setReg_free (s : State) (k : Nat) (w : W32) : (s.setReg k w).free = s.free := rfl
@[simp] theorem State.setReg_pending (s : State) (k : Nat) (w : W32) : (s.setReg k w).pending = s.pending := rfl
@[simp] theorem State.setIc_run (s : State) (isl : Nat) (c : ICache) : (s.setIc isl c).run = s.run := rfl
@[simp] theorem State.setIc_die (s : State) (isl : Nat) (c : ICache) : (s.setIc isl c).die = s.die := rfl
@[simp] theorem State.setIc_regs (s : State) (isl : Nat) (c : ICache) : (s.setIc isl c).regs = s.regs := rfl
@[simp] theorem State.setIc_stage (s : State) (isl : Nat) (c : ICache) : (s.setIc isl c).stage = s.stage := rfl
@[simp] theorem State.setIc_latch (s : State) (isl : Nat) (c : ICache) : (s.setIc isl c).latch = s.latch := rfl
@[simp] theorem State.setIc_hbm (s : State) (isl : Nat) (c : ICache) : (s.setIc isl c).hbm = s.hbm := rfl
@[simp] theorem State.setIc_poison (s : State) (isl : Nat) (c : ICache) : (s.setIc isl c).poison = s.poison := rfl
@[simp] theorem State.setIc_fuse (s : State) (isl : Nat) (c : ICache) : (s.setIc isl c).fuse = s.fuse := rfl
@[simp] theorem State.setIc_cays (s : State) (isl : Nat) (c : ICache) : (s.setIc isl c).cays = s.cays := rfl
@[simp] theorem State.setIc_tasks (s : State) (isl : Nat) (c : ICache) : (s.setIc isl c).tasks = s.tasks := rfl
@[simp] theorem State.setIc_taskNum (s : State) (isl : Nat) (c : ICache) : (s.setIc isl c).taskNum = s.taskNum := rfl
@[simp] theorem State.setIc_shadowCnt (s : State) (isl : Nat) (c : ICache) : (s.setIc isl c).shadowCnt = s.shadowCnt := rfl
@[simp] theorem State.setIc_notifs (s : State) (isl : Nat) (c : ICache) : (s.setIc isl c).notifs = s.notifs := rfl
@[simp] theorem State.setIc_entries (s : State) (isl : Nat) (c : ICache) : (s.setIc isl c).entries = s.entries := rfl
@[simp] theorem State.setIc_groups (s : State) (isl : Nat) (c : ICache) : (s.setIc isl c).groups = s.groups := rfl
@[simp] theorem State.setIc_groupNum (s : State) (isl : Nat) (c : ICache) : (s.setIc isl c).groupNum = s.groupNum := rfl
@[simp] theorem State.setIc_txnNum (s : State) (isl : Nat) (c : ICache) : (s.setIc isl c).txnNum = s.txnNum := rfl
@[simp] theorem State.setIc_wgts (s : State) (isl : Nat) (c : ICache) : (s.setIc isl c).wgts = s.wgts := rfl
@[simp] theorem State.setIc_roles (s : State) (isl : Nat) (c : ICache) : (s.setIc isl c).roles = s.roles := rfl
@[simp] theorem State.setIc_srvs (s : State) (isl : Nat) (c : ICache) : (s.setIc isl c).srvs = s.srvs := rfl
@[simp] theorem State.setIc_pw (s : State) (isl : Nat) (c : ICache) : (s.setIc isl c).pw = s.pw := rfl
@[simp] theorem State.setIc_vts (s : State) (isl : Nat) (c : ICache) : (s.setIc isl c).vts = s.vts := rfl
@[simp] theorem State.setIc_vwait (s : State) (isl : Nat) (c : ICache) : (s.setIc isl c).vwait = s.vwait := rfl
@[simp] theorem State.setIc_loads (s : State) (isl : Nat) (c : ICache) : (s.setIc isl c).loads = s.loads := rfl
@[simp] theorem State.setIc_turn (s : State) (isl : Nat) (c : ICache) : (s.setIc isl c).turn = s.turn := rfl
@[simp] theorem State.setIc_turnPast (s : State) (isl : Nat) (c : ICache) : (s.setIc isl c).turnPast = s.turnPast := rfl
@[simp] theorem State.setIc_strs (s : State) (isl : Nat) (c : ICache) : (s.setIc isl c).strs = s.strs := rfl
@[simp] theorem State.setIc_routes (s : State) (isl : Nat) (c : ICache) : (s.setIc isl c).routes = s.routes := rfl
@[simp] theorem State.setIc_engs (s : State) (isl : Nat) (c : ICache) : (s.setIc isl c).engs = s.engs := rfl
@[simp] theorem State.setIc_colls (s : State) (isl : Nat) (c : ICache) : (s.setIc isl c).colls = s.colls := rfl
@[simp] theorem State.setIc_collNum (s : State) (isl : Nat) (c : ICache) : (s.setIc isl c).collNum = s.collNum := rfl
@[simp] theorem State.setIc_tgs (s : State) (isl : Nat) (c : ICache) : (s.setIc isl c).tgs = s.tgs := rfl
@[simp] theorem State.setIc_runs (s : State) (isl : Nat) (c : ICache) : (s.setIc isl c).runs = s.runs := rfl
@[simp] theorem State.setIc_runNum (s : State) (isl : Nat) (c : ICache) : (s.setIc isl c).runNum = s.runNum := rfl
@[simp] theorem State.setIc_stos (s : State) (isl : Nat) (c : ICache) : (s.setIc isl c).stos = s.stos := rfl
@[simp] theorem State.setIc_stoNum (s : State) (isl : Nat) (c : ICache) : (s.setIc isl c).stoNum = s.stoNum := rfl
@[simp] theorem State.setIc_ckpts (s : State) (isl : Nat) (c : ICache) : (s.setIc isl c).ckpts = s.ckpts := rfl
@[simp] theorem State.setIc_cw (s : State) (isl : Nat) (c : ICache) : (s.setIc isl c).cw = s.cw := rfl
@[simp] theorem State.setIc_ports (s : State) (isl : Nat) (c : ICache) : (s.setIc isl c).ports = s.ports := rfl
@[simp] theorem State.setIc_mod (s : State) (isl : Nat) (c : ICache) : (s.setIc isl c).mod = s.mod := rfl
@[simp] theorem State.setIc_mems (s : State) (isl : Nat) (c : ICache) : (s.setIc isl c).mems = s.mems := rfl
@[simp] theorem State.setIc_mons (s : State) (isl : Nat) (c : ICache) : (s.setIc isl c).mons = s.mons := rfl
@[simp] theorem State.setIc_fw (s : State) (isl : Nat) (c : ICache) : (s.setIc isl c).fw = s.fw := rfl
@[simp] theorem State.setIc_hostReads (s : State) (isl : Nat) (c : ICache) : (s.setIc isl c).hostReads = s.hostReads := rfl
@[simp] theorem State.setIc_hostTag (s : State) (isl : Nat) (c : ICache) : (s.setIc isl c).hostTag = s.hostTag := rfl
@[simp] theorem State.setIc_outbox (s : State) (isl : Nat) (c : ICache) : (s.setIc isl c).outbox = s.outbox := rfl
@[simp] theorem State.setIc_ptime (s : State) (isl : Nat) (c : ICache) : (s.setIc isl c).ptime = s.ptime := rfl
@[simp] theorem State.setIc_free (s : State) (isl : Nat) (c : ICache) : (s.setIc isl c).free = s.free := rfl
@[simp] theorem State.setIc_pending (s : State) (isl : Nat) (c : ICache) : (s.setIc isl c).pending = s.pending := rfl
@[simp] theorem State.emit_run (s : State) (e : Emit) : (s.emit e).run = s.run := rfl
@[simp] theorem State.emit_die (s : State) (e : Emit) : (s.emit e).die = s.die := rfl
@[simp] theorem State.emit_regs (s : State) (e : Emit) : (s.emit e).regs = s.regs := rfl
@[simp] theorem State.emit_stage (s : State) (e : Emit) : (s.emit e).stage = s.stage := rfl
@[simp] theorem State.emit_latch (s : State) (e : Emit) : (s.emit e).latch = s.latch := rfl
@[simp] theorem State.emit_hbm (s : State) (e : Emit) : (s.emit e).hbm = s.hbm := rfl
@[simp] theorem State.emit_poison (s : State) (e : Emit) : (s.emit e).poison = s.poison := rfl
@[simp] theorem State.emit_fuse (s : State) (e : Emit) : (s.emit e).fuse = s.fuse := rfl
@[simp] theorem State.emit_cays (s : State) (e : Emit) : (s.emit e).cays = s.cays := rfl
@[simp] theorem State.emit_ics (s : State) (e : Emit) : (s.emit e).ics = s.ics := rfl
@[simp] theorem State.emit_tasks (s : State) (e : Emit) : (s.emit e).tasks = s.tasks := rfl
@[simp] theorem State.emit_taskNum (s : State) (e : Emit) : (s.emit e).taskNum = s.taskNum := rfl
@[simp] theorem State.emit_shadowCnt (s : State) (e : Emit) : (s.emit e).shadowCnt = s.shadowCnt := rfl
@[simp] theorem State.emit_notifs (s : State) (e : Emit) : (s.emit e).notifs = s.notifs := rfl
@[simp] theorem State.emit_entries (s : State) (e : Emit) : (s.emit e).entries = s.entries := rfl
@[simp] theorem State.emit_groups (s : State) (e : Emit) : (s.emit e).groups = s.groups := rfl
@[simp] theorem State.emit_groupNum (s : State) (e : Emit) : (s.emit e).groupNum = s.groupNum := rfl
@[simp] theorem State.emit_txnNum (s : State) (e : Emit) : (s.emit e).txnNum = s.txnNum := rfl
@[simp] theorem State.emit_wgts (s : State) (e : Emit) : (s.emit e).wgts = s.wgts := rfl
@[simp] theorem State.emit_roles (s : State) (e : Emit) : (s.emit e).roles = s.roles := rfl
@[simp] theorem State.emit_srvs (s : State) (e : Emit) : (s.emit e).srvs = s.srvs := rfl
@[simp] theorem State.emit_pw (s : State) (e : Emit) : (s.emit e).pw = s.pw := rfl
@[simp] theorem State.emit_vts (s : State) (e : Emit) : (s.emit e).vts = s.vts := rfl
@[simp] theorem State.emit_vwait (s : State) (e : Emit) : (s.emit e).vwait = s.vwait := rfl
@[simp] theorem State.emit_loads (s : State) (e : Emit) : (s.emit e).loads = s.loads := rfl
@[simp] theorem State.emit_turn (s : State) (e : Emit) : (s.emit e).turn = s.turn := rfl
@[simp] theorem State.emit_turnPast (s : State) (e : Emit) : (s.emit e).turnPast = s.turnPast := rfl
@[simp] theorem State.emit_strs (s : State) (e : Emit) : (s.emit e).strs = s.strs := rfl
@[simp] theorem State.emit_routes (s : State) (e : Emit) : (s.emit e).routes = s.routes := rfl
@[simp] theorem State.emit_engs (s : State) (e : Emit) : (s.emit e).engs = s.engs := rfl
@[simp] theorem State.emit_colls (s : State) (e : Emit) : (s.emit e).colls = s.colls := rfl
@[simp] theorem State.emit_collNum (s : State) (e : Emit) : (s.emit e).collNum = s.collNum := rfl
@[simp] theorem State.emit_tgs (s : State) (e : Emit) : (s.emit e).tgs = s.tgs := rfl
@[simp] theorem State.emit_runs (s : State) (e : Emit) : (s.emit e).runs = s.runs := rfl
@[simp] theorem State.emit_runNum (s : State) (e : Emit) : (s.emit e).runNum = s.runNum := rfl
@[simp] theorem State.emit_stos (s : State) (e : Emit) : (s.emit e).stos = s.stos := rfl
@[simp] theorem State.emit_stoNum (s : State) (e : Emit) : (s.emit e).stoNum = s.stoNum := rfl
@[simp] theorem State.emit_ckpts (s : State) (e : Emit) : (s.emit e).ckpts = s.ckpts := rfl
@[simp] theorem State.emit_cw (s : State) (e : Emit) : (s.emit e).cw = s.cw := rfl
@[simp] theorem State.emit_ports (s : State) (e : Emit) : (s.emit e).ports = s.ports := rfl
@[simp] theorem State.emit_mod (s : State) (e : Emit) : (s.emit e).mod = s.mod := rfl
@[simp] theorem State.emit_mems (s : State) (e : Emit) : (s.emit e).mems = s.mems := rfl
@[simp] theorem State.emit_mons (s : State) (e : Emit) : (s.emit e).mons = s.mons := rfl
@[simp] theorem State.emit_fw (s : State) (e : Emit) : (s.emit e).fw = s.fw := rfl
@[simp] theorem State.emit_hostReads (s : State) (e : Emit) : (s.emit e).hostReads = s.hostReads := rfl
@[simp] theorem State.emit_hostTag (s : State) (e : Emit) : (s.emit e).hostTag = s.hostTag := rfl
@[simp] theorem State.emit_ptime (s : State) (e : Emit) : (s.emit e).ptime = s.ptime := rfl
@[simp] theorem State.emit_free (s : State) (e : Emit) : (s.emit e).free = s.free := rfl
@[simp] theorem State.emit_pending (s : State) (e : Emit) : (s.emit e).pending = s.pending := rfl
@[simp] theorem State.took_run (s : State) : (s.took).run = s.run := rfl
@[simp] theorem State.took_die (s : State) : (s.took).die = s.die := rfl
@[simp] theorem State.took_regs (s : State) : (s.took).regs = s.regs := rfl
@[simp] theorem State.took_stage (s : State) : (s.took).stage = s.stage := rfl
@[simp] theorem State.took_latch (s : State) : (s.took).latch = s.latch := rfl
@[simp] theorem State.took_hbm (s : State) : (s.took).hbm = s.hbm := rfl
@[simp] theorem State.took_poison (s : State) : (s.took).poison = s.poison := rfl
@[simp] theorem State.took_fuse (s : State) : (s.took).fuse = s.fuse := rfl
@[simp] theorem State.took_cays (s : State) : (s.took).cays = s.cays := rfl
@[simp] theorem State.took_ics (s : State) : (s.took).ics = s.ics := rfl
@[simp] theorem State.took_tasks (s : State) : (s.took).tasks = s.tasks := rfl
@[simp] theorem State.took_taskNum (s : State) : (s.took).taskNum = s.taskNum := rfl
@[simp] theorem State.took_shadowCnt (s : State) : (s.took).shadowCnt = s.shadowCnt := rfl
@[simp] theorem State.took_notifs (s : State) : (s.took).notifs = s.notifs := rfl
@[simp] theorem State.took_entries (s : State) : (s.took).entries = s.entries := rfl
@[simp] theorem State.took_groups (s : State) : (s.took).groups = s.groups := rfl
@[simp] theorem State.took_groupNum (s : State) : (s.took).groupNum = s.groupNum := rfl
@[simp] theorem State.took_txnNum (s : State) : (s.took).txnNum = s.txnNum := rfl
@[simp] theorem State.took_wgts (s : State) : (s.took).wgts = s.wgts := rfl
@[simp] theorem State.took_roles (s : State) : (s.took).roles = s.roles := rfl
@[simp] theorem State.took_srvs (s : State) : (s.took).srvs = s.srvs := rfl
@[simp] theorem State.took_pw (s : State) : (s.took).pw = s.pw := rfl
@[simp] theorem State.took_vts (s : State) : (s.took).vts = s.vts := rfl
@[simp] theorem State.took_vwait (s : State) : (s.took).vwait = s.vwait := rfl
@[simp] theorem State.took_loads (s : State) : (s.took).loads = s.loads := rfl
@[simp] theorem State.took_turn (s : State) : (s.took).turn = s.turn := rfl
@[simp] theorem State.took_turnPast (s : State) : (s.took).turnPast = s.turnPast := rfl
@[simp] theorem State.took_strs (s : State) : (s.took).strs = s.strs := rfl
@[simp] theorem State.took_routes (s : State) : (s.took).routes = s.routes := rfl
@[simp] theorem State.took_engs (s : State) : (s.took).engs = s.engs := rfl
@[simp] theorem State.took_colls (s : State) : (s.took).colls = s.colls := rfl
@[simp] theorem State.took_collNum (s : State) : (s.took).collNum = s.collNum := rfl
@[simp] theorem State.took_tgs (s : State) : (s.took).tgs = s.tgs := rfl
@[simp] theorem State.took_runs (s : State) : (s.took).runs = s.runs := rfl
@[simp] theorem State.took_runNum (s : State) : (s.took).runNum = s.runNum := rfl
@[simp] theorem State.took_stos (s : State) : (s.took).stos = s.stos := rfl
@[simp] theorem State.took_stoNum (s : State) : (s.took).stoNum = s.stoNum := rfl
@[simp] theorem State.took_ckpts (s : State) : (s.took).ckpts = s.ckpts := rfl
@[simp] theorem State.took_cw (s : State) : (s.took).cw = s.cw := rfl
@[simp] theorem State.took_ports (s : State) : (s.took).ports = s.ports := rfl
@[simp] theorem State.took_mod (s : State) : (s.took).mod = s.mod := rfl
@[simp] theorem State.took_mems (s : State) : (s.took).mems = s.mems := rfl
@[simp] theorem State.took_mons (s : State) : (s.took).mons = s.mons := rfl
@[simp] theorem State.took_fw (s : State) : (s.took).fw = s.fw := rfl
@[simp] theorem State.took_hostReads (s : State) : (s.took).hostReads = s.hostReads := rfl
@[simp] theorem State.took_hostTag (s : State) : (s.took).hostTag = s.hostTag := rfl
@[simp] theorem State.took_outbox (s : State) : (s.took).outbox = s.outbox := rfl
@[simp] theorem State.took_ptime (s : State) : (s.took).ptime = s.ptime := rfl
@[simp] theorem State.took_pending (s : State) : (s.took).pending = s.pending := rfl
@[simp] theorem State.setCay_run (s : State) (r : CayRef) (c : Cay) : (s.setCay r c).run = s.run := rfl
@[simp] theorem State.setCay_die (s : State) (r : CayRef) (c : Cay) : (s.setCay r c).die = s.die := rfl
@[simp] theorem State.setCay_regs (s : State) (r : CayRef) (c : Cay) : (s.setCay r c).regs = s.regs := rfl
@[simp] theorem State.setCay_stage (s : State) (r : CayRef) (c : Cay) : (s.setCay r c).stage = s.stage := rfl
@[simp] theorem State.setCay_latch (s : State) (r : CayRef) (c : Cay) : (s.setCay r c).latch = s.latch := rfl
@[simp] theorem State.setCay_hbm (s : State) (r : CayRef) (c : Cay) : (s.setCay r c).hbm = s.hbm := rfl
@[simp] theorem State.setCay_poison (s : State) (r : CayRef) (c : Cay) : (s.setCay r c).poison = s.poison := rfl
@[simp] theorem State.setCay_fuse (s : State) (r : CayRef) (c : Cay) : (s.setCay r c).fuse = s.fuse := rfl
@[simp] theorem State.setCay_ics (s : State) (r : CayRef) (c : Cay) : (s.setCay r c).ics = s.ics := rfl
@[simp] theorem State.setCay_tasks (s : State) (r : CayRef) (c : Cay) : (s.setCay r c).tasks = s.tasks := rfl
@[simp] theorem State.setCay_taskNum (s : State) (r : CayRef) (c : Cay) : (s.setCay r c).taskNum = s.taskNum := rfl
@[simp] theorem State.setCay_shadowCnt (s : State) (r : CayRef) (c : Cay) : (s.setCay r c).shadowCnt = s.shadowCnt := rfl
@[simp] theorem State.setCay_notifs (s : State) (r : CayRef) (c : Cay) : (s.setCay r c).notifs = s.notifs := rfl
@[simp] theorem State.setCay_entries (s : State) (r : CayRef) (c : Cay) : (s.setCay r c).entries = s.entries := rfl
@[simp] theorem State.setCay_groups (s : State) (r : CayRef) (c : Cay) : (s.setCay r c).groups = s.groups := rfl
@[simp] theorem State.setCay_groupNum (s : State) (r : CayRef) (c : Cay) : (s.setCay r c).groupNum = s.groupNum := rfl
@[simp] theorem State.setCay_txnNum (s : State) (r : CayRef) (c : Cay) : (s.setCay r c).txnNum = s.txnNum := rfl
@[simp] theorem State.setCay_wgts (s : State) (r : CayRef) (c : Cay) : (s.setCay r c).wgts = s.wgts := rfl
@[simp] theorem State.setCay_roles (s : State) (r : CayRef) (c : Cay) : (s.setCay r c).roles = s.roles := rfl
@[simp] theorem State.setCay_srvs (s : State) (r : CayRef) (c : Cay) : (s.setCay r c).srvs = s.srvs := rfl
@[simp] theorem State.setCay_pw (s : State) (r : CayRef) (c : Cay) : (s.setCay r c).pw = s.pw := rfl
@[simp] theorem State.setCay_vts (s : State) (r : CayRef) (c : Cay) : (s.setCay r c).vts = s.vts := rfl
@[simp] theorem State.setCay_vwait (s : State) (r : CayRef) (c : Cay) : (s.setCay r c).vwait = s.vwait := rfl
@[simp] theorem State.setCay_loads (s : State) (r : CayRef) (c : Cay) : (s.setCay r c).loads = s.loads := rfl
@[simp] theorem State.setCay_turn (s : State) (r : CayRef) (c : Cay) : (s.setCay r c).turn = s.turn := rfl
@[simp] theorem State.setCay_turnPast (s : State) (r : CayRef) (c : Cay) : (s.setCay r c).turnPast = s.turnPast := rfl
@[simp] theorem State.setCay_strs (s : State) (r : CayRef) (c : Cay) : (s.setCay r c).strs = s.strs := rfl
@[simp] theorem State.setCay_routes (s : State) (r : CayRef) (c : Cay) : (s.setCay r c).routes = s.routes := rfl
@[simp] theorem State.setCay_engs (s : State) (r : CayRef) (c : Cay) : (s.setCay r c).engs = s.engs := rfl
@[simp] theorem State.setCay_colls (s : State) (r : CayRef) (c : Cay) : (s.setCay r c).colls = s.colls := rfl
@[simp] theorem State.setCay_collNum (s : State) (r : CayRef) (c : Cay) : (s.setCay r c).collNum = s.collNum := rfl
@[simp] theorem State.setCay_tgs (s : State) (r : CayRef) (c : Cay) : (s.setCay r c).tgs = s.tgs := rfl
@[simp] theorem State.setCay_runs (s : State) (r : CayRef) (c : Cay) : (s.setCay r c).runs = s.runs := rfl
@[simp] theorem State.setCay_runNum (s : State) (r : CayRef) (c : Cay) : (s.setCay r c).runNum = s.runNum := rfl
@[simp] theorem State.setCay_stos (s : State) (r : CayRef) (c : Cay) : (s.setCay r c).stos = s.stos := rfl
@[simp] theorem State.setCay_stoNum (s : State) (r : CayRef) (c : Cay) : (s.setCay r c).stoNum = s.stoNum := rfl
@[simp] theorem State.setCay_ckpts (s : State) (r : CayRef) (c : Cay) : (s.setCay r c).ckpts = s.ckpts := rfl
@[simp] theorem State.setCay_cw (s : State) (r : CayRef) (c : Cay) : (s.setCay r c).cw = s.cw := rfl
@[simp] theorem State.setCay_ports (s : State) (r : CayRef) (c : Cay) : (s.setCay r c).ports = s.ports := rfl
@[simp] theorem State.setCay_mod (s : State) (r : CayRef) (c : Cay) : (s.setCay r c).mod = s.mod := rfl
@[simp] theorem State.setCay_mems (s : State) (r : CayRef) (c : Cay) : (s.setCay r c).mems = s.mems := rfl
@[simp] theorem State.setCay_mons (s : State) (r : CayRef) (c : Cay) : (s.setCay r c).mons = s.mons := rfl
@[simp] theorem State.setCay_fw (s : State) (r : CayRef) (c : Cay) : (s.setCay r c).fw = s.fw := rfl
@[simp] theorem State.setCay_hostReads (s : State) (r : CayRef) (c : Cay) : (s.setCay r c).hostReads = s.hostReads := rfl
@[simp] theorem State.setCay_hostTag (s : State) (r : CayRef) (c : Cay) : (s.setCay r c).hostTag = s.hostTag := rfl
@[simp] theorem State.setCay_outbox (s : State) (r : CayRef) (c : Cay) : (s.setCay r c).outbox = s.outbox := rfl
@[simp] theorem State.setCay_ptime (s : State) (r : CayRef) (c : Cay) : (s.setCay r c).ptime = s.ptime := rfl
@[simp] theorem State.setCay_free (s : State) (r : CayRef) (c : Cay) : (s.setCay r c).free = s.free := rfl
@[simp] theorem State.setCay_pending (s : State) (r : CayRef) (c : Cay) : (s.setCay r c).pending = s.pending := rfl
@[simp] theorem State.setTask_run (s : State) (n : Nat) (x : Task) : (s.setTask n x).run = s.run := rfl
@[simp] theorem State.setTask_die (s : State) (n : Nat) (x : Task) : (s.setTask n x).die = s.die := rfl
@[simp] theorem State.setTask_regs (s : State) (n : Nat) (x : Task) : (s.setTask n x).regs = s.regs := rfl
@[simp] theorem State.setTask_stage (s : State) (n : Nat) (x : Task) : (s.setTask n x).stage = s.stage := rfl
@[simp] theorem State.setTask_latch (s : State) (n : Nat) (x : Task) : (s.setTask n x).latch = s.latch := rfl
@[simp] theorem State.setTask_hbm (s : State) (n : Nat) (x : Task) : (s.setTask n x).hbm = s.hbm := rfl
@[simp] theorem State.setTask_poison (s : State) (n : Nat) (x : Task) : (s.setTask n x).poison = s.poison := rfl
@[simp] theorem State.setTask_fuse (s : State) (n : Nat) (x : Task) : (s.setTask n x).fuse = s.fuse := rfl
@[simp] theorem State.setTask_cays (s : State) (n : Nat) (x : Task) : (s.setTask n x).cays = s.cays := rfl
@[simp] theorem State.setTask_ics (s : State) (n : Nat) (x : Task) : (s.setTask n x).ics = s.ics := rfl
@[simp] theorem State.setTask_taskNum (s : State) (n : Nat) (x : Task) : (s.setTask n x).taskNum = s.taskNum := rfl
@[simp] theorem State.setTask_shadowCnt (s : State) (n : Nat) (x : Task) : (s.setTask n x).shadowCnt = s.shadowCnt := rfl
@[simp] theorem State.setTask_notifs (s : State) (n : Nat) (x : Task) : (s.setTask n x).notifs = s.notifs := rfl
@[simp] theorem State.setTask_entries (s : State) (n : Nat) (x : Task) : (s.setTask n x).entries = s.entries := rfl
@[simp] theorem State.setTask_groups (s : State) (n : Nat) (x : Task) : (s.setTask n x).groups = s.groups := rfl
@[simp] theorem State.setTask_groupNum (s : State) (n : Nat) (x : Task) : (s.setTask n x).groupNum = s.groupNum := rfl
@[simp] theorem State.setTask_txnNum (s : State) (n : Nat) (x : Task) : (s.setTask n x).txnNum = s.txnNum := rfl
@[simp] theorem State.setTask_wgts (s : State) (n : Nat) (x : Task) : (s.setTask n x).wgts = s.wgts := rfl
@[simp] theorem State.setTask_roles (s : State) (n : Nat) (x : Task) : (s.setTask n x).roles = s.roles := rfl
@[simp] theorem State.setTask_srvs (s : State) (n : Nat) (x : Task) : (s.setTask n x).srvs = s.srvs := rfl
@[simp] theorem State.setTask_pw (s : State) (n : Nat) (x : Task) : (s.setTask n x).pw = s.pw := rfl
@[simp] theorem State.setTask_vts (s : State) (n : Nat) (x : Task) : (s.setTask n x).vts = s.vts := rfl
@[simp] theorem State.setTask_vwait (s : State) (n : Nat) (x : Task) : (s.setTask n x).vwait = s.vwait := rfl
@[simp] theorem State.setTask_loads (s : State) (n : Nat) (x : Task) : (s.setTask n x).loads = s.loads := rfl
@[simp] theorem State.setTask_turn (s : State) (n : Nat) (x : Task) : (s.setTask n x).turn = s.turn := rfl
@[simp] theorem State.setTask_turnPast (s : State) (n : Nat) (x : Task) : (s.setTask n x).turnPast = s.turnPast := rfl
@[simp] theorem State.setTask_strs (s : State) (n : Nat) (x : Task) : (s.setTask n x).strs = s.strs := rfl
@[simp] theorem State.setTask_routes (s : State) (n : Nat) (x : Task) : (s.setTask n x).routes = s.routes := rfl
@[simp] theorem State.setTask_engs (s : State) (n : Nat) (x : Task) : (s.setTask n x).engs = s.engs := rfl
@[simp] theorem State.setTask_colls (s : State) (n : Nat) (x : Task) : (s.setTask n x).colls = s.colls := rfl
@[simp] theorem State.setTask_collNum (s : State) (n : Nat) (x : Task) : (s.setTask n x).collNum = s.collNum := rfl
@[simp] theorem State.setTask_tgs (s : State) (n : Nat) (x : Task) : (s.setTask n x).tgs = s.tgs := rfl
@[simp] theorem State.setTask_runs (s : State) (n : Nat) (x : Task) : (s.setTask n x).runs = s.runs := rfl
@[simp] theorem State.setTask_runNum (s : State) (n : Nat) (x : Task) : (s.setTask n x).runNum = s.runNum := rfl
@[simp] theorem State.setTask_stos (s : State) (n : Nat) (x : Task) : (s.setTask n x).stos = s.stos := rfl
@[simp] theorem State.setTask_stoNum (s : State) (n : Nat) (x : Task) : (s.setTask n x).stoNum = s.stoNum := rfl
@[simp] theorem State.setTask_ckpts (s : State) (n : Nat) (x : Task) : (s.setTask n x).ckpts = s.ckpts := rfl
@[simp] theorem State.setTask_cw (s : State) (n : Nat) (x : Task) : (s.setTask n x).cw = s.cw := rfl
@[simp] theorem State.setTask_ports (s : State) (n : Nat) (x : Task) : (s.setTask n x).ports = s.ports := rfl
@[simp] theorem State.setTask_mod (s : State) (n : Nat) (x : Task) : (s.setTask n x).mod = s.mod := rfl
@[simp] theorem State.setTask_mems (s : State) (n : Nat) (x : Task) : (s.setTask n x).mems = s.mems := rfl
@[simp] theorem State.setTask_mons (s : State) (n : Nat) (x : Task) : (s.setTask n x).mons = s.mons := rfl
@[simp] theorem State.setTask_fw (s : State) (n : Nat) (x : Task) : (s.setTask n x).fw = s.fw := rfl
@[simp] theorem State.setTask_hostReads (s : State) (n : Nat) (x : Task) : (s.setTask n x).hostReads = s.hostReads := rfl
@[simp] theorem State.setTask_hostTag (s : State) (n : Nat) (x : Task) : (s.setTask n x).hostTag = s.hostTag := rfl
@[simp] theorem State.setTask_outbox (s : State) (n : Nat) (x : Task) : (s.setTask n x).outbox = s.outbox := rfl
@[simp] theorem State.setTask_ptime (s : State) (n : Nat) (x : Task) : (s.setTask n x).ptime = s.ptime := rfl
@[simp] theorem State.setTask_free (s : State) (n : Nat) (x : Task) : (s.setTask n x).free = s.free := rfl
@[simp] theorem State.setTask_pending (s : State) (n : Nat) (x : Task) : (s.setTask n x).pending = s.pending := rfl

@[simp] theorem State.took_free (s : State) : s.took.free = s.free + 1 := rfl
@[simp] theorem State.emit_outbox (s : State) (e : Emit) : (s.emit e).outbox = s.outbox ++ [e] := rfl

end Sys2Proof.Machine
end

