-- ==== Sys2Proof/Laws/Tbl.lean ====
section
/-! SUPPORT. Laws of sparse tables and of byte memory: what a read after a write gives, and that every operation keeps the canonical form. -/
namespace Sys2Proof.Machine

section Tables
variable {α : Type} [DecidableEq α] (d : Nat → α)

/-- The canonical form, by its first entry. -/
theorem Tbl.wfFrom_cons (b : Option Nat) (j : Nat) (v : α) (t : Tbl α) :
    Tbl.wfFrom d b ((j, v) :: t) = true ↔ (∀ x, b = some x → x < j) ∧ v ≠ d j ∧ Tbl.wfFrom d (some j) t = true := by
  cases b <;> simp [Tbl.wfFrom, and_assoc]

/-- A table whose keys lie above a bound keeps its form under a lower one. -/
theorem Tbl.wfFrom_mono {t : Tbl α} {b c : Option Nat} (h : Tbl.wfFrom d b t = true) (hb : ∀ x, c = some x → ∃ y, b = some y ∧ x ≤ y) :
    Tbl.wfFrom d c t = true := by
  cases t with
  | nil => rfl
  | cons e t =>
    obtain ⟨j, v⟩ := e
    rw [Tbl.wfFrom_cons] at h ⊢
    refine ⟨fun x hx => ?_, h.2.1, h.2.2⟩
    obtain ⟨y, hy, hxy⟩ := hb x hx
    exact lt_of_le_of_lt hxy (h.1 y hy)

theorem Tbl.wf_of_wfFrom {t : Tbl α} {b : Option Nat} (h : Tbl.wfFrom d b t = true) : Tbl.wf d t = true :=
  Tbl.wfFrom_mono d h (by simp)

theorem Tbl.wfFrom_erase {t : Tbl α} {b : Option Nat} (k : Nat) (h : Tbl.wfFrom d b t = true) : Tbl.wfFrom d b (Tbl.erase t k) = true := by
  induction t generalizing b with
  | nil => rfl
  | cons e t ih =>
    obtain ⟨j, w⟩ := e
    rw [Tbl.wfFrom_cons] at h
    unfold Tbl.erase
    split
    · exact Tbl.wfFrom_mono d (ih h.2.2) (fun x hx => ⟨_, rfl, le_of_lt (h.1 x hx)⟩)
    · rw [Tbl.wfFrom_cons]; exact ⟨h.1, h.2.1, ih h.2.2⟩

theorem Tbl.wfFrom_insert {t : Tbl α} {b : Option Nat} {k : Nat} {v : α} (h : Tbl.wfFrom d b t = true) (hb : ∀ x, b = some x → x < k) (hk : ∀ w, (k, w) ∉ t)
    (hv : v ≠ d k) : Tbl.wfFrom d b (Tbl.insert t k v) = true := by
  induction t generalizing b with
  | nil => rw [Tbl.insert, Tbl.wfFrom_cons]; exact ⟨hb, hv, rfl⟩
  | cons e t ih =>
    obtain ⟨j, w⟩ := e
    rw [Tbl.wfFrom_cons] at h
    unfold Tbl.insert
    split
    · rw [Tbl.wfFrom_cons, Tbl.wfFrom_cons]
      exact ⟨hb, hv, by simpa using ‹k < j›, h.2.1, h.2.2⟩
    · rw [Tbl.wfFrom_cons]
      refine ⟨h.1, h.2.1, ih h.2.2 (fun x hx => ?_) (fun z hz => hk z (List.mem_cons_of_mem _ hz))⟩
      cases hx
      have : k ≠ j := fun hh => hk w (by rw [hh]; exact List.mem_cons_self)
      omega

theorem Tbl.not_mem_erase {t : Tbl α} (k : Nat) (w : α) : (k, w) ∉ Tbl.erase t k := by
  induction t with
  | nil => simp [Tbl.erase]
  | cons e t ih =>
    obtain ⟨j, v⟩ := e
    unfold Tbl.erase
    split
    · exact ih
    · rename_i hj
      simp only [List.mem_cons, Prod.mk.injEq, not_or]
      exact ⟨fun hh => hj hh.1.symm, ih⟩

/-- A write keeps the canonical form. -/
theorem Tbl.wf_set {t : Tbl α} (k : Nat) (v : α) (h : Tbl.wf d t = true) : Tbl.wf d (Tbl.set d t k v) = true := by
  unfold Tbl.set
  split
  · exact Tbl.wfFrom_erase d k h
  · exact Tbl.wfFrom_insert d (Tbl.wfFrom_erase d k h) (by simp) (Tbl.not_mem_erase k) ‹_›

theorem Tbl.get_erase (t : Tbl α) (k a : Nat) : Tbl.get d (Tbl.erase t k) a = if a = k then d k else Tbl.get d t a := by
  induction t with
  | nil => by_cases ha : a = k <;> simp [Tbl.erase, Tbl.get, ha]
  | cons e t ih =>
    obtain ⟨j, w⟩ := e
    unfold Tbl.erase
    by_cases hj : j = k
    · subst hj
      simp only [if_true, ih, Tbl.get]
      by_cases ha : a = j
      · simp [ha]
      · simp [ha, Ne.symm ha]
    · simp only [hj, if_false, Tbl.get, ih]
      by_cases ha : a = k
      · subst ha; simp [hj]
      · simp [ha]

theorem Tbl.get_insert (t : Tbl α) (k : Nat) (v : α) (hk : ∀ w, (k, w) ∉ t) (a : Nat) :
    Tbl.get d (Tbl.insert t k v) a = if a = k then v else Tbl.get d t a := by
  induction t with
  | nil =>
    by_cases ha : a = k
    · simp [Tbl.insert, Tbl.get, ha]
    · simp [Tbl.insert, Tbl.get, ha, Ne.symm ha]
  | cons e t ih =>
    obtain ⟨j, w⟩ := e
    have hj : k ≠ j := fun hh => hk w (by rw [hh]; exact List.mem_cons_self)
    unfold Tbl.insert
    split
    · by_cases ha : a = k
      · simp [Tbl.get, ha]
      · simp [Tbl.get, ha, Ne.symm ha]
    · simp only [Tbl.get, ih (fun z hz => hk z (List.mem_cons_of_mem _ hz))]
      by_cases ha : a = k
      · subst ha; simp [Ne.symm hj]
      · simp [ha]

/-- A read after a write: the value written at the key, and what stood there at every other. It holds of every table, canonical or not. -/
theorem Tbl.get_set (t : Tbl α) (k : Nat) (v : α) (a : Nat) : Tbl.get d (Tbl.set d t k v) a = if a = k then v else Tbl.get d t a := by
  unfold Tbl.set
  split
  · rw [Tbl.get_erase]; split <;> simp_all
  · rw [Tbl.get_insert d _ _ _ (Tbl.not_mem_erase k), Tbl.get_erase]; split <;> rfl

@[simp] theorem Tbl.get_set_same (t : Tbl α) (k : Nat) (v : α) : Tbl.get d (Tbl.set d t k v) k = v := by rw [Tbl.get_set]; simp

theorem Tbl.get_set_ne (t : Tbl α) (k : Nat) (v : α) {a : Nat} (h : a ≠ k) : Tbl.get d (Tbl.set d t k v) a = Tbl.get d t a := by
  rw [Tbl.get_set]; simp [h]

/-- Entries kept by a predicate on the key; every other key reads as unlisted. -/
theorem Tbl.get_keep (t : Tbl α) (p : Nat → Bool) (a : Nat) : Tbl.get d (Tbl.keep p t) a = if p a then Tbl.get d t a else d a := by
  induction t with
  | nil => simp [Tbl.keep, Tbl.get]
  | cons e t ih =>
    obtain ⟨j, w⟩ := e
    simp only [Tbl.keep] at ih ⊢
    rw [List.filter_cons]
    by_cases hj : j = a
    · subst hj
      by_cases hp : p j
      · simp [hp, Tbl.get]
      · simpa [hp] using ih
    · by_cases hp : p j
      · simp only [hp, if_true, Tbl.get, hj, if_false, ih]
      · simp only [hp, Tbl.get, hj, if_false]; exact ih

theorem Tbl.wfFrom_filter {t : Tbl α} {b : Option Nat} (p : Nat × α → Bool) (h : Tbl.wfFrom d b t = true) : Tbl.wfFrom d b (t.filter p) = true := by
  induction t generalizing b with
  | nil => rfl
  | cons e t ih =>
    obtain ⟨j, w⟩ := e
    rw [Tbl.wfFrom_cons] at h
    rw [List.filter_cons]
    split
    · rw [Tbl.wfFrom_cons]; exact ⟨h.1, h.2.1, ih h.2.2⟩
    · exact Tbl.wfFrom_mono d (ih h.2.2) (fun x hx => ⟨_, rfl, le_of_lt (h.1 x hx)⟩)

/-- Dropping entries keeps the canonical form. -/
theorem Tbl.wf_filter {t : Tbl α} (p : Nat × α → Bool) (h : Tbl.wf d t = true) : Tbl.wf d (t.filter p) = true :=
  Tbl.wfFrom_filter d p h

end Tables

/-! ### Byte memory -/

/-- A byte written keeps the canonical form. -/
theorem Memory.wf_write {m : Memory} (a : Nat) (v : BitVec 8) (h : m.wf = true) : (m.write a v).wf = true := Tbl.wf_set _ a v h

/-- A read of a byte after a write of one. -/
@[simp] theorem Memory.read_write (m : Memory) (a : Nat) (v : BitVec 8) (x : Nat) :
    (m.write a v).read x = if x = a then v else m.read x := Tbl.get_set _ m a v x

/-- Bytes written keep the canonical form. -/
theorem Memory.wf_writeN {m : Memory} (a : Nat) (bs : List (BitVec 8)) (h : m.wf = true) : (m.writeN a bs).wf = true := by
  induction bs generalizing m a with
  | nil => exact h
  | cons b bs ih => exact ih _ (Memory.wf_write a b h)

/-- A byte read after bytes written: the byte of its place among them, and what stood there outside them. -/
theorem Memory.read_writeN (m : Memory) (a : Nat) (bs : List (BitVec 8)) (x : Nat) :
    (m.writeN a bs).read x = if a ≤ x then (bs[x - a]?).getD (m.read x) else m.read x := by
  induction bs generalizing m a with
  | nil => simp [Memory.writeN]
  | cons b bs ih =>
    rw [Memory.writeN, ih, Memory.read_write]
    by_cases h1 : a + 1 ≤ x
    · have h2 : x - a = (x - (a + 1)) + 1 := by omega
      simp [h1, show a ≤ x by omega, h2, show x ≠ a by omega]
    · by_cases h3 : x = a
      · subst h3; simp
      · simp [h1, h3, show ¬ a ≤ x by omega]

/-- Every byte outside the bytes written is unchanged. -/
theorem Memory.read_writeN_outside (m : Memory) (a : Nat) (bs : List (BitVec 8)) (x : Nat) (hx : x < a ∨ a + bs.length ≤ x) :
    (m.writeN a bs).read x = m.read x := by
  rw [Memory.read_writeN]
  split
  · rw [List.getElem?_eq_none (by omega)]; rfl
  · rfl

/-- Clearing a range keeps the canonical form. -/
theorem Memory.wf_clear {m : Memory} (lo hi : Nat) (h : m.wf = true) : (m.clear lo hi).wf = true := Tbl.wf_filter _ _ h

/-- An empty memory is in canonical form. -/
theorem Memory.wf_nil : Memory.wf [] = true := rfl

end Sys2Proof.Machine
end

