-- ==== Sys2Proof/Laws/Regs.lean ====
section
/-! SUPPORT. Laws of registers and their fields: what a field reads as after a field was written, and what a write of a field, a count and an event leave. -/
namespace Sys2Proof.Machine

/-! ### Bits of naturals -/

theorem bits_testBit (w hi lo i : Nat) : (bits w hi lo).testBit i = (decide (i < hi + 1 - lo) && w.testBit (lo + i)) := by
  simp [bits, Nat.testBit_mod_two_pow, Nat.testBit_shiftRight]

theorem ins_eq (w hi lo v : Nat) (h : lo ≤ hi) :
    ins w hi lo v = 2 ^ lo * (2 ^ (hi + 1 - lo) * (w / 2 ^ lo / 2 ^ (hi + 1 - lo)) + v % 2 ^ (hi + 1 - lo)) + w % 2 ^ lo := by
  have h1 := Nat.div_add_mod w (2 ^ lo)
  have h2 := Nat.div_add_mod (w / 2 ^ lo) (2 ^ (hi + 1 - lo))
  unfold ins bits
  rw [Nat.shiftRight_eq_div_pow]
  set n := 2 ^ (hi + 1 - lo)
  set p := 2 ^ lo
  set q := w / p
  set c := w % p
  have h3 : w = p * (n * (q / n)) + q % n * p + c := by
    calc w = p * q + c := h1.symm
      _ = p * (n * (q / n) + q % n) + c := by rw [h2]
      _ = _ := by ring
  have h4 : w - q % n * p = p * (n * (q / n)) + c := by omega
  rw [h4]; ring

theorem ins_testBit (w hi lo v i : Nat) (h : lo ≤ hi) :
    (ins w hi lo v).testBit i = if lo ≤ i ∧ i ≤ hi then v.testBit (i - lo) else w.testBit i := by
  rw [ins_eq _ _ _ _ h, Nat.testBit_two_pow_mul_add _ (Nat.mod_lt _ (by positivity))]
  have hm : v % 2 ^ (hi + 1 - lo) < 2 ^ (hi + 1 - lo) := Nat.mod_lt _ (by positivity)
  by_cases h1 : i < lo
  · simp [h1, show ¬ lo ≤ i by omega, Nat.testBit_mod_two_pow]
  · simp only [h1, if_false, show lo ≤ i by omega, true_and]
    rw [Nat.testBit_two_pow_mul_add _ hm]
    by_cases h2 : i ≤ hi
    · simp [h2, show i - lo < hi + 1 - lo by omega, Nat.testBit_mod_two_pow]
    · simp only [h2, if_false, show ¬ i - lo < hi + 1 - lo by omega, Nat.testBit_div_two_pow]
      congr 1; omega

theorem bits_ins_same (w hi lo v : Nat) (h : lo ≤ hi) : bits (ins w hi lo v) hi lo = v % 2 ^ (hi + 1 - lo) := by
  apply Nat.eq_of_testBit_eq
  intro i
  rw [bits_testBit, ins_testBit _ _ _ _ _ h, Nat.testBit_mod_two_pow]
  by_cases hi' : i < hi + 1 - lo
  · simp [hi', show lo + i ≤ hi by omega]
  · simp [hi']

theorem bits_ins_ne (w hi lo v a b : Nat) (h : lo ≤ hi) (hd : a < lo ∨ hi < b) : bits (ins w hi lo v) a b = bits w a b := by
  apply Nat.eq_of_testBit_eq
  intro i
  rw [bits_testBit, bits_testBit, ins_testBit _ _ _ _ _ h]
  by_cases hi' : i < a + 1 - b
  · rw [if_neg (by omega)]
  · simp [hi']

theorem ins_lt (w hi lo v : Nat) (h : lo ≤ hi) (hh : hi ≤ 31) (hw : w < 2 ^ 32) : ins w hi lo v < 2 ^ 32 := by
  apply Nat.lt_pow_two_of_testBit
  intro i hi'
  rw [ins_testBit _ _ _ _ _ h, if_neg (by omega)]
  exact Nat.testBit_lt_two_pow (lt_of_lt_of_le hw (Nat.pow_le_pow_right (by omega) hi'))

/-! ### Fields -/

/-- A field lies in a 32-bit register. -/
def Fld.sound (f : Fld) : Bool := decide (f.lo ≤ f.hi) && decide (f.hi ≤ 31)

@[simp] theorem State.reg_setReg (s : State) (k j : Nat) (w : W32) : (s.setReg k w).reg j = if j = k then w else s.reg j := by
  simp only [State.reg, State.setReg]; exact Tbl.get_set _ _ _ _ _

theorem Fld.put_toNat (f : Fld) (w : W32) (v : Nat) (h : f.sound = true) : (f.put w v).toNat = ins w.toNat f.hi f.lo v := by
  simp only [Fld.sound, Bool.and_eq_true, decide_eq_true_eq] at h
  rw [Fld.put, BitVec.toNat_ofNat]
  exact Nat.mod_eq_of_lt (ins_lt _ _ _ _ h.1 h.2 w.isLt)

/-- A field reads what was written to it, cut to its width. -/
theorem State.fld_setFld_same (s : State) (f : Fld) (v i u : Nat) (h : f.sound = true) : (s.setFld f v i u).fld f i u = v % 2 ^ (f.hi + 1 - f.lo) := by
  simp only [State.fld, State.setFld, State.reg_setReg, if_true]
  rw [Fld.put_toNat _ _ _ h]
  simp only [Fld.sound, Bool.and_eq_true, decide_eq_true_eq] at h
  exact bits_ins_same _ _ _ _ h.1

/-- A field of another register, or of other bits, is unchanged. -/
theorem State.fld_setFld_ne (s : State) (f g : Fld) (v i u j w : Nat) (h : f.sound = true) (hd : g.key j w ≠ f.key i u ∨ g.hi < f.lo ∨ f.hi < g.lo) :
    (s.setFld f v i u).fld g j w = s.fld g j w := by
  simp only [State.fld, State.setFld, State.reg_setReg]
  split
  · rename_i hk
    rw [Fld.put_toNat _ _ _ h, ← hk]
    simp only [Fld.sound, Bool.and_eq_true, decide_eq_true_eq] at h
    rcases hd with h1 | h1
    · exact absurd hk h1
    · exact bits_ins_ne _ _ _ _ _ _ h.1 h1
  · rfl

/-- A register other than the field's is unchanged. -/
theorem State.reg_setFld_ne (s : State) (f : Fld) (v i u k : Nat) (hd : k ≠ f.key i u) : (s.setFld f v i u).reg k = s.reg k := by
  simp [State.setFld, hd]

/-- A counter reads one more event, up to all ones. -/
theorem State.fld_bump_same (s : State) (f : Fld) (i n u : Nat) (h : f.sound = true) :
    (s.bump f i n u).fld f i u = min (s.fld f i u + n) (2 ^ (f.hi + 1 - f.lo) - 1) := by
  rw [State.bump, State.fld_setFld_same _ _ _ _ _ h]
  exact Nat.mod_eq_of_lt (by have := Nat.two_pow_pos (f.hi + 1 - f.lo); omega)

/-- A count leaves every field of another register, or of other bits, unchanged. -/
theorem State.fld_bump_ne (s : State) (f g : Fld) (i n u j w : Nat) (h : f.sound = true) (hd : g.key j w ≠ f.key i u ∨ g.hi < f.lo ∨ f.hi < g.lo) :
    (s.bump f i n u).fld g j w = s.fld g j w := State.fld_setFld_ne s f g _ i u j w h hd

/-- A counter with a second word counts modulo 2^64 only in its own registers. -/
theorem State.reg_bump64_ne (s : State) (lo hi : Fld) (i n u k : Nat) (h1 : k ≠ lo.key i u) (h2 : k ≠ hi.key i u) :
    (s.bump64 lo hi i n u).reg k = s.reg k := by
  simp only [State.bump64]
  rw [State.reg_setFld_ne _ _ _ _ _ _ h2, State.reg_setFld_ne _ _ _ _ _ _ h1]

/-! ### What these operations leave of the state: only registers change, and an event may also send a message -/

theorem State.setFld_only (s : State) (f : Fld) (v i u : Nat) : s.setFld f v i u = { s with regs := (s.setFld f v i u).regs } := rfl

theorem State.bump_only (s : State) (f : Fld) (i n u : Nat) : s.bump f i n u = { s with regs := (s.bump f i n u).regs } := rfl

theorem State.bump64_only (s : State) (lo hi : Fld) (i n u : Nat) : s.bump64 lo hi i n u = { s with regs := (s.bump64 lo hi i n u).regs } := rfl

theorem State.raiseModule_only (s : State) (v : Nat) :
    s.raiseModule v = { s with regs := (s.raiseModule v).regs, outbox := (s.raiseModule v).outbox } := by
  unfold State.raiseModule; split <;> rfl

/-- Raising an event changes nothing but registers and messages. -/
theorem State.raiseAt_only (n : Nat) (s : State) (cls inst e : Nat) :
    State.raiseAt n s cls inst e = { s with regs := (State.raiseAt n s cls inst e).regs, outbox := (State.raiseAt n s cls inst e).outbox } := by
  induction n generalizing s cls inst e with
  | zero => rfl
  | succ n ih =>
    unfold State.raiseAt
    simp only []
    split
    · split
      · split
        · rw [State.raiseModule_only]; rfl
        · rw [ih]; rfl
      · rfl
    · rfl

theorem State.raise_only (s : State) (cls inst e : Nat) :
    s.raise cls inst e = { s with regs := (s.raise cls inst e).regs, outbox := (s.raise cls inst e).outbox } := State.raiseAt_only _ _ _ _ _

/-- The offset part of a register's key. -/
theorem rkey_mod (cls inst off unit : Nat) (h : off < 2 ^ 12) : rkey cls inst off unit % 2 ^ 12 = off := by
  unfold rkey; omega

/-- Keys of registers name them apart. -/
theorem rkey_inj {c i o u c' i' o' u' : Nat} (hc : c < 64) (hi : i < 256) (ho : o < 2 ^ 12) (hc' : c' < 64) (hi' : i' < 256) (ho' : o' < 2 ^ 12)
    (h : rkey c i o u = rkey c' i' o' u') : c = c' ∧ i = i' ∧ o = o' ∧ u = u' := by
  unfold rkey at h; omega

theorem State.reg_raiseModule_ne (s : State) (v k : Nat) (h : k % 2 ^ 12 ≠ 0x078) : (s.raiseModule v).reg k = s.reg k := by
  unfold State.raiseModule
  split
  · apply State.reg_setFld_ne
    intro hk; apply h; rw [hk]; exact rkey_mod _ _ _ _ (by norm_num [evtCause, Fld.irqVctlPending, Fld.irqDropCnt])
  · rfl

theorem State.reg_raiseAt_ne (n : Nat) (s : State) (cls inst e k : Nat) (h1 : k % 2 ^ 12 ≠ 0x010) (h2 : k % 2 ^ 12 ≠ 0x078) (h3 : k % 2 ^ 12 ≠ 0x07C) :
    (State.raiseAt n s cls inst e).reg k = s.reg k := by
  induction n generalizing s cls inst e with
  | zero => rfl
  | succ n ih =>
    have hk : k ≠ rkey cls inst evtCause 0 := fun hk => h1 (by rw [hk]; exact rkey_mod _ _ _ _ (by norm_num [evtCause, Fld.irqVctlPending, Fld.irqDropCnt]))
    have hr : ∀ w, (s.setReg (rkey cls inst evtCause 0) w).reg k = s.reg k := fun w => by simp [hk]
    unfold State.raiseAt
    simp only []
    split
    · split
      · split
        · rw [State.reg_raiseModule_ne _ _ _ h2]; exact hr _
        · rw [ih, State.bump, State.reg_setFld_ne]
          · exact hr _
          · intro hk; apply h3; rw [hk]; exact rkey_mod _ _ _ _ (by norm_num [evtCause, Fld.irqVctlPending, Fld.irqDropCnt])
      · exact hr _
    · rfl

/-- An event leaves every register but cause, mask and drop registers unchanged. -/
theorem State.reg_raise_ne (s : State) (cls inst e k : Nat) (h1 : k % 2 ^ 12 ≠ 0x010) (h2 : k % 2 ^ 12 ≠ 0x078) (h3 : k % 2 ^ 12 ≠ 0x07C) :
    (s.raise cls inst e).reg k = s.reg k := State.reg_raiseAt_ne _ _ _ _ _ _ h1 h2 h3

theorem State.fld_raise_ne (s : State) (cls inst e : Nat) (f : Fld) (i u : Nat) (h0 : f.off < 2 ^ 12) (h1 : f.off ≠ 0x010) (h2 : f.off ≠ 0x078) (h3 : f.off ≠ 0x07C) :
    (s.raise cls inst e).fld f i u = s.fld f i u := by
  have hm : f.key i u % 2 ^ 12 = f.off := rkey_mod _ _ _ _ h0
  simp only [State.fld]
  rw [State.reg_raise_ne _ _ _ _ _ (by rw [hm]; exact h1) (by rw [hm]; exact h2) (by rw [hm]; exact h3)]

end Sys2Proof.Machine
end

