-- ==== Sys2Proof/Laws/Cays.lean ====
section
/-! SUPPORT. Laws of cays, threads, scalar registers and tasks, and what an instruction of a running thread answers. -/
namespace Sys2Proof.Machine

theorem cayKey_inj (r q : CayRef) (hr : r.cay < 320) (hq : q.cay < 320) (h : cayKey r = cayKey q) : r = q := by
  cases r; cases q; simp only [cayKey] at *; simp only [CayRef.mk.injEq]; omega

@[simp] theorem State.cay_setCay (s : State) (r q : CayRef) (c : Cay) : (s.setCay r c).cay q = if cayKey q = cayKey r then c else s.cay q := by
  simp only [State.cay, State.setCay]; exact Tbl.get_set _ _ _ _ _

@[simp] theorem State.task_setTask (s : State) (n m : Nat) (x : Task) : (s.setTask n x).task m = if m = n then x else s.task m := by
  simp only [State.task, State.setTask]; exact Tbl.get_set _ _ _ _ _

@[simp] theorem State.ic_setIc (s : State) (i j : Nat) (c : ICache) : (s.setIc i c).ic j = if j = i then c else s.ic j := by
  simp only [State.ic, State.setIc]; exact Tbl.get_set _ _ _ _ _

@[simp] theorem Cay.thr_setThr (c : Cay) (t u : Nat) (x : Thread) : (c.setThr t x).thr u = if u = t then x else c.thr u := by
  simp only [Cay.thr, Cay.setThr]; exact Tbl.get_set _ _ _ _ _

@[simp] theorem Cay.queue_setQueue (c : Cay) (e f : Nat) (q : List QEntry) : (c.setQueue e q).queue f = if f = e then q else c.queue f := by
  simp only [Cay.queue, Cay.setQueue]; exact Tbl.get_set _ _ _ _ _

@[simp] theorem Cay.arr_setArr (c : Cay) (a b : Nat) (x : Arr) : (c.setArr a x).arr b = if b = a then x else c.arr b := by
  simp only [Cay.arr, Cay.setArr]; exact Tbl.get_set _ _ _ _ _

@[simp] theorem Cay.queue_setThr (c : Cay) (t e : Nat) (x : Thread) : (c.setThr t x).queue e = c.queue e := rfl
@[simp] theorem Cay.thr_setQueue (c : Cay) (t e : Nat) (q : List QEntry) : (c.setQueue e q).thr t = c.thr t := rfl
@[simp] theorem Cay.ls_setThr (c : Cay) (t : Nat) (x : Thread) : (c.setThr t x).ls = c.ls := rfl
@[simp] theorem Cay.ls_setQueue (c : Cay) (e : Nat) (q : List QEntry) : (c.setQueue e q).ls = c.ls := rfl
@[simp] theorem Cay.thr_lsWrite (c : Cay) (a : Nat) (bs : List (BitVec 8)) (t : Nat) : (c.lsWrite a bs).thr t = c.thr t := rfl

/-- A scalar register after a write: s0 reads zero and discards what is written (R172). -/
@[simp] theorem Thread.reg_setReg (t : Thread) (r q : BitVec 5) (v : W64) : (t.setReg r v).reg q = if q = r ∧ r ≠ 0 then v else t.reg q := by
  unfold Thread.setReg
  by_cases h0 : r = 0
  · simp [h0]
  · simp only [h0, if_false, Thread.reg, ne_eq, not_false_eq_true, and_true]
    by_cases hq : q = 0
    · subst hq
      have h1 : ¬ (0#5 = r) := fun h => h0 h.symm
      simp [h1]
    · simp only [hq, if_false, Tbl.get_set]
      by_cases h : q = r
      · simp [h]
      · have : q.toNat ≠ r.toNat := fun hh => h (BitVec.eq_of_toNat_eq hh)
        simp [h, this]

@[simp] theorem Thread.reg_zero (t : Thread) : t.reg 0 = 0 := by simp [Thread.reg]

/-- Writing a scalar register changes the thread's registers only. -/
theorem Thread.setReg_only (t : Thread) (r : BitVec 5) (v : W64) : t.setReg r v = { t with regs := (t.setReg r v).regs } := by
  unfold Thread.setReg; split <;> rfl

@[simp] theorem Thread.setReg_pc (t : Thread) (r : BitVec 5) (v : W64) : (t.setReg r v).pc = t.pc := by rw [Thread.setReg_only]
@[simp] theorem Thread.setReg_task (t : Thread) (r : BitVec 5) (v : W64) : (t.setReg r v).task = t.task := by rw [Thread.setReg_only]
@[simp] theorem Thread.next_pc (t : Thread) : t.next.pc = t.pc + 8 := rfl
@[simp] theorem Thread.next_reg (t : Thread) (r : BitVec 5) : t.next.reg r = t.reg r := rfl
@[simp] theorem Thread.reg_pc (t : Thread) (p : Nat) (r : BitVec 5) : ({ t with pc := p } : Thread).reg r = t.reg r := rfl

/-! ### Issue -/

/-- What an instruction answers where its cay has a running thread of a task that is not paused. -/
theorem issue_running {r : CayRef} {s : State} {t : Nat} (h : (s.cay r).running = some t) (hp : (s.task ((s.cay r).thr t).task).paused = false)
    (f : Nat → Thread → State) : issue r true s f = .next (f t ((s.cay r).thr t)) := by
  simp [issue, withThread, h, hp]

/-- What an instruction answers where the registers it names hold their values as well. -/
theorem issueRegs_running {r : CayRef} {s : State} {t : Nat} (h : (s.cay r).running = some t) (hp : (s.task ((s.cay r).thr t).task).paused = false)
    {regs : List (BitVec 5)} (hr : ∀ x ∈ regs, (s.cay r).pendingReg t x = false) (f : Nat → Thread → State) :
    issueRegs r true regs s f = .next (f t ((s.cay r).thr t)) := by
  unfold issueRegs
  rw [issue_running h hp]
  congr 1
  rw [if_neg]
  simp only [List.any_eq_true, not_exists, not_and, Bool.not_eq_true]
  exact hr

/-- An instruction with a reserved field that is not zero ends its task (R171). -/
theorem issue_reserved {r : CayRef} {s : State} {t : Nat} (h : (s.cay r).running = some t) (hp : (s.task ((s.cay r).thr t).task).paused = false)
    (f : Nat → Thread → State) : issue r false s f = .next (s.illegal ((s.cay r).thr t).task r) := by
  simp [issue, withThread, h, hp]

/-- On a cay with no running thread nothing issues. -/
theorem withThread_none {r : CayRef} {s : State} (h : (s.cay r).running = none) (f : Nat → Thread → State) : withThread r s f = .next s := by
  simp [withThread, h]

end Sys2Proof.Machine
end

