-- ==== Sys2Proof/Laws/Memory.lean ====
section
/-! SUPPORT. Laws of HBM, the island caches and the local store: what each shared operation changes, and what a byte reads as after it. -/
namespace Sys2Proof.Machine

/-! ### Little-endian bytes (R11) -/

@[simp] theorem leBytes_length (n v : Nat) : (leBytes n v).length = n := by
  induction n generalizing v with
  | zero => rfl
  | succ n ih => simp [leBytes, ih]

theorem leBytes_get (n v i : Nat) (h : i < n) : (leBytes n v)[i]? = some (BitVec.ofNat 8 (v / 256 ^ i)) := by
  induction n generalizing v i with
  | zero => omega
  | succ n ih =>
    cases i with
    | zero => simp [leBytes]
    | succ i => simp [leBytes, ih _ _ (show i < n by omega), Nat.div_div_eq_div_mul, pow_succ, Nat.mul_comm]

/-- A byte after a little-endian value was written. -/
theorem Memory.read_writeN_le (m : Memory) (a n v x : Nat) :
    (m.writeN a (leBytes n v)).read x = if a ≤ x ∧ x < a + n then BitVec.ofNat 8 (v / 256 ^ (x - a)) else m.read x := by
  rw [Memory.read_writeN]
  by_cases h : a ≤ x
  · by_cases h2 : x < a + n
    · simp [h, h2, leBytes_get _ _ _ (show x - a < n by omega)]
    · rw [if_pos h, List.getElem?_eq_none (by rw [leBytes_length]; omega), if_neg (by omega)]; rfl
  · simp [h]

/-! ### A fold of operations each of which leaves something -/

/-- What every operation of a fold leaves, the fold leaves. -/
theorem foldl_keeps {α σ β : Type} (p : σ → β) (f : σ → α → σ) (h : ∀ s a, p (f s a) = p s) (l : List α) (s : σ) : p (l.foldl f s) = p s := by
  induction l generalizing s with
  | nil => rfl
  | cons a l ih => rw [List.foldl_cons, ih, h]

/-! ### Writes at the HBM controllers (R144, R145) -/

theorem State.invalidateIn_only (s : State) (w : Option Nat) (l i : Nat) :
    s.invalidateIn w l i = { s with ics := (s.invalidateIn w l i).ics, regs := (s.invalidateIn w l i).regs } := by
  unfold State.invalidateIn; simp only []; split <;> rfl

/-- An operation that changes only caches and registers, done for each of a list. -/
theorem foldl_only_ics {α : Type} (f : State → α → State) (h : ∀ s a, f s a = { s with ics := (f s a).ics, regs := (f s a).regs }) (l : List α) (s : State) :
    l.foldl f s = { s with ics := (l.foldl f s).ics, regs := (l.foldl f s).regs } := by
  induction l generalizing s with
  | nil => rfl
  | cons a l ih => rw [List.foldl_cons, ih, h]

theorem State.invalidateLine_only (s : State) (w : Option Nat) (l : Nat) :
    s.invalidateLine w l = { s with ics := (s.invalidateLine w l).ics, regs := (s.invalidateLine w l).regs } :=
  foldl_only_ics _ (fun s i => s.invalidateIn_only w l i) _ _

theorem State.invalidateLines_only (s : State) (w : Option Nat) (ls : List Nat) :
    ls.foldl (fun t l => t.invalidateLine w l) s =
      { s with ics := (ls.foldl (fun t l => t.invalidateLine w l) s).ics, regs := (ls.foldl (fun t l => t.invalidateLine w l) s).regs } :=
  foldl_only_ics _ (fun s l => s.invalidateLine_only w l) _ _

/-- A write at the HBM controllers changes nothing but HBM, its poison, caches and registers. -/
theorem State.hbmWrite_only (s : State) (w : Option Nat) (k : Nat) (d : List (BitVec 8)) :
    s.hbmWrite w k d = { s with ics := (s.hbmWrite w k d).ics, regs := (s.hbmWrite w k d).regs, hbm := (s.hbmWrite w k d).hbm, poison := (s.hbmWrite w k d).poison } := by
  unfold State.hbmWrite
  split
  · rfl
  · simp only []; rw [State.invalidateLines_only]

/-- The bytes of HBM after a write. -/
theorem State.hbmWrite_hbm (s : State) (w : Option Nat) (k : Nat) (d : List (BitVec 8)) : (s.hbmWrite w k d).hbm = Memory.writeN s.hbm k d := by
  unfold State.hbmWrite
  split
  · cases d with
    | nil => rfl
    | cons b d => simp at *
  · simp only []; rw [State.invalidateLines_only]

theorem State.hbmWrite_wf (s : State) (w : Option Nat) (k : Nat) (d : List (BitVec 8)) (h : s.hbm.wf = true) : (s.hbmWrite w k d).hbm.wf = true := by
  rw [State.hbmWrite_hbm]; exact Memory.wf_writeN _ _ h

@[simp] theorem State.hbmWrite_cays (s : State) (w : Option Nat) (k : Nat) (d : List (BitVec 8)) : (s.hbmWrite w k d).cays = s.cays := by rw [State.hbmWrite_only]
@[simp] theorem State.hbmWrite_tasks (s : State) (w : Option Nat) (k : Nat) (d : List (BitVec 8)) : (s.hbmWrite w k d).tasks = s.tasks := by rw [State.hbmWrite_only]
@[simp] theorem State.hbmWrite_entries (s : State) (w : Option Nat) (k : Nat) (d : List (BitVec 8)) : (s.hbmWrite w k d).entries = s.entries := by rw [State.hbmWrite_only]

/-! ### The island cache (R143, R148) -/

theorem State.cacheInstall_only (s : State) (i l : Nat) :
    s.cacheInstall i l = { s with ics := (s.cacheInstall i l).ics, free := (s.cacheInstall i l).free } := by
  unfold State.cacheInstall
  simp only []
  split
  · rfl
  · split <;> rfl

theorem State.lookup_only (s : State) (i l : Nat) :
    (s.lookup i l).1 = { s with ics := (s.lookup i l).1.ics, regs := (s.lookup i l).1.regs, free := (s.lookup i l).1.free } := by
  unfold State.lookup
  simp only []
  split
  · rfl
  · split
    · simp only [State.bump, State.bump64, State.setFld, State.setReg]
      rw [State.cacheInstall_only]; rfl
    · rfl

theorem State.track_only (s : State) (r : CayRef) (t c a : Nat) (m : Bool) :
    s.track r t c a m = { s with ics := (s.track r t c a m).ics, free := (s.track r t c a m).free } := by
  unfold State.track
  simp only []
  split
  · rfl
  · split
    · rfl
    · split
      · rfl
      · split <;> rfl

theorem State.lookupAll_only (s : State) (r : CayRef) (t c : Nat) (es : List GElem) (ls : List Nat) :
    (s.lookupAll r t c es ls).1 =
      { s with ics := (s.lookupAll r t c es ls).1.ics, regs := (s.lookupAll r t c es ls).1.regs, free := (s.lookupAll r t c es ls).1.free } := by
  induction ls generalizing s with
  | nil => rfl
  | cons l ls ih => simp only [State.lookupAll]; rw [ih, State.track_only, State.lookup_only]

/-- A line the cache holds hits. -/
theorem State.lookup_hit (s : State) (i l : Nat) (h : (s.ic i).lines.contains l = true) : (s.lookup i l).2 = true := by
  unfold State.lookup; simp only [h, if_true]

theorem State.useTier_only (s : State) (c a : Nat) : s.useTier c a = { s with wgts := (s.useTier c a).wgts } := by
  unfold State.useTier
  split
  · split <;> rfl
  · rfl

end Sys2Proof.Machine
end

