-- ==== Sys2Proof/Laws/Engine.lean ====
section
/-! SUPPORT. Laws of the engine queues: an instruction that finds its cay's queues empty runs at once (R175, R176). -/
namespace Sys2Proof.Machine

theorem range5 : List.range 5 = [0, 1, 2, 3, 4] := rfl
theorem range6 : List.range 6 = [0, 1, 2, 3, 4, 5] := rfl

theorem Cay.queued_nil {y : Cay} {n : Nat} (h : ∀ e q, q ∈ y.queue e → ¬ q.num < n) : y.queued n = [] := by
  unfold Cay.queued
  rw [List.filter_eq_nil_iff]
  intro q hq
  rw [List.mem_flatMap] at hq
  obtain ⟨e, _, he⟩ := hq
  simpa using h e q he

theorem Cay.mustWait_false {y : Cay} {q : QEntry} (h : ∀ e x, x ∈ y.queue e → ¬ x.num < q.num) : y.mustWait q = false := by
  unfold Cay.mustWait Cay.pendingRange
  rw [Cay.queued_nil h]
  simp

theorem runnable_none {s : State} {c : CayRef} (h : ∀ e, (s.cay c).queue e = []) (skip : List Nat) : s.runnable c skip = none := by
  unfold State.runnable
  rw [List.findSome?_eq_none_iff]
  intro e _
  simp [h e]

theorem Cay.entries_empty {y : Cay} (h : ∀ e, y.queue e = []) : y.entries = 0 := by
  unfold Cay.entries; simp [range6, h]

/-- An instruction that enters the queue of engine `e` while all queues of its cay are empty runs at once. The hypothesis on `y` is met by every entry
that ends or fails: no run adds to a queue. -/
theorem enqueue_runs {s : State} {c : CayRef} {t e : Nat} {op : EngOp} {y : State} (he : e < 5) (hv : ∀ e, (s.cay c).queue e = []) (hf : op.isFence = false)
    (hp : (s.task ((s.cay c).thr t).task).paused = false) (hy : runEntry (s.entered c t e op) c (s.queuedEntry c t op) = (y, true))
    (hq : ∀ x i, i ∈ (y.cay c).queue x → x = e ∧ i = s.queuedEntry c t op) :
    enqueue s c t ((s.cay c).thr t) e op =
      (let z := y.setCay c ((y.cay c).dropEntry e (s.cay c).issue)
       z.setCay c (z.cay c).wakeOperands) := by
  have hcnt : (s.cay c).pendingCount = 0 := by unfold Cay.pendingCount; simp [range5, hv]
  have hent : (({ (s.cay c).setThr t ((s.cay c).thr t).next with issue := (s.cay c).issue + 1 } : Cay).setQueue e
      ((({ (s.cay c).setThr t ((s.cay c).thr t).next with issue := (s.cay c).issue + 1 } : Cay).queue e) ++
        [⟨(s.cay c).issue, t, ((s.cay c).thr t).task, op⟩])) =
      ({ (s.cay c).setThr t ((s.cay c).thr t).next with issue := (s.cay c).issue + 1 } : Cay).setQueue e [⟨(s.cay c).issue, t, ((s.cay c).thr t).task, op⟩] := by
    have : ({ (s.cay c).setThr t ((s.cay c).thr t).next with issue := (s.cay c).issue + 1 } : Cay).queue e = [] := hv e
    rw [this]; rfl
  unfold enqueue
  simp only [hv, hcnt]
  rw [if_neg (by simp), if_neg (by simp)]
  have hent' := hent
  rw [show ({ (s.cay c).setThr t ((s.cay c).thr t).next with issue := (s.cay c).issue + 1 } : Cay).queue e = [] from hv e] at *
  rw [List.nil_append]
  show (s.entered c t e op).pump c = _
  have hqe : ∀ x, ((s.entered c t e op).cay c).queue x = if x = e then [s.queuedEntry c t op] else [] := by
    intro x
    simp only [State.entered, State.queuedEntry, State.cay_setCay, if_true, Cay.queue_setQueue]
    split
    · rfl
    · exact hv x
  have hn : ((s.entered c t e op).cay c).entries = 1 := by
    unfold Cay.entries
    simp only [range6, List.map_cons, List.map_nil, hqe]
    interval_cases e <;> simp
  have hrun : (s.entered c t e op).runnable c [] = some (e, s.queuedEntry c t op) := by
    have hm : (s.entered c t e op).mayRun c (s.queuedEntry c t op) = true := by
      unfold State.mayRun
      rw [Cay.mustWait_false]
      · have : (s.entered c t e op).task (s.queuedEntry c t op).task = s.task ((s.cay c).thr t).task := rfl
        rw [this, hp]
        simp [State.queuedEntry, hf]
      · intro x i hi
        rw [hqe] at hi
        split at hi
        · simp at hi; subst hi; simp
        · simp at hi
    unfold State.runnable
    rw [range5]
    interval_cases e <;> simp [List.findSome?, hqe, hm]
  unfold State.pump
  simp only [hn]
  rw [show (1 + 6 : Nat) = 6 + 1 from rfl, State.pumpLoop]
  simp only [hrun, hy]
  have hz : ∀ x, ((y.setCay c ((y.cay c).dropEntry e (s.queuedEntry c t op).num)).cay c).queue x = [] := by
    intro x
    simp only [State.cay_setCay, if_true, Cay.dropEntry, Cay.queue_setQueue]
    split
    · rw [List.filter_eq_nil_iff]
      intro i hi
      have := (hq _ i hi).2
      simp [this]
    · rename_i hx
      rw [List.eq_nil_iff_forall_not_mem]
      intro i hi
      exact hx (hq x i hi).1
  rw [if_pos trivial, State.pumpLoop]
  simp only [runnable_none hz]
  rw [if_neg (by rw [Cay.entries_empty hz]; simp)]
  rfl

/-! ### A task's end on its cays -/

theorem Cay.schedule_keeps {β : Type} (p : Cay → β) (h1 : ∀ c t x, p (c.setThr t x) = p c) (h2 : ∀ c n, p { c with lastRun := n } = p c) (y : Cay) :
    p y.schedule = p y := by
  unfold Cay.schedule
  split
  · rfl
  · split
    · rfl
    · rw [h2, h1]

/-- The threads of a task on a cay unbound. -/
def Cay.dropThreads (y : Cay) (k : Nat) : Cay :=
  (List.range 8).foldl (fun x t => if (x.thr t).bound && (x.thr t).task == k then x.setThr t Thread.reset else x) y

/-- The queued work of a task on a cay dropped. -/
def Cay.dropQueues (y : Cay) (k : Nat) : Cay :=
  (List.range 6).foldl (fun x e => x.setQueue e ((x.queue e).filter (fun q => q.task != k))) y

theorem Cay.dropTask_eq (y : Cay) (k : Nat) :
    y.dropTask k = ({ (y.dropThreads k).dropQueues k with copies := ((y.dropThreads k).dropQueues k).copies.filter (fun j => j.task != k) } : Cay).schedule := by
  unfold Cay.dropTask Cay.dropQueues Cay.dropThreads
  with_reducible rfl

/-- What a task's end on a cay keeps: whatever threads, queues and copies do not hold. -/
theorem Cay.dropTask_keeps {β : Type} (p : Cay → β) (h1 : ∀ c t x, p (c.setThr t x) = p c) (h2 : ∀ c n, p { c with lastRun := n } = p c)
    (h3 : ∀ c e q, p (c.setQueue e q) = p c) (h4 : ∀ c l, p { c with copies := l } = p c) (y : Cay) (k : Nat) : p (y.dropTask k) = p y := by
  rw [Cay.dropTask_eq]
  rw [Cay.schedule_keeps p h1 h2]
  refine (h4 (Cay.dropQueues (Cay.dropThreads y k) k) _).trans ?_
  unfold Cay.dropQueues
  refine (foldl_keeps p _ (fun c e => h3 c e ((c.queue e).filter (fun q => q.task != k))) (List.range 6) (Cay.dropThreads y k)).trans ?_
  unfold Cay.dropThreads
  refine foldl_keeps p _ (fun c t => ?_) (List.range 8) y
  cases (c.thr t).bound && (c.thr t).task == k
  · rfl
  · exact h1 _ _ _

theorem Cay.dropTask_ls (y : Cay) (k : Nat) : (y.dropTask k).ls = y.ls :=
  Cay.dropTask_keeps (fun c => c.ls) (fun _ _ _ => rfl) (fun _ _ => rfl) (fun _ _ _ => rfl) (fun _ _ => rfl) y k

theorem Cay.dropTask_arrs (y : Cay) (k : Nat) : (y.dropTask k).arrs = y.arrs :=
  Cay.dropTask_keeps (fun c => c.arrs) (fun _ _ _ => rfl) (fun _ _ => rfl) (fun _ _ _ => rfl) (fun _ _ => rfl) y k

theorem mem_dropQueues (k e : Nat) (q : QEntry) (l : List Nat) (c : Cay)
    (h : q ∈ (l.foldl (fun x e => x.setQueue e ((x.queue e).filter (fun q => q.task != k))) c).queue e) : q ∈ c.queue e := by
  induction l generalizing c with
  | nil => exact h
  | cons a l ih =>
    rw [List.foldl_cons] at h
    have := ih _ h
    rw [Cay.queue_setQueue] at this
    split at this
    · rename_i he; rw [he]; exact (List.mem_filter.mp this).1
    · exact this

theorem Cay.queue_copies (c : Cay) (l : List CopyJob) (e : Nat) : ({ c with copies := l } : Cay).queue e = c.queue e := rfl

theorem Cay.queue_dropThreads (y : Cay) (k e : Nat) : (Cay.dropThreads y k).queue e = y.queue e := by
  unfold Cay.dropThreads
  refine foldl_keeps (fun c : Cay => c.queue e) _ (fun c t => ?_) (List.range 8) y
  cases (c.thr t).bound && (c.thr t).task == k
  · rfl
  · rfl

theorem Cay.dropTask_queue (y : Cay) (k e : Nat) (q : QEntry) (h : q ∈ (y.dropTask k).queue e) : q ∈ y.queue e := by
  rw [Cay.dropTask_eq, Cay.schedule_keeps (fun c => c.queue e) (fun _ _ _ => rfl) (fun _ _ => rfl), Cay.queue_copies] at h
  rw [← Cay.queue_dropThreads y k e]
  exact mem_dropQueues k e q (List.range 6) (Cay.dropThreads y k) h

theorem Cay.schedule_only (y : Cay) : y.schedule = { y with threads := y.schedule.threads, lastRun := y.schedule.lastRun } := by
  unfold Cay.schedule
  split
  · rfl
  · split <;> rfl

theorem foldl_cays {α : Type} (f : State → α → State) (h : ∀ u a, ∃ cs, f u a = { u with cays := cs }) (l : List α) (u : State) :
    ∃ cs, l.foldl f u = { u with cays := cs } := by
  induction l generalizing u with
  | nil => exact ⟨_, rfl⟩
  | cons a l ih =>
    obtain ⟨c1, h1⟩ := h u a
    obtain ⟨c2, h2⟩ := ih (f u a)
    rw [List.foldl_cons, h2, h1]
    exact ⟨c2, rfl⟩

theorem State.failTask_ex (s : State) (k st d : Nat) : ∃ cs ts, s.failTask k st d = { s with cays := cs, tasks := ts } := by
  unfold State.failTask
  by_cases hb : ((s.task k).st == .ended) = true
  · exact ⟨_, _, if_pos hb⟩
  · obtain ⟨cs, hc⟩ := foldl_cays (fun u k' => u.setCay (cayOfKey k') ((u.cay (cayOfKey k')).dropTask k)) (fun u a => ⟨_, rfl⟩) (s.task k).live
      (s.setTask k (if (s.task k).status = 0 then { s.task k with status := st, detail := d } else s.task k))
    exact ⟨cs, _, (if_neg hb).trans hc⟩

/-- A task that ends stops threads, queued work and copies, and nothing else. -/
theorem State.failTask_only (s : State) (k st d : Nat) : s.failTask k st d = { s with cays := (s.failTask k st d).cays, tasks := (s.failTask k st d).tasks } := by
  obtain ⟨cs, ts, h⟩ := s.failTask_ex k st d
  rw [h]

/-- What a task's end keeps of a cay, where dropping the task keeps it. -/
theorem State.failTask_cay (s : State) (k st d : Nat) (r : CayRef) (p : Cay → Prop) (hp : ∀ y, p y → p (y.dropTask k)) (h : p (s.cay r)) :
    p ((s.failTask k st d).cay r) := by
  unfold State.failTask
  simp only []
  split
  · exact h
  · have hl : ∀ (l : List Nat) (u : State), p (u.cay r) → p ((l.foldl (fun u k' => u.setCay (cayOfKey k') ((u.cay (cayOfKey k')).dropTask k)) u).cay r) := by
      intro l
      induction l with
      | nil => intro u h; exact h
      | cons a l ih =>
        intro u h
        rw [List.foldl_cons]
        apply ih
        rw [State.cay_setCay]
        split
        · rename_i he
          have hc : u.cay (cayOfKey a) = u.cay r := by unfold State.cay; rw [he]
          rw [hc]
          exact hp _ h
        · exact h
    apply hl
    exact h

theorem State.failTask_ls (s : State) (k st d : Nat) (r : CayRef) : ((s.failTask k st d).cay r).ls = (s.cay r).ls :=
  s.failTask_cay k st d r (fun y => y.ls = (s.cay r).ls) (fun y h => (Cay.dropTask_ls y k).trans h) rfl

theorem State.failTask_arr (s : State) (k st d a : Nat) (r : CayRef) : ((s.failTask k st d).cay r).arr a = (s.cay r).arr a :=
  s.failTask_cay k st d r (fun y => y.arr a = (s.cay r).arr a) (fun y h => (congrArg (fun z => Tbl.get arrDef z a) (Cay.dropTask_arrs y k)).trans h) rfl

theorem State.failTask_queue (s : State) (k st d e : Nat) (r : CayRef) (q : QEntry) (h : q ∈ ((s.failTask k st d).cay r).queue e) : q ∈ (s.cay r).queue e := by
  revert h
  exact s.failTask_cay k st d r (fun y => q ∈ y.queue e → q ∈ (s.cay r).queue e) (fun y h hq => h (Cay.dropTask_queue _ _ _ _ hq)) (fun h => h)

/-- A state that differs from another in registers, messages and tasks at most. -/
def RegsTasks (s u : State) : Prop := ∃ r o t, u = { s with regs := r, outbox := o, tasks := t }

theorem RegsTasks.refl (s : State) : RegsTasks s s := ⟨_, _, _, rfl⟩
theorem RegsTasks.setFld {s u : State} (h : RegsTasks s u) (f : Fld) (v i w : Nat) : RegsTasks s (u.setFld f v i w) := by
  obtain ⟨r, o, t, rfl⟩ := h; exact ⟨_, o, t, rfl⟩
theorem RegsTasks.bump {s u : State} (h : RegsTasks s u) (f : Fld) (i n w : Nat) : RegsTasks s (u.bump f i n w) := h.setFld _ _ _ _
theorem RegsTasks.raise {s u : State} (h : RegsTasks s u) (a b c : Nat) : RegsTasks s (u.raise a b c) := by
  obtain ⟨r, o, t, rfl⟩ := h; rw [State.raise_only]; exact ⟨_, _, t, rfl⟩
theorem RegsTasks.setTask {s u : State} (h : RegsTasks s u) (k : Nat) (x : Task) : RegsTasks s (u.setTask k x) := by
  obtain ⟨r, o, t, rfl⟩ := h; exact ⟨r, o, _, rfl⟩
theorem RegsTasks.only {s u : State} (h : RegsTasks s u) : u = { s with regs := u.regs, outbox := u.outbox, tasks := u.tasks } := by
  obtain ⟨r, o, t, rfl⟩ := h; rfl

/-- The report of an invalid result leaves all but registers, messages and the task alone. -/
theorem State.noteInvalid_only (s : State) (k : Nat) (r : CayRef) (a u c row col i : Nat) : RegsTasks s (s.noteInvalid k r a u c row col i) := by
  unfold State.noteInvalid
  have h1 := ((RegsTasks.refl s).bump .numiInvalidCnt r.island 1 0).bump .numcInvalidCnt (s.task k).ctx 1 0
  have h2 : ∀ w, RegsTasks s w → RegsTasks s (if (s.task k).invalid then w else w.raise 0x21 (s.task k).ctx 0) := by
    intro w hw
    split
    · exact hw
    · exact hw.raise _ _ _
  refine RegsTasks.setTask (h2 _ ?_) _ _
  split
  · exact h1.setFld _ _ _ _
  · exact ((((((((((((h1.setFld _ _ _ _).setFld _ _ _ _).setFld _ _ _ _).setFld _ _ _ _).setFld _ _ _ _).setFld _ _ _ _).setFld _ _ _ _).setFld
      _ _ _ _).setFld _ _ _ _).setFld _ _ _ _).setFld _ _ _ _).setFld _ _ _ _)

theorem State.failOnInvalid_only (s : State) (k : Nat) :
    s.failOnInvalid k = { s with cays := (s.failOnInvalid k).cays, tasks := (s.failOnInvalid k).tasks } := by
  unfold State.failOnInvalid
  simp only []
  split
  · exact State.failTask_only _ _ _ _
  · rfl

theorem State.failOnInvalid_cay (s : State) (k : Nat) (r : CayRef) (p : Cay → Prop) (hp : ∀ y, p y → p (y.dropTask k)) (h : p (s.cay r)) :
    p ((s.failOnInvalid k).cay r) := by
  unfold State.failOnInvalid
  simp only []
  split
  · exact State.failTask_cay _ _ _ _ _ _ hp h
  · exact h

theorem State.noteSat_only (s : State) (k i n : Nat) :
    s.noteSat k i n = { s with regs := (s.noteSat k i n).regs, tasks := (s.noteSat k i n).tasks } := by
  unfold State.noteSat
  split <;> rfl

theorem vecSat_only (s : State) (r : CayRef) (k n : Nat) : vecSat s r k n = { s with regs := (vecSat s r k n).regs, tasks := (vecSat s r k n).tasks } := by
  unfold vecSat
  split
  · rfl
  · rw [State.noteSat_only]; rfl

theorem vecInvalid_only (s : State) (r : CayRef) (k : Nat) (bad : List (Nat × Nat)) :
    vecInvalid s r k bad = { s with cays := (vecInvalid s r k bad).cays, regs := (vecInvalid s r k bad).regs, outbox := (vecInvalid s r k bad).outbox, tasks := (vecInvalid s r k bad).tasks } := by
  cases bad with
  | nil => rfl
  | cons e l =>
    unfold vecInvalid
    simp only []
    split
    · rfl
    · obtain ⟨a, b, c, h⟩ := State.noteInvalid_only (s.setCay r { s.cay r with vecInvalid := true }) k r 0 1 e.2 0 e.1 0
      rw [State.failOnInvalid_only, h]; rfl

/-- What the vector unit's report of an invalid lane keeps of a cay. -/
theorem vecInvalid_cay (s : State) (r c : CayRef) (k : Nat) (bad : List (Nat × Nat)) (p : Cay → Prop) (hp : ∀ y, p y → p (y.dropTask k))
    (hi : p (s.cay c) → p { s.cay c with vecInvalid := true }) (h : p (s.cay c)) : p ((vecInvalid s r k bad).cay c) := by
  cases bad with
  | nil => exact h
  | cons e l =>
    unfold vecInvalid
    simp only []
    split
    · exact h
    · apply State.failOnInvalid_cay _ _ _ _ hp
      obtain ⟨a, b, d, hn⟩ := State.noteInvalid_only (s.setCay r { s.cay r with vecInvalid := true }) k r 0 1 e.2 0 e.1 0
      rw [hn]
      show p ((s.setCay r { s.cay r with vecInvalid := true }).cay c)
      rw [State.cay_setCay]
      split
      · rename_i he
        have hc : s.cay r = s.cay c := by unfold State.cay; rw [he]
        rw [hc]; exact hi h
      · exact h

theorem vecInvalid_nil (s : State) (r : CayRef) (k : Nat) : vecInvalid s r k [] = s := rfl

/-! ### Threads made ready -/

/-- Waking leaves every thread its registers, its pc, its task and its binding, and a running thread as it is. -/
structure ThreadsSame (x y : Cay) : Prop where
  regs : ∀ i, (y.thr i).regs = (x.thr i).regs
  pc : ∀ i, (y.thr i).pc = (x.thr i).pc
  task : ∀ i, (y.thr i).task = (x.thr i).task
  bound : ∀ i, (y.thr i).bound = (x.thr i).bound
  run : ∀ t, x.running = some t → y.running = some t ∧ y.thr t = x.thr t

theorem ThreadsSame.refl (x : Cay) : ThreadsSame x x := ⟨fun _ => rfl, fun _ => rfl, fun _ => rfl, fun _ => rfl, fun _ h => ⟨h, rfl⟩⟩

theorem ThreadsSame.trans {x y z : Cay} (h : ThreadsSame x y) (g : ThreadsSame y z) : ThreadsSame x z :=
  ⟨fun i => (g.regs i).trans (h.regs i), fun i => (g.pc i).trans (h.pc i), fun i => (g.task i).trans (h.task i), fun i => (g.bound i).trans (h.bound i),
    fun t ht => ⟨(g.run t (h.run t ht).1).1, (g.run t (h.run t ht).1).2.trans (h.run t ht).2⟩⟩

theorem Cay.running_spec {x : Cay} {t : Nat} (h : x.running = some t) : x.lastRun = t ∧ t < 8 ∧ (x.thr t).bound = true ∧ (x.thr t).st = .running := by
  unfold Cay.running at h
  split at h
  · rename_i hb
    simp only [Option.some.injEq] at h
    subst h
    simpa [and_assoc] using hb
  · simp at h

theorem Cay.running_congr {x y : Cay} (hl : y.lastRun = x.lastRun) (h : ∀ i, ((y.thr i).bound && (y.thr i).st == .running) = ((x.thr i).bound && (x.thr i).st == .running)) :
    y.running = x.running := by
  unfold Cay.running
  simp only [hl, Bool.and_assoc, h]

theorem Cay.thr_lastRun (x : Cay) (n i : Nat) : ({ x with lastRun := n } : Cay).thr i = x.thr i := rfl

theorem Cay.schedule_same (x : Cay) : ThreadsSame x x.schedule := by
  unfold Cay.schedule
  split
  · exact ThreadsSame.refl x
  · rename_i hn
    split
    · exact ThreadsSame.refl x
    · refine ⟨fun i => ?_, fun i => ?_, fun i => ?_, fun i => ?_, fun t ht => absurd ht (by rw [hn]; simp)⟩ <;>
      · rw [Cay.thr_lastRun, Cay.thr_setThr]
        split
        · rename_i he; rw [he]
        · rfl

theorem Cay.schedule_running {x : Cay} {t : Nat} (h : x.running = some t) : x.schedule = x := by
  unfold Cay.schedule; rw [h]

theorem Cay.wake_same (x : Cay) (t : Nat) : ThreadsSame x (x.wake t) := by
  unfold Cay.wake
  split
  · rename_i hb
    simp only [Bool.and_eq_true, beq_iff_eq] at hb
    refine ThreadsSame.trans ?_ (Cay.schedule_same _)
    refine ⟨fun i => ?_, fun i => ?_, fun i => ?_, fun i => ?_, fun u hu => ?_⟩
    · rw [Cay.thr_setThr]; split <;> simp_all
    · rw [Cay.thr_setThr]; split <;> simp_all
    · rw [Cay.thr_setThr]; split <;> simp_all
    · rw [Cay.thr_setThr]; split <;> simp_all
    · constructor
      · rw [← hu]
        refine Cay.running_congr (x := x) (y := x.setThr t _) rfl ?_
        intro i
        rw [Cay.thr_setThr]
        split
        · rename_i he; subst he; rw [hb.2, hb.1]; rfl
        · rfl
      · have := (Cay.running_spec hu).2.2.2
        rw [Cay.thr_setThr, if_neg]
        intro he; subst he; rw [hb.2] at this; simp at this
  · exact ThreadsSame.refl x

theorem Cay.wakeIf_same (x : Cay) (p : Nat → Wait → Bool) : ThreadsSame x (x.wakeIf p) := by
  unfold Cay.wakeIf
  have h : ∀ (l : List Nat) (y : Cay), ThreadsSame y (l.foldl (fun x t => if (x.thr t).bound && p t (x.thr t).wait then x.wake t else x) y) := by
    intro l
    induction l with
    | nil => intro y; exact ThreadsSame.refl y
    | cons a l ih =>
      intro y
      rw [List.foldl_cons]
      refine ThreadsSame.trans ?_ (ih _)
      split
      · exact Cay.wake_same _ _
      · exact ThreadsSame.refl _
  exact h _ _

theorem Cay.wakeOperands_same (x : Cay) : ThreadsSame x x.wakeOperands := Cay.wakeIf_same _ _

theorem Cay.wake_only (x : Cay) (t : Nat) : x.wake t = { x with threads := (x.wake t).threads, lastRun := (x.wake t).lastRun } := by
  unfold Cay.wake
  split
  · exact Cay.schedule_only _ |>.trans rfl
  · rfl

theorem Cay.wakeIf_only (x : Cay) (p : Nat → Wait → Bool) : x.wakeIf p = { x with threads := (x.wakeIf p).threads, lastRun := (x.wakeIf p).lastRun } := by
  unfold Cay.wakeIf
  have h : ∀ (l : List Nat) (y : Cay), l.foldl (fun x t => if (x.thr t).bound && p t (x.thr t).wait then x.wake t else x) y =
      { y with threads := (l.foldl (fun x t => if (x.thr t).bound && p t (x.thr t).wait then x.wake t else x) y).threads,
               lastRun := (l.foldl (fun x t => if (x.thr t).bound && p t (x.thr t).wait then x.wake t else x) y).lastRun } := by
    intro l
    induction l with
    | nil => intro y; rfl
    | cons a l ih =>
      intro y
      rw [List.foldl_cons, ih]
      split
      · rw [Cay.wake_only]
      · rfl
  exact h _ _

theorem Cay.wakeOperands_only (x : Cay) : x.wakeOperands = { x with threads := x.wakeOperands.threads, lastRun := x.wakeOperands.lastRun } := Cay.wakeIf_only _ _

/-! ### The state in which an entry that ran has left its queue -/

/-- The entry has left its queue, and threads that waited for a result are ready. -/
def State.landed (y : State) (c : CayRef) (e n : Nat) : State :=
  let z := y.setCay c ((y.cay c).dropEntry e n)
  z.setCay c (z.cay c).wakeOperands

theorem State.landed_only (y : State) (c : CayRef) (e n : Nat) : y.landed c e n = { y with cays := (y.landed c e n).cays } := by
  have h : ∃ cs, y.landed c e n = { y with cays := cs } := ⟨_, rfl⟩
  obtain ⟨cs, h⟩ := h
  rw [h]

theorem State.landed_cay (y : State) (c : CayRef) (e n : Nat) : (y.landed c e n).cay c = ((y.cay c).dropEntry e n).wakeOperands := by
  simp [State.landed]

theorem State.landed_other (y : State) (c r : CayRef) (e n : Nat) (h : cayKey r ≠ cayKey c) : (y.landed c e n).cay r = y.cay r := by
  simp [State.landed, h]

theorem Cay.wakeOperands_ex (x : Cay) : ∃ ts n, x.wakeOperands = { x with threads := ts, lastRun := n } := ⟨_, _, x.wakeOperands_only⟩

theorem Cay.wakeOperands_ls (x : Cay) : x.wakeOperands.ls = x.ls := by
  obtain ⟨ts, n, h⟩ := x.wakeOperands_ex; rw [h]

theorem Cay.wakeOperands_arrs (x : Cay) : x.wakeOperands.arrs = x.arrs := by
  obtain ⟨ts, n, h⟩ := x.wakeOperands_ex; rw [h]

theorem State.landed_ls (y : State) (c : CayRef) (e n : Nat) : ((y.landed c e n).cay c).ls = (y.cay c).ls := by
  rw [State.landed_cay, Cay.wakeOperands_ls]; rfl

theorem State.landed_arrs (y : State) (c : CayRef) (e n : Nat) : ((y.landed c e n).cay c).arrs = (y.cay c).arrs := by
  rw [State.landed_cay, Cay.wakeOperands_arrs]; rfl

theorem State.landed_regs (y : State) (c : CayRef) (e n i : Nat) : (((y.landed c e n).cay c).thr i).regs = ((y.cay c).thr i).regs := by
  rw [State.landed_cay, (Cay.wakeOperands_same _).regs]; rfl

theorem State.landed_pc (y : State) (c : CayRef) (e n i : Nat) : (((y.landed c e n).cay c).thr i).pc = ((y.cay c).thr i).pc := by
  rw [State.landed_cay, (Cay.wakeOperands_same _).pc]; rfl

@[simp] theorem State.entered_cay_ls (s : State) (c r : CayRef) (t e : Nat) (op : EngOp) : ((s.entered c t e op).cay r).ls = (s.cay r).ls := by
  simp only [State.entered, State.cay_setCay]
  split
  · rename_i h
    have hc : s.cay r = s.cay c := by unfold State.cay; rw [h]
    rw [hc]; rfl
  · rfl

theorem State.entered_other (s : State) (c r : CayRef) (t e : Nat) (op : EngOp) (h : cayKey r ≠ cayKey c) : (s.entered c t e op).cay r = s.cay r := by
  simp [State.entered, h]

theorem State.entered_cay (s : State) (c : CayRef) (t e : Nat) (op : EngOp) : (s.entered c t e op).cay c =
    ({ (s.cay c).setThr t ((s.cay c).thr t).next with issue := (s.cay c).issue + 1 } : Cay).setQueue e [s.queuedEntry c t op] := by
  simp [State.entered, State.queuedEntry]

theorem State.entered_queue {s : State} {c : CayRef} {t e : Nat} {op : EngOp} (hv : Vacant s c) {x : Nat} {i : QEntry}
    (h : i ∈ ((s.entered c t e op).cay c).queue x) : x = e ∧ i = s.queuedEntry c t op := by
  rw [State.entered_cay, Cay.queue_setQueue] at h
  split at h
  · exact ⟨by assumption, by simpa using h⟩
  · rw [show ({ (s.cay c).setThr t ((s.cay c).thr t).next with issue := (s.cay c).issue + 1 } : Cay).queue x = (s.cay c).queue x from rfl, hv x] at h
    simp at h

theorem State.entered_thr (s : State) (c : CayRef) (t e i : Nat) (op : EngOp) :
    ((s.entered c t e op).cay c).thr i = if i = t then ((s.cay c).thr t).next else (s.cay c).thr i := by
  rw [State.entered_cay, Cay.thr_setQueue]
  exact Cay.thr_setThr _ _ _ _

/-- A vector instruction of legal form issues and runs at once where no engine of its cay holds work. -/
theorem vecIssue_runs {s : State} {c : CayRef} {t : Nat} {f : VFields} {op : VOp} {y : State} (h : Issues s c t) (hs : Settled s c t [f.d, f.a, f.b, f.c, f.k])
    (hv : Vacant s c) (hr : f.rsv = 0) (hl : vecLegal op f = true)
    (hy : runVec (s.entered c t 4 (.vec op f (vecArgs ((s.cay c).thr t) f))) c (s.queuedEntry c t (.vec op f (vecArgs ((s.cay c).thr t) f))) op f
      (vecArgs ((s.cay c).thr t) f) = (y, true))
    (hq : ∀ x i, i ∈ (y.cay c).queue x → i ∈ ((s.entered c t 4 (.vec op f (vecArgs ((s.cay c).thr t) f))).cay c).queue x) :
    vecIssue c f s op = .next (y.landed c 4 (s.cay c).issue) := by
  unfold vecIssue
  rw [show (f.rsv == 0) = true by simp [hr], issueRegs_running h.1 h.2 hs]
  simp only [hl]
  rw [if_neg (by simp), enqueue_runs (op := .vec op f (vecArgs ((s.cay c).thr t) f)) (by decide) hv rfl h.2 (y := y) hy (fun x i hi => State.entered_queue hv (hq x i hi))]
  rfl

end Sys2Proof.Machine
end

