-- ==== Sys2Proof/Laws/Exec.lean ====
section
/-! SUPPORT. What exec does with each command: its own meaning. -/
namespace Sys2Proof.Machine

theorem exec_add (c : CayRef) (f : SFields) (s : State) : exec (.add c f) s = execAdd c f s := rfl
theorem exec_sub (c : CayRef) (f : SFields) (s : State) : exec (.sub c f) s = execSub c f s := rfl
theorem exec_and (c : CayRef) (f : SFields) (s : State) : exec (.and c f) s = execAnd c f s := rfl
theorem exec_or (c : CayRef) (f : SFields) (s : State) : exec (.or c f) s = execOr c f s := rfl
theorem exec_xor (c : CayRef) (f : SFields) (s : State) : exec (.xor c f) s = execXor c f s := rfl
theorem exec_shl (c : CayRef) (f : SFields) (s : State) : exec (.shl c f) s = execShl c f s := rfl
theorem exec_shr (c : CayRef) (f : SFields) (s : State) : exec (.shr c f) s = execShr c f s := rfl
theorem exec_sar (c : CayRef) (f : SFields) (s : State) : exec (.sar c f) s = execSar c f s := rfl
theorem exec_mul (c : CayRef) (f : SFields) (s : State) : exec (.mul c f) s = execMul c f s := rfl
theorem exec_slt (c : CayRef) (f : SFields) (s : State) : exec (.slt c f) s = execSlt c f s := rfl
theorem exec_sltu (c : CayRef) (f : SFields) (s : State) : exec (.sltu c f) s = execSltu c f s := rfl
theorem exec_addi (c : CayRef) (f : IFields) (s : State) : exec (.addi c f) s = execAddi c f s := rfl
theorem exec_andi (c : CayRef) (f : IFields) (s : State) : exec (.andi c f) s = execAndi c f s := rfl
theorem exec_ori (c : CayRef) (f : IFields) (s : State) : exec (.ori c f) s = execOri c f s := rfl
theorem exec_shli (c : CayRef) (f : IFields) (s : State) : exec (.shli c f) s = execShli c f s := rfl
theorem exec_shri (c : CayRef) (f : IFields) (s : State) : exec (.shri c f) s = execShri c f s := rfl
theorem exec_lih (c : CayRef) (f : IFields) (s : State) : exec (.lih c f) s = execLih c f s := rfl
theorem exec_srd (c : CayRef) (f : IFields) (s : State) : exec (.srd c f) s = execSrd c f s := rfl
theorem exec_ld8 (c : CayRef) (f : IFields) (s : State) : exec (.ld8 c f) s = execLd8 c f s := rfl
theorem exec_ld16 (c : CayRef) (f : IFields) (s : State) : exec (.ld16 c f) s = execLd16 c f s := rfl
theorem exec_ld32 (c : CayRef) (f : IFields) (s : State) : exec (.ld32 c f) s = execLd32 c f s := rfl
theorem exec_ld64 (c : CayRef) (f : IFields) (s : State) : exec (.ld64 c f) s = execLd64 c f s := rfl
theorem exec_st16 (c : CayRef) (f : IFields) (s : State) : exec (.st16 c f) s = execSt16 c f s := rfl
theorem exec_st32 (c : CayRef) (f : IFields) (s : State) : exec (.st32 c f) s = execSt32 c f s := rfl
theorem exec_st64 (c : CayRef) (f : IFields) (s : State) : exec (.st64 c f) s = execSt64 c f s := rfl
theorem exec_ldg32 (c : CayRef) (f : IFields) (s : State) : exec (.ldg32 c f) s = execLdg32 c f s := rfl
theorem exec_ldg64 (c : CayRef) (f : IFields) (s : State) : exec (.ldg64 c f) s = execLdg64 c f s := rfl
theorem exec_stg32 (c : CayRef) (f : IFields) (s : State) : exec (.stg32 c f) s = execStg32 c f s := rfl
theorem exec_stg64 (c : CayRef) (f : IFields) (s : State) : exec (.stg64 c f) s = execStg64 c f s := rfl
theorem exec_beq (c : CayRef) (f : BFields) (s : State) : exec (.beq c f) s = execBeq c f s := rfl
theorem exec_bne (c : CayRef) (f : BFields) (s : State) : exec (.bne c f) s = execBne c f s := rfl
theorem exec_blt (c : CayRef) (f : BFields) (s : State) : exec (.blt c f) s = execBlt c f s := rfl
theorem exec_bge (c : CayRef) (f : BFields) (s : State) : exec (.bge c f) s = execBge c f s := rfl
theorem exec_bltu (c : CayRef) (f : BFields) (s : State) : exec (.bltu c f) s = execBltu c f s := rfl
theorem exec_bgeu (c : CayRef) (f : BFields) (s : State) : exec (.bgeu c f) s = execBgeu c f s := rfl
theorem exec_jal (c : CayRef) (f : IFields) (s : State) : exec (.jal c f) s = execJal c f s := rfl
theorem exec_jr (c : CayRef) (f : SFields) (s : State) : exec (.jr c f) s = execJr c f s := rfl
theorem exec_tyld (c : CayRef) (f : SFields) (s : State) : exec (.tyld c f) s = execTyld c f s := rfl
theorem exec_tbar (c : CayRef) (f : SFields) (s : State) : exec (.tbar c f) s = execTbar c f s := rfl
theorem exec_nwait (c : CayRef) (f : IFields) (s : State) : exec (.nwait c f) s = execNwait c f s := rfl
theorem exec_cpost (c : CayRef) (f : SFields) (s : State) : exec (.cpost c f) s = execCpost c f s := rfl
theorem exec_tend (c : CayRef) (f : SFields) (s : State) : exec (.tend c f) s = execTend c f s := rfl
theorem exec_tdsc (c : CayRef) (f : SFields) (s : State) : exec (.tdsc c f) s = execTdsc c f s := rfl
theorem exec_tfail (c : CayRef) (f : IFields) (s : State) : exec (.tfail c f) s = execTfail c f s := rfl
theorem exec_cpy (c : CayRef) (f : CFields) (s : State) : exec (.cpy c f) s = execCpy c f s := rfl
theorem exec_cfen (c : CayRef) (f : CFields) (s : State) : exec (.cfen c f) s = execCfen c f s := rfl
theorem exec_mcfg (c : CayRef) (f : McfgFields) (s : State) : exec (.mcfg c f) s = execMcfg c f s := rfl
theorem exec_mlds (c : CayRef) (f : MldsFields) (s : State) : exec (.mlds c f) s = execMlds c f s := rfl
theorem exec_miss (c : CayRef) (f : MissFields) (gap : Nat) (s : State) : exec (.miss c f gap) s = execMiss c f gap s := rfl
theorem exec_mseq (c : CayRef) (f : MseqFields) (s : State) : exec (.mseq c f) s = execMseq c f s := rfl
theorem exec_mfin (c : CayRef) (f : MfinFields) (s : State) : exec (.mfin c f) s = execMfin c f s := rfl
theorem exec_mdrn (c : CayRef) (f : MdrnFields) (s : State) : exec (.mdrn c f) s = execMdrn c f s := rfl
theorem exec_vadd (c : CayRef) (f : VFields) (s : State) : exec (.vadd c f) s = execVadd c f s := rfl
theorem exec_vsub (c : CayRef) (f : VFields) (s : State) : exec (.vsub c f) s = execVsub c f s := rfl
theorem exec_vmul (c : CayRef) (f : VFields) (s : State) : exec (.vmul c f) s = execVmul c f s := rfl
theorem exec_vfma (c : CayRef) (f : VFields) (s : State) : exec (.vfma c f) s = execVfma c f s := rfl
theorem exec_vmin (c : CayRef) (f : VFields) (s : State) : exec (.vmin c f) s = execVmin c f s := rfl
theorem exec_vmax (c : CayRef) (f : VFields) (s : State) : exec (.vmax c f) s = execVmax c f s := rfl
theorem exec_vabs (c : CayRef) (f : VFields) (s : State) : exec (.vabs c f) s = execVabs c f s := rfl
theorem exec_vneg (c : CayRef) (f : VFields) (s : State) : exec (.vneg c f) s = execVneg c f s := rfl
theorem exec_vscl (c : CayRef) (f : VFields) (s : State) : exec (.vscl c f) s = execVscl c f s := rfl
theorem exec_vcmplt (c : CayRef) (f : VFields) (s : State) : exec (.vcmplt c f) s = execVcmplt c f s := rfl
theorem exec_vcmpeq (c : CayRef) (f : VFields) (s : State) : exec (.vcmpeq c f) s = execVcmpeq c f s := rfl
theorem exec_vsel (c : CayRef) (f : VFields) (s : State) : exec (.vsel c f) s = execVsel c f s := rfl
theorem exec_vmov (c : CayRef) (f : VFields) (s : State) : exec (.vmov c f) s = execVmov c f s := rfl
theorem exec_vexp2 (c : CayRef) (f : VFields) (s : State) : exec (.vexp2 c f) s = execVexp2 c f s := rfl
theorem exec_vlog2 (c : CayRef) (f : VFields) (s : State) : exec (.vlog2 c f) s = execVlog2 c f s := rfl
theorem exec_vrcp (c : CayRef) (f : VFields) (s : State) : exec (.vrcp c f) s = execVrcp c f s := rfl
theorem exec_vrsqrt (c : CayRef) (f : VFields) (s : State) : exec (.vrsqrt c f) s = execVrsqrt c f s := rfl
theorem exec_vsqrt (c : CayRef) (f : VFields) (s : State) : exec (.vsqrt c f) s = execVsqrt c f s := rfl
theorem exec_vcvt (c : CayRef) (f : VFields) (s : State) : exec (.vcvt c f) s = execVcvt c f s := rfl
theorem exec_vrsum (c : CayRef) (f : VFields) (s : State) : exec (.vrsum c f) s = execVrsum c f s := rfl
theorem exec_vrmax (c : CayRef) (f : VFields) (s : State) : exec (.vrmax c f) s = execVrmax c f s := rfl
theorem exec_vldg (c : CayRef) (f : VFields) (s : State) : exec (.vldg c f) s = execVldg c f s := rfl
theorem exec_vstg (c : CayRef) (f : VFields) (s : State) : exec (.vstg c f) s = execVstg c f s := rfl
theorem exec_threadSwitchQuantum (c : CayRef) (s : State) : exec (.threadSwitchQuantum c) s = execThreadSwitchQuantum c s := rfl
theorem exec_threadMissReturn (c : CayRef) (thread : Nat) (s : State) : exec (.threadMissReturn c thread) s = execThreadMissReturn c thread s := rfl
theorem exec_taskBind (c : CayRef) (task : Nat) (s : State) : exec (.taskBind c task) s = execTaskBind c task s := rfl
theorem exec_taskEnd (task : Nat) (s : State) : exec (.taskEnd task) s = execTaskEnd task s := rfl
theorem exec_cayClockGate (c : CayRef) (s : State) : exec (.cayClockGate c) s = execCayClockGate c s := rfl
theorem exec_cayUngate (c : CayRef) (mesh : Bool) (s : State) : exec (.cayUngate c mesh) s = execCayUngate c mesh s := rfl
theorem exec_shadowRecompute (c : CayRef) (s : State) : exec (.shadowRecompute c) s = execShadowRecompute c s := rfl
theorem exec_shadowSelectExpiry (c : CayRef) (s : State) : exec (.shadowSelectExpiry c) s = execShadowSelectExpiry c s := rfl
theorem exec_copyComplete (c : CayRef) (copy : Nat) (s : State) : exec (.copyComplete c copy) s = execCopyComplete c copy s := rfl
theorem exec_copyPageFault (c : CayRef) (copy : Nat) (s : State) : exec (.copyPageFault c copy) s = execCopyPageFault c copy s := rfl
theorem exec_queuedFenceComplete (c : CayRef) (engine : Nat) (s : State) : exec (.queuedFenceComplete c engine) s = execQueuedFenceComplete c engine s := rfl
theorem exec_islandCacheFill (island line : Nat) (s : State) : exec (.islandCacheFill island line) s = execIslandCacheFill island line s := rfl
theorem exec_runAheadFetch (island tracker : Nat) (s : State) : exec (.runAheadFetch island tracker) s = execRunAheadFetch island tracker s := rfl
theorem exec_prefetchArrival (island line : Nat) (s : State) : exec (.prefetchArrival island line) s = execPrefetchArrival island line s := rfl
theorem exec_hbmWriteInvalidate (writer addr : Nat) (data : List (BitVec 8)) (s : State) : exec (.hbmWriteInvalidate writer addr data) s = execHbmWriteInvalidate writer addr data s := rfl
theorem exec_speculativeRequeue (island writer : Nat) (s : State) : exec (.speculativeRequeue island writer) s = execSpeculativeRequeue island writer s := rfl
theorem exec_speculativeCommit (task : Nat) (s : State) : exec (.speculativeCommit task) s = execSpeculativeCommit task s := rfl
theorem exec_speculativeDiscard (task : Nat) (s : State) : exec (.speculativeDiscard task) s = execSpeculativeDiscard task s := rfl
theorem exec_landingWindowWrite (ctx tag off : Nat) (data : List (BitVec 8)) (s : State) : exec (.landingWindowWrite ctx tag off data) s = execLandingWindowWrite ctx tag off data s := rfl
theorem exec_landingWindowResponse (ctx stream seq : Nat) (s : State) : exec (.landingWindowResponse ctx stream seq) s = execLandingWindowResponse ctx stream seq s := rfl
theorem exec_recordStart (ctx stream seq : Nat) (s : State) : exec (.recordStart ctx stream seq) s = execRecordStart ctx stream seq s := rfl
theorem exec_recordCommit (ctx stream seq : Nat) (s : State) : exec (.recordCommit ctx stream seq) s = execRecordCommit ctx stream seq s := rfl
theorem exec_task (ctx stream seq : Nat) (s : State) : exec (.task ctx stream seq) s = execTask ctx stream seq s := rfl
theorem exec_copy (ctx stream seq : Nat) (s : State) : exec (.copy ctx stream seq) s = execCopy ctx stream seq s := rfl
theorem exec_groupClose (ctx stream seq : Nat) (s : State) : exec (.groupClose ctx stream seq) s = execGroupClose ctx stream seq s := rfl
theorem exec_marker (ctx stream seq : Nat) (s : State) : exec (.marker ctx stream seq) s = execMarker ctx stream seq s := rfl
theorem exec_registerWrite (ctx stream seq : Nat) (s : State) : exec (.registerWrite ctx stream seq) s = execRegisterWrite ctx stream seq s := rfl
theorem exec_groupDecision (group : Nat) (s : State) : exec (.groupDecision group) s = execGroupDecision group s := rfl
theorem exec_groupApply (group : Nat) (s : State) : exec (.groupApply group) s = execGroupApply group s := rfl
theorem exec_groupTimeout (group : Nat) (s : State) : exec (.groupTimeout group) s = execGroupTimeout group s := rfl
theorem exec_journalEntryWrite (ctx stream seq : Nat) (s : State) : exec (.journalEntryWrite ctx stream seq) s = execJournalEntryWrite ctx stream seq s := rfl
theorem exec_journalEntryRetire (ctx stream seq : Nat) (s : State) : exec (.journalEntryRetire ctx stream seq) s = execJournalEntryRetire ctx stream seq s := rfl
theorem exec_journalRecovery (s : State) : exec (.journalRecovery) s = execJournalRecovery s := rfl
theorem exec_journalStackLoss (s : State) : exec (.journalStackLoss) s = execJournalStackLoss s := rfl
theorem exec_journalRebuild (value : Nat) (s : State) : exec (.journalRebuild value) s = execJournalRebuild value s := rfl
theorem exec_journalEnable (value : Nat) (s : State) : exec (.journalEnable value) s = execJournalEnable value s := rfl
theorem exec_completionWrite (ctx stream seq : Nat) (s : State) : exec (.completionWrite ctx stream seq) s = execCompletionWrite ctx stream seq s := rfl
theorem exec_completionRewrite (ctx stream seq : Nat) (s : State) : exec (.completionRewrite ctx stream seq) s = execCompletionRewrite ctx stream seq s := rfl
theorem exec_cqConsumedWrite (ctx stream value : Nat) (s : State) : exec (.cqConsumedWrite ctx stream value) s = execCqConsumedWrite ctx stream value s := rfl
theorem exec_lwEnable (writer ctx stream value : Nat) (s : State) : exec (.lwEnable writer ctx stream value) s = execLwEnable writer ctx stream value s := rfl
theorem exec_controlTakeover (s : State) : exec (.controlTakeover) s = execControlTakeover s := rfl
theorem exec_admitRequest (ctx stream seq : Nat) (s : State) : exec (.admitRequest ctx stream seq) s = execAdmitRequest ctx stream seq s := rfl
theorem exec_cancel (ctx stream seq : Nat) (s : State) : exec (.cancel ctx stream seq) s = execCancel ctx stream seq s := rfl
theorem exec_pause (ctx stream seq : Nat) (s : State) : exec (.pause ctx stream seq) s = execPause ctx stream seq s := rfl
theorem exec_resume (ctx stream seq : Nat) (s : State) : exec (.resume ctx stream seq) s = execResume ctx stream seq s := rfl
theorem exec_adapterInstall (ctx stream seq : Nat) (s : State) : exec (.adapterInstall ctx stream seq) s = execAdapterInstall ctx stream seq s := rfl
theorem exec_adapterRetire (ctx stream seq : Nat) (s : State) : exec (.adapterRetire ctx stream seq) s = execAdapterRetire ctx stream seq s := rfl
theorem exec_stepForm (ctx : Nat) (s : State) : exec (.stepForm ctx) s = execStepForm ctx s := rfl
theorem exec_stepTaskStart (ctx : Nat) (s : State) : exec (.stepTaskStart ctx) s = execStepTaskStart ctx s := rfl
theorem exec_samplerRun (ctx : Nat) (s : State) : exec (.samplerRun ctx) s = execSamplerRun ctx s := rfl
theorem exec_stepBoundary (ctx : Nat) (s : State) : exec (.stepBoundary ctx) s = execStepBoundary ctx s := rfl
theorem exec_kvPoolExhausted (ctx : Nat) (s : State) : exec (.kvPoolExhausted ctx) s = execKvPoolExhausted ctx s := rfl
theorem exec_pauseCopyComplete (ctx slot : Nat) (s : State) : exec (.pauseCopyComplete ctx slot) s = execPauseCopyComplete ctx slot s := rfl
theorem exec_resumeCopyComplete (ctx slot : Nat) (s : State) : exec (.resumeCopyComplete ctx slot) s = execResumeCopyComplete ctx slot s := rfl
theorem exec_pauseExpiry (ctx slot : Nat) (s : State) : exec (.pauseExpiry ctx slot) s = execPauseExpiry ctx slot s := rfl
theorem exec_adapterFreed (ctx copy : Nat) (s : State) : exec (.adapterFreed ctx copy) s = execAdapterFreed ctx copy s := rfl
theorem exec_requestEventWrite (ctx : Nat) (s : State) : exec (.requestEventWrite ctx) s = execRequestEventWrite ctx s := rfl
theorem exec_servingEnable (ctx value : Nat) (s : State) : exec (.servingEnable ctx value) s = execServingEnable ctx value s := rfl
theorem exec_servingStateEnable (value : Nat) (s : State) : exec (.servingStateEnable value) s = execServingStateEnable value s := rfl
theorem exec_stageRun (ctx stream seq : Nat) (s : State) : exec (.stageRun ctx stream seq) s = execStageRun ctx stream seq s := rfl
theorem exec_stageUnitStart (run : Nat) (s : State) : exec (.stageUnitStart run) s = execStageUnitStart run s := rfl
theorem exec_stageEntryStart (run : Nat) (s : State) : exec (.stageEntryStart run) s = execStageEntryStart run s := rfl
theorem exec_quantCheck (run : Nat) (s : State) : exec (.quantCheck run) s = execQuantCheck run s := rfl
theorem exec_handOff (run : Nat) (s : State) : exec (.handOff run) s = execHandOff run s := rfl
theorem exec_stepOutOfOrder (ctx stream seq : Nat) (s : State) : exec (.stepOutOfOrder ctx stream seq) s = execStepOutOfOrder ctx stream seq s := rfl
theorem exec_seal (ctx stream seq : Nat) (s : State) : exec (.seal ctx stream seq) s = execSeal ctx stream seq s := rfl
theorem exec_sealVote (ctx tgroup : Nat) (s : State) : exec (.sealVote ctx tgroup) s = execSealVote ctx tgroup s := rfl
theorem exec_sealDecide (ctx tgroup : Nat) (s : State) : exec (.sealDecide ctx tgroup) s = execSealDecide ctx tgroup s := rfl
theorem exec_sealApply (ctx tgroup : Nat) (s : State) : exec (.sealApply ctx tgroup) s = execSealApply ctx tgroup s := rfl
theorem exec_sealTimeout (ctx tgroup : Nat) (s : State) : exec (.sealTimeout ctx tgroup) s = execSealTimeout ctx tgroup s := rfl
theorem exec_sealQuery (island : Nat) (s : State) : exec (.sealQuery island) s = execSealQuery island s := rfl
theorem exec_sealAbort (ctx stream seq : Nat) (s : State) : exec (.sealAbort ctx stream seq) s = execSealAbort ctx stream seq s := rfl
theorem exec_bind (ctx stream seq : Nat) (s : State) : exec (.bind ctx stream seq) s = execBind ctx stream seq s := rfl
theorem exec_publish (ctx stream seq : Nat) (s : State) : exec (.publish ctx stream seq) s = execPublish ctx stream seq s := rfl
theorem exec_allReduce (ctx stream seq : Nat) (s : State) : exec (.allReduce ctx stream seq) s = execAllReduce ctx stream seq s := rfl
theorem exec_reduceScatter (ctx stream seq : Nat) (s : State) : exec (.reduceScatter ctx stream seq) s = execReduceScatter ctx stream seq s := rfl
theorem exec_allGather (ctx stream seq : Nat) (s : State) : exec (.allGather ctx stream seq) s = execAllGather ctx stream seq s := rfl
theorem exec_broadcast (ctx stream seq : Nat) (s : State) : exec (.broadcast ctx stream seq) s = execBroadcast ctx stream seq s := rfl
theorem exec_receive (ctx stream seq : Nat) (s : State) : exec (.receive ctx stream seq) s = execReceive ctx stream seq s := rfl
theorem exec_reduceUpdateGather (ctx stream seq : Nat) (s : State) : exec (.reduceUpdateGather ctx stream seq) s = execReduceUpdateGather ctx stream seq s := rfl
theorem exec_collectiveAbort (ctx stream seq : Nat) (s : State) : exec (.collectiveAbort ctx stream seq) s = execCollectiveAbort ctx stream seq s := rfl
theorem exec_chunkSend (island : Nat) (s : State) : exec (.chunkSend island) s = execChunkSend island s := rfl
theorem exec_dataChunkReceive (island : Nat) (s : State) : exec (.dataChunkReceive island) s = execDataChunkReceive island s := rfl
theorem exec_creditReceive (island : Nat) (s : State) : exec (.creditReceive island) s = execCreditReceive island s := rfl
theorem exec_ackReceive (island : Nat) (s : State) : exec (.ackReceive island) s = execAckReceive island s := rfl
theorem exec_nackReceive (island : Nat) (s : State) : exec (.nackReceive island) s = execNackReceive island s := rfl
theorem exec_notOpenReceive (island : Nat) (s : State) : exec (.notOpenReceive island) s = execNotOpenReceive island s := rfl
theorem exec_creditRegrant (island : Nat) (s : State) : exec (.creditRegrant island) s = execCreditRegrant island s := rfl
theorem exec_abortReceive (island : Nat) (s : State) : exec (.abortReceive island) s = execAbortReceive island s := rfl
theorem exec_resyncReceive (island : Nat) (s : State) : exec (.resyncReceive island) s = execResyncReceive island s := rfl
theorem exec_chunkAckTimeout (island ctx tag chunk lo log dfab : Nat) (s : State) : exec (.chunkAckTimeout island ctx tag chunk lo log dfab) s = execChunkAckTimeout island ctx tag chunk lo log dfab s := rfl
theorem exec_chunkRelay (island : Nat) (s : State) : exec (.chunkRelay island) s = execChunkRelay island s := rfl
theorem exec_collectiveClose (ctx tag island : Nat) (s : State) : exec (.collectiveClose ctx tag island) s = execCollectiveClose ctx tag island s := rfl
theorem exec_collectiveReopen (island : Nat) (s : State) : exec (.collectiveReopen island) s = execCollectiveReopen island s := rfl
theorem exec_updateTile (island : Nat) (s : State) : exec (.updateTile island) s = execUpdateTile island s := rfl
theorem exec_load (ctx stream seq : Nat) (s : State) : exec (.load ctx stream seq) s = execLoad ctx stream seq s := rfl
theorem exec_switch (ctx stream seq : Nat) (s : State) : exec (.switch ctx stream seq) s = execSwitch ctx stream seq s := rfl
theorem exec_drop (ctx stream seq : Nat) (s : State) : exec (.drop ctx stream seq) s = execDrop ctx stream seq s := rfl
theorem exec_verify (ctx stream seq : Nat) (s : State) : exec (.verify ctx stream seq) s = execVerify ctx stream seq s := rfl
theorem exec_pin (ctx stream seq : Nat) (s : State) : exec (.pin ctx stream seq) s = execPin ctx stream seq s := rfl
theorem exec_unpin (ctx stream seq : Nat) (s : State) : exec (.unpin ctx stream seq) s = execUnpin ctx stream seq s := rfl
theorem exec_checkpointWrite (ctx stream seq : Nat) (s : State) : exec (.checkpointWrite ctx stream seq) s = execCheckpointWrite ctx stream seq s := rfl
theorem exec_shardArrivalHash (ctx stream seq shard : Nat) (s : State) : exec (.shardArrivalHash ctx stream seq shard) s = execShardArrivalHash ctx stream seq shard s := rfl
theorem exec_inplaceLayerWrite (ctx stream seq : Nat) (s : State) : exec (.inplaceLayerWrite ctx stream seq) s = execInplaceLayerWrite ctx stream seq s := rfl
theorem exec_digestWalk (ctx : Nat) (image : Bool) (model slot index : Nat) (s : State) : exec (.digestWalk ctx image model slot index) s = execDigestWalk ctx image model slot index s := rfl
theorem exec_tieredLayerStage (ctx model layer : Nat) (s : State) : exec (.tieredLayerStage ctx model layer) s = execTieredLayerStage ctx model layer s := rfl
theorem exec_modelEvict (ctx : Nat) (s : State) : exec (.modelEvict ctx) s = execModelEvict ctx s := rfl
theorem exec_generationFree (ctx model slot : Nat) (s : State) : exec (.generationFree ctx model slot) s = execGenerationFree ctx model slot s := rfl
theorem exec_turn (ctx stream seq : Nat) (s : State) : exec (.turn ctx stream seq) s = execTurn ctx stream seq s := rfl
theorem exec_turnRelayDone (s : State) : exec (.turnRelayDone) s = execTurnRelayDone s := rfl
theorem exec_turnQuietDone (s : State) : exec (.turnQuietDone) s = execTurnQuietDone s := rfl
theorem exec_turnGo (ctx value : Nat) (s : State) : exec (.turnGo ctx value) s = execTurnGo ctx value s := rfl
theorem exec_turnRetrainDone (s : State) : exec (.turnRetrainDone) s = execTurnRetrainDone s := rfl
theorem exec_turnVote (s : State) : exec (.turnVote) s = execTurnVote s := rfl
theorem exec_turnApply (s : State) : exec (.turnApply) s = execTurnApply s := rfl
theorem exec_turnTimeout (s : State) : exec (.turnTimeout) s = execTurnTimeout s := rfl
theorem exec_builtDigestRecord (ctx model slot shard : Nat) (s : State) : exec (.builtDigestRecord ctx model slot shard) s = execBuiltDigestRecord ctx model slot shard s := rfl
theorem exec_straitLightDetect (strait lanes : Nat) (s : State) : exec (.straitLightDetect strait lanes) s = execStraitLightDetect strait lanes s := rfl
theorem exec_straitLock (strait lanes : Nat) (s : State) : exec (.straitLock strait lanes) s = execStraitLock strait lanes s := rfl
theorem exec_straitDeskew (strait : Nat) (skew oma : List Nat) (s : State) : exec (.straitDeskew strait skew oma) s = execStraitDeskew strait skew oma s := rfl
theorem exec_identityFrame (strait : Nat) (frame : List (BitVec 8)) (s : State) : exec (.identityFrame strait frame) s = execIdentityFrame strait frame s := rfl
theorem exec_straitCheck (strait : Nat) (s : State) : exec (.straitCheck strait) s = execStraitCheck strait s := rfl
theorem exec_straitStateBoundExpiry (strait : Nat) (s : State) : exec (.straitStateBoundExpiry strait) s = execStraitStateBoundExpiry strait s := rfl
theorem exec_straitRetrain (strait : Nat) (s : State) : exec (.straitRetrain strait) s = execStraitRetrain strait s := rfl
theorem exec_straitRetrainGo (strait value : Nat) (s : State) : exec (.straitRetrainGo strait value) s = execStraitRetrainGo strait value s := rfl
theorem exec_straitEnable (strait value : Nat) (s : State) : exec (.straitEnable strait value) s = execStraitEnable strait value s := rfl
theorem exec_dataFrameReceive (strait : Nat) (frame : List (BitVec 8)) (s : State) : exec (.dataFrameReceive strait frame) s = execDataFrameReceive strait frame s := rfl
theorem exec_nackFrameReceive (strait : Nat) (frame : List (BitVec 8)) (s : State) : exec (.nackFrameReceive strait frame) s = execNackFrameReceive strait frame s := rfl
theorem exec_idleFrameReceive (strait : Nat) (frame : List (BitVec 8)) (s : State) : exec (.idleFrameReceive strait frame) s = execIdleFrameReceive strait frame s := rfl
theorem exec_retrainRequestFrame (strait : Nat) (frame : List (BitVec 8)) (s : State) : exec (.retrainRequestFrame strait frame) s = execRetrainRequestFrame strait frame s := rfl
theorem exec_frameReplayTimeout (strait : Nat) (s : State) : exec (.frameReplayTimeout strait) s = execFrameReplayTimeout strait s := rfl
theorem exec_frameSend (strait : Nat) (s : State) : exec (.frameSend strait) s = execFrameSend strait s := rfl
theorem exec_routeLoad (value : Nat) (s : State) : exec (.routeLoad value) s = execRouteLoad value s := rfl
theorem exec_rtEntryWrite (value : Nat) (s : State) : exec (.rtEntryWrite value) s = execRtEntryWrite value s := rfl
theorem exec_fabLock (value : Nat) (s : State) : exec (.fabLock value) s = execFabLock value s := rfl
theorem exec_cwSignalDetect (lanes : Nat) (s : State) : exec (.cwSignalDetect lanes) s = execCwSignalDetect lanes s := rfl
theorem exec_cwLock (lanes : Nat) (s : State) : exec (.cwLock lanes) s = execCwLock lanes s := rfl
theorem exec_cwAlign (order : Nat) (s : State) : exec (.cwAlign order) s = execCwAlign order s := rfl
theorem exec_cwConfig (s : State) : exec (.cwConfig) s = execCwConfig s := rfl
theorem exec_cwStateBoundExpiry (s : State) : exec (.cwStateBoundExpiry) s = execCwStateBoundExpiry s := rfl
theorem exec_cwRetrain (s : State) : exec (.cwRetrain) s = execCwRetrain s := rfl
theorem exec_cwRetrainWrite (value : Nat) (s : State) : exec (.cwRetrainWrite value) s = execCwRetrainWrite value s := rfl
theorem exec_causewayPacketReceive (packet : List (BitVec 8)) (s : State) : exec (.causewayPacketReceive packet) s = execCausewayPacketReceive packet s := rfl
theorem exec_linkControlReceive (packet : List (BitVec 8)) (s : State) : exec (.linkControlReceive packet) s = execLinkControlReceive packet s := rfl
theorem exec_linkControlSend (s : State) : exec (.linkControlSend) s = execLinkControlSend s := rfl
theorem exec_cwReplayTimeout (s : State) : exec (.cwReplayTimeout) s = execCwReplayTimeout s := rfl
theorem exec_registerReadPacket (ctx tag off len : Nat) (s : State) : exec (.registerReadPacket ctx tag off len) s = execRegisterReadPacket ctx tag off len s := rfl
theorem exec_registerWritePacket (ctx off : Nat) (data : List (BitVec 8)) (s : State) : exec (.registerWritePacket ctx off data) s = execRegisterWritePacket ctx off data s := rfl
theorem exec_memoryRead (ctx tag addr len : Nat) (s : State) : exec (.memoryRead ctx tag addr len) s = execMemoryRead ctx tag addr len s := rfl
theorem exec_memoryWrite (ctx addr : Nat) (data : List (BitVec 8)) (s : State) : exec (.memoryWrite ctx addr data) s = execMemoryWrite ctx addr data s := rfl
theorem exec_readResponse (tag status : Nat) (data : List (BitVec 8)) (s : State) : exec (.readResponse tag status data) s = execReadResponse tag status data s := rfl
theorem exec_storageCommandComplete (port num sct sc : Nat) (dnr : Bool) (data : List (BitVec 8)) (s : State) : exec (.storageCommandComplete port num sct sc dnr data) s = execStorageCommandComplete port num sct sc dnr data s := rfl
theorem exec_queuePairFail (port target queue : Nat) (refused : Bool) (s : State) : exec (.queuePairFail port target queue refused) s = execQueuePairFail port target queue refused s := rfl
theorem exec_storageAckTimeout (port target queue : Nat) (s : State) : exec (.storageAckTimeout port target queue) s = execStorageAckTimeout port target queue s := rfl
theorem exec_ceMarkedReceive (port target queue : Nat) (s : State) : exec (.ceMarkedReceive port target queue) s = execCeMarkedReceive port target queue s := rfl
theorem exec_cnpReceive (port target queue : Nat) (s : State) : exec (.cnpReceive port target queue) s = execCnpReceive port target queue s := rfl
theorem exec_rateRestore (port target queue : Nat) (s : State) : exec (.rateRestore port target queue) s = execRateRestore port target queue s := rfl
theorem exec_keepAlive (port target : Nat) (s : State) : exec (.keepAlive port target) s = execKeepAlive port target s := rfl
theorem exec_arpNdRequest (port : Nat) (ipv6 : Bool) (addr : Nat) (s : State) : exec (.arpNdRequest port ipv6 addr) s = execArpNdRequest port ipv6 addr s := rfl
theorem exec_storagePacketDrop (port target queue : Nat) (unsupported : Bool) (s : State) : exec (.storagePacketDrop port target queue unsupported) s = execStoragePacketDrop port target queue unsupported s := rfl
theorem exec_storageEnable (port value : Nat) (s : State) : exec (.storageEnable port value) s = execStorageEnable port value s := rfl
theorem exec_status (pec : Bool) (s : State) : exec (.status pec) s = execStatus pec s := rfl
theorem exec_poweredTime (pec : Bool) (s : State) : exec (.poweredTime pec) s = execPoweredTime pec s := rfl
theorem exec_tempMax (pec : Bool) (s : State) : exec (.tempMax pec) s = execTempMax pec s := rfl
theorem exec_inputPower (pec : Bool) (s : State) : exec (.inputPower pec) s = execInputPower pec s := rfl
theorem exec_inputVoltage (pec : Bool) (s : State) : exec (.inputVoltage pec) s = execInputVoltage pec s := rfl
theorem exec_powerCap (pec : Bool) (write : Option Nat) (s : State) : exec (.powerCap pec write) s = execPowerCap pec write s := rfl
theorem exec_smbusResetHold (pec : Bool) (s : State) : exec (.smbusResetHold pec) s = execSmbusResetHold pec s := rfl
theorem exec_smbusResetClearing (pec : Bool) (s : State) : exec (.smbusResetClearing pec) s = execSmbusResetClearing pec s := rfl
theorem exec_smbusResetRelease (pec : Bool) (s : State) : exec (.smbusResetRelease pec) s = execSmbusResetRelease pec s := rfl
theorem exec_standbyEnter (pec : Bool) (s : State) : exec (.standbyEnter pec) s = execStandbyEnter pec s := rfl
theorem exec_standbyLeave (pec : Bool) (s : State) : exec (.standbyLeave pec) s = execStandbyLeave pec s := rfl
theorem exec_alertStatus (pec : Bool) (write : Option Nat) (s : State) : exec (.alertStatus pec write) s = execAlertStatus pec write s := rfl
theorem exec_alertMask (pec : Bool) (write : Option Nat) (s : State) : exec (.alertMask pec write) s = execAlertMask pec write s := rfl
theorem exec_logIndex (pec : Bool) (value : Nat) (s : State) : exec (.logIndex pec value) s = execLogIndex pec value s := rfl
theorem exec_logRead (pec : Bool) (s : State) : exec (.logRead pec) s = execLogRead pec s := rfl
theorem exec_identity (pec : Bool) (s : State) : exec (.identity pec) s = execIdentity pec s := rfl
theorem exec_fwDigest (pec : Bool) (s : State) : exec (.fwDigest pec) s = execFwDigest pec s := rfl
theorem exec_fabricId (pec : Bool) (s : State) : exec (.fabricId pec) s = execFabricId pec s := rfl
theorem exec_bypass (s : State) : exec (.bypass) s = execBypass s := rfl
theorem exec_idcode (s : State) : exec (.idcode) s = execIdcode s := rfl
theorem exec_samplePreload (pins preload : List Bool) (s : State) : exec (.samplePreload pins preload) s = execSamplePreload pins preload s := rfl
theorem exec_extest (s : State) : exec (.extest) s = execExtest s := rfl
theorem exec_clamp (s : State) : exec (.clamp) s = execClamp s := rfl
theorem exec_highz (s : State) : exec (.highz) s = execHighz s := rfl
theorem exec_laneLb (detached far : Nat) (s : State) : exec (.laneLb detached far) s = execLaneLb detached far s := rfl
theorem exec_tapReset (s : State) : exec (.tapReset) s = execTapReset s := rfl
theorem exec_standbyGood (s : State) : exec (.standbyGood) s = execStandbyGood s := rfl
theorem exec_standbyLoss (s : State) : exec (.standbyLoss) s = execStandbyLoss s := rfl
theorem exec_mainInputGood (mv : Nat) (s : State) : exec (.mainInputGood mv) s = execMainInputGood mv s := rfl
theorem exec_inputUv (mv : Nat) (s : State) : exec (.inputUv mv) s = execInputUv mv s := rfl
theorem exec_inputUvReset (mv : Nat) (s : State) : exec (.inputUvReset mv) s = execInputUvReset mv s := rfl
theorem exec_mainInputLoss (mv : Nat) (s : State) : exec (.mainInputLoss mv) s = execMainInputLoss mv s := rfl
theorem exec_inputRecovery (mv ms : Nat) (s : State) : exec (.inputRecovery mv ms) s = execInputRecovery mv ms s := rfl
theorem exec_modRstNAssert (s : State) : exec (.modRstNAssert) s = execModRstNAssert s := rfl
theorem exec_modRstNRelease (s : State) : exec (.modRstNRelease) s = execModRstNRelease s := rfl
theorem exec_cableUnplug (s : State) : exec (.cableUnplug) s = execCableUnplug s := rfl
theorem exec_operatingPointChange (island : Nat) (s : State) : exec (.operatingPointChange island) s = execOperatingPointChange island s := rfl
theorem exec_plannerTick (watts : Nat) (miss : List Nat) (s : State) : exec (.plannerTick watts miss) s = execPlannerTick watts miss s := rfl
theorem exec_capExceeded (watts : Nat) (s : State) : exec (.capExceeded watts) s = execCapExceeded watts s := rfl
theorem exec_admissionCheck (s : State) : exec (.admissionCheck) s = execAdmissionCheck s := rfl
theorem exec_budgetPause (ctx : Nat) (s : State) : exec (.budgetPause ctx) s = execBudgetPause ctx s := rfl
theorem exec_budgetResume (ctx : Nat) (s : State) : exec (.budgetResume ctx) s = execBudgetResume ctx s := rfl
theorem exec_ledgerAttribute (parts : List Attr) (s : State) : exec (.ledgerAttribute parts) s = execLedgerAttribute parts s := rfl
theorem exec_islandSleep (island : Nat) (s : State) : exec (.islandSleep island) s = execIslandSleep island s := rfl
theorem exec_islandOff (island : Nat) (s : State) : exec (.islandOff island) s = execIslandOff island s := rfl
theorem exec_islandWake (island : Nat) (s : State) : exec (.islandWake island) s = execIslandWake island s := rfl
theorem exec_uncoreWake (island : Nat) (s : State) : exec (.uncoreWake island) s = execUncoreWake island s := rfl
theorem exec_islandForce (island value : Nat) (s : State) : exec (.islandForce island value) s = execIslandForce island value s := rfl
theorem exec_wake (island value : Nat) (s : State) : exec (.wake island value) s = execWake island value s := rfl
theorem exec_railDip (island mv : Nat) (s : State) : exec (.railDip island mv) s = execRailDip island mv s := rfl
theorem exec_railDipRelease (island mv : Nat) (s : State) : exec (.railDipRelease island mv) s = execRailDipRelease island mv s := rfl
theorem exec_railReset (island mv : Nat) (s : State) : exec (.railReset island mv) s = execRailReset island mv s := rfl
theorem exec_thermalWarn (sensor reading : Nat) (s : State) : exec (.thermalWarn sensor reading) s = execThermalWarn sensor reading s := rfl
theorem exec_thermalThrottle (sensor reading : Nat) (s : State) : exec (.thermalThrottle sensor reading) s = execThermalThrottle sensor reading s := rfl
theorem exec_throttleStep (island : Nat) (readings : List Nat) (s : State) : exec (.throttleStep island readings) s = execThrottleStep island readings s := rfl
theorem exec_thermalTrip (sensor reading : Nat) (s : State) : exec (.thermalTrip sensor reading) s = execThermalTrip sensor reading s := rfl
theorem exec_thermalTripRelease (sensor reading : Nat) (s : State) : exec (.thermalTripRelease sensor reading) s = execThermalTripRelease sensor reading s := rfl
theorem exec_correctedError (e : ErrAt) (row : Nat) (s : State) : exec (.correctedError e row) s = execCorrectedError e row s := rfl
theorem exec_correctedWriteBack (mem unit addr : Nat) (s : State) : exec (.correctedWriteBack mem unit addr) s = execCorrectedWriteBack mem unit addr s := rfl
theorem exec_uncorrectableError (e : ErrAt) (row : Nat) (s : State) : exec (.uncorrectableError e row) s = execUncorrectableError e row s := rfl
theorem exec_poisonRead (reader : PoisonReader) (addr : Nat) (s : State) : exec (.poisonRead reader addr) s = execPoisonRead reader addr s := rfl
theorem exec_scrubWalk (island : Nat) (hbm : Bool) (s : State) : exec (.scrubWalk island hbm) s = execScrubWalk island hbm s := rfl
theorem exec_scrubPassEnd (island : Nat) (hbm late : Bool) (s : State) : exec (.scrubPassEnd island hbm late) s = execScrubPassEnd island hbm late s := rfl
theorem exec_stackLost (stack cause : Nat) (s : State) : exec (.stackLost stack cause) s = execStackLost stack cause s := rfl
theorem exec_stackExclude (stack value : Nat) (s : State) : exec (.stackExclude stack value) s = execStackExclude stack value s := rfl
theorem exec_repairTest (island : Nat) (found : List Defect) (s : State) : exec (.repairTest island found) s = execRepairTest island found s := rfl
theorem exec_repairBurn (island : Nat) (s : State) : exec (.repairBurn island) s = execRepairBurn island s := rfl
theorem exec_monitorSample (x : Sample) (ctx : Option Nat) (s : State) : exec (.monitorSample x ctx) s = execMonitorSample x ctx s := rfl
theorem exec_monitorPeriodic (unit : Nat) (measured : Int) (s : State) : exec (.monitorPeriodic unit measured) s = execMonitorPeriodic unit measured s := rfl
theorem exec_snap (s : State) : exec (.snap) s = execSnap s := rfl
theorem exec_clear (s : State) : exec (.clear) s = execClear s := rfl
theorem exec_monCfgWrite (value : Nat) (s : State) : exec (.monCfgWrite value) s = execMonCfgWrite value s := rfl
theorem exec_moduleReset (source : Hold) (clearing : Bool) (s : State) : exec (.moduleReset source clearing) s = execModuleReset source clearing s := rfl
theorem exec_moduleResetRelease (s : State) : exec (.moduleResetRelease) s = execModuleResetRelease s := rfl
theorem exec_modResetGo (value : Nat) (s : State) : exec (.modResetGo value) s = execModResetGo value s := rfl
theorem exec_modResetHoldExpiry (s : State) : exec (.modResetHoldExpiry) s = execModResetHoldExpiry s := rfl
theorem exec_islandReset (island : Nat) (s : State) : exec (.islandReset island) s = execIslandReset island s := rfl
theorem exec_modIslReset (value : Nat) (s : State) : exec (.modIslReset value) s = execModIslReset value s := rfl
theorem exec_contextReset (ctx : Nat) (s : State) : exec (.contextReset ctx) s = execContextReset ctx s := rfl
theorem exec_ctxResetGo (ctx value : Nat) (s : State) : exec (.ctxResetGo ctx value) s = execCtxResetGo ctx value s := rfl
theorem exec_ctxEnable (ctx value : Nat) (s : State) : exec (.ctxEnable ctx value) s = execCtxEnable ctx value s := rfl
theorem exec_testLock (value : Nat) (s : State) : exec (.testLock value) s = execTestLock value s := rfl
theorem exec_ttInvalidate (ctx value : Nat) (s : State) : exec (.ttInvalidate ctx value) s = execTtInvalidate ctx value s := rfl
theorem exec_translationWalk (ctx dva agent island : Nat) (wr spec demand : Bool) (s : State) : exec (.translationWalk ctx dva agent island wr spec demand) s = execTranslationWalk ctx dva agent island wr spec demand s := rfl
theorem exec_vectorRaise (vector : Nat) (s : State) : exec (.vectorRaise vector) s = execVectorRaise vector s := rfl
theorem exec_vectorUnmask (vector value : Nat) (s : State) : exec (.vectorUnmask vector value) s = execVectorUnmask vector value s := rfl
theorem exec_eventRouteMessage (cls inst event : Nat) (s : State) : exec (.eventRouteMessage cls inst event) s = execEventRouteMessage cls inst event s := rfl
theorem exec_evtTest (ctx cls inst value : Nat) (s : State) : exec (.evtTest ctx cls inst value) s = execEvtTest ctx cls inst value s := rfl
theorem exec_qosArbitrate (point : Nat) (waiting : List (Nat × Nat)) (cost : Nat) (s : State) : exec (.qosArbitrate point waiting cost) s = execQosArbitrate point waiting cost s := rfl
theorem exec_qosAge (ctx stream seq : Nat) (s : State) : exec (.qosAge ctx stream seq) s = execQosAge ctx stream seq s := rfl
theorem exec_bootChain (s : State) : exec (.bootChain) s = execBootChain s := rfl
theorem exec_install (s : State) : exec (.install) s = execInstall s := rfl
theorem exec_advance (s : State) : exec (.advance) s = execAdvance s := rfl
theorem exec_eraseAlt (s : State) : exec (.eraseAlt) s = execEraseAlt s := rfl
theorem exec_revoke (s : State) : exec (.revoke) s = execRevoke s := rfl
theorem exec_attestationReport (value : Nat) (s : State) : exec (.attestationReport value) s = execAttestationReport value s := rfl
theorem exec_shadowCtlWrite (island value : Nat) (s : State) : exec (.shadowCtlWrite island value) s = execShadowCtlWrite island value s := rfl
theorem exec_hiHalfWrite (ctx off value : Nat) (s : State) : exec (.hiHalfWrite ctx off value) s = execHiHalfWrite ctx off value s := rfl
theorem exec_loHalfRead (ctx tag off : Nat) (s : State) : exec (.loHalfRead ctx tag off) s = execLoHalfRead ctx tag off s := rfl
theorem exec_clearOnRead (ctx tag off : Nat) (s : State) : exec (.clearOnRead ctx tag off) s = execClearOnRead ctx tag off s := rfl
theorem exec_genericRegisterWrite (ctx off value : Nat) (s : State) : exec (.genericRegisterWrite ctx off value) s = execGenericRegisterWrite ctx off value s := rfl
theorem exec_straitLightLost (strait : Nat) (s : State) : exec (.straitLightLost strait) s = execStraitLightLost strait s := rfl
theorem exec_fabIdWrite (system : Bool) (value : Nat) (s : State) : exec (.fabIdWrite system value) s = execFabIdWrite system value s := rfl
theorem exec_srvEvqConsumedWrite (ctx value : Nat) (s : State) : exec (.srvEvqConsumedWrite ctx value) s = execSrvEvqConsumedWrite ctx value s := rfl
theorem exec_storageLinkDown (port : Nat) (s : State) : exec (.storageLinkDown port) s = execStorageLinkDown port s := rfl
theorem exec_storageLinkUp (port : Nat) (s : State) : exec (.storageLinkUp port) s = execStorageLinkUp port s := rfl
theorem exec_rdmaReadRequest (port num off len : Nat) (s : State) : exec (.rdmaReadRequest port num off len) s = execRdmaReadRequest port num off len s := rfl
theorem exec_priorityFlowControlFrame (port prio : Nat) (pause : Bool) (s : State) : exec (.priorityFlowControlFrame port prio pause) s = execPriorityFlowControlFrame port prio pause s := rfl
theorem exec_thermalThrottleRelease (sensor reading : Nat) (s : State) : exec (.thermalThrottleRelease sensor reading) s = execThermalThrottleRelease sensor reading s := rfl
theorem exec_causewayHardwareFailure (s : State) : exec (.causewayHardwareFailure) s = execCausewayHardwareFailure s := rfl
theorem exec_storagePortHardwareFailure (s : State) : exec (.storagePortHardwareFailure) s = execStoragePortHardwareFailure s := rfl

end Sys2Proof.Machine
end

