-- ==== Sys2Proof/Laws/Keep.lean ====
section
/-! SUPPORT. What no command undoes: the canonical form of HBM and of the register table, security versions and revocations burned into the fuses, and the queue of commands. -/
namespace Sys2Proof.Machine

/-- What the parts of a state keep of an earlier one: canonical tables stay canonical, fuses stay burned, the queue stands. -/
def KeepF (z : State) (regs : Tbl W32) (hbm : Memory) (fuse : Fuses) (pending : List Instr) : Prop :=
  (Tbl.wf resetWord z.regs = true → Tbl.wf resetWord regs = true) ∧ (z.hbm.wf = true → hbm.wf = true) ∧ z.fuse.svn ≤ fuse.svn ∧
    (∀ k, z.fuse.revoked.testBit k = true → fuse.revoked.testBit k = true) ∧ pending = z.pending

/-- A state keeps what another held. -/
def Keep (z t : State) : Prop := KeepF z t.regs t.hbm t.fuse t.pending

theorem Keep.refl (s : State) : Keep s s := ⟨id, id, le_refl _, fun _ h => h, rfl⟩

theorem Keep.trans {s t u : State} (h : Keep s t) (g : Keep t u) : Keep s u :=
  ⟨g.1 ∘ h.1, g.2.1 ∘ h.2.1, le_trans h.2.2.1 g.2.2.1, fun k x => g.2.2.2.1 k (h.2.2.2.1 k x), g.2.2.2.2.trans h.2.2.2.2⟩

theorem Keep.of_eq {z s t : State} (h : Keep z s) (h1 : t.regs = s.regs) (h2 : t.hbm = s.hbm) (h3 : t.fuse = s.fuse) (h4 : t.pending = s.pending) : Keep z t := by
  unfold Keep; rw [h1, h2, h3, h4]; exact h

theorem keep_ite {z a b : State} {c : Prop} [Decidable c] (ha : Keep z a) (hb : Keep z b) : Keep z (if c then a else b) := by split <;> assumption

theorem keep_bite {z a b : State} {c : Bool} (ha : Keep z a) (hb : Keep z b) : Keep z (bif c then a else b) := by cases c <;> assumption

theorem keep_foldl {α : Type} {z : State} {f : State → α → State} {l : List α} {s : State} (hf : ∀ t a, Keep z t → Keep z (f t a)) (h : Keep z s) : Keep z (l.foldl f s) := by
  induction l generalizing s with
  | nil => exact h
  | cons a l ih => exact ih (hf _ _ h)

/-- A fold that carries something beside the state. -/
theorem keep_foldl_fst {α β : Type} {z : State} {f : State × β → α → State × β} {l : List α} {s : State × β} (hf : ∀ t a, Keep z t.1 → Keep z (f t a).1) (h : Keep z s.1) :
    Keep z (l.foldl f s).1 := by
  induction l generalizing s with
  | nil => exact h
  | cons a l ih => exact ih (hf _ _ h)

/-- An outcome's next state keeps what a state held. -/
def OutKeep (z : State) (o : Out) : Prop := ∀ t, o = .next t → Keep z t

theorem outKeep_next {z t : State} (h : Keep z t) : OutKeep z (.next t) := by intro u hu; cases hu; exact h

theorem outKeep_fault {z : State} {r : Fault} : OutKeep z (.fault r) := by intro u hu; cases hu

theorem outKeep_ite {z : State} {a b : Out} {c : Prop} [Decidable c] (ha : OutKeep z a) (hb : OutKeep z b) : OutKeep z (if c then a else b) := by split <;> assumption

theorem outKeep_when {z s t : State} {b : Bool} (ht : Keep z t) (hs : Keep z s) : OutKeep z (when b t s) := by
  unfold when; split
  · exact outKeep_next ht
  · exact outKeep_next hs

/-! ### The operations that write registers and HBM -/

theorem State.setReg_keep {z s : State} (k : Nat) (w : W32) (h : Keep z s) : Keep z (s.setReg k w) :=
  ⟨fun x => Tbl.wf_set _ _ _ (h.1 x), h.2⟩

theorem State.hbmWrite_keep {z s : State} (w : Option Nat) (k : Nat) (d : List (BitVec 8)) (h : Keep z s) : Keep z (s.hbmWrite w k d) := by
  have hr : ∀ t, Keep z t → ∀ i l, Keep z (t.invalidateIn w l i) := by
    intro t ht i l; unfold State.invalidateIn; simp only []
    split
    · exact ht
    · unfold State.bump State.setFld; exact State.setReg_keep _ _ ht
  have h2 : ∀ t, Keep z t → ∀ l, Keep z (t.invalidateLine w l) := fun t ht l => keep_foldl (fun _ _ hh => hr _ hh _ _) ht
  unfold State.hbmWrite
  split
  · exact h
  · have := keep_foldl (l := linesOf k d.length) (f := fun t l => t.invalidateLine w l) (fun t l ht => h2 t ht l) h
    exact ⟨this.1, fun x => Memory.wf_writeN _ _ (this.2.1 x), this.2.2⟩

theorem Tbl.wf_keep {α : Type} [DecidableEq α] (d : Nat → α) (p : Nat → Bool) (t : Tbl α) (h : Tbl.wf d t = true) : Tbl.wf d (Tbl.keep p t) = true := Tbl.wf_filter d _ h

theorem Tbl.wfFrom_map {α : Type} [DecidableEq α] (d : Nat → α) (f : Nat → α → α) (t : Tbl α) (b : Option Nat) (h : Tbl.wfFrom d b t = true) :
    Tbl.wfFrom d b ((t.map (fun e => (e.1, f e.1 e.2))).filter (fun e => decide (e.2 ≠ d e.1))) = true := by
  induction t generalizing b with
  | nil => rfl
  | cons e t ih =>
    obtain ⟨j, v⟩ := e
    rw [Tbl.wfFrom_cons] at h
    simp only [List.map_cons, List.filter_cons]
    split
    · rename_i hv
      rw [Tbl.wfFrom_cons]; exact ⟨h.1, by simpa using hv, ih _ h.2.2⟩
    · exact Tbl.wfFrom_mono d (ih _ h.2.2) (fun x hx => ⟨_, rfl, le_of_lt (h.1 x hx)⟩)

theorem Tbl.wf_mapVals {α : Type} [DecidableEq α] (d : Nat → α) (f : Nat → α → α) (t : Tbl α) (h : Tbl.wf d t = true) : Tbl.wf d (Tbl.mapVals d f t) = true :=
  Tbl.wfFrom_map d f t none h

/-- An update of a state, by the parts that are kept. -/
theorem keep_mk_iff {z : State} {run_ : RunSt} {die_ : Nat} {regs_ : Tbl W32} {stage_ : Tbl (Option W32)} {latch_ : Tbl (Option W32)} {hbm_ : Memory} {poison_ : List Nat} {fuse_ : Fuses} {cays_ : Tbl Cay} {ics_ : Tbl ICache} {tasks_ : Tbl Task} {taskNum_ : Nat} {shadowCnt_ : Tbl Nat} {notifs_ : Tbl Nat} {entries_ : List Entry} {groups_ : List Group} {groupNum_ : Nat} {txnNum_ : Nat} {wgts_ : Tbl WgtCtx} {roles_ : Tbl Nat} {srvs_ : Tbl SrvCtx} {pw_ : Pwr} {vts_ : Tbl Nat} {vwait_ : Tbl (List Nat)} {loads_ : List LoadJob} {turn_ : Option Turn} {turnPast_ : List (Nat × Bool)} {strs_ : Tbl Strait} {routes_ : Tbl Nat} {engs_ : Tbl Engine} {colls_ : List Coll} {collNum_ : Nat} {tgs_ : List TGroup} {runs_ : List Run} {runNum_ : Nat} {stos_ : Tbl StoPort} {stoNum_ : Nat} {ckpts_ : List Ckpt} {cw_ : Causeway} {ports_ : Ports} {mod_ : Module} {mems_ : Tbl MemSt} {mons_ : Tbl MonUnit} {fw_ : Firmware} {hostReads_ : List HostRead} {hostTag_ : Nat} {outbox_ : List Emit} {ptime_ : Nat} {free_ : Nat} {pending_ : List Instr} :
    Keep z (State.mk run_ die_ regs_ stage_ latch_ hbm_ poison_ fuse_ cays_ ics_ tasks_ taskNum_ shadowCnt_ notifs_ entries_ groups_ groupNum_ txnNum_ wgts_ roles_ srvs_ pw_ vts_ vwait_ loads_ turn_ turnPast_ strs_ routes_ engs_ colls_ collNum_ tgs_ runs_ runNum_ stos_ stoNum_ ckpts_ cw_ ports_ mod_ mems_ mons_ fw_ hostReads_ hostTag_ outbox_ ptime_ free_ pending_) ↔ KeepF z regs_ hbm_ fuse_ pending_ := Iff.rfl

theorem keepF_iff {z t : State} : KeepF z t.regs t.hbm t.fuse t.pending ↔ Keep z t := Iff.rfl

end Sys2Proof.Machine
end

