-- ==== Sys2Proof/Tests/Slice0.lean ====
section
/-! SUPPORT. The model's own tests: states and operands that meet the hypotheses of each statement, and small tests of commands against the spec's words. -/
namespace Sys2Proof.Tests
open Sys2Proof Sys2Proof.Machine

set_option Elab.async false

/-! ### States of the tests -/

/-- The module after reset. -/
def s0 : Machine.State := State.reset

/-- Bytes of HBM as 64-bit words at ascending addresses. -/
def words (ws : List (Nat × Nat)) : Memory :=
  ws.flatMap (fun w => (leBytes 8 w.2).zipIdx.filterMap (fun b => if b.1 = 0 then none else some (w.1 + b.2, b.1)))

/-- The words of a translation for context 0: the first 2 MiB lie in HBM of stack 0 at 2 MiB, the second 2 MiB in the host tier, and the page above it on the register aperture. -/
def tableWords : List (Nat × Nat) :=
  [(0, 2 ^ 63 + 2 ^ 60 + 2 ^ 59 + 0x1000), (0x1000, 2 ^ 63 + 2 ^ 60 + 2 ^ 59 + 0x2000), (0x2000, 2 ^ 63 + 2 ^ 61 + 2 ^ 60 + 2 ^ 59 + 0x200000), (0x2008, 2 ^ 63 + 2 * 2 ^ 61 + 2 ^ 60 + 2 ^ 59 + 0x400000),
    (0x2010, 2 ^ 63 + 2 ^ 60 + 0x3000), (0x3000, 2 ^ 63 + 3 * 2 ^ 61 + 2 ^ 60)]

/-- A module with that translation. -/
def sT : Machine.State := { s0 with hbm := words tableWords }

def c0 : CayRef := ⟨0, 0⟩

/-- An ordinary task on cay 0 of island 0. -/
def task1 : Task := { Task.reset with st := .running, live := [0], bound := [0], islands := 1, fences := 0xFFFF, stream := 1, seq := 1, kernel := 0 }

/-- Its running thread. -/
def thr1 : Thread :=
  { Thread.reset with
    bound := true, task := 1, st := .running, pc := 8
    regs := [(1, 0x40), (2, 0x800), (3, 1), (5, 0x1000), (6, 0x1100), (7, 0x1200), (9, 1)] }

def cay1 : Cay := { Cay.reset with threads := [(0, thr1)], lastRun := 0, tasks := [⟨1, 1, 4096, []⟩] }

/-- A module with that thread running. -/
def sC : Machine.State := { sT with cays := [(0, cay1)], tasks := [(1, task1)] }

/-- One with a state of its task. -/
def sCt (f : Task → Task) : Machine.State := { sC with tasks := [(1, f task1)] }


/-- One with a state of its cay. -/
def sCy (f : Cay → Cay) : Machine.State := { sC with cays := [(0, f cay1)] }

/-- Fields of registers given values: field, instance, value. -/
def flds (s : Machine.State) (l : List (Fld × Nat × Nat)) : Machine.State := l.foldl (fun u x => u.setFld x.1 x.2.2 x.2.1) s

/-- A local store with some 32-bit words. -/
def lsWords (ws : List (Nat × Nat)) : Memory := ws.foldl (fun m w => Memory.writeN m w.1 (leBytes 4 w.2)) []

/-- One copy of the running task. -/
def sJob (d : CopyDesc) : Machine.State := sCy (fun c => { c with copies := [⟨9, 0, 1, d⟩] })

def job (d : CopyDesc) : CopyJob := ⟨9, 0, 1, d⟩

/-- 64 bytes of HBM to the top of the local store. -/
def dIn : CopyDesc := ⟨0, 1, 0, 3, false, false, 64, 0, 0, 0x40, 1, 0x3FFFC0⟩

/-- 64 bytes of the local store to HBM. -/
def dOut : CopyDesc := ⟨0, 0, 1, 3, false, false, 64, 0, 0, 0x1000, 1, 0x80⟩

/-- 64 bytes of the aperture. -/
def dBad : CopyDesc := ⟨0, 1, 0, 3, false, false, 64, 0, 0, 0x400000, 1, 0⟩

/-- The descriptor dIn in the local store at 0x1000. -/
def lsIn : Memory := lsWords [(0x1000, 1 * 2 ^ 26 + 3 * 2 ^ 20), (0x1004, 64), (0x1010, 0x40), (0x1018, 0x3FFFC0)]

/-- An array given to the task, configured for BF16 by BF16. -/
def arr1 : Arr := { Arr.reset with task := some 1, cfg := some ⟨0, 0, 5, 5, 32⟩ }

/-- The task with an accumulator region, and a local store. -/
def sArr (ls : Memory) (f : Arr → Arr) : Machine.State :=
  { sT with cays := [(0, { cay1 with ls := ls, arrs := [(0, f arr1)] })], tasks := [(1, { task1 with accs := [(0x10000, 0x1000)] })] }

/-- A speculative task that has ended. -/
def specEnd (st : Nat) : Machine.State := { s0 with tasks := [(5, { task1 with spec := true, st := .ended, status := st, origin := .serving 0, live := [] })] }

/-- The 128 bytes of a record: sequence number, KIND, the other bits of the word at 8, and values by offset and length. -/
def raw (n kind fl : Nat) (ws : List (Nat × Nat × Nat)) : List (BitVec 8) :=
  Memory.readN (((0, 8, n) :: (8, 4, kind * 2 ^ 24 + fl) :: ws).foldl (fun m x => Memory.writeN m x.1 (leBytes x.2.1 x.2.2)) []) 0 128

/-- Its journal entry, of context 0 and stream 2. -/
def ent (n kind fl : Nat) (ws : List (Nat × Nat × Nat)) : Entry := { mkEntry 0 2 (raw n kind fl ws) 0 0 [] with durable := true }

/-- A module with the journal in use and those entries. -/
def sE (es : List Entry) : Machine.State := { flds sT [(.jnlCtlEn, 0, 1), (.jnlCtlStackB, 0, 1), (.islStatReady, 0, 1), (.ctxCtlEn, 63, 1), (.lwCtlEn, 1023, 1)] with entries := es }

/-- One whose stack 1 is lost, copy B with it. -/
def sLost (n : Nat) : Machine.State := flds (sE []) [(.memStatStack, 1, 1), (.jnlStatSingle, 0, n)]

/-- HBM with a kernel container at 0x201000. -/
def kernelWords : List (Nat × Nat) := [(0x201000, 0x1_4B594143), (0x201008, 0x01_01_00_04), (0x201010, 0x10_0000_0040)]

def kernelHbm : Memory := words (tableWords ++ kernelWords)

/-- A task record for that kernel on island 0. -/
def taskEnt : Entry := { ent 1 1 0 [(0x30, 8, 0x1000), (0x48, 3, 1)] with st := .started, admitted := true }

def sTask : Machine.State := { sE [taskEnt] with hbm := kernelHbm }

/-- The state and number of a placed task. -/
def placed (r : PlaceRes) : Machine.State × Nat := match r with | .ok u k => (u, k) | _ => (s0, 0)

def isPlaced (r : PlaceRes) : Bool := match r with | .ok _ _ => true | _ => false

theorem placed_eq (r : PlaceRes) (h : isPlaced r = true) : r = .ok (placed r).1 (placed r).2 := by
  cases r <;> simp_all [isPlaced, placed]

/-- A read of bytes that lie on one page of HBM. -/
theorem dvaRead_page (s : Machine.State) (ctx dva n k : Nat) (o : ReadOwner) (h0 : n ≠ 0) (hc : s.accessCause ctx (s.walk ctx dva) false false false true = 0)
    (hl : n ≤ (s.walk ctx dva).left) (hd : (s.walk ctx dva).dest = .hbm k) (hn : s.poisoned k n = false) : s.dvaRead ctx dva n o false = .ok (s.hbmBytes k n) := by
  have hm : min n (max (s.walk ctx dva).left 1) = n := by omega
  simp [Machine.State.dvaRead, Machine.State.pieces, Machine.State.hbmPieces, h0, hc, hm, Machine.State.gatherPieces, hd, hn]

/-- The factory's images pass: their fields are constants within bounds. -/
theorem factory_passes (t : Nat) : s0.imageCode t (.factory t) = 0 := by
  have h : ¬ (4 ≤ (Config.factorySlot t).toNat) := by have := (Config.factorySlot t).isLt; omega
  simp [Machine.State.imageCode, FlashImage.measure, Measured.ofFactory, h, bit, s0, Machine.State.reset, Fuses.reset]

def sFw : Machine.State := flds sT [(.fwLenBytes, 0, 4096)]

/-- HBM with the kernel container, a task descriptor at 0x202000 and a step program at 0x203000. -/
def srvWords : List (Nat × Nat) :=
  [(0x202000, 0x1000), (0x202018, 1), (0x203000, 0x0102_0001_53505247), (0x203008, 4 * 2 ^ 32 + 16), (0x203020, 0x2000), (0x203028, 1), (0x203030, 0x80000), (0x203038, 0x90000)]

def srvHbm : Memory := words (tableWords ++ kernelWords ++ srvWords)

def prog1 : Prog := ⟨2, 1, 16, 4, 0, 0, 0, 0, 0x2000, 1, 0, 0x80000, 0x90000⟩

/-- A module whose context 0 serves, with entries of the journal and a state of serving. -/
def sSrv (es : List Entry) (x : SrvCtx) : Machine.State :=
  { flds (sE es) [(.srvCtlEn, 0, 1), (.srvProgLoAddr, 0, 0xC0), (.srvQuotaSlots, 0, 4), (.srvKvPagesPages, 0, 16)] with hbm := srvHbm, roles := [(0, 1)], srvs := [(0, x)] }

/-- A serving command, started. -/
def cmd (op w : Nat) (ws : List (Nat × Nat × Nat)) : Entry := { ent 1 6 0 ((0x30, 4, op * 2 ^ 24 + w) :: ws) with st := .started, admitted := true }

/-- A request of context 0 as it stands after its prefill. -/
def req1 (st : SlotSt) : Req :=
  { newReq (cmd 1 0x3FF [(0x34, 4, 1), (0x38, 6, 0x40000), (0x40, 6, 0x50000), (0x48, 4, 4)]) 0 0 with st := st, admitted := true, prompt := [1], ran := 1, delivered := 1, last := 2 }

def srvReq (r : Req) : SrvCtx := { SrvCtx.reset with slots := [(0, some r)] }

def step1 : StepRun := ⟨1, [], [], [], 0, none, 0, none, 0, 1⟩

def shard1 : Shard := ⟨0, 0x40000, 0x10000, 0, false, 0, 0, 0, none, false, true, [], none⟩

def sStep : Machine.State := sSrv [] { SrvCtx.reset with step := some step1 }

def sStep1 : Machine.State := sStep.modStep 0 (fun x => { x with task := none, status := 0 })

def srvDesc : List (BitVec 8) := Memory.readN srvHbm 0x202000 80

def srvTask : Task := { mkTask srvDesc 0 0 0 (.serving 0) false false with step := 1, islands := (mkTask srvDesc 0 0 0 (.serving 0) false false).islands &&& sStep1.genIslands }

def srvPlaced : Machine.State × Nat := placed ((sStep1.dropReads (stepOwner 0)).placeTask srvTask)

/-- The value of a result that is there. -/
def okD {ε α : Type} (d : α) (r : Except ε α) : α := match r with | .ok x => x | .error _ => d

def isOk {ε α : Type} (r : Except ε α) : Bool := match r with | .ok _ => true | .error _ => false

theorem okD_eq {ε α : Type} (d : α) (r : Except ε α) (h : isOk r = true) : r = .ok (okD d r) := by
  cases r <;> simp_all [isOk, okD]

theorem getD_eq {α : Type} (d : α) (r : Option α) (h : r.isSome = true) : r = some (r.getD d) := by
  cases r <;> simp_all

/-- HBM with, beside the kernel and the step program, a training group's descriptor at 0x205000, a stage program at 0x206000, a group descriptor at 0x207000, an update map at
0x208000 and a schedule at 0x209000. -/
def lrnWords : List (Nat × Nat) :=
  [(0x205000, 2 ^ 32 + 0x54475250), (0x205020, 1), (0x206000, 0x0100_0001_4C524E50), (0x206008, 0x10001), (0x206010, 0x6040), (0x206020, 0x6100), (0x206040, 0x1000),
    (0x206058, 1), (0x206090, 0xFFFF_0000_0000), (0x207000, 0x1_47434F4C), (0x207008, 0x1_0000_0001), (0x207020, 0x40000), (0x207028, 1), (0x207034, 16), (0x208000, 1),
    (0x208010, 1), (0x208018, 0x10000), (0x208020, 0x12000), (0x209000, 5 * 2 ^ 26), (0x209008, 0x010101)]

def lrnHbm : Memory := words (tableWords ++ kernelWords ++ srvWords ++ lrnWords)

/-- A module that is member 1 of its fabric, with entries and a state of training group 5 of context 0. -/
def sLrn (es : List Entry) (gs : List TGroup) : Machine.State := { flds (sE es) [(.fabIdId, 0, 1)] with hbm := lrnHbm, roles := [(0, 2)], tgs := gs }

def tg1 : TGroup := ⟨0, 5, 0, [⟨1, 0, 0⟩], 0x9000, 0, 0, 0, 0, none, none, [], []⟩

def seal1 (f : Ballot → Ballot) : Seal := ⟨2, 1, 1, 0, 0, false, f (Ballot.start 0)⟩

def tgSeal (f : Ballot → Ballot) : TGroup := { tg1 with sealRun := some (seal1 f) }

/-- A learning record, started. -/
def lrn (op tg st : Nat) (ws : List (Nat × Nat × Nat)) : Entry :=
  { ent 1 7 0 ((0x30, 2, tg) :: (0x33, 1, op) :: (0x34, 4, st) :: ws) with st := .started, admitted := true }

/-- A stage run of step 1 with one forward entry. -/
def sent1 : SEnt := ⟨srvDesc, 0, 0, false, false, false, false, 0, 0, 0, 0⟩

def hand1 : List (BitVec 8) := leBytes 4 (2 ^ 24 + 9 * 2 ^ 18) ++ leBytes 4 (12 * 2 ^ 24) ++ leBytes 8 9 ++ leBytes 8 0x7000 ++ leBytes 8 0x10000 ++ leBytes 8 0x20000 ++ leBytes 40 16

def run1 : Run :=
  { num := 1, ctx := 0, stream := 2, seq := 1, islands := 1, step := 1, tgroup := 5, m := 1, prog := ⟨0, 1, [⟨0x10000, 0x11000, hand1, false⟩], [sent1], [], [], []⟩, force := 0,
    limits := (0, 0), unit := 0, started := true, idx := 0, task := none, unitId := 2 ^ 32, wide := false, admitted := true, checked := false, halves := [], fell := [], handed := [],
    hold := [], opened := [], recvd := [], fail := none, class_ := 0 }

def sRun (r : Run) (ts : List (Nat × Task)) : Machine.State := { sLrn [lrn 1 0 1 [(0x40, 2, 5)]] [tg1] with runs := [r], runNum := 2, tasks := ts, taskNum := 9 }

/-- The program of a stage program read. -/
def progOf (r : ProgRead) : SProg := match r with | .ok p => p | _ => run1.prog

def isProg (r : ProgRead) : Bool := match r with | .ok _ => true | _ => false

theorem progOf_eq (r : ProgRead) (h : isProg r = true) : r = .ok (progOf r) := by
  cases r <;> simp_all [isProg, progOf]

def openedOf (r : OpenRes) : Machine.State := match r with | .ok t => t | _ => s0

def isOpen (r : OpenRes) : Bool := match r with | .ok _ => true | _ => false

theorem openedOf_eq (r : OpenRes) (h : isOpen r = true) : r = .ok (openedOf r) := by
  cases r <;> simp_all [isOpen, openedOf]

/-- A quantised entry's speculative task that has ended. -/
def quant1 : Task := { task1 with spec := true, st := .ended, live := [], origin := .stage 0 0 }

/-- A sharded step of the update, its gradient combined. -/
def coll6 (data : List (BitVec 8)) : Coll :=
  { num := 1, ctx := 0, owner := .record 2 1, op := 6, tree := false, fmt := 9, notify := none, dstLs := false, posted := false, dstCay := 0, logChunk := 12, tgroup := 5, tag := 9,
    desc := ⟨1, [⟨1, 0, 0, 0, 0, 1, 0, 1024⟩]⟩, rank := 0, src := 0x10000, dst := 0x20000, count := 1024, map := 0x8000, step := 1, half := 1, mask := 1, open_ := 1, tx := [], rx := [],
    vals := [⟨0, 0, 0, data⟩], landed := [], tiles := [], work := [] }

theorem read_none (m : Memory) (a : Nat) (h : ∀ c ∈ m, c.1 ≠ a) : Memory.read m a = 0 := by
  induction m with
  | nil => rfl
  | cons c m ih =>
    have hc := h c (by simp)
    have hm := ih (fun x hx => h x (by simp [hx]))
    simpa [Memory.read, Tbl.get, hc] using hm

/-- Bytes of which none is listed are zeros. -/
theorem readN_zero (m : Memory) (a n : Nat) (h : m.all (fun c => decide (c.1 < a) || decide (a + n ≤ c.1)) = true) : Memory.readN m a n = List.replicate n 0#8 := by
  rw [List.eq_replicate_iff]
  refine ⟨by simp [Memory.readN], ?_⟩
  intro b hb
  simp only [Memory.readN, List.mem_map, List.mem_range] at hb
  obtain ⟨i, hi, rfl⟩ := hb
  refine read_none m (a + i) (fun c hc => ?_)
  have := List.all_eq_true.mp h c hc
  simp at this
  omega

theorem leAt_zero (n o k : Nat) : leAt (List.replicate n 0#8) o k = 0 := by
  have h : ∀ j, leNat (List.replicate j 0#8) = 0 := by
    intro j
    induction j with
    | zero => rfl
    | succ j ih => simp [List.replicate_succ, leNat, ih]
  simp [leAt, h]

theorem p16Tile_zero (n : Nat) : p16Tile (List.replicate n 0#8) = List.replicate 1024 (p16Val 0 0) := by
  simp only [p16Tile, leAt_zero, List.map_const', List.length_range]

/-- A member's own memory on one page of HBM of which nothing is listed. -/
theorem collRead_zero (s : Machine.State) (k : Coll) (dva n key : Nat) (h0 : n ≠ 0) (hc : s.accessCause k.ctx (s.walk k.ctx dva) false false true true = 0)
    (hl : n ≤ (s.walk k.ctx dva).left) (hd : (s.walk k.ctx dva).dest = .hbm key) (hn : s.poisoned key n = false)
    (hz : s.hbm.all (fun c => decide (c.1 < key) || decide (key + n ≤ c.1)) = true) : s.collRead k dva n = .ok (List.replicate n 0#8) 0 := by
  have hm : min n (max (s.walk k.ctx dva).left 1) = n := by omega
  simp [Machine.State.collRead, Machine.State.dvaRead, Machine.State.pieces, Machine.State.hbmPieces, h0, hc, hm, Machine.State.gatherPieces, hd, hn, Machine.State.hbmBytes,
    readN_zero s.hbm key n hz]

/-- A tile whose state is all zeros. -/
def zeroTile (grad : List (BitVec 8)) : TileIn := ⟨valsOf 9 1024 grad, List.replicate 1024 (p16Val 0 0), List.replicate 1024 (p16Val 0 0), [], [], [], []⟩

theorem tileIn_zero (s : Machine.State) (k : Coll) (g : TGroup) (r : URun) (i : Nat) (p : PGroup) (grad : List (BitVec 8)) (hp : p.mode = 0)
    (h1 : s.collRead k (r.master + g.live * r.half + 2112 * i) 2112 = .ok (List.replicate 2112 0#8) 0)
    (h2 : s.collRead k (r.moment + g.live * r.half + 2112 * i) 2112 = .ok (List.replicate 2112 0#8) 0) : s.tileIn k g r i p grad = .ok (zeroTile grad) := by
  simp only [Machine.State.tileIn, Machine.State.need, h1, h2, hp, p16Tile_zero, zeroTile, if_true]

def updGrp : PGroup := ⟨0, 5, 1, 0, 0, 5, 0, 0, 0, 0⟩

def updRun : URun := ⟨1, 0, 0x10000, 0x12000, 0, 0, 0, 0⟩

/-- A module with an update map at 0x8000, whose pipe holds the parameter group. -/
def sUpd (data : List (BitVec 8)) : Machine.State :=
  { flds s0 [(.fabIdId, 0, 1)] with
    hbm := words (tableWords ++ [(0x208000, 1), (0x208010, 1), (0x208018, 0x10000), (0x208020, 0x12000)])
    tgs := [tg1], colls := [coll6 data], collNum := 2, engs := [(0, { Engine.reset with pgroups := [updGrp] })] }

/-- The state with the group held by the pipe. -/
def sHeld (data : List (BitVec 8)) : Machine.State := (okD (s0, updGrp) ((sUpd data).pgroup (coll6 data) tg1 0 0)).1

def updOut : TileOut := (updateTile updGrp (zeroTile [])).getD ⟨[], [], [], [], 0⟩

def tileDone (s1 : Machine.State) (k : Coll) (g : TGroup) (r : URun) (i : Nat) (p : PGroup) (o : TileOut) : Machine.State :=
  okD s0 (s1.tileOut k ([(r.master + (1 - g.live) * r.half + 2112 * i, o.w), (r.moment + (1 - g.live) * r.half + 2112 * i, o.m), (k.dst + r.work + o.k.length * i, o.k)] ++
    if p.mode = 1 then [(r.stats + (1 - g.live) * r.half + 8192 * i, o.stats)] else []))

theorem tileDone_eq (s1 : Machine.State) (k : Coll) (g : TGroup) (r : URun) (i : Nat) (p : PGroup) (o : TileOut)
    (h : isOk (s1.tileOut k ([(r.master + (1 - g.live) * r.half + 2112 * i, o.w), (r.moment + (1 - g.live) * r.half + 2112 * i, o.m), (k.dst + r.work + o.k.length * i, o.k)] ++
      if p.mode = 1 then [(r.stats + (1 - g.live) * r.half + 8192 * i, o.stats)] else [])) = true) :
    s1.tileOut k ([(r.master + (1 - g.live) * r.half + 2112 * i, o.w), (r.moment + (1 - g.live) * r.half + 2112 * i, o.m), (k.dst + r.work + o.k.length * i, o.k)] ++
      if p.mode = 1 then [(r.stats + (1 - g.live) * r.half + 8192 * i, o.stats)] else []) = .ok (tileDone s1 k g r i p o) := okD_eq s0 _ h

def askMsg : Msg := ⟨5, 0, 0, 0, 2, 1, 9, 1, 0, 0, 0, 0, 0, 0, false, false, []⟩

def sAsk : Machine.State := { sLrn [] [tgSeal id] with engs := [(0, { Engine.reset with inbox := [⟨askMsg, none⟩] })] }

/-! ### Collectives -/

/-- A module that is member 1, whose strait 0 leads to member 2, with a state of engine 0 and open collectives. -/
def sCol (e : Engine) (ks : List Coll) : Machine.State :=
  { flds (sE []) [(.fabIdId, 0, 1), (.strStatState, 0, 6), (.strPeerValid, 0, 1), (.strPeerFabricId, 0, 2)] with hbm := lrnHbm, routes := [(2, 2 ^ 30 + 1), (3, 2 ^ 30 + 1)], engs := [(0, e)], colls := ks, collNum := 2 }

/-- A collective of members 1 and 2, owned by a record of context 0. -/
def col (op : Nat) (f : Coll → Coll) : Coll :=
  f { num := 1, ctx := 0, owner := .record 2 1, op := op, tree := false, fmt := 9, notify := none, dstLs := true, posted := false, dstCay := 0, logChunk := 12, tgroup := 0xFFFF, tag := 1,
      desc := ⟨2, [⟨1, 0, 0, 0, 0, 1, 0, 16⟩, ⟨2, 0, 1, 0, 0, 1, 0, 0⟩]⟩, rank := 0, src := 0x10000, dst := 0x80, count := 16, map := 0, step := 0, half := 0, mask := 1, open_ := 1,
      tx := [], rx := [], vals := [], landed := [], tiles := [], work := [] }

def txTo2 : Tx := ⟨0, 2, 0, 0, 0, 0, 1, true, false, false, 0, []⟩

def rxOf2 : Rx := ⟨0, 2, 0, 0, 0, 0, 1, true, false⟩

/-- A message from member 2 for the same node. -/
def msgOf2 (kind : Nat) (data : List (BitVec 8)) : Msg := Msg.sealed ⟨1, 0, 0, 0, 2, 1, kind, 0, 0, 1, 0, 0, 0, 0, false, false, data⟩

def inbox (m : Msg) : Engine := { Engine.reset with inbox := [⟨m, none⟩] }

def data64 : List (BitVec 8) := (List.range 64).map (fun i => BitVec.ofNat 8 i)

def taken (s : Machine.State) (p : Msg → Bool) : InMsg × Machine.State := (s.takeMsg 0 p).getD (⟨askMsg, none⟩, s0)

def takenK (s : Machine.State) (kind : Nat) : Msg × Machine.State := (s.takeKind 0 kind).getD (askMsg, s0)

theorem taken_eq (s : Machine.State) (p : Msg → Bool) (h : (s.takeMsg 0 p).isSome = true) : s.takeMsg 0 p = some ((taken s p).1, (taken s p).2) := getD_eq ((⟨askMsg, none⟩ : InMsg), s0) _ h

theorem takenK_eq (s : Machine.State) (kind : Nat) (h : (s.takeKind 0 kind).isSome = true) : s.takeKind 0 kind = some ((takenK s kind).1, (takenK s kind).2) := getD_eq (askMsg, s0) _ h

/-- What a refused opening left. -/
def refusedOf (r : OpenRes) : Machine.State := match r with | .refuse t _ _ => t | _ => s0

def isRefused (r : OpenRes) (st d : Nat) : Bool := match r with | .refuse _ a b => a == st && b == d | _ => false

theorem refusedOf_eq (r : OpenRes) (st d : Nat) (h : isRefused r st d = true) : r = .refuse (refusedOf r) st d := by
  cases r <;> simp_all [isRefused, refusedOf]

/-- A collective record of context 0. -/
def colEnt (op tg group : Nat) : Entry :=
  { ent 1 3 0 [(0x30, 4, op * 2 ^ 24 + 9 * 2 ^ 18), (0x34, 4, 12 * 2 ^ 24), (0x38, 6, 9), (0x3E, 2, tg), (0x40, 6, group), (0x48, 6, 0x10000), (0x50, 6, 0x20000), (0x58, 4, 16)] with st := .started, admitted := true }

def colRec (op tg group : Nat) : Machine.State := { sCol Engine.reset [] with entries := [colEnt op tg group] }

def colKept (op tg group : Nat) : Coll := collOf ((colEnt op tg group).raw.drop 0x30) 0 2 (.record 2 1)

def colTried (op tg group : Nat) : OpenRes := ((colRec op tg group).begin (colEnt op tg group)).openColl (colKept op tg group) ((colEnt op tg group).u 64 6) (bit ((colEnt op tg group).u 48 4) 12)

/-- The running task posts from its local store. -/
def sPost (b : BitVec 64) (ks : List Coll) : Machine.State :=
  { sC with regs := (flds s0 [(.fabIdId, 0, 1)]).regs, cays := [(0, { cay1 with ls := lsWords [(0x40, 0x3F800000)], threads := [(0, { thr1 with regs := thr1.regs ++ [(10, b)] })] })], colls := ks, collNum := 2 }

def colFar : Coll := col 1 (fun k => { k with posted := true, desc := ⟨2, [⟨1, 0, 0, 0, 0, 1, 0, 0⟩, ⟨2, 0, 1, 0, 0, 1, 0, 16⟩]⟩ })

def colIn : Coll := col 3 (fun k => { k with rx := [rxOf2], desc := ⟨2, [⟨1, 0, 0, 0, 0, 1, 0, 0⟩, ⟨2, 0, 1, 0, 0, 1, 0, 16⟩]⟩ })

def sChunk : Machine.State := sCol (inbox (msgOf2 0 data64)) [colIn]

def isData (m : Msg) : Bool := m.msg == 0 && m.dfab == sChunk.fabId

def sChunk0 : Machine.State := { sChunk with colls := [] }

def colLast : Coll := col 3 (fun k => { k with tx := [{ txTo2 with out := true, attempt := 8 }] })

def sLast : Machine.State := { sCol (inbox (msgOf2 3 [])) [colLast] with entries := [{ colEnt 3 0xFFFF 0 with begun := true }] }

def chunkLanded : Except Machine.State Machine.State :=
  (((taken sChunk isData).2.answer 0 (taken sChunk isData).1 2).modColl 1 (fun y => { y with rx := y.rx.map (fun z => if z = rxOf2 then { z with got := true } else z) })).land colIn 0 0 0 data64

def colSent : Coll := col 3 (fun k => { k with tx := [txTo2] })

def sAbort : Machine.State := { sCol (inbox (msgOf2 5 [])) [colSent] with entries := [{ colEnt 3 0xFFFF 0 with begun := true }] }

def isData0 (m : Msg) : Bool := m.msg == 0 && m.dfab == sChunk0.fabId

/-! ### Weights and storage -/

/-- HBM with manifests at 0x20A000 (a new generation) and 0x20B000 (an in-place update), and a target table at 0x210000. -/
def wgtWords : List (Nat × Nat) :=
  [(0x20A000, 0x1_574D4E46), (0x20A008, 2 ^ 32 + 1), (0x20A010, 1), (0x20A040, 0x600000), (0x20A048, 0x20 * 2 ^ 48 + 512), (0x20B000, 0x2_0001_574D4E46), (0x20B008, 2 * 2 ^ 32 + 1), (0x20B010, 1),
    (0x20B040, 0x600000), (0x20B048, 512), (0x210000, 2 ^ 31 + 2 ^ 16 + 1), (0x210008, 1)]

def wgtHbm : Memory := words (tableWords ++ wgtWords)

/-- A module whose context 0 has a pool of weights and whose storage ports are enabled. -/
def sWgt (es : List Entry) (w : WgtCtx) : Machine.State :=
  { flds (sE es) [(.wgtPoolLoBase, 0, 3), (.wgtPoolSizePages, 0, 4), (.wgtQuotaPages, 0, 64), (.stoCtlEn, 0, 1), (.stoTgtLoBase, 0, 1), (.stoStatLink, 0, 1)] with hbm := wgtHbm, wgts := [(0, w)] }

/-- A weight record of context 0. -/
def wgtEnt (op model gen man : Nat) : Entry :=
  { ent 1 4 0 [(0x30, 4, op * 2 ^ 24 + model), (0x34, 4, gen), (0x38, 6, man)] with st := .started, admitted := true }

/-- A shard on HBM page 2 of stack 0. -/
def shd (d : Option (List (BitVec 8))) : Shard := ⟨0, 0x600000, 512, 0, false, 0, 0, 0, d, false, true, [0x400000], none⟩

/-- A context that holds model 1. -/
def wg (slots : Tbl GenSlot) (f : Model → Model) : WgtCtx := { WgtCtx.reset with models := [(1, f { Model.reset with slots := slots, top := 1 })] }

def gslot (st : GenSt) (n : Nat) (xs : List Shard) : GenSlot := ⟨st, n, false, 0xA000, xs⟩

def manOf (r : ManRead) : Manifest := match r with | .ok m => m | _ => ⟨false, false, false, 0, 0, []⟩

def isMan (r : ManRead) : Bool := match r with | .ok _ => true | _ => false

theorem manOf_eq (r : ManRead) (h : isMan r = true) : r = .ok (manOf r) := by cases r <;> simp_all [isMan, manOf]

def fitOf (r : Fit) : List Shard := match r with | .ok x => x | _ => []

def isFit (r : Fit) : Bool := match r with | .ok _ => true | _ => false

theorem fitOf_eq (r : Fit) (h : isFit r = true) : r = .ok (fitOf r) := by cases r <;> simp_all [isFit, fitOf]

def sLoad : Machine.State := flds (sWgt [wgtEnt 1 0 0 0xA000] WgtCtx.reset) [(.wgtCtlPolicy, 0, 1), (.wgtQuotaPages, 0, 0), (.wgtHostLoBase, 0, 8), (.wgtHostSizePages, 0, 4)]

def eLoad : Entry := wgtEnt 1 0 0 0xA000

def mLoad : Manifest := manOf (sLoad.readManifest 0 (eLoad.u 56 6) false (wgtOwner eLoad))

def s1Load : Machine.State := sLoad.dropReads (wgtOwner eLoad)

def xsLoad : List Shard := fitOf (s1Load.fit 0 mLoad.shards)

def backLoad : Machine.State × List Shard := (s1Load.back 0 xsLoad).getD (s0, [])

def jLoad : LoadJob := loadJob eLoad mLoad (some 0) .fresh backLoad.2

def t1Load : Machine.State :=
  (backLoad.1.modModel 0 mLoad.model (fun y => { y.setSlot 0 ⟨.loading, mLoad.gen, false, eLoad.u 56 6, []⟩ with inplace := mLoad.inplace })).addJob eLoad jLoad

def openLoad : Except (Nat × Nat) (Machine.State × List Nat) :=
  t1Load.stoOpenAll 0 ((List.range backLoad.2.length).filterMap (fun i => (jLoad.shards[i]?).map (fun x => (x.shard.target, x.shard.offset, x.shard.bytes)))) []

def sInplace : Machine.State := sWgt [wgtEnt 1 0 0 0xB000] (wg [(0, gslot .serving 1 [shd none])] (fun m => { m with inplace := true }))

/-- The digest of the shard as it stands in that HBM. -/
def shdDigest : List (BitVec 8) := sha3 (({ s0 with hbm := wgtHbm } : Machine.State).shardBytes (shd none))

theorem shdDigest_eq (s : Machine.State) (x : Shard) (h : s.hbm = wgtHbm) (hp : x.pages = [0x400000]) (hb : x.bytes = 512) : sha3 (s.shardBytes x) = shdDigest := by
  simp only [shdDigest, Machine.State.shardBytes, Machine.State.hbmBytes, h, hp, hb, shd]

theorem keccakRound_length (a : List Nat) (rc : Nat) : (keccakRound a rc).length = 25 := by
  simp only [keccakRound, List.length_map, List.length_zipIdx, List.length_range]

theorem keccakRounds_length (rs : List Nat) : ∀ a : List Nat, a.length = 25 → (rs.foldl keccakRound a).length = 25 := by
  induction rs with
  | nil => exact fun _ h => h
  | cons r rs ih => exact fun a _ => ih _ (keccakRound_length a r)

theorem absorb_length (a : List Nat) (b : List (BitVec 8)) (h : a.length = 25) : (absorb a b).length = 25 :=
  keccakRounds_length _ _ (by simp only [List.length_map, List.length_zipIdx, h])

theorem sha3_ne_nil (bs : List (BitVec 8)) : sha3 bs ≠ [] := by
  have h : ∀ n a bs, a.length = 25 → (absorbAll n a bs).length = 25 := by
    intro n
    induction n with
    | zero => exact fun _ _ h => h
    | succ n ih =>
      intro a bs h
      simp only [absorbAll]
      split
      · exact absorb_length _ _ h
      · exact ih _ _ (absorb_length _ _ h)
  have hl := h (bs.length / 136 + 1) (List.replicate 25 0) bs (by simp)
  unfold sha3
  generalize absorbAll (bs.length / 136 + 1) (List.replicate 25 0) bs = l at hl
  cases l with
  | nil => exact absurd hl (by decide)
  | cons x xs => simp [leBytes]

theorem arrived_pages (s : Machine.State) (j : LoadJob) (i : Nat) (x : Shard) (h : j.buffered x = false) (hp : s.shardPoison x = false) : s.arrived j i x = some (s.shardBytes x) := by
  simp [Machine.State.arrived, h, hp]

theorem verifyAll_ok (s : Machine.State) (c : Nat) (o : ReadOwner) (x : Shard) (h : s.hbm = wgtHbm) (hp : x.pages = [0x400000]) (hb : x.bytes = 512) (hd : x.digest = some shdDigest)
    (hq : s.shardPoison x = false) : s.verifyAll c o [x] = (s, some none) := by
  simp [Machine.State.verifyAll, Machine.State.readShard, hd, hp, hq, shdDigest_eq s x h hp hb]

theorem verifyAll_bad (s : Machine.State) (c : Nat) (o : ReadOwner) (x : Shard) (hp : x.pages = [0x400000]) (hd : x.digest = some [])
    (hq : s.shardPoison x = false) : s.verifyAll c o [x] = (s, some (some x.index)) := by
  simp [Machine.State.verifyAll, Machine.State.readShard, hd, hp, hq, sha3_ne_nil]

/-- A load of that shard, with its bytes in place. -/
def wjob (kind : LoadKind) (xs : List LoadShard) : LoadJob := ⟨0, 2, 1, 1, some 0, 2, 0xA000, kind, xs, [], 0, true⟩

def sJobs (kind : LoadKind) (xs : List LoadShard) (w : WgtCtx) : Machine.State :=
  { sWgt [{ wgtEnt 1 0 0 0xA000 with begun := true }] w with loads := [wjob kind xs] }

def eRun : Entry := { wgtEnt 1 0 0 0xA000 with begun := true }

def loading : WgtCtx := wg [(0, gslot .loading 2 [])] id

def walked (d : Option (List (BitVec 8))) : Machine.State := { flds (sWgt [] (wg [(0, gslot .ready 1 [shd d])] id)) [(.wgtWalkInterval, 0, 1)] with hbm := wgtHbm }

/-- A tiered shard of a layer. -/
def tier (l : Nat) (ps : List Nat) : Shard := { shd none with layer := l, pages := ps, host := some (2 ^ 30 + l * 2 ^ 21), index := l, dva := 0x600000 + l * 2 ^ 21 }

def sTier (ps : List Nat) : Machine.State := sWgt [] (wg [(0, gslot .ready 1 [tier 0 [0x600000], tier 1 ps])] (fun m => { m with staged := [0] }))

/-- A storage port with an open queue pair and a command. -/
def qp1 : StoQp := ⟨0, 1, false, 500000, none, 0, none, 0⟩

def scmd (o : StoOwner) (op : StoOp) : StoCmd := ⟨7, o, op, 0, 1, 512, 0, 0, 512, 1⟩

def ck1 : Ckpt := ⟨0, 2, 1, false, 0, 0x40000, 512, 0, 0, []⟩

def sSto (m : StoCmd) (q : StoQp) : Machine.State :=
  { sJobs .fresh [⟨shd none, 0, false⟩] loading with stos := [(0, { StoPort.reset with cmds := [m], qps := [q] })], ckpts := [ck1], ptime := 100 }

def loadCmd : StoCmd := scmd (.load 0 2 1 0) .read

def ckCmd : StoCmd := scmd (.ckpt 0 2 1) .write

def eCk : Entry := { ent 1 4 0 [(0x30, 4, 7 * 2 ^ 24), (0x38, 6, 0x40000), (0x48, 8, 512)] with st := .started, admitted := true }

def sCk : Machine.State := sWgt [eCk] WgtCtx.reset

def sCkOff : Machine.State := flds sCk [(.stoCtlEn, 0, 0)]

theorem tier_ok (s : Machine.State) (o : ReadOwner) (x : ShardAt × Shard) (h : x ∈ [((ShardAt.gen 1 0 1 : ShardAt), tier 1 [0x400000])]) (hq : s.shardPoison (tier 1 [0x400000]) = false) :
    ∃ bs, s.readShard 0 o x.2 = .ok bs := by
  simp only [List.mem_singleton] at h
  subst h
  exact ⟨s.shardBytes (tier 1 [0x400000]), by simp [Machine.State.readShard, tier] at *; simp [hq]⟩

theorem cur_checked (k : Nat) (hk : k ∈ (wjob .inplace [⟨shd none, 512, true⟩]).current) : ∃ x, (wjob .inplace [⟨shd none, 512, true⟩]).shards[k]? = some x ∧ x.checked = true := by
  have h : (wjob .inplace [⟨shd none, 512, true⟩]).current = [0] := by decide +kernel
  rw [h] at hk
  simp only [List.mem_singleton] at hk
  subst hk
  exact ⟨_, rfl, rfl⟩

def isErr {ε α : Type} [DecidableEq ε] (e : ε) (r : Except ε α) : Bool := match r with | .error x => decide (x = e) | .ok _ => false

theorem err_eq {ε α : Type} [DecidableEq ε] (e : ε) (r : Except ε α) (h : isErr e r = true) : r = .error e := by
  cases r <;> simp_all [isErr]

/-! ### Turns and straits -/

def tpiece (done : Bool) : TurnPiece := ⟨0, 2, 0, 0, 0, 0x40000, 64, false, done, 0, []⟩

/-- A turn of a group of this module alone. -/
def turn1 (phase : Nat) (f : Turn → Turn) : Turn :=
  f { ctx := 0, stream := 2, seq := 1, dir := false, fabric := true, switch := false, model := 1, tgroup := 0xFFFF, gen := 1, tag := 3, desc := ⟨1, [⟨1, 0, 0, 0, 0, 1, 0, 0⟩]⟩,
      rank := 0, manifest := 0, shards := [], route := 0, roles := 1, straits := 1, slot := none, inplace := false, phase := phase, entered := 0, tx := [], rx := [],
      ballot := Ballot.start 0, cause := 0, fail := false, routed := true }

def turnEnt : Entry :=
  { ent 1 5 0 [(0x30, 4, 2 ^ 28 + 0xFFFF), (0x38, 6, 3), (0x40, 6, 0x7000), (0x60, 6, 1), (0x68, 4, 1)] with st := .started, admitted := true }

def sTurn (u : Option Turn) : Machine.State :=
  { flds (sE [turnEnt]) [(.fabIdId, 0, 1), (.strStatState, 0, 6), (.strPeerValid, 0, 1), (.strPeerFabricId, 0, 2)] with hbm := lrnHbm, turn := u, ptime := 1000 }

def turnNo (k : Nat) : Machine.State := ((sTurn none).dropReads (turnOwner turnEnt)).endOp turnEnt St.turnRefused k

def turnGrp : Except Machine.State GroupDesc := (sTurn none).turnGroup turnEnt turnEnt.turnRec.group turnNo

def turnMp : Except Machine.State (List MapEnt × Nat) := (sTurn none).turnMap turnEnt turnEnt.turnRec.map (okD ⟨0, []⟩ turnGrp).ents.length turnNo

def turnMf : Except Machine.State (List Shard × Bool) := (sTurn none).turnManifest turnEnt turnEnt.turnRec turnNo

def turnSl : Except Machine.State (Machine.State × Option Nat × Bool × List Shard) :=
  (sTurn none).turnSlot turnEnt turnEnt.turnRec (okD ([], false) turnMf).1 (okD ([], false) turnMf).2 turnNo

def voted (v : Bool) : Turn := turn1 6 (fun u => { u with ballot := { u.ballot with vote := some v, votes := [(0, v)] } })

/-- A turn of two members of which this one is rank 1, which has voted. -/
def turnAsk : Turn := turn1 6 (fun u => { u with desc := ⟨2, [⟨2, 0, 0, 0, 0, 1, 0, 0⟩, ⟨1, 0, 1, 0, 0, 1, 0, 0⟩]⟩, ballot := { u.ballot with vote := some true } })

def sBuilt : Machine.State := sWgt [] (wg [(0, { gslot .ready 1 [shd none] with built := true })] id)

/-- A strait in a state. -/
def sStr (st : Nat) (x : Strait) : Machine.State :=
  { flds (sE []) [(.fabIdId, 0, 1), (.strStatState, 0, st), (.strLanesRxGood, 0, 0xFFFF)] with strs := [(0, x)] }

/-- A frame as another module sends it. -/
def frm (type vc : Nat) (first last : Bool) (seq : Nat) (data : List (BitVec 8)) : List (BitVec 8) := s0.frameOf 0 type vc first last seq data

/-- The identity frame of member 2. -/
def identOf2 : List (BitVec 8) := (flds s0 [(.fabIdId, 0, 2), (.strLanesRxGood, 0, 0xFFFF)]).identity 0

def peer2 : Strait := { Strait.reset with ident := (identOf2.drop 16).take 64, same := 2, peerGood := 0xFFFF }

def frame1 (seq : Nat) : Frame := ⟨seq, 1, true, true, data64⟩

/-- A route image of zeros for member 1, at 0x40000. -/
def imgWords : List (Nat × Nat) := [(0x240000, 0x1_5254424C), (0x240008, 2 ^ 32)]

def sImg (img : List (Nat × Nat)) : Machine.State := { flds (sE []) [(.fabIdId, 0, 1), (.rtImageLoAddr, 0, 0x40000 / 64)] with hbm := words (tableWords ++ img) }

theorem readN_append (m : Memory) (a n k : Nat) : Memory.readN m a (n + k) = Memory.readN m a n ++ Memory.readN m (a + n) k := by
  simp only [Memory.readN, List.range_add, List.map_append, List.map_map]
  congr 1
  apply List.map_congr_left
  intro i _
  simp [Nat.add_assoc]

theorem entryErr_zero (own d : Nat) (f : Nat → Nat) : entryErr own d 0 f = 0 := by
  simp [entryErr, routeKind, bits]

theorem zeros_contain (l : List Nat) (k : Nat) (hk : k ≠ 0) : (l.map (fun _ => 0)).contains k = false := by
  induction l with
  | nil => rfl
  | cons x l ih => simp only [List.map_cons, List.contains_cons, ih, Bool.or_false, beq_eq_false_iff_ne, ne_eq, hk, not_false_eq_true]

theorem zeros_plain (l : List Nat) : (l.map (fun d => (d, 0))).all (fun e : Nat × Nat => entryPlain e.2) = true := by
  rw [List.all_eq_true]
  rintro _ h
  obtain ⟨d, _, rfl⟩ := List.mem_map.mp h
  exact (by decide : entryPlain 0 = true)

theorem zeros_reached (l : List Nat) (own : Nat) : ((l.map (fun d => (d, 0))).filter (fun e : Nat × Nat => routeKind e.2 != 0 && e.1 != own)) = [] := by
  rw [List.filter_eq_nil_iff]
  rintro _ h
  obtain ⟨d, _, rfl⟩ := List.mem_map.mp h
  simp [show routeKind 0 = 0 by decide]

/-- An image whose entries are zeros passes where its header does. -/
theorem imageErr_zero (s : Machine.State) (n : Nat) (h : List (BitVec 8)) (hl : h.length = 64)
    (h1 : leAt h 0 4 = 0x5254424C ∧ leAt h 4 2 = 1 ∧ leAt h 6 2 = 0 ∧ bits (leAt h 0xC 2) 15 14 = 0 ∧ ((h.drop 0xE).take 50).all (fun x => x == 0) = true)
    (h2 : leAt h 8 4 = s.fld .fabSystem 0 ∧ bits (leAt h 0xC 2) 13 0 = s.fabId) : s.imageErr (h ++ List.replicate n 0#8) = 0 := by
  have hp : ∀ o k, o + k ≤ 64 → leAt (h ++ List.replicate n 0#8) o k = leAt h o k := by
    intro o k hn
    simp only [leAt, List.drop_append, List.take_append, hl, show o - 64 = 0 by omega, List.length_drop, show k - (64 - o) = 0 by omega, List.take_zero, List.append_nil]
  have hz : ∀ d, leAt (h ++ List.replicate n 0#8) (64 + 4 * d) 4 = 0 := by
    intro d
    have hd : h.drop (64 + 4 * d) = [] := List.drop_eq_nil_of_le (by omega)
    have : leAt (h ++ List.replicate n 0#8) (64 + 4 * d) 4 = leAt (List.replicate n 0#8) (4 * d) 4 := by
      simp only [leAt, List.drop_append, hl, hd, List.nil_append, show 64 + 4 * d - 64 = 4 * d by omega]
    rw [this, leAt_zero]
  have hq : ((h ++ List.replicate n 0#8).drop 0xE).take 50 = (h.drop 0xE).take 50 := by
    rw [List.drop_append_of_le_length (by omega), List.take_append_of_le_length (by simp only [List.length_drop]; omega)]
  simp only [Machine.State.imageErr, hz, hq, hp _ _ (show 0 + 4 ≤ 64 by decide), hp _ _ (show 4 + 2 ≤ 64 by decide), hp _ _ (show 6 + 2 ≤ 64 by decide), hp _ _ (show 0xC + 2 ≤ 64 by decide),
    hp _ _ (show 8 + 4 ≤ 64 by decide), List.map_map, Function.comp_def, entryErr_zero, zeros_contain _ 3 (by decide), zeros_contain _ 4 (by decide), zeros_contain _ 5 (by decide), zeros_plain,
    zeros_reached, h1, h2]
  simp

def imgHead : List (BitVec 8) := Memory.readN (sImg imgWords).hbm 0x240000 64

theorem img_split : Memory.readN (sImg imgWords).hbm 0x240000 (64 + 65536) = imgHead ++ List.replicate 65536 0#8 :=
  (readN_append _ _ _ _).trans (congrArg _ (readN_zero _ (0x240000 + 64) 65536 (by decide +kernel)))

theorem img_head : (sImg imgWords).imageErr (imgHead ++ List.replicate 65536 0#8) = 0 :=
  imageErr_zero _ _ _ (by simp [imgHead, Memory.readN]) (by decide +kernel) (by decide +kernel)

theorem img_ok : (sImg imgWords).imageErr (Memory.readN (sImg imgWords).hbm 0x240000 65600) = 0 :=
  (congrArg (sImg imgWords).imageErr img_split).trans img_head

/-! ### The Causeway and the registers -/

def sCw (st : Nat) (c : Causeway) : Machine.State := { flds (sE []) [(.cwStatState, 0, st), (.ctxCtlEn, 1, 1)] with cw := c }

/-- A memory write packet of the host's, as its adapter sends it. -/
def wrPkt : CwPkt := ⟨0x13, 0, 0, 0, 0x100, 64, data64, none⟩

def wrBytes (seq : Nat) : List (BitVec 8) := s0.cwBytes seq wrPkt

def ctlBytes (st : Nat) (nack : Bool) : List (BitVec 8) := (sCw st { Causeway.reset with kept := true, width := 16 }).cwControl nack

def twoSent : Causeway := { Causeway.reset with unacked := [(0, wrPkt), (1, wrPkt)] }

def hread : HostRead := ⟨9, .op 7 0, 0x1000, 64, none, 0, false⟩

def sRead : Machine.State := { sCw 5 { Causeway.reset with tags := [⟨3, 9, 0, 64, none⟩] } with hostReads := [hread] }

def sReg : Machine.State := flds (sE []) [(.pwrLedgerLo, 0, 7), (.numiInvalidCnt, 0, 3)]

/-! ### Power, resets and errors -/

/-- An island's supply in a state. -/
def sIpw (s : Machine.State) (i : Nat) (f : IslPwr → IslPwr) : Machine.State := { s with pw := { s.pw with isl := [(i, f IslPwr.reset)] } }

/-- The module waiting for admission of one record, its context with a budget. -/
def sWait (l : List (Fld × Nat × Nat)) : Machine.State := flds (sE [{ ent 1 1 0 [] with st := .accepted }]) l

def waitOf (s : Machine.State) : Waiting := (s.pruneSpends.energyQueue.head?).getD ⟨.record 0 0 0, 0, 0, 0⟩

def sPts : Machine.State := sE []

def sMod (f : Module → Module) : Machine.State := { sPts with mod := f sPts.mod }

def logEnt : List (BitVec 8) := leBytes 4 3 ++ List.replicate 28 0

def sHeldIn (f : Module → Module) : Machine.State := { sMod f with run := .held }

/-- A closing group of the context, decided. -/
def sGrp : Machine.State := flds (sE []) [(.ctxStatResetting, 1, 1)]

/-- An error in a memory of island 0. -/
def err (m addr : Nat) : ErrAt := ⟨m, 0, 3, addr, 5, 2, 2, 0, false⟩

/-- A defect found by the memory test of an island that is idle. -/
def sFound (t r : Nat) : Machine.State := { flds (sE []) [(.modTestEn, 0, t), (.repStatRepairable, 0, r)] with mems := [(0, { MemSt.reset with tested := true, found := [.arrayRow 0 1 5] })] }

/-! ### Monitors, contexts and the rules of the spec -/

/-- A monitor unit 0 that samples a page. -/
def sMon (p code : Nat) : Machine.State :=
  (((sE []).setFld .monCfgEn 1 0 1).setFld .monCfgPage p 0 1).setReg (rkey (pageCls p) (pageInst p) monSel 0) (BitVec.ofNat 32 code)

/-- A translation whose page 3 may be read only. -/
def sRo : Machine.State := { sT with hbm := words (tableWords ++ [(0x2018, 2 ^ 63 + 2 ^ 61 + 0x800000)]) }

/-- A drop of generation 1, which stands in a state. -/
def sDrop (st : GenSt) : Machine.State := sWgt [wgtEnt 3 1 1 0] (wg [(0, gslot st 1 [shd none])] id)

theorem test_meets_StepRunsFront_0 : ∃ (s : Machine.State) (c : Instr) (rest : List Instr), s.pending = c :: rest := ⟨{ s0 with pending := [.snap, .clear] }, .snap, [.clear], by decide +kernel⟩

theorem test_meets_StepRunsFront_1 : ∃ (s : Machine.State), s.pending = [] := ⟨s0, by decide +kernel⟩

theorem test_meets_ResetState_13 : ∃ (c : Nat) (q : Nat), c < 64 ∧ q < 16 := ⟨63, 15, by decide +kernel, by decide +kernel⟩

theorem test_meets_ResetState_14 : ∃ (c : Nat) (q : Nat), c < 64 ∧ q < 16 := ⟨63, 15, by decide +kernel, by decide +kernel⟩

theorem test_meets_ResetState_15 : ∃ (c : Nat) (q : Nat), c < 64 ∧ q < 16 := ⟨63, 15, by decide +kernel, by decide +kernel⟩

theorem test_meets_ResetState_16 : ∃ (c : Nat), c < 64 := ⟨63, by decide +kernel⟩

theorem test_meets_ResetState_17 : ∃ (c : Nat), c < 64 := ⟨63, by decide +kernel⟩

theorem test_meets_ResetState_18 : ∃ (c : Nat), c < 64 := ⟨63, by decide +kernel⟩

theorem test_meets_ResetState_19 : ∃ (v : Nat), v < 2048 := ⟨2047, by decide +kernel⟩

theorem test_meets_ResetState_20 : ∃ (v : Nat), v < 2048 := ⟨2047, by decide +kernel⟩

theorem test_meets_ResetState_25 : ∃ (i : Nat), i < 24 := ⟨23, by decide +kernel⟩

theorem test_meets_ResetState_26 : ∃ (i : Nat), i < 24 := ⟨23, by decide +kernel⟩

theorem test_meets_ResetState_27 : ∃ (i : Nat), i < 24 := ⟨23, by decide +kernel⟩

theorem test_meets_InvariantKept_0 : ∃ (s : Machine.State) (u : Machine.State), StateInv s ∧ step s = Host.Outcome.next u := ⟨s0, _, by unfold StateInv; decide +kernel, rfl⟩

theorem test_meets_FusesStayBurned_0 : ∃ (s : Machine.State) (u : Machine.State), step s = Host.Outcome.next u := ⟨s0, _, rfl⟩

theorem test_meets_FusesStayBurned_1 : ∃ (s : Machine.State) (u : Machine.State), step s = Host.Outcome.next u := ⟨s0, _, rfl⟩

theorem test_meets_FusesStayBurned_2 : ∃ (s : Machine.State) (u : Machine.State) (k : Nat), step s = Host.Outcome.next u ∧ s.fuse.revoked.testBit k = true := ⟨{ s0 with fuse := { s0.fuse with revoked := 2 } }, _, 1, rfl, by decide +kernel⟩

theorem test_meets_InstructionWords_0 : ∃ (i : Instr) (w : W64), i.cayWord = some w := ⟨.add c0 ⟨1, 2, 3, 0⟩, _, rfl⟩

theorem test_meets_InstructionWords_1 : ∃ (i : Instr) (w : W64) (c : CayRef) (gap : Nat), cayInstr c gap w = some i := ⟨.mul c0 ⟨31, 30, 29, 1⟩, 0x023F_EE80_0000_0001, c0, 0, by decide +kernel⟩

theorem test_meets_ScalarInstructions_0 : ∃ (mk : CayRef → SFields → Instr) (op : W64 → W64 → W64) (s : Machine.State) (c : CayRef) (t : Nat) (f : SFields), ((mk, op) ∈ [(Instr.add, fun a b => a + b), (Instr.sub, fun a b => a - b), (Instr.and, fun a b => a &&& b), (Instr.or, fun a b => a ||| b), (Instr.xor, fun a b => a ^^^ b), (Instr.shl, fun a b => a <<< (BitVec.toNat b % 64)), (Instr.shr, fun a b => a >>> (BitVec.toNat b % 64)), (Instr.sar, fun a b => BitVec.sshiftRight a (BitVec.toNat b % 64)), (Instr.mul, fun a b => a * b), (Instr.slt, fun a b => if BitVec.toInt a < BitVec.toInt b then 1 else 0), (Instr.sltu, fun a b => if BitVec.toNat a < BitVec.toNat b then 1 else 0)]) ∧ Issues s c t ∧ Settled s c t [f.d, f.a, f.b] ∧ f.rsv = 0 := ⟨Instr.sar, fun a b => a.sshiftRight (b.toNat % 64), sC, c0, 0, ⟨4, 1, 3, 0⟩, by simp, ⟨rfl, rfl⟩, by unfold Settled; decide +kernel, by decide +kernel⟩

theorem test_meets_ScalarInstructions_1 : ∃ (mk : CayRef → IFields → Instr) (op : W64 → BitVec 32 → W64) (s : Machine.State) (c : CayRef) (t : Nat) (f : IFields), ((mk, op) ∈ [(Instr.addi, fun a i => a + BitVec.signExtend 64 i), (Instr.andi, fun a i => a &&& BitVec.signExtend 64 i), (Instr.ori, fun a i => a ||| BitVec.signExtend 64 i), (Instr.shli, fun a i => a <<< (i.toNat % 64)), (Instr.shri, fun a i => a >>> (i.toNat % 64)), (Instr.lih, fun a i => BitVec.ofNat 64 (i.toNat * 2 ^ 32 + BitVec.toNat a % 2 ^ 32))]) ∧ Issues s c t ∧ Settled s c t [f.d, f.a] ∧ f.rsv = 0 := ⟨Instr.lih, fun a i => BitVec.ofNat 64 (i.toNat * 2 ^ 32 + a.toNat % 2 ^ 32), sC, c0, 0, ⟨4, 1, 0, 7⟩, by simp, ⟨rfl, rfl⟩, by unfold Settled; decide +kernel, by decide +kernel⟩

theorem test_meets_ScalarInstructions_2 : ∃ (s : Machine.State) (c : CayRef) (t : Nat) (f : IFields), Issues s c t ∧ Settled s c t [f.d] ∧ f.rsv = 0 ∧ f.imm.toNat % 256 ≠ 9 := ⟨sC, c0, 0, ⟨4, 0, 0, 10⟩, ⟨rfl, rfl⟩, by unfold Settled; decide +kernel, by decide +kernel, by decide +kernel⟩

theorem test_meets_LocalAccess_0 : ∃ (mk : CayRef → IFields → Instr) (n : Nat) (s : Machine.State) (c : CayRef) (t : Nat) (f : IFields) (a : Nat), (mk, n) ∈ [(Instr.ld8, 1), (Instr.ld16, 2), (Instr.ld32, 4), (Instr.ld64, 8)] ∧ Issues s c t ∧ Settled s c t [f.d, f.a] ∧ f.rsv = 0 ∧ bits (BitVec.toNat (((s.cay c).thr t).reg f.a)) 23 22 = 0 ∧ ↑a = ↑(bits (BitVec.toNat (((s.cay c).thr t).reg f.a)) 21 0) + f.imm.toInt ∧ a % n = 0 ∧ a + n ≤ 2 ^ 22 ∧ (s.cay c).pendingRange (s.cay c).issue a n = false := ⟨Instr.ld64, 8, sC, c0, 0, ⟨4, 1, 0, 0x3FFFB8⟩, 0x3FFFF8, by simp, ⟨rfl, rfl⟩, by unfold Settled; decide +kernel, by decide +kernel, by decide +kernel, by decide +kernel, by decide +kernel, by decide +kernel, by decide +kernel⟩

theorem test_meets_LocalAccess_1 : ∃ (mk : CayRef → IFields → Instr) (n : Nat) (s : Machine.State) (c : CayRef) (t : Nat) (f : IFields) (a : Nat), (mk, n) ∈ [(Instr.st16, 2), (Instr.st32, 4), (Instr.st64, 8)] ∧ Issues s c t ∧ Settled s c t [f.d, f.a] ∧ f.rsv = 0 ∧ bits (BitVec.toNat (((s.cay c).thr t).reg f.a)) 23 22 = 0 ∧ ↑a = ↑(bits (BitVec.toNat (((s.cay c).thr t).reg f.a)) 21 0) + f.imm.toInt ∧ a % n = 0 ∧ a + n ≤ 2 ^ 22 ∧ (s.shadowOn c.island = true → a + n ≤ 4186112) ∧ (s.cay c).pendingRange (s.cay c).issue a n = false ∧ (s.cay c).pendingCount < 32 := ⟨Instr.st64, 8, sC, c0, 0, ⟨4, 1, 0, 0x3FFFB8⟩, 0x3FFFF8, by simp, ⟨rfl, rfl⟩, by unfold Settled; decide +kernel, by decide +kernel, by decide +kernel, by decide +kernel, by decide +kernel, by decide +kernel, by decide +kernel, by decide +kernel, by decide +kernel⟩

theorem test_meets_DeviceAccess_0 : ∃ (mk : CayRef → IFields → Instr) (n : Nat) (s : Machine.State) (c : CayRef) (t : Nat) (f : IFields) (k : Nat), (mk, n) ∈ [(Instr.ldg32, 4), (Instr.ldg64, 8)] ∧ Issues s c t ∧ Settled s c t [f.d, f.a] ∧ f.rsv = 0 ∧ dvAddr ((s.cay c).thr t) f % n = 0 ∧ (s.task ((s.cay c).thr t).task).spec = false ∧ s.place ((s.cay c).thr t).task (dvAddr ((s.cay c).thr t) f) false = Place.hbm k ∧ cayOk c = true ∧ stackOf k < 24 ∧ (s.ic c.island).lines.contains (lineOf k) = true ∧ s.poisoned k n = false := ⟨Instr.ldg64, 8, { sC with ics := [(0, { ICache.reset with lines := [0x4000] })] }, c0, 0, ⟨4, 1, 0, 0⟩, _, by simp, ⟨rfl, rfl⟩, by unfold Settled; decide +kernel, by decide +kernel, by decide +kernel, by decide +kernel, rfl, by decide +kernel, by decide +kernel, by decide +kernel, by decide +kernel⟩

theorem test_meets_DeviceAccess_1 : ∃ (mk : CayRef → IFields → Instr) (n : Nat) (s : Machine.State) (c : CayRef) (t : Nat) (f : IFields) (k : Nat), (mk, n) ∈ [(Instr.stg32, 4), (Instr.stg64, 8)] ∧ Issues s c t ∧ Settled s c t [f.d, f.a] ∧ f.rsv = 0 ∧ dvAddr ((s.cay c).thr t) f % n = 0 ∧ (s.task ((s.cay c).thr t).task).spec = false ∧ s.place ((s.cay c).thr t).task (dvAddr ((s.cay c).thr t) f) true = Place.hbm k := ⟨Instr.stg32, 4, sC, c0, 0, ⟨4, 1, 0, 0⟩, _, by simp, ⟨rfl, rfl⟩, by unfold Settled; decide +kernel, by decide +kernel, by decide +kernel, by decide +kernel, rfl⟩

theorem test_meets_ControlFlow_0 : ∃ (mk : CayRef → BFields → Instr) (p : W64 → W64 → Prop) (s : Machine.State) (c : CayRef) (t : Nat) (f : BFields), ((mk, p) ∈ [(Instr.beq, fun a b => a = b), (Instr.bne, fun a b => a ≠ b), (Instr.blt, fun a b => BitVec.toInt a < BitVec.toInt b), (Instr.bge, fun a b => BitVec.toInt b ≤ BitVec.toInt a), (Instr.bltu, fun a b => BitVec.toNat a < BitVec.toNat b), (Instr.bgeu, fun a b => BitVec.toNat b ≤ BitVec.toNat a)]) ∧ Issues s c t ∧ Settled s c t [f.a, f.b] ∧ f.rsv = 0 ∧ f.off.toNat % 8 = 0 ∧ ((s.cay c).thr t).pc % 8 = 0 ∧ (p (((s.cay c).thr t).reg f.a) (((s.cay c).thr t).reg f.b) → 0 ≤ ↑((s.cay c).thr t).pc + f.off.toInt ∧ ↑((s.cay c).thr t).pc + f.off.toInt < ↑((s.cay c).taskInfo ((s.cay c).thr t).task).codeLen) := ⟨Instr.beq, fun a b => a = b, sC, c0, 0, ⟨1, 1, 0, 0xFFFFFFF8⟩, by simp, ⟨rfl, rfl⟩, by unfold Settled; decide +kernel, by decide +kernel, by decide +kernel, by decide +kernel, by decide +kernel⟩

theorem test_meets_ControlFlow_1 : ∃ (s : Machine.State) (c : CayRef) (t : Nat) (f : IFields), Issues s c t ∧ Settled s c t [f.d] ∧ f.rsv = 0 ∧ f.imm.toNat % 8 = 0 ∧ ((s.cay c).thr t).pc % 8 = 0 ∧ 0 ≤ ↑((s.cay c).thr t).pc + f.imm.toInt ∧ ↑((s.cay c).thr t).pc + f.imm.toInt < ↑((s.cay c).taskInfo ((s.cay c).thr t).task).codeLen := ⟨sC, c0, 0, ⟨4, 0, 0, 4080⟩, ⟨rfl, rfl⟩, by unfold Settled; decide +kernel, by decide +kernel, by decide +kernel, by decide +kernel, by decide +kernel, by decide +kernel⟩

theorem test_meets_ControlFlow_2 : ∃ (s : Machine.State) (c : CayRef) (t : Nat) (f : SFields), Issues s c t ∧ Settled s c t [f.a] ∧ f.rsv = 0 ∧ BitVec.toNat (((s.cay c).thr t).reg f.a) % 8 = 0 ∧ BitVec.toNat (((s.cay c).thr t).reg f.a) < ((s.cay c).taskInfo ((s.cay c).thr t).task).codeLen := ⟨sC, c0, 0, ⟨0, 1, 0, 0⟩, ⟨rfl, rfl⟩, by unfold Settled; decide +kernel, by decide +kernel, by decide +kernel, by decide +kernel⟩

theorem test_meets_VectorElementwise_0 : ∃ (mk : CayRef → VFields → Instr) (n : Nat) (op : Val → Val → Val → Nat → Val) (s : Machine.State) (c : CayRef) (t : Nat) (f : VFields) (pa : Nat) (pb : Nat) (pc : Nat) (pd : Nat) (on : List Bool) (lane : Nat → Val), ((mk, n, op) ∈ [(Instr.vadd, 2, fun a b x x_1 => a.add b), (Instr.vsub, 2, fun a b x x_1 => a.sub b), (Instr.vmul, 2, fun a b x x_1 => a.mul b), (Instr.vfma, 3, fun a b c x => (a.mul b).add c), (Instr.vmin, 2, fun a b x x_1 => if (a.isNan || b.isNan) = true then Val.nan else if b.lt a = true then b else a), (Instr.vmax, 2, fun a b x x_1 => if (a.isNan || b.isNan) = true then Val.nan else if a.lt b = true then b else a), (Instr.vabs, 1, fun a x x_1 x_2 => a.abs), (Instr.vneg, 1, fun a x x_1 x_2 => a.negate), (Instr.vscl, 1, fun a x x_1 k => a.scale (max (-1024) (min 1024 (sgn 64 k))))]) ∧ Issues s c t ∧ Settled s c t [f.d, f.a, f.b, f.c, f.k] ∧ Vacant s c ∧ f.rsv = 0 ∧ f.rmode = 0 ∧ f.blk = 0 ∧ arithSrc f.sfmt.toNat = true ∧ arithDst f.dfmt.toNat = true ∧ s.lsOperand c.island (BitVec.toNat (((s.cay c).thr t).reg f.a)) (vecBytes f.sfmt.toNat) (vecBytes f.sfmt.toNat) false = some pa ∧ (2 ≤ n → s.lsOperand c.island (BitVec.toNat (((s.cay c).thr t).reg f.b)) (vecBytes f.sfmt.toNat) (vecBytes f.sfmt.toNat) false = some pb) ∧ (n = 3 → s.lsOperand c.island (BitVec.toNat (((s.cay c).thr t).reg f.c)) (vecBytes f.dfmt.toNat) (vecBytes f.dfmt.toNat) false = some pc) ∧ s.lsOperand c.island (BitVec.toNat (((s.cay c).thr t).reg f.d)) (vecBytes f.dfmt.toNat) (vecBytes f.dfmt.toNat) true = some pd ∧ on = List.map (laneOn f.k (BitVec.toNat (((s.cay c).thr t).reg f.k))) (List.range 64) ∧ (∀ (l : Nat), lane l = op (decodeElem f.sfmt.toNat (((s.cay c).getVec f.sfmt.toNat pa).getD l 0)) (decodeElem f.sfmt.toNat (((s.cay c).getVec f.sfmt.toNat pb).getD l 0)) (decodeElem f.dfmt.toNat (((s.cay c).getVec f.dfmt.toNat pc).getD l 0)) (BitVec.toNat (((s.cay c).thr t).reg f.b))) := ⟨Instr.vfma, 3, fun a b c _ => (a.mul b).add c, sC, c0, 0, ⟨7, 5, 6, 5, 0, 5, 5, 0, 0, 0⟩, _, _, _, _, _, _, by simp, ⟨rfl, rfl⟩, by unfold Settled; decide +kernel, fun _ => rfl, by decide +kernel, by decide +kernel, by decide +kernel, by decide +kernel, by decide +kernel, rfl, fun _ => rfl, fun _ => rfl, rfl, rfl, fun _ => rfl⟩

theorem test_meets_VectorElementwise_1 : ∃ (sel : Bool) (s : Machine.State) (c : CayRef) (t : Nat) (f : VFields) (pa : Nat) (pb : Nat) (pd : Nat) (on : List Bool), Issues s c t ∧ Settled s c t [f.d, f.a, f.b, f.c, f.k] ∧ Vacant s c ∧ f.rsv = 0 ∧ f.rmode = 0 ∧ f.blk = 0 ∧ f.sfmt = f.dfmt ∧ (f.dfmt = 5 ∨ f.dfmt = 6 ∨ f.dfmt = 9) ∧ s.lsOperand c.island (BitVec.toNat (((s.cay c).thr t).reg f.a)) (vecBytes f.dfmt.toNat) (vecBytes f.dfmt.toNat) false = some pa ∧ (sel = true → s.lsOperand c.island (BitVec.toNat (((s.cay c).thr t).reg f.b)) (vecBytes f.dfmt.toNat) (vecBytes f.dfmt.toNat) false = some pb) ∧ s.lsOperand c.island (BitVec.toNat (((s.cay c).thr t).reg f.d)) (vecBytes f.dfmt.toNat) (vecBytes f.dfmt.toNat) true = some pd ∧ on = List.map (laneOn f.k (BitVec.toNat (((s.cay c).thr t).reg f.k))) (List.range 64) := ⟨true, sC, c0, 0, ⟨7, 5, 6, 0, 0, 5, 5, 0, 0, 0⟩, _, _, _, _, ⟨rfl, rfl⟩, by unfold Settled; decide +kernel, fun _ => rfl, by decide +kernel, by decide +kernel, by decide +kernel, by decide +kernel, by decide +kernel, rfl, fun _ => rfl, rfl, rfl⟩

theorem test_meets_VectorReductions_0 : ∃ (_lt : Bool) (s : Machine.State) (c : CayRef) (t : Nat) (f : VFields) (pa : Nat) (pb : Nat) (on : Nat → Bool) (x : Nat → Val) (y : Nat → Val), Issues s c t ∧ Settled s c t [f.d, f.a, f.b, f.c, f.k] ∧ Vacant s c ∧ f.rsv = 0 ∧ f.rmode = 0 ∧ f.blk = 0 ∧ arithSrc f.sfmt.toNat = true ∧ arithDst f.dfmt.toNat = true ∧ s.lsOperand c.island (BitVec.toNat (((s.cay c).thr t).reg f.a)) (vecBytes f.sfmt.toNat) (vecBytes f.sfmt.toNat) false = some pa ∧ s.lsOperand c.island (BitVec.toNat (((s.cay c).thr t).reg f.b)) (vecBytes f.sfmt.toNat) (vecBytes f.sfmt.toNat) false = some pb ∧ (∀ (l : Nat), on l = laneOn f.k (BitVec.toNat (((s.cay c).thr t).reg f.k)) l) ∧ (∀ (l : Nat), x l = decodeElem f.sfmt.toNat (((s.cay c).getVec f.sfmt.toNat pa).getD l 0)) ∧ (∀ (l : Nat), y l = decodeElem f.sfmt.toNat (((s.cay c).getVec f.sfmt.toNat pb).getD l 0)) ∧ (∀ (l : Nat), l < 64 → on l = true → (x l).isNan = false ∧ (y l).isNan = false) := ⟨true, sC, c0, 0, ⟨7, 5, 6, 0, 0, 5, 5, 0, 0, 0⟩, _, _, _, _, _, ⟨rfl, rfl⟩, by unfold Settled; decide +kernel, fun _ => rfl, by decide +kernel, by decide +kernel, by decide +kernel, by decide +kernel, by decide +kernel, rfl, rfl, fun _ => rfl, fun _ => rfl, fun _ => rfl, by decide +kernel⟩

theorem test_meets_VectorReductions_1 : ∃ (s : Machine.State) (c : CayRef) (t : Nat) (f : VFields) (pa : Nat) (on : Nat → Bool) (x : Nat → Val) (m : Val), Issues s c t ∧ Settled s c t [f.d, f.a, f.b, f.c, f.k] ∧ Vacant s c ∧ f.rsv = 0 ∧ f.rmode = 0 ∧ f.blk = 0 ∧ arithSrc f.sfmt.toNat = true ∧ arithDst f.dfmt.toNat = true ∧ s.lsOperand c.island (BitVec.toNat (((s.cay c).thr t).reg f.a)) (vecBytes f.sfmt.toNat) (vecBytes f.sfmt.toNat) false = some pa ∧ (∀ (l : Nat), on l = laneOn f.k (BitVec.toNat (((s.cay c).thr t).reg f.k)) l) ∧ (∀ (l : Nat), x l = decodeElem f.sfmt.toNat (((s.cay c).getVec f.sfmt.toNat pa).getD l 0)) ∧ (∀ (l : Nat), l < 64 → on l = true → (x l).isNan = false) ∧ (a32.decode (bits (BitVec.toNat (((s.cay c).thr t).reg f.c)) 31 0)).isNan = false ∧ (m = List.foldl (fun b l => if (on l && b.lt (x l)) = true then x l else b) (a32.decode (bits (BitVec.toNat (((s.cay c).thr t).reg f.c)) 31 0)) (List.range 64)) := ⟨sC, c0, 0, ⟨7, 5, 6, 0, 0, 5, 5, 0, 0, 0⟩, _, _, _, _, ⟨rfl, rfl⟩, by unfold Settled; decide +kernel, fun _ => rfl, by decide +kernel, by decide +kernel, by decide +kernel, by decide +kernel, by decide +kernel, rfl, fun _ => rfl, fun _ => rfl, by decide +kernel, by decide +kernel, rfl⟩

theorem test_meets_VectorReductions_2 : ∃ (s : Machine.State) (c : CayRef) (t : Nat) (f : VFields) (pa : Nat) (vs : List Val) (cc : Nat), Issues s c t ∧ Settled s c t [f.d, f.a, f.b, f.c, f.k] ∧ Vacant s c ∧ f.rsv = 0 ∧ f.rmode = 0 ∧ f.blk = 0 ∧ arithSrc f.sfmt.toNat = true ∧ arithDst f.dfmt.toNat = true ∧ s.lsOperand c.island (BitVec.toNat (((s.cay c).thr t).reg f.a)) (vecBytes f.sfmt.toNat) (vecBytes f.sfmt.toNat) false = some pa ∧ cc = bits (BitVec.toNat (((s.cay c).thr t).reg f.c)) 31 0 ∧ (vs = List.map (fun l => if laneOn f.k (BitVec.toNat (((s.cay c).thr t).reg f.k)) l = true then decodeElem f.sfmt.toNat (((s.cay c).getVec f.sfmt.toNat pa).getD l 0) else Val.zero) (List.range 64)) ∧ (a32.decode cc).isNan = false ∧ (vrsum { code := cc, sat := false } 0 (chunks 16 64 vs)).snd = [] ∧ (vrsum { code := cc, sat := false } 0 (chunks 16 64 vs)).fst.sat = false := ⟨sC, c0, 0, ⟨7, 5, 6, 0, 0, 5, 5, 0, 0, 0⟩, _, _, _, ⟨rfl, rfl⟩, by unfold Settled; decide +kernel, fun _ => rfl, by decide +kernel, by decide +kernel, by decide +kernel, by decide +kernel, by decide +kernel, rfl, rfl, rfl, by decide +kernel, by decide +kernel, by decide +kernel⟩

theorem test_meets_VectorReductions_3 : ∃ (mk : CayRef → VFields → Instr) (g : AFun) (s : Machine.State) (c : CayRef) (t : Nat) (f : VFields) (pa : Nat) (pd : Nat) (ff : FFmt), (mk, g) ∈ [(Instr.vexp2, AFun.exp2), (Instr.vlog2, AFun.log2), (Instr.vrcp, AFun.rcp), (Instr.vrsqrt, AFun.rsqrt), (Instr.vsqrt, AFun.sqrt)] ∧ Issues s c t ∧ Settled s c t [f.d, f.a, f.b, f.c, f.k] ∧ Vacant s c ∧ f.rsv = 0 ∧ f.rmode = 0 ∧ f.blk = 0 ∧ arithSrc f.sfmt.toNat = true ∧ arithDst f.dfmt.toNat = true ∧ fmtFloat f.dfmt.toNat = some ff ∧ s.lsOperand c.island (BitVec.toNat (((s.cay c).thr t).reg f.a)) (vecBytes f.sfmt.toNat) (vecBytes f.sfmt.toNat) false = some pa ∧ s.lsOperand c.island (BitVec.toNat (((s.cay c).thr t).reg f.d)) (vecBytes f.dfmt.toNat) (vecBytes f.dfmt.toNat) true = some pd := ⟨Instr.vsqrt, .sqrt, sC, c0, 0, ⟨7, 5, 0, 0, 0, 5, 5, 0, 0, 0⟩, _, _, _, by simp, ⟨rfl, rfl⟩, by unfold Settled; decide +kernel, fun _ => rfl, by decide +kernel, by decide +kernel, by decide +kernel, by decide +kernel, by decide +kernel, rfl, rfl, rfl⟩

theorem test_meets_VectorReductions_4 : ∃ (s : Machine.State) (c : CayRef) (t : Nat) (f : VFields) (pa : Nat) (pd : Nat), Issues s c t ∧ Settled s c t [f.d, f.a, f.b, f.c, f.k] ∧ Vacant s c ∧ f.rsv = 0 ∧ f.rmode.toNat < 2 ∧ f.blk = 0 ∧ arithSrc f.sfmt.toNat = true ∧ arithSrc f.dfmt.toNat = true ∧ s.lsOperand c.island (BitVec.toNat (((s.cay c).thr t).reg f.a)) (vecBytes f.sfmt.toNat) (vecBytes f.sfmt.toNat) false = some pa ∧ s.lsOperand c.island (BitVec.toNat (((s.cay c).thr t).reg f.d)) (vecBytes f.dfmt.toNat) (vecBytes f.dfmt.toNat) true = some pd := ⟨sC, c0, 0, ⟨7, 5, 0, 0, 0, 1, 5, 1, 0, 0⟩, _, _, ⟨rfl, rfl⟩, by unfold Settled; decide +kernel, fun _ => rfl, by decide +kernel, by decide +kernel, by decide +kernel, by decide +kernel, by decide +kernel, rfl, rfl⟩

theorem test_meets_GatherScatter_0 : ∃ (s : Machine.State) (c : CayRef) (t : Nat) (f : VFields) (pl : Nat) (pd : Nat) (k : Nat) (l : Nat) (dva : Nat), Issues s c t ∧ Settled s c t [f.d, f.a, f.b, f.k] ∧ Vacant s c ∧ cayOk c = true ∧ f.rsv = 0 ∧ f.dfmt.toNat ≤ 10 ∧ fmtBits f.dfmt.toNat ≠ 4 ∧ (s.task ((s.cay c).thr t).task).spec = false ∧ s.lsOperand c.island (BitVec.toNat (((s.cay c).thr t).reg f.a)) 256 256 false = some pl ∧ s.lsOperand c.island (BitVec.toNat (((s.cay c).thr t).reg f.d)) (vecBytes f.dfmt.toNat) (vecBytes f.dfmt.toNat) true = some pd ∧ gatherAddrs (s.cay c) f (vecArgs ((s.cay c).thr t) f) pl = [(l, dva)] ∧ dva % (fmtBits f.dfmt.toNat / 8) = 0 ∧ s.place ((s.cay c).thr t).task dva false = Place.hbm k ∧ stackOf k < 24 ∧ (s.ic c.island).lines.contains (lineOf k) = true ∧ s.poisoned k (fmtBits f.dfmt.toNat / 8) = false := ⟨{ sC with ics := [(0, { ICache.reset with lines := [0x4000] })] }, c0, 0, ⟨7, 5, 1, 0, 9, 5, 0, 0, 0, 0⟩, _, _, _, _, _, ⟨rfl, rfl⟩, by unfold Settled; decide +kernel, fun _ => rfl, by decide +kernel, by decide +kernel, by decide +kernel, by decide +kernel, by decide +kernel, rfl, rfl, rfl, by decide +kernel, rfl, by decide +kernel, by decide +kernel, by decide +kernel⟩

theorem test_meets_GatherScatter_1 : ∃ (s : Machine.State) (c : CayRef) (t : Nat) (f : VFields) (pl : Nat) (pa : Nat) (k : Nat) (l : Nat) (dva : Nat), Issues s c t ∧ Settled s c t [f.d, f.a, f.b, f.c, f.k] ∧ Vacant s c ∧ f.rsv = 0 ∧ f.dfmt.toNat ≤ 10 ∧ fmtBits f.dfmt.toNat ≠ 4 ∧ (s.task ((s.cay c).thr t).task).spec = false ∧ (s.task ((s.cay c).thr t).task).st ≠ TaskSt.ended ∧ (s.task ((s.cay c).thr t).task).status = 0 ∧ s.lsOperand c.island (BitVec.toNat (((s.cay c).thr t).reg f.d)) 256 256 false = some pl ∧ s.lsOperand c.island (BitVec.toNat (((s.cay c).thr t).reg f.a)) (vecBytes f.dfmt.toNat) (vecBytes f.dfmt.toNat) false = some pa ∧ gatherAddrs (s.cay c) f (vecArgs ((s.cay c).thr t) f) pl = [(l, dva)] ∧ dva % (fmtBits f.dfmt.toNat / 8) = 0 ∧ s.place ((s.cay c).thr t).task dva true = Place.hbm k := ⟨sC, c0, 0, ⟨5, 7, 1, 0, 9, 5, 0, 0, 0, 0⟩, _, _, _, _, _, ⟨rfl, rfl⟩, by unfold Settled; decide +kernel, fun _ => rfl, by decide +kernel, by decide +kernel, by decide +kernel, by decide +kernel, by decide +kernel, by decide +kernel, rfl, rfl, rfl, by decide +kernel, rfl⟩

theorem test_meets_ReservedFieldIllegal_0 : ∃ (i : Instr) (c : CayRef) (rsvZero : Bool) (s : Machine.State) (t : Nat), ((∃ f, rsvZero = (f.rsv == 0) ∧ i ∈ [Instr.add c f, Instr.sub c f, Instr.and c f, Instr.or c f, Instr.xor c f, Instr.shl c f, Instr.shr c f, Instr.sar c f, Instr.mul c f, Instr.slt c f, Instr.sltu c f, Instr.jr c f, Instr.tyld c f, Instr.tbar c f, Instr.tend c f, Instr.tdsc c f]) ∨ (∃ f, rsvZero = (f.rsv == 0) ∧ i ∈ [Instr.addi c f, Instr.andi c f, Instr.ori c f, Instr.shli c f, Instr.shri c f, Instr.lih c f, Instr.srd c f, Instr.jal c f, Instr.ld8 c f, Instr.ld16 c f, Instr.ld32 c f, Instr.ld64 c f, Instr.st16 c f, Instr.st32 c f, Instr.st64 c f, Instr.ldg32 c f, Instr.ldg64 c f, Instr.stg32 c f, Instr.stg64 c f, Instr.nwait c f, Instr.tfail c f]) ∨ (∃ f, rsvZero = (f.rsv == 0) ∧ i ∈ [Instr.beq c f, Instr.bne c f, Instr.blt c f, Instr.bge c f, Instr.bltu c f, Instr.bgeu c f]) ∨ (∃ f, rsvZero = (f.rsv == 0) ∧ i ∈ [Instr.vadd c f, Instr.vsub c f, Instr.vmul c f, Instr.vfma c f, Instr.vmin c f, Instr.vmax c f, Instr.vabs c f, Instr.vneg c f, Instr.vscl c f, Instr.vcmplt c f, Instr.vcmpeq c f, Instr.vsel c f, Instr.vmov c f, Instr.vexp2 c f, Instr.vlog2 c f, Instr.vrcp c f, Instr.vrsqrt c f, Instr.vsqrt c f, Instr.vcvt c f, Instr.vrsum c f, Instr.vrmax c f, Instr.vldg c f, Instr.vstg c f]) ∨ (∃ f, rsvZero = (f.rsv == 0) ∧ i = Instr.mcfg c f) ∨ (∃ f, rsvZero = (f.rsv == 0) ∧ i = Instr.mlds c f) ∨ (∃ f gap, rsvZero = (f.rsv == 0) ∧ i = Instr.miss c f gap) ∨ (∃ f, rsvZero = (f.rsv == 0) ∧ i = Instr.mseq c f) ∨ (∃ f, rsvZero = (f.rsv == 0) ∧ i = Instr.mfin c f) ∨ ∃ f, rsvZero = (f.rsv == 0) ∧ i = Instr.mdrn c f) ∧ rsvZero = false ∧ Issues s c t ∧ Unfinished s ((s.cay c).thr t).task := ⟨.mseq c0 ⟨0, 0, 0, 1⟩, c0, false, sC, 0, by simp, rfl, ⟨rfl, rfl⟩, ⟨by decide, rfl⟩⟩

theorem test_meets_ThreadsWaitAndEnd_0 : ∃ (s : Machine.State) (c : CayRef) (t : Nat) (w : Nat) (f : SFields), Issues s c t ∧ f.rsv = 0 ∧ w < 8 ∧ (w = t ∨ ((s.cay c).thr w).bound = true ∧ ((s.cay c).thr w).st = ThrSt.ready) ∧ (∀ (i : Nat), i < (w + 7 - t) % 8 → ¬(((s.cay c).thr ((t + 1 + i) % 8)).bound = true ∧ ((s.cay c).thr ((t + 1 + i) % 8)).st = ThrSt.ready)) := ⟨sC, c0, 0, 0, ⟨0, 0, 0, 0⟩, ⟨rfl, rfl⟩, by decide +kernel, by decide +kernel, by decide +kernel, by decide +kernel⟩

theorem test_meets_ThreadsWaitAndEnd_1 : ∃ (s : Machine.State) (c : CayRef) (t : Nat) (f : SFields), Issues s c t ∧ f.rsv = 0 := ⟨sC, c0, 0, ⟨0, 0, 0, 0⟩, ⟨rfl, rfl⟩, by decide +kernel⟩

theorem test_meets_ThreadsWaitAndEnd_2 : ∃ (s : Machine.State) (c : CayRef) (t : Nat) (f : IFields), Issues s c t ∧ Settled s c t [f.a] ∧ f.rsv = 0 ∧ (BitVec.toNat (((s.cay c).thr t).reg f.a) ≤ s.notif c.island (s.task ((s.cay c).thr t).task).ctx (f.imm.toNat % 16)) := ⟨{ sC with notifs := [(15, 0x40)] }, c0, 0, ⟨0, 1, 0, 15⟩, ⟨rfl, rfl⟩, by unfold Settled; decide +kernel, by decide +kernel, by decide +kernel⟩

theorem test_meets_ThreadsWaitAndEnd_3 : ∃ (s : Machine.State) (c : CayRef) (t : Nat) (f : IFields), Issues s c t ∧ Settled s c t [f.a] ∧ f.rsv = 0 ∧ (s.notif c.island (s.task ((s.cay c).thr t).task).ctx (f.imm.toNat % 16) < BitVec.toNat (((s.cay c).thr t).reg f.a)) := ⟨sC, c0, 0, ⟨0, 1, 0, 15⟩, ⟨rfl, rfl⟩, by unfold Settled; decide +kernel, by decide +kernel, by decide +kernel⟩

theorem test_meets_ThreadsWaitAndEnd_4 : ∃ (s : Machine.State) (c : CayRef) (t : Nat) (f : SFields), Issues s c t ∧ f.rsv = 0 := ⟨sC, c0, 0, ⟨0, 0, 0, 0⟩, ⟨rfl, rfl⟩, by decide +kernel⟩

theorem test_meets_ThreadsWaitAndEnd_5 : ∃ (s : Machine.State) (c : CayRef) (t : Nat) (f : SFields), Issues s c t ∧ f.rsv = 0 ∧ (s.task ((s.cay c).thr t).task).spec = true := ⟨sCt (fun t => { t with spec := true }), c0, 0, ⟨0, 0, 0, 0⟩, ⟨rfl, rfl⟩, by decide +kernel, by decide +kernel⟩

theorem test_meets_ThreadsWaitAndEnd_6 : ∃ (s : Machine.State) (c : CayRef) (t : Nat) (f : SFields), Issues s c t ∧ f.rsv = 0 ∧ (s.task ((s.cay c).thr t).task).spec = false ∧ Unfinished s ((s.cay c).thr t).task := ⟨sC, c0, 0, ⟨0, 0, 0, 0⟩, ⟨rfl, rfl⟩, by decide +kernel, by decide +kernel, ⟨by decide +kernel, by decide +kernel⟩⟩

theorem test_meets_ThreadsWaitAndEnd_7 : ∃ (s : Machine.State) (c : CayRef) (t : Nat) (f : IFields), Issues s c t ∧ f.rsv = 0 ∧ Unfinished s ((s.cay c).thr t).task := ⟨sC, c0, 0, ⟨0, 0, 0, 5⟩, ⟨rfl, rfl⟩, by decide +kernel, ⟨by decide +kernel, by decide +kernel⟩⟩

theorem test_meets_CopiesAndFences_0 : ∃ (s : Machine.State) (c : CayRef) (t : Nat) (f : CFields) (a : Nat) (d : CopyDesc), Issues s c t ∧ Settled s c t [f.a] ∧ f.rsvHi = 0 ∧ f.rsvMid = 0 ∧ f.rsvLo = 0 ∧ s.lsOperand c.island (BitVec.toNat (((s.cay c).thr t).reg f.a)) 32 32 false = some a ∧ (s.cay c).pendingRange (s.cay c).issue a 32 = false ∧ copyDesc ((s.cay c).lsRead a 32) = (d, true) ∧ s.copyCheck c ((s.cay c).thr t).task d true = 0 ∧ (s.cay c).copies.length < 64 := ⟨sCy (fun c => { c with ls := lsIn }), c0, 0, ⟨0, 5, 0, 0, 0, 0, 0⟩, _, dIn, ⟨rfl, rfl⟩, by unfold Settled; decide +kernel, by decide +kernel, by decide +kernel, by decide +kernel, rfl, by decide +kernel, by decide +kernel, by decide +kernel, by decide +kernel⟩

theorem test_meets_CopiesAndFences_1 : ∃ (s : Machine.State) (c : CayRef) (n : Nat) (j : CopyJob) (bs : List (BitVec 8)), (s.cay c).copyJob n = some j ∧ j.desc.dst = 0 ∧ s.copyMay c j = true ∧ (∀ (p : CopyPiece), p ∈ s.srcPieces c j → ∃ k, p.place = Place.hbm k ∧ s.poisoned k p.len = false) ∧ (j.desc.src = 0 → j.desc.kind ≠ 3 → (j.desc.extents (s.cay c)).fst.snd ≤ lsTop) ∧ s.copyBytes c j = some bs := ⟨sJob dIn, c0, 9, job dIn, List.replicate 64 0, by decide +kernel, by decide +kernel, by decide +kernel, by simp only [show (sJob dIn).srcPieces c0 (job dIn) = [⟨0x40, 64, .hbm 0x200040⟩] from by decide +kernel]; intro p hp; rw [List.mem_singleton.mp hp]; exact ⟨_, rfl, by decide +kernel⟩, by decide +kernel, by decide +kernel⟩

theorem test_meets_CopiesAndFences_2 : ∃ (s : Machine.State) (c : CayRef) (n : Nat) (j : CopyJob) (bs : List (BitVec 8)) (p : CopyPiece) (k : Nat), (s.cay c).copyJob n = some j ∧ j.desc.dst = 1 ∧ j.desc.src = 0 ∧ s.copyMay c j = true ∧ s.dstPieces j = [p] ∧ p.place = Place.hbm k ∧ (j.desc.kind ≠ 3 → (j.desc.extents (s.cay c)).fst.snd ≤ lsTop) ∧ (s.task j.task).spec = false ∧ s.copyBytes c j = some bs ∧ bs.length = p.len := ⟨sJob dOut, c0, 9, job dOut, List.replicate 64 0, ⟨0x80, 64, .hbm 0x200080⟩, 0x200080, by decide +kernel, by decide +kernel, by decide +kernel, by decide +kernel, by decide +kernel, by decide +kernel, by decide +kernel, by decide +kernel, by decide +kernel, by decide +kernel⟩

theorem test_meets_CopiesAndFences_3 : ∃ (s : Machine.State) (c : CayRef) (t : Nat) (f : CFields), Issues s c t ∧ f.rsvHi = 0 ∧ f.rsvMid = 0 ∧ f.rsvLo = 0 ∧ f.engine.toNat ≤ 5 ∧ (∀ (i : Nat), i < 16 → bit f.mask.toNat i = true → bit (s.task ((s.cay c).thr t).task).fences i = true) := ⟨sC, c0, 0, ⟨0, 0, 0, 0xFFFF, 1, 5, 0⟩, ⟨rfl, rfl⟩, by decide +kernel, by decide +kernel, by decide +kernel, by decide +kernel, by decide +kernel⟩

theorem test_meets_CopiesAndFences_4 : ∃ (s : Machine.State) (c : CayRef) (e : Nat) (n : Nat) (t : Nat) (k : Nat) (m : Nat), e < 6 ∧ (s.cay c).queue e = [{ num := n, thread := t, task := k, op := EngOp.fence m }] ∧ (∀ (x : Nat), x ≠ e → (s.cay c).queue x = []) ∧ (s.cay c).fenceBusy m n = false := ⟨sCy (fun c => { c with queues := [(5, [⟨3, 0, 1, .fence 8⟩])] }), c0, 5, 3, 0, 1, 8, by decide +kernel, by decide +kernel, by intro x hx; show (Tbl.get queueDef [(5, _)] x) = []; simp [Tbl.get, queueDef, Ne.symm hx], by decide +kernel⟩

theorem test_meets_CopiesAndFences_5 : ∃ (s : Machine.State) (c : CayRef) (n : Nat) (j : CopyJob) (p : CopyPiece) (o : Nat), (s.cay c).copyJob n = some j ∧ s.copyMay c j = true ∧ Unfinished s j.task ∧ firstBad (s.srcPieces c j ++ s.dstPieces j) = some p ∧ p.place = Place.aperture o := ⟨sJob dBad, c0, 9, job dBad, ⟨0x400000, 64, .aperture 0⟩, 0, by decide +kernel, by decide +kernel, ⟨by decide +kernel, by decide +kernel⟩, by decide +kernel, by decide +kernel⟩

theorem test_meets_ArraysConfigured_0 : ∃ (s : Machine.State) (c : CayRef) (t : Nat) (f : McfgFields), Issues s c t ∧ Vacant s c ∧ f.rsv = 0 ∧ (f.shape = 0 ∨ f.array = 0) ∧ f.rescale ≠ 0 ∧ f.aFmt.toNat < 9 ∧ f.bFmt.toNat < 9 ∧ pairOk f.aFmt.toNat f.bFmt.toNat = true ∧ (∀ (m : Nat), m ∈ gangOf f.shape.toNat f.array.toNat → s.arrDisabled c m = false ∧ ((s.cay c).arr m).task = some ((s.cay c).thr t).task) ∧ 17 * stackWidth f.shape.toNat ≤ (s.task ((s.cay c).thr t).task).slots f.array.toNat := ⟨sArr [] id, c0, 0, ⟨0, 0, 5, 5, 1, 0⟩, ⟨rfl, rfl⟩, fun _ => rfl, by decide +kernel, by decide +kernel, by decide +kernel, by decide +kernel, by decide +kernel, by decide +kernel, by decide +kernel, by decide +kernel⟩

theorem test_meets_ArraysConfigured_1 : ∃ (s : Machine.State) (c : CayRef) (t : Nat) (f : MldsFields) (g : ArrCfg) (a : Nat), Issues s c t ∧ Settled s c t [f.a] ∧ Vacant s c ∧ f.rsv = 0 ∧ ((s.cay c).arr f.array.toNat).cfg = some g ∧ s.lsOperand c.island (BitVec.toNat (((s.cay c).thr t).reg f.a)) (tileBytes g) 32 false = some a := ⟨sArr [] id, c0, 0, ⟨0, 1, 5, 0⟩, ⟨0, 0, 5, 5, 32⟩, 0x1000, ⟨rfl, rfl⟩, by unfold Settled; decide +kernel, fun _ => rfl, by decide +kernel, by decide +kernel, by decide +kernel⟩

theorem test_meets_MatrixResults_0 : ∃ (s : Machine.State) (c : CayRef) (t : Nat) (f : MissFields) (_gap : Nat) (g : ArrCfg) (a : Nat) (x : Machine.Task) (v : Nat) (n : Nat) (bytes : Nat) (p : IssueP), Issues s c t ∧ Settled s c t [f.a] ∧ Vacant s c ∧ f.rsv = 0 ∧ x = s.task ((s.cay c).thr t).task ∧ v = BitVec.toNat (((s.cay c).thr t).reg f.a) ∧ ((s.cay c).arr f.array.toNat).task = some ((s.cay c).thr t).task ∧ ((s.cay c).arr f.array.toNat).cfg = some g ∧ g.shape = 0 ∧ (g.aFmt ≠ 8 ∨ bits v 55 52 = 0) ∧ f.firstg = 1 ∧ f.endg = 0 ∧ f.endb = 0 ∧ x.mask = none ∧ ((if doubleRate g.aFmt g.bFmt = true then 32 else 16) ≤ g.g) ∧ f.gslot.toNat + 18 ≤ x.slots f.array.toNat ∧ (n = if doubleRate g.aFmt g.bFmt = true then 32 else 16) ∧ bytes = n * fmtBits g.aFmt / 8 ∧ s.lsOperand c.island v bytes (max 1 bytes) false = some a ∧ p = { bank := f.bank.toNat, axis := f.axis.toNat, firstg := true, endg := false, firstb := f.firstb == 1, endb := false, msk := f.msk == 1, gslot := f.gslot.toNat, bslot := f.bslot.toNat, addr := v, scale := bits v 31 24, zp := bits v 55 48, zr := bit v 56, w := bits v 47 32 } := ⟨sArr (lsWords [(0x1000, 0x3F803F80), (0x1004, 0x40004000)]) (fun a => { a with bank0 := { a.bank0 with p0 := [(0, 0x3F80)], col := [(0, 127)] } }), c0, 0, ⟨0, 0, 0, 1, 0, 1, 0, 0, 3, 0, 5, 0⟩, 0, ⟨0, 0, 5, 5, 32⟩, 0x1000, _, _, _, _, _, ⟨rfl, rfl⟩, by unfold Settled; decide +kernel, fun _ => rfl, by decide +kernel, rfl, rfl, by decide +kernel, by decide +kernel, by decide +kernel, by decide +kernel, by decide +kernel, by decide +kernel, by decide +kernel, by decide +kernel, by decide +kernel, by decide +kernel, rfl, rfl, by decide +kernel, rfl⟩

theorem test_meets_MatrixResults_1 : ∃ (s : Machine.State) (c : CayRef) (t : Nat) (f : MseqFields) (g : ArrCfg) (a : Nat) (d : SeqDesc) (y : Machine.State) (q : QEntry), Issues s c t ∧ Settled s c t [f.a, f.b] ∧ Vacant s c ∧ f.rsv = 0 ∧ ((s.cay c).arr f.array.toNat).task = some ((s.cay c).thr t).task ∧ ((s.cay c).arr f.array.toNat).cfg = some g ∧ (g.shape = 0 ∨ f.array = 0) ∧ s.lsOperand c.island (BitVec.toNat (((s.cay c).thr t).reg f.a)) 32 32 false = some a ∧ seqDesc ((s.cay c).lsRead a 32) = (d, true) ∧ (fmtUnsigned g.aFmt = true → d.scaleBase % 4 = 0) ∧ ((axisDepth g.shape d.axis * if doubleRate g.aFmt g.bFmt = true then 2 else 1) ≤ g.g) ∧ y = s.entered c t f.array.toNat (EngOp.mseq f (BitVec.toNat (((s.cay c).thr t).reg f.a)) (BitVec.toNat (((s.cay c).thr t).reg f.b))) ∧ q = s.queuedEntry c t (EngOp.mseq f (BitVec.toNat (((s.cay c).thr t).reg f.a)) (BitVec.toNat (((s.cay c).thr t).reg f.b))) := ⟨sArr (lsWords [(0x1000, 0x10001), (0x1004, 0x2000), (0x1010, 0x2400)]) id, c0, 0, ⟨0, 5, 0, 0⟩, ⟨0, 0, 5, 5, 32⟩, 0x1000, (seqDesc (leBytes 4 0x10001 ++ leBytes 4 0x2000 ++ leBytes 8 0 ++ leBytes 4 0x2400 ++ leBytes 12 0)).1, _, _, ⟨rfl, rfl⟩, by unfold Settled; decide +kernel, fun _ => rfl, by decide +kernel, by decide +kernel, by decide +kernel, by decide +kernel, by decide +kernel, by decide +kernel, by decide +kernel, by decide +kernel, rfl, rfl⟩

theorem test_meets_MatrixResults_2 : ∃ (s : Machine.State) (c : CayRef) (t : Nat) (f : MfinFields) (g : ArrCfg) (e : StackEnt) (x : Machine.Task) (w : Nat), Issues s c t ∧ Vacant s c ∧ f.rsv = 0 ∧ x = s.task ((s.cay c).thr t).task ∧ ((s.cay c).arr f.array.toNat).task = some ((s.cay c).thr t).task ∧ ((s.cay c).arr f.array.toNat).cfg = some g ∧ (g.shape = 0 ∨ f.array = 0) ∧ ((s.cay c).arr f.array.toNat).stack = [e] ∧ w = stackWidth g.shape ∧ f.slot.toNat % (e.lanes / 16) = 0 ∧ f.slot.toNat + e.lanes / 16 ≤ x.slots f.array.toNat - 17 * w := ⟨sArr [] (fun a => { a with stack := [⟨1, 0, 16⟩] }), c0, 0, ⟨0, 3, 0⟩, ⟨0, 0, 5, 5, 32⟩, ⟨1, 0, 16⟩, _, _, ⟨rfl, rfl⟩, fun _ => rfl, by decide +kernel, rfl, by decide +kernel, by decide +kernel, by decide +kernel, by decide +kernel, rfl, by decide +kernel, by decide +kernel⟩

theorem test_meets_MatrixResults_3 : ∃ (s : Machine.State) (c : CayRef) (t : Nat) (f : MdrnFields) (g : ArrCfg) (x : Machine.Task) (ca : Nat) (da : Nat) (b : Nat) (n : Nat) (bytes : Nat) (base : Nat) (k : ConvBlock), Issues s c t ∧ Settled s c t [f.d, f.a, f.b] ∧ Vacant s c ∧ f.rsv = 0 ∧ x = s.task ((s.cay c).thr t).task ∧ b = BitVec.toNat (((s.cay c).thr t).reg f.b) ∧ ((s.cay c).arr f.array.toNat).task = some ((s.cay c).thr t).task ∧ ((s.cay c).arr f.array.toNat).cfg = some g ∧ (g.shape = 0 ∨ f.array = 0) ∧ n = f.countM1.toNat + 1 ∧ f.slot.toNat + n ≤ x.slots f.array.toNat - 17 * stackWidth g.shape ∧ s.lsOperand c.island (BitVec.toNat (((s.cay c).thr t).reg f.a)) 32 32 false = some ca ∧ convBlock ((s.cay c).lsRead ca 32) = (k, 0) ∧ k.blk = 0 ∧ k.stats = false ∧ bytes = 16 * n * fmtBits k.fmt / 8 ∧ s.lsOperand c.island (BitVec.toNat (((s.cay c).thr t).reg f.d)) bytes (max 1 (fmtBits k.fmt / 8)) true = some da ∧ base = (x.region f.array.toNat).fst := ⟨sArr (lsWords [(0x1000, 0x500), (0x1004, 1), (0x100C, 0x3F800000), (0x1010, 0x3F800000), (0x10000, 0x3FC00000)]) id, c0, 0, ⟨0, 0, 1, 7, 5, 6, 0⟩, ⟨0, 0, 5, 5, 32⟩, _, 0x1000, 0x1200, _, _, _, _, (convBlock (leBytes 4 0x500 ++ leBytes 4 1 ++ leBytes 4 0 ++ leBytes 4 0x3F800000 ++ leBytes 4 0x3F800000 ++ leBytes 12 0)).1, ⟨rfl, rfl⟩, by unfold Settled; decide +kernel, fun _ => rfl, by decide +kernel, rfl, rfl, by decide +kernel, by decide +kernel, by decide +kernel, rfl, by decide +kernel, by decide +kernel, by decide +kernel, by decide +kernel, by decide +kernel, rfl, by decide +kernel, rfl⟩

theorem test_meets_CayEvents_0 : ∃ (s : Machine.State) (c : CayRef) (t : Nat) (w : Nat), (s.cay c).running = some t ∧ w < 8 ∧ w ≠ t ∧ ((s.cay c).thr w).bound = true ∧ ((s.cay c).thr w).st = ThrSt.ready ∧ (∀ (i : Nat), i < (w + 7 - t) % 8 → ¬(((s.cay c).thr ((t + 1 + i) % 8)).bound = true ∧ ((s.cay c).thr ((t + 1 + i) % 8)).st = ThrSt.ready)) := ⟨sCy (fun c => { c with threads := [(0, thr1), (2, { thr1 with st := .ready, pc := 16 })] }), c0, 0, 2, by decide +kernel, by decide +kernel, by decide +kernel, by decide +kernel, by decide +kernel, by decide +kernel⟩

theorem test_meets_CayEvents_1 : ∃ (s : Machine.State) (c : CayRef) (t : Nat) (n : Nat) (l : Nat) (k : Nat) (dva : Nat) (d : BitVec 5) (bs : List (BitVec 8)), ((s.cay c).thr t).wait = Wait.miss [] [(lineOf k, bs)] (MissOp.ldg d n { lane := l, src := Src.hbm k, dva := dva }) ∧ ((s.cay c).thr t).bound = true ∧ ((s.cay c).thr t).st = ThrSt.blocked ∧ s.poisoned k n = false ∧ (s.task ((s.cay c).thr t).task).spec = false := ⟨sCy (fun c => { c with threads := [(0, { thr1 with st := .blocked, wait := .miss [] [(lineOf 0x200040, List.replicate 128 7)] (.ldg 4 8 ⟨0, .hbm 0x200040, 0x40⟩) })] }), c0, 0, 8, 0, 0x200040, 0x40, 4, List.replicate 128 7, by decide +kernel, by decide +kernel, by decide +kernel, by decide +kernel, by decide +kernel⟩

theorem test_meets_CayEvents_2 : ∃ (s : Machine.State) (c : CayRef), (s.cay c).clock = 2 ∧ (s.cay c).idle = true := ⟨{ s0 with cays := [(0, { Cay.reset with clock := 2 })] }, c0, by decide +kernel, by decide +kernel⟩

theorem test_meets_CayEvents_3 : ∃ (s : Machine.State) (c : CayRef), (s.cay c).clock = 1 := ⟨{ s0 with cays := [(0, { Cay.reset with clock := 1 })] }, c0, by decide +kernel⟩

theorem test_meets_CayEvents_4 : ∃ (s : Machine.State) (c : CayRef) (sel : ShadowSel) (b : Nat), (s.cay c).shadow = some sel ∧ s.shadowArray c sel.array = some b ∧ ((s.cay c).arr b).task = none := ⟨{ s0 with cays := [(0, { Cay.reset with shadow := some ⟨0, 0, 5, 5, [], []⟩ })] }, c0, ⟨0, 0, 5, 5, [], []⟩, 1, by decide +kernel, by decide +kernel, by decide +kernel⟩

theorem test_meets_CayEvents_5 : ∃ (s : Machine.State) (c : CayRef) (sel : ShadowSel), (s.cay c).shadow = some sel := ⟨{ s0 with cays := [(0, { Cay.reset with shadow := some ⟨0, 0, 5, 5, [], []⟩ })] }, c0, ⟨0, 0, 5, 5, [], []⟩, by decide +kernel⟩

theorem test_meets_TasksBindAndEnd_0 : ∃ (s : Machine.State) (c : CayRef) (k : Nat) (x : Machine.Task) (code : List (BitVec 8)) (data : List (BitVec 8)) (args : List (BitVec 8)), s.mayBind c k = true ∧ x = s.task k ∧ s.dvaRead x.ctx (x.kernel + x.hdr.codeOff) x.hdr.codeLen (ReadOwner.op 2 (k * 8192 + cayKey c)) false = DvaRead.ok code ∧ s.dvaRead x.ctx (x.kernel + x.hdr.dataOff) x.hdr.dataLen (ReadOwner.op 2 (k * 8192 + cayKey c)) false = DvaRead.ok data ∧ s.dvaRead x.ctx x.args x.argsLen (ReadOwner.op 2 (k * 8192 + cayKey c)) false = DvaRead.ok args := ⟨{ flds sT [(.islStatReady, 0, 1)] with tasks := [(1, { task1 with served := [0], bound := [], live := [], kernel := 0x1000, fences := 3, args := 0x2000, argsLen := 16, argsLs := 0x100, hdr := { KHdr.reset with latency := 4, threads := 2, codeLen := 16, codeOff := 0x40, dataOff := 0x80, dataLen := 32, dataLs := 0x200, entry := 8 } })] }, c0, 1, _, List.replicate 16 0, List.replicate 32 0, List.replicate 16 0, by decide +kernel, rfl, by decide +kernel, by decide +kernel, by decide +kernel⟩

theorem test_meets_TasksBindAndEnd_1 : ∃ (s : Machine.State) (k : Nat), s.mayEnd k = true := ⟨{ sT with tasks := [(1, { task1 with st := .running, live := [1], bound := [1], status := 0 })] }, 1, by decide +kernel⟩

theorem test_meets_IslandCaches_0 : ∃ (s : Machine.State) (i : Nat) (l : Nat) (f : Fetch), (List.find? (fun f => f.line == l && f.demand) (s.ic i).fetches = some f) ∧ f.stale = false ∧ (s.ic i).lines.contains l = false ∧ ((List.filter (fun x => icSetOf x == icSetOf l) (s.ic i).lines).length + (s.ic i).shadowIn (icSetOf l) < 16) := ⟨{ s0 with ics := [(0, { ICache.reset with fetches := [⟨5, true, false, [(0, 0)]⟩] })] }, 0, 5, ⟨5, true, false, [(0, 0)]⟩, by decide +kernel, by decide +kernel, by decide +kernel, by decide +kernel⟩

theorem test_meets_IslandCaches_1 : ∃ (s : Machine.State) (i : Nat) (l : Nat) (f : Fetch), (List.find? (fun f => f.line == l && f.demand) (s.ic i).fetches = some f) ∧ f.stale = true := ⟨{ s0 with ics := [(0, { ICache.reset with fetches := [⟨5, true, true, [(0, 0)]⟩] })] }, 0, 5, ⟨5, true, true, [(0, 0)]⟩, by decide +kernel, by decide +kernel⟩

theorem test_meets_IslandCaches_2 : ∃ (s : Machine.State) (i : Nat) (l : Nat) (f : Fetch), (List.find? (fun f => f.line == l && !f.demand) (s.ic i).fetches = some f) := ⟨{ s0 with ics := [(23, { ICache.reset with fetches := [⟨5, false, false, []⟩] })] }, 23, 5, ⟨5, false, false, []⟩, by decide +kernel⟩

theorem test_meets_IslandCaches_3 : ∃ (s : Machine.State) (i : Nat) (n : Nat) (t : Tracker) (d : Int) (k : Nat), (s.ic i).trackers[n]? = some t ∧ t.stride = some d ∧ s.fld Fld.icCtlPfEn i ≠ 0 ∧ (↑t.next - ↑t.latest) / d ≤ ↑(s.fld Fld.icCtlRaDepth i) ∧ (s.walk t.ctx t.next).dest = Trans.hbm k ∧ (s.walk t.ctx t.next).suspect = false ∧ (t.next + (s.walk t.ctx t.next).left = t.latest + (s.walk t.ctx t.latest).left ∨ (s.walk t.ctx t.next).pf = true) ∧ (s.ic i).lines.contains (lineOf k) = false ∧ (s.ic i).buffer.contains (lineOf k) = false ∧ (((s.ic i).fetches.any fun f => f.line == lineOf k) = false) := ⟨{ flds sT [(.icCtlPfEn, 0, 1), (.icCtlRaDepth, 0, 4)] with ics := [(0, { ICache.reset with trackers := [⟨0, 0, 0, [0x80], some 128, 0x80, 0x100, false⟩] })] }, 0, 0, ⟨0, 0, 0, [0x80], some 128, 0x80, 0x100, false⟩, 128, 0x200100, by decide +kernel, by decide +kernel, by decide +kernel, by decide +kernel, by decide +kernel, by decide +kernel, by decide +kernel, by decide +kernel, by decide +kernel, by decide +kernel⟩

theorem test_meets_IslandCaches_4 : ∃ (s : Machine.State) (i : Nat) (n : Nat) (t : Tracker) (d : Int) (cause : Nat), (s.ic i).trackers[n]? = some t ∧ t.stride = some d ∧ s.fld Fld.icCtlPfEn i ≠ 0 ∧ (↑t.next - ↑t.latest) / d ≤ ↑(s.fld Fld.icCtlRaDepth i) ∧ (s.walk t.ctx t.next).dest = Trans.fault cause := ⟨{ flds sT [(.icCtlPfEn, 0, 1), (.icCtlRaDepth, 0, 4)] with ics := [(0, { ICache.reset with trackers := [⟨0, 0, 0, [0x80], some 128, 0x600000, 0x600080, false⟩] })] }, 0, 0, ⟨0, 0, 0, [0x80], some 128, 0x600000, 0x600080, false⟩, 128, ((sT.walk 0 0x600080).dest.rec (fun _ => 0) (fun _ => 0) (fun _ => 0) (fun c => c)), by decide +kernel, by decide +kernel, by decide +kernel, by decide +kernel, by decide +kernel⟩

theorem test_meets_IslandCaches_5 : ∃ (_s : Machine.State) (_w : Nat) (a : Nat) (bs : List (BitVec 8)), bs ≠ [] ∧ hbmExists a = true ∧ hbmExists (a + bs.length - 1) = true ∧ stackOf a = stackOf (a + bs.length - 1) := ⟨{ s0 with ics := [(3, { ICache.reset with lines := [lineOf (23 * 2 ^ 36)] })] }, 24, 23 * 2 ^ 36, [1, 2], by decide +kernel, by decide +kernel, by decide +kernel, by decide +kernel⟩

theorem test_meets_IslandCaches_6 : ∃ (_s : Machine.State) (_w : Nat) (a : Nat) (bs : List (BitVec 8)), bs ≠ [] ∧ (hbmExists a = false ∨ hbmExists (a + bs.length - 1) = false ∨ stackOf a ≠ stackOf (a + bs.length - 1)) := ⟨s0, 0, 2 ^ 36 - 1, [1, 2], by decide +kernel, by decide +kernel⟩

theorem test_meets_SpeculativeTasks_0 : ∃ (s : Machine.State) (k : Nat) (n : Nat), (s.task k).spec = true ∧ (s.task k).st = TaskSt.ended ∧ (s.task k).status = 0 ∧ (s.task k).applied = false ∧ (s.task k).origin = Origin.serving n ∧ (s.task k).sums = [] ∧ (s.task k).chans = [] := ⟨specEnd 0, 5, 0, by decide +kernel, by decide +kernel, by decide +kernel, by decide +kernel, by decide +kernel, by decide +kernel, by decide +kernel⟩

theorem test_meets_SpeculativeTasks_1 : ∃ (s : Machine.State) (k : Nat), (s.task k).spec = true ∧ (s.task k).st = TaskSt.ended ∧ (s.task k).applied = false ∧ (s.task k).status ≠ 0 := ⟨specEnd 8, 5, by decide +kernel, by decide +kernel, by decide +kernel, by decide +kernel⟩

theorem test_meets_SpeculativeTasks_2 : ∃ (s : Machine.State) (i : Nat) (w : Nat) (v : Nat), s.lastHolder i w = some v ∧ (s.task w).spec = true ∧ s.wantsShadow i w = true ∧ (∀ (k : Nat), k ∈ inIsland i (s.task w).live → Vacant s (cayOfKey k)) := ⟨{ sC with tasks := [(1, { task1 with spec := true }), (2, { task1 with spec := true, order := 4, live := [], bound := [] })], cays := [(0, { cay1 with threads := [(0, { thr1 with st := .blocked, wait := .shadow })] })], ics := [(0, { ICache.reset with shadow := [⟨2, 5, []⟩] })] }, 0, 1, 2, by decide +kernel, by decide +kernel, by decide +kernel, by intro k hk; rw [List.mem_singleton.mp (show k ∈ [0] from hk)]; exact fun _ => rfl⟩

theorem test_meets_LandingWindows_0 : ∃ (s : Machine.State) (ctx : Nat) (tag : Nat) (c : Nat) (q : Nat) (data : List (BitVec 8)) (e : Entry), c < 64 ∧ q < 16 ∧ s.notReady = false ∧ data.length = 128 ∧ s.ctxOn ctx = true ∧ (ctx = 0 ∨ ctx = c) ∧ e = mkEntry c q data s.ptime s.freeSlot [(tag, 0)] ∧ s.astat e = 0 ∧ e.names = none := ⟨sE [], 0, 5, 63, 15, raw 1 9 0 [], _, by decide +kernel, by decide +kernel, by decide +kernel, by decide +kernel, by decide +kernel, by decide +kernel, rfl, by decide +kernel, by decide +kernel⟩

theorem test_meets_LandingWindows_1 : ∃ (s : Machine.State) (ctx : Nat) (tag : Nat) (c : Nat) (q : Nat) (data : List (BitVec 8)) (e : Entry) (x : Entry), c < 64 ∧ q < 16 ∧ s.notReady = false ∧ data.length = 128 ∧ s.ctxOn ctx = true ∧ (ctx = 0 ∨ ctx = c) ∧ e = mkEntry c q data s.ptime s.freeSlot [(tag, 0)] ∧ s.entry c q e.seq = some x ∧ x.raw = data ∧ x.durable = false := ⟨{ sE [] with entries := [mkEntry 63 15 (raw 1 9 0 []) 0 0 []] }, 63, 5, 63, 15, raw 1 9 0 [], _, mkEntry 63 15 (raw 1 9 0 []) 0 0 [], by decide +kernel, by decide +kernel, by decide +kernel, by decide +kernel, by decide +kernel, by decide +kernel, rfl, by decide +kernel, by decide +kernel, by decide +kernel⟩

theorem test_meets_LandingWindows_2 : ∃ (s : Machine.State) (_ctx : Nat) (_tag : Nat) (c : Nat) (q : Nat) (_data : List (BitVec 8)), c < 64 ∧ q < 16 ∧ s.notReady = true := ⟨s0, 0, 5, 63, 15, raw 1 9 0 [], by decide +kernel, by decide +kernel, by decide +kernel⟩

theorem test_meets_LandingWindows_3 : ∃ (s : Machine.State) (c : Nat) (q : Nat) (n : Nat) (tag : Nat) (a : Nat) (e : Entry) (rest : List (Nat × Nat)), s.entry c q n = some e ∧ e.owed = (tag, a) :: rest ∧ e.durable = true := ⟨sE [{ ent 1 9 0 [] with owed := [(7, 0), (8, 1)] }], 0, 2, 1, 7, 0, { ent 1 9 0 [] with owed := [(7, 0), (8, 1)] }, [(8, 1)], by decide +kernel, by decide +kernel, by decide +kernel⟩

theorem test_meets_RecordsStart_0 : ∃ (s : Machine.State) (c : Nat) (q : Nat) (n : Nat) (e : Entry) (d : Nat × Nat), s.entry c q n = some e ∧ e.st = ESt.accepted ∧ e.durable = true ∧ s.ctxOn c = true ∧ s.run = RunSt.ready ∧ s.fld Fld.jnlStatRecovering 0 = 0 ∧ s.orderOk e = true ∧ e.point = none ∧ ((s.groups.any fun g => e.grp == some g.num && g.decision == some false) = false) ∧ s.failedDep e = some d := ⟨sE [{ ent 1 9 0 [] with st := .committed, status := 0x12 }, ent 2 9 0x208 [(0x20, 8, 1)]], 0, 2, 2, ent 2 9 0x208 [(0x20, 8, 1)], (2, 1), by decide +kernel, by decide +kernel, by decide +kernel, by decide +kernel, by decide +kernel, by decide +kernel, by decide +kernel, by decide +kernel, by decide +kernel, by decide +kernel⟩

theorem test_meets_RecordsStart_1 : ∃ (s : Machine.State) (c : Nat) (q : Nat) (n : Nat) (e : Entry), s.entry c q n = some e ∧ e.st = ESt.accepted ∧ e.durable = true ∧ s.ctxOn c = true ∧ s.run = RunSt.ready ∧ s.fld Fld.jnlStatRecovering 0 = 0 ∧ s.orderOk e = true ∧ e.point = none ∧ ((s.groups.any fun g => e.grp == some g.num && g.decision == some false) = false) ∧ s.failedDep e = none ∧ e.admitted = true := ⟨sE [{ ent 1 9 0 [] with admitted := true }], 0, 2, 1, { ent 1 9 0 [] with admitted := true }, by decide +kernel, by decide +kernel, by decide +kernel, by decide +kernel, by decide +kernel, by decide +kernel, by decide +kernel, by decide +kernel, by decide +kernel, by decide +kernel, by decide +kernel⟩

theorem test_meets_RecordsStart_2 : ∃ (s : Machine.State) (c : Nat) (q : Nat) (n : Nat) (e : Entry), s.entry c q n = some e ∧ e.ripe 9 = true ∧ s.earlierDone e = true := ⟨sE [{ ent 1 9 0 [] with st := .started }], 0, 2, 1, { ent 1 9 0 [] with st := .started }, by decide +kernel, by decide +kernel, by decide +kernel⟩

theorem test_meets_RecordsStart_3 : ∃ (s : Machine.State) (c : Nat) (q : Nat) (n : Nat) (g : Nat) (e : Entry), s.entry c q n = some e ∧ e.ripe 8 = true ∧ e.grp = some g ∧ s.allReached g (e.u 52 4) = true := ⟨sE [{ ent 1 9 0 [] with grp := some 4, point := some (0, 0) }, { ent 2 8 0 [(0x30, 4, 7), (0x34, 4, 1)] with st := .started, grp := some 4 }], 0, 2, 2, 4, { ent 2 8 0 [(0x30, 4, 7), (0x34, 4, 1)] with st := .started, grp := some 4 }, by decide +kernel, by decide +kernel, by decide +kernel, by decide +kernel⟩

theorem test_meets_RecordsStart_4 : ∃ (s : Machine.State) (c : Nat) (q : Nat) (n : Nat) (k : Nat) (e : Entry) (v : Machine.State), s.entry c q n = some e ∧ e.ripe 1 = true ∧ s.placeTask (mkTask (List.drop 48 e.raw) c q n Origin.record e.spec e.failInvalid) = PlaceRes.ok v k := ⟨sTask, 0, 2, 1, (placed (sTask.placeTask (mkTask (taskEnt.raw.drop 48) 0 2 1 .record taskEnt.spec taskEnt.failInvalid))).2, taskEnt, (placed (sTask.placeTask (mkTask (taskEnt.raw.drop 48) 0 2 1 .record taskEnt.spec taskEnt.failInvalid))).1, by decide +kernel, by decide +kernel, placed_eq _ (by decide +kernel)⟩

theorem test_meets_RecordsStart_5 : ∃ (s : Machine.State) (c : Nat) (q : Nat) (n : Nat) (e : Entry) (d : CopyDesc), s.entry c q n = some e ∧ e.ripe 2 = true ∧ s.islandReady (e.u 80 4) = true ∧ d = (copyDesc (List.take 32 (List.drop 48 e.raw))).fst ∧ recCheck d ≠ 0 := ⟨sE [{ ent 1 2 0 [(0x30, 4, 0x35000000), (0x34, 4, 33), (0x46, 2, 0), (0x48, 8, 0x80)] with st := .started }], 0, 2, 1, { ent 1 2 0 [(0x30, 4, 0x35000000), (0x34, 4, 33), (0x46, 2, 0), (0x48, 8, 0x80)] with st := .started }, _, by decide +kernel, by decide +kernel, by decide +kernel, rfl, by decide +kernel⟩

theorem test_meets_RecordsStart_6 : ∃ (s : Machine.State) (c : Nat) (q : Nat) (n : Nat) (e : Entry) (d : CopyDesc) (k : Nat), s.entry c q n = some e ∧ e.ripe 2 = true ∧ s.islandReady (e.u 80 4) = true ∧ d = (copyDesc (List.take 32 (List.drop 48 e.raw))).fst ∧ recCheck d = 0 ∧ d.kind = 3 ∧ d.dst = 1 ∧ d.rows = 1 ∧ d.dstAddr % 2 ^ 16 + d.rowBytes ≤ 2 ^ 16 ∧ s.placeCtx c false d.dstAddr true = Place.hbm k := ⟨sE [{ ent 1 2 0 [(0x30, 4, 0x35000000), (0x34, 4, 64), (0x46, 2, 0), (0x48, 8, 0x80)] with st := .started }], 0, 2, 1, { ent 1 2 0 [(0x30, 4, 0x35000000), (0x34, 4, 64), (0x46, 2, 0), (0x48, 8, 0x80)] with st := .started }, _, 0x200080, by decide +kernel, by decide +kernel, by decide +kernel, rfl, by decide +kernel, by decide +kernel, by decide +kernel, by decide +kernel, by decide +kernel, by decide +kernel⟩

theorem test_meets_RecordsStart_7 : ∃ (s : Machine.State) (c : Nat) (q : Nat) (n : Nat) (e : Entry), s.entry c q n = some e ∧ e.ripe 10 = true := ⟨sE [{ ent 1 10 0 [(0x30, 8, 1), (0x38, 4, 0x05000)] with st := .started }], 0, 2, 1, { ent 1 10 0 [(0x30, 8, 1), (0x38, 4, 0x05000)] with st := .started }, by decide +kernel, by decide +kernel⟩

theorem test_meets_RecordsComplete_0 : ∃ (s : Machine.State) (c : Nat) (q : Nat) (n : Nat) (st : Nat) (d : Nat) (e : Entry), s.entry c q n = some e ∧ e.point = some (st, d) ∧ e.done = false ∧ s.earlierDone e = true ∧ s.notReady = false ∧ e.grp = none ∧ e.kind ≠ 10 ∧ s.recordTasks e = [] ∧ e.eclass = 0 := ⟨sE [{ ent 1 9 0 [] with st := .started, point := some (0, 0) }], 0, 2, 1, 0, 0, { ent 1 9 0 [] with st := .started, point := some (0, 0) }, by decide +kernel, by decide +kernel, by decide +kernel, by decide +kernel, by decide +kernel, by decide +kernel, by decide +kernel, by decide +kernel, by decide +kernel⟩

theorem test_meets_RecordsComplete_1 : ∃ (s : Machine.State) (c : Nat) (q : Nat) (n : Nat) (e : Entry), s.entry c q n = some e ∧ e.done = true ∧ e.durable = true ∧ e.written = false ∧ e.rew = false ∧ s.earlierWritten e = true ∧ s.run = RunSt.ready ∧ s.ringSpace c q n = true := ⟨sE [{ ent 1 9 0 [] with st := .committed }], 0, 2, 1, { ent 1 9 0 [] with st := .committed }, by decide +kernel, by decide +kernel, by decide +kernel, by decide +kernel, by decide +kernel, by decide +kernel, by decide +kernel, by decide +kernel⟩

theorem test_meets_RecordsComplete_2 : ∃ (s : Machine.State) (c : Nat) (q : Nat) (n : Nat) (e : Entry), s.entry c q n = some e ∧ e.done = true ∧ e.durable = true ∧ e.written = false ∧ e.rew = false ∧ s.earlierWritten e = true ∧ s.run = RunSt.ready ∧ s.ringSpace c q n = false ∧ e.waited = false := ⟨{ flds (sE []) [(.cqCtlLog2N, 2, 0)] with entries := [{ ent 2 9 0 [] with st := .committed }] }, 0, 2, 2, { ent 2 9 0 [] with st := .committed }, by decide +kernel, by decide +kernel, by decide +kernel, by decide +kernel, by decide +kernel, by decide +kernel, by decide +kernel, by decide +kernel, by decide +kernel⟩

theorem test_meets_RecordsComplete_3 : ∃ (s : Machine.State) (c : Nat) (q : Nat) (n : Nat) (e : Entry), s.entry c q n = some e ∧ e.rew = true ∧ e.noIrq = true ∧ s.run = RunSt.ready ∧ (∀ (x : Entry), x ∈ s.streamEntries c q → x.seq < n → x.rew = false) := ⟨sE [{ ent 1 9 (2 ^ 21) [] with st := .committed, rew := true }], 0, 2, 1, { ent 1 9 (2 ^ 21) [] with st := .committed, rew := true }, by decide +kernel, by decide +kernel, by decide +kernel, by decide +kernel, by decide +kernel⟩

theorem test_meets_RecordsComplete_4 : ∃ (_s : Machine.State) (_c : Nat) (_q : Nat) (v : Nat), v < 2 ^ 64 := ⟨s0, 63, 15, 2 ^ 64 - 1, by decide +kernel⟩

theorem test_meets_CommitGroups_0 : ∃ (s : Machine.State) (n : Nat) (g : Group) (k : Entry), (List.find? (fun g => g.num == n && g.decision.isNone) s.groups = some g) ∧ s.closer n = some k ∧ k.point.isSome = true ∧ s.allReached n (k.u 52 4) = true := ⟨{ sE [{ ent 1 9 0 [] with grp := some 4, point := some (0, 0) }, { ent 2 8 0 [(0x30, 4, 7), (0x34, 4, 1)] with st := .started, grp := some 4, point := some (0, 0) }] with groups := [⟨4, 0, 7, 0, none, 0, false, 0, 0, false⟩] }, 4, ⟨4, 0, 7, 0, none, 0, false, 0, 0, false⟩, { ent 2 8 0 [(0x30, 4, 7), (0x34, 4, 1)] with st := .started, grp := some 4, point := some (0, 0) }, by decide +kernel, by decide +kernel, by decide +kernel, by decide +kernel⟩

theorem test_meets_CommitGroups_1 : ∃ (s : Machine.State) (n : Nat) (g : Group), (List.find? (fun g => g.num == n && g.decision.isNone) s.groups = some g) := ⟨{ sE [] with groups := [⟨4, 0, 7, 0, none, 0, false, 0, 0, false⟩] }, 4, ⟨4, 0, 7, 0, none, 0, false, 0, 0, false⟩, by decide +kernel⟩

theorem test_meets_CommitGroups_2 : ∃ (s : Machine.State) (n : Nat) (g : Group), (List.find? (fun g => g.num == n && g.decision.isSome && !g.applied) s.groups = some g) ∧ s.notReady = false ∧ s.members n = [] := ⟨{ sE [] with groups := [⟨4, 0, 7, 0, some false, 0, false, 0, 0, false⟩] }, 4, ⟨4, 0, 7, 0, some false, 0, false, 0, 0, false⟩, by decide +kernel, by decide +kernel, by decide +kernel⟩

theorem test_meets_Journal_0 : ∃ (s : Machine.State) (c : Nat) (q : Nat) (n : Nat) (e : Entry), s.entry c q n = some e ∧ s.fld Fld.jnlCtlEn 0 = 1 ∧ e.durable = false ∧ e.raw.length = 128 := ⟨sE [{ ent 1 9 0 [] with durable := false }], 0, 2, 1, { ent 1 9 0 [] with durable := false }, by decide +kernel, by decide +kernel, by decide +kernel, by decide +kernel⟩

theorem test_meets_Journal_1 : ∃ (s : Machine.State) (c : Nat) (q : Nat) (n : Nat) (e : Entry), s.entry c q n = some e ∧ e.done = true ∧ e.written = true ∧ e.owed = [] ∧ n ≤ s.consumed c q := ⟨{ flds (sE []) [(.cqConsumedLo, 2, 1)] with entries := [{ ent 1 9 0 [] with st := .committed, written := true }] }, 0, 2, 1, { ent 1 9 0 [] with st := .committed, written := true }, by decide +kernel, by decide +kernel, by decide +kernel, by decide +kernel, by decide +kernel⟩

theorem test_meets_Journal_2 : ∃ (s : Machine.State) (v : Nat), v % 2 = 1 ∧ s.fld Fld.jnlCtlEn 0 = 0 ∧ bits v 5 1 ≠ bits v 10 6 ∧ s.placeable { stack := bits v 5 1, base := s.fld Fld.jnlBaseABase 0, units := s.fld Fld.jnlSizeSize 0 } = true ∧ s.placeable { stack := bits v 10 6, base := s.fld Fld.jnlBaseBBase 0, units := s.fld Fld.jnlSizeSize 0 } = true ∧ s.fld Fld.splCtlEn 0 = 0 := ⟨s0, 65, by decide +kernel, by decide +kernel, by decide +kernel, by decide +kernel, by decide +kernel, by decide +kernel⟩

theorem test_meets_Journal_3 : ∃ (s : Machine.State) (v : Nat), v % 2 = 1 ∧ s.fld Fld.jnlCtlEn 0 = 0 ∧ bits v 5 1 = bits v 10 6 := ⟨s0, 1, by decide +kernel, by decide +kernel, by decide +kernel⟩

theorem test_meets_Journal_4 : ∃ (s : Machine.State) (_v : Nat), s.fld Fld.jnlCtlEn 0 = 1 := ⟨sE [], 0xFFFFFFFF, by decide +kernel⟩

theorem test_meets_Journal_5 : ∃ (s : Machine.State) (b : Bool), s.fld Fld.jnlCtlEn 0 = 1 ∧ s.fld Fld.jnlStatSingle 0 = 0 ∧ s.lostCopy = some b := ⟨sLost 0, true, by decide +kernel, by decide +kernel, by decide +kernel⟩

theorem test_meets_Journal_6 : ∃ (s : Machine.State) (v : Nat) (b : Bool), bit v 31 = true ∧ s.lostCopy = some b ∧ s.fld Fld.jnlStatSingle 0 = 1 ∧ (bits v 19 15 ≠ if b = true then s.fld Fld.jnlCtlStackA 0 else s.fld Fld.jnlCtlStackB 0) ∧ s.placeable { stack := bits v 19 15, base := bits v 14 0, units := s.fld Fld.jnlSizeSize 0 } = true := ⟨sLost 1, 2 ^ 31 + 2 * 2 ^ 15, true, by decide +kernel, by decide +kernel, by decide +kernel, by decide +kernel, by decide +kernel⟩

theorem test_meets_Journal_7 : ∃ (s : Machine.State), s.fld Fld.jnlStatRecovering 0 = 1 ∧ s.fld Fld.jnlCtlEn 0 = 1 := ⟨flds (sE [ent 1 9 0 []]) [(.jnlStatRecovering, 0, 1)], by decide +kernel, by decide +kernel⟩

theorem test_meets_Journal_8 : ∃ (s : Machine.State), s.run = RunSt.ready := ⟨s0, by decide +kernel⟩

theorem test_meets_BootAndFirmware_0 : ∃ (s : Machine.State) (b : Bool), s.run = RunSt.boot ∧ s.mod.main = true ∧ s.mod.clearing = false ∧ s.fld Fld.jnlStatRecovering 0 = 0 ∧ s.fld Fld.jnlCtlEn 0 = 0 ∧ (b = if (s.fw.bank (s.fld Fld.fwBootNext 0 == 1)).valid = true then s.fld Fld.fwBootNext 0 == 1 else s.fw.active) ∧ (s.fw.bank b).valid = true ∧ s.bankFails (s.fw.bank b) = none := ⟨{ s0 with run := .boot }, false, by decide +kernel, by decide +kernel, by decide +kernel, by decide +kernel, by decide +kernel, by decide +kernel, by decide +kernel, by have h := factory_passes; simp [Machine.State.bankFails, bootTypes, bootConf, Bank2.image, s0, Machine.State.reset, Firmware.reset, Firmware.bank, FlashImage.measure, Measured.ofFactory, bit] at h ⊢; exact ⟨h 1, h 2, h 3, h 4⟩⟩

theorem test_meets_BootAndFirmware_1 : ∃ (s : Machine.State) (im : FlashImage), s.run = RunSt.boot ∧ s.mod.main = true ∧ s.fld Fld.jnlStatRecovering 0 = 0 ∧ s.fw.bankA.valid = false ∧ s.fw.bankB.valid = false ∧ s.fw.golden.head? = some im ∧ s.imageCode 6 im = 0 := ⟨{ s0 with run := .boot, fw := { s0.fw with bankA := ⟨false, []⟩ } }, .factory 6, by decide +kernel, by decide +kernel, by decide +kernel, by decide +kernel, by decide +kernel, by decide +kernel, factory_passes 6⟩

theorem test_meets_BootAndFirmware_2 : ∃ (s : Machine.State), s.run = RunSt.boot ∧ s.mod.main = true ∧ s.fld Fld.jnlStatRecovering 0 = 0 ∧ s.fw.bankA.valid = false ∧ s.fw.bankB.valid = false ∧ s.fw.golden = [] := ⟨{ s0 with run := .boot, fw := { s0.fw with bankA := ⟨false, []⟩, golden := [] } }, by decide +kernel, by decide +kernel, by decide +kernel, by decide +kernel, by decide +kernel, by decide +kernel⟩

theorem test_meets_BootAndFirmware_3 : ∃ (s : Machine.State) (bs : List (BitVec 8)), s.fld Fld.fwStatBusy 0 = 0 ∧ s.fld Fld.fwLenBytes 0 % 4096 = 0 ∧ s.fld Fld.fwLenBytes 0 ≠ 0 ∧ s.fld Fld.fwLenBytes 0 ≤ 48 * 2 ^ 20 ∧ s.installing.dvaRead 0 (s.installing.fld64 Fld.fwSrcLoAddr Fld.fwSrcHiAddr 0) (s.installing.fld Fld.fwLenBytes 0) fwOwner false = DvaRead.ok bs := ⟨sFw, sFw.installing.hbmBytes 0x200000 4096, by decide +kernel, by decide +kernel, by decide +kernel, by decide +kernel, by rw [show sFw.installing.fld64 Fld.fwSrcLoAddr Fld.fwSrcHiAddr 0 = 0 from by decide +kernel, show sFw.installing.fld Fld.fwLenBytes 0 = 4096 from by decide +kernel]; exact dvaRead_page sFw.installing 0 0 4096 0x200000 fwOwner (by decide) (by decide +kernel) (by decide +kernel) (by decide +kernel) (by decide +kernel)⟩

theorem test_meets_BootAndFirmware_4 : ∃ (s : Machine.State), s.fld Fld.fwStatBusy 0 = 0 ∧ s.fld Fld.fwLenBytes 0 = 0 := ⟨s0, by decide +kernel, by decide +kernel⟩

theorem test_meets_BootAndFirmware_5 : ∃ (s : Machine.State), s.fld Fld.fwStatBusy 0 = 0 ∧ (s.fw.bank !s.fw.active) = { valid := false, images := [] } := ⟨s0, by decide +kernel, by decide +kernel⟩

theorem test_meets_BootAndFirmware_6 : ∃ (s : Machine.State), s.fld Fld.fwStatBusy 0 = 0 := ⟨s0, by decide +kernel⟩

theorem test_meets_BootAndFirmware_7 : ∃ (s : Machine.State), s.fld Fld.fwStatBusy 0 = 0 ∧ (s.fw.bank !s.fw.active).valid = false := ⟨s0, by decide +kernel, by decide +kernel⟩

theorem test_meets_BootAndFirmware_8 : ∃ (_s : Machine.State) (v : Nat), v % 2 = 1 := ⟨sT, 1, by decide +kernel⟩

theorem test_meets_ServingCommands_0 : ∃ (s : Machine.State) (c : Nat) (q : Nat) (n : Nat) (i : Nat) (e : Entry) (p : Prog), s.entry c q n = some e ∧ e.ripe 6 = true ∧ e.op = 1 ∧ s.prog c = some p ∧ s.fld Fld.srvCtlEn c = 1 ∧ (bit (e.u 48 4) 23 && ((s.wgt c).model (s.served c).fst).inplace) = false ∧ p.pagesFor (e.u 52 4 + e.u 72 4) ≤ s.fld Fld.srvMaxPagesPages c ∧ (bits (e.u 48 4) 9 0 = 1023 ∨ (s.adapterNow c (bits (e.u 48 4) 9 0)).isSome = true) ∧ s.freeReqSlot c = some i := ⟨sSrv [cmd 1 0x3FF [(0x34, 4, 1), (0x38, 6, 0x40000), (0x40, 6, 0x50000), (0x48, 4, 4)]] SrvCtx.reset, 0, 2, 1, 0, cmd 1 0x3FF [(0x34, 4, 1), (0x38, 6, 0x40000), (0x40, 6, 0x50000), (0x48, 4, 4)], prog1, by decide +kernel, by decide +kernel, by decide +kernel, by decide +kernel, by decide +kernel, by decide +kernel, by decide +kernel, by decide +kernel, by decide +kernel⟩

theorem test_meets_ServingCommands_1 : ∃ (s : Machine.State) (c : Nat) (q : Nat) (n : Nat) (slot : Nat) (e : Entry) (r : Req), s.entry c q n = some e ∧ e.ripe 6 = true ∧ e.op = 2 ∧ s.handle e = Handle.req slot r ∧ r.st = SlotSt.reserved ∧ r.cancels = [] ∧ r.pauses = [] ∧ r.pause = none ∧ r.resume = none := ⟨sSrv [cmd 2 0 []] (srvReq (req1 .reserved)), 0, 2, 1, 0, cmd 2 0 [], req1 .reserved, by decide +kernel, by decide +kernel, by decide +kernel, rfl, by decide +kernel, by decide +kernel, by decide +kernel, by decide +kernel, by decide +kernel⟩

theorem test_meets_ServingCommands_2 : ∃ (s : Machine.State) (c : Nat) (q : Nat) (n : Nat) (slot : Nat) (e : Entry) (r : Req), s.entry c q n = some e ∧ e.ripe 6 = true ∧ e.op = 3 ∧ s.handle e = Handle.req slot r ∧ r.st ≠ SlotSt.decode := ⟨sSrv [cmd 3 0 [(0x38, 6, 0x200000), (0x44, 4, 10)]] (srvReq (req1 .prefill)), 0, 2, 1, 0, cmd 3 0 [(0x38, 6, 0x200000), (0x44, 4, 10)], req1 .prefill, by decide +kernel, by decide +kernel, by decide +kernel, rfl, by decide +kernel⟩

theorem test_meets_ServingCommands_3 : ∃ (s : Machine.State) (c : Nat) (q : Nat) (n : Nat) (slot : Nat) (e : Entry) (r : Req), s.entry c q n = some e ∧ e.ripe 6 = true ∧ e.op = 3 ∧ s.handle e = Handle.req slot r ∧ r.st = SlotSt.decode ∧ s.stepping c = true := ⟨sSrv [cmd 3 0 [(0x38, 6, 0x200000), (0x44, 4, 10)]] { srvReq (req1 .decode) with step := some step1 }, 0, 2, 1, 0, cmd 3 0 [(0x38, 6, 0x200000), (0x44, 4, 10)], req1 .decode, by decide +kernel, by decide +kernel, by decide +kernel, rfl, by decide +kernel, by decide +kernel⟩

theorem test_meets_ServingCommands_4 : ∃ (s : Machine.State) (c : Nat) (q : Nat) (n : Nat) (slot : Nat) (e : Entry) (r : Req), s.entry c q n = some e ∧ e.ripe 6 = true ∧ e.op = 4 ∧ s.handle e = Handle.req slot r ∧ r.st = SlotSt.paused ∧ s.ptime ≤ r.deadline ∧ r.crcs.length ≤ s.kvFree c := ⟨sSrv [cmd 4 0 []] (srvReq (req1 .paused)), 0, 2, 1, 0, cmd 4 0 [], req1 .paused, by decide +kernel, by decide +kernel, by decide +kernel, rfl, by decide +kernel, by decide +kernel, by decide +kernel⟩

theorem test_meets_ServingCommands_5 : ∃ (s : Machine.State) (c : Nat) (q : Nat) (n : Nat) (e : Entry), s.entry c q n = some e ∧ e.ripe 6 = true ∧ e.op = 5 ∧ s.stepping c = true := ⟨sSrv [cmd 5 3 [(0x38, 6, 0x40000), (0x40, 4, 0x10000)]] { SrvCtx.reset with step := some step1 }, 0, 2, 1, cmd 5 3 [(0x38, 6, 0x40000), (0x40, 4, 0x10000)], by decide +kernel, by decide +kernel, by decide +kernel, by decide +kernel⟩

theorem test_meets_ServingCommands_6 : ∃ (s : Machine.State) (c : Nat) (q : Nat) (n : Nat) (e : Entry), s.entry c q n = some e ∧ e.ripe 6 = true ∧ e.op = 5 ∧ s.stepping c = false ∧ (((s.wgt c).images.any fun i => i.shard.dva == e.u 56 6 && i.shard.bytes == e.u 64 4 && i.shard.arrived && !i.shard.invalid) = true) ∧ s.allCopies.length < 1024 := ⟨{ sSrv [cmd 5 3 [(0x38, 6, 0x40000), (0x40, 4, 0x10000)]] SrvCtx.reset with wgts := [(0, { WgtCtx.reset with images := [⟨1, shard1⟩] })] }, 0, 2, 1, cmd 5 3 [(0x38, 6, 0x40000), (0x40, 4, 0x10000)], by decide +kernel, by decide +kernel, by decide +kernel, by decide +kernel, by decide +kernel, by decide +kernel⟩

theorem test_meets_ServingCommands_7 : ∃ (s : Machine.State) (c : Nat) (q : Nat) (n : Nat) (e : Entry), s.entry c q n = some e ∧ e.ripe 6 = true ∧ e.op = 6 ∧ s.stepping c = false ∧ (((s.srv c).adapters.any fun a => a.id == bits (e.u 48 4) 9 0 && a.live) = true) := ⟨sSrv [cmd 6 3 []] { SrvCtx.reset with adapters := [⟨3, 1, true⟩] }, 0, 2, 1, cmd 6 3 [], by decide +kernel, by decide +kernel, by decide +kernel, by decide +kernel, by decide +kernel⟩

theorem test_meets_ServingCommands_8 : ∃ (s : Machine.State) (c : Nat) (q : Nat) (n : Nat) (e : Entry), s.entry c q n = some e ∧ e.ripe 6 = true ∧ e.op = 6 ∧ s.stepping c = false ∧ (((s.srv c).adapters.any fun a => a.id == bits (e.u 48 4) 9 0 && a.live) = false) := ⟨sSrv [cmd 6 3 []] SrvCtx.reset, 0, 2, 1, cmd 6 3 [], by decide +kernel, by decide +kernel, by decide +kernel, by decide +kernel, by decide +kernel⟩

theorem test_meets_ServingSteps_0 : ∃ (s : Machine.State) (c : Nat) (p : Prog) (f : Fill) (plan : List (Nat × List TokEnt)), s.prog c = some p ∧ s.mayForm c = true ∧ f = s.fill c p ∧ f.wait = false ∧ f.plan ≠ [] ∧ (plan = f.s.trim c p (f.s.grant c) ((List.flatMap (fun x => x.snd) f.plan).length + 1) f.plan) ∧ plan ≠ [] := ⟨sSrv [] (srvReq (req1 .decode)), 0, prog1, _, _, by decide +kernel, by decide +kernel, rfl, by decide +kernel, by decide +kernel, rfl, by decide +kernel⟩

set_option maxRecDepth 20000 in
theorem test_meets_ServingSteps_1 : ∃ (s : Machine.State) (s1 : Machine.State) (u1 : Machine.State) (c : Nat) (t : Nat) (p : Prog) (r : StepRun) (d : List (BitVec 8)), s.prog c = some p ∧ s.step? c = some r ∧ r.status = 0 ∧ r.task = none ∧ r.placed < p.count ∧ (s1 = s.modStep c fun x => { num := x.num, ents := x.ents, gens := x.gens, carried := x.carried, placed := x.placed, task := none, status := 0, sampled := x.sampled, est := x.est, execs := x.execs }) ∧ s1.dvaRead c (p.tasks + 80 * r.placed) 80 (stepOwner c) false = DvaRead.ok d ∧ (s1.dropReads (stepOwner c)).placeTask (have __src := mkTask d c 0 0 (Origin.serving r.placed) false false; { ctx := __src.ctx, stream := __src.stream, seq := __src.seq, origin := __src.origin, tclass := __src.tclass, step := r.num % 2 ^ 32, spec := __src.spec, failInv := __src.failInv, kernel := __src.kernel, args := __src.args, argsLs := __src.argsLs, argsLen := __src.argsLen, caysM1 := __src.caysM1, islands := (mkTask d c 0 0 (Origin.serving r.placed) false false).islands &&& s1.genIslands, fences := __src.fences, accs := __src.accs, mask := __src.mask, shape := __src.shape, arrMask := __src.arrMask, hdr := __src.hdr, served := __src.served, bound := __src.bound, live := __src.live, st := __src.st, status := __src.status, detail := __src.detail, discard := __src.discard, invalid := __src.invalid, sat := __src.sat, paused := __src.paused, execs := __src.execs, order := __src.order, applied := __src.applied, sums := __src.sums, chans := __src.chans }) = PlaceRes.ok u1 t := ⟨sStep, sStep1, srvPlaced.1, 0, srvPlaced.2, prog1, step1, srvDesc, by decide +kernel, by decide +kernel, by decide +kernel, by decide +kernel, by decide +kernel, rfl, by decide +kernel, show (sStep1.dropReads (stepOwner 0)).placeTask srvTask = _ from placed_eq _ (by decide +kernel)⟩

theorem test_meets_ServingSteps_2 : ∃ (s : Machine.State) (c : Nat) (p : Prog) (r : StepRun) (xs : List Sampled), s.prog c = some p ∧ s.step? c = some r ∧ r.status = 0 ∧ r.sampled = none ∧ r.task = none ∧ p.count ≤ r.placed ∧ s.drawAll c p r r.carried = Except.ok xs := ⟨sSrv [] { SrvCtx.reset with step := some { step1 with placed := 1 } }, 0, prog1, { step1 with placed := 1 }, [], by decide +kernel, by decide +kernel, by decide +kernel, by decide +kernel, by decide +kernel, by decide +kernel, rfl⟩

theorem test_meets_ServingSteps_3 : ∃ (s : Machine.State) (c : Nat) (run : StepRun), s.step? c = some run ∧ run.status = 0 ∧ run.sampled.isSome = true ∧ run.task = none ∧ s.slotList c = [] ∧ (s.srv c).ops = [] ∧ run.num < 2 ^ 64 ∧ c < 64 := ⟨sSrv [] { SrvCtx.reset with step := some { step1 with placed := 1, sampled := some [] } }, 0, { step1 with placed := 1, sampled := some [] }, by decide +kernel, by decide +kernel, by decide +kernel, by decide +kernel, by decide +kernel, by decide +kernel, by decide +kernel, by decide +kernel⟩

theorem test_meets_ServingSteps_4 : ∃ (s : Machine.State) (c : Nat) (slot : Nat) (r : Req), 64 ≤ (s.srv c).dry ∧ s.stepping c = false ∧ (s.srv c).decodes = [(slot, r)] ∧ (s.srv c).req slot = some r := ⟨sSrv [] { srvReq (req1 .decode) with dry := 64 }, 0, 0, req1 .decode, by decide +kernel, by decide +kernel, by decide +kernel, by decide +kernel⟩

theorem test_meets_ServingEvents_0 : ∃ (s : Machine.State) (c : Nat) (slot : Nat) (r : Req) (k : PauseCmd) (bs : List (BitVec 8)), (s.srv c).req slot = some r ∧ r.st = SlotSt.pausing ∧ r.pause = some k ∧ r.cancels = [] ∧ s.pageBytes c (promptOwner c slot) r.pages = DvaRead.ok bs ∧ (∀ (e : Entry), s.entry c k.stream k.seq = some e → e.done = false ∧ e.point = none) ∧ (s.entry c k.stream k.seq).isSome = true := ⟨sSrv [cmd 3 0 [(0x38, 6, 0x200000), (0x44, 4, 10)]] (srvReq { req1 .pausing with pause := some ⟨2, 1, 0x200000, 0, 10⟩ }), 0, 0, { req1 .pausing with pause := some ⟨2, 1, 0x200000, 0, 10⟩ }, ⟨2, 1, 0x200000, 0, 10⟩, [], by decide +kernel, by decide +kernel, by decide +kernel, by decide +kernel, by decide +kernel, by
    intro e he
    have h : some (cmd 3 0 [(0x38, 6, 0x200000), (0x44, 4, 10)]) = some e := by rw [← he]; rfl
    rw [← Option.some.inj h]; decide +kernel, by decide +kernel⟩

theorem test_meets_ServingEvents_1 : ∃ (s : Machine.State) (c : Nat) (slot : Nat) (r : Req) (bs : List (BitVec 8)), (s.srv c).req slot = some r ∧ r.st = SlotSt.resuming ∧ r.cancels = [] ∧ r.resume = none ∧ s.dvaRead c r.host (65536 * r.pages.length) (resumeOwner c slot) false = DvaRead.ok bs ∧ (List.findIdx? (fun p => crc32c p.fst != p.snd) ((pagesOf r.pages.length bs).zip r.crcs) = none) := ⟨sSrv [] (srvReq { req1 .resuming with host := 0x200000 }), 0, 0, { req1 .resuming with host := 0x200000 }, [], by decide +kernel, by decide +kernel, by decide +kernel, by decide +kernel, by decide +kernel, by decide +kernel⟩

theorem test_meets_ServingEvents_2 : ∃ (s : Machine.State) (c : Nat) (slot : Nat) (r : Req), c < 64 ∧ (s.srv c).req slot = some r ∧ r.st = SlotSt.paused ∧ r.deadline < s.ptime ∧ r.cancels = [] ∧ r.pauses = [] ∧ r.pause = none ∧ r.resume = none := ⟨{ sSrv [] (srvReq { req1 .paused with deadline := 4 }) with ptime := 5 }, 0, 0, { req1 .paused with deadline := 4 }, by decide +kernel, by decide +kernel, by decide +kernel, by decide +kernel, by decide +kernel, by decide +kernel, by decide +kernel, by decide +kernel⟩

theorem test_meets_ServingEvents_3 : ∃ (s : Machine.State) (c : Nat) (i : Nat) (k : ACopy), (List.find? (fun k => k.index == i) (s.srv c).copies = some k) ∧ (((s.srv c).adapters.any fun a => a.id == k.id && a.gen == k.gen && a.live) = false) ∧ (((s.srv c).reqs.any fun r => r.snd.st != SlotSt.reserved && r.snd.acopy == i) = false) := ⟨sSrv [] { SrvCtx.reset with copies := [⟨0, 3, 1, 0x40000⟩] }, 0, 0, ⟨0, 3, 1, 0x40000⟩, by decide +kernel, by decide +kernel, by decide +kernel⟩

theorem test_meets_ServingEvents_4 : ∃ (s : Machine.State) (c : Nat) (e : SrvEv), (List.find? (fun e => !e.written || e.rew) (s.srv c).events = some e) ∧ s.run = RunSt.ready ∧ e.num ≤ s.evConsumed c + s.evRing c := ⟨sSrv [] { SrvCtx.reset with events := [⟨1, 4, 2, 1, 0, 0, 0, 4, 0, 0, 0, false, false, false, false⟩], evNum := 1 }, 0, ⟨1, 4, 2, 1, 0, 0, 0, 4, 0, 0, 0, false, false, false, false⟩, by decide +kernel, by decide +kernel, by decide +kernel⟩

theorem test_meets_ServingEvents_5 : ∃ (s : Machine.State) (c : Nat) (v : Nat), v < 2 ^ 64 ∧ s.evConsumed c ≤ v ∧ (∃ e, e ∈ (s.srv c).events ∧ e.written = true ∧ v ≤ e.num) := ⟨sSrv [] { SrvCtx.reset with events := [⟨1, 4, 2, 1, 0, 0, 0, 4, 0, 0, 0, true, true, false, false⟩], evNum := 1 }, 0, 1, by decide +kernel, by decide +kernel, by decide +kernel⟩

theorem test_meets_ServingEvents_6 : ∃ (_s : Machine.State) (_c : Nat) (v : Nat), v % 2 = 0 := ⟨sSrv [] SrvCtx.reset, 0, 0, by decide +kernel⟩

theorem test_meets_ServingEvents_7 : ∃ (s : Machine.State) (c : Nat) (v : Nat), v % 2 = 1 ∧ s.fld Fld.splCtlEn 0 = 1 ∧ (s.prog c).isSome = true := ⟨{ flds (sSrv [] SrvCtx.reset) [(.splCtlEn, 0, 1)] with free := 3 }, 0, 1, by decide +kernel, by decide +kernel, by decide +kernel⟩

theorem test_meets_ServingEvents_8 : ∃ (s : Machine.State) (v : Nat), v % 2 = 1 ∧ s.fld Fld.splCtlEn 0 = 0 ∧ bits v 5 1 ≠ bits v 10 6 ∧ s.placeable { stack := bits v 5 1, base := s.fld Fld.splBaseABase 0, units := 32 } = true ∧ s.placeable { stack := bits v 10 6, base := s.fld Fld.splBaseBBase 0, units := 32 } = true ∧ s.fld Fld.jnlCtlEn 0 = 0 := ⟨s0, 65, by decide +kernel, by decide +kernel, by decide +kernel, by decide +kernel, by decide +kernel, by decide +kernel⟩

theorem test_meets_LearningRecords_0 : ∃ (s : Machine.State) (c : Nat) (q : Nat) (n : Nat) (e : Entry) (hd : List (BitVec 8)) (b : List (BitVec 8)), s.entry c q n = some e ∧ e.ripe 7 = true ∧ e.op = 3 ∧ s.tgBusy c e.tg true = false ∧ s.dvaRead c (e.u 56 6) 32 (ReadOwner.op 13 ((c * 16 + q) * 2 ^ 64 + n)) false = DvaRead.ok hd ∧ leAt hd 0 4 = 1413960272 ∧ 1 ≤ leAt hd 4 4 ∧ leAt hd 4 4 ≤ 10240 ∧ s.dvaRead c (e.u 56 6 + 32) (8 * leAt hd 4 4) (ReadOwner.op 13 ((c * 16 + q) * 2 ^ 64 + n)) false = DvaRead.ok b ∧ s.tgroup c e.tg = none ∧ s.tgs.length < 256 := ⟨sLrn [lrn 3 5 0 [(0x38, 6, 0x5000)]] [], 0, 2, 1, lrn 3 5 0 [(0x38, 6, 0x5000)], Memory.readN lrnHbm 0x205000 32, Memory.readN lrnHbm 0x205020 8, by decide +kernel, by decide +kernel, by decide +kernel, by decide +kernel, by decide +kernel, by decide +kernel, by decide +kernel, by decide +kernel, by decide +kernel, by decide +kernel, by decide +kernel⟩

theorem test_meets_LearningRecords_1 : ∃ (s : Machine.State) (c : Nat) (q : Nat) (n : Nat) (e : Entry) (hd : List (BitVec 8)) (b : List (BitVec 8)) (g : TGroup), s.entry c q n = some e ∧ e.ripe 7 = true ∧ e.op = 3 ∧ s.tgBusy c e.tg true = false ∧ s.dvaRead c (e.u 56 6) 32 (ReadOwner.op 13 ((c * 16 + q) * 2 ^ 64 + n)) false = DvaRead.ok hd ∧ leAt hd 0 4 = 1413960272 ∧ 1 ≤ leAt hd 4 4 ∧ leAt hd 4 4 ≤ 10240 ∧ s.dvaRead c (e.u 56 6 + 32) (8 * leAt hd 4 4) (ReadOwner.op 13 ((c * 16 + q) * 2 ^ 64 + n)) false = DvaRead.ok b ∧ s.tgroup c e.tg = some g := ⟨sLrn [lrn 3 5 0 [(0x38, 6, 0x5000)]] [tg1], 0, 2, 1, lrn 3 5 0 [(0x38, 6, 0x5000)], Memory.readN lrnHbm 0x205000 32, Memory.readN lrnHbm 0x205020 8, tg1, by decide +kernel, by decide +kernel, by decide +kernel, by decide +kernel, by decide +kernel, by decide +kernel, by decide +kernel, by decide +kernel, by decide +kernel, by decide +kernel⟩

theorem test_meets_LearningRecords_2 : ∃ (s : Machine.State) (c : Nat) (q : Nat) (n : Nat) (e : Entry) (g : TGroup), s.entry c q n = some e ∧ e.ripe 7 = true ∧ e.op = 4 ∧ s.tgroup c e.tg = some g ∧ e.u 52 4 = g.rootGen + 1 ∧ g.publish = none := ⟨sLrn [lrn 4 5 1 []] [tg1], 0, 2, 1, lrn 4 5 1 [], tg1, by decide +kernel, by decide +kernel, by decide +kernel, by decide +kernel, by decide +kernel, by decide +kernel⟩

theorem test_meets_LearningRecords_3 : ∃ (s : Machine.State) (c : Nat) (q : Nat) (n : Nat) (e : Entry) (g : TGroup), s.entry c q n = some e ∧ e.ripe 7 = true ∧ e.op = 4 ∧ s.tgroup c e.tg = some g ∧ (e.u 52 4 ≠ g.rootGen + 1 ∨ g.publish.isSome = true) := ⟨sLrn [lrn 4 5 2 []] [tg1], 0, 2, 1, lrn 4 5 2 [], tg1, by decide +kernel, by decide +kernel, by decide +kernel, by decide +kernel, by decide +kernel⟩

theorem test_meets_LearningRecords_4 : ∃ (s : Machine.State) (c : Nat) (q : Nat) (n : Nat) (e : Entry) (g : TGroup), s.entry c q n = some e ∧ e.ripe 7 = true ∧ e.op = 2 ∧ s.tgroup c e.tg = some g ∧ s.turnOnGroup c e.tg = none ∧ g.sealed < e.u 52 4 ∧ g.decided (e.u 52 4 - 1) = true ∧ g.sealRun = none := ⟨sLrn [lrn 2 5 1 []] [tg1], 0, 2, 1, lrn 2 5 1 [], tg1, by decide +kernel, by decide +kernel, by decide +kernel, by decide +kernel, by decide +kernel, by decide +kernel, by decide +kernel, by decide +kernel⟩

theorem test_meets_LearningRecords_5 : ∃ (s : Machine.State) (c : Nat) (q : Nat) (n : Nat) (e : Entry) (g : TGroup), s.entry c q n = some e ∧ e.ripe 7 = true ∧ e.op = 2 ∧ s.tgroup c e.tg = some g ∧ s.turnOnGroup c e.tg = none ∧ e.u 52 4 ≤ g.sealed := ⟨sLrn [lrn 2 5 0 []] [tg1], 0, 2, 1, lrn 2 5 0 [], tg1, by decide +kernel, by decide +kernel, by decide +kernel, by decide +kernel, by decide +kernel, by decide +kernel⟩

theorem test_meets_LearningRecords_6 : ∃ (s : Machine.State) (c : Nat) (q : Nat) (n : Nat) (e : Entry) (g : TGroup) (x : Seal), s.entry c q n = some e ∧ e.ripe 7 = true ∧ e.op = 5 ∧ s.tgroup c e.tg = some g ∧ g.sealRun = some x ∧ x.step = e.u 52 4 := ⟨sLrn [lrn 5 5 1 []] [tgSeal id], 0, 2, 1, lrn 5 5 1 [], tgSeal id, seal1 id, by decide +kernel, by decide +kernel, by decide +kernel, by decide +kernel, by decide +kernel, by decide +kernel⟩

theorem test_meets_LearningRecords_7 : ∃ (s : Machine.State) (c : Nat) (q : Nat) (n : Nat) (e : Entry) (g : TGroup) (p : SProg), c < 64 ∧ s.entry c q n = some e ∧ e.ripe 7 = true ∧ e.op = 1 ∧ s.tgroup c (e.u 64 2) = some g ∧ s.turn = none ∧ g.sealed < e.u 52 4 ∧ g.decided (e.u 52 4 - 1) = true ∧ ((s.runs.any fun r => r.ctx == c && r.tgroup == e.u 64 2 && r.step == e.u 52 4 && r.islands &&& bits (e.u 48 4) 23 0 != 0) = false) ∧ s.readStage e = ProgRead.ok p := ⟨sLrn [lrn 1 1 1 [(0x38, 6, 0x6000), (0x40, 2, 5)]] [tg1], 0, 2, 1, lrn 1 1 1 [(0x38, 6, 0x6000), (0x40, 2, 5)], tg1, progOf ((sLrn [lrn 1 1 1 [(0x38, 6, 0x6000), (0x40, 2, 5)]] [tg1]).readStage (lrn 1 1 1 [(0x38, 6, 0x6000), (0x40, 2, 5)])), by decide +kernel, by decide +kernel, by decide +kernel, by decide +kernel, by decide +kernel, by decide +kernel, by decide +kernel, by decide +kernel, by decide +kernel, progOf_eq _ (by decide +kernel)⟩

theorem test_meets_LearningRecords_8 : ∃ (s : Machine.State) (c : Nat) (q : Nat) (n : Nat) (e : Entry) (g : TGroup), s.entry c q n = some e ∧ e.ripe 7 = true ∧ (e.op = 1 ∨ e.op = 2) ∧ (s.tgroup c (if e.op = 1 then e.u 64 2 else e.tg) = some g) ∧ g.decided (e.u 52 4 - 1) = false ∧ (s.sealHeld e (if e.op = 1 then e.u 64 2 else e.tg) (e.u 52 4 - 1) = false) := ⟨sLrn [lrn 1 1 3 [(0x40, 2, 5)]] [tg1], 0, 2, 1, lrn 1 1 3 [(0x40, 2, 5)], tg1, by decide +kernel, by decide +kernel, by decide +kernel, by decide +kernel, by decide +kernel, by decide +kernel⟩

theorem test_meets_StageRuns_0 : ∃ (s : Machine.State) (k : Nat) (r : Run) (w : Bool × Nat), s.findRun k = some r ∧ r.order[r.unit]? = some w ∧ r.fail = none ∧ r.started = false ∧ (r.receives w = true → w ∈ r.recvd) := ⟨sRun { run1 with started := false } [], 1, { run1 with started := false }, (true, 0), by decide +kernel, by decide +kernel, by decide +kernel, by decide +kernel, by decide +kernel⟩

theorem test_meets_StageRuns_1 : ∃ (s : Machine.State) (s1 : Machine.State) (k : Nat) (t : Nat) (mb : Nat) (i : Nat) (fwd : Bool) (r : Run) (e : SEnt), s.findRun k = some r ∧ r.fail = none ∧ r.at = some (fwd, mb, i, e) ∧ r.task = none ∧ r.admitted = true ∧ e.quant = false ∧ (s.placeTask (r.taskOf (Option.any (fun x => x.failInvalid) (s.entry r.ctx r.stream r.seq)) mb i e false) = PlaceRes.ok s1 t) := ⟨sRun run1 [], (placed ((sRun run1 []).placeTask (run1.taskOf false 0 0 sent1 false))).1, 1, (placed ((sRun run1 []).placeTask (run1.taskOf false 0 0 sent1 false))).2, 0, 0, true, run1, sent1, by decide +kernel, by decide +kernel, by decide +kernel, by decide +kernel, by decide +kernel, by decide +kernel, show (sRun run1 []).placeTask (run1.taskOf false 0 0 sent1 false) = _ from placed_eq _ (by decide +kernel)⟩

theorem test_meets_StageRuns_2 : ∃ (s : Machine.State) (k : Nat) (t : Nat) (mb : Nat) (i : Nat) (fwd : Bool) (r : Run) (e : SEnt), s.findRun k = some r ∧ r.fail = none ∧ r.at = some (fwd, mb, i, e) ∧ r.task = some t ∧ (s.task t).st = TaskSt.ended ∧ (s.task t).status = 0 ∧ ((s.task t).spec = true → (s.task t).applied = true) := ⟨sRun { run1 with task := some 3 } [(3, { quant1 with spec := false })], 1, 3, 0, 0, true, { run1 with task := some 3 }, sent1, by decide +kernel, by decide +kernel, by decide +kernel, by decide +kernel, by decide +kernel, by decide +kernel, by decide +kernel⟩

theorem test_meets_StageRuns_3 : ∃ (s : Machine.State) (k : Nat) (r : Run) (w : Bool × Nat), s.findRun k = some r ∧ r.fail = none ∧ r.order[r.unit]? = some w ∧ r.started = true ∧ r.at = none := ⟨sRun { run1 with idx := 1 } [], 1, { run1 with idx := 1 }, (true, 0), by decide +kernel, by decide +kernel, by decide +kernel, by decide +kernel, by decide +kernel⟩

theorem test_meets_StageRuns_4 : ∃ (s : Machine.State) (k : Nat) (r : Run) (e : Entry), s.findRun k = some r ∧ r.fail = none ∧ r.order[r.unit]? = none ∧ r.hold = [] ∧ r.ctx < 64 ∧ s.entry r.ctx r.stream r.seq = some e ∧ e.done = false ∧ e.point = none := ⟨sRun { run1 with unit := 1, started := false } [], 1, { run1 with unit := 1, started := false }, lrn 1 0 1 [(0x40, 2, 5)], by decide +kernel, by decide +kernel, by decide +kernel, by decide +kernel, by decide +kernel, by decide +kernel, by decide +kernel, by decide +kernel⟩

theorem test_meets_StageRuns_5 : ∃ (s : Machine.State) (k : Nat) (st : Nat) (d : Nat) (r : Run) (e : Entry), s.findRun k = some r ∧ r.fail = some (st, d) ∧ r.task = none ∧ r.halves ≠ [] ∧ r.ctx < 64 ∧ s.entry r.ctx r.stream r.seq = some e ∧ e.done = false ∧ e.point = none := ⟨sRun { run1 with fail := some (1, 2), halves := [(0, 0)] } [], 1, 1, 2, { run1 with fail := some (1, 2), halves := [(0, 0)] }, lrn 1 0 1 [(0x40, 2, 5)], by decide +kernel, by decide +kernel, by decide +kernel, by decide +kernel, by decide +kernel, by decide +kernel, by decide +kernel, by decide +kernel⟩

theorem test_meets_StageRuns_6 : ∃ (s : Machine.State) (k : Nat) (t : Nat) (mb : Nat) (i : Nat) (fwd : Bool) (r : Run) (e : SEnt), s.findRun k = some r ∧ r.at = some (fwd, mb, i, e) ∧ r.task = some t ∧ (s.task t).spec = true ∧ (s.task t).st = TaskSt.ended ∧ (s.task t).status = 0 ∧ (s.task t).applied = false ∧ r.checked = false ∧ r.ctx < 64 ∧ quantCheck r.limits (s.task t) = 0 := ⟨sRun { run1 with task := some 3 } [(3, quant1)], 1, 3, 0, 0, true, { run1 with task := some 3 }, sent1, by decide +kernel, by decide +kernel, by decide +kernel, by decide +kernel, by decide +kernel, by decide +kernel, by decide +kernel, by decide +kernel, by decide +kernel, by decide +kernel⟩

theorem test_meets_StageRuns_7 : ∃ (s : Machine.State) (k : Nat) (t : Nat) (mb : Nat) (i : Nat) (fwd : Bool) (r : Run) (e : SEnt), s.findRun k = some r ∧ r.at = some (fwd, mb, i, e) ∧ r.task = some t ∧ (s.task t).spec = true ∧ (s.task t).st = TaskSt.ended ∧ (s.task t).status = 0 ∧ (s.task t).applied = false ∧ r.checked = false ∧ r.ctx < 64 ∧ quantCheck r.limits (s.task t) ≠ 0 := ⟨sRun { run1 with task := some 3 } [(3, { quant1 with sat := 1 })], 1, 3, 0, 0, true, { run1 with task := some 3 }, sent1, by decide +kernel, by decide +kernel, by decide +kernel, by decide +kernel, by decide +kernel, by decide +kernel, by decide +kernel, by decide +kernel, by decide +kernel, by decide +kernel⟩

theorem test_meets_StageRuns_8 : ∃ (s : Machine.State) (t : Machine.State) (k : Nat) (l : Nat) (counted : Bool) (rest : List (Nat × Bool)) (r : Run) (ly : SLayer) (o : Coll) (o' : Coll), s.findRun k = some r ∧ r.hold = (l, counted) :: rest ∧ r.prog.layers[l]? = some ly ∧ r.ctx < 64 ∧ o = collOf ly.coll r.ctx s.collNum (CollOwner.handoff r.num l) ∧ (o' = { num := o.num, ctx := o.ctx, owner := o.owner, op := o.op, tree := o.tree, fmt := o.fmt, notify := o.notify, dstLs := o.dstLs, posted := o.posted, dstCay := o.dstCay, logChunk := o.logChunk, tgroup := r.tgroup, tag := o.tag, desc := o.desc, rank := o.rank, src := if r.m % 2 = 1 then ly.accA else ly.accB, dst := o.dst + (if o.op = 6 then 1 - (Option.map (fun g => g.live) (s.tgroup r.ctx r.tgroup)).getD 0 else 0) * leAt ly.coll 44 4, count := o.count, map := o.map, step := r.step, half := if o.op = 6 then 1 - (Option.map (fun g => g.live) (s.tgroup r.ctx r.tgroup)).getD 0 else 0, mask := o.mask, open_ := o.open_, tx := o.tx, rx := o.rx, vals := o.vals, landed := o.landed, tiles := o.tiles, work := o.work }) ∧ s.openColl o' (leAt ly.coll 16 6) (bit (leAt ly.coll 0 4) 12) = OpenRes.ok t ∧ t.findRun k = some r := ⟨sRun { run1 with hold := [(0, false)] } [], openedOf ((sRun { run1 with hold := [(0, false)] } []).openColl { collOf hand1 0 0 (.handoff 1 0) with tgroup := 5, src := 0x10000, step := 1, dst := 0x20000, half := 0 } 0x7000 false), 1, 0, false, [], { run1 with hold := [(0, false)] }, ⟨0x10000, 0x11000, hand1, false⟩, collOf hand1 0 0 (.handoff 1 0), { collOf hand1 0 0 (.handoff 1 0) with tgroup := 5, src := 0x10000, step := 1, dst := 0x20000, half := 0 }, by decide +kernel, by decide +kernel, by decide +kernel, by decide +kernel, by decide +kernel, by decide +kernel, openedOf_eq _ (by decide +kernel), by decide +kernel⟩

theorem test_meets_SealsAndUpdates_0 : ∃ (s : Machine.State) (c : Nat) (i : Nat) (r : Nat) (g : TGroup) (x : Seal) (me : TgMem) (v : Bool) (late : Bool), s.tgroup c i = some g ∧ g.sealRun = some x ∧ x.ballot.vote = none ∧ s.sealVote g x = some (v, late) ∧ s.voterRank (Topic.sealOf c i x.step) = some (r, me) := ⟨sLrn [] [tgSeal id], 0, 5, 0, tgSeal id, seal1 id, ⟨1, 0, 0⟩, true, false, by decide +kernel, by decide +kernel, by decide +kernel, by decide +kernel, by decide +kernel⟩

theorem test_meets_SealsAndUpdates_1 : ∃ (s : Machine.State) (s0 : Machine.State) (c : Nat) (i : Nat) (g : TGroup) (x : Seal) (me : TgMem) (b : Ballot), s.tgroup c i = some g ∧ g.sealRun = some x ∧ s0 = s.takeBallots (Topic.sealOf c i x.step) ∧ s0.voterRank (Topic.sealOf c i x.step) = some (0, me) ∧ s0.ballot (Topic.sealOf c i x.step) = some b ∧ b.decision = none ∧ (∀ (j : Nat), j < (s0.voters (Topic.sealOf c i x.step)).length → (j, true) ∈ b.votes) ∧ (∀ (j : Nat), ¬(j, false) ∈ b.votes) := ⟨sLrn [] [tgSeal (fun b => { b with votes := [(0, true)] })], _, 0, 5, tgSeal (fun b => { b with votes := [(0, true)] }), seal1 (fun b => { b with votes := [(0, true)] }), ⟨1, 0, 0⟩, ⟨0, 0, none, [(0, true)], 0xFFFF, [], none⟩, by decide +kernel, by decide +kernel, rfl, by decide +kernel, by decide +kernel, by decide +kernel, by decide +kernel, by simp⟩

theorem test_meets_SealsAndUpdates_2 : ∃ (s : Machine.State) (s0 : Machine.State) (c : Nat) (i : Nat) (g : TGroup) (x : Seal) (me : TgMem) (b : Ballot), s.tgroup c i = some g ∧ g.sealRun = some x ∧ s0 = s.takeBallots (Topic.sealOf c i x.step) ∧ s0.voterRank (Topic.sealOf c i x.step) = some (0, me) ∧ s0.ballot (Topic.sealOf c i x.step) = some b ∧ b.decision = none ∧ (∃ j, (j, false) ∈ b.votes) := ⟨sLrn [] [tgSeal (fun b => { b with votes := [(0, false)] })], _, 0, 5, tgSeal (fun b => { b with votes := [(0, false)] }), seal1 (fun b => { b with votes := [(0, false)] }), ⟨1, 0, 0⟩, ⟨0, 0, none, [(0, false)], 0xFFFF, [], none⟩, by decide +kernel, by decide +kernel, rfl, by decide +kernel, by decide +kernel, by decide +kernel, ⟨0, by simp⟩⟩

theorem test_meets_SealsAndUpdates_3 : ∃ (s : Machine.State) (s1 : Machine.State) (c : Nat) (i : Nat) (g : TGroup) (g1 : TGroup) (x : Seal) (x1 : Seal) (e : Entry), c < 64 ∧ s.tgroup c i = some g ∧ g.sealRun = some x ∧ s1 = s.takeBallots (Topic.sealOf c i x.step) ∧ s1.tgroup c i = some g1 ∧ g1.sealRun = some x1 ∧ x1.step = x.step ∧ s.entry c x1.stream x1.seq = some e ∧ e.done = false ∧ e.point = none ∧ x1.ballot.decision = some true := ⟨sLrn [lrn 2 5 1 []] [tgSeal (fun b => { b with decision := some true })], _, 0, 5, tgSeal (fun b => { b with decision := some true }), tgSeal (fun b => { b with decision := some true }), seal1 (fun b => { b with decision := some true }), seal1 (fun b => { b with decision := some true }), lrn 2 5 1 [], by decide +kernel, by decide +kernel, by decide +kernel, rfl, by decide +kernel, by decide +kernel, by decide +kernel, by decide +kernel, by decide +kernel, by decide +kernel, by decide +kernel⟩

theorem test_meets_SealsAndUpdates_4 : ∃ (s : Machine.State) (s1 : Machine.State) (c : Nat) (i : Nat) (g : TGroup) (g1 : TGroup) (x : Seal) (x1 : Seal) (e : Entry), c < 64 ∧ s.tgroup c i = some g ∧ g.sealRun = some x ∧ s1 = s.takeBallots (Topic.sealOf c i x.step) ∧ s1.tgroup c i = some g1 ∧ g1.sealRun = some x1 ∧ x1.step = x.step ∧ s.entry c x1.stream x1.seq = some e ∧ e.done = false ∧ e.point = none ∧ x1.ballot.decision = some false := ⟨sLrn [lrn 2 5 1 []] [tgSeal (fun b => { b with decision := some false })], _, 0, 5, tgSeal (fun b => { b with decision := some false }), tgSeal (fun b => { b with decision := some false }), seal1 (fun b => { b with decision := some false }), seal1 (fun b => { b with decision := some false }), lrn 2 5 1 [], by decide +kernel, by decide +kernel, by decide +kernel, rfl, by decide +kernel, by decide +kernel, by decide +kernel, by decide +kernel, by decide +kernel, by decide +kernel, by decide +kernel⟩

theorem test_meets_SealsAndUpdates_5 : ∃ (s : Machine.State) (s0 : Machine.State) (c : Nat) (i : Nat) (r : Nat) (g : TGroup) (x : Seal) (me : TgMem) (b : Ballot), s.tgroup c i = some g ∧ g.sealRun = some x ∧ s0 = s.takeBallots (Topic.sealOf c i x.step) ∧ s0.voterRank (Topic.sealOf c i x.step) = some (r, me) ∧ s0.ballot (Topic.sealOf c i x.step) = some b ∧ b.vote = some true ∧ b.resolve.decision = none ∧ b.asked + us (s.fld Fld.sealTimeoutLimit c) ≤ s.ptime := ⟨{ sLrn [] [tgSeal (fun b => { b with vote := some true })] with ptime := 10 ^ 12 }, _, 0, 5, 0, tgSeal (fun b => { b with vote := some true }), seal1 (fun b => { b with vote := some true }), ⟨1, 0, 0⟩, ⟨0, 0, some true, [], 0xFFFF, [], none⟩, by decide +kernel, by decide +kernel, rfl, by decide +kernel, by decide +kernel, by decide +kernel, by decide +kernel, by decide +kernel⟩

theorem test_meets_SealsAndUpdates_6 : ∃ (s : Machine.State) (s1 : Machine.State) (isl : Nat) (m : Msg), s.takeKind isl 9 = some (m, s1) := ⟨sAsk, ((sAsk.takeKind 0 9).getD (askMsg, s0)).2, 0, ((sAsk.takeKind 0 9).getD (askMsg, s0)).1, getD_eq (askMsg, s0) _ (by decide +kernel)⟩

set_option maxRecDepth 20000 in
theorem test_meets_SealsAndUpdates_7 : ∃ (s : Machine.State) (s1 : Machine.State) (s2 : Machine.State) (isl : Nat) (own : Nat) (c : Nat) (t : Nat) (i : Nat) (k : Coll) (g : TGroup) (grad : List (BitVec 8)) (rs : List URun) (r : URun) (p : PGroup) (x : TileIn) (o : TileOut), isl < 24 ∧ k.ctx < 64 ∧ s.nextTile isl = some (k, g, own, c, t, grad) ∧ s.updateMap k = Except.ok rs ∧ runOf rs t = some (r, i) ∧ s.pgroup k g isl r.pgroup = Except.ok (s1, p) ∧ s1.tileIn k g r i p grad = Except.ok x ∧ updateTile p x = some o ∧ (s1.tileOut k ([(r.master + (1 - g.live) * r.half + 2112 * i, o.w), (r.moment + (1 - g.live) * r.half + 2112 * i, o.m), (k.dst + r.work + o.k.length * i, o.k)] ++ if p.mode = 1 then [(r.stats + (1 - g.live) * r.half + 8192 * i, o.stats)] else []) = Except.ok s2) := ⟨sUpd [], sHeld [], tileDone (sHeld []) (coll6 []) tg1 updRun 0 updGrp updOut, 0, 0, 0, 0, 0, coll6 [], tg1, [], okD [] ((sUpd []).updateMap (coll6 [])), updRun, updGrp, zeroTile [], updOut, by decide +kernel, by decide +kernel, rfl, okD_eq _ _ (by decide +kernel), by decide +kernel, okD_eq (s0, updGrp) _ (by decide +kernel), tileIn_zero _ _ _ _ _ _ _ rfl (collRead_zero _ _ _ _ 0x210000 (by decide) (by decide +kernel) (by decide +kernel) (by decide +kernel) (by decide +kernel) (by decide +kernel)) (collRead_zero _ _ _ _ 0x212000 (by decide) (by decide +kernel) (by decide +kernel) (by decide +kernel) (by decide +kernel) (by decide +kernel)), getD_eq _ _ (by decide +kernel), tileDone_eq _ _ _ _ _ _ _ (by decide +kernel)⟩

set_option maxRecDepth 20000 in
theorem test_meets_SealsAndUpdates_8 : ∃ (s : Machine.State) (s1 : Machine.State) (_s2 : Machine.State) (isl : Nat) (own : Nat) (c : Nat) (t : Nat) (i : Nat) (k : Coll) (g : TGroup) (grad : List (BitVec 8)) (rs : List URun) (r : URun) (p : PGroup) (x : TileIn), isl < 24 ∧ k.ctx < 64 ∧ s.nextTile isl = some (k, g, own, c, t, grad) ∧ s.updateMap k = Except.ok rs ∧ runOf rs t = some (r, i) ∧ s.pgroup k g isl r.pgroup = Except.ok (s1, p) ∧ s1.tileIn k g r i p grad = Except.ok x ∧ updateTile p x = none := ⟨sUpd (leBytes 4 0x7FC00000), sHeld (leBytes 4 0x7FC00000), s0, 0, 0, 0, 0, 0, coll6 (leBytes 4 0x7FC00000), tg1, leBytes 4 0x7FC00000, okD [] ((sUpd (leBytes 4 0x7FC00000)).updateMap (coll6 (leBytes 4 0x7FC00000))), updRun, updGrp, zeroTile (leBytes 4 0x7FC00000), by decide +kernel, by decide +kernel, rfl, okD_eq _ _ (by decide +kernel), by decide +kernel, okD_eq (s0, updGrp) _ (by decide +kernel), tileIn_zero _ _ _ _ _ _ _ rfl (collRead_zero _ _ _ _ 0x210000 (by decide) (by decide +kernel) (by decide +kernel) (by decide +kernel) (by decide +kernel) (by decide +kernel)) (collRead_zero _ _ _ _ 0x212000 (by decide) (by decide +kernel) (by decide +kernel) (by decide +kernel) (by decide +kernel) (by decide +kernel)), by decide +kernel⟩

theorem test_meets_CollectiveRecords_0 : ∃ (mk : Nat → Nat → Nat → Instr) (op : Nat) (s : Machine.State) (c : Nat) (q : Nat) (n : Nat) (_half : Nat) (e : Entry) (k0 : Coll) (_k : Coll), (mk, op) ∈ [(Instr.allReduce, 1), (Instr.reduceScatter, 2), (Instr.allGather, 3), (Instr.broadcast, 4), (Instr.receive, 5), (Instr.reduceUpdateGather, 6)] ∧ s.entry c q n = some e ∧ e.ripe 3 = true ∧ e.op = op ∧ k0 = collOf (List.drop 48 e.raw) c s.collNum (CollOwner.record q n) ∧ k0.tgroup ≠ 65535 ∧ s.tgroup c k0.tgroup = none := ⟨Instr.allReduce, 1, colRec 1 5 0x7000, 0, 2, 1, 0, colEnt 1 5 0x7000, _, colFar, by simp, by decide +kernel, by decide +kernel, by decide +kernel, rfl, by decide +kernel, by decide +kernel⟩

theorem test_meets_CollectiveRecords_1 : ∃ (mk : Nat → Nat → Nat → Instr) (op : Nat) (s : Machine.State) (c : Nat) (q : Nat) (n : Nat) (half : Nat) (e : Entry) (k0 : Coll) (k : Coll) (t : Machine.State) (st : Nat) (d : Nat), (mk, op) ∈ [(Instr.allReduce, 1), (Instr.reduceScatter, 2), (Instr.allGather, 3), (Instr.broadcast, 4), (Instr.receive, 5), (Instr.reduceUpdateGather, 6)] ∧ s.entry c q n = some e ∧ e.ripe 3 = true ∧ e.op = op ∧ k0 = collOf (List.drop 48 e.raw) c s.collNum (CollOwner.record q n) ∧ (k0.tgroup = 65535 ∨ (s.tgroup c k0.tgroup).isSome = true) ∧ (half = if op = 6 then 1 - (Option.map (fun g => g.live) (s.tgroup c k0.tgroup)).getD 0 else 0) ∧ k = { num := k0.num, ctx := k0.ctx, owner := k0.owner, op := k0.op, tree := k0.tree, fmt := k0.fmt, notify := k0.notify, dstLs := k0.dstLs, posted := k0.posted, dstCay := k0.dstCay, logChunk := k0.logChunk, tgroup := k0.tgroup, tag := k0.tag, desc := k0.desc, rank := k0.rank, src := k0.src, dst := k0.dst + half * e.u 92 4, count := k0.count, map := k0.map, step := k0.step, half := half, mask := k0.mask, open_ := k0.open_, tx := k0.tx, rx := k0.rx, vals := k0.vals, landed := k0.landed, tiles := k0.tiles, work := k0.work } ∧ (s.begin e).openColl k (e.u 64 6) (bit (e.u 48 4) 12) = OpenRes.refuse t st d := ⟨Instr.allReduce, 1, colRec 1 0xFFFF 0, 0, 2, 1, 0, colEnt 1 0xFFFF 0, colKept 1 0xFFFF 0, colKept 1 0xFFFF 0, refusedOf (colTried 1 0xFFFF 0), 0x304, 1, by simp, by decide +kernel, by decide +kernel, by decide +kernel, by decide +kernel, by decide +kernel, by decide +kernel, by decide +kernel, refusedOf_eq _ _ _ (by decide +kernel)⟩

theorem test_meets_CollectiveRecords_2 : ∃ (mk : Nat → Nat → Nat → Instr) (op : Nat) (s : Machine.State) (c : Nat) (q : Nat) (n : Nat) (half : Nat) (e : Entry) (k0 : Coll) (k : Coll) (t : Machine.State), (mk, op) ∈ [(Instr.allReduce, 1), (Instr.reduceScatter, 2), (Instr.allGather, 3), (Instr.broadcast, 4), (Instr.receive, 5), (Instr.reduceUpdateGather, 6)] ∧ s.entry c q n = some e ∧ e.ripe 3 = true ∧ e.op = op ∧ k0 = collOf (List.drop 48 e.raw) c s.collNum (CollOwner.record q n) ∧ (k0.tgroup = 65535 ∨ (s.tgroup c k0.tgroup).isSome = true) ∧ (half = if op = 6 then 1 - (Option.map (fun g => g.live) (s.tgroup c k0.tgroup)).getD 0 else 0) ∧ k = { num := k0.num, ctx := k0.ctx, owner := k0.owner, op := k0.op, tree := k0.tree, fmt := k0.fmt, notify := k0.notify, dstLs := k0.dstLs, posted := k0.posted, dstCay := k0.dstCay, logChunk := k0.logChunk, tgroup := k0.tgroup, tag := k0.tag, desc := k0.desc, rank := k0.rank, src := k0.src, dst := k0.dst + half * e.u 92 4, count := k0.count, map := k0.map, step := k0.step, half := half, mask := k0.mask, open_ := k0.open_, tx := k0.tx, rx := k0.rx, vals := k0.vals, landed := k0.landed, tiles := k0.tiles, work := k0.work } ∧ (s.begin e).openColl k (e.u 64 6) (bit (e.u 48 4) 12) = OpenRes.ok t ∧ ((t.colls.any fun x => x.num == s.collNum) = true) ∧ (∀ (x : Coll), x ∈ s.colls → x.num ≠ s.collNum) := ⟨Instr.allReduce, 1, colRec 1 0xFFFF 0x7000, 0, 2, 1, 0, colEnt 1 0xFFFF 0x7000, colKept 1 0xFFFF 0x7000, colKept 1 0xFFFF 0x7000, openedOf (colTried 1 0xFFFF 0x7000), by simp, by decide +kernel, by decide +kernel, by decide +kernel, by decide +kernel, by decide +kernel, by decide +kernel, by decide +kernel, openedOf_eq _ (by decide +kernel), by decide +kernel, by decide +kernel⟩

theorem test_meets_CollectiveRecords_3 : ∃ (s : Machine.State) (c : Nat) (q : Nat) (n : Nat) (e : Entry), s.entry c q n = some e ∧ e.ripe 3 = true ∧ e.op = 7 ∧ s.coll c (e.u 56 6) = none := ⟨colRec 7 0xFFFF 0, 0, 2, 1, colEnt 7 0xFFFF 0, by decide +kernel, by decide +kernel, by decide +kernel, by decide +kernel⟩

theorem test_meets_CollectiveRecords_4 : ∃ (s : Machine.State) (c : Nat) (q : Nat) (n : Nat) (e : Entry) (k : Coll), s.entry c q n = some e ∧ e.ripe 3 = true ∧ e.op = 7 ∧ s.coll c (e.u 56 6) = some k ∧ k.owner ≠ CollOwner.record q n := ⟨{ colRec 7 0xFFFF 0 with colls := [col 3 (fun k => { k with tag := 9, owner := .handoff 9 0 })] }, 0, 2, 1, colEnt 7 0xFFFF 0, col 3 (fun k => { k with tag := 9, owner := .handoff 9 0 }), by decide +kernel, by decide +kernel, by decide +kernel, by decide +kernel, by decide +kernel⟩

theorem test_meets_CollectiveRecords_5 : ∃ (s : Machine.State) (c : CayRef) (t : Nat) (ls : Nat) (f : SFields) (p : PostArgs), Issues s c t ∧ Settled s c t [f.d, f.a, f.b] ∧ f.rsv = 0 ∧ p = postArgs (BitVec.toNat (((s.cay c).thr t).reg f.a)) (BitVec.toNat (((s.cay c).thr t).reg f.b)) (BitVec.toNat (((s.cay c).thr t).reg f.d)) ∧ s.lsOperand c.island (BitVec.toNat (((s.cay c).thr t).reg f.a)) p.bytes 1 false = some ls ∧ ls % 64 = 0 ∧ p.bytes ≠ 0 ∧ p.bytes % 64 = 0 ∧ p.bytes ≤ 65536 ∧ (s.cay c).pendingRange (s.cay c).issue ls p.bytes = false ∧ p.direct = true ∧ (s.eng c.island).posts.length < 64 := ⟨sPost (64 + 2 * 2 ^ 32 + 2 ^ 51) [], c0, 0, 0x40, ⟨3, 1, 10, 0⟩, _, ⟨rfl, rfl⟩, by unfold Settled; decide +kernel, by decide +kernel, rfl, by decide +kernel, by decide +kernel, by decide +kernel, by decide +kernel, by decide +kernel, by decide +kernel, by decide +kernel, by decide +kernel⟩

theorem test_meets_CollectiveRecords_6 : ∃ (s : Machine.State) (c : CayRef) (t : Nat) (ls : Nat) (f : SFields) (p : PostArgs) (k : Coll), Issues s c t ∧ Settled s c t [f.d, f.a, f.b] ∧ f.rsv = 0 ∧ p = postArgs (BitVec.toNat (((s.cay c).thr t).reg f.a)) (BitVec.toNat (((s.cay c).thr t).reg f.b)) (BitVec.toNat (((s.cay c).thr t).reg f.d)) ∧ s.lsOperand c.island (BitVec.toNat (((s.cay c).thr t).reg f.a)) p.bytes 1 false = some ls ∧ ls % 64 = 0 ∧ p.bytes ≠ 0 ∧ p.bytes % 64 = 0 ∧ p.bytes ≤ 65536 ∧ (s.cay c).pendingRange (s.cay c).issue ls p.bytes = false ∧ p.direct = false ∧ s.collAt c.island (s.task ((s.cay c).thr t).task).ctx p.tag = some k ∧ s.postable k p = true ∧ (List.find? (fun x => x.num == k.num) s.colls = some k) ∧ k.reduces = true ∧ (∀ (o : GEnt), k.ownerOf p.chunk = some o → o.fab ≠ s.fabId) ∧ (∀ (v : NodeVal), v ∈ k.vals → v.chunk ≠ p.chunk) ∧ (¬p.chunk ∈ k.landed) := ⟨sPost 64 [colFar], c0, 0, 0x40, ⟨3, 1, 10, 0⟩, _, colFar, ⟨rfl, rfl⟩, by unfold Settled; decide +kernel, by decide +kernel, rfl, by decide +kernel, by decide +kernel, by decide +kernel, by decide +kernel, by decide +kernel, by decide +kernel, by decide +kernel, by decide +kernel, by decide +kernel, by decide +kernel, by decide +kernel, by decide +kernel, by decide +kernel, by decide +kernel⟩

theorem test_meets_Chunks_0 : ∃ (s : Machine.State) (isl : Nat) (m : Msg) (rest : List Msg), (s.eng isl).outq = m :: rest ∧ m.dfab = s.fabId := ⟨sCol { Engine.reset with outq := [msgOf2 1 []] } [], 0, msgOf2 1 [], [], by decide +kernel, by decide +kernel⟩

theorem test_meets_Chunks_1 : ∃ (s : Machine.State) (isl : Nat) (m : Msg) (rest : List Msg) (i : Nat), (s.eng isl).outq = m :: rest ∧ m.dfab ≠ s.fabId ∧ s.straitFor isl m.dfab = some i ∧ s.fld Fld.strInjCtlMode i = 0 := ⟨sCol { Engine.reset with outq := [{ msgOf2 1 [] with dfab := 2, sfab := 1 }] } [], 0, { msgOf2 1 [] with dfab := 2, sfab := 1 }, [], 0, by decide +kernel, by decide +kernel, by decide +kernel, by decide +kernel⟩

theorem test_meets_Chunks_2 : ∃ (s : Machine.State) (isl : Nat) (i : Nat) (sat : Nat) (k : Coll) (t : Tx) (bs : List (BitVec 8)), isl < 24 ∧ k.ctx < 64 ∧ (s.eng isl).outq = [] ∧ (s.eng isl).relays = [] ∧ (s.eng isl).posts = [] ∧ s.turn = none ∧ s.colls = [k] ∧ k.tx = [t] ∧ t.isl = isl ∧ t.credit = true ∧ t.out = false ∧ t.acked = false ∧ t.copy = [] ∧ (∀ (v : Tbl Nat) (w : Tbl (List Nat)), { run := s.run, die := s.die, regs := s.regs, stage := s.stage, latch := s.latch, hbm := s.hbm, poison := s.poison, fuse := s.fuse, cays := s.cays, ics := s.ics, tasks := s.tasks, taskNum := s.taskNum, shadowCnt := s.shadowCnt, notifs := s.notifs, entries := s.entries, groups := s.groups, groupNum := s.groupNum, txnNum := s.txnNum, wgts := s.wgts, roles := s.roles, srvs := s.srvs, pw := s.pw, vts := v, vwait := w, loads := s.loads, turn := s.turn, turnPast := s.turnPast, strs := s.strs, routes := s.routes, engs := s.engs, colls := s.colls, collNum := s.collNum, tgs := s.tgs, runs := s.runs, runNum := s.runNum, stos := s.stos, stoNum := s.stoNum, ckpts := s.ckpts, cw := s.cw, ports := s.ports, mod := s.mod, mems := s.mems, mons := s.mons, fw := s.fw, hostReads := s.hostReads, hostTag := s.hostTag, outbox := s.outbox, ptime := s.ptime, free := s.free, pending := s.pending : Machine.State }.txVal k t = NodeRes.ok bs sat) ∧ t.dfab ≠ s.fabId ∧ s.straitFor isl t.dfab = some i ∧ s.fld Fld.strInjCtlMode i = 0 := ⟨sCol Engine.reset [col 3 (fun k => { k with tx := [txTo2], vals := [⟨0, 0, 1, data64⟩] })], 0, 0, 0, col 3 (fun k => { k with tx := [txTo2], vals := [⟨0, 0, 1, data64⟩] }), txTo2, data64, by decide +kernel, by decide +kernel, by decide +kernel, by decide +kernel, by decide +kernel, by decide +kernel, by decide +kernel, by decide +kernel, by decide +kernel, by decide +kernel, by decide +kernel, by decide +kernel, by decide +kernel, by intro v w; rfl, by decide +kernel, by decide +kernel, by decide +kernel⟩

set_option maxRecDepth 20000 in
theorem test_meets_Chunks_3 : ∃ (s : Machine.State) (s1 : Machine.State) (isl : Nat) (x : InMsg), isl < 24 ∧ ((s.takeMsg isl fun m => m.msg == 0 && m.dfab == s.fabId) = some (x, s1)) ∧ x.m.crc ≠ x.m.sum := ⟨sCol (inbox { msgOf2 0 data64 with chunk := 7 }) [], (taken (sCol (inbox { msgOf2 0 data64 with chunk := 7 }) []) isData).2, 0, (taken (sCol (inbox { msgOf2 0 data64 with chunk := 7 }) []) isData).1, by decide +kernel, taken_eq _ _ (by decide +kernel), by decide +kernel⟩

set_option maxRecDepth 20000 in
theorem test_meets_Chunks_4 : ∃ (s : Machine.State) (s1 : Machine.State) (isl : Nat) (x : InMsg) (k : Coll) (r : Rx) (t : Machine.State), isl < 24 ∧ ((s.takeMsg isl fun m => m.msg == 0 && m.dfab == s.fabId) = some (x, s1)) ∧ x.m.crc = x.m.sum ∧ s1.stale isl x.m = false ∧ s1.turn = none ∧ s1.collAt isl x.m.dctx x.m.tag = some k ∧ k.rx = [r] ∧ r.isl = isl ∧ r.chunk = x.m.chunk ∧ r.lo = x.m.lo ∧ r.log = x.m.log ∧ r.sfab = x.m.sfab ∧ r.got = false ∧ k.reduces = false ∧ (((s1.answer isl x 2).modColl k.num fun y => { num := y.num, ctx := y.ctx, owner := y.owner, op := y.op, tree := y.tree, fmt := y.fmt, notify := y.notify, dstLs := y.dstLs, posted := y.posted, dstCay := y.dstCay, logChunk := y.logChunk, tgroup := y.tgroup, tag := y.tag, desc := y.desc, rank := y.rank, src := y.src, dst := y.dst, count := y.count, map := y.map, step := y.step, half := y.half, mask := y.mask, open_ := y.open_, tx := y.tx, rx := List.map (fun z => if z = r then { isl := z.isl, sfab := z.sfab, sctx := z.sctx, sisl := z.sisl, chunk := z.chunk, lo := z.lo, log := z.log, granted := z.granted, got := true } else z) y.rx, vals := y.vals, landed := y.landed, tiles := y.tiles, work := y.work }).land k isl x.m.chunk (k.landAt x.m.chunk x.m.data.length) x.m.data = Except.ok t) := ⟨sChunk, (taken sChunk isData).2, 0, (taken sChunk isData).1, colIn, rxOf2, okD s0 chunkLanded, by decide +kernel, taken_eq _ _ (by decide +kernel), by decide +kernel, by decide +kernel, by decide +kernel, by decide +kernel, by decide +kernel, by decide +kernel, by decide +kernel, by decide +kernel, by decide +kernel, by decide +kernel, by decide +kernel, by decide +kernel, okD_eq s0 chunkLanded (by decide +kernel)⟩

set_option maxRecDepth 20000 in
theorem test_meets_Chunks_5 : ∃ (s : Machine.State) (s1 : Machine.State) (isl : Nat) (x : InMsg), isl < 24 ∧ ((s.takeMsg isl fun m => m.msg == 0 && m.dfab == s.fabId) = some (x, s1)) ∧ x.m.crc = x.m.sum ∧ s1.stale isl x.m = false ∧ s1.turn = none ∧ s1.collAt isl x.m.dctx x.m.tag = none := ⟨sChunk0, (taken sChunk0 isData0).2, 0, (taken sChunk0 isData0).1, by decide +kernel, taken_eq _ _ (by decide +kernel), by decide +kernel, by decide +kernel, by decide +kernel, by decide +kernel⟩

theorem test_meets_Chunks_6 : ∃ (s : Machine.State) (s1 : Machine.State) (isl : Nat) (m : Msg) (k : Coll) (t : Tx), isl < 24 ∧ s.takeKind isl 1 = some (m, s1) ∧ ((s1.sentTx isl m fun k x => k.ctx == m.dctx) = some (k, t)) := ⟨sCol (inbox (msgOf2 1 [])) [col 3 (fun k => { k with tx := [{ txTo2 with credit := false }] })], (takenK (sCol (inbox (msgOf2 1 [])) [col 3 (fun k => { k with tx := [{ txTo2 with credit := false }] })]) 1).2, 0, (takenK (sCol (inbox (msgOf2 1 [])) [col 3 (fun k => { k with tx := [{ txTo2 with credit := false }] })]) 1).1, col 3 (fun k => { k with tx := [{ txTo2 with credit := false }] }), { txTo2 with credit := false }, by decide +kernel, takenK_eq _ _ (by decide +kernel), by decide +kernel⟩

theorem test_meets_Chunks_7 : ∃ (s : Machine.State) (s1 : Machine.State) (isl : Nat) (m : Msg), isl < 24 ∧ s.takeKind isl 1 = some (m, s1) ∧ ((s1.sentTx isl m fun k x => k.ctx == m.dctx) = none) ∧ (s1.eng isl).posts = [] ∧ s1.collAt isl m.dctx m.tag = none ∧ (s1.eng isl).early.length < 256 := ⟨sCol (inbox (msgOf2 1 [])) [], (takenK (sCol (inbox (msgOf2 1 [])) []) 1).2, 0, (takenK (sCol (inbox (msgOf2 1 [])) []) 1).1, by decide +kernel, takenK_eq _ _ (by decide +kernel), by decide +kernel, by decide +kernel, by decide +kernel, by decide +kernel⟩

theorem test_meets_Chunks_8 : ∃ (s : Machine.State) (s1 : Machine.State) (isl : Nat) (m : Msg), isl < 24 ∧ s.takeKind isl 1 = some (m, s1) ∧ ((s1.sentTx isl m fun k x => k.ctx == m.dctx) = none) ∧ (s1.eng isl).posts = [] ∧ s1.collAt isl m.dctx m.tag = none ∧ 256 ≤ (s1.eng isl).early.length := ⟨sCol { inbox (msgOf2 1 []) with early := List.replicate 256 askMsg } [], (takenK (sCol { inbox (msgOf2 1 []) with early := List.replicate 256 askMsg } []) 1).2, 0, (takenK (sCol { inbox (msgOf2 1 []) with early := List.replicate 256 askMsg } []) 1).1, by decide +kernel, takenK_eq _ _ (by decide +kernel), by decide +kernel, by decide +kernel, by decide +kernel, by decide +kernel⟩

theorem test_meets_Chunks_9 : ∃ (s : Machine.State) (s1 : Machine.State) (isl : Nat) (m : Msg) (k : Coll) (t : Tx), s.takeKind isl 2 = some (m, s1) ∧ ((s1.sentTx isl m fun x t => t.out && t.dctx == m.dctx) = some (k, t)) := ⟨sCol (inbox (msgOf2 2 [])) [col 3 (fun k => { k with tx := [{ txTo2 with out := true }] })], (takenK (sCol (inbox (msgOf2 2 [])) [col 3 (fun k => { k with tx := [{ txTo2 with out := true }] })]) 2).2, 0, (takenK (sCol (inbox (msgOf2 2 [])) [col 3 (fun k => { k with tx := [{ txTo2 with out := true }] })]) 2).1, col 3 (fun k => { k with tx := [{ txTo2 with out := true }] }), { txTo2 with out := true }, takenK_eq _ _ (by decide +kernel), by decide +kernel⟩

theorem test_meets_Chunks_10 : ∃ (s : Machine.State) (s1 : Machine.State) (isl : Nat) (m : Msg) (k : Coll) (t : Tx), isl < 24 ∧ s.takeKind isl 3 = some (m, s1) ∧ ((s1.sentTx isl m fun x t => t.out && t.dctx == m.dctx) = some (k, t)) ∧ t.attempt < 8 := ⟨sCol (inbox (msgOf2 3 [])) [col 3 (fun k => { k with tx := [{ txTo2 with out := true, attempt := 7 }] })], (takenK (sCol (inbox (msgOf2 3 [])) [col 3 (fun k => { k with tx := [{ txTo2 with out := true, attempt := 7 }] })]) 3).2, 0, (takenK (sCol (inbox (msgOf2 3 [])) [col 3 (fun k => { k with tx := [{ txTo2 with out := true, attempt := 7 }] })]) 3).1, col 3 (fun k => { k with tx := [{ txTo2 with out := true, attempt := 7 }] }), { txTo2 with out := true, attempt := 7 }, by decide +kernel, takenK_eq _ _ (by decide +kernel), by decide +kernel, by decide +kernel⟩

set_option maxRecDepth 20000 in
theorem test_meets_Chunks_11 : ∃ (s : Machine.State) (s1 : Machine.State) (isl : Nat) (m : Msg) (k : Coll) (t : Tx), isl < 24 ∧ s.takeKind isl 3 = some (m, s1) ∧ ((s1.sentTx isl m fun x t => t.out && t.dctx == m.dctx) = some (k, t)) ∧ 8 ≤ t.attempt := ⟨sLast, (takenK sLast 3).2, 0, (takenK sLast 3).1, colLast, { txTo2 with out := true, attempt := 8 }, by decide +kernel, takenK_eq _ _ (by decide +kernel), by decide +kernel, by decide +kernel⟩

set_option maxRecDepth 20000 in
theorem test_meets_Chunks_13 : ∃ (s : Machine.State) (s1 : Machine.State) (isl : Nat) (x : InMsg), isl < 24 ∧ ((s.takeMsg isl fun m => m.dfab != s.fabId) = some (x, s1)) ∧ x.m.msg = 0 ∧ routeKind (s.route x.m.dfab) = 1 ∧ x.m.crc = x.m.sum ∧ (s.eng isl).relayed + x.m.data.length ≤ 2 ^ 21 := ⟨sCol (inbox (Msg.sealed { msgOf2 0 data64 with dfab := 3 })) [], (taken (sCol (inbox (Msg.sealed { msgOf2 0 data64 with dfab := 3 })) []) (fun m => m.dfab != 1)).2, 0, (taken (sCol (inbox (Msg.sealed { msgOf2 0 data64 with dfab := 3 })) []) (fun m => m.dfab != 1)).1, by decide +kernel, taken_eq _ _ (by decide +kernel), by decide +kernel, by decide +kernel, by decide +kernel, by decide +kernel⟩

theorem test_meets_CollectiveEnds_0 : ∃ (s : Machine.State) (s1 : Machine.State) (isl : Nat) (m : Msg), s.takeKind isl 4 = some (m, s1) := ⟨sCol (inbox (msgOf2 4 [])) [col 3 (fun k => { k with rx := [rxOf2] })], (takenK (sCol (inbox (msgOf2 4 [])) [col 3 (fun k => { k with rx := [rxOf2] })]) 4).2, 0, (takenK (sCol (inbox (msgOf2 4 [])) [col 3 (fun k => { k with rx := [rxOf2] })]) 4).1, takenK_eq _ _ (by decide +kernel)⟩

theorem test_meets_CollectiveEnds_1 : ∃ (_s : Machine.State) (isl : Nat), isl < 24 := ⟨sCol Engine.reset [col 1 (fun k => { k with dstLs := false, rx := [{ rxOf2 with granted := false }] })], 0, by decide +kernel⟩

set_option maxRecDepth 20000 in
theorem test_meets_CollectiveEnds_2 : ∃ (s : Machine.State) (s1 : Machine.State) (isl : Nat) (m : Msg) (k : Coll), s.takeKind isl 5 = some (m, s1) ∧ s1.turn = none ∧ (List.find? (fun k => k.tag == m.tag && (k.ctx == m.dctx || k.tx.any fun t => t.dctx == m.dctx)) s1.colls = some k) := ⟨sAbort, (takenK sAbort 5).2, 0, (takenK sAbort 5).1, colSent, takenK_eq _ _ (by decide +kernel), by decide +kernel, by decide +kernel⟩

theorem test_meets_CollectiveEnds_3 : ∃ (s : Machine.State) (s1 : Machine.State) (isl : Nat) (m : Msg), s.takeKind isl 6 = some (m, s1) := ⟨sCol (inbox { msgOf2 6 [] with epoch := 3 }) [col 3 (fun k => { k with tx := [{ txTo2 with acked := true }], rx := [rxOf2] })], (takenK (sCol (inbox { msgOf2 6 [] with epoch := 3 }) [col 3 (fun k => { k with tx := [{ txTo2 with acked := true }], rx := [rxOf2] })]) 6).2, 0, (takenK (sCol (inbox { msgOf2 6 [] with epoch := 3 }) [col 3 (fun k => { k with tx := [{ txTo2 with acked := true }], rx := [rxOf2] })]) 6).1, takenK_eq _ _ (by decide +kernel)⟩

theorem test_meets_CollectiveEnds_4 : ∃ (s : Machine.State) (c : Nat) (tag : Nat) (isl : Nat) (k : Coll), isl < 24 ∧ s.collAt isl c tag = some k ∧ s.closable k isl = true ∧ k.open_ = 2 ^ isl := ⟨{ sCol Engine.reset [col 3 (fun k => { k with landed := [0], tx := [{ txTo2 with acked := true }] })] with entries := [{ colEnt 3 0xFFFF 0 with begun := true }] }, 0, 1, 0, col 3 (fun k => { k with landed := [0], tx := [{ txTo2 with acked := true }] }), by decide +kernel, by decide +kernel, by decide +kernel, by decide +kernel⟩

theorem test_meets_CollectiveEnds_5 : ∃ (s : Machine.State) (c : Nat) (tag : Nat) (isl : Nat) (k : Coll), isl < 24 ∧ s.collAt isl c tag = some k ∧ s.closable k isl = true ∧ k.open_ ≠ 2 ^ isl := ⟨sCol Engine.reset [col 3 (fun k => { k with landed := [0], mask := 3, open_ := 3 })], 0, 1, 0, col 3 (fun k => { k with landed := [0], mask := 3, open_ := 3 }), by decide +kernel, by decide +kernel, by decide +kernel, by decide +kernel⟩

theorem test_meets_CollectiveEnds_6 : ∃ (_s : Machine.State) (isl : Nat), isl < 24 := ⟨sCol Engine.reset [col 1 (fun k => { k with dstLs := false, rx := [rxOf2] })], 0, by decide +kernel⟩

set_option maxRecDepth 20000 in
theorem test_meets_WeightOperations_0 : ∃ (s : Machine.State) (s1 : Machine.State) (t : Machine.State) (t1 : Machine.State) (v : Machine.State × List Nat) (c : Nat) (q : Nat) (n : Nat) (i : Nat) (e : Entry) (m : Manifest) (xs : List Shard) (ys : List Shard) (j : LoadJob), s.entry c q n = some e ∧ e.ripe 4 = true ∧ e.op = 1 ∧ s.readManifest c (e.u 56 6) false (wgtOwner e) = ManRead.ok m ∧ m.adapter = false ∧ s.turn = none ∧ s1 = s.dropReads (wgtOwner e) ∧ s1.repairs c m = none ∧ s1.updates c m = none ∧ (m.inplace && ((s1.wgt c).model m.model).holds) = false ∧ (List.find? (fun i => (((s1.wgt c).model m.model).slot i).st == GenSt.free) (List.range 4) = some i) ∧ s1.fit c m.shards = Fit.ok xs ∧ s1.back c xs = some (t, ys) ∧ j = loadJob e m (some i) LoadKind.fresh ys ∧ (t1 = (t.modModel c m.model fun y => have __src := y.setSlot i { st := GenSt.loading, num := m.gen, built := false, manifest := e.u 56 6, shards := [] }; { slots := __src.slots, top := __src.top, inplace := m.inplace, pins := __src.pins, evicted := __src.evicted, barrier := __src.barrier, suspectAll := __src.suspectAll, lastUse := __src.lastUse, staged := __src.staged }).addJob e j) ∧ (t1.stoOpenAll c (List.filterMap (fun i => Option.map (fun x => (x.shard.target, x.shard.offset, x.shard.bytes)) j.shards[i]?) (List.range ys.length)) [] = Except.ok v) := ⟨sLoad, s1Load, backLoad.1, t1Load, okD (s0, []) openLoad, 0, 2, 1, 0, eLoad, mLoad, xsLoad, backLoad.2, jLoad, by decide +kernel, by decide +kernel, by decide +kernel, manOf_eq _ (by decide +kernel), by decide +kernel, by decide +kernel, rfl, by decide +kernel, by decide +kernel, by decide +kernel, by decide +kernel, fitOf_eq _ (by decide +kernel), getD_eq (s0, []) _ (by decide +kernel), rfl, rfl, okD_eq (s0, []) openLoad (by decide +kernel)⟩

set_option maxRecDepth 20000 in
theorem test_meets_WeightOperations_1 : ∃ (s : Machine.State) (s1 : Machine.State) (c : Nat) (q : Nat) (n : Nat) (i : Nat) (e : Entry) (m : Manifest), s.entry c q n = some e ∧ e.ripe 4 = true ∧ e.op = 1 ∧ s.readManifest c (e.u 56 6) false (wgtOwner e) = ManRead.ok m ∧ m.adapter = false ∧ s.turn = none ∧ s1 = s.dropReads (wgtOwner e) ∧ s1.repairs c m = none ∧ s1.updates c m = some i ∧ s.stepping c = false := ⟨sInplace, sInplace.dropReads (wgtOwner (wgtEnt 1 0 0 0xB000)), 0, 2, 1, 0, wgtEnt 1 0 0 0xB000, manOf (sInplace.readManifest 0 0xB000 false (wgtOwner (wgtEnt 1 0 0 0xB000))), by decide +kernel, by decide +kernel, by decide +kernel, manOf_eq _ (by decide +kernel), by decide +kernel, by decide +kernel, rfl, by decide +kernel, by decide +kernel, by decide +kernel⟩

theorem test_meets_WeightOperations_2 : ∃ (s : Machine.State) (c : Nat) (q : Nat) (n : Nat) (i : Nat) (e : Entry) (x : Model), c < 64 ∧ s.entry c q n = some e ∧ e.ripe 4 = true ∧ e.op = 2 ∧ x = (s.wgt c).model e.model ∧ x.evicted = false ∧ x.slotOf e.gen = some i ∧ (x.slot i).st = GenSt.ready ∧ (s.served c).snd ≠ e.gen ∧ ((s.served c).snd = 0 ∨ (s.served c).fst = e.model ∨ (s.srv c).reqs = []) ∧ s.stepping c = true := ⟨{ sWgt [wgtEnt 2 1 1 0] (wg [(0, gslot .ready 1 [])] id) with srvs := [(0, { SrvCtx.reset with step := some step1 })] }, 0, 2, 1, 0, wgtEnt 2 1 1 0, _, by decide +kernel, by decide +kernel, by decide +kernel, by decide +kernel, rfl, by decide +kernel, by decide +kernel, by decide +kernel, by decide +kernel, by decide +kernel, by decide +kernel⟩

theorem test_meets_WeightOperations_3 : ∃ (s : Machine.State) (c : Nat) (q : Nat) (n : Nat) (i : Nat) (e : Entry) (x : Model), c < 64 ∧ s.entry c q n = some e ∧ e.ripe 4 = true ∧ e.op = 2 ∧ x = (s.wgt c).model e.model ∧ x.evicted = false ∧ x.slotOf e.gen = some i ∧ (x.slot i).st = GenSt.ready ∧ (s.served c).snd ≠ e.gen ∧ ((s.served c).snd = 0 ∨ (s.served c).fst = e.model ∨ (s.srv c).reqs = []) ∧ s.stepping c = false := ⟨sWgt [wgtEnt 2 1 1 0] (wg [(0, gslot .ready 1 [])] id), 0, 2, 1, 0, wgtEnt 2 1 1 0, _, by decide +kernel, by decide +kernel, by decide +kernel, by decide +kernel, rfl, by decide +kernel, by decide +kernel, by decide +kernel, by decide +kernel, by decide +kernel, by decide +kernel⟩

theorem test_meets_WeightOperations_4 : ∃ (s : Machine.State) (c : Nat) (q : Nat) (n : Nat) (e : Entry) (x : Model) (i : Nat), s.entry c q n = some e ∧ e.ripe 4 = true ∧ e.op = 3 ∧ x = (s.wgt c).model e.model ∧ x.slotOf e.gen = some i ∧ (x.slot i).st = GenSt.ready := ⟨sWgt [wgtEnt 3 1 1 0] (wg [(0, gslot .ready 1 [shd none])] id), 0, 2, 1, wgtEnt 3 1 1 0, _, 0, by decide +kernel, by decide +kernel, by decide +kernel, rfl, by decide +kernel, by decide +kernel⟩

theorem test_meets_WeightOperations_5 : ∃ (s : Machine.State) (c : Nat) (q : Nat) (n : Nat) (e : Entry) (x : Model) (i : Nat), s.entry c q n = some e ∧ e.ripe 4 = true ∧ e.op = 3 ∧ x = (s.wgt c).model e.model ∧ x.slotOf e.gen = some i ∧ ((x.slot i).st = GenSt.serving ∨ (x.slot i).st = GenSt.retained) := ⟨sWgt [wgtEnt 3 1 1 0] (wg [(0, gslot .serving 1 [shd none])] id), 0, 2, 1, wgtEnt 3 1 1 0, _, 0, by decide +kernel, by decide +kernel, by decide +kernel, rfl, by decide +kernel, by decide +kernel⟩

theorem test_meets_WeightOperations_6 : ∃ (s : Machine.State) (c : Nat) (q : Nat) (n : Nat) (e : Entry) (x : Model), s.entry c q n = some e ∧ e.ripe 4 = true ∧ e.op = 3 ∧ x = (s.wgt c).model e.model ∧ x.slotOf e.gen = none := ⟨sWgt [wgtEnt 3 1 2 0] (wg [(0, gslot .serving 1 [shd none])] id), 0, 2, 1, wgtEnt 3 1 2 0, _, by decide +kernel, by decide +kernel, by decide +kernel, rfl, by decide +kernel⟩

set_option maxRecDepth 20000 in
theorem test_meets_WeightOperations_7 : ∃ (s : Machine.State) (t : Machine.State) (c : Nat) (q : Nat) (n : Nat) (i : Nat) (e : Entry), s.entry c q n = some e ∧ e.ripe 4 = true ∧ e.op = 4 ∧ ((s.wgt c).model e.model).slotOf e.gen = some i ∧ (((s.wgt c).model e.model).slot i).st ≠ GenSt.loading ∧ ((s.hostReads.any fun h => h.owner == wgtOwner e && h.failed) = false) ∧ s.verifyAll c (wgtOwner e) (((s.wgt c).model e.model).slot i).shards = (t, some none) := ⟨sWgt [wgtEnt 4 1 1 0] (wg [(0, gslot .ready 1 [shd (some shdDigest)])] id), sWgt [wgtEnt 4 1 1 0] (wg [(0, gslot .ready 1 [shd (some shdDigest)])] id), 0, 2, 1, 0, wgtEnt 4 1 1 0, by decide +kernel, by decide +kernel, by decide +kernel, by decide +kernel, by decide +kernel, by decide +kernel, verifyAll_ok _ _ _ (shd (some shdDigest)) rfl rfl rfl rfl (by decide +kernel)⟩

set_option maxRecDepth 20000 in
theorem test_meets_WeightOperations_8 : ∃ (s : Machine.State) (t : Machine.State) (c : Nat) (q : Nat) (n : Nat) (i : Nat) (e : Entry) (k : Nat), s.entry c q n = some e ∧ e.ripe 4 = true ∧ e.op = 4 ∧ ((s.wgt c).model e.model).slotOf e.gen = some i ∧ (((s.wgt c).model e.model).slot i).st ≠ GenSt.loading ∧ ((s.hostReads.any fun h => h.owner == wgtOwner e && h.failed) = false) ∧ s.verifyAll c (wgtOwner e) (((s.wgt c).model e.model).slot i).shards = (t, some (some k)) := ⟨sWgt [wgtEnt 4 1 1 0] (wg [(0, gslot .ready 1 [shd (some [])])] id), sWgt [wgtEnt 4 1 1 0] (wg [(0, gslot .ready 1 [shd (some [])])] id), 0, 2, 1, 0, wgtEnt 4 1 1 0, 0, by decide +kernel, by decide +kernel, by decide +kernel, by decide +kernel, by decide +kernel, by decide +kernel, verifyAll_bad _ _ _ (shd (some [])) rfl rfl (by decide +kernel)⟩

theorem test_meets_WeightOperations_9 : ∃ (s : Machine.State) (c : Nat) (q : Nat) (n : Nat) (e : Entry), s.entry c q n = some e ∧ e.ripe 4 = true ∧ e.op = 5 ∧ ((s.wgt c).model e.model).evicted = false := ⟨sWgt [wgtEnt 5 1 1 0] (wg [] id), 0, 2, 1, wgtEnt 5 1 1 0, by decide +kernel, by decide +kernel, by decide +kernel, by decide +kernel⟩

theorem test_meets_WeightOperations_10 : ∃ (s : Machine.State) (c : Nat) (q : Nat) (n : Nat) (e : Entry), s.entry c q n = some e ∧ e.ripe 4 = true ∧ e.op = 5 ∧ ((s.wgt c).model e.model).evicted = true := ⟨sWgt [wgtEnt 5 1 1 0] (wg [] (fun m => { m with evicted := true })), 0, 2, 1, wgtEnt 5 1 1 0, by decide +kernel, by decide +kernel, by decide +kernel, by decide +kernel⟩

theorem test_meets_WeightOperations_11 : ∃ (s : Machine.State) (c : Nat) (q : Nat) (n : Nat) (e : Entry), s.entry c q n = some e ∧ e.ripe 4 = true ∧ e.op = 6 := ⟨{ sWgt [wgtEnt 6 1 1 0] (wg [] (fun m => { m with pins := 1 })) with ptime := 100 }, 0, 2, 1, wgtEnt 6 1 1 0, by decide +kernel, by decide +kernel, by decide +kernel⟩

theorem test_meets_WeightOperations_12 : ∃ (s : Machine.State) (c : Nat) (q : Nat) (n : Nat) (e : Entry) (v : Machine.State × Nat), s.entry c q n = some e ∧ e.ripe 4 = true ∧ e.op = 7 ∧ s.stoOpen c (e.u 48 1) (e.u 64 8) (e.u 72 8) = Except.ok v := ⟨sCk, 0, 2, 1, eCk, okD (s0, 0) (sCk.stoOpen 0 (eCk.u 48 1) (eCk.u 64 8) (eCk.u 72 8)), by decide +kernel, by decide +kernel, by decide +kernel, okD_eq (s0, 0) _ (by decide +kernel)⟩

theorem test_meets_WeightOperations_13 : ∃ (s : Machine.State) (c : Nat) (q : Nat) (n : Nat) (e : Entry) (cls : Nat), s.entry c q n = some e ∧ e.ripe 4 = true ∧ e.op = 7 ∧ s.stoOpen c (e.u 48 1) (e.u 64 8) (e.u 72 8) = Except.error cls := ⟨sCkOff, 0, 2, 1, eCk, 3, by decide +kernel, by decide +kernel, by decide +kernel, err_eq 3 _ (by decide +kernel)⟩

set_option maxRecDepth 20000 in
theorem test_meets_WeightEvents_0 : ∃ (s : Machine.State) (c : Nat) (q : Nat) (n : Nat) (i : Nat) (j : LoadJob) (x : LoadShard) (bs : List (BitVec 8)) (e : Entry), s.job c q n = some j ∧ j.shards[i]? = some x ∧ x.checked = false ∧ x.shard.bytes ≤ x.landed ∧ s.arrived j i x.shard = some bs ∧ j.kind = LoadKind.fresh ∧ x.shard.host = none ∧ s.entry c q n = some e ∧ e.done = false ∧ e.point = none ∧ some (sha3 bs) ≠ x.shard.digest := ⟨sJobs .fresh [⟨shd (some []), 512, false⟩] loading, 0, 2, 1, 0, wjob .fresh [⟨shd (some []), 512, false⟩], ⟨shd (some []), 512, false⟩, (sJobs .fresh [⟨shd (some []), 512, false⟩] loading).shardBytes (shd (some [])), eRun, by decide +kernel, by decide +kernel, by decide +kernel, by decide +kernel, arrived_pages _ _ _ _ (by decide +kernel) (by decide +kernel), by decide +kernel, by decide +kernel, by decide +kernel, by decide +kernel, by decide +kernel, by simp [shd, sha3_ne_nil]⟩

set_option maxRecDepth 20000 in
theorem test_meets_WeightEvents_1 : ∃ (s : Machine.State) (c : Nat) (q : Nat) (n : Nat) (i : Nat) (j : LoadJob) (x : LoadShard) (bs : List (BitVec 8)) (e : Entry), s.job c q n = some j ∧ j.shards[i]? = some x ∧ x.checked = false ∧ x.shard.bytes ≤ x.landed ∧ s.arrived j i x.shard = some bs ∧ j.kind = LoadKind.fresh ∧ x.shard.host = none ∧ s.entry c q n = some e ∧ e.done = false ∧ e.point = none ∧ some (sha3 bs) = x.shard.digest ∧ (∃ k y, k ≠ i ∧ j.shards[k]? = some y ∧ y.checked = false) := ⟨sJobs .fresh [⟨shd (some shdDigest), 512, false⟩, ⟨shd none, 0, false⟩] loading, 0, 2, 1, 0, wjob .fresh [⟨shd (some shdDigest), 512, false⟩, ⟨shd none, 0, false⟩], ⟨shd (some shdDigest), 512, false⟩, (sJobs .fresh [⟨shd (some shdDigest), 512, false⟩, ⟨shd none, 0, false⟩] loading).shardBytes (shd (some shdDigest)), eRun, rfl, rfl, by decide +kernel, by decide +kernel, arrived_pages _ _ _ _ (by decide +kernel) (by decide +kernel), by decide +kernel, by decide +kernel, by decide +kernel, by decide +kernel, by decide +kernel, congrArg some (shdDigest_eq _ _ rfl rfl rfl), ⟨1, ⟨shd none, 0, false⟩, by decide, rfl, rfl⟩⟩

set_option maxRecDepth 20000 in
theorem test_meets_WeightEvents_2 : ∃ (s : Machine.State) (c : Nat) (q : Nat) (n : Nat) (i : Nat) (j : LoadJob) (x : LoadShard) (bs : List (BitVec 8)) (e : Entry) (k : Nat), s.job c q n = some j ∧ j.shards[i]? = some x ∧ x.checked = false ∧ x.shard.bytes ≤ x.landed ∧ s.arrived j i x.shard = some bs ∧ j.kind = LoadKind.fresh ∧ x.shard.host = none ∧ s.entry c q n = some e ∧ e.done = false ∧ e.point = none ∧ some (sha3 bs) = x.shard.digest ∧ (∀ (k : Nat) (y : LoadShard), k ≠ i → j.shards[k]? = some y → y.checked = true) ∧ j.slot = some k := ⟨sJobs .fresh [⟨shd (some shdDigest), 512, false⟩] loading, 0, 2, 1, 0, wjob .fresh [⟨shd (some shdDigest), 512, false⟩], ⟨shd (some shdDigest), 512, false⟩, (sJobs .fresh [⟨shd (some shdDigest), 512, false⟩] loading).shardBytes (shd (some shdDigest)), eRun, 0, rfl, rfl, by decide +kernel, by decide +kernel, arrived_pages _ _ _ _ (by decide +kernel) (by decide +kernel), by decide +kernel, by decide +kernel, by decide +kernel, by decide +kernel, by decide +kernel, congrArg some (shdDigest_eq _ _ rfl rfl rfl), by intro k y h; simp [wjob, List.getElem?_cons, h], by decide +kernel⟩

set_option maxRecDepth 20000 in
theorem test_meets_WeightEvents_3 : ∃ (s : Machine.State) (c : Nat) (q : Nat) (n : Nat) (i : Nat) (j : LoadJob) (e : Entry), c < 64 ∧ s.job c q n = some j ∧ j.kind = LoadKind.inplace ∧ j.slot = some i ∧ ((s.wgt c).model j.model).barrier = true ∧ s.stepping c = false ∧ j.held = true ∧ (∀ (k : Nat), k ∈ j.current → ∃ x, j.shards[k]? = some x ∧ x.checked = true) ∧ j.layers.length ≤ j.layer + 1 ∧ s.entry c q n = some e ∧ e.done = false ∧ e.point = none := ⟨sJobs .inplace [⟨shd none, 512, true⟩] (wg [(0, gslot .loading 1 [shd none])] (fun m => { m with inplace := true, barrier := true })), 0, 2, 1, 0, wjob .inplace [⟨shd none, 512, true⟩], eRun, by decide +kernel, by decide +kernel, by decide +kernel, by decide +kernel, by decide +kernel, by decide +kernel, by decide +kernel, fun k hk => cur_checked k hk, by decide +kernel, by decide +kernel, by decide +kernel, by decide +kernel⟩

set_option maxRecDepth 20000 in
theorem test_meets_WeightEvents_4 : ∃ (s : Machine.State) (c : Nat) (m : Nat) (k : Nat) (i : Nat) (x : Shard), c < 64 ∧ s.fld Fld.wgtWalkInterval c ≠ 0 ∧ (((s.wgt c).model m).slot k).st ≠ GenSt.loading ∧ (((s.wgt c).model m).slot k).shards[i]? = some x ∧ x.pages ≠ [] ∧ x.digest.isSome = true ∧ s.shardPoison x = false ∧ x.invalid = false ∧ some (sha3 (s.shardBytes x)) = x.digest := ⟨walked (some shdDigest), 0, 1, 0, 0, shd (some shdDigest), by decide +kernel, by decide +kernel, by decide +kernel, rfl, by decide +kernel, by decide +kernel, by decide +kernel, by decide +kernel, congrArg some (shdDigest_eq _ _ rfl rfl rfl)⟩

set_option maxRecDepth 20000 in
theorem test_meets_WeightEvents_5 : ∃ (s : Machine.State) (c : Nat) (m : Nat) (k : Nat) (i : Nat) (x : Shard), c < 64 ∧ s.fld Fld.wgtWalkInterval c ≠ 0 ∧ (((s.wgt c).model m).slot k).st ≠ GenSt.loading ∧ (((s.wgt c).model m).slot k).shards[i]? = some x ∧ x.pages ≠ [] ∧ x.digest.isSome = true ∧ s.shardPoison x = false ∧ x.invalid = false ∧ some (sha3 (s.shardBytes x)) ≠ x.digest := ⟨walked (some []), 0, 1, 0, 0, shd (some []), by decide +kernel, by decide +kernel, by decide +kernel, by decide +kernel, by decide +kernel, by decide +kernel, by decide +kernel, by decide +kernel, by simp [shd, sha3_ne_nil]⟩

set_option maxRecDepth 20000 in
theorem test_meets_WeightEvents_6 : ∃ (s : Machine.State) (c : Nat) (m : Nat) (l : Nat) (o : ReadOwner), o = ReadOwner.op 9 ((c * 8 + m) * 2 ^ 16 + l) ∧ s.layerShards c m l ≠ [] ∧ (¬l ∈ ((s.wgt c).model m).staged) ∧ ((((s.wgt c).model m).staged.any fun x => layerAfter (s.tieredLayers c m) x == l) = true) ∧ ((s.hostReads.any fun h => h.owner == o && h.failed) = false) ∧ (∀ (x : ShardAt × Shard), x ∈ s.layerShards c m l → ∃ bs, s.readShard c o x.snd = ShardRead.ok bs) := ⟨sTier [0x400000], 0, 1, 1, _, rfl, by decide +kernel, by decide +kernel, by decide +kernel, by decide +kernel, by intro x hx; exact tier_ok _ _ x hx (by decide +kernel)⟩

set_option maxRecDepth 20000 in
theorem test_meets_WeightEvents_7 : ∃ (s : Machine.State) (c : Nat) (m : Nat) (l : Nat) (o : ReadOwner), o = ReadOwner.op 9 ((c * 8 + m) * 2 ^ 16 + l) ∧ s.layerShards c m l ≠ [] ∧ (¬l ∈ ((s.wgt c).model m).staged) ∧ ((((s.wgt c).model m).staged.any fun x => layerAfter (s.tieredLayers c m) x == l) = true) ∧ ((s.hostReads.any fun h => h.owner == o && h.failed) = false) ∧ (∃ x, x ∈ s.layerShards c m l ∧ ∃ w, s.readShard c o x.snd = ShardRead.wait w) := ⟨sTier [], 0, 1, 1, _, rfl, by decide +kernel, by decide +kernel, by decide +kernel, by decide +kernel, ⟨(.gen 1 0 1, tier 1 []), by decide +kernel, _, rfl⟩⟩

theorem test_meets_WeightEvents_8 : ∃ (s : Machine.State) (c : Nat) (m : Nat) (n : Nat), c < 64 ∧ (s.wgt c).want = some n ∧ s.evictOrder c = [m] ∧ s.fld Fld.wgtQuotaPages c < s.wgtUsed c + n := ⟨sWgt [] { wg [(0, gslot .ready 1 [shd none])] id with want := some 64 }, 0, 1, 64, by decide +kernel, by decide +kernel, by decide +kernel, by decide +kernel⟩

theorem test_meets_WeightEvents_9 : ∃ (s : Machine.State) (c : Nat) (m : Nat) (k : Nat), c < 64 ∧ (((s.wgt c).model m).slot k).st = GenSt.retained ∧ s.stepping c = false ∧ ((s.served c).fst ≠ m ∨ s.binders c (((s.wgt c).model m).slot k).num = 0) := ⟨sWgt [] (wg [(0, gslot .retained 1 [shd none])] id), 0, 1, 0, by decide +kernel, by decide +kernel, by decide +kernel, by decide +kernel⟩

theorem test_meets_StorageCommands_0 : ∃ (s : Machine.State) (p : Nat) (num : Nat) (c : Nat) (q : Nat) (n : Nat) (i : Nat) (data : List (BitVec 8)) (m : StoCmd) (j : LoadJob) (x : LoadShard) (_dnr : Bool), p < 2 ∧ (List.find? (fun m => m.num == num) (s.sto p).cmds = some m) ∧ m.op = StoOp.read ∧ m.owner = StoOwner.load c q n i ∧ data.length = m.bytes ∧ (s.sto p).todo = [] ∧ s.job c q n = some j ∧ j.shards[i]? = some x := ⟨sSto loadCmd qp1, 0, 7, 0, 2, 1, 0, List.replicate 512 0x5A, loadCmd, wjob .fresh [⟨shd none, 0, false⟩], ⟨shd none, 0, false⟩, false, by decide +kernel, by decide +kernel, by decide +kernel, by decide +kernel, by decide +kernel, by decide +kernel, by decide +kernel, by decide +kernel⟩

theorem test_meets_StorageCommands_1 : ∃ (s : Machine.State) (p : Nat) (num : Nat) (sct : Nat) (sc : Nat) (_data : List (BitVec 8)) (m : StoCmd) (dnr : Bool), p < 2 ∧ (List.find? (fun m => m.num == num) (s.sto p).cmds = some m) ∧ (¬(sct = 0 ∧ sc = 0)) ∧ dnr = false ∧ m.issues < 4 ∧ (s.sto p).paused = false := ⟨sSto loadCmd qp1, 0, 7, 2, 1, [], loadCmd, false, by decide +kernel, by decide +kernel, by decide +kernel, by decide +kernel, by decide +kernel, by decide +kernel⟩

theorem test_meets_StorageCommands_2 : ∃ (s : Machine.State) (p : Nat) (num : Nat) (sct : Nat) (sc : Nat) (_data : List (BitVec 8)) (m : StoCmd) (dnr : Bool) (c : Nat) (q : Nat) (n : Nat) (k : Ckpt) (e : Entry), p < 2 ∧ (List.find? (fun m => m.num == num) (s.sto p).cmds = some m) ∧ (¬(sct = 0 ∧ sc = 0)) ∧ (dnr = true ∨ 4 ≤ m.issues) ∧ m.owner = StoOwner.ckpt c q n ∧ s.ckpt c q n = some k ∧ s.entry c q n = some e ∧ e.done = false ∧ e.point = none := ⟨sSto ckCmd qp1, 0, 7, 2, 1, [], ckCmd, true, 0, 2, 1, ck1, eRun, by decide +kernel, by decide +kernel, by decide +kernel, by decide +kernel, by decide +kernel, by decide +kernel, by decide +kernel, by decide +kernel, by decide +kernel⟩

theorem test_meets_StorageCommands_3 : ∃ (s : Machine.State) (p : Nat) (target : Nat) (queue : Nat) (k : StoQp) (m : StoCmd), p < 2 ∧ s.qp p target queue = some k ∧ (s.sto p).cmds = [m] ∧ m.target = target ∧ m.queue = queue ∧ m.issues < 4 := ⟨sSto ckCmd qp1, 0, 0, 1, qp1, ckCmd, by decide +kernel, by decide +kernel, by decide +kernel, by decide +kernel, by decide +kernel, by decide +kernel⟩

theorem test_meets_StorageCommands_4 : ∃ (s : Machine.State) (p : Nat) (target : Nat) (queue : Nat) (k : StoQp) (m : StoCmd) (c : Nat) (q : Nat) (n : Nat) (x : Ckpt) (e : Entry), p < 2 ∧ s.qp p target queue = some k ∧ (s.sto p).cmds = [m] ∧ m.target = target ∧ m.owner = StoOwner.ckpt c q n ∧ s.ckpt c q n = some x ∧ s.entry c q n = some e ∧ e.done = false ∧ e.point = none := ⟨sSto ckCmd qp1, 0, 0, 1, qp1, ckCmd, 0, 2, 1, ck1, eRun, by decide +kernel, by decide +kernel, by decide +kernel, by decide +kernel, by decide +kernel, by decide +kernel, by decide +kernel, by decide +kernel, by decide +kernel⟩

theorem test_meets_StorageCommands_5 : ∃ (s : Machine.State) (p : Nat) (target : Nat) (queue : Nat) (k : StoQp) (m : StoCmd), s.qp p target queue = some k ∧ k.err = false ∧ m ∈ (s.sto p).cmds ∧ m.target = target ∧ m.queue = queue := ⟨sSto ckCmd { qp1 with retries := 7 }, 0, 0, 1, { qp1 with retries := 7 }, ckCmd, by decide +kernel, by decide +kernel, by decide +kernel, by decide +kernel, by decide +kernel⟩

theorem test_meets_StorageCommands_6 : ∃ (s : Machine.State) (p : Nat) (target : Nat) (queue : Nat) (k : StoQp), s.qp p target queue = some k ∧ (s.sto p).paused = false ∧ (∀ (t : Nat), k.told = some t → t + us 50 ≤ s.ptime) := ⟨sSto ckCmd qp1, 0, 0, 1, qp1, by decide +kernel, by decide +kernel, by intro t h; cases h⟩

theorem test_meets_StorageCommands_7 : ∃ (s : Machine.State) (p : Nat) (target : Nat) (queue : Nat) (k : StoQp) (t : Nat), s.qp p target queue = some k ∧ (s.sto p).paused = false ∧ k.told = some t ∧ s.ptime < t + us 50 := ⟨sSto ckCmd { qp1 with told := some 99 }, 0, 0, 1, { qp1 with told := some 99 }, 99, by decide +kernel, by decide +kernel, by decide +kernel, by decide +kernel⟩

theorem test_meets_StorageCommands_8 : ∃ (s : Machine.State) (p : Nat) (target : Nat) (queue : Nat) (k : StoQp), p < 2 ∧ s.qp p target queue = some k ∧ (∀ (t : Nat), k.cut = some t → t + us 50 ≤ s.ptime) := ⟨sSto ckCmd qp1, 0, 0, 1, qp1, by decide +kernel, by decide +kernel, by intro t h; cases h⟩

theorem test_meets_StorageCommands_9 : ∃ (s : Machine.State) (p : Nat) (target : Nat) (queue : Nat) (k : StoQp) (t : Nat), p < 2 ∧ s.qp p target queue = some k ∧ k.cut = some t ∧ s.ptime < t + us 50 := ⟨sSto ckCmd { qp1 with cut := some 99 }, 0, 0, 1, { qp1 with cut := some 99 }, 99, by decide +kernel, by decide +kernel, by decide +kernel, by decide +kernel⟩

theorem test_meets_StorageCommands_10 : ∃ (s : Machine.State) (p : Nat) (target : Nat) (queue : Nat) (k : StoQp), s.qp p target queue = some k ∧ k.rose + us 55 ≤ s.ptime := ⟨{ sSto ckCmd qp1 with ptime := 100000 }, 0, 0, 1, qp1, by decide +kernel, by decide +kernel⟩

theorem test_meets_StorageCommands_11 : ∃ (s : Machine.State) (p : Nat) (num : Nat) (off : Nat) (len : Nat) (c : Nat) (q : Nat) (n : Nat) (m : StoCmd) (k : Ckpt) (bs : List (BitVec 8)), (List.find? (fun m => m.num == num && m.op == StoOp.write) (s.sto p).cmds = some m) ∧ m.owner = StoOwner.ckpt c q n ∧ s.ckpt c q n = some k ∧ off + len ≤ m.bytes ∧ s.dvaRead c (k.src + m.off + off) len (ReadOwner.op 8 num) true = DvaRead.ok bs ∧ (s.sto p).paused = false := ⟨sSto ckCmd qp1, 0, 7, 0, 64, 0, 2, 1, ckCmd, ck1, List.replicate 64 0, by decide +kernel, by decide +kernel, by decide +kernel, by decide +kernel, by decide +kernel, by decide +kernel⟩

theorem test_meets_StoragePorts_0 : ∃ (_s : Machine.State) (p : Nat) (_v : Nat), p < 2 := ⟨sSto ckCmd qp1, 0, 2 ^ 12, by decide +kernel⟩

theorem test_meets_StoragePorts_1 : ∃ (_s : Machine.State) (p : Nat), p < 2 := ⟨sSto ckCmd qp1, 0, by decide +kernel⟩

theorem test_meets_StoragePorts_2 : ∃ (s : Machine.State) (p : Nat), p < 2 ∧ (s.sto p).failed = false := ⟨sSto ckCmd qp1, 0, by decide +kernel, by decide +kernel⟩

theorem test_meets_StoragePorts_3 : ∃ (s : Machine.State) (p : Nat) (prio : Nat) (_pause : Bool), prio ≠ s.fld Fld.stoIpCtlPcp p := ⟨sSto ckCmd qp1, 0, 5, true, by decide +kernel⟩

theorem test_meets_StoragePorts_4 : ∃ (s : Machine.State) (p : Nat) (prio : Nat), prio = s.fld Fld.stoIpCtlPcp p := ⟨sSto ckCmd qp1, 0, 3, by decide +kernel⟩

theorem test_meets_StoragePorts_5 : ∃ (s : Machine.State) (p : Nat) (prio : Nat), prio = s.fld Fld.stoIpCtlPcp p := ⟨{ sSto ckCmd qp1 with stos := [(0, { StoPort.reset with paused := true, held := [.keepAlive 0 0] })] }, 0, 3, by decide +kernel⟩

theorem test_meets_StoragePorts_6 : ∃ (s : Machine.State) (p : Nat), (s.sto p).paused = false ∧ s.fld Fld.stoIpCtlIpv6 p = 0 := ⟨sSto ckCmd qp1, 0, by decide +kernel, by decide +kernel⟩

theorem test_meets_StoragePorts_7 : ∃ (s : Machine.State) (p : Nat) (a : Nat), (s.sto p).paused = false ∧ s.fld Fld.stoIpCtlIpv6 p = 0 ∧ a ≠ s.fld (Fld.stoIp.nth 0) p := ⟨sSto ckCmd qp1, 0, 1, by decide +kernel, by decide +kernel, by decide +kernel⟩

theorem test_meets_StoragePorts_8 : ∃ (s : Machine.State) (p : Nat) (target : Nat) (k : StoQp), s.qp p target 0 = some k ∧ (s.sto p).paused = false := ⟨sSto ckCmd { qp1 with queue := 0 }, 0, 0, { qp1 with queue := 0 }, by decide +kernel, by decide +kernel⟩

theorem test_meets_StoragePorts_9 : ∃ (s : Machine.State) (p : Nat) (target : Nat) (queue : Nat) (_b : Bool), p < 2 ∧ s.qp p target queue = none := ⟨sSto ckCmd qp1, 0, 3, 1, true, by decide +kernel, by decide +kernel⟩

theorem test_meets_StoragePorts_10 : ∃ (s : Machine.State) (p : Nat) (target : Nat) (queue : Nat) (k : StoQp), p < 2 ∧ s.qp p target queue = some k := ⟨sSto ckCmd qp1, 0, 0, 1, qp1, by decide +kernel, by decide +kernel⟩

theorem test_meets_Turns_0 : ∃ (s : Machine.State) (c : Nat) (q : Nat) (n : Nat) (e : Entry) (t : Turn), s.entry c q n = some e ∧ e.ripe 5 = true ∧ s.turn = some t := ⟨sTurn (some (turn1 2 id)), 0, 2, 1, turnEnt, turn1 2 id, by decide +kernel, by decide +kernel, by decide +kernel⟩

set_option maxRecDepth 20000 in
theorem test_meets_Turns_1 : ∃ (s : Machine.State) (c : Nat) (q : Nat) (n : Nat) (e : Entry) (r : TurnRec) (refuse : Nat → Machine.State) (d : GroupDesc) (mp : List MapEnt × Nat) (mf : List Shard × Bool) (sl : Machine.State × Option Nat × Bool × List Shard), s.entry c q n = some e ∧ e.ripe 5 = true ∧ s.turn = none ∧ e.turnFields = true ∧ r = e.turnRec ∧ (refuse = fun k => (s.dropReads (turnOwner e)).endOp e St.turnRefused k) ∧ s.turnGroup e r.group refuse = Except.ok d ∧ s.turnMap e r.map d.ents.length refuse = Except.ok mp ∧ s.turnManifest e r refuse = Except.ok mf ∧ (r.map ≠ 0 → coversShards mp.fst (fun i => Option.any (fun x => x.fab == s.fabId) d.ents[i]?) mf.fst = true) ∧ (r.map = 0 ∧ r.tg = 65535 ∨ (s.tgroup c r.tg).isSome = true ∧ s.tgBusy c r.tg false = false) ∧ (∀ (x : Run), x ∈ s.runs → ∀ (i : Nat), i < 24 → bit x.islands i = true → bits r.roles (2 * i + 1) (2 * i) = 0 ∨ bits r.roles (2 * i + 1) (2 * i) = 2) ∧ s.turnSlot e r mf.fst mf.snd refuse = Except.ok sl := ⟨sTurn none, 0, 2, 1, turnEnt, turnEnt.turnRec, turnNo, okD ⟨0, []⟩ turnGrp, okD ([], 0) turnMp, okD ([], false) turnMf, okD (s0, none, false, []) turnSl, by decide +kernel, by decide +kernel, by decide +kernel, by decide +kernel, rfl, rfl, okD_eq ⟨0, []⟩ turnGrp (by decide +kernel), okD_eq ([], 0) turnMp (by decide +kernel), okD_eq ([], false) turnMf (by decide +kernel), by decide +kernel, by decide +kernel, fun x h => absurd h (List.not_mem_nil), okD_eq (s0, none, false, []) turnSl (by decide +kernel)⟩

theorem test_meets_Turns_2 : ∃ (s : Machine.State) (t : Turn), s.turn = some t ∧ t.phase = 2 ∧ t.fail = false ∧ (∀ (p : TurnPiece), p ∈ t.tx → p.done = true) ∧ (∀ (p : TurnPiece), p ∈ t.rx → p.done = true) := ⟨sTurn (some (turn1 2 (fun u => { u with tx := [tpiece true], rx := [tpiece true] }))), turn1 2 (fun u => { u with tx := [tpiece true], rx := [tpiece true] }), by decide +kernel, by decide +kernel, by decide +kernel, by decide +kernel, by decide +kernel⟩

theorem test_meets_Turns_3 : ∃ (s : Machine.State) (t : Turn), s.turn = some t ∧ t.phase = 3 ∧ (∀ (c : Nat), c < 64 → s.stepping c = false) := ⟨sTurn (some (turn1 3 id)), turn1 3 id, by decide +kernel, by decide +kernel, by decide +kernel⟩

theorem test_meets_Turns_4 : ∃ (s : Machine.State) (t : Turn) (v : Nat), s.turn = some t ∧ t.phase = 4 ∧ v % 2 = 1 := ⟨sTurn (some (turn1 4 id)), turn1 4 id, 1, by decide +kernel, by decide +kernel, by decide +kernel⟩

theorem test_meets_Turns_5 : ∃ (s : Machine.State) (t : Turn), s.turn = some t ∧ t.phase = 5 ∧ s.straitsBack t = true ∧ (t.routed = true ∨ (s.readImage t.route t.ctx).snd = some true) := ⟨sTurn (some (turn1 5 id)), turn1 5 id, by decide +kernel, by decide +kernel, by decide +kernel, Or.inl rfl⟩

set_option maxRecDepth 20000 in
theorem test_meets_Turns_6 : ∃ (s : Machine.State) (t : Turn), s.turn = some t ∧ t.phase = 5 ∧ s.straitsBack t = true ∧ t.routed = false ∧ (s.readImage t.route t.ctx).snd = some false := ⟨sTurn (some (turn1 5 (fun u => { u with routed := false, route := 0x40000 }))), turn1 5 (fun u => { u with routed := false, route := 0x40000 }), by decide +kernel, by decide +kernel, by decide +kernel, by decide +kernel, by decide +kernel⟩

theorem test_meets_Turns_7 : ∃ (s : Machine.State) (t : Turn) (r : Nat) (me : TgMem), s.turn = some t ∧ t.ballot.vote = none ∧ s.voterRank Topic.turnOf = some (r, me) ∧ t.fail = false ∧ t.phase = 6 := ⟨sTurn (some (turn1 6 id)), turn1 6 id, 0, ⟨1, 0, 0⟩, by decide +kernel, by decide +kernel, by decide +kernel, by decide +kernel, by decide +kernel⟩

theorem test_meets_Turns_8 : ∃ (s : Machine.State) (t : Turn) (r : Nat) (me : TgMem), s.turn = some t ∧ t.ballot.vote = none ∧ s.voterRank Topic.turnOf = some (r, me) ∧ t.fail = true := ⟨sTurn (some (turn1 2 (fun u => { u with fail := true, cause := 3 }))), turn1 2 (fun u => { u with fail := true, cause := 3 }), 0, ⟨1, 0, 0⟩, by decide +kernel, by decide +kernel, by decide +kernel, by decide +kernel⟩

theorem test_meets_Turns_9 : ∃ (s : Machine.State) (t : Turn) (r : Nat) (me : TgMem), s.turn = some t ∧ t.ballot.vote = none ∧ s.voterRank Topic.turnOf = some (r, me) ∧ t.fail = false ∧ t.phase ≠ 5 ∧ t.phase ≠ 6 ∧ t.ballot.began + s.turnLimit ≤ s.ptime := ⟨{ sTurn (some (turn1 3 id)) with ptime := 10 ^ 12 }, turn1 3 id, 0, ⟨1, 0, 0⟩, by decide +kernel, by decide +kernel, by decide +kernel, by decide +kernel, by decide +kernel, by decide +kernel, by decide +kernel⟩

set_option maxRecDepth 20000 in
theorem test_meets_Turns_10 : ∃ (s : Machine.State) (s1 : Machine.State) (t : Turn) (e : Entry), s.turn.isSome = true ∧ s1 = (s.decideBallot Topic.turnOf).takeBallots Topic.turnOf ∧ s1.turn = some t ∧ s1.entry t.ctx t.stream t.seq = some e ∧ e.done = false ∧ e.point = none ∧ t.ballot.decision = some true := ⟨sTurn (some (voted true)), ((sTurn (some (voted true))).decideBallot .turnOf).takeBallots .turnOf, (((sTurn (some (voted true))).decideBallot .turnOf).takeBallots .turnOf).turn.getD (voted true), turnEnt, by decide +kernel, rfl, getD_eq _ _ (by decide +kernel), by decide +kernel, by decide +kernel, by decide +kernel, by decide +kernel⟩

set_option maxRecDepth 20000 in
theorem test_meets_Turns_11 : ∃ (s : Machine.State) (s1 : Machine.State) (t : Turn) (e : Entry), s.turn.isSome = true ∧ s1 = (s.decideBallot Topic.turnOf).takeBallots Topic.turnOf ∧ s1.turn = some t ∧ s1.entry t.ctx t.stream t.seq = some e ∧ e.done = false ∧ e.point = none ∧ t.ballot.decision = some false := ⟨sTurn (some (voted false)), ((sTurn (some (voted false))).decideBallot .turnOf).takeBallots .turnOf, (((sTurn (some (voted false))).decideBallot .turnOf).takeBallots .turnOf).turn.getD (voted false), turnEnt, by decide +kernel, rfl, getD_eq _ _ (by decide +kernel), by decide +kernel, by decide +kernel, by decide +kernel, by decide +kernel⟩

set_option maxRecDepth 20000 in
theorem test_meets_Turns_12 : ∃ (s : Machine.State) (s0 : Machine.State) (r : Nat) (me : TgMem) (b : Ballot), s0 = s.takeBallots Topic.turnOf ∧ s0.voterRank Topic.turnOf = some (r, me) ∧ s0.ballot Topic.turnOf = some b ∧ b.vote = some true ∧ b.resolve.decision = none ∧ b.asked + s.turnLimit ≤ s.ptime := ⟨{ sTurn (some turnAsk) with ptime := 10 ^ 12 }, ({ sTurn (some turnAsk) with ptime := 10 ^ 12 } : Machine.State).takeBallots .turnOf, 1, ⟨1, 0, 0⟩, turnAsk.ballot, rfl, by decide +kernel, by decide +kernel, by decide +kernel, by decide +kernel, by decide +kernel⟩

set_option maxRecDepth 20000 in
theorem test_meets_Turns_13 : ∃ (s : Machine.State) (c : Nat) (m : Nat) (k : Nat) (i : Nat) (x : Shard), (((s.wgt c).model m).slot k).shards[i]? = some x ∧ (((s.wgt c).model m).slot k).built = true ∧ (((s.wgt c).model m).slot k).st ≠ GenSt.loading ∧ (((s.wgt c).model m).slot k).st ≠ GenSt.free ∧ x.digest = none ∧ x.host = none ∧ s.shardPoison x = false := ⟨sBuilt, 0, 1, 0, 0, shd none, by decide +kernel, by decide +kernel, by decide +kernel, by decide +kernel, by decide +kernel, by decide +kernel, by decide +kernel⟩

theorem test_meets_StraitTraining_0 : ∃ (s : Machine.State) (i : Nat) (lanes : Nat), i < 24 ∧ 8 ≤ ones 16 lanes ∧ s.fld Fld.strStatState i = 1 := ⟨sStr 1 Strait.reset, 0, 0xFF, by decide +kernel, by decide +kernel, by decide +kernel⟩

theorem test_meets_StraitTraining_1 : ∃ (s : Machine.State) (i : Nat) (lanes : Nat), i < 24 ∧ 8 ≤ ones 16 lanes ∧ s.fld Fld.strStatState i = 2 := ⟨sStr 2 Strait.reset, 0, 0xFFFF, by decide +kernel, by decide +kernel, by decide +kernel⟩

theorem test_meets_StraitTraining_2 : ∃ (s : Machine.State) (i : Nat) (_skew : List Nat) (_oma : List Nat), i < 24 ∧ s.fld Fld.strStatState i = 3 := ⟨sStr 3 Strait.reset, 0, [3, 1], [7], by decide +kernel, by decide +kernel⟩

theorem test_meets_StraitTraining_3 : ∃ (s : Machine.State) (i : Nat) (f : List (BitVec 8)), i < 24 ∧ s.fld Fld.strStatState i = 4 ∧ frameType f = 3 ∧ frameGood f = true ∧ (s.str i).ident = List.take 64 (List.drop 16 f) ∧ 2 ≤ (s.str i).same ∧ leAt (List.take 64 (List.drop 16 f)) 0 4 = 1398035017 := ⟨sStr 4 peer2, 0, identOf2, by decide +kernel, by decide +kernel, by decide +kernel, by decide +kernel, by decide +kernel, by decide +kernel, by decide +kernel⟩

theorem test_meets_StraitTraining_4 : ∃ (s : Machine.State) (i : Nat) (f : List (BitVec 8)), i < 24 ∧ s.fld Fld.strStatState i = 4 ∧ frameType f = 3 ∧ frameGood f = true ∧ (s.str i).ident ≠ List.take 64 (List.drop 16 f) := ⟨sStr 4 Strait.reset, 0, identOf2, by decide +kernel, by decide +kernel, by decide +kernel, by decide +kernel, by decide +kernel⟩

theorem test_meets_StraitTraining_5 : ∃ (s : Machine.State) (i : Nat), i < 24 ∧ s.fld Fld.strStatState i = 5 ∧ s.peerReason i = 0 := ⟨sStr 5 peer2, 0, by decide +kernel, by decide +kernel, by decide +kernel⟩

theorem test_meets_StraitTraining_6 : ∃ (s : Machine.State) (i : Nat), i < 24 ∧ s.fld Fld.strStatState i = 5 ∧ s.peerReason i ≠ 0 := ⟨flds (sStr 5 peer2) [(.fabIdId, 0, 0x3FFF)], 0, by decide +kernel, by decide +kernel, by decide +kernel⟩

theorem test_meets_StraitTraining_7 : ∃ (s : Machine.State) (i : Nat), i < 24 ∧ s.fld Fld.strStatState i = 2 := ⟨sStr 2 Strait.reset, 0, by decide +kernel, by decide +kernel⟩

theorem test_meets_StraitTraining_8 : ∃ (s : Machine.State) (i : Nat), i < 24 ∧ (s.fld Fld.strStatState i = 3 ∨ s.fld Fld.strStatState i = 4) := ⟨sStr 3 Strait.reset, 0, by decide +kernel, by decide +kernel⟩

theorem test_meets_StraitTraining_9 : ∃ (s : Machine.State) (i : Nat) (v : Nat), i < 24 ∧ s.fld Fld.strStatState i = 6 ∧ v % 2 = 1 := ⟨sStr 6 peer2, 0, 1, by decide +kernel, by decide +kernel, by decide +kernel⟩

theorem test_meets_StraitTraining_10 : ∃ (s : Machine.State) (i : Nat) (v : Nat), i < 24 ∧ s.fld Fld.strStatState i = 7 ∧ v % 2 = 1 := ⟨sStr 7 peer2, 0, 1, by decide +kernel, by decide +kernel, by decide +kernel⟩

theorem test_meets_StraitTraining_11 : ∃ (s : Machine.State) (i : Nat) (_v : Nat), i < 24 ∧ s.fld Fld.strStatState i = 7 := ⟨sStr 7 peer2, 0, 0, by decide +kernel, by decide +kernel⟩

theorem test_meets_StraitTraining_12 : ∃ (_s : Machine.State) (i : Nat) (_v : Nat), i < 24 := ⟨sStr 6 peer2, 0, 0, by decide +kernel⟩

theorem test_meets_StraitFrames_0 : ∃ (s : Machine.State) (i : Nat) (f : List (BitVec 8)), i < 24 ∧ s.fld Fld.strStatState i = 6 ∧ frameGood f = true ∧ frameType f = 1 ∧ leAt f 4 2 % 2 ^ 12 = ((s.str i).rxSeq + 1) % 2 ^ 12 ∧ bit (leAt f 0 4) 24 = false := ⟨sStr 6 Strait.reset, 0, frm 1 1 true false 1 data64, by decide +kernel, by decide +kernel, by decide +kernel, by decide +kernel, by decide +kernel, by decide +kernel⟩

theorem test_meets_StraitFrames_1 : ∃ (s : Machine.State) (i : Nat) (f : List (BitVec 8)) (m : Msg), i < 24 ∧ s.fld Fld.strStatState i = 6 ∧ frameGood f = true ∧ frameType f = 1 ∧ leAt f 4 2 % 2 ^ 12 = ((s.str i).rxSeq + 1) % 2 ^ 12 ∧ bit (leAt f 0 4) 24 = true ∧ bit (leAt f 0 4) 25 = true ∧ m = parseMsg (List.take (bits (leAt f 0 4) 12 0) (List.drop 16 f)) ∧ (m.dfab = s.fabId ↔ bits (leAt f 0 4) 27 26 ≠ 2) := ⟨sStr 6 Strait.reset, 0, frm 1 1 true true 1 (msgOf2 0 data64).bytes, _, by decide +kernel, by decide +kernel, by decide +kernel, by decide +kernel, by decide +kernel, by decide +kernel, by decide +kernel, rfl, by decide +kernel⟩

theorem test_meets_StraitFrames_2 : ∃ (s : Machine.State) (i : Nat) (f : List (BitVec 8)) (m : Msg), i < 24 ∧ s.fld Fld.strStatState i = 6 ∧ frameGood f = true ∧ frameType f = 1 ∧ leAt f 4 2 % 2 ^ 12 = ((s.str i).rxSeq + 1) % 2 ^ 12 ∧ bit (leAt f 0 4) 24 = true ∧ bit (leAt f 0 4) 25 = true ∧ m = parseMsg (List.take (bits (leAt f 0 4) 12 0) (List.drop 16 f)) ∧ (¬(m.dfab = s.fabId ↔ bits (leAt f 0 4) 27 26 ≠ 2)) := ⟨sStr 6 Strait.reset, 0, frm 1 2 true true 1 (msgOf2 0 data64).bytes, _, by decide +kernel, by decide +kernel, by decide +kernel, by decide +kernel, by decide +kernel, by decide +kernel, by decide +kernel, rfl, by decide +kernel⟩

theorem test_meets_StraitFrames_3 : ∃ (s : Machine.State) (i : Nat) (f : List (BitVec 8)), i < 24 ∧ s.fld Fld.strStatState i = 6 ∧ frameGood f = false := ⟨sStr 6 Strait.reset, 0, [1, 2, 3], by decide +kernel, by decide +kernel, by decide +kernel⟩

theorem test_meets_StraitFrames_4 : ∃ (s : Machine.State) (i : Nat) (f : List (BitVec 8)), i < 24 ∧ s.fld Fld.strStatState i = 6 ∧ frameGood f = true ∧ frameType f = 0 := ⟨sStr 6 { Strait.reset with unacked := [frame1 0] }, 0, frm 0 0 false false 0 [], by decide +kernel, by decide +kernel, by decide +kernel, by decide +kernel⟩

theorem test_meets_StraitFrames_5 : ∃ (s : Machine.State) (i : Nat) (f : List (BitVec 8)), i < 24 ∧ s.fld Fld.strStatState i = 6 ∧ frameGood f = true ∧ frameType f = 4 := ⟨sStr 6 Strait.reset, 0, frm 4 0 false false 0 [], by decide +kernel, by decide +kernel, by decide +kernel, by decide +kernel⟩

theorem test_meets_StraitFrames_6 : ∃ (s : Machine.State) (i : Nat) (f : List (BitVec 8)) (k : Frame), i < 24 ∧ s.fld Fld.strStatState i = 6 ∧ frameGood f = true ∧ frameType f = 2 ∧ ackFrames (s.str i).unacked (leAt f 6 2 % 2 ^ 12) = [k] ∧ (s.str i).streak < 15 := ⟨sStr 6 { Strait.reset with unacked := [frame1 0, frame1 1] }, 0, frm 2 0 false false 0 [], frame1 1, by decide +kernel, by decide +kernel, by decide +kernel, by decide +kernel, by decide +kernel, by decide +kernel⟩

theorem test_meets_StraitFrames_7 : ∃ (s : Machine.State) (i : Nat) (k : Frame), i < 24 ∧ s.fld Fld.strStatState i = 6 ∧ (s.str i).unacked = [k] ∧ (s.str i).streak < 15 := ⟨sStr 6 { Strait.reset with unacked := [frame1 1], streak := 14 }, 0, frame1 1, by decide +kernel, by decide +kernel, by decide +kernel, by decide +kernel⟩

theorem test_meets_StraitFrames_8 : ∃ (s : Machine.State) (i : Nat), i < 24 ∧ s.fld Fld.strStatState i = 6 ∧ (s.str i).load.cur = none := ⟨sStr 6 Strait.reset, 0, by decide +kernel, by decide +kernel, by decide +kernel⟩

theorem test_meets_StraitFrames_9 : ∃ (s : Machine.State) (i : Nat) (c : Cur), i < 24 ∧ s.fld Fld.strStatState i = 6 ∧ (s.str i).load.cur = some c ∧ s.fld Fld.strInjCtlMode i = 0 ∧ (s.str i).heldFrame = none ∧ frameUnits (List.take 4096 c.rest).length ≤ (s.str i).load.credit c.vc ∧ (s.str i).unacked.length < 2047 ∧ ((List.map (fun f => f.data.length + 20) (s.str i).unacked).sum + (List.take 4096 c.rest).length + 20 ≤ 2 ^ 20) := ⟨sStr 6 { Strait.reset with granted := [(1, 4096)], waiting := [(1, [msgOf2 0 data64])] }, 0, ⟨1, (msgOf2 0 data64).bytes, true, false, 0, 0⟩, by decide +kernel, by decide +kernel, by decide +kernel, by decide +kernel, by decide +kernel, by decide +kernel, by decide +kernel, by decide +kernel⟩

set_option maxRecDepth 20000 in
theorem test_meets_StraitFrames_10 : ∃ (s : Machine.State) (v : Nat) (b : List (BitVec 8)), v % 2 = 1 ∧ s.dvaRead 0 (s.fld64 Fld.rtImageLoAddr Fld.rtImageHiAddr 0) 65600 routeOwner false = DvaRead.ok b ∧ s.imageErr b = 0 := ⟨sImg imgWords, 1, Memory.readN (sImg imgWords).hbm 0x240000 65600, by decide +kernel, dvaRead_page _ _ _ _ 0x240000 _ (by decide) (by decide +kernel) (by decide +kernel) (by decide +kernel) (by decide +kernel), img_ok⟩

set_option maxRecDepth 20000 in
theorem test_meets_StraitFrames_11 : ∃ (s : Machine.State) (v : Nat) (b : List (BitVec 8)), v % 2 = 1 ∧ s.dvaRead 0 (s.fld64 Fld.rtImageLoAddr Fld.rtImageHiAddr 0) 65600 routeOwner false = DvaRead.ok b ∧ s.imageErr b ≠ 0 := ⟨sImg [], 1, Memory.readN (sImg []).hbm 0x240000 65600, by decide +kernel, dvaRead_page _ _ _ _ 0x240000 _ (by decide) (by decide +kernel) (by decide +kernel) (by decide +kernel) (by decide +kernel), by decide +kernel⟩

theorem test_meets_StraitFrames_12 : ∃ (s : Machine.State) (_v : Nat) (_sys : Bool), s.fld Fld.fabLockLock 0 = 1 := ⟨flds (sE []) [(.fabLockLock, 0, 1)], 7, false, by decide +kernel⟩

theorem test_meets_StraitFrames_13 : ∃ (s : Machine.State) (_v : Nat) (_sys : Bool), s.fld Fld.fabLockLock 0 = 0 := ⟨flds (sE []) [(.strStatState, 3, 7)], 7, false, by decide +kernel⟩

theorem test_meets_StraitFrames_14 : ∃ (_s : Machine.State) (v : Nat), v % 2 = 1 := ⟨sE [], 1, by decide +kernel⟩

theorem test_meets_StraitFrames_15 : ∃ (s : Machine.State) (v : Nat), entryErr s.fabId (s.fld Fld.rtIndexIndex 0) (v % 2 ^ 32) s.route = 0 := ⟨sCol Engine.reset [], 2 ^ 30 + 1, by decide +kernel⟩

theorem test_meets_CausewayTraining_0 : ∃ (s : Machine.State) (lanes : Nat), 8 ≤ ones 16 lanes ∧ s.run ≠ RunSt.off ∧ s.cw.failed = false ∧ s.ports.ir ≠ TapIr.laneLb ∧ s.fld Fld.cwStatState 0 = 1 := ⟨sCw 1 Causeway.reset, 0xFF00, by decide +kernel, by decide +kernel, by decide +kernel, by decide +kernel, by decide +kernel⟩

theorem test_meets_CausewayTraining_1 : ∃ (s : Machine.State) (lanes : Nat), s.fld Fld.cwStatState 0 = 2 ∧ (lanes % 2 ^ 16 = 65535 ∨ bits lanes 7 0 = 255 ∨ bits lanes 15 8 = 255) := ⟨sCw 2 Causeway.reset, 0xFF00, by decide +kernel, by decide +kernel⟩

theorem test_meets_CausewayTraining_2 : ∃ (s : Machine.State) (order : Nat), s.fld Fld.cwStatState 0 = 3 ∧ order ≤ 1 := ⟨sCw 3 Causeway.reset, 1, by decide +kernel, by decide +kernel⟩

theorem test_meets_CausewayTraining_3 : ∃ (s : Machine.State) (offer : Bool) (width : Nat), s.cw.peer = some (offer, width) ∧ width ≠ 0 ∧ s.fld Fld.cwStatState 0 = 4 := ⟨sCw 4 { twoSent with kept := true, width := 16, peer := some (true, 8) }, true, 8, by decide +kernel, by decide +kernel, by decide +kernel⟩

theorem test_meets_CausewayTraining_4 : ∃ (s : Machine.State), s.fld Fld.cwStatState 0 = 2 := ⟨sCw 2 Causeway.reset, by decide +kernel⟩

theorem test_meets_CausewayTraining_5 : ∃ (s : Machine.State), (s.fld Fld.cwStatState 0 = 3 ∨ s.fld Fld.cwStatState 0 = 4) := ⟨sCw 4 Causeway.reset, by decide +kernel⟩

theorem test_meets_CausewayTraining_6 : ∃ (s : Machine.State), s.fld Fld.cwStatState 0 = 5 := ⟨sCw 5 twoSent, by decide +kernel⟩

theorem test_meets_CausewayTraining_7 : ∃ (s : Machine.State), s.fld Fld.cwStatState 0 ≠ 5 := ⟨sCw 3 Causeway.reset, by decide +kernel⟩

theorem test_meets_CausewayTraining_8 : ∃ (s : Machine.State) (v : Nat), v % 2 = 1 ∧ s.fld Fld.cwStatState 0 = 5 := ⟨sCw 5 Causeway.reset, 1, by decide +kernel, by decide +kernel⟩

theorem test_meets_CausewayTraining_9 : ∃ (_s : Machine.State) (v : Nat), v % 2 = 0 := ⟨sCw 5 Causeway.reset, 0x300, by decide +kernel⟩

theorem test_meets_CausewayTraining_10 : ∃ (s : Machine.State), s.fld Fld.cwStatState 0 ≠ 0 := ⟨sCw 5 twoSent, by decide +kernel⟩

theorem test_meets_CausewayPackets_0 : ∃ (s : Machine.State) (b : List (BitVec 8)) (k : Nat), s.fld Fld.cwStatState 0 = 5 ∧ cwType b ≠ 0 ∧ s.fld Fld.cwInjCtlMode 0 = 0 ∧ s.cw.heldRx = none ∧ cwGood b = true ∧ bits (leAt b 0 4) 23 12 = (s.cw.rxSeq + 1) % 2 ^ 12 ∧ cwType b = 19 ∧ bits (leAt b 4 4) 9 0 = b.length - 20 ∧ bits (leAt b 4 4) 21 16 = 0 ∧ s.memPlace 0 (leAt b 8 8) (b.length - 20) true = MemPlace.hbm k := ⟨sCw 5 Causeway.reset, wrBytes 1, 0x200100, by decide +kernel, by decide +kernel, by decide +kernel, by decide +kernel, by decide +kernel, by decide +kernel, by decide +kernel, by decide +kernel, by decide +kernel, by decide +kernel⟩

theorem test_meets_CausewayPackets_1 : ∃ (s : Machine.State) (b : List (BitVec 8)), s.fld Fld.cwStatState 0 = 5 ∧ cwType b ≠ 0 ∧ s.fld Fld.cwInjCtlMode 0 = 0 ∧ s.cw.heldRx = none ∧ cwGood b = false ∧ s.cw.taken = s.outbox.length ∧ s.cw.queue = [] := ⟨sCw 5 Causeway.reset, [1, 2, 3, 4], by decide +kernel, by decide +kernel, by decide +kernel, by decide +kernel, by decide +kernel, by decide +kernel, by decide +kernel⟩

theorem test_meets_CausewayPackets_2 : ∃ (s : Machine.State) (b : List (BitVec 8)), cwGood b = true ∧ cwType b = 0 ∧ s.fld Fld.cwStatState 0 = 5 ∧ bit (leAt b 4 4) 28 = false ∧ s.cw.taken = s.outbox.length ∧ s.cw.queue = [] ∧ s.cw.streak < 7 := ⟨sCw 5 twoSent, ctlBytes 5 true, by decide +kernel, by decide +kernel, by decide +kernel, by decide +kernel, by decide +kernel, by decide +kernel, by decide +kernel⟩

theorem test_meets_CausewayPackets_3 : ∃ (s : Machine.State) (b : List (BitVec 8)), cwGood b = true ∧ cwType b = 0 ∧ s.fld Fld.cwStatState 0 = 5 ∧ bit (leAt b 4 4) 28 = true := ⟨sCw 5 twoSent, ctlBytes 4 false, by decide +kernel, by decide +kernel, by decide +kernel, by decide +kernel⟩

theorem test_meets_CausewayPackets_4 : ∃ (s : Machine.State) (b : List (BitVec 8)), cwGood b = true ∧ cwType b = 0 ∧ s.fld Fld.cwStatState 0 = 4 ∧ bit (leAt b 4 4) 28 = true := ⟨sCw 4 twoSent, ctlBytes 4 false, by decide +kernel, by decide +kernel, by decide +kernel, by decide +kernel⟩

theorem test_meets_CausewayPackets_5 : ∃ (s : Machine.State), s.fld Fld.cwStatState 0 = 5 ∧ s.cw.taken = s.outbox.length ∧ s.cw.queue = [] := ⟨sCw 5 Causeway.reset, by decide +kernel, by decide +kernel, by decide +kernel⟩

theorem test_meets_CausewayPackets_6 : ∃ (s : Machine.State), s.fld Fld.cwStatState 0 = 5 ∧ s.cw.taken = s.outbox.length ∧ s.cw.queue = [] ∧ s.cw.unacked ≠ [] ∧ s.cw.streak < 7 := ⟨sCw 5 twoSent, by decide +kernel, by decide +kernel, by decide +kernel, by decide +kernel, by decide +kernel⟩

theorem test_meets_CausewayPackets_7 : ∃ (s : Machine.State) (tag : Nat) (st : Nat) (data : List (BitVec 8)) (g : CwTag) (h : HostRead), s.cw.tags = [g] ∧ g.tag = tag ∧ g.data = none ∧ s.hostRead g.read = some h ∧ st = 0 ∧ g.off = 0 ∧ h.addr % 4 = 0 ∧ h.len % 4 = 0 ∧ g.len = h.len ∧ data.length = h.len := ⟨sRead, 3, 0, data64, ⟨3, 9, 0, 64, none⟩, hread, by decide +kernel, by decide +kernel, by decide +kernel, by decide +kernel, by decide +kernel, by decide +kernel, by decide +kernel, by decide +kernel, by decide +kernel, by decide +kernel⟩

theorem test_meets_CausewayPackets_8 : ∃ (s : Machine.State) (tag : Nat) (st : Nat) (_data : List (BitVec 8)) (g : CwTag) (h : HostRead) (k : Nat) (n : Nat), s.cw.tags = [g] ∧ g.tag = tag ∧ g.data = none ∧ s.hostRead g.read = some h ∧ st ≠ 0 ∧ h.owner = ReadOwner.op k n ∧ k ≠ 3 := ⟨sRead, 3, 1, [], ⟨3, 9, 0, 64, none⟩, hread, 7, 0, by decide +kernel, by decide +kernel, by decide +kernel, by decide +kernel, by decide +kernel, by decide +kernel, by decide +kernel⟩

theorem test_meets_CausewayPackets_9 : ∃ (s : Machine.State) (ctx : Nat) (_tag : Nat) (off : Nat) (len : Nat), ctx < 64 ∧ s.regPacketStatus ctx off len ≠ 0 := ⟨sReg, 0, 5, 2, 4, by decide +kernel, by decide +kernel⟩

theorem test_meets_CausewayPackets_10 : ∃ (s : Machine.State) (ctx : Nat) (_tag : Nat) (off : Nat) (len : Nat), ctx < 64 ∧ s.regPacketStatus ctx off len = 0 := ⟨sReg, 0, 5, Fld.fabIdId.key 0 0, 4, by decide +kernel, by decide +kernel⟩

theorem test_meets_CausewayPackets_11 : ∃ (s : Machine.State) (ctx : Nat) (_off : Nat) (_data : List (BitVec 8)), ctx < 64 ∧ s.serves = false := ⟨{ sReg with run := .held }, 0, Fld.fabIdId.key 0 0, [1, 0, 0, 0], by decide +kernel, by decide +kernel⟩

theorem test_meets_CausewayPackets_12 : ∃ (s : Machine.State) (ctx : Nat) (off : Nat) (data : List (BitVec 8)), ctx < 64 ∧ s.serves = true ∧ s.regPacketStatus ctx off data.length ≠ 0 := ⟨sReg, 0, 2, [1, 0, 0, 0], by decide +kernel, by decide +kernel, by decide +kernel⟩

theorem test_meets_CausewayPackets_13 : ∃ (s : Machine.State) (ctx : Nat) (off : Nat) (data : List (BitVec 8)), ctx < 64 ∧ s.serves = true ∧ s.regPacketStatus ctx off data.length = 0 ∧ pageExists off = true ∧ s.ownWrite ctx off (leNat data) = none := ⟨sReg, 0, Fld.srvQuotaSlots.key 0 0, [5, 0, 0, 0], by decide +kernel, by decide +kernel, by decide +kernel, by decide +kernel, by decide +kernel⟩

theorem test_meets_CausewayPackets_14 : ∃ (s : Machine.State) (ctx : Nat) (_tag : Nat) (addr : Nat) (len : Nat) (k : Nat), ctx < 64 ∧ s.memPlace ctx addr len false = MemPlace.hbm k := ⟨sReg, 0, 5, 0x100, 64, 0x200100, by decide +kernel, by decide +kernel⟩

theorem test_meets_CausewayPackets_15 : ∃ (s : Machine.State) (ctx : Nat) (_tag : Nat) (_addr : Nat) (_len : Nat), ctx < 64 ∧ s.run ≠ RunSt.ready := ⟨{ sReg with run := .held }, 0, 5, 0x100, 64, by decide +kernel, by decide +kernel⟩

theorem test_meets_CausewayPackets_16 : ∃ (s : Machine.State) (ctx : Nat) (addr : Nat) (data : List (BitVec 8)) (k : Nat), ctx < 64 ∧ s.memPlace ctx addr data.length true = MemPlace.hbm k := ⟨sReg, 0, 0x100, data64, 0x200100, by decide +kernel, by decide +kernel⟩

theorem test_meets_CausewayPackets_17 : ∃ (s : Machine.State) (ctx : Nat) (_addr : Nat) (_data : List (BitVec 8)), ctx < 64 ∧ s.serves = false := ⟨{ sReg with run := .held }, 0, 0x100, data64, by decide +kernel, by decide +kernel⟩

theorem test_meets_Registers_0 : ∃ (s : Machine.State) (ctx : Nat) (off : Nat) (v : Nat) (k : Nat), off % 4 = 0 ∧ v < 2 ^ 32 ∧ s.mayAccess ctx off = true ∧ pageExists off = true ∧ (hasHeader off = true → 64 ≤ off % 2 ^ 12) ∧ s.ownWrite ctx off v = none ∧ s.regKey ctx off = some k ∧ pairLo rwPairs off = none ∧ pairHi rwPairs off = none ∧ s.ignores ctx off = false ∧ s.wordOk off (putFields ctx (s.pageOff (off / 2 ^ 20) (pageInstance off)) (fieldsAt off) (BitVec.toNat (s.reg k)) v) = true := ⟨sReg, 0, Fld.srvQuotaSlots.key 0 0, 5, Fld.srvQuotaSlots.key 0 0, by decide +kernel, by decide +kernel, by decide +kernel, by decide +kernel, by decide +kernel, by decide +kernel, by decide +kernel, by decide +kernel, by decide +kernel, by decide +kernel, by decide +kernel⟩

theorem test_meets_Registers_1 : ∃ (s : Machine.State) (ctx : Nat) (page : Nat) (v : Nat), page % 2 ^ 12 = 0 ∧ page < 60 * 2 ^ 20 ∧ v < 2 ^ 32 ∧ s.mayAccess ctx page = true ∧ pageExists page = true := ⟨sReg, 0, 0x23 * 2 ^ 20, 0xDEADBEEF, by decide +kernel, by decide +kernel, by decide +kernel, by decide +kernel, by decide +kernel⟩

theorem test_meets_Registers_2 : ∃ (s : Machine.State) (ctx : Nat) (page : Nat) (v : Nat), page % 2 ^ 12 = 0 ∧ page < 60 * 2 ^ 20 ∧ v < 2 ^ 32 ∧ s.mayAccess ctx page = true ∧ pageExists page = true := ⟨sReg, 0, 0x23 * 2 ^ 20, 0xFFFF, by decide +kernel, by decide +kernel, by decide +kernel, by decide +kernel, by decide +kernel⟩

theorem test_meets_Registers_3 : ∃ (s : Machine.State) (ctx : Nat) (page : Nat) (v : Nat), page % 2 ^ 12 = 0 ∧ page < 60 * 2 ^ 20 ∧ v < 2 ^ 32 ∧ s.mayAccess ctx page = true ∧ pageExists page = true ∧ s.pageOff (page / 2 ^ 20) (page / 2 ^ 12 % 256) = false := ⟨sReg, 0, 0x23 * 2 ^ 20, 1, by decide +kernel, by decide +kernel, by decide +kernel, by decide +kernel, by decide +kernel, by decide +kernel⟩

theorem test_meets_Registers_4 : ∃ (s : Machine.State) (ctx : Nat) (off : Nat) (v : Nat) (k : Nat) (p : Fld × Fld), off % 4 = 0 ∧ v < 2 ^ 32 ∧ s.mayAccess ctx off = true ∧ pageExists off = true ∧ (hasHeader off = true → 64 ≤ off % 2 ^ 12) ∧ s.ownWrite ctx off v = none ∧ s.regKey ctx off = some k ∧ (p.fst.acc ≠ Acc.rwOwner ∨ ctx = 0) ∧ pairLo rwPairs off = some p := ⟨sReg, 0, Fld.wgtPoolLoBase.key 0 0, 2 ^ 21, Fld.wgtPoolLoBase.key 0 0, (.wgtPoolLoBase, .wgtPoolHiBase), by decide +kernel, by decide +kernel, by decide +kernel, by decide +kernel, by decide +kernel, by decide +kernel, by decide +kernel, by decide +kernel, by decide +kernel⟩

theorem test_meets_Registers_5 : ∃ (s : Machine.State) (ctx : Nat) (off : Nat) (v : Nat) (k : Nat) (p : Fld × Fld) (h : W32), off % 4 = 0 ∧ v < 2 ^ 32 ∧ s.mayAccess ctx off = true ∧ pageExists off = true ∧ (hasHeader off = true → 64 ≤ off % 2 ^ 12) ∧ s.ownWrite ctx off v = none ∧ s.regKey ctx off = some k ∧ (p.fst.acc ≠ Acc.rwOwner ∨ ctx = 0) ∧ pairLo rwPairs off = none ∧ pairHi rwPairs off = some p ∧ p.fst ≠ Fld.cqConsumedLo ∧ p.fst ≠ Fld.srvEvqConsumedLo ∧ s.ignores ctx off = false ∧ Tbl.get noHalf s.stage (halfKey ctx off (k - 4)) = some h := ⟨{ sReg with stage := [(halfKey 0 (Fld.wgtPoolHiBase.key 0 0) (Fld.wgtPoolHiBase.key 0 0 - 4), some 0x200000)] }, 0, Fld.wgtPoolHiBase.key 0 0, 3, Fld.wgtPoolHiBase.key 0 0, (.wgtPoolLoBase, .wgtPoolHiBase), 0x200000, by decide +kernel, by decide +kernel, by decide +kernel, by decide +kernel, by decide +kernel, by decide +kernel, by decide +kernel, by decide +kernel, by decide +kernel, by decide +kernel, by decide +kernel, by decide +kernel, by decide +kernel, by decide +kernel⟩

theorem test_meets_Registers_6 : ∃ (s : Machine.State) (ctx : Nat) (_tag : Nat) (off : Nat) (k : Nat), off % 4 = 0 ∧ s.mayAccess ctx off = true ∧ pageExists off = true ∧ (hasHeader off = true → 64 ≤ off % 2 ^ 12) ∧ s.regKey ctx off = some k ∧ Tbl.get noHalf s.latch (halfKey ctx off k) = none ∧ (pairLo roPairs off).isSome = true := ⟨sReg, 0, 5, Fld.pwrLedgerLo.key 0 0, Fld.pwrLedgerLo.key 0 0, by decide +kernel, by decide +kernel, by decide +kernel, by decide +kernel, by decide +kernel, by decide +kernel, by decide +kernel⟩

theorem test_meets_Registers_7 : ∃ (s : Machine.State) (ctx : Nat) (_tag : Nat) (off : Nat) (k : Nat), off % 4 = 0 ∧ s.mayAccess ctx off = true ∧ pageExists off = true ∧ (hasHeader off = true → 64 ≤ off % 2 ^ 12) ∧ s.regKey ctx off = some k ∧ Tbl.get noHalf s.latch (halfKey ctx off k) = none ∧ (∃ f, f ∈ fieldsAt off ∧ f.acc = Acc.rc) ∧ pairLo roPairs off = none ∧ s.pageOff (off / 2 ^ 20) (pageInstance off) = false := ⟨sReg, 0, 5, Fld.numiInvalidCnt.key 0 0, Fld.numiInvalidCnt.key 0 0, by decide +kernel, by decide +kernel, by decide +kernel, by decide +kernel, by decide +kernel, by decide +kernel, ⟨.numiInvalidCnt, by decide +kernel, rfl⟩, by decide +kernel, by decide +kernel⟩

theorem test_meets_Registers_8 : ∃ (_s : Machine.State) (i : Nat) (v : Nat), i < 24 ∧ v < 2 ^ 32 := ⟨{ sReg with cays := [(3, { Cay.reset with shadow := none })] }, 0, 0, by decide +kernel, by decide +kernel⟩

theorem test_meets_ManagementPorts_0 : ∃ (s : Machine.State) (w : Option Nat) (v : Nat) (_pec : Bool) (c : Bool → Instr), (c ∈ [Instr.status, Instr.poweredTime, Instr.tempMax, Instr.inputPower, Instr.inputVoltage, fun p => Instr.powerCap p w, Instr.smbusResetHold, Instr.smbusResetClearing, Instr.smbusResetRelease, Instr.standbyEnter, Instr.standbyLeave, fun p => Instr.alertStatus p w, fun p => Instr.alertMask p w, fun p => Instr.logIndex p v, Instr.logRead, Instr.identity, Instr.fwDigest, Instr.fabricId]) ∧ s.mod.standby = false := ⟨sMod (fun m => { m with standby := false }), none, 0, true, Instr.status, by simp, by decide +kernel⟩

theorem test_meets_ManagementPorts_1 : ∃ (s : Machine.State) (w : Option Nat) (v : Nat) (_pec : Bool) (c : Bool → Instr), (c ∈ [Instr.status, Instr.poweredTime, Instr.tempMax, Instr.inputPower, Instr.inputVoltage, fun p => Instr.powerCap p w, Instr.smbusResetHold, Instr.smbusResetClearing, Instr.smbusResetRelease, Instr.standbyEnter, Instr.standbyLeave, fun p => Instr.alertStatus p w, fun p => Instr.alertMask p w, fun p => Instr.logIndex p v, Instr.logRead, Instr.identity, Instr.fwDigest, Instr.fabricId]) ∧ s.mod.standby = true := ⟨sPts, none, 0, true, Instr.status, by simp, by decide +kernel⟩

theorem test_meets_ManagementPorts_2 : ∃ (s : Machine.State), s.mod.standby = true := ⟨sPts, by decide +kernel⟩

theorem test_meets_ManagementPorts_3 : ∃ (s : Machine.State), s.mod.standby = true := ⟨sPts, by decide +kernel⟩

theorem test_meets_ManagementPorts_4 : ∃ (s : Machine.State) (p : Instr × List (BitVec 8)), s.mod.standby = true ∧ p ∈ [(Instr.poweredTime true, leBytes 8 s.ptime), (Instr.inputPower true, leBytes 2 s.pw.inputW), (Instr.inputVoltage true, leBytes 2 s.pw.inputMv), (Instr.powerCap true none, leBytes 2 s.pw.smbusCap), (Instr.alertStatus true none, leBytes 2 s.ports.alert), (Instr.alertMask true none, leBytes 2 s.ports.alertMask), (Instr.identity true, identityDigest), (Instr.fwDigest true, s.fwDigest), (Instr.fabricId true, leBytes 2 (s.fld Fld.fabIdId 0))] := ⟨sPts, (Instr.poweredTime true, leBytes 8 sPts.ptime), by decide +kernel, by simp⟩

theorem test_meets_ManagementPorts_5 : ∃ (s : Machine.State) (e : List (BitVec 8)), s.mod.standby = true ∧ e ∈ s.mod.log ∧ leAt e 0 4 = s.ports.logIndex ∧ (∀ (x : List (BitVec 8)), x ∈ s.mod.log → leAt x 0 4 = s.ports.logIndex → x = e) := ⟨{ sMod (fun m => { m with log := [logEnt] }) with ports := { Ports.reset with logIndex := 3 } }, logEnt, by decide +kernel, by decide +kernel, by decide +kernel, by decide +kernel⟩

theorem test_meets_ManagementPorts_6 : ∃ (s : Machine.State) (v : Nat), s.mod.standby = true ∧ v < 2 ^ 16 ∧ 1000 ≤ v ∧ v ≤ 12000 := ⟨sPts, 12000, by decide +kernel, by decide +kernel, by decide +kernel, by decide +kernel⟩

theorem test_meets_ManagementPorts_7 : ∃ (s : Machine.State) (v : Nat), s.mod.standby = true ∧ v < 2 ^ 16 ∧ (v < 1000 ∨ 12000 < v) := ⟨sPts, 12001, by decide +kernel, by decide +kernel, by decide +kernel⟩

theorem test_meets_ManagementPorts_8 : ∃ (s : Machine.State) (v : Nat), s.mod.standby = true ∧ v < 2 ^ 16 := ⟨sPts, 3, by decide +kernel, by decide +kernel⟩

theorem test_meets_ManagementPorts_9 : ∃ (s : Machine.State) (v : Nat), s.mod.standby = true ∧ v < 2 ^ 16 := ⟨sPts, 3, by decide +kernel, by decide +kernel⟩

theorem test_meets_ManagementPorts_10 : ∃ (s : Machine.State) (v : Nat), s.mod.standby = true ∧ v < 2 ^ 16 := ⟨sPts, 3, by decide +kernel, by decide +kernel⟩

theorem test_meets_ManagementPorts_11 : ∃ (s : Machine.State), s.mod.standby = true := ⟨sPts, by decide +kernel⟩

theorem test_meets_ManagementPorts_12 : ∃ (s : Machine.State), s.mod.standby = true := ⟨sPts, by decide +kernel⟩

theorem test_meets_ManagementPorts_13 : ∃ (s : Machine.State), s.mod.standby = true := ⟨sPts, by decide +kernel⟩

theorem test_meets_ManagementPorts_14 : ∃ (s : Machine.State), s.mod.standby = true := ⟨sPts, by decide +kernel⟩

theorem test_meets_ManagementPorts_15 : ∃ (s : Machine.State), s.mod.standby = true := ⟨sPts, by decide +kernel⟩

theorem test_meets_ManagementPorts_16 : ∃ (s : Machine.State) (_pins : List Bool) (_ld : List Bool) (_a : Nat) (_b : Nat) (p : Instr × TapIr × List Emit), s.mod.standby = true ∧ s.ports.ir ≠ TapIr.laneLb ∧ p ∈ [(Instr.bypass, TapIr.bypass, [Emit.tap 1 0]), (Instr.idcode, TapIr.idcode, [Emit.tap 32 441141859]), (Instr.tapReset, TapIr.idcode, [])] := ⟨sPts, [true], [true], 1, 3, (Instr.idcode, TapIr.idcode, [Emit.tap 32 441141859]), by decide +kernel, by decide +kernel, by simp⟩

theorem test_meets_ManagementPorts_17 : ∃ (s : Machine.State) (_pins : List Bool) (_ld : List Bool) (_a : Nat) (_b : Nat), s.mod.standby = true ∧ s.ports.ir ≠ TapIr.laneLb := ⟨sPts, [true], [true], 1, 3, by decide +kernel, by decide +kernel⟩

theorem test_meets_ManagementPorts_18 : ∃ (s : Machine.State) (_pins : List Bool) (_ld : List Bool) (_a : Nat) (_b : Nat) (p : Instr × TapIr × Emit), s.mod.standby = true ∧ p ∈ [(Instr.extest, TapIr.extest, Emit.pins (some s.ports.boundary)), (Instr.clamp, TapIr.clamp, Emit.pins (some s.ports.boundary)), (Instr.highz, TapIr.highz, Emit.pins none)] := ⟨sPts, [true], [true], 1, 3, (Instr.clamp, TapIr.clamp, Emit.pins (some sPts.ports.boundary)), by decide +kernel, by simp⟩

theorem test_meets_ManagementPorts_19 : ∃ (s : Machine.State) (_pins : List Bool) (_ld : List Bool) (_a : Nat) (_b : Nat), s.mod.standby = true := ⟨sPts, [true], [true], 1, 3, by decide +kernel⟩

theorem test_meets_ManagementPorts_20 : ∃ (s : Machine.State) (_pins : List Bool) (_ld : List Bool) (_a : Nat) (_b : Nat), s.mod.standby = true ∧ s.ports.ir = TapIr.laneLb ∧ s.mod.main = true ∧ s.cw.failed = false := ⟨{ sMod (fun m => { m with holds := [.tap] }) with ports := { Ports.reset with ir := .laneLb } }, [true], [true], 1, 3, by decide +kernel, by decide +kernel, by decide +kernel, by decide +kernel⟩

theorem test_meets_Supplies_0 : ∃ (s : Machine.State), s.mod.standby = false := ⟨{ sMod (fun m => { m with standby := false }) with run := .off }, by decide +kernel⟩

theorem test_meets_Supplies_1 : ∃ (s : Machine.State), s.mod.standby = true := ⟨sPts, by decide +kernel⟩

theorem test_meets_Supplies_2 : ∃ (s : Machine.State), s.mod.standby = true := ⟨sPts, by decide +kernel⟩

theorem test_meets_Supplies_3 : ∃ (s : Machine.State) (mv : Nat), s.mod.main = false ∧ 44000 ≤ mv := ⟨{ sMod (fun m => { m with main := false }) with run := .off }, 44000, by decide +kernel, by decide +kernel⟩

theorem test_meets_Supplies_4 : ∃ (s : Machine.State) (mv : Nat), s.mod.main = true ∧ mv < 42000 ∧ s.fld Fld.pwrStatUv 0 = 0 := ⟨sPts, 41999, by decide +kernel, by decide +kernel, by decide +kernel⟩

theorem test_meets_Supplies_5 : ∃ (s : Machine.State) (mv : Nat), s.mod.main = true ∧ mv < 38000 := ⟨sPts, 37999, by decide +kernel, by decide +kernel⟩

theorem test_meets_Supplies_6 : ∃ (s : Machine.State) (mv : Nat), s.mod.main = true ∧ mv < 30000 := ⟨sPts, 29999, by decide +kernel, by decide +kernel⟩

theorem test_meets_Supplies_7 : ∃ (_s : Machine.State) (mv : Nat) (ms : Nat), 44000 < mv ∧ 1 ≤ ms := ⟨flds (sMod (fun m => { m with holds := [.input, .pin] })) [(.pwrStatUv, 0, 1)], 44001, 10, by decide +kernel, by decide +kernel⟩

theorem test_meets_EnergyAndPoints_1 : ∃ (s : Machine.State) (s0 : Machine.State) (w : Waiting), s.run = RunSt.ready ∧ s0 = s.pruneSpends ∧ s0.energyQueue = [w] ∧ s.admitHeld = false ∧ w.ctx < 64 ∧ (∀ (a : Nat), a ∈ [w.ctx, 64] → ∀ (b : Nat × Nat), b ∈ s.budgets a → s0.used a b.fst + s0.reserved a + w.est ≤ b.snd) := ⟨sWait [], _, waitOf (sWait []), by decide +kernel, rfl, by decide +kernel, by decide +kernel, by decide +kernel, by decide +kernel⟩

theorem test_meets_EnergyAndPoints_2 : ∃ (s : Machine.State) (s0 : Machine.State) (w : Waiting) (c : Nat) (q : Nat) (n : Nat) (d : Nat) (e : Entry), s.run = RunSt.ready ∧ s0 = s.pruneSpends ∧ s0.energyQueue = [w] ∧ w.ctx < 64 ∧ w.id = UnitId.record c q n ∧ s.entry c q n = some e ∧ e.point = none ∧ s0.overBudget w.ctx w.est = some d := ⟨sWait [(.engDefaultEst, 0, 2000000), (.engCap1sW, 0, 1)], _, waitOf (sWait [(.engDefaultEst, 0, 2000000), (.engCap1sW, 0, 1)]), 0, 2, 1, 1, { ent 1 1 0 [] with st := .accepted }, by decide +kernel, rfl, by decide +kernel, by decide +kernel, by decide +kernel, by decide +kernel, by decide +kernel, by decide +kernel⟩

theorem test_meets_EnergyAndPoints_3 : ∃ (s : Machine.State) (s0 : Machine.State) (w : Waiting), s.run = RunSt.ready ∧ s0 = s.pruneSpends ∧ s0.energyQueue = [w] ∧ w.ctx < 64 ∧ s0.overBudget w.ctx w.est = none ∧ s0.admits w.ctx w.est = false ∧ s.pw.waited.contains w.id = false := ⟨sWait [(.pwrStatUv, 0, 1)], _, waitOf (sWait [(.pwrStatUv, 0, 1)]), by decide +kernel, rfl, by decide +kernel, by decide +kernel, by decide +kernel, by decide +kernel, by decide +kernel⟩

theorem test_meets_EnergyAndPoints_4 : ∃ (s : Machine.State) (c : Nat), c < 64 ∧ s.pw.paused.contains c = false ∧ s.fld Fld.engCap1msW c ≠ 0 ∧ 5 * (s.fld Fld.engCap1msW c * 1000000) < 4 * s.used c (us 1000) := ⟨{ flds sC [(.engCap1msW, 0, 1)] with pw := { Pwr.reset with spends := [⟨0, 0, 1250001⟩] } }, 0, by decide +kernel, by decide +kernel, by decide +kernel, by decide +kernel⟩

theorem test_meets_EnergyAndPoints_5 : ∃ (s : Machine.State) (c : Nat), s.pw.paused.contains c = true ∧ s.pw.pausedCls = [] ∧ s.fld Fld.engCap1msW c ≠ 0 ∧ s.used c (us 1000) ≤ s.fld Fld.engCap1msW c * 1000000 := ⟨{ flds sC [(.engCap1msW, 0, 1)] with pw := { Pwr.reset with paused := [0] } }, 0, by decide +kernel, by decide +kernel, by decide +kernel, by decide +kernel⟩

theorem test_meets_EnergyAndPoints_6 : ∃ (s : Machine.State) (w : Nat) (_miss : List Nat), s.run = RunSt.ready ∧ s.pw.pausedCls = [] ∧ w ≤ s.modCap := ⟨sIpw sPts 3 (fun x => { x with capDown := 1, stallDown := 2 }), 9000, [0, 51, 25, 24], by decide +kernel, by decide +kernel, by decide +kernel⟩

theorem test_meets_EnergyAndPoints_7 : ∃ (s : Machine.State) (w : Nat) (i : Nat), s.run = RunSt.ready ∧ s.modCap < w ∧ s.islRun i = true ∧ s.opGoal i < 3 := ⟨sPts, 13000, 2, by decide +kernel, by decide +kernel, by decide +kernel, by decide +kernel⟩

theorem test_meets_EnergyAndPoints_8 : ∃ (s : Machine.State) (i : Nat) (c : Nat), s.islRun i = true ∧ (s.ipw i).ramp = some c ∧ c < 4 ∧ (s.ipw i).dip = none := ⟨sIpw sPts 0 (fun x => { x with ramp := some 2 }), 0, 2, by decide +kernel, by decide +kernel, by decide +kernel, by decide +kernel⟩

theorem test_meets_EnergyAndPoints_9 : ∃ (s : Machine.State) (i : Nat) (c : Nat), s.islRun i = true ∧ (s.ipw i).ramp = some c ∧ c < 4 ∧ (s.ipw i).dip ≠ none := ⟨sIpw sPts 0 (fun x => { x with ramp := some 2, dip := some ⟨700, 0, false⟩ }), 0, 2, by decide +kernel, by decide +kernel, by decide +kernel, by decide +kernel⟩

theorem test_meets_IslandPower_0 : ∃ (s : Machine.State) (i : Nat), s.islRun i = true ∧ s.quietIsland i = true ∧ (s.fld Fld.islPwrCtlForce i = 0 ∧ s.fld Fld.islPwrCtlSleepEn i = 1 ∨ s.fld Fld.islPwrCtlForce i = 2) := ⟨flds sPts [(.islPwrCtlSleepEn, 5, 1)], 5, by decide +kernel, by decide +kernel, by decide +kernel⟩

theorem test_meets_IslandPower_1 : ∃ (s : Machine.State) (i : Nat), s.islRun i = true ∧ s.quietIsland i = false := ⟨sC, 0, by decide +kernel, by decide +kernel⟩

theorem test_meets_IslandPower_2 : ∃ (s : Machine.State) (i : Nat), i < 24 ∧ s.fld Fld.islStatState i ≤ 1 ∧ s.role i = 0 ∧ s.quietIsland i = true ∧ s.engineFree i = true ∧ s.stackFree i = true ∧ s.mayCut i = true ∧ (s.fld Fld.islPwrCtlForce i = 0 ∧ s.fld Fld.islPwrCtlOffEn i = 1 ∨ s.fld Fld.islPwrCtlForce i = 3) := ⟨flds sPts [(.islPwrCtlOffEn, 5, 1)], 5, by decide +kernel, by decide +kernel, by decide +kernel, by decide +kernel, by decide +kernel, by decide +kernel, by decide +kernel, by decide +kernel⟩

theorem test_meets_IslandPower_3 : ∃ (s : Machine.State) (i : Nat), i < 24 ∧ s.run = RunSt.ready ∧ (s.ipw i).dip = none ∧ 1 ≤ s.fld Fld.islStatState i ∧ s.fld Fld.islStatState i ≤ 3 := ⟨flds sPts [(.islStatState, 5, 1)], 5, by decide +kernel, by decide +kernel, by decide +kernel, by decide +kernel, by decide +kernel⟩

theorem test_meets_IslandPower_4 : ∃ (s : Machine.State) (i : Nat), i < 24 ∧ s.run = RunSt.ready ∧ (s.ipw i).dip = none ∧ s.fld Fld.islStatState i = 0 ∧ s.fld Fld.islStatReady i = 0 := ⟨sPts, 5, by decide +kernel, by decide +kernel, by decide +kernel, by decide +kernel, by decide +kernel⟩

theorem test_meets_IslandPower_5 : ∃ (s : Machine.State) (i : Nat), i < 24 ∧ s.run = RunSt.ready ∧ (s.ipw i).dip = none ∧ s.fld Fld.islStatState i = 2 := ⟨flds sPts [(.islStatState, 5, 2)], 5, by decide +kernel, by decide +kernel, by decide +kernel, by decide +kernel⟩

theorem test_meets_IslandPower_6 : ∃ (s : Machine.State) (i : Nat) (k : Nat) (c : Nat) (a : Nat), i < 24 ∧ s.fld Fld.islStatState i = 2 ∧ s.run = RunSt.ready ∧ k = (i * 320 + c) * 4 + a ∧ (List.filter (fun r => r.fst == i) s.fuse.repairs = [(i, Defect.arrayRow c a 5)]) ∧ Tbl.get boolFalse s.fuse.spareEn k = false := ⟨{ flds sPts [(.islStatState, 0, 2)] with fuse := { Fuses.reset with repairs := [(0, .arrayRow 0 1 5)] } }, 0, 1, 0, 1, by decide +kernel, by decide +kernel, by decide +kernel, by decide +kernel, by decide +kernel, by decide +kernel⟩

theorem test_meets_IslandPower_7 : ∃ (_s : Machine.State) (i : Nat) (v : Nat), i < 24 ∧ bits v 27 26 < bits v 29 28 := ⟨sPts, 5, 2 ^ 28, by decide +kernel, by decide +kernel⟩

theorem test_meets_IslandPower_8 : ∃ (_s : Machine.State) (i : Nat) (v : Nat), i < 24 ∧ bits v 29 28 ≤ bits v 27 26 := ⟨sPts, 5, 3 * 2 ^ 30 + 2 ^ 26, by decide +kernel, by decide +kernel⟩

theorem test_meets_IslandPower_9 : ∃ (s : Machine.State) (i : Nat) (v : Nat), i < 24 ∧ (s.fld Fld.islStatReady i = 1 ∨ v % 2 = 0) := ⟨sPts, 5, 0, by decide +kernel, by decide +kernel⟩

theorem test_meets_IslandPower_10 : ∃ (s : Machine.State) (i : Nat) (v : Nat), i < 24 ∧ s.fld Fld.islStatReady i = 0 ∧ v % 2 = 1 := ⟨flds sPts [(.islStatState, 5, 2)], 5, 1, by decide +kernel, by decide +kernel, by decide +kernel⟩

theorem test_meets_IslandPower_11 : ∃ (s : Machine.State) (i : Nat) (mv : Nat), i < 24 ∧ s.fld Fld.islStatState i ≠ 2 ∧ mv < 1024 ∧ (s.ipw i).dip = none ∧ nominalMv (s.fld Fld.islStatOp i) - s.fld Fld.islRailCfgWarnMv i ≤ mv := ⟨sPts, 5, 760, by decide +kernel, by decide +kernel, by decide +kernel, by decide +kernel, by decide +kernel⟩

theorem test_meets_IslandPower_12 : ∃ (s : Machine.State) (i : Nat) (mv : Nat), i < 24 ∧ s.fld Fld.islStatState i ≠ 2 ∧ mv < 1024 ∧ (s.ipw i).dip = none ∧ mv < nominalMv (s.fld Fld.islStatOp i) - s.fld Fld.islRailCfgWarnMv i := ⟨sPts, 5, 759, by decide +kernel, by decide +kernel, by decide +kernel, by decide +kernel, by decide +kernel⟩

theorem test_meets_IslandPower_13 : ∃ (s : Machine.State) (i : Nat) (mv : Nat), i < 24 ∧ s.fld Fld.islStatState i ≠ 2 ∧ mv < 1024 ∧ (s.ipw i).dip = none ∧ mv < nominalMv (s.fld Fld.islStatOp i) - s.fld Fld.islRailCfgResetMv i ∧ s.run = RunSt.ready ∧ s.fld Fld.islStatState i ≠ 3 := ⟨sPts, 5, 719, by decide +kernel, by decide +kernel, by decide +kernel, by decide +kernel, by decide +kernel, by decide +kernel, by decide +kernel⟩

theorem test_meets_IslandPower_14 : ∃ (s : Machine.State) (i : Nat) (mv : Nat), i < 24 ∧ s.fld Fld.islStatState i ≠ 2 ∧ mv < 1024 ∧ (s.ipw i).dip = none ∧ mv < nominalMv (s.fld Fld.islStatOp i) - s.fld Fld.islRailCfgResetMv i ∧ s.run = RunSt.ready ∧ s.fld Fld.islStatState i = 3 := ⟨flds sPts [(.islStatState, 5, 3)], 5, 719, by decide +kernel, by decide +kernel, by decide +kernel, by decide +kernel, by decide +kernel, by decide +kernel, by decide +kernel⟩

theorem test_meets_IslandPower_15 : ∃ (s : Machine.State) (i : Nat) (mv : Nat) (d : Dip), i < 24 ∧ mv < 1024 ∧ (s.ipw i).dip = some d ∧ d.low < 1024 ∧ mv ≤ s.railRelease i := ⟨sIpw sPts 5 (fun x => { x with dip := some ⟨700, 0, false⟩ }), 5, 770, ⟨700, 0, false⟩, by decide +kernel, by decide +kernel, by decide +kernel, by decide +kernel, by decide +kernel⟩

theorem test_meets_IslandPower_16 : ∃ (s : Machine.State) (i : Nat) (mv : Nat) (d : Dip), i < 24 ∧ mv < 1024 ∧ (s.ipw i).dip = some d ∧ d.low < 1024 ∧ s.railRelease i < mv := ⟨sIpw sPts 5 (fun x => { x with dip := some ⟨700, 0, true⟩ }), 5, 771, ⟨700, 0, true⟩, by decide +kernel, by decide +kernel, by decide +kernel, by decide +kernel, by decide +kernel⟩

theorem test_meets_Heat_0 : ∃ (_s : Machine.State) (n : Nat) (r : Nat), n < 148 ∧ (sensorLimits n).fst ≤ tempOf r := ⟨sPts, 0, 760, by decide +kernel, by decide +kernel⟩

theorem test_meets_Heat_1 : ∃ (_s : Machine.State) (n : Nat) (i : Nat) (r : Nat), n < 124 ∧ (n < 96 ∨ 100 ≤ n) ∧ (i = if n < 96 then n / 4 else n - 100) ∧ (sensorLimits n).snd.fst ≤ tempOf r := ⟨sPts, 5, 1, 800, by decide +kernel, by decide +kernel, by decide +kernel, by decide +kernel⟩

theorem test_meets_Heat_2 : ∃ (_s : Machine.State) (n : Nat) (r : Nat), 96 ≤ n ∧ n < 100 ∧ 800 ≤ tempOf r := ⟨sPts, 96, 800, by decide +kernel, by decide +kernel, by decide +kernel⟩

theorem test_meets_Heat_3 : ∃ (s : Machine.State) (i : Nat) (a : Nat) (b : Nat) (c : Nat) (d : Nat) (e : Nat), i < 24 ∧ (s.ipw i).thrIsl = true ∧ (∀ (x : Nat), x ∈ [a, b, c, d] → tempOf x ≤ 776) ∧ tempOf e ≤ 696 := ⟨sIpw sPts 2 (fun x => { x with thrIsl := true, heatDown := 1 }), 2, 776, 776, 0, 0, 696, by decide +kernel, by decide +kernel, by decide +kernel, by decide +kernel⟩

theorem test_meets_Heat_4 : ∃ (s : Machine.State) (i : Nat) (a : Nat) (b : Nat) (c : Nat) (d : Nat) (e : Nat), i < 24 ∧ (s.ipw i).thrIsl = true ∧ ((∃ x, x ∈ [a, b, c, d] ∧ 776 < tempOf x) ∨ 696 < tempOf e) ∧ s.op i ≠ 3 := ⟨sIpw sPts 2 (fun x => { x with thrIsl := true, heatDown := 1 }), 2, 777, 0, 0, 0, 0, by decide +kernel, by decide +kernel, by decide +kernel, by decide +kernel⟩

theorem test_meets_Heat_5 : ∃ (_s : Machine.State) (n : Nat) (r : Nat), 100 ≤ n ∧ n < 124 ∧ tempOf r < 720 := ⟨sIpw sPts 0 (fun x => { x with thrStack := true }), 100, 719, by decide +kernel, by decide +kernel, by decide +kernel⟩

theorem test_meets_Heat_6 : ∃ (s : Machine.State) (n : Nat) (r : Nat), 96 ≤ n ∧ n < 100 ∧ tempOf r < 800 ∧ (∀ (m : Nat), 96 ≤ m → m < 100 → m ≠ n → s.temp m < 800) := ⟨flds sPts [(.pwrStatThrottle, 0, 1)], 96, 799, by decide +kernel, by decide +kernel, by decide +kernel, fun m h1 h2 h3 => by have h4 : m = 97 ∨ m = 98 ∨ m = 99 := (by omega); rcases h4 with rfl | rfl | rfl <;> decide +kernel⟩

theorem test_meets_Heat_7 : ∃ (_s : Machine.State) (n : Nat) (r : Nat), (sensorLimits n).snd.snd ≤ tempOf r ∧ 124 ≤ n ∧ n < 148 := ⟨sPts, 124, 680, by decide +kernel, by decide +kernel, by decide +kernel⟩

theorem test_meets_Heat_8 : ∃ (_s : Machine.State) (n : Nat) (r : Nat), (sensorLimits n).snd.snd ≤ tempOf r ∧ n < 124 := ⟨sPts, 0, 880, by decide +kernel, by decide +kernel⟩

theorem test_meets_Heat_9 : ∃ (_s : Machine.State) (n : Nat) (r : Nat), tempOf r + 80 ≤ (sensorLimits n).fst ∧ 124 ≤ n ∧ n < 148 := ⟨{ flds sPts [(.strCtlEn, 0, 1)] with pw := { sPts.pw with tripped := [0] } }, 124, 480, by decide +kernel, by decide +kernel, by decide +kernel⟩

theorem test_meets_Heat_10 : ∃ (s : Machine.State) (n : Nat) (r : Nat), tempOf r + 80 ≤ (sensorLimits n).fst ∧ n < 124 ∧ Hold.thermal ∈ s.mod.holds ∧ (∀ (m : Nat), m < 148 → m ≠ n → s.temp m + 80 ≤ (sensorLimits m).fst) := ⟨sHeldIn (fun m => { m with holds := [.thermal] }), 0, 680, by decide +kernel, by decide +kernel, by decide +kernel, by decide +kernel⟩

theorem test_meets_ResetSequences_0 : ∃ (s : Machine.State) (_h : Hold) (_cl : Bool), s.run ≠ RunSt.off ∧ s.run ≠ RunSt.held := ⟨sPts, .pin, true, by decide +kernel, by decide +kernel⟩

theorem test_meets_ResetSequences_1 : ∃ (s : Machine.State) (_h : Hold) (_cl : Bool), s.run = RunSt.held := ⟨sHeldIn (fun m => { m with holds := [.thermal] }), .pin, true, by decide +kernel⟩

theorem test_meets_ResetSequences_2 : ∃ (s : Machine.State), (s.run ≠ RunSt.held ∨ s.mod.holds ≠ [] ∨ s.mod.main = false) := ⟨sPts, by decide +kernel⟩

theorem test_meets_ResetSequences_3 : ∃ (s : Machine.State), s.run = RunSt.held ∧ s.mod.holds = [] ∧ s.mod.main = true ∧ s.mod.clearing = false := ⟨sHeldIn id, by decide +kernel, by decide +kernel, by decide +kernel, by decide +kernel⟩

theorem test_meets_ResetSequences_4 : ∃ (s : Machine.State), s.run = RunSt.held ∧ s.mod.holds = [] ∧ s.mod.main = true ∧ s.mod.clearing = true := ⟨sHeldIn (fun m => { m with clearing := true }), by decide +kernel, by decide +kernel, by decide +kernel, by decide +kernel⟩

theorem test_meets_ResetSequences_5 : ∃ (s : Machine.State) (v : Nat), s.run ≠ RunSt.off ∧ s.run ≠ RunSt.held ∧ v % 2 = 1 := ⟨sPts, 1, by decide +kernel, by decide +kernel, by decide +kernel⟩

theorem test_meets_ResetSequences_7 : ∃ (s : Machine.State) (i : Nat), i < 24 ∧ s.fld Fld.islStatState i = 2 := ⟨flds sPts [(.islStatState, 5, 2)], 5, by decide +kernel, by decide +kernel⟩

theorem test_meets_ResetSequences_8 : ∃ (s : Machine.State) (i : Nat), i < 24 ∧ s.run = RunSt.ready ∧ s.fld Fld.islStatState i ≠ 2 := ⟨sC, 0, by decide +kernel, by decide +kernel, by decide +kernel⟩

theorem test_meets_ResetSequences_9 : ∃ (s : Machine.State) (_v : Nat), s.run = RunSt.ready := ⟨sPts, 1, by decide +kernel⟩

theorem test_meets_ResetSequences_10 : ∃ (s : Machine.State) (c : Nat) (v : Nat), c < 64 ∧ v % 2 = 1 ∧ s.fld Fld.ctxStatResetting c = 0 := ⟨sC, 0, 1, by decide +kernel, by decide +kernel, by decide +kernel⟩

theorem test_meets_ResetSequences_11 : ∃ (s : Machine.State) (c : Nat) (v : Nat), c < 64 ∧ (v % 2 = 0 ∨ s.fld Fld.ctxStatResetting c = 1) := ⟨sC, 0, 0, by decide +kernel, by decide +kernel⟩

theorem test_meets_ResetSequences_12 : ∃ (_s : Machine.State) (c : Nat) (v : Nat), c < 64 ∧ c ≠ 0 ∧ bit v 31 = true := ⟨sPts, 1, 2 ^ 31, by decide +kernel, by decide +kernel, by decide +kernel⟩

theorem test_meets_ResetSequences_13 : ∃ (s : Machine.State) (c : Nat) (v : Nat), c < 64 ∧ c ≠ 0 ∧ bit v 31 = false ∧ s.fld Fld.ctxCtlEn c = 1 ∧ s.fld Fld.ctxStatResetting c = 0 := ⟨flds sPts [(.ctxCtlEn, 1, 1)], 1, 0, by decide +kernel, by decide +kernel, by decide +kernel, by decide +kernel, by decide +kernel⟩

theorem test_meets_ResetSequences_14 : ∃ (_s : Machine.State) (c : Nat) (_v : Nat), c < 64 := ⟨sPts, 1, 1, by decide +kernel⟩

theorem test_meets_ResetSequences_15 : ∃ (s : Machine.State) (c : Nat), c < 64 ∧ s.fld Fld.ctxStatResetting c = 1 ∧ s.run = RunSt.ready ∧ s.fld Fld.jnlStatRecovering 0 = 0 ∧ s.groupPending c = true := ⟨{ sGrp with groups := [{ num := 1, ctx := 1, gid := 1, opened := 0, decision := some true, cause := 0, timedOut := false, txn := 1, slot := 0, applied := false }] }, 1, by decide +kernel, by decide +kernel, by decide +kernel, by decide +kernel, by decide +kernel⟩

theorem test_meets_ResetSequences_16 : ∃ (s : Machine.State) (c : Nat), c < 64 ∧ s.fld Fld.ctxStatResetting c = 1 ∧ s.run = RunSt.ready ∧ s.fld Fld.jnlStatRecovering 0 = 0 ∧ s.groupPending c = false := ⟨sGrp, 1, by decide +kernel, by decide +kernel, by decide +kernel, by decide +kernel, by decide +kernel⟩

theorem test_meets_ErrorsAndRepair_0 : ∃ (_s : Machine.State) (e : ErrAt) (_row : Nat), e.mem = 6 ∧ e.unit < 2 := ⟨sPts, err 6 0, 7, by decide +kernel, by decide +kernel⟩

theorem test_meets_ErrorsAndRepair_1 : ∃ (_s : Machine.State) (e : ErrAt) (_row : Nat), e.mem < 6 ∧ e.unit < 24 := ⟨sPts, err 4 0x1000, 7, by decide +kernel, by decide +kernel⟩

theorem test_meets_ErrorsAndRepair_3 : ∃ (s : Machine.State) (e : ErrAt) (_row : Nat), s.run = RunSt.ready ∧ e.mem = 6 ∧ e.unit < 2 := ⟨sPts, err 6 0, 7, by decide +kernel, by decide +kernel, by decide +kernel⟩

theorem test_meets_ErrorsAndRepair_4 : ∃ (s : Machine.State) (e : ErrAt) (_row : Nat), s.run = RunSt.ready ∧ e.mem < 6 ∧ e.mem ≠ 4 ∧ e.unit < 24 ∧ s.fld Fld.islStatState e.unit ≠ 2 := ⟨sC, err 1 0x1000, 7, by decide +kernel, by decide +kernel, by decide +kernel, by decide +kernel, by decide +kernel⟩

theorem test_meets_ErrorsAndRepair_5 : ∃ (s : Machine.State) (e : ErrAt) (_row : Nat) (k : Nat), s.run = RunSt.ready ∧ e.mem = 4 ∧ e.unit < 24 ∧ k = hbmKey e.unit (e.addr % 2 ^ 36) ∧ e.addr % 2 ^ 36 < stackBytes ∧ s.poisoned (k / 8 * 8) 8 = true := ⟨{ sPts with poison := [0x200000] }, err 4 0x1000000, 7, _, by decide +kernel, by decide +kernel, by decide +kernel, rfl, by decide +kernel, by decide +kernel⟩

theorem test_meets_ErrorsAndRepair_6 : ∃ (s : Machine.State) (e : ErrAt) (_row : Nat) (k : Nat), s.run = RunSt.ready ∧ e.mem = 4 ∧ e.unit < 24 ∧ k = hbmKey e.unit (e.addr % 2 ^ 36) ∧ e.addr % 2 ^ 36 < stackBytes ∧ s.poisoned (k / 8 * 8) 8 = false := ⟨sPts, err 4 0x1000000, 7, _, by decide +kernel, by decide +kernel, by decide +kernel, rfl, by decide +kernel, by decide +kernel⟩

theorem test_meets_ErrorsAndRepair_7 : ∃ (s : Machine.State) (k : Nat) (_t : Nat) (_dva : Nat) (_rd : PoisonReader), s.poisoned k 1 = false := ⟨sC, 0x200000, 1, 0x40, .task 1 0x40, by decide +kernel⟩

theorem test_meets_ErrorsAndRepair_8 : ∃ (s : Machine.State) (k : Nat) (_t : Nat) (_dva : Nat) (_rd : PoisonReader), hbmExists k = true ∧ s.poisoned k 1 = true := ⟨{ sC with poison := [0x200000 / 8] }, 0x200000, 1, 0x40, .scrubber, by decide +kernel, by decide +kernel⟩

theorem test_meets_ErrorsAndRepair_9 : ∃ (s : Machine.State) (k : Nat) (t : Nat) (dva : Nat) (_rd : PoisonReader), hbmExists k = true ∧ s.poisoned k 1 = true ∧ Unfinished s t ∧ (s.wgt (s.task t).ctx).find dva = none := ⟨{ sC with poison := [0x200000 / 8] }, 0x200000, 1, 0x40, .task 1 0x40, by decide +kernel, by decide +kernel, ⟨by decide +kernel, by decide +kernel⟩, by decide +kernel⟩

theorem test_meets_ErrorsAndRepair_10 : ∃ (s : Machine.State) (i : Nat), i < 24 ∧ s.run = RunSt.ready ∧ s.fld Fld.islStatState i ≠ 2 := ⟨sPts, 5, by decide +kernel, by decide +kernel, by decide +kernel⟩

theorem test_meets_ErrorsAndRepair_11 : ∃ (s : Machine.State) (i : Nat), i < 24 ∧ s.run = RunSt.ready ∧ s.fld Fld.islStatState i = 0 := ⟨sPts, 5, by decide +kernel, by decide +kernel, by decide +kernel⟩

theorem test_meets_ErrorsAndRepair_12 : ∃ (s : Machine.State) (i : Nat) (_hbm : Bool), i < 24 ∧ s.run = RunSt.ready ∧ s.fld Fld.islStatState i = 2 := ⟨flds sPts [(.islStatState, 5, 2)], 5, true, by decide +kernel, by decide +kernel, by decide +kernel⟩

theorem test_meets_ErrorsAndRepair_13 : ∃ (_s : Machine.State) (i : Nat) (_late : Bool), i < 24 := ⟨sPts, 5, true, by decide +kernel⟩

theorem test_meets_ErrorsAndRepair_14 : ∃ (s : Machine.State) (i : Nat) (cause : Nat) (_v : Nat), i < 24 ∧ s.fld Fld.memStatStack i = 0 ∧ (cause = 1 ∨ cause = 2) := ⟨sPts, 5, 1, 0, by decide +kernel, by decide +kernel, by decide +kernel⟩

theorem test_meets_ErrorsAndRepair_15 : ∃ (s : Machine.State) (i : Nat) (_cause : Nat) (v : Nat), i < 24 ∧ s.fld Fld.memStatStack i = 0 ∧ bit v 31 = true := ⟨sPts, 1, 1, 2 ^ 31, by decide +kernel, by decide +kernel, by decide +kernel⟩

theorem test_meets_ErrorsAndRepair_16 : ∃ (s : Machine.State) (i : Nat) (_cause : Nat) (v : Nat), i < 24 ∧ s.fld Fld.memStatStack i = 0 ∧ bit v 31 = false := ⟨sPts, 5, 1, 0, by decide +kernel, by decide +kernel, by decide +kernel⟩

theorem test_meets_ErrorsAndRepair_17 : ∃ (s : Machine.State) (i : Nat) (_ds : List Defect), i < 24 ∧ s.fld Fld.modTestEn 0 = 1 ∧ s.role i = 0 := ⟨sFound 1 0, 0, [.arrayRow 0 1 5], by decide +kernel, by decide +kernel, by decide +kernel⟩

theorem test_meets_ErrorsAndRepair_18 : ∃ (s : Machine.State) (i : Nat) (_ds : List Defect), i < 24 ∧ (s.fld Fld.modTestEn 0 = 0 ∨ s.role i ≠ 0) := ⟨sFound 0 0, 0, [], by decide +kernel, by decide +kernel⟩

theorem test_meets_ErrorsAndRepair_19 : ∃ (s : Machine.State) (i : Nat) (_ds : List Defect), i < 24 ∧ s.fld Fld.modTestEn 0 = 1 ∧ s.role i = 0 ∧ (s.memst i).tested = true ∧ s.fld Fld.repStatRepairable i = 1 := ⟨sFound 1 1, 0, [], by decide +kernel, by decide +kernel, by decide +kernel, by decide +kernel, by decide +kernel⟩

theorem test_meets_ErrorsAndRepair_20 : ∃ (s : Machine.State) (i : Nat) (_ds : List Defect) (x : Nat), i < 24 ∧ (x = if s.fld Fld.modTestEn 0 = 0 then 1 else if (s.memst i).tested = false then 2 else if s.fld Fld.repStatRepairable i = 0 then 3 else if s.role i ≠ 0 then 4 else 0) ∧ x ≠ 0 := ⟨sFound 0 1, 0, [], 1, by decide +kernel, by decide +kernel, by decide +kernel⟩

theorem test_meets_Monitors_0 : ∃ (s : Machine.State) (x : Sample) (c : Option Nat) (k : Nat) (v : Int) (m : MonRes), signalPeriodic (pageCls x.page) x.code = false ∧ s.monUnits x.page x.code c = [k] ∧ v = satInt 32 x.value ∧ m = (s.mon k).now := ⟨sMon 0x1000 1, ⟨0x1000, 1, 5⟩, none, 0, _, _, by decide +kernel, by decide +kernel, rfl, rfl⟩

theorem test_meets_Monitors_1 : ∃ (s : Machine.State) (k : Nat) (p : Nat) (code : Nat) (_z : Int), k < 256 ∧ s.fld Fld.monCfgEn 0 (1 + k) = 1 ∧ p = s.fld Fld.monCfgPage 0 (1 + k) ∧ s.fld Fld.monCfgSrcB 0 (1 + k) = 0 ∧ code = bits (BitVec.toNat (s.reg (rkey (pageCls p) (pageInst p) monSel 0))) 7 0 ∧ signalOk (pageCls p) code = true ∧ signalPeriodic (pageCls p) code = true := ⟨sMon 0x1100 2, 0, 0x1100, 2, 7, by decide +kernel, by decide +kernel, by decide +kernel, by decide +kernel, by decide +kernel, by decide +kernel, by decide +kernel⟩

theorem test_meets_Monitors_2 : ∃ (s : Machine.State) (k : Nat), k = s.fld Fld.monUnitUnit 0 := ⟨sMon 0x1000 1, 0, by decide +kernel⟩

theorem test_meets_Monitors_3 : ∃ (s : Machine.State) (k : Nat), k = s.fld Fld.monUnitUnit 0 := ⟨sMon 0x1000 1, 0, by decide +kernel⟩

theorem test_meets_Monitors_4 : ∃ (s : Machine.State) (k : Nat) (v : Nat), k = s.fld Fld.monUnitUnit 0 ∧ monMay k (bits v 29 16) = true := ⟨sMon 0x1000 1, 0, 0x1100 * 2 ^ 16, by decide +kernel, by decide +kernel⟩

theorem test_meets_Monitors_5 : ∃ (s : Machine.State) (k : Nat) (v : Nat), k = s.fld Fld.monUnitUnit 0 ∧ monMay k (bits v 29 16) = false := ⟨sMon 0x1000 1, 0, 0x1005 * 2 ^ 16, by decide +kernel, by decide +kernel⟩

theorem test_meets_ContextEvents_0 : ∃ (_s : Machine.State) (c : Nat) (_v : Nat), c < 64 := ⟨sT, 0, 0x80000001, by decide +kernel⟩

theorem test_meets_ContextEvents_1 : ∃ (s : Machine.State) (c : Nat) (dva : Nat) (ag : Nat) (isl : Nat) (_wr : Bool) (_sp : Bool) (_dm : Bool) (x : Nat), c < 64 ∧ ag < 7 ∧ (s.walk c dva).dest = Trans.fault x ∧ x ≠ 0 ∧ x < 7 ∧ isl < 24 := ⟨sT, 0, 2 ^ 40, 1, 5, true, false, true, 1, by decide +kernel, by decide +kernel, by decide +kernel, by decide +kernel, by decide +kernel, by decide +kernel⟩

theorem test_meets_ContextEvents_2 : ∃ (s : Machine.State) (c : Nat) (dva : Nat) (ag : Nat) (_isl : Nat) (wr : Bool) (_sp : Bool) (_dm : Bool) (k : Nat), c < 64 ∧ ag < 7 ∧ (s.walk c dva).dest = Trans.hbm k ∧ wr = true ∧ (s.walk c dva).w = false := ⟨sRo, 0, 0x600000, 1, 5, true, false, true, 0x800000, by decide +kernel, by decide +kernel, by decide +kernel, by decide +kernel, by decide +kernel⟩

theorem test_meets_ContextEvents_3 : ∃ (s : Machine.State) (c : Nat) (dva : Nat) (ag : Nat) (_isl : Nat) (wr : Bool) (_sp : Bool) (dm : Bool) (k : Nat), c < 64 ∧ ag < 7 ∧ (s.walk c dva).dest = Trans.hbm k ∧ (wr = true → (s.walk c dva).w = true) ∧ (dm = true → (s.walk c dva).suspect = false) := ⟨sT, 0, 0, 1, 5, true, false, true, 0x200000, by decide +kernel, by decide +kernel, by decide +kernel, by decide +kernel, by decide +kernel⟩

theorem test_meets_ContextEvents_4 : ∃ (s : Machine.State) (v : Nat) (_m : Nat), v < 2048 ∧ s.fld Fld.irqVctlMask 0 (1 + v) = 0 := ⟨sPts, 1, 0, by decide +kernel, by decide +kernel⟩

theorem test_meets_ContextEvents_5 : ∃ (s : Machine.State) (v : Nat) (_m : Nat), v < 2048 ∧ s.fld Fld.irqVctlMask 0 (1 + v) = 1 := ⟨sPts.setFld .irqVctlMask 1 0 2, 1, 0, by decide +kernel, by decide +kernel⟩

theorem test_meets_ContextEvents_6 : ∃ (_s : Machine.State) (v : Nat) (_m : Nat), v < 2048 := ⟨sPts, 1, 0, by decide +kernel⟩

theorem test_meets_ContextEvents_7 : ∃ (s : Machine.State) (cls : Nat) (inst : Nat) (n : Nat) (en : Nat) (cs : Nat) (rt : Nat) (c : Nat) (v : Nat), inst < instances cls ∧ n < nevt cls ∧ en = BitVec.toNat (s.reg (rkey cls inst 20 0)) ∧ cs = BitVec.toNat (s.reg (rkey cls inst 16 0)) ∧ rt = BitVec.toNat (s.reg (rkey cls inst 24 0)) ∧ c = bits rt 21 16 ∧ v = bits rt 10 0 ∧ en.testBit n = false := ⟨sPts, 0x14, 0, 0, _, _, _, _, _, by decide +kernel, by decide +kernel, rfl, rfl, rfl, rfl, rfl, by decide +kernel⟩

theorem test_meets_ContextEvents_8 : ∃ (s : Machine.State) (cls : Nat) (inst : Nat) (n : Nat) (en : Nat) (cs : Nat) (rt : Nat) (c : Nat) (v : Nat), inst < instances cls ∧ n < nevt cls ∧ en = BitVec.toNat (s.reg (rkey cls inst 20 0)) ∧ cs = BitVec.toNat (s.reg (rkey cls inst 16 0)) ∧ rt = BitVec.toNat (s.reg (rkey cls inst 24 0)) ∧ c = bits rt 21 16 ∧ v = bits rt 10 0 ∧ en.testBit n = true := ⟨sPts.setReg (rkey 0x14 0 20 0) 1, 0x14, 0, 0, _, _, _, _, _, by decide +kernel, by decide +kernel, rfl, rfl, rfl, rfl, rfl, by decide +kernel⟩

theorem test_meets_ContextEvents_9 : ∃ (s : Machine.State) (c : Nat) (cls : Nat) (inst : Nat) (_v : Nat), inst < instances cls ∧ reachable c (cls * 2 ^ 20 + inst * 2 ^ 12) = true ∧ s.testPerm c = true ∧ s.pageOff cls inst = false := ⟨flds sPts [(.modTestEn, 0, 1)], 0, 0x14, 0, 1, by decide +kernel, by decide +kernel, by decide +kernel, by decide +kernel⟩

theorem test_meets_ContextEvents_10 : ∃ (s : Machine.State) (c : Nat) (cls : Nat) (inst : Nat) (_v : Nat), inst < instances cls ∧ reachable c (cls * 2 ^ 20 + inst * 2 ^ 12) = true ∧ (s.testPerm c = false ∨ s.pageOff cls inst = true) := ⟨sPts, 0, 0x14, 0, 1, by decide +kernel, by decide +kernel, by decide +kernel⟩

theorem test_meets_ContextEvents_11 : ∃ (s : Machine.State) (pt : Nat) (_cost : Nat) (ws : List (Nat × Nat)), pt ≤ 72 ∧ ws ≠ [] ∧ (∀ (w : Nat × Nat), w ∈ ws → w.fst < 64 ∧ w.snd < 4) ∧ (∀ (w : Nat × Nat), w ∈ ws → w.fst ∈ Tbl.get noCtxs s.vwait pt) := ⟨{ sPts with vwait := [(0, [0, 1])] }, 0, 10, [(0, 1), (1, 2)], by decide +kernel, by decide +kernel, by decide +kernel, by decide +kernel⟩

theorem test_meets_ContextEvents_12 : ∃ (s : Machine.State) (c : Nat) (q : Nat) (n : Nat) (e : Entry), s.entry c q n = some e ∧ e.done = false ∧ s.recClass e < 3 := ⟨sE [ent 1 1 0 []], 0, 2, 1, ent 1 1 0 [], by decide +kernel, by decide +kernel, by decide +kernel⟩

theorem test_meets_ContextEvents_13 : ∃ (s : Machine.State) (c : Nat) (q : Nat) (n : Nat) (e : Entry), s.entry c q n = some e ∧ e.done = false ∧ 3 ≤ s.recClass e := ⟨sE [{ ent 1 1 0 [] with rises := 3 }], 0, 2, 1, { ent 1 1 0 [] with rises := 3 }, by decide +kernel, by decide +kernel, by decide +kernel⟩

theorem test_meets_FourBitPacking_0 : ∃ (f : Nat) (bs : List (BitVec 8)) (n : Nat) (i : Nat) (b : BitVec 8), f ∈ [0, 4, 8] ∧ i < n ∧ bs[i / 2]? = some b := ⟨4, [0x21, 0x43], 4, 3, 0x43, by decide +kernel, by decide +kernel, by decide +kernel⟩

theorem test_meets_FourBitPacking_1 : ∃ (f : Nat) (cs : List Nat), f ∈ [0, 4, 8] ∧ (∀ (x : Nat), x ∈ cs → x < 16) := ⟨4, [1, 15], by decide +kernel, by decide +kernel⟩

theorem test_meets_FourBitPacking_2 : ∃ (f : Nat) (cs : List Nat), f ∈ [0, 4, 8] ∧ (∀ (x : Nat), x ∈ cs → x < 16) := ⟨8, [1, 15], by decide +kernel, by decide +kernel⟩

theorem test_meets_GeneratorSteps_2 : ∃ (x : BitVec 32), x ≠ 0 := ⟨1, by decide +kernel⟩

theorem test_meets_GeneratorSteps_4 : ∃ (s : Nat) (_n : Nat) (_k : Nat), s < 2 ^ 32 := ⟨5, 2, 1, by decide +kernel⟩

theorem test_meets_DropsOfGenerations_0 : ∃ (s : Machine.State) (c : Nat) (q : Nat) (n : Nat) (i : Nat) (e : Entry) (x : Model), s.entry c q n = some e ∧ e.ripe 4 = true ∧ e.op = 3 ∧ x = (s.wgt c).model e.model ∧ x.slotOf e.gen = some i ∧ (x.slot i).st = GenSt.ready := ⟨sDrop .ready, 0, 2, 1, 0, wgtEnt 3 1 1 0, _, by decide +kernel, by decide +kernel, by decide +kernel, rfl, by decide +kernel, by decide +kernel⟩

theorem test_meets_DropsOfGenerations_1 : ∃ (s : Machine.State) (c : Nat) (q : Nat) (n : Nat) (i : Nat) (e : Entry) (x : Model), s.entry c q n = some e ∧ e.ripe 4 = true ∧ e.op = 3 ∧ x = (s.wgt c).model e.model ∧ x.slotOf e.gen = some i ∧ ((x.slot i).st = GenSt.serving ∨ (x.slot i).st = GenSt.retained) := ⟨sDrop .serving, 0, 2, 1, 0, wgtEnt 3 1 1 0, _, by decide +kernel, by decide +kernel, by decide +kernel, rfl, by decide +kernel, by decide +kernel⟩

theorem test_meets_DropsOfGenerations_2 : ∃ (s : Machine.State) (c : Nat) (q : Nat) (n : Nat) (i : Nat) (e : Entry) (x : Model), s.entry c q n = some e ∧ e.ripe 4 = true ∧ e.op = 3 ∧ x = (s.wgt c).model e.model ∧ x.slotOf e.gen = some i ∧ (x.slot i).st = GenSt.loading := ⟨sDrop .loading, 0, 2, 1, 0, wgtEnt 3 1 1 0, _, by decide +kernel, by decide +kernel, by decide +kernel, rfl, by decide +kernel, by decide +kernel⟩

theorem test_meets_RouteEntryWrites_0 : ∃ (s : Machine.State) (v : Nat) (d : Nat) (k : Nat), v < 2 ^ 32 ∧ d = s.fld Fld.rtIndexIndex 0 ∧ (k = if bits v 31 30 = 3 ∨ bits v 31 30 ≠ 0 ∧ d = 16383 then 3 else if bits v 31 30 = 1 ∧ bits v 23 0 = 0 then 4 else if bits v 31 30 = 2 ∧ (bits (s.route (bits v 13 0)) 31 30 ≠ 1 ∨ bits v 13 0 = s.fabId ∨ bits v 13 0 = d) then 5 else 0) ∧ k = 0 := ⟨sCol Engine.reset [], 2 ^ 30 + 1, _, _, by decide +kernel, rfl, rfl, by decide +kernel⟩

theorem test_meets_RouteEntryWrites_1 : ∃ (s : Machine.State) (v : Nat) (d : Nat) (k : Nat), v < 2 ^ 32 ∧ d = s.fld Fld.rtIndexIndex 0 ∧ (k = if bits v 31 30 = 3 ∨ bits v 31 30 ≠ 0 ∧ d = 16383 then 3 else if bits v 31 30 = 1 ∧ bits v 23 0 = 0 then 4 else if bits v 31 30 = 2 ∧ (bits (s.route (bits v 13 0)) 31 30 ≠ 1 ∨ bits v 13 0 = s.fabId ∨ bits v 13 0 = d) then 5 else 0) ∧ k ≠ 0 := ⟨sCol Engine.reset [], 3 * 2 ^ 30, _, _, by decide +kernel, rfl, rfl, by decide +kernel⟩

theorem test_meets_RouteEntryWrites_2 : ∃ (s : Machine.State) (v : Nat) (d : Nat) (k : Nat), v < 2 ^ 32 ∧ d = s.fld Fld.rtIndexIndex 0 ∧ (k = if bits v 31 30 = 3 ∨ bits v 31 30 ≠ 0 ∧ d = 16383 then 3 else if bits v 31 30 = 1 ∧ bits v 23 0 = 0 then 4 else if bits v 31 30 = 2 ∧ (bits (s.route (bits v 13 0)) 31 30 ≠ 1 ∨ bits v 13 0 = s.fabId ∨ bits v 13 0 = d) then 5 else 0) ∧ v = 0 := ⟨sCol Engine.reset [], 0, _, _, by decide +kernel, rfl, rfl, by decide +kernel⟩

/-! ### Well-formed commands -/

/-- For each check of Instr.wf, a command that it alone refuses. -/
theorem test_ill_formed_0 : ([.add ⟨24, 0⟩ (.ofWord 0), .add ⟨0, 320⟩ (.ofWord 0), .miss ⟨24, 0⟩ (.ofWord 0) 0, .miss ⟨0, 320⟩ (.ofWord 0) 0, .vldg ⟨24, 0⟩ (.ofWord 0), .vldg ⟨0, 320⟩ (.ofWord 0),
  .threadMissReturn ⟨24, 0⟩ 0, .threadMissReturn ⟨0, 320⟩ 0, .threadMissReturn ⟨0, 0⟩ 8, .taskBind ⟨24, 0⟩ 0, .taskBind ⟨0, 320⟩ 0, .copyComplete ⟨24, 0⟩ 0,
  .copyComplete ⟨0, 320⟩ 0, .queuedFenceComplete ⟨24, 0⟩ 0, .queuedFenceComplete ⟨0, 320⟩ 0, .queuedFenceComplete ⟨0, 0⟩ 6, .islandCacheFill 24 0, .runAheadFetch 24 0,
  .prefetchArrival 24 0, .hbmWriteInvalidate 25 0 [], .hbmWriteInvalidate 0 (2 ^ 41) [], .speculativeRequeue 24 0, .landingWindowWrite 64 0 0 [],
  .landingWindowWrite 0 (2 ^ 48) 0 [], .landingWindowWrite 0 0 (2 ^ 26) [], .landingWindowResponse 64 0 0, .landingWindowResponse 0 16 0,
  .landingWindowResponse 0 0 (2 ^ 32), .recordStart 64 0 0, .recordStart 0 16 0, .recordStart 0 0 (2 ^ 32), .recordCommit 0 0 (2 ^ 32), .task 0 0 (2 ^ 32),
  .copy 0 0 (2 ^ 32), .groupClose 0 0 (2 ^ 32), .marker 0 0 (2 ^ 32), .registerWrite 0 0 (2 ^ 32), .journalEntryWrite 0 0 (2 ^ 32), .journalEntryRetire 0 0 (2 ^ 32),
  .journalRebuild (2 ^ 32)] : List Instr).all (fun i => !i.wf) = true := by decide +kernel

theorem test_ill_formed_1 : ([.journalEnable (2 ^ 32), .completionWrite 0 0 (2 ^ 32), .completionRewrite 0 0 (2 ^ 32), .cqConsumedWrite 64 0 0, .cqConsumedWrite 0 16 0, .cqConsumedWrite 0 0 (2 ^ 32),
  .lwEnable 64 0 0 0, .lwEnable 0 64 0 0, .lwEnable 0 0 16 0, .lwEnable 0 0 0 (2 ^ 32), .admitRequest 64 0 0, .admitRequest 0 16 0, .admitRequest 0 0 (2 ^ 32),
  .cancel 0 0 (2 ^ 32), .pause 0 0 (2 ^ 32), .resume 0 0 (2 ^ 32), .adapterInstall 0 0 (2 ^ 32), .adapterRetire 0 0 (2 ^ 32), .stepForm 64, .stepTaskStart 64,
  .samplerRun 64, .stepBoundary 64, .kvPoolExhausted 64, .pauseCopyComplete 64 0, .pauseCopyComplete 0 (2 ^ 16), .resumeCopyComplete 64 0, .resumeCopyComplete 0 (2 ^ 16),
  .pauseExpiry 64 0, .pauseExpiry 0 (2 ^ 16), .adapterFreed 64 0, .requestEventWrite 64, .servingEnable 64 0, .servingEnable 0 (2 ^ 32), .servingStateEnable (2 ^ 32),
  .stageRun 64 0 0, .stageRun 0 16 0, .stageRun 0 0 (2 ^ 32), .stepOutOfOrder 64 0 0, .stepOutOfOrder 0 16 0, .stepOutOfOrder 0 0 (2 ^ 32)] : List Instr).all (fun i => !i.wf) = true := by decide +kernel

theorem test_ill_formed_2 : ([.seal 64 0 0, .seal 0 16 0, .seal 0 0 (2 ^ 32), .sealVote 64 0, .sealVote 0 (2 ^ 16), .sealDecide 64 0, .sealDecide 0 (2 ^ 16), .sealApply 64 0, .sealApply 0 (2 ^ 16),
  .sealTimeout 64 0, .sealTimeout 0 (2 ^ 16), .sealQuery 24, .sealAbort 64 0 0, .sealAbort 0 16 0, .sealAbort 0 0 (2 ^ 32), .bind 64 0 0, .bind 0 16 0, .bind 0 0 (2 ^ 32),
  .publish 64 0 0, .publish 0 16 0, .publish 0 0 (2 ^ 32), .allReduce 64 0 0, .allReduce 0 16 0, .allReduce 0 0 (2 ^ 32), .reduceScatter 64 0 0, .reduceScatter 0 16 0,
  .reduceScatter 0 0 (2 ^ 32), .allGather 64 0 0, .allGather 0 16 0, .allGather 0 0 (2 ^ 32), .broadcast 64 0 0, .broadcast 0 16 0, .broadcast 0 0 (2 ^ 32), .receive 64 0 0,
  .receive 0 16 0, .receive 0 0 (2 ^ 32), .reduceUpdateGather 64 0 0, .reduceUpdateGather 0 16 0, .reduceUpdateGather 0 0 (2 ^ 32), .collectiveAbort 64 0 0] : List Instr).all (fun i => !i.wf) = true := by decide +kernel

theorem test_ill_formed_3 : ([.collectiveAbort 0 16 0, .collectiveAbort 0 0 (2 ^ 32), .chunkSend 24, .dataChunkReceive 24, .creditReceive 24, .ackReceive 24, .nackReceive 24, .notOpenReceive 24,
  .creditRegrant 24, .abortReceive 24, .resyncReceive 24, .chunkAckTimeout 24 0 0 0 0 0 0, .chunkAckTimeout 0 64 0 0 0 0 0, .chunkAckTimeout 0 0 (2 ^ 48) 0 0 0 0,
  .chunkAckTimeout 0 0 0 0 0 0 (2 ^ 14), .chunkRelay 24, .collectiveClose 64 0 0, .collectiveClose 0 (2 ^ 48) 0, .collectiveClose 0 0 24, .collectiveReopen 24,
  .updateTile 24, .load 64 0 0, .load 0 16 0, .load 0 0 (2 ^ 32), .switch 64 0 0, .switch 0 16 0, .switch 0 0 (2 ^ 32), .drop 64 0 0, .drop 0 16 0, .drop 0 0 (2 ^ 32),
  .verify 64 0 0, .verify 0 16 0, .verify 0 0 (2 ^ 32), .pin 64 0 0, .pin 0 16 0, .pin 0 0 (2 ^ 32), .unpin 64 0 0, .unpin 0 16 0, .unpin 0 0 (2 ^ 32),
  .checkpointWrite 64 0 0] : List Instr).all (fun i => !i.wf) = true := by decide +kernel

theorem test_ill_formed_4 : ([.checkpointWrite 0 16 0, .checkpointWrite 0 0 (2 ^ 32), .shardArrivalHash 64 0 0 0, .shardArrivalHash 0 16 0 0, .shardArrivalHash 0 0 (2 ^ 32) 0,
  .shardArrivalHash 0 0 0 (2 ^ 16), .inplaceLayerWrite 64 0 0, .inplaceLayerWrite 0 16 0, .inplaceLayerWrite 0 0 (2 ^ 32), .digestWalk 64 false 0 0 0,
  .digestWalk 0 false 8 0 0, .digestWalk 0 false 0 4 0, .tieredLayerStage 64 0 0, .tieredLayerStage 0 8 0, .tieredLayerStage 0 0 (2 ^ 16), .modelEvict 64,
  .generationFree 64 0 0, .generationFree 0 8 0, .generationFree 0 0 4, .turn 64 0 0, .turn 0 16 0, .turn 0 0 (2 ^ 32), .turnGo 64 0, .turnGo 0 (2 ^ 32),
  .builtDigestRecord 64 0 0 0, .builtDigestRecord 0 8 0 0, .builtDigestRecord 0 0 4 0, .builtDigestRecord 0 0 0 (2 ^ 16), .straitLightDetect 24 0, .straitLock 24 0,
  .straitDeskew 24 [] [], .identityFrame 24 [], .straitCheck 24, .straitStateBoundExpiry 24, .straitRetrain 24, .straitRetrainGo 24 0, .straitRetrainGo 0 (2 ^ 32),
  .straitEnable 24 0, .straitEnable 0 (2 ^ 32), .dataFrameReceive 24 []] : List Instr).all (fun i => !i.wf) = true := by decide +kernel

theorem test_ill_formed_5 : ([.nackFrameReceive 24 [], .idleFrameReceive 24 [], .retrainRequestFrame 24 [], .frameReplayTimeout 24, .frameSend 24, .routeLoad (2 ^ 32), .rtEntryWrite (2 ^ 32),
  .fabLock (2 ^ 32), .cwRetrainWrite (2 ^ 32), .registerReadPacket 64 0 0 0, .registerReadPacket 0 (2 ^ 48) 0 0, .registerReadPacket 0 0 (2 ^ 26) 0,
  .registerReadPacket 0 0 0 (2 ^ 32), .registerWritePacket 64 0 [], .registerWritePacket 0 (2 ^ 26) [], .memoryRead 64 0 0 0, .memoryRead 0 (2 ^ 48) 0 0,
  .memoryRead 0 0 (2 ^ 64) 0, .memoryRead 0 0 0 (2 ^ 32), .memoryWrite 64 0 [], .memoryWrite 0 (2 ^ 64) [], .readResponse (2 ^ 48) 0 [],
  .storageCommandComplete 2 0 0 0 false [], .storageCommandComplete 0 0 8 0 false [], .storageCommandComplete 0 0 0 256 false [], .queuePairFail 2 0 0 false,
  .queuePairFail 0 256 0 false, .queuePairFail 0 0 9 false, .storageAckTimeout 2 0 0, .storageAckTimeout 0 256 0, .storageAckTimeout 0 0 9, .ceMarkedReceive 2 0 0,
  .ceMarkedReceive 0 256 0, .ceMarkedReceive 0 0 9, .cnpReceive 2 0 0, .cnpReceive 0 256 0, .cnpReceive 0 0 9, .rateRestore 2 0 0, .rateRestore 0 256 0, .rateRestore 0 0 9] : List Instr).all (fun i => !i.wf) = true := by decide +kernel

theorem test_ill_formed_6 : ([.keepAlive 2 0, .keepAlive 0 256, .arpNdRequest 2 false 0, .arpNdRequest 0 false (2 ^ 128), .storagePacketDrop 2 0 0 false, .storagePacketDrop 0 256 0 false,
  .storagePacketDrop 0 0 9 false, .storageEnable 2 0, .storageEnable 0 (2 ^ 32), .logIndex false (2 ^ 32), .laneLb (2 ^ 32) 0, .laneLb 0 (2 ^ 32), .operatingPointChange 24,
  .budgetPause 64, .budgetResume 64, .islandSleep 24, .islandOff 24, .islandWake 24, .uncoreWake 24, .islandForce 24 0, .islandForce 0 (2 ^ 32), .wake 24 0,
  .wake 0 (2 ^ 32), .railDip 24 0, .railDipRelease 24 0, .railReset 24 0, .thermalWarn 148 0, .thermalThrottle 148 0, .throttleStep 24 [0, 0, 0, 0, 0], .thermalTrip 148 0,
  .thermalTripRelease 148 0, .correctedWriteBack 7 0 0, .correctedWriteBack 0 24 0, .scrubWalk 24 false, .scrubPassEnd 24 false false, .stackLost 24 0, .stackExclude 24 0,
  .stackExclude 0 (2 ^ 32), .repairTest 24 [], .repairBurn 24] : List Instr).all (fun i => !i.wf) = true := by decide +kernel

theorem test_ill_formed_7 : ([.monitorPeriodic 256 0, .monCfgWrite (2 ^ 32), .modResetGo (2 ^ 32), .islandReset 24, .modIslReset (2 ^ 32), .contextReset 64, .ctxResetGo 64 0, .ctxResetGo 0 (2 ^ 32),
  .ctxEnable 64 0, .ctxEnable 0 (2 ^ 32), .testLock (2 ^ 32), .ttInvalidate 64 0, .ttInvalidate 0 (2 ^ 32), .translationWalk 64 0 0 0 false false false,
  .translationWalk 0 (2 ^ 64) 0 0 false false false, .translationWalk 0 0 7 0 false false false, .translationWalk 0 0 0 24 false false false, .vectorRaise 2048,
  .vectorUnmask 2048 0, .vectorUnmask 0 (2 ^ 32), .eventRouteMessage 64 0 0, .eventRouteMessage 0 256 0, .eventRouteMessage 0 0 32, .evtTest 64 0 0 0, .evtTest 0 64 0 0,
  .evtTest 0 0 256 0, .evtTest 0 0 0 (2 ^ 32), .qosArbitrate 73 [] 0, .qosAge 64 0 0, .qosAge 0 16 0, .qosAge 0 0 (2 ^ 32), .attestationReport (2 ^ 32),
  .shadowCtlWrite 24 0, .shadowCtlWrite 0 (2 ^ 32), .hiHalfWrite 64 0 0, .hiHalfWrite 0 (2 ^ 26) 0, .hiHalfWrite 0 0 (2 ^ 32), .loHalfRead 64 0 0, .loHalfRead 0 (2 ^ 48) 0,
  .loHalfRead 0 0 (2 ^ 26)] : List Instr).all (fun i => !i.wf) = true := by decide +kernel

theorem test_ill_formed_8 : ([.clearOnRead 64 0 0, .clearOnRead 0 (2 ^ 48) 0, .clearOnRead 0 0 (2 ^ 26), .genericRegisterWrite 64 0 0, .genericRegisterWrite 0 (2 ^ 26) 0,
  .genericRegisterWrite 0 0 (2 ^ 32), .straitLightLost 24, .fabIdWrite false (2 ^ 32), .srvEvqConsumedWrite 64 0, .srvEvqConsumedWrite 0 (2 ^ 32), .storageLinkDown 2,
  .storageLinkUp 2, .rdmaReadRequest 2 0 0 0, .rdmaReadRequest 0 0 (2 ^ 26) 0, .rdmaReadRequest 0 0 0 (2 ^ 32), .priorityFlowControlFrame 2 0 false,
  .priorityFlowControlFrame 0 8 false, .thermalThrottleRelease 148 0, .powerCap false (some (2 ^ 16)), .alertStatus false (some (2 ^ 16)), .alertMask false (some (2 ^ 16)),
  .samplePreload [true] [], .straitDeskew 0 (List.replicate 33 0) [], .ledgerAttribute [⟨25, 0, 0, none, 0⟩], .ledgerAttribute [⟨0, 65, 0, none, 0⟩],
  .ledgerAttribute [⟨0, 0, 8, none, 0⟩], .throttleStep 0 [0], .correctedError ⟨7, 0, 0, 0, 0, 0, 0, 0, false⟩ 0, .correctedError ⟨0, 24, 0, 0, 0, 0, 0, 0, false⟩ 0,
  .correctedError ⟨6, 2, 0, 0, 0, 0, 0, 0, false⟩ 0, .correctedError ⟨0, 0, 320, 0, 0, 0, 0, 0, false⟩ 0, .correctedError ⟨0, 0, 0, 0, 0, 0, 0, 64, false⟩ 0,
  .uncorrectableError ⟨7, 0, 0, 0, 0, 0, 0, 0, false⟩ 0, .monitorSample ⟨0, 0, 0⟩ (some 64), .qosArbitrate 0 [(64, 0)] 0, .qosArbitrate 0 [(0, 8)] 0] : List Instr).all (fun i => !i.wf) = true := by decide +kernel

/-- The same commands with every operand in range. -/
theorem test_in_range_accepted : ([.add ⟨23, 319⟩ (.ofWord 0), .task 63 15 (2 ^ 32 - 1), .thermalWarn 147 0, .vectorRaise 2047, .hbmWriteInvalidate 24 (2 ^ 41 - 1) [], .correctedError ⟨6, 1, 319, 0, 0, 0, 0, 63, false⟩ 0] : List Instr).all (fun i => i.wf) = true := by decide +kernel

/-! ### Instruction words, written out from R168 to R170, R178 to R181 and R192, some of them those of the example kernel of the cay instruction set -/

/-- Group, opcode and [53:0] of a word side by side: addi s2, s1, 0x20. -/
theorem test_decode_addi : cayInstr c0 0 (0b0000_010000_00010_00001_000000000000_00000000000000000000000000100000 : BitVec 64) = some (.addi c0 ⟨2, 1, 0, 0x20⟩) := by decide +kernel

/-- srd s1, 5. -/
theorem test_decode_srd : cayInstr c0 0 (0b0000_011000_00001_00000_000000000000_00000000000000000000000000000101 : BitVec 64) = some (.srd c0 ⟨1, 0, 0, 5⟩) := by decide +kernel

/-- sltu s3, s1, s2. -/
theorem test_decode_sltu : cayInstr c0 0 (0b0000_001010_00011_00001_00010_000000000000000000000000000000000000000 : BitVec 64) = some (.sltu c0 ⟨3, 1, 2, 0⟩) := by decide +kernel

/-- st32 s4 at s1 − 4. -/
theorem test_decode_st32 : cayInstr c0 0 (0b0001_001001_00100_00001_000000000000_11111111111111111111111111111100 : BitVec 64) = some (.st32 c0 ⟨4, 1, 0, -4⟩) := by decide +kernel

/-- bgeu s1, s2, back by 16. -/
theorem test_decode_bgeu : cayInstr c0 0 (0b0010_000101_00001_00010_000000000000_11111111111111111111111111110000 : BitVec 64) = some (.bgeu c0 ⟨1, 2, 0, -16⟩) := by decide +kernel

/-- tend. -/
theorem test_decode_tend : cayInstr c0 0 (0b0011_001000_00000_00000_00000_000000000000000000000000000000000000000 : BitVec 64) = some (.tend c0 ⟨0, 0, 0, 0⟩) := by decide +kernel

/-- cfen 0x0001, queued, 0. -/
theorem test_decode_cfen : cayInstr c0 0 (0b0100_000001_00000_00000_000000000000_0000000000000001_1_000_000000000000 : BitVec 64) = some (.cfen c0 ⟨0, 0, 0, 1, 1, 0, 0⟩) := by decide +kernel

/-- mdrn 0, 16, 15, s5, s4, s0. -/
theorem test_decode_mdrn : cayInstr c0 0 (0b0101_000101_00_00000000010000_00001111_00101_00100_00000_000000000000000 : BitVec 64) = some (.mdrn c0 ⟨0, 16, 15, 5, 4, 0, 0⟩) := by decide +kernel

/-- miss on array 1, bank 1, along columns, beginning and ending a group and a block. -/
theorem test_decode_miss : cayInstr c0 7 (0b0101_000010_01_1_1_1_1_1_0_0_00000000000101_00000000000110_00111_000000000000 : BitVec 64) =
    some (.miss c0 ⟨1, 1, 1, 1, 1, 1, 0, 0, 5, 6, 7, 0⟩ 7) := by decide +kernel

/-- vfma in the 32-bit form. -/
theorem test_decode_vfma : cayInstr c0 0 (0b0110_000011_00001_00010_00011_00100_00101_1001_1001_00_00_00000000000000000 : BitVec 64) = some (.vfma c0 ⟨1, 2, 3, 4, 5, 9, 9, 0, 0, 0⟩) := by decide +kernel

/-- vcvt from BF16 to E4M3, rounding towards zero. -/
theorem test_decode_vcvt : cayInstr c0 0 (0b0111_000000_00001_00010_00011_00100_00101_0001_0101_01_10_00000000000000000 : BitVec 64) = some (.vcvt c0 ⟨1, 2, 3, 4, 5, 1, 5, 1, 2, 0⟩) := by decide +kernel

/-- vstg. -/
theorem test_decode_vstg : cayInstr c0 0 (0b1000_000001_00001_00010_00011_00100_00101_1001_1001_00_00_00000000000000000 : BitVec 64) = some (.vstg c0 ⟨1, 2, 3, 4, 5, 9, 9, 0, 0, 0⟩) := by decide +kernel

/-- Groups 0x9 to 0xF and an opcode no row gives are reserved. -/
theorem test_decode_reserved : [9, 10, 11, 12, 13, 14, 15].all (fun g => (cayInstr c0 0 (BitVec.ofNat 4 g ++ 0#60)).isNone) = true ∧ cayInstr c0 0 ((0b0000_001011 : BitVec 10) ++ 0#54) = none := by decide +kernel

/-! ### Steps and examples worked in the spec -/

/-- An idle step only counts one always-on cycle. -/
theorem test_idle_step : step s0 = .next { s0 with ptime := 1 } := by rfl

/-- The command in front is run with the rest of the queue. -/
theorem test_front_runs : step { s0 with pending := [.modRstNRelease, .snap] : Machine.State } = exec .modRstNRelease { s0 with pending := [.snap] : Machine.State } := by rfl

/-- The example of R69: 2^24, 1 and 1 at indices 0, 1 and 16 sum to 2^24. -/
theorem test_canonical_order : (roundA32 (csum ([bf16.decode 0x4B80, bf16.decode 0x3F80] ++ List.replicate 14 .zero ++ [bf16.decode 0x3F80] ++ List.replicate 15 .zero))).code = 0x4B800000 := by decide +kernel

/-- The example of R324: six replicas' element combines to 2^24 + 2. -/
theorem test_combine_tree : (roundA32 (combineAll 8 ([0x4B800000, 0x3F800000, 0x3F800000, 0, 0x3F800000, 0x3F800000].map a32.decode))).code = 0x4B800001 := by decide +kernel

/-- The example of R59: 32 elements of −0.375 in E4M3 take the scale code 0x75 and the code 0xFC. -/
theorem test_block_scale : (quantRun 1 (fun _ => .rne) 0 (List.replicate 32 (bf16.decode 0xBEC0))) = (0x75, List.replicate 32 ⟨0xFC, false⟩) := by decide +kernel

/-- The example of R88: 3.0 in a zero-range INT8 channel of scale code 0x7A is the code 96. -/
theorem test_zero_range : encodeUnsigned 7 0x17A 0 (bf16.decode 0x4040) = ⟨96, false⟩ := by decide +kernel

/-- The example of R297: with SCALE 0x79 and ZERO_POINT 48, 2.5 is code 208 and 0 is code 48. -/
theorem test_unsigned_code : encodeUnsigned 7 0x79 48 (bf16.decode 0x4020) = ⟨208, false⟩ ∧ encodeUnsigned 7 0x79 48 .zero = ⟨48, false⟩ := by decide +kernel

/-- The example of R331: at step 256 of a curve from 0 to 2^-12 at step 1,024 the rate is 2^-14. -/
theorem test_curve : (roundA32 (curveAt [(0, 0), (1024, 0x39800000)] 256)).code = 0x38800000 := by decide +kernel

/-- The example of R461: a record of 30,000 µJ in a class of factor 1.25 waits at 3.93 J used and 0.05 J reserved. -/
def sBudget : Machine.State :=
  { (flds (sE [{ ent 1 1 0 [(0x10, 4, 30000), (0x17, 1, 0x11)] with st := .accepted }]) [(.engCap1msW, 0, 4000), (.engCap100msW, 0, 2500), (.engCap1sW, 0, 2000)]).setFld .engCalFactor 0x140 0 (1 + 0x11) with
    ptime := 24000, pw := { Pwr.reset with spends := [⟨0, 0, 40000000⟩, ⟨0, 20000, 3890000000⟩, ⟨64, 0, 40000000⟩, ⟨64, 20000, 3890000000⟩], units := [⟨.record 0 3 1, 0, 50000000, 0⟩] } }

def admittedOf (o : Out) : Option Bool := match o with | .next u => (u.entry 0 2 1).map (fun e => e.admitted) | _ => none

theorem test_budget_waits : admittedOf (exec .admissionCheck sBudget) = some false := by decide +kernel

/-- Once 40 mJ has slid out of the 1 ms window it is admitted. -/
theorem test_budget_admits : admittedOf (exec .admissionCheck { sBudget with ptime := 25001 }) = some true := by decide +kernel

/-- The example of R465: at code 0 with WARN_MV 40 a rail of 755 mV is a dip and one of 760 mV is none. -/
theorem test_rail_warning : (match exec (.railDip 5 755) sPts with | .next u => u.fld .islStatHold 5 | _ => 9) = 1 ∧ (match exec (.railDip 5 760) sPts with | .next u => (u.ipw 5).dip | _ => none) = none := by decide +kernel

/-- The table of R518's example: contexts 4 and 9 with shares 48 and 16, at 61.44 each, serve 4. -/
def sVt : Machine.State := ((flds sPts [(.ctxQosCay, 4, 48), (.ctxQosCay, 9, 16)]).setVtime 3 4 61440000).setVtime 3 9 61440000

theorem test_fair_share : (match exec (.qosArbitrate 3 [(4, 2), (9, 2)] 3840000) { sVt with vwait := [(3, [4, 9])] } with | .next u => (u.vtime 3 4, u.vtime 3 9) | _ => (0, 0)) = (81920000, 61440000) := by decide +kernel

/-- The example after R494: an error of two symbols at physical address 0x2_4C00_1238 of stack 11. -/
theorem test_error_log : ((match exec (.uncorrectableError ⟨4, 11, 0, 0x24C001238, 0, 2, 0, 0, false⟩ 7) sPts with | .next u => some u | _ => none).map (fun (u : Machine.State) => ((u.reg (rkey 0x14 11 0x020 0)).toNat, (u.reg (rkey 0x14 11 0x024 0)).toNat, bits (u.reg (rkey 0x14 11 0x028 0)).toNat 7 6))) =
    some (2 ^ 31 + 4 * 2 ^ 26 + 2 * 2 ^ 24 + 11 * 2 ^ 19, 0x12600091, 3) := by decide +kernel

/-- R443: IDCODE shifts out 0x1A4B_4A63. -/
theorem test_idcode : (match exec .idcode sPts with | .next u => u.outbox | _ => []) = [.tap 32 0x1A4B4A63] := by decide +kernel

end Sys2Proof.Tests
end

section
/-! PROOFS. The machine as a whole: one step, and the state after reset. -/
namespace Sys2Proof.Machine

/-! ### One step (R446) -/

theorem step_of_pending {s : State} {c : Instr} {rest : List Instr} (h : s.pending = c :: rest) : step s = exec c { s with pending := rest } := by
  simp only [step, h]

theorem step_of_no_pending {s : State} (h : s.pending = []) : step s = .next s.tick := by
  simp only [step, h]

/-- Settles O1: the two cases of the queue. -/
theorem stepRunsFront : Obligations.StepRunsFront :=
  ⟨fun _ _ _ h => step_of_pending h, fun _ h => step_of_no_pending h⟩

/-! ### Reset words (R498, R506, R534) -/

/-- What a context's page adds to the reset values of its fields: context 0 is enabled, and context `inst` has 32 vectors from 32 `inst`. -/
def resetExtra (cls inst off : Nat) : Nat :=
  if cls = 0x20 ∧ off = 0x040 ∧ inst = 0 then 2 ^ 31 else if cls = 0x20 ∧ off = 0x070 then 32 * inst else 0

theorem resetExtra_of_cls_ne {cls inst off : Nat} (h : cls ≠ 0x20) : resetExtra cls inst off = 0 := by simp [resetExtra, h]

/-- The reset word of the register that a block class, a page of it and an offset name, in any unit. -/
theorem resetWord_rkey {cls inst off : Nat} (unit : Nat) (hc : cls < 64) (hi : inst < 256) (ho : off < 2 ^ 12) :
    resetWord (rkey cls inst off unit) = BitVec.ofNat 32 (resetOf (fldsOf cls) off + resetExtra cls inst off) := by
  have h1 : rkey cls inst off unit % 2 ^ 26 / 2 ^ 20 = cls := by unfold rkey; omega
  have h2 : rkey cls inst off unit % 2 ^ 26 / 2 ^ 12 % 256 = inst := by unfold rkey; omega
  have h3 : rkey cls inst off unit % 2 ^ 26 % 2 ^ 12 = off := by unfold rkey; omega
  simp only [resetWord, h1, h2, h3, resetExtra]

/-- A field after reset, by the reset values of its page. -/
theorem State.reset_fld {f : Fld} {inst : Nat} (unit : Nat) (hc : f.cls < 64) (hi : inst < 256) (ho : f.off < 2 ^ 12) :
    State.reset.fld f inst unit = bits ((resetOf (fldsOf f.cls) f.off + resetExtra f.cls inst f.off) % 2 ^ 32) f.hi f.lo := by
  show bits (resetWord (f.key inst unit)).toNat f.hi f.lo = _
  rw [Fld.key, resetWord_rkey unit hc hi ho, BitVec.toNat_ofNat]

/-- A field of a page that is none of a context's holds after reset what the tables give, whichever page of its class it is. -/
theorem State.reset_fld_of_cls_ne {f : Fld} {inst : Nat} (hc : f.cls < 64) (hx : f.cls ≠ 0x20) (hi : inst < 256) (ho : f.off < 2 ^ 12) :
    State.reset.fld f inst = bits (resetOf (fldsOf f.cls) f.off % 2 ^ 32) f.hi f.lo := by
  rw [State.reset_fld 0 hc hi ho, resetExtra_of_cls_ne hx, Nat.add_zero]

/-- The landing windows of all streams take four block classes (R540). -/
theorem rkey_window (c q off : Nat) : rkey 0x3C (lwInst c q) off 0 = rkey (0x3C + lwInst c q / 256) (lwInst c q % 256) off 0 := by
  unfold rkey; omega

theorem fldsOf_window {c q : Nat} (hc : c < 64) (hq : q < 16) : fldsOf (0x3C + lwInst c q / 256) = fldsWindow := by
  have h : lwInst c q / 256 < 4 := by unfold lwInst; omega
  generalize lwInst c q / 256 = j at h
  interval_cases j <;> rfl

/-- A field of a landing window after reset, the same for every stream. -/
theorem State.reset_fld_window {f : Fld} {c q : Nat} (hf : f.cls = 0x3C) (ho : f.off < 2 ^ 12) (hc : c < 64) (hq : q < 16) :
    State.reset.fld f (lwInst c q) = bits (resetOf fldsWindow f.off % 2 ^ 32) f.hi f.lo := by
  have hj : lwInst c q / 256 < 4 := by unfold lwInst; omega
  show bits (resetWord (f.key (lwInst c q) 0)).toNat f.hi f.lo = _
  rw [Fld.key, hf, rkey_window, resetWord_rkey 0 (by omega) (Nat.mod_lt _ (by norm_num)) ho, fldsOf_window hc hq, resetExtra_of_cls_ne (by omega), BitVec.toNat_ofNat, Nat.add_zero]

/-- Every stream expects record 1 and is disabled (R204). -/
theorem State.reset_stream {c q : Nat} (hc : c < 64) (hq : q < 16) :
    State.reset.fld .lwNextLo (lwInst c q) = 1 ∧ State.reset.fld .lwNextHi (lwInst c q) = 0 ∧ State.reset.fld .lwCtlEn (lwInst c q) = 0 := by
  rw [State.reset_fld_window rfl (by decide) hc hq, State.reset_fld_window rfl (by decide) hc hq, State.reset_fld_window rfl (by decide) hc hq]
  decide

/-- The register of a context's vector range holds COUNT 32 and BASE 32 `c` (R506). -/
theorem resetOf_irqRange_add (c : Nat) :
    resetOf (fldsOf Fld.ctxIrqRangeBase.cls) Fld.ctxIrqRangeBase.off + resetExtra Fld.ctxIrqRangeBase.cls c Fld.ctxIrqRangeBase.off = 32 * 2 ^ 12 + 32 * c := by
  have h : resetOf (fldsOf Fld.ctxIrqRangeBase.cls) Fld.ctxIrqRangeBase.off = 32 * 2 ^ 12 := by decide
  rw [h]; rfl

/-- Context 0 alone is enabled, and each context owns its 32 vectors (R498, R506). -/
theorem State.reset_context {c : Nat} (hc : c < 64) :
    State.reset.fld .ctxCtlEn c = (if c = 0 then 1 else 0) ∧ State.reset.fld .ctxIrqRangeBase c = 32 * c ∧ State.reset.fld .ctxIrqRangeCount c = 32 := by
  have hi : c < 256 := by omega
  have hen : resetOf (fldsOf Fld.ctxCtlEn.cls) Fld.ctxCtlEn.off = 0 := by decide
  refine ⟨?_, ?_, ?_⟩
  · rw [State.reset_fld 0 (by decide) hi (by decide), hen]
    by_cases h0 : c = 0
    · subst h0; decide
    · simp [resetExtra, h0, bits, Fld.ctxCtlEn]
  · rw [State.reset_fld 0 (by decide) hi (by decide), resetOf_irqRange_add]
    show ((32 * 2 ^ 12 + 32 * c) % 2 ^ 32) >>> 0 % 2 ^ 11 = 32 * c
    rw [Nat.shiftRight_zero]; omega
  · rw [State.reset_fld 0 (by decide) hi (by decide), show Fld.ctxIrqRangeCount.off = Fld.ctxIrqRangeBase.off from rfl,
      show Fld.ctxIrqRangeCount.cls = Fld.ctxIrqRangeBase.cls from rfl, resetOf_irqRange_add]
    show ((32 * 2 ^ 12 + 32 * c) % 2 ^ 32) >>> 12 % 2 ^ 12 = 32
    rw [Nat.shiftRight_eq_div_pow]; omega

/-- No module vector is masked or pending (R507). -/
theorem State.reset_vector (v : Nat) : State.reset.fld .irqVctlMask 0 (1 + v) = 0 ∧ State.reset.fld .irqVctlPending 0 (1 + v) = 0 := by
  rw [State.reset_fld _ (by decide) (by decide) (by decide), State.reset_fld _ (by decide) (by decide) (by decide)]
  decide

/-- Every island runs at its first operating point and every stack answers. -/
theorem State.reset_island {i : Nat} (hi : i < 24) :
    State.reset.fld .islStatState i = 0 ∧ State.reset.fld .islStatOp i = 0 ∧ State.reset.fld .memStatStack i = 0 := by
  have hi' : i < 256 := by omega
  rw [State.reset_fld_of_cls_ne (by decide) (by decide) hi' (by decide), State.reset_fld_of_cls_ne (by decide) (by decide) hi' (by decide),
    State.reset_fld_of_cls_ne (by decide) (by decide) hi' (by decide)]
  decide

/-- Settles O2: the tables are empty, and the fields hold their reset values. -/
theorem resetState : Obligations.ResetState := by
  refine ⟨rfl, rfl, rfl, rfl, rfl, rfl, rfl, rfl, rfl, fun _ => rfl, fun _ => rfl, fun _ => rfl, fun _ => rfl, fun _ _ hc hq => State.reset_stream hc hq,
    fun _ hc => State.reset_context hc, fun v _ => State.reset_vector v, ?_, ?_, ?_, ?_, fun _ hi => State.reset_island hi⟩ <;> decide

end Sys2Proof.Machine
end

section
/-! PROOFS. The register commands: what a write and a read of a register do, field by field (R17, R19, R117, R135, R537 to R543). -/
namespace Sys2Proof.Machine

/-! ### Bits of a word -/

theorem bits_lt (w hi lo : Nat) : bits w hi lo < 2 ^ (hi + 1 - lo) := Nat.mod_lt _ (Nat.two_pow_pos _)

/-- A field written with what it holds leaves the word. -/
theorem ins_bits_self (w hi lo : Nat) (h : lo ≤ hi) : ins w hi lo (bits w hi lo) = w := by
  apply Nat.eq_of_testBit_eq
  intro i
  rw [ins_testBit _ _ _ _ _ h, bits_testBit]
  split
  · rw [decide_eq_true (by omega), Nat.add_sub_cancel' (by omega), Bool.true_and]
  · rfl

theorem Fld.sound_iff {f : Fld} : f.sound = true ↔ f.lo ≤ f.hi ∧ f.hi ≤ 31 := by
  simp only [Fld.sound, Bool.and_eq_true, decide_eq_true_eq]

/-- A field's bits moved to the field's place fit a register. -/
theorem bits_mul_lt {f : Fld} (h : f.sound = true) (w : Nat) : bits w f.hi f.lo * 2 ^ f.lo < 2 ^ 32 := by
  obtain ⟨hlo, hhi⟩ := Fld.sound_iff.1 h
  calc bits w f.hi f.lo * 2 ^ f.lo < 2 ^ (f.hi + 1 - f.lo) * 2 ^ f.lo := Nat.mul_lt_mul_of_pos_right (bits_lt _ _ _) (Nat.two_pow_pos _)
    _ = 2 ^ (f.hi + 1) := by rw [← pow_add]; congr 1; omega
    _ ≤ 2 ^ 32 := Nat.pow_le_pow_right (by norm_num) (by omega)

/-- Subtracting the bits that two words share clears them in the first. -/
theorem testBit_sub_and (x y n : Nat) : (x - (x &&& y)).testBit n = (x.testBit n && !y.testBit n) := by
  have hle : x &&& y ≤ x := Nat.and_le_left
  have hmod : (x &&& y) % 2 = (x % 2) &&& (y % 2) := Nat.and_mod_two_pow (n := 1)
  have hlow : (x &&& y) % 2 ≤ x % 2 := hmod ▸ Nat.and_le_left
  induction n generalizing x y with
  | zero =>
    have hpar : (x - (x &&& y)) % 2 = x % 2 - (x % 2 &&& y % 2) := by omega
    rw [Nat.testBit_zero, Nat.testBit_zero, Nat.testBit_zero, hpar]
    rcases Nat.mod_two_eq_zero_or_one x with hx | hx <;> rcases Nat.mod_two_eq_zero_or_one y with hy | hy <;> simp [hx, hy]
  | succ n ih =>
    have hdiv : (x - (x &&& y)) / 2 = x / 2 - (x / 2 &&& y / 2) := by rw [← Nat.and_div_two]; omega
    rw [Nat.testBit_succ, Nat.testBit_succ, Nat.testBit_succ, hdiv]
    exact ih _ _ Nat.and_le_left (Nat.and_mod_two_pow (n := 1)) ((Nat.and_mod_two_pow (n := 1)).symm ▸ Nat.and_le_left)

/-! ### The fields of a register share no bits -/

/-- Two fields lie apart in their register. -/
def Fld.Apart (f g : Fld) : Prop := f.hi < g.lo ∨ g.hi < f.lo

/-- Some register holds a part of both fields. -/
def Fld.meets (f g : Fld) : Bool := decide (f.off < g.off + 4 * g.num) && decide (g.off < f.off + 4 * f.num)

theorem fldsOf_sound : ∀ cls < 64, ∀ f ∈ fldsOf cls, f.sound = true := by decide +kernel

theorem fldsOf_apart : ∀ cls < 64, (fldsOf cls).Pairwise (fun f g => f.meets g = true → f.hi < g.lo ∨ g.hi < f.lo) := by decide +kernel

theorem fieldsAt_sound {off : Nat} (h : off < 2 ^ 26) {f : Fld} (hf : f ∈ fieldsAt off) : f.sound = true :=
  fldsOf_sound _ (by omega) f (List.mem_of_mem_filter hf)

theorem fieldsAt_apart {off : Nat} (h : off < 2 ^ 26) : (fieldsAt off).Pairwise Fld.Apart := by
  unfold fieldsAt
  refine List.pairwise_filter.2 ((fldsOf_apart _ (by omega)).imp fun {f g} hfg hf hg => hfg ?_)
  simp only [Bool.and_eq_true, decide_eq_true_eq] at hf hg
  simp only [Fld.meets, Bool.and_eq_true, decide_eq_true_eq]
  omega

/-! ### A word changed field by field -/

/-- The word in which each field of a list, in turn, is replaced by what `g` makes of it. -/
def mapFields (g : Fld → Nat → Nat) (fs : List Fld) (w : Nat) : Nat := fs.foldl (fun x f => ins x f.hi f.lo (g f (bits x f.hi f.lo))) w

theorem mapFields_lt (g : Fld → Nat → Nat) {fs : List Fld} (hs : ∀ f ∈ fs, f.sound = true) {w : Nat} (hw : w < 2 ^ 32) : mapFields g fs w < 2 ^ 32 := by
  induction fs generalizing w with
  | nil => exact hw
  | cons f fs ih =>
    obtain ⟨hf, hfs⟩ := List.forall_mem_cons.1 hs
    obtain ⟨hlo, hhi⟩ := Fld.sound_iff.1 hf
    exact ih hfs (ins_lt _ _ _ _ hlo hhi hw)

/-- Bits that lie apart from all fields of the list are left. -/
theorem bits_mapFields_apart (g : Fld → Nat → Nat) {fs : List Fld} (hs : ∀ f ∈ fs, f.sound = true) {e : Fld} (he : ∀ f ∈ fs, e.Apart f) (w : Nat) :
    bits (mapFields g fs w) e.hi e.lo = bits w e.hi e.lo := by
  induction fs generalizing w with
  | nil => rfl
  | cons f fs ih =>
    obtain ⟨hf, hfs⟩ := List.forall_mem_cons.1 hs
    obtain ⟨hef, hefs⟩ := List.forall_mem_cons.1 he
    calc bits (mapFields g (f :: fs) w) e.hi e.lo = bits (ins w f.hi f.lo (g f (bits w f.hi f.lo))) e.hi e.lo :=
          ih hfs hefs _
      _ = bits w e.hi e.lo := bits_ins_ne _ _ _ _ _ _ (Fld.sound_iff.1 hf).1 hef

/-- Each field of a list of fields apart holds what `g` made of its old value. -/
theorem bits_mapFields_mem (g : Fld → Nat → Nat) {fs : List Fld} (hs : ∀ f ∈ fs, f.sound = true) (ha : fs.Pairwise Fld.Apart) {e : Fld} (he : e ∈ fs) (w : Nat) :
    bits (mapFields g fs w) e.hi e.lo = g e (bits w e.hi e.lo) % 2 ^ (e.hi + 1 - e.lo) := by
  induction fs generalizing w with
  | nil => cases he
  | cons f fs ih =>
    obtain ⟨hf, hfs⟩ := List.forall_mem_cons.1 hs
    obtain ⟨hfa, hfsa⟩ := List.pairwise_cons.1 ha
    have hlo : f.lo ≤ f.hi := (Fld.sound_iff.1 hf).1
    rcases List.mem_cons.1 he with rfl | hmem
    · calc bits (mapFields g (e :: fs) w) e.hi e.lo = bits (ins w e.hi e.lo (g e (bits w e.hi e.lo))) e.hi e.lo := bits_mapFields_apart g hfs hfa _
        _ = _ := bits_ins_same _ _ _ _ hlo
    · calc bits (mapFields g (f :: fs) w) e.hi e.lo = g e (bits (ins w f.hi f.lo (g f (bits w f.hi f.lo))) e.hi e.lo) % 2 ^ (e.hi + 1 - e.lo) := ih hfs hfsa hmem _
        _ = _ := by rw [bits_ins_ne _ _ _ _ _ _ hlo (hfa e hmem).symm]

/-! ### The access codes (R17) -/

/-- What a field that holds `b` holds after `v` is written to it by context `a`; `dead` that write-one-to-clear has no effect (R541). -/
def Fld.written (a : Nat) (dead : Bool) (v : Nat) (f : Fld) (b : Nat) : Nat :=
  match f.acc with
  | .rw | .rwl => if fieldTakes f v = true then v else b
  | .rwOwner => if a = 0 ∧ fieldTakes f v = true then v else b
  | .w1c => if dead = true then b else b - (b &&& v)
  | _ => b

theorem Fld.written_lt (a : Nat) (dead : Bool) {v b n : Nat} (f : Fld) (hv : v < n) (hb : b < n) : f.written a dead v b < n := by
  have hc : b - (b &&& v) < n := lt_of_le_of_lt (Nat.sub_le _ _) hb
  unfold Fld.written
  split <;> (try split) <;> assumption

theorem putFields_eq_mapFields (a : Nat) (dead : Bool) {fs : List Fld} (hs : ∀ f ∈ fs, f.sound = true) (old w : Nat) :
    putFields a dead fs old w = mapFields (fun f => f.written a dead (bits w f.hi f.lo)) fs old := by
  unfold putFields mapFields
  refine List.foldl_ext _ _ _ fun x f hf => ?_
  have hlo : f.lo ≤ f.hi := (Fld.sound_iff.1 (hs f hf)).1
  have hself := ins_bits_self x f.hi f.lo hlo
  cases hacc : f.acc <;> simp only [Fld.written, hacc] <;> (try split) <;> simp only [hself]

/-- Each field of a register holds, after a write, what its access code makes of it. -/
theorem bits_putFields {off : Nat} (h : off < 2 ^ 26) (a : Nat) (dead : Bool) (old w : Nat) {f : Fld} (hf : f ∈ fieldsAt off) :
    bits (putFields a dead (fieldsAt off) old w) f.hi f.lo = f.written a dead (bits w f.hi f.lo) (bits old f.hi f.lo) := by
  have hs : ∀ f ∈ fieldsAt off, f.sound = true := fun f hf => fieldsAt_sound h hf
  rw [putFields_eq_mapFields a dead hs, bits_mapFields_mem _ hs (fieldsAt_apart h) hf]
  exact Nat.mod_eq_of_lt (f.written_lt _ _ (bits_lt _ _ _) (bits_lt _ _ _))

theorem putFields_lt {off : Nat} (h : off < 2 ^ 26) (a : Nat) (dead : Bool) {old : Nat} (ho : old < 2 ^ 32) (w : Nat) : putFields a dead (fieldsAt off) old w < 2 ^ 32 := by
  have hs : ∀ f ∈ fieldsAt off, f.sound = true := fun f hf => fieldsAt_sound h hf
  rw [putFields_eq_mapFields a dead hs]; exact mapFields_lt _ hs ho

/-! ### What a register write reaches -/

theorem State.setReg_onlyRegs (s : State) (k : Nat) (w : W32) : OnlyRegs s (s.setReg k w) [k] := fun j hj => by
  simp only [List.mem_singleton] at hj
  rw [State.reg_setReg, if_neg hj]

theorem State.reg_setReg_toNat (s : State) (k : Nat) {v : Nat} (hv : v < 2 ^ 32) : ((s.setReg k (BitVec.ofNat 32 v)).reg k).toNat = v := by
  rw [State.reg_setReg, if_pos rfl, BitVec.toNat_ofNat, Nat.mod_eq_of_lt hv]

theorem State.mayAccess_off_lt {s : State} {a off : Nat} (h : s.mayAccess a off = true) : off < 2 ^ 26 := by
  simp only [State.mayAccess, Bool.and_eq_true, decide_eq_true_eq] at h
  obtain ⟨⟨⟨-, hoff⟩, -⟩, -⟩ := h
  exact hoff

/-- An aperture offset of a register that lies past the header of an existing page, with the key it reaches. -/
structure Reaches (s : State) (a off k : Nat) : Prop where
  aligned : off % 4 = 0
  page : pageExists off = true
  body : hasHeader off = true → 0x040 ≤ off % 2 ^ 12
  key : s.regKey a off = some k

theorem aligned_word {off : Nat} (h : off % 4 = 0) : off / 4 * 4 = off := by omega

theorem Reaches.not_header {s : State} {a off k : Nat} (h : Reaches s a off k) : (hasHeader off && decide (off % 2 ^ 12 < 0x040)) = false := by
  cases hh : hasHeader off
  · rfl
  · simpa using h.body hh

section Write
variable {s : State} {a off k w : Nat}

/-- A write of a register with no behaviour of its own that holds no half of a 64-bit value. -/
theorem Reaches.regWrite_plain (h : Reaches s a off k) (hw : w < 2 ^ 32) (hown : s.ownWrite a off w = none) (hlo : pairLo rwPairs off = none) (hhi : pairHi rwPairs off = none) :
    s.regWrite a off w = s.plainWrite a off k w := by
  simp only [State.regWrite, aligned_word h.aligned, Nat.mod_eq_of_lt hw, h.page, h.not_header, hown, h.key, hlo, hhi, Bool.not_true, Bool.false_eq_true, if_false]

theorem Reaches.regWrite_lo (h : Reaches s a off k) (hw : w < 2 ^ 32) (hown : s.ownWrite a off w = none) {p : Fld × Fld} (hlo : pairLo rwPairs off = some p) :
    s.regWrite a off w = s.stageLo a off k w p := by
  simp only [State.regWrite, aligned_word h.aligned, Nat.mod_eq_of_lt hw, h.page, h.not_header, hown, h.key, hlo, Bool.not_true, Bool.false_eq_true, if_false]

theorem Reaches.regWrite_hi (h : Reaches s a off k) (hw : w < 2 ^ 32) (hown : s.ownWrite a off w = none) {p : Fld × Fld} (hlo : pairLo rwPairs off = none)
    (hhi : pairHi rwPairs off = some p) : s.regWrite a off w = s.applyHi a off k w p := by
  simp only [State.regWrite, aligned_word h.aligned, Nat.mod_eq_of_lt hw, h.page, h.not_header, hown, h.key, hlo, hhi, Bool.not_true, Bool.false_eq_true, if_false]

theorem exec_genericRegisterWrite_next (ha : off % 4 = 0) (hw : w < 2 ^ 32) (hmay : s.mayAccess a off = true) (hpage : pageExists off = true) (hown : s.ownWrite a off w = none) :
    exec (.genericRegisterWrite a off w) s = .next (s.regWrite a off w) := by
  rw [exec_genericRegisterWrite]
  simp only [execGenericRegisterWrite, when, hmay, hpage, aligned_word ha, Nat.mod_eq_of_lt hw, hown, Option.isNone_none, Bool.and_self, if_true]

theorem exec_hiHalfWrite_next (ha : off % 4 = 0) (hmay : s.mayAccess a off = true) (hpage : pageExists off = true) {p : Fld × Fld} (hhi : pairHi rwPairs off = some p) :
    exec (.hiHalfWrite a off w) s = .next (s.regWrite a off w) := by
  rw [exec_hiHalfWrite]
  simp [execHiHalfWrite, when, hmay, hpage, isHi, aligned_word ha, hhi]

/-- A write that the register does not ignore and whose word suits it replaces the register's word alone. -/
theorem State.plainWrite_eq (hig : s.ignores a off = false)
    (hok : s.wordOk off (putFields a (s.pageOff (off / 2 ^ 20) (pageInstance off)) (fieldsAt off) (s.reg k).toNat w) = true) :
    s.plainWrite a off k w = s.setReg k (BitVec.ofNat 32 (putFields a (s.pageOff (off / 2 ^ 20) (pageInstance off)) (fieldsAt off) (s.reg k).toNat w)) := by
  simp only [State.plainWrite, hig, hok, Bool.not_true, Bool.or_self, Bool.false_eq_true, if_false]

end Write

/-- The register's word after a write, field by field. -/
theorem bits_setReg_putFields (s : State) {off : Nat} (h : off < 2 ^ 26) (a k w : Nat) (dead : Bool) {f : Fld} (hf : f ∈ fieldsAt off) :
    bits ((s.setReg k (BitVec.ofNat 32 (putFields a dead (fieldsAt off) (s.reg k).toNat w))).reg k).toNat f.hi f.lo =
      f.written a dead (bits w f.hi f.lo) (bits (s.reg k).toNat f.hi f.lo) := by
  rw [State.reg_setReg_toNat _ _ (putFields_lt h a dead (s.reg k).isLt w), bits_putFields h a dead _ _ hf]

/-! ### Header registers (R537, R538) -/

section Header
variable {page o : Nat}

theorem page_div (hp : page % 2 ^ 12 = 0) (ho : o < 2 ^ 12) : (page + o) / 2 ^ 12 = page / 2 ^ 12 := by omega

theorem page_class (hp : page % 2 ^ 12 = 0) (ho : o < 2 ^ 12) : (page + o) / 2 ^ 20 = page / 2 ^ 20 := by omega

theorem page_mod (hp : page % 2 ^ 12 = 0) (ho : o < 2 ^ 12) : (page + o) % 2 ^ 12 = o := by omega

theorem pageCtx_page (hp : page % 2 ^ 12 = 0) (ho : o < 2 ^ 12) : pageCtx (page + o) = pageCtx page := by
  unfold pageCtx; rw [page_div hp ho, page_class hp ho]

theorem regStatus_page (s : State) (a : Nat) (hp : page % 2 ^ 12 = 0) (ho : o < 2 ^ 12) : s.regStatus a (page + o) = s.regStatus a page := by
  unfold State.regStatus reachable; rw [pageCtx_page hp ho, page_class hp ho]

/-- All registers of a page are reached alike. -/
theorem mayAccess_page (s : State) (a : Nat) (hp : page % 2 ^ 12 = 0) (ho : o < 2 ^ 12) : s.mayAccess a (page + o) = s.mayAccess a page := by
  have hlt : decide (page + o < 2 ^ 26) = decide (page < 2 ^ 26) := decide_eq_decide.2 (by omega)
  rw [State.mayAccess, State.mayAccess, regStatus_page s a hp ho, hlt]

theorem pageExists_page (hp : page % 2 ^ 12 = 0) (ho : o < 2 ^ 12) : pageExists (page + o) = pageExists page := by
  simp only [pageExists, page_div hp ho, page_class hp ho]

/-- No header register of a page has behaviour of its own. -/
theorem ownWrite_header (s : State) (a w : Nat) {off : Nat} (hc : off < 0x3C * 2 ^ 20) (ho : off % 2 ^ 12 < 0x040) : s.ownWrite a off w = none := by
  have h1 : ¬ 0x3C ≤ off / 2 ^ 20 := by omega
  unfold State.ownWrite
  split
  case h_6 => rfl
  case h_33 => exact if_neg h1
  all_goals omega

theorem regWrite_header (s : State) (a : Nat) {off w : Nat} (ha : off % 4 = 0) (hw : w < 2 ^ 32) (hpage : pageExists off = true) (hc : off < 0x3C * 2 ^ 20) (ho : off % 2 ^ 12 < 0x040) :
    s.regWrite a off w = s.writeHeader a off w := by
  have hh : hasHeader off = true := decide_eq_true (by omega)
  simp only [State.regWrite, aligned_word ha, Nat.mod_eq_of_lt hw, hpage, hh, decide_eq_true ho, Bool.not_true, Bool.and_self, Bool.false_eq_true, if_false, if_true]

/-- A write of a header register of an existing page in reach. -/
theorem exec_header_write (s : State) {a w : Nat} (hp : page % 2 ^ 12 = 0) (hc : page < 0x3C * 2 ^ 20) (hw : w < 2 ^ 32) (hmay : s.mayAccess a page = true) (hpage : pageExists page = true)
    (ho : o < 0x040) (ha : o % 4 = 0) : exec (.genericRegisterWrite a (page + o) w) s = .next (s.writeHeader a (page + o) w) := by
  have ho' : o < 2 ^ 12 := by omega
  have hcls : page + o < 0x3C * 2 ^ 20 := by omega
  have hoff : (page + o) % 2 ^ 12 < 0x040 := by rw [page_mod hp ho']; exact ho
  have hal : (page + o) % 4 = 0 := by omega
  have hex : pageExists (page + o) = true := by rw [pageExists_page hp ho', hpage]
  rw [exec_genericRegisterWrite_next hal hw (by rw [mayAccess_page s a hp ho', hmay]) hex (ownWrite_header s a w hcls hoff), regWrite_header s a hal hw hex hcls hoff]

theorem writeHeader_scratch (s : State) (a w : Nat) (hp : page % 2 ^ 12 = 0) : s.writeHeader a (page + 0x030) w = s.setReg (page + 0x030) (BitVec.ofNat 32 w) := by
  simp only [State.writeHeader, page_mod hp (show 0x030 < 2 ^ 12 by norm_num)]

theorem writeHeader_enable (s : State) (a w : Nat) (hp : page % 2 ^ 12 = 0) :
    s.writeHeader a (page + 0x014) w = s.setReg (page + 0x014) (BitVec.ofNat 32 (w % 2 ^ nevt (page / 2 ^ 20))) := by
  simp only [State.writeHeader, page_mod hp (show 0x014 < 2 ^ 12 by norm_num), page_class hp (show 0x014 < 2 ^ 12 by norm_num)]

theorem writeHeader_cause (s : State) (a w : Nat) (hp : page % 2 ^ 12 = 0) (hon : s.pageOff (page / 2 ^ 20) (page / 2 ^ 12 % 256) = false) :
    s.writeHeader a (page + 0x010) w = s.setReg (page + 0x010) (BitVec.ofNat 32 ((s.reg (page + 0x010)).toNat - ((s.reg (page + 0x010)).toNat &&& w))) := by
  have ho : 0x010 < 2 ^ 12 := by norm_num
  simp only [State.writeHeader, page_mod hp ho, page_class hp ho, page_div hp ho, hon, Bool.false_eq_true, if_false]

end Header

/-! ### 64-bit values (R542, R543) -/

/-- Both halves of a value that software writes lie in registers, the _HI half past the page's first word. -/
theorem rwPairs_sound : ∀ p ∈ rwPairs, p.1.sound = true ∧ p.2.sound = true ∧ 4 ≤ p.2.off := by decide

theorem pairHi_mem {ps : List (Fld × Fld)} {off : Nat} {p : Fld × Fld} (h : pairHi ps off = some p) : p ∈ ps ∧ p.2.off = off % 2 ^ 12 := by
  refine ⟨List.mem_of_find?_eq_some h, ?_⟩
  have := List.find?_some h
  simp only [Bool.and_eq_true, beq_iff_eq] at this
  exact this.2

/-- A register's key counts up from its offset in its page. -/
theorem State.regKey_ge {s : State} {a off k : Nat} (h : s.regKey a off = some k) : off % 2 ^ 12 ≤ k := by
  unfold State.regKey at h
  dsimp only at h
  repeat' split at h
  all_goals simp only [Option.some.injEq, reduceCtorEq, rkey] at h
  all_goals omega

theorem State.stageLo_eq {s : State} {a off k w : Nat} {p : Fld × Fld} (h : p.1.acc ≠ .rwOwner ∨ a = 0) :
    s.stageLo a off k w p = { s with stage := Tbl.set noHalf s.stage (halfKey a off k) (some (BitVec.ofNat 32 w)) } := by
  have hn : (ownerPair p && a != 0) = false := by rcases h with h | h <;> simp [ownerPair, h]
  simp [State.stageLo, hn]

theorem State.applyHi_eq {s : State} {a off k w : Nat} {p : Fld × Fld} {lo : W32} (h : p.1.acc ≠ .rwOwner ∨ a = 0) (hcq : p.1 ≠ .cqConsumedLo) (hev : p.1 ≠ .srvEvqConsumedLo)
    (hig : s.ignores a off = false) (hlo : Tbl.get noHalf s.stage (halfKey a off (k - 4)) = some lo) :
    s.applyHi a off k w p =
      ((({ s with stage := Tbl.set noHalf s.stage (halfKey a off (k - 4)) none } : State).setReg (k - 4) (BitVec.ofNat 32 (bits lo.toNat p.1.hi p.1.lo * 2 ^ p.1.lo))).setReg k
        (BitVec.ofNat 32 (bits w p.2.hi p.2.lo * 2 ^ p.2.lo))) := by
  have hn : (ownerPair p && a != 0) = false := by rcases h with h | h <;> simp [ownerPair, h]
  simp [State.applyHi, hn, hcq, hev, hig, hlo]

/-! ### Reads (R17, R543) -/

/-- What a read makes of a field: a clear-on-read field is cleared. -/
def Fld.afterRead (f : Fld) (b : Nat) : Nat := if f.acc = .rc then 0 else b

theorem State.clearRead_only (s : State) (off k : Nat) : s.clearRead off k = { s with regs := (s.clearRead off k).regs } := by
  unfold State.clearRead; dsimp only; split <;> rfl

theorem State.clearRead_onlyRegs (s : State) (off k : Nat) : OnlyRegs s (s.clearRead off k) [k] := by
  unfold State.clearRead; dsimp only
  split
  · exact fun _ _ => rfl
  · exact s.setReg_onlyRegs _ _

theorem foldl_clear_eq_mapFields {fs : List Fld} (hs : ∀ f ∈ fs, f.sound = true) (w : Nat) :
    fs.foldl (fun x f => if f.acc = .rc then ins x f.hi f.lo 0 else x) w = mapFields Fld.afterRead fs w := by
  refine List.foldl_ext _ _ _ fun x f hf => ?_
  have hlo : f.lo ≤ f.hi := (Fld.sound_iff.1 (hs f hf)).1
  unfold Fld.afterRead
  split
  · rfl
  · exact (ins_bits_self _ _ _ hlo).symm

/-- The word that a read leaves in a register. -/
theorem State.clearRead_reg (s : State) {off : Nat} (k : Nat) (h : off < 2 ^ 26) (hon : s.pageOff (off / 2 ^ 20) (pageInstance off) = false) :
    ((s.clearRead off k).reg k).toNat = mapFields Fld.afterRead (fieldsAt off) (s.reg k).toNat := by
  have hs : ∀ f ∈ fieldsAt off, f.sound = true := fun f hf => fieldsAt_sound h hf
  simp only [State.clearRead, foldl_clear_eq_mapFields hs, hon, Bool.false_or, beq_iff_eq]
  split
  case isTrue hv => exact hv.symm
  case isFalse => exact State.reg_setReg_toNat _ _ (mapFields_lt _ hs (s.reg k).isLt)

theorem State.bits_clearRead (s : State) {off : Nat} (k : Nat) (h : off < 2 ^ 26) (hon : s.pageOff (off / 2 ^ 20) (pageInstance off) = false) {f : Fld} (hf : f ∈ fieldsAt off) :
    bits ((s.clearRead off k).reg k).toNat f.hi f.lo = if f.acc = .rc then 0 else bits (s.reg k).toNat f.hi f.lo := by
  have hlt : f.afterRead (bits (s.reg k).toNat f.hi f.lo) < 2 ^ (f.hi + 1 - f.lo) := by
    unfold Fld.afterRead
    split
    · exact Nat.two_pow_pos _
    · exact bits_lt _ _ _
  rw [State.clearRead_reg s k h hon, bits_mapFields_mem _ (fun f hf => fieldsAt_sound h hf) (fieldsAt_apart h) hf, Nat.mod_eq_of_lt hlt, Fld.afterRead]

section Read
variable {s : State} {a off k : Nat}

theorem Reaches.regRead_single (h : Reaches s a off k) (hl : Tbl.get noHalf s.latch (halfKey a off k) = none) (hlo : pairLo roPairs off = none) :
    s.regRead a off = (s.clearRead off k, s.word a off k) := by
  simp only [State.regRead, aligned_word h.aligned, h.page, h.not_header, h.key, hl, hlo, Bool.not_true, Bool.false_eq_true, if_false]

theorem Reaches.regRead_lo (h : Reaches s a off k) (hl : Tbl.get noHalf s.latch (halfKey a off k) = none) {p : Fld × Fld} (hlo : pairLo roPairs off = some p) :
    s.regRead a off =
      ({ s.clearRead off k with latch := Tbl.set noHalf (s.clearRead off k).latch (halfKey a off (k + 4)) (some (BitVec.ofNat 32 (s.word a (off + 4) (k + 4)))) }, s.word a off k) := by
  simp only [State.regRead, aligned_word h.aligned, h.page, h.not_header, h.key, hl, hlo, Bool.not_true, Bool.false_eq_true, if_false]

theorem exec_loHalfRead_next (ha : off % 4 = 0) (hmay : s.mayAccess a off = true) (hpage : pageExists off = true) (hlo : (pairLo roPairs off).isSome = true) (tag : Nat) :
    exec (.loHalfRead a tag off) s = .next (s.readAnswer a tag off) := by
  rw [exec_loHalfRead]
  simp only [execLoHalfRead, when, hmay, hpage, aligned_word ha, hlo, Bool.and_self, if_true]

theorem exec_clearOnRead_next (ha : off % 4 = 0) (hmay : s.mayAccess a off = true) (hpage : pageExists off = true) (hrc : ∃ f ∈ fieldsAt off, f.acc = .rc) (tag : Nat) :
    exec (.clearOnRead a tag off) s = .next (s.readAnswer a tag off) := by
  have hany : (fieldsAt off).any (fun f => f.acc == .rc) = true := by simpa using hrc
  rw [exec_clearOnRead]
  simp only [execClearOnRead, when, hmay, hpage, aligned_word ha, hany, Bool.and_self, if_true]

end Read

/-! ### SHADOW_CTL (R117, R135) -/

/-- What every mapped value of a key and its unlisted value have, the key has in the mapped table. -/
theorem Tbl.get_mapVals_of {α : Type} [DecidableEq α] {d : Nat → α} {f : Nat → α → α} {k : Nat} {P : α → Prop} (hd : P (d k)) (hf : ∀ v, P (f k v)) (t : Tbl α) :
    P (Tbl.get d (Tbl.mapVals d f t) k) := by
  induction t with
  | nil => exact hd
  | cons e t ih =>
    unfold Tbl.mapVals at ih ⊢
    rw [List.map_cons, List.filter_cons]
    split
    · rw [Tbl.get]
      split
      case isTrue he => exact he ▸ hf _
      case isFalse => exact ih
    · exact ih

section Shadow
variable (s : State) {i : Nat}

theorem shadowCtl_off (hi : i < 24) :
    rkey 0x10 i 0x0C0 0 / 2 ^ 20 = 0x10 ∧ rkey 0x10 i 0x0C0 0 / 2 ^ 12 % 256 = i ∧ rkey 0x10 i 0x0C0 0 % 2 ^ 12 = 0x0C0 ∧ rkey 0x10 i 0x0C0 0 < 2 ^ 26 := by
  unfold rkey; omega

theorem pageInstance_shadowCtl (hi : i < 24) : pageInstance (rkey 0x10 i 0x0C0 0) = i := by
  obtain ⟨hc, hn, -, -⟩ := shadowCtl_off hi
  rw [pageInstance, hc, hn, if_neg (by norm_num)]

theorem shadowCtlRate_mem (hi : i < 24) : Fld.shadowCtlRate ∈ fieldsAt (rkey 0x10 i 0x0C0 0) := by
  obtain ⟨hc, -, ho, -⟩ := shadowCtl_off hi
  simp only [fieldsAt, hc, ho]
  decide

/-- SHADOW_CTL is never locked, and no limit binds its fields together. -/
theorem plainWrite_shadowCtl (a w : Nat) (hi : i < 24) :
    s.plainWrite a (rkey 0x10 i 0x0C0 0) (rkey 0x10 i 0x0C0 0) w =
      s.setReg (rkey 0x10 i 0x0C0 0) (BitVec.ofNat 32 (putFields a (s.pageOff 0x10 i) (fieldsAt (rkey 0x10 i 0x0C0 0)) (s.reg (rkey 0x10 i 0x0C0 0)).toNat w)) := by
  obtain ⟨hc, -, ho, -⟩ := shadowCtl_off hi
  have hig : s.ignores a (rkey 0x10 i 0x0C0 0) = false := by simp only [State.ignores, hc]; rfl
  have hok : ∀ v, s.wordOk (rkey 0x10 i 0x0C0 0) v = true := fun v => by simp only [State.wordOk, hc, ho]
  rw [State.plainWrite_eq hig (hok _), hc, pageInstance_shadowCtl hi]

/-- RATE after a write of SHADOW_CTL. -/
theorem fld_plainWrite_shadowCtlRate (w : Nat) (hi : i < 24) :
    (s.plainWrite 0 (rkey 0x10 i 0x0C0 0) (rkey 0x10 i 0x0C0 0) w).fld .shadowCtlRate i =
      Fld.shadowCtlRate.written 0 (s.pageOff 0x10 i) (bits w Fld.shadowCtlRate.hi 0) (s.fld .shadowCtlRate i) := by
  obtain ⟨-, -, -, hlt⟩ := shadowCtl_off hi
  rw [plainWrite_shadowCtl s 0 w hi]
  exact bits_setReg_putFields s hlt 0 _ w _ (shadowCtlRate_mem hi)

theorem exec_shadowCtlWrite_next {w : Nat} (hi : i < 24) (hw : w < 2 ^ 32) : exec (.shadowCtlWrite i w) s = .next (s.writeShadowCtl 0 i w) := by
  obtain ⟨hc, hn, ho, -⟩ := shadowCtl_off hi
  have ha : rkey 0x10 i 0x0C0 0 / 4 * 4 = rkey 0x10 i 0x0C0 0 := aligned_word (by unfold rkey; omega)
  have hpage : pageExists (rkey 0x10 i 0x0C0 0) = true := by
    simp only [pageExists, hc, hn]; exact decide_eq_true hi
  have hown : s.ownWrite 0 (rkey 0x10 i 0x0C0 0) w = some (s.writeShadowCtl 0 i w) := by
    simp only [State.ownWrite, hc, ho, pageInstance_shadowCtl hi]
  rw [exec_shadowCtlWrite]
  simp only [execShadowCtlWrite, when, decide_eq_true hi, if_true, State.regWrite, ha, Nat.mod_eq_of_lt hw, hpage, ho, hown, Bool.not_true, Bool.false_eq_true, if_false,
    show decide (0x0C0 < 0x040) = false from rfl, Bool.and_false]

end Shadow

/-! ### The register commands -/

/-- A write of a register takes effect field by field, and nothing else changes. -/
theorem exec_genericRegisterWrite_fields {s : State} {a off v k : Nat} (h : Reaches s a off k) (hv : v < 2 ^ 32) (hmay : s.mayAccess a off = true) (hown : s.ownWrite a off v = none)
    (hlo : pairLo rwPairs off = none) (hhi : pairHi rwPairs off = none) (hig : s.ignores a off = false)
    (hok : s.wordOk off (putFields a (s.pageOff (off / 2 ^ 20) (pageInstance off)) (fieldsAt off) (s.reg k).toNat v) = true) :
    ∃ w, exec (.genericRegisterWrite a off v) s = .next (s.setReg k w) ∧ ∀ f ∈ fieldsAt off,
      bits ((s.setReg k w).reg k).toNat f.hi f.lo = f.written a (s.pageOff (off / 2 ^ 20) (pageInstance off)) (bits v f.hi f.lo) (bits (s.reg k).toNat f.hi f.lo) := by
  refine ⟨_, ?_, fun f hf => bits_setReg_putFields s (State.mayAccess_off_lt hmay) a k v _ hf⟩
  rw [exec_genericRegisterWrite_next h.aligned hv hmay h.page hown, h.regWrite_plain hv hown hlo hhi, State.plainWrite_eq hig hok]

/-- The _HI half's write puts both halves of a 64-bit value in place, and nothing stays staged. -/
theorem exec_hiHalfWrite_both {s : State} {a off v k : Nat} {p : Fld × Fld} {lo : W32} (h : Reaches s a off k) (hv : v < 2 ^ 32) (hmay : s.mayAccess a off = true)
    (hown : s.ownWrite a off v = none) (hacc : p.1.acc ≠ .rwOwner ∨ a = 0) (hlo : pairLo rwPairs off = none) (hhi : pairHi rwPairs off = some p) (hcq : p.1 ≠ .cqConsumedLo)
    (hev : p.1 ≠ .srvEvqConsumedLo) (hig : s.ignores a off = false) (hst : Tbl.get noHalf s.stage (halfKey a off (k - 4)) = some lo) :
    ∃ u, exec (.hiHalfWrite a off v) s = .next u ∧ u = { s with regs := u.regs, stage := u.stage } ∧ OnlyRegs s u [k, k - 4] ∧
      (u.reg (k - 4)).toNat = bits lo.toNat p.1.hi p.1.lo * 2 ^ p.1.lo ∧ (u.reg k).toNat = bits v p.2.hi p.2.lo * 2 ^ p.2.lo ∧ Tbl.get noHalf u.stage (halfKey a off (k - 4)) = none := by
  obtain ⟨hmem, hoff⟩ := pairHi_mem hhi
  obtain ⟨hs1, hs2, hge⟩ := rwPairs_sound p hmem
  have hk : k - 4 ≠ k := by have := State.regKey_ge h.key; omega
  have hexec := exec_hiHalfWrite_next (w := v) h.aligned hmay h.page hhi
  rw [h.regWrite_hi hv hown hlo hhi, State.applyHi_eq hacc hcq hev hig hst] at hexec
  refine ⟨_, hexec, rfl, ?_, ?_, ?_, ?_⟩
  · intro j hj
    simp only [List.mem_cons, List.not_mem_nil, or_false, not_or] at hj
    rw [State.reg_setReg, if_neg hj.1, State.reg_setReg, if_neg hj.2]; rfl
  · rw [State.reg_setReg, if_neg hk]
    exact State.reg_setReg_toNat _ _ (bits_mul_lt hs1 _)
  · exact State.reg_setReg_toNat _ _ (bits_mul_lt hs2 _)
  · simp only [State.setReg_stage, Tbl.get_set_same]

/-- A read of a register's _LO half that finds no latch answers its word and latches the _HI half's. -/
theorem exec_loHalfRead_latches {s : State} {a off k : Nat} (h : Reaches s a off k) (hmay : s.mayAccess a off = true) (hl : Tbl.get noHalf s.latch (halfKey a off k) = none)
    (hlo : (pairLo roPairs off).isSome = true) (tag : Nat) :
    ∃ u, exec (.loHalfRead a tag off) s = .next u ∧ u.outbox = s.outbox ++ [.response a tag 0 (leBytes 4 (s.word a off k))] ∧
      Tbl.get noHalf u.latch (halfKey a off (k + 4)) = some (BitVec.ofNat 32 (s.word a (off + 4) (k + 4))) := by
  obtain ⟨p, hp⟩ := Option.isSome_iff_exists.1 hlo
  refine ⟨_, exec_loHalfRead_next h.aligned hmay h.page hlo tag, ?_, ?_⟩
  · rw [State.readAnswer, h.regRead_lo hl hp, State.clearRead_only]; rfl
  · simp only [State.readAnswer, h.regRead_lo hl hp, State.emit_latch, Tbl.get_set_same]

/-- A read of a register without halves answers its word and changes what its clear-on-read fields hold alone. -/
theorem exec_clearOnRead_answers {s : State} {a off k : Nat} (h : Reaches s a off k) (hmay : s.mayAccess a off = true) (hl : Tbl.get noHalf s.latch (halfKey a off k) = none)
    (hlo : pairLo roPairs off = none) (hrc : ∃ f ∈ fieldsAt off, f.acc = .rc) (tag : Nat) :
    exec (.clearOnRead a tag off) s = .next ((s.clearRead off k).emit (.response a tag 0 (leBytes 4 (s.word a off k)))) := by
  rw [exec_clearOnRead_next h.aligned hmay h.page hrc tag, State.readAnswer, h.regRead_single hl hlo]

/-- A write of SHADOW_CTL: RATE takes a legal value, and with RATE 0 no cay of the island shadows any more. -/
theorem writeShadowCtl_spec (s : State) {i : Nat} (w : Nat) (hi : i < 24) {u : State} (hu : s.writeShadowCtl 0 i w = u) :
    u = { s with regs := u.regs, cays := u.cays } ∧ OnlyRegs s u [Fld.key .shadowCtlRate i 0] ∧
      u.fld .shadowCtlRate i = Fld.shadowCtlRate.written 0 (s.pageOff 0x10 i) (bits w Fld.shadowCtlRate.hi 0) (s.fld .shadowCtlRate i) ∧
      (u.fld .shadowCtlRate i = 0 → ∀ c, c < 320 → (u.cay ⟨i, c⟩).shadow = none) ∧ (u.fld .shadowCtlRate i ≠ 0 → u.cays = s.cays) := by
  have hrate := fld_plainWrite_shadowCtlRate s w hi
  have hset := plainWrite_shadowCtl s 0 w hi
  unfold State.writeShadowCtl at hu
  dsimp only at hu
  rw [hset] at hu hrate
  split at hu
  case isTrue hne =>
    subst hu
    exact ⟨rfl, s.setReg_onlyRegs _ _, hrate, fun h0 => absurd h0 hne, fun _ => rfl⟩
  case isFalse hz =>
    subst hu
    refine ⟨rfl, s.setReg_onlyRegs _ _, hrate, fun _ c hc => ?_, fun hne => absurd hne hz⟩
    have hk : cayKey ⟨i, c⟩ / 320 = i := by simp only [cayKey]; omega
    simp only [State.cay]
    refine Tbl.get_mapVals_of (P := fun y : Cay => y.shadow = none) rfl (fun y => ?_) _
    rw [if_pos hk]

/-- Settles O47: each command by the lemma that says what it does. -/
theorem registers : Obligations.Registers := by
  refine ⟨?write, ?header, ?halves, ?reads, ?shadow⟩
  case write =>
    intro s ctx off v k ha hv hmay hpage hbody hown hkey hlo hhi hig hok
    obtain ⟨w, hexec, hbits⟩ := exec_genericRegisterWrite_fields ⟨ha, hpage, hbody, hkey⟩ hv hmay hown hlo hhi hig hok
    refine ⟨_, hexec, rfl, s.setReg_onlyRegs _ _, fun f hf => ?_⟩
    cases hacc : f.acc <;> simp only [hbits f hf, Fld.written, hacc]
  case header =>
    intro s ctx page v hp hc hv hmay hpage
    refine ⟨?_, ?_, fun hon => ?_⟩
    · refine ⟨_, exec_header_write s hp hc hv hmay hpage (by norm_num) (by norm_num), ?_⟩
      rw [writeHeader_scratch s ctx v hp]
      exact ⟨rfl, s.setReg_onlyRegs _ _, State.reg_setReg_toNat _ _ hv⟩
    · refine ⟨_, exec_header_write s hp hc hv hmay hpage (by norm_num) (by norm_num), ?_⟩
      rw [writeHeader_enable s ctx v hp]
      exact ⟨rfl, s.setReg_onlyRegs _ _, State.reg_setReg_toNat _ _ (lt_of_le_of_lt (Nat.mod_le _ _) hv)⟩
    · refine ⟨_, exec_header_write s hp hc hv hmay hpage (by norm_num) (by norm_num), ?_⟩
      rw [writeHeader_cause s ctx v hp hon]
      refine ⟨rfl, s.setReg_onlyRegs _ _, fun n => ?_⟩
      rw [State.reg_setReg_toNat _ _ (lt_of_le_of_lt (Nat.sub_le _ _) (s.reg _).isLt), testBit_sub_and]
  case halves =>
    intro s ctx off v k p ha hv hmay hpage hbody hown hkey hacc
    have h : Reaches s ctx off k := ⟨ha, hpage, hbody, hkey⟩
    refine ⟨fun hlo => ⟨_, exec_genericRegisterWrite_next ha hv hmay hpage hown, ?_⟩,
      fun lo hlo hhi hcq hev hig hst => exec_hiHalfWrite_both h hv hmay hown hacc hlo hhi hcq hev hig hst⟩
    rw [h.regWrite_lo hv hown hlo, State.stageLo_eq hacc]
    exact ⟨rfl, by simp only [Tbl.get_set_same]⟩
  case reads =>
    intro s ctx tag off k ha hmay hpage hbody hkey hl
    have h : Reaches s ctx off k := ⟨ha, hpage, hbody, hkey⟩
    refine ⟨fun hlo => exec_loHalfRead_latches h hmay hl hlo tag, fun hrc hlo hon => ⟨_, exec_clearOnRead_answers h hmay hl hlo hrc tag, ?_, ?_, ?_⟩⟩
    · rw [State.clearRead_only]; rfl
    · exact s.clearRead_onlyRegs off k
    · exact fun f hf => s.bits_clearRead k (State.mayAccess_off_lt hmay) hon hf
  case shadow =>
    intro s i v hi hv
    obtain ⟨honly, hregs, hrate, hzero, hkeep⟩ := writeShadowCtl_spec s v hi rfl
    refine ⟨_, exec_shadowCtlWrite_next s hi hv, honly, hregs, fun hlegal => ?_, hzero, hkeep⟩
    have htakes : fieldTakes Fld.shadowCtlRate (bits v Fld.shadowCtlRate.hi 0) = true := by
      show (bits v Fld.shadowCtlRate.hi 0 == 0 || (decide (8 ≤ bits v Fld.shadowCtlRate.hi 0) && decide (bits v Fld.shadowCtlRate.hi 0 ≤ 16))) = true
      simpa using hlegal
    rw [hrate]
    exact if_pos htakes

end Sys2Proof.Machine
end

section
/-! PROOFS. Events and fields of registers: what an event leaves in its cause register, and what writes and counts of fields leave of other registers (R83, R537, R538). -/
namespace Sys2Proof.Machine

/-! ### Conditional events (log entry 2) -/

theorem when_pos {b : Bool} (h : b = true) (t s : State) : when b t s = .next t := if_pos h

theorem when_neg {b : Bool} (h : b = false) (t s : State) : when b t s = .next s := by rw [when, h]; rfl

/-! ### Fields of other registers -/

theorem Fld.key_mod (f : Fld) (i u : Nat) (h : f.off < 2 ^ 12) : f.key i u % 2 ^ 12 = f.off := rkey_mod _ _ _ _ h

theorem State.fld_congr {s t : State} (h : t.regs = s.regs) (f : Fld) (i u : Nat) : t.fld f i u = s.fld f i u := by
  rw [State.fld, State.fld, State.reg, State.reg, h]

/-- A field's write leaves every register whose offset in its page is another. -/
theorem State.reg_setFld_of_off (s : State) {f : Fld} (v i u : Nat) {k : Nat} (hf : f.off < 2 ^ 12) (h : k % 2 ^ 12 ≠ f.off) : (s.setFld f v i u).reg k = s.reg k :=
  s.reg_setFld_ne f v i u k fun hk => h (hk ▸ f.key_mod i u hf)

theorem State.reg_bump_of_off (s : State) {f : Fld} (i n u : Nat) {k : Nat} (hf : f.off < 2 ^ 12) (h : k % 2 ^ 12 ≠ f.off) : (s.bump f i n u).reg k = s.reg k :=
  s.reg_setFld_of_off _ i u hf h

theorem State.setFld_onlyRegs (s : State) (f : Fld) (v i u : Nat) : OnlyRegs s (s.setFld f v i u) [f.key i u] := s.setReg_onlyRegs _ _

theorem State.counted_bump (s : State) {f : Fld} (i : Nat) (h : f.sound = true) : Counted s (s.bump f i) f i := s.fld_bump_same f i 1 0 h

@[simp] theorem State.setFld_hbm (s : State) (f : Fld) (v i u : Nat) : (s.setFld f v i u).hbm = s.hbm := by rw [State.setFld_only]
@[simp] theorem State.setFld_cw (s : State) (f : Fld) (v i u : Nat) : (s.setFld f v i u).cw = s.cw := by rw [State.setFld_only]
@[simp] theorem State.setFld_stos (s : State) (f : Fld) (v i u : Nat) : (s.setFld f v i u).stos = s.stos := by rw [State.setFld_only]
@[simp] theorem State.setFld_outbox (s : State) (f : Fld) (v i u : Nat) : (s.setFld f v i u).outbox = s.outbox := by rw [State.setFld_only]
@[simp] theorem State.bump_hbm (s : State) (f : Fld) (i n u : Nat) : (s.bump f i n u).hbm = s.hbm := by rw [State.bump_only]
@[simp] theorem State.bump_cw (s : State) (f : Fld) (i n u : Nat) : (s.bump f i n u).cw = s.cw := by rw [State.bump_only]
@[simp] theorem State.bump_stos (s : State) (f : Fld) (i n u : Nat) : (s.bump f i n u).stos = s.stos := by rw [State.bump_only]

/-! ### Events (R538) -/

/-- Marking an event in a cause register keeps every mark, and sets its own. -/
theorem State.testBit_mark (s : State) {k j n b : Nat} (hb : b < 32) (h : (s.reg j).toNat.testBit b = true ∨ j = k ∧ b = n) :
    ((s.setReg k (BitVec.ofNat 32 ((s.reg k).toNat ||| 2 ^ n))).reg j).toNat.testBit b = true := by
  rw [State.reg_setReg]
  split
  case isTrue hk =>
    subst hk
    rw [BitVec.toNat_ofNat, Nat.testBit_mod_two_pow, Nat.testBit_or, Nat.testBit_two_pow, decide_eq_true hb, Bool.true_and, Bool.or_eq_true, decide_eq_true_eq]
    exact h.imp id fun h => h.2.symm
  case isFalse hk => exact h.resolve_right fun h => hk h.1

theorem W32.lt_of_testBit {w : W32} {b : Nat} (h : w.toNat.testBit b = true) : b < 32 := by
  by_contra hb
  rw [Nat.testBit_lt_two_pow (lt_of_lt_of_le w.isLt (Nat.pow_le_pow_right (by norm_num) (not_lt.1 hb)))] at h
  exact absurd h (by decide)

/-- No event takes the mark of another away. -/
theorem State.testBit_raiseAt (fuel : Nat) (s : State) (cls inst n : Nat) {k b : Nat} (hk : k % 2 ^ 12 = evtCause) (h : (s.reg k).toNat.testBit b = true) :
    ((State.raiseAt fuel s cls inst n).reg k).toNat.testBit b = true := by
  induction fuel generalizing s cls inst n with
  | zero => exact h
  | succ fuel ih =>
    have hmark := s.testBit_mark (k := rkey cls inst evtCause 0) (n := n) (W32.lt_of_testBit h) (.inl h)
    unfold State.raiseAt
    dsimp only
    split
    case isFalse => exact h
    case isTrue =>
      split
      case isFalse => exact hmark
      case isTrue =>
        split
        case isTrue => rwa [State.reg_raiseModule_ne _ _ _ (by rw [hk]; decide)]
        case isFalse =>
          refine ih _ _ _ _ ?_
          rwa [State.reg_bump_of_off _ _ _ _ (by decide) (by rw [hk]; decide)]

/-- An enabled event stands in its page's cause register. -/
theorem State.raised_raise (s : State) (cls inst n : Nat) : Raised s (s.raise cls inst n) cls inst n := by
  intro hen
  have hmark := s.testBit_mark (k := rkey cls inst evtCause 0) (n := n) (W32.lt_of_testBit hen) (.inr ⟨rfl, rfl⟩)
  have hoff : rkey cls inst evtCause 0 % 2 ^ 12 = evtCause := rkey_mod _ _ _ _ (by decide)
  show ((State.raiseAt (64 + 1) s cls inst n).reg _).toNat.testBit n = true
  unfold State.raiseAt
  dsimp only
  rw [if_pos hen]
  split
  case isFalse => exact hmark
  case isTrue =>
    split
    case isTrue => rwa [State.reg_raiseModule_ne _ _ _ (by rw [hoff]; decide)]
    case isFalse =>
      refine State.testBit_raiseAt _ _ _ _ _ hoff ?_
      rwa [State.reg_bump_of_off _ _ _ _ (by decide) (by rw [hoff]; decide)]

@[simp] theorem State.raise_cw (s : State) (cls inst n : Nat) : (s.raise cls inst n).cw = s.cw := by rw [State.raise_only]

@[simp] theorem State.raise_hbm (s : State) (cls inst n : Nat) : (s.raise cls inst n).hbm = s.hbm := by rw [State.raise_only]

@[simp] theorem State.raise_stos (s : State) (cls inst n : Nat) : (s.raise cls inst n).stos = s.stos := by rw [State.raise_only]

/-- An event has taken place where it did between two states that hold the same enables before and the same causes after. -/
theorem Raised.congr {s s' u u' : State} {cls inst n : Nat} (h : Raised s u cls inst n) (hs : s.reg (rkey cls inst evtEnable 0) = s'.reg (rkey cls inst evtEnable 0))
    (hu : u'.reg (rkey cls inst evtCause 0) = u.reg (rkey cls inst evtCause 0)) : Raised s' u' cls inst n := by
  unfold Raised at *
  rwa [← hs, hu]

end Sys2Proof.Machine
end

section
/-! PROOFS. The Causeway's link: what running it leaves of the state, and its training (R35, R416 to R418, R423 to R425, R558). -/
namespace Sys2Proof.Machine

@[simp] theorem State.modCw_cw (s : State) (f : Causeway → Causeway) : (s.modCw f).cw = f s.cw := by rw [State.modCw]
@[simp] theorem State.modCw_regs (s : State) (f : Causeway → Causeway) : (s.modCw f).regs = s.regs := by rw [State.modCw]
@[simp] theorem State.modCw_hbm (s : State) (f : Causeway → Causeway) : (s.modCw f).hbm = s.hbm := by rw [State.modCw]
@[simp] theorem State.modCw_outbox (s : State) (f : Causeway → Causeway) : (s.modCw f).outbox = s.outbox := by rw [State.modCw]
@[simp] theorem State.modCw_entries (s : State) (f : Causeway → Causeway) : (s.modCw f).entries = s.entries := by rw [State.modCw]
@[simp] theorem State.modCw_reg (s : State) (f : Causeway → Causeway) (k : Nat) : (s.modCw f).reg k = s.reg k := by rw [State.reg, State.reg, State.modCw_regs]
@[simp] theorem State.modCw_fld (s : State) (f : Causeway → Causeway) (g : Fld) (i u : Nat) : (s.modCw f).fld g i u = s.fld g i u := by rw [State.fld, State.fld, State.modCw_reg]

/-! ### The link runs (R423 to R425, R428) -/

/-- What forming, sending and injecting packets leave: all but the counts of injections, the link's queues, what is sent and the free values, and of the link whether sequence
state is kept and the last SEQ accepted. What has been sent stays sent. -/
structure LinkRan (s t : State) : Prop where
  only : t = { s with regs := t.regs, cw := t.cw, outbox := t.outbox, free := t.free }
  regs : ∀ k, k % 2 ^ 12 ≠ Fld.cwInjCnt.off → t.reg k = s.reg k
  kept : t.cw.kept = s.cw.kept
  rxSeq : t.cw.rxSeq = s.cw.rxSeq
  sent : s.outbox <+: t.outbox

theorem LinkRan.refl (s : State) : LinkRan s s := ⟨rfl, fun _ _ => rfl, rfl, rfl, List.prefix_refl _⟩

theorem LinkRan.trans {s t u : State} (h : LinkRan s t) (g : LinkRan t u) : LinkRan s u where
  only := by conv_lhs => rw [g.only, h.only]
  regs k hk := (g.regs k hk).trans (h.regs k hk)
  kept := g.kept.trans h.kept
  rxSeq := g.rxSeq.trans h.rxSeq
  sent := h.sent.trans g.sent

theorem LinkRan.fld {s t : State} (h : LinkRan s t) (f : Fld) (i u : Nat) (ho : f.off < 2 ^ 12) (hf : f.off ≠ Fld.cwInjCnt.off) : t.fld f i u = s.fld f i u := by
  simp only [State.fld, h.regs _ ((f.key_mod i u ho).symm ▸ hf)]

theorem LinkRan.hbm {s t : State} (h : LinkRan s t) : t.hbm = s.hbm := by rw [h.only]

theorem LinkRan.entries {s t : State} (h : LinkRan s t) : t.entries = s.entries := by rw [h.only]

theorem LinkRan.emit (s : State) (e : Emit) : LinkRan s (s.emit e) := ⟨rfl, fun _ _ => rfl, rfl, rfl, List.prefix_append _ _⟩

theorem LinkRan.took (s : State) : LinkRan s s.took := ⟨rfl, fun _ _ => rfl, rfl, rfl, List.prefix_refl _⟩

theorem LinkRan.bump (s : State) : LinkRan s (s.bump .cwInjCnt 0) :=
  ⟨rfl, fun _ hk => s.reg_bump_of_off _ _ _ (by decide) hk, rfl, rfl, List.prefix_refl _⟩

theorem LinkRan.modCw (s : State) {f : Causeway → Causeway} (hk : (f s.cw).kept = s.cw.kept) (hr : (f s.cw).rxSeq = s.cw.rxSeq) : LinkRan s (s.modCw f) :=
  ⟨rfl, fun _ _ => rfl, hk, hr, List.prefix_refl _⟩

theorem State.cwInject_ran (s : State) : LinkRan s s.cwInject.1 := by
  unfold State.cwInject
  dsimp only
  split
  · split
    · exact LinkRan.modCw (f := fun x => { x with injSeen := _ }) s rfl rfl
    · exact (LinkRan.modCw (f := fun x => { x with injSeen := 0 }) s rfl rfl).trans (.bump _)
  · split
    · exact (LinkRan.took s).trans (.bump _)
    · exact .took s

/-- The packet itself leaves, or injection drops, corrupts or holds it. -/
theorem State.cwPut_ran (s : State) (seq : Nat) (p : CwPkt) : LinkRan s (s.cwPut seq p) := by
  have hinj : LinkRan s (if s.cwInjects 0 p.ctx then s.cwInject else (s, false)).1 := by
    split
    · exact s.cwInject_ran
    · exact .refl s
  unfold State.cwPut
  generalize (if s.cwInjects 0 p.ctx then s.cwInject else (s, false)) = r at hinj ⊢
  dsimp only
  generalize hs1 : (if (!r.2) = true then r.1.emit _ else _ : State) = s1
  have h1 : LinkRan s s1 := by
    subst hs1
    refine hinj.trans ?_
    split_ifs
    · exact .emit _ _
    · exact .refl _
    · exact .emit _ _
    · exact .modCw _ rfl rfl
  split
  · exact h1
  · split
    · exact h1.trans (.emit _ _)
    · exact (h1.trans (.emit _ _)).trans (.modCw _ rfl rfl)

theorem State.cwSend_ran (s : State) (p : CwPkt) : LinkRan s (s.cwSend p) := by
  unfold State.cwSend
  dsimp only
  refine LinkRan.trans ?_ (State.cwPut_ran _ _ _)
  exact ⟨rfl, fun _ _ => rfl, rfl, rfl, List.prefix_refl _⟩

theorem State.cwDrain_ran (fuel : Nat) (s : State) : LinkRan s (State.cwDrain fuel s) := by
  induction fuel generalizing s with
  | zero => exact .refl s
  | succ fuel ih =>
    unfold State.cwDrain
    split
    · exact .refl s
    · split
      · exact .refl s
      · exact (s.cwSend_ran _).trans (ih _)

theorem State.cwTake_ran (s : State) : LinkRan s s.cwTake :=
  LinkRan.modCw (f := fun x => { x with taken := s.outbox.length, queue := _ }) s rfl rfl

theorem State.cwPump_ran (s : State) : LinkRan s s.cwPump := by
  unfold State.cwPump
  dsimp only
  split
  · exact s.cwTake_ran.trans (State.cwDrain_ran _ _)
  · exact s.cwTake_ran

/-- Every unacknowledged packet is sent again in order, with the ACK of now, and nothing else changes (R423). -/
theorem State.cwResend_eq (s : State) : s.cwResend = { s with outbox := s.outbox ++ s.cw.unacked.map (fun p => .packet (s.cwBytes p.1 p.2)) } := by
  have hfold : ∀ (l : List (Nat × CwPkt)) (t : State), (∀ p : Nat × CwPkt, t.cwBytes p.1 p.2 = s.cwBytes p.1 p.2) →
      l.foldl (fun t p => t.emit (.packet (t.cwBytes p.1 p.2))) t = { t with outbox := t.outbox ++ l.map (fun p => .packet (s.cwBytes p.1 p.2)) } := by
    intro l
    induction l with
    | nil => intro t _; rw [List.map_nil, List.append_nil]; rfl
    | cons p l ih =>
      intro t ht
      rw [List.foldl_cons, ih (t.emit _) fun q => ht q, State.emit_outbox, ht p, List.map_cons, List.append_assoc]
      rfl
  exact hfold _ s fun _ => rfl

theorem State.markRewrite_regs (s : State) : s.markRewrite.regs = s.regs := by rw [State.markRewrite]

theorem State.markRewrite_hbm (s : State) : s.markRewrite.hbm = s.hbm := by rw [State.markRewrite]

/-- A fresh start leaves registers and HBM; the expected SEQ is 1 and no landing-window response is owed (R418). -/
theorem State.cwRestart_spec (s : State) : (s.cwRestart).regs = s.regs ∧ s.cwRestart.hbm = s.hbm ∧ s.cwRestart.cw.rxSeq = 0 ∧ ∀ e ∈ s.cwRestart.entries, e.owed = [] := by
  unfold State.cwRestart
  dsimp only
  refine ⟨?_, ?_, ?_, fun e he => ?_⟩
  · rw [State.modCw_regs, State.markRewrite_regs, State.cwTake, State.modCw_regs]
  · rw [State.modCw_hbm, State.markRewrite_hbm, State.cwTake, State.modCw_hbm]
  · rw [State.modCw_cw]
  · obtain ⟨x, -, rfl⟩ := List.mem_map.1 he
    rfl

/-! ### Retraining (R418) -/

/-- The link is not Active: nothing happens. -/
theorem State.cwRetrain_of_ne {s : State} (h : s.fld .cwStatState 0 ≠ 5) : s.cwRetrain = s := if_pos h

/-- What retraining an Active link does. -/
structure Retrained (s u : State) : Prop where
  state : u.fld .cwStatState 0 = 2
  counted : Counted s u .cwRetrainCnt 0
  raised : Raised s u 0x09 0 0
  cw : u.cw = { s.cw with kept := true, streak := 0, peer := none }
  hbm : u.hbm = s.hbm

theorem State.cwRetrain_of_active {s : State} (h : s.fld .cwStatState 0 = 5) : Retrained s s.cwRetrain := by
  have heq : s.cwRetrain = ((((s.setFld .cwStatState 2 0).setFld .cwCtlRetrain 0 0).bump .cwRetrainCnt 0).modCw
      (fun x => { x with kept := true, streak := 0, peer := none })).raise 0x09 0 0 := if_neg (not_not.2 h)
  rw [heq]
  refine ⟨?_, ?_, ?_, ?_, ?_⟩
  · rw [State.fld_raise_ne _ _ _ _ _ _ _ (by decide) (by decide) (by decide) (by decide)]
    simp (disch := decide) only [State.modCw_fld, State.fld_bump_ne, State.fld_setFld_ne, State.fld_setFld_same]
    rfl
  · unfold Counted
    rw [State.fld_raise_ne _ _ _ _ _ _ _ (by decide) (by decide) (by decide) (by decide)]
    simp (disch := decide) only [State.modCw_fld, State.fld_bump_same, State.fld_setFld_ne]
  · refine (State.raised_raise _ _ _ _).congr ?_ rfl
    rw [State.modCw_reg, State.reg_bump_of_off _ _ _ _ (by decide) (by decide), State.reg_setFld_of_off _ _ _ _ (by decide) (by decide),
      State.reg_setFld_of_off _ _ _ _ (by decide) (by decide)]
  · simp only [State.raise_cw, State.modCw_cw, State.bump_cw, State.setFld_cw]
  · simp only [State.raise_hbm, State.modCw_hbm, State.bump_hbm, State.setFld_hbm]

/-! ### Training (R416, R417) -/

/-- The width that all lanes, or one half of them, give. -/
theorem cwWidth_of_usable {lanes : Nat} (h : lanes % 2 ^ 16 = 0xFFFF ∨ bits lanes 7 0 = 0xFF ∨ bits lanes 15 8 = 0xFF) :
    cwWidth lanes = if lanes % 2 ^ 16 = 0xFFFF then 16 else 8 := by
  unfold cwWidth
  dsimp only
  split
  case isTrue => rfl
  case isFalse hall =>
    refine if_pos ((h.resolve_left hall).imp (fun hlo => ?_) fun hhi => ?_)
    · rw [← hlo, bits, bits]
      exact Nat.mod_mod_of_dvd _ (by norm_num)
    · rw [← hhi, bits, bits, Nat.shiftRight_eq_div_pow, Nat.shiftRight_eq_div_pow]
      norm_num only
      omega

/-- A dark Causeway that may train goes to Lock once eight lanes carry signal. -/
theorem exec_cwSignalDetect_next {s : State} {lanes : Nat} (hl : 8 ≤ ones 16 lanes) (hr : s.run ≠ .off) (hf : s.cw.failed = false) (hi : s.ports.ir ≠ .laneLb)
    (hs : s.fld .cwStatState 0 = 1) : exec (.cwSignalDetect lanes) s = .next (s.setFld .cwStatState 2 0) := by
  have hmay : s.cwMay = true := by simp [State.cwMay, hr, hf, hi]
  rw [exec_cwSignalDetect, execCwSignalDetect, when_pos]
  simp [State.cwDetecting, hmay, hs, hl]

theorem exec_cwLock_next {s : State} {lanes : Nat} (hs : s.fld .cwStatState 0 = 2) (hw : cwWidth lanes ≠ 0) :
    exec (.cwLock lanes) s = .next ((s.setFld .cwStatState 3 0).modCw (fun x => { x with width := cwWidth lanes })) := by
  rw [exec_cwLock, execCwLock, when_pos]
  simp [hs, hw]

theorem exec_cwAlign_next {s : State} {order : Nat} (hs : s.fld .cwStatState 0 = 3) (ho : order ≤ 1) :
    exec (.cwAlign order) s = .next (((s.setFld .cwStatState 4 0).setFld .cwStatReversed order 0).modCw (fun x => { x with peer := none })) := by
  rw [exec_cwAlign, execCwAlign, when_pos]
  simp [hs, ho]

/-- The link's state register as Config ends: Active, with the width and RESUMED both sides allow (R418). -/
def State.cwActive (s : State) (narrow resume : Bool) : State :=
  ((s.setFld .cwStatState 5 0).setFld .cwStatWidth8 (b2n narrow) 0).setFld .cwStatResumed (b2n resume) 0

theorem State.cwActive_fld (s : State) (narrow resume : Bool) : (s.cwActive narrow resume).fld .cwStatState 0 = 5 ∧
    (s.cwActive narrow resume).fld .cwStatWidth8 0 = b2n narrow ∧ (s.cwActive narrow resume).fld .cwStatResumed 0 = b2n resume := by
  unfold State.cwActive
  simp (disch := decide) only [State.fld_setFld_ne, State.fld_setFld_same]
  cases narrow <;> cases resume <;> decide

@[simp] theorem State.cwActive_hbm (s : State) (narrow resume : Bool) : (s.cwActive narrow resume).hbm = s.hbm := by
  rw [State.cwActive, State.setFld_hbm, State.setFld_hbm, State.setFld_hbm]

@[simp] theorem State.cwActive_cw (s : State) (narrow resume : Bool) : (s.cwActive narrow resume).cw = s.cw := by
  rw [State.cwActive, State.setFld_cw, State.setFld_cw, State.setFld_cw]

@[simp] theorem State.cwActive_outbox (s : State) (narrow resume : Bool) : (s.cwActive narrow resume).outbox = s.outbox := by
  rw [State.cwActive, State.setFld_outbox, State.setFld_outbox, State.setFld_outbox]

/-- The state that Config leaves before the link runs: what was not acknowledged has been sent again, or both sides start afresh. -/
def State.cwResumed (s : State) (narrow resume : Bool) : State :=
  ((if resume then (s.cwActive narrow resume).cwResend else (s.cwActive narrow resume).cwRestart).modCw (fun x => { x with kept := true, nacked := false }))

theorem exec_cwConfig_next {s : State} {offer : Bool} {width : Nat} (hp : s.cw.peer = some (offer, width)) (hw : width ≠ 0) (hs : s.fld .cwStatState 0 = 4) :
    exec .cwConfig s = .next (s.cwResumed (s.cw.width == 8 || width == 8) (offer && s.cw.kept)).cwPump := by
  rw [exec_cwConfig, execCwConfig, hp]
  exact if_neg (by simp [hs, hw])

theorem State.cwResumed_true (s : State) (narrow : Bool) : s.cwResumed narrow true = (s.cwActive narrow true).cwResend.modCw (fun x => { x with kept := true, nacked := false }) := rfl

theorem State.cwResumed_false (s : State) (narrow : Bool) : s.cwResumed narrow false = (s.cwActive narrow false).cwRestart.modCw (fun x => { x with kept := true, nacked := false }) := rfl

theorem State.cwResumed_kept (s : State) (narrow resume : Bool) : (s.cwResumed narrow resume).cw.kept = true := by rw [State.cwResumed, State.modCw_cw]

theorem State.cwResumed_regs (s : State) (narrow resume : Bool) : (s.cwResumed narrow resume).regs = (s.cwActive narrow resume).regs := by
  cases resume
  · rw [State.cwResumed_false, State.modCw_regs]; exact (State.cwRestart_spec _).1
  · rw [State.cwResumed_true, State.modCw_regs, State.cwResend_eq]

theorem State.cwResumed_hbm (s : State) (narrow resume : Bool) : (s.cwResumed narrow resume).hbm = s.hbm := by
  cases resume
  · rw [State.cwResumed_false, State.modCw_hbm]; exact (State.cwRestart_spec _).2.1.trans (s.cwActive_hbm _ _)
  · rw [State.cwResumed_true, State.modCw_hbm, State.cwResend_eq, ← s.cwActive_hbm narrow true]

/-- A resumed link has sent again what was not acknowledged. -/
theorem State.cwResumed_outbox (s : State) (narrow : Bool) :
    (s.cwResumed narrow true).outbox = s.outbox ++ s.cw.unacked.map (fun p => .packet (s.cwBytes p.1 p.2)) := by
  rw [State.cwResumed_true, State.modCw_outbox, State.cwResend_eq]
  simp only [State.cwActive_outbox, State.cwActive_cw, State.cwBytes]

/-- Any other link starts afresh. -/
theorem State.cwResumed_fresh (s : State) (narrow : Bool) : (s.cwResumed narrow false).cw.rxSeq = 0 ∧ ∀ e ∈ (s.cwResumed narrow false).entries, e.owed = [] := by
  obtain ⟨-, -, hrx, howed⟩ := (s.cwActive narrow false).cwRestart_spec
  rw [State.cwResumed_false, State.modCw_cw, State.modCw_entries]
  exact ⟨hrx, howed⟩

/-- Config ends with the link Active: it has what both sides allow, and goes on from where it stopped or from the start (R418). -/
theorem exec_cwConfig_spec {s : State} {offer : Bool} {width : Nat} (hp : s.cw.peer = some (offer, width)) (hw : width ≠ 0) (hs : s.fld .cwStatState 0 = 4) :
    ∃ u, exec .cwConfig s = .next u ∧ u.fld .cwStatState 0 = 5 ∧ u.fld .cwStatWidth8 0 = (if s.cw.width = 8 ∨ width = 8 then 1 else 0) ∧
      u.fld .cwStatResumed 0 = (if offer = true ∧ s.cw.kept = true then 1 else 0) ∧ u.cw.kept = true ∧ u.hbm = s.hbm ∧
      (offer = true → s.cw.kept = true → ∃ out, u.outbox = s.outbox ++ s.cw.unacked.map (fun p => .packet (s.cwBytes p.1 p.2)) ++ out) ∧
      (¬ (offer = true ∧ s.cw.kept = true) → u.cw.rxSeq = 0 ∧ ∀ e ∈ u.entries, e.owed = []) := by
  refine ⟨_, exec_cwConfig_next hp hw hs, ?_⟩
  generalize hn : (s.cw.width == 8 || width == 8) = narrow
  generalize hr : (offer && s.cw.kept) = resume
  have hran := (s.cwResumed narrow resume).cwPump_ran
  have hfld : ∀ f : Fld, f.off = Fld.cwStatState.off → (s.cwResumed narrow resume).cwPump.fld f 0 = (s.cwActive narrow resume).fld f 0 := fun f hf =>
    (hran.fld f 0 0 (hf ▸ by decide) (hf ▸ by decide)).trans (State.fld_congr (s.cwResumed_regs narrow resume) f 0 0)
  obtain ⟨hstate, hwidth, hresumed⟩ := s.cwActive_fld narrow resume
  refine ⟨(hfld .cwStatState rfl).trans hstate, ?_, ?_, hran.kept.trans (s.cwResumed_kept _ _), hran.hbm.trans (s.cwResumed_hbm _ _), fun ho hk => ?_, fun hfresh => ?_⟩
  · rw [hfld .cwStatWidth8 rfl, hwidth, ← hn]
    simp only [b2n, Bool.or_eq_true, beq_iff_eq]
  · rw [hfld .cwStatResumed rfl, hresumed, ← hr]
    simp only [b2n, Bool.and_eq_true]
  · obtain rfl : true = resume := by rw [← hr, ho, hk]; rfl
    obtain ⟨out, hout⟩ := hran.sent
    exact ⟨out, by rw [← hout, s.cwResumed_outbox]⟩
  · obtain rfl : false = resume := by
      rw [← Bool.and_eq_true, Bool.not_eq_true, hr] at hfresh
      exact hfresh.symm
    rw [hran.rxSeq, hran.entries]
    exact s.cwResumed_fresh narrow

/-- A bound that passes leads a training link back (R417). -/
theorem exec_cwStateBoundExpiry_lock {s : State} (h : s.fld .cwStatState 0 = 2) : exec .cwStateBoundExpiry s = .next (s.setFld .cwStatState 1 0) := by
  rw [exec_cwStateBoundExpiry, execCwStateBoundExpiry, h]
  rfl

theorem exec_cwStateBoundExpiry_align {s : State} (h : s.fld .cwStatState 0 = 3) : exec .cwStateBoundExpiry s = .next (s.setFld .cwStatState 2 0) := by
  rw [exec_cwStateBoundExpiry, execCwStateBoundExpiry, h]
  rfl

theorem exec_cwStateBoundExpiry_config {s : State} (h : s.fld .cwStatState 0 = 4) :
    exec .cwStateBoundExpiry s = .next ((s.setFld .cwStatState 2 0).modCw (fun x => { x with peer := none })) := by
  rw [exec_cwStateBoundExpiry, execCwStateBoundExpiry, h]
  rfl

theorem State.fld_cwStatState_setFld (s : State) {v : Nat} (h : v < 8) : (s.setFld .cwStatState v 0).fld .cwStatState 0 = v := by
  rw [State.fld_setFld_same _ _ _ _ _ (by decide)]
  exact Nat.mod_eq_of_lt h

/-! ### CW_CTL and the cable (R429, R558) -/

/-- The replay timeout that a write of CW_CTL leaves: 0 is not taken. -/
def State.cwTimeout (s : State) (t : Nat) : State := if t = 0 then s else s.setFld .cwCtlReplayTimeout t 0

theorem State.writeCwCtl_eq (s : State) (v : Nat) : s.writeCwCtl v = if v % 2 = 1 then (s.cwTimeout (bits v 15 8)).cwRetrain else s.cwTimeout (bits v 15 8) := by
  have hbit : (bit v 0 = true) = (v % 2 = 1) := by rw [bit, Nat.testBit_zero, decide_eq_true_eq]
  unfold State.writeCwCtl State.cwTimeout
  simp only [hbit]

theorem State.cwTimeout_only (s : State) (t : Nat) : s.cwTimeout t = { s with regs := (s.cwTimeout t).regs } := by
  unfold State.cwTimeout; split <;> rfl

theorem State.cwTimeout_reg (s : State) (t : Nat) {k : Nat} (hk : k % 2 ^ 12 ≠ Fld.cwCtlReplayTimeout.off) : (s.cwTimeout t).reg k = s.reg k := by
  unfold State.cwTimeout
  split
  · rfl
  · exact s.reg_setFld_of_off _ _ _ (by decide) hk

theorem State.cwTimeout_fld (s : State) (t : Nat) {f : Fld} (hf : f.off < 2 ^ 12) (ho : f.off ≠ Fld.cwCtlReplayTimeout.off) (i u : Nat) : (s.cwTimeout t).fld f i u = s.fld f i u := by
  rw [State.fld, State.fld, State.cwTimeout_reg]
  rwa [f.key_mod i u hf]

theorem State.cwTimeout_same (s : State) {t : Nat} (h : t < 256) : (s.cwTimeout t).fld .cwCtlReplayTimeout 0 = if t = 0 then s.fld .cwCtlReplayTimeout 0 else t := by
  unfold State.cwTimeout
  split
  · rfl
  · rw [State.fld_setFld_same _ _ _ _ _ (by decide)]
    exact Nat.mod_eq_of_lt h

/-- RETRAIN written: what the write does to the timeout is of no account to it. -/
theorem exec_cwRetrainWrite_retrain {s : State} {v : Nat} (hv : v % 2 = 1) (h : s.fld .cwStatState 0 = 5) :
    ∃ u, exec (.cwRetrainWrite v) s = .next u ∧ u.fld .cwStatState 0 = 2 ∧ Counted s u .cwRetrainCnt 0 ∧ Raised s u 0x09 0 0 := by
  have hexec : exec (.cwRetrainWrite v) s = .next (s.cwTimeout (bits v 15 8)).cwRetrain := by
    rw [exec_cwRetrainWrite, execCwRetrainWrite, s.writeCwCtl_eq, if_pos hv]
  have hactive : (s.cwTimeout (bits v 15 8)).fld .cwStatState 0 = 5 := (s.cwTimeout_fld _ (by decide) (by decide) 0 0).trans h
  obtain ⟨hstate, hcount, hraise, -, -⟩ := State.cwRetrain_of_active hactive
  refine ⟨_, hexec, hstate, ?_, hraise.congr (s.cwTimeout_reg _ (by decide)) rfl⟩
  unfold Counted at hcount ⊢
  rwa [s.cwTimeout_fld _ (by decide) (by decide)] at hcount

theorem exec_cwRetrainWrite_timeout {s : State} {v : Nat} (hv : v % 2 = 0) : exec (.cwRetrainWrite v) s = .next (s.cwTimeout (bits v 15 8)) := by
  rw [exec_cwRetrainWrite, execCwRetrainWrite, s.writeCwCtl_eq, if_neg (by omega)]

theorem exec_cableUnplug_next {s : State} (h : s.fld .cwStatState 0 ≠ 0) : exec .cableUnplug s = .next (s.cwRetrain.setFld .cwStatState 1 0) := by
  rw [exec_cableUnplug, execCableUnplug]
  exact when_pos (by simpa using h) _ _

/-- Retraining forgets nothing that is not acknowledged. -/
theorem State.cwRetrain_unacked (s : State) : s.cwRetrain.cw.unacked = s.cw.unacked := by
  by_cases h : s.fld .cwStatState 0 = 5
  · rw [(s.cwRetrain_of_active h).cw]
  · rw [s.cwRetrain_of_ne h]

/-! ### The states of the Causeway -/

/-- Settles O45: each event of the link by the lemma that says what it does. -/
theorem causewayTraining : Obligations.CausewayTraining := by
  refine ⟨?detect, ?lock, ?align, ?config, ?bound, ?retrain, ?control, ?unplug, ?failure⟩
  case detect =>
    intro s lanes hl hr hf hi hs
    exact ⟨_, exec_cwSignalDetect_next hl hr hf hi hs, s.fld_cwStatState_setFld (by decide), s.setFld_onlyRegs _ _ _ _, s.setFld_only _ _ _ _⟩
  case lock =>
    intro s lanes hs hl
    have hw := cwWidth_of_usable hl
    refine ⟨_, exec_cwLock_next hs (by rw [hw]; split <;> decide), ?_, ?_, ?_⟩
    · rw [State.modCw_fld]; exact s.fld_cwStatState_setFld (by decide)
    · rw [State.modCw, State.setFld_only]
    · rw [State.modCw_cw, State.setFld_cw, hw]
  case align =>
    intro s order hs ho
    refine ⟨_, exec_cwAlign_next hs ho, ?_, ?_, ?_⟩
    · rw [State.modCw_fld, State.fld_setFld_ne _ _ _ _ _ _ _ _ (by decide) (by decide)]
      exact s.fld_cwStatState_setFld (by decide)
    · rw [State.modCw_fld, State.fld_setFld_same _ _ _ _ _ (by decide)]
      exact Nat.mod_eq_of_lt (Nat.lt_succ_of_le ho)
    · rw [State.modCw, State.setFld_only, s.setFld_only]
  case config => exact fun s offer width hp hw hs => exec_cwConfig_spec hp hw hs
  case bound =>
    refine fun s => ⟨fun h => ⟨_, exec_cwStateBoundExpiry_lock h, s.fld_cwStatState_setFld (by decide), s.setFld_only _ _ _ _⟩, fun h => ?_⟩
    rcases h with h | h
    · exact ⟨_, exec_cwStateBoundExpiry_align h, s.fld_cwStatState_setFld (by decide), s.setFld_onlyRegs _ _ _ _⟩
    · refine ⟨_, exec_cwStateBoundExpiry_config h, ?_, fun k hk => ?_⟩
      · rw [State.modCw_fld]; exact s.fld_cwStatState_setFld (by decide)
      · rw [State.modCw_reg]; exact s.setFld_onlyRegs _ _ _ _ k hk
  case retrain =>
    refine fun s => ⟨fun h => ?_, fun h => by rw [exec_cwRetrain, execCwRetrain, s.cwRetrain_of_ne h]⟩
    obtain ⟨hstate, hcount, hraise, hcw, hhbm⟩ := s.cwRetrain_of_active h
    exact ⟨_, rfl, hstate, hcount, hraise, hcw, hhbm⟩
  case control =>
    exact fun s v => ⟨fun hv h => exec_cwRetrainWrite_retrain hv h, fun hv => ⟨_, exec_cwRetrainWrite_timeout hv, s.cwTimeout_only _,
      s.cwTimeout_fld _ (by decide) (by decide) _ _, s.cwTimeout_same (bits_lt _ _ _)⟩⟩
  case unplug =>
    intro s h
    refine ⟨_, exec_cableUnplug_next h, State.fld_cwStatState_setFld _ (by decide), ?_, fun h5 => ?_⟩
    · rw [State.setFld_cw, s.cwRetrain_unacked]
    · exact (s.cwRetrain_of_active h5).raised.congr rfl (State.reg_setFld_of_off _ _ _ _ (by decide) (by decide))
  case failure =>
    intro s
    refine ⟨_, rfl, ?_, ?_, ?_⟩
    · rw [State.modCw_fld, State.cwOff, State.modCw_fld]; exact s.fld_cwStatState_setFld (by decide)
    · rw [State.modCw_cw, State.cwOff, State.modCw_cw, State.setFld_cw]
    · rw [State.modCw, State.cwOff, State.modCw, s.setFld_only]

end Sys2Proof.Machine
end

section
/-! PROOFS. The storage ports: what the failure of an operation leaves of the ports, and the events of the ports themselves (R35, R430, R431, R435, R436, R439). -/
namespace Sys2Proof.Machine

/-! ### A port replaced by a function of it -/

@[simp] theorem State.sto_modSto (s : State) (p q : Nat) (f : StoPort → StoPort) : (s.modSto p f).sto q = if q = p then f (s.sto p) else s.sto q := by
  rw [State.sto, State.modSto, Tbl.get_set]
  rfl

@[simp] theorem State.modSto_outbox (s : State) (p : Nat) (f : StoPort → StoPort) : (s.modSto p f).outbox = s.outbox := by rw [State.modSto]

@[simp] theorem State.modSto_reg (s : State) (p : Nat) (f : StoPort → StoPort) (k : Nat) : (s.modSto p f).reg k = s.reg k := by rw [State.modSto, State.reg, State.reg]

@[simp] theorem State.modSto_fld (s : State) (p : Nat) (f : StoPort → StoPort) (g : Fld) (i u : Nat) : (s.modSto p f).fld g i u = s.fld g i u := by
  rw [State.fld, State.fld, State.modSto_reg]

theorem State.sto_congr {s t : State} (h : t.stos = s.stos) (p : Nat) : t.sto p = s.sto p := by rw [State.sto, State.sto, h]

theorem State.qp_congr {s t : State} (h : t.stos = s.stos) (p target queue : Nat) : t.qp p target queue = s.qp p target queue := by
  rw [State.qp, State.qp, State.sto_congr h]

/-- A queue pair replaced by a function that keeps its name. -/
theorem State.qp_modQp {s : State} {p target queue : Nat} {k : StoQp} {f : StoQp → StoQp} (h : s.qp p target queue = some k)
    (hf : ∀ x, (f x).target = x.target ∧ (f x).queue = x.queue) : (s.modQp p target queue f).qp p target queue = some (f k) := by
  have hmine : k.target = target ∧ k.queue = queue := by
    have hk := List.find?_some h
    simpa using hk
  have hname : ((fun x : StoQp => x.target == target && x.queue == queue) ∘ fun x => if x.target = target ∧ x.queue = queue then f x else x) =
      fun x => x.target == target && x.queue == queue := by
    funext x
    dsimp only [Function.comp_apply]
    split
    · rw [(hf x).1, (hf x).2]
    · rfl
  rw [State.qp, State.modQp, State.sto_modSto, if_pos rfl, List.find?_map, hname, ← State.qp, h, Option.map_some, if_pos hmine]

/-- A message of a port that is not paused leaves at once (R430). -/
theorem State.stoEmit_of_running {s : State} {p : Nat} (h : (s.sto p).paused = false) (e : Emit) : s.stoEmit p e = s.emit e := by rw [State.stoEmit, h]; rfl

/-! ### Operations that fail (R436, R438) -/

/-- What the failure of operations leaves of the storage ports: STO_CTL and STO_STAT, the queue pairs, whether the hardware works, and no command it did not hold. -/
structure PortsSpared (s t : State) : Prop where
  ctl : ∀ k, k % 2 ^ 12 = Fld.stoCtlEn.off ∨ k % 2 ^ 12 = Fld.stoStatLink.off → t.reg k = s.reg k
  qps : ∀ p, (t.sto p).qps = (s.sto p).qps
  failed : ∀ p, (t.sto p).failed = (s.sto p).failed
  cmds : ∀ p, (t.sto p).cmds ⊆ (s.sto p).cmds

namespace PortsSpared

theorem refl (s : State) : PortsSpared s s := ⟨fun _ _ => rfl, fun _ => rfl, fun _ => rfl, fun _ => List.Subset.refl _⟩

theorem trans {s t u : State} (h : PortsSpared s t) (g : PortsSpared t u) : PortsSpared s u :=
  ⟨fun k hk => (g.ctl k hk).trans (h.ctl k hk), fun p => (g.qps p).trans (h.qps p), fun p => (g.failed p).trans (h.failed p), fun p => List.Subset.trans (g.cmds p) (h.cmds p)⟩

theorem foldl {α : Type} {f : State → α → State} (hf : ∀ t a, PortsSpared t (f t a)) (l : List α) (s : State) : PortsSpared s (l.foldl f s) := by
  induction l generalizing s with
  | nil => exact refl s
  | cons a l ih => exact (hf s a).trans (ih _)

/-- What writes neither ports nor the two registers. -/
theorem of_stos {s t : State} (hs : t.stos = s.stos) (hr : ∀ k, k % 2 ^ 12 = Fld.stoCtlEn.off ∨ k % 2 ^ 12 = Fld.stoStatLink.off → t.reg k = s.reg k) : PortsSpared s t :=
  ⟨hr, fun p => by rw [State.sto_congr hs], fun p => by rw [State.sto_congr hs], fun p => by rw [State.sto_congr hs]; exact List.Subset.refl _⟩

theorem of_regs {s t : State} (hs : t.stos = s.stos) (hr : t.regs = s.regs) : PortsSpared s t := of_stos hs fun k _ => by rw [State.reg, State.reg, hr]

theorem setFld (s : State) (f : Fld) (v i u : Nat) (h : f.off < 2 ^ 12 ∧ f.off ≠ Fld.stoCtlEn.off ∧ f.off ≠ Fld.stoStatLink.off) : PortsSpared s (s.setFld f v i u) :=
  of_stos (s.setFld_stos f v i u) fun _ hk => s.reg_setFld_of_off v i u h.1 (hk.elim (fun hk => hk ▸ h.2.1.symm) fun hk => hk ▸ h.2.2.symm)

theorem bump (s : State) (f : Fld) (i n u : Nat) (h : f.off < 2 ^ 12 ∧ f.off ≠ Fld.stoCtlEn.off ∧ f.off ≠ Fld.stoStatLink.off) : PortsSpared s (s.bump f i n u) :=
  setFld s f _ i u h

theorem raise (s : State) (cls inst n : Nat) : PortsSpared s (s.raise cls inst n) :=
  of_stos (s.raise_stos cls inst n) fun _ hk => s.reg_raise_ne _ _ _ _ (hk.elim (· ▸ by decide) (· ▸ by decide)) (hk.elim (· ▸ by decide) (· ▸ by decide))
    (hk.elim (· ▸ by decide) (· ▸ by decide))

theorem fld {s t : State} (h : PortsSpared s t) {f : Fld} (hf : f.off = Fld.stoCtlEn.off ∨ f.off = Fld.stoStatLink.off) (i u : Nat) : t.fld f i u = s.fld f i u := by
  have hmod : f.key i u % 2 ^ 12 = f.off := f.key_mod i u (hf.elim (· ▸ by decide) (· ▸ by decide))
  rw [State.fld, State.fld, h.ctl _ (hmod.symm ▸ hf)]

theorem setIc (s : State) (i : Nat) (c : ICache) : PortsSpared s (s.setIc i c) := of_regs rfl rfl

theorem setTask (s : State) (n : Nat) (x : Task) : PortsSpared s (s.setTask n x) := of_regs rfl rfl

theorem dropTaskRec (s : State) (t : Nat) : PortsSpared s (s.dropTaskRec t) := of_regs rfl rfl

theorem dropUnit (s : State) (i : UnitId) : PortsSpared s (s.dropUnit i) := of_regs rfl rfl

theorem modEntry (s : State) (c q n : Nat) (f : Entry → Entry) : PortsSpared s (s.modEntry c q n f) := of_regs rfl rfl

theorem dropJob (s : State) (j : LoadJob) : PortsSpared s (s.dropJob j) := of_regs rfl rfl

theorem dropCkpts (s : State) (l : List Ckpt) : PortsSpared s { s with ckpts := l } := of_regs rfl rfl

theorem modModel (s : State) (c m : Nat) (f : Model → Model) : PortsSpared s (s.modModel c m f) := of_regs rfl rfl

/-! #### HBM (R144, R145) -/

theorem invalidateLine (s : State) (w : Option Nat) (l : Nat) : PortsSpared s (s.invalidateLine w l) := foldl (fun t i => by
  unfold State.invalidateIn
  dsimp only
  split
  · exact setIc _ _ _
  · exact (setIc _ _ _).trans (bump _ _ _ _ _ (by decide))) _ s

theorem hbmWrite (s : State) (w : Option Nat) (k : Nat) (d : List (BitVec 8)) : PortsSpared s (s.hbmWrite w k d) := by
  unfold State.hbmWrite
  split
  · exact refl s
  · exact (foldl (fun t l => invalidateLine t w l) (linesOf k d.length) s).trans (of_regs rfl rfl)

theorem markSuspect (s : State) (c : Nat) (x : Shard) (v : Bool) : PortsSpared s (s.markSuspect c x v) := foldl (fun t a => by
  unfold State.editPte
  split
  · exact refl t
  · exact hbmWrite _ _ _ _) _ s

/-! #### The record of a failed operation (R217, R230) -/

theorem journal (s : State) (e : Entry) : PortsSpared s (s.journal e) := by
  have hput : ∀ (t : State) (c : Prop) [Decidable c] (k : Nat) (d : List (BitVec 8)), PortsSpared t (if c then t else t.hbmWrite none k d) := fun t c _ k d => by
    split
    · exact refl t
    · exact hbmWrite _ _ _ _
  exact ((hput s _ _ _).trans (hput _ _ _ _)).trans (modEntry _ _ _ _ _)

theorem shadowDrop (s : State) (i t : Nat) : PortsSpared s (s.shadowDrop i t) := by
  unfold State.shadowDrop State.showSpecLines
  exact (setIc _ _ _).trans (setFld _ .icSpecLinesLines _ i 0 (by decide))

/-- The tasks of a record that failed commit nothing. -/
theorem settle_false (s : State) (t : Nat) : PortsSpared s (s.settle t false) := by
  unfold State.settle
  dsimp only
  split
  · exact refl s
  · rw [if_neg (by simp), State.specDiscard]
    exact (foldl (fun u i => shadowDrop u i t) _ s).trans (setTask _ _ _)

theorem put64_lwDone (s : State) (i v : Nat) : PortsSpared s (s.put64 .lwDoneLo .lwDoneHi v i) :=
  (setFld s .lwDoneLo _ i 0 (by decide)).trans (setFld _ .lwDoneHi _ i 0 (by decide))

theorem commitRecord (s : State) (e : Entry) {status : Nat} (detail : Nat) (h : status ≠ 0) : PortsSpared s (s.commitRecord e status detail) := by
  have hst : (status == 0) = false := by simpa using h
  unfold State.commitRecord
  dsimp only
  rw [if_neg h, hst]
  have hsettled : ∀ t : State, PortsSpared t ((s.recordTasks e).foldl (fun u k => (u.settle k false).dropTaskRec k) t) :=
    foldl (fun u k => (settle_false u k).trans (dropTaskRec _ k)) _
  exact ((((modEntry s _ _ _ _).trans (journal _ _)).trans (hsettled _)).trans (put64_lwDone _ _ _)).trans (dropUnit _ _)

theorem finish (s : State) (c q n : Nat) {status : Nat} (detail : Nat) (h : status ≠ 0) : PortsSpared s (s.finish c q n status detail) := by
  unfold State.finish
  split
  · exact refl s
  · split
    · exact refl s
    · split
      · exact commitRecord s _ detail h
      · exact modEntry s _ _ _ _

/-! #### Commands, loads and checkpoint writes -/

theorem modSto (s : State) (p : Nat) {f : StoPort → StoPort} (hq : (f (s.sto p)).qps = (s.sto p).qps) (hf : (f (s.sto p)).failed = (s.sto p).failed)
    (hc : (f (s.sto p)).cmds ⊆ (s.sto p).cmds) : PortsSpared s (s.modSto p f) := by
  refine ⟨fun k _ => s.modSto_reg p f k, fun q => ?_, fun q => ?_, fun q => ?_⟩ <;> rw [State.sto_modSto] <;> split
  case refine_1.isTrue h => rw [h, hq]
  case refine_2.isTrue h => rw [h, hf]
  case refine_3.isTrue h => rw [h]; exact hc
  case refine_3.isFalse => exact List.Subset.refl _
  all_goals rfl

theorem dropCmds (s : State) (k : Nat × Nat × Nat) : PortsSpared s (s.dropCmds k) :=
  foldl (fun t p => modSto t p rfl rfl (List.filter_subset_self _)) _ s

theorem stoNote (s : State) (p c d : Nat) : PortsSpared s (s.stoNote p c d) := by
  unfold State.stoNote
  dsimp only
  refine trans (bump s .stoErrCnt p 1 0 (by decide)) (trans ?_ (raise _ _ _ _))
  split
  · exact refl _
  · exact ((setFld _ .stoErrCaptValid _ p 0 (by decide)).trans (setFld _ .stoErrCaptCtx _ p 0 (by decide))).trans (setFld _ .stoErrDetail _ p 0 (by decide))

theorem spoil (s : State) (c m i : Nat) : PortsSpared s (s.spoil c m i) := by
  unfold State.spoil
  exact (foldl (fun t x => markSuspect t c x true) _ s).trans (modModel _ _ _ _)

theorem failJob (s : State) (j : LoadJob) {status : Nat} (detail : Nat) (h : status ≠ 0) : PortsSpared s (s.failJob j status detail) := by
  unfold State.failJob
  dsimp only
  refine trans ?_ (finish _ _ _ _ detail h)
  refine trans ((dropJob s j).trans (dropCmds _ (j.ctx, j.stream, j.seq))) ?_
  split
  · exact modModel _ _ _ _
  · split
    · exact spoil _ _ _ _
    · exact refl _
  · exact refl _

theorem endCkpt (s : State) (k : Ckpt) {status : Nat} (detail : Nat) (h : status ≠ 0) : PortsSpared s (s.endCkpt k status detail) := by
  unfold State.endCkpt
  exact ((dropCkpts s _).trans (dropCmds _ _)).trans (finish _ _ _ _ detail h)

theorem stoFail (s : State) (p : Nat) (o : StoOwner) (d : Nat) : PortsSpared s (s.stoFail p o d) := by
  unfold State.stoFail
  dsimp only
  split
  · split
    · exact dropCmds _ _
    · exact (stoNote _ _ _ _).trans (failJob _ _ d (by decide))
  · split
    · exact dropCmds _ _
    · exact (stoNote _ _ _ _).trans (endCkpt _ _ d (by decide))

end PortsSpared

/-! ### A port closes (R439) -/

/-- A port with nothing in flight, no queue pair and nothing held. -/
def StoPort.closed (x : StoPort) : StoPort := { x with qps := [], cmds := [], todo := [], held := [] }

/-- Every operation of a port has failed: those with a command outstanding, then those with a range that waits. -/
def State.stoFailAll (s : State) (p : Nat) : State :=
  (s.sto p).todo.foldl (fun t r => t.stoFail p r.owner (stoDetail 3 r.target 1)) ((s.sto p).cmds.foldl (fun t m => t.stoFail p m.owner (stoDetail 3 m.target m.issues)) s)

theorem State.stoClose_eq (s : State) (p : Nat) : s.stoClose p = (s.stoFailAll p).modSto p StoPort.closed := rfl

theorem PortsSpared.stoFailAll (s : State) (p : Nat) : PortsSpared s (s.stoFailAll p) :=
  (foldl (fun t m => stoFail t p m.owner _) (s.sto p).cmds s).trans (foldl (fun (t : State) (r : StoRange) => stoFail t p r.owner _) _ _)

theorem State.stoClose_sto (s : State) (p : Nat) : (s.stoClose p).sto p = ((s.stoFailAll p).sto p).closed := by rw [State.stoClose_eq, State.sto_modSto, if_pos rfl]

/-- STO_CTL and STO_STAT of every port stand while a port closes. -/
theorem State.stoClose_fld (s : State) (p : Nat) {f : Fld} (hf : f.off = Fld.stoCtlEn.off ∨ f.off = Fld.stoStatLink.off) (i u : Nat) : (s.stoClose p).fld f i u = s.fld f i u := by
  rw [State.stoClose_eq, State.modSto_fld, (PortsSpared.stoFailAll s p).fld hf]

/-! ### STO_CTL (R439) -/

/-- STO_CTL as a write leaves it: EN, and a legal ACK_EXP. -/
def State.stoCtlSet (s : State) (p v : Nat) : State :=
  (if 8 ≤ bits v 12 8 ∧ bits v 12 8 ≤ 20 then s.setFld .stoCtlAckExp (bits v 12 8) p else s).setFld .stoCtlEn (bits v 0 0) p

theorem State.writeStoCtl_eq (s : State) (p v : Nat) :
    s.writeStoCtl p v = if s.fld .stoCtlEn p = 1 ∧ bits v 0 0 = 0 then (s.stoCtlSet p v).stoClose p else s.stoCtlSet p v := rfl

theorem State.stoCtlSet_only (s : State) (p v : Nat) : s.stoCtlSet p v = { s with regs := (s.stoCtlSet p v).regs } := by
  unfold State.stoCtlSet; split <;> rfl

theorem bits_zero_zero (v : Nat) : bits v 0 0 = v % 2 := by simp [bits]

theorem State.stoCtlSet_en (s : State) (p v : Nat) : (s.stoCtlSet p v).fld .stoCtlEn p = v % 2 := by
  rw [State.stoCtlSet, State.fld_setFld_same _ _ _ _ _ (by decide), bits_zero_zero]
  exact Nat.mod_mod v 2

theorem State.stoCtlSet_ackExp (s : State) (p v : Nat) :
    (s.stoCtlSet p v).fld .stoCtlAckExp p = if 8 ≤ bits v 12 8 ∧ bits v 12 8 ≤ 20 then bits v 12 8 else s.fld .stoCtlAckExp p := by
  rw [State.stoCtlSet, State.fld_setFld_ne _ _ _ _ _ _ _ _ (by decide) (.inr (by decide))]
  split
  · rw [State.fld_setFld_same _ _ _ _ _ (by decide)]
    exact Nat.mod_eq_of_lt (bits_lt v 12 8)
  · rfl

/-- STO_CTL after a write, whether or not the write closes the port. -/
theorem State.writeStoCtl_fld (s : State) (p v : Nat) {f : Fld} (hf : f.off = Fld.stoCtlEn.off) : (s.writeStoCtl p v).fld f p = (s.stoCtlSet p v).fld f p := by
  rw [State.writeStoCtl_eq]
  split
  · exact State.stoClose_fld _ _ (.inl hf) _ _
  · rfl

theorem exec_storageEnable_next {p : Nat} (hp : p < 2) (v : Nat) (s : State) : exec (.storageEnable p v) s = .next (s.writeStoCtl p v) := by
  rw [exec_storageEnable, execStorageEnable, when_pos (decide_eq_true hp)]

/-! ### The link of a port (R439) -/

theorem State.stoLinkDown_of_up {s : State} {p : Nat} (h : s.fld .stoStatLink p = 1) : s.stoLinkDown p = (s.setFld .stoStatLink 0 p).raise 0x0A p 0 := if_pos h

theorem State.stoLinkDown_of_down {s : State} {p : Nat} (h : s.fld .stoStatLink p ≠ 1) : s.stoLinkDown p = s := if_neg h

theorem State.stoLinkDown_sto (s : State) (p q : Nat) : (s.stoLinkDown p).sto q = s.sto q := by
  unfold State.stoLinkDown
  split
  · exact State.sto_congr (by rw [State.raise_stos, State.setFld_stos]) q
  · rfl

theorem State.fld_raise_stoStatLink (s : State) (cls inst n p : Nat) : (s.raise cls inst n).fld .stoStatLink p = s.fld .stoStatLink p :=
  s.fld_raise_ne _ _ _ _ _ _ (by decide) (by decide) (by decide) (by decide)

theorem State.stoLinkDown_link (s : State) (p : Nat) : (s.stoLinkDown p).fld .stoStatLink p = 0 := by
  by_cases h : s.fld .stoStatLink p = 1
  · rw [State.stoLinkDown_of_up h, State.fld_raise_stoStatLink, State.fld_setFld_same _ _ _ _ _ (by decide)]
    rfl
  · have hlt : s.fld .stoStatLink p < 2 := bits_lt _ _ _
    rw [State.stoLinkDown_of_down h]
    omega

/-- The link of the other port stays as it is. -/
theorem State.stoLinkDown_other (s : State) {p q : Nat} (h : q ≠ p) : (s.stoLinkDown p).fld .stoStatLink q = s.fld .stoStatLink q := by
  have hkey : Fld.stoStatLink.key q 0 ≠ Fld.stoStatLink.key p 0 := by
    unfold Fld.key rkey; omega
  unfold State.stoLinkDown
  split
  · rw [State.fld_raise_stoStatLink, State.fld_setFld_ne _ _ _ _ _ _ _ _ (by decide) (.inl hkey)]
  · rfl

theorem State.stoLinkDown_raised {s : State} {p : Nat} (h : s.fld .stoStatLink p = 1) : Raised s (s.stoLinkDown p) 0x0A p 0 := by
  have hoff : rkey 0x0A p evtEnable 0 % 2 ^ 12 ≠ Fld.stoStatLink.off := by
    rw [rkey_mod _ _ _ _ (by decide)]; decide
  rw [State.stoLinkDown_of_up h]
  exact (State.raised_raise _ _ _ _).congr (s.reg_setFld_of_off _ _ _ (by decide) hoff) rfl

theorem State.stoLinkUp_link (s : State) (p : Nat) : (s.setFld .stoStatLink 1 p).fld .stoStatLink p = 1 := s.fld_setFld_same _ _ _ _ (by decide)

theorem exec_storageLinkUp_next {s : State} {p : Nat} (hp : p < 2) (h : (s.sto p).failed = false) : exec (.storageLinkUp p) s = .next (s.setFld .stoStatLink 1 p) := by
  rw [exec_storageLinkUp, execStorageLinkUp, when_pos]
  rw [h, decide_eq_true hp]; rfl

/-! ### Flow control (R430) -/

theorem State.foldl_emit_sto (l : List Emit) (s : State) (p : Nat) : (l.foldl (fun t e => t.emit e) s).sto p = s.sto p :=
  foldl_keeps (fun t : State => t.sto p) _ (fun t e => State.sto_congr (t.emit_stos e) p) l s

/-- What is held leaves in order. -/
theorem State.foldl_emit_outbox (l : List Emit) (s : State) : (l.foldl (fun t e => t.emit e) s).outbox = s.outbox ++ l := by
  induction l generalizing s with
  | nil => rw [List.append_nil]; rfl
  | cons e l ih => rw [List.foldl_cons, ih, State.emit_outbox, List.append_assoc, List.singleton_append]

theorem exec_priorityFlowControlFrame_other {s : State} {p prio : Nat} (h : prio ≠ s.fld .stoIpCtlPcp p) (pause : Bool) : exec (.priorityFlowControlFrame p prio pause) s = .next s := by
  rw [exec_priorityFlowControlFrame, execPriorityFlowControlFrame, if_pos h]

theorem exec_priorityFlowControlFrame_pause {s : State} {p prio : Nat} (h : prio = s.fld .stoIpCtlPcp p) :
    exec (.priorityFlowControlFrame p prio true) s = .next (s.modSto p (fun x => { x with paused := true })) := by
  rw [exec_priorityFlowControlFrame, execPriorityFlowControlFrame, if_neg (not_not.2 h), if_pos rfl]

theorem exec_priorityFlowControlFrame_resume {s : State} {p prio : Nat} (h : prio = s.fld .stoIpCtlPcp p) :
    exec (.priorityFlowControlFrame p prio false) s =
      .next ((s.sto p).held.foldl (fun t e => t.emit e) (s.modSto p (fun x => { x with paused := false, held := [] }))) := by
  rw [exec_priorityFlowControlFrame, execPriorityFlowControlFrame, if_neg (not_not.2 h), if_neg Bool.false_ne_true]

/-! ### What arrives at a port (R430, R431, R435) -/

/-- Over IPv4 the port's address is its first word. -/
theorem exec_arpNdRequest_ipv4 {s : State} {p : Nat} (h : s.fld .stoIpCtlIpv6 p = 0) (a : Nat) :
    exec (.arpNdRequest p false a) s = when (a == s.fld (Fld.stoIp.nth 0) p) (s.stoEmit p (.arpReply p)) s := by
  rw [exec_arpNdRequest, execArpNdRequest, h]
  simp only [Bool.false_eq_true, if_false, Nat.add_zero, b2n, beq_self_eq_true, Bool.true_and]

theorem exec_keepAlive_next {s : State} {p target : Nat} {k : StoQp} (h : s.qp p target 0 = some k) : exec (.keepAlive p target) s = .next (s.stoEmit p (.keepAlive p target)) := by
  rw [exec_keepAlive, execKeepAlive, h]
  exact when_pos rfl _ _

theorem exec_storagePacketDrop_unknown {s : State} {p target queue : Nat} (h : s.qp p target queue = none) (b : Bool) :
    exec (.storagePacketDrop p target queue b) s = .next (s.bump .stoDropCnt p) := by
  rw [exec_storagePacketDrop, execStoragePacketDrop, h]

theorem exec_storagePacketDrop_unsupported {s : State} {p target queue : Nat} {k : StoQp} (h : s.qp p target queue = some k) :
    exec (.storagePacketDrop p target queue true) s = .next ((s.bump .stoDropCnt p).modQp p target queue (fun k => { k with err := true })) := by
  rw [exec_storagePacketDrop, execStoragePacketDrop, h]
  exact when_pos rfl _ _

theorem State.modQp_fld (s : State) (p target queue : Nat) (f : StoQp → StoQp) (g : Fld) (i u : Nat) : (s.modQp p target queue f).fld g i u = s.fld g i u := by
  rw [State.modQp, State.modSto_fld]

/-! ### The hardware of the ports fails (R35) -/

/-- A port is gone for good. -/
structure PortDead (s : State) (p : Nat) : Prop where
  failed : (s.sto p).failed = true
  qps : (s.sto p).qps = []
  cmds : (s.sto p).cmds = []
  link : s.fld .stoStatLink p = 0

/-- One port's hardware fails: its link goes down and it closes. -/
def State.stoDie (s : State) (p : Nat) : State := ((s.stoLinkDown p).stoClose p).modSto p (fun x => { x with failed := true })

theorem exec_storagePortHardwareFailure_next (s : State) : exec .storagePortHardwareFailure s = .next ((s.stoDie 0).stoDie 1) := rfl

theorem State.stoDie_link (s : State) (p q : Nat) : (s.stoDie p).fld .stoStatLink q = (s.stoLinkDown p).fld .stoStatLink q := by
  rw [State.stoDie, State.modSto_fld, State.stoClose_fld _ _ (.inr rfl)]

theorem State.stoDie_dead (s : State) (p : Nat) : PortDead (s.stoDie p) p := by
  have hport : (s.stoDie p).sto p = { (((s.stoLinkDown p).stoFailAll p).sto p).closed with failed := true } := by
    rw [State.stoDie, State.sto_modSto, if_pos rfl, State.stoClose_sto]
  exact ⟨by rw [hport], by rw [hport]; rfl, by rw [hport]; rfl, (s.stoDie_link p p).trans (s.stoLinkDown_link p)⟩

/-- A dead port stays dead while the other dies. -/
theorem PortDead.stoDie {s : State} {p q : Nat} (h : PortDead s q) (hq : q ≠ p) : PortDead (s.stoDie p) q := by
  have hspared := PortsSpared.stoFailAll (s.stoLinkDown p) p
  have hport : (s.stoDie p).sto q = ((s.stoLinkDown p).stoFailAll p).sto q := by
    rw [State.stoDie, State.sto_modSto, if_neg hq, State.stoClose_eq, State.sto_modSto, if_neg hq]
  refine ⟨?_, ?_, List.eq_nil_of_subset_nil ?_, ?_⟩
  · rw [hport, hspared.failed, State.stoLinkDown_sto]; exact h.failed
  · rw [hport, hspared.qps, State.stoLinkDown_sto]; exact h.qps
  · rw [hport, ← h.cmds, ← s.stoLinkDown_sto p q]; exact hspared.cmds q
  · rw [State.stoDie_link, State.stoLinkDown_other _ hq]; exact h.link

/-! ### The storage ports themselves -/

/-- Settles O41: each event of a port by the lemma that says what it does. -/
theorem storagePorts : Obligations.StoragePorts := by
  refine ⟨?enable, ?link, ?pause, ?arp, ?alive, ?drop, ?failure⟩
  case enable =>
    intro s p v hp
    refine ⟨_, exec_storageEnable_next hp v s, ?_, ?_, fun hen hv => ?_, fun hv => ?_⟩
    · rw [s.writeStoCtl_fld p v (f := .stoCtlEn) rfl, s.stoCtlSet_en]
    · rw [s.writeStoCtl_fld p v (f := .stoCtlAckExp) rfl, s.stoCtlSet_ackExp]
    · rw [s.writeStoCtl_eq, if_pos ⟨hen, (bits_zero_zero v).trans hv⟩, State.stoClose_sto]
      exact ⟨rfl, rfl, rfl⟩
    · rw [s.writeStoCtl_eq, if_neg fun h => by rw [bits_zero_zero, hv] at h; exact absurd h.2 one_ne_zero]
      exact s.stoCtlSet_only p v
  case link =>
    refine fun s p hp => ⟨⟨_, ?_, s.stoLinkDown_link p, State.stoLinkDown_raised⟩, fun hf => ⟨_, exec_storageLinkUp_next hp hf, s.stoLinkUp_link p, s.setFld_only _ _ _ _⟩⟩
    rw [exec_storageLinkDown, execStorageLinkDown, when_pos (decide_eq_true hp)]
  case pause =>
    refine fun s p prio => ⟨fun h pause => exec_priorityFlowControlFrame_other h pause, fun h =>
      ⟨⟨_, exec_priorityFlowControlFrame_pause h, ?_, s.modSto_outbox p _⟩, _, exec_priorityFlowControlFrame_resume h, ?_⟩⟩
    · rw [State.sto_modSto, if_pos rfl]
    · rw [State.foldl_emit_sto, State.foldl_emit_outbox, State.sto_modSto, if_pos rfl, State.modSto_outbox]
      exact ⟨rfl, rfl, rfl⟩
  case arp =>
    refine fun s p hrun hv4 => ⟨⟨_, ?_, rfl⟩, fun a ha => ?_⟩
    · rw [exec_arpNdRequest_ipv4 hv4, when_pos (beq_self_eq_true _), State.stoEmit_of_running hrun]
      rfl
    · rw [exec_arpNdRequest_ipv4 hv4, when_neg (beq_eq_false_iff_ne.2 ha)]
  case alive =>
    refine fun s p target k hk hrun => ⟨_, exec_keepAlive_next hk, ?_⟩
    rw [State.stoEmit_of_running hrun]
    rfl
  case drop =>
    refine fun s p target queue _ => ⟨fun b hk => ⟨_, exec_storagePacketDrop_unknown hk b, s.counted_bump p (by decide), s.bump_only _ _ _ _⟩,
      fun k hk => ⟨_, exec_storagePacketDrop_unsupported hk, ?_, ?_⟩⟩
    · rw [Counted, State.modQp_fld]
      exact s.counted_bump p (by decide)
    · exact State.qp_modQp ((State.qp_congr (s.bump_stos _ _ _ _) p target queue).trans hk) fun _ => ⟨rfl, rfl⟩
  case failure =>
    refine fun s => ⟨_, exec_storagePortHardwareFailure_next s, fun p hp => ?_⟩
    have hdead : PortDead ((s.stoDie 0).stoDie 1) p := by
      obtain rfl | rfl : p = 0 ∨ p = 1 := by omega
      · exact (s.stoDie_dead 0).stoDie (by decide)
      · exact State.stoDie_dead _ 1
    exact ⟨hdead.failed, hdead.qps, hdead.cmds, hdead.link⟩

end Sys2Proof.Machine
end

section
/-! PROOFS. Four-bit elements of a byte string (R53), and the stochastic generator (R78). -/
namespace Sys2Proof.Machine

/-! ### Four-bit elements (R53) -/

theorem fmtBits_of_fourBit {f : Nat} (h : f ∈ [0, 4, 8]) : fmtBits f = 4 := by
  simp only [List.mem_cons, List.not_mem_nil, or_false] at h
  rcases h with rfl | rfl | rfl <;> rfl

/-- A field of one byte; past the end of the string it reads 0. -/
theorem leAt_one (bs : List (BitVec 8)) (o : Nat) : leAt bs o 1 = (bs[o]?.getD 0).toNat := by
  rw [leAt, List.take_one, List.head?_drop]
  cases bs[o]? <;> simp [leNat]

/-- The four-bit element of index `i` of a byte string, as R53 places it; past the end of the string it is 0. -/
def nibbleAt (bs : List (BitVec 8)) (i : Nat) : Nat :=
  if i % 2 = 0 then bits (bs[i / 2]?.getD 0).toNat 3 0 else bits (bs[i / 2]?.getD 0).toNat 7 4

theorem unpackElems_four (bs : List (BitVec 8)) (n : Nat) : unpackElems 4 bs n = (List.range n).map (nibbleAt bs) := by
  refine List.map_congr_left fun i _ => ?_
  rw [if_pos rfl, leAt_one, nibbleAt]
  obtain h | h := Nat.mod_two_eq_zero_or_one i
  · simp [h, bits]
  · simp [h, bits, Nat.shiftRight_eq_div_pow]

@[simp] theorem nibbleAt_cons_zero (b : BitVec 8) (bs : List (BitVec 8)) : nibbleAt (b :: bs) 0 = bits b.toNat 3 0 := rfl

@[simp] theorem nibbleAt_cons_one (b : BitVec 8) (bs : List (BitVec 8)) : nibbleAt (b :: bs) 1 = bits b.toNat 7 4 := rfl

@[simp] theorem nibbleAt_cons_add_two (b : BitVec 8) (bs : List (BitVec 8)) (i : Nat) : nibbleAt (b :: bs) (i + 2) = nibbleAt bs i := by
  rw [nibbleAt, Nat.add_mod_right, Nat.add_div_right i Nat.two_pos, List.getElem?_cons_succ, nibbleAt]

theorem unpackElems_four_singleton (b : BitVec 8) : unpackElems 4 [b] 1 = [bits b.toNat 3 0] := by
  rw [unpackElems_four, List.range_one, List.map_singleton, nibbleAt_cons_zero]

theorem unpackElems_four_cons (b : BitVec 8) (bs : List (BitVec 8)) (n : Nat) :
    unpackElems 4 (b :: bs) (n + 2) = bits b.toNat 3 0 :: bits b.toNat 7 4 :: unpackElems 4 bs n := by
  simp [unpackElems_four, List.range_succ_eq_map, Function.comp_def]

theorem packNibbles_length (cs : List Nat) : (packNibbles cs).length = (cs.length + 1) / 2 := by
  induction cs using packNibbles.induct with
  | case1 => rfl
  | case2 a => simp only [packNibbles, List.length_singleton, Nat.reduceAdd, Nat.reduceDiv]
  | case3 a b r ih =>
    simp only [packNibbles, List.length_cons, ih]
    omega

/-- What is packed is the low four bits of each code, and they are read back. -/
theorem unpackElems_packNibbles (cs : List Nat) : unpackElems 4 (packNibbles cs) cs.length = cs.map (· % 16) := by
  induction cs using packNibbles.induct with
  | case1 => rfl
  | case2 a =>
    have hlow : bits (BitVec.ofNat 8 (a % 16)).toNat 3 0 = a % 16 := by simp [bits]
    simp only [packNibbles, List.length_singleton, unpackElems_four_singleton, hlow, List.map_singleton]
  | case3 a b r ih =>
    have hlow : bits (BitVec.ofNat 8 (a % 16 + 16 * (b % 16))).toNat 3 0 = a % 16 := by simp [bits]
    have hhigh : bits (BitVec.ofNat 8 (a % 16 + 16 * (b % 16))).toNat 7 4 = b % 16 := by
      simp [bits, Nat.shiftRight_eq_div_pow]; omega
    simp only [packNibbles, List.length_cons, unpackElems_four_cons, hlow, hhigh, ih, List.map_cons]

/-- Settles O57: the elements read are the halves of the bytes in order, and packing puts each code there. -/
theorem fourBitPacking : Obligations.FourBitPacking := by
  intro f hf
  rw [fmtBits_of_fourBit hf]
  refine ⟨fun bs n i b hi hb => ?_, fun cs hcs => ?_⟩
  · rw [unpackElems_four, List.getElem?_map, List.getElem?_range hi, Option.map_some, nibbleAt, hb, Option.getD_some]
  · have hsmall : cs.map (· % 16) = cs := (List.map_congr_left fun x hx => Nat.mod_eq_of_lt (hcs x hx)).trans (List.map_id cs)
    exact ⟨packNibbles_length cs, (unpackElems_packNibbles cs).trans hsmall⟩

/-! ### The generator (R78) -/

/-- The generator's step on a natural below 2^32 is the step on 32-bit words. -/
theorem lfsrStep_toNat (x : BitVec 32) :
    lfsrStep x.toNat = (if x.getLsbD 0 then (x >>> 1) ^^^ 0x80200003#32 else x >>> 1).toNat := by
  have hlow : x.getLsbD 0 = decide (x.toNat % 2 = 1) := by rw [BitVec.getLsbD, Nat.testBit_zero]
  rw [lfsrStep, hlow]
  split <;> simp [*, Nat.shiftRight_eq_div_pow]

/-- A step from an odd state sets bit 31, and a step from an even one halves it. -/
theorem lfsrStep_ne_zero {s : Nat} (hs : s < 2 ^ 32) (h0 : s ≠ 0) : lfsrStep s ≠ 0 := by
  rw [lfsrStep]
  split
  case isTrue =>
    have htop : (s / 2).testBit 31 = false := Nat.testBit_lt_two_pow (by omega)
    have hset : (s / 2 ^^^ 0x80200003).testBit 31 = true := by rw [Nat.testBit_xor, htop]; decide
    exact ((Nat.two_pow_pos 31).trans_le (Nat.ge_two_pow_of_testBit hset)).ne'
  case isFalse heven => omega

theorem lfsrSteps_eq_iterate (n s : Nat) : lfsrSteps n s = lfsrStep^[n] s := by
  induction n generalizing s with
  | zero => rfl
  | succ n ih => exact ih (lfsrStep s)

theorem lfsrSteps_add (n k s : Nat) : lfsrSteps (n + k) s = lfsrSteps n (lfsrSteps k s) := by
  simp only [lfsrSteps_eq_iterate, Function.iterate_add_apply]

/-- The set bits of the generator's word are the exponents of its polynomial, each less one. -/
theorem lfsrPoly_getLsbD (i : Nat) : (0x80200003#32).getLsbD i = true ↔ i + 1 ∈ [32, 22, 2, 1] := by
  by_cases hi : i < 32
  · have hbits : ∀ j < 32, (0x80200003#32).getLsbD j = true ↔ j + 1 ∈ [32, 22, 2, 1] := by decide
    exact hbits i hi
  · rw [BitVec.getLsbD_of_ge _ _ (Nat.le_of_not_lt hi)]
    simp only [Bool.false_eq_true, List.mem_cons, List.not_mem_nil, or_false, false_iff]
    omega

/-- Settles O58: the step is that of 32-bit words and never comes to zero from another state, and runs of steps are iterates of it. -/
theorem generatorSteps : Obligations.GeneratorSteps := by
  refine ⟨fun x => ⟨?_, ?_, fun hx => ?_⟩, lfsrPoly_getLsbD, fun s n k _ => lfsrSteps_add n k s, fun _ _ => rfl⟩
  · rw [lfsrStep_toNat, BitVec.ofNat_toNat, BitVec.setWidth_eq]
  · rw [lfsrStep_toNat]
    exact BitVec.isLt _
  · exact lfsrStep_ne_zero x.isLt fun h => hx (BitVec.toNat_eq.2 h)

end Sys2Proof.Machine
end

section
/-! PROOFS. Matrix instructions: what an entry that runs at once leaves of its cay, and how arrays are configured and loaded (R97, R102, R103, R175, R181, R182). -/
namespace Sys2Proof.Machine

/-! ### An array's entry runs at once (R175, R181) -/

/-- A matrix instruction that finds its cay's queues empty runs, and leaves its queue. -/
theorem toArray_runs {s : State} {c : CayRef} {t : Nat} {a : BitVec 2} {op : EngOp} {y : State} (h : Issues s c t) (hv : Vacant s c) (hf : op.isFence = false)
    (hy : runEntry (s.entered c t a.toNat op) c (s.queuedEntry c t op) = (y, true))
    (hq : ∀ x i, i ∈ (y.cay c).queue x → i ∈ ((s.entered c t a.toNat op).cay c).queue x) :
    toArray s c t ((s.cay c).thr t) a op = y.landed c a.toNat (s.cay c).issue :=
  enqueue_runs (Nat.lt_trans a.isLt (by decide)) hv hf h.2 hy fun x i hi => State.entered_queue hv (hq x i hi)

/-- An instruction has moved its thread on and changed nothing else outside its cay, nor a scalar register. -/
structure MovedOn (s u : State) (c : CayRef) (t : Nat) : Prop where
  only : OnlyCay s u c
  regs : ∀ i, ((u.cay c).thr i).regs = ((s.cay c).thr i).regs
  pc : ((u.cay c).thr t).pc = ((s.cay c).thr t).pc + 8

theorem State.entered_regs (s : State) (c : CayRef) (t e i : Nat) (op : EngOp) : (((s.entered c t e op).cay c).thr i).regs = ((s.cay c).thr i).regs := by
  rw [State.entered_thr]
  split
  case isTrue h => rw [h]; rfl
  case isFalse => rfl

theorem State.entered_pc (s : State) (c : CayRef) (t e : Nat) (op : EngOp) : (((s.entered c t e op).cay c).thr t).pc = ((s.cay c).thr t).pc + 8 := by
  rw [State.entered_thr, if_pos rfl]; rfl

theorem State.landed_ex (y : State) (c : CayRef) (e n : Nat) : ∃ cs, y.landed c e n = { y with cays := cs } := ⟨_, y.landed_only c e n⟩

/-- What has left its queue and changed nothing but cays, itself and by what it did before, has changed nothing but cays. -/
theorem landed_setCay_only (s : State) (c : CayRef) (t e n : Nat) (op : EngOp) (z : Cay) :
    ((s.entered c t e op).setCay c z).landed c e n = { s with cays := (((s.entered c t e op).setCay c z).landed c e n).cays } := by
  obtain ⟨cs, h⟩ := ((s.entered c t e op).setCay c z).landed_ex c e n
  rw [h]; rfl

/-- An entry that replaces its cay and none of the cay's threads has moved its thread on. -/
theorem movedOn_landed (s : State) (c : CayRef) (t e n : Nat) (op : EngOp) {z : Cay} (hz : z.threads = ((s.entered c t e op).cay c).threads) :
    MovedOn s (((s.entered c t e op).setCay c z).landed c e n) c t := by
  have hcay : ((s.entered c t e op).setCay c z).cay c = z := by rw [State.cay_setCay, if_pos rfl]
  have hthr : ∀ i, z.thr i = ((s.entered c t e op).cay c).thr i := fun i => by rw [Cay.thr, Cay.thr, hz]
  refine ⟨⟨landed_setCay_only s c t e n op z, fun r hr => ?_⟩, fun i => ?_, ?_⟩
  · rw [State.landed_other _ _ _ _ _ hr, State.cay_setCay, if_neg hr, State.entered_other _ _ _ _ _ _ hr]
  · rw [State.landed_regs, hcay, hthr, State.entered_regs]
  · rw [State.landed_pc, hcay, hthr, State.entered_pc]

theorem landed_setCay_ls (s : State) (c : CayRef) (e n : Nat) (z : Cay) : (((s.setCay c z).landed c e n).cay c).ls = z.ls := by
  rw [State.landed_ls, State.cay_setCay, if_pos rfl]

theorem landed_setCay_arr (s : State) (c : CayRef) (e n m : Nat) (z : Cay) : (((s.setCay c z).landed c e n).cay c).arr m = z.arr m := by
  rw [Cay.arr, State.landed_arrs, State.cay_setCay, if_pos rfl, Cay.arr]

theorem queue_setCay_sub {s : State} {c : CayRef} {z : Cay} (hz : z.queues = (s.cay c).queues) (x : Nat) (i : QEntry) (h : i ∈ ((s.setCay c z).cay c).queue x) :
    i ∈ (s.cay c).queue x := by
  rwa [State.cay_setCay, if_pos rfl, Cay.queue, hz] at h

@[simp] theorem State.entered_arr (s : State) (c : CayRef) (t e m : Nat) (op : EngOp) : ((s.entered c t e op).cay c).arr m = (s.cay c).arr m := by
  rw [State.entered_cay]; rfl

@[simp] theorem State.entered_lsRead (s : State) (c : CayRef) (t e a n : Nat) (op : EngOp) : ((s.entered c t e op).cay c).lsRead a n = (s.cay c).lsRead a n := by
  rw [Cay.lsRead, State.entered_cay_ls, Cay.lsRead]

@[simp] theorem State.entered_lsOperand (s : State) (c : CayRef) (t e isl v n al : Nat) (wr : Bool) (op : EngOp) :
    (s.entered c t e op).lsOperand isl v n al wr = s.lsOperand isl v n al wr := rfl

@[simp] theorem State.entered_task (s : State) (c : CayRef) (t e k : Nat) (op : EngOp) : (s.entered c t e op).task k = s.task k := rfl

/-! ### Arrays changed one by one -/

/-- The arrays of a list each replaced by a function of itself. -/
def Cay.mapArrs (y : Cay) (ms : List Nat) (f : Nat → Arr → Arr) : Cay := ms.foldl (fun x m => x.setArr m (f m (x.arr m))) y

theorem Cay.mapArrs_only (y : Cay) (ms : List Nat) (f : Nat → Arr → Arr) : y.mapArrs ms f = { y with arrs := (y.mapArrs ms f).arrs } := by
  induction ms generalizing y with
  | nil => rfl
  | cons m ms ih => exact ih (y.setArr m (f m (y.arr m)))

theorem Cay.arr_mapArrs {ms : List Nat} (h : ms.Nodup) (y : Cay) (f : Nat → Arr → Arr) (a : Nat) : (y.mapArrs ms f).arr a = if a ∈ ms then f a (y.arr a) else y.arr a := by
  induction ms generalizing y with
  | nil => rfl
  | cons m ms ih =>
    obtain ⟨hm, hms⟩ := List.nodup_cons.1 h
    rw [Cay.mapArrs, List.foldl_cons, ← Cay.mapArrs, ih hms, Cay.arr_setArr]
    by_cases ham : a = m
    · subst ham; simp [hm]
    · simp [ham]

theorem gangOf_nodup (sh a : Nat) : (gangOf sh a).Nodup := by
  unfold gangOf
  split
  · exact List.nodup_singleton a
  · decide

/-! ### MCFG (R102, R103) -/

/-- An array freed of its configuration. -/
def Arr.unconfigured (z : Arr) : Arr := { z with cfg := none }

/-- Array `m` under the configuration of an MCFG that takes effect at cycle `t`. -/
def mcfgArr (f : McfgFields) (t m : Nat) (z : Arr) : Arr :=
  { z with
    cfg := some ⟨f.shape.toNat, if f.shape.toNat = 0 then 0 else m, f.aFmt.toNat, f.bFmt.toNat, rescaleG f.rescale.toNat⟩
    clk := { z.clk with now := max z.clk.now t, wOther := z.clk.wOther + (t - z.clk.now) } }

/-- The arrays that leave their gang when the array named is configured anew. -/
def leftGang (z : Arr) : List Nat := if (z.cfg.map (fun g => decide (g.shape ≠ 0))).getD false then [0, 1, 2, 3] else []

theorem leftGang_nodup (z : Arr) : (leftGang z).Nodup := by
  unfold leftGang; split <;> decide

theorem mem_leftGang {z : Arr} {m : Nat} (hm : m < 4) : m ∈ leftGang z ↔ (z.cfg.map (fun g => decide (g.shape ≠ 0))).getD false = true := by
  unfold leftGang
  split
  case isTrue h => exact ⟨fun _ => h, fun _ => by interval_cases m <;> decide⟩
  case isFalse h => exact ⟨fun hm => absurd hm List.not_mem_nil, fun h' => absurd h' h⟩

/-- What an MCFG that goes through makes of its cay. -/
def mcfgCay (f : McfgFields) (y : Cay) : Cay :=
  (y.mapArrs (leftGang (y.arr f.array.toNat)) (fun _ => Arr.unconfigured)).mapArrs (gangOf f.shape.toNat f.array.toNat)
    (mcfgArr f ((List.range 4).foldl (fun m i => max m (y.arr i).clk.done) (y.arr f.array.toNat).clk.now))

/-- The conditions of R63, R102, R103 and R134 on an MCFG of a task. -/
structure McfgAllowed (f : McfgFields) (s : State) (c : CayRef) (k : Nat) : Prop where
  first : f.shape = 0 ∨ f.array = 0
  rescale : f.rescale ≠ 0
  aFmt : f.aFmt.toNat < 9
  bFmt : f.bFmt.toNat < 9
  pair : pairOk f.aFmt.toNat f.bFmt.toNat = true
  mine : ∀ m ∈ gangOf f.shape.toNat f.array.toNat, s.arrDisabled c m = false ∧ ((s.cay c).arr m).task = some k
  room : 17 * stackWidth f.shape.toNat ≤ (s.task k).slots f.array.toNat

theorem McfgAllowed.entered {f : McfgFields} {s : State} {c : CayRef} {k : Nat} (h : McfgAllowed f s c k) (t e : Nat) (op : EngOp) : McfgAllowed f (s.entered c t e op) c k :=
  ⟨h.first, h.rescale, h.aFmt, h.bFmt, h.pair, fun m hm => by rw [State.entered_arr]; exact h.mine m hm, h.room⟩

theorem BitVec.toNat_eq_zero_iff {w : Nat} {x : BitVec w} : x.toNat = 0 ↔ x = 0 := by
  rw [← BitVec.toNat_inj]; simp

theorem rescaleG_of_ne_zero {r : BitVec 2} (h : r ≠ 0) : rescaleG r.toNat = 16 * 2 ^ r.toNat := if_neg fun h0 => h (BitVec.toNat_eq_zero_iff.1 h0)

theorem runMcfg_eq {s : State} {c : CayRef} {q : QEntry} {f : McfgFields} (h : McfgAllowed f s c q.task) : runMcfg s c q f = s.setCay c (mcfgCay f (s.cay c)) := by
  have hfirst : ¬ (f.shape.toNat ≠ 0 ∧ f.array.toNat ≠ 0) := fun hn => h.first.elim (fun h0 => hn.1 (by rw [h0]; rfl)) (fun h0 => hn.2 (by rw [h0]; rfl))
  have hrescale : ¬ rescaleG f.rescale.toNat = 0 := by rw [rescaleG_of_ne_zero h.rescale]; positivity
  have hmine : (gangOf f.shape.toNat f.array.toNat).any (fun m => s.arrDisabled c m || ((s.cay c).arr m).task != some q.task) = false := by
    rw [List.any_eq_false]
    intro m hm
    obtain ⟨hon, htask⟩ := h.mine m hm
    simp [hon, htask]
  unfold runMcfg
  dsimp only
  rw [if_neg (by simp only [hmine, Bool.false_eq_true, or_false, not_or]; exact ⟨hfirst, hrescale, not_le.2 h.aFmt, not_le.2 h.bFmt⟩),
    if_neg (by rw [h.pair]; decide), if_neg (not_lt.2 h.room)]
  rfl

theorem mcfgCay_only (f : McfgFields) (y : Cay) : mcfgCay f y = { y with arrs := (mcfgCay f y).arrs } := by
  unfold mcfgCay
  rw [Cay.mapArrs_only, Cay.mapArrs_only y]

theorem mcfgCay_threads (f : McfgFields) (y : Cay) : (mcfgCay f y).threads = y.threads := by rw [mcfgCay_only]

theorem mcfgCay_queues (f : McfgFields) (y : Cay) : (mcfgCay f y).queues = y.queues := by rw [mcfgCay_only]

theorem mcfgCay_ls (f : McfgFields) (y : Cay) : (mcfgCay f y).ls = y.ls := by rw [mcfgCay_only]

/-- An array of the gang is configured, and another keeps its configuration unless it leaves its gang. -/
theorem mcfgCay_arr (f : McfgFields) (y : Cay) (m : Nat) :
    ∃ t, (mcfgCay f y).arr m =
      (if m ∈ gangOf f.shape.toNat f.array.toNat then mcfgArr f t m else id) (if m ∈ leftGang (y.arr f.array.toNat) then (y.arr m).unconfigured else y.arr m) := by
  unfold mcfgCay
  refine ⟨(List.range 4).foldl (fun m i => max m (y.arr i).clk.done) (y.arr f.array.toNat).clk.now, ?_⟩
  rw [Cay.arr_mapArrs (gangOf_nodup _ _), Cay.arr_mapArrs (leftGang_nodup _)]
  split <;> rfl

/-- Whatever neither the configuration nor the clock of an array holds, an MCFG leaves. -/
theorem mcfgCay_keeps {β : Type} (p : Arr → β) (hp : ∀ z g k, p { z with cfg := g, clk := k } = p z) (f : McfgFields) (y : Cay) (m : Nat) :
    p ((mcfgCay f y).arr m) = p (y.arr m) := by
  obtain ⟨t, ht⟩ := mcfgCay_arr f y m
  have hleft : p (if m ∈ leftGang (y.arr f.array.toNat) then (y.arr m).unconfigured else y.arr m) = p (y.arr m) := by
    split
    · exact hp _ _ _
    · rfl
  rw [ht]
  split
  · exact (hp _ _ _).trans hleft
  · exact hleft

theorem exec_mcfg_next {s : State} {c : CayRef} {t : Nat} {f : McfgFields} (h : Issues s c t) (hv : Vacant s c) (hr : f.rsv = 0) (hf : McfgAllowed f s c ((s.cay c).thr t).task) :
    exec (.mcfg c f) s = .next (((s.entered c t f.array.toNat (.mcfg f)).setCay c (mcfgCay f ((s.entered c t f.array.toNat (.mcfg f)).cay c))).landed c f.array.toNat (s.cay c).issue) := by
  have hrun : runMcfg (s.entered c t f.array.toNat (.mcfg f)) c (s.queuedEntry c t (.mcfg f)) f = _ := runMcfg_eq (hf.entered t f.array.toNat (.mcfg f))
  rw [show exec (.mcfg c f) s = execMcfg c f s from rfl, execMcfg, show (f.rsv == 0) = true by simp [hr], issue_running h.1 h.2,
    toArray_runs h hv rfl (show runEntry _ c (s.queuedEntry c t (.mcfg f)) = (_, true) from congrArg (·, true) hrun) (queue_setCay_sub (mcfgCay_queues f _))]

/-! ### MLDS (R97, R182) -/

theorem loadTile_bank (g : ArrCfg) (z : Arr) (b : BitVec 1) (bs : List (BitVec 8)) : (loadTile g z b.toNat bs).bank b.toNat = tileBank g bs := by
  unfold loadTile Arr.bank
  split <;> rfl

theorem loadTile_other_bank (g : ArrCfg) (z : Arr) (b : BitVec 1) (bs : List (BitVec 8)) : (loadTile g z b.toNat bs).bank (1 - b.toNat) = z.bank (1 - b.toNat) := by
  have hb := b.isLt
  unfold loadTile Arr.bank
  dsimp only
  split
  case isTrue h => rw [if_neg (by omega), if_neg (by omega)]
  case isFalse h => rw [if_pos (by omega), if_pos (by omega)]

/-- A load fills a bank and takes its time; whatever else an array holds stays. -/
theorem loadTile_keeps {β : Type} (p : Arr → β) (hp : ∀ z x y k, p { z with bank0 := x, bank1 := y, clk := k } = p z) (g : ArrCfg) (z : Arr) (b : Nat) (bs : List (BitVec 8)) :
    p (loadTile g z b bs) = p z := by
  unfold loadTile
  dsimp only
  split <;> exact hp _ _ _ _

/-- What an MLDS that goes through makes of its cay: a tile read from `a` in a bank of its array. -/
def mldsCay (f : MldsFields) (g : ArrCfg) (a : Nat) (y : Cay) : Cay :=
  y.setArr f.array.toNat (loadTile g (y.arr f.array.toNat) f.bank.toNat (y.lsRead a (tileBytes g)))

theorem runMlds_eq {s : State} {c : CayRef} {q : QEntry} {f : MldsFields} {v a : Nat} {g : ArrCfg} (hg : ((s.cay c).arr f.array.toNat).cfg = some g)
    (ha : s.lsOperand c.island v (tileBytes g) 32 false = some a) : runMlds s c q f v = s.setCay c (mldsCay f g a (s.cay c)) := by
  unfold runMlds
  simp only [hg, ha, mldsCay]

theorem exec_mlds_next {s : State} {c : CayRef} {t a : Nat} {f : MldsFields} {g : ArrCfg} (h : Issues s c t) (hs : Settled s c t [f.a]) (hv : Vacant s c) (hr : f.rsv = 0)
    (hg : ((s.cay c).arr f.array.toNat).cfg = some g) (ha : s.lsOperand c.island (((s.cay c).thr t).reg f.a).toNat (tileBytes g) 32 false = some a) :
    ∃ y : State, y = s.entered c t f.array.toNat (.mlds f (((s.cay c).thr t).reg f.a).toNat) ∧
      exec (.mlds c f) s = .next ((y.setCay c (mldsCay f g a (y.cay c))).landed c f.array.toNat (s.cay c).issue) := by
  refine ⟨_, rfl, ?_⟩
  have hrun := runMlds_eq (s := s.entered c t f.array.toNat (.mlds f (((s.cay c).thr t).reg f.a).toNat)) (c := c) (f := f) (g := g)
    (q := s.queuedEntry c t (.mlds f (((s.cay c).thr t).reg f.a).toNat)) (by rw [State.entered_arr]; exact hg) ha
  rw [show exec (.mlds c f) s = execMlds c f s from rfl, execMlds, show (f.rsv == 0) = true by simp [hr], issueRegs_running h.1 h.2 hs,
    toArray_runs h hv rfl (show runEntry _ c (s.queuedEntry c t (.mlds f (((s.cay c).thr t).reg f.a).toNat)) = (_, true) from congrArg (·, true) hrun) (queue_setCay_sub rfl)]

/-- Settles O17: what a configuration and a load make of their cay's arrays, array by array. -/
theorem arraysConfigured : Obligations.ArraysConfigured := by
  refine ⟨?mcfg, ?mlds⟩
  case mcfg =>
    intro s c t f h hv hr hfirst hrescale ha hb hpair hmine hroom
    have hmoved := movedOn_landed s c t f.array.toNat (s.cay c).issue (.mcfg f) (mcfgCay_threads f _)
    refine ⟨_, exec_mcfg_next h hv hr ⟨hfirst, hrescale, ha, hb, hpair, hmine, hroom⟩, hmoved.only, ?_, hmoved.regs, hmoved.pc, fun m => ?_, fun m hm => ?_, fun m h4 hm => ?_⟩
    · rw [landed_setCay_ls, mcfgCay_ls, State.entered_cay_ls]
    · rw [landed_setCay_arr, mcfgCay_keeps Arr.bank0 fun _ _ _ => rfl, mcfgCay_keeps Arr.bank1 fun _ _ _ => rfl,
        mcfgCay_keeps Arr.marks fun _ _ _ => rfl, mcfgCay_keeps Arr.task fun _ _ _ => rfl, State.entered_arr]
      exact ⟨rfl, rfl, rfl, rfl⟩
    · obtain ⟨n, hn⟩ := mcfgCay_arr f ((s.entered c t f.array.toNat (.mcfg f)).cay c) m
      rw [landed_setCay_arr, hn, if_pos hm, mcfgArr, rescaleG_of_ne_zero hrescale]
      simp only [BitVec.toNat_eq_zero_iff]
    · obtain ⟨n, hn⟩ := mcfgCay_arr f ((s.entered c t f.array.toNat (.mcfg f)).cay c) m
      rw [landed_setCay_arr, hn, if_neg hm, id, State.entered_arr, State.entered_arr]
      simp only [mem_leftGang h4]
      split <;> rfl
  case mlds =>
    intro s c t f g a h hs hv hr hg ha
    obtain ⟨y, hy, hexec⟩ := exec_mlds_next h hs hv hr hg ha
    have harr : ∀ m, (y.cay c).arr m = (s.cay c).arr m := fun m => by rw [hy, State.entered_arr]
    have hls : (y.cay c).ls = (s.cay c).ls := by rw [hy, State.entered_cay_ls]
    have hmoved : MovedOn s ((y.setCay c (mldsCay f g a (y.cay c))).landed c f.array.toNat (s.cay c).issue) c t := by
      rw [hy]
      exact movedOn_landed s c t _ _ _ rfl
    have hloaded : (((y.setCay c (mldsCay f g a (y.cay c))).landed c f.array.toNat (s.cay c).issue).cay c).arr f.array.toNat =
        loadTile g ((s.cay c).arr f.array.toNat) f.bank.toNat ((s.cay c).lsRead a (tileBytes g)) := by
      rw [landed_setCay_arr, mldsCay, Cay.arr_setArr, if_pos rfl, harr, Cay.lsRead, hls, Cay.lsRead]
    refine ⟨_, hexec, hmoved.only, ?_, hmoved.regs, hmoved.pc, fun m hm => ?_, ?_, ?_, ?_, ?_⟩
    · rw [landed_setCay_ls]
      exact hls
    · rw [landed_setCay_arr, mldsCay, Cay.arr_setArr, if_neg hm, harr]
    · rw [hloaded, loadTile_keeps Arr.cfg fun _ _ _ _ => rfl, hg]
    · rw [hloaded, loadTile_keeps Arr.marks fun _ _ _ _ => rfl]
    · rw [hloaded, loadTile_bank]
    · rw [hloaded, loadTile_other_bank]

end Sys2Proof.Machine
end

section
/-! PROOFS. What the work of a matrix array leaves of the state: HBM, the local stores of other cays, and queues that never grow (R85 to R87, R96, R107, R117, R119, R188). -/
namespace Sys2Proof.Machine

/-! ### What work spares -/

/-- HBM, the local stores of the cays of `P`, and queues to which nothing is added. -/
structure Spares (P : CayRef → Prop) (s u : State) : Prop where
  hbm : u.hbm = s.hbm
  ls : ∀ r, P r → (u.cay r).ls = (s.cay r).ls
  queue : ∀ r x i, i ∈ (u.cay r).queue x → i ∈ (s.cay r).queue x

/-- Every cay but one. -/
def Elsewhere (c r : CayRef) : Prop := cayKey r ≠ cayKey c

/-- Every cay. -/
def Anywhere (_ : CayRef) : Prop := True

theorem State.cay_congr {s : State} {r c : CayRef} (h : cayKey r = cayKey c) : s.cay r = s.cay c := by unfold State.cay; rw [h]

namespace Spares

variable {P : CayRef → Prop} {s t u : State}

theorem refl (s : State) : Spares P s s := ⟨rfl, fun _ _ => rfl, fun _ _ _ h => h⟩

theorem trans (h : Spares P s t) (g : Spares P t u) : Spares P s u :=
  ⟨g.hbm.trans h.hbm, fun r hr => (g.ls r hr).trans (h.ls r hr), fun r x i hi => h.queue r x i (g.queue r x i hi)⟩

theorem anywhere (h : Spares Anywhere s t) : Spares P s t := ⟨h.hbm, fun r _ => h.ls r trivial, h.queue⟩

theorem foldl {α : Type} {f : State → α → State} (hf : ∀ t a, Spares P t (f t a)) (l : List α) (s : State) : Spares P s (l.foldl f s) := by
  induction l generalizing s with
  | nil => exact refl s
  | cons a l ih => exact (hf s a).trans (ih _)

theorem ite {c : Prop} [Decidable c] (ht : Spares P s t) (hu : Spares P s u) : Spares P s (if c then t else u) := by split <;> assumption

/-- What changes neither HBM nor cays. -/
theorem of_cays (hh : u.hbm = s.hbm) (hc : u.cays = s.cays) : Spares P s u := by
  have hcay : ∀ r, u.cay r = s.cay r := fun r => by rw [State.cay, State.cay, hc]
  exact ⟨hh, fun r _ => by rw [hcay], fun r x i hi => by rwa [hcay] at hi⟩

theorem to_of_cays {v : State} (h : Spares P s u) (hh : v.hbm = u.hbm) (hc : v.cays = u.cays) : Spares P s v := h.trans (of_cays hh hc)

theorem setFld (h : Spares P s u) (f : Fld) (v i w : Nat) : Spares P s (u.setFld f v i w) := h.to_of_cays rfl rfl

theorem bump (h : Spares P s u) (f : Fld) (i n w : Nat) : Spares P s (u.bump f i n w) := h.to_of_cays rfl rfl

theorem bump64 (h : Spares P s u) (lo hi : Fld) (i n w : Nat) : Spares P s (u.bump64 lo hi i n w) := h.to_of_cays rfl rfl

theorem raise (h : Spares P s u) (cls inst n : Nat) : Spares P s (u.raise cls inst n) := h.to_of_cays (by rw [State.raise_only]) (by rw [State.raise_only])

theorem failTask (h : Spares P s u) (k st d : Nat) : Spares P s (u.failTask k st d) :=
  h.trans ⟨by rw [State.failTask_only], fun r _ => u.failTask_ls k st d r, fun r x i hi => u.failTask_queue k st d x r i hi⟩

/-- A cay replaced by one with no more in its queues. -/
theorem setCay (h : Spares P s u) {c : CayRef} {y : Cay} (hq : y.queues = (u.cay c).queues) (hl : ∀ r, P r → cayKey r = cayKey c → y.ls = (u.cay c).ls) :
    Spares P s (u.setCay c y) := by
  refine h.trans ⟨rfl, fun r hr => ?_, fun r x i hi => ?_⟩
  · rw [State.cay_setCay]
    split
    case isTrue hk => rw [hl r hr hk, State.cay_congr hk]
    case isFalse => rfl
  · rw [State.cay_setCay] at hi
    split at hi
    case isTrue hk => rwa [State.cay_congr hk, Cay.queue, ← hq]
    case isFalse => exact hi

theorem setCay_same_ls (h : Spares P s u) {c : CayRef} {y : Cay} (hq : y.queues = (u.cay c).queues) (hl : y.ls = (u.cay c).ls) : Spares P s (u.setCay c y) :=
  h.setCay hq fun _ _ _ => hl

theorem setCay_elsewhere {c : CayRef} (h : Spares (Elsewhere c) s u) {y : Cay} (hq : y.queues = (u.cay c).queues) : Spares (Elsewhere c) s (u.setCay c y) :=
  h.setCay hq fun _ hr hk => absurd hk hr

/-! #### Reports (R81, R85 to R87) -/

theorem noteInvalid (h : Spares P s u) (k : Nat) (r : CayRef) (a w c row col i : Nat) : Spares P s (u.noteInvalid k r a w c row col i) := by
  obtain ⟨x, y, z, hn⟩ := u.noteInvalid_only k r a w c row col i
  rw [hn]
  exact h.to_of_cays rfl rfl

theorem failOnInvalid (h : Spares P s u) (k : Nat) : Spares P s (u.failOnInvalid k) := ite (h.failTask _ _ _) h

theorem noteSat (h : Spares P s u) (k i n : Nat) : Spares P s (u.noteSat k i n) := h.to_of_cays (by rw [State.noteSat_only]) (by rw [State.noteSat_only])

theorem arrStop (h : Spares P s u) (q : QEntry) (st d : Nat) : Spares P s (arrStop u q st d) := h.failTask _ _ _

theorem arrInvalid (h : Spares P s u) (r : CayRef) (a k c row col i : Nat) : Spares P s (arrInvalid u r a k c row col i) := by
  unfold Machine.arrInvalid
  extract_lets y w j z s1 s2
  have hs1 : Spares P s s1 := h.setCay_same_ls rfl rfl
  have hs2 : Spares P s s2 := (((hs1.setFld _ _ _ _).setFld _ _ _ _).setFld _ _ _ _).setFld _ _ _ _
  exact ite h ((hs2.noteInvalid _ _ _ _ _ _ _ _).failOnInvalid _)

end Spares

/-! ### Lanes in the local store -/

theorem Cay.putLanes_only (y : Cay) (base sl : Nat) (vs : List Nat) (skip : List Bool) :
    y.putLanes base sl vs skip = { y with ls := (y.putLanes base sl vs skip).ls } := by
  have hfold : ∀ (l : List (Nat × Nat)) (x : Cay), ∃ m, l.foldl (fun x p =>
      if skip.getD p.2 false then x else x.lsWrite (base + 64 * sl + 4 * p.2) (leBytes 4 p.1)) x = { x with ls := m } := by
    intro l
    induction l with
    | nil => exact fun x => ⟨x.ls, rfl⟩
    | cons p l ih =>
      intro x
      rw [List.foldl_cons]
      split
      · exact ih x
      · obtain ⟨m, hm⟩ := ih (x.lsWrite (base + 64 * sl + 4 * p.2) (leBytes 4 p.1))
        exact ⟨m, hm⟩
  obtain ⟨m, hm⟩ := hfold vs.zipIdx y
  rw [Cay.putLanes, hm]

theorem Cay.putLanes_queues (y : Cay) (base sl : Nat) (vs : List Nat) (skip : List Bool) : (y.putLanes base sl vs skip).queues = y.queues := by rw [Cay.putLanes_only]

theorem Cay.putLanes_threads (y : Cay) (base sl : Nat) (vs : List Nat) (skip : List Bool) : (y.putLanes base sl vs skip).threads = y.threads := by rw [Cay.putLanes_only]

@[simp] theorem Cay.setArr_queues (y : Cay) (a : Nat) (x : Arr) : (y.setArr a x).queues = y.queues := rfl

@[simp] theorem Cay.setArr_threads (y : Cay) (a : Nat) (x : Arr) : (y.setArr a x).threads = y.threads := rfl

/-! ### The combine stack (R96) and the shadow region (R117, R119) -/

theorem spares_mergeTop (r : CayRef) (a task base slots w fuel : Nat) (s : State) : Spares (Elsewhere r) s (mergeTop r a task base slots w fuel s) := by
  induction fuel generalizing s with
  | zero => exact Spares.refl s
  | succ fuel ih =>
    unfold mergeTop
    extract_lets c st
    split
    case h_2 => exact Spares.refl s
    case h_1 y x below _ =>
      refine Spares.ite (Spares.refl s) ?_
      extract_lets n nl sx sy xs ys t c1 z s1 s2
      have hs1 : Spares (Elsewhere r) s s1 := (Spares.refl s).setCay_elsewhere (by rw [Cay.setArr_queues, Cay.putLanes_queues])
      have hs2 : Spares (Elsewhere r) s s2 := by
        show Spares (Elsewhere r) s (match t.2.2 with | [] => s1 | l :: _ => Machine.arrInvalid s1 r a task 3 0 l y.start)
        cases t.2.2 with
        | nil => exact hs1
        | cons l _ => exact hs1.arrInvalid _ _ _ _ _ _ _
      exact hs2.trans (ih s2)

theorem spares_pushBlock (s : State) (r : CayRef) (a task base slots w : Nat) (vals marks : List Nat) (start : Nat) :
    Spares (Elsewhere r) s (pushBlock s r a task base slots w vals marks start) := by
  unfold pushBlock
  extract_lets c n sl c1 z s1
  have hs1 : Spares (Elsewhere r) s s1 := (Spares.refl s).setCay_elsewhere (by rw [Cay.setArr_queues, Cay.putLanes_queues])
  exact hs1.trans (spares_mergeTop _ _ _ _ _ _ _ _)

theorem spares_shadowSelect (s : State) (r : CayRef) (a task : Nat) (g : ArrCfg) (gslot : Nat) (vals : List Nat) : Spares Anywhere s (shadowSelect s r a task g gslot vals) := by
  unfold shadowSelect
  extract_lets k n s1 c buf s2
  have hs1 : Spares Anywhere s s1 := Spares.of_cays rfl rfl
  have hs2 : Spares Anywhere s s2 := hs1.setCay_same_ls rfl rfl
  exact Spares.ite (Spares.refl s) (Spares.ite hs2 (Spares.ite (hs2.bump _ _ _ _) (hs2.setCay_same_ls rfl rfl)))

/-! ### One issue (R95, R107, R112) -/

/-- What an issue that took place counts: the stalls before it, and the cells of each member of the gang that were active and gated (R108, R112, R159). -/
def countIssue (s : State) (i : Nat) (u : Nat → Nat) (a wait gap : Nat) (k : ArrClock) (gang : List Nat) (pairs : List (Nat × Bool)) : State :=
  let s2 := if k.last.isNone then s
    else (((s.bump .arrStallOperand i (k.wOperand + wait) (u a)).bump .arrStallCopy i k.wCopy (u a)).bump .arrStallStarve i (k.wStarve + gap) (u a)).bump
      .arrStallOther i k.wOther (u a)
  gang.foldl (fun y m =>
    let cells := pairs.filter (fun e => e.1 == m)
    let gt := (cells.filter (·.2)).length
    (y.bump64 .arrGatedLo .arrGatedHi i gt (u m)).bump64 .arrActiveLo .arrActiveHi i (cells.length - gt) (u m)) s2

theorem spares_countIssue (s : State) (i : Nat) (u : Nat → Nat) (a wait gap : Nat) (k : ArrClock) (gang : List Nat) (pairs : List (Nat × Bool)) :
    Spares Anywhere s (countIssue s i u a wait gap k gang pairs) := by
  have hself : Spares Anywhere s s := Spares.refl s
  refine Spares.trans (Spares.ite hself ?_) (Spares.foldl (fun t m => ((Spares.refl t).bump64 _ _ _ _ _).bump64 _ _ _ _ _) _ _)
  exact (((hself.bump _ _ _ _).bump _ _ _ _).bump _ _ _ _).bump _ _ _ _

/-- An offending cell, where there is one, is reported. -/
def reportCell (s : State) (r : CayRef) (a task : Nat) (bad : Option (Nat × Nat × Nat × Nat)) : State :=
  match bad with
  | some y => arrInvalid s r a task y.2.2.1 y.1 y.2.1 y.2.2.2
  | none => s

theorem spares_reportCell (s : State) (r : CayRef) (a task : Nat) (bad : Option (Nat × Nat × Nat × Nat)) : Spares Anywhere s (reportCell s r a task bad) := by
  cases bad with
  | none => exact Spares.refl s
  | some y => exact (Spares.refl s).arrInvalid _ _ _ _ _ _ _

/-- A cay whose arrays and shadow buffers alone differ from another's. -/
def SameStore (y z : Cay) : Prop := ∃ l b, z = { y with arrs := l, shadowBufs := b }

theorem SameStore.refl (y : Cay) : SameStore y y := ⟨y.arrs, y.shadowBufs, rfl⟩

theorem SameStore.ls {y z : Cay} (h : SameStore y z) : z.ls = y.ls := by obtain ⟨l, b, rfl⟩ := h; rfl

theorem SameStore.queues {y z : Cay} (h : SameStore y z) : z.queues = y.queues := by obtain ⟨l, b, rfl⟩ := h; rfl

theorem SameStore.setArr {y z : Cay} (h : SameStore y z) (a : Nat) (x : Arr) : SameStore y (z.setArr a x) := by
  obtain ⟨l, b, rfl⟩ := h
  exact ⟨_, b, rfl⟩

theorem SameStore.foldl_setArr {y z : Cay} (h : SameStore y z) (f : Cay → Nat → Arr) (ms : List Nat) : SameStore y (ms.foldl (fun x m => x.setArr m (f x m)) z) := by
  induction ms generalizing z with
  | nil => exact h
  | cons m ms ih => exact ih (h.setArr _ _)

theorem SameStore.ite {y z : Cay} (h : SameStore y z) (c : Prop) [Decidable c] (b : Tbl (List ShadowIssue)) : SameStore y (if c then z else { z with shadowBufs := b }) := by
  obtain ⟨l, d, rfl⟩ := h
  split
  · exact ⟨l, d, rfl⟩
  · exact ⟨l, b, rfl⟩

theorem spares_doIssue (s : State) (r : CayRef) (q : QEntry) (a gap : Nat) (g : ArrCfg) (p : IssueP) : Spares (Elsewhere r) s (doIssue s r q a gap g p) := by
  have hself : Spares (Elsewhere r) s s := Spares.refl s
  unfold doIssue
  extract_lets x c z dbl wide depth lanes lines sw base slots top bytes buf masked gang k t0 loadEnd t rdy hazard i u scs lane grp uns mism
  refine Spares.ite (hself.arrStop _ _ _) (Spares.ite (hself.arrStop _ _ _) (Spares.ite (hself.bump _ _ _ _) (Spares.ite (hself.arrStop _ _ _) ?_)))
  split
  case h_1 => exact hself.arrStop _ _ _
  case h_2 ad _ =>
    clear_value hazard
    split
    case h_1 sl => exact (((hself.setFld _ _ _ _).setFld _ _ _ _).raise _ _ _).arrStop _ _ _
    case h_2 =>
      refine Spares.ite (((hself.setFld _ _ _ _).raise _ _ _).arrStop _ _ _) ?_
      extract_lets codes xs outs gvals gm bres bvals bm bbad bad c1 c2 z1 z2 z3 c3 c4 c5 s1 s2 s3 s4
      have hlanes : c2.queues = c.queues := by
        show (if p.endg then c1.putLanes base p.bslot bvals _ else c1).queues = c.queues
        split
        · exact (Cay.putLanes_queues _ _ _ _ _).trans (Cay.putLanes_queues _ _ _ _ _)
        · exact Cay.putLanes_queues _ _ _ _ _
      have hc4 : SameStore c2 c4 := SameStore.foldl_setArr ((SameStore.refl c2).setArr a z3) _ gang
      have hstore : SameStore c2 c5 := hc4.ite _ _
      have hs1 : Spares (Elsewhere r) s s1 := hself.setCay_elsewhere (hstore.queues.trans hlanes)
      have hs3 : Spares Anywhere s1 s3 := spares_countIssue s1 i (arrUnit r) a (t - t0) gap k gang _
      have hs4 : Spares (Elsewhere r) s s4 := (hs1.trans hs3.anywhere).trans (spares_reportCell s3 r a q.task bad).anywhere
      exact Spares.ite ((hs4.trans (spares_pushBlock _ _ _ _ _ _ _ _ _ _)).trans (spares_shadowSelect _ _ _ _ _ _ _).anywhere) hs4

end Sys2Proof.Machine
end

section
/-! PROOFS. The first issue of a scale group, and sequences of issues (R95, R98, R107, R187, R188). -/
namespace Sys2Proof.Machine

/-! ### The first issue of a scale group (R95, R107) -/

theorem scaleDiffers_self (x : Nat) : scaleDiffers x x = false := by simp [scaleDiffers]

theorem any_zip_self {α : Type} {f : α × α → Bool} (h : ∀ x, f (x, x) = false) (l : List α) : (List.zip l l).any f = false := by
  rw [List.any_eq_false]
  intro p hp
  obtain ⟨i, hi, rfl⟩ := List.mem_iff_getElem.1 hp
  simp [h]

theorem Cay.putLanes_unmasked (y : Cay) (base sl : Nat) (vs : List Nat) {skip : List Bool} (h : ∀ j, skip.getD j false = false) :
    y.putLanes base sl vs skip = y.putLanes base sl vs [] := by
  unfold Cay.putLanes
  simp only [h, List.getD_nil]
  rfl

/-- Lines of an issue of one array: 16, or 32 at the double rate (R95). -/
def oneArrayLines (g : ArrCfg) : Nat := if doubleRate g.aFmt g.bFmt then 32 else 16

/-- The sums of the 16 lanes of one array for the first issue of a group, whose streaming operand is at `ad` (R95). -/
def firstLanes (y : Cay) (g : ArrCfg) (a : Nat) (p : IssueP) (ad : Nat) : List Nat :=
  (List.range 16).map (fun j => (issueLane y g a p
    ((unpackElems (fmtBits g.aFmt) (y.lsRead ad (oneArrayLines g * fmtBits g.aFmt / 8)) (oneArrayLines g)).map (fun e => streamVal g.aFmt e p.scale p.zp p.zr))
    ((y.laneScales 0 a p.bank p.axis j).headD 0) j ⟨0, false⟩).res.code)

/-- The conditions under which the first issue of a scale group, on an array of its own and not the last of its group, takes place in a task with no mask. -/
structure FirstIssue (s : State) (r : CayRef) (k : Nat) (a : Nat) (g : ArrCfg) (p : IssueP) (ad : Nat) : Prop where
  alone : g.shape = 0
  firstg : p.firstg = true
  endg : p.endg = false
  unmasked : (s.task k).mask = none
  room : oneArrayLines g ≤ g.g
  slot : p.gslot + 18 ≤ (s.task k).slots a
  operand : s.lsOperand r.island p.addr (oneArrayLines g * fmtBits g.aFmt / 8) (max 1 (oneArrayLines g * fmtBits g.aFmt / 8)) false = some ad

theorem FirstIssue.entered {s : State} {r : CayRef} {k a ad : Nat} {g : ArrCfg} {p : IssueP} (h : FirstIssue s r k a g p ad) (t e : Nat) (op : EngOp) :
    FirstIssue (s.entered r t e op) r k a g p ad := by
  obtain ⟨halone, hfirst, hendg, hmask, hroom, hslot, hop⟩ := h
  exact ⟨halone, hfirst, hendg, hmask, hroom, hslot, hop⟩

theorem axisDepth_zero (ax : Nat) : axisDepth 0 ax = 16 := by unfold axisDepth; split <;> rfl

theorem axisLanes_zero (ax : Nat) : axisLanes 0 ax = 16 := by unfold axisLanes; split <;> rfl

/-- A line of one array has one stationary scale code for each lane. -/
theorem laneScales_zero_agree (y : Cay) (a bank ax : Nat) (js : List Nat) :
    ((js.map fun j => y.laneScales 0 a bank ax j).any fun l => l.any fun x => scaleDiffers x (l.headD 0)) = false := by
  rw [List.any_eq_false]
  intro l hl
  obtain ⟨j, -, rfl⟩ := List.mem_map.1 hl
  rw [Cay.laneScales, axisDepth_zero]
  simp [scaleDiffers_self]

/-- The first issue writes the sums of its lanes to the group slot; beside them it changes the array's books and what it reports. -/
theorem doIssue_first {s : State} {r : CayRef} {q : QEntry} {a ad : Nat} {g : ArrCfg} {p : IssueP} (gap : Nat) (h : FirstIssue s r q.task a g p ad) :
    ∃ y : Cay, y.queues = (s.cay r).queues ∧ y.ls = ((s.cay r).putLanes ((s.task q.task).region a).1 p.gslot (firstLanes (s.cay r) g a p ad) []).ls ∧
      Spares Anywhere (s.setCay r y) (doIssue s r q a gap g p) := by
  unfold doIssue
  extract_lets x c z dbl wide depth lanes lines sw base slots top bytes buf masked gang k t0 loadEnd t rdy hazard i u scs lane grp uns mism skip
  have hdepth : depth = 16 := by show axisDepth g.shape p.axis = 16; rw [h.alone, axisDepth_zero]
  have hlanes : lanes = 16 := by show axisLanes g.shape p.axis = 16; rw [h.alone, axisLanes_zero]
  have hlines : lines = oneArrayLines g := by show (if dbl then 2 * depth else depth) = _; rw [hdepth]; rfl
  have hsw : sw = 1 := by show lanes / 16 = 1; rw [hlanes]
  have htop : p.gslot + 1 ≤ top := by
    show p.gslot + 1 ≤ slots - 17 * stackWidth g.shape
    have hslot : p.gslot + 18 ≤ slots := h.slot
    rw [h.alone]
    show p.gslot + 1 ≤ slots - 17
    omega
  have hoperand : s.lsOperand r.island p.addr bytes (max 1 bytes) false = some ad := by
    have hbytes : bytes = oneArrayLines g * fmtBits g.aFmt / 8 := by show lines * fmtBits g.aFmt / 8 = _; rw [hlines]
    rw [hbytes]; exact h.operand
  have hunmasked : x.mask.isSome = false := by show (s.task q.task).mask.isSome = false; rw [h.unmasked]; rfl
  have hhazard : hazard = none := by
    show (if !p.firstg && !rdy p.gslot then some p.gslot else if p.endg && !p.firstb && !rdy p.bslot then some p.bslot else none) = none
    simp only [h.firstg, h.endg, Bool.not_true, Bool.false_and, Bool.false_eq_true, if_false]
  have hgrp : grp = ⟨p.scale, p.zp, p.zr, lane, p.w⟩ := if_pos h.firstg
  have hmism : mism = false := by
    show ((scs.any fun l => l.any fun y => scaleDiffers y (l.headD 0)) || scaleDiffers p.scale grp.scale || ((lane.zip grp.lanes).any fun y => scaleDiffers y.1 y.2) ||
      uns && (p.zp != grp.zp || p.zr != grp.zr)) = false
    have hscs : (scs.any fun l => l.any fun y => scaleDiffers y (l.headD 0)) = false := by
      show (List.map (fun j => c.laneScales g.shape a p.bank p.axis j) (List.range lanes)).any _ = false
      rw [h.alone, laneScales_zero_agree]
    rw [hscs, hgrp, scaleDiffers_self, any_zip_self (fun x => scaleDiffers_self x)]
    simp
  have hskip : ∀ j, skip.getD j false = false := by
    intro j
    show (List.map (fun j => x.mask.isSome && !p.msk && masked (p.w + j)) (List.range lanes)).getD j false = false
    simp [hunmasked]
  rw [if_neg (by rw [hlines]; exact not_lt.2 h.room), if_neg (by rw [hsw, h.endg]; simp [Nat.mod_one]; omega), if_neg (by simp [hunmasked]), if_neg (by simp [hunmasked])]
  split
  case h_1 hnone => rw [hoperand] at hnone; exact absurd hnone (by simp)
  case h_2 ad' hsome =>
  rw [hoperand, Option.some.injEq] at hsome
  subst hsome
  clear_value hazard
  subst hhazard
  split
  case h_1 sl hsl => exact absurd hsl (by simp)
  case h_2 =>
  rw [if_neg (by rw [hmism]; decide)]
  extract_lets codes xs outs gvals gm bres bvals bm bbad bad c1 c2 z1 z2 z3 c3 c4 c5 s1 s2 s3 s4
  have hc2 : c2 = c1 := if_neg (by rw [h.endg]; decide)
  have hstore : SameStore c2 c5 := (SameStore.foldl_setArr ((SameStore.refl c2).setArr a z3) _ gang).ite _ _
  have hgvals : gvals = firstLanes c g a p ad := by
    have hxs : xs = (unpackElems (fmtBits g.aFmt) (c.lsRead ad (oneArrayLines g * fmtBits g.aFmt / 8)) (oneArrayLines g)).map (fun e => streamVal g.aFmt e p.scale p.zp p.zr) := by
      show (unpackElems (fmtBits g.aFmt) (c.lsRead ad (lines * fmtBits g.aFmt / 8)) lines).map _ = _
      rw [hlines]
    show (List.map _ (List.range lanes)).map (fun o : LaneOut => o.res.code) = _
    rw [hlanes, List.map_map, firstLanes, ← hxs]
    refine List.map_congr_left fun j hj => ?_
    have hlane : lane.getD j 0 = (c.laneScales 0 a p.bank p.axis j).headD 0 := by
      show (List.map (fun l : List Nat => l.headD 0) (List.map (fun j => c.laneScales g.shape a p.bank p.axis j) (List.range lanes))).getD j 0 = _
      rw [hlanes, h.alone, List.map_map, List.getD_eq_getElem?_getD, List.getElem?_map, List.getElem?_range (List.mem_range.1 hj)]
      rfl
    simp only [Function.comp_apply, hskip, h.firstg, hlane, if_true, Bool.false_eq_true, if_false]
  refine ⟨c5, ?_, ?_, ?_⟩
  · rw [hstore.queues, hc2]
    exact Cay.putLanes_queues _ _ _ _ _
  · rw [hstore.ls, hc2]
    show (c.putLanes base p.gslot gvals skip).ls = _
    rw [Cay.putLanes_unmasked _ _ _ _ hskip, hgvals]
  · rw [if_neg (by simp [h.endg])]
    exact (spares_countIssue s1 i (arrUnit r) a (t - t0) gap k gang _).trans (spares_reportCell s3 r a q.task bad)

/-! ### MISS -/

/-- The array named is held by the entry's task, configured, and array 0 where its gang is configured. -/
structure HoldsArray (s : State) (r : CayRef) (k a : Nat) (g : ArrCfg) : Prop where
  mine : ((s.cay r).arr a).task = some k
  cfg : ((s.cay r).arr a).cfg = some g
  first : g.shape = 0 ∨ a = 0

theorem HoldsArray.ready {s : State} {r : CayRef} {q : QEntry} {a : Nat} {g : ArrCfg} (h : HoldsArray s r q.task a g) : arrReady s r q a = some g := by
  unfold arrReady
  dsimp only
  rw [if_neg (not_not.2 h.mine), h.cfg]
  dsimp only
  rw [if_neg fun hn => h.first.elim hn.1 hn.2]

theorem HoldsArray.entered {s : State} {r : CayRef} {k a : Nat} {g : ArrCfg} (h : HoldsArray s r k a g) (t e : Nat) (op : EngOp) : HoldsArray (s.entered r t e op) r k a g := by
  obtain ⟨hmine, hcfg, hfirst⟩ := h
  exact ⟨by rwa [State.entered_arr], by rwa [State.entered_arr], hfirst⟩

/-- The parameters of the issue that an MISS makes with an operand of value `v`. -/
def missParams (f : MissFields) (v : Nat) : IssueP :=
  ⟨f.bank.toNat, f.axis.toNat, f.firstg == 1, f.endg == 1, f.firstb == 1, f.endb == 1, f.msk == 1, f.gslot.toNat, f.bslot.toNat, v, bits v 31 24, bits v 55 48, bit v 56,
    bits v 47 32⟩

theorem runMiss_eq {s : State} {r : CayRef} {q : QEntry} {f : MissFields} {g : ArrCfg} (v gap : Nat) (h : HoldsArray s r q.task f.array.toNat g)
    (hz : g.aFmt ≠ 8 ∨ bits v 55 52 = 0) : runMiss s r q f v gap = doIssue s r q f.array.toNat gap g (missParams f v) := by
  unfold runMiss
  dsimp only
  rw [h.ready]
  dsimp only
  rw [if_neg fun hn => hz.elim (fun h8 => h8 hn.1) hn.2]
  rfl

/-! ### MSEQ (R187, R188) -/

theorem spares_seqLoad (s : State) (r : CayRef) (q : QEntry) (a : Nat) (g : ArrCfg) (addr b : Nat) : Spares Anywhere s (seqLoad s r q a g addr b) := by
  refine Spares.foldl (fun t m => ?_) _ s
  dsimp only
  refine Spares.ite (Spares.refl t) ?_
  split
  · exact (Spares.refl t).arrStop _ _ _
  · exact (Spares.refl t).setCay_same_ls rfl rfl

theorem spares_seqIssue (s : State) (r : CayRef) (q : QEntry) (a : Nat) (g : ArrCfg) (d : SeqDesc) (w o i : Nat) : Spares (Elsewhere r) s (seqIssue s r q a g d w o i) := by
  unfold seqIssue
  exact Spares.ite (Spares.refl s) (Spares.ite ((Spares.refl s).arrStop _ _ _) (spares_doIssue _ _ _ _ _ _ _))

theorem spares_seqOuter (r : CayRef) (q : QEntry) (a : Nat) (g : ArrCfg) (d : SeqDesc) (w : Nat) (s : State) (o : Nat) : Spares (Elsewhere r) s (seqOuter r q a g d w s o) :=
  Spares.trans (Spares.ite (spares_seqLoad _ _ _ _ _ _ _).anywhere (Spares.refl s)) (Spares.foldl (fun t i => spares_seqIssue t _ _ _ _ _ _ _ i) _ _)

/-- The state a sequence leaves: the first load, then the outer iterations in their order. -/
def sequence (s : State) (r : CayRef) (q : QEntry) (a : Nat) (g : ArrCfg) (d : SeqDesc) (w : Nat) : State :=
  (List.range d.nOuter).foldl (seqOuter r q a g d w) (seqLoad s r q a g d.tileBase d.bank0)

theorem spares_sequence (s : State) (r : CayRef) (q : QEntry) (a : Nat) (g : ArrCfg) (d : SeqDesc) (w : Nat) : Spares (Elsewhere r) s (sequence s r q a g d w) :=
  (spares_seqLoad _ _ _ _ _ _ _).anywhere.trans (Spares.foldl (spares_seqOuter _ _ _ _ _ _) _ _)

theorem runMseq_eq {s : State} {r : CayRef} {q : QEntry} {f : MseqFields} {g : ArrCfg} {d : SeqDesc} {v a : Nat} (w : Nat) (h : HoldsArray s r q.task f.array.toNat g)
    (ha : s.lsOperand r.island v 32 32 false = some a) (hd : seqDesc ((s.cay r).lsRead a 32) = (d, true)) (hu : fmtUnsigned g.aFmt = true → d.scaleBase % 4 = 0)
    (hg : axisDepth g.shape d.axis * (if doubleRate g.aFmt g.bFmt then 2 else 1) ≤ g.g) : runMseq s r q f v w = sequence s r q f.array.toNat g d w := by
  unfold runMseq
  dsimp only
  rw [h.ready]
  dsimp only
  rw [ha]
  dsimp only
  rw [hd, if_neg]
  · rfl
  · simp only [Bool.not_true, Bool.false_eq_true, false_or, not_or]
    exact ⟨fun hn => hn.2 (hu hn.1), not_lt.2 hg⟩

end Sys2Proof.Machine
end

section
/-! PROOFS. Merges and drains (R75, R96, R190), and what matrix instructions leave in the local store. -/
namespace Sys2Proof.Machine

/-! ### MFIN of one stacked block (R96) -/

/-- The lanes of the one block stacked are copied to the slot, and the stack is empty. -/
theorem runMfin_one {s : State} {r : CayRef} {q : QEntry} {f : MfinFields} {g : ArrCfg} {e : StackEnt} (h : HoldsArray s r q.task f.array.toNat g)
    (hst : ((s.cay r).arr f.array.toNat).stack = [e]) (hal : f.slot.toNat % (e.lanes / 16) = 0)
    (hroom : f.slot.toNat + e.lanes / 16 ≤ (s.task q.task).slots f.array.toNat - 17 * stackWidth g.shape) :
    ∃ z : Arr, z.stack = [] ∧ runMfin s r q f = s.setCay r (((s.cay r).putLanes ((s.task q.task).region f.array.toNat).1 f.slot.toNat
      ((s.cay r).slotsAt ((s.task q.task).region f.array.toNat).1 ((s.task q.task).slots f.array.toNat - 17 * stackWidth g.shape) (e.lanes / 16)) []).setArr f.array.toNat z) := by
  have htop : ∀ n w, stackSlot n w 0 = n - 17 * w := fun n w => by simp [stackSlot]
  unfold runMfin
  dsimp only
  rw [h.ready]
  dsimp only
  rw [hst, show [e].zipIdx.reverse = [(e, 0)] from rfl]
  dsimp only
  rw [if_neg (not_or.2 ⟨not_not.2 hal, not_lt.2 hroom⟩), htop]
  exact ⟨_, rfl, rfl⟩

/-! ### MDRN without scaling or statistics (R75, R190) -/

/-- The codes a drain without scaling leaves: each accumulator converted, and the code that stands where its lane is masked. -/
def drainCodes (s : State) (x : Task) (b : Nat) (k : ConvBlock) (accs marks old : List Nat) (n : Nat) : List Nat :=
  (List.range n).map (fun i => if 2 ≤ marks.getD i 0 then old.getD i 0
    else (encodeElem k.fmt (if k.grad then .sr (elementDraw (s.fld .numcSeed x.ctx) x.step k.tag k.n (b + i)) else .rne) (drainValue k (accs.getD i 0)).1).code)

theorem Cay.slotsAt_length (y : Cay) (base sl n : Nat) : (y.slotsAt base sl n).length = 16 * n := by
  simp [Cay.slotsAt, Cay.slot, List.length_flatMap, Nat.mul_comm]

/-- The conditions under which a drain without scaling or statistics takes place. -/
structure PlainDrain (s : State) (r : CayRef) (n : Nat) (f : MdrnFields) (d a : Nat) (g : ArrCfg) (k : ConvBlock) (ca da : Nat) : Prop where
  room : f.slot.toNat + (f.countM1.toNat + 1) ≤ (s.task n).slots f.array.toNat - 17 * stackWidth g.shape
  block : s.lsOperand r.island a 32 32 false = some ca
  conv : convBlock ((s.cay r).lsRead ca 32) = (k, 0)
  plain : k.blk = 0
  quiet : k.stats = false
  dest : s.lsOperand r.island d (16 * (f.countM1.toNat + 1) * fmtBits k.fmt / 8) (max 1 (fmtBits k.fmt / 8)) true = some da

theorem PlainDrain.entered {s : State} {r : CayRef} {n d a ca da : Nat} {f : MdrnFields} {g : ArrCfg} {k : ConvBlock} (h : PlainDrain s r n f d a g k ca da) (t e : Nat) (op : EngOp) :
    PlainDrain (s.entered r t e op) r n f d a g k ca da := by
  obtain ⟨hroom, hblock, hconv, hplain, hquiet, hdest⟩ := h
  exact ⟨hroom, hblock, by rwa [State.entered_lsRead], hplain, hquiet, hdest⟩

/-- What the drain writes at its destination. -/
def drained (s : State) (r : CayRef) (n : Nat) (f : MdrnFields) (b : Nat) (k : ConvBlock) (da : Nat) : List (BitVec 8) :=
  packElems (fmtBits k.fmt) (drainCodes s (s.task n) b k ((s.cay r).slotsAt ((s.task n).region f.array.toNat).1 f.slot.toNat (f.countM1.toNat + 1))
    (((s.cay r).arr f.array.toNat).marksAt f.slot.toNat (16 * (f.countM1.toNat + 1)))
    (unpackElems (fmtBits k.fmt) ((s.cay r).lsRead da (16 * (f.countM1.toNat + 1) * fmtBits k.fmt / 8)) (16 * (f.countM1.toNat + 1))) (16 * (f.countM1.toNat + 1)))

theorem drainConvert_plain {k : ConvBlock} (h : k.blk = 0) (mode : Nat → RMode) (p : Nat) (vs : List Val) :
    drainConvert k mode p vs = (vs.zipIdx.map (fun e => (encodeElem k.fmt (mode (p + e.2)) e.1, none)), []) := if_pos h

theorem getD_map_two_le (o : Option Nat) : (o.map fun e => decide (2 ≤ e)).getD false = decide (2 ≤ o.getD 0) := by cases o <;> rfl

/-- The codes of a drain, element by element. -/
theorem drainConvert_codes {s : State} {x : Task} {b n : Nat} {k : ConvBlock} {accs marks old : List Nat} (hk : k.blk = 0) (hn : accs.length = n) :
    (drainConvert k (fun p => if k.grad then .sr (elementDraw (s.fld .numcSeed x.ctx) x.step k.tag k.n p) else .rne) b ((accs.map (drainValue k)).map (·.1))).1.zipIdx.map
      (fun e => if (marks.map (fun e => decide (2 ≤ e))).getD e.2 false then old.getD e.2 0 else e.1.1.code) = drainCodes s x b k accs marks old n := by
  rw [drainConvert_plain hk]
  refine List.ext_getElem (by simp [drainCodes, hn]) fun i hi hi' => ?_
  have hia : i < accs.length := by simpa using hi
  simp [drainCodes, hia, getD_map_two_le]

theorem runMdrn_plain {s : State} {r : CayRef} {q : QEntry} {f : MdrnFields} {d a ca da : Nat} {g : ArrCfg} {k : ConvBlock} (b : Nat)
    (h : HoldsArray s r q.task f.array.toNat g) (hp : PlainDrain s r q.task f d a g k ca da) :
    ∃ y : Cay, y.queues = (s.cay r).queues ∧ y.ls = ((s.cay r).lsWrite da (drained s r q.task f b k da)).ls ∧ Spares Anywhere (s.setCay r y) (runMdrn s r q f d a b) := by
  unfold runMdrn
  extract_lets m x c z cnt sl p1 base accs marks seed drop
  rw [h.ready]
  dsimp -zeta only
  rw [if_neg (not_lt.2 hp.room), hp.block]
  dsimp -zeta only
  rw [hp.conv]
  extract_lets cb k' run part bytes scAddr ys mode cv sats bad chanOn
  have hpart : ¬ part := fun hn => hn.1 hp.plain
  rw [if_neg (not_not.2 rfl), if_neg hpart, show s.lsOperand r.island d bytes (max 1 (fmtBits k'.fmt / 8)) true = some da from hp.dest]
  dsimp -zeta only
  rw [if_neg fun hn => hn.1 hp.plain, if_neg fun hn => Bool.false_ne_true (hp.quiet.symm.trans hn.1)]
  extract_lets old codes c1 c2 z0 zt z1 t clk z2 s1 s2
  have hcodes : codes = drainCodes s x b k accs marks old (16 * cnt) := drainConvert_codes hp.plain (Cay.slotsAt_length _ _ _ _)
  have hc2 : c2 = c1 := by
    show cv.2.foldl _ c1 = c1
    rw [show cv = _ from drainConvert_plain hp.plain _ _ _]
    rfl
  refine ⟨c2.setArr m z2, ?_, ?_, ?_⟩
  · rw [Cay.setArr_queues, hc2]
    rfl
  · show c2.ls = _
    rw [hc2]
    show (c.lsWrite da (packElems (fmtBits k.fmt) codes)).ls = _
    rw [hcodes]
    rfl
  · have hs2 : Spares Anywhere (s.setCay r (c2.setArr m z2)) s2 := ((Spares.refl _).bump _ _ _ _).noteSat _ _ _
    clear_value bad
    cases bad with
    | nil => exact hs2
    | cons e l => exact hs2.arrInvalid _ _ _ _ _ _ _

/-! ### A cay's store as an entry that has just entered finds it -/

@[simp] theorem State.entered_slotsAt (s : State) (c : CayRef) (t e base sl n : Nat) (op : EngOp) :
    ((s.entered c t e op).cay c).slotsAt base sl n = (s.cay c).slotsAt base sl n := by
  simp only [Cay.slotsAt, Cay.slot, Cay.lsWord, State.entered_lsRead]

theorem Cay.putLanes_ls_congr {y z : Cay} (h : y.ls = z.ls) (base sl : Nat) (vs : List Nat) (skip : List Bool) :
    (y.putLanes base sl vs skip).ls = (z.putLanes base sl vs skip).ls := by
  unfold Cay.putLanes
  generalize vs.zipIdx = l
  induction l generalizing y z with
  | nil => exact h
  | cons p l ih =>
    refine ih ?_
    dsimp only
    split
    · exact h
    · exact congrArg (fun m => Memory.writeN m _ _) h

@[simp] theorem State.entered_putLanes_ls (s : State) (c : CayRef) (t e base sl : Nat) (vs : List Nat) (skip : List Bool) (op : EngOp) :
    (((s.entered c t e op).cay c).putLanes base sl vs skip).ls = ((s.cay c).putLanes base sl vs skip).ls :=
  Cay.putLanes_ls_congr (State.entered_cay_ls _ _ _ _ _ _) _ _ _ _

@[simp] theorem State.entered_firstLanes (s : State) (c : CayRef) (t e a ad : Nat) (g : ArrCfg) (p : IssueP) (op : EngOp) :
    firstLanes ((s.entered c t e op).cay c) g a p ad = firstLanes (s.cay c) g a p ad := by
  simp only [firstLanes, issueLane, Cay.cellCode, Cay.laneScales, State.entered_arr, State.entered_lsRead]

@[simp] theorem State.entered_drained (s : State) (c : CayRef) (t e n b da : Nat) (f : MdrnFields) (k : ConvBlock) (op : EngOp) :
    drained (s.entered c t e op) c n f b k da = drained s c n f b k da := by
  simp only [drained, State.entered_arr, State.entered_lsRead, State.entered_slotsAt, State.entered_task]
  rfl

/-! ### What an instruction that runs at once leaves -/

/-- Of HBM and the local stores an instruction has changed those of one cay, to `m`. -/
structure Wrote (s u : State) (c : CayRef) (m : Memory) : Prop where
  hbm : u.hbm = s.hbm
  other : ∀ r, cayKey r ≠ cayKey c → (u.cay r).ls = (s.cay r).ls
  ls : (u.cay c).ls = m

theorem State.landed_hbm (y : State) (c : CayRef) (e n : Nat) : (y.landed c e n).hbm = y.hbm := by rw [State.landed_only]

theorem State.landed_ls_any (y : State) (c r : CayRef) (e n : Nat) : ((y.landed c e n).cay r).ls = (y.cay r).ls := by
  by_cases h : cayKey r = cayKey c
  · rw [State.cay_congr h, State.landed_ls, State.cay_congr h]
  · rw [State.landed_other _ _ _ _ _ h]

/-- A matrix instruction whose entry replaces its cay by `y`, and reports, has written the local store of `y`. -/
theorem toArray_wrote {s : State} {c : CayRef} {t : Nat} {a : BitVec 2} {op : EngOp} {w : State} {y : Cay} (h : Issues s c t) (hv : Vacant s c) (hf : op.isFence = false)
    (hrun : runEntry (s.entered c t a.toNat op) c (s.queuedEntry c t op) = (w, true)) (hy : y.queues = ((s.entered c t a.toNat op).cay c).queues)
    (hw : Spares Anywhere ((s.entered c t a.toNat op).setCay c y) w) : Wrote s (toArray s c t ((s.cay c).thr t) a op) c y.ls := by
  have hset : Spares (Elsewhere c) (s.entered c t a.toNat op) w := ((Spares.refl _).setCay_elsewhere hy).trans hw.anywhere
  rw [toArray_runs h hv hf hrun (hset.queue c)]
  refine ⟨?_, fun r hr => ?_, ?_⟩
  · rw [State.landed_hbm, hset.hbm]; rfl
  · rw [State.landed_ls_any, hset.ls r hr, State.entered_cay_ls]
  · rw [State.landed_ls, hw.ls c trivial, State.cay_setCay, if_pos rfl]

section Instructions
variable {s : State} {c : CayRef} {t : Nat} (h : Issues s c t) (hv : Vacant s c)
include h hv

theorem exec_miss_wrote {f : MissFields} {g : ArrCfg} {v ad : Nat} (gap : Nat) (hs : Settled s c t [f.a]) (hr : f.rsv = 0) (hva : (((s.cay c).thr t).reg f.a).toNat = v)
    (hb : f.endb = 0) (hz : g.aFmt ≠ 8 ∨ bits v 55 52 = 0) (hg : HoldsArray s c ((s.cay c).thr t).task f.array.toNat g)
    (hi : FirstIssue s c ((s.cay c).thr t).task f.array.toNat g (missParams f v) ad) :
    ∃ u, exec (.miss c f gap) s = .next u ∧ Wrote s u c ((s.cay c).putLanes ((s.task ((s.cay c).thr t).task).region f.array.toNat).1 f.gslot.toNat
      (firstLanes (s.cay c) g f.array.toNat (missParams f v) ad) []).ls := by
  have hexec : exec (.miss c f gap) s = .next (toArray s c t ((s.cay c).thr t) f.array (.miss f v gap)) := by
    rw [show exec (.miss c f gap) s = execMiss c f gap s from rfl, execMiss, show (f.rsv == 0) = true by simp [hr], issueRegs_running h.1 h.2 hs, if_neg (by simp [hb]), hva]
  obtain ⟨y, hyq, hyl, hy⟩ := doIssue_first (q := s.queuedEntry c t (.miss f v gap)) gap (hi.entered t f.array.toNat (.miss f v gap))
  have hrun : runEntry (s.entered c t f.array.toNat (.miss f v gap)) c (s.queuedEntry c t (.miss f v gap)) = (_, true) :=
    congrArg (·, true) (runMiss_eq v gap (hg.entered t f.array.toNat (.miss f v gap)) hz)
  have hwrote := toArray_wrote h hv rfl hrun hyq hy
  rw [hyl, State.entered_putLanes_ls, State.entered_firstLanes] at hwrote
  exact ⟨_, hexec, hwrote⟩

theorem exec_mseq_next {f : MseqFields} {g : ArrCfg} {d : SeqDesc} {v w a : Nat} (hs : Settled s c t [f.a, f.b]) (hr : f.rsv = 0) (hva : (((s.cay c).thr t).reg f.a).toNat = v)
    (hwb : (((s.cay c).thr t).reg f.b).toNat = w) (hg : HoldsArray s c ((s.cay c).thr t).task f.array.toNat g) (ha : s.lsOperand c.island v 32 32 false = some a)
    (hd : seqDesc ((s.cay c).lsRead a 32) = (d, true)) (hu : fmtUnsigned g.aFmt = true → d.scaleBase % 4 = 0)
    (hn : axisDepth g.shape d.axis * (if doubleRate g.aFmt g.bFmt then 2 else 1) ≤ g.g) :
    exec (.mseq c f) s = .next ((sequence (s.entered c t f.array.toNat (.mseq f v w)) c (s.queuedEntry c t (.mseq f v w)) f.array.toNat g d w).landed c f.array.toNat
      (s.cay c).issue) := by
  have hrun : runEntry (s.entered c t f.array.toNat (.mseq f v w)) c (s.queuedEntry c t (.mseq f v w)) = (_, true) :=
    congrArg (·, true) (runMseq_eq w (hg.entered t f.array.toNat (.mseq f v w)) ha (by rw [State.entered_lsRead]; exact hd) hu hn)
  rw [show exec (.mseq c f) s = execMseq c f s from rfl, execMseq, show (f.rsv == 0) = true by simp [hr], issueRegs_running h.1 h.2 hs, hva, hwb,
    toArray_runs h hv rfl hrun ((spares_sequence _ _ _ _ _ _ _).queue c)]

theorem exec_mfin_merged {f : MfinFields} {g : ArrCfg} {e : StackEnt} {x : Task} (hr : f.rsv = 0) (hx : s.task ((s.cay c).thr t).task = x)
    (hg : HoldsArray s c ((s.cay c).thr t).task f.array.toNat g) (hst : ((s.cay c).arr f.array.toNat).stack = [e]) (hal : f.slot.toNat % (e.lanes / 16) = 0)
    (hroom : f.slot.toNat + e.lanes / 16 ≤ x.slots f.array.toNat - 17 * stackWidth g.shape) :
    ∃ u, exec (.mfin c f) s = .next u ∧ MovedOn s u c t ∧ ((u.cay c).arr f.array.toNat).stack = [] ∧
      (u.cay c).ls = ((s.cay c).putLanes (x.region f.array.toNat).1 f.slot.toNat
        ((s.cay c).slotsAt (x.region f.array.toNat).1 (x.slots f.array.toNat - 17 * stackWidth g.shape) (e.lanes / 16)) []).ls := by
  subst hx
  obtain ⟨z, hz, hfin⟩ := runMfin_one (q := s.queuedEntry c t (.mfin f)) (hg.entered t f.array.toNat (.mfin f)) (by rw [State.entered_arr]; exact hst) hal hroom
  rw [State.entered_slotsAt] at hfin
  have hrun : runEntry (s.entered c t f.array.toNat (.mfin f)) c (s.queuedEntry c t (.mfin f)) = (_, true) := congrArg (·, true) hfin
  have hexec : exec (.mfin c f) s = .next (toArray s c t ((s.cay c).thr t) f.array (.mfin f)) := by
    rw [show exec (.mfin c f) s = execMfin c f s from rfl, execMfin, show (f.rsv == 0) = true by simp [hr], issue_running h.1 h.2]
  rw [toArray_runs h hv rfl hrun (queue_setCay_sub (by rw [Cay.setArr_queues, Cay.putLanes_queues]))] at hexec
  refine ⟨_, hexec, movedOn_landed s c t f.array.toNat (s.cay c).issue (.mfin f) ?_, ?_, ?_⟩
  · rw [Cay.setArr_threads, Cay.putLanes_threads]
  · rw [landed_setCay_arr, Cay.arr_setArr, if_pos rfl, hz]
  · rw [landed_setCay_ls]
    exact State.entered_putLanes_ls _ _ _ _ _ _ _ _ _

theorem exec_mdrn_wrote {f : MdrnFields} {g : ArrCfg} {k : ConvBlock} {b ca da : Nat} (hs : Settled s c t [f.d, f.a, f.b]) (hr : f.rsv = 0)
    (hb : (((s.cay c).thr t).reg f.b).toNat = b) (hg : HoldsArray s c ((s.cay c).thr t).task f.array.toNat g)
    (hp : PlainDrain s c ((s.cay c).thr t).task f (((s.cay c).thr t).reg f.d).toNat (((s.cay c).thr t).reg f.a).toNat g k ca da) :
    ∃ u, exec (.mdrn c f) s = .next u ∧ Wrote s u c ((s.cay c).lsWrite da (drained s c ((s.cay c).thr t).task f b k da)).ls := by
  let op : EngOp := .mdrn f (((s.cay c).thr t).reg f.d).toNat (((s.cay c).thr t).reg f.a).toNat b
  have hexec : exec (.mdrn c f) s = .next (toArray s c t ((s.cay c).thr t) f.array op) := by
    rw [show exec (.mdrn c f) s = execMdrn c f s from rfl, execMdrn, show (f.rsv == 0) = true by simp [hr], issueRegs_running h.1 h.2 hs, hb]
  obtain ⟨y, hyq, hyl, hy⟩ := runMdrn_plain (q := s.queuedEntry c t op) b (hg.entered t f.array.toNat op) (hp.entered t f.array.toNat op)
  have hrun : runEntry (s.entered c t f.array.toNat op) c (s.queuedEntry c t op) = (_, true) := rfl
  have hwrote := toArray_wrote h hv rfl hrun hyq hy
  have hls : y.ls = ((s.cay c).lsWrite da (drained s c ((s.cay c).thr t).task f b k da)).ls := by
    rw [hyl, State.entered_drained, Cay.lsWrite, State.entered_cay_ls]
    rfl
  exact ⟨_, hexec, hls ▸ hwrote⟩

end Instructions

/-- Settles O18: each instruction by the lemma that says what its entry writes. -/
theorem matrixResults : Obligations.MatrixResults := by
  refine ⟨?miss, ?mseq, ?mfin, ?mdrn⟩
  case miss =>
    intro s c t f gap g a x v h hs hv hr hx hva hmine hcfg hone hz hfirst hend hendb hmask hroom hslot n bytes hn hbytes ha p hp
    subst hx hva hn hbytes
    have hparams : missParams f (((s.cay c).thr t).reg f.a).toNat = p := by
      rw [hp, missParams, hfirst, hend, hendb]
      rfl
    have hissue : FirstIssue s c ((s.cay c).thr t).task f.array.toNat g (missParams f (((s.cay c).thr t).reg f.a).toNat) a :=
      ⟨hone, by rw [missParams, hfirst]; rfl, by rw [missParams, hend]; rfl, hmask, hroom, hslot, ha⟩
    obtain ⟨u, hexec, hhbm, hother, hls⟩ := exec_miss_wrote h hv gap hs hr rfl hendb hz ⟨hmine, hcfg, .inl hone⟩ hissue
    refine ⟨u, hexec, hhbm, hother, ?_⟩
    rw [hls, hparams]
    rfl
  case mseq =>
    intro s c t f g a d y q h hs hv hr hmine hcfg hfirst ha hd hu hn hy hq
    subst hy hq
    refine ⟨_, exec_mseq_next h hv hs hr rfl rfl ⟨hmine, hcfg, ?_⟩ ha hd hu hn, ?_, fun r => State.landed_ls_any _ _ _ _ _⟩
    · exact hfirst.imp_right BitVec.toNat_eq_zero_iff.2
    · rw [State.landed_hbm, (spares_sequence _ _ _ _ _ _ _).hbm]
      rfl
  case mfin =>
    intro s c t f g e x w h hv hr hx hmine hcfg hfirst hst hw hal hroom
    subst hx hw
    obtain ⟨u, hexec, hmoved, hstack, hls⟩ := exec_mfin_merged h hv hr rfl ⟨hmine, hcfg, hfirst.imp_right BitVec.toNat_eq_zero_iff.2⟩ hst hal hroom
    exact ⟨u, hexec, hmoved.only, hstack, hmoved.regs, hmoved.pc, hls⟩
  case mdrn =>
    intro s c t f g x ca da b n bytes base k h hs hv hr hx hb hmine hcfg hfirst hn hroom hca hk hplain hquiet hbytes hda hbase
    subst hx hb hn hbytes hbase
    obtain ⟨u, hexec, hhbm, hother, hls⟩ := exec_mdrn_wrote h hv hs hr rfl ⟨hmine, hcfg, hfirst.imp_right BitVec.toNat_eq_zero_iff.2⟩ ⟨hroom, hca, hk, hplain, hquiet, hda⟩
    exact ⟨u, hexec, hhbm, hother, hls⟩

end Sys2Proof.Machine
end

section
/-! PROOFS. An island's power page (class 0x15): reads of its fields across writes of others, and what the loss of an island's work leaves of it (R234, R260, R378, R389, R451, R511, R514). -/
namespace Sys2Proof.Machine

/-! ### Fields of the module's pages -/

/-- Two fields are in different registers, or in different bits of one. -/
def Fld.apart (f g : Fld) : Bool :=
  f.sound && decide (f.cls < 64) && decide (f.off < 2 ^ 12) && decide (g.cls < 64) && decide (g.off < 2 ^ 12) &&
    (f.cls != g.cls || f.off != g.off || decide (g.hi < f.lo) || decide (f.hi < g.lo))

theorem State.fld_setFld_apart (s : State) {f g : Fld} (h : f.apart g = true) (v : Nat) {i j : Nat} (hi : i < 24) (hj : j < 24) : (s.setFld f v i).fld g j = s.fld g j := by
  simp only [Fld.apart, Bool.and_eq_true, Bool.or_eq_true, bne_iff_ne, decide_eq_true_eq] at h
  obtain ⟨⟨⟨⟨⟨hs, hfc⟩, hfo⟩, hgc⟩, hgo⟩, hapart⟩ := h
  refine s.fld_setFld_ne f g v i 0 j 0 hs ?_
  have hne : f.cls ≠ g.cls ∨ f.off ≠ g.off → g.key j 0 ≠ f.key i 0 := fun hd hk => by
    obtain ⟨hc, -, ho, -⟩ := rkey_inj hgc (by omega) hgo hfc (by omega) hfo hk
    exact hd.elim (fun h => h hc.symm) fun h => h ho.symm
  obtain (hd | hlo) | hhi := hapart
  · exact .inl (hne hd)
  · exact .inr (.inl hlo)
  · exact .inr (.inr hhi)

theorem State.fld_bump_apart (s : State) {f g : Fld} (h : f.apart g = true) {i j : Nat} (hi : i < 24) (hj : j < 24) : (s.bump f i).fld g j = s.fld g j :=
  s.fld_setFld_apart h _ hi hj

/-- A field takes a value that fits it. -/
theorem State.fld_setFld_of_lt (s : State) {f : Fld} {v : Nat} (i : Nat) (h : f.sound = true) (hv : v < 2 ^ (f.hi + 1 - f.lo)) : (s.setFld f v i).fld f i = v := by
  rw [s.fld_setFld_same f v i 0 h, Nat.mod_eq_of_lt hv]

/-- An offset in a page whose register no event changes, nor a reset of monitor selections (R493, R506, R538). -/
abbrev Lasting (off : Nat) : Prop := off < 2 ^ 12 ∧ off ≠ 0x010 ∧ off ≠ 0x078 ∧ off ≠ 0x07C ∧ off ≠ monSel

/-! ### What keeps the power pages -/

/-- The power state and the lasting registers of every island's power page are as they were. -/
structure KeepsPower (s u : State) : Prop where
  pw : u.pw = s.pw
  reg : ∀ i off, i < 24 → Lasting off → u.reg (rkey 0x15 i off 0) = s.reg (rkey 0x15 i off 0)

namespace KeepsPower

variable {s t u : State}

theorem refl (s : State) : KeepsPower s s := ⟨rfl, fun _ _ _ _ => rfl⟩

theorem trans (h : KeepsPower s t) (g : KeepsPower t u) : KeepsPower s u :=
  ⟨g.pw.trans h.pw, fun i off hi ho => (g.reg i off hi ho).trans (h.reg i off hi ho)⟩

theorem of_regs (hp : u.pw = s.pw) (hr : u.regs = s.regs) : KeepsPower s u := ⟨hp, fun _ _ _ _ => by rw [State.reg, State.reg, hr]⟩

theorem ite {c : Prop} [Decidable c] (ht : KeepsPower s t) (hu : KeepsPower s u) : KeepsPower s (if c then t else u) := by split <;> assumption

theorem foldl {α : Type} {f : State → α → State} (l : List α) (hf : ∀ t, ∀ a ∈ l, KeepsPower t (f t a)) (s : State) : KeepsPower s (l.foldl f s) :=
  List.foldlRecOn l f (refl s) fun t ht a ha => ht.trans (hf t a ha)

/-- Registers of other classes may change. -/
theorem setReg (s : State) {cls j off : Nat} (n : Nat) (w : W32) (hc : cls < 64 ∧ cls ≠ 0x15) (ho : off < 2 ^ 12) (hj : j < 24) : KeepsPower s (s.setReg (rkey cls j off n) w) := by
  refine ⟨rfl, fun i o hi hl => ?_⟩
  rw [State.reg_setReg, if_neg]
  intro hk
  obtain ⟨heq, -⟩ := rkey_inj (by omega) (by omega) hl.1 hc.1 (by omega) ho hk
  exact hc.2 heq.symm

theorem setFld (s : State) (f : Fld) (v : Nat) {j : Nat} (hj : j < 24) (hf : (f.cls < 64 ∧ f.cls ≠ 0x15) ∧ f.off < 2 ^ 12) : KeepsPower s (s.setFld f v j) :=
  setReg s 0 _ hf.1 hf.2 hj

theorem raise (s : State) (cls inst n : Nat) : KeepsPower s (s.raise cls inst n) := by
  refine ⟨by rw [State.raise_only], fun i off _ ho => ?_⟩
  obtain ⟨hlt, hcause, hvec, hdrop, -⟩ := ho
  have hoff := rkey_mod 0x15 i off 0 hlt
  exact s.reg_raise_ne cls inst n _ (by rwa [hoff]) (by rwa [hoff]) (by rwa [hoff])

/-- A field of an island's power page reads what it did. -/
theorem fld (h : KeepsPower s u) {f : Fld} {i : Nat} (hi : i < 24) (hf : f.cls = 0x15 ∧ Lasting f.off) : u.fld f i = s.fld f i := by
  rw [State.fld, State.fld, Fld.key, hf.1, h.reg i f.off hi hf.2]

theorem ipw (h : KeepsPower s u) (i : Nat) : u.ipw i = s.ipw i := by rw [State.ipw, State.ipw, h.pw]

/-! ### Work taken off an island (R234, R260) -/

theorem setCay (s : State) (c : CayRef) (y : Cay) : KeepsPower s (s.setCay c y) := of_regs rfl rfl

theorem setIc (s : State) (i : Nat) (c : ICache) : KeepsPower s (s.setIc i c) := of_regs rfl rfl

theorem setTask (s : State) (k : Nat) (x : Task) : KeepsPower s (s.setTask k x) := of_regs rfl rfl

theorem dropTaskRec (s : State) (k : Nat) : KeepsPower s (s.dropTaskRec k) := of_regs rfl rfl

theorem modEntry (s : State) (c q n : Nat) (f : Entry → Entry) : KeepsPower s (s.modEntry c q n f) := of_regs rfl rfl

theorem modSrv (s : State) (c : Nat) (f : SrvCtx → SrvCtx) : KeepsPower s (s.modSrv c f) := of_regs rfl rfl

theorem shadowDrop (s : State) {i : Nat} (k : Nat) (hi : i < 24) : KeepsPower s (s.shadowDrop i k) := (setIc s i _).trans (setFld _ .icSpecLinesLines _ hi (by decide))

theorem requeueTask (s : State) (k : Nat) : KeepsPower s (s.requeueTask k) := by
  unfold State.requeueTask
  extract_lets x s1 s2 s3
  have h1 : KeepsPower s s1 := foldl _ (fun t _ _ => setCay t _ _) s
  have h2 : KeepsPower s1 s2 := foldl _ (fun t _ hi => shadowDrop t k (List.mem_range.1 hi)) s1
  have h3 : KeepsPower s s3 := (h1.trans h2).trans (setTask s2 k _)
  clear_value s3
  split
  · exact h3.trans (modEntry s3 _ _ _ _)
  · exact h3

theorem removeTask (s : State) (k : Nat) : KeepsPower s (s.removeTask k) := by
  unfold State.removeTask
  extract_lets x s1 s2
  have h1 : KeepsPower s s1 := foldl _ (fun t _ _ => setCay t _ _) s
  have h2 : KeepsPower s1 s2 := foldl _ (fun t _ hi => shadowDrop t k (List.mem_range.1 hi)) s1
  exact (h1.trans h2).trans (setTask s2 k _)

theorem restartStep (s : State) (c : Nat) : KeepsPower s (s.restartStep c) := by
  unfold State.restartStep
  split
  case h_1 => exact refl s
  case h_2 r _ =>
    extract_lets s1
    have h1 : KeepsPower s s1 := by
      unfold s1
      split
      case h_1 k _ => exact (removeTask s k).trans (dropTaskRec _ k)
      case h_2 => exact refl s
    exact h1.trans (modSrv s1 c _)

theorem interrupt (s : State) (k : Nat) : KeepsPower s (s.interrupt k) := by
  unfold State.interrupt
  split
  · exact restartStep s _
  · exact requeueTask s k

theorem failTurn (s : State) (p : Turn → Bool) : KeepsPower s (s.failTurn p) := by
  unfold State.failTurn
  split
  · exact refl s
  · exact ite (of_regs rfl rfl) (refl s)

end KeepsPower

/-! ### What keeps HBM, records and cays as well -/

/-- HBM, the records and the cays are as they were, and so are the power pages. -/
structure KeepsStore (s u : State) : Prop extends KeepsPower s u where
  hbm : u.hbm = s.hbm
  entries : u.entries = s.entries
  cays : u.cays = s.cays

namespace KeepsStore

variable {s t u : State}

theorem refl (s : State) : KeepsStore s s := ⟨.refl s, rfl, rfl, rfl⟩

theorem trans (h : KeepsStore s t) (g : KeepsStore t u) : KeepsStore s u :=
  ⟨h.toKeepsPower.trans g.toKeepsPower, g.hbm.trans h.hbm, g.entries.trans h.entries, g.cays.trans h.cays⟩

theorem foldl {α : Type} {f : State → α → State} (l : List α) (hf : ∀ t, ∀ a ∈ l, KeepsStore t (f t a)) (s : State) : KeepsStore s (l.foldl f s) :=
  List.foldlRecOn l f (refl s) fun t ht a ha => ht.trans (hf t a ha)

theorem setReg (s : State) {cls j off : Nat} (n : Nat) (w : W32) (hc : cls < 64 ∧ cls ≠ 0x15) (ho : off < 2 ^ 12) (hj : j < 24) : KeepsStore s (s.setReg (rkey cls j off n) w) :=
  ⟨.setReg s n w hc ho hj, rfl, rfl, rfl⟩

theorem setFld (s : State) (f : Fld) (v : Nat) {j : Nat} (hj : j < 24) (hf : (f.cls < 64 ∧ f.cls ≠ 0x15) ∧ f.off < 2 ^ 12) : KeepsStore s (s.setFld f v j) :=
  setReg s 0 _ hf.1 hf.2 hj

theorem raise (s : State) (cls inst n : Nat) : KeepsStore s (s.raise cls inst n) :=
  ⟨.raise s cls inst n, by rw [State.raise_only], by rw [State.raise_only], by rw [State.raise_only]⟩

theorem modStr (s : State) (i : Nat) (f : Strait → Strait) : KeepsStore s (s.modStr i f) := ⟨.of_regs rfl rfl, rfl, rfl, rfl⟩

theorem modEng (s : State) (i : Nat) (f : Engine → Engine) : KeepsStore s (s.modEng i f) := ⟨.of_regs rfl rfl, rfl, rfl, rfl⟩

theorem requeue (s : State) (i : Nat) : KeepsStore s (s.requeue i) := by
  unfold State.requeue
  extract_lets x ms s1
  exact (modStr s i _).trans (foldl ms (fun t _ _ => modEng t _ _) s1)

theorem leaveUp (s : State) {i : Nat} (st : Nat) (hi : i < 24) : KeepsStore s (s.leaveUp i st) := by
  unfold State.leaveUp
  extract_lets s1
  have h1 : KeepsStore s s1 :=
    ((setFld s .strStatState st hi (by decide)).trans (setFld _ .strPeerValid 0 hi (by decide))).trans (setFld _ .strLanesTxActive 0 hi (by decide))
  exact ((h1.trans (modStr s1 i _)).trans (requeue _ i)).trans (raise _ 0x16 i 1)

theorem dropStrait (s : State) {i : Nat} (st : Nat) (hi : i < 24) : KeepsStore s (s.dropStrait i st) := by
  unfold State.dropStrait
  extract_lets s1
  have h1 : KeepsStore s s1 := by
    unfold s1
    split
    · exact leaveUp s st hi
    · exact setFld s .strStatState st hi (by decide)
  exact h1.trans ⟨.of_regs rfl rfl, rfl, rfl, rfl⟩

theorem freezeCay (s : State) {k : Nat} (hk : k / 320 < 24) : KeepsStore s (s.freezeCay k) := by
  unfold State.freezeCay
  extract_lets r put s1
  have hput : ∀ t {cls off : Nat} unit f, cls < 64 ∧ cls ≠ 0x15 → off < 2 ^ 12 → KeepsStore t (put t cls off unit f) := fun t _ _ unit _ hc ho => setReg t unit _ hc ho hk
  have h1 : KeepsStore s s1 := foldl _ (fun t o ho => hput t _ _ (by decide) (by fin_cases ho <;> decide)) s
  exact h1.trans (foldl _ (fun t a _ => foldl _ (fun t o ho => hput t _ _ (by decide) (by fin_cases ho <;> decide)) t) s1)

theorem freeze (s : State) {i : Nat} (hi : i < 24) : KeepsStore s (s.freeze i) := by
  refine foldl _ (fun t k hk => freezeCay t (lt_of_eq_of_lt ?_ hi)) s
  split at hk
  · obtain ⟨c, hc, rfl⟩ := List.mem_map.1 hk
    have := List.mem_range.1 hc
    omega
  · obtain ⟨c, hc, rfl⟩ := List.mem_map.1 hk
    exact beq_iff_eq.1 (List.mem_filter.1 hc).2

end KeepsStore

/-! ### An island emptied (R395, R451, R514) -/

theorem keyCls_rkey {c i o : Nat} (hc : c < 64) (hi : i < 256) (ho : o < 2 ^ 12) : keyCls (rkey c i o 0) = c := by
  unfold keyCls rkey
  omega

theorem keyOff_rkey {c i o : Nat} (ho : o < 2 ^ 12) : keyOff (rkey c i o 0) = o := rkey_mod c i o 0 ho

theorem State.reg_keepRegs (s : State) (p : Nat → Bool) (k : Nat) : (s.keepRegs p).reg k = if p k then s.reg k else resetWord k := Tbl.get_keep _ _ _ _

/-- The state with an island's SRAMs and queues empty, and of the registers those a predicate keeps. -/
def State.emptied (s : State) (i : Nat) (p : Nat → Bool) : State :=
  (((s.wipeIsland i).clearMons (islandMons i)).clearVts (fun p => p == i || p == 24 + i || p == 48 + i)).keepRegs p

theorem State.reg_emptied (s : State) (i : Nat) (p : Nat → Bool) {k : Nat} (hk : p k = true) : (s.emptied i p).reg k = s.reg k := by
  rw [State.emptied, State.reg_keepRegs, if_pos hk]
  rfl

theorem State.emptied_cay (s : State) (i : Nat) (p : Nat → Bool) (r : CayRef) : (s.emptied i p).cay r = if cayKey r / 320 = i then cayDef 0 else s.cay r := by
  have hcay : (s.emptied i p).cay r = if (cayKey r / 320 != i) = true then s.cay r else cayDef (cayKey r) := Tbl.get_keep cayDef s.cays (fun k => k / 320 != i) (cayKey r)
  rw [hcay]
  by_cases h : cayKey r / 320 = i
  · rw [if_pos h, h, if_neg (by simp)]
    rfl
  · rw [if_neg h, if_pos (bne_iff_ne.2 h)]

theorem KeepsPower.emptied (s : State) (i : Nat) {p : Nat → Bool} (hp : ∀ j o, j < 24 → Lasting o → p (rkey 0x15 j o 0) = true) : KeepsPower s (s.emptied i p) :=
  ⟨rfl, fun j o hj ho => s.reg_emptied i p (hp j o hj ho)⟩

/-- The registers kept when an island goes off (R515). -/
def keptOff (i k : Nat) : Bool := !(ofIsland i k && (isStall k || keyOff k == monSel))

/-- The registers kept by the reset of an island (R514). -/
def keptReset (i k : Nat) : Bool := !(ofIsland i k && (keyOff k == monSel || !(keyCls k == 0x14 || keyCls k == 0x15)))

theorem keptOff_of_page {i j c o : Nat} (hc : c = 0x15 ∨ c = 0x16) (hj : j < 24) (ho : o < 2 ^ 12) (hm : o ≠ monSel) : keptOff i (rkey c j o 0) = true := by
  have hcls : keyCls (rkey c j o 0) = c := keyCls_rkey (by omega) (by omega) ho
  have hstall : isStall (rkey c j o 0) = false := by
    unfold isStall
    rw [hcls]
    obtain rfl | rfl := hc <;> simp
  simp [keptOff, hstall, keyOff_rkey ho, hm]

theorem keptReset_of_page {i j o : Nat} (hj : j < 24) (ho : o < 2 ^ 12) (hm : o ≠ monSel) : keptReset i (rkey 0x15 j o 0) = true := by
  have hcls : keyCls (rkey 0x15 j o 0) = 0x15 := keyCls_rkey (by omega) (by omega) ho
  simp [keptReset, hcls, keyOff_rkey ho, hm]

end Sys2Proof.Machine
end

section
/-! PROOFS. Islands' power states: sleep, off, wakes and the writes of ISL_PWR_CTL and ISL_CTL (R113, R451 to R454, R471). -/
namespace Sys2Proof.Machine

/-! ### Events of the power page -/

@[simp] theorem State.fld_raise_page (s : State) (cls inst n : Nat) {f : Fld} {i : Nat} (hi : i < 24) (hf : f.cls = 0x15 ∧ Lasting f.off) : (s.raise cls inst n).fld f i = s.fld f i :=
  (KeepsPower.raise s cls inst n).fld hi hf

/-- An event of an island's power page, where the enables were as before. -/
theorem Raised.of_enable {s t : State} {i n : Nat} (h : t.reg (rkey 0x15 i evtEnable 0) = s.reg (rkey 0x15 i evtEnable 0)) : Raised s (t.raise 0x15 i n) 0x15 i n :=
  (t.raised_raise 0x15 i n).congr h rfl

/-- A field of the power page leaves its enables. -/
theorem State.enable_setFld (s : State) {f : Fld} (v j i : Nat) (hf : f.off < 2 ^ 12 ∧ f.off ≠ evtEnable) : (s.setFld f v j).reg (rkey 0x15 i evtEnable 0) = s.reg (rkey 0x15 i evtEnable 0) :=
  s.reg_setFld_of_off v j 0 hf.1 (by rw [rkey_mod _ _ _ _ (by decide)]; exact hf.2.symm)

/-! ### What a change of an island's power state leaves -/

@[simp] theorem State.setFld_fuse (s : State) (f : Fld) (v i u : Nat) : (s.setFld f v i u).fuse = s.fuse := by rw [State.setFld_only]
@[simp] theorem State.setFld_pw (s : State) (f : Fld) (v i u : Nat) : (s.setFld f v i u).pw = s.pw := by rw [State.setFld_only]
@[simp] theorem State.bump_fuse (s : State) (f : Fld) (i n u : Nat) : (s.bump f i n u).fuse = s.fuse := by rw [State.bump_only]
@[simp] theorem State.raise_fuse (s : State) (cls inst n : Nat) : (s.raise cls inst n).fuse = s.fuse := by rw [State.raise_only]
@[simp] theorem State.raise_pw (s : State) (cls inst n : Nat) : (s.raise cls inst n).pw = s.pw := by rw [State.raise_only]

/-- Nothing but registers, fuses, messages and the power state differs. -/
def PowerOnly (s t : State) : Prop := ∃ r f o p, t = { s with regs := r, fuse := f, outbox := o, pw := p }

namespace PowerOnly

variable {s t : State}

theorem refl (s : State) : PowerOnly s s := ⟨_, _, _, _, rfl⟩

theorem setFld (h : PowerOnly s t) (f : Fld) (v i : Nat) : PowerOnly s (t.setFld f v i) := by
  obtain ⟨r, f, o, p, rfl⟩ := h
  exact ⟨_, _, _, _, rfl⟩

theorem bump (h : PowerOnly s t) (f : Fld) (i : Nat) : PowerOnly s (t.bump f i) := h.setFld f _ i

theorem modIpw (h : PowerOnly s t) (i : Nat) (f : IslPwr → IslPwr) : PowerOnly s (t.modIpw i f) := by
  obtain ⟨r, f, o, p, rfl⟩ := h
  exact ⟨_, _, _, _, rfl⟩

theorem raise (h : PowerOnly s t) (cls inst n : Nat) : PowerOnly s (t.raise cls inst n) := by
  obtain ⟨r, f, o, p, rfl⟩ := h
  exact ⟨_, _, _, _, State.raise_only _ _ _ _⟩

theorem eq_regs_pw (h : PowerOnly s t) (hf : t.fuse = s.fuse) (ho : t.outbox = s.outbox) : t = { s with regs := t.regs, pw := t.pw } := by
  obtain ⟨r, f, o, p, rfl⟩ := h
  cases hf; cases ho
  rfl

theorem eq_regs (h : PowerOnly s t) (hf : t.fuse = s.fuse) (ho : t.outbox = s.outbox) (hp : t.pw = s.pw) : t = { s with regs := t.regs } := by
  obtain ⟨r, f, o, p, rfl⟩ := h
  cases hf; cases ho; cases hp
  rfl

theorem eq_fuse (h : PowerOnly s t) (hp : t.pw = s.pw) : t = { s with regs := t.regs, fuse := t.fuse, outbox := t.outbox } := by
  obtain ⟨r, f, o, p, rfl⟩ := h
  cases hp
  rfl

theorem eq_regs_fuse (h : PowerOnly s t) (ho : t.outbox = s.outbox) (hp : t.pw = s.pw) : t = { s with regs := t.regs, fuse := t.fuse } := by
  obtain ⟨r, f, o, p, rfl⟩ := h
  cases ho; cases hp
  rfl

theorem eq_outbox (h : PowerOnly s t) (hf : t.fuse = s.fuse) (hp : t.pw = s.pw) : t = { s with regs := t.regs, outbox := t.outbox } := by
  obtain ⟨r, f, o, p, rfl⟩ := h
  cases hf; cases hp
  rfl

end PowerOnly

/-! ### Sleep (R452) -/

theorem islRun_lt {s : State} {i : Nat} (h : s.islRun i = true) : i < 24 := by
  rw [State.islRun, Bool.and_eq_true, decide_eq_true_eq] at h
  exact h.1

theorem islandSleep_next {s : State} {i : Nat} (hrun : s.islRun i = true) (hquiet : s.quietIsland i = true)
    (hmay : (s.fld .islPwrCtlForce i = 0 ∧ s.fld .islPwrCtlSleepEn i = 1) ∨ s.fld .islPwrCtlForce i = 2) :
    exec (.islandSleep i) s = .next (((s.setFld .islStatState 1 i).setFld .islStatReady 0 i).raise 0x15 i 3) := by
  rw [exec_islandSleep]
  exact when_pos (by simp [hrun, hquiet, hmay]) _ _

theorem islandSleep_stays {s : State} {i : Nat} (hquiet : s.quietIsland i = false) : exec (.islandSleep i) s = .next s := by
  rw [exec_islandSleep]
  exact when_neg (by simp [hquiet]) _ _

theorem islandSleep_sleeps {s : State} {i : Nat} (hrun : s.islRun i = true) (hquiet : s.quietIsland i = true)
    (hmay : (s.fld .islPwrCtlForce i = 0 ∧ s.fld .islPwrCtlSleepEn i = 1) ∨ s.fld .islPwrCtlForce i = 2) :
    ∃ u, exec (.islandSleep i) s = .next u ∧ u.fld .islStatState i = 1 ∧ u.fld .islStatReady i = 0 ∧ Raised s u 0x15 i 3 ∧ u = { s with regs := u.regs, outbox := u.outbox } := by
  have hi := islRun_lt hrun
  refine ⟨_, islandSleep_next hrun hquiet hmay, ?_, ?_, Raised.of_enable ?_, ?_⟩
  · rw [State.fld_raise_page _ _ _ _ hi (by decide), State.fld_setFld_apart _ (by decide) _ hi hi, State.fld_setFld_of_lt _ _ (by decide) (by decide)]
  · rw [State.fld_raise_page _ _ _ _ hi (by decide), State.fld_setFld_of_lt _ _ (by decide) (by decide)]
  · rw [State.enable_setFld _ _ _ _ (by decide), State.enable_setFld _ _ _ _ (by decide)]
  · exact ((((PowerOnly.refl s).setFld _ _ _).setFld _ _ _).raise _ _ _).eq_outbox (by simp) (by simp)

/-! ### Waking (R113, R453) -/

@[simp] theorem State.fld_leaveOff (s : State) (i : Nat) (f : Fld) (j u : Nat) : (s.leaveOff i).fld f j u = s.fld f j u :=
  State.fld_congr (by unfold State.leaveOff; split <;> rfl) f j u

@[simp] theorem State.reg_leaveOff (s : State) (i k : Nat) : (s.leaveOff i).reg k = s.reg k := by
  unfold State.leaveOff
  split <;> rfl

@[simp] theorem State.leaveOff_outbox (s : State) (i : Nat) : (s.leaveOff i).outbox = s.outbox := by
  unfold State.leaveOff
  split <;> rfl

@[simp] theorem State.leaveOff_pw (s : State) (i : Nat) : (s.leaveOff i).pw = s.pw := by
  unfold State.leaveOff
  split <;> rfl

theorem State.leaveOff_of_ne {s : State} {i : Nat} (h : s.fld .islStatState i ≠ 2) : s.leaveOff i = s := by
  rw [State.leaveOff, if_neg (by simpa [State.islOff] using h)]

theorem State.leaveOff_of_off {s : State} {i : Nat} (h : s.fld .islStatState i = 2) : s.leaveOff i = { s with fuse := s.fuse.apply i } := by
  rw [State.leaveOff, if_pos (by simpa [State.islOff] using h)]

theorem PowerOnly.leaveOff (s : State) (i : Nat) : PowerOnly s (s.leaveOff i) := by
  unfold State.leaveOff
  split
  · exact ⟨_, _, _, _, rfl⟩
  · exact .refl s

/-- The page of an island as a wake leaves it. -/
def State.upPage (s : State) (i : Nat) : State :=
  ((((s.leaveOff i).setFld .islStatState 0 i).setFld .islStatReady 1 i).setFld .islCtlWake 0 i).setFld .islRailNowMv (nominalMv (s.op i)) i

/-- An island awake, its strait training where it was dark and is to carry light. -/
def State.awake (s : State) (i : Nat) : State :=
  if s.fld .strStatState i = 0 ∧ s.fld .strCtlEn i = 1 ∧ !s.strTripped i then (s.upPage i).setFld .strStatState 1 i else s.upPage i

theorem State.upPage_only (s : State) (i : Nat) : PowerOnly s (s.upPage i) := ((((PowerOnly.leaveOff s i).setFld _ _ _).setFld _ _ _).setFld _ _ _).setFld _ _ _

theorem State.awake_only (s : State) (i : Nat) : PowerOnly s (s.awake i) := by
  unfold State.awake
  split
  · exact (s.upPage_only i).setFld _ _ _
  · exact s.upPage_only i

theorem State.awake_power (s : State) {i : Nat} (hi : i < 24) : KeepsPower (s.upPage i) (s.awake i) := .ite (.setFld _ .strStatState 1 hi (by decide)) (.refl _)

@[simp] theorem State.awake_fuse (s : State) (i : Nat) : (s.awake i).fuse = (s.leaveOff i).fuse := by
  unfold State.awake State.upPage
  split <;> simp

@[simp] theorem State.awake_outbox (s : State) (i : Nat) : (s.awake i).outbox = s.outbox := by
  unfold State.awake State.upPage
  split <;> simp

@[simp] theorem State.awake_pw (s : State) (i : Nat) : (s.awake i).pw = s.pw := by
  unfold State.awake State.upPage
  split <;> simp

theorem nominalMv_lt (c : Nat) : nominalMv c < 1024 := by
  unfold nominalMv
  split <;> decide

section Wake
variable {s : State} {i : Nat} (hi : i < 24)
include hi

theorem State.awake_fld {f : Fld} (hf : f.cls = 0x15 ∧ Lasting f.off) : (s.awake i).fld f i = (s.upPage i).fld f i := (s.awake_power hi).fld hi hf

theorem State.awake_enable : (s.awake i).reg (rkey 0x15 i evtEnable 0) = s.reg (rkey 0x15 i evtEnable 0) := by
  rw [(s.awake_power hi).reg i evtEnable hi (by decide), State.upPage]
  simp +decide [State.enable_setFld]

theorem State.awake_state : (s.awake i).fld .islStatState i = 0 := by
  rw [State.awake_fld hi (by decide), State.upPage]
  simp +decide [State.fld_setFld_apart, State.fld_setFld_of_lt, hi]

theorem State.awake_ready : (s.awake i).fld .islStatReady i = 1 := by
  rw [State.awake_fld hi (by decide), State.upPage]
  simp +decide [State.fld_setFld_apart, State.fld_setFld_of_lt, hi]

theorem State.awake_wake : (s.awake i).fld .islCtlWake i = 0 := by
  rw [State.awake_fld hi (by decide), State.upPage]
  simp +decide [State.fld_setFld_apart, State.fld_setFld_of_lt, hi]

theorem State.awake_rail : (s.awake i).fld .islRailNowMv i = nominalMv (s.fld .islStatOp i) := by
  rw [State.awake_fld hi (by decide), State.upPage, State.fld_setFld_of_lt _ _ (by decide) (nominalMv_lt _), State.op]

theorem State.awake_count : (s.awake i).fld .islWakeCnt i = s.fld .islWakeCnt i := by
  rw [State.awake_fld hi (by decide), State.upPage]
  simp +decide [State.fld_setFld_apart, hi]

/-- An island that slept is awake, which is counted and raised. -/
theorem islandWake_asleep (hrun : s.run = .ready) (hdip : (s.ipw i).dip = none) (hlo : 1 ≤ s.fld .islStatState i) (hhi : s.fld .islStatState i ≤ 3) :
    exec (.islandWake i) s = .next (((s.awake i).bump .islWakeCnt i).raise 0x15 i 3) := by
  have hasleep : (s.fld .islStatState i == 1 || s.fld .islStatState i == 2 || s.fld .islStatState i == 3) = true := by
    simp only [Bool.or_eq_true, beq_iff_eq]
    omega
  rw [exec_islandWake, execIslandWake]
  rw [hasleep, when_pos (by simp [hi, hrun, hdip]), if_pos rfl]
  rfl

/-- An island in run that is not ready becomes ready. -/
theorem islandWake_unready (hrun : s.run = .ready) (hdip : (s.ipw i).dip = none) (hstate : s.fld .islStatState i = 0) (hready : s.fld .islStatReady i = 0) :
    exec (.islandWake i) s = .next (s.awake i) := by
  rw [exec_islandWake, execIslandWake]
  rw [when_pos (by simp [hi, hrun, hdip, hready]), hstate]
  rfl

theorem islandWake_wakes (hrun : s.run = .ready) (hdip : (s.ipw i).dip = none) (hlo : 1 ≤ s.fld .islStatState i) (hhi : s.fld .islStatState i ≤ 3) :
    ∃ u, exec (.islandWake i) s = .next u ∧ u.fld .islStatState i = 0 ∧ u.fld .islStatReady i = 1 ∧ u.fld .islCtlWake i = 0 ∧
      u.fld .islRailNowMv i = nominalMv (s.fld .islStatOp i) ∧ Counted s u .islWakeCnt i ∧ Raised s u 0x15 i 3 ∧ u = { s with regs := u.regs, fuse := u.fuse, outbox := u.outbox } := by
  have hkeep : ∀ {f : Fld}, (f.cls = 0x15 ∧ Lasting f.off) ∧ Fld.islWakeCnt.apart f = true → (((s.awake i).bump .islWakeCnt i).raise 0x15 i 3).fld f i = (s.awake i).fld f i :=
    fun hf => by rw [State.fld_raise_page _ _ _ _ hi hf.1, State.fld_bump_apart _ hf.2 hi hi]
  refine ⟨_, islandWake_asleep hi hrun hdip hlo hhi, ?_, ?_, ?_, ?_, ?_, Raised.of_enable ?_, ?_⟩
  · rw [hkeep (by decide), State.awake_state hi]
  · rw [hkeep (by decide), State.awake_ready hi]
  · rw [hkeep (by decide), State.awake_wake hi]
  · rw [hkeep (by decide), State.awake_rail hi]
  · rw [Counted, State.fld_raise_page _ _ _ _ hi (by decide), State.fld_bump_same _ _ _ _ _ (by decide), State.awake_count hi]
  · rw [State.bump, State.enable_setFld _ _ _ _ (by decide), State.awake_enable hi]
  · exact (((s.awake_only i).bump _ _).raise _ _ _).eq_fuse (by simp [State.bump])

/-- The uncore of an off island comes up. -/
theorem uncoreWake_next (hrun : s.run = .ready) (hstate : s.fld .islStatState i = 2) :
    exec (.uncoreWake i) s = .next (((s.leaveOff i).setFld .islStatState 1 i).raise 0x15 i 3) := by
  rw [exec_uncoreWake]
  exact when_pos (by simp [hi, hrun, hstate]) _ _

theorem uncoreWake_sleeps (hrun : s.run = .ready) (hstate : s.fld .islStatState i = 2) :
    ∃ u, exec (.uncoreWake i) s = .next u ∧ u.fld .islStatState i = 1 ∧ Raised s u 0x15 i 3 ∧ u = { s with regs := u.regs, fuse := u.fuse, outbox := u.outbox } := by
  refine ⟨_, uncoreWake_next hi hrun hstate, ?_, Raised.of_enable ?_, ?_⟩
  · rw [State.fld_raise_page _ _ _ _ hi (by decide), State.fld_setFld_of_lt _ _ (by decide) (by decide)]
  · rw [State.enable_setFld _ _ _ _ (by decide), State.reg_leaveOff]
  · exact (((PowerOnly.leaveOff s i).setFld _ _ _).raise _ _ _).eq_fuse (by simp)

end Wake

/-- The one field entry of an island takes its array's spare (R113). -/
theorem Fuses.apply_spare {f : Fuses} {i c a k row : Nat} (hk : k = (i * 320 + c) * 4 + a) (hone : f.repairs.filter (fun r => r.1 == i) = [(i, .arrayRow c a row)])
    (hfree : Tbl.get boolFalse f.spareEn k = false) : f.apply i = { f with spareEn := Tbl.set boolFalse f.spareEn k true, spare := Tbl.set natZero f.spare k row } := by
  rw [Fuses.apply, hone, List.foldl_cons, List.foldl_nil]
  dsimp only
  rw [← hk, if_pos (by rw [hfree]; rfl)]

theorem uncoreWake_fuse {s : State} {i : Nat} (hi : i < 24) (hrun : s.run = .ready) (hstate : s.fld .islStatState i = 2) :
    ∃ u, exec (.uncoreWake i) s = .next u ∧ u.fuse = s.fuse.apply i :=
  ⟨_, uncoreWake_next hi hrun hstate, by rw [State.raise_fuse, State.setFld_fuse, State.leaveOff_of_off hstate]⟩

/-! ### ISL_PWR_CTL and ISL_CTL (R454, R471) -/

theorem islandForce_ignored {s : State} {i v : Nat} (hi : i < 24) (h : bits v 27 26 < bits v 29 28) : exec (.islandForce i v) s = .next s := by
  rw [exec_islandForce, execIslandForce, when_pos (decide_eq_true hi), State.writeIslPwr]
  dsimp only
  rw [if_pos h]

/-- The state with the fields of ISL_PWR_CTL but FORCE written. -/
def State.setIslPwr (s : State) (i v : Nat) : State :=
  (((s.setFld .islPwrCtlOpMax (bits v 29 28) i).setFld .islPwrCtlOpMin (bits v 27 26) i).setFld .islPwrCtlSleepEn (bits v 25 25) i).setFld .islPwrCtlOffEn (bits v 24 24) i

theorem islandForce_next {s : State} {i v : Nat} (hi : i < 24) (h : bits v 29 28 ≤ bits v 27 26) :
    exec (.islandForce i v) s = .next ((if bits v 31 30 = 3 ∧ !(s.role i == 0 && s.mayCut i) then s else s.setFld .islPwrCtlForce (bits v 31 30) i).setIslPwr i v) := by
  rw [exec_islandForce, execIslandForce, when_pos (decide_eq_true hi), State.writeIslPwr]
  dsimp only
  rw [if_neg (not_lt.2 h)]
  rfl

theorem State.setIslPwr_fields (s : State) {i : Nat} (v : Nat) (hi : i < 24) : (s.setIslPwr i v).fld .islPwrCtlOpMax i = bits v 29 28 ∧ (s.setIslPwr i v).fld .islPwrCtlOpMin i = bits v 27 26 ∧
    (s.setIslPwr i v).fld .islPwrCtlSleepEn i = bits v 25 25 ∧ (s.setIslPwr i v).fld .islPwrCtlOffEn i = bits v 24 24 ∧ (s.setIslPwr i v).fld .islPwrCtlForce i = s.fld .islPwrCtlForce i := by
  unfold State.setIslPwr
  refine ⟨?_, ?_, ?_, ?_, ?_⟩
  · simp +decide only [State.fld_setFld_apart, hi]
    exact s.fld_setFld_of_lt i (by decide) (bits_lt v 29 28)
  · simp +decide only [State.fld_setFld_apart, hi]
    exact State.fld_setFld_of_lt _ i (by decide) (bits_lt v 27 26)
  · simp +decide only [State.fld_setFld_apart, hi]
    exact State.fld_setFld_of_lt _ i (by decide) (bits_lt v 25 25)
  · exact State.fld_setFld_of_lt _ i (by decide) (bits_lt v 24 24)
  · simp +decide only [State.fld_setFld_apart, hi]

theorem PowerOnly.setIslPwr {s t : State} (h : PowerOnly s t) (i v : Nat) : PowerOnly s (t.setIslPwr i v) := (((h.setFld _ _ _).setFld _ _ _).setFld _ _ _).setFld _ _ _

theorem State.setIslPwr_onlyRegs (s : State) (i v : Nat) : OnlyRegs s (s.setIslPwr i v) [Fld.key .islPwrCtlForce i 0] := fun k hk => by
  have hne : k ≠ Fld.key .islPwrCtlForce i 0 := fun h => hk (List.mem_singleton.2 h)
  rw [State.setIslPwr, State.reg_setFld_ne _ .islPwrCtlOffEn _ _ _ _ hne, State.reg_setFld_ne _ .islPwrCtlSleepEn _ _ _ _ hne, State.reg_setFld_ne _ .islPwrCtlOpMin _ _ _ _ hne,
    State.reg_setFld_ne _ .islPwrCtlOpMax _ _ _ _ hne]

/-- A write of ISL_PWR_CTL whose bounds are in order: FORCE is taken but where it asks for an off that may not be. -/
theorem islandForce_written {s : State} {i v : Nat} (hi : i < 24) (h : bits v 29 28 ≤ bits v 27 26) :
    ∃ u, exec (.islandForce i v) s = .next u ∧ u.fld .islPwrCtlOpMax i = bits v 29 28 ∧ u.fld .islPwrCtlOpMin i = bits v 27 26 ∧
      u.fld .islPwrCtlSleepEn i = bits v 25 25 ∧ u.fld .islPwrCtlOffEn i = bits v 24 24 ∧
      u.fld .islPwrCtlForce i = (if bits v 31 30 = 3 ∧ !(s.role i == 0 && s.mayCut i) then s.fld .islPwrCtlForce i else bits v 31 30) ∧
      u = { s with regs := u.regs } ∧ OnlyRegs s u [Fld.key .islPwrCtlForce i 0] := by
  refine ⟨_, islandForce_next hi h, ?_⟩
  split
  case isTrue =>
    obtain ⟨hmax, hmin, hsleep, hoff, hforce⟩ := s.setIslPwr_fields v hi
    exact ⟨hmax, hmin, hsleep, hoff, hforce, ((PowerOnly.refl s).setIslPwr i v).eq_regs (by simp [State.setIslPwr]) (by simp [State.setIslPwr]) (by simp [State.setIslPwr]), s.setIslPwr_onlyRegs i v⟩
  case isFalse =>
    obtain ⟨hmax, hmin, hsleep, hoff, hforce⟩ := (s.setFld .islPwrCtlForce (bits v 31 30) i).setIslPwr_fields v hi
    refine ⟨hmax, hmin, hsleep, hoff, hforce.trans (s.fld_setFld_of_lt i (by decide) (bits_lt v 31 30)),
      (((PowerOnly.refl s).setFld _ _ _).setIslPwr i v).eq_regs (by simp [State.setIslPwr]) (by simp [State.setIslPwr]) (by simp [State.setIslPwr]), fun k hk => ?_⟩
    rw [State.setIslPwr_onlyRegs _ i v k hk, State.setFld_onlyRegs s _ _ _ _ k hk]

theorem bit_zero (v : Nat) : bit v 0 = decide (v % 2 = 1) := Nat.testBit_zero v

theorem wake_stays {s : State} {i v : Nat} (hi : i < 24) (h : s.fld .islStatReady i = 1 ∨ v % 2 = 0) : exec (.wake i v) s = .next s := by
  rw [exec_wake, execWake, when_pos (decide_eq_true hi), State.writeIslCtl, if_pos]
  obtain h | h := h <;> simp [h, bit_zero]

/-- A wake is asked for; an island asleep or off is then waking. -/
theorem wake_next {s : State} {i v : Nat} (hi : i < 24) (hready : s.fld .islStatReady i = 0) (hv : v % 2 = 1) :
    exec (.wake i v) s = .next (if s.fld .islStatState i = 1 ∨ s.fld .islStatState i = 2 then ((s.leaveOff i).setFld .islCtlWake 1 i).setFld .islStatState 3 i
      else (s.leaveOff i).setFld .islCtlWake 1 i) := by
  rw [exec_wake, execWake, when_pos (decide_eq_true hi), State.writeIslCtl, if_neg (by simp [hv, hready, bit_zero])]

theorem wake_wakes {s : State} {i v : Nat} (hi : i < 24) (hready : s.fld .islStatReady i = 0) (hv : v % 2 = 1) :
    ∃ u, exec (.wake i v) s = .next u ∧ u.fld .islCtlWake i = 1 ∧
      u.fld .islStatState i = (if s.fld .islStatState i = 1 ∨ s.fld .islStatState i = 2 then 3 else s.fld .islStatState i) ∧ u = { s with regs := u.regs, fuse := u.fuse } := by
  have hasked : ((s.leaveOff i).setFld .islCtlWake 1 i).fld .islCtlWake i = 1 := State.fld_setFld_of_lt _ i (by decide) (by decide)
  have honly : PowerOnly s ((s.leaveOff i).setFld .islCtlWake 1 i) := (PowerOnly.leaveOff s i).setFld _ _ _
  refine ⟨_, wake_next hi hready hv, ?_⟩
  split
  case isTrue =>
    refine ⟨?_, State.fld_setFld_of_lt _ i (by decide) (by decide), (honly.setFld _ _ _).eq_regs_fuse (by simp) (by simp)⟩
    rw [State.fld_setFld_apart _ (by decide) _ hi hi, hasked]
  case isFalse =>
    refine ⟨hasked, ?_, honly.eq_regs_fuse (by simp) (by simp)⟩
    rw [State.fld_setFld_apart _ (by decide) _ hi hi, State.fld_leaveOff]

end Sys2Proof.Machine
end

section
/-! PROOFS. The loss of an island: off (R452, R454, R515) and its reset (R511, R514). -/
namespace Sys2Proof.Machine

/-! ### A strait dark (R395) -/

theorem State.regs_requeue (s : State) (i : Nat) : (s.requeue i).regs = s.regs := by
  unfold State.requeue
  extract_lets x ms s1
  refine (foldl_keeps State.regs _ ?_ ms s1).trans rfl
  intro t m
  rfl

theorem State.fld_strStatState_requeue (s : State) (i j : Nat) : (s.requeue i).fld .strStatState j = s.fld .strStatState j :=
  State.fld_congr (State.regs_requeue s i) _ _ _

theorem State.fld_modStr (s : State) (k : Nat) (x : Strait → Strait) (f : Fld) (j u : Nat) : (s.modStr k x).fld f j u = s.fld f j u := State.fld_congr rfl f j u

theorem State.fld_strStatState_raise (s : State) (cls inst n j : Nat) : (s.raise cls inst n).fld .strStatState j = s.fld .strStatState j :=
  s.fld_raise_ne cls inst n .strStatState j 0 (by decide) (by decide) (by decide) (by decide)

theorem State.fld_strStatState_dropStrait (s : State) {i st : Nat} (hi : i < 24) (hst : st < 16) : (s.dropStrait i st).fld .strStatState i = st := by
  unfold State.dropStrait
  extract_lets s1
  have h1 : s1.fld .strStatState i = st := by
    unfold s1
    split
    case isTrue =>
      rw [State.leaveUp, State.fld_strStatState_raise, State.fld_strStatState_requeue, State.fld_modStr,
        State.fld_setFld_apart _ (by decide) _ hi hi, State.fld_setFld_apart _ (by decide) _ hi hi, State.fld_setFld_of_lt _ _ (by decide) hst]
    case isFalse => exact State.fld_setFld_of_lt _ _ (by decide) hst
  exact h1

/-! ### Off (R451, R452) -/

theorem State.emptied_hbm (s : State) (i : Nat) (p : Nat → Bool) : (s.emptied i p).hbm = s.hbm := rfl

theorem State.emptied_entries (s : State) (i : Nat) (p : Nat → Bool) : (s.emptied i p).entries = s.entries := rfl

/-- An island's pages frozen, its strait dark and what its SRAMs held lost. -/
def State.gone (s : State) (i : Nat) : State :=
  let t := ((s.freeze i).dropStrait i 0).emptied i (keptOff i)
  { t with mems := Tbl.upd memDef t.mems i (fun m => { m with tested := false }) }

theorem State.islandOff_eq (s : State) (i : Nat) : s.islandOff i = (((s.gone i).setFld .islStatState 2 i).setFld .islStatReady 0 i).raise 0x15 i 3 := rfl

section
variable (s : State) {i : Nat} (hi : i < 24)
include hi

theorem KeepsStore.dimmed : KeepsStore s ((s.freeze i).dropStrait i 0) := (KeepsStore.freeze s hi).trans (.dropStrait _ 0 hi)

theorem KeepsPower.gone : KeepsPower s (s.gone i) :=
  (KeepsStore.dimmed s hi).toKeepsPower.trans ((KeepsPower.emptied _ i fun _ _ hj ho => keptOff_of_page (.inl rfl) hj ho.1 ho.2.2.2.2).trans (.of_regs rfl rfl))

theorem State.gone_strait : (s.gone i).fld .strStatState i = 0 := by
  have hreg : (s.gone i).reg (Fld.key .strStatState i 0) = ((s.freeze i).dropStrait i 0).reg (Fld.key .strStatState i 0) :=
    State.reg_emptied _ i (keptOff i) (keptOff_of_page (.inr rfl) hi (by decide) (by decide))
  rw [State.fld, hreg]
  exact State.fld_strStatState_dropStrait _ hi (by decide)

theorem State.gone_cay (r : CayRef) : (s.gone i).cay r = if cayKey r / 320 = i then cayDef 0 else s.cay r := by
  have hcay : (s.gone i).cay r = (((s.freeze i).dropStrait i 0).emptied i (keptOff i)).cay r := rfl
  rw [hcay, State.emptied_cay]
  simp only [State.cay, (KeepsStore.dimmed s hi).cays]

theorem State.gone_hbm : (s.gone i).hbm = s.hbm :=
  calc (s.gone i).hbm = (((s.freeze i).dropStrait i 0).emptied i (keptOff i)).hbm := rfl
    _ = ((s.freeze i).dropStrait i 0).hbm := State.emptied_hbm _ _ _
    _ = s.hbm := (KeepsStore.dimmed s hi).hbm

theorem State.gone_entries : (s.gone i).entries = s.entries :=
  calc (s.gone i).entries = (((s.freeze i).dropStrait i 0).emptied i (keptOff i)).entries := rfl
    _ = ((s.freeze i).dropStrait i 0).entries := State.emptied_entries _ _ _
    _ = s.entries := (KeepsStore.dimmed s hi).entries

end

/-! ### The state but for registers and messages -/

@[simp] theorem State.setFld_entries (s : State) (f : Fld) (v i u : Nat) : (s.setFld f v i u).entries = s.entries := by rw [State.setFld_only]
@[simp] theorem State.raise_entries (s : State) (cls inst n : Nat) : (s.raise cls inst n).entries = s.entries := by rw [State.raise_only]
@[simp] theorem State.raise_mod (s : State) (cls inst n : Nat) : (s.raise cls inst n).mod = s.mod := by rw [State.raise_only]
@[simp] theorem State.cay_setFld (s : State) (f : Fld) (v i u : Nat) (r : CayRef) : (s.setFld f v i u).cay r = s.cay r := by rw [State.setFld_only]; rfl
@[simp] theorem State.cay_bump (s : State) (f : Fld) (i n u : Nat) (r : CayRef) : (s.bump f i n u).cay r = s.cay r := by rw [State.bump_only]; rfl
@[simp] theorem State.cay_raise (s : State) (cls inst n : Nat) (r : CayRef) : (s.raise cls inst n).cay r = s.cay r := by rw [State.raise_only]; rfl
@[simp] theorem State.ipw_setFld (s : State) (f : Fld) (v i u k : Nat) : (s.setFld f v i u).ipw k = s.ipw k := by rw [State.setFld_only]; rfl
@[simp] theorem State.ipw_bump (s : State) (f : Fld) (i n u k : Nat) : (s.bump f i n u).ipw k = s.ipw k := by rw [State.bump_only]; rfl
@[simp] theorem State.ipw_raise (s : State) (cls inst n k : Nat) : (s.raise cls inst n).ipw k = s.ipw k := by rw [State.raise_only]; rfl

/-! ### An island goes off -/

section
variable (s : State) {i : Nat} (hi : i < 24)
include hi

theorem State.islandOff_state : (s.islandOff i).fld .islStatState i = 2 := by
  rw [State.islandOff_eq, State.fld_raise_page _ _ _ _ hi (by decide), State.fld_setFld_apart _ (by decide) _ hi hi, State.fld_setFld_of_lt _ _ (by decide) (by decide)]

theorem State.islandOff_ready : (s.islandOff i).fld .islStatReady i = 0 := by
  rw [State.islandOff_eq, State.fld_raise_page _ _ _ _ hi (by decide), State.fld_setFld_of_lt _ _ (by decide) (by decide)]

theorem State.islandOff_raised : Raised s (s.islandOff i) 0x15 i 3 := by
  rw [State.islandOff_eq]
  refine Raised.of_enable ?_
  rw [State.enable_setFld _ _ _ _ (by decide), State.enable_setFld _ _ _ _ (by decide), (KeepsPower.gone s hi).reg i evtEnable hi (by decide)]

theorem State.islandOff_strait : (s.islandOff i).fld .strStatState i = 0 := by
  rw [State.islandOff_eq, State.fld_strStatState_raise, State.fld_setFld_apart _ (by decide) _ hi hi, State.fld_setFld_apart _ (by decide) _ hi hi, State.gone_strait s hi]

theorem State.islandOff_hbm : (s.islandOff i).hbm = s.hbm := by
  rw [State.islandOff_eq, State.raise_hbm, State.setFld_hbm, State.setFld_hbm, State.gone_hbm s hi]

theorem State.islandOff_entries : (s.islandOff i).entries = s.entries := by
  rw [State.islandOff_eq, State.raise_entries, State.setFld_entries, State.setFld_entries, State.gone_entries s hi]

theorem State.islandOff_cay (r : CayRef) : (s.islandOff i).cay r = if cayKey r / 320 = i then cayDef 0 else s.cay r := by
  rw [State.islandOff_eq, State.cay_raise, State.cay_setFld, State.cay_setFld, State.gone_cay s hi]

theorem State.islandOff_ipw (k : Nat) : (s.islandOff i).ipw k = s.ipw k := by
  rw [State.islandOff_eq, State.ipw_raise, State.ipw_setFld, State.ipw_setFld, (KeepsPower.gone s hi).ipw]

theorem State.islandOff_uvCount : (s.islandOff i).fld .islUvResetCnt i = s.fld .islUvResetCnt i := by
  rw [State.islandOff_eq, State.fld_raise_page _ _ _ _ hi (by decide), State.fld_setFld_apart _ (by decide) _ hi hi, State.fld_setFld_apart _ (by decide) _ hi hi,
    (KeepsPower.gone s hi).fld hi (by decide)]

end

theorem islandOff_next {s : State} {i : Nat} (hi : i < 24) (hst : s.fld .islStatState i ≤ 1) (hrole : s.role i = 0) (hquiet : s.quietIsland i = true) (heng : s.engineFree i = true)
    (hstack : s.stackFree i = true) (hcut : s.mayCut i = true) (hmay : (s.fld .islPwrCtlForce i = 0 ∧ s.fld .islPwrCtlOffEn i = 1) ∨ s.fld .islPwrCtlForce i = 3) :
    exec (.islandOff i) s = .next (s.islandOff i) := by
  rw [exec_islandOff]
  exact when_pos (by simp [hi, hst, hrole, hquiet, heng, hstack, hcut, hmay]) _ _

/-! ### An island is reset (R511) -/

/-- The work on an island interrupted, and a turn that names it failed. -/
def State.interrupted (s : State) (i : Nat) : State :=
  (((s.tasks.filter (fun k => s.runsOn i k.1)).map (fun k => k.1)).foldl (fun t k => if (t.task k).st = .running then t.interrupt k else t) s).failTurn (fun u => u.changes i)

/-- What ran on an island interrupted, its strait retraining, its SRAMs and pages reset. -/
def State.lost (s : State) (i : Nat) : State :=
  let t := (((s.interrupted i).dropStrait i 1).emptied i (keptReset i)).setFld .strStatState (if s.strTripped i then 0 else 1) i
  { t with mems := Tbl.upd memDef t.mems i (fun m => { m with sramAt := 0, tested := false }) }

theorem KeepsPower.interrupted (s : State) (i : Nat) : KeepsPower s (s.interrupted i) :=
  (KeepsPower.foldl _ (fun t k _ => .ite (.interrupt t k) (.refl t)) s).trans (.failTurn _ _)

section
variable (s : State) {i : Nat} (hi : i < 24)
include hi

theorem KeepsPower.lost : KeepsPower s (s.lost i) := by
  have hdark := (KeepsPower.interrupted s i).trans (KeepsStore.dropStrait _ 1 hi).toKeepsPower
  have hempty := hdark.trans (KeepsPower.emptied _ i (p := keptReset i) fun _ _ hj ho => keptReset_of_page hj ho.1 ho.2.2.2.2)
  exact (hempty.trans (.setFld _ .strStatState _ hi (by decide))).trans (.of_regs rfl rfl)

omit hi in
theorem State.lost_cay {r : CayRef} (hr : cayKey r / 320 = i) : (s.lost i).cay r = cayDef 0 := by
  have hcay : (s.lost i).cay r = ((((s.interrupted i).dropStrait i 1).emptied i (keptReset i)).setFld .strStatState (if s.strTripped i then 0 else 1) i).cay r := rfl
  rw [hcay, State.cay_setFld, State.emptied_cay, if_pos hr]

theorem State.islandReset_eq (hrun : s.run = .ready) (hst : s.fld .islStatState i ≠ 2) :
    s.islandReset i = (((((s.lost i).setFld .islStatState 0 i).setFld .islStatReady 1 i).setFld .islCtlWake 0 i).bump .islResetCnt 0).raise 0x00 0 0 := by
  rw [State.islandReset, if_neg (by simp [hst, hrun, hi])]
  rfl

end

end Sys2Proof.Machine
end

section
/-! PROOFS. Rails of islands: entries of the sticky log, dips, their release, and the reset level (R441, R464, R465, R489). -/
namespace Sys2Proof.Machine

/-! ### Fields of a byte string (R11) -/

theorem leNat_leBytes {n v : Nat} (hv : v < 256 ^ n) : leNat (leBytes n v) = v := by
  induction n generalizing v with
  | zero => exact (Nat.lt_one_iff.1 hv).symm
  | succ n ih =>
    have hrest : v / 256 < 256 ^ n := Nat.div_lt_of_lt_mul (by rwa [Nat.pow_succ'] at hv)
    rw [leBytes, leNat, ih hrest, BitVec.toNat_ofNat]
    omega

theorem leAt_append_right (a b : List (BitVec 8)) (o n : Nat) : leAt (a ++ b) (a.length + o) n = leAt b o n := by
  rw [leAt, leAt, ← List.drop_drop, List.drop_left]

theorem leAt_leBytes_append {n v : Nat} (b : List (BitVec 8)) (hv : v < 256 ^ n) : leAt (leBytes n v ++ b) 0 n = v := by
  rw [leAt, List.drop_zero, List.take_left' (leBytes_length n v), leNat_leBytes hv]

/-! ### The sticky log (R441, R489) -/

/-- An entry of the sticky log. -/
def stickyEntry (n t kind unit : Nat) (data : List (BitVec 8)) : List (BitVec 8) :=
  leBytes 4 n ++ leBytes 8 t ++ leBytes 1 kind ++ leBytes 1 unit ++ [0, 0] ++ (data ++ List.replicate 16 0).take 16

theorem leAt_stickyEntry_kind (n t : Nat) {kind : Nat} (unit : Nat) (data : List (BitVec 8)) (h : kind < 256) : leAt (stickyEntry n t kind unit data) 12 1 = kind := by
  have hlen : (leBytes 4 n ++ leBytes 8 t).length = 12 := by simp
  rw [stickyEntry, List.append_assoc, List.append_assoc, List.append_assoc, ← hlen]
  exact (leAt_append_right _ _ 0 1).trans (leAt_leBytes_append _ (by simpa using h))

theorem leAt_stickyEntry_unit (n t kind : Nat) {unit : Nat} (data : List (BitVec 8)) (h : unit < 256) : leAt (stickyEntry n t kind unit data) 13 1 = unit := by
  have hlen : (leBytes 4 n ++ leBytes 8 t ++ leBytes 1 kind).length = 13 := by simp
  rw [stickyEntry, List.append_assoc, List.append_assoc, ← hlen]
  exact (leAt_append_right _ _ 0 1).trans (leAt_leBytes_append _ (by simpa using h))

theorem leAt_stickyEntry_data (n t kind unit : Nat) {v : Nat} (rest : List (BitVec 8)) (h : v < 2 ^ 32) : leAt (stickyEntry n t kind unit (leBytes 4 v ++ rest)) 16 4 = v := by
  have hlen : (leBytes 4 n ++ leBytes 8 t ++ leBytes 1 kind ++ leBytes 1 unit ++ [0, 0]).length = 16 := by simp
  have hskip := leAt_append_right (leBytes 4 n ++ leBytes 8 t ++ leBytes 1 kind ++ leBytes 1 unit ++ [0, 0]) ((leBytes 4 v ++ rest ++ List.replicate 16 0).take 16) 0 4
  rw [hlen] at hskip
  rw [stickyEntry, hskip, leAt, List.drop_zero, List.take_take, List.append_assoc, show min 4 16 = 4 from rfl, List.take_left' (leBytes_length 4 v), leNat_leBytes (by simpa using h)]

theorem State.alert_ex (s : State) (b : Nat) : ∃ p o, s.alert b = { s with ports := p, outbox := o } := by
  unfold State.alert State.setPorts
  dsimp only
  split <;> exact ⟨_, _, rfl⟩

/-- An entry of the log leaves all but registers, messages, ports and the log itself, and stands last in it. -/
theorem State.logAdd_ex (s : State) (kind unit : Nat) (data : List (BitVec 8)) :
    ∃ r o p l, s.logAdd kind unit data = { s with regs := r, outbox := o, ports := p, mod := { s.mod with log := l } } ∧
      l.getLast? = some (stickyEntry ((s.fld .logHead 0 + 1) % 2 ^ 32) s.ptime kind unit data) := by
  unfold State.logAdd
  extract_lets n e all m s1
  obtain ⟨p, o, hp⟩ := ((s1.setFld .logHead n 0).raise 0x02 0 0).alert_ex 3
  have hlast : (all.drop (all.length - 512)).getLast? = some e := by
    rw [List.getLast?_drop, if_neg (by simp [all]), List.getLast?_concat]
  rw [hp, State.raise_only]
  exact ⟨_, _, _, _, rfl, hlast⟩

theorem KeepsPower.alert (s : State) (b : Nat) : KeepsPower s (s.alert b) := by
  obtain ⟨p, o, hu⟩ := s.alert_ex b
  rw [hu]
  exact of_regs rfl rfl

theorem KeepsPower.logAdd (s : State) (kind unit : Nat) (data : List (BitVec 8)) : KeepsPower s (s.logAdd kind unit data) := by
  unfold State.logAdd
  extract_lets n e all m s1
  have h1 : KeepsPower s s1 := of_regs rfl rfl
  exact ((h1.trans (setFld s1 .logHead n (by decide) (by decide))).trans (raise _ 0x02 0 0)).trans (alert _ 3)

@[simp] theorem State.cay_logAdd (s : State) (kind unit : Nat) (data : List (BitVec 8)) (r : CayRef) : (s.logAdd kind unit data).cay r = s.cay r := by
  obtain ⟨_, _, _, _, hu, -⟩ := s.logAdd_ex kind unit data
  rw [hu]
  rfl

/-- What is logged last, and raised after it. -/
theorem State.logged_last (s : State) (kind unit : Nat) (data : List (BitVec 8)) (cls inst n : Nat) :
    ((s.logAdd kind unit data).raise cls inst n).mod.log.getLast? = some (stickyEntry ((s.fld .logHead 0 + 1) % 2 ^ 32) s.ptime kind unit data) := by
  obtain ⟨_, _, _, l, hu, hl⟩ := s.logAdd_ex kind unit data
  rw [State.raise_mod, hu]
  exact hl

/-! ### Dips (R464, R465) -/

theorem State.ipw_modIpw (s : State) (i : Nat) (f : IslPwr → IslPwr) (k : Nat) : (s.modIpw i f).ipw k = if k = i then f (s.ipw i) else s.ipw k := by
  rw [State.ipw, State.modIpw, Tbl.upd, Tbl.get_set, State.ipw, State.ipw]

@[simp] theorem State.fld_modIpw (s : State) (i : Nat) (f : IslPwr → IslPwr) (g : Fld) (j u : Nat) : (s.modIpw i f).fld g j u = s.fld g j u := State.fld_congr rfl g j u

theorem State.setHold_of_dip {s : State} {i : Nat} {d : Dip} (h : (s.ipw i).dip = some d) : s.setHold i = s.setFld .islStatHold 1 i := by
  rw [State.setHold, h]
  rfl

section
variable {s : State} {i mv : Nat}

theorem State.dipTo_ipw (reset : Bool) (hdip : (s.ipw i).dip = none) (k : Nat) : (s.dipTo i mv reset).ipw k = if k = i then { s.ipw i with dip := some ⟨mv, s.ptime, reset⟩ } else s.ipw k := by
  rw [State.dipTo, State.ipw_setFld, State.ipw_modIpw, hdip]

theorem State.dipTo_dip (reset : Bool) (hdip : (s.ipw i).dip = none) : ((s.dipTo i mv reset).ipw i).dip = some ⟨mv, s.ptime, reset⟩ := by
  rw [State.dipTo_ipw reset hdip, if_pos rfl]

theorem State.dipTo_rail (reset : Bool) (hmv : mv < 1024) : (s.dipTo i mv reset).fld .islRailNowMv i = mv := State.fld_setFld_of_lt _ _ (by decide) hmv

theorem State.dipTo_fld (reset : Bool) {f : Fld} (hi : i < 24) (hf : Fld.islRailNowMv.apart f = true) : (s.dipTo i mv reset).fld f i = s.fld f i := by
  rw [State.dipTo, State.fld_setFld_apart _ hf _ hi hi, State.fld_modIpw]

theorem State.dipTo_enable (reset : Bool) : (s.dipTo i mv reset).reg (rkey 0x15 i evtEnable 0) = s.reg (rkey 0x15 i evtEnable 0) := by
  rw [State.dipTo, State.enable_setFld _ _ _ _ (by decide)]
  rfl

theorem railDip_stays (hdip : (s.ipw i).dip = none) (hmv : s.railWarn i ≤ mv) : exec (.railDip i mv) s = .next s := by
  rw [exec_railDip]
  exact when_neg (by simp [hdip, hmv]) _ _

theorem railDip_next (hi : i < 24) (hst : s.fld .islStatState i ≠ 2) (hdip : (s.ipw i).dip = none) (hmv : mv < s.railWarn i) :
    exec (.railDip i mv) s = .next ((s.dipTo i mv false).setFld .islStatHold 1 i) := by
  rw [← State.setHold_of_dip (State.dipTo_dip false hdip), exec_railDip]
  exact when_pos (by simp [hdip, hmv, hi, State.islOff, hst]) _ _

theorem railDip_held (hi : i < 24) (hst : s.fld .islStatState i ≠ 2) (hdip : (s.ipw i).dip = none) (hlt : mv < 1024) (hmv : mv < s.railWarn i) :
    ∃ u, exec (.railDip i mv) s = .next u ∧ u.fld .islStatHold i = 1 ∧ u.fld .islRailNowMv i = mv ∧ (u.ipw i).dip = some ⟨mv, s.ptime, false⟩ ∧ (∀ k, k ≠ i → u.ipw k = s.ipw k) ∧
      u = { s with regs := u.regs, pw := u.pw } := by
  refine ⟨_, railDip_next hi hst hdip hmv, State.fld_setFld_of_lt _ _ (by decide) (by decide), ?_, ?_, fun k hk => ?_, ?_⟩
  · rw [State.fld_setFld_apart _ (by decide) _ hi hi, State.dipTo_rail false hlt]
  · rw [State.ipw_setFld, State.dipTo_dip false hdip]
  · rw [State.ipw_setFld, State.dipTo_ipw false hdip, if_neg hk]
  · exact ((((PowerOnly.refl s).modIpw i _).setFld _ _ _).setFld _ _ _).eq_regs_pw (by simp [State.modIpw]) (by simp [State.modIpw])

/-! ### The reset level (R465) -/

/-- A crossing of the reset level counted, held, logged and raised. -/
def State.crossed (s : State) (i low : Nat) : State := (((s.bump .islUvResetCnt i).setHold i).logAdd 0x05 i (leBytes 4 low)).raise 0x15 i 1

theorem railReset_reset (hi : i < 24) (hst : s.fld .islStatState i ≠ 2) (hdown : s.fld .islStatState i ≠ 3) (hdip : (s.ipw i).dip = none) (hmv : mv < s.railReset i) :
    exec (.railReset i mv) s = .next ((((s.dipTo i mv true).islandReset i).setFld .islStatReady 0 i).crossed i mv) := by
  rw [exec_railReset, execRailReset, if_neg (by simp [State.islOff, hst, hi, hmv])]
  dsimp only
  rw [if_neg hdown, if_neg hdown, State.dipTo_dip true hdip]
  rfl

theorem railReset_waking (hi : i < 24) (hst : s.fld .islStatState i = 3) (hdip : (s.ipw i).dip = none) (hmv : mv < s.railReset i) :
    exec (.railReset i mv) s = .next ((((s.dipTo i mv true).islandOff i).setFld .islCtlWake 1 i).crossed i mv) := by
  rw [exec_railReset, execRailReset, if_neg (by simp [State.islOff, hst, hi, hmv])]
  dsimp only
  rw [if_pos hst, if_pos hst, State.dipTo_dip true hdip]
  rfl

end

section Crossed
variable (t : State) {i low : Nat} (hi : i < 24) {d : Dip} (hdip : (t.ipw i).dip = some d)

include hdip in
theorem State.crossed_eq : t.crossed i low = (((t.bump .islUvResetCnt i).setFld .islStatHold 1 i).logAdd 0x05 i (leBytes 4 low)).raise 0x15 i 1 := by
  rw [State.crossed, State.setHold_of_dip (by rw [State.ipw_bump, hdip])]

theorem KeepsPower.logged (u : State) (kind unit : Nat) (data : List (BitVec 8)) (cls inst n : Nat) : KeepsPower u ((u.logAdd kind unit data).raise cls inst n) :=
  (KeepsPower.logAdd u kind unit data).trans (.raise _ cls inst n)

include hi hdip in
theorem State.crossed_fld {f : Fld} (hf : (f.cls = 0x15 ∧ Lasting f.off) ∧ Fld.islUvResetCnt.apart f = true ∧ Fld.islStatHold.apart f = true) : (t.crossed i low).fld f i = t.fld f i := by
  rw [State.crossed_eq t hdip, (KeepsPower.logged _ _ _ _ _ _ _).fld hi hf.1, State.fld_setFld_apart _ hf.2.2 _ hi hi, State.fld_bump_apart _ hf.2.1 hi hi]

include hi hdip in
theorem State.crossed_hold : (t.crossed i low).fld .islStatHold i = 1 := by
  rw [State.crossed_eq t hdip, (KeepsPower.logged _ _ _ _ _ _ _).fld hi (by decide), State.fld_setFld_of_lt _ _ (by decide) (by decide)]

include hi hdip in
theorem State.crossed_counted : Counted t (t.crossed i low) .islUvResetCnt i := by
  rw [Counted, State.crossed_eq t hdip, (KeepsPower.logged _ _ _ _ _ _ _).fld hi (by decide), State.fld_setFld_apart _ (by decide) _ hi hi, State.fld_bump_same _ _ _ _ _ (by decide)]

include hdip in
theorem State.crossed_ipw (k : Nat) : (t.crossed i low).ipw k = t.ipw k := by
  rw [State.crossed_eq t hdip, (KeepsPower.logged _ _ _ _ _ _ _).ipw, State.ipw_setFld, State.ipw_bump]

include hi hdip in
theorem State.crossed_raised : Raised t (t.crossed i low) 0x15 i 1 := by
  rw [State.crossed_eq t hdip]
  refine Raised.of_enable ?_
  rw [(KeepsPower.logAdd _ _ _ _).reg i evtEnable hi (by decide), State.enable_setFld _ _ _ _ (by decide), State.bump, State.enable_setFld _ _ _ _ (by decide)]

include hdip in
theorem State.crossed_cay (r : CayRef) : (t.crossed i low).cay r = t.cay r := by
  rw [State.crossed_eq t hdip, State.cay_raise, State.cay_logAdd, State.cay_setFld, State.cay_bump]

include hi in
theorem State.crossed_logged (hlow : low < 2 ^ 32) : ∃ e, (t.crossed i low).mod.log.getLast? = some e ∧ leAt e 12 1 = 5 ∧ leAt e 13 1 = i ∧ leAt e 16 4 = low := by
  refine ⟨_, State.logged_last _ _ _ _ _ _ _, leAt_stickyEntry_kind _ _ _ _ (by decide), leAt_stickyEntry_unit _ _ _ _ (by omega), ?_⟩
  have hdata := leAt_stickyEntry_data ((((t.bump .islUvResetCnt i).setHold i).fld .logHead 0 + 1) % 2 ^ 32) ((t.bump .islUvResetCnt i).setHold i).ptime 5 i [] hlow
  rwa [List.append_nil] at hdata

end Crossed

/-! ### The island a crossing resets (R511) -/

section
variable (s : State) {i : Nat} (hi : i < 24)

/-- An island reset and held not ready. -/
def State.downed (s : State) (i : Nat) : State := (s.islandReset i).setFld .islStatReady 0 i

include hi in
theorem State.downed_eq (hrun : s.run = .ready) (hst : s.fld .islStatState i ≠ 2) : s.downed i =
    ((((((s.lost i).setFld .islStatState 0 i).setFld .islStatReady 1 i).setFld .islCtlWake 0 i).bump .islResetCnt 0).raise 0x00 0 0).setFld .islStatReady 0 i := by
  rw [State.downed, State.islandReset_eq s hi hrun hst]

theorem State.downed_ready : (s.downed i).fld .islStatReady i = 0 := State.fld_setFld_of_lt _ _ (by decide) (by decide)

variable (hrun : s.run = .ready) (hst : s.fld .islStatState i ≠ 2)
include hi hrun hst

theorem State.downed_state : (s.downed i).fld .islStatState i = 0 := by
  rw [State.downed_eq s hi hrun hst]
  simp +decide [State.fld_setFld_apart, State.fld_bump_apart, State.fld_setFld_of_lt, hi]

theorem State.downed_uvCount : (s.downed i).fld .islUvResetCnt i = s.fld .islUvResetCnt i := by
  rw [State.downed_eq s hi hrun hst, ← (KeepsPower.lost s hi).fld hi (by decide)]
  simp +decide [State.fld_setFld_apart, State.fld_bump_apart, hi]

theorem State.downed_ipw (k : Nat) : (s.downed i).ipw k = s.ipw k := by
  rw [State.downed_eq s hi hrun hst, ← (KeepsPower.lost s hi).ipw]
  simp

theorem State.downed_enable : (s.downed i).reg (rkey 0x15 i evtEnable 0) = s.reg (rkey 0x15 i evtEnable 0) := by
  rw [State.downed_eq s hi hrun hst, State.enable_setFld _ _ _ _ (by decide), (KeepsPower.raise _ _ _ _).reg i evtEnable hi (by decide), State.bump, ← (KeepsPower.lost s hi).reg i evtEnable hi (by decide)]
  simp +decide [State.enable_setFld]

theorem State.downed_cay {r : CayRef} (hr : cayKey r / 320 = i) : (s.downed i).cay r = cayDef 0 := by
  rw [State.downed_eq s hi hrun hst, ← s.lost_cay hr]
  simp

end

section
variable {s : State} {i mv : Nat} (hi : i < 24) (hrun : s.run = .ready) (hdip : (s.ipw i).dip = none) (hmv : mv < s.railReset i)
include hi hdip hmv

include hrun in
theorem railReset_resets (hlt : mv < 1024) (hst : s.fld .islStatState i ≠ 2) (hdown : s.fld .islStatState i ≠ 3) : ∃ u, exec (.railReset i mv) s = .next u ∧ u.fld .islStatState i = 0 ∧
    u.fld .islStatReady i = 0 ∧ u.fld .islStatHold i = 1 ∧ (u.ipw i).dip = some ⟨mv, s.ptime, true⟩ ∧ Counted s u .islUvResetCnt i ∧ Raised s u 0x15 i 1 ∧
      (∀ r, cayKey r / 320 = i → u.cay r = cayDef 0) ∧ ∃ e, u.mod.log.getLast? = some e ∧ leAt e 12 1 = 5 ∧ leAt e 13 1 = i ∧ leAt e 16 4 = mv := by
  have hst0 : (s.dipTo i mv true).fld .islStatState i ≠ 2 := by rwa [State.dipTo_fld true hi (by decide)]
  have hrun0 : (s.dipTo i mv true).run = .ready := hrun
  have hipw : (((s.dipTo i mv true).downed i).ipw i).dip = some ⟨mv, s.ptime, true⟩ := by rw [State.downed_ipw _ hi hrun0 hst0, State.dipTo_dip true hdip]
  refine ⟨((s.dipTo i mv true).downed i).crossed i mv, railReset_reset hi hst hdown hdip hmv, ?_, ?_, State.crossed_hold _ hi hipw, ?_, ?_, ?_, fun r hr => ?_,
    State.crossed_logged _ hi (by omega)⟩
  · rw [State.crossed_fld _ hi hipw (by decide), State.downed_state _ hi hrun0 hst0]
  · rw [State.crossed_fld _ hi hipw (by decide), State.downed_ready]
  · rw [State.crossed_ipw _ hipw, hipw]
  · rw [Counted, State.crossed_counted _ hi hipw, State.downed_uvCount _ hi hrun0 hst0, State.dipTo_fld true hi (by decide)]
  · exact (State.crossed_raised _ hi hipw).congr (by rw [State.downed_enable _ hi hrun0 hst0, State.dipTo_enable]) rfl
  · rw [State.crossed_cay _ hipw, State.downed_cay _ hi hrun0 hst0 hr]

theorem railReset_restartsWake (hst : s.fld .islStatState i = 3) :
    ∃ u, exec (.railReset i mv) s = .next u ∧ u.fld .islStatState i = 2 ∧ u.fld .islCtlWake i = 1 ∧ Counted s u .islUvResetCnt i := by
  have hipw : ((((s.dipTo i mv true).islandOff i).setFld .islCtlWake 1 i).ipw i).dip = some ⟨mv, s.ptime, true⟩ := by
    rw [State.ipw_setFld, State.islandOff_ipw _ hi, State.dipTo_dip true hdip]
  refine ⟨_, railReset_waking hi hst hdip hmv, ?_, ?_, ?_⟩
  · rw [State.crossed_fld _ hi hipw (by decide), State.fld_setFld_apart _ (by decide) _ hi hi, State.islandOff_state _ hi]
  · rw [State.crossed_fld _ hi hipw (by decide), State.fld_setFld_of_lt _ _ (by decide) (by decide)]
  · rw [Counted, State.crossed_counted _ hi hipw, State.fld_setFld_apart _ (by decide) _ hi hi, State.islandOff_uvCount _ hi, State.dipTo_fld true hi (by decide)]

end

/-! ### The end of a dip (R465) -/

/-- A dip over, held on for heat alone, and counted with its lowest value. -/
def State.released (s : State) (i mv low : Nat) : State :=
  ((((s.modIpw i (fun p => { p with dip := none })).setFld .islRailNowMv mv i).setFld .islStatHold (b2n ((s.ipw i).thrIsl && s.op i == 3)) i).bump .islDipCnt i).setFld .islDipMinMv low i

/-- The dip's end logged and raised. -/
def State.dipLogged (s : State) (i : Nat) (d : Dip) (t : State) : State := (t.logAdd 0x04 i (leBytes 4 d.low ++ leBytes 4 ((s.ptime - d.start) * 40))).raise 0x15 i 0

/-- An island in run that a reset held is ready. -/
def State.readied (t : State) (i : Nat) (reset : Bool) : State := if reset = true ∧ t.fld .islStatState i = 0 then t.setFld .islStatReady 1 i else t

theorem railDipRelease_stays {s : State} {i mv : Nat} {d : Dip} (hdip : (s.ipw i).dip = some d) (h : mv ≤ s.railRelease i) : exec (.railDipRelease i mv) s = .next s := by
  rw [exec_railDipRelease, execRailDipRelease, hdip]
  exact if_pos h

theorem railDipRelease_next {s : State} {i mv : Nat} {d : Dip} (hi : i < 24) (hdip : (s.ipw i).dip = some d) (h : s.railRelease i < mv) :
    exec (.railDipRelease i mv) s = .next ((s.dipLogged i d (s.released i mv d.low)).readied i d.reset) := by
  have hhold : ((s.modIpw i (fun p => { p with dip := none })).setFld .islRailNowMv mv i).setHold i =
      ((s.modIpw i (fun p => { p with dip := none })).setFld .islRailNowMv mv i).setFld .islStatHold (b2n ((s.ipw i).thrIsl && s.op i == 3)) i := by
    rw [State.setHold, State.ipw_setFld, State.ipw_modIpw, if_pos rfl, State.op, State.fld_setFld_apart _ (by decide) _ hi hi, State.fld_modIpw]
    rfl
  rw [exec_railDipRelease, execRailDipRelease, hdip]
  dsimp only
  rw [if_neg (not_le.2 h), hhold]
  rfl

theorem State.readied_fld (t : State) {i : Nat} (r : Bool) {f : Fld} (hi : i < 24) (hf : Fld.islStatReady.apart f = true) : (t.readied i r).fld f i = t.fld f i := by
  unfold State.readied
  split
  · exact t.fld_setFld_apart hf _ hi hi
  · rfl

theorem State.readied_ipw (t : State) (i : Nat) (r : Bool) (k : Nat) : (t.readied i r).ipw k = t.ipw k := by
  unfold State.readied
  split
  · exact t.ipw_setFld _ _ _ _ _
  · rfl

theorem State.readied_mod (t : State) (i : Nat) (r : Bool) : (t.readied i r).mod = t.mod := by
  unfold State.readied
  split
  · rw [State.setFld_only]
  · rfl

theorem State.readied_cause (t : State) (i j : Nat) (r : Bool) : (t.readied i r).reg (rkey 0x15 j evtCause 0) = t.reg (rkey 0x15 j evtCause 0) := by
  unfold State.readied
  split
  · exact t.reg_setFld_of_off _ _ _ (by decide) (by rw [rkey_mod _ _ _ _ (by decide)]; decide)
  · rfl

section
variable (s : State) {i mv low : Nat} (hi : i < 24)
include hi

/-- The end of a dip leaves the page's other fields. -/
theorem State.released_fld {f : Fld} (hf : Fld.islRailNowMv.apart f = true ∧ Fld.islStatHold.apart f = true ∧ Fld.islDipCnt.apart f = true ∧ Fld.islDipMinMv.apart f = true) :
    (s.released i mv low).fld f i = s.fld f i := by
  obtain ⟨hrail, hhold, hcnt, hmin⟩ := hf
  rw [State.released, State.fld_setFld_apart _ hmin _ hi hi, State.fld_bump_apart _ hcnt hi hi, State.fld_setFld_apart _ hhold _ hi hi, State.fld_setFld_apart _ hrail _ hi hi, State.fld_modIpw]

theorem State.released_hold : (s.released i mv low).fld .islStatHold i = if (s.ipw i).thrIsl = true ∧ s.fld .islStatOp i = 3 then 1 else 0 := by
  rw [State.released, State.fld_setFld_apart _ (by decide) _ hi hi, State.fld_bump_apart _ (by decide) hi hi, State.fld_setFld_same _ _ _ _ _ (by decide), State.op]
  by_cases h : (s.ipw i).thrIsl = true ∧ s.fld .islStatOp i = 3
  · rw [if_pos h, h.1, h.2]
    rfl
  · rw [if_neg h, show ((s.ipw i).thrIsl && s.fld .islStatOp i == 3) = false by simpa using h]
    rfl

theorem State.released_rail (hmv : mv < 1024) : (s.released i mv low).fld .islRailNowMv i = mv := by
  rw [State.released, State.fld_setFld_apart _ (by decide) _ hi hi, State.fld_bump_apart _ (by decide) hi hi, State.fld_setFld_apart _ (by decide) _ hi hi, State.fld_setFld_of_lt _ _ (by decide) hmv]

theorem State.released_counted : Counted s (s.released i mv low) .islDipCnt i := by
  rw [Counted, State.released, State.fld_setFld_apart _ (by decide) _ hi hi, State.fld_bump_same _ _ _ _ _ (by decide), State.fld_setFld_apart _ (by decide) _ hi hi,
    State.fld_setFld_apart _ (by decide) _ hi hi, State.fld_modIpw]

omit hi in
theorem State.released_min (hlow : low < 1024) : (s.released i mv low).fld .islDipMinMv i = low := State.fld_setFld_of_lt _ _ (by decide) hlow

omit hi in
theorem State.released_dip : ((s.released i mv low).ipw i).dip = none := by
  rw [State.released, State.ipw_setFld, State.ipw_bump, State.ipw_setFld, State.ipw_setFld, State.ipw_modIpw, if_pos rfl]

omit hi in
theorem State.released_enable : (s.released i mv low).reg (rkey 0x15 i evtEnable 0) = s.reg (rkey 0x15 i evtEnable 0) := by
  rw [State.released, State.enable_setFld _ _ _ _ (by decide), State.bump, State.enable_setFld _ _ _ _ (by decide), State.enable_setFld _ _ _ _ (by decide), State.enable_setFld _ _ _ _ (by decide)]
  rfl

end

theorem railDipRelease_ends {s : State} {i mv : Nat} {d : Dip} (hi : i < 24) (hmv : mv < 1024) (hdip : (s.ipw i).dip = some d) (hlow : d.low < 1024) (h : s.railRelease i < mv) :
    ∃ u, exec (.railDipRelease i mv) s = .next u ∧ (u.ipw i).dip = none ∧ u.fld .islStatHold i = (if (s.ipw i).thrIsl = true ∧ s.fld .islStatOp i = 3 then 1 else 0) ∧
      u.fld .islRailNowMv i = mv ∧ Counted s u .islDipCnt i ∧ u.fld .islDipMinMv i = d.low ∧ Raised s u 0x15 i 0 ∧ (d.reset = false → u.fld .islStatReady i = s.fld .islStatReady i) ∧
      (d.reset = true → s.fld .islStatState i = 0 → u.fld .islStatReady i = 1) ∧ ∃ e, u.mod.log.getLast? = some e ∧ leAt e 12 1 = 4 ∧ leAt e 13 1 = i ∧ leAt e 16 4 = d.low := by
  have hlog : KeepsPower (s.released i mv d.low) (s.dipLogged i d (s.released i mv d.low)) := KeepsPower.logged _ _ _ _ _ _ _
  have hpage : ∀ {f : Fld}, (f.cls = 0x15 ∧ Lasting f.off) ∧ Fld.islStatReady.apart f = true →
      ((s.dipLogged i d (s.released i mv d.low)).readied i d.reset).fld f i = (s.released i mv d.low).fld f i := fun hf => by
    rw [State.readied_fld _ _ hi hf.2, hlog.fld hi hf.1]
  refine ⟨_, railDipRelease_next hi hdip h, ?_, ?_, ?_, ?_, ?_, ?_, fun hr => ?_, fun hr hst => ?_, ?_⟩
  · rw [State.readied_ipw, hlog.ipw, State.released_dip]
  · rw [hpage (by decide), State.released_hold s hi]
  · rw [hpage (by decide), State.released_rail s hi hmv]
  · rw [Counted, hpage (by decide), State.released_counted s hi]
  · rw [hpage (by decide), State.released_min s hlow]
  · refine (State.raised_raise _ 0x15 i 0).congr ?_ (State.readied_cause _ _ _ _)
    rw [(KeepsPower.logAdd _ _ _ _).reg i evtEnable hi (by decide), State.released_enable]
  · rw [State.readied, if_neg (by simp [hr]), hlog.fld hi (by decide), State.released_fld s hi (by decide)]
  · rw [State.readied, if_pos ⟨hr, by rw [hlog.fld hi (by decide), State.released_fld s hi (by decide), hst]⟩, State.fld_setFld_of_lt _ _ (by decide) (by decide)]
  · rw [State.readied_mod]
    exact ⟨_, State.logged_last _ _ _ _ _ _ _, leAt_stickyEntry_kind _ _ _ _ (by decide), leAt_stickyEntry_unit _ _ _ _ (by omega), leAt_stickyEntry_data _ _ _ _ _ (by omega)⟩

/-! ### The statement -/

/-- Settles O51: each event by the lemma that says what it makes of its island. -/
theorem islandPower : Obligations.IslandPower := by
  refine ⟨fun s i hrun => ⟨fun hquiet hmay => islandSleep_sleeps hrun hquiet hmay, islandSleep_stays⟩, ?off, fun s i hi hrun hdip => ⟨islandWake_wakes hi hrun hdip, ?unready, uncoreWake_sleeps hi hrun⟩,
    ?repair, fun s i v hi => ⟨islandForce_ignored hi, ?force, wake_stays hi, wake_wakes hi⟩,
    fun s i mv hi hst hlt hdip => ⟨railDip_stays hdip, railDip_held hi hst hdip hlt, fun hmv hrun hdown => railReset_resets hi hrun hdip hmv hlt hst hdown,
      fun hmv _ hwaking => railReset_restartsWake hi hdip hmv hwaking⟩,
    fun s i mv d hi hmv hdip hlow => ⟨railDipRelease_stays hdip, railDipRelease_ends hi hmv hdip hlow⟩⟩
  case off =>
    intro s i hi hst hrole hquiet heng hstack hcut hmay
    exact ⟨_, islandOff_next hi hst hrole hquiet heng hstack hcut hmay, s.islandOff_state hi, s.islandOff_ready hi, s.islandOff_raised hi, s.islandOff_strait hi, s.islandOff_hbm hi,
      s.islandOff_entries hi, fun r hr => by rw [s.islandOff_cay hi, if_pos hr], fun r hr => by rw [s.islandOff_cay hi, if_neg hr]⟩
  case unready =>
    intro hstate hready
    refine ⟨_, islandWake_unready hi hrun hdip hstate hready, State.awake_state hi, State.awake_ready hi, State.awake_count hi, ?_⟩
    exact (s.awake_only i).eq_regs (by rw [State.awake_fuse, State.leaveOff_of_ne (by omega)]) (s.awake_outbox i) (s.awake_pw i)
  case repair =>
    intro s i k c a hi hstate hrun hk hone hfree
    obtain ⟨u, hexec, hfuse⟩ := uncoreWake_fuse hi hrun hstate
    refine ⟨u, hexec, ?_, ?_, ?_⟩ <;> rw [hfuse, Fuses.apply_spare hk hone hfree] <;> simp
  case force =>
    intro hle
    obtain ⟨u, hexec, hmax, hmin, hsleep, hoff, hforce, honly, hregs⟩ := islandForce_written (s := s) hi hle
    refine ⟨u, hexec, hmax, hmin, hsleep, hoff, fun hne => ?_, fun hthree hbar => ?_, fun hthree hrole hcut => ?_, honly, hregs⟩
    · rw [hforce, if_neg fun h => hne h.1]
    · rw [hforce, if_pos ⟨hthree, by obtain h | h := hbar <;> simp [h]⟩]
    · rw [hforce, if_neg (by simp [hrole, hcut]), hthree]

end Sys2Proof.Machine
end

section
/-! PROOFS. Threads of a cay that block, wake and give way: what the sequencer changes of a cay and of its threads (R127 to R129). -/
namespace Sys2Proof.Machine

/-! ### The sequencer (R128) -/

/-- The sequencer leaves a thread as it is, or sets a ready one running. -/
theorem Cay.thr_schedule (y : Cay) (i : Nat) :
    y.schedule.thr i = y.thr i ∨ (y.thr i).st = .ready ∧ y.schedule.thr i = { y.thr i with st := .running } := by
  unfold Cay.schedule
  split
  case h_1 => exact .inl rfl
  case h_2 =>
    split
    case h_1 => exact .inl rfl
    case h_2 t ht =>
      have hready := List.find?_some ht
      rw [Bool.and_eq_true, beq_iff_eq] at hready
      rw [Cay.thr_lastRun, Cay.thr_setThr]
      split
      case isTrue h => subst h; exact .inr ⟨hready.2, rfl⟩
      case isFalse => exact .inl rfl

theorem Cay.thr_schedule_of_ne_ready {y : Cay} {i : Nat} (h : (y.thr i).st ≠ .ready) : y.schedule.thr i = y.thr i :=
  (y.thr_schedule i).resolve_right fun hr => h hr.1

/-- The sequencer of a cay without a running thread runs the first ready thread after the last one. -/
theorem Cay.schedule_first {y : Cay} {n : Nat} (hrun : y.running = none) (hn : n < 8) (hready : (y.thr ((y.lastRun + 1 + n) % 8)).bound = true ∧ (y.thr ((y.lastRun + 1 + n) % 8)).st = .ready)
    (hfirst : ∀ i, i < n → ¬ ((y.thr ((y.lastRun + 1 + i) % 8)).bound = true ∧ (y.thr ((y.lastRun + 1 + i) % 8)).st = .ready)) :
    y.schedule = { y.setThr ((y.lastRun + 1 + n) % 8) { y.thr ((y.lastRun + 1 + n) % 8) with st := .running } with lastRun := (y.lastRun + 1 + n) % 8 } := by
  have hfind : ((List.range 8).map (fun i => (y.lastRun + 1 + i) % 8)).find? (fun t => (y.thr t).bound && (y.thr t).st == .ready) = some ((y.lastRun + 1 + n) % 8) := by
    rw [List.find?_map, Option.map_eq_some_iff]
    refine ⟨n, ?_, rfl⟩
    rw [List.find?_range_eq_some]
    refine ⟨by simpa using hready, List.mem_range.2 hn, fun i hi => ?_⟩
    rw [Bool.not_eq_true', ← Bool.not_eq_true, Function.comp_apply, Bool.and_eq_true, beq_iff_eq]
    exact hfirst i hi
  unfold Cay.schedule
  rw [hrun]
  dsimp only
  rw [hfind]

/-! ### Threads that block -/

theorem Cay.thr_block (y : Cay) (t : Nat) (w : Wait) (cause : Nat) : (y.block t w cause).thr t = { y.thr t with st := .blocked, wait := w, cause := cause } := by
  unfold Cay.block
  rw [Cay.thr_schedule_of_ne_ready] <;> rw [Cay.thr_setThr, if_pos rfl]
  simp

/-! ### What waits and wakes leave of a cay -/

/-- What one element of a list establishes and every element keeps holds after all. -/
theorem foldl_establishes {α σ : Type} {P : σ → Prop} {f : σ → α → σ} (hkeep : ∀ s a, P s → P (f s a)) {l : List α} {a : α} (ha : a ∈ l) (hset : ∀ s, P (f s a)) (s : σ) :
    P (l.foldl f s) := by
  obtain ⟨l1, l2, rfl⟩ := List.append_of_mem ha
  rw [List.foldl_append, List.foldl_cons]
  exact List.foldlRecOn l2 f (hset _) fun t ht b _ => hkeep t b ht

/-- A cay that differs from another in no scalar register, and in neither its local store nor its copies. -/
structure Cay.Held (y z : Cay) : Prop where
  regs : ∀ i, (z.thr i).regs = (y.thr i).regs
  ls : z.ls = y.ls
  copies : z.copies = y.copies

namespace Cay.Held

variable {x y z : Cay}

theorem refl (y : Cay) : y.Held y := ⟨fun _ => rfl, rfl, rfl⟩

theorem trans (h : x.Held y) (g : y.Held z) : x.Held z := ⟨fun i => (g.regs i).trans (h.regs i), g.ls.trans h.ls, g.copies.trans h.copies⟩

theorem setThr (y : Cay) {t : Nat} {w : Thread} (h : w.regs = (y.thr t).regs) : y.Held (y.setThr t w) := by
  refine ⟨fun i => ?_, rfl, rfl⟩
  rw [Cay.thr_setThr]
  split
  case isTrue hi => rw [hi, h]
  case isFalse => rfl

theorem setQueue (y : Cay) (e : Nat) (q : List QEntry) : y.Held (y.setQueue e q) := ⟨fun _ => rfl, rfl, rfl⟩

theorem counted (y : Cay) (n : Nat) : y.Held { y with issue := n } := ⟨fun _ => rfl, rfl, rfl⟩

theorem schedule (y : Cay) : y.Held y.schedule := by
  refine ⟨y.schedule_same.regs, ?_, ?_⟩ <;> rw [y.schedule_only]

theorem block (y : Cay) (t : Nat) (w : Wait) (cause : Nat) : y.Held (y.block t w cause) :=
  (setThr y (t := t) (w := { y.thr t with st := .blocked, wait := w, cause := cause }) rfl).trans (schedule _)

theorem wakeIf (y : Cay) (p : Nat → Wait → Bool) : y.Held (y.wakeIf p) := by
  refine ⟨(y.wakeIf_same p).regs, ?_, ?_⟩ <;> rw [y.wakeIf_only]

end Cay.Held

/-! ### What changes one cay alone -/

theorem OnlyCay.refl (s : State) (c : CayRef) : OnlyCay s s c := ⟨rfl, fun _ _ => rfl⟩

theorem OnlyCay.setCay {s u : State} {c : CayRef} (h : OnlyCay s u c) (y : Cay) : OnlyCay s (u.setCay c y) c := by
  obtain ⟨hu, hother⟩ := h
  refine ⟨by rw [hu]; rfl, fun r hr => ?_⟩
  rw [State.cay_setCay, if_neg hr, hother r hr]

theorem State.setCay_onlyCay (s : State) (c : CayRef) (y : Cay) : OnlyCay s (s.setCay c y) c := (OnlyCay.refl s c).setCay y

theorem State.cay_setCay_same (s : State) (c : CayRef) (y : Cay) : (s.setCay c y).cay c = y := by rw [State.cay_setCay, if_pos rfl]

theorem State.cay_setCay_other (s : State) {c r : CayRef} (y : Cay) (h : cayKey r ≠ cayKey c) : (s.setCay c y).cay r = s.cay r := by rw [State.cay_setCay, if_neg h]

theorem State.task_congr {s u : State} (h : u.tasks = s.tasks) (k : Nat) : u.task k = s.task k := by rw [State.task, State.task, h]

theorem State.cay_eq_of_cays {s u : State} (h : u.cays = s.cays) (r : CayRef) : u.cay r = s.cay r := by rw [State.cay, State.cay, h]

end Sys2Proof.Machine
end

section
/-! PROOFS. The copy unit: how copies are issued and complete, and how fences stand (R136 to R141, R180). -/
namespace Sys2Proof.Machine

/-! ### CPY (R136 to R138) -/

/-- Cays, HBM and tasks are as they were. -/
structure KeepsCays (s u : State) : Prop where
  cays : u.cays = s.cays
  hbm : u.hbm = s.hbm
  tasks : u.tasks = s.tasks

namespace KeepsCays

variable {s t u : State}

theorem refl (s : State) : KeepsCays s s := ⟨rfl, rfl, rfl⟩

theorem trans (h : KeepsCays s t) (g : KeepsCays t u) : KeepsCays s u := ⟨g.cays.trans h.cays, g.hbm.trans h.hbm, g.tasks.trans h.tasks⟩

theorem ite {c : Prop} [Decidable c] (ht : KeepsCays s t) (hu : KeepsCays s u) : KeepsCays s (if c then t else u) := by split <;> assumption

theorem foldl {α : Type} {f : State → α → State} (hf : ∀ t a, KeepsCays t (f t a)) (l : List α) (s : State) : KeepsCays s (l.foldl f s) := by
  induction l generalizing s with
  | nil => exact refl s
  | cons a l ih => exact (hf s a).trans (ih _)

theorem bump (s : State) (f : Fld) (i n w : Nat) : KeepsCays s (s.bump f i n w) := ⟨rfl, rfl, rfl⟩

theorem askHost (s : State) (ctx : Nat) (o : ReadOwner) (a n : Nat) : KeepsCays s (s.askHost ctx o a n).1 := ⟨rfl, rfl, rfl⟩

theorem askCopy (s : State) (c : CayRef) (j : CopyJob) : KeepsCays s (s.askCopy c j) := foldl (fun t p => by
  split
  · exact ite (refl t) (askHost t _ _ _ _)
  · exact refl t) _ s

theorem lookup (s : State) (i l : Nat) : KeepsCays s (s.lookup i l).1 := by
  constructor <;> rw [State.lookup_only]

theorem cacheInstall (s : State) (i l : Nat) : KeepsCays s (s.cacheInstall i l) := by
  constructor <;> rw [State.cacheInstall_only]

theorem useTier (s : State) (c a : Nat) : KeepsCays s (s.useTier c a) := by
  constructor <;> rw [State.useTier_only]

theorem copyLines (s : State) (i : Nat) (b : Bool) (ps : List CopyPiece) : KeepsCays s (s.copyLines i b ps) := foldl (fun t p => by
  split
  · exact foldl (fun v l => ite ((lookup v i l).trans (cacheInstall _ i l)) (lookup v i l)) _ t
  · exact refl t) _ s

theorem cay (h : KeepsCays s u) (r : CayRef) : u.cay r = s.cay r := State.cay_eq_of_cays h.cays r

theorem task (h : KeepsCays s u) (k : Nat) : u.task k = s.task k := State.task_congr h.tasks k

end KeepsCays

/-- The cay of a thread whose copy has been put at the end of the copy unit's queue. -/
def Cay.withCopy (y : Cay) (t : Nat) (d : CopyDesc) : Cay :=
  { y.setThr t (y.thr t).next with issue := y.issue + 1, copies := y.copies ++ [⟨y.issue, t, (y.thr t).task, d⟩] }

/-- A descriptor that passes the checks, with room in the unit, puts its copy at the end of the unit's queue. -/
theorem issueCopy_queues {s : State} {c : CayRef} {t : Nat} {d : CopyDesc} (hcheck : s.copyCheck c ((s.cay c).thr t).task d true = 0) (hroom : (s.cay c).copies.length < 64) :
    KeepsCays (s.setCay c ((s.cay c).withCopy t d)) (issueCopy s c t ((s.cay c).thr t) d true) := by
  unfold issueCopy
  dsimp only
  rw [hcheck, if_neg (by simp), if_neg (not_le.2 hroom)]
  have hasked := KeepsCays.askCopy (s.setCay c ((s.cay c).withCopy t d)) c ⟨(s.cay c).issue, t, ((s.cay c).thr t).task, d⟩
  exact KeepsCays.ite (hasked.trans (.bump _ _ _ _ _)) hasked

/-- CPY of such a descriptor. -/
theorem cpy_queues {s : State} {c : CayRef} {t a : Nat} {f : CFields} {d : CopyDesc} (h : Issues s c t) (hset : Settled s c t [f.a]) (hhi : f.rsvHi = 0) (hmid : f.rsvMid = 0)
    (hlo : f.rsvLo = 0) (ha : s.lsOperand c.island (((s.cay c).thr t).reg f.a).toNat 32 32 false = some a) (hpend : (s.cay c).pendingRange (s.cay c).issue a 32 = false)
    (hd : copyDesc ((s.cay c).lsRead a 32) = (d, true)) (hcheck : s.copyCheck c ((s.cay c).thr t).task d true = 0) (hroom : (s.cay c).copies.length < 64) :
    ∃ u, exec (.cpy c f) s = .next u ∧ KeepsCays (s.setCay c ((s.cay c).withCopy t d)) u := by
  refine ⟨_, ?_, issueCopy_queues hcheck hroom⟩
  rw [exec_cpy, execCpy, hhi, hmid, hlo]
  refine (issueRegs_running h.1 h.2 hset _).trans ?_
  simp only [ha, hpend, hd, Bool.false_eq_true, if_false]

/-! ### COPY_COMPLETE (R139, R140) -/

/-- The state in which a copy's lines have been looked up and the staged layers it touches used (R136, R143, R366). -/
def State.copyRead (s : State) (c : CayRef) (j : CopyJob) : State :=
  (s.srcPieces c j ++ s.dstPieces j).foldl (fun u p => u.useTier (s.task j.task).ctx p.dva) (s.copyLines c.island (j.desc.alloc || j.desc.dst == 2) (s.srcPieces c j))

theorem KeepsCays.copyRead (s : State) (c : CayRef) (j : CopyJob) : KeepsCays s (s.copyRead c j) :=
  (KeepsCays.copyLines s _ _ _).trans (KeepsCays.foldl (fun t _ => .useTier t _ _) _ _)

theorem Place.bad_of_hbm {p : CopyPiece} (h : ∃ k, p.place = .hbm k) : p.place.bad = .none := by
  obtain ⟨k, hk⟩ := h
  rw [hk, Place.bad]

/-- The state in which a copy's writes are done. -/
def State.copyMoved (s : State) (c : CayRef) (j : CopyJob) (bs : List (BitVec 8)) : State :=
  if j.desc.dst = 0 then (s.copyRead c j).setCay c (((s.copyRead c j).cay c).rowsIn j.desc (List.range j.desc.rows) bs)
  else (s.copyRead c j).copyOut c j.task (s.dstPieces j) bs

/-- A copy that may proceed, of pieces that all lie in HBM and whose source holds no poison, makes its writes and leaves the unit. -/
theorem completeCopy_moves {s : State} {c : CayRef} {j : CopyJob} {bs : List (BitVec 8)} (hmay : s.copyMay c j = true)
    (hhbm : ∀ p ∈ s.srcPieces c j ++ s.dstPieces j, ∃ k, p.place = .hbm k) (hclean : ∀ p ∈ s.srcPieces c j, ∀ k, p.place = .hbm k → s.poisoned k p.len = false)
    (hin : j.desc.src = 0 → j.desc.kind ≠ 3 → (j.desc.extents (s.cay c)).1.2 ≤ lsTop) (hroom : (s.task j.task).spec = false ∨ s.dstPieces j = []) (hbs : s.copyBytes c j = some bs) :
    completeCopy s c j = (s.copyMoved c j bs).copyDone c j := by
  have hwaits : (s.srcPieces c j ++ s.dstPieces j).any (fun p => p.place.bad == .wait) = false := by
    rw [List.any_eq_false]
    intro p hp
    rw [Place.bad_of_hbm (hhbm p hp)]
    decide
  have hbad : firstBad (s.srcPieces c j ++ s.dstPieces j) = none := by
    rw [firstBad, List.find?_eq_none]
    intro p hp
    rw [Place.bad_of_hbm (hhbm p hp)]
    decide
  have hsrc : ¬ (j.desc.src = 0 ∧ j.desc.hasSrc = true ∧ lsTop < (j.desc.extents (s.cay c)).1.2) := fun ⟨hs, hk, hlt⟩ =>
    absurd (hin hs (by simpa [CopyDesc.hasSrc] using hk)) (not_le.2 hlt)
  unfold completeCopy
  dsimp only
  rw [if_neg (by simp [hmay, hwaits, hbad])]
  split
  case h_1 dva len k hfind =>
    have hpoison : s.poisoned k len = true := by simpa only using List.find?_some hfind
    rw [hclean _ (List.mem_of_find?_eq_some hfind) k rfl] at hpoison
    exact absurd hpoison (by decide)
  case h_2 =>
    rw [if_neg hsrc, hbs]
    dsimp only
    rw [if_neg]
    · rfl
    · obtain hspec | hnone := hroom
      · simp [hspec]
      · simp [hnone, State.shadowRoom, noDups]

/-- A copy's rows change nothing of a cay but its local store. -/
theorem Cay.rowsIn_only (y : Cay) (d : CopyDesc) (is : List Nat) (bs : List (BitVec 8)) : y.rowsIn d is bs = { y with ls := (y.rowsIn d is bs).ls } := by
  induction is generalizing y bs with
  | nil => rfl
  | cons i is ih => rw [Cay.rowsIn, ih]; rfl

/-- A cay without a copy. -/
def Cay.withoutCopy (y : Cay) (j : CopyJob) : Cay := { y with copies := y.copies.filter (fun x => x.num != j.num) }

/-- The state with other reads of host memory waiting. -/
def State.withReads (s : State) (hr : List HostRead) : State := { s with hostReads := hr }

theorem KeepsCays.withReads (s : State) (hr : List HostRead) : KeepsCays s (s.withReads hr) := ⟨rfl, rfl, rfl⟩

/-- A copy leaves the unit: threads that waited are ready, and its reads of host memory are forgotten. -/
theorem State.copyDone_ex (s : State) (c : CayRef) (j : CopyJob) : ∃ p, KeepsCays (s.setCay c (((s.cay c).withoutCopy j).wakeIf p)) (s.copyDone c j) :=
  ⟨_, KeepsCays.withReads _ _⟩

theorem State.copyDone_cay (s : State) (c : CayRef) (j : CopyJob) : ((s.cay c).withoutCopy j).Held ((s.copyDone c j).cay c) := by
  obtain ⟨p, h⟩ := s.copyDone_ex c j
  rw [h.cay, State.cay_setCay_same]
  exact Cay.Held.wakeIf _ p

theorem State.copyDone_other (s : State) {c r : CayRef} (j : CopyJob) (hr : cayKey r ≠ cayKey c) : (s.copyDone c j).cay r = s.cay r := by
  obtain ⟨p, h⟩ := s.copyDone_ex c j
  rw [h.cay, State.cay_setCay_other _ _ hr]

@[simp] theorem State.copyDone_hbm (s : State) (c : CayRef) (j : CopyJob) : (s.copyDone c j).hbm = s.hbm := by
  obtain ⟨p, h⟩ := s.copyDone_ex c j
  rw [h.hbm, State.setCay_hbm]

@[simp] theorem State.copyDone_tasks (s : State) (c : CayRef) (j : CopyJob) : (s.copyDone c j).tasks = s.tasks := by
  obtain ⟨p, h⟩ := s.copyDone_ex c j
  rw [h.tasks, State.setCay_tasks]

/-- A byte of HBM after a write: the byte of its place among those written, and what stood there outside them. -/
theorem State.read_hbmWrite (s : State) (w : Option Nat) (k : Nat) (bs : List (BitVec 8)) (a : Nat) :
    (s.hbmWrite w k bs).hbm.read a = if k ≤ a ∧ a < k + bs.length then bs.getD (a - k) 0 else s.hbm.read a := by
  rw [State.hbmWrite_hbm]
  split
  case isTrue h =>
    rw [Memory.read_writeN, if_pos h.1, List.getD_eq_getElem?_getD, List.getElem?_eq_getElem (by omega), Option.getD_some, Option.getD_some]
  case isFalse h => exact Memory.read_writeN_outside _ _ _ _ (by omega)

/-- COPY_COMPLETE into the local store (R140). -/
theorem copyComplete_toStore {s : State} {c : CayRef} {n : Nat} {j : CopyJob} {bs : List (BitVec 8)} (hj : (s.cay c).copyJob n = some j) (hdst : j.desc.dst = 0)
    (hmay : s.copyMay c j = true) (hclean : ∀ p ∈ s.srcPieces c j, ∃ k, p.place = .hbm k ∧ s.poisoned k p.len = false)
    (hin : j.desc.src = 0 → j.desc.kind ≠ 3 → (j.desc.extents (s.cay c)).1.2 ≤ lsTop) (hbs : s.copyBytes c j = some bs) :
    ∃ u, exec (.copyComplete c n) s = .next u ∧ (u.cay c).ls = ((s.cay c).rowsIn j.desc (List.range j.desc.rows) bs).ls ∧
      (u.cay c).copies = (s.cay c).copies.filter (fun x => x.num != j.num) ∧ (∀ a, u.hbm.read a = s.hbm.read a) ∧ (∀ r, cayKey r ≠ cayKey c → u.cay r = s.cay r) ∧
      (∀ i, ((u.cay c).thr i).regs = ((s.cay c).thr i).regs) ∧ u.tasks = s.tasks := by
  have hnone : s.dstPieces j = [] := if_neg (by rw [hdst]; decide)
  have hread := KeepsCays.copyRead s c j
  have hmoved : s.copyMoved c j bs = (s.copyRead c j).setCay c ((s.cay c).rowsIn j.desc (List.range j.desc.rows) bs) := by
    rw [State.copyMoved, if_pos hdst, hread.cay]
  have hcay : (s.copyMoved c j bs).cay c = { s.cay c with ls := ((s.cay c).rowsIn j.desc (List.range j.desc.rows) bs).ls } := by
    rw [hmoved, State.cay_setCay_same, ← Cay.rowsIn_only]
  have hdone := (s.copyMoved c j bs).copyDone_cay c j
  rw [hcay] at hdone
  refine ⟨(s.copyMoved c j bs).copyDone c j, ?_, hdone.ls, hdone.copies, fun a => ?_, fun r hr => ?_, hdone.regs, ?_⟩
  · rw [exec_copyComplete, execCopyComplete, hj]
    dsimp only
    rw [completeCopy_moves hmay (fun p hp => ?_) (fun p hp k hk => ?_) hin (.inr hnone) hbs]
    · rw [hnone, List.append_nil] at hp
      exact (hclean p hp).imp fun _ h => h.1
    · obtain ⟨k', hk', hpoison⟩ := hclean p hp
      rw [hk, Place.hbm.injEq] at hk'
      rw [hk', hpoison]
  · rw [State.copyDone_hbm, hmoved, State.setCay_hbm, hread.hbm]
  · rw [State.copyDone_other _ j hr, hmoved, State.cay_setCay_other _ _ hr, hread.cay]
  · rw [State.copyDone_tasks, hmoved, State.setCay_tasks, hread.tasks]

/-- COPY_COMPLETE from the local store into one page of HBM (R140, R144). -/
theorem copyComplete_toHbm {s : State} {c : CayRef} {n k : Nat} {j : CopyJob} {bs : List (BitVec 8)} {p : CopyPiece} (hj : (s.cay c).copyJob n = some j) (hdst : j.desc.dst = 1)
    (hsrc : j.desc.src = 0) (hmay : s.copyMay c j = true) (hp : s.dstPieces j = [p]) (hk : p.place = .hbm k)
    (hin : j.desc.kind ≠ 3 → (j.desc.extents (s.cay c)).1.2 ≤ lsTop) (hspec : (s.task j.task).spec = false) (hbs : s.copyBytes c j = some bs) (hlen : bs.length = p.len) :
    ∃ u, exec (.copyComplete c n) s = .next u ∧ (∀ a, u.hbm.read a = if k ≤ a ∧ a < k + p.len then bs.getD (a - k) 0 else s.hbm.read a) ∧
      (u.cay c).ls = (s.cay c).ls ∧ (u.cay c).copies = (s.cay c).copies.filter (fun x => x.num != j.num) ∧ u.tasks = s.tasks := by
  have hnone : s.srcPieces c j = [] := if_neg (by rw [hsrc]; simp)
  have hread := KeepsCays.copyRead s c j
  have hmoved : s.copyMoved c j bs = (s.copyRead c j).hbmWrite (some c.island) k bs := by
    rw [State.copyMoved, if_neg (by rw [hdst]; decide), hp, State.copyOut, State.copyOut, hk, ← hlen, List.take_length]
    dsimp only
    rw [hread.task, hspec]
    rfl
  have hdone := (s.copyMoved c j bs).copyDone_cay c j
  rw [hmoved, State.cay_eq_of_cays (State.hbmWrite_cays _ _ _ _), hread.cay, ← hmoved] at hdone
  refine ⟨(s.copyMoved c j bs).copyDone c j, ?_, fun a => ?_, hdone.ls, hdone.copies, ?_⟩
  · rw [exec_copyComplete, execCopyComplete, hj]
    dsimp only
    rw [completeCopy_moves hmay (fun q hq => ?_) (fun q hq => ?_) (fun _ => hin) (.inl hspec) hbs]
    · rw [hnone, hp, List.nil_append, List.mem_singleton] at hq
      exact ⟨k, hq ▸ hk⟩
    · rw [hnone] at hq
      exact absurd hq List.not_mem_nil
  · rw [State.copyDone_hbm, hmoved, State.read_hbmWrite, hlen, hread.hbm]
  · rw [State.copyDone_tasks, hmoved, State.hbmWrite_tasks, hread.tasks]

end Sys2Proof.Machine
end

section
/-! PROOFS. The copy unit: fences, page faults of copies, and the ends of their tasks (R136 to R141, R171, R180). -/
namespace Sys2Proof.Machine

/-! ### CFEN (R141, R180) -/

/-- The cay of a thread whose fence has entered its engine's queue. -/
def Cay.withFence (y : Cay) (t e m : Nat) : Cay :=
  ({ y.setThr t (y.thr t).next with issue := y.issue + 1 } : Cay).setQueue e (y.queue e ++ [⟨y.issue, t, (y.thr t).task, .fence m⟩])

/-- A fence of a legal engine over counters its task owns goes on where no copy holds it back, and otherwise blocks its thread or enters its engine's queue. -/
theorem issueFence_cases {s : State} {c : CayRef} {t : Nat} {f : CFields} (heng : f.engine.toNat ≤ 5)
    (hown : ∀ i, i < 16 → bit f.mask.toNat i = true → bit (s.task ((s.cay c).thr t).task).fences i = true) :
    issueFence s c t ((s.cay c).thr t) f =
      if (s.cay c).fenceBusy f.mask.toNat (s.cay c).issue = false then s.putThr c t ((s.cay c).thr t).next
      else if f.queued = 0 then (s.putThr c t ((s.cay c).thr t).next).blockThr c t (.fence f.mask.toNat (s.cay c).issue) 2
      else if f.engine.toNat < 5 ∧ 16 ≤ ((s.cay c).queue f.engine.toNat).length then s.blockThr c t (.queue f.engine.toNat) 7
      else s.setCay c ((s.cay c).withFence t f.engine.toNat f.mask.toNat) := by
  have hall : (List.range 16).any (fun i => bit f.mask.toNat i && !bit (s.task ((s.cay c).thr t).task).fences i) = false := by
    rw [List.any_eq_false]
    intro i hi
    by_cases hbit : bit f.mask.toNat i = true
    · simp [hown i (List.mem_range.1 hi) hbit]
    · simp [hbit]
  unfold issueFence
  dsimp only
  rw [if_neg (not_lt.2 heng), hall, if_neg (by decide)]
  cases hbusy : (s.cay c).fenceBusy f.mask.toNat (s.cay c).issue
  · simp only [Bool.false_eq_true, if_false, if_true, Bool.not_false, ite_self]
  · simp only [Bool.true_eq_false, if_false, if_true, Bool.not_true, Bool.false_eq_true]
    rfl

theorem Cay.Held.withFence (y : Cay) (t e m : Nat) : y.Held (y.withFence t e m) :=
  ((setThr y (t := t) (w := (y.thr t).next) rfl).trans (counted _ _)).trans (setQueue _ _ _)

theorem Cay.thr_withFence (y : Cay) (t e m : Nat) : (y.withFence t e m).thr t = (y.thr t).next := by
  rw [Cay.withFence, Cay.thr_setQueue]
  exact (Cay.thr_setThr _ _ _ _).trans (if_pos rfl)

/-- The running thread that goes on changes nothing but itself. -/
theorem State.putThr_onlyThread (s : State) (c : CayRef) (t : Nat) : OnlyThread s (s.putThr c t ((s.cay c).thr t).next) c t := by
  have hcay : (s.putThr c t ((s.cay c).thr t).next).cay c = (s.cay c).setThr t ((s.cay c).thr t).next := s.cay_setCay_same c _
  refine ⟨rfl, fun r hr => s.cay_setCay_other _ hr, ?_, fun i hi => ?_, ?_⟩ <;> rw [hcay]
  · rfl
  · rw [Cay.thr_setThr, if_neg hi]
  · rw [Cay.thr_setThr, if_pos rfl]
    rfl

/-- CFEN of a legal engine over counters of its task. -/
theorem cfen_fences {s : State} {c : CayRef} {t : Nat} {f : CFields} (h : Issues s c t) (hhi : f.rsvHi = 0) (hmid : f.rsvMid = 0) (hlo : f.rsvLo = 0) (heng : f.engine.toNat ≤ 5)
    (hown : ∀ i, i < 16 → bit f.mask.toNat i = true → bit (s.task ((s.cay c).thr t).task).fences i = true) :
    ∃ u, exec (.cfen c f) s = .next u ∧ OnlyCay s u c ∧ (∀ i, ((u.cay c).thr i).regs = ((s.cay c).thr i).regs) ∧ (u.cay c).ls = (s.cay c).ls ∧ (u.cay c).copies = (s.cay c).copies ∧
      ((s.cay c).fenceBusy f.mask.toNat (s.cay c).issue = false → OnlyThread s u c t ∧ ((u.cay c).thr t).pc = ((s.cay c).thr t).pc + 8) ∧
      ((s.cay c).fenceBusy f.mask.toNat (s.cay c).issue = true → f.queued = 0 →
        ((u.cay c).thr t).st = .blocked ∧ ((u.cay c).thr t).wait = .fence f.mask.toNat (s.cay c).issue ∧ ((u.cay c).thr t).pc = ((s.cay c).thr t).pc + 8) ∧
      ((s.cay c).fenceBusy f.mask.toNat (s.cay c).issue = true → f.queued ≠ 0 → ((s.cay c).queue f.engine.toNat).length < 16 →
        (u.cay c).queue f.engine.toNat = (s.cay c).queue f.engine.toNat ++ [⟨(s.cay c).issue, t, ((s.cay c).thr t).task, .fence f.mask.toNat⟩] ∧
        ((u.cay c).thr t).pc = ((s.cay c).thr t).pc + 8) := by
  have hexec : exec (.cfen c f) s = .next (issueFence s c t ((s.cay c).thr t) f) := by
    rw [exec_cfen, execCfen, hhi, hmid, hlo]
    exact issue_running h.1 h.2 _
  have hnext : (s.cay c).Held ((s.cay c).setThr t ((s.cay c).thr t).next) := .setThr _ rfl
  refine ⟨_, hexec, ?_⟩
  rw [issueFence_cases heng hown]
  split_ifs with hfree hblocking hfull
  case pos =>
    have hcay : (s.putThr c t ((s.cay c).thr t).next).cay c = (s.cay c).setThr t ((s.cay c).thr t).next := s.cay_setCay_same c _
    refine ⟨s.setCay_onlyCay c _, ?_, ?_, ?_, fun _ => ⟨s.putThr_onlyThread c t, ?_⟩, fun hbusy => ?_, fun hbusy => ?_⟩
    case refine_5 | refine_6 => exact absurd (hfree.symm.trans hbusy) (by decide)
    all_goals rw [hcay]
    · exact hnext.regs
    · exact hnext.ls
    · exact hnext.copies
    · rw [Cay.thr_setThr, if_pos rfl, Thread.next_pc]
  case pos =>
    have hcay : ((s.putThr c t ((s.cay c).thr t).next).blockThr c t (.fence f.mask.toNat (s.cay c).issue) 2).cay c =
        ((s.cay c).setThr t ((s.cay c).thr t).next).block t (.fence f.mask.toNat (s.cay c).issue) 2 := by
      rw [State.blockThr, State.cay_setCay_same, State.putThr, State.cay_setCay_same]
    have hheld := hnext.trans (.block _ t (.fence f.mask.toNat (s.cay c).issue) 2)
    refine ⟨(s.setCay_onlyCay c _).setCay _, ?_, ?_, ?_, fun hb => absurd hb hfree, fun _ _ => ?_, fun _ hq => absurd hblocking hq⟩ <;> rw [hcay]
    · exact hheld.regs
    · exact hheld.ls
    · exact hheld.copies
    · rw [Cay.thr_block, Cay.thr_setThr, if_pos rfl]
      exact ⟨rfl, rfl, rfl⟩
  case pos =>
    have hcay : (s.blockThr c t (.queue f.engine.toNat) 7).cay c = (s.cay c).block t (.queue f.engine.toNat) 7 := s.cay_setCay_same c _
    have hheld := Cay.Held.block (s.cay c) t (.queue f.engine.toNat) 7
    refine ⟨s.setCay_onlyCay c _, ?_, ?_, ?_, fun hb => absurd hb hfree, fun _ hq => absurd hq hblocking, fun _ _ hroom => absurd hfull.2 (not_le.2 hroom)⟩ <;> rw [hcay]
    · exact hheld.regs
    · exact hheld.ls
    · exact hheld.copies
  case neg =>
    have hheld := Cay.Held.withFence (s.cay c) t f.engine.toNat f.mask.toNat
    refine ⟨s.setCay_onlyCay c _, ?_, ?_, ?_, fun hb => absurd hb hfree, fun _ hq => absurd hq hblocking, fun _ _ _ => ?_⟩ <;> rw [State.cay_setCay_same]
    · exact hheld.regs
    · exact hheld.ls
    · exact hheld.copies
    · exact ⟨(Cay.queue_setQueue _ _ _ _).trans (if_pos rfl), by rw [Cay.thr_withFence, Thread.next_pc]⟩

/-! ### Engines with nothing to do (R175) -/

/-- The engines of a vacant cay leave the state as it is. -/
theorem State.pump_vacant {s : State} {c : CayRef} (h : Vacant s c) : s.pump c = s := by
  have hloop : ∀ n, State.pumpLoop n s c [] = s := fun n => by
    cases n with
    | zero => rfl
    | succ n => rw [State.pumpLoop, runnable_none h]
  rw [State.pump, hloop, if_pos rfl]

theorem Cay.wakeIf_queues (y : Cay) (p : Nat → Wait → Bool) : (y.wakeIf p).queues = y.queues := by rw [y.wakeIf_only]

/-- QUEUED_FENCE_COMPLETE of a cay's only queued entry. -/
theorem queuedFenceComplete_leaves {s : State} {c : CayRef} {e n t k m : Nat} (hq : (s.cay c).queue e = [⟨n, t, k, .fence m⟩]) (hothers : ∀ x, x ≠ e → (s.cay c).queue x = [])
    (hfree : (s.cay c).fenceBusy m n = false) :
    ∃ u, exec (.queuedFenceComplete c e) s = .next u ∧ OnlyCay s u c ∧ Vacant u c ∧ (u.cay c).ls = (s.cay c).ls ∧ (∀ i, ((u.cay c).thr i).regs = ((s.cay c).thr i).regs) := by
  have hheld : (s.cay c).Held ((s.cay c).setQueue e []).wakeOperands := (Cay.Held.setQueue _ e []).trans (.wakeIf _ _)
  have hvacant : Vacant (s.setCay c ((s.cay c).setQueue e []).wakeOperands) c := fun x => by
    rw [State.cay_setCay_same, Cay.queue, Cay.wakeOperands, Cay.wakeIf_queues, ← Cay.queue, Cay.queue_setQueue]
    split
    · rfl
    · exact hothers x ‹_›
  refine ⟨s.setCay c ((s.cay c).setQueue e []).wakeOperands, ?_, s.setCay_onlyCay c _, hvacant, ?_, ?_⟩
  · rw [exec_queuedFenceComplete, execQueuedFenceComplete, hq]
    dsimp only
    rw [when_pos (by rw [hfree]; rfl), State.pump_vacant hvacant]
  · rw [State.cay_setCay_same]
    exact hheld.ls
  · rw [State.cay_setCay_same]
    exact hheld.regs

/-! ### The end of a task (R171, R179) -/

/-- A thread of a cay is bound to a task. -/
def Cay.binds (y : Cay) (k i : Nat) : Prop := (y.thr i).bound = true ∧ (y.thr i).task = k

/-- A thread unbound where it is bound to a task. -/
def Cay.unbind (k : Nat) (y : Cay) (i : Nat) : Cay := if (y.thr i).bound && (y.thr i).task == k then y.setThr i Thread.reset else y

theorem Cay.not_binds_unbind_same (k i : Nat) (y : Cay) : ¬ (y.unbind k i).binds k i := by
  unfold Cay.unbind Cay.binds
  split
  case isTrue =>
    rw [Cay.thr_setThr, if_pos rfl]
    exact fun h => absurd h.1 (by decide)
  case isFalse ht => exact fun h => ht (by simpa using h)

theorem Cay.not_binds_unbind {k i : Nat} {y : Cay} (t : Nat) (h : ¬ y.binds k i) : ¬ (y.unbind k t).binds k i := by
  by_cases hi : i = t
  · exact hi ▸ Cay.not_binds_unbind_same k i y
  · unfold Cay.unbind Cay.binds
    split
    · rwa [Cay.thr_setThr, if_neg hi]
    · exact h

theorem Cay.thr_dropQueues (y : Cay) (k i : Nat) : (y.dropQueues k).thr i = y.thr i := by
  unfold Cay.dropQueues
  exact foldl_keeps (fun x : Cay => x.thr i) _ (fun x e => Cay.thr_setQueue x i e _) _ _

theorem Cay.thr_copies (y : Cay) (l : List CopyJob) (i : Nat) : ({ y with copies := l } : Cay).thr i = y.thr i := rfl

/-- A task dropped from a cay has no thread of it. -/
theorem Cay.not_binds_dropTask (y : Cay) {k i : Nat} (hi : i < 8) : ¬ (y.dropTask k).binds k i := by
  rw [Cay.binds, Cay.dropTask_eq, (Cay.schedule_same _).bound, (Cay.schedule_same _).task, Cay.thr_copies, Cay.thr_dropQueues]
  exact foldl_establishes (P := fun x : Cay => ¬ x.binds k i) (f := Cay.unbind k) (fun _ t => Cay.not_binds_unbind t) (List.mem_range.2 hi) (Cay.not_binds_unbind_same k i) y

/-- A task dropped from one cay. -/
def State.dropOn (k : Nat) (s : State) (x : Nat) : State := s.setCay (cayOfKey x) ((s.cay (cayOfKey x)).dropTask k)

/-- A cay of a list has no thread of a task dropped from each of them. -/
theorem State.not_binds_dropOn {k i x : Nat} (hi : i < 8) {l : List Nat} (hx : x ∈ l) (s : State) : ¬ ((l.foldl (State.dropOn k) s).cay (cayOfKey x)).binds k i := by
  refine foldl_establishes (P := fun u : State => ¬ (u.cay (cayOfKey x)).binds k i) (fun u a hu => ?_) hx (fun u => ?_) s <;> rw [State.dropOn, State.cay_setCay]
  · split
    · exact Cay.not_binds_dropTask _ hi
    · exact hu
  · rw [if_pos rfl]
    exact Cay.not_binds_dropTask _ hi

/-- A task that has not ended and has no status is given one, and dropped from its cays. -/
theorem State.failTask_of_unfinished {s : State} {k : Nat} (h : Unfinished s k) (st d : Nat) :
    s.failTask k st d = (s.task k).live.foldl (State.dropOn k) (s.setTask k { s.task k with status := st, detail := d }) := by
  unfold State.failTask
  dsimp only
  rw [beq_eq_false_iff_ne.2 h.1, if_neg (by decide), if_pos h.2]
  rfl

/-- Such a task ends with the status given. -/
theorem State.failTask_ends {s : State} {k : Nat} (h : Unfinished s k) (st d : Nat) : EndedWith s (s.failTask k st d) k st d := by
  have htask : ∀ n, (s.failTask k st d).task n = if n = k then { s.task k with status := st, detail := d } else s.task n := by
    intro n
    rw [State.failTask_of_unfinished h, ← State.task_setTask]
    exact State.task_congr (foldl_keeps (fun u : State => u.tasks) (State.dropOn k) (fun u x => State.setCay_tasks u _ _) _ _) n
  refine ⟨by rw [htask, if_pos rfl], by rw [htask, if_pos rfl], fun n hn => by rw [htask, if_neg hn], fun x hx i hi => ?_, s.failTask_ls k st d, s.failTask_only k st d⟩
  rw [State.failTask_of_unfinished h]
  exact State.not_binds_dropOn hi hx _

/-- COPY_PAGE_FAULT of a copy that reaches an aperture page (R138, R171). -/
theorem copyPageFault_illegal {s : State} {c : CayRef} {n o : Nat} {j : CopyJob} {p : CopyPiece} (hj : (s.cay c).copyJob n = some j) (hmay : s.copyMay c j = true)
    (hopen : Unfinished s j.task) (hp : firstBad (s.srcPieces c j ++ s.dstPieces j) = some p) (ho : p.place = .aperture o) :
    ∃ u, exec (.copyPageFault c n) s = .next u ∧ EndedWith s u j.task St.illegal c.cay := by
  refine ⟨s.illegal j.task c, ?_, State.failTask_ends hopen _ _⟩
  rw [exec_copyPageFault, execCopyPageFault, hj]
  dsimp only
  rw [faultCopy, hmay, hp]
  dsimp only
  rw [ho]
  rfl

/-- Settles O16: each command of the copy unit by the lemma that says what it does. -/
theorem copiesAndFences : Obligations.CopiesAndFences := by
  refine ⟨?copies, fun s c n j bs hj hdst hmay hclean hin hbs => copyComplete_toStore hj hdst hmay hclean hin hbs,
    fun s c n j bs p k hj hdst hsrc hmay hp hk hin hspec hbs hlen => copyComplete_toHbm hj hdst hsrc hmay hp hk hin hspec hbs hlen,
    fun s c t f h hhi hmid hlo heng hown => cfen_fences h hhi hmid hlo heng hown,
    fun s c e n t k m _ hq hothers hfree => queuedFenceComplete_leaves hq hothers hfree,
    fun s c n j p o hj hmay hopen hp ho => copyPageFault_illegal hj hmay hopen hp ho⟩
  case copies =>
    intro s c t f a d h hset hhi hmid hlo ha hpend hd hcheck hroom
    obtain ⟨u, hexec, hu⟩ := cpy_queues h hset hhi hmid hlo ha hpend hd hcheck hroom
    refine ⟨u, hexec, fun r hr => ?_, hu.hbm, hu.tasks, ?_⟩
    · rw [hu.cay, State.cay_setCay_other _ _ hr]
    · rw [hu.cay, State.cay_setCay_same, Cay.withCopy]

end Sys2Proof.Machine
end

section
/-! PROOFS. Events of a cay: quanta, loads whose line has come, clocks, and the shadow region (R118, R119, R128, R129, R157, R158). -/
namespace Sys2Proof.Machine

/-! ### The quantum (R128) -/

/-- A running thread that gives way becomes ready, and the first ready thread after it runs. -/
theorem Cay.switch_first {y : Cay} {t w : Nat} (hrun : y.running = some t) (hw : w < 8) (hne : w ≠ t) (hready : (y.thr w).bound = true ∧ (y.thr w).st = .ready)
    (hfirst : ∀ i, i < (w + 7 - t) % 8 → ¬ ((y.thr ((t + 1 + i) % 8)).bound = true ∧ (y.thr ((t + 1 + i) % 8)).st = .ready)) :
    y.switch t = { (y.setThr t { y.thr t with st := .ready }).setThr w { y.thr w with st := .running } with lastRun := w } := by
  obtain ⟨hlast, ht, -, -⟩ := Cay.running_spec hrun
  set z := y.setThr t { y.thr t with st := .ready } with hz
  have hzlast : z.lastRun = t := hlast
  have hzt : (z.thr t).st = .ready := by rw [hz, Cay.thr_setThr, if_pos rfl]
  have hzne : ∀ i, i ≠ t → z.thr i = y.thr i := fun i hi => by rw [hz, Cay.thr_setThr, if_neg hi]
  have hstopped : z.running = none := by
    cases hr : z.running with
    | none => rfl
    | some v =>
      obtain ⟨hv, -, -, hst⟩ := Cay.running_spec hr
      rw [← hv, hzlast, hzt] at hst
      exact absurd hst (by decide)
  have hplace : (t + 1 + (w + 7 - t) % 8) % 8 = w := by omega
  have hsched := Cay.schedule_first (n := (w + 7 - t) % 8) hstopped (Nat.mod_lt _ (by decide)) (by rwa [hzlast, hplace, hzne w hne])
    (fun i hi => by rw [hzlast, hzne _ (by omega)]; exact hfirst i hi)
  rw [hzlast, hplace, hzne w hne] at hsched
  exact hsched

theorem threadSwitchQuantum_switches {s : State} {c : CayRef} {t w : Nat} (hrun : (s.cay c).running = some t) (hw : w < 8) (hne : w ≠ t)
    (hready : ((s.cay c).thr w).bound = true ∧ ((s.cay c).thr w).st = .ready)
    (hfirst : ∀ i, i < (w + 7 - t) % 8 → ¬ (((s.cay c).thr ((t + 1 + i) % 8)).bound = true ∧ ((s.cay c).thr ((t + 1 + i) % 8)).st = .ready)) :
    ∃ u, exec (.threadSwitchQuantum c) s = .next u ∧ OnlyCay s u c ∧ u.cay c = { s.cay c with threads := (u.cay c).threads, lastRun := w } ∧
      (u.cay c).thr t = { (s.cay c).thr t with st := .ready } ∧ (u.cay c).thr w = { (s.cay c).thr w with st := .running } ∧
      (∀ i, i ≠ t → i ≠ w → (u.cay c).thr i = (s.cay c).thr i) := by
  have hany : (List.range 8).any (fun i => ((s.cay c).thr i).bound && ((s.cay c).thr i).st == .ready) = true :=
    List.any_eq_true.2 ⟨w, List.mem_range.2 hw, by simpa using hready⟩
  refine ⟨s.setCay c ((s.cay c).switch t), ?_, s.setCay_onlyCay c _, ?_⟩
  · rw [exec_threadSwitchQuantum, execThreadSwitchQuantum, hrun]
    exact when_pos hany _ _
  rw [State.cay_setCay_same, Cay.switch_first hrun hw hne hready hfirst]
  refine ⟨rfl, ?_, ?_, fun i hit hiw => ?_⟩ <;> rw [Cay.thr_lastRun, Cay.thr_setThr]
  · rw [if_neg hne.symm, Cay.thr_setThr, if_pos rfl]
  · rw [if_pos rfl]
  · rw [if_neg hiw, Cay.thr_setThr, if_neg hit]

/-! ### A load whose line has come (R129) -/

/-- A bound thread that is blocked wakes: it waits for nothing, and keeps its pc and registers. -/
theorem Cay.thr_wake {y : Cay} {t : Nat} (hbound : (y.thr t).bound = true) (hst : (y.thr t).st = .blocked) : ((y.wake t).thr t).st ≠ .blocked ∧ ((y.wake t).thr t).wait = .none := by
  set z := y.setThr t { y.thr t with st := .ready, wait := .none, cause := 15 } with hz
  have hzt : z.thr t = { y.thr t with st := .ready, wait := .none, cause := 15 } := by rw [hz, Cay.thr_setThr, if_pos rfl]
  have hwake : y.wake t = z.schedule := if_pos (by simp [hbound, hst])
  rw [hwake]
  obtain h | ⟨-, h⟩ := z.thr_schedule t <;> rw [h, hzt]
  · exact ⟨by simp, rfl⟩
  · exact ⟨by simp, rfl⟩

/-- The bytes of an element whose line has come, as a task that is not speculative reads them. -/
theorem State.elemBytes_arrived {s : State} {k : Nat} {x : Nat} (hspec : (s.task x).spec = false) (isl l n dva : Nat) (bs : List (BitVec 8)) :
    s.elemBytes isl x [(lineOf k, bs)] n ⟨l, .hbm k, dva⟩ = (List.range n).map (fun i => bs.getD ((k + i) % 128) 0) := by
  simp [State.elemBytes, hspec]

/-- The thread of a load that has delivered its value. -/
def Thread.loaded (th : Thread) (d : BitVec 5) (v : List (BitVec 8)) : Thread := (th.setReg d (BitVec.ofNat 64 (leNat v))).next

theorem Thread.loaded_pc (th : Thread) (d : BitVec 5) (v : List (BitVec 8)) : (th.loaded d v).pc = th.pc + 8 := by rw [Thread.loaded, Thread.next_pc, Thread.setReg_pc]

theorem Thread.loaded_reg (th : Thread) (d : BitVec 5) (v : List (BitVec 8)) (x : BitVec 5) :
    (th.loaded d v).reg x = if x = d ∧ x ≠ 0 then BitVec.ofNat 64 (leNat v) else th.reg x := by
  rw [Thread.loaded, Thread.next_reg, Thread.reg_setReg]
  exact if_congr (and_congr_right fun h => by rw [h]) rfl rfl

theorem Thread.loaded_only (th : Thread) (d : BitVec 5) (v : List (BitVec 8)) : th.loaded d v = { th with pc := (th.loaded d v).pc, regs := (th.loaded d v).regs } := by
  rw [Thread.loaded, Thread.setReg_only]
  rfl

theorem Thread.reg_congr {a b : Thread} (h : a.regs = b.regs) (x : BitVec 5) : a.reg x = b.reg x := by rw [Thread.reg, Thread.reg, h]

/-- A load of one HBM element whose line has come writes its register, goes on, and wakes its thread. -/
theorem State.loadReturn_arrived {s : State} {c : CayRef} {t n l k dva : Nat} {d : BitVec 5} {bs v : List (BitVec 8)}
    (hwait : ((s.cay c).thr t).wait = .miss [] [(lineOf k, bs)] (.ldg d n ⟨l, .hbm k, dva⟩)) (hclean : s.poisoned k n = false)
    (hspec : (s.task ((s.cay c).thr t).task).spec = false) (hv : v = (List.range n).map (fun i => bs.getD ((k + i) % 128) 0)) :
    s.loadReturn c t = (s.putThr c t (((s.cay c).thr t).loaded d v)).setCay c (((s.cay c).setThr t (((s.cay c).thr t).loaded d v)).wake t) := by
  have hcay : (s.putThr c t (((s.cay c).thr t).loaded d v)).cay c = (s.cay c).setThr t (((s.cay c).thr t).loaded d v) := s.cay_setCay_same c _
  unfold State.loadReturn
  dsimp only
  rw [hwait]
  simp only [State.loadReady, MissOp.elems, List.all_cons, List.all_nil, Bool.and_true, Bool.not_true, Bool.false_eq_true, if_false, State.deliver, hclean,
    State.elemBytes_arrived hspec, List.filterMap_cons, List.filterMap_nil, List.contains_nil, Bool.not_false, List.filter_true]
  rw [← hv, ← Thread.loaded, ← hcay]

theorem threadMissReturn_loads {s : State} {c : CayRef} {t n l k dva : Nat} {d : BitVec 5} {bs v : List (BitVec 8)}
    (hwait : ((s.cay c).thr t).wait = .miss [] [(lineOf k, bs)] (.ldg d n ⟨l, .hbm k, dva⟩)) (hbound : ((s.cay c).thr t).bound = true) (hst : ((s.cay c).thr t).st = .blocked)
    (hclean : s.poisoned k n = false) (hspec : (s.task ((s.cay c).thr t).task).spec = false) (hv : v = (List.range n).map (fun i => bs.getD ((k + i) % 128) 0)) :
    ∃ u, exec (.threadMissReturn c t) s = .next u ∧ OnlyCay s u c ∧ (u.cay c).ls = (s.cay c).ls ∧ ((u.cay c).thr t).pc = ((s.cay c).thr t).pc + 8 ∧
      ((u.cay c).thr t).st ≠ .blocked ∧ ((u.cay c).thr t).wait = .none ∧ (∀ i, i ≠ t → ((u.cay c).thr i).regs = ((s.cay c).thr i).regs) ∧
      (∀ x, ((u.cay c).thr t).reg x = if x = d ∧ x ≠ 0 then BitVec.ofNat 64 (leNat v) else ((s.cay c).thr t).reg x) := by
  set y := (s.cay c).setThr t (((s.cay c).thr t).loaded d v) with hy
  have hthr : y.thr t = ((s.cay c).thr t).loaded d v := by rw [hy, Cay.thr_setThr, if_pos rfl]
  have hsame := y.wake_same t
  obtain ⟨hawake, hnone⟩ : ((y.wake t).thr t).st ≠ .blocked ∧ ((y.wake t).thr t).wait = .none := by
    apply Cay.thr_wake <;> rw [hthr, Thread.loaded_only]
    · exact hbound
    · exact hst
  refine ⟨s.loadReturn c t, by rw [exec_threadMissReturn, execThreadMissReturn], ?_⟩
  rw [State.loadReturn_arrived hwait hclean hspec hv, State.cay_setCay_same]
  refine ⟨(s.setCay_onlyCay c _).setCay _, by rw [Cay.wake_only, Cay.ls_setThr], by rw [hsame.pc, hthr, Thread.loaded_pc], hawake, hnone, fun i hi => ?_, fun x => ?_⟩
  · rw [hsame.regs, hy, Cay.thr_setThr, if_neg hi]
  · rw [Thread.reg_congr (hsame.regs t), hthr, Thread.loaded_reg]

/-! ### The clock (R157, R158) -/

theorem cayClockGate_stops {s : State} {c : CayRef} (hclock : (s.cay c).clock = 2) (hidle : (s.cay c).idle = true) :
    ∃ u, exec (.cayClockGate c) s = .next u ∧ OnlyCay s u c ∧ u.cay c = { s.cay c with clock := 0 } :=
  ⟨s.setCay c { s.cay c with clock := 0 }, when_pos (by rw [hclock, hidle]; rfl) _ _, s.setCay_onlyCay c _, s.cay_setCay_same c _⟩

theorem cayUngate_starts {s : State} {c : CayRef} (hclock : (s.cay c).clock = 1) :
    ∃ u, exec (.cayUngate c false) s = .next u ∧ u = { s with cays := u.cays, regs := u.regs } ∧ (u.cay c).clock = 2 ∧ Counted s u .cayWakeCnt c.island (1 + c.cay) ∧
      OnlyRegs s u [Fld.key .cayWakeCnt c.island (1 + c.cay)] ∧ (u.cay c).ls = (s.cay c).ls ∧ (∀ i, ((u.cay c).thr i).regs = ((s.cay c).thr i).regs) := by
  set y : Cay := { s.cay c with clock := 2 } with hy
  have hcay : ((s.bump .cayWakeCnt c.island 1 (1 + c.cay)).setCay c y.schedule).cay c = y.schedule := State.cay_setCay_same _ _ _
  refine ⟨(s.bump .cayWakeCnt c.island 1 (1 + c.cay)).setCay c y.schedule, when_pos (by rw [hclock]; rfl) _ _, rfl, ?_,
    s.fld_bump_same .cayWakeCnt c.island 1 (1 + c.cay) (by decide), s.setFld_onlyRegs .cayWakeCnt _ c.island (1 + c.cay), ?_, fun i => ?_⟩ <;> rw [hcay]
  · rw [y.schedule_only]
  · rw [y.schedule_only]
  · rw [y.schedule_same.regs]
    rfl

/-! ### The shadow region (R118, R119) -/

theorem shadowSelectExpiry_drops {s : State} {c : CayRef} {sel : ShadowSel} (hsel : (s.cay c).shadow = some sel) :
    ∃ u, exec (.shadowSelectExpiry c) s = .next u ∧ u = { s with cays := u.cays, regs := u.regs } ∧ u.cay c = { s.cay c with shadow := none } ∧
      (∀ r, cayKey r ≠ cayKey c → u.cay r = s.cay r) ∧ Counted s u .shadowSkip c.island ∧ OnlyRegs s u [Fld.key .shadowSkip c.island 0] :=
  ⟨(s.setCay c { s.cay c with shadow := none }).bump .shadowSkip c.island, when_pos (by rw [hsel]; rfl) _ _, rfl, s.cay_setCay_same c _, fun _ hr => s.cay_setCay_other _ hr,
    (s.setCay c { s.cay c with shadow := none }).fld_bump_same .shadowSkip c.island 1 0 (by decide), (s.setCay c { s.cay c with shadow := none }).setFld_onlyRegs .shadowSkip _ c.island 0⟩

/-- The fields in which a disagreement is shown (R118). -/
def disagreeFlds : List Fld := [.shadowOver, .shadowCaptValid, .shadowCaptCtx, .shadowCaptCay, .shadowCaptArray, .shadowCaptLane, .shadowCaptD]

/-- What the report of a disagreement leaves: all but registers and messages, the count of recomputations, and every register but those it is shown in. -/
structure Disagrees (i : Nat) (s u : State) : Prop where
  only : u = { s with regs := u.regs, outbox := u.outbox }
  done : u.fld .shadowDone i = s.fld .shadowDone i
  regs : OnlyRegsEvents s u (disagreeFlds.map (fun f => f.key i 0))

namespace Disagrees

variable {i : Nat} {s t u : State}

theorem refl (s : State) : Disagrees i s s := ⟨rfl, rfl, fun _ _ _ _ _ => rfl⟩

theorem trans (h : Disagrees i s t) (g : Disagrees i t u) : Disagrees i s u :=
  ⟨by rw [g.only, h.only], g.done.trans h.done, fun k hk h1 h2 h3 => (g.regs k hk h1 h2 h3).trans (h.regs k hk h1 h2 h3)⟩

theorem ite {c : Prop} [Decidable c] (ht : Disagrees i s t) (hu : Disagrees i s u) : Disagrees i s (if c then t else u) := by split <;> assumption

theorem setFld (h : Disagrees i s u) {f : Fld} (hf : f ∈ disagreeFlds) (v : Nat) : Disagrees i s (u.setFld f v i) := by
  have hflds : ∀ g ∈ disagreeFlds, g.sound = true ∧ g.cls = Fld.shadowDone.cls ∧ g.off ≠ Fld.shadowDone.off := by decide
  obtain ⟨hsound, hcls, hoff⟩ := hflds f hf
  have hkey : Fld.shadowDone.key i 0 ≠ f.key i 0 := fun hk => hoff (by
    unfold Fld.key rkey at hk
    rw [hcls] at hk
    omega)
  refine h.trans ⟨rfl, u.fld_setFld_ne f .shadowDone v i 0 i 0 hsound (.inl hkey), fun k hk _ _ _ => u.reg_setFld_ne f v i 0 k fun he => hk ?_⟩
  exact he ▸ List.mem_map_of_mem hf

theorem raise (h : Disagrees i s u) (cls inst n : Nat) : Disagrees i s (u.raise cls inst n) :=
  h.trans ⟨u.raise_only cls inst n, u.fld_raise_ne cls inst n .shadowDone i 0 (by decide) (by decide) (by decide) (by decide), fun k _ h1 h2 h3 => u.reg_raise_ne cls inst n k h1 h2 h3⟩

end Disagrees

/-- A recomputed block sum frees the shadow region and is counted, and what it disagrees in is reported. -/
theorem shadowCompare_disagrees (s : State) (c : CayRef) (sel : ShadowSel) :
    Disagrees c.island ((s.setCay c { s.cay c with shadow := none }).bump .shadowDone c.island) (shadowCompare s c sel) := by
  unfold shadowCompare
  extract_lets y ds ld i s1 s2 s3
  have hs2 : Disagrees i s1 s2 := (Disagrees.refl s1).setFld (by decide) _
  have hs3 : Disagrees i s1 s3 :=
    .ite hs2 ((((((hs2.setFld (by decide) _).setFld (by decide) _).setFld (by decide) _).setFld (by decide) _).setFld (by decide) _).setFld (by decide) _)
  exact .ite (hs3.raise _ _ _) (.refl s1)

theorem shadowRecompute_counts {s : State} {c : CayRef} {sel : ShadowSel} {b : Nat} (hsel : (s.cay c).shadow = some sel) (hb : s.shadowArray c sel.array = some b)
    (hfree : ((s.cay c).arr b).task = none) :
    ∃ u, exec (.shadowRecompute c) s = .next u ∧ u = { s with cays := u.cays, regs := u.regs, outbox := u.outbox } ∧ u.cay c = { s.cay c with shadow := none } ∧
      (∀ r, cayKey r ≠ cayKey c → u.cay r = s.cay r) ∧ Counted s u .shadowDone c.island ∧
      OnlyRegsEvents s u (Fld.key .shadowDone c.island 0 :: disagreeFlds.map (fun f => f.key c.island 0)) := by
  set s0 := s.setCay c { s.cay c with shadow := none } with hs0
  have hcompare : Disagrees c.island (s0.bump .shadowDone c.island) (shadowCompare s c sel) := shadowCompare_disagrees s c sel
  have hcay : ∀ r, (shadowCompare s c sel).cay r = s0.cay r := State.cay_eq_of_cays (by rw [hcompare.only, State.bump_only])
  refine ⟨shadowCompare s c sel, ?_, by rw [hcompare.only]; rfl, by rw [hcay, hs0, State.cay_setCay_same], fun r hr => by rw [hcay, hs0, State.cay_setCay_other _ _ hr], ?_,
    fun k hk h1 h2 h3 => ?_⟩
  · rw [exec_shadowRecompute, execShadowRecompute, hsel]
    dsimp only
    rw [hb]
    exact when_pos (by rw [hfree]; rfl) _ _
  · exact hcompare.done.trans (s0.counted_bump c.island (by decide))
  · obtain ⟨hdone, hshown⟩ := not_or.1 (mt List.mem_cons.2 hk)
    rw [hcompare.regs k hshown h1 h2 h3]
    exact s0.reg_setFld_ne .shadowDone _ c.island 0 k hdone

/-- Settles O19: each event of a cay by the lemma that says what it does. -/
theorem cayEvents : Obligations.CayEvents :=
  ⟨fun _ _ _ _ hrun hw hne hbound hst hfirst => threadSwitchQuantum_switches hrun hw hne ⟨hbound, hst⟩ hfirst,
    fun _ _ _ _ _ _ _ _ _ hwait hbound hst hclean hspec => threadMissReturn_loads hwait hbound hst hclean hspec rfl,
    fun _ _ hclock hidle => cayClockGate_stops hclock hidle, fun _ _ hclock => cayUngate_starts hclock,
    fun _ _ _ _ hsel hb hfree => shadowRecompute_counts hsel hb hfree, fun _ _ _ hsel => shadowSelectExpiry_drops hsel⟩

end Sys2Proof.Machine
end

section
/-! PROOFS. The island caches: lines that arrive, prefetches, run-ahead fetches, and writes at the HBM controllers (R143 to R150, R502). -/
namespace Sys2Proof.Machine

/-! ### Tables in canonical form -/

/-- A table in canonical form, every value replaced by a function that keeps what an unlisted key reads as. -/
theorem Tbl.get_mapVals {α : Type} [DecidableEq α] {d : Nat → α} {f : Nat → α → α} (hf : ∀ k, f k (d k) = d k) {t : Tbl α} {b : Option Nat} (ht : Tbl.wfFrom d b t = true)
    (k : Nat) : Tbl.get d (Tbl.mapVals d f t) k = f k (Tbl.get d t k) := by
  have hunlisted : ∀ {t : Tbl α} {j : Nat}, Tbl.wfFrom d (some j) t = true → ∀ i, i ≤ j → Tbl.get d t i = d i := by
    intro t
    induction t with
    | nil => exact fun _ _ _ => rfl
    | cons e t ih =>
      intro j h i hi
      obtain ⟨hlt, -, ht⟩ := (Tbl.wfFrom_cons d _ _ _ _).1 h
      have hj := hlt j rfl
      rw [Tbl.get, if_neg (by omega), ih ht i (by omega)]
  induction t generalizing b with
  | nil => exact (hf k).symm
  | cons e t ih =>
    obtain ⟨j, v⟩ := e
    obtain ⟨-, -, ht⟩ := (Tbl.wfFrom_cons d _ _ _ _).1 ht
    have ih := ih ht
    unfold Tbl.mapVals at ih ⊢
    rw [List.map_cons, List.filter_cons, Tbl.get]
    by_cases hj : j = k
    · subst hj
      rw [if_pos rfl]
      split
      case isTrue => rw [Tbl.get, if_pos rfl]
      case isFalse hd =>
        rw [ih, hunlisted ht j le_rfl, hf]
        exact (by simpa using hd : f j v = d j).symm
    · rw [if_neg hj]
      split
      · rw [Tbl.get, if_neg hj, ih]
      · exact ih

/-- A state's table of cays is in canonical form. -/
def CanonicalCays (s : State) : Prop := Tbl.wf cayDef s.cays = true

theorem CanonicalCays.setCay {s : State} (h : CanonicalCays s) (c : CayRef) (y : Cay) : CanonicalCays (s.setCay c y) := Tbl.wf_set cayDef _ _ h

theorem CanonicalCays.foldl {α : Type} {f : State → α → State} (hf : ∀ t a, CanonicalCays t → CanonicalCays (f t a)) (l : List α) {s : State} (h : CanonicalCays s) :
    CanonicalCays (l.foldl f s) := List.foldlRecOn l f h fun t ht a _ => hf t a ht

/-- A cay that holds nothing has no thread to wake. -/
theorem Cay.wakeIf_reset (p : Nat → Wait → Bool) : Cay.reset.wakeIf p = Cay.reset := by
  have hunbound : ∀ t, (Cay.reset.thr t).bound = false := fun _ => rfl
  exact List.foldlRecOn (motive := fun y => y = Cay.reset) (List.range 8) _ rfl fun y hy t _ => by rw [hy, hunbound t, Bool.false_and, if_neg (by decide)]

/-- Threads woken on an island, of a table of cays in canonical form. -/
theorem State.cay_wakeIsland {s : State} (h : CanonicalCays s) (i : Nat) (p : Wait → Bool) (r : CayRef) :
    (s.wakeIsland i p).cay r = if cayKey r / 320 = i then (s.cay r).wakeIf (fun _ w => p w) else s.cay r :=
  Tbl.get_mapVals (d := cayDef) (f := fun (k : Nat) (c : Cay) => if k / 320 = i then c.wakeIf (fun _ w => p w) else c) (fun _ => by
    split
    · exact Cay.wakeIf_reset _
    · rfl) h (cayKey r)

theorem State.wakeIsland_ls {s : State} (h : CanonicalCays s) (i : Nat) (p : Wait → Bool) (r : CayRef) : ((s.wakeIsland i p).cay r).ls = (s.cay r).ls := by
  rw [State.cay_wakeIsland h]
  split
  · exact (Cay.Held.wakeIf _ _).ls
  · rfl

/-! ### Demand lines (R143, R147) -/

theorem State.cacheInstall_room {s : State} {i l : Nat} (hline : (s.ic i).lines.contains l = false)
    (hroom : ((s.ic i).lines.filter (fun x => icSetOf x == icSetOf l)).length + (s.ic i).shadowIn (icSetOf l) < 16) :
    s.cacheInstall i l = s.setIc i { s.ic i with lines := (s.ic i).lines ++ [l] } := by
  unfold State.cacheInstall
  dsimp only
  rw [hline, if_neg (by decide), if_pos hroom]

theorem State.handLine_ex (s : State) (i l : Nat) (bs : List (BitVec 8)) (ws : List (Nat × Nat)) : ∃ cs, s.handLine i l bs ws = { s with cays := cs } :=
  foldl_cays _ (fun _ _ => ⟨_, rfl⟩) ws s

theorem State.putThr_ls (s : State) (c : CayRef) (t : Nat) (th : Thread) (r : CayRef) : ((s.putThr c t th).cay r).ls = (s.cay r).ls := by
  rw [State.putThr, State.cay_setCay]
  split
  case isTrue h => rw [Cay.ls_setThr, State.cay_congr h]
  case isFalse => rfl

theorem State.handLine_ls (s : State) (i l : Nat) (bs : List (BitVec 8)) (ws : List (Nat × Nat)) (r : CayRef) : ((s.handLine i l bs ws).cay r).ls = (s.cay r).ls :=
  foldl_keeps (fun u : State => (u.cay r).ls) _ (fun u _ => u.putThr_ls _ _ _ r) ws s

theorem CanonicalCays.handLine {s : State} (h : CanonicalCays s) (i l : Nat) (bs : List (BitVec 8)) (ws : List (Nat × Nat)) : CanonicalCays (s.handLine i l bs ws) :=
  CanonicalCays.foldl (fun _ _ ht => ht.setCay _ _) ws h

/-- The line of a demand fetch is held by the island's cache; of a table of cays in canonical form, no local store changes. -/
theorem islandCacheFill_holds {s : State} {i l : Nat} {f : Fetch} (hcays : CanonicalCays s) (hf : (s.ic i).fetches.find? (fun f => f.line == l && f.demand) = some f)
    (hfresh : f.stale = false) (hline : (s.ic i).lines.contains l = false)
    (hroom : ((s.ic i).lines.filter (fun x => icSetOf x == icSetOf l)).length + (s.ic i).shadowIn (icSetOf l) < 16) :
    ∃ u, exec (.islandCacheFill i l) s = .next u ∧ u = { s with cays := u.cays, ics := u.ics } ∧
      u.ic i = { s.ic i with lines := (s.ic i).lines ++ [l], fetches := (s.ic i).fetches.filter (fun g => g.line != l) } ∧ (∀ j, j ≠ i → u.ic j = s.ic j) ∧
      (∀ r, (u.cay r).ls = (s.cay r).ls) := by
  set c : ICache := { s.ic i with fetches := (s.ic i).fetches.filter (fun g => g.line != l) } with hc
  have hic : (s.setIc i c).ic i = c := by rw [State.ic_setIc, if_pos rfl]
  have hinstall : (s.setIc i c).cacheInstall i l = (s.setIc i c).setIc i { c with lines := c.lines ++ [l] } := by
    rw [State.cacheInstall_room (by rw [hic]; exact hline) (by rw [hic]; exact hroom), hic]
  set s1 := (s.setIc i c).cacheInstall i l with hs1
  obtain ⟨cs, hcs⟩ := s1.handLine_ex i l (s.hbmBytes (l * 128) 128) f.waiters
  set s2 := s1.handLine i l (s.hbmBytes (l * 128) 128) f.waiters with hs2
  have hcays2 : CanonicalCays s2 := by
    rw [hs2, hinstall]
    exact CanonicalCays.handLine (s := (s.setIc i c).setIc i { c with lines := c.lines ++ [l] }) hcays _ _ _ _
  have hics : ∀ j, (s2.wakeIsland i (fun w => w == .missFull)).ic j = s1.ic j := fun j => by
    rw [show (s2.wakeIsland i (fun w => w == .missFull)).ic j = s2.ic j from rfl, hcs]
    rfl
  refine ⟨s2.wakeIsland i (fun w => w == .missFull), ?_, ?_, ?_, fun j hj => ?_, fun r => ?_⟩
  · rw [exec_islandCacheFill, execIslandCacheFill]
    dsimp only
    rw [hf]
    dsimp only
    rw [hfresh, if_neg (by decide), ← hc, ← hs1, ← hs2]
  · rw [State.wakeIsland, hcs, hinstall]
    rfl
  · rw [hics, hinstall, State.ic_setIc, if_pos rfl]
  · rw [hics, hinstall, State.ic_setIc, if_neg hj, State.ic_setIc, if_neg hj]
  · rw [State.wakeIsland_ls hcays2, hs2, State.handLine_ls, hinstall]
    rfl

/-- A demand fetch whose line was invalidated on its way is made again. -/
theorem islandCacheFill_refetches {s : State} {i l : Nat} {f : Fetch} (hf : (s.ic i).fetches.find? (fun f => f.line == l && f.demand) = some f) (hstale : f.stale = true) :
    ∃ u, exec (.islandCacheFill i l) s = .next u ∧ u = { s with ics := u.ics } ∧ (u.ic i).lines = (s.ic i).lines ∧
      (∀ g ∈ (u.ic i).fetches, g.line = l → g.stale = false) ∧ (u.ic i).fetches.length = (s.ic i).fetches.length := by
  refine ⟨_, by rw [exec_islandCacheFill, execIslandCacheFill]; dsimp only; rw [hf]; dsimp only; rw [if_pos hstale], rfl, ?_⟩
  rw [State.ic_setIc, if_pos rfl]
  refine ⟨rfl, fun g hg hl => ?_, List.length_map _⟩
  obtain ⟨x, -, rfl⟩ := List.mem_map.1 hg
  split at hl
  case isTrue h => rw [if_pos h]
  case isFalse h => exact absurd hl h

/-! ### Prefetches (R147) -/

theorem prefetchArrival_enters {s : State} {i l : Nat} {f : Fetch} (hf : (s.ic i).fetches.find? (fun f => f.line == l && !f.demand) = some f) :
    ∃ u, exec (.prefetchArrival i l) s = .next u ∧ u = { s with ics := u.ics, regs := u.regs, free := u.free } ∧ (u.ic i).lines = (s.ic i).lines ∧
      (u.ic i).fetches = (s.ic i).fetches.filter (fun g => g.line != l) ∧
      (f.stale = true → (u.ic i).buffer = (s.ic i).buffer ∧ Counted s u .icPfCancel i) ∧ (f.stale = false → l ∈ (u.ic i).buffer ∧ u.regs = s.regs) := by
  rw [exec_prefetchArrival, execPrefetchArrival]
  dsimp only
  rw [hf]
  dsimp only
  split_ifs with hstale hroom
  case pos =>
    refine ⟨_, rfl, rfl, ?_, ?_, fun _ => ⟨?_, (s.setIc i _).counted_bump i (by decide)⟩, fun h => absurd (hstale.symm.trans h) (by decide)⟩ <;>
      rw [show ∀ (u : State) (g : Fld), (u.bump g i).ic i = u.ic i from fun _ _ => rfl, State.ic_setIc, if_pos rfl]
  case pos =>
    refine ⟨_, rfl, rfl, ?_, ?_, fun h => absurd h hstale, fun _ => ⟨?_, rfl⟩⟩ <;> rw [State.ic_setIc, if_pos rfl]
    exact List.mem_append_right _ (List.mem_singleton.2 rfl)
  case neg =>
    refine ⟨_, rfl, rfl, ?_, ?_, fun h => absurd h hstale, fun _ => ⟨?_, rfl⟩⟩ <;> rw [State.ic_setIc, if_pos rfl]
    exact List.mem_append_right _ (List.mem_singleton.2 rfl)

/-! ### Run-ahead (R148 to R150) -/

theorem runAheadFetch_fetches {s : State} {i n k : Nat} {t : Tracker} {d : Int} (ht : (s.ic i).trackers[n]? = some t) (hd : t.stride = some d) (hen : s.fld .icCtlPfEn i ≠ 0)
    (hahead : ((t.next : Int) - t.latest) / d ≤ s.fld .icCtlRaDepth i) (hdest : (s.walk t.ctx t.next).dest = .hbm k) (hsuspect : (s.walk t.ctx t.next).suspect = false)
    (hpage : t.next + (s.walk t.ctx t.next).left = t.latest + (s.walk t.ctx t.latest).left ∨ (s.walk t.ctx t.next).pf = true)
    (hline : (s.ic i).lines.contains (lineOf k) = false) (hbuffer : (s.ic i).buffer.contains (lineOf k) = false)
    (hfetch : (s.ic i).fetches.any (fun f => f.line == lineOf k) = false) :
    ∃ u, exec (.runAheadFetch i n) s = .next u ∧ u = { s with ics := u.ics, regs := u.regs } ∧ (u.ic i).fetches = (s.ic i).fetches ++ [⟨lineOf k, false, false, []⟩] ∧
      (u.ic i).lines = (s.ic i).lines ∧ Counted s u .icPfIssued i ∧ OnlyRegs s u [Fld.key .icPfIssued i 0] := by
  have hmay : ((s.walk t.ctx t.next).suspect || (!(t.next + (s.walk t.ctx t.next).left == t.latest + (s.walk t.ctx t.latest).left) && !(s.walk t.ctx t.next).pf)) = false := by
    obtain h | h := hpage <;> simp [hsuspect, h]
  rw [exec_runAheadFetch, execRunAheadFetch]
  dsimp only
  rw [ht]
  dsimp only
  rw [hd]
  dsimp only
  rw [if_neg (not_or.2 ⟨hen, not_lt.2 hahead⟩), hdest]
  dsimp only
  rw [hmay, if_neg (by decide), hline, hbuffer, hfetch, if_neg (by decide)]
  refine ⟨_, rfl, rfl, ?_, ?_, State.counted_bump (State.setIc _ i _) i (by decide), State.setFld_onlyRegs (State.setIc _ i _) _ _ i 0⟩ <;>
    rw [show ∀ (u : State) (g : Fld), (u.bump g i).ic i = u.ic i from fun _ _ => rfl, State.ic_setIc, if_pos rfl, State.ic_setIc, if_pos rfl]

theorem runAheadFetch_halts {s : State} {i n cause : Nat} {t : Tracker} {d : Int} (ht : (s.ic i).trackers[n]? = some t) (hd : t.stride = some d) (hen : s.fld .icCtlPfEn i ≠ 0)
    (hahead : ((t.next : Int) - t.latest) / d ≤ s.fld .icCtlRaDepth i) (hdest : (s.walk t.ctx t.next).dest = .fault cause) :
    ∃ u, exec (.runAheadFetch i n) s = .next u ∧ u = { s with ics := u.ics, regs := u.regs } ∧ (u.ic i).trackers = setAt (s.ic i).trackers n t.halt ∧
      (u.ic i).fetches = (s.ic i).fetches ∧ Counted s u .icRaFault i ∧ OnlyRegs s u [Fld.key .icRaFault i 0] := by
  rw [exec_runAheadFetch, execRunAheadFetch]
  dsimp only
  rw [ht]
  dsimp only
  rw [hd]
  dsimp only
  rw [if_neg (not_or.2 ⟨hen, not_lt.2 hahead⟩), hdest]
  refine ⟨_, rfl, rfl, ?_, ?_, s.counted_bump i (by decide), s.setFld_onlyRegs _ _ i 0⟩ <;> rw [State.ic_setIc, if_pos rfl] <;> rfl

/-! ### Writes at the HBM controllers (R144, R145, R502) -/

/-- An island's cache holds no copy of a line. -/
def State.lacks (s : State) (i l : Nat) : Prop := l ∉ (s.ic i).lines ∧ l ∉ (s.ic i).buffer

theorem State.ic_bump (s : State) (f : Fld) (i n u j : Nat) : (s.bump f i n u).ic j = s.ic j := rfl

theorem State.ic_invalidateIn (s : State) (o : Option Nat) (l i j : Nat) : (s.invalidateIn o l i).ic j = if j = i then (s.ic i).invalidate (o == some i) l else s.ic j := by
  rw [← State.ic_setIc]
  unfold State.invalidateIn
  dsimp only
  split
  · rfl
  · exact State.ic_bump _ _ _ _ _ _

theorem State.lacks_invalidateIn {s : State} {i l : Nat} (h : s.lacks i l) (o : Option Nat) (m j : Nat) : (s.invalidateIn o m j).lacks i l := by
  rw [State.lacks, State.ic_invalidateIn]
  split
  case isTrue hi =>
    subst hi
    refine ⟨fun hm => h.1 ?_, fun hm => h.2 (List.mem_filter.1 hm).1⟩
    unfold ICache.invalidate at hm
    dsimp only at hm
    split at hm
    · exact hm
    · exact (List.mem_filter.1 hm).1
  case isFalse => exact h

theorem State.invalidateIn_lacks {o : Option Nat} {i : Nat} (ho : (o == some i) = false) (s : State) (l : Nat) : (s.invalidateIn o l i).lacks i l := by
  rw [State.lacks, State.ic_invalidateIn, if_pos rfl, ho]
  exact ⟨fun h => by simpa using (List.mem_filter.1 h).2, fun h => by simpa using (List.mem_filter.1 h).2⟩

theorem State.lacks_congr {s u : State} (h : u.ics = s.ics) {i l : Nat} (hs : s.lacks i l) : u.lacks i l := by rwa [State.lacks, State.ic, h]

theorem State.lacks_invalidateLine {s : State} {i l : Nat} (h : s.lacks i l) (o : Option Nat) (m : Nat) : (s.invalidateLine o m).lacks i l := by
  unfold State.invalidateLine
  exact List.foldlRecOn (motive := fun u : State => u.lacks i l) _ _ h fun _ hu _ _ => State.lacks_invalidateIn hu _ _ _

theorem State.invalidateLine_lacks {o : Option Nat} {i : Nat} (hi : i < 24) (ho : (o == some i) = false) (s : State) (l : Nat) : (s.invalidateLine o l).lacks i l := by
  unfold State.invalidateLine
  exact foldl_establishes (P := fun u : State => u.lacks i l) (f := fun u j => u.invalidateIn o l j) (fun _ _ hu => State.lacks_invalidateIn hu _ _ _) (List.mem_range.2 hi)
    (fun u => State.invalidateIn_lacks ho u l) s

/-- A write leaves no copy of its lines in another island's cache. -/
theorem State.hbmWrite_lacks {o : Option Nat} {i l k : Nat} {bs : List (BitVec 8)} (hi : i < 24) (ho : (o == some i) = false) (hl : l ∈ linesOf k bs.length) (s : State) :
    (s.hbmWrite o k bs).lacks i l := by
  have hne : bs.isEmpty = false := by
    cases bs with
    | nil => exact absurd hl (by simp [linesOf])
    | cons b bs => rfl
  have hlines : ((linesOf k bs.length).foldl (fun t m => t.invalidateLine o m) s).lacks i l :=
    foldl_establishes (P := fun u : State => u.lacks i l) (f := fun t m => t.invalidateLine o m) (fun _ _ hu => State.lacks_invalidateLine hu _ _) hl
      (fun u => State.invalidateLine_lacks hi ho u l) s
  unfold State.hbmWrite
  rw [hne, if_neg (by decide)]
  exact State.lacks_congr rfl hlines

theorem hbmWriteInvalidate_writes {s : State} {w a : Nat} {bs : List (BitVec 8)} (hfirst : hbmExists a = true) (hlast : hbmExists (a + bs.length - 1) = true)
    (hstack : stackOf a = stackOf (a + bs.length - 1)) :
    ∃ u, exec (.hbmWriteInvalidate w a bs) s = .next u ∧ u = { s with ics := u.ics, regs := u.regs, hbm := u.hbm, poison := u.poison } ∧
      (∀ x, u.hbm.read x = if a ≤ x ∧ x < a + bs.length then bs.getD (x - a) 0 else s.hbm.read x) ∧
      (∀ l ∈ linesOf a bs.length, ∀ i, i < 24 → i ≠ w → l ∉ (u.ic i).lines ∧ l ∉ (u.ic i).buffer) := by
  refine ⟨s.hbmWrite (if w < 24 then some w else none) a bs, ?_, s.hbmWrite_only _ a bs, s.read_hbmWrite _ a bs, fun l hl i hi hne => State.hbmWrite_lacks hi ?_ hl s⟩
  · rw [exec_hbmWriteInvalidate, execHbmWriteInvalidate, hfirst, hlast, hstack, beq_self_eq_true]
    exact if_neg (by simp)
  · split
    · exact beq_eq_false_iff_ne.2 fun h => hne (Option.some.inj h).symm
    · rfl

theorem hbmWriteInvalidate_absent {w a : Nat} {bs : List (BitVec 8)} (hbs : bs ≠ [])
    (habsent : hbmExists a = false ∨ hbmExists (a + bs.length - 1) = false ∨ stackOf a ≠ stackOf (a + bs.length - 1)) (s : State) :
    exec (.hbmWriteInvalidate w a bs) s = .fault .addressAbsent := by
  rw [exec_hbmWriteInvalidate, execHbmWriteInvalidate]
  refine if_pos ?_
  rw [List.isEmpty_eq_false_iff.2 hbs]
  obtain h | h | h := habsent <;> simp [h]

/-! ### A table of cays that lists a key twice -/

/-- A demand line on its way to island 0, in a table that lists cay 0 twice: as a cay that holds nothing, and behind it with a byte in its local store. -/
def fillAwaited : State :=
  { State.reset with
    cays := [(0, Cay.reset), (0, { Cay.reset with ls := [(0, 1)] })]
    ics := [(0, { ICache.reset with fetches := [⟨0, true, false, []⟩] })] }

/-- The fill drops the entry of the cay that holds nothing, and the one behind it shows. -/
theorem fillAwaited_fill : ∃ u, exec (.islandCacheFill 0 0) fillAwaited = .next u ∧ (u.cay ⟨0, 0⟩).ls = [(0, 1)] := ⟨_, rfl, by decide⟩

/-- Refutes O21, in its first clause: that no local store changes fails of a state whose table of cays is not in canonical form, which no operation on tables makes and the statement does
not exclude. Of canonical tables the clause holds (islandCacheFill_holds), and the other six hold of every state (islandCacheFill_refetches, prefetchArrival_enters,
runAheadFetch_fetches, runAheadFetch_halts, hbmWriteInvalidate_writes, hbmWriteInvalidate_absent). -/
theorem not_islandCaches : ¬ Obligations.IslandCaches := by
  intro h
  obtain ⟨u, hexec, -, -, -, hls⟩ := h.1 fillAwaited 0 0 ⟨0, true, false, []⟩ (by decide) rfl rfl (by decide)
  obtain ⟨v, hv, hstore⟩ := fillAwaited_fill
  obtain rfl : v = u := Host.Outcome.next.inj (hv.symm.trans hexec)
  exact absurd ((hls ⟨0, 0⟩).symm.trans hstore) (by decide)

end Sys2Proof.Machine
end

section
/-! PROOFS. Speculative tasks: what becomes of their shadowed lines, and requeues (R154 to R156). -/
namespace Sys2Proof.Machine

/-! ### Shadowed lines (R155, R156) -/

/-- A task has no shadowed line in an island. -/
def State.unshadowed (s : State) (i k : Nat) : Prop := ∀ x ∈ (s.ic i).shadow, x.task ≠ k

theorem State.unshadowed_congr {s u : State} {i k : Nat} (h : (u.ic i).shadow = (s.ic i).shadow) (hs : s.unshadowed i k) : u.unshadowed i k := by rwa [State.unshadowed, h]

theorem State.ic_shadowDrop (s : State) (i k j : Nat) :
    (s.shadowDrop i k).ic j = if j = i then { s.ic i with shadow := (s.ic i).shadow.filter (fun x => x.task != k) } else s.ic j := s.ic_setIc i j _

theorem State.shadowDrop_unshadowed (s : State) (i k : Nat) : (s.shadowDrop i k).unshadowed i k := by
  rw [State.unshadowed, State.ic_shadowDrop, if_pos rfl]
  exact fun x hx => by simpa using (List.mem_filter.1 hx).2

theorem State.unshadowed_shadowDrop {s : State} {i k : Nat} (h : s.unshadowed i k) (j : Nat) : (s.shadowDrop j k).unshadowed i k := by
  rw [State.unshadowed, State.ic_shadowDrop]
  split
  case isTrue hi => exact fun x hx => h x (hi ▸ (List.mem_filter.1 hx).1)
  case isFalse => exact h

theorem KeepsCays.shadowDrop (s : State) (i k : Nat) : KeepsCays s (s.shadowDrop i k) := ⟨rfl, rfl, rfl⟩

/-- A write at the HBM controllers leaves shadowed lines alone. -/
theorem State.hbmWrite_shadow (s : State) (o : Option Nat) (k : Nat) (bs : List (BitVec 8)) (j : Nat) : ((s.hbmWrite o k bs).ic j).shadow = (s.ic j).shadow := by
  have hline : ∀ (t : State) (l : Nat), ((t.invalidateLine o l).ic j).shadow = (t.ic j).shadow := fun t l => by
    unfold State.invalidateLine
    refine foldl_keeps (fun u : State => (u.ic j).shadow) (fun u i => u.invalidateIn o l i) (fun u i => ?_) _ t
    rw [State.ic_invalidateIn]
    split
    case isTrue h => rw [h]; rfl
    case isFalse => rfl
  unfold State.hbmWrite
  split
  · rfl
  · exact foldl_keeps (fun u : State => (u.ic j).shadow) (fun t l => t.invalidateLine o l) hline _ s

/-- The bytes of a shadowed line written through under its mask. -/
def State.writeThrough (i : Nat) (s : State) (x : ShadowLine) : State :=
  x.bytes.foldl (fun u e =>
    match e.2 with
    | some b => u.hbmWrite (some i) (x.line * 128 + e.1) [b]
    | none => u) s

/-- What a write-through leaves: cays, tasks and shadowed lines. -/
theorem State.writeThrough_keeps (i : Nat) (s : State) (x : ShadowLine) (j : Nat) :
    ((s.writeThrough i x).cays, (s.writeThrough i x).tasks, ((s.writeThrough i x).ic j).shadow) = (s.cays, s.tasks, (s.ic j).shadow) := by
  unfold State.writeThrough
  refine foldl_keeps (fun u : State => (u.cays, u.tasks, (u.ic j).shadow)) _ (fun u e => ?_) _ s
  split
  · rw [State.hbmWrite_cays, State.hbmWrite_tasks, State.hbmWrite_shadow]
  · rfl

theorem State.writeAllThrough_keeps (i j : Nat) (l : List ShadowLine) (s : State) :
    (l.foldl (State.writeThrough i) s).cays = s.cays ∧ (l.foldl (State.writeThrough i) s).tasks = s.tasks ∧ ((l.foldl (State.writeThrough i) s).ic j).shadow = (s.ic j).shadow := by
  simpa only [Prod.mk.injEq] using
    foldl_keeps (fun u : State => (u.cays, u.tasks, (u.ic j).shadow)) (State.writeThrough i) (fun u x => u.writeThrough_keeps i x j) l s

theorem State.shadowCommit_cays (s : State) (i k : Nat) : (s.shadowCommit i k).cays = s.cays := (State.writeAllThrough_keeps i i _ s).1

theorem State.shadowCommit_tasks (s : State) (i k : Nat) : (s.shadowCommit i k).tasks = s.tasks := (State.writeAllThrough_keeps i i _ s).2.1

theorem State.shadowCommit_unshadowed (s : State) (i k : Nat) : (s.shadowCommit i k).unshadowed i k := State.shadowDrop_unshadowed _ i k

theorem State.unshadowed_shadowCommit {s : State} {i k : Nat} (h : s.unshadowed i k) (j : Nat) : (s.shadowCommit j k).unshadowed i k :=
  State.unshadowed_shadowDrop (State.unshadowed_congr (State.writeAllThrough_keeps j i _ s).2.2 h) j

/-! ### SPECULATIVE_COMMIT and SPECULATIVE_DISCARD (R155, R156) -/

/-- A task's outcome is applied. -/
def State.markApplied (s : State) (k : Nat) : State := s.setTask k { s.task k with applied := true }

/-- What is left once a task's shadowed lines are gone and its outcome applied. -/
theorem State.markApplied_leaves {s v : State} {k : Nat} (htasks : v.tasks = s.tasks) (hcays : v.cays = s.cays) (hfree : ∀ i, i < 24 → v.unshadowed i k) :
    ((v.markApplied k).task k).applied = true ∧ (∀ j, j ≠ k → (v.markApplied k).task j = s.task j) ∧ (v.markApplied k).hbm = v.hbm ∧
      (∀ i, i < 24 → ∀ x ∈ ((v.markApplied k).ic i).shadow, x.task ≠ k) ∧ (v.markApplied k).cays = s.cays := by
  refine ⟨?_, fun j hj => ?_, rfl, fun i hi => State.unshadowed_congr rfl (hfree i hi), hcays⟩ <;> rw [State.markApplied, State.task_setTask]
  · rw [if_pos rfl]
  · rw [if_neg hj, State.task_congr htasks]

/-- The state with a task's shadowed lines written through on every island. -/
def State.commitAll (s : State) (k : Nat) : State := (List.range 24).foldl (fun u i => u.shadowCommit i k) s

/-- The state with a task's shadowed lines freed on every island. -/
def State.dropAll (s : State) (k : Nat) : State := (List.range 24).foldl (fun u i => u.shadowDrop i k) s

theorem State.commitAll_tasks (s : State) (k : Nat) : (s.commitAll k).tasks = s.tasks := foldl_keeps (fun u : State => u.tasks) _ (fun u i => u.shadowCommit_tasks i k) _ s

theorem State.commitAll_cays (s : State) (k : Nat) : (s.commitAll k).cays = s.cays := foldl_keeps (fun u : State => u.cays) _ (fun u i => u.shadowCommit_cays i k) _ s

theorem State.commitAll_unshadowed (s : State) (k : Nat) {i : Nat} (hi : i < 24) : (s.commitAll k).unshadowed i k :=
  foldl_establishes (P := fun u : State => u.unshadowed i k) (f := fun u i => u.shadowCommit i k) (fun _ j hu => State.unshadowed_shadowCommit hu j) (List.mem_range.2 hi)
    (fun u => u.shadowCommit_unshadowed i k) s

theorem KeepsCays.dropAll (s : State) (k : Nat) : KeepsCays s (s.dropAll k) := KeepsCays.foldl (fun u i => .shadowDrop u i k) _ s

theorem State.dropAll_unshadowed (s : State) (k : Nat) {i : Nat} (hi : i < 24) : (s.dropAll k).unshadowed i k :=
  foldl_establishes (P := fun u : State => u.unshadowed i k) (f := fun u i => u.shadowDrop i k) (fun _ j hu => State.unshadowed_shadowDrop hu j) (List.mem_range.2 hi)
    (fun u => u.shadowDrop_unshadowed i k) s

theorem State.settle_commit {s : State} {k : Nat} (hopen : (s.task k).applied = false) (hstatus : (s.task k).status = 0) (hsums : (s.task k).sums = [])
    (hchans : (s.task k).chans = []) : s.settle k true = (s.commitAll k).markApplied k := by
  rw [State.settle, hopen, if_neg (by decide), hstatus, if_pos (by decide), State.commitStats, hsums, hchans, List.foldl_nil, List.foldl_nil]
  rfl

theorem State.settle_discard {s : State} {k : Nat} (hopen : (s.task k).applied = false) : s.settle k false = (s.dropAll k).markApplied k := by
  rw [State.settle, hopen, if_neg (by decide), Bool.false_and, if_neg (by decide)]
  rfl

/-- The commit of an ended serving task without statistics. -/
theorem speculativeCommit_commits {s : State} {k n : Nat} (hspec : (s.task k).spec = true) (hst : (s.task k).st = .ended) (hstatus : (s.task k).status = 0)
    (hopen : (s.task k).applied = false) (horigin : (s.task k).origin = .serving n) (hsums : (s.task k).sums = []) (hchans : (s.task k).chans = []) :
    ∃ u, exec (.speculativeCommit k) s = .next u ∧ (u.task k).applied = true ∧ (∀ j, j ≠ k → u.task j = s.task j) ∧ u.hbm = (s.commitAll k).hbm ∧
      (∀ i, i < 24 → ∀ x ∈ (u.ic i).shadow, x.task ≠ k) ∧ u.cays = s.cays := by
  refine ⟨(s.commitAll k).markApplied k, ?_, State.markApplied_leaves (s.commitAll_tasks k) (s.commitAll_cays k) fun i hi => s.commitAll_unshadowed k hi⟩
  rw [exec_speculativeCommit, execSpeculativeCommit, if_neg (by simp [hspec, hst, hstatus, hopen]), horigin]
  rw [State.settle_commit hopen hstatus hsums hchans]

/-- The discard of an ended speculative task that failed. -/
theorem speculativeDiscard_discards {s : State} {k : Nat} (hspec : (s.task k).spec = true) (hst : (s.task k).st = .ended) (hopen : (s.task k).applied = false)
    (hstatus : (s.task k).status ≠ 0) :
    ∃ u, exec (.speculativeDiscard k) s = .next u ∧ (u.task k).applied = true ∧ (∀ j, j ≠ k → u.task j = s.task j) ∧ u.hbm = s.hbm ∧
      (∀ i, i < 24 → ∀ x ∈ (u.ic i).shadow, x.task ≠ k) ∧ u.cays = s.cays := by
  have hdrop := KeepsCays.dropAll s k
  obtain ⟨happlied, hothers, hhbm, hfree, hcays⟩ := State.markApplied_leaves hdrop.tasks hdrop.cays fun i hi => s.dropAll_unshadowed k hi
  refine ⟨(s.dropAll k).markApplied k, ?_, happlied, hothers, hhbm.trans hdrop.hbm, hfree, hcays⟩
  rw [exec_speculativeDiscard, execSpeculativeDiscard, when_pos (by simp [hspec, hst, hopen, hstatus]), State.settle_discard hopen]

/-! ### SPECULATIVE_REQUEUE (R154) -/

/-- The task admitted last among the holders is not the writer. -/
theorem State.lastHolder_ne {s : State} {i w v : Nat} (h : s.lastHolder i w = some v) : v ≠ w := by
  unfold State.lastHolder at h
  refine List.foldlRecOn (motive := fun m : Option Nat => ∀ v, m = some v → v ≠ w) _ _ (fun _ hv => absurd hv (by simp)) (fun m hm u hu v hv => ?_) v h
  have hne : u ≠ w := by simpa using (List.mem_filter.1 hu).2
  split at hv
  · exact Option.some.inj hv ▸ hne
  · split at hv
    · exact Option.some.inj hv ▸ hne
    · exact hm v hv

theorem Cay.release_ls (y : Cay) (k : Nat) : (y.release k).ls = y.ls := by
  unfold Cay.release
  exact foldl_keeps (fun x : Cay => x.ls) _ (fun x a => by split <;> rfl) _ y

theorem Cay.release_queues (y : Cay) (k : Nat) : (y.release k).queues = y.queues := by
  unfold Cay.release
  exact foldl_keeps (fun x : Cay => x.queues) _ (fun x a => by split <;> rfl) _ y

/-- A cay replaced by one with the same local store and nothing more in its queues. -/
theorem Spares.setCay_sub {P : CayRef → Prop} (u : State) {c : CayRef} {y : Cay} (hq : ∀ x i, i ∈ y.queue x → i ∈ (u.cay c).queue x) (hl : y.ls = (u.cay c).ls) :
    Spares P u (u.setCay c y) := by
  refine ⟨rfl, fun r _ => ?_, fun r x i hi => ?_⟩
  · rw [State.cay_setCay]
    split
    case isTrue hk => rw [hl, State.cay_congr hk]
    case isFalse => rfl
  · rw [State.cay_setCay] at hi
    split at hi
    case isTrue hk => rw [State.cay_congr hk]; exact hq x i hi
    case isFalse => exact hi

theorem Spares.vacant {s u : State} (h : Spares Anywhere s u) {c : CayRef} (hc : Vacant s c) : Vacant u c := fun e =>
  List.eq_nil_iff_forall_not_mem.2 fun i hi => absurd (hc e ▸ h.queue c e i hi) List.not_mem_nil

/-- A task taken off a cay. -/
def State.offCay (k : Nat) (s : State) (x : Nat) : State := s.setCay (cayOfKey x) (((s.cay (cayOfKey x)).dropTask k).release k)

/-- A task taken off every cay, its shadowed lines freed. -/
def State.unplaced (s : State) (k : Nat) : State := ((s.task k).live.foldl (State.offCay k) s).dropAll k

/-- A task made to run again from its inputs. -/
def Task.again (x : Task) : Task :=
  { x with bound := [], live := [], served := [], st := .waiting, status := 0, detail := 0, discard := false, invalid := false, sat := 0, execs := x.execs + 1, sums := [], chans := [] }

/-- A replay of a record's task is counted in its entry (R234). -/
def State.countReplay (s : State) (x : Task) : State :=
  match x.origin with
  | .record => s.modEntry x.ctx x.stream x.seq (fun e => { e with replays := e.replays + 1 })
  | _ => s

theorem KeepsCays.countReplay (s : State) (x : Task) : KeepsCays s (s.countReplay x) := by
  unfold State.countReplay
  split <;> exact ⟨rfl, rfl, rfl⟩

theorem State.countReplay_ics (s : State) (x : Task) : (s.countReplay x).ics = s.ics := by
  unfold State.countReplay
  split <;> rfl

/-- A requeue takes the task off, makes it run again, and counts a replay of its record. -/
theorem State.requeueTask_eq (s : State) (k : Nat) : s.requeueTask k = ((s.unplaced k).setTask k (s.task k).again).countReplay (s.task k) := by
  unfold State.requeueTask State.countReplay State.unplaced State.dropAll State.offCay Task.again
  rfl

theorem State.offCay_spares (k : Nat) (s : State) (x : Nat) : Spares Anywhere s (s.offCay k x) := by
  refine Spares.setCay_sub s (fun e i hi => ?_) ?_
  · rw [Cay.queue, Cay.release_queues] at hi
    exact Cay.dropTask_queue _ k e i hi
  · rw [Cay.release_ls, Cay.dropTask_ls]

theorem State.unplaced_spares (s : State) (k : Nat) : Spares Anywhere s (s.unplaced k) :=
  (Spares.foldl (State.offCay_spares k) _ s).to_of_cays (KeepsCays.dropAll _ k).hbm (KeepsCays.dropAll _ k).cays

theorem State.unplaced_tasks (s : State) (k : Nat) : (s.unplaced k).tasks = s.tasks :=
  (KeepsCays.dropAll _ k).tasks.trans (foldl_keeps (fun u : State => u.tasks) (State.offCay k) (fun u _ => State.setCay_tasks u _ _) _ s)

theorem CanonicalCays.unplaced {s : State} (h : CanonicalCays s) (k : Nat) : CanonicalCays (s.unplaced k) := by
  have hoff : CanonicalCays ((s.task k).live.foldl (State.offCay k) s) := CanonicalCays.foldl (fun _ _ ht => ht.setCay _ _) _ h
  rwa [CanonicalCays, State.unplaced, (KeepsCays.dropAll _ k).cays]

theorem Spares.wakeIsland {s : State} (h : CanonicalCays s) (i : Nat) (p : Wait → Bool) : Spares Anywhere s (s.wakeIsland i p) := by
  refine ⟨rfl, fun r _ => State.wakeIsland_ls h i p r, fun r x q hq => ?_⟩
  rw [State.cay_wakeIsland h] at hq
  split at hq
  · rwa [Cay.queue, Cay.wakeIf_queues] at hq
  · exact hq

theorem State.pumpAll_vacant {s : State} {l : List Nat} (h : ∀ x ∈ l, Vacant s (cayOfKey x)) : l.foldl (fun u x => u.pump (cayOfKey x)) s = s := by
  induction l with
  | nil => rfl
  | cons a l ih =>
    rw [List.foldl_cons, State.pump_vacant (h a List.mem_cons_self)]
    exact ih fun x hx => h x (List.mem_cons_of_mem a hx)

/-- The state in which a task has been requeued, counted, and the threads that wait for shadow space woken. -/
def State.requeued (s : State) (i k : Nat) : State := ((s.requeueTask k).bump .icSpecRequeue i).wakeIsland i (fun w => w == .shadow)

theorem State.requeued_ics (s : State) (i k : Nat) : (s.requeued i k).ics = (s.requeueTask k).ics := rfl

theorem State.requeued_tasks (s : State) (i k : Nat) : (s.requeued i k).tasks = (s.requeueTask k).tasks := rfl

theorem KeepsCays.requeueTask (s : State) (k : Nat) : KeepsCays ((s.unplaced k).setTask k (s.task k).again) (s.requeueTask k) := s.requeueTask_eq k ▸ .countReplay _ _

theorem State.requeueTask_ics (s : State) (k : Nat) : (s.requeueTask k).ics = (s.unplaced k).ics := by rw [s.requeueTask_eq k, State.countReplay_ics, State.setTask_ics]

theorem State.requeued_task (s : State) (i k j : Nat) : (s.requeued i k).task j = if j = k then (s.task k).again else s.task j := by
  rw [State.task_congr (s.requeued_tasks i k), (KeepsCays.requeueTask s k).task, State.task_setTask, State.task_congr (s.unplaced_tasks k)]

theorem State.requeued_unshadowed (s : State) (i k : Nat) {j : Nat} (hj : j < 24) : (s.requeued i k).unshadowed j k := by
  have hics : (s.requeued i k).ics = (s.unplaced k).ics := (s.requeued_ics i k).trans (s.requeueTask_ics k)
  exact State.unshadowed_congr (s := s.unplaced k) (by rw [State.ic, hics, State.ic]) (State.dropAll_unshadowed _ k hj)

theorem State.requeueTask_cays (s : State) (k : Nat) : (s.requeueTask k).cays = (s.unplaced k).cays := (KeepsCays.requeueTask s k).cays.trans (State.setTask_cays _ _ _)

theorem State.requeueTask_hbm (s : State) (k : Nat) : (s.requeueTask k).hbm = (s.unplaced k).hbm := (KeepsCays.requeueTask s k).hbm.trans (State.setTask_hbm _ _ _)

theorem State.requeued_spares {s : State} (h : CanonicalCays s) (i k : Nat) : Spares Anywhere s (s.requeued i k) := by
  have hcanon : CanonicalCays (s.requeueTask k) := by
    rw [CanonicalCays, State.requeueTask_cays]
    exact h.unplaced k
  have hrequeue : Spares Anywhere s (s.requeueTask k) := (s.unplaced_spares k).to_of_cays (s.requeueTask_hbm k) (s.requeueTask_cays k)
  exact (hrequeue.bump _ _ _ _).trans (.wakeIsland (s := (s.requeueTask k).bump .icSpecRequeue i) hcanon i _)

/-- A writer without shadow space takes the task admitted last off its cays, to run again from its inputs; so it is of a table of cays in canonical form. -/
theorem speculativeRequeue_requeues {s : State} {i w v : Nat} (hcanon : CanonicalCays s) (hlast : s.lastHolder i w = some v) (hspec : (s.task w).spec = true)
    (hwants : s.wantsShadow i w = true) (hvacant : ∀ k ∈ inIsland i (s.task w).live, Vacant s (cayOfKey k)) :
    ∃ u, exec (.speculativeRequeue i w) s = .next u ∧ u.hbm = s.hbm ∧ (u.task v).st = .waiting ∧ (u.task v).bound = [] ∧ (u.task v).live = [] ∧ (u.task v).status = 0 ∧
      (u.task v).execs = (s.task v).execs + 1 ∧ (∀ j, j ≠ v → u.task j = s.task j) ∧ (∀ j, j < 24 → ∀ x ∈ (u.ic j).shadow, x.task ≠ v) ∧ (∀ r, (u.cay r).ls = (s.cay r).ls) := by
  have hspares := s.requeued_spares hcanon i v
  have hagain : (s.requeued i v).task v = (s.task v).again := by rw [State.requeued_task, if_pos rfl]
  have hothers : ∀ j, j ≠ v → (s.requeued i v).task j = s.task j := fun j hj => by rw [State.requeued_task, if_neg hj]
  refine ⟨s.requeued i v, ?_, hspares.hbm, ?_, ?_, ?_, ?_, ?_, hothers, fun j hj => s.requeued_unshadowed i v hj, fun r => hspares.ls r trivial⟩
  · rw [exec_speculativeRequeue, execSpeculativeRequeue, hlast]
    dsimp only
    rw [hspec, hwants, if_neg (by decide), ← State.requeued, hothers w (State.lastHolder_ne hlast).symm, State.pumpAll_vacant fun x hx => hspares.vacant (hvacant x hx)]
  all_goals rw [hagain, Task.again]

/-! ### A table of cays that lists a key twice -/

/-- A writer that waits for shadow space on cay 0 of island 0 while task 2 holds a shadowed line, in a table that lists cay 1 twice: as a cay that holds nothing, and behind it with a byte
in its local store. -/
def shadowWaiting : State :=
  { State.reset with
    cays := [(0, { Cay.reset with threads := [(0, { Thread.reset with bound := true, task := 1, st := .blocked, wait := .shadow })] }), (1, Cay.reset),
      (1, { Cay.reset with ls := [(0, 1)] })]
    ics := [(0, { ICache.reset with shadow := [⟨2, 0, []⟩] })]
    tasks := [(1, { Task.reset with spec := true, st := .running, bound := [0], live := [0] }), (2, { Task.reset with spec := true, st := .running })] }

/-- The requeue drops the entry of the cay that holds nothing, and the one behind it shows. -/
theorem shadowWaiting_requeue : ∃ u, exec (.speculativeRequeue 0 1) shadowWaiting = .next u ∧ (u.cay ⟨0, 1⟩).ls = [(0, 1)] := ⟨_, rfl, by decide⟩

/-- Refutes O22, in its last clause: that no local store changes fails of a state whose table of cays is not in canonical form, which no operation on tables makes and the statement does
not exclude. Of canonical tables the clause holds (speculativeRequeue_requeues), and the other two hold of every state (speculativeCommit_commits, speculativeDiscard_discards). -/
theorem not_speculativeTasks : ¬ Obligations.SpeculativeTasks := by
  intro h
  have hlive : inIsland 0 (shadowWaiting.task 1).live = [0] := by decide
  have hvacant : ∀ k ∈ inIsland 0 (shadowWaiting.task 1).live, Vacant shadowWaiting (cayOfKey k) := fun k hk e => by
    rw [hlive, List.mem_singleton] at hk
    subst hk
    rfl
  obtain ⟨u, hexec, -, -, -, -, -, -, -, -, hls⟩ := h.2.2 shadowWaiting 0 1 2 (by decide) rfl (by decide) hvacant
  obtain ⟨v, hv, hstore⟩ := shadowWaiting_requeue
  obtain rfl : v = u := Host.Outcome.next.inj (hv.symm.trans hexec)
  exact absurd ((hls ⟨0, 1⟩).symm.trans hstore) (by decide)

end Sys2Proof.Machine
end

section
/-! PROOFS. Instruction words: the fields of each format packed into a word and read back from it, and the tables of encodings both ways (R168 to R170, R178 to R181, R192). -/
namespace Sys2Proof

/-! ### The parts of a word (R169) -/

/-- The word of a group, an opcode and the bits below them. -/
def wordOf (g o : Nat) (p : BitVec 54) : W64 := BitVec.ofNat 4 g ++ BitVec.ofNat 6 o ++ p

theorem wordBits_wordOf_group (g o : Nat) (p : BitVec 54) : wordBits (wordOf g o p) 60 4 = BitVec.ofNat 4 g := by
  rw [wordBits, wordOf, BitVec.extractLsb'_append_eq_of_le (by decide), BitVec.extractLsb'_append_eq_of_le (by decide), BitVec.extractLsb'_eq_self]

theorem wordBits_wordOf_opcode (g o : Nat) (p : BitVec 54) : wordBits (wordOf g o p) 54 6 = BitVec.ofNat 6 o := by
  rw [wordBits, wordOf, BitVec.extractLsb'_append_eq_of_le (by decide), BitVec.extractLsb'_append_eq_right]

theorem wordBits_wordOf_rest (g o : Nat) (p : BitVec 54) : wordBits (wordOf g o p) 0 54 = p := by
  rw [wordBits, wordOf, BitVec.extractLsb'_append_eq_right]

/-- Adjacent fields of a word are one field. -/
theorem wordBits_append (w : W64) {lo mid n m : Nat} (h : mid = lo + m) : wordBits w mid n ++ wordBits w lo m = wordBits w lo (n + m) :=
  BitVec.extractLsb'_append_extractLsb'_eq_extractLsb' h

theorem wordOf_wordBits (w : W64) : wordOf (wordBits w 60 4).toNat (wordBits w 54 6).toNat (wordBits w 0 54) = w := by
  rw [wordOf, BitVec.ofNat_toNat, BitVec.ofNat_toNat, BitVec.setWidth_eq, BitVec.setWidth_eq, wordBits_append w (by decide), wordBits_append w (by decide)]
  exact BitVec.extractLsb'_eq_self

/-! ### The formats (R170, R181, R192) -/

theorem append_eq_append_iff {n m : Nat} {x y : BitVec n} {z v : BitVec m} : x ++ z = y ++ v ↔ x = y ∧ z = v := by
  refine ⟨fun h => ?_, fun ⟨hx, hz⟩ => by rw [hx, hz]⟩
  have hz : z = v := by rw [← BitVec.extractLsb'_append_eq_right (a := x) (b := z), h, BitVec.extractLsb'_append_eq_right]
  exact ⟨(BitVec.append_left_inj z).1 (by rw [h, hz]), hz⟩

/-- A format takes up the bits below group and opcode, each in one field. -/
structure Packs {F : Type} (pack : F → BitVec 54) (ofWord : W64 → F) : Prop where
  inj : Function.Injective pack
  pack_ofWord : ∀ w, pack (ofWord w) = wordBits w 0 54

theorem Packs.ofWord_wordOf {F : Type} {pack : F → BitVec 54} {ofWord : W64 → F} (h : Packs pack ofWord) (g o : Nat) (f : F) : ofWord (wordOf g o (pack f)) = f :=
  h.inj ((h.pack_ofWord _).trans (wordBits_wordOf_rest g o _))

theorem SFields.packs : Packs SFields.pack SFields.ofWord where
  inj f g h := by
    cases f; cases g
    unfold pack at h
    repeat rw [append_eq_append_iff] at h
    simpa [and_assoc] using h
  pack_ofWord w := by unfold pack ofWord; dsimp only; repeat rw [wordBits_append w (by decide)]

theorem IFields.packs : Packs IFields.pack IFields.ofWord where
  inj f g h := by
    cases f; cases g
    unfold pack at h
    repeat rw [append_eq_append_iff] at h
    simpa [and_assoc] using h
  pack_ofWord w := by unfold pack ofWord; dsimp only; repeat rw [wordBits_append w (by decide)]

theorem BFields.packs : Packs BFields.pack BFields.ofWord where
  inj f g h := by
    cases f; cases g
    unfold pack at h
    repeat rw [append_eq_append_iff] at h
    simpa [and_assoc] using h
  pack_ofWord w := by unfold pack ofWord; dsimp only; repeat rw [wordBits_append w (by decide)]

theorem CFields.packs : Packs CFields.pack CFields.ofWord where
  inj f g h := by
    cases f; cases g
    unfold pack at h
    repeat rw [append_eq_append_iff] at h
    simpa [and_assoc] using h
  pack_ofWord w := by unfold pack ofWord; dsimp only; repeat rw [wordBits_append w (by decide)]

theorem VFields.packs : Packs VFields.pack VFields.ofWord where
  inj f g h := by
    cases f; cases g
    unfold pack at h
    repeat rw [append_eq_append_iff] at h
    simpa [and_assoc] using h
  pack_ofWord w := by unfold pack ofWord; dsimp only; repeat rw [wordBits_append w (by decide)]

theorem McfgFields.packs : Packs McfgFields.pack McfgFields.ofWord where
  inj f g h := by
    cases f; cases g
    unfold pack at h
    repeat rw [append_eq_append_iff] at h
    simpa [and_assoc] using h
  pack_ofWord w := by unfold pack ofWord; dsimp only; repeat rw [wordBits_append w (by decide)]

theorem MldsFields.packs : Packs MldsFields.pack MldsFields.ofWord where
  inj f g h := by
    cases f; cases g
    unfold pack at h
    repeat rw [append_eq_append_iff] at h
    simpa [and_assoc] using h
  pack_ofWord w := by unfold pack ofWord; dsimp only; repeat rw [wordBits_append w (by decide)]

theorem MissFields.packs : Packs MissFields.pack MissFields.ofWord where
  inj f g h := by
    cases f; cases g
    unfold pack at h
    repeat rw [append_eq_append_iff] at h
    simpa [and_assoc] using h
  pack_ofWord w := by unfold pack ofWord; dsimp only; repeat rw [wordBits_append w (by decide)]

theorem MseqFields.packs : Packs MseqFields.pack MseqFields.ofWord where
  inj f g h := by
    cases f; cases g
    unfold pack at h
    repeat rw [append_eq_append_iff] at h
    simpa [and_assoc] using h
  pack_ofWord w := by unfold pack ofWord; dsimp only; repeat rw [wordBits_append w (by decide)]

theorem MfinFields.packs : Packs MfinFields.pack MfinFields.ofWord where
  inj f g h := by
    cases f; cases g
    unfold pack at h
    repeat rw [append_eq_append_iff] at h
    simpa [and_assoc] using h
  pack_ofWord w := by unfold pack ofWord; dsimp only; repeat rw [wordBits_append w (by decide)]

theorem MdrnFields.packs : Packs MdrnFields.pack MdrnFields.ofWord where
  inj f g h := by
    cases f; cases g
    unfold pack at h
    repeat rw [append_eq_append_iff] at h
    simpa [and_assoc] using h
  pack_ofWord w := by unfold pack ofWord; dsimp only; repeat rw [wordBits_append w (by decide)]


/-! ### The tables (R169, R178 to R181, R192) -/

theorem Instr.cayWord_eq (i : Instr) : i.cayWord = i.cayWordParts.map fun x => wordOf x.1 x.2.1 x.2.2 := by
  unfold Instr.cayWord
  cases i.cayWordParts <;> rfl

/-- The word of every row of the tables spells that row. -/
theorem cayInstr_of_parts {i : Instr} {g o : Nat} {p : BitVec 54} (h : i.cayWordParts = some (g, o, p)) : ∃ c gap, cayInstr c gap (wordOf g o p) = some i := by
  cases i <;> simp only [Instr.cayWordParts, Option.some.injEq, Prod.mk.injEq, reduceCtorEq] at h <;> obtain ⟨rfl, rfl, rfl⟩ := h
  case miss c f gap =>
    refine ⟨c, gap, ?_⟩
    rw [cayInstr, wordBits_wordOf_group, wordBits_wordOf_opcode]
    conv_lhs => whnf
    rw [MissFields.packs.ofWord_wordOf]
  all_goals
    refine ⟨‹CayRef›, 0, ?_⟩
    rw [cayInstr, wordBits_wordOf_group, wordBits_wordOf_opcode]
    conv_lhs => whnf
    simp only [SFields.packs.ofWord_wordOf, IFields.packs.ofWord_wordOf, BFields.packs.ofWord_wordOf, CFields.packs.ofWord_wordOf, VFields.packs.ofWord_wordOf,
      McfgFields.packs.ofWord_wordOf, MldsFields.packs.ofWord_wordOf, MseqFields.packs.ofWord_wordOf, MfinFields.packs.ofWord_wordOf, MdrnFields.packs.ofWord_wordOf]

/-- The row that a word spells has that word. -/
theorem parts_of_cayInstr {c : CayRef} {gap : Nat} {w : W64} {i : Instr} (h : cayInstr c gap w = some i) :
    i.cayWordParts = some ((wordBits w 60 4).toNat, (wordBits w 54 6).toNat, wordBits w 0 54) := by
  unfold cayInstr at h
  split at h <;> cases h
  all_goals
    simp only [*, Instr.cayWordParts, SFields.packs.pack_ofWord, IFields.packs.pack_ofWord, BFields.packs.pack_ofWord, CFields.packs.pack_ofWord, VFields.packs.pack_ofWord,
      McfgFields.packs.pack_ofWord, MldsFields.packs.pack_ofWord, MissFields.packs.pack_ofWord, MseqFields.packs.pack_ofWord, MfinFields.packs.pack_ofWord, MdrnFields.packs.pack_ofWord]

theorem cayInstr_cayWord {i : Instr} {w : W64} (h : i.cayWord = some w) : ∃ c gap, cayInstr c gap w = some i := by
  rw [i.cayWord_eq, Option.map_eq_some_iff] at h
  obtain ⟨⟨g, o, p⟩, hparts, rfl⟩ := h
  exact cayInstr_of_parts hparts

theorem cayWord_cayInstr {c : CayRef} {gap : Nat} {w : W64} {i : Instr} (h : cayInstr c gap w = some i) : i.cayWord = some w := by
  rw [i.cayWord_eq, parts_of_cayInstr h]
  exact congrArg some (wordOf_wordBits w)

/-- Settles O6: every row of the tables, each way, over formats whose fields take up every bit below the opcode. -/
theorem instructionWords : Obligations.InstructionWords :=
  ⟨fun _ _ h => cayInstr_cayWord h, fun _ _ _ _ h => cayWord_cayInstr h⟩

end Sys2Proof
end

section
/-! PROOFS. Scalar arithmetic, special registers, branches and jumps: what they make of the issuing thread (R170 to R172, R174, R178). -/
namespace Sys2Proof.Machine

/-! ### The issuing thread goes on -/

/-- A thread that goes on with another pc and other registers changes nothing but itself. -/
theorem OnlyThread.putThr (s : State) (c : CayRef) (t p : Nat) (g : Tbl W64) : OnlyThread s (s.putThr c t { (s.cay c).thr t with pc := p, regs := g }) c t := by
  have hcay : (s.putThr c t { (s.cay c).thr t with pc := p, regs := g }).cay c = (s.cay c).setThr t { (s.cay c).thr t with pc := p, regs := g } := s.cay_setCay_same c _
  refine ⟨rfl, fun r hr => s.cay_setCay_other _ hr, ?_, fun i hi => ?_, ?_⟩ <;> rw [hcay]
  · rfl
  · rw [Cay.thr_setThr, if_neg hi]
  · rw [Cay.thr_setThr, if_pos rfl]

theorem State.thr_putThr (s : State) (c : CayRef) (t : Nat) (w : Thread) : ((s.putThr c t w).cay c).thr t = w := by
  rw [State.putThr, State.cay_setCay_same, Cay.thr_setThr, if_pos rfl]

/-- Thread `t` has written `v` to register `d` and gone on at `p`, and nothing else has changed; a write of s0 is discarded (R172). -/
structure WroteReg (s u : State) (c : CayRef) (t p : Nat) (d : BitVec 5) (v : W64) : Prop where
  pc : ((u.cay c).thr t).pc = p
  reg : ∀ x, ((u.cay c).thr t).reg x = if x = d ∧ x ≠ 0 then v else ((s.cay c).thr t).reg x
  only : OnlyThread s u c t

theorem WroteReg.putThr (s : State) (c : CayRef) (t p : Nat) (d : BitVec 5) (v : W64) :
    WroteReg s (s.putThr c t { ((s.cay c).thr t).setReg d v with pc := p }) c t p d v := by
  refine ⟨by rw [State.thr_putThr], fun x => ?_, ?_⟩
  · rw [State.thr_putThr, Thread.reg_pc, Thread.reg_setReg]
    exact if_congr (and_congr_right fun h => by rw [h]) rfl rfl
  · rw [Thread.setReg_only]
    exact OnlyThread.putThr s c t p _

/-- Thread `t` has gone on at `p` with its registers as they were, and nothing else has changed. -/
structure WentTo (s u : State) (c : CayRef) (t p : Nat) : Prop where
  pc : ((u.cay c).thr t).pc = p
  reg : ∀ x, ((u.cay c).thr t).reg x = ((s.cay c).thr t).reg x
  only : OnlyThread s u c t

theorem WentTo.putThr (s : State) (c : CayRef) (t p : Nat) : WentTo s (s.putThr c t { (s.cay c).thr t with pc := p }) c t p :=
  ⟨by rw [State.thr_putThr], fun x => by rw [State.thr_putThr, Thread.reg_pc], OnlyThread.putThr s c t p _⟩

/-! ### Scalar arithmetic (R178) -/

section Arithmetic
variable {s : State} {c : CayRef} {t : Nat}

theorem aluS_writes {f : SFields} (h : Issues s c t) (hs : Settled s c t [f.d, f.a, f.b]) (hr : f.rsv = 0) (op : W64 → W64 → W64) :
    ∃ u, aluS c f s op = .next u ∧ WroteReg s u c t (((s.cay c).thr t).pc + 8) f.d (op (((s.cay c).thr t).reg f.a) (((s.cay c).thr t).reg f.b)) := by
  refine ⟨_, ?_, WroteReg.putThr s c t _ f.d _⟩
  rw [aluS, beq_iff_eq.2 hr, issueRegs_running h.1 h.2 hs, Thread.next, Thread.setReg_pc]

theorem aluI_writes {f : IFields} (h : Issues s c t) (hs : Settled s c t [f.d, f.a]) (hr : f.rsv = 0) (op : W64 → W64 → W64) :
    ∃ u, aluI c f s op = .next u ∧ WroteReg s u c t (((s.cay c).thr t).pc + 8) f.d (op (((s.cay c).thr t).reg f.a) (f.imm.signExtend 64)) := by
  refine ⟨_, ?_, WroteReg.putThr s c t _ f.d _⟩
  rw [aluI, beq_iff_eq.2 hr, issueRegs_running h.1 h.2 hs, Thread.next, Thread.setReg_pc]

end Arithmetic

theorem toNat_signExtend_mod (i : BitVec 32) : (i.signExtend 64).toNat % 2 ^ 32 = i.toNat := by
  have hi := i.isLt
  rw [BitVec.toNat_signExtend, BitVec.toNat_setWidth, Nat.mod_eq_of_lt (show i.toNat < 2 ^ 64 by omega)]
  split <;> omega

theorem shiftOf_signExtend (i : BitVec 32) : shiftOf (i.signExtend 64) = i.toNat % 64 := by
  have := toNat_signExtend_mod i
  rw [shiftOf]
  omega

/-- The immediate over the low half of a register. -/
theorem signExtend_shift_add (a : W64) (i : BitVec 32) : (i.signExtend 64 <<< 32) + (a &&& 0xFFFFFFFF) = BitVec.ofNat 64 (i.toNat * 2 ^ 32 + a.toNat % 2 ^ 32) := by
  have hi := toNat_signExtend_mod i
  have ha : (a &&& 0xFFFFFFFF).toNat = a.toNat % 2 ^ 32 := by
    rw [BitVec.toNat_and]
    exact Nat.and_two_pow_sub_one_eq_mod a.toNat 32
  apply BitVec.eq_of_toNat_eq
  rw [BitVec.toNat_add, ha, BitVec.toNat_shiftLeft, BitVec.toNat_ofNat, Nat.shiftLeft_eq]
  omega

/-! ### Special registers (R174) -/

theorem srd_writes {s : State} {c : CayRef} {t : Nat} {f : IFields} (h : Issues s c t) (hs : Settled s c t [f.d]) (hr : f.rsv = 0) (h9 : f.imm.toNat % 256 ≠ 9) :
    ∃ u, exec (.srd c f) s = .next u ∧
      WroteReg s u c t (((s.cay c).thr t).pc + 8) f.d (BitVec.ofNat 64 (special s c t ((s.cay c).thr t) (f.imm.toNat % 256))) := by
  refine ⟨_, ?_, WroteReg.putThr s c t _ f.d _⟩
  rw [exec_srd, execSrd, beq_iff_eq.2 hr, issueRegs_running h.1 h.2 hs]
  dsimp only
  rw [if_neg h9, Thread.next, Thread.setReg_pc]

theorem special_of_gt {s : State} {c : CayRef} {t i : Nat} {th : Thread} (h : 11 < i) : special s c t th i = 0 := by
  unfold special
  dsimp only
  split <;> omega

/-- Settles O7: each instruction writes one register, with its own operation. -/
theorem scalarInstructions : Obligations.ScalarInstructions := by
  refine ⟨?formatS, ?formatI, ?special⟩
  case formatS =>
    intro mk op hmem s c t f h hs hr
    have hrow : exec (mk c f) s = aluS c f s op := by
      simp only [List.mem_cons, Prod.mk.injEq, List.not_mem_nil, or_false] at hmem
      obtain ⟨rfl, rfl⟩ | ⟨rfl, rfl⟩ | ⟨rfl, rfl⟩ | ⟨rfl, rfl⟩ | ⟨rfl, rfl⟩ | ⟨rfl, rfl⟩ | ⟨rfl, rfl⟩ | ⟨rfl, rfl⟩ | ⟨rfl, rfl⟩ | ⟨rfl, rfl⟩ | ⟨rfl, rfl⟩ := hmem
      · exact exec_add c f s
      · exact exec_sub c f s
      · exact exec_and c f s
      · exact exec_or c f s
      · exact exec_xor c f s
      · exact exec_shl c f s
      · exact exec_shr c f s
      · exact exec_sar c f s
      · exact exec_mul c f s
      · simp only [exec_slt, execSlt, BitVec.slt, decide_eq_true_eq]
      · simp only [exec_sltu, execSltu, BitVec.ult, decide_eq_true_eq]
    obtain ⟨u, hu, hw⟩ := aluS_writes h hs hr op
    exact ⟨u, hrow.trans hu, hw.pc, hw.reg, hw.only⟩
  case formatI =>
    intro mk op hmem s c t f h hs hr
    have hrow : ∃ g, exec (mk c f) s = aluI c f s g ∧ ∀ a, g a (f.imm.signExtend 64) = op a f.imm := by
      simp only [List.mem_cons, Prod.mk.injEq, List.not_mem_nil, or_false] at hmem
      obtain ⟨rfl, rfl⟩ | ⟨rfl, rfl⟩ | ⟨rfl, rfl⟩ | ⟨rfl, rfl⟩ | ⟨rfl, rfl⟩ | ⟨rfl, rfl⟩ := hmem
      · exact ⟨_, exec_addi c f s, fun _ => rfl⟩
      · exact ⟨_, exec_andi c f s, fun _ => rfl⟩
      · exact ⟨_, exec_ori c f s, fun _ => rfl⟩
      · exact ⟨_, exec_shli c f s, fun a => by rw [shiftOf_signExtend]⟩
      · exact ⟨_, exec_shri c f s, fun a => by rw [shiftOf_signExtend]⟩
      · exact ⟨_, exec_lih c f s, fun a => signExtend_shift_add a f.imm⟩
    obtain ⟨g, hexec, hg⟩ := hrow
    obtain ⟨u, hu, hw⟩ := aluI_writes h hs hr g
    exact ⟨u, hexec.trans hu, hw.pc, hg _ ▸ hw.reg, hw.only⟩
  case special =>
    intro s c t f h hs hr h9
    obtain ⟨u, hu, hw⟩ := srd_writes h hs hr h9
    refine ⟨u, _, hu, hw.pc, hw.reg, hw.only, ?_, ?_, ?_, ?_, ?_, ?_, ?_, ?_, special_of_gt⟩ <;> intro hi <;> rw [hi] <;> rfl

/-! ### Branches and jumps (R170, R171, R178) -/

theorem BitVec.toInt_mod_eight {x : BitVec 32} (h : x.toNat % 8 = 0) : x.toInt % 8 = 0 := by
  rw [BitVec.toInt_eq_toNat_cond]
  split <;> omega

/-- A target of `len` bytes of code that a jump can go to. -/
structure InCode (len : Nat) (target : Int) : Prop where
  nonneg : 0 ≤ target
  lt : target < len
  aligned : target % 8 = 0

theorem InCode.toNat_cast {len : Nat} {target : Int} (h : InCode len target) : (target.toNat : Int) = target := Int.toNat_of_nonneg h.nonneg

theorem jumpTo_goes {s : State} {c : CayRef} {th : Thread} {target : Int} (t : Nat) (h : InCode ((s.cay c).taskInfo th.task).codeLen target) :
    jumpTo s c t th target = s.putThr c t { th with pc := target.toNat } :=
  if_neg (by simp [h.nonneg, h.lt, h.aligned])

section Jumps
variable {s : State} {c : CayRef} {t : Nat}

/-- A branch that is taken. -/
theorem branch_taken {f : BFields} {p : W64 → W64 → Bool} (h : Issues s c t) (hs : Settled s c t [f.a, f.b]) (hr : f.rsv = 0) (hoff : f.off.toNat % 8 = 0)
    (hp : p (((s.cay c).thr t).reg f.a) (((s.cay c).thr t).reg f.b) = true)
    (hin : InCode ((s.cay c).taskInfo ((s.cay c).thr t).task).codeLen (((s.cay c).thr t).pc + f.off.toInt)) :
    ∃ u, branch c f s p = .next u ∧ WentTo s u c t ((((s.cay c).thr t).pc : Int) + f.off.toInt).toNat := by
  refine ⟨_, ?_, WentTo.putThr s c t _⟩
  rw [branch, beq_iff_eq.2 hr, issueRegs_running h.1 h.2 hs, if_neg (not_not.2 hoff), if_pos hp, jumpTo_goes t hin]

/-- A branch that falls through. -/
theorem branch_falls {f : BFields} {p : W64 → W64 → Bool} (h : Issues s c t) (hs : Settled s c t [f.a, f.b]) (hr : f.rsv = 0) (hoff : f.off.toNat % 8 = 0)
    (hp : p (((s.cay c).thr t).reg f.a) (((s.cay c).thr t).reg f.b) = false) : ∃ u, branch c f s p = .next u ∧ WentTo s u c t (((s.cay c).thr t).pc + 8) := by
  refine ⟨_, ?_, WentTo.putThr s c t _⟩
  rw [branch, beq_iff_eq.2 hr, issueRegs_running h.1 h.2 hs, if_neg (not_not.2 hoff), if_neg (by rw [hp]; decide), Thread.next]

theorem jal_jumps {f : IFields} (h : Issues s c t) (hs : Settled s c t [f.d]) (hr : f.rsv = 0) (himm : f.imm.toNat % 8 = 0)
    (hin : InCode ((s.cay c).taskInfo ((s.cay c).thr t).task).codeLen (((s.cay c).thr t).pc + f.imm.toInt)) :
    ∃ u, exec (.jal c f) s = .next u ∧ WroteReg s u c t ((((s.cay c).thr t).pc : Int) + f.imm.toInt).toNat f.d (BitVec.ofNat 64 (((s.cay c).thr t).pc + 8)) := by
  refine ⟨_, ?_, WroteReg.putThr s c t _ f.d _⟩
  rw [exec_jal, execJal, beq_iff_eq.2 hr, issueRegs_running h.1 h.2 hs, if_neg (not_not.2 himm), jumpTo_goes t (by rwa [Thread.setReg_task])]

theorem jr_jumps {f : SFields} (h : Issues s c t) (hs : Settled s c t [f.a]) (hr : f.rsv = 0)
    (hin : InCode ((s.cay c).taskInfo ((s.cay c).thr t).task).codeLen (((s.cay c).thr t).reg f.a).toNat) :
    ∃ u, exec (.jr c f) s = .next u ∧ WentTo s u c t (((s.cay c).thr t).reg f.a).toNat := by
  refine ⟨_, ?_, WentTo.putThr s c t _⟩
  rw [exec_jr, execJr, beq_iff_eq.2 hr, issueRegs_running h.1 h.2 hs, jumpTo_goes t hin, Int.toNat_natCast]

end Jumps

/-- Settles O10: a branch by its relation, taken or not, and the two jumps. -/
theorem controlFlow : Obligations.ControlFlow := by
  refine ⟨?branches, ?jal, ?jr⟩
  case branches =>
    intro mk p hmem s c t f h hs hr hoff hpc hin
    have hrow : ∃ q : W64 → W64 → Bool, exec (mk c f) s = branch c f s q ∧ ∀ a b, q a b = true ↔ p a b := by
      simp only [List.mem_cons, Prod.mk.injEq, List.not_mem_nil, or_false] at hmem
      obtain ⟨rfl, rfl⟩ | ⟨rfl, rfl⟩ | ⟨rfl, rfl⟩ | ⟨rfl, rfl⟩ | ⟨rfl, rfl⟩ | ⟨rfl, rfl⟩ := hmem
      · exact ⟨_, exec_beq c f s, fun a b => beq_iff_eq⟩
      · exact ⟨_, exec_bne c f s, fun a b => bne_iff_ne⟩
      · exact ⟨_, exec_blt c f s, fun a b => by simp [BitVec.slt]⟩
      · exact ⟨_, exec_bge c f s, fun a b => by simp [BitVec.slt]⟩
      · exact ⟨_, exec_bltu c f s, fun a b => by simp [BitVec.ult]⟩
      · exact ⟨_, exec_bgeu c f s, fun a b => by simp [BitVec.ult]⟩
    obtain ⟨q, hexec, hq⟩ := hrow
    by_cases hp : p (((s.cay c).thr t).reg f.a) (((s.cay c).thr t).reg f.b)
    · obtain ⟨hlo, hhi⟩ := hin hp
      have hcode : InCode _ _ := ⟨hlo, hhi, by have := BitVec.toInt_mod_eight hoff; omega⟩
      obtain ⟨u, hu, hw⟩ := branch_taken h hs hr hoff ((hq _ _).2 hp) hcode
      exact ⟨u, hexec.trans hu, fun _ => by rw [hw.pc, hcode.toNat_cast], fun hn => absurd hp hn, hw.reg, hw.only⟩
    · obtain ⟨u, hu, hw⟩ := branch_falls h hs hr hoff (Bool.eq_false_iff.2 (mt (hq _ _).1 hp))
      exact ⟨u, hexec.trans hu, fun hy => absurd hy hp, fun _ => hw.pc, hw.reg, hw.only⟩
  case jal =>
    intro s c t f h hs hr himm hpc hlo hhi
    have hcode : InCode _ _ := ⟨hlo, hhi, by have := BitVec.toInt_mod_eight himm; omega⟩
    obtain ⟨u, hu, hw⟩ := jal_jumps h hs hr himm hcode
    exact ⟨u, hu, by rw [hw.pc, hcode.toNat_cast], hw.reg, hw.only⟩
  case jr =>
    intro s c t f h hs hr h8 hlt
    obtain ⟨u, hu, hw⟩ := jr_jumps h hs hr ⟨by omega, by omega, by omega⟩
    exact ⟨u, hu, hw.pc, hw.reg, hw.only⟩

end Sys2Proof.Machine
end

section
/-! PROOFS. Loads and stores of scalar registers: the local store, and device virtual memory that lies in HBM (R143 to R145, R153, R173, R178, R503). -/
namespace Sys2Proof.Machine

/-! ### The local store (R131, R135, R173) -/

/-- An aligned address inside the local store, outside the reserved shadow region where it is written. -/
theorem State.lsScalar_of_inside {s : State} {isl v a n : Nat} {imm : Int} {wr : Bool} (hbits : bits v 23 22 = 0) (ha : (a : Int) = (bits v 21 0 : Nat) + imm) (hal : a % n = 0)
    (htop : a + n ≤ 2 ^ 22) (hshadow : wr = true → s.shadowOn isl = true → a + n ≤ 0x3FE000) : s.lsScalar isl v imm n wr = some a := by
  have hok : s.lsOk isl a n wr = true := by
    rw [State.lsOk, Bool.and_eq_true, Bool.not_eq_true', Bool.and_eq_false_imp, Bool.and_eq_true]
    exact ⟨decide_eq_true htop, fun ⟨hwr, hon⟩ => decide_eq_false (not_lt.2 (hshadow hwr hon))⟩
  unfold State.lsScalar
  dsimp only
  rw [← ha, Int.toNat_natCast, if_neg (by simp [hbits, hal, hok])]

section LocalStore
variable {s : State} {c : CayRef} {t n a : Nat} {f : IFields}

theorem loadLs_reads (h : Issues s c t) (hs : Settled s c t [f.d, f.a]) (hr : f.rsv = 0) (ha : s.lsScalar c.island (((s.cay c).thr t).reg f.a).toNat f.imm.toInt n false = some a)
    (hpend : (s.cay c).pendingRange (s.cay c).issue a n = false) :
    ∃ u, loadLs c f s n = .next u ∧ WroteReg s u c t (((s.cay c).thr t).pc + 8) f.d (BitVec.ofNat 64 (leNat (Memory.readN (s.cay c).ls a n))) := by
  refine ⟨_, ?_, WroteReg.putThr s c t _ f.d _⟩
  rw [loadLs, beq_iff_eq.2 hr, issueRegs_running h.1 h.2 hs, ha]
  dsimp only
  rw [hpend, if_neg (by decide), Thread.next, Thread.setReg_pc]
  rfl

theorem storeLs_writes (h : Issues s c t) (hs : Settled s c t [f.d, f.a]) (hr : f.rsv = 0) (ha : s.lsScalar c.island (((s.cay c).thr t).reg f.a).toNat f.imm.toInt n true = some a)
    (hpend : (s.cay c).pendingRange (s.cay c).issue a n = false) (hcount : (s.cay c).pendingCount < 32) :
    storeLs c f s n = .next (s.setCay c (((s.cay c).lsWrite a (leBytes n (((s.cay c).thr t).reg f.d).toNat)).setThr t ((s.cay c).thr t).next)) := by
  rw [storeLs, beq_iff_eq.2 hr, issueRegs_running h.1 h.2 hs, ha]
  dsimp only
  rw [hpend, if_neg (by simpa using hcount)]

end LocalStore

/-- Settles O8: a load reads into one register, and a store writes its bytes in place. -/
theorem localAccess : Obligations.LocalAccess := by
  refine ⟨?loads, ?stores⟩
  case loads =>
    intro mk n hmem s c t f a h hs hr hbits ha hal htop hpend
    have hrow : exec (mk c f) s = loadLs c f s n := by
      simp only [List.mem_cons, Prod.mk.injEq, List.not_mem_nil, or_false] at hmem
      obtain ⟨rfl, rfl⟩ | ⟨rfl, rfl⟩ | ⟨rfl, rfl⟩ | ⟨rfl, rfl⟩ := hmem
      · exact exec_ld8 c f s
      · exact exec_ld16 c f s
      · exact exec_ld32 c f s
      · exact exec_ld64 c f s
    obtain ⟨u, hu, hw⟩ := loadLs_reads h hs hr (State.lsScalar_of_inside hbits ha hal htop (fun hwr => absurd hwr (by decide))) hpend
    exact ⟨u, hrow.trans hu, hw.pc, hw.reg, hw.only⟩
  case stores =>
    intro mk n hmem s c t f a h hs hr hbits ha hal htop hshadow hpend hcount
    have hrow : exec (mk c f) s = storeLs c f s n := by
      simp only [List.mem_cons, Prod.mk.injEq, List.not_mem_nil, or_false] at hmem
      obtain ⟨rfl, rfl⟩ | ⟨rfl, rfl⟩ | ⟨rfl, rfl⟩ := hmem
      · exact exec_st16 c f s
      · exact exec_st32 c f s
      · exact exec_st64 c f s
    refine ⟨_, hrow.trans (storeLs_writes h hs hr (State.lsScalar_of_inside hbits ha hal htop fun _ => hshadow) hpend hcount), rfl, fun r hr => s.cay_setCay_other _ hr, ?_⟩
    rw [State.cay_setCay_same]
    refine ⟨?_, fun i hi => ?_, rfl, fun x => Memory.read_writeN_le _ _ _ _ _⟩
    · rw [Cay.thr_setThr, if_pos rfl]
      rfl
    · rw [Cay.thr_setThr, if_neg hi, Cay.thr_lsWrite]

/-! ### Device virtual memory in HBM (R143 to R145, R503) -/

/-- What a load leaves when its line is in the island cache: cays, tasks and HBM as they were, and what poison it would meet at `k`. -/
structure Fetched (s u : State) (k n : Nat) : Prop where
  keeps : KeepsCays s u
  poisoned : u.poisoned k n = s.poisoned k n

theorem State.poisoned_congr {s u : State} {k : Nat} (hlost : u.stackLost (stackOf k) = s.stackLost (stackOf k)) (hp : u.poison = s.poison) (n : Nat) :
    u.poisoned k n = s.poisoned k n := by
  rw [State.poisoned, State.poisoned, hlost, hp]

namespace Fetched
variable {s u v : State} {k n : Nat}

theorem trans (h : Fetched s u k n) (g : Fetched u v k n) : Fetched s v k n := ⟨h.keeps.trans g.keeps, g.poisoned.trans h.poisoned⟩

theorem setIc (s : State) (i : Nat) (y : ICache) : Fetched s (s.setIc i y) k n := ⟨⟨rfl, rfl, rfl⟩, rfl⟩

theorem track (s : State) (r : CayRef) (t x a : Nat) (m : Bool) : Fetched s (s.track r t x a m) k n := by
  rw [State.track_only]
  exact ⟨⟨rfl, rfl, rfl⟩, rfl⟩

theorem useTier (s : State) (x a : Nat) : Fetched s (s.useTier x a) k n := by
  rw [State.useTier_only]
  exact ⟨⟨rfl, rfl, rfl⟩, rfl⟩

/-- The hits of an island are counted in its cache's own page. -/
theorem countHit (s : State) {i : Nat} (hi : i < 24) (hk : stackOf k < 24) : Fetched s (s.bump64 .icHitLo .icHitHi i) k n := by
  have hlost : (s.bump64 .icHitLo .icHitHi i).stackLost (stackOf k) = s.stackLost (stackOf k) := by
    unfold State.stackLost State.fld
    rw [State.reg_bump64_ne] <;> simp only [Fld.key, rkey, Fld.memStatStack, Fld.icHitLo, Fld.icHitHi] <;> omega
  exact ⟨⟨rfl, rfl, rfl⟩, State.poisoned_congr hlost rfl n⟩

theorem lookup (s : State) {i l : Nat} (hi : i < 24) (hk : stackOf k < 24) (hl : (s.ic i).lines.contains l = true) : Fetched s (s.lookup i l).1 k n := by
  unfold State.lookup
  dsimp only
  rw [if_pos hl]
  exact countHit s hi hk

end Fetched

theorem State.planLoad_hbm {s : State} {task dva n k tag : Nat} (hal : dva % n = 0) (hplace : s.place task dva false = .hbm k) :
    s.planLoad task n [(0, dva)] tag ⟨[], [], []⟩ = .ok ⟨[⟨0, .hbm k, dva⟩], [lineOf k], []⟩ := by
  simp [State.planLoad, hal, hplace]

/-- A load of one HBM element whose line the island cache holds is delivered at once. -/
theorem State.load_hit {s : State} {c : CayRef} {t task n k dva : Nat} (mk : List GElem → MissOp) (hal : dva % n = 0) (hplace : s.place task dva false = .hbm k) (hok : cayOk c = true)
    (hstack : stackOf k < 24) (hline : (s.ic c.island).lines.contains (lineOf k) = true) :
    ∃ u, Fetched s u k n ∧ s.load c t task n [(0, dva)] mk = u.deliver c t task [] (mk [⟨0, .hbm k, dva⟩]) := by
  have hisl : c.island < 24 := by simp only [cayOk, Bool.and_eq_true, decide_eq_true_eq] at hok; exact hok.1
  have hhit : (s.lookup c.island (lineOf k)).2 = true := s.lookup_hit _ _ hline
  refine ⟨?_, ?fetched, ?delivered⟩
  case delivered =>
    unfold State.load
    rw [State.planLoad_hbm hal hplace]
    simp only [List.filter_cons, List.filter_nil, hline, Bool.not_true, Bool.false_and, Bool.false_eq_true, if_false, ne_eq, not_true_eq_false, false_and, State.lookupAll, hhit, if_true,
      List.foldl_cons, List.foldl_nil, and_self]
    rfl
  exact (((Fetched.lookup s hisl hstack hline).trans (.track _ _ _ _ _ _)).trans (.setIc _ _ _)).trans (.useTier _ _ _)

theorem State.elemBytes_of_hbm {s : State} {x : Nat} (hspec : (s.task x).spec = false) (isl n l k dva : Nat) : s.elemBytes isl x [] n ⟨l, .hbm k, dva⟩ = s.hbmBytes k n := by
  simp [State.elemBytes, State.taskBytes, State.taskByte, hspec, State.hbmBytes, Memory.readN]

theorem State.deliver_ldg {s : State} {c : CayRef} {t x n k dva : Nat} {d : BitVec 5} (hclean : s.poisoned k n = false) (hspec : (s.task x).spec = false) :
    s.deliver c t x [] (.ldg d n ⟨0, .hbm k, dva⟩) = s.putThr c t (((s.cay c).thr t).loaded d (s.hbmBytes k n)) := by
  simp only [State.deliver, hclean, Bool.false_eq_true, if_false, State.elemBytes_of_hbm hspec, Thread.loaded]

/-- LDG32 and LDG64 of an address that translates to HBM and whose line the island cache holds. -/
theorem loadDv_reads {s : State} {c : CayRef} {t n k : Nat} {f : IFields} (hal : dvAddr ((s.cay c).thr t) f % n = 0) (hspec : (s.task ((s.cay c).thr t).task).spec = false)
    (hplace : s.place ((s.cay c).thr t).task (dvAddr ((s.cay c).thr t) f) false = .hbm k) (hok : cayOk c = true) (hstack : stackOf k < 24)
    (hline : (s.ic c.island).lines.contains (lineOf k) = true) (hclean : s.poisoned k n = false) :
    ∃ u, KeepsCays s u ∧ loadDv s c f n t ((s.cay c).thr t) = u.putThr c t (((s.cay c).thr t).loaded f.d (s.hbmBytes k n)) := by
  obtain ⟨u, hu, hload⟩ := State.load_hit (t := t) (fun es => MissOp.ldg f.d n (es.headD ⟨0, .hbm 0, 0⟩)) hal hplace hok hstack hline
  have hbytes : u.hbmBytes k n = s.hbmBytes k n := by rw [State.hbmBytes, hu.keeps.hbm, State.hbmBytes]
  refine ⟨u, hu.keeps, hload.trans ?_⟩
  rw [List.headD_cons, State.deliver_ldg (hu.poisoned.trans hclean) (by rw [hu.keeps.task]; exact hspec), hu.keeps.cay, hbytes]

/-- STG32 and STG64 of an ordinary task to an address that translates to HBM. -/
theorem storeDv_writes {s : State} {c : CayRef} {t n k : Nat} {f : IFields} (hn : 0 < n) (hal : dvAddr ((s.cay c).thr t) f % n = 0)
    (hspec : (s.task ((s.cay c).thr t).task).spec = false) (hplace : s.place ((s.cay c).thr t).task (dvAddr ((s.cay c).thr t) f) true = .hbm k) :
    storeDv s c f n t ((s.cay c).thr t) =
      ((s.useTier (s.task ((s.cay c).thr t).task).ctx (dvAddr ((s.cay c).thr t) f)).hbmWrite (some c.island) k (leBytes n (((s.cay c).thr t).reg f.d).toNat)).putThr c t
        ((s.cay c).thr t).next := by
  unfold storeDv State.storeElem
  rw [leBytes_length, if_neg (by rw [Nat.max_eq_right hn, hal]; decide), hplace]
  simp only [hspec, Bool.not_false, if_true]

/-- A 32-bit access that translates to HBM reaches no aperture page. -/
theorem State.apertureAt_of_hbm {s : State} {th : Thread} {f : IFields} {wr : Bool} {k : Nat} (h : s.place th.task (dvAddr th f) wr = .hbm k) : s.apertureAt th f wr = none := by
  unfold State.apertureAt
  dsimp only
  rw [h, ite_self]

/-- Settles O9: an access to HBM, of either size, leaves all but what it is for. -/
theorem deviceAccess : Obligations.DeviceAccess := by
  refine ⟨?loads, ?stores⟩
  case loads =>
    intro mk n hmem s c t f k h hs hr hal hspec hplace hok hstack hline hclean
    have hrow : exec (mk c f) s = .next (loadDv s c f n t ((s.cay c).thr t)) := by
      simp only [List.mem_cons, Prod.mk.injEq, List.not_mem_nil, or_false] at hmem
      obtain ⟨rfl, rfl⟩ | ⟨rfl, rfl⟩ := hmem
      · rw [exec_ldg32, execLdg32, beq_iff_eq.2 hr, issueRegs_running h.1 h.2 hs, State.apertureAt_of_hbm hplace]
      · rw [exec_ldg64, execLdg64, beq_iff_eq.2 hr, issueRegs_running h.1 h.2 hs]
    obtain ⟨u, hu, hload⟩ := loadDv_reads hal hspec hplace hok hstack hline hclean
    refine ⟨_, hrow.trans (congrArg _ hload), ?_, fun x => ?_, fun a => congrArg (·.read a) hu.hbm, hu.tasks, fun i hi => ?_, ?_⟩
    · rw [State.thr_putThr, Thread.loaded_pc]
    · rw [State.thr_putThr, Thread.loaded_reg]
    · rw [State.putThr, State.cay_setCay_same, Cay.thr_setThr, if_neg hi, hu.cay]
    · rw [State.putThr_ls, hu.cay]
  case stores =>
    intro mk n hmem s c t f k h hs hr hal hspec hplace
    have hrow : 0 < n ∧ exec (mk c f) s = .next (storeDv s c f n t ((s.cay c).thr t)) := by
      simp only [List.mem_cons, Prod.mk.injEq, List.not_mem_nil, or_false] at hmem
      obtain ⟨rfl, rfl⟩ | ⟨rfl, rfl⟩ := hmem
      · rw [exec_stg32, execStg32, beq_iff_eq.2 hr, issueRegs_running h.1 h.2 hs, State.apertureAt_of_hbm hplace]
        exact ⟨by decide, rfl⟩
      · rw [exec_stg64, execStg64, beq_iff_eq.2 hr, issueRegs_running h.1 h.2 hs]
        exact ⟨by decide, rfl⟩
    set v := (s.useTier (s.task ((s.cay c).thr t).task).ctx (dvAddr ((s.cay c).thr t) f)).hbmWrite (some c.island) k (leBytes n (((s.cay c).thr t).reg f.d).toNat) with hv
    have hcays : v.cays = s.cays := (State.hbmWrite_cays _ _ _ _).trans (KeepsCays.useTier s _ _).cays
    have htasks : v.tasks = s.tasks := (State.hbmWrite_tasks _ _ _ _).trans (KeepsCays.useTier s _ _).tasks
    have hhbm : v.hbm = s.hbm.writeN k (leBytes n (((s.cay c).thr t).reg f.d).toNat) := by rw [hv, State.hbmWrite_hbm, (KeepsCays.useTier s _ _).hbm]
    refine ⟨_, hrow.2.trans (congrArg _ (storeDv_writes hrow.1 hal hspec hplace)), State.thr_putThr _ _ _ _, fun a => ?_, htasks, fun i hi => ?_, ?_⟩
    · exact (congrArg (·.read a) hhbm).trans (Memory.read_writeN_le _ _ _ _ _)
    · rw [State.putThr, State.cay_setCay_same, Cay.thr_setThr, if_neg hi, State.cay_eq_of_cays hcays]
    · rw [State.putThr_ls, State.cay_eq_of_cays hcays]

end Sys2Proof.Machine
end

section
/-! PROOFS. Instructions with a reserved field that is not zero (R171). -/
namespace Sys2Proof.Machine

/-- What issues as an instruction of a cay whose reserved field is to be zero. -/
def Guarded (s : State) (c : CayRef) (z : Bool) (o : Out) : Prop := ∃ g, o = issue c z s g

/-- Where the field is not zero the task ends. -/
theorem Guarded.ends {s : State} {c : CayRef} {t : Nat} {o : Out} (hg : Guarded s c false o) (h : Issues s c t) (hu : Unfinished s ((s.cay c).thr t).task) :
    ∃ u, o = .next u ∧ EndedWith s u ((s.cay c).thr t).task St.illegal c.cay := by
  obtain ⟨g, rfl⟩ := hg
  exact ⟨_, issue_reserved h.1 h.2 g, State.failTask_ends hu _ _⟩

namespace Guarded
variable (s : State) (c : CayRef)

theorem issue (z : Bool) (g : Nat → Thread → State) : Guarded s c z (issue c z s g) := ⟨g, rfl⟩

theorem issueRegs (z : Bool) (rs : List (BitVec 5)) (g : Nat → Thread → State) : Guarded s c z (issueRegs c z rs s g) := ⟨_, rfl⟩

theorem aluS (f : SFields) (op : W64 → W64 → W64) : Guarded s c (f.rsv == 0) (aluS c f s op) := issueRegs _ _ _ _ _

theorem aluI (f : IFields) (op : W64 → W64 → W64) : Guarded s c (f.rsv == 0) (aluI c f s op) := issueRegs _ _ _ _ _

theorem loadLs (f : IFields) (n : Nat) : Guarded s c (f.rsv == 0) (loadLs c f s n) := issueRegs _ _ _ _ _

theorem storeLs (f : IFields) (n : Nat) : Guarded s c (f.rsv == 0) (storeLs c f s n) := issueRegs _ _ _ _ _

theorem branch (f : BFields) (p : W64 → W64 → Bool) : Guarded s c (f.rsv == 0) (branch c f s p) := issueRegs _ _ _ _ _

theorem vecIssue (f : VFields) (op : VOp) : Guarded s c (f.rsv == 0) (vecIssue c f s op) := issueRegs _ _ _ _ _

theorem formatS (f : SFields) : ∀ i ∈ [Instr.add c f, .sub c f, .and c f, .or c f, .xor c f, .shl c f, .shr c f, .sar c f, .mul c f, .slt c f, .sltu c f, .jr c f, .tyld c f, .tbar c f, .tend c f,
    .tdsc c f], Guarded s c (f.rsv == 0) (exec i s) := by
  simp only [List.forall_mem_cons]
  exact ⟨exec_add c f s ▸ aluS s c f _, exec_sub c f s ▸ aluS s c f _, exec_and c f s ▸ aluS s c f _, exec_or c f s ▸ aluS s c f _,
    exec_xor c f s ▸ aluS s c f _, exec_shl c f s ▸ aluS s c f _, exec_shr c f s ▸ aluS s c f _, exec_sar c f s ▸ aluS s c f _,
    exec_mul c f s ▸ aluS s c f _, exec_slt c f s ▸ aluS s c f _, exec_sltu c f s ▸ aluS s c f _, exec_jr c f s ▸ issueRegs _ _ _ _ _,
    exec_tyld c f s ▸ issue _ _ _ _, exec_tbar c f s ▸ issue _ _ _ _, exec_tend c f s ▸ issue _ _ _ _, exec_tdsc c f s ▸ issue _ _ _ _,
    fun _ hi => absurd hi List.not_mem_nil⟩

theorem formatI (f : IFields) : ∀ i ∈ [Instr.addi c f, .andi c f, .ori c f, .shli c f, .shri c f, .lih c f, .srd c f, .jal c f, .ld8 c f, .ld16 c f, .ld32 c f, .ld64 c f, .st16 c f, .st32 c f, .st64 c f,
    .ldg32 c f, .ldg64 c f, .stg32 c f, .stg64 c f, .nwait c f, .tfail c f], Guarded s c (f.rsv == 0) (exec i s) := by
  simp only [List.forall_mem_cons]
  exact ⟨exec_addi c f s ▸ aluI s c f _, exec_andi c f s ▸ aluI s c f _, exec_ori c f s ▸ aluI s c f _, exec_shli c f s ▸ aluI s c f _,
    exec_shri c f s ▸ aluI s c f _, exec_lih c f s ▸ aluI s c f _, exec_srd c f s ▸ issueRegs _ _ _ _ _, exec_jal c f s ▸ issueRegs _ _ _ _ _,
    exec_ld8 c f s ▸ loadLs s c f _, exec_ld16 c f s ▸ loadLs s c f _, exec_ld32 c f s ▸ loadLs s c f _, exec_ld64 c f s ▸ loadLs s c f _,
    exec_st16 c f s ▸ storeLs s c f _, exec_st32 c f s ▸ storeLs s c f _, exec_st64 c f s ▸ storeLs s c f _, exec_ldg32 c f s ▸ issueRegs _ _ _ _ _,
    exec_ldg64 c f s ▸ issueRegs _ _ _ _ _, exec_stg32 c f s ▸ issueRegs _ _ _ _ _, exec_stg64 c f s ▸ issueRegs _ _ _ _ _,
    exec_nwait c f s ▸ issueRegs _ _ _ _ _, exec_tfail c f s ▸ issue _ _ _ _, fun _ hi => absurd hi List.not_mem_nil⟩

theorem formatB (f : BFields) : ∀ i ∈ [Instr.beq c f, .bne c f, .blt c f, .bge c f, .bltu c f, .bgeu c f], Guarded s c (f.rsv == 0) (exec i s) := by
  simp only [List.forall_mem_cons]
  exact ⟨exec_beq c f s ▸ branch s c f _, exec_bne c f s ▸ branch s c f _, exec_blt c f s ▸ branch s c f _, exec_bge c f s ▸ branch s c f _,
    exec_bltu c f s ▸ branch s c f _, exec_bgeu c f s ▸ branch s c f _, fun _ hi => absurd hi List.not_mem_nil⟩

theorem formatV (f : VFields) : ∀ i ∈ [Instr.vadd c f, .vsub c f, .vmul c f, .vfma c f, .vmin c f, .vmax c f, .vabs c f, .vneg c f, .vscl c f, .vcmplt c f, .vcmpeq c f, .vsel c f, .vmov c f, .vexp2 c f, .vlog2 c f,
    .vrcp c f, .vrsqrt c f, .vsqrt c f, .vcvt c f, .vrsum c f, .vrmax c f, .vldg c f, .vstg c f], Guarded s c (f.rsv == 0) (exec i s) := by
  simp only [List.forall_mem_cons]
  exact ⟨exec_vadd c f s ▸ vecIssue s c f _, exec_vsub c f s ▸ vecIssue s c f _, exec_vmul c f s ▸ vecIssue s c f _, exec_vfma c f s ▸ vecIssue s c f _,
    exec_vmin c f s ▸ vecIssue s c f _, exec_vmax c f s ▸ vecIssue s c f _, exec_vabs c f s ▸ vecIssue s c f _, exec_vneg c f s ▸ vecIssue s c f _,
    exec_vscl c f s ▸ vecIssue s c f _, exec_vcmplt c f s ▸ vecIssue s c f _, exec_vcmpeq c f s ▸ vecIssue s c f _, exec_vsel c f s ▸ vecIssue s c f _,
    exec_vmov c f s ▸ vecIssue s c f _, exec_vexp2 c f s ▸ vecIssue s c f _, exec_vlog2 c f s ▸ vecIssue s c f _, exec_vrcp c f s ▸ vecIssue s c f _,
    exec_vrsqrt c f s ▸ vecIssue s c f _, exec_vsqrt c f s ▸ vecIssue s c f _, exec_vcvt c f s ▸ vecIssue s c f _, exec_vrsum c f s ▸ vecIssue s c f _,
    exec_vrmax c f s ▸ vecIssue s c f _, exec_vldg c f s ▸ issueRegs _ _ _ _ _, exec_vstg c f s ▸ vecIssue s c f _, fun _ hi => absurd hi List.not_mem_nil⟩

end Guarded

/-- Settles O14: every instruction issues under its reserved field, and issue ends the task where that is not zero. -/
theorem reservedFieldIllegal : Obligations.ReservedFieldIllegal := by
  intro i c z hform hz s t h hu
  have hguard : Guarded s c z (exec i s) := by
    obtain ⟨f, rfl, hi⟩ | ⟨f, rfl, hi⟩ | ⟨f, rfl, hi⟩ | ⟨f, rfl, hi⟩ | ⟨f, rfl, rfl⟩ | ⟨f, rfl, rfl⟩ | ⟨f, gap, rfl, rfl⟩ | ⟨f, rfl, rfl⟩ | ⟨f, rfl, rfl⟩ | ⟨f, rfl, rfl⟩ := hform
    · exact .formatS s c f i hi
    · exact .formatI s c f i hi
    · exact .formatB s c f i hi
    · exact .formatV s c f i hi
    · exact exec_mcfg c f s ▸ .issue _ _ _ _
    · exact exec_mlds c f s ▸ .issueRegs _ _ _ _ _
    · exact exec_miss c f gap s ▸ .issueRegs _ _ _ _ _
    · exact exec_mseq c f s ▸ .issueRegs _ _ _ _ _
    · exact exec_mfin c f s ▸ .issue _ _ _ _
    · exact exec_mdrn c f s ▸ .issueRegs _ _ _ _ _
  rw [hz] at hguard
  exact hguard.ends h hu

end Sys2Proof.Machine
end

section
/-! PROOFS. Threads that yield, meet at barriers, wait for notifications and end, and tasks that fail (R127 to R129, R178, R179). -/
namespace Sys2Proof.Machine

/-! ### TYLD (R128, R178) -/

theorem Cay.running_setThr {y : Cay} {t : Nat} {w : Thread} (h : y.running = some t) (hb : w.bound = (y.thr t).bound) (hst : w.st = (y.thr t).st) : (y.setThr t w).running = some t := by
  refine (Cay.running_congr (x := y) (y := y.setThr t w) rfl fun i => ?_).trans h
  rw [Cay.thr_setThr]
  split
  case isTrue hi => rw [hi, hb, hst]
  case isFalse => rfl

/-- A cay whose running thread has stopped runs none. -/
theorem Cay.running_setThr_stopped {y : Cay} {t : Nat} {w : Thread} (h : y.running = some t) (hst : w.st ≠ .running) : (y.setThr t w).running = none := by
  obtain ⟨hlast, -, -, -⟩ := Cay.running_spec h
  rw [Option.eq_none_iff_forall_ne_some]
  intro v hv
  obtain ⟨hv, -, -, hrun⟩ := Cay.running_spec hv
  rw [← hv, show (y.setThr t w).lastRun = t from hlast, Cay.thr_setThr, if_pos rfl] at hrun
  exact hst hrun

/-- A running thread that gives way while no other is ready runs again. -/
theorem Cay.switch_self {y : Cay} {t : Nat} (hrun : y.running = some t)
    (hnone : ∀ i, i < 7 → ¬ ((y.thr ((t + 1 + i) % 8)).bound = true ∧ (y.thr ((t + 1 + i) % 8)).st = .ready)) :
    y.switch t = { (y.setThr t { y.thr t with st := .ready }).setThr t { y.thr t with st := .running } with lastRun := t } := by
  obtain ⟨hlast, ht, hbound, -⟩ := Cay.running_spec hrun
  set z := y.setThr t { y.thr t with st := .ready } with hz
  have hzlast : z.lastRun = t := hlast
  have hzt : z.thr t = { y.thr t with st := .ready } := by rw [hz, Cay.thr_setThr, if_pos rfl]
  have hplace : (t + 1 + 7) % 8 = t := by omega
  have hsched := Cay.schedule_first (y := z) (n := 7) (Cay.running_setThr_stopped hrun (by simp)) (by decide) (by rw [hzlast, hplace, hzt]; exact ⟨hbound, rfl⟩)
    (fun i hi => by rw [hzlast, hz, Cay.thr_setThr, if_neg (by omega)]; exact hnone i hi)
  rw [hzlast, hplace, hzt] at hsched
  exact hsched

/-- A running thread that gives way becomes ready and the first ready thread after it runs, itself where there is no other. -/
theorem Cay.switch_threads {y : Cay} {t w : Nat} (hrun : y.running = some t) (hw : w < 8) (hready : w = t ∨ (y.thr w).bound = true ∧ (y.thr w).st = .ready)
    (hfirst : ∀ i, i < (w + 7 - t) % 8 → ¬ ((y.thr ((t + 1 + i) % 8)).bound = true ∧ (y.thr ((t + 1 + i) % 8)).st = .ready)) :
    y.switch t = { y with threads := (y.switch t).threads, lastRun := w } ∧
      ∀ i, (y.switch t).thr i = if i = w then { y.thr w with st := .running } else if i = t then { y.thr t with st := .ready } else y.thr i := by
  obtain ⟨-, ht, -, -⟩ := Cay.running_spec hrun
  have hswitch : y.switch t = { (y.setThr t { y.thr t with st := .ready }).setThr w { y.thr w with st := .running } with lastRun := w } := by
    by_cases hwt : w = t
    · subst hwt
      exact Cay.switch_self hrun (fun i hi => hfirst i (by omega))
    · exact Cay.switch_first hrun hw hwt (hready.resolve_left hwt) hfirst
  rw [hswitch]
  exact ⟨rfl, fun i => by rw [Cay.thr_lastRun, Cay.thr_setThr, Cay.thr_setThr]⟩

theorem tyld_yields {s : State} {c : CayRef} {t w : Nat} {f : SFields} (h : Issues s c t) (hr : f.rsv = 0) (hw : w < 8)
    (hready : w = t ∨ ((s.cay c).thr w).bound = true ∧ ((s.cay c).thr w).st = .ready)
    (hfirst : ∀ i, i < (w + 7 - t) % 8 → ¬ (((s.cay c).thr ((t + 1 + i) % 8)).bound = true ∧ ((s.cay c).thr ((t + 1 + i) % 8)).st = .ready)) :
    ∃ u, exec (.tyld c f) s = .next u ∧ OnlyCay s u c ∧ u.cay c = { s.cay c with threads := (u.cay c).threads, lastRun := w } ∧
      (u.cay c).thr t = { (s.cay c).thr t with pc := ((s.cay c).thr t).pc + 8, st := if w = t then .running else .ready } ∧
      (w ≠ t → (u.cay c).thr w = { (s.cay c).thr w with st := .running }) ∧ (∀ i, i ≠ t → i ≠ w → (u.cay c).thr i = (s.cay c).thr i) := by
  obtain ⟨-, ht, -, -⟩ := Cay.running_spec h.1
  set y := (s.cay c).setThr t ((s.cay c).thr t).next with hy
  have hyt : y.thr t = ((s.cay c).thr t).next := by rw [hy, Cay.thr_setThr, if_pos rfl]
  have hyne : ∀ i, i ≠ t → y.thr i = (s.cay c).thr i := fun i hi => by rw [hy, Cay.thr_setThr, if_neg hi]
  have hyield : y.switch t = { y with threads := (y.switch t).threads, lastRun := w } ∧
      ∀ i, (y.switch t).thr i = if i = w then { y.thr w with st := .running } else if i = t then { y.thr t with st := .ready } else y.thr i := by
    refine Cay.switch_threads (Cay.running_setThr h.1 rfl rfl) hw ?_ fun i hi => ?_
    · by_cases hwt : w = t
      · exact .inl hwt
      · rw [hyne w hwt]
        exact hready
    · rw [hyne _ (by omega)]
      exact hfirst i hi
  obtain ⟨honly, hthr⟩ := hyield
  refine ⟨(s.putThr c t ((s.cay c).thr t).next).setCay c (y.switch t), ?_, (s.setCay_onlyCay c _).setCay _, ?_⟩
  · rw [exec_tyld, execTyld, beq_iff_eq.2 hr, issue_running h.1 h.2, State.putThr]
    dsimp only
    rw [State.cay_setCay_same]
  rw [State.cay_setCay_same]
  refine ⟨honly, ?_, fun hne => ?_, fun i hit hiw => ?_⟩
  · rw [hthr, hyt]
    by_cases hwt : w = t
    · rw [if_pos hwt.symm, if_pos hwt, hwt, hyt]
      rfl
    · rw [if_neg (Ne.symm hwt), if_pos rfl, if_neg hwt]
      rfl
  · rw [hthr, if_pos rfl, hyne w hne]
  · rw [hthr, if_neg hiw, if_neg hit, hyne i hit]

/-! ### Barriers (R178) -/

theorem Cay.releaseBar_same (y : Cay) (k : Nat) : ThreadsSame y (y.releaseBar k) := by
  unfold Cay.releaseBar
  dsimp only
  split
  · exact y.wakeIf_same _
  · exact .refl y

theorem Cay.releaseBar_only (y : Cay) (k : Nat) : y.releaseBar k = { y with threads := (y.releaseBar k).threads, lastRun := (y.releaseBar k).lastRun } := by
  unfold Cay.releaseBar
  dsimp only
  split
  · exact y.wakeIf_only _
  · rfl

/-- Thread `i` is one that a barrier of task `k` stands for. -/
def Cay.Attends (y : Cay) (k i : Nat) : Prop := i < 8 ∧ (y.thr i).bound = true ∧ (y.thr i).task = k

theorem Cay.mem_attends {y : Cay} {k i : Nat} : i ∈ (List.range 8).filter (fun t => (y.thr t).bound && (y.thr t).task == k) ↔ y.Attends k i := by
  simp [Cay.Attends]

/-- A barrier that a thread has not reached holds. -/
theorem Cay.releaseBar_of_awaited {y : Cay} {k i : Nat} (hi : y.Attends k i) (hw : (y.thr i).wait ≠ .bar) : y.releaseBar k = y := by
  refine if_neg fun hall => hw ?_
  exact beq_iff_eq.1 (List.all_eq_true.1 hall i (Cay.mem_attends.2 hi))

/-- A barrier that every thread has reached releases them. -/
theorem Cay.releaseBar_of_reached {y : Cay} {k : Nat} (h : ∀ i, y.Attends k i → (y.thr i).wait = .bar) :
    y.releaseBar k = y.wakeIf (fun t w => (y.thr t).task == k && w == .bar) :=
  if_pos (List.all_eq_true.2 fun i hi => beq_iff_eq.2 (h i (Cay.mem_attends.1 hi)))

/-- A blocked thread stays as it is while others wake. -/
theorem Cay.thr_wake_other {y : Cay} {t i : Nat} (hne : i ≠ t) (hst : (y.thr i).st = .blocked) : (y.wake t).thr i = y.thr i := by
  unfold Cay.wake
  split
  · rw [Cay.thr_schedule_of_ne_ready] <;> rw [Cay.thr_setThr, if_neg hne]
    rw [hst]
    decide
  · rfl

/-- A thread that is awake stays so while others wake. -/
theorem Cay.wake_keeps_awake {y : Cay} {i : Nat} (t : Nat) (h : (y.thr i).wait = .none ∧ (y.thr i).st ≠ .blocked) : ((y.wake t).thr i).wait = .none ∧ ((y.wake t).thr i).st ≠ .blocked := by
  unfold Cay.wake
  split
  case isTrue hb =>
    have hne : i ≠ t := by
      rintro rfl
      exact h.2 (beq_iff_eq.1 (Bool.and_eq_true_iff.1 hb).2)
    obtain hs | ⟨-, hs⟩ := Cay.thr_schedule (y.setThr t { y.thr t with st := .ready, wait := .none, cause := 15 }) i <;> rw [hs, Cay.thr_setThr, if_neg hne]
    · exact h
    · exact ⟨h.1, by simp⟩
  case isFalse => exact h

/-- One thread in a wake of several. -/
def Cay.wakeOne (p : Nat → Wait → Bool) (y : Cay) (t : Nat) : Cay := if (y.thr t).bound && p t (y.thr t).wait then y.wake t else y

theorem Cay.wakeIf_eq (p : Nat → Wait → Bool) (y : Cay) : y.wakeIf p = (List.range 8).foldl (Cay.wakeOne p) y := rfl

theorem Cay.thr_wakeOne_other {p : Nat → Wait → Bool} {y : Cay} {t i : Nat} (hne : i ≠ t) (hst : (y.thr i).st = .blocked) : (y.wakeOne p t).thr i = y.thr i := by
  unfold Cay.wakeOne
  split
  · exact Cay.thr_wake_other hne hst
  · rfl

theorem Cay.thr_wakeOnes_other {p : Nat → Wait → Bool} {i : Nat} {l : List Nat} (hl : i ∉ l) {y : Cay} (hst : (y.thr i).st = .blocked) : (l.foldl (Cay.wakeOne p) y).thr i = y.thr i := by
  induction l generalizing y with
  | nil => rfl
  | cons t l ih =>
    rw [List.mem_cons, not_or] at hl
    obtain ⟨hne, hl⟩ := hl
    have hone : (y.wakeOne p t).thr i = y.thr i := Cay.thr_wakeOne_other hne hst
    rw [List.foldl_cons, ih hl (by rw [hone, hst]), hone]

theorem Cay.wakeOne_keeps_awake {p : Nat → Wait → Bool} {y : Cay} {i : Nat} (t : Nat) (h : (y.thr i).wait = .none ∧ (y.thr i).st ≠ .blocked) :
    ((y.wakeOne p t).thr i).wait = .none ∧ ((y.wakeOne p t).thr i).st ≠ .blocked := by
  unfold Cay.wakeOne
  split
  · exact Cay.wake_keeps_awake t h
  · exact h

/-- A blocked thread that a wake of several is for wakes. -/
theorem Cay.wakeIf_wakes {y : Cay} {p : Nat → Wait → Bool} {i : Nat} (hi : i < 8) (hb : (y.thr i).bound = true) (hst : (y.thr i).st = .blocked) (hp : p i (y.thr i).wait = true) :
    ((y.wakeIf p).thr i).wait = .none ∧ ((y.wakeIf p).thr i).st ≠ .blocked := by
  obtain ⟨l1, l2, hl⟩ := List.append_of_mem (List.mem_range.2 hi)
  have hnot : i ∉ l1 := by
    have hnodup : (l1 ++ i :: l2).Nodup := hl ▸ List.nodup_range
    exact fun hmem => (List.nodup_append.1 hnodup).2.2 i hmem i List.mem_cons_self rfl
  have hthr : (l1.foldl (Cay.wakeOne p) y).thr i = y.thr i := Cay.thr_wakeOnes_other hnot hst
  rw [Cay.wakeIf_eq, hl, List.foldl_append, List.foldl_cons]
  refine List.foldlRecOn (motive := fun x : Cay => (x.thr i).wait = .none ∧ (x.thr i).st ≠ .blocked) l2 _ ?_ fun x hx t _ => Cay.wakeOne_keeps_awake t hx
  rw [Cay.wakeOne, if_pos (by rw [hthr, hb, hp]; rfl)]
  exact (Cay.thr_wake (by rw [hthr]; exact hb) (by rw [hthr]; exact hst)).symm

/-! ### TBAR (R178) -/

/-- The cay of a thread that has reached a barrier. -/
def Cay.atBar (y : Cay) (t : Nat) : Cay := (y.setThr t (y.thr t).next).block t .bar 7

theorem Cay.thr_atBar (y : Cay) (t : Nat) : (y.atBar t).thr t = { (y.thr t).next with st := .blocked, wait := .bar, cause := 7 } := by
  rw [Cay.atBar, Cay.thr_block, Cay.thr_setThr, if_pos rfl]

/-- Another thread is as it was, or runs now. -/
theorem Cay.thr_atBar_other (y : Cay) {t i : Nat} (hne : i ≠ t) : (y.atBar t).thr i = y.thr i ∨ (y.thr i).st = .ready ∧ (y.atBar t).thr i = { y.thr i with st := .running } := by
  have hthr : ∀ w, ((y.setThr t (y.thr t).next).setThr t w).thr i = y.thr i := fun w => by rw [Cay.thr_setThr, if_neg hne, Cay.thr_setThr, if_neg hne]
  have hsched := Cay.thr_schedule ((y.setThr t (y.thr t).next).setThr t { (y.setThr t (y.thr t).next).thr t with st := .blocked, wait := .bar, cause := 7 }) i
  rw [hthr] at hsched
  exact hsched

theorem Cay.atBar_only (y : Cay) (t : Nat) : y.atBar t = { y with threads := (y.atBar t).threads, lastRun := (y.atBar t).lastRun } := Cay.schedule_only _

theorem tbar_meets {s : State} {c : CayRef} {t : Nat} {f : SFields} (h : Issues s c t) (hr : f.rsv = 0) :
    ∃ u, exec (.tbar c f) s = .next u ∧ OnlyCay s u c ∧ u.cay c = ((s.cay c).atBar t).releaseBar ((s.cay c).thr t).task := by
  refine ⟨((s.putThr c t ((s.cay c).thr t).next).blockThr c t .bar 7).setCay c (((s.cay c).atBar t).releaseBar ((s.cay c).thr t).task), ?_,
    (((OnlyCay.refl s c).setCay _).setCay _).setCay _, State.cay_setCay_same _ c _⟩
  rw [exec_tbar, execTbar, beq_iff_eq.2 hr, issue_running h.1 h.2]
  dsimp only
  rw [State.blockThr, State.putThr, State.cay_setCay_same, State.cay_setCay_same, Cay.atBar]

theorem Cay.atBar_regs (y : Cay) (t i : Nat) : ((y.atBar t).thr i).regs = (y.thr i).regs := by
  by_cases hi : i = t
  · rw [hi, Cay.thr_atBar]
    rfl
  · obtain h | ⟨-, h⟩ := y.thr_atBar_other hi <;> rw [h]

/-- The barrier of the thread's task, once it has reached it: who attends. -/
theorem Cay.attends_atBar {y : Cay} {t k i : Nat} : (y.atBar t).Attends k i ↔ y.Attends k i := by
  unfold Cay.Attends
  by_cases hi : i = t
  · rw [hi, Cay.thr_atBar]
    rfl
  · obtain h | ⟨-, h⟩ := y.thr_atBar_other hi <;> rw [h]

/-! ### NWAIT (R178, R320) -/

section Waits
variable {s : State} {c : CayRef} {t : Nat} {f : IFields}

theorem nwait_passes (h : Issues s c t) (hs : Settled s c t [f.a]) (hr : f.rsv = 0)
    (hn : (((s.cay c).thr t).reg f.a).toNat ≤ s.notif c.island (s.task ((s.cay c).thr t).task).ctx (f.imm.toNat % 16)) :
    ∃ u, exec (.nwait c f) s = .next u ∧ WentTo s u c t (((s.cay c).thr t).pc + 8) := by
  refine ⟨_, ?_, WentTo.putThr s c t _⟩
  rw [exec_nwait, execNwait, beq_iff_eq.2 hr, issueRegs_running h.1 h.2 hs]
  dsimp only
  rw [if_pos hn, Thread.next]

theorem nwait_blocks (h : Issues s c t) (hs : Settled s c t [f.a]) (hr : f.rsv = 0)
    (hn : s.notif c.island (s.task ((s.cay c).thr t).task).ctx (f.imm.toNat % 16) < (((s.cay c).thr t).reg f.a).toNat) :
    exec (.nwait c f) s = .next ((s.putThr c t ((s.cay c).thr t).next).setCay c
      (((s.cay c).setThr t ((s.cay c).thr t).next).block t (.notif (f.imm.toNat % 16) (((s.cay c).thr t).reg f.a).toNat) 3)) := by
  rw [exec_nwait, execNwait, beq_iff_eq.2 hr, issueRegs_running h.1 h.2 hs]
  dsimp only
  rw [if_neg (not_le.2 hn), State.blockThr, State.putThr, State.cay_setCay_same]

end Waits

/-! ### Threads and tasks that end (R171, R178, R179) -/

/-- The cay of a thread of task `k` that has ended. -/
def Cay.ended (y : Cay) (t k : Nat) : Cay := (y.endThread t).releaseBar k

theorem Cay.ended_only (y : Cay) (t k : Nat) : y.ended t k = { y with threads := (y.ended t k).threads, lastRun := (y.ended t k).lastRun } := by
  have hend : ∃ ts n, y.endThread t = { y with threads := ts, lastRun := n } := ⟨_, _, Cay.schedule_only _⟩
  obtain ⟨ts, n, hend⟩ := hend
  rw [Cay.ended, Cay.releaseBar_only, hend]

theorem Cay.ended_bound (y : Cay) (t k : Nat) : ((y.ended t k).thr t).bound = false := by
  rw [Cay.ended, (Cay.releaseBar_same _ k).bound, Cay.endThread, (Cay.schedule_same _).bound, Cay.thr_setThr, if_pos rfl]
  rfl

/-- The other threads keep registers, pc and binding. -/
theorem Cay.ended_other (y : Cay) (k : Nat) {t i : Nat} (hi : i ≠ t) :
    ((y.ended t k).thr i).regs = (y.thr i).regs ∧ ((y.ended t k).thr i).pc = (y.thr i).pc ∧ ((y.ended t k).thr i).bound = (y.thr i).bound := by
  have hsame := (Cay.schedule_same (y.setThr t Thread.reset)).trans (Cay.releaseBar_same _ k)
  have hthr : (y.setThr t Thread.reset).thr i = y.thr i := by rw [Cay.thr_setThr, if_neg hi]
  exact ⟨(hsame.regs i).trans (by rw [hthr]), (hsame.pc i).trans (by rw [hthr]), (hsame.bound i).trans (by rw [hthr])⟩

section Ends
variable {s : State} {c : CayRef} {t : Nat}

theorem tend_ends {f : SFields} (h : Issues s c t) (hr : f.rsv = 0) : exec (.tend c f) s = .next (s.setCay c ((s.cay c).ended t ((s.cay c).thr t).task)) := by
  rw [exec_tend, execTend, beq_iff_eq.2 hr, issue_running h.1 h.2, endRunning, Cay.ended]

theorem tdsc_discards {f : SFields} (h : Issues s c t) (hr : f.rsv = 0) (hspec : (s.task ((s.cay c).thr t).task).spec = true) :
    exec (.tdsc c f) s = .next ((s.setTask ((s.cay c).thr t).task { s.task ((s.cay c).thr t).task with discard := true }).setCay c ((s.cay c).ended t ((s.cay c).thr t).task)) := by
  rw [exec_tdsc, execTdsc, beq_iff_eq.2 hr, issue_running h.1 h.2]
  dsimp only
  rw [hspec]
  rfl

theorem tdsc_illegal {f : SFields} (h : Issues s c t) (hr : f.rsv = 0) (hspec : (s.task ((s.cay c).thr t).task).spec = false) (hu : Unfinished s ((s.cay c).thr t).task) :
    ∃ u, exec (.tdsc c f) s = .next u ∧ EndedWith s u ((s.cay c).thr t).task St.illegal c.cay := by
  refine ⟨_, ?_, State.failTask_ends hu _ _⟩
  rw [exec_tdsc, execTdsc, beq_iff_eq.2 hr, issue_running h.1 h.2]
  dsimp only
  rw [hspec]
  rfl

theorem tfail_fails {f : IFields} (h : Issues s c t) (hr : f.rsv = 0) (hu : Unfinished s ((s.cay c).thr t).task) :
    ∃ u, exec (.tfail c f) s = .next u ∧ EndedWith s u ((s.cay c).thr t).task St.kernelFault (f.imm.toNat % 2 ^ 16) := by
  refine ⟨_, ?_, State.failTask_ends hu _ _⟩
  rw [exec_tfail, execTfail, beq_iff_eq.2 hr, issue_running h.1 h.2]

end Ends

/-- Settles O15: the sequencer's part of each instruction, thread by thread. -/
theorem threadsWaitAndEnd : Obligations.ThreadsWaitAndEnd := by
  refine ⟨⟨fun s c t w f h hr hw hready hfirst => tyld_yields h hr hw hready hfirst, ?tbar, ?passes, ?blocks⟩,
    ⟨?tend, ?tdsc, fun s c t f h hr hspec hu => tdsc_illegal h hr hspec hu, fun s c t f h hr hu => tfail_fails h hr hu⟩⟩
  case tbar =>
    intro s c t f h hr
    obtain ⟨-, ht, hbound, -⟩ := Cay.running_spec h.1
    obtain ⟨u, hexec, honly, hcay⟩ := tbar_meets h hr
    set y := (s.cay c).atBar t with hy
    have hsame := y.releaseBar_same ((s.cay c).thr t).task
    have hyt : y.thr t = { ((s.cay c).thr t).next with st := .blocked, wait := .bar, cause := 7 } := Cay.thr_atBar _ t
    refine ⟨u, hexec, honly, ?_, ?_, fun i => ?_, fun i hi => ?_, ?awaited, ?reached⟩
    · rw [hcay, Cay.releaseBar_only, hy, Cay.atBar_only]
    · rw [hcay, hsame.pc, hyt]
      rfl
    · rw [hcay, hsame.regs, hy, Cay.atBar_regs]
    · rw [hcay, hsame.pc]
      obtain hthr | ⟨-, hthr⟩ := (s.cay c).thr_atBar_other hi <;> rw [hy, hthr]
    case awaited =>
      rintro ⟨i, hi, hne, hib, hik, hiw⟩
      have hwait : (y.thr i).wait ≠ .bar := by
        obtain hthr | ⟨-, hthr⟩ := (s.cay c).thr_atBar_other hne <;> rw [hy, hthr] <;> exact hiw
      rw [hcay, Cay.releaseBar_of_awaited (Cay.attends_atBar.2 ⟨hi, hib, hik⟩) hwait, hyt]
      exact ⟨rfl, rfl⟩
    case reached =>
      intro hall i hi hib hik
      have hat : ∀ j, y.Attends ((s.cay c).thr t).task j → (y.thr j).wait = .bar ∧ (y.thr j).st = .blocked := by
        intro j hj
        obtain ⟨hj8, hjb, hjk⟩ := Cay.attends_atBar.1 hj
        by_cases hjt : j = t
        · rw [hjt, hyt]
          exact ⟨rfl, rfl⟩
        · obtain ⟨hjw, hjst⟩ := hall j hj8 hjt hjb hjk
          have hthr := ((s.cay c).thr_atBar_other hjt).resolve_right fun hr => by rw [hjst] at hr; exact absurd hr.1 (by decide)
          rw [hy, hthr]
          exact ⟨hjw, hjst⟩
      have hatt : y.Attends ((s.cay c).thr t).task i := Cay.attends_atBar.2 ⟨hi, hib, hik⟩
      obtain ⟨hwait, hst⟩ := hat i hatt
      rw [hcay, Cay.releaseBar_of_reached fun j hj => (hat j hj).1]
      exact Cay.wakeIf_wakes hi hatt.2.1 hst (by rw [hwait, hatt.2.2]; simp)
  case passes =>
    intro s c t f h hs hr hn
    obtain ⟨u, hu, hw⟩ := nwait_passes h hs hr hn
    exact ⟨u, hu, hw.pc, hw.reg, hw.only⟩
  case blocks =>
    intro s c t f h hs hr hn
    have hthr : ∀ w, (((s.cay c).setThr t ((s.cay c).thr t).next).block t w 3).thr t = { ((s.cay c).thr t).next with st := .blocked, wait := w, cause := 3 } := fun w => by
      rw [Cay.thr_block, Cay.thr_setThr, if_pos rfl]
    have hheld : ∀ w, (s.cay c).Held (((s.cay c).setThr t ((s.cay c).thr t).next).block t w 3) := fun w => (Cay.Held.setThr (s.cay c) (t := t) (w := ((s.cay c).thr t).next) rfl).trans (.block _ t w 3)
    refine ⟨_, nwait_blocks h hs hr hn, ((OnlyCay.refl s c).setCay _).setCay _, ?_⟩
    rw [State.cay_setCay_same, hthr]
    exact ⟨rfl, rfl, rfl, (hheld _).regs, (hheld _).ls⟩
  case tend =>
    intro s c t f h hr
    refine ⟨_, tend_ends h hr, s.setCay_onlyCay c _, ?_⟩
    rw [State.cay_setCay_same]
    exact ⟨Cay.ended_only _ t _, Cay.ended_bound _ t _, fun i hi => Cay.ended_other _ _ hi⟩
  case tdsc =>
    intro s c t f h hr hspec
    refine ⟨_, tdsc_discards h hr hspec, rfl, ?_⟩
    rw [State.cay_setCay_same]
    refine ⟨Cay.ended_bound _ t _, (State.task_setTask _ _ _ _).trans (if_pos rfl), fun k hk => (State.task_setTask _ _ _ _).trans (if_neg hk), fun i hi => (Cay.ended_other _ _ hi).1, ?_,
      fun r hr => State.cay_setCay_other _ _ hr⟩
    rw [Cay.ended_only]

end Sys2Proof.Machine
end

section
/-! PROOFS. The vector unit: lanes, what an instruction that runs at once leaves, and arithmetic, selection and moves (R81, R171, R173, R191, R192, R197). -/
namespace Sys2Proof.Machine

/-! ### Lists with one element for each lane -/

section Lanes
variable {α : Type} {n : Nat}

theorem zipIdx_map_range (g : Nat → α) : ((List.range n).map g).zipIdx = (List.range n).map fun l => (g l, l) :=
  List.ext_getElem (by simp) fun i hi hj => by simp

theorem getD_map_range (g : Nat → α) (d : α) {l : Nat} (h : l < n) : ((List.range n).map g).getD l d = g l := by
  rw [List.getD_eq_getElem _ _ (by simpa using h)]
  simp

/-- No lane is picked where none meets the condition. -/
theorem filter_zipIdx_map_range_eq_nil {g : Nat → α} {p : α × Nat → Bool} (h : ∀ l, l < n → p (g l, l) = false) : ((List.range n).map g).zipIdx.filter p = [] := by
  rw [zipIdx_map_range, List.filter_eq_nil_iff]
  simpa using h

/-- A list of `n` elements by its indices. -/
theorem eq_map_range_getD (xs : List α) (d : α) : xs = (List.range xs.length).map fun l => xs.getD l d :=
  List.ext_getElem (by simp) fun i hi hj => by rw [List.getElem_map, List.getElem_range, List.getD_eq_getElem _ d hi]

end Lanes

theorem Cay.getVec_length (y : Cay) (fmt a : Nat) : (y.getVec fmt a).length = 64 := by rw [Cay.getVec, unpackElems, List.length_map, List.length_range]

/-- The code in one lane of an operand. -/
def Cay.laneCode (y : Cay) (fmt a l : Nat) : Nat := (y.getVec fmt a).getD l 0

theorem Cay.getVec_eq (y : Cay) (fmt a : Nat) : y.getVec fmt a = (List.range 64).map (y.laneCode fmt a) := by
  have h := eq_map_range_getD (y.getVec fmt a) 0
  rwa [Cay.getVec_length] at h

/-! ### What the unit's reports and writes leave -/

@[simp] theorem Cay.putVec_queues (y : Cay) (fmt a : Nat) (on : List Bool) (cs : List Nat) : (y.putVec fmt a on cs).queues = y.queues := rfl

@[simp] theorem Cay.putVec_threads (y : Cay) (fmt a : Nat) (on : List Bool) (cs : List Nat) : (y.putVec fmt a on cs).threads = y.threads := rfl

@[simp] theorem Cay.putVec_arrs (y : Cay) (fmt a : Nat) (on : List Bool) (cs : List Nat) : (y.putVec fmt a on cs).arrs = y.arrs := rfl

@[simp] theorem State.entered_getVec (s : State) (c : CayRef) (t e : Nat) (op : EngOp) (fmt a : Nat) : ((s.entered c t e op).cay c).getVec fmt a = (s.cay c).getVec fmt a := by
  rw [Cay.getVec, State.entered_lsRead, Cay.getVec]

@[simp] theorem State.entered_putVec_ls (s : State) (c : CayRef) (t e : Nat) (op : EngOp) (fmt a : Nat) (on : List Bool) (cs : List Nat) :
    (((s.entered c t e op).cay c).putVec fmt a on cs).ls = ((s.cay c).putVec fmt a on cs).ls := by
  rw [Cay.putVec, Cay.putVec, Cay.lsWrite, Cay.lsWrite, State.entered_lsRead, State.entered_cay_ls]

theorem spares_vecSat (s : State) (r : CayRef) (k n : Nat) : Spares Anywhere s (vecSat s r k n) := Spares.of_cays (by rw [vecSat_only]) (by rw [vecSat_only])

theorem spares_vecInvalid (s : State) (r : CayRef) (k : Nat) (bad : List (Nat × Nat)) : Spares Anywhere s (vecInvalid s r k bad) := by
  have hset : Spares Anywhere s (s.setCay r { s.cay r with vecInvalid := true }) := (Spares.refl s).setCay_same_ls rfl rfl
  cases bad with
  | nil => exact Spares.refl s
  | cons e l => exact Spares.ite (Spares.refl s) ((hset.noteInvalid _ _ _ _ _ _ _ _).failOnInvalid _)

theorem vecSat_zero (s : State) (r : CayRef) (k : Nat) : vecSat s r k 0 = s := rfl

/-! ### An instruction that finds its cay's engines empty -/

/-- The registers a vector instruction names, with no work queued that writes them, no work queued on the cay, and no reserved bit set. -/
structure VecIssues (s : State) (c : CayRef) (t : Nat) (f : VFields) : Prop where
  issues : Issues s c t
  settled : Settled s c t [f.d, f.a, f.b, f.c, f.k]
  vacant : Vacant s c
  rsv : f.rsv = 0

/-- The operation a vector instruction queues. -/
def vecOp (s : State) (c : CayRef) (t : Nat) (op : VOp) (f : VFields) : EngOp := .vec op f (vecArgs ((s.cay c).thr t) f)

/-- What running the operation at the head of its queue gives. -/
def vecRuns (s : State) (c : CayRef) (t : Nat) (op : VOp) (f : VFields) : State × Bool :=
  runVec (s.entered c t 4 (vecOp s c t op f)) c (s.queuedEntry c t (vecOp s c t op f)) op f (vecArgs ((s.cay c).thr t) f)

section Runs
variable {s w : State} {c : CayRef} {t : Nat} {f : VFields} {op : VOp} {df pd : Nat} {on : List Bool} {cs : List Nat}

/-- A vector instruction whose operation writes lanes of its cay and reports has written those lanes. -/
theorem VecIssues.wrote (h : VecIssues s c t f) (hl : vecLegal op f = true) (hrun : vecRuns s c t op f = (w, true))
    (hw : Spares Anywhere ((s.entered c t 4 (vecOp s c t op f)).setCay c (((s.entered c t 4 (vecOp s c t op f)).cay c).putVec df pd on cs)) w) :
    ∃ u, vecIssue c f s op = .next u ∧ Wrote s u c ((s.cay c).putVec df pd on cs).ls := by
  have hset : Spares (Elsewhere c) (s.entered c t 4 (vecOp s c t op f)) w := ((Spares.refl _).setCay_elsewhere (Cay.putVec_queues _ _ _ _ _)).trans hw.anywhere
  refine ⟨_, vecIssue_runs h.issues h.settled h.vacant h.rsv hl hrun (hset.queue c), ?_, fun r hr => ?_, ?_⟩
  · rw [State.landed_hbm, hset.hbm]; rfl
  · rw [State.landed_ls_any, hset.ls r hr, State.entered_cay_ls]
  · rw [State.landed_ls, hw.ls c trivial, State.cay_setCay_same, State.entered_putVec_ls]

/-- An instruction has written a local store, moved its thread on, and changed nothing else but its cay's engines and which thread it runs. -/
structure Stored (s u : State) (c : CayRef) (t : Nat) (m : Memory) : Prop where
  moved : MovedOn s u c t
  ls : (u.cay c).ls = m
  arrs : (u.cay c).arrs = (s.cay c).arrs

/-- A vector instruction whose operation writes lanes and reports nothing has stored them. -/
theorem VecIssues.stored (h : VecIssues s c t f) (hl : vecLegal op f = true)
    (hrun : vecRuns s c t op f = ((s.entered c t 4 (vecOp s c t op f)).setCay c (((s.entered c t 4 (vecOp s c t op f)).cay c).putVec df pd on cs), true)) :
    ∃ u, vecIssue c f s op = .next u ∧ Stored s u c t ((s.cay c).putVec df pd on cs).ls := by
  refine ⟨_, vecIssue_runs h.issues h.settled h.vacant h.rsv hl hrun (queue_setCay_sub (Cay.putVec_queues _ _ _ _ _)), movedOn_landed _ _ _ _ _ _ (Cay.putVec_threads _ _ _ _ _), ?_, ?_⟩
  · rw [landed_setCay_ls, State.entered_putVec_ls]
  · rw [State.landed_arrs, State.cay_setCay_same, Cay.putVec_arrs, State.entered_cay]; rfl

end Runs

end Sys2Proof.Machine
end

section
/-! PROOFS. Vector arithmetic, selection and moves (R74, R81, R171, R191, R192, R197). -/
namespace Sys2Proof.Machine

/-! ### Arithmetic lane by lane (R192) -/

/-- The lanes a vector instruction enables. -/
def lanesOn (f : VFields) (x : VArgs) : List Bool := (List.range 64).map (laneOn f.k x.k)

/-- Whether an arithmetic operation reads its operand b lane by lane. -/
def VOp.readsB (op : VOp) : Bool := op == .add || op == .sub || op == .mul || op == .fma || op == .min || op == .max || op == .sel

/-- What a lane computes is the value `v`, with no cause of R197 where it is not NaN. -/
def LaneGives (o : Val × Nat) (v : Val) : Prop := o.1 = v ∧ (v.isNan = false → o.2 = 0)

/-- An operation of `n` lane operands whose lanes give `sem` of the operands it reads and of VSCL's exponent register. -/
structure LaneOp (op : VOp) (n : Nat) (sem : Val → Val → Val → Nat → Val) : Prop where
  gives : ∀ a b c k, LaneGives (laneVal op a b c (max (-1024) (min 1024 (sgn 64 k)))) (sem a b c k)
  ignoresB : n < 2 → ∀ a b b' c k, sem a b c k = sem a b' c k
  ignoresC : n ≠ 3 → ∀ a b c c' k, sem a b c k = sem a b c' k
  readsB : op.readsB = decide (2 ≤ n) := by rfl
  readsC : (op == .fma) = decide (n = 3) := by rfl
  noSel : (op == .sel) = false := by rfl
  noMov : (op == .mov) = false := by rfl
  run : ∀ s r q f x, runVec s r q op f x = (vecArith s r q op f x, true) := by intros; rfl
  legal : ∀ f, vecLegal op f = (f.rmode == 0 && f.blk == 0 && arithSrc f.sfmt.toNat && arithDst f.dfmt.toNat) := by intros; rfl

/-- The operands of a vector instruction that computes lane by lane are in place: pa, pb where it reads b, pc where it reads c, and pd. -/
structure LaneOperands (s : State) (r : CayRef) (f : VFields) (x : VArgs) (n pa pb pc pd : Nat) : Prop where
  a : s.lsOperand r.island x.a (vecBytes f.sfmt.toNat) (vecBytes f.sfmt.toNat) false = some pa
  b : 2 ≤ n → s.lsOperand r.island x.b (vecBytes f.sfmt.toNat) (vecBytes f.sfmt.toNat) false = some pb
  c : n = 3 → s.lsOperand r.island x.c (vecBytes f.dfmt.toNat) (vecBytes f.dfmt.toNat) false = some pc
  d : s.lsOperand r.island x.d (vecBytes f.dfmt.toNat) (vecBytes f.dfmt.toNat) true = some pd

/-- The value of a lane of a source. -/
def Cay.laneSrc (y : Cay) (fmt a l : Nat) : Val := decodeElem fmt (y.laneCode fmt a l)

@[simp] theorem State.entered_laneCode (s : State) (c : CayRef) (t e : Nat) (op : EngOp) (fmt a l : Nat) :
    ((s.entered c t e op).cay c).laneCode fmt a l = (s.cay c).laneCode fmt a l := by
  rw [Cay.laneCode, State.entered_getVec, Cay.laneCode]

@[simp] theorem State.entered_laneSrc (s : State) (c : CayRef) (t e : Nat) (op : EngOp) (fmt a l : Nat) :
    ((s.entered c t e op).cay c).laneSrc fmt a l = (s.cay c).laneSrc fmt a l := congrArg (decodeElem fmt) (State.entered_laneCode s c t e op fmt a l)

theorem Cay.map_getVec (y : Cay) (fmt a : Nat) : (y.getVec fmt a).map (decodeElem fmt) = (List.range 64).map (y.laneSrc fmt a) := by
  rw [Cay.getVec_eq, List.map_map]
  rfl

theorem Cay.map_getVec_getD (y : Cay) (fmt a l : Nat) (hl : l < 64) : ((y.getVec fmt a).map (decodeElem fmt)).getD l .zero = y.laneSrc fmt a l := by
  rw [Cay.map_getVec, getD_map_range _ _ hl]

theorem LaneOp.vecArith_eq {op : VOp} {n pa pb pc pd : Nat} {sem : Val → Val → Val → Nat → Val} (h : LaneOp op n sem) {s : State} {r : CayRef} {f : VFields} {x : VArgs}
    (hx : LaneOperands s r f x n pa pb pc pd) (q : QEntry) {lane : Nat → Val}
    (hlane : ∀ l, lane l = sem ((s.cay r).laneSrc f.sfmt.toNat pa l) ((s.cay r).laneSrc f.sfmt.toNat pb l) ((s.cay r).laneSrc f.dfmt.toNat pc l) x.b) :
    ∃ sats bad, vecArith s r q op f x = vecInvalid (vecSat (s.setCay r ((s.cay r).putVec f.dfmt.toNat pd (lanesOn f x)
        ((List.range 64).map fun l => (encodeElem f.dfmt.toNat .rne (lane l)).code))) r q.task sats) r q.task bad ∧
      ((∀ l, l < 64 → (lanesOn f x).getD l false = true → (lane l).isNan = false ∧ (encodeElem f.dfmt.toNat .rne (lane l)).sat = false) → sats = 0 ∧ bad = []) := by
  have hB : ∃ p, (if op.readsB then s.lsOperand r.island x.b (vecBytes f.sfmt.toNat) (vecBytes f.sfmt.toNat) false else some 0) = some p ∧ (2 ≤ n → p = pb) := by
    rw [h.readsB]
    by_cases hn : 2 ≤ n
    · exact ⟨pb, by rw [decide_eq_true hn, if_pos rfl, hx.b hn], fun _ => rfl⟩
    · exact ⟨0, by rw [decide_eq_false hn]; rfl, fun h2 => absurd h2 hn⟩
  have hC : ∃ p, (if op == .fma then s.lsOperand r.island x.c (vecBytes f.dfmt.toNat) (vecBytes f.dfmt.toNat) false else some 0) = some p ∧ (n = 3 → p = pc) := by
    rw [h.readsC]
    by_cases hn : n = 3
    · exact ⟨pc, by rw [decide_eq_true hn, if_pos rfl, hx.c hn], fun _ => rfl⟩
    · exact ⟨0, by rw [decide_eq_false hn]; rfl, fun h3 => absurd h3 hn⟩
  obtain ⟨p, hp, hpb⟩ := hB
  obtain ⟨p', hp', hpc⟩ := hC
  unfold vecArith
  extract_lets sf df two oA oB oC y on wr k
  rw [show oA = some pa from hx.a, show oB = some p from hp, show oC = some p' from hp', show s.lsOperand r.island x.d (vecBytes df) (vecBytes df) true = some pd from hx.d]
  dsimp -zeta only
  extract_lets ca cb codes av bv cv one vs es sats s1
  rw [if_neg (by simp [h.noSel, h.noMov])]
  have hwr : wr = lanesOn f x := if_neg (by simp [h.noSel])
  have hav : ∀ l, l < 64 → av.getD l .zero = y.laneSrc sf pa l := y.map_getVec_getD sf pa
  have hbv : 2 ≤ n → ∀ l, l < 64 → bv.getD l .zero = y.laneSrc sf pb l := fun hn => by
    have hcb : cb = y.getVec sf pb := (if_pos (show op.readsB = true by rw [h.readsB, decide_eq_true hn])).trans (by rw [hpb hn])
    rw [show bv = cb.map (decodeElem sf) from rfl, hcb]
    exact y.map_getVec_getD sf pb
  have hcv : n = 3 → ∀ l, l < 64 → cv.getD l .zero = y.laneSrc df pc l := fun hn => by
    have hcc : cv = (y.getVec df pc).map (decodeElem df) := (if_pos (by rw [h.readsC, decide_eq_true hn])).trans (by rw [hpc hn])
    rw [hcc]
    exact y.map_getVec_getD df pc
  have hsem : ∀ l, l < 64 → sem (av.getD l .zero) (bv.getD l .zero) (cv.getD l .zero) x.b = lane l := fun l hl => by
    rw [hlane, hav l hl]
    have hb : ∀ a c, sem a (bv.getD l .zero) c x.b = sem a (y.laneSrc sf pb l) c x.b := fun a c =>
      if hn : 2 ≤ n then by rw [hbv hn l hl] else h.ignoresB (not_le.1 hn) _ _ _ _ _
    have hc : ∀ a b, sem a b (cv.getD l .zero) x.b = sem a b (y.laneSrc df pc l) x.b := fun a b =>
      if hn : n = 3 then by rw [hcv hn l hl] else h.ignoresC hn _ _ _ _ _
    rw [hb, hc]
  have hone : ∀ l, one l = laneVal op (av.getD l .zero) (bv.getD l .zero) (cv.getD l .zero) k := fun l => if_neg (by simp [h.noSel])
  have hval : ∀ l, l < 64 → (one l).1 = lane l := fun l hl => by rw [hone, (h.gives _ _ _ _).1, hsem l hl]
  have hes : es = (List.range 64).map fun l => encodeElem df .rne (lane l) := by
    rw [show es = ((List.range 64).map one).map fun v => encodeElem df .rne v.1 from rfl, List.map_map]
    exact List.map_congr_left fun l hl => congrArg (encodeElem df .rne) (hval l (List.mem_range.1 hl))
  refine ⟨sats, badLanes vs wr, ?_, fun hquiet => ⟨?_, ?_⟩⟩
  · rw [show s1 = s.setCay r (y.putVec df pd wr (es.map (·.code))) from rfl, hwr, hes, List.map_map]
    rfl
  · rw [show sats = (es.zipIdx.filter fun e => wr.getD e.2 false && e.1.sat).length from rfl, hes, hwr, filter_zipIdx_map_range_eq_nil, List.length_nil]
    intro l hl
    cases hon : (lanesOn f x).getD l false with
    | false => rfl
    | true => exact (hquiet l hl hon).2
  · rw [badLanes, hwr, show vs = (List.range 64).map one from rfl, filter_zipIdx_map_range_eq_nil, List.map_nil]
    intro l hl
    cases hon : (lanesOn f x).getD l false with
    | false => rfl
    | true =>
      have hz : (one l).2 = 0 := by
        rw [hone]
        exact (h.gives _ _ _ _).2 (by rw [hsem l hl]; exact (hquiet l hl hon).1)
      rw [hz]
      rfl

/-! ### The nine arithmetic operations -/

namespace LaneGives

variable {o : Val × Nat} {v : Val} {cause : Nat} {b : Bool}

theorem mark : LaneGives (v, if v.isNan then cause else 0) v := ⟨rfl, fun h => by simp [h]⟩

theorem nanIf (hb : b = true → v = .nan) (h : LaneGives o v) : LaneGives (if b then (.nan, cause) else o) v := by
  cases b with
  | false => exact h
  | true =>
    rw [hb rfl]
    exact ⟨rfl, fun h => Bool.noConfusion h⟩

theorem nanElse : LaneGives (if b then (.nan, cause) else (v, 0)) (if b then .nan else v) := by
  cases b with
  | false => exact ⟨rfl, fun _ => rfl⟩
  | true => exact ⟨rfl, fun h => Bool.noConfusion h⟩

end LaneGives

namespace Val

theorem eq_nan_of_isNan {a : Val} (h : a.isNan = true) : a = .nan := by
  cases a with
  | nan => rfl
  | inf => exact Bool.noConfusion h
  | fin => exact Bool.noConfusion h

theorem add_nan (a : Val) : add a .nan = .nan := by cases a <;> rfl

theorem mul_nan (a : Val) : mul a .nan = .nan := by cases a <;> rfl

theorem add_of_nan {a b : Val} (h : (a.isNan || b.isNan) = true) : add a b = .nan := by
  obtain h | h := (Bool.or_eq_true _ _).mp h
  · rw [eq_nan_of_isNan h]; rfl
  · rw [eq_nan_of_isNan h, add_nan]

theorem sub_of_nan {a b : Val} (h : (a.isNan || b.isNan) = true) : sub a b = .nan := by
  refine add_of_nan ?_
  obtain h | h := (Bool.or_eq_true _ _).mp h
  · rw [h, Bool.true_or]
  · rw [eq_nan_of_isNan h, show negate .nan = .nan from rfl, show isNan .nan = true from rfl, Bool.or_true]

theorem mul_of_nan {a b : Val} (h : (a.isNan || b.isNan) = true) : mul a b = .nan := by
  obtain h | h := (Bool.or_eq_true _ _).mp h
  · rw [eq_nan_of_isNan h]; rfl
  · rw [eq_nan_of_isNan h, mul_nan]

theorem mul_add_of_nan {a b c : Val} (h : (a.isNan || b.isNan || c.isNan) = true) : add (mul a b) c = .nan := by
  refine add_of_nan ?_
  obtain h | h := (Bool.or_eq_true _ _).mp h
  · rw [mul_of_nan h, show isNan .nan = true from rfl, Bool.true_or]
  · rw [h, Bool.or_true]

end Val

theorem laneOp_add : LaneOp .add 2 fun a b _ _ => Val.add a b where
  gives _ _ _ _ := .nanIf Val.add_of_nan .mark
  ignoresB h := absurd h (by decide)
  ignoresC _ _ _ _ _ _ := rfl

theorem laneOp_sub : LaneOp .sub 2 fun a b _ _ => Val.sub a b where
  gives _ _ _ _ := .nanIf Val.sub_of_nan .mark
  ignoresB h := absurd h (by decide)
  ignoresC _ _ _ _ _ _ := rfl

theorem laneOp_mul : LaneOp .mul 2 fun a b _ _ => Val.mul a b where
  gives _ _ _ _ := .nanIf Val.mul_of_nan .mark
  ignoresB h := absurd h (by decide)
  ignoresC _ _ _ _ _ _ := rfl

theorem laneOp_fma : LaneOp .fma 3 fun a b c _ => Val.add (Val.mul a b) c where
  gives _ _ _ _ := .nanIf Val.mul_add_of_nan (.nanIf (fun h => Val.add_of_nan (by rw [h, Bool.true_or])) .mark)
  ignoresB h := absurd h (by decide)
  ignoresC h := absurd rfl h

theorem laneOp_min : LaneOp .min 2 fun a b _ _ => if a.isNan || b.isNan then .nan else if Val.lt b a then b else a where
  gives _ _ _ _ := .nanElse
  ignoresB h := absurd h (by decide)
  ignoresC _ _ _ _ _ _ := rfl

theorem laneOp_max : LaneOp .max 2 fun a b _ _ => if a.isNan || b.isNan then .nan else if Val.lt a b then b else a where
  gives _ _ _ _ := .nanElse
  ignoresB h := absurd h (by decide)
  ignoresC _ _ _ _ _ _ := rfl

theorem laneOp_abs : LaneOp .abs 1 fun a _ _ _ => a.abs where
  gives _ _ _ _ := .mark
  ignoresB _ _ _ _ _ _ := rfl
  ignoresC _ _ _ _ _ _ := rfl

theorem laneOp_neg : LaneOp .neg 1 fun a _ _ _ => a.negate where
  gives _ _ _ _ := .mark
  ignoresB _ _ _ _ _ _ := rfl
  ignoresC _ _ _ _ _ _ := rfl

theorem laneOp_scl : LaneOp .scl 1 fun a _ _ k => a.scale (max (-1024) (min 1024 (sgn 64 k))) where
  gives _ _ _ _ := .mark
  ignoresB _ _ _ _ _ _ := rfl
  ignoresC _ _ _ _ _ _ := rfl

/-- An arithmetic vector instruction writes the rounded lanes; where no enabled lane is NaN or saturates it changes nothing else but the pc. -/
theorem LaneOp.computes {op : VOp} {n pa pb pc pd : Nat} {sem : Val → Val → Val → Nat → Val} (hop : LaneOp op n sem) {s : State} {c : CayRef} {t : Nat} {f : VFields}
    (h : VecIssues s c t f) (hl : vecLegal op f = true) (hx : LaneOperands s c f (vecArgs ((s.cay c).thr t) f) n pa pb pc pd) {lane : Nat → Val}
    (hlane : ∀ l, lane l = sem ((s.cay c).laneSrc f.sfmt.toNat pa l) ((s.cay c).laneSrc f.sfmt.toNat pb l) ((s.cay c).laneSrc f.dfmt.toNat pc l) (((s.cay c).thr t).reg f.b).toNat)
    {on : List Bool} (hon : on = lanesOn f (vecArgs ((s.cay c).thr t) f)) {m : Memory}
    (hm : m = ((s.cay c).putVec f.dfmt.toNat pd on ((List.range 64).map fun l => (encodeElem f.dfmt.toNat .rne (lane l)).code)).ls) :
    ∃ u, vecIssue c f s op = .next u ∧ Wrote s u c m ∧
      ((∀ l, l < 64 → on.getD l false = true → (lane l).isNan = false ∧ (encodeElem f.dfmt.toNat .rne (lane l)).sat = false) → Stored s u c t m) := by
  subst hon hm
  obtain ⟨sats, bad, heq, hquiet⟩ := hop.vecArith_eq (s := s.entered c t 4 (vecOp s c t op f)) ⟨hx.a, hx.b, hx.c, hx.d⟩ (s.queuedEntry c t (vecOp s c t op f)) (lane := lane)
    (fun l => by rw [State.entered_laneSrc, State.entered_laneSrc, State.entered_laneSrc]; exact hlane l)
  have hrun : vecRuns s c t op f = (_, true) := (hop.run _ _ _ _ _).trans (congrArg (·, true) heq)
  obtain ⟨u, hu, hwrote⟩ := h.wrote hl hrun ((spares_vecSat _ _ _ _).trans (spares_vecInvalid _ _ _ _))
  refine ⟨u, hu, hwrote, fun hq => ?_⟩
  obtain ⟨hsats, hbad⟩ := hquiet hq
  rw [hsats, hbad, vecSat_zero, vecInvalid_nil] at hrun
  obtain ⟨u', hu', hstored⟩ := h.stored hl hrun
  rwa [Host.Outcome.next.inj (hu.symm.trans hu')]

/-! ### Selection and moves of one format (R192) -/

theorem zip_getVec (y z : Cay) (fmt a b : Nat) : (List.zip (y.getVec fmt a) (z.getVec fmt b)).zipIdx = (List.range 64).map fun l => ((y.laneCode fmt a l, z.laneCode fmt b l), l) := by
  rw [Cay.getVec_eq, Cay.getVec_eq, List.zip_map', zipIdx_map_range]

theorem vecArith_sel {s : State} {r : CayRef} {f : VFields} {x : VArgs} {pa pb pd : Nat} (q : QEntry) (hf : f.sfmt = f.dfmt) (hx : LaneOperands s r f x 2 pa pb 0 pd) :
    vecArith s r q .sel f x = s.setCay r ((s.cay r).putVec f.dfmt.toNat pd (List.replicate 64 true)
      ((List.range 64).map fun l => if (lanesOn f x).getD l false then (s.cay r).laneCode f.dfmt.toNat pa l else (s.cay r).laneCode f.dfmt.toNat pb l)) := by
  obtain ⟨ha, hb, -, hd⟩ := hx
  rw [hf] at ha hb
  simp [vecArith, hf, ha, hb, hd, zip_getVec, lanesOn, Function.comp_def]

theorem vecArith_mov {s : State} {r : CayRef} {f : VFields} {x : VArgs} {pa pd : Nat} (q : QEntry) (hf : f.sfmt = f.dfmt) (hx : LaneOperands s r f x 1 pa 0 0 pd) :
    vecArith s r q .mov f x = s.setCay r ((s.cay r).putVec f.dfmt.toNat pd (lanesOn f x) ((List.range 64).map ((s.cay r).laneCode f.dfmt.toNat pa))) := by
  obtain ⟨ha, -, -, hd⟩ := hx
  rw [hf] at ha
  simp [vecArith, hf, ha, hd, zip_getVec, lanesOn, Function.comp_def]

theorem vecLegal_copy {f : VFields} {op : VOp} (hop : op = .sel ∨ op = .mov) (hr : f.rmode = 0) (hb : f.blk = 0) (hf : f.sfmt = f.dfmt) (hd : f.dfmt = 5 ∨ f.dfmt = 6 ∨ f.dfmt = 9) :
    vecLegal op f = true := by
  obtain rfl | rfl := hop <;> obtain hd | hd | hd := hd <;> simp [vecLegal, hr, hb, hf, hd, arithSrc, arithDst, holdsAll]

section Copies
variable {s : State} {c : CayRef} {t : Nat} {f : VFields} {pa pb pd : Nat} (h : VecIssues s c t f) (hf : f.sfmt = f.dfmt)
include h hf

theorem VecIssues.sel_copies (hl : vecLegal .sel f = true) (hx : LaneOperands s c f (vecArgs ((s.cay c).thr t) f) 2 pa pb 0 pd) :
    ∃ u, vecIssue c f s .sel = .next u ∧ Stored s u c t ((s.cay c).putVec f.dfmt.toNat pd (List.replicate 64 true) ((List.range 64).map fun l =>
      if (lanesOn f (vecArgs ((s.cay c).thr t) f)).getD l false then (s.cay c).laneCode f.dfmt.toNat pa l else (s.cay c).laneCode f.dfmt.toNat pb l)).ls := by
  have heq := vecArith_sel (s := s.entered c t 4 (vecOp s c t .sel f)) (s.queuedEntry c t (vecOp s c t .sel f)) hf ⟨hx.a, hx.b, hx.c, hx.d⟩
  simp only [State.entered_laneCode] at heq
  exact h.stored hl (congrArg (·, true) heq)

theorem VecIssues.mov_copies (hl : vecLegal .mov f = true) (hx : LaneOperands s c f (vecArgs ((s.cay c).thr t) f) 1 pa 0 0 pd) :
    ∃ u, vecIssue c f s .mov = .next u ∧ Stored s u c t ((s.cay c).putVec f.dfmt.toNat pd (lanesOn f (vecArgs ((s.cay c).thr t) f))
      ((List.range 64).map ((s.cay c).laneCode f.dfmt.toNat pa))).ls := by
  have heq := vecArith_mov (s := s.entered c t 4 (vecOp s c t .mov f)) (s.queuedEntry c t (vecOp s c t .mov f)) hf ⟨hx.a, hx.b, hx.c, hx.d⟩
  rw [funext (State.entered_laneCode s c t 4 _ _ _)] at heq
  exact h.stored hl (congrArg (·, true) heq)

end Copies

/-- Settles O11: an arithmetic operation by what its lanes give, a selection or a move of one format by the codes it copies. -/
theorem vectorElementwise : Obligations.VectorElementwise := by
  refine ⟨?arith, ?copy⟩
  case arith =>
    intro mk n sem hmem s c t f pa pb pc pd hi hs hv hr hrm hblk hsf hdf ha hb hc hd on lane hon hlane
    have hrow : ∃ op, (∀ s, exec (mk c f) s = vecIssue c f s op) ∧ LaneOp op n sem := by
      simp only [List.mem_cons, Prod.mk.injEq, List.not_mem_nil, or_false] at hmem
      obtain ⟨rfl, rfl, rfl⟩ | ⟨rfl, rfl, rfl⟩ | ⟨rfl, rfl, rfl⟩ | ⟨rfl, rfl, rfl⟩ | ⟨rfl, rfl, rfl⟩ | ⟨rfl, rfl, rfl⟩ | ⟨rfl, rfl, rfl⟩ | ⟨rfl, rfl, rfl⟩ | ⟨rfl, rfl, rfl⟩ := hmem
      · exact ⟨_, exec_vadd c f, laneOp_add⟩
      · exact ⟨_, exec_vsub c f, laneOp_sub⟩
      · exact ⟨_, exec_vmul c f, laneOp_mul⟩
      · exact ⟨_, exec_vfma c f, laneOp_fma⟩
      · exact ⟨_, exec_vmin c f, laneOp_min⟩
      · exact ⟨_, exec_vmax c f, laneOp_max⟩
      · exact ⟨_, exec_vabs c f, laneOp_abs⟩
      · exact ⟨_, exec_vneg c f, laneOp_neg⟩
      · exact ⟨_, exec_vscl c f, laneOp_scl⟩
    obtain ⟨op, hexec, hop⟩ := hrow
    have hl : vecLegal op f = true := by rw [hop.legal, hrm, hblk, hsf, hdf]; rfl
    obtain ⟨u, hu, hwrote, hquiet⟩ := hop.computes ⟨hi, hs, hv, hr⟩ hl ⟨ha, hb, hc, hd⟩ hlane hon rfl
    refine ⟨u, (hexec s).trans hu, hwrote.ls, hwrote.other, fun a => by rw [hwrote.hbm], fun hq => ?_⟩
    obtain ⟨⟨⟨honly, hothers⟩, hregs, hpc⟩, -, harrs⟩ := hquiet hq
    exact ⟨honly, hothers, harrs, hpc, hregs⟩
  case copy =>
    intro sel s c t f pa pb pd hi hs hv hr hrm hblk hf hfmt ha hb hd on hon
    have hstored : ∃ u, exec (if sel then .vsel c f else .vmov c f) s = .next u ∧ Stored s u c t (if sel then
        ((s.cay c).putVec f.dfmt.toNat pd (List.replicate 64 true) ((List.range 64).map fun l =>
          if on.getD l false then (s.cay c).laneCode f.dfmt.toNat pa l else (s.cay c).laneCode f.dfmt.toNat pb l)).ls
        else ((s.cay c).putVec f.dfmt.toNat pd on ((List.range 64).map ((s.cay c).laneCode f.dfmt.toNat pa))).ls) := by
      subst hon
      rw [← hf] at ha hb
      cases sel with
      | true =>
        obtain ⟨u, hu, hstored⟩ := VecIssues.sel_copies ⟨hi, hs, hv, hr⟩ hf (vecLegal_copy (.inl rfl) hrm hblk hf hfmt) ⟨ha, fun _ => hb rfl, fun h => absurd h (by decide), hd⟩
        exact ⟨u, (exec_vsel c f s).trans hu, hstored⟩
      | false =>
        obtain ⟨u, hu, hstored⟩ := VecIssues.mov_copies ⟨hi, hs, hv, hr⟩ hf (vecLegal_copy (.inr rfl) hrm hblk hf hfmt) ⟨ha, fun h => absurd h (by decide), fun h => absurd h (by decide), hd⟩
        exact ⟨u, (exec_vmov c f s).trans hu, hstored⟩
    obtain ⟨u, hu, ⟨⟨honly, hothers⟩, hregs, hpc⟩, hls, harrs⟩ := hstored
    exact ⟨u, hu, honly, hothers, harrs, hpc, hregs, fun h => hls.trans (if_pos h), fun h => hls.trans (if_neg (by simp [h]))⟩

end Sys2Proof.Machine
end

section
/-! PROOFS. Vector comparisons, reductions, approximate functions and plain conversions (R74, R191, R192, R195 to R198). -/
namespace Sys2Proof.Machine

/-! ### A result written to a scalar register -/

/-- An instruction has written `v` to register `d` of its thread, moved the thread on, and changed nothing else but its cay's engines and which thread it runs. -/
structure GaveReg (s u : State) (c : CayRef) (t : Nat) (d : BitVec 5) (v : W64) : Prop where
  only : OnlyCay s u c
  ls : (u.cay c).ls = (s.cay c).ls
  arrs : (u.cay c).arrs = (s.cay c).arrs
  pc : ((u.cay c).thr t).pc = ((s.cay c).thr t).pc + 8
  reg : ∀ x, ((u.cay c).thr t).reg x = if x = d ∧ x ≠ 0 then v else ((s.cay c).thr t).reg x

/-- An operation that has just been queued finds its thread bound to the task that queued it. -/
theorem vecReg_entered {s : State} {c : CayRef} {t : Nat} (h : Issues s c t) (e : Nat) (op : EngOp) (d : BitVec 5) (g : W64 → W64) :
    vecReg (s.entered c t e op) c (s.queuedEntry c t op) d g =
      (s.entered c t e op).setCay c (((s.entered c t e op).cay c).setThr t (((s.cay c).thr t).next.setReg d (g (((s.cay c).thr t).reg d)))) := by
  have hthr : ((s.entered c t e op).cay c).thr (s.queuedEntry c t op).thread = ((s.cay c).thr t).next := (State.entered_thr s c t e t op).trans (if_pos rfl)
  unfold vecReg
  dsimp only
  rw [hthr]
  exact if_pos ⟨(Cay.running_spec h.1).2.2.1, rfl⟩

theorem VecIssues.gaveReg {s : State} {c : CayRef} {t : Nat} {f : VFields} {op : VOp} (h : VecIssues s c t f) (hl : vecLegal op f = true) {d : BitVec 5} {g : W64 → W64}
    (hrun : vecRuns s c t op f = (vecReg (s.entered c t 4 (vecOp s c t op f)) c (s.queuedEntry c t (vecOp s c t op f)) d g, true)) :
    ∃ u, vecIssue c f s op = .next u ∧ GaveReg s u c t d (g (((s.cay c).thr t).reg d)) := by
  rw [vecReg_entered h.issues] at hrun
  refine ⟨_, vecIssue_runs h.issues h.settled h.vacant h.rsv hl hrun (queue_setCay_sub rfl), ⟨landed_setCay_only _ _ _ _ _ _ _, fun r hr => ?_⟩, ?_, ?_, ?_, fun x => ?_⟩
  · rw [State.landed_other _ _ _ _ _ hr, State.cay_setCay, if_neg hr, State.entered_other _ _ _ _ _ _ hr]
  · exact (landed_setCay_ls _ _ _ _ _).trans (State.entered_cay_ls _ _ _ _ _ _)
  · rw [State.landed_arrs, State.cay_setCay_same, State.entered_cay]; rfl
  · rw [State.landed_pc, State.cay_setCay_same, Cay.thr_setThr, if_pos rfl, Thread.setReg_pc, Thread.next_pc]
  · rw [Thread.reg_congr (State.landed_regs _ _ _ _ _), State.cay_setCay_same, Cay.thr_setThr, if_pos rfl, Thread.reg_setReg, Thread.next_reg]
    exact if_congr (and_congr_right fun hx => by rw [hx]) rfl rfl

/-! ### Comparisons (R192) -/

/-- The mask of the lanes below `n` in which `p` holds. -/
def laneMask (p : Nat → Bool) (n : Nat) : Nat := (List.range n).foldl (fun acc l => if p l then acc + 2 ^ l else acc) 0

theorem laneMask_succ (p : Nat → Bool) (n : Nat) : laneMask p (n + 1) = if p n then laneMask p n + 2 ^ n else laneMask p n := by
  rw [laneMask, List.range_succ, List.foldl_append]; rfl

theorem laneMask_lt (p : Nat → Bool) (n : Nat) : laneMask p n < 2 ^ n := by
  induction n with
  | zero => exact Nat.one_pos
  | succ n ih =>
    rw [laneMask_succ, Nat.pow_succ]
    split <;> omega

theorem testBit_laneMask (p : Nat → Bool) {n l : Nat} (h : l < n) : (laneMask p n).testBit l = p l := by
  induction n with
  | zero => omega
  | succ n ih =>
    have hlt := laneMask_lt p n
    rw [laneMask_succ]
    by_cases hl : l < n
    · split
      · rw [Nat.add_comm, Nat.testBit_two_pow_add_gt hl, ih hl]
      · exact ih hl
    · obtain rfl : l = n := by omega
      split
      case isTrue hp => rw [Nat.add_comm, Nat.testBit_two_pow_add_eq, Nat.testBit_lt_two_pow hlt, hp]; rfl
      case isFalse hp => rw [Nat.testBit_lt_two_pow hlt, Bool.eq_false_iff.2 hp]

theorem lanesOn_getD {f : VFields} {x : VArgs} {l : Nat} (hl : l < 64) : (lanesOn f x).getD l false = laneOn f.k x.k l := getD_map_range _ _ hl

/-- The relation of a comparison. -/
def laneRel (lt : Bool) (x y : Val) : Bool := if lt then Val.lt x y else Val.eqv x y

theorem vecCompare_eq {s : State} {r : CayRef} {f : VFields} {x : VArgs} {pa pb : Nat} (q : QEntry) (lt : Bool)
    (ha : s.lsOperand r.island x.a (vecBytes f.sfmt.toNat) (vecBytes f.sfmt.toNat) false = some pa)
    (hb : s.lsOperand r.island x.b (vecBytes f.sfmt.toNat) (vecBytes f.sfmt.toNat) false = some pb)
    (hquiet : ∀ l, l < 64 → laneOn f.k x.k l = true → ((s.cay r).laneSrc f.sfmt.toNat pa l).isNan = false ∧ ((s.cay r).laneSrc f.sfmt.toNat pb l).isNan = false) :
    vecCompare s r q lt f x = vecReg s r q f.d fun _ => BitVec.ofNat 64 (laneMask
      (fun l => (lanesOn f x).getD l false && laneRel lt ((s.cay r).laneSrc f.sfmt.toNat pa l) ((s.cay r).laneSrc f.sfmt.toNat pb l)) 64) := by
  unfold vecCompare
  extract_lets sf y on
  rw [ha, hb]
  dsimp -zeta only
  extract_lets prs m bad
  have hprs : prs = (List.range 64).map fun l => (y.laneSrc sf pa l, y.laneSrc sf pb l) := by
    rw [show prs = List.zip ((y.getVec sf pa).map (decodeElem sf)) ((y.getVec sf pb).map (decodeElem sf)) from rfl, Cay.map_getVec, Cay.map_getVec, List.zip_map']
  have hbad : bad = [] := by
    rw [show bad = (prs.zipIdx.filter _).map _ from rfl, hprs, filter_zipIdx_map_range_eq_nil, List.map_nil]
    intro l hl
    dsimp only
    rw [show on.getD l false = laneOn f.k x.k l from lanesOn_getD hl]
    cases hon : laneOn f.k x.k l with
    | false => rfl
    | true => rw [(hquiet l hl hon).1, (hquiet l hl hon).2]; rfl
  have hm : m = laneMask (fun l => on.getD l false && laneRel lt (y.laneSrc sf pa l) (y.laneSrc sf pb l)) 64 := by
    rw [show m = prs.zipIdx.foldl _ 0 from rfl, hprs, zipIdx_map_range, List.foldl_map]
    rfl
  rw [hbad, vecInvalid_nil, hm]
  rfl

theorem VecIssues.compares {s : State} {c : CayRef} {t : Nat} {f : VFields} {op : VOp} {lt : Bool} {pa pb : Nat} (h : VecIssues s c t f) (hl : vecLegal op f = true)
    (hop : ∀ s r q x, runVec s r q op f x = (vecCompare s r q lt f x, true))
    (ha : s.lsOperand c.island (((s.cay c).thr t).reg f.a).toNat (vecBytes f.sfmt.toNat) (vecBytes f.sfmt.toNat) false = some pa)
    (hb : s.lsOperand c.island (((s.cay c).thr t).reg f.b).toNat (vecBytes f.sfmt.toNat) (vecBytes f.sfmt.toNat) false = some pb)
    (hquiet : ∀ l, l < 64 → laneOn f.k (((s.cay c).thr t).reg f.k).toNat l = true →
      ((s.cay c).laneSrc f.sfmt.toNat pa l).isNan = false ∧ ((s.cay c).laneSrc f.sfmt.toNat pb l).isNan = false) :
    ∃ u, vecIssue c f s op = .next u ∧ GaveReg s u c t f.d (BitVec.ofNat 64 (laneMask
      (fun l => (lanesOn f (vecArgs ((s.cay c).thr t) f)).getD l false && laneRel lt ((s.cay c).laneSrc f.sfmt.toNat pa l) ((s.cay c).laneSrc f.sfmt.toNat pb l)) 64)) := by
  have heq := vecCompare_eq (s := s.entered c t 4 (vecOp s c t op f)) (x := vecArgs ((s.cay c).thr t) f) (s.queuedEntry c t (vecOp s c t op f)) lt ha hb
    fun l hl hon => by rw [State.entered_laneSrc, State.entered_laneSrc]; exact hquiet l hl hon
  simp only [State.entered_laneSrc] at heq
  exact h.gaveReg hl ((hop _ _ _ _).trans (congrArg (·, true) heq))

/-! ### Reductions (R192, R195) -/

/-- The values of a list's lanes, zero where a lane is not enabled. -/
def enabledVals (p : Nat → Bool) (g : Nat → Val) : List Val := (List.range 64).map fun l => if p l then g l else .zero

theorem map_enabled (p : Nat → Bool) (g : Nat → Val) :
    (((List.range 64).map g).zipIdx.map fun e => if ((List.range 64).map p).getD e.2 false then e.1 else Val.zero) = enabledVals p g := by
  rw [zipIdx_map_range, List.map_map]
  refine List.map_congr_left fun l hl => ?_
  show (if ((List.range 64).map p).getD l false then g l else Val.zero) = _
  rw [getD_map_range p false (List.mem_range.1 hl)]

/-- The largest of a value and the enabled lanes. -/
def laneMax (p : Nat → Bool) (g : Nat → Val) (v : Val) : Val := (List.range 64).foldl (fun b l => if p l && Val.lt b (g l) then g l else b) v

theorem foldl_enabled (p : Nat → Bool) (g : Nat → Val) (v : Val) :
    (enabledVals p g).zipIdx.foldl (fun m e => if ((List.range 64).map p).getD e.2 false && Val.lt m e.1 then e.1 else m) v = laneMax p g v := by
  rw [enabledVals, zipIdx_map_range, List.foldl_map]
  refine List.foldl_ext _ _ _ fun b l hl => ?_
  dsimp only
  rw [getD_map_range p false (List.mem_range.1 hl)]
  cases p l <;> rfl

section Reduce
variable {s : State} {r : CayRef} {f : VFields} {x : VArgs} {pa : Nat} (q : QEntry)

theorem vecReduce_max (ha : s.lsOperand r.island x.a (vecBytes f.sfmt.toNat) (vecBytes f.sfmt.toNat) false = some pa)
    (hc : (a32.decode (bits x.c 31 0)).isNan = false) (hquiet : ∀ l, l < 64 → laneOn f.k x.k l = true → ((s.cay r).laneSrc f.sfmt.toNat pa l).isNan = false) :
    vecReduce s r q false f x =
      vecReg s r q f.d (low32 (roundA32 (laneMax (laneOn f.k x.k) ((s.cay r).laneSrc f.sfmt.toNat pa) (a32.decode (bits x.c 31 0)))).code) := by
  unfold vecReduce
  extract_lets sf y on cc cv cBad
  rw [ha]
  dsimp -zeta only
  extract_lets vs t s1 nans bad best
  have hvs : vs = enabledVals (laneOn f.k x.k) (y.laneSrc sf pa) := by
    rw [← map_enabled, ← Cay.map_getVec]
  have hnans : nans = [] := by
    rw [show nans = (vs.zipIdx.filter _).map _ from rfl, hvs, enabledVals, filter_zipIdx_map_range_eq_nil, List.map_nil]
    intro l hl
    dsimp only
    split
    case isTrue hon => exact hquiet l hl hon
    case isFalse => rfl
  have hbad : bad = [] := by
    rw [show bad = cBad ++ nans from rfl, hnans, List.append_nil]
    exact if_neg (by rw [hc]; decide)
  have hbest : best = laneMax (laneOn f.k x.k) (y.laneSrc sf pa) cv := by
    rw [← foldl_enabled, ← hvs]
    exact if_pos (by rw [hbad]; rfl)
  rw [if_neg (by decide), hbad, vecInvalid_nil, hbest]

theorem vecReduce_sum (ha : s.lsOperand r.island x.a (vecBytes f.sfmt.toNat) (vecBytes f.sfmt.toNat) false = some pa) {vs : List Val}
    (hvs : vs = enabledVals (laneOn f.k x.k) ((s.cay r).laneSrc f.sfmt.toNat pa)) (hc : (a32.decode (bits x.c 31 0)).isNan = false)
    (hquiet : (vrsum ⟨bits x.c 31 0, false⟩ 0 (chunks 16 64 vs)).2 = []) (hsat : (vrsum ⟨bits x.c 31 0, false⟩ 0 (chunks 16 64 vs)).1.sat = false) :
    vecReduce s r q true f x = vecReg s r q f.d (low32 (vrsum ⟨bits x.c 31 0, false⟩ 0 (chunks 16 64 vs)).1.code) := by
  unfold vecReduce
  extract_lets sf y on cc cv cBad
  rw [ha]
  dsimp -zeta only
  extract_lets vs' t s1 nans bad best
  have hvs' : vs' = vs := by
    rw [hvs, ← map_enabled, ← Cay.map_getVec]
  have ht : t = vrsum ⟨cc, false⟩ 0 (chunks 16 64 vs) := congrArg (fun l => vrsum ⟨cc, false⟩ 0 (chunks 16 64 l)) hvs'
  have hcBad : cBad = [] := if_neg (by rw [hc]; decide)
  rw [if_pos rfl, hcBad, ht, hquiet, hsat, List.append_nil, vecInvalid_nil, show b2n false = 0 from rfl, vecSat_zero, show s1 = vecReg s r q f.d (low32 t.1.code) from rfl, ht]

end Reduce

/-! ### Approximate functions and plain conversions (R196, R198) -/

theorem vecApprox_eq {s : State} {r : CayRef} {f : VFields} {x : VArgs} {pa pd : Nat} {ff : FFmt} (q : QEntry) (g : AFun)
    (ha : s.lsOperand r.island x.a (vecBytes f.sfmt.toNat) (vecBytes f.sfmt.toNat) false = some pa)
    (hd : s.lsOperand r.island x.d (vecBytes f.dfmt.toNat) (vecBytes f.dfmt.toNat) true = some pd) (hff : fmtFloat f.dfmt.toNat = some ff) :
    ∃ sats bad, vecApprox s r q g f x = vecInvalid (vecSat (s.setCay r ((s.cay r).putVec f.dfmt.toNat pd (lanesOn f x) (((s.cay r).getVec f.sfmt.toNat pa).map fun v =>
      (approx g f.dfmt.toNat ff (decodeElem f.sfmt.toNat v) (v + f.sfmt.toNat * 2 ^ 32)).1.code))) r q.task sats) r q.task bad := by
  unfold vecApprox
  extract_lets sf df y on
  rw [ha, hd, hff]
  dsimp -zeta only
  extract_lets es sats bad s1
  refine ⟨sats, bad, ?_⟩
  rw [show s1 = s.setCay r (y.putVec df pd on (es.map fun e => e.1.code)) from rfl, show es = (y.getVec sf pa).map _ from rfl, List.map_map]
  rfl

/-- The plain formats have neither an unsigned form nor a block's code. -/
theorem plain_of_arithSrc {fmt : Nat} (h : arithSrc fmt = true) : fmt < 10 ∧ fmtUnsigned fmt = false := by
  have hcases : fmt ≤ 6 ∨ fmt = 9 := by simpa [arithSrc] using h
  refine ⟨by omega, ?_⟩
  simp only [fmtUnsigned, Bool.or_eq_false_iff, beq_eq_false_iff_ne]
  omega

theorem vecLegal_cvt {f : VFields} (hm : f.rmode.toNat < 2) (hb : f.blk = 0) (hsf : arithSrc f.sfmt.toNat = true) (hdf : arithSrc f.dfmt.toNat = true) : vecLegal .cvt f = true := by
  have hr : ¬ f.rmode = 3#2 := fun h3 => by rw [h3] at hm; exact absurd hm (by decide)
  simp [vecLegal, hr, hb, (plain_of_arithSrc hsf).1.le, (plain_of_arithSrc hdf).1.le, (plain_of_arithSrc hdf).2]

theorem vecRun_zero (fmt : Nat) : vecRun fmt 0 = 0 := by unfold vecRun; split <;> rfl

theorem scaleBytes_plain {fmt : Nat} (h : arithSrc fmt = true) : scaleBytes fmt 0 = 0 := by
  obtain ⟨h10, huns⟩ := plain_of_arithSrc h
  rw [scaleBytes, if_neg h10.ne, huns]
  rfl

theorem cvtSource_plain (y : Cay) {fmt : Nat} (h : arithSrc fmt = true) (pa sa : Nat) : cvtSource y fmt 0 pa sa = (List.range 64).map (y.laneSrc fmt pa) := by
  obtain ⟨h10, huns⟩ := plain_of_arithSrc h
  rw [cvtSource, Cay.getVec_eq, zipIdx_map_range, List.map_map]
  refine List.map_congr_left fun l _ => ?_
  simp only [Function.comp_apply, if_neg h10.ne, huns, Bool.false_eq_true, if_false, if_true]
  rfl

theorem convertVals_plain {fmt : Nat} (h : arithSrc fmt = true) (mode : Nat → RMode) (vs : List Val) :
    convertVals fmt 0 mode vs = ⟨vs.zipIdx.map fun p => encodeElem fmt (mode p.2) p.1, []⟩ := by
  rw [convertVals, if_neg (plain_of_arithSrc h).1.ne, if_pos rfl]

theorem vecConvert_plain {s : State} {r : CayRef} {f : VFields} {x : VArgs} {pa pd : Nat} (q : QEntry) (hm : f.rmode.toNat < 2) (hb : f.blk = 0)
    (hsf : arithSrc f.sfmt.toNat = true) (hdf : arithSrc f.dfmt.toNat = true)
    (ha : s.lsOperand r.island x.a (vecBytes f.sfmt.toNat) (vecBytes f.sfmt.toNat) false = some pa)
    (hd : s.lsOperand r.island x.d (vecBytes f.dfmt.toNat) (vecBytes f.dfmt.toNat) true = some pd) :
    ∃ sats bad, vecConvert s r q f x = vecInvalid (vecSat (s.setCay r ((s.cay r).putVec f.dfmt.toNat pd (lanesOn f x) ((List.range 64).map fun l =>
      (encodeElem f.dfmt.toNat (if f.rmode = 0 then .rne else .rtz) (if laneOn f.k x.k l then (s.cay r).laneSrc f.sfmt.toNat pa l else .zero)).code))) r q.task sats) r q.task bad := by
  unfold vecConvert
  extract_lets sf df sr dr sn dn oS oD oW y t stoch len on seed mode
  have hsr : sr = 0 := by rw [show sr = vecRun sf f.blk.toNat from rfl, hb]; exact vecRun_zero sf
  have hdr : dr = 0 := by rw [show dr = vecRun df f.blk.toNat from rfl, hb]; exact vecRun_zero df
  have hdn : dn = 0 := by
    rw [show dn = if fmtUnsigned df then 0 else scaleBytes df dr from rfl, (plain_of_arithSrc hdf).2, hdr]
    exact scaleBytes_plain hdf
  have hsn : sn = 0 := by rw [show sn = scaleBytes sf sr from rfl, hsr]; exact scaleBytes_plain hsf
  have huns : ¬ fmtUnsigned df = true := by rw [(plain_of_arithSrc hdf).2]; decide
  have hstoch : ¬ stoch := fun h2 => by rw [show f.rmode = 2 from h2] at hm; exact absurd hm (by decide)
  have hon : on = lanesOn f x := by
    refine List.map_congr_left fun l hl => ?_
    rw [show len = 64 from if_neg hstoch, decide_eq_true (List.mem_range.1 hl), Bool.and_true]
  have hmode : mode = fun _ => if f.rmode = 0 then .rne else .rtz := funext fun l => by
    refine ite_congr rfl (fun _ => rfl) fun h0 => if_pos (BitVec.eq_of_toNat_eq ?_)
    have hne : f.rmode.toNat ≠ 0 := fun h => h0 (BitVec.eq_of_toNat_eq h)
    show f.rmode.toNat = 1
    omega
  rw [ha, hd, show oS = some 0 from if_pos hsn, show oD = some 0 from if_pos hdn, show oW = some 0 from if_neg huns]
  dsimp -zeta only
  extract_lets vs sw zw nanChan cv sats bad c1 c2
  have hvs : vs = enabledVals (laneOn f.k x.k) (y.laneSrc sf pa) := by
    rw [← map_enabled, ← cvtSource_plain y hsf pa 0, show vs = (cvtSource y sf sr pa 0).zipIdx.map fun e => if on.getD e.2 false then e.1 else Val.zero from rfl, hsr, hon]
    rfl
  have hcv : cv.elems.map (·.code) = (List.range 64).map fun l =>
      (encodeElem df (if f.rmode = 0 then .rne else .rtz) (if laneOn f.k x.k l then y.laneSrc sf pa l else .zero)).code := by
    rw [show cv = convertVals df dr mode vs from if_neg huns, hdr, convertVals_plain hdf, hvs, enabledVals, zipIdx_map_range, List.map_map, List.map_map, hmode]
    rfl
  refine ⟨sats, bad, ?_⟩
  rw [show c2 = c1 from if_pos hdn, show c1 = y.putVec df pd on (cv.elems.map (·.code)) from rfl, hcv, hon]

/-- An operation whose work is to write lanes and report has written them. -/
theorem VecIssues.wrote_reporting {s : State} {c : CayRef} {t : Nat} {f : VFields} {op : VOp} {df pd : Nat} {on : List Bool} {cs : List Nat} (h : VecIssues s c t f)
    (hl : vecLegal op f = true) {w : State} (hrun : vecRuns s c t op f = (w, true))
    (hw : ∃ sats bad, w = vecInvalid (vecSat ((s.entered c t 4 (vecOp s c t op f)).setCay c (((s.entered c t 4 (vecOp s c t op f)).cay c).putVec df pd on cs)) c
      (s.queuedEntry c t (vecOp s c t op f)).task sats) c (s.queuedEntry c t (vecOp s c t op f)).task bad) :
    ∃ u, vecIssue c f s op = .next u ∧ Wrote s u c ((s.cay c).putVec df pd on cs).ls := by
  obtain ⟨sats, bad, rfl⟩ := hw
  exact h.wrote hl hrun ((spares_vecSat _ _ _ _).trans (spares_vecInvalid _ _ _ _))

section Settle
variable {s : State} {c : CayRef} {t : Nat} {f : VFields} {pa pd : Nat} (h : VecIssues s c t f)
  (ha : s.lsOperand c.island (((s.cay c).thr t).reg f.a).toNat (vecBytes f.sfmt.toNat) (vecBytes f.sfmt.toNat) false = some pa)
include h ha

theorem VecIssues.approximates {op : VOp} {g : AFun} {ff : FFmt} (hl : vecLegal op f = true) (hop : ∀ s r q x, runVec s r q op f x = (vecApprox s r q g f x, true))
    (hd : s.lsOperand c.island (((s.cay c).thr t).reg f.d).toNat (vecBytes f.dfmt.toNat) (vecBytes f.dfmt.toNat) true = some pd) (hff : fmtFloat f.dfmt.toNat = some ff) :
    ∃ u, vecIssue c f s op = .next u ∧ Wrote s u c ((s.cay c).putVec f.dfmt.toNat pd (lanesOn f (vecArgs ((s.cay c).thr t) f)) (((s.cay c).getVec f.sfmt.toNat pa).map fun v =>
      (approx g f.dfmt.toNat ff (decodeElem f.sfmt.toNat v) (v + f.sfmt.toNat * 2 ^ 32)).1.code)).ls := by
  have heq := vecApprox_eq (s := s.entered c t 4 (vecOp s c t op f)) (x := vecArgs ((s.cay c).thr t) f) (s.queuedEntry c t (vecOp s c t op f)) g ha hd hff
  rw [State.entered_getVec] at heq
  exact h.wrote_reporting hl (hop _ _ _ _) heq

theorem VecIssues.converts (hl : vecLegal .cvt f = true) (hm : f.rmode.toNat < 2) (hb : f.blk = 0) (hsf : arithSrc f.sfmt.toNat = true) (hdf : arithSrc f.dfmt.toNat = true)
    (hd : s.lsOperand c.island (((s.cay c).thr t).reg f.d).toNat (vecBytes f.dfmt.toNat) (vecBytes f.dfmt.toNat) true = some pd) :
    ∃ u, vecIssue c f s .cvt = .next u ∧ Wrote s u c ((s.cay c).putVec f.dfmt.toNat pd (lanesOn f (vecArgs ((s.cay c).thr t) f)) ((List.range 64).map fun l =>
      (encodeElem f.dfmt.toNat (if f.rmode = 0 then .rne else .rtz)
        (if laneOn f.k (((s.cay c).thr t).reg f.k).toNat l then (s.cay c).laneSrc f.sfmt.toNat pa l else .zero)).code)).ls := by
  have heq := vecConvert_plain (s := s.entered c t 4 (vecOp s c t .cvt f)) (x := vecArgs ((s.cay c).thr t) f) (s.queuedEntry c t (vecOp s c t .cvt f)) hm hb hsf hdf ha hd
  simp only [State.entered_laneSrc] at heq
  exact h.wrote_reporting hl rfl heq

theorem VecIssues.maximum (hl : vecLegal .rmax f = true) (hc : (a32.decode (bits (((s.cay c).thr t).reg f.c).toNat 31 0)).isNan = false)
    (hquiet : ∀ l, l < 64 → laneOn f.k (((s.cay c).thr t).reg f.k).toNat l = true → ((s.cay c).laneSrc f.sfmt.toNat pa l).isNan = false) :
    ∃ u, vecIssue c f s .rmax = .next u ∧ GaveReg s u c t f.d (low32 (roundA32 (laneMax (laneOn f.k (((s.cay c).thr t).reg f.k).toNat) ((s.cay c).laneSrc f.sfmt.toNat pa)
      (a32.decode (bits (((s.cay c).thr t).reg f.c).toNat 31 0)))).code (((s.cay c).thr t).reg f.d)) := by
  have hsrc := funext (State.entered_laneSrc s c t 4 (vecOp s c t .rmax f) f.sfmt.toNat pa)
  have heq := vecReduce_max (s := s.entered c t 4 (vecOp s c t .rmax f)) (x := vecArgs ((s.cay c).thr t) f) (s.queuedEntry c t (vecOp s c t .rmax f)) ha hc (by rw [hsrc]; exact hquiet)
  rw [hsrc] at heq
  exact h.gaveReg hl (congrArg (·, true) heq)

theorem VecIssues.sums (hl : vecLegal .rsum f = true) {vs : List Val} {cc : Nat} (hcc : cc = bits (((s.cay c).thr t).reg f.c).toNat 31 0)
    (hvs : vs = enabledVals (laneOn f.k (((s.cay c).thr t).reg f.k).toNat) ((s.cay c).laneSrc f.sfmt.toNat pa)) (hc : (a32.decode cc).isNan = false)
    (hquiet : (vrsum ⟨cc, false⟩ 0 (chunks 16 64 vs)).2 = []) (hsat : (vrsum ⟨cc, false⟩ 0 (chunks 16 64 vs)).1.sat = false) :
    ∃ u, vecIssue c f s .rsum = .next u ∧ GaveReg s u c t f.d (low32 (vrsum ⟨cc, false⟩ 0 (chunks 16 64 vs)).1.code (((s.cay c).thr t).reg f.d)) := by
  subst hcc
  have hsrc := funext (State.entered_laneSrc s c t 4 (vecOp s c t .rsum f) f.sfmt.toNat pa)
  have heq := vecReduce_sum (s := s.entered c t 4 (vecOp s c t .rsum f)) (x := vecArgs ((s.cay c).thr t) f) (s.queuedEntry c t (vecOp s c t .rsum f)) ha (by rw [hsrc]; exact hvs) hc hquiet hsat
  exact h.gaveReg hl (congrArg (·, true) heq)

end Settle

/-- Settles O12: a comparison and a reduction by the register they give, an approximate function and a conversion by the lanes they write. -/
theorem vectorReductions : Obligations.VectorReductions := by
  refine ⟨⟨?compare, ?maximum⟩, ?sum, ?approx, ?convert⟩
  case compare =>
    intro lt s c t f pa pb hi hs hv hr hrm hblk hsf hdf ha hb on x y hon hx hy hquiet
    obtain rfl : x = (s.cay c).laneSrc f.sfmt.toNat pa := funext hx
    obtain rfl : y = (s.cay c).laneSrc f.sfmt.toNat pb := funext hy
    obtain rfl : on = laneOn f.k (((s.cay c).thr t).reg f.k).toNat := funext hon
    have hgave : ∃ u, exec (if lt then .vcmplt c f else .vcmpeq c f) s = .next u ∧ GaveReg s u c t f.d (BitVec.ofNat 64 (laneMask
        (fun l => (lanesOn f (vecArgs ((s.cay c).thr t) f)).getD l false && laneRel lt ((s.cay c).laneSrc f.sfmt.toNat pa l) ((s.cay c).laneSrc f.sfmt.toNat pb l)) 64)) := by
      cases lt with
      | true =>
        obtain ⟨u, hu, hgave⟩ := VecIssues.compares (op := .cmplt) ⟨hi, hs, hv, hr⟩ (by simp [vecLegal, hrm, hblk, hsf, hdf]) (fun _ _ _ _ => rfl) ha hb hquiet
        exact ⟨u, (exec_vcmplt c f s).trans hu, hgave⟩
      | false =>
        obtain ⟨u, hu, hgave⟩ := VecIssues.compares (op := .cmpeq) ⟨hi, hs, hv, hr⟩ (by simp [vecLegal, hrm, hblk, hsf, hdf]) (fun _ _ _ _ => rfl) ha hb hquiet
        exact ⟨u, (exec_vcmpeq c f s).trans hu, hgave⟩
    obtain ⟨u, hu, ⟨honly, hothers⟩, hls, harrs, hpc, hreg⟩ := hgave
    refine ⟨u, hu, honly, hothers, hls, harrs, hpc, fun r hrd => ?_, fun hd l hl => ?_⟩
    · rw [hreg, if_neg fun hboth => hrd.elim (absurd hboth.1) hboth.2]
    · rw [hreg, if_pos ⟨rfl, hd⟩, BitVec.getLsbD_ofNat, decide_eq_true hl, Bool.true_and, testBit_laneMask _ hl, lanesOn_getD hl]
      rfl
  case maximum =>
    intro s c t f pa hi hs hv hr hrm hblk hsf hdf ha on x m hon hx hquiet hc hm
    obtain rfl : x = (s.cay c).laneSrc f.sfmt.toNat pa := funext hx
    obtain rfl : on = laneOn f.k (((s.cay c).thr t).reg f.k).toNat := funext hon
    subst hm
    obtain ⟨u, hu, ⟨honly, hothers⟩, hls, harrs, hpc, hreg⟩ := VecIssues.maximum ⟨hi, hs, hv, hr⟩ ha (by simp [vecLegal, hrm, hblk, hsf, hdf]) hc hquiet
    exact ⟨u, (exec_vrmax c f s).trans hu, honly, hothers, hls, harrs, hpc, hreg⟩
  case sum =>
    intro s c t f pa hi hs hv hr hrm hblk hsf hdf ha vs cc hcc hvs hc hquiet hsat
    obtain ⟨u, hu, ⟨honly, hothers⟩, hls, harrs, hpc, hreg⟩ := VecIssues.sums ⟨hi, hs, hv, hr⟩ ha (by simp [vecLegal, hrm, hblk, hsf, hdf]) hcc hvs hc hquiet hsat
    exact ⟨u, (exec_vrsum c f s).trans hu, honly, hothers, hls, harrs, hpc, hreg⟩
  case approx =>
    intro mk g hmem s c t f pa pd ff hi hs hv hr hrm hblk hsf hdf hff ha hd
    have hrow : ∃ op, (∀ s, exec (mk c f) s = vecIssue c f s op) ∧ vecLegal op f = true ∧ ∀ s r q x, runVec s r q op f x = (vecApprox s r q g f x, true) := by
      simp only [List.mem_cons, Prod.mk.injEq, List.not_mem_nil, or_false] at hmem
      have hlegal : (f.rmode == 0 && f.blk == 0 && arithSrc f.sfmt.toNat && arithDst f.dfmt.toNat) = true := by rw [hrm, hblk, hsf, hdf]; rfl
      obtain ⟨rfl, rfl⟩ | ⟨rfl, rfl⟩ | ⟨rfl, rfl⟩ | ⟨rfl, rfl⟩ | ⟨rfl, rfl⟩ := hmem
      · exact ⟨.exp2, exec_vexp2 c f, hlegal, fun _ _ _ _ => rfl⟩
      · exact ⟨.log2, exec_vlog2 c f, hlegal, fun _ _ _ _ => rfl⟩
      · exact ⟨.rcp, exec_vrcp c f, hlegal, fun _ _ _ _ => rfl⟩
      · exact ⟨.rsqrt, exec_vrsqrt c f, hlegal, fun _ _ _ _ => rfl⟩
      · exact ⟨.sqrt, exec_vsqrt c f, hlegal, fun _ _ _ _ => rfl⟩
    obtain ⟨op, hexec, hl, hop⟩ := hrow
    obtain ⟨u, hu, hwrote⟩ := VecIssues.approximates ⟨hi, hs, hv, hr⟩ ha hl hop hd hff
    exact ⟨u, (hexec s).trans hu, hwrote.ls, hwrote.other, fun a => by rw [hwrote.hbm]⟩
  case convert =>
    intro s c t f pa pd hi hs hv hr hm hblk hsf hdf ha hd
    obtain ⟨u, hu, hwrote⟩ := VecIssues.converts ⟨hi, hs, hv, hr⟩ ha (vecLegal_cvt hm hblk hsf hdf) hm hblk hsf hdf hd
    exact ⟨u, (exec_vcvt c f s).trans hu, hwrote.ls, hwrote.other, fun a => by rw [hwrote.hbm]⟩

end Sys2Proof.Machine
end

section
/-! PROOFS. The journal's index: the entry of a record after entries are changed by name, and what writing the journal's copies leaves (R204, R206, R216, R229, R230, R233). -/
namespace Sys2Proof.Machine

/-! ### Entries by name -/

theorem Entry.is_iff {e : Entry} {c q n : Nat} : e.is c q n = true ↔ e.ctx = c ∧ e.stream = q ∧ e.seq = n := by simp [Entry.is, and_assoc]

/-- An entry found under a name bears it. -/
theorem State.entry_named {s : State} {c q n : Nat} {e : Entry} (h : s.entry c q n = some e) : e.ctx = c ∧ e.stream = q ∧ e.seq = n :=
  Entry.is_iff.1 (List.find?_some (p := fun x : Entry => x.is c q n) h)

theorem State.entry_congr {s u : State} (h : u.entries = s.entries) (c q n : Nat) : u.entry c q n = s.entry c q n := by rw [State.entry, State.entry, h]

section Named
variable {s : State} {c q n : Nat} {e : Entry} {f : Entry → Entry}

/-- A change of the entries of one name that keeps their name finds every entry where it was, the one of that name changed. -/
theorem State.entry_modEntry (hf : ∀ x, x.is c q n = true → (f x).is c q n = true) (c' q' n' : Nat) :
    (s.modEntry c q n f).entry c' q' n' = (s.entry c' q' n').map fun x => if x.is c q n then f x else x := by
  have hname : ((fun x : Entry => x.is c' q' n') ∘ fun x => if x.is c q n then f x else x) = fun x => x.is c' q' n' := funext fun x => by
    by_cases hx : x.is c q n = true
    · obtain ⟨hc, hq, hn⟩ := Entry.is_iff.1 hx
      obtain ⟨hfc, hfq, hfn⟩ := Entry.is_iff.1 (hf x hx)
      rw [Function.comp_apply, if_pos hx, Entry.is, Entry.is, hfc, hfq, hfn, hc, hq, hn]
    · rw [Function.comp_apply, if_neg hx]
  rw [State.entry, State.modEntry, List.find?_map, hname, ← State.entry]

theorem State.entry_modEntry_same (hf : ∀ x, x.is c q n = true → (f x).is c q n = true) (h : s.entry c q n = some e) :
    (s.modEntry c q n f).entry c q n = some (f e) := by
  rw [State.entry_modEntry hf, h, Option.map_some, if_pos (Entry.is_iff.2 (State.entry_named h))]

theorem State.entry_modEntry_ne (hf : ∀ x, x.is c q n = true → (f x).is c q n = true) {c' q' n' : Nat} (hne : ¬ (c' = c ∧ q' = q ∧ n' = n)) :
    (s.modEntry c q n f).entry c' q' n' = s.entry c' q' n' := by
  rw [State.entry_modEntry hf]
  cases h : s.entry c' q' n' with
  | none => rfl
  | some x =>
    obtain ⟨rfl, rfl, rfl⟩ := State.entry_named h
    rw [Option.map_some, if_neg fun hx => hne (Entry.is_iff.1 hx)]

theorem OnlyEntry.modEntry (s : State) (hf : ∀ x, x.is c q n = true → (f x).is c q n = true) : OnlyEntry s (s.modEntry c q n f) c q n :=
  ⟨rfl, fun _ _ _ hne => State.entry_modEntry_ne hf hne⟩

theorem OnlyEntry.trans {t u : State} (h : OnlyEntry s t c q n) (g : OnlyEntry t u c q n) : OnlyEntry s u c q n :=
  ⟨by conv_lhs => rw [g.1, h.1], fun c' q' n' hne => (g.2 c' q' n' hne).trans (h.2 c' q' n' hne)⟩

/-! ### Commit points (R216) -/

/-- Work that begins marks its record's entry. -/
theorem State.entry_begin (h : s.entry c q n = some e) : (s.begin e).entry c q n = some { e with begun := true } := by
  obtain ⟨rfl, rfl, rfl⟩ := State.entry_named h
  exact State.entry_modEntry_same (f := fun x => { x with begun := true }) (fun _ hx => hx) h

theorem OnlyEntry.begin (h : s.entry c q n = some e) : OnlyEntry s (s.begin e) c q n := by
  obtain ⟨rfl, rfl, rfl⟩ := State.entry_named h
  exact .modEntry s fun _ hx => hx

theorem reach_named (st d : Nat) (x : Entry) (hx : x.is c q n = true) : (if x.point.isSome then x else { x with point := some (st, d) } : Entry).is c q n = true := by
  split <;> exact hx

/-- A record without a commit point reaches it as told. -/
theorem State.entry_reach (h : s.entry c q n = some e) (hpoint : e.point = none) (st d : Nat) :
    (s.reach c q n st d).entry c q n = some { e with point := some (st, d) } := by
  rw [State.reach, State.entry_modEntry_same (reach_named st d) h, hpoint]
  rfl

theorem OnlyEntry.reach (s : State) (c q n st d : Nat) : OnlyEntry s (s.reach c q n st d) c q n := .modEntry s (reach_named st d)

/-- A record whose work begins and at once ends. -/
theorem State.entry_begin_reach (h : s.entry c q n = some e) (hpoint : e.point = none) (st d : Nat) :
    ((s.begin e).reach c q n st d).entry c q n = some { e with begun := true, point := some (st, d) } :=
  State.entry_reach (State.entry_begin h) hpoint st d

theorem OnlyEntry.begin_reach (h : s.entry c q n = some e) (st d : Nat) : OnlyEntry s ((s.begin e).reach c q n st d) c q n :=
  (OnlyEntry.begin h).trans (.reach _ c q n st d)

theorem Entry.ripe_point {k : Nat} (h : e.ripe k = true) : e.point = none := by
  simp only [Entry.ripe, Bool.and_eq_true, Option.isNone_iff_eq_none] at h
  exact h.2

/-- The work of a started record of its kind. -/
theorem State.withRecord_ripe {k : Nat} (h : s.entry c q n = some e) (hr : e.ripe k = true) (w : Entry → State) : s.withRecord c q n k w = .next (w e) := by
  simp only [State.withRecord, h, if_pos hr]

end Named

/-! ### The journal's copies and events (R230, R233, R506 to R508) -/

/-- What writing the journal's copies and raising events leave: all but HBM and the caches, the counts of invalidations, the marks of events, the free values, the number of the
next transaction and what is sent. What has been sent stays sent. -/
structure Logs (s t : State) : Prop where
  only : t = { s with ics := t.ics, regs := t.regs, hbm := t.hbm, poison := t.poison, free := t.free, txnNum := t.txnNum, outbox := t.outbox }
  regs : ∀ k, k % 2 ^ 12 ∉ [Fld.icInvalCnt.off, 0x010, 0x078, 0x07C] → t.reg k = s.reg k
  sent : s.outbox <+: t.outbox

theorem State.reg_hbmWrite (s : State) (w : Option Nat) (a : Nat) (bs : List (BitVec 8)) {k : Nat} (hk : k % 2 ^ 12 ≠ Fld.icInvalCnt.off) :
    (s.hbmWrite w a bs).reg k = s.reg k := by
  have hin : ∀ (t : State) (l i : Nat), (t.invalidateIn w l i).reg k = t.reg k := fun t l i => by
    unfold State.invalidateIn
    dsimp only
    split
    · rfl
    · rw [State.reg_bump_of_off _ _ _ _ (by decide) hk]
      rfl
  have hline : ∀ (t : State) (l : Nat), (t.invalidateLine w l).reg k = t.reg k := fun t l => foldl_keeps (fun t => t.reg k) _ (fun t i => hin t l i) _ t
  unfold State.hbmWrite
  split
  · rfl
  · exact foldl_keeps (fun t => t.reg k) _ hline _ s

theorem State.raiseModule_sent (s : State) (v : Nat) : s.outbox <+: (s.raiseModule v).outbox := by
  unfold State.raiseModule
  split
  · exact List.prefix_refl _
  · exact List.prefix_append _ _

theorem State.raiseAt_sent (fuel : Nat) (s : State) (cls inst n : Nat) : s.outbox <+: (State.raiseAt fuel s cls inst n).outbox := by
  induction fuel generalizing s cls inst n with
  | zero => exact List.prefix_refl _
  | succ fuel ih =>
    unfold State.raiseAt
    dsimp only
    split
    case isFalse => exact List.prefix_refl _
    case isTrue =>
      split
      case isFalse => exact List.prefix_refl _
      case isTrue =>
        split
        case isTrue => exact State.raiseModule_sent (s.setReg _ _) _
        case isFalse => exact ih ((s.setReg _ _).bump _ _) _ _ _

namespace Logs

variable {s t u : State}

theorem refl (s : State) : Logs s s := ⟨rfl, fun _ _ => rfl, List.prefix_refl _⟩

theorem trans (h : Logs s t) (g : Logs t u) : Logs s u where
  only := by conv_lhs => rw [g.only, h.only]
  regs k hk := (g.regs k hk).trans (h.regs k hk)
  sent := h.sent.trans g.sent

theorem ite {c : Prop} [Decidable c] (ht : Logs s t) (hu : Logs s u) : Logs s (if c then t else u) := by split <;> assumption

theorem hbmWrite (s : State) (w : Option Nat) (a : Nat) (bs : List (BitVec 8)) : Logs s (s.hbmWrite w a bs) where
  only := by conv_lhs => rw [State.hbmWrite_only]
             rw [State.hbmWrite_only]
  regs k hk := s.reg_hbmWrite w a bs fun h => hk (by rw [h]; decide)
  sent := by rw [State.hbmWrite_only]

theorem raise (s : State) (cls inst n : Nat) : Logs s (s.raise cls inst n) where
  only := by conv_lhs => rw [State.raise_only]
             rw [State.raise_only]
  regs k hk := by
    simp only [List.mem_cons, List.not_mem_nil, or_false, not_or] at hk
    exact s.reg_raise_ne cls inst n k hk.2.1 hk.2.2.1 hk.2.2.2
  sent := State.raiseAt_sent _ s _ _ _

theorem raiseModule (s : State) (v : Nat) : Logs s (s.raiseModule v) where
  only := by conv_lhs => rw [State.raiseModule_only]
             rw [State.raiseModule_only]
  regs k hk := s.reg_raiseModule_ne v k fun h => hk (by rw [h]; decide)
  sent := s.raiseModule_sent v

theorem raiseVector (s : State) (c v : Nat) : Logs s (s.raiseVector c v) := by
  have hdrop : Logs s (s.bump .irqDropCnt c) := ⟨rfl, fun k hk => s.reg_bump_of_off _ _ _ (by decide) fun h => hk (by rw [h]; decide), List.prefix_refl _⟩
  exact ite (raiseModule s _) (hdrop.trans (raise _ _ _ _))

theorem fillFrom (s : State) (old : Nat) : Logs s (s.fillFrom old) := ite (raise s _ _ _) (refl s)

theorem fld (h : Logs s t) {f : Fld} (hf : f.off < 2 ^ 12 ∧ f.off ∉ [Fld.icInvalCnt.off, 0x010, 0x078, 0x07C]) (i u : Nat) : t.fld f i u = s.fld f i u := by
  rw [State.fld, State.fld, h.regs _ ((f.key_mod i u hf.1).symm ▸ hf.2)]

theorem entries (h : Logs s t) : t.entries = s.entries := by rw [h.only]

theorem groups (h : Logs s t) : t.groups = s.groups := by rw [h.only]

theorem tasks (h : Logs s t) : t.tasks = s.tasks := by rw [h.only]

theorem cays (h : Logs s t) : t.cays = s.cays := by rw [h.only]

end Logs

/-- An entry's two copies are written, and it is durable. -/
theorem State.journal_logs (s : State) (e : Entry) :
    ∃ t, Logs s t ∧ s.journal e = t.modEntry e.ctx e.stream e.seq fun x => { x with update := x.update + 1, durable := true } :=
  ⟨_, (Logs.ite (Logs.refl s) (Logs.hbmWrite s _ _ _)).trans (.ite (.refl _) (.hbmWrite _ _ _ _)), rfl⟩

section Journalled
variable {s : State} {c q n : Nat} {e x : Entry}

theorem State.journal_tasks (s : State) (e : Entry) : (s.journal e).tasks = s.tasks := by
  obtain ⟨t, ht, h⟩ := s.journal_logs e
  rw [h, State.modEntry, ht.tasks]

theorem State.journal_cays (s : State) (e : Entry) : (s.journal e).cays = s.cays := by
  obtain ⟨t, ht, h⟩ := s.journal_logs e
  rw [h, State.modEntry, ht.cays]

theorem State.journal_sent (s : State) (e : Entry) : s.outbox <+: (s.journal e).outbox := by
  obtain ⟨t, ht, h⟩ := s.journal_logs e
  rw [h]
  exact ht.sent

theorem State.entry_journal_same (h : s.entry c q n = some x) (he : e.is c q n = true) : (s.journal e).entry c q n = some { x with update := x.update + 1, durable := true } := by
  obtain ⟨rfl, rfl, rfl⟩ := Entry.is_iff.1 he
  obtain ⟨t, ht, hj⟩ := s.journal_logs e
  rw [hj]
  exact State.entry_modEntry_same (f := fun x => { x with update := x.update + 1, durable := true }) (fun _ hx => hx) ((State.entry_congr ht.entries _ _ _).trans h)

theorem State.entry_journal_ne (he : e.is c q n = true) {c' q' n' : Nat} (hne : ¬ (c' = c ∧ q' = q ∧ n' = n)) : (s.journal e).entry c' q' n' = s.entry c' q' n' := by
  obtain ⟨rfl, rfl, rfl⟩ := Entry.is_iff.1 he
  obtain ⟨t, ht, hj⟩ := s.journal_logs e
  rw [hj]
  exact (State.entry_modEntry_ne (f := fun x => { x with update := x.update + 1, durable := true }) (fun _ hx => hx) hne).trans (State.entry_congr ht.entries _ _ _)

end Journalled

end Sys2Proof.Machine
end

section
/-! PROOFS. Landing windows: 64-bit values in pairs of registers, acceptance, and the responses owed (R202, R211, R212, R237). -/
namespace Sys2Proof.Machine

/-! ### 64-bit values (R542) -/

/-- Two fields hold the halves of a 64-bit value, each in a register of its own. -/
def Fld.halves (lo hi : Fld) : Bool :=
  lo.lo == 0 && lo.hi == 31 && hi.lo == 0 && hi.hi == 31 && decide (lo.off < 2 ^ 12) && decide (hi.off < 2 ^ 12) && lo.off != hi.off

theorem State.fld64_put64 (s : State) {lo hi : Fld} (h : lo.halves hi = true) (v i : Nat) : (s.put64 lo hi v i).fld64 lo hi i = v % 2 ^ 64 := by
  simp only [Fld.halves, Bool.and_eq_true, beq_iff_eq, decide_eq_true_eq, bne_iff_ne, ne_eq] at h
  obtain ⟨⟨⟨⟨⟨⟨hll, hlh⟩, hhl⟩, hhh⟩, hlo⟩, hho⟩, hne⟩ := h
  have hkey : lo.key i 0 ≠ hi.key i 0 := fun hk => hne (by rw [← lo.key_mod i 0 hlo, hk, hi.key_mod i 0 hho])
  have hslo : lo.sound = true := by rw [Fld.sound, hll, hlh]; rfl
  have hshi : hi.sound = true := by rw [Fld.sound, hhl, hhh]; rfl
  rw [State.fld64, State.put64, State.fld_setFld_same _ _ _ _ _ hshi, State.fld_setFld_ne _ _ _ _ _ _ _ _ hshi (.inl hkey), State.fld_setFld_same _ _ _ _ _ hslo,
    hll, hlh, hhl, hhh]
  omega

theorem State.fld64_congr {s u : State} {lo hi : Fld} {i : Nat} (hlo : u.fld lo i = s.fld lo i) (hhi : u.fld hi i = s.fld hi i) : u.fld64 lo hi i = s.fld64 lo hi i := by
  rw [State.fld64, State.fld64, hlo, hhi]

theorem State.fld_setFld_of_off (s : State) {f g : Fld} (v i j : Nat) (h : (f.off < 2 ^ 12 ∧ g.off < 2 ^ 12) ∧ g.off ≠ f.off) : (s.setFld f v i).fld g j = s.fld g j := by
  rw [State.fld, State.fld, s.reg_setFld_of_off v i 0 h.1.1 ((g.key_mod j 0 h.1.2).symm ▸ h.2)]

/-- The registers of a 64-bit value are the only ones its write changes. -/
theorem State.put64_onlyRegs (s : State) (lo hi : Fld) (v i : Nat) : OnlyRegs s (s.put64 lo hi v i) [lo.key i 0, hi.key i 0] := fun k hk => by
  simp only [List.mem_cons, List.not_mem_nil, or_false, not_or] at hk
  rw [State.put64, State.reg_setFld_ne _ _ _ _ _ _ hk.2, State.reg_setFld_ne _ _ _ _ _ _ hk.1]

theorem State.fld_put64_of_off (s : State) {lo hi g : Fld} (v i j : Nat) (h : ((lo.off < 2 ^ 12 ∧ hi.off < 2 ^ 12) ∧ g.off < 2 ^ 12) ∧ g.off ≠ lo.off ∧ g.off ≠ hi.off) :
    (s.put64 lo hi v i).fld g j = s.fld g j := by
  rw [State.put64, State.fld_setFld_of_off _ _ _ _ ⟨⟨h.1.1.2, h.1.2⟩, h.2.2⟩, State.fld_setFld_of_off _ _ _ _ ⟨⟨h.1.1.1, h.1.2⟩, h.2.1⟩]

theorem State.fld_modEntry (s : State) (c q n : Nat) (g : Entry → Entry) (f : Fld) (i u : Nat) : (s.modEntry c q n g).fld f i u = s.fld f i u := rfl

theorem State.fld_emit (s : State) (x : Emit) (f : Fld) (i u : Nat) : (s.emit x).fld f i u = s.fld f i u := rfl

theorem leNat_lt (bs : List (BitVec 8)) : leNat bs < 256 ^ bs.length := by
  induction bs with
  | nil => exact Nat.one_pos
  | cons b bs ih =>
    have hb := b.isLt
    rw [leNat, List.length_cons, pow_succ]
    omega

theorem leAt_lt (bs : List (BitVec 8)) (o n : Nat) : leAt bs o n < 256 ^ n :=
  (leNat_lt _).trans_le (Nat.pow_le_pow_right (by decide) (List.length_take_le _ _))

/-! ### FILL (R239) -/

/-- JOURNAL_HIGH is all that a change of FILL can raise. -/
theorem State.fillFrom_only (s : State) (old : Nat) : s.fillFrom old = { s with regs := (s.fillFrom old).regs, outbox := (s.fillFrom old).outbox } := by
  unfold State.fillFrom
  dsimp only
  split
  · exact State.raise_only _ _ _ _
  · rfl

/-! ### ASTAT and ASEQ (R211) -/

section Answers
variable (s : State) (i : Nat)

theorem State.setAstat_only (a n : Nat) : s.setAstat i a n = { s with regs := (s.setAstat i a n).regs } := by
  unfold State.setAstat
  dsimp only
  split <;> rfl

theorem State.fld_setAstat {a : Nat} (n : Nat) (h : a < 256) : (s.setAstat i a n).fld .lwAstatAstat i = a := by
  have hput : ((s.setFld .lwAstatAstat a i).put64 .lwAseqLo .lwAseqHi n i).fld .lwAstatAstat i = a :=
    (State.fld_put64_of_off _ _ _ _ (by decide)).trans (State.fld_setFld_of_lt _ _ (by decide) h)
  unfold State.setAstat
  dsimp only
  split
  · exact hput
  · exact (State.fld_setFld_of_off _ _ _ _ (by decide)).trans hput

theorem State.fld64_setAstat {a n : Nat} (ha : a ≤ 1) (hn : n < 2 ^ 64) : (s.setAstat i a n).fld64 .lwAseqLo .lwAseqHi i = n := by
  unfold State.setAstat
  rw [if_pos ha, State.fld64_put64 _ (by decide), Nat.mod_eq_of_lt hn]

/-- A refusal is counted. -/
theorem State.counted_setAstat {a : Nat} (n : Nat) (h : 1 < a) : Counted s (s.setAstat i a n) .accRefuseCnt 0 := by
  have hput : ((s.setFld .lwAstatAstat a i).put64 .lwAseqLo .lwAseqHi n i).fld .accRefuseCnt 0 = s.fld .accRefuseCnt 0 :=
    (State.fld_put64_of_off _ _ _ _ (by decide)).trans (State.fld_setFld_of_off _ _ _ _ (by decide))
  unfold State.setAstat
  rw [if_neg (not_le.2 h), Counted, ← hput]
  exact State.counted_bump _ 0 (by decide)

end Answers

/-! ### Acceptance (R204, R211, R212) -/

theorem windowAt_of_lt {c q : Nat} (hc : c < 64) (hq : q < 16) : windowAt (0x03C00000 + c * 2 ^ 16 + q * 2 ^ 12) = some (c, q) := by
  rw [windowAt, if_pos (by omega)]
  congr 2 <;> omega

/-- The next state when a record that names no group is accepted. -/
theorem State.accept_ungrouped (s : State) {e : Entry} (h : e.names = none) :
    s.accept e = (({ s with entries := s.entries ++ [e] } : State).put64 .lwNextLo .lwNextHi (e.seq + 1) (lwInst e.ctx e.stream)).fillFrom s.jnlFill := by
  rw [State.accept, State.joinGroup, h]

section Accept
variable (s : State) {e : Entry} (h : e.names = none)
include h

theorem State.accept_only : s.accept e = { s with regs := (s.accept e).regs, entries := s.entries ++ [e], outbox := (s.accept e).outbox } := by
  rw [State.accept_ungrouped s h, State.fillFrom_only]
  rfl

theorem State.accept_next : (s.accept e).lwNext e.ctx e.stream = (e.seq + 1) % 2 ^ 64 := by
  have hlog := Logs.fillFrom (({ s with entries := s.entries ++ [e] } : State).put64 .lwNextLo .lwNextHi (e.seq + 1) (lwInst e.ctx e.stream)) s.jnlFill
  rw [State.accept_ungrouped s h, State.lwNext, State.fld64_congr (hlog.fld (by decide) _ _) (hlog.fld (by decide) _ _), State.fld64_put64 _ (by decide)]

/-- Acceptance leaves the registers of the window but the next number. -/
theorem State.fld_accept {f : Fld} (hf : f.off < 2 ^ 12 ∧ f.off ∉ [Fld.icInvalCnt.off, 0x010, 0x078, 0x07C]) (hnext : f.off ≠ Fld.lwNextLo.off ∧ f.off ≠ Fld.lwNextHi.off) (i : Nat) :
    (s.accept e).fld f i = s.fld f i := by
  rw [State.accept_ungrouped s h, (Logs.fillFrom _ _).fld hf, State.fld_put64_of_off _ _ _ _ ⟨⟨by decide, hf.1⟩, hnext⟩]
  exact State.fld_congr rfl f i 0

end Accept

/-- A record accepted after its window's answer was placed: beside the entry, only registers and messages differ. -/
theorem State.setAstat_accept_only (s : State) (i a n : Nat) {e : Entry} (h : e.names = none) :
    (s.setAstat i a n).accept e =
      { s with regs := ((s.setAstat i a n).accept e).regs, entries := s.entries ++ [e], outbox := ((s.setAstat i a n).accept e).outbox } := by
  obtain ⟨r, hr⟩ : ∃ r, s.setAstat i a n = { s with regs := r } := ⟨_, s.setAstat_only i a n⟩
  rw [hr]
  exact State.accept_only _ h

/-- A write of 128 bytes at the start of a window that is ready, by one who may use it. -/
structure Lands (s : State) (ctx c q : Nat) (data : List (BitVec 8)) : Prop where
  ctxLt : c < 64
  streamLt : q < 16
  ready : s.notReady = false
  size : data.length = 128
  on : s.ctxOn ctx = true
  owner : ctx = 0 ∨ ctx = c

namespace Lands
variable {s : State} {ctx tag c q : Nat} {data : List (BitVec 8)} {e : Entry}

/-- What such a write does, by the acceptance status of its record. -/
theorem landingWrite_eq {a : Nat} (h : Lands s ctx c q data) (he : e = mkEntry c q data s.ptime s.freeSlot [(tag, 0)]) (hstat : s.astat e = a) :
    s.landingWrite ctx tag (0x03C00000 + c * 2 ^ 16 + q * 2 ^ 12) data =
      if a = 0 then (s.setAstat (lwInst c q) a (s.aseq e a)).accept e
      else if a = 1 then
        if (s.entry c q e.seq).any (fun x => x.durable) then (s.setAstat (lwInst c q) a (s.aseq e a)).emit (.lwResponse ctx tag (accResult a (s.aseq e a)))
        else (s.setAstat (lwInst c q) a (s.aseq e a)).modEntry c q e.seq (fun x => { x with owed := x.owed ++ [(tag, 1)] })
      else (s.setAstat (lwInst c q) a (s.aseq e a)).emit (.lwResponse ctx tag (accResult a (s.aseq e a))) := by
  have howner : (ctx == 0 || ctx == c) = true := by simpa using h.owner
  have hplace : ¬ (data.length ≠ 128 ∨ (0x03C00000 + c * 2 ^ 16 + q * 2 ^ 12) % 2 ^ 12 ≠ 0) := fun hbad => hbad.elim (· h.size) fun hoff => hoff (by omega)
  unfold State.landingWrite
  rw [windowAt_of_lt h.ctxLt h.streamLt]
  dsimp only
  rw [if_neg (by rw [h.ready]; decide), if_neg hplace, if_neg (by rw [h.on, howner]; decide), ← he, hstat]

/-- Its record passes every check: the entry is accepted. -/
theorem accepts (h : Lands s ctx c q data) (he : e = mkEntry c q data s.ptime s.freeSlot [(tag, 0)]) (hstat : s.astat e = 0) :
    s.landingWrite ctx tag (0x03C00000 + c * 2 ^ 16 + q * 2 ^ 12) data = (s.setAstat (lwInst c q) 0 e.seq).accept e :=
  (h.landingWrite_eq he hstat).trans (if_pos rfl)

/-- Its record stands in the journal's index already, not yet durable: one more response is owed. -/
theorem repeats {x : Entry} (h : Lands s ctx c q data) (he : e = mkEntry c q data s.ptime s.freeSlot [(tag, 0)]) (hx : s.entry c q e.seq = some x) (hraw : x.raw = data)
    (hdur : x.durable = false) :
    s.landingWrite ctx tag (0x03C00000 + c * 2 ^ 16 + q * 2 ^ 12) data =
      (s.setAstat (lwInst c q) 1 e.seq).modEntry c q e.seq fun x => { x with owed := x.owed ++ [(tag, 1)] } := by
  have hstat : s.astat e = 1 := by
    have hname : s.entry e.ctx e.stream e.seq = some x := by rw [he] at hx ⊢; exact hx
    rw [State.astat, hname]
    exact if_pos (by rw [hraw, he]; rfl)
  rw [h.landingWrite_eq he hstat, if_neg (by decide), if_pos rfl, hx, Option.any_some, if_neg (by rw [hdur]; decide)]
  rfl

end Lands

theorem State.landingWrite_notReady {s : State} {c q : Nat} (ctx tag : Nat) (data : List (BitVec 8)) (hc : c < 64) (hq : q < 16) (h : s.notReady = true) :
    s.landingWrite ctx tag (0x03C00000 + c * 2 ^ 16 + q * 2 ^ 12) data = (s.setAstat (lwInst c q) 0x0B 0).emit (.lwResponse ctx tag (accResult 0x0B 0)) := by
  rw [State.landingWrite, windowAt_of_lt hc hq]
  exact if_pos h

/-- The response to a record whose entry is durable. -/
theorem execLandingWindowResponse_durable {s : State} {c q n tag a : Nat} {e : Entry} {rest : List (Nat × Nat)} (h : s.entry c q n = some e) (howed : e.owed = (tag, a) :: rest)
    (hdur : e.durable = true) :
    execLandingWindowResponse c q n s = .next ((s.modEntry c q n fun x => { x with owed := rest }).emit (.lwResponse c tag (accResult a n))) := by
  simp only [execLandingWindowResponse, h, howed]
  exact when_pos hdur _ _

/-! ### LW_CTL (R237, R238) -/

/-- A write of LW_CTL changes that register alone: EN, and where the owner gives it in range, DEPTH. -/
theorem State.writeLwCtl_spec (s : State) (w c q v : Nat) :
    s.writeLwCtl w c q v = { s with regs := (s.writeLwCtl w c q v).regs } ∧ OnlyRegs s (s.writeLwCtl w c q v) [Fld.key .lwCtlEn (lwInst c q) 0] ∧
      (s.writeLwCtl w c q v).fld .lwCtlEn (lwInst c q) = v % 2 ∧
      (s.writeLwCtl w c q v).fld .lwCtlDepth (lwInst c q) = if w = 0 ∧ 1 ≤ bits v 28 16 ∧ bits v 28 16 ≤ 4096 then bits v 28 16 else s.fld .lwCtlDepth (lwInst c q) := by
  have hen : ∀ t : State, (t.setFld .lwCtlEn (bits v 0 0) (lwInst c q)).fld .lwCtlEn (lwInst c q) = v % 2 := fun t => by
    rw [State.fld_setFld_same _ _ _ _ _ (by decide)]
    exact Nat.mod_mod _ _
  have hdepth : ∀ t : State, (t.setFld .lwCtlEn (bits v 0 0) (lwInst c q)).fld .lwCtlDepth (lwInst c q) = t.fld .lwCtlDepth (lwInst c q) := fun t =>
    t.fld_setFld_ne _ _ _ _ _ _ _ (by decide) (.inr (by decide))
  unfold State.writeLwCtl
  dsimp only
  split
  case isTrue h =>
    refine ⟨rfl, fun k hk => ?_, hen _, ?_⟩
    · exact (State.setFld_onlyRegs _ .lwCtlEn _ _ 0 k hk).trans (State.setFld_onlyRegs s .lwCtlDepth _ _ 0 k hk)
    · rw [hdepth]
      exact State.fld_setFld_of_lt s _ (by decide) (lt_of_le_of_lt h.2.2 (by decide))
  case isFalse h => exact ⟨rfl, State.setFld_onlyRegs _ _ _ _ _, hen _, hdepth _⟩

/-! ### The statement -/

/-- Settles O23: each command by what it leaves of the journal's index and of the window's registers (Lands.accepts, Lands.repeats, State.landingWrite_notReady,
execLandingWindowResponse_durable, State.writeLwCtl_spec). -/
theorem landingWindows : Obligations.LandingWindows := by
  refine ⟨?accepts, ?repeats, ?notReady, ?responds, fun s w c q v => ⟨_, exec_lwEnable w c q v s, s.writeLwCtl_spec w c q v⟩⟩
  case accepts =>
    intro s ctx tag c q data e hc hq hready hsize hon howner he hstat hnames
    have hname : e.ctx = c ∧ e.stream = q ∧ e.seq = leAt data 0 8 := by rw [he]; exact ⟨rfl, rfl, rfl⟩
    obtain ⟨rfl, rfl, hseq⟩ := hname
    have hnext := State.accept_next (s.setAstat (lwInst e.ctx e.stream) 0 e.seq) hnames
    have honly := s.setAstat_accept_only (lwInst e.ctx e.stream) 0 e.seq hnames
    have hentries : ((s.setAstat (lwInst e.ctx e.stream) 0 e.seq).accept e).entries = s.entries ++ [e] := by rw [honly]
    refine ⟨_, (exec_landingWindowWrite ctx tag _ data s).trans (congrArg Host.Outcome.next (Lands.accepts ⟨hc, hq, hready, hsize, hon, howner⟩ he hstat)), hentries, ?_, hnext, ?_, ?_⟩
    · rwa [hentries]
    · rw [State.fld_accept _ hnames (by decide) (by decide), State.fld_setAstat _ _ _ (by decide)]
    · rw [State.fld64_congr (State.fld_accept _ hnames (by decide) (by decide) _) (State.fld_accept _ hnames (by decide) (by decide) _),
        State.fld64_setAstat _ _ (by decide) (hseq ▸ leAt_lt data 0 8)]
  case repeats =>
    intro s ctx tag c q data e x hc hq hready hsize hon howner he hx hraw hdur
    refine ⟨_, (exec_landingWindowWrite ctx tag _ data s).trans (congrArg Host.Outcome.next (Lands.repeats ⟨hc, hq, hready, hsize, hon, howner⟩ he hx hraw hdur)), ?_, ?_, ?_, ?_⟩
    · exact State.entry_modEntry_same (fun _ hx => hx) ((State.entry_congr (by rw [State.setAstat_only]) _ _ _).trans hx)
    · rw [State.modEntry, State.setAstat_only]
    · rw [State.modEntry, List.length_map, State.setAstat_only]
    · rw [State.fld_modEntry, State.fld_setAstat _ _ _ (by decide)]
  case notReady =>
    intro s ctx tag c q data hc hq hready
    refine ⟨_, (exec_landingWindowWrite ctx tag _ data s).trans (congrArg Host.Outcome.next (State.landingWrite_notReady ctx tag data hc hq hready)), ?_, ?_, ?_, ?_⟩
    · rw [State.emit, State.setAstat_only]
    · rw [State.emit, State.setAstat_only]
    · rw [State.fld_emit, State.fld_setAstat _ _ _ (by decide)]
    · rw [Counted, State.fld_emit]
      exact State.counted_setAstat s _ _ (by decide)
  case responds =>
    intro s c q n tag a e rest h howed hdur
    exact ⟨_, (exec_landingWindowResponse c q n s).trans (execLandingWindowResponse_durable h howed hdur), State.entry_modEntry_same (fun _ hx => hx) h, rfl, rfl⟩

end Sys2Proof.Machine
end

section
/-! PROOFS. Records start, and the work of the kinds that need no engine: dependencies, markers, group closes, tasks, copies and register writes (R206 to R210, R214 to R216). -/
namespace Sys2Proof.Machine

/-! ### Starting (R214, R215) -/

/-- An accepted record that order and dependencies do not hold back, of a group that has not aborted. -/
structure MayStart (s : State) (c q n : Nat) (e : Entry) : Prop where
  found : s.entry c q n = some e
  accepted : e.st = .accepted
  durable : e.durable = true
  on : s.ctxOn c = true
  run : s.run = .ready
  recovered : s.fld .jnlStatRecovering 0 = 0
  order : s.orderOk e = true
  point : e.point = none
  standing : (s.groups.any fun g => e.grp == some g.num && g.decision == some false) = false

namespace MayStart
variable {s : State} {c q n : Nat} {e : Entry}

theorem may (h : MayStart s c q n e) :
    (!(e.st == .accepted && e.durable && s.ctxOn c && s.run == .ready && s.fld .jnlStatRecovering 0 == 0 && s.orderOk e && e.point.isNone)) = false := by
  rw [h.accepted, h.durable, h.on, h.run, h.recovered, h.order, h.point]
  rfl

/-- A dependency failed: the record ends without starting. -/
theorem fails {d : Nat × Nat} (h : MayStart s c q n e) (hd : s.failedDep e = some d) :
    execRecordStart c q n s = .next (s.reach c q n St.dependencyFailed (d.1 + d.2 % 2 ^ 28 * 16)) := by
  simp only [execRecordStart, h.found, h.may, h.standing, Bool.false_eq_true, if_false, hd]

theorem starts (h : MayStart s c q n e) (hd : s.failedDep e = none) (hadm : e.admitted = true) :
    execRecordStart c q n s = .next ((s.modEntry c q n fun x => { x with st := .started }).journal { e with st := .started }) := by
  simp only [execRecordStart, h.found, h.may, h.standing, Bool.false_eq_true, if_false, hd, when_pos hadm]

end MayStart

/-- An entry marked as started and written to the journal's copies is started and durable, and every other entry is as it was. -/
theorem State.entry_started {s : State} {c q n : Nat} {e : Entry} (h : s.entry c q n = some e) :
    (((s.modEntry c q n fun x => { x with st := .started }).journal { e with st := .started }).entry c q n =
      some { e with st := .started, update := e.update + 1, durable := true }) ∧
    ∀ c' q' n', ¬ (c' = c ∧ q' = q ∧ n' = n) →
      ((s.modEntry c q n fun x => { x with st := .started }).journal { e with st := .started }).entry c' q' n' = s.entry c' q' n' := by
  have hname : Entry.is { e with st := .started } c q n = true := Entry.is_iff.2 (State.entry_named (e := e) h)
  have hkeeps : ∀ x : Entry, x.is c q n = true → Entry.is { x with st := .started } c q n = true := fun _ hx => hx
  exact ⟨State.entry_journal_same (State.entry_modEntry_same hkeeps h) hname,
    fun _ _ _ hne => (State.entry_journal_ne hname hne).trans (State.entry_modEntry_ne hkeeps hne)⟩

/-! ### Records that end at once (R206, R209, R210, R216) -/

section AtOnce
variable {s : State} {c q n : Nat} {e : Entry} (h : s.entry c q n = some e)
include h

theorem execMarker_earlierDone (hr : e.ripe 9 = true) (hdone : s.earlierDone e = true) : execMarker c q n s = .next ((s.begin e).reach c q n 0 0) := by
  rw [execMarker, State.withRecord_ripe h hr, if_pos hdone]

theorem execGroupClose_allReached {g : Nat} (hr : e.ripe 8 = true) (hg : e.grp = some g) (hall : s.allReached g (e.u 0x34 4) = true) :
    execGroupClose c q n s = .next ((s.begin e).reach c q n 0 0) := by
  simp only [execGroupClose, State.withRecord_ripe h hr, hg, if_pos hall]

theorem execRegisterWrite_allowed (hr : e.ripe 0x0A = true) (hbad : e.regWrites.findIdx? (fun w => s.regStatus c w.1 != 0) = none) :
    execRegisterWrite c q n s = .next ((s.begin e).reach c q n 0 0) := by
  simp only [execRegisterWrite, State.withRecord_ripe h hr, hbad]

theorem execRegisterWrite_refused {i : Nat} (hr : e.ripe 0x0A = true) (hbad : e.regWrites.findIdx? (fun w => s.regStatus c w.1 != 0) = some i) :
    execRegisterWrite c q n s = .next ((s.begin e).reach c q n St.registerRefused i) := by
  simp only [execRegisterWrite, State.withRecord_ripe h hr, hbad]

end AtOnce

/-! ### Tasks (R207) -/

/-- A placed task takes the next number, with its context and kernel, and waits. -/
theorem State.placeTask_ok {s v : State} {x : Task} {k : Nat} (h : s.placeTask x = .ok v k) :
    v.entries = s.entries ∧ v.hbm = s.hbm ∧ v.cays = s.cays ∧ (v.task k).st = x.st ∧ (v.task k).ctx = x.ctx ∧ (v.task k).kernel = x.kernel := by
  unfold State.placeTask at h
  dsimp only at h
  split at h
  case h_1 => exact absurd h PlaceRes.noConfusion
  case h_3 => exact absurd h PlaceRes.noConfusion
  case h_2 =>
    split at h
    case h_1 => exact absurd h PlaceRes.noConfusion
    case h_2 =>
      split at h
      case isTrue => exact absurd h PlaceRes.noConfusion
      case isFalse =>
        split at h
        case h_1 => exact absurd h PlaceRes.noConfusion
        case h_2 =>
          obtain ⟨rfl, rfl⟩ := PlaceRes.ok.inj h
          rw [State.task_setTask, if_pos rfl]
          exact ⟨rfl, rfl, rfl, rfl, rfl, rfl⟩

theorem execTask_placed {s v : State} {c q n k : Nat} {e : Entry} (h : s.entry c q n = some e) (hr : e.ripe 1 = true)
    (hplace : s.placeTask (mkTask (e.raw.drop 0x30) c q n .record e.spec e.failInvalid) = .ok v k) : execTask c q n s = .next (v.begin e) := by
  simp only [execTask, State.withRecord_ripe h hr, hplace]

/-! ### Copies (R208) -/

section CopyRecords
variable {s t : State} {c q n : Nat} {e : Entry}

/-- A copy record that ends: its reads of host memory are done with, and its entry stands at its commit point. -/
def State.copyEnds (t : State) (e : Entry) (st d : Nat) : State := ((t.dropReads (copyOwner e)).begin e).reach e.ctx e.stream e.seq st d

theorem State.copyEnds_regs (t : State) (e : Entry) (st d : Nat) : (t.copyEnds e st d).regs = t.regs := rfl

theorem State.copyEnds_hbm (t : State) (e : Entry) (st d : Nat) : (t.copyEnds e st d).hbm = t.hbm := rfl

theorem State.entry_copyEnds (h : s.entry c q n = some e) (hpoint : e.point = none) (ht : t.entries = s.entries) (st d : Nat) :
    (t.copyEnds e st d).entry c q n = some { e with begun := true, point := some (st, d) } := by
  obtain ⟨rfl, rfl, rfl⟩ := State.entry_named h
  exact State.entry_begin_reach ((State.entry_congr (u := t.dropReads (copyOwner e)) ht _ _ _).trans h) hpoint st d

theorem State.execCopy_ripe (h : s.entry c q n = some e) (hr : e.ripe 2 = true) (hisl : s.islandReady (e.u 0x50 4) = true) : execCopy c q n s = .next (s.runCopyRecord e) := by
  rw [execCopy, State.withRecord_ripe h hr, if_pos hisl]

/-- A descriptor that fails its checks. -/
theorem State.runCopyRecord_refused (s : State) {e : Entry} (h : recCheck (copyDesc ((e.raw.drop 0x30).take 32)).1 ≠ 0) :
    s.runCopyRecord e = (s.raise 0x11 (e.u 0x50 4) 0).copyEnds e St.copyRefused (recCheck (copyDesc ((e.raw.drop 0x30).take 32)).1) := if_pos h

/-- Bytes that do not reach past their page are one piece. -/
theorem State.recPieces_within (s : State) (ctx : Nat) (wr : Bool) (fuel : Nat) {dva n : Nat} (hn : n ≠ 0) (h : dva % 2 ^ 16 + n ≤ 2 ^ 16) :
    s.recPieces ctx wr (fuel + 1) dva n = [⟨dva, n, s.placeCtx ctx false dva wr⟩] := by
  have hrest : s.recPieces ctx wr fuel (dva + n) 0 = [] := by cases fuel <;> rfl
  have hmin : min n (2 ^ 16 - dva % 2 ^ 16) = n := Nat.min_eq_left (by omega)
  simp only [State.recPieces, if_neg hn, hmin, Nat.sub_self, hrest]

theorem recCheck_rowBytes {d : CopyDesc} (h : recCheck d = 0) : d.rowBytes ≠ 0 := by
  intro hzero
  unfold recCheck at h
  dsimp only at h
  rw [if_pos (c := d.rowBytes = 0 ∨ _) (.inl hzero)] at h
  split_ifs at h

/-- `n` bytes of a 32-bit pattern, low byte first (R136). -/
def fillBytes (v n : Nat) : List (BitVec 8) := (List.range n).map fun i => BitVec.ofNat 8 (v / 2 ^ (8 * (i % 4)))

theorem fillBytes_length (v n : Nat) : (fillBytes v n).length = n := by rw [fillBytes, List.length_map, List.length_range]

theorem fillBytes_getD {v n i : Nat} (h : i < n) : (fillBytes v n).getD i 0 = BitVec.ofNat 8 (v / 2 ^ (8 * (i % 4))) := by
  rw [List.getD_eq_getElem?_getD, fillBytes, List.getElem?_map, List.getElem?_range h, Option.map_some, Option.getD_some]

/-- A fill of one row within one page of HBM. -/
theorem State.runCopyRecord_fill (s : State) {e : Entry} {d : CopyDesc} {k : Nat} (hd : d = (copyDesc ((e.raw.drop 0x30).take 32)).1) (hcheck : recCheck d = 0) (hkind : d.kind = 3)
    (hdst : d.dst = 1) (hrows : d.rows = 1) (hpage : d.dstAddr % 2 ^ 16 + d.rowBytes ≤ 2 ^ 16) (hplace : s.placeCtx e.ctx false d.dstAddr true = .hbm k) :
    s.runCopyRecord e = (s.hbmWrite (some (e.u 0x50 4)) k (fillBytes d.srcStride d.rowBytes)).copyEnds e 0 0 := by
  have hsrc : d.hasSrc = false := by rw [CopyDesc.hasSrc, hkind]; rfl
  have hpiece : (List.range d.rows).flatMap (fun i => s.recPieces e.ctx true (d.rowBytes / 2 ^ 16 + 2) (d.dstAddr + i * d.dstStride) d.rowBytes) =
      [⟨d.dstAddr, d.rowBytes, .hbm k⟩] := by
    rw [hrows, List.range_one, List.flatMap_singleton, Nat.zero_mul]
    exact (s.recPieces_within _ _ _ (recCheck_rowBytes hcheck) hpage).trans (by rw [hplace])
  have hpattern : (List.range (d.rows * d.rowBytes)).map (fun i => BitVec.ofNat 8 (d.srcStride / 2 ^ (8 * (i % 4)))) = fillBytes d.srcStride d.rowBytes := by
    rw [hrows, Nat.one_mul, fillBytes]
  have hwhole : (fillBytes d.srcStride d.rowBytes).take d.rowBytes = fillBytes d.srcStride d.rowBytes := List.take_of_length_le (fillBytes_length _ _).le
  simp only [State.runCopyRecord, ← hd, hcheck, ne_eq, not_true_eq_false, if_false, hsrc, hdst, hpattern, hpiece, Bool.false_eq_true, if_true, List.nil_append, firstBad, Place.bad,
    List.find?_cons, List.find?_nil, List.any_cons, List.any_nil, State.recOut, hwhole]
  exact if_neg (by decide)

end CopyRecords

/-! ### The statement -/

/-- Settles O24: starting by whether a dependency failed (MayStart.fails, MayStart.starts), and each kind of record by the one state its work leaves. -/
theorem recordsStart : Obligations.RecordsStart := by
  refine ⟨?start, ?marker, ?close, ?task, ?refused, ?fill, ?registers⟩
  case start =>
    intro s c q n e h hst hdur hon hrun hrec horder hpoint hgrp
    have hmay : MayStart s c q n e := ⟨h, hst, hdur, hon, hrun, hrec, horder, hpoint, hgrp⟩
    refine ⟨fun d hd => ⟨_, (exec_recordStart c q n s).trans (hmay.fails hd), .reach s c q n _ _, State.entry_reach h hpoint _ _⟩, fun hd hadm => ?_⟩
    obtain ⟨hentry, hothers⟩ := State.entry_started h
    exact ⟨_, _, (exec_recordStart c q n s).trans (hmay.starts hd hadm), hentry, rfl, rfl, rfl, hothers, State.journal_tasks _ _, State.journal_cays _ _⟩
  case marker =>
    intro s c q n e h hr hdone
    exact ⟨_, (exec_marker c q n s).trans (execMarker_earlierDone h hr hdone), .begin_reach h 0 0, State.entry_begin_reach h (Entry.ripe_point hr) 0 0⟩
  case close =>
    intro s c q n g e h hr hg hall
    exact ⟨_, (exec_groupClose c q n s).trans (execGroupClose_allReached h hr hg hall), .begin_reach h 0 0, State.entry_begin_reach h (Entry.ripe_point hr) 0 0⟩
  case task =>
    intro s c q n k e v h hr hplace
    obtain ⟨hentries, hhbm, hcays, hst, hctx, hkernel⟩ := State.placeTask_ok hplace
    have hpoint : e.point = none := Entry.ripe_point hr
    exact ⟨_, (exec_task c q n s).trans (execTask_placed h hr hplace), ⟨_, State.entry_begin ((State.entry_congr hentries _ _ _).trans h), rfl, hpoint⟩, hst, hctx, hkernel, hhbm, hcays⟩
  case refused =>
    intro s c q n e d h hr hisl hd hcheck
    subst hd
    refine ⟨_, _, (exec_copy c q n s).trans ((State.execCopy_ripe h hr hisl).trans (congrArg Host.Outcome.next (s.runCopyRecord_refused hcheck))),
      State.entry_copyEnds h (Entry.ripe_point hr) (State.raise_entries _ _ _ _) _ _, rfl, rfl, ?_, ?_⟩
    · rw [State.copyEnds_hbm, State.raise_hbm]
    · exact (State.raised_raise s _ _ _).congr rfl (by rw [State.reg, State.copyEnds_regs]; rfl)
  case fill =>
    intro s c q n e d k h hr hisl hd hcheck hkind hdst hrows hpage hplace
    obtain ⟨rfl, rfl, rfl⟩ := State.entry_named h
    refine ⟨_, _, (exec_copy _ _ _ s).trans ((State.execCopy_ripe h hr hisl).trans
      (congrArg Host.Outcome.next (s.runCopyRecord_fill hd hcheck hkind hdst hrows hpage hplace))),
      State.entry_copyEnds h (Entry.ripe_point hr) (State.hbmWrite_entries _ _ _ _) _ _, rfl, rfl, fun a => ?_⟩
    rw [State.copyEnds_hbm, State.read_hbmWrite, fillBytes_length]
    split
    case isTrue ha => exact fillBytes_getD (by omega)
    case isFalse => rfl
  case registers =>
    intro s c q n e h hr
    have hpoint : e.point = none := Entry.ripe_point hr
    cases hbad : e.regWrites.findIdx? (fun w => s.regStatus c w.1 != 0) with
    | none =>
      exact ⟨_, (exec_registerWrite c q n s).trans (execRegisterWrite_allowed h hr hbad), .begin_reach h _ _, fun _ => State.entry_begin_reach h hpoint _ _,
        fun _ hi => absurd hi (Option.some_ne_none _).symm⟩
    | some i =>
      refine ⟨_, (exec_registerWrite c q n s).trans (execRegisterWrite_refused h hr hbad), .begin_reach h _ _, fun hi => absurd hi (Option.some_ne_none _), fun j hj => ?_⟩
      obtain rfl := Option.some.inj hj
      exact State.entry_begin_reach h hpoint _ _

end Sys2Proof.Machine
end

section
/-! PROOFS. Records commit and complete: the commit entry and DONE, completions written, waiting and rewritten, and CQ_CONSUMED (R216 to R222, R235, R237). -/
namespace Sys2Proof.Machine

/-! ### Commit (R216, R217, R230) -/

/-- An entry as its commit leaves it. -/
def Entry.committed (e : Entry) (st d now : Nat) : Entry :=
  { e with st := .committed, status := st, detail := d, tCommit := now, durable := true, point := some (st, d) }

/-- Records of class 0 calibrate no factor (R459). -/
theorem State.calibrate_unclassed (s : State) (ctx est energy : Nat) (once : Bool) : s.calibrate ctx 0 est energy once = s := if_pos (.inl rfl)

theorem State.fld64_dropUnit (s : State) (x : UnitId) (lo hi : Fld) (i : Nat) : (s.dropUnit x).fld64 lo hi i = s.fld64 lo hi i := rfl

section Commit
variable {s : State} {c q n : Nat} {e : Entry}

/-- A record that has run no task and has no class leaves by its commit its entry and DONE. -/
theorem State.commitRecord_plain (st d : Nat) (htasks : s.recordTasks e = []) (hclass : e.eclass = 0) :
    s.commitRecord e st d = ((((s.modEntry e.ctx e.stream e.seq fun _ => e.committed st d s.ptime).journal (e.committed st d s.ptime)).put64 .lwDoneLo .lwDoneHi e.seq
      (lwInst e.ctx e.stream)).dropUnit (.record e.ctx e.stream e.seq)) := by
  unfold State.commitRecord
  dsimp only
  rw [htasks, List.foldl_nil, hclass, State.calibrate_unclassed, ite_self]
  rfl

theorem execRecordCommit_plain {st d : Nat} (h : s.entry c q n = some e) (hpoint : e.point = some (st, d)) (hdone : e.done = false) (hearlier : s.earlierDone e = true)
    (hready : s.notReady = false) (hgrp : e.grp = none) (hkind : e.kind ≠ 0x0A) : execRecordCommit c q n s = .next (s.commitRecord e st d) := by
  have hwrites : (s.commitRecord e st d).applyWrites e = s.commitRecord e st d := if_neg hkind
  simp only [execRecordCommit, h, hpoint, hdone, hearlier, hready, hgrp, hwrites, ite_self]
  exact if_neg (by decide)

/-- The committed entry stands in the index, durable, and every other entry is as it was. -/
theorem State.entry_commitRecord (st d : Nat) (h : s.entry c q n = some e) (htasks : s.recordTasks e = []) (hclass : e.eclass = 0) :
    (s.commitRecord e st d).entry c q n = some { e.committed st d s.ptime with update := e.update + 1 } ∧
      ∀ c' q' n', ¬ (c' = c ∧ q' = q ∧ n' = n) → (s.commitRecord e st d).entry c' q' n' = s.entry c' q' n' := by
  obtain ⟨rfl, rfl, rfl⟩ := State.entry_named h
  have hname : (e.committed st d s.ptime).is e.ctx e.stream e.seq = true := Entry.is_iff.2 ⟨rfl, rfl, rfl⟩
  rw [State.commitRecord_plain st d htasks hclass]
  exact ⟨State.entry_journal_same (State.entry_modEntry_same (fun _ _ => hname) h) hname,
    fun _ _ _ hne => (State.entry_journal_ne hname hne).trans (State.entry_modEntry_ne (fun _ _ => hname) hne)⟩

theorem State.done_commitRecord (st d : Nat) (htasks : s.recordTasks e = []) (hclass : e.eclass = 0) :
    (s.commitRecord e st d).fld64 .lwDoneLo .lwDoneHi (lwInst e.ctx e.stream) = e.seq % 2 ^ 64 := by
  rw [State.commitRecord_plain st d htasks hclass, State.fld64_dropUnit, State.fld64_put64 _ (by decide)]

theorem State.commitRecord_tasks_cays (st d : Nat) (htasks : s.recordTasks e = []) (hclass : e.eclass = 0) :
    (s.commitRecord e st d).tasks = s.tasks ∧ (s.commitRecord e st d).cays = s.cays := by
  rw [State.commitRecord_plain st d htasks hclass]
  exact ⟨State.journal_tasks _ _, State.journal_cays _ _⟩

end Commit

/-! ### Completions (R218, R220 to R222) -/

/-- What a completion's entry sends. -/
def State.completionOf (s : State) (e : Entry) : Emit := .completion e.ctx (s.ringAddr e.ctx e.stream e.seq) (e.completion (s.ringN e.ctx e.stream))

section Completions
variable {s : State} {c q n : Nat} {e : Entry}

/-- A completion that raises no interrupt marks its entry as written and does no more. -/
theorem State.sendCompletion_quiet (s : State) (h : (e.noIrq || e.st == .signalled) = true) :
    s.sendCompletion e = (s.emit (s.completionOf e)).modEntry e.ctx e.stream e.seq fun _ => { e with written := true, rew := false } := if_pos h

/-- One that raises its interrupt is signalled in the journal first. -/
theorem State.sendCompletion_loud (s : State) (h : (e.noIrq || e.st == .signalled) = false) :
    s.sendCompletion e = (((s.emit (s.completionOf e)).modEntry e.ctx e.stream e.seq fun _ => { e with written := true, rew := false, st := .signalled }).journal
      { e with written := true, rew := false, st := .signalled }).raiseVector e.ctx (s.fld .cqCtlVector (lwInst e.ctx e.stream)) :=
  if_neg (by rw [h]; exact Bool.false_ne_true)

/-- The completion is the first that leaves. -/
theorem State.sendCompletion_sent (s : State) (e : Entry) : s.outbox ++ [s.completionOf e] <+: (s.sendCompletion e).outbox := by
  cases h : e.noIrq || e.st == .signalled with
  | true =>
    rw [s.sendCompletion_quiet h]
    exact List.prefix_refl _
  | false =>
    rw [s.sendCompletion_loud h]
    refine List.IsPrefix.trans ?_ ((State.journal_sent _ _).trans (Logs.raiseVector _ _ _).sent)
    exact List.prefix_refl _

theorem State.entry_sendCompletion (h : s.entry c q n = some e) :
    ∃ e', (s.sendCompletion e).entry c q n = some e' ∧ e'.written = true ∧ e'.rew = false ∧ (e.noIrq = false → e'.st = .signalled) := by
  obtain ⟨rfl, rfl, rfl⟩ := State.entry_named h
  have hname : ∀ x : Entry, x.ctx = e.ctx ∧ x.stream = e.stream ∧ x.seq = e.seq → x.is e.ctx e.stream e.seq = true := fun _ hx => Entry.is_iff.2 hx
  cases hirq : e.noIrq || e.st == .signalled with
  | true =>
    rw [s.sendCompletion_quiet hirq]
    refine ⟨_, State.entry_modEntry_same (fun _ _ => hname _ ⟨rfl, rfl, rfl⟩) h, rfl, rfl, fun hno => ?_⟩
    rw [hno, Bool.false_or, beq_iff_eq] at hirq
    exact hirq
  | false =>
    rw [s.sendCompletion_loud hirq, State.entry_congr (Logs.raiseVector _ _ _).entries]
    exact ⟨_, State.entry_journal_same (State.entry_modEntry_same (fun _ _ => hname _ ⟨rfl, rfl, rfl⟩) h) (hname _ ⟨rfl, rfl, rfl⟩), rfl, rfl, fun _ => rfl⟩

/-- A committed completion, not yet written, whose turn it is. -/
structure MayComplete (s : State) (c q n : Nat) (e : Entry) : Prop where
  found : s.entry c q n = some e
  done : e.done = true
  durable : e.durable = true
  unwritten : e.written = false
  kept : e.rew = false
  turn : s.earlierWritten e = true
  run : s.run = .ready

namespace MayComplete

theorem may (h : MayComplete s c q n e) : (!(e.done && e.durable && !e.written && !e.rew && s.earlierWritten e && s.run == .ready)) = false := by
  rw [h.done, h.durable, h.unwritten, h.kept, h.turn, h.run]
  rfl

theorem writes (h : MayComplete s c q n e) (hspace : s.ringSpace c q n = true) : execCompletionWrite c q n s = .next (s.sendCompletion e) := by
  simp only [execCompletionWrite, h.found, h.may, hspace, Bool.false_eq_true, if_false, if_true]

/-- A completion that finds the ring full is marked as waiting, and counted. -/
theorem waits (h : MayComplete s c q n e) (hspace : s.ringSpace c q n = false) (hwaited : e.waited = false) :
    execCompletionWrite c q n s = .next ((s.modEntry c q n fun x => { x with waited := true }).bump .cqFullCnt (lwInst c q)) := by
  simp only [execCompletionWrite, h.found, h.may, hspace, Bool.false_eq_true, if_false]
  exact when_pos (by rw [hwaited]; rfl) _ _

end MayComplete

/-! ### Completions after recovery (R235) -/

/-- RECOVERY_DONE is raised once no completion is left to be written again. -/
def State.rewrote (s : State) : State := if s.entries.any (fun x => x.rew) then s else s.raise 0x05 0 3

theorem State.rewrote_logs (s : State) : Logs s s.rewrote := .ite (.refl s) (.raise s _ _ _)

theorem execCompletionRewrite_first (h : s.entry c q n = some e) (hrew : e.rew = true) (hrun : s.run = .ready) (hfirst : ∀ x ∈ s.streamEntries c q, x.seq < n → x.rew = false) :
    execCompletionRewrite c q n s = .next ((s.sendCompletion e).bump .jnlRewriteCnt 0).rewrote := by
  have hall : (s.streamEntries c q).all (fun x => decide (n ≤ x.seq) || !x.rew) = true := List.all_eq_true.2 fun x hx => by
    rw [Bool.or_eq_true, decide_eq_true_eq, Bool.not_eq_true']
    exact (le_or_gt n x.seq).imp id (hfirst x hx)
  have hmay : (!(e.rew && s.run == .ready && (s.streamEntries c q).all (fun x => decide (n ≤ x.seq) || !x.rew))) = false := by
    rw [hrew, hrun, hall]
    rfl
  simp only [execCompletionRewrite, h, hmay, Bool.false_eq_true, if_false]
  rfl

end Completions

/-! ### CQ_CONSUMED (R221) -/

/-- CQ_CONSUMED takes a value between its own and the last completion written, and no other. -/
theorem State.setConsumed_spec (s : State) (c q : Nat) {v : Nat} (hv : v < 2 ^ 64) :
    s.setConsumed c q v = { s with regs := (s.setConsumed c q v).regs } ∧
      OnlyRegs s (s.setConsumed c q v) [Fld.key .cqConsumedLo (lwInst c q) 0, Fld.key .cqConsumedHi (lwInst c q) 0] ∧
      (s.setConsumed c q v).consumed c q = if s.consumed c q ≤ v ∧ v ≤ s.lastWritten c q then v else s.consumed c q := by
  unfold State.setConsumed
  split
  case isTrue h => exact ⟨rfl, fun _ _ => rfl, (if_neg (by omega)).symm⟩
  case isFalse h =>
    refine ⟨rfl, s.put64_onlyRegs _ _ _ _, ?_⟩
    rw [if_pos (by omega), State.consumed, State.fld64_put64 s (by decide), Nat.mod_eq_of_lt hv]

/-! ### The statement -/

/-- Settles O25: the commit by the entry and DONE it leaves (State.entry_commitRecord, State.done_commitRecord), completions by what leaves and how their entry is marked
(State.sendCompletion_sent, State.entry_sendCompletion), and CQ_CONSUMED by its bounds. -/
theorem recordsComplete : Obligations.RecordsComplete := by
  refine ⟨?commit, ?write, ?rewrite, fun s c q v hv => ⟨_, exec_cqConsumedWrite c q v s, s.setConsumed_spec c q hv⟩⟩
  case commit =>
    intro s c q n st d e h hpoint hdone hearlier hready hgrp hkind htasks hclass
    obtain ⟨rfl, rfl, rfl⟩ := State.entry_named h
    obtain ⟨hentry, hothers⟩ := State.entry_commitRecord st d h htasks hclass
    obtain ⟨htasks', hcays⟩ := State.commitRecord_tasks_cays st d htasks hclass
    exact ⟨_, _, (exec_recordCommit _ _ _ s).trans (execRecordCommit_plain h hpoint hdone hearlier hready hgrp hkind), hentry, rfl, rfl, rfl, rfl, rfl, rfl,
      State.done_commitRecord st d htasks hclass, htasks', hcays, hothers⟩
  case write =>
    intro s c q n e h hdone hdur hunwritten hkept hturn hrun
    have hmay : MayComplete s c q n e := ⟨h, hdone, hdur, hunwritten, hkept, hturn, hrun⟩
    refine ⟨fun hspace => ?_, fun hspace hwaited => ?_⟩
    · obtain ⟨e', hentry, hwritten, -, hsignalled⟩ := State.entry_sendCompletion h
      obtain ⟨out, hout⟩ := s.sendCompletion_sent e
      refine ⟨_, e', out, (exec_completionWrite c q n s).trans (hmay.writes hspace), hentry, hwritten, hsignalled, ?_⟩
      obtain ⟨rfl, rfl, rfl⟩ := State.entry_named h
      exact hout.symm
    · refine ⟨_, (exec_completionWrite c q n s).trans (hmay.waits hspace hwaited), ?_, rfl, ?_, State.setFld_onlyRegs _ _ _ _ _⟩
      · exact State.entry_modEntry_same (f := fun x => { x with waited := true }) (fun _ hx => hx) h
      · exact State.counted_bump (s.modEntry c q n _) _ (by decide)
  case rewrite =>
    intro s c q n e h hrew hirq hrun hfirst
    obtain ⟨e', hentry, hwritten, hrew', -⟩ := State.entry_sendCompletion h
    have hlog := State.rewrote_logs ((s.sendCompletion e).bump .jnlRewriteCnt 0)
    have hquiet : (s.sendCompletion e).fld .jnlRewriteCnt 0 = s.fld .jnlRewriteCnt 0 := by
      rw [s.sendCompletion_quiet (by rw [hirq]; rfl), State.fld_modEntry, State.fld_emit]
    refine ⟨_, e', (exec_completionRewrite c q n s).trans (execCompletionRewrite_first h hrew hrun hfirst), (State.entry_congr hlog.entries _ _ _).trans hentry, hrew', hwritten, ?_, ?_⟩
    · rw [Counted, hlog.fld (by decide), ← hquiet]
      exact State.counted_bump (s.sendCompletion e) 0 (by decide)
    · obtain ⟨rfl, rfl, rfl⟩ := State.entry_named h
      exact ((s.sendCompletion_sent e).trans hlog.sent).subset (List.mem_append_right _ (List.mem_singleton_self _))

end Sys2Proof.Machine
end

section
/-! PROOFS. Commit groups: what a decision leaves, and how a group is decided, timed out and applied (R224 to R226). -/
namespace Sys2Proof.Machine

/-! ### Decisions (R224, R225) -/

namespace Logs

theorem took (s : State) : Logs s s.took := ⟨rfl, fun _ _ => rfl, List.prefix_refl _⟩

theorem nextTxn (s : State) (n : Nat) : Logs s { s with txnNum := n } := ⟨rfl, fun _ _ => rfl, List.prefix_refl _⟩

/-- A transaction-log entry is written to both copies. -/
theorem txnLog (s : State) (ctx gid slot : Nat) : Logs s (s.txnLog ctx gid slot) :=
  ((((took s).trans (.ite (.refl _) (.hbmWrite _ _ _ _))).trans (.ite (.refl _) (.hbmWrite _ _ _ _))).trans (.nextTxn _ _)).trans (.fillFrom _ _)

end Logs

/-- A group as its decision leaves it. -/
def Group.settled (g : Group) (commit : Bool) (cause : Nat) (timedOut : Bool) (txn slot : Nat) : Group :=
  { g with decision := some commit, cause := cause, timedOut := timedOut, txn := txn, slot := slot }

/-- What a decision leaves: the group decided, entries and tasks as they were, and of the registers only the counts of aborts and invalidations and the marks of events changed. -/
structure Decides (s u : State) (g g' : Group) : Prop where
  groups : u.groups = s.groups.map fun x => if x.num = g.num then g' else x
  entries : u.entries = s.entries
  tasks : u.tasks = s.tasks
  regs : ∀ k, k % 2 ^ 12 ∉ [Fld.txnAbortCnt.off, Fld.icInvalCnt.off, 0x010, 0x078, 0x07C] → u.reg k = s.reg k

theorem Decides.mem {s u : State} {g g' : Group} (h : Decides s u g g') (hg : g ∈ s.groups) : g' ∈ u.groups := by
  rw [h.groups]
  exact List.mem_map.2 ⟨g, hg, if_pos rfl⟩

theorem State.decideGroup_decides (s : State) (g : Group) (commit : Bool) (cause : Nat) (timedOut : Bool) :
    Decides s (s.decideGroup g commit cause timedOut) g (g.settled commit cause timedOut s.txnNum s.freeSlot) := by
  have hlog := Logs.txnLog { s with groups := s.groups.map fun x => if x.num = g.num then g.settled commit cause timedOut s.txnNum s.freeSlot else x } g.ctx g.gid s.freeSlot
  unfold State.decideGroup
  dsimp only
  split
  case isTrue => exact ⟨hlog.groups, hlog.entries, hlog.tasks, fun k hk => hlog.regs k fun hmem => hk (List.mem_cons_of_mem _ hmem)⟩
  case isFalse =>
    refine ⟨hlog.groups, hlog.entries, hlog.tasks, fun k hk => ?_⟩
    rw [State.reg_bump_of_off _ _ _ _ (by decide) fun h => hk (by rw [h]; decide)]
    exact hlog.regs k fun hmem => hk (List.mem_cons_of_mem _ hmem)

/-! ### Deciding, timing out, applying -/

section Groups
variable {s : State} {n : Nat} {g : Group}

/-- A group whose close record and members have reached their commit points is decided: to commit where ABORT is clear and every member succeeded. -/
theorem execGroupDecision_reached {k : Entry} (hg : s.groups.find? (fun g => g.num == n && g.decision.isNone) = some g) (hk : s.closer n = some k) (hpoint : k.point.isSome = true)
    (hall : s.allReached n (k.u 0x34 4) = true) :
    ∃ commit cause, execGroupDecision n s = .next (s.decideGroup g commit cause false) ∧
      (commit = true ↔ k.u 0x38 4 ≠ 1 ∧ ∀ x ∈ s.members n, ∀ p, x.point = some p → p.1 = 0) := by
  have hreached : ¬ (k.point.isNone = true ∨ (!s.allReached n (k.u 0x34 4)) = true) := by
    rw [hall, ← Option.not_isSome, hpoint]
    decide
  have hpoints : ∀ x ∈ s.members n, ∃ p, x.point = some p := fun x hx => by
    simp only [State.allReached, Bool.and_eq_true] at hall
    exact Option.isSome_iff_exists.1 (List.all_eq_true.1 hall.2 x hx)
  simp only [execGroupDecision, hg, hk, if_neg hreached]
  split
  case isTrue habort => exact ⟨false, _, rfl, fun h => absurd h Bool.false_ne_true, fun h => absurd (beq_iff_eq.1 habort) h.1⟩
  case isFalse habort =>
    split
    case h_1 x hfind =>
      refine ⟨false, _, rfl, fun h => absurd h Bool.false_ne_true, fun h => ?_⟩
      have hx := List.mem_of_find?_eq_some hfind
      have hbad := List.find?_some hfind
      obtain ⟨p, hp⟩ := hpoints x hx
      simp only [hp, h.2 x hx p hp] at hbad
      exact absurd hbad (by decide)
    case h_2 hfind =>
      refine ⟨true, _, rfl, fun _ => ⟨fun h => habort (beq_iff_eq.2 h), fun x hx p hp => ?_⟩, fun _ => rfl⟩
      have hgood := List.find?_eq_none.1 hfind x hx
      simpa only [hp, bne_iff_ne, not_not] using hgood

theorem execGroupTimeout_undecided (hg : s.groups.find? (fun g => g.num == n && g.decision.isNone) = some g) :
    execGroupTimeout n s = .next ((s.decideGroup g false 0 true).raise 0x05 0 2) := by simp only [execGroupTimeout, hg]

/-- A decided group without members is applied by its mark alone. -/
theorem execGroupApply_empty (hg : s.groups.find? (fun g => g.num == n && g.decision.isSome && !g.applied) = some g) (hready : s.notReady = false) (hmem : s.members n = []) :
    execGroupApply n s = .next { s with groups := s.groups.map fun x => if x.num = n then { x with applied := true } else x } := by
  simp only [execGroupApply, hg, hready, hmem, Bool.false_eq_true, if_false, List.foldl_nil]

/-- An undecided group found under a number bears it. -/
theorem find?_undecided (hg : s.groups.find? (fun g => g.num == n && g.decision.isNone) = some g) : g ∈ s.groups ∧ g.num = n := by
  have hfound := List.find?_some hg
  rw [Bool.and_eq_true, beq_iff_eq] at hfound
  exact ⟨List.mem_of_find?_eq_some hg, hfound.1⟩

end Groups

/-! ### The statement -/

/-- Settles O26: the group that each decision leaves (State.decideGroup_decides), by how it is decided (execGroupDecision_reached) or times out, and a group without members applied. -/
theorem commitGroups : Obligations.CommitGroups := by
  refine ⟨?decision, ?timeout, fun s n g hg hready hmem => ⟨_, (exec_groupApply n s).trans (execGroupApply_empty hg hready hmem), rfl, rfl⟩⟩
  case decision =>
    intro s n g k hg hk hpoint hall
    obtain ⟨hmem, hnum⟩ := find?_undecided hg
    obtain ⟨commit, cause, hexec, hcommit⟩ := execGroupDecision_reached hg hk hpoint hall
    have hdec := s.decideGroup_decides g commit cause false
    exact ⟨_, _, (exec_groupDecision n s).trans hexec, hdec.mem hmem, hnum, rfl, rfl, rfl, hdec.entries, hdec.tasks, Option.some_inj.trans hcommit,
      (Bool.eq_false_or_eq_true commit).imp (congrArg some) (congrArg some)⟩
  case timeout =>
    intro s n g hg
    obtain ⟨hmem, hnum⟩ := find?_undecided hg
    have hdec := s.decideGroup_decides g false 0 true
    have hlog := Logs.raise (s.decideGroup g false 0 true) 0x05 0 2
    have henable : (s.decideGroup g false 0 true).reg (rkey 0x05 0 evtEnable 0) = s.reg (rkey 0x05 0 evtEnable 0) := hdec.regs _ (by decide)
    exact ⟨_, g.settled false 0 true s.txnNum s.freeSlot, (exec_groupTimeout n s).trans (execGroupTimeout_undecided hg), by rw [hlog.groups]; exact hdec.mem hmem, hnum, rfl, rfl, (State.raised_raise _ _ _ _).congr henable rfl,
      hlog.entries.trans hdec.entries⟩

end Sys2Proof.Machine
end

section
/-! PROOFS. The end of a record that commits where it stands: what it leaves beside the record's entry (R155, R156, R216, R217, R230, R300, R301). -/
namespace Sys2Proof.Machine

/-! ### Work that ends -/

/-- The registers of a page that hold LRN_ORPHAN_CNT, and those at its offset in other pages. -/
abbrev AtOrphans (k : Nat) : Prop := k < 2 ^ 26 ∧ k % 2 ^ 12 = Fld.lrnOrphanCnt.off

/-- What the end of a record's work may change: tasks, HBM and the caches, registers, energy and what is sent. Events that have taken place stay marked, and orphans stay counted. -/
structure WorkEnds (s u : State) : Prop where
  only : u = { s with tasks := u.tasks, ics := u.ics, regs := u.regs, hbm := u.hbm, poison := u.poison, pw := u.pw, outbox := u.outbox }
  causes : ∀ k b, k % 2 ^ 12 = evtCause → (s.reg k).toNat.testBit b = true → (u.reg k).toNat.testBit b = true
  orphans : ∀ k, AtOrphans k → u.reg k = s.reg k

/-- An event of a page changes no register at the offset of LRN_ORPHAN_CNT: the pending bits of vectors stand in units of their own (R507). -/
theorem State.reg_raise_orphans (s : State) (cls inst n : Nat) {k : Nat} (hk : AtOrphans k) : (s.raise cls inst n).reg k = s.reg k := by
  have hmodule : ∀ (t : State) (v : Nat), (t.raiseModule v).reg k = t.reg k := fun t v => by
    unfold State.raiseModule
    split
    · refine t.reg_setFld_ne _ _ _ _ _ fun h => ?_
      have hunit : 2 ^ 26 ≤ Fld.irqVctlPending.key 0 (1 + v) := by
        unfold Fld.key rkey
        omega
      exact absurd hk.1 (by omega)
    · rfl
  have hraise : ∀ (fuel : Nat) (t : State) (cls inst n : Nat), (State.raiseAt fuel t cls inst n).reg k = t.reg k := by
    intro fuel
    induction fuel with
    | zero => exact fun _ _ _ _ => rfl
    | succ fuel ih =>
      intro t cls inst n
      have hmark : (t.setReg (rkey cls inst evtCause 0) (BitVec.ofNat 32 ((t.reg (rkey cls inst evtCause 0)).toNat ||| 2 ^ n))).reg k = t.reg k := by
        rw [State.reg_setReg, if_neg]
        intro h
        have hoff := hk.2
        rw [h, rkey_mod _ _ _ _ (by decide)] at hoff
        exact absurd hoff (by decide)
      unfold State.raiseAt
      dsimp only
      split
      case isFalse => rfl
      case isTrue =>
        split
        case isFalse => exact hmark
        case isTrue =>
          split
          case isTrue => rw [hmodule, hmark]
          case isFalse => rw [ih, State.reg_bump_of_off _ _ _ _ (by decide) (by rw [hk.2]; decide), hmark]
  exact hraise _ s cls inst n

namespace WorkEnds

variable {s t u : State}

theorem refl (s : State) : WorkEnds s s := ⟨rfl, fun _ _ _ h => h, fun _ _ => rfl⟩

theorem trans (h : WorkEnds s t) (g : WorkEnds t u) : WorkEnds s u where
  only := by conv_lhs => rw [g.only, h.only]
  causes k b hk hb := g.causes k b hk (h.causes k b hk hb)
  orphans k hk := (g.orphans k hk).trans (h.orphans k hk)

theorem ite {c : Prop} [Decidable c] (ht : WorkEnds s t) (hu : WorkEnds s u) : WorkEnds s (if c then t else u) := by split <;> assumption

theorem foldl {α : Type} {f : State → α → State} (hf : ∀ t a, WorkEnds t (f t a)) (l : List α) (s : State) : WorkEnds s (l.foldl f s) :=
  List.foldlRecOn l f (refl s) fun t ht a _ => ht.trans (hf t a)

theorem of_regs (ho : u = { s with tasks := u.tasks, ics := u.ics, regs := u.regs, hbm := u.hbm, poison := u.poison, pw := u.pw, outbox := u.outbox }) (hr : u.regs = s.regs) : WorkEnds s u :=
  have hreg : ∀ k, u.reg k = s.reg k := fun k => by rw [State.reg, State.reg, hr]
  ⟨ho, fun k _ _ h => by rwa [hreg], fun k _ => hreg k⟩

/-- Registers at other offsets than those of causes and of LRN_ORPHAN_CNT may change. -/
theorem of_off (ho : u = { s with tasks := u.tasks, ics := u.ics, regs := u.regs, hbm := u.hbm, poison := u.poison, pw := u.pw, outbox := u.outbox })
    (hr : ∀ k, k % 2 ^ 12 = evtCause ∨ k % 2 ^ 12 = Fld.lrnOrphanCnt.off → u.reg k = s.reg k) : WorkEnds s u :=
  ⟨ho, fun k _ hk h => by rwa [hr k (.inl hk)], fun k hk => hr k (.inr hk.2)⟩

theorem setFld (s : State) {f : Fld} (v i n : Nat) (h : f.off < 2 ^ 12 ∧ evtCause ≠ f.off ∧ Fld.lrnOrphanCnt.off ≠ f.off) : WorkEnds s (s.setFld f v i n) :=
  of_off rfl fun _ hk => s.reg_setFld_of_off _ _ _ h.1 (hk.elim (fun hk => hk ▸ h.2.1) fun hk => hk ▸ h.2.2)

theorem bump (s : State) {f : Fld} (i n m : Nat) (h : f.off < 2 ^ 12 ∧ evtCause ≠ f.off ∧ Fld.lrnOrphanCnt.off ≠ f.off) : WorkEnds s (s.bump f i n m) := setFld s _ i m h

theorem raise (s : State) (cls inst n : Nat) : WorkEnds s (s.raise cls inst n) where
  only := by conv_lhs => rw [State.raise_only]
             rw [State.raise_only]
  causes _ _ hk h := State.testBit_raiseAt _ s cls inst n hk h
  orphans _ hk := s.reg_raise_orphans cls inst n hk

theorem hbmWrite (s : State) (w : Option Nat) (k : Nat) (bs : List (BitVec 8)) : WorkEnds s (s.hbmWrite w k bs) :=
  of_off (by rw [State.hbmWrite_only]) fun _ hk => s.reg_hbmWrite w k bs (hk.elim (· ▸ by decide) (· ▸ by decide))

theorem setIc (s : State) (i : Nat) (c : ICache) : WorkEnds s (s.setIc i c) := of_regs rfl rfl

theorem setTask (s : State) (k : Nat) (x : Task) : WorkEnds s (s.setTask k x) := of_regs rfl rfl

theorem dropTaskRec (s : State) (k : Nat) : WorkEnds s (s.dropTaskRec k) := of_regs rfl rfl

theorem dropUnit (s : State) (x : UnitId) : WorkEnds s (s.dropUnit x) := of_regs rfl rfl

/-! ### A task's outcome (R155, R156, R300, R301) -/

theorem noteFault (s : State) (ctx cause agent isl dva : Nat) : WorkEnds s (s.noteFault ctx cause agent isl dva) := by
  unfold State.noteFault
  refine (bump s ctx 1 0 (by decide)).trans (trans (ite (refl _) ?_) (raise _ _ _ _))
  exact (((((setFld _ _ ctx 0 (by decide)).trans (setFld _ _ ctx 0 (by decide))).trans (setFld _ _ ctx 0 (by decide))).trans (setFld _ _ ctx 0 (by decide))).trans
    (setFld _ _ ctx 0 (by decide))).trans (setFld _ _ ctx 0 (by decide))

theorem shadowDrop (s : State) (i k : Nat) : WorkEnds s (s.shadowDrop i k) := (setIc s i _).trans (setFld _ _ i 0 (by decide))

theorem writeThrough (i : Nat) (s : State) (x : ShadowLine) : WorkEnds s (s.writeThrough i x) :=
  foldl (fun t e => by
    split
    · exact hbmWrite t _ _ _
    · exact refl t) _ s

theorem shadowCommit (s : State) (i k : Nat) : WorkEnds s (s.shadowCommit i k) := (foldl (writeThrough i) _ s).trans (shadowDrop _ i k)

theorem writeDva {ctx dva : Nat} {bs : List (BitVec 8)} (h : s.writeDva ctx dva bs = .ok u) : WorkEnds s u := by
  unfold State.writeDva at h
  split at h
  case h_1 => exact absurd h (by simp)
  case h_2 ps _ =>
    rw [← Except.ok.inj h]
    refine List.foldlRecOn (motive := fun a : State × List (BitVec 8) => WorkEnds s a.1) ps _ (refl s) fun a ha p _ => ?_
    split
    · exact ha.trans (hbmWrite _ _ _ _)
    · exact ha

theorem dieWrite (s : State) (ctx dva : Nat) (bs : List (BitVec 8)) : WorkEnds s (s.dieWrite ctx dva bs) := by
  unfold State.dieWrite
  split
  case h_1 h => exact writeDva h
  case h_2 => exact noteFault s _ _ _ _ _

theorem commitTag (s : State) (ctx step : Nat) (e : TagSum) : WorkEnds s (s.commitTag ctx step e) := by
  unfold State.commitTag
  dsimp only
  split
  case h_1 => exact noteFault s _ _ _ _ _
  case h_2 => exact ite (((dieWrite s _ _ _).trans (bump _ ctx 1 0 (by decide))).trans (raise _ _ _ _)) (dieWrite s _ _ _)

theorem commitChan (s : State) (ctx : Nat) (e : TagSum) : WorkEnds s (s.commitChan ctx e) := by
  unfold State.commitChan
  dsimp only
  split
  case h_1 => exact noteFault s _ _ _ _ _
  case h_2 => exact dieWrite s _ _ _

theorem commitStats (s : State) (x : Task) : WorkEnds s (s.commitStats x) := (foldl (fun t e => commitTag t _ _ e) _ s).trans (foldl (fun t e => commitChan t _ e) _ _)

theorem settle (s : State) (k : Nat) (commit : Bool) : WorkEnds s (s.settle k commit) := by
  unfold State.settle
  dsimp only
  refine ite (refl s) (ite ?_ ?_)
  · exact ((foldl (fun t i => shadowCommit t i k) _ s).trans (setTask _ k _)).trans (commitStats _ _)
  · exact (foldl (fun t i => shadowDrop t i k) _ s).trans (setTask _ k _)

/-! ### Commit (R217, R230, R237, R459) -/

theorem calibrate (s : State) (ctx cls est energy : Nat) (once : Bool) : WorkEnds s (s.calibrate ctx cls est energy once) := ite (refl s) (setFld s _ ctx _ (by decide))

/-- DONE moves, and the record's unit of energy is done. -/
theorem done (s : State) (e : Entry) : WorkEnds s ((s.put64 .lwDoneLo .lwDoneHi e.seq (lwInst e.ctx e.stream)).dropUnit (.record e.ctx e.stream e.seq)) :=
  ((setFld s _ _ 0 (by decide)).trans (setFld _ _ _ 0 (by decide))).trans (dropUnit _ _)

theorem entries (h : WorkEnds s u) : u.entries = s.entries := by rw [h.only]

theorem tgs (h : WorkEnds s u) : u.tgs = s.tgs := by rw [h.only]

theorem runs (h : WorkEnds s u) : u.runs = s.runs := by rw [h.only]

/-- The same beside other entries. -/
theorem withEntries (h : WorkEnds s u) (es : List Entry) : WorkEnds { s with entries := es } { u with entries := es } :=
  ⟨by conv_lhs => rw [h.only], h.causes, h.orphans⟩

end WorkEnds

section Ends
variable {s : State} {c q n : Nat} {e : Entry}

/-- What ends a record leaves its outcome, other entries aside. -/
structure RecordEnds (s u : State) (c q n st d : Nat) : Prop where
  outcome : Outcome u c q n st d
  work : ∃ es, WorkEnds { s with entries := es } u

theorem State.journal_workEnds (s : State) (e : Entry) : ∃ es, WorkEnds { s with entries := es } (s.journal e) := by
  have hwrites : ∀ (t : State) (p : Prop) [Decidable p] (k : Nat) (bs : List (BitVec 8)), WorkEnds t (if p then t else t.hbmWrite none k bs) := fun t p _ k bs =>
    .ite (.refl t) (.hbmWrite t _ _ _)
  exact ⟨_, ((hwrites s _ _ _).trans (hwrites _ _ _ _)).withEntries _⟩

/-- A commit writes the entry with its outcome, and settles the record's tasks. -/
theorem State.commitRecord_ends (h : s.entry c q n = some e) (st d : Nat) : RecordEnds s (s.commitRecord e st d) c q n st d := by
  obtain ⟨rfl, rfl, rfl⟩ := State.entry_named h
  have hname : (e.committed st d s.ptime).is e.ctx e.stream e.seq = true := Entry.is_iff.2 ⟨rfl, rfl, rfl⟩
  obtain ⟨es, hjournal⟩ := (s.modEntry e.ctx e.stream e.seq fun _ => e.committed st d s.ptime).journal_workEnds (e.committed st d s.ptime)
  have hentry := State.entry_journal_same (State.entry_modEntry_same (fun _ _ => hname) h) hname
  have hrest : WorkEnds ((s.modEntry e.ctx e.stream e.seq fun _ => e.committed st d s.ptime).journal (e.committed st d s.ptime)) (s.commitRecord e st d) := by
    have hsettled := fun t : State => WorkEnds.foldl (fun u k => (WorkEnds.settle u k (st == 0)).trans (.dropTaskRec _ k)) (s.recordTasks e) t
    exact ((hsettled _).trans (.done _ e)).trans (.ite (.calibrate _ _ _ _ _ _) (.refl _))
  exact ⟨⟨_, (State.entry_congr hrest.entries _ _ _).trans hentry, rfl⟩, es, hjournal.trans hrest⟩

/-- A record not done that has no commit point ends as told. -/
theorem State.finish_ends (h : s.entry c q n = some e) (hdone : e.done = false) (hpoint : e.point = none) (st d : Nat) : RecordEnds s (s.finish c q n st d) c q n st d := by
  simp only [State.finish, h, hdone, Bool.false_eq_true, if_false]
  split
  · exact State.commitRecord_ends h st d
  · exact ⟨⟨_, State.entry_reach h hpoint st d, rfl⟩, _, .refl _⟩

theorem Entry.ripe_done {k : Nat} (h : e.ripe k = true) : e.done = false := by
  simp only [Entry.ripe, Bool.and_eq_true, beq_iff_eq] at h
  rw [Entry.done, h.1.1.2]
  rfl

/-- A started record that ends at once. -/
theorem State.endOp_ends {k : Nat} (h : s.entry c q n = some e) (hr : e.ripe k = true) (st d : Nat) : RecordEnds s (s.endOp e st d) c q n st d := by
  have hbegin := State.entry_begin h
  have hdone : e.done = false := Entry.ripe_done hr
  have hpoint : e.point = none := Entry.ripe_point hr
  obtain ⟨rfl, rfl, rfl⟩ := State.entry_named h
  obtain ⟨houtcome, hwork⟩ := State.finish_ends hbegin hdone hpoint st d
  exact ⟨houtcome, hwork⟩

/-- The work of a started record of its kind and operation. -/
theorem State.withOp_ripe {k op : Nat} (h : s.entry c q n = some e) (hr : e.ripe k = true) (hop : e.op = op) (w : Entry → State) : s.withOp c q n k op w = .next (w e) := by
  rw [State.withOp, State.withRecord_ripe h hr, if_pos hop]

end Ends

end Sys2Proof.Machine
end

section
/-! PROOFS. The learning records but for the start of a stage run: binds, publishes, seals, seal aborts and steps out of order (R277, R278, R334, R336, R337, R341). -/
namespace Sys2Proof.Machine

/-! ### Training groups by name (R336) -/

section Named
variable {s : State} {c i c' i' : Nat} {g : TGroup} {f : TGroup → TGroup}

/-- A training group found under a name bears it. -/
theorem State.tgroup_named (h : s.tgroup c i = some g) : g.ctx = c ∧ g.id = i := by
  have hfound := List.find?_some h
  simpa using hfound

theorem State.tgroup_congr {s u : State} (h : u.tgs = s.tgs) (c i : Nat) : u.tgroup c i = s.tgroup c i := by rw [State.tgroup, State.tgroup, h]

/-- A change of the groups of one name that keeps their name finds every group where it was, the one of that name changed. -/
theorem State.tgroup_modTg (hf : ∀ x, (f x).ctx = x.ctx ∧ (f x).id = x.id) (s : State) (c i c' i' : Nat) :
    (s.modTg c i f).tgroup c' i' = (s.tgroup c' i').map fun x => if x.ctx = c ∧ x.id = i then f x else x := by
  have hname : ((fun x : TGroup => x.ctx == c' && x.id == i') ∘ fun x => if x.ctx = c ∧ x.id = i then f x else x) = fun x => x.ctx == c' && x.id == i' := funext fun x => by
    rw [Function.comp_apply]
    split
    · rw [(hf x).1, (hf x).2]
    · rfl
  rw [State.tgroup, State.modTg, List.find?_map, hname, ← State.tgroup]

theorem State.tgroup_modTg_same (hf : ∀ x, (f x).ctx = x.ctx ∧ (f x).id = x.id) (h : s.tgroup c i = some g) : (s.modTg c i f).tgroup c i = some (f g) := by
  rw [State.tgroup_modTg hf, h, Option.map_some, if_pos (State.tgroup_named h)]

theorem State.tgroup_modTg_ne (hf : ∀ x, (f x).ctx = x.ctx ∧ (f x).id = x.id) (hne : ¬ (c' = c ∧ i' = i)) : (s.modTg c i f).tgroup c' i' = s.tgroup c' i' := by
  rw [State.tgroup_modTg hf]
  cases h : s.tgroup c' i' with
  | none => rfl
  | some x =>
    obtain ⟨rfl, rfl⟩ := State.tgroup_named h
    rw [Option.map_some, if_neg hne]

/-- A group listed last under a name not yet listed. -/
theorem State.tgroup_append (h : s.tgroup g.ctx g.id = none) :
    ({ s with tgs := s.tgs ++ [g] } : State).tgroup g.ctx g.id = some g ∧
      ∀ c' i', ¬ (c' = g.ctx ∧ i' = g.id) → ({ s with tgs := s.tgs ++ [g] } : State).tgroup c' i' = s.tgroup c' i' := by
  refine ⟨?_, fun c' i' hne => ?_⟩
  · rw [State.tgroup] at h
    rw [State.tgroup, List.find?_append, h, Option.none_or]
    exact List.find?_cons_of_pos (by simp)
  · have hother : (g.ctx == c' && g.id == i') = false := by
      rw [Bool.and_eq_false_iff, beq_eq_false_iff_ne, beq_eq_false_iff_ne]
      exact not_and_or.1 fun h => hne ⟨h.1.symm, h.2.symm⟩
    rw [State.tgroup, List.find?_append, List.find?_cons_of_neg (by simp [hother]), List.find?_nil, Option.or_none, State.tgroup]

end Named

section Records
variable {s : State} {c q n : Nat} {e : Entry} {g : TGroup}

/-- A record that ends at once, in a state that lists its entry. -/
theorem State.endOp_of_entries {t : State} {k : Nat} (h : s.entry c q n = some e) (hr : e.ripe k = true) (ht : t.entries = s.entries) (st d : Nat) :
    Outcome (t.endOp e st d) c q n st d ∧ (t.endOp e st d).tgs = t.tgs ∧ (t.endOp e st d).runs = t.runs := by
  obtain ⟨houtcome, es, hwork⟩ := State.endOp_ends ((State.entry_congr ht _ _ _).trans h) hr st d
  exact ⟨houtcome, hwork.tgs, hwork.runs⟩

theorem State.withTg_bound (hg : s.tgroup e.ctx e.tg = some g) (f : TGroup → State) : s.withTg e f = f g := by simp only [State.withTg, hg]

/-! ### Binds (R336) -/

/-- The members of a descriptor, from the bytes behind its header (R336). -/
def groupMembers (m : Nat) (b : List (BitVec 8)) : List TgMem :=
  (List.range m).map fun i => ⟨bits (leAt b (8 * i) 4) 13 0, bits (leAt b (8 * i) 4) 21 16, bits (leAt b (8 * i) 4) 28 24⟩

/-- Who reads the descriptor of a bind. -/
def bindOwner (e : Entry) : ReadOwner := .op 13 ((e.ctx * 16 + e.stream) * 2 ^ 64 + e.seq)

/-- The bytes of a sound descriptor of a group with nothing in progress have been read. -/
structure Binds (s : State) (e : Entry) (hd b : List (BitVec 8)) : Prop where
  idle : s.tgBusy e.ctx e.tg true = false
  head : s.dvaRead e.ctx (e.u 0x38 6) 32 (bindOwner e) false = .ok hd
  magic : leAt hd 0 4 = 0x54475250
  nonempty : 1 ≤ leAt hd 4 4
  few : leAt hd 4 4 ≤ 10240
  body : s.dvaRead e.ctx (e.u 0x38 6 + 32) (8 * leAt hd 4 4) (bindOwner e) false = .ok b

namespace Binds
variable {hd b : List (BitVec 8)}

theorem bindOp_eq (h : Binds s e hd b) :
    s.bindOp e =
      match s.tgroup e.ctx e.tg with
      | some _ => ((s.dropReads (bindOwner e)).modTg e.ctx e.tg fun g => { g with desc := e.u 0x38 6, mems := groupMembers (leAt hd 4 4) b, sched := leAt hd 8 6 }).endOp e 0 0
      | none =>
        if 256 ≤ s.tgs.length then (s.dropReads (bindOwner e)).endOp e St.groupRefused 1
        else ({ s.dropReads (bindOwner e) with
          tgs := s.tgs ++ [⟨e.ctx, e.tg, e.u 0x38 6, groupMembers (leAt hd 4 4) b, leAt hd 8 6, 0, 0, 0, 0, none, none, [], []⟩] } : State).endOp e 0 0 := by
  have hsound : ¬ (leAt hd 0 4 ≠ 0x54475250 ∨ leAt hd 4 4 = 0 ∨ 10240 < leAt hd 4 4) := by
    have hsome := h.nonempty
    have hfew := h.few
    exact not_or.2 ⟨not_not.2 h.magic, by omega⟩
  have hhead := h.head
  have hbody := h.body
  unfold bindOwner at hhead hbody
  unfold State.bindOp
  simp only [h.idle, Bool.false_eq_true, if_false, hhead, hsound, hbody]
  rfl

/-- A group not bound yet is listed with its numbers at zero. -/
theorem binds_new (h : Binds s e hd b) (he : s.entry c q n = some e) (hr : e.ripe 7 = true) (hop : e.op = 3) (hg : s.tgroup c e.tg = none) (hroom : s.tgs.length < 256) :
    ∃ u g, exec (.bind c q n) s = .next u ∧ Outcome u c q n 0 0 ∧ u.tgroup c e.tg = some g ∧ g.desc = e.u 0x38 6 ∧ g.mems.length = leAt hd 4 4 ∧
      g.sched = leAt hd 8 6 ∧ g.live = 0 ∧ g.root = 0 ∧ g.sealed = 0 ∧ g.rootGen = 0 ∧ g.sealRun = none ∧ (∀ c' t', ¬ (c' = c ∧ t' = e.tg) → u.tgroup c' t' = s.tgroup c' t') := by
  set t : State := { s.dropReads (bindOwner e) with
    tgs := s.tgs ++ [⟨e.ctx, e.tg, e.u 0x38 6, groupMembers (leAt hd 4 4) b, leAt hd 8 6, 0, 0, 0, 0, none, none, [], []⟩] } with ht
  have hexec : exec (.bind c q n) s = .next (s.bindOp e) := (exec_bind c q n s).trans (State.withOp_ripe he hr hop s.bindOp)
  obtain ⟨houtcome, htgs, -⟩ := State.endOp_of_entries (t := t) he hr rfl 0 0
  obtain ⟨rfl, rfl, rfl⟩ := State.entry_named he
  obtain ⟨hnew, hothers⟩ := State.tgroup_append (s := s.dropReads (bindOwner e))
    (g := ⟨e.ctx, e.tg, e.u 0x38 6, groupMembers (leAt hd 4 4) b, leAt hd 8 6, 0, 0, 0, 0, none, none, [], []⟩) hg
  have hbind : s.bindOp e = t.endOp e 0 0 := by
    rw [h.bindOp_eq]
    simp only [hg, not_le.2 hroom, if_false, ← ht]
  refine ⟨_, _, hexec.trans (congrArg _ hbind), houtcome, (State.tgroup_congr htgs _ _).trans hnew, rfl, ?_, rfl, rfl, rfl, rfl, rfl, rfl, fun c' t' hne => ?_⟩
  · rw [groupMembers, List.length_map, List.length_range]
  · exact (State.tgroup_congr htgs _ _).trans (hothers c' t' hne)

/-- A group bound already keeps its numbers. -/
theorem binds_again (h : Binds s e hd b) (he : s.entry c q n = some e) (hr : e.ripe 7 = true) (hop : e.op = 3) (hg : s.tgroup c e.tg = some g) :
    ∃ u g', exec (.bind c q n) s = .next u ∧ Outcome u c q n 0 0 ∧ u.tgroup c e.tg = some g' ∧ g' = { g with desc := e.u 0x38 6, mems := g'.mems, sched := leAt hd 8 6 } ∧
      g'.mems.length = leAt hd 4 4 ∧ (∀ c' t', ¬ (c' = c ∧ t' = e.tg) → u.tgroup c' t' = s.tgroup c' t') := by
  set t : State := (s.dropReads (bindOwner e)).modTg e.ctx e.tg fun g => { g with desc := e.u 0x38 6, mems := groupMembers (leAt hd 4 4) b, sched := leAt hd 8 6 } with ht
  have hexec : exec (.bind c q n) s = .next (s.bindOp e) := (exec_bind c q n s).trans (State.withOp_ripe he hr hop s.bindOp)
  obtain ⟨houtcome, htgs, -⟩ := State.endOp_of_entries (t := t) he hr rfl 0 0
  obtain ⟨rfl, rfl, rfl⟩ := State.entry_named he
  have hbind : s.bindOp e = t.endOp e 0 0 := by
    rw [h.bindOp_eq]
    simp only [hg, ← ht]
  have hname : ∀ x : TGroup, TGroup.ctx { x with desc := e.u 0x38 6, mems := groupMembers (leAt hd 4 4) b, sched := leAt hd 8 6 } = x.ctx ∧
    TGroup.id { x with desc := e.u 0x38 6, mems := groupMembers (leAt hd 4 4) b, sched := leAt hd 8 6 } = x.id := fun _ => ⟨rfl, rfl⟩
  refine ⟨_, _, hexec.trans (congrArg _ hbind), houtcome, (State.tgroup_congr htgs _ _).trans (State.tgroup_modTg_same hname hg), rfl, ?_, fun c' t' hne => ?_⟩
  · rw [groupMembers, List.length_map, List.length_range]
  · exact (State.tgroup_congr htgs _ _).trans (State.tgroup_modTg_ne hname hne)

end Binds

/-! ### Publishes (R334) -/

theorem publish_next (he : s.entry c q n = some e) (hr : e.ripe 7 = true) (hop : e.op = 4) (hg : s.tgroup c e.tg = some g) (hnext : e.u 0x34 4 = g.rootGen + 1) (hpub : g.publish = none) :
    ∃ u, exec (.publish c q n) s = .next u ∧ Outcome u c q n 0 0 ∧ u.tgroup c e.tg = some { g with publish := some (g.rootGen + 1) } ∧
      (∀ c' t', ¬ (c' = c ∧ t' = e.tg) → u.tgroup c' t' = s.tgroup c' t') := by
  set t : State := s.modTg e.ctx e.tg fun g => { g with publish := some (e.u 0x34 4) } with ht
  have hexec : exec (.publish c q n) s = .next (s.publishOp e) := (exec_publish c q n s).trans (State.withOp_ripe he hr hop s.publishOp)
  obtain ⟨houtcome, htgs, -⟩ := State.endOp_of_entries (t := t) he hr rfl 0 0
  obtain ⟨rfl, rfl, rfl⟩ := State.entry_named he
  have hpublish : s.publishOp e = t.endOp e 0 0 := by
    rw [State.publishOp, State.withTg_bound hg, if_neg (by simp [hnext, hpub])]
  have hname : ∀ x : TGroup, TGroup.ctx { x with publish := some (e.u 0x34 4) } = x.ctx ∧ TGroup.id { x with publish := some (e.u 0x34 4) } = x.id := fun _ => ⟨rfl, rfl⟩
  refine ⟨_, hexec.trans (congrArg _ hpublish), houtcome, ?_, fun c' t' hne => (State.tgroup_congr htgs _ _).trans (State.tgroup_modTg_ne hname hne)⟩
  rw [State.tgroup_congr htgs, State.tgroup_modTg_same hname hg, hnext]

theorem publish_refused (he : s.entry c q n = some e) (hr : e.ripe 7 = true) (hop : e.op = 4) (hg : s.tgroup c e.tg = some g)
    (hnot : e.u 0x34 4 ≠ g.rootGen + 1 ∨ g.publish.isSome = true) : ∃ u, exec (.publish c q n) s = .next u ∧ Outcome u c q n St.publishRefused g.rootGen ∧ u.tgs = s.tgs := by
  have hexec : exec (.publish c q n) s = .next (s.publishOp e) := (exec_publish c q n s).trans (State.withOp_ripe he hr hop s.publishOp)
  obtain ⟨houtcome, htgs, -⟩ := State.endOp_of_entries (t := s) he hr rfl St.publishRefused g.rootGen
  obtain ⟨rfl, rfl, rfl⟩ := State.entry_named he
  exact ⟨_, hexec.trans (by rw [State.publishOp, State.withTg_bound hg, if_pos hnot]), houtcome, htgs⟩

/-! ### Seals (R337, R341) -/

theorem seal_starts (he : s.entry c q n = some e) (hr : e.ripe 7 = true) (hop : e.op = 2) (hg : s.tgroup c e.tg = some g) (hturn : s.turnOnGroup c e.tg = none)
    (hlater : g.sealed < e.u 0x34 4) (hdecided : g.decided (e.u 0x34 4 - 1) = true) (hnone : g.sealRun = none) :
    ∃ u, exec (.seal c q n) s = .next u ∧ u = { s with entries := u.entries, tgs := u.tgs } ∧ u.entry c q n = some { e with begun := true } ∧ ∃ g', u.tgroup c e.tg = some g' ∧
      g'.sealRun = some ⟨q, n, e.u 0x34 4, e.u 0x38 4, e.u 0x3C 4, false, ⟨s.ptime, s.ptime, none, [], 0xFFFF, [], none⟩⟩ ∧ g' = { g with past := g'.past, sealRun := g'.sealRun } := by
  have hexec : exec (.seal c q n) s = .next (s.sealOp e) := (exec_seal c q n s).trans (State.withOp_ripe he hr hop s.sealOp)
  have hbegin := State.entry_begin he
  obtain ⟨rfl, rfl, rfl⟩ := State.entry_named he
  have hseal : s.sealOp e = (s.begin e).modTg e.ctx e.tg fun g => { g with
      past := g.past.filter fun p => p.1 != e.u 0x34 4
      sealRun := some ⟨e.stream, e.seq, e.u 0x34 4, e.u 0x38 4, e.u 0x3C 4, false, Ballot.start s.ptime⟩ } := by
    simp only [State.sealOp, State.withTg_bound hg, hturn, not_le.2 hlater, hdecided, hnone, if_false, Bool.not_true, Bool.false_eq_true, Option.isSome_none]
  exact ⟨_, hexec.trans (congrArg _ hseal), rfl, hbegin, _, State.tgroup_modTg_same (s := s.begin e) (fun _ => ⟨rfl, rfl⟩) hg, rfl, rfl⟩

theorem seal_sealed (he : s.entry c q n = some e) (hr : e.ripe 7 = true) (hop : e.op = 2) (hg : s.tgroup c e.tg = some g) (hturn : s.turnOnGroup c e.tg = none)
    (hsealed : e.u 0x34 4 ≤ g.sealed) : ∃ u, exec (.seal c q n) s = .next u ∧ Outcome u c q n St.stepOrder g.sealed ∧ u.tgs = s.tgs := by
  have hexec : exec (.seal c q n) s = .next (s.sealOp e) := (exec_seal c q n s).trans (State.withOp_ripe he hr hop s.sealOp)
  obtain ⟨houtcome, htgs, -⟩ := State.endOp_of_entries (t := s) he hr rfl St.stepOrder g.sealed
  obtain ⟨rfl, rfl, rfl⟩ := State.entry_named he
  exact ⟨_, hexec.trans (by simp only [State.sealOp, State.withTg_bound hg, hturn, hsealed, if_true]), houtcome, htgs⟩

theorem sealAbort_noted {x : Seal} (he : s.entry c q n = some e) (hr : e.ripe 7 = true) (hop : e.op = 5) (hg : s.tgroup c e.tg = some g) (hx : g.sealRun = some x)
    (hstep : x.step = e.u 0x34 4) :
    ∃ u, exec (.sealAbort c q n) s = .next u ∧ Outcome u c q n 0 0 ∧ u.tgroup c e.tg = some { g with sealRun := some { x with abortReq := true } } := by
  set t : State := s.modTg e.ctx e.tg fun g => { g with sealRun := some { x with abortReq := true } } with ht
  have hexec : exec (.sealAbort c q n) s = .next (s.sealAbortOp e) := (exec_sealAbort c q n s).trans (State.withOp_ripe he hr hop s.sealAbortOp)
  obtain ⟨houtcome, htgs, -⟩ := State.endOp_of_entries (t := t) he hr rfl 0 0
  obtain ⟨rfl, rfl, rfl⟩ := State.entry_named he
  have habort : s.sealAbortOp e = t.endOp e 0 0 := by simp only [State.sealAbortOp, State.withTg_bound hg, hx, hstep, if_true, ht]
  exact ⟨_, hexec.trans (congrArg _ habort), houtcome, (State.tgroup_congr htgs _ _).trans (State.tgroup_modTg_same (fun _ => ⟨rfl, rfl⟩) hg)⟩

/-! ### Steps out of order (R278) -/

theorem stepOutOfOrder_ends (he : s.entry c q n = some e) (hr : e.ripe 7 = true) (hop : e.op = 1 ∨ e.op = 2) (hg : s.tgroup c (if e.op = 1 then e.u 0x40 2 else e.tg) = some g)
    (hdecided : g.decided (e.u 0x34 4 - 1) = false) (hheld : s.sealHeld e (if e.op = 1 then e.u 0x40 2 else e.tg) (e.u 0x34 4 - 1) = false) :
    ∃ u, exec (.stepOutOfOrder c q n) s = .next u ∧ Outcome u c q n St.stepOrder g.sealed ∧ u.tgs = s.tgs ∧ u.runs = s.runs := by
  have hmay : (e.ripe 7 && (e.op == 1 || e.op == 2) && !g.decided (e.u 0x34 4 - 1) && !s.sealHeld e (if e.op = 1 then e.u 0x40 2 else e.tg) (e.u 0x34 4 - 1)) = true := by
    rw [hr, hdecided, hheld]
    simpa using hop
  refine ⟨_, ?_, State.endOp_of_entries he hr rfl _ _⟩
  rw [exec_stepOutOfOrder, execStepOutOfOrder]
  simp only [he, hg]
  exact when_pos hmay _ _

end Records

end Sys2Proof.Machine
end

section
/-! PROOFS. How stage runs go on but for the start of a unit: entries placed and done, units and runs that end, the check of quantised entries, and hand-offs (R280 to R288, R294, R295, R302). -/
namespace Sys2Proof.Machine

/-! ### Runs by number -/

section Named
variable {s : State} {k : Nat} {r : Run} {f : Run → Run}

theorem State.findRun_named (h : s.findRun k = some r) : r.num = k := by
  have hfound := List.find?_some h
  simpa using hfound

theorem State.findRun_congr {s u : State} (h : u.runs = s.runs) (k : Nat) : u.findRun k = s.findRun k := by rw [State.findRun, State.findRun, h]

/-- The runs changed by a function that keeps numbers. -/
theorem State.findRun_map {u : State} {f : Run → Run} (hf : ∀ x, (f x).num = x.num) (hu : u.runs = s.runs.map f) (k : Nat) : u.findRun k = (s.findRun k).map f := by
  have hname : (fun x : Run => x.num == k) ∘ f = fun x => x.num == k := funext fun x => by rw [Function.comp_apply, hf]
  rw [State.findRun, hu, List.find?_map, hname, State.findRun]

theorem State.findRun_modRun (hf : ∀ x, (f x).num = x.num) (h : s.findRun k = some r) : (s.modRun k f).findRun k = some (f r) := by
  have hname : ∀ x : Run, (if x.num = k then f x else x).num = x.num := fun x => by
    split
    · exact hf x
    · rfl
  rw [State.findRun_map hname rfl, h, Option.map_some, if_pos (State.findRun_named h)]

/-- The entry a run is at is one of the unit it has started. -/
theorem Run.order_of_at {fwd : Bool} {mb i : Nat} {e : SEnt} (h : r.at = some (fwd, mb, i, e)) : r.order[r.unit]? = some (fwd, mb) ∧ r.started = true := by
  unfold Run.at at h
  split at h
  case h_1 => exact absurd h (by simp)
  case h_2 u hu =>
    split at h
    case isTrue => exact absurd h (by simp)
    case isFalse hs =>
      obtain ⟨j, -, hj⟩ := Option.bind_eq_some_iff.1 h
      obtain ⟨x, -, hx⟩ := Option.map_eq_some_iff.1 hj
      simp only [Prod.mk.injEq] at hx
      obtain ⟨hf, hm, -, -⟩ := hx
      exact ⟨by rw [hu, ← hf, ← hm], by simpa using hs⟩

end Named

section Runs
variable {s : State} {k : Nat} {r : Run}

/-! ### Entries (R280, R284, R285, R294) -/

theorem State.placeTask_runs {v : State} {x : Task} {t : Nat} (h : s.placeTask x = .ok v t) : v.runs = s.runs := by
  unfold State.placeTask at h
  dsimp only at h
  split at h
  case h_1 => exact absurd h PlaceRes.noConfusion
  case h_3 => exact absurd h PlaceRes.noConfusion
  case h_2 =>
    split at h
    case h_1 => exact absurd h PlaceRes.noConfusion
    case h_2 =>
      split at h
      case isTrue => exact absurd h PlaceRes.noConfusion
      case isFalse =>
        split at h
        case h_1 => exact absurd h PlaceRes.noConfusion
        case h_2 =>
          obtain ⟨rfl, rfl⟩ := PlaceRes.ok.inj h
          rfl

/-- An entry that is not quantised runs as it stands. -/
theorem Run.mode_plain (r : Run) (fwd : Bool) (mb i : Nat) {e : SEnt} (h : e.quant = false) : r.mode fwd mb i e = ⟨false, false, false⟩ := by
  rw [Run.mode, h]
  rfl

/-- A run whose entry has its task: with the first entry of a micro-batch, the half it takes is recorded (R285). -/
def Run.placed (fwd : Bool) (mb i first live t : Nat) (x : Run) : Run :=
  { x with task := some t, wide := false, halves := if fwd && x.halves.all (fun h => h.1 != mb) && i == first then x.halves ++ [(mb, live)] else x.halves }

theorem stageEntryStart_places {s1 : State} {t mb i : Nat} {fwd : Bool} {e : SEnt} (hrun : s.findRun k = some r) (hfail : r.fail = none) (hat : r.at = some (fwd, mb, i, e))
    (htask : r.task = none) (hadm : r.admitted = true) (hquant : e.quant = false)
    (hplace : s.placeTask (r.taskOf ((s.entry r.ctx r.stream r.seq).any (fun x => x.failInvalid)) mb i e false) = .ok s1 t) :
    ∃ u r', exec (.stageEntryStart k) s = .next u ∧ u.findRun k = some r' ∧ r'.task = some t ∧ r'.idx = r.idx ∧ r'.unit = r.unit ∧ u = { s1 with runs := u.runs } := by
  obtain ⟨horder, hstarted⟩ := Run.order_of_at hat
  have hrun1 : s1.findRun k = some r := (State.findRun_congr (State.placeTask_runs hplace) k).trans hrun
  have hexec : exec (.stageEntryStart k) s =
      .next (s1.modRun k (Run.placed fwd mb i ((nextEntry r.prog.fwd 0).getD 0) (((s.tgroup r.ctx r.tgroup).map fun g => g.live).getD 0) t)) := by
    rw [exec_stageEntryStart, execStageEntryStart]
    simp only [hrun, hfail, horder, hstarted, hat, htask, hadm, Run.mode_plain _ _ _ _ hquant, hplace, Bool.not_true, Bool.false_eq_true, if_false]
    rfl
  exact ⟨_, _, hexec, State.findRun_modRun (fun _ => rfl) hrun1, rfl, rfl, rfl, rfl⟩

/-- A run whose entry has committed: its layer waits to be handed off after the last micro-batch (R294). -/
def Run.entryDone (mb i : Nat) (e : SEnt) (x : Run) : Run :=
  { x with
    idx := i + 1, task := none, unitId := x.unitId + 1, wide := false, admitted := false, checked := false
    hold := if e.handoff ∧ mb + 1 = x.m then x.hold ++ [(e.layer, false)] else x.hold }

theorem stageEntryStart_goesOn {t mb i : Nat} {fwd : Bool} {e : SEnt} (hrun : s.findRun k = some r) (hfail : r.fail = none) (hat : r.at = some (fwd, mb, i, e)) (htask : r.task = some t)
    (hst : (s.task t).st = .ended) (hstatus : (s.task t).status = 0) (happlied : (s.task t).spec = true → (s.task t).applied = true) :
    ∃ u r', exec (.stageEntryStart k) s = .next u ∧ u.findRun k = some r' ∧ r'.idx = i + 1 ∧ r'.task = none ∧ r'.unit = r.unit ∧ r'.wide = false ∧ r'.checked = false ∧
      r'.unitId = r.unitId + 1 ∧ r'.hold = (if e.handoff = true ∧ mb + 1 = r.m then r.hold ++ [(e.layer, false)] else r.hold) := by
  obtain ⟨horder, hstarted⟩ := Run.order_of_at hat
  have hmay : ¬ ((s.task t).spec = true ∧ (!(s.task t).applied) = true) := fun h => by simp [happlied h.1] at h
  have hexec : exec (.stageEntryStart k) s = .next ((s.settle t true).entryDone r mb i e t) := by
    rw [exec_stageEntryStart, execStageEntryStart]
    simp only [hrun, hfail, horder, hstarted, hat, htask, hst, hstatus, hmay, Bool.not_true, Bool.false_eq_true, if_false, ne_eq, not_true_eq_false]
  obtain ⟨v, hv, hdone⟩ : ∃ v, WorkEnds s v ∧ (s.settle t true).entryDone r mb i e t = v.modRun r.num (Run.entryDone mb i e) :=
    ⟨_, (((WorkEnds.settle s t true).trans (.calibrate _ _ _ _ _ _)).trans (.dropTaskRec _ t)).trans (.dropUnit _ _), rfl⟩
  have hrun' : v.findRun r.num = some r := (State.findRun_congr hv.runs _).trans (State.findRun_named hrun ▸ hrun)
  obtain rfl := State.findRun_named hrun
  exact ⟨_, _, hexec.trans (congrArg _ hdone), State.findRun_modRun (fun _ => rfl) hrun', rfl, rfl, rfl, rfl, rfl, rfl, rfl⟩

/-! ### Units and runs that end (R284 to R286, R295) -/

/-- A run whose unit has no further entry: the micro-batch's half is released with its last unit (R285). -/
def Run.unitDone (w : Bool × Nat) (last : Bool) (x : Run) : Run :=
  { x with unit := x.unit + 1, started := false, idx := 0, halves := if last then x.halves.filter (fun h => h.1 != w.2) else x.halves }

theorem stageEntryStart_unitDone {w : Bool × Nat} (hrun : s.findRun k = some r) (hfail : r.fail = none) (horder : r.order[r.unit]? = some w) (hstarted : r.started = true)
    (hat : r.at = none) :
    ∃ u r', exec (.stageEntryStart k) s = .next u ∧ u = { s with runs := u.runs } ∧ u.findRun k = some r' ∧ r'.unit = r.unit + 1 ∧ r'.started = false ∧ r'.idx = 0 ∧
      r'.halves = (if w.1 = false ∨ r.prog.bwd = [] then r.halves.filter (fun h => h.1 != w.2) else r.halves) := by
  have hexec : exec (.stageEntryStart k) s = .next (s.modRun r.num (Run.unitDone w (!w.1 || r.prog.bwd.isEmpty))) := by
    rw [exec_stageEntryStart, execStageEntryStart]
    simp only [hrun, hfail, horder, hstarted, hat, Bool.not_true, Bool.false_eq_true, if_false]
    rfl
  have hrun' : s.findRun r.num = some r := State.findRun_named hrun ▸ hrun
  obtain rfl := State.findRun_named hrun
  refine ⟨_, _, hexec, rfl, State.findRun_modRun (fun _ => rfl) hrun', rfl, rfl, rfl, ?_⟩
  simp only [Run.unitDone, Bool.or_eq_true, Bool.not_eq_true', List.isEmpty_iff]

theorem State.account_only (s : State) (c i n : Nat) (f : Acct → Acct) : s.account c i n f = { s with tgs := (s.account c i n f).tgs } := by
  unfold State.account
  split <;> rfl

/-- The state of a run that is gone, its orphans counted, before its record ends. -/
def State.runGone (s : State) (r : Run) (status : Nat) : State :=
  let s1 := ({ s with runs := s.runs.filter (fun x => x.num != r.num) } : State).account r.ctx r.tgroup r.step fun a =>
    if status = 0 then { a with runsOk := a.runsOk + 1 } else { a with runsBad := a.runsBad + 1 }
  if r.halves.length = 0 then s1 else (s1.bump .lrnOrphanCnt r.ctx r.halves.length).raise 0x24 r.ctx 1

theorem State.runGone_runs (s : State) (r : Run) (status : Nat) : (s.runGone r status).runs = s.runs.filter (fun x => x.num != r.num) := by
  unfold State.runGone
  dsimp only
  split
  · rw [State.account_only]
  · rw [(WorkEnds.raise _ _ _ _).runs, State.bump_only, State.account_only]

theorem State.runGone_entries (s : State) (r : Run) (status : Nat) : (s.runGone r status).entries = s.entries := by
  unfold State.runGone
  dsimp only
  split
  · rw [State.account_only]
  · rw [(WorkEnds.raise _ _ _ _).entries, State.bump_only, State.account_only]

/-- A run that ends is gone, and its record ends with it. -/
theorem State.endRun_ends {e : Entry} (he : s.entry r.ctx r.stream r.seq = some e) (hdone : e.done = false) (hpoint : e.point = none) (st d : Nat) :
    (s.endRun r st d).findRun r.num = none ∧ RecordEnds (s.runGone r st) (s.endRun r st d) r.ctx r.stream r.seq st d := by
  have hentry : ((s.runGone r st).dropUnit (.entry r.unitId)).entry r.ctx r.stream r.seq = some e := (State.entry_congr (s.runGone_entries r st) _ _ _).trans he
  obtain ⟨houtcome, es, hwork⟩ := State.finish_ends hentry hdone hpoint st d
  have hends : RecordEnds (s.runGone r st) (s.endRun r st d) r.ctx r.stream r.seq st d := ⟨houtcome, es, ((WorkEnds.dropUnit _ _).withEntries es).trans hwork⟩
  refine ⟨?_, hends⟩
  have hruns : (s.endRun r st d).runs = s.runs.filter (fun x => x.num != r.num) := hwork.runs.trans (s.runGone_runs r st)
  rw [State.findRun, hruns, List.find?_eq_none]
  exact fun x hx => by simpa using (List.mem_filter.1 hx).2

theorem stageEntryStart_ends {e : Entry} (hrun : s.findRun k = some r) (hfail : r.fail = none) (horder : r.order[r.unit]? = none) (hhold : r.hold = [])
    (he : s.entry r.ctx r.stream r.seq = some e) (hdone : e.done = false) (hpoint : e.point = none) :
    ∃ u, exec (.stageEntryStart k) s = .next u ∧ u.findRun k = none ∧ Outcome u r.ctx r.stream r.seq 0 0 := by
  have hexec : exec (.stageEntryStart k) s = .next (s.endRun r 0 0) := by
    rw [exec_stageEntryStart, execStageEntryStart]
    simp only [hrun, hfail, horder]
    exact when_pos (by rw [hhold]; rfl) _ _
  obtain ⟨hgone, hends⟩ := State.endRun_ends he hdone hpoint 0 0
  exact ⟨_, hexec, State.findRun_named hrun ▸ hgone, hends.outcome⟩

theorem atOrphans_key {c : Nat} (h : c < 64) : AtOrphans (Fld.lrnOrphanCnt.key c 0) := by
  refine ⟨?_, Fld.key_mod _ _ _ (by decide)⟩
  show 0 * 2 ^ 26 + 0x24 * 2 ^ 20 + c * 2 ^ 12 + 0x078 < 2 ^ 26
  omega

/-- The halves a failed run still holds are counted as orphans. -/
theorem State.runGone_orphans (hctx : r.ctx < 64) (hhalves : r.halves ≠ []) (status : Nat) :
    Counted s (s.runGone r status) .lrnOrphanCnt r.ctx 0 r.halves.length ∧ Raised s (s.runGone r status) 0x24 r.ctx 1 := by
  have hkey := atOrphans_key hctx
  have hreg : ∀ (f : Acct → Acct) (l : List Run) (j : Nat), (({ s with runs := l } : State).account r.ctx r.tgroup r.step f).reg j = s.reg j := fun f l j => by
    rw [State.account_only]
    rfl
  unfold State.runGone
  dsimp only
  rw [if_neg (by simpa using hhalves)]
  refine ⟨?_, ?_⟩
  · have hfld : ∀ (f : Acct → Acct) (l : List Run), (({ s with runs := l } : State).account r.ctx r.tgroup r.step f).fld .lrnOrphanCnt r.ctx = s.fld .lrnOrphanCnt r.ctx := fun f l => by
      rw [State.fld, hreg, State.fld]
    rw [Counted, State.fld, (WorkEnds.raise _ _ _ _).orphans _ hkey, ← State.fld, State.fld_bump_same _ _ _ _ _ (by decide), hfld]
  · refine (State.raised_raise _ _ _ _).congr ?_ rfl
    rw [State.reg_bump_of_off _ _ _ _ (by decide) (by rw [rkey_mod _ _ _ _ (by decide)]; decide), hreg]

/-- An event that has taken place stays marked as a record ends. -/
theorem WorkEnds.raised {t u : State} {cls inst n : Nat} (h : WorkEnds t u) (hr : Raised s t cls inst n) : Raised s u cls inst n := fun hen =>
  h.causes _ _ (rkey_mod _ _ _ _ (by decide)) (hr hen)

theorem stageEntryStart_fails {st d : Nat} {e : Entry} (hrun : s.findRun k = some r) (hfail : r.fail = some (st, d)) (htask : r.task = none) (hhalves : r.halves ≠ []) (hctx : r.ctx < 64)
    (he : s.entry r.ctx r.stream r.seq = some e) (hdone : e.done = false) (hpoint : e.point = none) :
    ∃ u, exec (.stageEntryStart k) s = .next u ∧ u.findRun k = none ∧ Outcome u r.ctx r.stream r.seq st d ∧ Counted s u .lrnOrphanCnt r.ctx 0 r.halves.length ∧ Raised s u 0x24 r.ctx 1 := by
  have hexec : exec (.stageEntryStart k) s = .next (s.endRun r st d) := by
    rw [exec_stageEntryStart, execStageEntryStart]
    simp only [hrun, hfail, htask]
  have hkey := atOrphans_key hctx
  obtain ⟨hgone, houtcome, es, hwork⟩ := State.endRun_ends he hdone hpoint st d
  obtain ⟨hcounted, hraised⟩ := State.runGone_orphans (s := s) hctx hhalves st
  refine ⟨_, hexec, State.findRun_named hrun ▸ hgone, houtcome, ?_, hwork.raised hraised⟩
  rw [Counted, State.fld, hwork.orphans _ hkey]
  exact hcounted

/-! ### The check of quantised entries (R302) -/

/-- A run whose entry has fallen back: the micro-batch is noted, and the wide variant is to run. -/
def Run.fallsBack (fwd : Bool) (mb i : Nat) (y : Run) : Run :=
  { y with task := none, wide := true, fell := Tbl.set noFall y.fell (fellKey fwd i) (some mb) }

/-- A task's discard leaves every register but IC_SPEC_LINES. -/
theorem State.reg_settle_discard {t j : Nat} (hopen : (s.task t).applied = false) (hj : j % 2 ^ 12 ≠ Fld.icSpecLinesLines.off) : (s.settle t false).reg j = s.reg j := by
  have hdrop : ∀ (u : State) (i : Nat), (u.shadowDrop i t).reg j = u.reg j := fun u i =>
    State.reg_setFld_of_off (u.setIc i { u.ic i with shadow := (u.ic i).shadow.filter fun x => x.task != t }) (f := .icSpecLinesLines) _ i 0 (by decide) hj
  have hall : (s.dropAll t).reg j = s.reg j := foldl_keeps (fun u : State => u.reg j) _ hdrop _ s
  rw [State.settle_discard hopen, State.markApplied, State.reg, State.setTask_regs, ← State.reg, hall]

/-- A quantised entry's task at its commit point, not yet checked. -/
structure Checks (s : State) (k : Nat) (r : Run) (fwd : Bool) (mb i : Nat) (e : SEnt) (t : Nat) : Prop where
  run : s.findRun k = some r
  at_ : r.at = some (fwd, mb, i, e)
  task : r.task = some t
  spec : (s.task t).spec = true
  ended : (s.task t).st = .ended
  status : (s.task t).status = 0
  unapplied : (s.task t).applied = false
  unchecked : r.checked = false

namespace Checks
variable {fwd : Bool} {mb i t : Nat} {e : SEnt}

theorem may (h : Checks s k r fwd mb i e t) :
    ¬ ((!(s.task t).spec) = true ∨ (s.task t).st ≠ .ended ∨ (s.task t).status ≠ 0 ∨ (s.task t).applied = true ∨ r.checked = true) := by
  simp [h.spec, h.ended, h.status, h.unapplied, h.unchecked]

theorem passes (h : Checks s k r fwd mb i e t) (hpass : quantCheck r.limits (s.task t) = 0) :
    ∃ u, exec (.quantCheck k) s = .next u ∧ u = { s with runs := u.runs } ∧ u.findRun k = some { r with checked := true } := by
  refine ⟨s.modRun k fun y => { y with checked := true }, ?_, rfl, State.findRun_modRun (f := fun y => { y with checked := true }) (fun _ => rfl) h.run⟩
  rw [exec_quantCheck, execQuantCheck]
  simp only [h.run, h.at_, h.task, h.may, hpass, if_false, if_true]

theorem fails (h : Checks s k r fwd mb i e t) (hfails : quantCheck r.limits (s.task t) ≠ 0) :
    ∃ u r', exec (.quantCheck k) s = .next u ∧ u.findRun k = some r' ∧ r'.task = none ∧ r'.wide = true ∧ r'.idx = r.idx ∧ r'.fellAt fwd i = some mb ∧
      Counted s u .qntFallbackCnt r.ctx ∧ Raised s u 0x24 r.ctx 0 := by
  set v : State := ((s.settle t false).dropTaskRec t).modRun k (Run.fallsBack fwd mb i) with hv
  have hexec : exec (.quantCheck k) s = .next ((v.bump .qntFallbackCnt r.ctx).raise 0x24 r.ctx 0) := by
    rw [exec_quantCheck, execQuantCheck]
    simp only [h.run, h.at_, h.task, h.may, hfails, if_false]
    rfl
  have hrun : ((s.settle t false).dropTaskRec t).findRun k = some r := (State.findRun_congr (WorkEnds.settle s t false).runs k).trans h.run
  have hreg : ∀ {j : Nat}, j % 2 ^ 12 ≠ Fld.icSpecLinesLines.off → v.reg j = s.reg j := fun hj => State.reg_settle_discard h.unapplied hj
  have hfld : v.fld .qntFallbackCnt r.ctx = s.fld .qntFallbackCnt r.ctx := by
    rw [State.fld, hreg (by rw [Fld.key_mod _ _ _ (by decide)]; decide), State.fld]
  refine ⟨_, Run.fallsBack fwd mb i r, hexec, (State.findRun_congr ?_ k).trans (State.findRun_modRun (fun _ => rfl) hrun), rfl, rfl, rfl, ?_, ?_, ?_⟩
  · rw [(WorkEnds.raise _ _ _ _).runs, State.bump_only]
  · rw [Run.fellAt, Run.fallsBack, Tbl.get_set, if_pos rfl]
  · have hraise : ((v.bump .qntFallbackCnt r.ctx).raise 0x24 r.ctx 0).fld .qntFallbackCnt r.ctx = (v.bump .qntFallbackCnt r.ctx).fld .qntFallbackCnt r.ctx :=
      (Logs.raise _ _ _ _).fld (by decide) _ _
    rw [Counted, hraise, ← hfld]
    exact v.counted_bump r.ctx (by decide)
  · refine (State.raised_raise _ _ _ _).congr ?_ rfl
    rw [State.reg_bump_of_off _ _ _ _ (by decide) (by rw [rkey_mod _ _ _ _ (by decide)]; decide), hreg (by rw [rkey_mod _ _ _ _ (by decide)]; decide)]

end Checks

/-! ### Hand-offs (R294) -/

/-- The collective of a layer's hand-off: its template, with the step, the group, and the accumulator and the half that take part (R294). -/
def State.handOffColl (s : State) (r : Run) (l : Nat) (ly : SLayer) : Coll :=
  let o := collOf ly.coll r.ctx s.collNum (.handoff r.num l)
  let half := if o.op = 6 then 1 - ((s.tgroup r.ctx r.tgroup).map (fun g => g.live)).getD 0 else 0
  { o with step := r.step, tgroup := r.tgroup, src := if r.m % 2 = 1 then ly.accA else ly.accB, half := half, dst := o.dst + half * leAt ly.coll 0x2C 4 }

theorem handOff_opens {t : State} {l : Nat} {counted : Bool} {rest : List (Nat × Bool)} {ly : SLayer} (hrun : s.findRun k = some r) (hhold : r.hold = (l, counted) :: rest)
    (hly : r.prog.layers[l]? = some ly) (hopen : s.openColl (s.handOffColl r l ly) (leAt ly.coll 0x10 6) (bit (leAt ly.coll 0 4) 12) = .ok t) (hrun' : t.findRun k = some r) :
    ∃ u, exec (.handOff k) s = .next u ∧ u.findRun k = some { r with hold := rest, handed := r.handed ++ [l] } ∧ Counted t u .lrnHandoffCnt r.ctx ∧
      u = { t with runs := u.runs, regs := u.regs } := by
  set v : State := t.modRun k fun x => { x with hold := rest, handed := x.handed ++ [l] } with hv
  have hexec : exec (.handOff k) s = .next (v.bump .lrnHandoffCnt r.ctx) := by
    unfold State.handOffColl at hopen
    rw [exec_handOff, execHandOff]
    simp only [hrun, hhold, hly]
    dsimp only at hopen
    rw [hopen]
  have hheld : v.findRun k = some { r with hold := rest, handed := r.handed ++ [l] } :=
    State.findRun_modRun (f := fun x => { x with hold := rest, handed := x.handed ++ [l] }) (fun _ => rfl) hrun'
  exact ⟨_, hexec, hheld, v.counted_bump r.ctx (by decide), rfl⟩

end Runs

end Sys2Proof.Machine
end

section
/-! PROOFS. The receives of stage runs: what opening a collective leaves of records, tasks and runs where its number is new, and the starts of stage runs and of their units (R276 to R279, R284, R309 to R312, R326). -/
namespace Sys2Proof.Machine

/-! ### What a receive may change of runs -/

/-- A run as it was, but for the receives opened and completed and a failure noted. -/
def Run.Beside (x y : Run) : Prop := y = { x with opened := y.opened, recvd := y.recvd, fail := y.fail }

theorem Run.Beside.trans {x y z : Run} (h : x.Beside y) (g : y.Beside z) : x.Beside z := by
  unfold Run.Beside at *
  rw [h] at g
  exact g

/-- Records and tasks are as they were, and so are runs but for their receives, the number of the next run, and LRN_STEP. -/
structure KeepsWork (s u : State) : Prop where
  entries : u.entries = s.entries
  tasks : u.tasks = s.tasks
  runNum : u.runNum = s.runNum
  step : ∀ c, c < 64 → u.reg (Fld.lrnStep.key c 0) = s.reg (Fld.lrnStep.key c 0)
  runs : ∃ f : Run → Run, (∀ x : Run, x.Beside (f x)) ∧ u.runs = s.runs.map f

namespace KeepsWork

variable {s t u : State}

theorem of_same (he : u.entries = s.entries) (ht : u.tasks = s.tasks) (hn : u.runNum = s.runNum) (hr : u.runs = s.runs)
    (hreg : ∀ c, c < 64 → u.reg (Fld.lrnStep.key c 0) = s.reg (Fld.lrnStep.key c 0)) : KeepsWork s u :=
  ⟨he, ht, hn, hreg, id, fun _ => rfl, by rw [hr, List.map_id]⟩

theorem trans (h : KeepsWork s t) (g : KeepsWork t u) : KeepsWork s u := by
  obtain ⟨f, hf, hruns⟩ := h.runs
  obtain ⟨f', hf', hruns'⟩ := g.runs
  exact ⟨g.entries.trans h.entries, g.tasks.trans h.tasks, g.runNum.trans h.runNum, fun c hc => (g.step c hc).trans (h.step c hc), f' ∘ f, fun x => (hf x).trans (hf' (f x)), by
    rw [hruns', hruns, List.map_map]⟩

end KeepsWork

/-- The same, with no collective that was not there: each has the number, the context and the owner of one before. -/
structure Receives (s u : State) : Prop extends KeepsWork s u where
  colls : ∀ k ∈ u.colls, ∃ k' ∈ s.colls, k.num = k'.num ∧ k.ctx = k'.ctx ∧ k.owner = k'.owner

/-- A collective of the receive of a run, in a context there is. -/
structure Coll.OfReceive (k : Coll) : Prop where
  ctx : k.ctx < 64
  owner : ∃ r f i, k.owner = .recv r f i

namespace Receives

variable {s t u : State}

/-- What writes neither records, tasks, runs, collectives nor registers. -/
theorem of_same (he : u.entries = s.entries) (ht : u.tasks = s.tasks) (hn : u.runNum = s.runNum) (hr : u.runs = s.runs) (hc : u.colls = s.colls)
    (hreg : ∀ c, c < 64 → u.reg (Fld.lrnStep.key c 0) = s.reg (Fld.lrnStep.key c 0)) : Receives s u :=
  ⟨.of_same he ht hn hr hreg, fun k hk => ⟨k, hc ▸ hk, rfl, rfl, rfl⟩⟩

theorem refl (s : State) : Receives s s := of_same rfl rfl rfl rfl rfl fun _ _ => rfl

theorem trans (h : Receives s t) (g : Receives t u) : Receives s u := by
  refine ⟨h.toKeepsWork.trans g.toKeepsWork, fun k hk => ?_⟩
  obtain ⟨k', hk', hn, hc, ho⟩ := g.colls k hk
  obtain ⟨k'', hk'', hn', hc', ho'⟩ := h.colls k' hk'
  exact ⟨k'', hk'', hn.trans hn', hc.trans hc', ho.trans ho'⟩

theorem ite {p : Prop} [Decidable p] (ht : Receives s t) (hu : Receives s u) : Receives s (if p then t else u) := by split <;> assumption

theorem foldl {α : Type} {f : State → α → State} (hf : ∀ t a, Receives t (f t a)) (l : List α) (s : State) : Receives s (l.foldl f s) :=
  List.foldlRecOn l f (refl s) fun t ht a _ => ht.trans (hf t a)

/-! ### Registers, HBM and translation faults -/

theorem setFld (s : State) {f : Fld} (v i n : Nat) (h : f.off < 2 ^ 12 ∧ Fld.lrnStep.off ≠ f.off) : Receives s (s.setFld f v i n) :=
  of_same rfl rfl rfl rfl rfl fun _ _ => s.reg_setFld_of_off _ _ _ h.1 (by rw [Fld.key_mod _ _ _ (by decide)]; exact h.2)

/-- A field of another class's page may change. -/
theorem setFld_cls (s : State) {f : Fld} (v : Nat) {i : Nat} (hi : i < 64) (h : (f.cls < 64 ∧ f.off < 2 ^ 12) ∧ Fld.lrnStep.cls ≠ f.cls) : Receives s (s.setFld f v i) :=
  of_same rfl rfl rfl rfl rfl fun c hc => s.reg_setFld_ne _ _ _ _ _ fun hk =>
    h.2 (rkey_inj (by decide) (by omega) (by decide) h.1.1 (by omega) h.1.2 hk).1

theorem bump (s : State) {f : Fld} (i n m : Nat) (h : f.off < 2 ^ 12 ∧ Fld.lrnStep.off ≠ f.off) : Receives s (s.bump f i n m) := setFld s _ i m h

theorem raise (s : State) (cls inst n : Nat) : Receives s (s.raise cls inst n) := by
  have hreg : ∀ c, c < 64 → (s.raise cls inst n).reg (Fld.lrnStep.key c 0) = s.reg (Fld.lrnStep.key c 0) := fun c _ => by
    have hoff : Fld.lrnStep.key c 0 % 2 ^ 12 = Fld.lrnStep.off := Fld.key_mod _ _ _ (by decide)
    exact s.reg_raise_ne _ _ _ _ (by rw [hoff]; decide) (by rw [hoff]; decide) (by rw [hoff]; decide)
  exact of_same (by rw [State.raise_only]) (by rw [State.raise_only]) (by rw [State.raise_only]) (by rw [State.raise_only]) (by rw [State.raise_only]) hreg

theorem hbmWrite (s : State) (w : Option Nat) (k : Nat) (bs : List (BitVec 8)) : Receives s (s.hbmWrite w k bs) := by
  have hreg : ∀ c, c < 64 → (s.hbmWrite w k bs).reg (Fld.lrnStep.key c 0) = s.reg (Fld.lrnStep.key c 0) := fun c _ =>
    s.reg_hbmWrite w k bs (by rw [Fld.key_mod _ _ _ (by decide)]; decide)
  exact of_same (by rw [State.hbmWrite_only]) (by rw [State.hbmWrite_only]) (by rw [State.hbmWrite_only]) (by rw [State.hbmWrite_only]) (by rw [State.hbmWrite_only]) hreg

theorem noteFault (s : State) {ctx : Nat} (hctx : ctx < 64) (cause agent isl dva : Nat) : Receives s (s.noteFault ctx cause agent isl dva) := by
  unfold State.noteFault
  have hset : ∀ (t : State) {f : Fld} (v : Nat), (f.cls < 64 ∧ f.off < 2 ^ 12) ∧ Fld.lrnStep.cls ≠ f.cls → Receives t (t.setFld f v ctx) := fun t _ v h => setFld_cls t v hctx h
  refine (hset s _ (by decide)).trans (trans (ite (refl _) ?_) (raise _ _ _ _))
  exact (((((hset _ _ (by decide)).trans (hset _ _ (by decide))).trans (hset _ _ (by decide))).trans (hset _ _ (by decide))).trans (hset _ _ (by decide))).trans (hset _ _ (by decide))

theorem notePoison (s : State) (k : Nat) : Receives s (s.notePoison k) := bump s _ _ _ (by decide)

theorem markSuspect (s : State) (ctx : Nat) (x : Shard) (v : Bool) : Receives s (s.markSuspect ctx x v) :=
  foldl (fun t a => by
    unfold State.editPte
    split
    · exact refl t
    · exact hbmWrite t _ _ _) _ s

theorem setWgt (s : State) (ctx : Nat) (w : WgtCtx) : Receives s (s.setWgt ctx w) := of_same rfl rfl rfl rfl rfl fun _ _ => rfl

theorem invalidShard (s : State) (ctx : Nat) (a : ShardAt) (x : Shard) : Receives s (s.invalidShard ctx a x) := by
  unfold State.invalidShard
  refine (((setWgt s ctx _).trans (bump _ ctx 1 0 (by decide))).trans (ite (refl _) ?_)).trans ((markSuspect _ ctx x true).trans (raise _ _ _ _))
  exact ((setFld _ _ ctx 0 (by decide)).trans (setFld _ _ ctx 0 (by decide))).trans (setFld _ _ ctx 0 (by decide))

theorem poisonEnd (s : State) (ctx dva k : Nat) : Receives s (s.poisonEnd ctx dva k).1 := by
  unfold State.poisonEnd
  dsimp only
  split
  · exact ite (notePoison s k) ((notePoison s k).trans (invalidShard _ ctx _ _))
  · exact notePoison s k

theorem faultEnd (s : State) {ctx : Nat} (hctx : ctx < 64) (cause agent isl dva : Nat) : Receives s (s.faultEnd ctx cause agent isl dva).1 := by
  have hnoted : Receives s (if cause = 8 then s else s.noteFault ctx cause agent isl dva) := ite (refl s) (noteFault s hctx _ _ _ _)
  unfold State.faultEnd
  dsimp only
  generalize (if cause = 8 then s else s.noteFault ctx cause agent isl dva) = s1 at hnoted ⊢
  split
  · exact hnoted
  · split
    · exact hnoted.trans (notePoison s1 _)
    · split <;> exact hnoted

/-! ### How a collective of a receive ends (R312, R326) -/

theorem modEng (s : State) (i : Nat) (f : Engine → Engine) : Receives s (s.modEng i f) := of_same rfl rfl rfl rfl rfl fun _ _ => rfl

theorem account (s : State) (c i n : Nat) (f : Acct → Acct) : Receives s (s.account c i n f) := by
  rw [State.account_only]
  exact of_same rfl rfl rfl rfl rfl fun _ _ => rfl

/-- Collectives may leave. -/
theorem dropColl (s : State) (k : Coll) : Receives s (s.dropColl k) :=
  ⟨.of_same rfl rfl rfl rfl fun _ _ => rfl, fun x hx => ⟨x, (List.mem_filter.1 hx).1, rfl, rfl, rfl⟩⟩

theorem modColl (s : State) (n : Nat) {f : Coll → Coll} (hf : ∀ x, (f x).num = x.num ∧ (f x).ctx = x.ctx ∧ (f x).owner = x.owner) : Receives s (s.modColl n f) := by
  refine ⟨.of_same rfl rfl rfl rfl fun _ _ => rfl, fun x hx => ?_⟩
  obtain ⟨y, hy, rfl⟩ := List.mem_map.1 hx
  refine ⟨y, hy, ?_⟩
  split
  · exact hf y
  · exact ⟨rfl, rfl, rfl⟩

/-- The runs changed by a function that changes no more than their receives and failure. -/
theorem mapRuns (s : State) {f : Run → Run} (hf : ∀ x : Run, x.Beside (f x)) : Receives s { s with runs := s.runs.map f } :=
  ⟨⟨rfl, rfl, rfl, fun _ _ => rfl, f, hf, rfl⟩, fun k hk => ⟨k, hk, rfl, rfl, rfl⟩⟩

theorem modRun (s : State) (n : Nat) {f : Run → Run} (hf : ∀ x : Run, x.Beside (f x)) : Receives s (s.modRun n f) :=
  mapRuns s fun x => by
    split
    · exact hf x
    · rfl

variable {k : Coll}

theorem endColl (s : State) (hk : k.OfReceive) (status detail : Nat) : Receives s (s.endColl k status detail) := by
  obtain ⟨r, f, i, howner⟩ := hk.owner
  unfold State.endColl
  dsimp only
  rw [howner]
  refine ((dropColl s k).trans (account _ _ _ _ _)).trans (mapRuns _ fun x => ?_)
  split
  · split <;> rfl
  · rfl

theorem abortHere (s : State) (hk : k.OfReceive) (cause fab : Nat) : Receives s (s.abortHere k cause fab) :=
  (foldl (fun t i => (bump t i 1 0 (by decide)).trans (raise _ _ i 1)) _ s).trans (endColl _ hk _ _)

theorem abortColl (s : State) (hk : k.OfReceive) (cause : Nat) : Receives s (s.abortColl k cause) :=
  (foldl (fun t _ => modEng t _ _) _ s).trans (abortHere _ hk _ _)

theorem faultColl (s : State) (hk : k.OfReceive) (cause dva : Nat) : Receives s (s.faultColl k cause dva) := by
  have hend := faultEnd s hk.ctx cause 2 (engineFor k.mask 0) dva
  unfold State.faultColl
  exact ite (hend.trans (abortColl _ hk _)) (ite (hend.trans (endColl _ hk _ _)) (hend.trans (endColl _ hk _ _)))

theorem poisonColl (s : State) (hk : k.OfReceive) (dva key : Nat) : Receives s (s.poisonColl k dva key) := (poisonEnd s _ _ _).trans (abortColl _ hk _)

/-! ### The chunks of this module's own range (R312, R320, R323) -/

theorem collRead_ended (hk : k.OfReceive) {dva n : Nat} (h : s.collRead k dva n = .ended t) : Receives s t := by
  unfold State.collRead at h
  split at h
  case h_1 => exact absurd h NodeRes.noConfusion
  case h_2 =>
    obtain rfl := NodeRes.ended.inj h
    exact faultColl s hk _ _
  case h_3 =>
    obtain rfl := NodeRes.ended.inj h
    exact poisonColl s hk _ _
  case h_4 => exact absurd h NodeRes.noConfusion

/-- The value of a node ends the collective only by a read of the member's own memory. -/
theorem nodeVal_ended (hk : k.OfReceive) {c o : Nat} (log : Nat) : ∀ {lo : Nat} {t : State}, s.nodeVal k c o lo log = .ended t → Receives s t := by
  induction log with
  | zero =>
    intro lo t h
    unfold State.nodeVal at h
    split at h
    case h_1 => exact absurd h NodeRes.noConfusion
    case h_2 =>
      split at h
      case h_1 =>
        split at h
        · exact absurd h NodeRes.noConfusion
        · exact collRead_ended hk h
      case h_2 => split at h <;> exact absurd h NodeRes.noConfusion
  | succ n ih =>
    intro lo t h
    unfold State.nodeVal at h
    dsimp only at h
    split at h
    case h_1 => exact absurd h NodeRes.noConfusion
    case h_2 =>
      split at h
      case h_1 =>
        split at h
        · exact absurd h NodeRes.noConfusion
        · exact collRead_ended hk h
      case h_2 =>
        split at h
        · exact absurd h NodeRes.noConfusion
        · split at h
          case h_1 => exact absurd h NodeRes.noConfusion
          case h_2 hleft => exact NodeRes.ended.inj h ▸ ih hleft
          case h_3 =>
            split at h
            · exact absurd h NodeRes.noConfusion
            · split at h
              case h_1 => exact absurd h NodeRes.noConfusion
              case h_2 hright => exact NodeRes.ended.inj h ▸ ih hright
              case h_3 => exact absurd h NodeRes.noConfusion

theorem txVal_ended (hk : k.OfReceive) {x : Tx} (h : s.txVal k x = .ended t) : Receives s t := by
  unfold State.txVal at h
  dsimp only at h
  split at h
  case h_1 => exact absurd h NodeRes.noConfusion
  case h_2 =>
    split at h
    · exact nodeVal_ended hk _ h
    · split at h
      case h_1 => exact absurd h NodeRes.noConfusion
      case h_2 =>
        split at h
        · exact absurd h NodeRes.noConfusion
        · split at h <;> exact collRead_ended hk h

theorem notify (s : State) (k : Coll) (i : Nat) : Receives s (s.notify k i) := by
  unfold State.notify
  split <;> exact of_same rfl rfl rfl rfl rfl fun _ _ => rfl

theorem emit (s : State) (x : Emit) : Receives s (s.emit x) := of_same rfl rfl rfl rfl rfl fun _ _ => rfl

theorem devWrite (s : State) {ctx : Nat} (hctx : ctx < 64) (dva : Nat) (bs : List (BitVec 8)) : Receives s (s.devWrite ctx dva bs) := by
  unfold State.devWrite
  split
  case h_1 => exact noteFault s hctx _ _ _ _
  case h_2 ps _ =>
    refine List.foldlRecOn (motive := fun a : State × List (BitVec 8) => Receives s a.1) ps _ (refl s) fun a ha p _ => ?_
    split
    · exact ha.trans (hbmWrite _ _ _ _)
    · exact ha.trans (emit _ _)
    · exact ha

/-- A chunk landed, or the collective ended by a fault of its destination. -/
theorem land (s : State) (hk : k.OfReceive) (isl chunk off : Nat) (bs : List (BitVec 8)) :
    Receives s (match s.land k isl chunk off bs with | .ok t => t | .error t => t) := by
  have hdone : ∀ t : State, Receives t ((t.modColl k.num fun x => { x with landed := x.landed ++ [chunk] }).notify k isl) := fun t =>
    (modColl t k.num (f := fun x => { x with landed := x.landed ++ [chunk] }) fun _ => ⟨rfl, rfl, rfl⟩).trans (notify _ _ _)
  unfold State.land
  dsimp only
  by_cases hls : k.dstLs = true
  · rw [if_pos hls]
    exact (of_same rfl rfl rfl rfl rfl fun _ _ => rfl : Receives s (s.setCay ⟨isl, k.dstCay⟩ _)).trans (hdone _)
  · rw [if_neg hls]
    cases s.pieces k.ctx (k.dst + off) bs.length true false true true with
    | error e => exact faultColl s hk _ _
    | ok ps => exact (devWrite s hk.ctx _ _).trans (hdone _)

theorem countSats (s : State) (i c n : Nat) : Receives s (s.countSats i c n) := ite (refl s) ((bump s i n 0 (by decide)).trans (bump _ c n 0 (by decide)))

/-- A chunk of the module's own range, of a collective whose number is a receive's alone. -/
theorem ownChunk (s : State) {num : Nat} (hnum : ∀ k ∈ s.colls, k.num = num → k.OfReceive) (c : Nat) : Receives s (s.ownChunk num c) := by
  unfold State.ownChunk
  split
  case h_1 => exact refl s
  case h_2 k hfind =>
    have hk : k.OfReceive := hnum k (List.mem_of_find?_eq_some hfind) (by simpa using List.find?_some hfind)
    split
    case h_1 => exact refl s
    case h_2 o _ =>
      refine ite (refl s) ?_
      dsimp only
      split
      case isTrue =>
        refine ite (refl s) ?_
        split
        case h_1 => exact refl s
        case h_2 h => exact nodeVal_ended hk _ h
        case h_3 bs n _ =>
          have hkept : Receives s ((s.countSats (engineFor k.mask c) k.ctx n).modColl num fun x =>
              { x with vals := x.vals.filter (fun v => v.chunk != c) ++ (if k.op = 2 then [] else [⟨c, 0, k.top, bs⟩]) }) :=
            (countSats s _ _ _).trans (modColl _ _ fun _ => ⟨rfl, rfl, rfl⟩)
          exact ite hkept (hkept.trans (land _ hk _ _ _ _))
      case isFalse =>
        split
        case h_1 => exact refl s
        case h_2 h => exact txVal_ended hk h
        case h_3 => exact land s hk _ _ _ _

theorem ownChunks (num : Nat) (l : List Nat) : ∀ (s : State), (∀ k ∈ s.colls, k.num = num → k.OfReceive) → Receives s (l.foldl (fun t c => t.ownChunk num c) s) := by
  induction l with
  | nil => exact fun s _ => refl s
  | cons c l ih =>
    intro s hnum
    have hfirst := ownChunk s hnum c
    refine hfirst.trans (ih _ fun k hk hn => ?_)
    obtain ⟨k', hk', hn', hc', ho'⟩ := hfirst.colls k hk
    obtain ⟨hctx, howner⟩ := hnum k' hk' (hn'.symm.trans hn)
    exact ⟨hc' ▸ hctx, ho' ▸ howner⟩

/-! ### Opening (R309, R310, R314, R325) -/

theorem control (s : State) (i : Nat) (m : Msg) : Receives s (s.control i m) := modEng s i _

theorem took (s : State) : Receives s s.took := of_same rfl rfl rfl rfl rfl fun _ _ => rfl

theorem grantAll (s : State) (k : Coll) (i : Option Nat) : Receives s (s.grantAll k i) := by
  unfold State.grantAll
  dsimp only
  refine (foldl (fun t x => ?_) _ s).trans (modColl _ _ fun _ => ⟨rfl, rfl, rfl⟩)
  split
  · exact (took t).trans (control _ _ _)
  · exact control t _ _

/-- A collective placed under a number that no other has. -/
theorem place? (s : State) (hk : k.OfReceive) (hnew : ∀ x ∈ s.colls, x.num ≠ k.num) (clr : Bool) : KeepsWork s (s.place? k clr) := by
  unfold State.place?
  extract_lets p rx early k1 on s1 s2 s3
  have hlisted : KeepsWork s { s with colls := s.colls ++ [k1], collNum := s.collNum + 1 } := .of_same rfl rfl rfl rfl fun _ _ => rfl
  have h1 : Receives { s with colls := s.colls ++ [k1], collNum := s.collNum + 1 } s1 := foldl (fun t i => modEng t i _) on _
  have h2 : Receives s1 s2 := by
    unfold s2
    split
    · refine foldl (fun t i => ?_) on s1
      exact of_same rfl rfl rfl rfl rfl fun _ _ => rfl
    · exact refl s1
  have h3 : Receives { s with colls := s.colls ++ [k1], collNum := s.collNum + 1 } s3 := (h1.trans h2).trans ((account s2 _ _ _ _).trans (grantAll _ _ _))
  have hnum : ∀ x ∈ s3.colls, x.num = k.num → x.OfReceive := fun x hx hn => by
    obtain ⟨y, hy, hn', hc, ho⟩ := h3.colls x hx
    obtain hold | hnew' := List.mem_append.1 hy
    · exact absurd (hn'.symm.trans hn) (hnew y hold)
    · obtain rfl := List.mem_singleton.1 hnew'
      exact ⟨hc ▸ hk.ctx, ho ▸ hk.owner⟩
  exact hlisted.trans (h3.toKeepsWork.trans (ownChunks k.num _ s3 hnum).toKeepsWork)

end Receives

/-- What opening a collective answers, where it leaves records, tasks and runs. -/
def OpenRes.Keeps (s : State) : OpenRes → Prop
  | .ok t => KeepsWork s t
  | .refuse t _ _ => KeepsWork s t
  | .full => True

theorem State.openColl_keeps (s : State) {k : Coll} (hk : k.OfReceive) (hnew : ∀ x ∈ s.colls, x.num ≠ k.num) (group : Nat) (clr : Bool) :
    (s.openColl k group clr).Keeps s := by
  unfold State.openColl
  extract_lets fits bad unit
  have hfits : ∀ x : Coll, x.num = k.num → x.ctx = k.ctx → x.owner = k.owner → (fits x).Keeps s := fun x hn hc ho => by
    unfold fits
    obtain ⟨r, f, i, howner⟩ := hk.owner
    have hx : x.OfReceive := ⟨hc ▸ hk.ctx, ho ▸ hk.owner⟩
    dsimp only
    rw [howner]
    split
    case h_1 => trivial
    case h_2 =>
      split
      case h_1 => trivial
      case h_2 =>
        split
        case h_1 => exact (Receives.refl s).toKeepsWork
        case h_2 => exact Receives.place? s hx (fun y hy => hn ▸ hnew y hy) clr
  have hbad : ∀ r, (bad r).Keeps s := fun r => by
    unfold bad
    cases r with
    | fault c a => exact (Receives.faultEnd s hk.ctx _ _ _ _).toKeepsWork
    | poison a key => exact (Receives.poisonEnd s _ _ _).toKeepsWork
    | wait _ => exact (Receives.refl s).toKeepsWork
    | ok _ => exact (Receives.refl s).toKeepsWork
  split
  case isTrue => exact hfits _ rfl rfl rfl
  case isFalse =>
    split
    case h_1 =>
      split
      case isTrue => exact (Receives.refl s).toKeepsWork
      case isFalse =>
        split
        case h_1 =>
          split
          case h_1 => exact (Receives.refl s).toKeepsWork
          case h_2 => exact hfits _ rfl rfl rfl
        case h_2 => exact hbad _
    case h_2 => exact hbad _

/-- No collective has the number that the next one takes. -/
def FreshNumber (s : State) : Prop := ∀ k ∈ s.colls, k.num ≠ s.collNum

/-- The receive of a unit opens under a new number. -/
theorem State.openReceive_keeps {s : State} (hnew : FreshNumber s) {r : Run} (hctx : r.ctx < 64) (i : Nat) : KeepsWork s (s.openReceive r i) := by
  have hsame : KeepsWork s s := (Receives.refl s).toKeepsWork
  unfold State.openReceive
  split
  case h_1 => exact hsame
  case h_2 w _ =>
    split
    case isTrue => exact hsame
    case isFalse =>
      extract_lets b k0 k
      have hk : k.OfReceive := ⟨hctx, _, _, _, rfl⟩
      have hkeeps := s.openColl_keeps hk hnew 0 (bit (leAt b 0 4) 12)
      split
      case h_1 h =>
        rw [h] at hkeeps
        exact KeepsWork.trans hkeeps (Receives.modRun _ _ (f := fun x => { x with opened := x.opened ++ [w] }) fun _ => rfl).toKeepsWork
      case h_2 st d h =>
        rw [h] at hkeeps
        exact KeepsWork.trans hkeeps (Receives.modRun _ _ (f := fun x => { x with fail := x.fail.or (some (st, d)) }) fun _ => rfl).toKeepsWork
      case h_3 => exact hsame

/-! ### Starts (R276 to R279, R284) -/

theorem KeepsWork.findRun {s u : State} {k : Nat} {r : Run} (h : KeepsWork s u) (hr : s.findRun k = some r) : ∃ r', u.findRun k = some r' ∧ r.Beside r' := by
  obtain ⟨f, hf, hruns⟩ := h.runs
  refine ⟨f r, ?_, hf r⟩
  rw [State.findRun_map (fun x => by rw [hf x]) hruns, hr, Option.map_some]

theorem stageUnitStart_starts {s : State} {k : Nat} {r : Run} {w : Bool × Nat} (hnew : FreshNumber s) (hctx : r.ctx < 64) (hrun : s.findRun k = some r)
    (horder : r.order[r.unit]? = some w) (hfail : r.fail = none) (hstarted : r.started = false) (hrecvd : r.receives w = true → w ∈ r.recvd) :
    ∃ u r', exec (.stageUnitStart k) s = .next u ∧ u.findRun k = some r' ∧ r'.started = true ∧ r'.idx = 0 ∧ r'.unit = r.unit ∧ r'.task = r.task ∧ r'.halves = r.halves ∧
      u.tasks = s.tasks := by
  have hmay : ¬ (r.receives w = true ∧ (!r.recvd.contains w) = true) := fun h => by simp [hrecvd h.1] at h
  have hexec : exec (.stageUnitStart k) s = .next ((s.modRun k fun x => { x with started := true, idx := 0 }).openReceive r (r.unit + 1)) := by
    rw [exec_stageUnitStart, execStageUnitStart]
    simp only [hrun, horder, hfail, hstarted, hmay, Bool.false_eq_true, if_false]
  have hstart := State.findRun_modRun (f := fun x => { x with started := true, idx := 0 }) (fun _ => rfl) hrun
  have hkeeps := State.openReceive_keeps (s := s.modRun k fun x => { x with started := true, idx := 0 }) hnew hctx (r.unit + 1)
  obtain ⟨r', hr', hbeside⟩ := hkeeps.findRun hstart
  exact ⟨_, r', hexec, hr', by rw [hbeside], by rw [hbeside], by rw [hbeside], by rw [hbeside], by rw [hbeside], hkeeps.tasks⟩

/-- A stage run that passes its checks, as a run at its first unit (R276 to R279, R304, R307). -/
def State.newRun (s : State) (e : Entry) (p : SProg) : Run :=
  { num := s.runNum, ctx := e.ctx, stream := e.stream, seq := e.seq, islands := bits (e.u 0x30 4) 23 0, step := e.u 0x34 4, tgroup := e.u 0x40 2, m := bits (e.u 0x44 4) 11 0 + 1, prog := p,
    force := s.fld .qntCtlForce e.ctx, limits := s.quantLimits e.ctx, unit := 0, started := false, idx := 0, task := none, unitId := s.runNum * 2 ^ 32, wide := false, admitted := false,
    checked := false, halves := [], fell := [], handed := [], hold := [], opened := [], recvd := [], fail := none, class_ := s.recClass e }

/-- The state in which a stage run's record has begun, before its first receive opens. -/
def State.withNewRun (s : State) (e : Entry) (p : SProg) : State :=
  { ((s.dropReads (.op 14 ((e.ctx * 16 + e.stream) * 2 ^ 64 + e.seq))).begin e).setFld .lrnStep (e.u 0x34 4) e.ctx with runs := s.runs ++ [s.newRun e p], runNum := s.runNum + 1 }

theorem State.withNewRun_colls (s : State) (e : Entry) (p : SProg) : (s.withNewRun e p).colls = s.colls := rfl

theorem State.withNewRun_collNum (s : State) (e : Entry) (p : SProg) : (s.withNewRun e p).collNum = s.collNum := rfl

theorem State.withNewRun_runs (s : State) (e : Entry) (p : SProg) : (s.withNewRun e p).runs = s.runs ++ [s.newRun e p] := rfl

theorem State.withNewRun_runNum (s : State) (e : Entry) (p : SProg) : (s.withNewRun e p).runNum = s.runNum + 1 := rfl

theorem State.withNewRun_entry {s : State} {e : Entry} {c q n : Nat} (he : s.entry c q n = some e) (p : SProg) : (s.withNewRun e p).entry c q n = some { e with begun := true } :=
  State.entry_begin he

theorem State.withNewRun_regs (s : State) (e : Entry) (p : SProg) :
    (s.withNewRun e p).regs = (((s.dropReads (.op 14 ((e.ctx * 16 + e.stream) * 2 ^ 64 + e.seq))).begin e).setFld .lrnStep (e.u 0x34 4) e.ctx).regs := rfl

theorem State.withNewRun_step (s : State) (e : Entry) (p : SProg) : (s.withNewRun e p).fld .lrnStep e.ctx = e.u 0x34 4 := by
  have hlt : e.u 0x34 4 < 2 ^ (Fld.lrnStep.hi + 1 - Fld.lrnStep.lo) := (leAt_lt e.raw 0x34 4).trans_eq (by decide)
  rw [State.fld_congr (s.withNewRun_regs e p), State.fld_setFld_of_lt _ _ (by decide) hlt]

theorem FreshNumber.withNewRun {s : State} (h : FreshNumber s) (e : Entry) (p : SProg) : FreshNumber (s.withNewRun e p) := by
  unfold FreshNumber
  rwa [State.withNewRun_colls, State.withNewRun_collNum]

theorem State.stageOp_starts {s : State} {e : Entry} {g : TGroup} {p : SProg} (hg : s.tgroup e.ctx (e.u 0x40 2) = some g) (hturn : s.turn = none) (hlater : g.sealed < e.u 0x34 4)
    (hdecided : g.decided (e.u 0x34 4 - 1) = true)
    (hfree : (s.runs.any (fun r => r.ctx == e.ctx && r.tgroup == e.u 0x40 2 && r.step == e.u 0x34 4 && (r.islands &&& bits (e.u 0x30 4) 23 0) != 0)) = false)
    (hread : s.readStage e = .ok p) : s.stageOp e = (s.withNewRun e p).openReceive (s.newRun e p) 0 := by
  unfold State.stageOp
  extract_lets tg step isl turned s1
  have hturned : turned = none := by simp only [turned, hturn, Option.filter_none]
  rw [hg]
  dsimp only
  rw [hturned]
  dsimp only
  rw [if_neg (not_le.2 hlater), hdecided, Bool.not_true, if_neg Bool.false_ne_true, hfree, if_neg Bool.false_ne_true, hread]
  rfl

theorem stageRun_starts {s : State} {c q n : Nat} {e : Entry} {g : TGroup} {p : SProg} (hnew : FreshNumber s) (hc : c < 64) (he : s.entry c q n = some e) (hr : e.ripe 7 = true) (hop : e.op = 1)
    (hg : s.tgroup c (e.u 0x40 2) = some g) (hturn : s.turn = none) (hlater : g.sealed < e.u 0x34 4) (hdecided : g.decided (e.u 0x34 4 - 1) = true)
    (hfree : (s.runs.any (fun r => r.ctx == c && r.tgroup == e.u 0x40 2 && r.step == e.u 0x34 4 && (r.islands &&& bits (e.u 0x30 4) 23 0) != 0)) = false)
    (hread : s.readStage e = .ok p) :
    ∃ u r, exec (.stageRun c q n) s = .next u ∧ r ∈ u.runs ∧ r.num = s.runNum ∧ u.runNum = s.runNum + 1 ∧ r.ctx = c ∧ r.stream = q ∧ r.seq = n ∧ r.step = e.u 0x34 4 ∧ r.tgroup = e.u 0x40 2 ∧
      r.islands = bits (e.u 0x30 4) 23 0 ∧ r.m = bits (e.u 0x44 4) 11 0 + 1 ∧ r.prog = p ∧ r.unit = 0 ∧ r.started = false ∧ r.task = none ∧ r.halves = [] ∧ u.fld .lrnStep c = e.u 0x34 4 ∧
      u.entry c q n = some { e with begun := true } := by
  have hexec : exec (.stageRun c q n) s = .next (s.stageOp e) := (exec_stageRun c q n s).trans (State.withOp_ripe he hr hop s.stageOp)
  have hbegin := State.withNewRun_entry he p
  obtain ⟨rfl, rfl, rfl⟩ := State.entry_named he
  have hstage := State.stageOp_starts hg hturn hlater hdecided hfree hread
  have hkeeps := State.openReceive_keeps (hnew.withNewRun e p) (r := s.newRun e p) hc 0
  obtain ⟨f, hf, hruns⟩ := hkeeps.runs
  have hmem : f (s.newRun e p) ∈ ((s.withNewRun e p).openReceive (s.newRun e p) 0).runs := by
    rw [hruns, State.withNewRun_runs]
    exact List.mem_map_of_mem (List.mem_append_right _ (List.mem_singleton_self _))
  have hstep : ((s.withNewRun e p).openReceive (s.newRun e p) 0).fld .lrnStep e.ctx = e.u 0x34 4 := by
    rw [State.fld, hkeeps.step _ hc, ← State.fld, State.withNewRun_step]
  rw [hf] at hmem
  exact ⟨_, _, hexec.trans (congrArg _ hstage), hmem, rfl, hkeeps.runNum.trans (s.withNewRun_runNum e p), rfl, rfl, rfl, rfl, rfl, rfl, rfl, rfl, rfl, rfl, rfl, rfl, hstep,
    (State.entry_congr hkeeps.entries _ _ _).trans hbegin⟩

end Sys2Proof.Machine
end

section
/-! PROOFS. Stage runs and learning records of a state in which a collective already has the number that the next one to open takes (R276, R284, R310). -/
namespace Sys2Proof.Machine

/-! ### A number held twice -/

/-- The template of a collective that moves one chunk of 64 bytes, by its first word (R311). -/
def chunkTemplate (w : Nat) : List (BitVec 8) := leBytes 4 w ++ leBytes 0x24 (12 * 2 ^ 24) ++ leBytes 0x28 16

/-- The template of a receive of posted chunks, into the local store of cay 0. -/
def receiveTemplate : List (BitVec 8) := chunkTemplate (5 * 2 ^ 24 + 9 * 2 ^ 18 + 2 ^ 11)

/-- A broadcast of record 1 of stream 1 of context 0, number 0, whose one member is a module with the fabric identifier of reset. Its source is mapped nowhere. -/
def firstBroadcast : Coll := { collOf (chunkTemplate (4 * 2 ^ 24 + 9 * 2 ^ 18)) 0 0 (.record 1 1) with desc := ⟨1, [⟨0x3FFF, 0, 0, 0, 0, 1, 0, 16⟩]⟩ }

/-! ### A record ended by another's receive -/

/-- HBM by its 64-bit words, those at other addresses zero. -/
def wordsAt (ws : List (Nat × Nat)) : Memory := ws.flatMap fun w => ((leBytes 8 w.2).zipIdx.filter fun b => b.1 != 0).map fun b => (w.1 + b.2, b.1)

/-- A translation of the first 2 MiB to themselves, the program of the last of two stages at 0x3000 with one forward entry, and the receive's template at 0x5000. -/
def lastStageMemory : Memory :=
  wordsAt [(0, 2 ^ 63 + 0x1000), (0x1000, 2 ^ 63 + 0x2000), (0x2000, 2 ^ 63 + 2 ^ 61), (0x3000, 0x0201_0001_4C52_4E50), (0x3008, 0x10001), (0x3010, 0x4000), (0x3018, 0x4000), (0x3020, 0x4000),
    (0x3028, 0x5000), (0x5000, 12 * 2 ^ 56 + 5 * 2 ^ 24 + 9 * 2 ^ 18 + 2 ^ 11), (0x5028, 16)]

/-- A started stage run of step 1 of group 0 on island 0. -/
def stageRecord : Entry :=
  { mkEntry 0 1 (leBytes 8 1 ++ leBytes 0x28 (7 * 2 ^ 24) ++ leBytes 4 (2 ^ 24 + 1) ++ leBytes 4 1 ++ leBytes 8 0x3000) 0 0 [] with st := .started }

/-- A module with that record, and the broadcast under the number that the receive of its first unit takes. -/
def stageClash : State :=
  { State.reset with
    hbm := lastStageMemory, roles := [(0, 2)], tgs := [⟨0, 0, 0, [], 0, 0, 0, 0, 0, none, none, [], []⟩], entries := [stageRecord], colls := [firstBroadcast] }

def ProgRead.isOk : ProgRead → Bool
  | .ok _ => true
  | _ => false

theorem ProgRead.exists_of_isOk {r : ProgRead} (h : r.isOk = true) : ∃ p, r = .ok p := by
  cases r with
  | ok p => exact ⟨p, rfl⟩
  | wait _ => exact absurd h Bool.false_ne_true
  | fail _ _ _ => exact absurd h Bool.false_ne_true

theorem stageClash_reads : ∃ p, stageClash.readStage stageRecord = .ok p := ProgRead.exists_of_isOk (by decide +kernel)

/-- The receive opens, the broadcast is taken for it, meets a fault at its source and ends its record, which is the stage run. -/
theorem stageClash_run : ∃ u, exec (.stageRun 0 1 1) stageClash = .next u ∧ (u.entry 0 1 1).map (fun e => e.point.isSome) = some true := ⟨_, rfl, by decide +kernel⟩

/-- Refutes O32, in its fifth clause: that the record of a new run has begun and no more fails of a state in which a collective of that record already has the number that the run's first
receive takes; the next number grows at every opening, yet the statement does not exclude such a state. Where the number is fresh the clause holds (stageRun_starts), and the other five hold
of every state (Binds.binds_new, Binds.binds_again, publish_next, publish_refused, seal_starts, seal_sealed, sealAbort_noted, stepOutOfOrder_ends). -/
theorem not_learningRecords : ¬ Obligations.LearningRecords := by
  intro h
  obtain ⟨-, -, -, -, hstage, -⟩ := h
  obtain ⟨p, hp⟩ := stageClash_reads
  obtain ⟨u, -, hexec, -, -, -, -, -, -, -, -, -, -, -, -, -, -, -, -, hentry⟩ :=
    hstage stageClash 0 1 1 stageRecord _ p (by decide) rfl (by decide) (by decide) rfl rfl (by decide) (by decide) rfl hp
  obtain ⟨v, hv, hpoint⟩ := stageClash_run
  obtain rfl : v = u := Host.Outcome.next.inj (hv.symm.trans hexec)
  rw [hentry] at hpoint
  exact absurd hpoint (by decide)

/-! ### A task dropped by another's receive -/

/-- A run of the last of two stages, forward only: its first micro-batch has been received, and the receive of its second opens with the unit of the first. -/
def lastStageRun : Run :=
  { num := 1, ctx := 0, stream := 2, seq := 1, islands := 1, step := 1, tgroup := 0, m := 2, prog := ⟨1, 2, [], [], [], receiveTemplate, []⟩, force := 0, limits := (0, 0), unit := 0,
    started := false, idx := 0, task := none, unitId := 2 ^ 32, wide := false, admitted := false, checked := false, halves := [], fell := [], handed := [], hold := [],
    opened := [(true, 0)], recvd := [(true, 0)], fail := none, class_ := 0 }

/-- A module with that run, and with the broadcast under the number that the receive takes: its record is open and has a task. -/
def unitClash : State :=
  { State.reset with
    runs := [lastStageRun], colls := [firstBroadcast], entries := [{ mkEntry 0 1 (leBytes 8 1) 0 0 [] with st := .started }]
    tasks := [(0, { Task.reset with ctx := 0, stream := 1, seq := 1, origin := .record, st := .ended, applied := true })] }

/-- The receive opens, the broadcast is taken for it, meets a fault at its source, and its record commits and drops its task. -/
theorem unitClash_start : ∃ u, exec (.stageUnitStart 1) unitClash = .next u ∧ u.tasks = [] := ⟨_, rfl, by decide +kernel⟩

/-- Refutes O33, in its first clause: that a unit's start leaves the tasks fails of a state in which a collective of a record already has the number that the receive of the next unit takes;
the next number grows at every opening, yet the statement does not exclude such a state. Where the number is fresh, of a run of one of the 64 contexts, the clause holds
(stageUnitStart_starts), and the other seven hold of every state (stageEntryStart_places, stageEntryStart_goesOn, stageEntryStart_unitDone, stageEntryStart_ends, stageEntryStart_fails,
Checks.passes, Checks.fails, handOff_opens). -/
theorem not_stageRuns : ¬ Obligations.StageRuns := by
  intro h
  obtain ⟨u, -, hexec, -, -, -, -, -, -, htasks⟩ := h.1 unitClash 1 lastStageRun (true, 0) (by decide) (by decide) rfl rfl (by decide)
  obtain ⟨v, hv, hdropped⟩ := unitClash_start
  obtain rfl : v = u := Host.Outcome.next.inj (hv.symm.trans hexec)
  exact absurd (htasks.symm.trans hdropped) (by decide)

end Sys2Proof.Machine
end

section
/-! PROOFS. Engines: messages taken and queued, what a fold of steps that only queue messages leaves, and the engines' other state (R316 to R318, R326, R396). -/
namespace Sys2Proof.Machine

/-! ### Engines and straits by number -/

@[simp] theorem State.eng_modEng (s : State) (i j : Nat) (f : Engine → Engine) : (s.modEng i f).eng j = if j = i then f (s.eng i) else s.eng j := Tbl.get_set _ _ _ _ _

theorem State.eng_modEng_same (s : State) (i : Nat) (f : Engine → Engine) : (s.modEng i f).eng i = f (s.eng i) := by rw [State.eng_modEng, if_pos rfl]

theorem State.eng_congr {s u : State} (h : u.engs = s.engs) (i : Nat) : u.eng i = s.eng i := by rw [State.eng, State.eng, h]

theorem State.str_modStr (s : State) (i j : Nat) (f : Strait → Strait) : (s.modStr i f).str j = if j = i then f (s.str i) else s.str j := Tbl.get_set _ _ _ _ _

theorem State.fabId_congr {s u : State} (h : u.regs = s.regs) : u.fabId = s.fabId := State.fld_congr h _ _ _

/-- A control message is queued last at its engine, its CRC formed. -/
theorem State.eng_control (s : State) (i : Nat) (m : Msg) : (s.control i m).eng i = { s.eng i with outq := (s.eng i).outq ++ [m.sealed] } := s.eng_modEng_same i _

/-! ### Messages taken (R396) -/

/-- Nothing has changed but engines and straits. -/
def OnlyWire (s u : State) : Prop := u = { s with engs := u.engs, strs := u.strs }

theorem OnlyWire.trans {s t u : State} (h : OnlyWire s t) (g : OnlyWire t u) : OnlyWire s u := by
  unfold OnlyWire at *
  conv_lhs => rw [g, h]

theorem OnlyWire.foldl {α : Type} {f : State → α → State} (hf : ∀ t a, OnlyWire t (f t a)) (l : List α) (s : State) : OnlyWire s (l.foldl f s) :=
  List.foldlRecOn (motive := OnlyWire s) l f rfl fun t ht a _ => ht.trans (hf t a)

theorem OnlyWire.colls {s u : State} (h : OnlyWire s u) : u.colls = s.colls := by
  unfold OnlyWire at h
  rw [h]

theorem OnlyWire.freeVia (s : State) (v : Option (Nat × Nat × Nat)) : OnlyWire s (s.freeVia v) := by
  unfold State.freeVia
  split <;> exact rfl

theorem State.engs_freeVia (s : State) (v : Option (Nat × Nat × Nat)) : (s.freeVia v).engs = s.engs := by
  unfold State.freeVia
  split <;> rfl

/-- A message taken is the first at its engine that is wanted; engines and straits are all that changes. -/
theorem State.takeMsg_found {s s1 : State} {isl : Nat} {p : Msg → Bool} {x : InMsg} (h : s.takeMsg isl p = some (x, s1)) :
    (s.eng isl).inbox.find? (fun y => p y.m) = some x ∧ OnlyWire s s1 := by
  unfold State.takeMsg at h
  split at h
  case h_1 => exact absurd h (by simp)
  case h_2 i hi =>
    split at h
    case h_1 => exact absurd h (by simp)
    case h_2 y hy =>
      obtain ⟨rfl, rfl⟩ := Prod.mk.inj (Option.some.inj h)
      obtain ⟨hlt, hp, hfirst⟩ := List.findIdx?_eq_some_iff_getElem.1 hi
      obtain ⟨-, rfl⟩ := List.getElem?_eq_some_iff.1 hy
      exact ⟨List.find?_eq_some_iff_getElem.2 ⟨hp, i, hlt, rfl, fun j hj => by simpa using hfirst j hj⟩, OnlyWire.trans (rfl : OnlyWire s (s.modEng isl _)) (.freeVia _ _)⟩

theorem State.takeMsg_only {s s1 : State} {isl : Nat} {p : Msg → Bool} {x : InMsg} (h : s.takeMsg isl p = some (x, s1)) : OnlyWire s s1 := (State.takeMsg_found h).2

theorem State.takeKind_only {s s1 : State} {isl kind : Nat} {m : Msg} (h : s.takeKind isl kind = some (m, s1)) : OnlyWire s s1 := by
  unfold State.takeKind at h
  obtain ⟨⟨x, t⟩, hx, hm⟩ := Option.map_eq_some_iff.1 h
  obtain ⟨rfl, rfl⟩ := Prod.mk.inj hm
  exact State.takeMsg_only hx

/-! ### Steps that only queue messages -/

/-- An engine as it was, but for messages queued after those it had. -/
def Engine.Spoke (e e' : Engine) : Prop := ∃ ms, e' = { e with outq := e.outq ++ ms }

theorem Engine.Spoke.refl (e : Engine) : e.Spoke e := ⟨[], by rw [List.append_nil]⟩

theorem Engine.Spoke.trans {e e' e'' : Engine} (h : e.Spoke e') (g : e'.Spoke e'') : e.Spoke e'' := by
  obtain ⟨ms, rfl⟩ := h
  obtain ⟨ms', rfl⟩ := g
  exact ⟨ms ++ ms', by rw [List.append_assoc]⟩

/-- Every engine as it was but for messages queued, and the module under the fabric identifier it had. -/
structure Speaks (s u : State) : Prop where
  engs : ∀ i, (s.eng i).Spoke (u.eng i)
  fab : u.fabId = s.fabId

/-- One of a list's steps, each of which relates its states as a preorder does: the state it begins in and the one it leaves stand in that order between the fold's ends. -/
theorem foldl_passes {α σ : Type} {R : σ → σ → Prop} (hrefl : ∀ s, R s s) (htrans : ∀ {s t u}, R s t → R t u → R s u) {f : σ → α → σ} (hf : ∀ t a, R t (f t a)) {l : List α} {a : α}
    (ha : a ∈ l) (s : σ) : ∃ t, R s t ∧ R (f t a) (l.foldl f s) := by
  have hfold : ∀ (l : List α) (s : σ), R s (l.foldl f s) := fun l s => List.foldlRecOn l f (hrefl s) fun t ht a _ => htrans ht (hf t a)
  obtain ⟨before, after, rfl⟩ := List.mem_iff_append.1 ha
  rw [List.foldl_append, List.foldl_cons]
  exact ⟨before.foldl f s, hfold before s, hfold after _⟩

namespace Speaks

variable {s t u : State}

theorem of_same (he : u.engs = s.engs) (hf : u.fabId = s.fabId) : Speaks s u := ⟨fun i => State.eng_congr he i ▸ .refl _, hf⟩

theorem refl (s : State) : Speaks s s := of_same rfl rfl

theorem trans (h : Speaks s t) (g : Speaks t u) : Speaks s u := ⟨fun i => (h.engs i).trans (g.engs i), g.fab.trans h.fab⟩

theorem ite {p : Prop} [Decidable p] (ht : Speaks s t) (hu : Speaks s u) : Speaks s (if p then t else u) := by split <;> assumption

theorem foldl {α : Type} {f : State → α → State} (hf : ∀ t a, Speaks t (f t a)) (l : List α) (s : State) : Speaks s (l.foldl f s) :=
  List.foldlRecOn l f (refl s) fun t ht a _ => ht.trans (hf t a)

theorem control (s : State) (i : Nat) (m : Msg) : Speaks s (s.control i m) := by
  refine ⟨fun j => ?_, rfl⟩
  unfold State.control
  rw [State.eng_modEng]
  split
  case isTrue h => exact ⟨[m.sealed], by rw [h]⟩
  case isFalse => exact .refl _

theorem mem (h : Speaks s u) {i : Nat} {m : Msg} (hm : m ∈ (s.eng i).outq) : m ∈ (u.eng i).outq := by
  obtain ⟨ms, he⟩ := h.engs i
  rw [he]
  exact List.mem_append_left _ hm

theorem epoch (h : Speaks s u) (i : Nat) : (u.eng i).epoch = (s.eng i).epoch := by
  obtain ⟨ms, he⟩ := h.engs i
  rw [he]

theorem inbox (h : Speaks s u) (i : Nat) : (u.eng i).inbox = (s.eng i).inbox := by
  obtain ⟨ms, he⟩ := h.engs i
  rw [he]

theorem peers (h : Speaks s u) (i : Nat) : (u.eng i).peers = (s.eng i).peers := by
  obtain ⟨ms, he⟩ := h.engs i
  rw [he]

end Speaks

theorem State.mem_control (s : State) (i : Nat) (m : Msg) : m.sealed ∈ ((s.control i m).eng i).outq := by
  rw [State.eng_control]
  exact List.mem_append_right _ (List.mem_singleton_self _)

/-- Steps of a fold that change only engines leave everything else. -/
theorem foldl_only_engs {α : Type} {f : State → α → State} (hf : ∀ t a, f t a = { t with engs := (f t a).engs }) (l : List α) (s : State) :
    l.foldl f s = { s with engs := (l.foldl f s).engs } := by
  induction l generalizing s with
  | nil => rfl
  | cons a l ih => rw [List.foldl_cons, ih, hf]

section Tell
variable {α : Type} {isl : Nat} {msg : State → α → Msg}

theorem tell_only (l : List α) (s : State) :
    l.foldl (fun t a => t.control isl (msg t a)) s = { s with engs := (l.foldl (fun t a => t.control isl (msg t a)) s).engs } := foldl_only_engs (fun _ _ => rfl) l s

theorem tell_speaks (l : List α) (s : State) : Speaks s (l.foldl (fun t a => t.control isl (msg t a)) s) := .foldl (fun t _ => .control t _ _) l s

/-- Each of those told has its message queued, formed in a state that differs from the first in messages queued at most. -/
theorem tell_told {l : List α} {a : α} (ha : a ∈ l) (s : State) :
    ∃ t, Speaks s t ∧ (msg t a).sealed ∈ ((l.foldl (fun t a => t.control isl (msg t a)) s).eng isl).outq := by
  obtain ⟨t, ht, hrest⟩ := foldl_passes Speaks.refl Speaks.trans (f := fun t a => t.control isl (msg t a)) (fun t _ => .control t _ _) ha s
  exact ⟨t, ht, hrest.mem (t.mem_control isl _)⟩

end Tell

/-- The members of a group that are other modules, as those told of something. -/
theorem mem_others {ms : List GEnt} {m : GEnt} {fab : Nat} (hm : m ∈ ms) (hne : m.fab ≠ fab) : m ∈ ms.filter fun m => m.fab != fab :=
  List.mem_filter.2 ⟨hm, by simpa using hne⟩

end Sys2Proof.Machine
end

section
/-! PROOFS. What ends of records, faults and poison leave: engines, collectives and groups, other records, and the registers they do not write (R155, R216, R217, R300, R301, R312, R479, R503). -/
namespace Sys2Proof.Machine

/-! ### Faults, poison and the end of a task's work -/

/-- Offsets in their pages of the registers that faults, poison and ends of records write: causes, vectors and drops of events, counts and captures of faults, poison and suspect shards,
invalidations, speculative lines, statistics, calibration factors and DONE. -/
def endOffs : List Nat := [0x010, 0x054, 0x058, 0x05C, 0x060, 0x064, 0x068, 0x06C, 0x070, 0x074, 0x078, 0x07C, 0x084, 0x098, 0x09C]

/-- What faults, poison and the ends of records' work may change: tasks, HBM and the caches, registers of those offsets, held weights, energy and what is sent. -/
structure Aside (s u : State) : Prop where
  only : u = { s with tasks := u.tasks, ics := u.ics, regs := u.regs, hbm := u.hbm, poison := u.poison, wgts := u.wgts, pw := u.pw, outbox := u.outbox }
  regs : ∀ k, k % 2 ^ 12 ∉ endOffs → u.reg k = s.reg k

namespace Aside

variable {s t u : State}

theorem refl (s : State) : Aside s s := ⟨rfl, fun _ _ => rfl⟩

theorem trans (h : Aside s t) (g : Aside t u) : Aside s u where
  only := by conv_lhs => rw [g.only, h.only]
  regs k hk := (g.regs k hk).trans (h.regs k hk)

theorem ite {c : Prop} [Decidable c] (ht : Aside s t) (hu : Aside s u) : Aside s (if c then t else u) := by split <;> assumption

theorem foldl {α : Type} {f : State → α → State} (hf : ∀ t a, Aside t (f t a)) (l : List α) (s : State) : Aside s (l.foldl f s) :=
  List.foldlRecOn l f (refl s) fun t ht a _ => ht.trans (hf t a)

theorem of_regs (ho : u = { s with tasks := u.tasks, ics := u.ics, regs := u.regs, hbm := u.hbm, poison := u.poison, wgts := u.wgts, pw := u.pw, outbox := u.outbox }) (hr : u.regs = s.regs) :
    Aside s u := ⟨ho, fun k _ => by rw [State.reg, State.reg, hr]⟩

theorem setFld (s : State) {f : Fld} (v i n : Nat) (h : f.off < 2 ^ 12 ∧ f.off ∈ endOffs) : Aside s (s.setFld f v i n) :=
  ⟨rfl, fun _ hk => s.reg_setFld_of_off _ _ _ h.1 fun hoff => hk (hoff ▸ h.2)⟩

theorem bump (s : State) {f : Fld} (i n m : Nat) (h : f.off < 2 ^ 12 ∧ f.off ∈ endOffs) : Aside s (s.bump f i n m) := setFld s _ i m h

theorem raise (s : State) (cls inst n : Nat) : Aside s (s.raise cls inst n) where
  only := by conv_lhs => rw [State.raise_only]
             rw [State.raise_only]
  regs k hk := s.reg_raise_ne cls inst n k (fun h => hk (by rw [h]; decide)) (fun h => hk (by rw [h]; decide)) (fun h => hk (by rw [h]; decide))

theorem hbmWrite (s : State) (w : Option Nat) (k : Nat) (bs : List (BitVec 8)) : Aside s (s.hbmWrite w k bs) where
  only := by conv_lhs => rw [State.hbmWrite_only]
             rw [State.hbmWrite_only]
  regs j hj := s.reg_hbmWrite w k bs fun h => hj (by rw [h]; decide)

theorem noteFault (s : State) (ctx cause agent isl dva : Nat) : Aside s (s.noteFault ctx cause agent isl dva) := by
  unfold State.noteFault
  refine (bump s ctx 1 0 (by decide)).trans (trans (ite (refl _) ?_) (raise _ _ _ _))
  exact (((((setFld _ _ ctx 0 (by decide)).trans (setFld _ _ ctx 0 (by decide))).trans (setFld _ _ ctx 0 (by decide))).trans (setFld _ _ ctx 0 (by decide))).trans
    (setFld _ _ ctx 0 (by decide))).trans (setFld _ _ ctx 0 (by decide))

theorem notePoison (s : State) (k : Nat) : Aside s (s.notePoison k) := bump s _ _ _ (by decide)

theorem markSuspect (s : State) (ctx : Nat) (x : Shard) (v : Bool) : Aside s (s.markSuspect ctx x v) :=
  foldl (fun t a => by
    unfold State.editPte
    split
    · exact refl t
    · exact hbmWrite t _ _ _) _ s

theorem invalidShard (s : State) (ctx : Nat) (a : ShardAt) (x : Shard) : Aside s (s.invalidShard ctx a x) := by
  have hmarked : ∀ w : WgtCtx, Aside s ((s.setWgt ctx w).bump .wgtDigestFailCnt ctx) := fun w => (of_regs rfl rfl : Aside s (s.setWgt ctx w)).trans (bump _ ctx 1 0 (by decide))
  unfold State.invalidShard
  refine ((hmarked _).trans (ite (refl _) ?_)).trans ((markSuspect _ ctx x true).trans (raise _ _ _ _))
  exact ((setFld _ _ ctx 0 (by decide)).trans (setFld _ _ ctx 0 (by decide))).trans (setFld _ _ ctx 0 (by decide))

theorem poisonEnd (s : State) (ctx dva k : Nat) : Aside s (s.poisonEnd ctx dva k).1 := by
  unfold State.poisonEnd
  dsimp only
  split
  · exact ite (notePoison s k) ((notePoison s k).trans (invalidShard _ ctx _ _))
  · exact notePoison s k

theorem faultEnd (s : State) (ctx cause agent isl dva : Nat) : Aside s (s.faultEnd ctx cause agent isl dva).1 := by
  have hnoted : Aside s (if cause = 8 then s else s.noteFault ctx cause agent isl dva) := ite (refl s) (noteFault s _ _ _ _ _)
  unfold State.faultEnd
  dsimp only
  split
  · exact hnoted
  · split
    · exact hnoted.trans (notePoison _ _)
    · split <;> exact hnoted

theorem devWrite (s : State) (ctx dva : Nat) (bs : List (BitVec 8)) : Aside s (s.devWrite ctx dva bs) := by
  unfold State.devWrite
  split
  case h_1 => exact noteFault s _ _ _ _ _
  case h_2 ps _ =>
    refine List.foldlRecOn (motive := fun a : State × List (BitVec 8) => Aside s a.1) ps _ (refl s) fun a ha p _ => ?_
    split
    · exact ha.trans (hbmWrite _ _ _ _)
    · exact ha.trans (of_regs rfl rfl)
    · exact ha

/-! ### A record's tasks at its commit (R155, R300, R301) -/

theorem dieWrite (s : State) (ctx dva : Nat) (bs : List (BitVec 8)) : Aside s (s.dieWrite ctx dva bs) := by
  unfold State.dieWrite State.writeDva
  cases s.pieces ctx dva bs.length true false true true with
  | error e => exact noteFault s _ _ _ _ _
  | ok ps =>
    refine List.foldlRecOn (motive := fun a : State × List (BitVec 8) => Aside s a.1) ps _ (refl s) fun a ha p _ => ?_
    split
    · exact ha.trans (hbmWrite _ _ _ _)
    · exact ha

theorem commitTag (s : State) (ctx step : Nat) (e : TagSum) : Aside s (s.commitTag ctx step e) := by
  unfold State.commitTag
  dsimp only
  split
  case h_1 => exact noteFault s _ _ _ _ _
  case h_2 => exact ite (((dieWrite s _ _ _).trans (bump _ ctx 1 0 (by decide))).trans (raise _ _ _ _)) (dieWrite s _ _ _)

theorem commitChan (s : State) (ctx : Nat) (e : TagSum) : Aside s (s.commitChan ctx e) := by
  unfold State.commitChan
  dsimp only
  split
  case h_1 => exact noteFault s _ _ _ _ _
  case h_2 => exact dieWrite s _ _ _

theorem commitStats (s : State) (x : Task) : Aside s (s.commitStats x) := (foldl (fun t e => commitTag t _ _ e) _ s).trans (foldl (fun t e => commitChan t _ e) _ _)

theorem shadowDrop (s : State) (i k : Nat) : Aside s (s.shadowDrop i k) := (of_regs rfl rfl : Aside s (s.setIc i _)).trans (setFld _ _ i 0 (by decide))

theorem shadowCommit (s : State) (i k : Nat) : Aside s (s.shadowCommit i k) := by
  have hthrough : ∀ (t : State) (x : ShadowLine), Aside t (t.writeThrough i x) := fun t x =>
    foldl (fun t e => by
      split
      · exact hbmWrite t _ _ _
      · exact refl t) _ t
  exact (foldl hthrough _ s).trans (shadowDrop _ i k)

theorem settle (s : State) (k : Nat) (commit : Bool) : Aside s (s.settle k commit) := by
  have hset : ∀ (t : State) (x : Task), Aside t (t.setTask k x) := fun _ _ => of_regs rfl rfl
  unfold State.settle
  dsimp only
  refine ite (refl s) (ite ?_ ?_)
  · exact ((foldl (fun t i => shadowCommit t i k) _ s).trans (hset _ _)).trans (commitStats _ _)
  · exact (foldl (fun t i => shadowDrop t i k) _ s).trans (hset _ _)

/-! ### What stays -/

theorem engs (h : Aside s u) : u.engs = s.engs := by rw [h.only]

theorem colls (h : Aside s u) : u.colls = s.colls := by rw [h.only]

theorem collNum (h : Aside s u) : u.collNum = s.collNum := by rw [h.only]

theorem entries (h : Aside s u) : u.entries = s.entries := by rw [h.only]

theorem tgs (h : Aside s u) : u.tgs = s.tgs := by rw [h.only]

theorem cays (h : Aside s u) : u.cays = s.cays := by rw [h.only]

theorem fld (h : Aside s u) {f : Fld} (hf : f.off < 2 ^ 12 ∧ f.off ∉ endOffs) (i n : Nat) : u.fld f i n = s.fld f i n := by
  rw [State.fld, State.fld, h.regs _ ((f.key_mod i n hf.1).symm ▸ hf.2)]

theorem fabId (h : Aside s u) : u.fabId = s.fabId := h.fld (f := .fabIdId) (by decide) 0 0

theorem speaks (h : Aside s u) : Speaks s u := .of_same h.engs h.fabId

theorem withEntries (h : Aside s u) (es : List Entry) : Aside { s with entries := es } { u with entries := es } := ⟨by conv_lhs => rw [h.only], h.regs⟩

end Aside

/-! ### The end of a record -/

theorem State.journal_aside (s : State) (e : Entry) : ∃ es, Aside { s with entries := es } (s.journal e) := by
  have hcopies : ∀ (t : State) (p : Prop) [Decidable p] (k : Nat) (bs : List (BitVec 8)), Aside t (if p then t else t.hbmWrite none k bs) := fun t p _ k bs =>
    .ite (.refl t) (.hbmWrite t _ _ _)
  exact ⟨_, ((hcopies s _ _ _).trans (hcopies _ _ _ _)).withEntries _⟩

/-- What a commit does after the entry is written: the record's tasks, DONE, energy and calibration. -/
theorem State.commitRecord_journalled (s : State) (e : Entry) (st d : Nat) :
    Aside ((s.modEntry e.ctx e.stream e.seq fun _ => e.committed st d s.ptime).journal (e.committed st d s.ptime)) (s.commitRecord e st d) := by
  have hsettled : ∀ t : State, Aside t ((s.recordTasks e).foldl (fun u k => (u.settle k (st == 0)).dropTaskRec k) t) := fun t =>
    .foldl (fun u k => (Aside.settle u k (st == 0)).trans (.of_regs rfl rfl : Aside _ ((u.settle k (st == 0)).dropTaskRec k))) _ t
  have hdone : ∀ t : State, Aside t ((t.put64 .lwDoneLo .lwDoneHi e.seq (lwInst e.ctx e.stream)).dropUnit (.record e.ctx e.stream e.seq)) := fun t =>
    ((Aside.setFld t _ _ 0 (by decide)).trans (.setFld _ _ _ 0 (by decide))).trans (.of_regs rfl rfl)
  have hcalibrated : ∀ t : State, Aside t (t.calibrate e.ctx e.eclass e.est e.energy (e.replays == 0)) := fun t => .ite (.refl t) (.setFld t _ _ _ (by decide))
  exact ((hsettled _).trans (hdone _)).trans (.ite (hcalibrated _) (.refl _))

section Finish
variable (s : State) (c q n st d : Nat)

/-- A record's end, whatever its entry holds, changes entries and what stands aside. -/
theorem State.finish_aside : ∃ es, Aside { s with entries := es } (s.finish c q n st d) := by
  unfold State.finish
  split
  case h_1 => exact ⟨_, .refl s⟩
  case h_2 e _ =>
    split
    · exact ⟨_, .refl s⟩
    · split
      · obtain ⟨es, hjournal⟩ := (s.modEntry e.ctx e.stream e.seq fun _ => e.committed st d s.ptime).journal_aside (e.committed st d s.ptime)
        exact ⟨es, hjournal.trans (s.commitRecord_journalled e st d)⟩
      · exact ⟨_, .refl _⟩

/-- The events that have taken place stay marked. -/
theorem State.finish_work : ∃ es, WorkEnds { s with entries := es } (s.finish c q n st d) := by
  unfold State.finish
  split
  case h_1 => exact ⟨_, .refl s⟩
  case h_2 h =>
    split
    · exact ⟨_, .refl s⟩
    · split
      · exact (State.commitRecord_ends h st d).work
      · exact ⟨_, .refl _⟩

variable {c q n}

/-- Other records' entries are as they were. -/
theorem State.finish_entry_ne {c' q' n' : Nat} (hne : ¬ (c' = c ∧ q' = q ∧ n' = n)) : (s.finish c q n st d).entry c' q' n' = s.entry c' q' n' := by
  unfold State.finish
  split
  case h_1 => rfl
  case h_2 e h =>
    split
    · rfl
    · split
      · obtain ⟨rfl, rfl, rfl⟩ := State.entry_named h
        have hname : ∀ x : Entry, (e.committed st d s.ptime).is e.ctx e.stream e.seq = true := fun _ => Entry.is_iff.2 ⟨rfl, rfl, rfl⟩
        rw [State.entry_congr (s.commitRecord_journalled e st d).entries, State.entry_journal_ne (hname e) hne, State.entry_modEntry_ne (fun x _ => hname x) hne]
      · exact (OnlyEntry.reach s c q n st d).2 _ _ _ hne

end Finish

end Sys2Proof.Machine
end

section
/-! PROOFS. How collectives end: the counts and events of an abort, the members told, the record's outcome, and what else stays (R312, R313, R326). -/
namespace Sys2Proof.Machine

/-! ### The end of a collective (R312, R313) -/

section Ends
variable (s : State) (k : Coll) (st d : Nat)

/-- The state in which a collective has left and its step is counted, before its record ends. -/
def State.withoutColl (s : State) (k : Coll) (st : Nat) : State :=
  (s.dropColl k).account k.ctx k.tgroup k.step fun a => if st = 0 then { a with closed := a.closed + 1 } else { a with failed := a.failed + 1 }

theorem State.withoutColl_only : s.withoutColl k st = { s with colls := s.colls.filter (fun x => x.num != k.num), tgs := (s.withoutColl k st).tgs } := State.account_only _ _ _ _ _

/-- A record's collective ends with its record; one of a stage run changes the run at most. -/
theorem State.endColl_cases :
    (∃ q n, k.owner = .record q n ∧ s.endColl k st d = (s.withoutColl k st).finish k.ctx q n st d) ∨
      ((∀ q n, k.owner ≠ .record q n) ∧ ∃ rs, s.endColl k st d = { s.withoutColl k st with runs := rs }) := by
  unfold State.endColl
  cases k.owner with
  | record q n => exact .inl ⟨q, n, rfl, rfl⟩
  | handoff r l => exact .inr ⟨fun _ _ h => CollOwner.noConfusion h, _, rfl⟩
  | recv r f i => exact .inr ⟨fun _ _ h => CollOwner.noConfusion h, _, rfl⟩

theorem State.endColl_aside : ∃ es rs, Aside { s.withoutColl k st with entries := es, runs := rs } (s.endColl k st d) := by
  obtain ⟨q, n, -, hend⟩ | ⟨-, rs, hend⟩ := s.endColl_cases k st d
  · obtain ⟨es, hfinish⟩ := (s.withoutColl k st).finish_aside k.ctx q n st d
    exact ⟨es, _, hend ▸ hfinish⟩
  · rw [hend]
    exact ⟨(s.withoutColl k st).entries, rs, Aside.refl _⟩

theorem State.endColl_work : ∃ es rs, WorkEnds { s.withoutColl k st with entries := es, runs := rs } (s.endColl k st d) := by
  obtain ⟨q, n, -, hend⟩ | ⟨-, rs, hend⟩ := s.endColl_cases k st d
  · obtain ⟨es, hfinish⟩ := (s.withoutColl k st).finish_work k.ctx q n st d
    exact ⟨es, _, hend ▸ hfinish⟩
  · rw [hend]
    exact ⟨(s.withoutColl k st).entries, rs, WorkEnds.refl _⟩

theorem State.endColl_colls : (s.endColl k st d).colls = s.colls.filter (fun x => x.num != k.num) := by
  obtain ⟨es, rs, h⟩ := s.endColl_aside k st d
  exact h.colls.trans (by rw [State.withoutColl_only])

/-- No collective of its number is left. -/
theorem State.endColl_gone : ∀ x ∈ (s.endColl k st d).colls, x.num ≠ k.num := fun x hx => by
  rw [State.endColl_colls] at hx
  simpa using (List.mem_filter.1 hx).2

theorem State.endColl_engs : (s.endColl k st d).engs = s.engs := by
  obtain ⟨es, rs, h⟩ := s.endColl_aside k st d
  exact h.engs.trans (by rw [State.withoutColl_only])

theorem State.endColl_collNum : (s.endColl k st d).collNum = s.collNum := by
  obtain ⟨es, rs, h⟩ := s.endColl_aside k st d
  exact h.collNum.trans (by rw [State.withoutColl_only])

theorem State.withoutColl_regs : (s.withoutColl k st).regs = s.regs := by rw [State.withoutColl_only]

theorem State.endColl_fld {f : Fld} (hf : f.off < 2 ^ 12 ∧ f.off ∉ endOffs) (i n : Nat) : (s.endColl k st d).fld f i n = s.fld f i n := by
  obtain ⟨es, rs, h⟩ := s.endColl_aside k st d
  exact (h.fld hf i n).trans (State.fld_congr (s.withoutColl_regs k st) _ _ _)

theorem State.endColl_raised {t : State} {cls inst n : Nat} (h : Raised t s cls inst n) : Raised t (s.endColl k st d) cls inst n := by
  obtain ⟨es, rs, hwork⟩ := s.endColl_work k st d
  refine hwork.raised (h.congr rfl ?_)
  exact congrArg (fun r => Tbl.get resetWord r _) (s.withoutColl_regs k st)

theorem Speaks.endColl : Speaks s (s.endColl k st d) := .of_same (s.endColl_engs k st d) (s.endColl_fld k st d (f := .fabIdId) (by decide) 0 0)

variable {s k}

theorem State.entry_withoutColl (c q n : Nat) : (s.withoutColl k st).entry c q n = s.entry c q n := State.entry_congr (by rw [State.withoutColl_only]) _ _ _

/-- The record of a collective ends with it. -/
theorem State.endColl_outcome {q n : Nat} {e : Entry} (howner : k.owner = .record q n) (he : s.entry k.ctx q n = some e) (hdone : e.done = false) (hpoint : e.point = none) :
    Outcome (s.endColl k st d) k.ctx q n st d := by
  obtain ⟨q', n', howner', hend⟩ | ⟨hnone, -⟩ := s.endColl_cases k st d
  · obtain ⟨rfl, rfl⟩ := CollOwner.record.inj (howner.symm.trans howner')
    rw [hend]
    exact (State.finish_ends ((State.entry_withoutColl st _ _ _).trans he) hdone hpoint st d).outcome
  · exact absurd howner (hnone q n)

/-- Other records' entries are as they were. -/
theorem State.endColl_entry {q n : Nat} (howner : k.owner ≠ .record q n) (c : Nat) : (s.endColl k st d).entry c q n = s.entry c q n := by
  obtain ⟨q', n', howner', hend⟩ | ⟨-, rs, hend⟩ := s.endColl_cases k st d
  · have hne : ¬ (c = k.ctx ∧ q = q' ∧ n = n') := fun ⟨_, hq, hn⟩ => howner (by rw [howner', hq, hn])
    rw [hend, State.finish_entry_ne _ st d hne, State.entry_withoutColl]
  · rw [hend]
    exact State.entry_withoutColl st c q n

end Ends

/-! ### Aborts counted (R326) -/

/-- An abort counted on the engines of a list. -/
def State.countAborts (s : State) (on : List Nat) : State := on.foldl (fun t i => (t.bump .colAbortCnt i).raise 0x17 i 1) s

/-- The engines on which a collective is open. -/
def Coll.openEngines (k : Coll) : List Nat := (List.range 24).filter fun i => bit k.open_ i

theorem State.abortHere_eq (s : State) (k : Coll) (cause fab : Nat) : s.abortHere k cause fab = (s.countAborts k.openEngines).endColl k St.collAborted (cause * 2 ^ 28 + fab) := rfl

theorem State.countAbort_only (s : State) (i : Nat) :
    (s.bump .colAbortCnt i).raise 0x17 i 1 = { s with regs := ((s.bump .colAbortCnt i).raise 0x17 i 1).regs, outbox := ((s.bump .colAbortCnt i).raise 0x17 i 1).outbox } := by
  conv_lhs => rw [State.raise_only]
  rfl

theorem State.countAborts_only (on : List Nat) (s : State) : s.countAborts on = { s with regs := (s.countAborts on).regs, outbox := (s.countAborts on).outbox } := by
  unfold State.countAborts
  induction on generalizing s with
  | nil => rfl
  | cons i on ih => rw [List.foldl_cons, ih, State.countAbort_only]

/-- Registers other than COL_ABORT_CNT and those events write. -/
theorem State.reg_countAborts (on : List Nat) (s : State) {k : Nat} (hk : k % 2 ^ 12 ∉ [0x010, 0x050, 0x078, 0x07C]) : (s.countAborts on).reg k = s.reg k := by
  simp only [List.mem_cons, List.not_mem_nil, or_false, not_or] at hk
  obtain ⟨hcause, hcount, hpending, hdrop⟩ := hk
  exact foldl_keeps (fun t : State => t.reg k) _ (fun t i => by
    rw [State.reg_raise_ne _ _ _ _ _ hcause hpending hdrop, State.reg_bump_of_off _ _ _ _ (by decide) hcount]) on s

theorem State.fabId_countAborts (on : List Nat) (s : State) : (s.countAborts on).fabId = s.fabId := by
  rw [State.fabId, State.fld, s.reg_countAborts on (by decide), ← State.fld, State.fabId]

theorem Speaks.countAborts (s : State) (on : List Nat) : Speaks s (s.countAborts on) := .of_same (by rw [State.countAborts_only]) (s.fabId_countAborts on)

theorem State.fld_countAbort_same (s : State) (i : Nat) : Counted s ((s.bump .colAbortCnt i).raise 0x17 i 1) .colAbortCnt i := by
  rw [Counted, State.fld_raise_ne _ _ _ _ _ _ _ (by decide) (by decide) (by decide) (by decide)]
  exact s.counted_bump i (by decide)

theorem State.fld_countAbort_ne (s : State) {i j : Nat} (h : j ≠ i) : ((s.bump .colAbortCnt i).raise 0x17 i 1).fld .colAbortCnt j = s.fld .colAbortCnt j := by
  have hkey : Fld.colAbortCnt.key j 0 ≠ Fld.colAbortCnt.key i 0 := by
    unfold Fld.key rkey
    omega
  rw [State.fld_raise_ne _ _ _ _ _ _ _ (by decide) (by decide) (by decide) (by decide), State.fld_bump_ne _ _ _ _ _ _ _ _ (by decide) (.inl hkey)]

/-- Each engine's abort is counted once. -/
theorem State.countAborts_counted {on : List Nat} (hon : on.Nodup) {i : Nat} (hi : i ∈ on) (s : State) : Counted s (s.countAborts on) .colAbortCnt i := by
  have hothers : ∀ (l : List Nat) (s : State), i ∉ l → (s.countAborts l).fld .colAbortCnt i = s.fld .colAbortCnt i := by
    intro l
    induction l with
    | nil => exact fun _ _ => rfl
    | cons j l ih =>
      intro s hil
      obtain ⟨hij, hil⟩ := not_or.1 (fun h => hil (List.mem_cons.2 h))
      exact (ih _ hil).trans (s.fld_countAbort_ne hij)
  induction on generalizing s with
  | nil => exact absurd hi List.not_mem_nil
  | cons j on ih =>
    obtain ⟨hj, hon⟩ := List.nodup_cons.1 hon
    obtain rfl | hmem := List.mem_cons.1 hi
    · exact (hothers on _ hj).trans (s.fld_countAbort_same i)
    · have hrest := ih hon hmem ((s.bump .colAbortCnt j).raise 0x17 j 1)
      rw [Counted, s.fld_countAbort_ne fun h : i = j => hj (h ▸ hmem)] at hrest
      exact hrest

/-- An event marked stays so. -/
theorem State.countAborts_marks (s : State) (on : List Nat) {k b : Nat} (hk : k % 2 ^ 12 = evtCause) (h : (s.reg k).toNat.testBit b = true) :
    ((s.countAborts on).reg k).toNat.testBit b = true :=
  List.foldlRecOn (motive := fun u : State => (u.reg k).toNat.testBit b = true) on _ h fun u hu _ _ =>
    State.testBit_raiseAt _ _ _ _ _ hk (by rwa [State.reg_bump_of_off _ _ _ _ (by decide) (by rw [hk]; decide)])

/-- Each engine's abort has taken place. -/
theorem State.countAborts_raised {on : List Nat} {i : Nat} (hi : i ∈ on) (s : State) : Raised s (s.countAborts on) 0x17 i 1 := by
  have hoff : rkey 0x17 i evtCause 0 % 2 ^ 12 = evtCause := rkey_mod _ _ _ _ (by decide)
  have henable : rkey 0x17 i evtEnable 0 % 2 ^ 12 = evtEnable := rkey_mod _ _ _ _ (by decide)
  obtain ⟨before, after, rfl⟩ := List.mem_iff_append.1 hi
  have hsplit : s.countAborts (before ++ i :: after) = ((((s.countAborts before).bump .colAbortCnt i).raise 0x17 i 1).countAborts after) := by
    unfold State.countAborts
    rw [List.foldl_append, List.foldl_cons]
  have hhere : Raised s (((s.countAborts before).bump .colAbortCnt i).raise 0x17 i 1) 0x17 i 1 := (State.raised_raise _ _ _ _).congr
    (by rw [State.reg_bump_of_off _ _ _ _ (by decide) (by rw [henable]; decide), s.reg_countAborts before (by rw [henable]; decide)]) rfl
  exact fun hen => hsplit ▸ State.countAborts_marks _ after hoff (hhere hen)

theorem Coll.mem_openEngines {k : Coll} {i : Nat} (hi : i < 24) (h : bit k.open_ i = true) : i ∈ k.openEngines := List.mem_filter.2 ⟨List.mem_range.2 hi, h⟩

theorem Coll.openEngines_nodup (k : Coll) : k.openEngines.Nodup := List.nodup_range.filter _

/-- A collective ended with its abort counted: on every engine on which it was open, and with its record. -/
structure Aborted (s u : State) (k : Coll) (st d : Nat) : Prop where
  gone : ∀ x ∈ u.colls, x.num ≠ k.num
  counts : ∀ i, i < 24 → bit k.open_ i = true → Counted s u .colAbortCnt i ∧ Raised s u 0x17 i 1
  outcome : ∀ q n e, k.owner = .record q n → s.entry k.ctx q n = some e → e.done = false → e.point = none → Outcome u k.ctx q n st d
  others : ∀ c q n, k.owner ≠ .record q n → u.entry c q n = s.entry c q n
  marks : ∀ t cls inst n, Raised t s cls inst n → Raised t u cls inst n

theorem State.countAborts_entry (s : State) (on : List Nat) (c q n : Nat) : (s.countAborts on).entry c q n = s.entry c q n := State.entry_congr (by rw [State.countAborts_only]) _ _ _

theorem Aborted.of_end (s : State) (k : Coll) (st d : Nat) : Aborted s ((s.countAborts k.openEngines).endColl k st d) k st d where
  gone := State.endColl_gone _ _ _ _
  counts i hi hopen := by
    have hmem := Coll.mem_openEngines hi hopen
    refine ⟨?_, State.endColl_raised _ _ _ _ (s.countAborts_raised hmem)⟩
    rw [Counted, State.endColl_fld _ _ _ _ (by decide)]
    exact s.countAborts_counted k.openEngines_nodup hmem
  outcome q n e howner he := State.endColl_outcome st d howner ((s.countAborts_entry _ _ _ _).trans he)
  others c q n howner := (State.endColl_entry st d howner c).trans (s.countAborts_entry _ _ _ _)
  marks t cls inst n h := State.endColl_raised _ _ _ _ fun hen => s.countAborts_marks _ (rkey_mod _ _ _ _ (by decide)) (h hen)

end Sys2Proof.Machine
end

section
/-! PROOFS. What collective engines do on "not open", aborts and reopened engines, how they grant credit, and how a collective closes (R313, R316, R322, R326, R327). -/
namespace Sys2Proof.Machine

/-! ### Members told of an abort (R326) -/

/-- Every other member of a collective is told of its abort. -/
def State.tellAborts (s : State) (k : Coll) (cause : Nat) : State :=
  (k.desc.members.filter fun m => m.fab != s.fabId).foldl
    (fun t m => t.control (engineFor k.mask 0) { t.msgTo k (engineFor k.mask 0) 5 m.fab m.ctx (engineFor m.engines 0) 0 0 0 with chunk := cause }) s

theorem State.abortColl_eq (s : State) (k : Coll) (cause : Nat) : s.abortColl k cause = (s.tellAborts k cause).abortHere k cause s.fabId := rfl

section Tells
variable (s : State) (k : Coll) (cause : Nat)

theorem State.tellAborts_only : s.tellAborts k cause = { s with engs := (s.tellAborts k cause).engs } := tell_only _ s

theorem Speaks.tellAborts : Speaks s (s.tellAborts k cause) := tell_speaks _ s

theorem State.tellAborts_told {m : GEnt} (hm : m ∈ k.desc.members) (hne : m.fab ≠ s.fabId) :
    ∃ y ∈ ((s.tellAborts k cause).eng (engineFor k.mask 0)).outq, y.msg = 5 ∧ y.tag = k.tag ∧ y.dfab = m.fab ∧ y.dctx = m.ctx ∧ y.chunk = cause := by
  obtain ⟨t, -, htold⟩ := tell_told (isl := engineFor k.mask 0)
    (msg := fun t m => { t.msgTo k (engineFor k.mask 0) 5 m.fab m.ctx (engineFor m.engines 0) 0 0 0 with chunk := cause }) (mem_others hm hne) s
  exact ⟨_, htold, rfl, rfl, rfl, rfl, rfl⟩

variable {k}

/-- What is aborted after messages were queued is aborted. -/
theorem Aborted.after_told {u : State} {st d : Nat} (h : Aborted (s.tellAborts k cause) u k st d) : Aborted s u k st d := by
  rw [State.tellAborts_only] at h
  exact ⟨h.gone, h.counts, h.outcome, h.others, h.marks⟩

theorem Aborted.abortColl : Aborted s (s.abortColl k cause) k St.collAborted (cause * 2 ^ 28 + s.fabId) := .after_told s cause (.of_end _ _ _ _)

theorem Speaks.abortHere (s : State) (k : Coll) (cause fab : Nat) : Speaks s (s.abortHere k cause fab) := (Speaks.countAborts s _).trans (.endColl _ _ _ _)

theorem Speaks.abortColl (s : State) (k : Coll) (cause : Nat) : Speaks s (s.abortColl k cause) := (Speaks.tellAborts s k cause).trans (.abortHere _ _ _ _)

end Tells

/-! ### Collectives by number -/

theorem Speaks.modColl (s : State) (n : Nat) (f : Coll → Coll) : Speaks s (s.modColl n f) := .of_same rfl rfl

theorem mem_modColl {s : State} {k : Coll} (hk : k ∈ s.colls) (f : Coll → Coll) : f k ∈ (s.modColl k.num f).colls :=
  List.mem_map.2 ⟨k, hk, if_pos rfl⟩

/-! ### "Not open" (R316) -/

section Receives
variable {s s1 : State} {isl : Nat} {m : Msg}

theorem notOpenReceive_due (h : s.takeKind isl 4 = some (m, s1)) :
    ∃ u, exec (.notOpenReceive isl) s = .next u ∧ u = { s1 with colls := u.colls } ∧
      (∀ k ∈ u.colls, k.tag = m.tag → ∀ r ∈ k.rx, r.isl = isl → r.chunk = m.chunk → r.got = false → r.lo = m.lo → r.log = m.log → r.sfab = m.sfab → r.sctx = m.dctx → r.granted = false) ∧
      u.colls.map (fun k => k.rx.map fun r => (r.chunk, r.got)) = s1.colls.map fun k => k.rx.map fun r => (r.chunk, r.got) := by
  refine ⟨_, by rw [exec_notOpenReceive, execNotOpenReceive, h], rfl, fun k hk htag r hr hisl hchunk hgot hlo hlog hfab hctx => ?_, ?_⟩
  · obtain ⟨k', -, rfl⟩ := List.mem_map.1 hk
    split at hr
    case isTrue =>
      obtain ⟨r', -, rfl⟩ := List.mem_map.1 hr
      split
      case isTrue => rfl
      case isFalse hnot =>
        rw [if_neg hnot] at hisl hchunk hgot hlo hlog hfab hctx
        exact absurd ⟨hchunk, by rw [hgot]; rfl, .inr ⟨hisl, hlo, hlog, hfab, hctx⟩⟩ hnot
    case isFalse hother =>
      rw [if_neg hother] at htag
      exact absurd htag hother
  · rw [List.map_map]
    refine List.map_congr_left fun k _ => ?_
    rw [Function.comp_apply]
    split
    · rw [List.map_map]
      refine List.map_congr_left fun r _ => ?_
      rw [Function.comp_apply]
      split <;> rfl
    · rfl

/-! ### Credit granted (R316, R322) -/

/-- What granting credit may change: messages queued, the credit noted, and free values taken. -/
structure Grants (s u : State) : Prop extends Speaks s u where
  only : u = { s with engs := u.engs, colls := u.colls, free := u.free }

namespace Grants

variable {s t u : State}

theorem refl (s : State) : Grants s s := ⟨.refl s, rfl⟩

theorem trans (h : Grants s t) (g : Grants t u) : Grants s u := ⟨h.toSpeaks.trans g.toSpeaks, by conv_lhs => rw [g.only, h.only]⟩

theorem foldl {α : Type} {f : State → α → State} (hf : ∀ t a, Grants t (f t a)) (l : List α) (s : State) : Grants s (l.foldl f s) :=
  List.foldlRecOn l f (refl s) fun t ht a _ => ht.trans (hf t a)

theorem control (s : State) (i : Nat) (m : Msg) : Grants s (s.control i m) := ⟨.control s i m, rfl⟩

theorem withheld (h : Grants s u) (k : Coll) (x : Rx) : u.withheld k x = s.withheld k x := by
  rw [h.only]
  rfl

end Grants

/-- Credit for one chunk goes to its sender. -/
def State.grantTo (k : Coll) (t : State) (r : Rx) : State := t.control r.isl (t.msgTo k r.isl 1 r.sfab r.sctx r.sisl r.chunk r.lo r.log)

/-- One grant: to the sender expected, or for a receive of posted chunks to a sender the spec leaves open (log entry 29). -/
def State.sendGrant (k : Coll) (t : State) (x : Rx) : State :=
  if x.isl = 24 then
    let e := engineFor k.mask 0
    t.took.control e (t.msgTo k e 1 (t.freeVal 14) k.ctx ((Config.freeBits 5 (t.free + 1)).toNat) x.chunk x.lo x.log)
  else t.grantTo k x

/-- A chunk for which an engine, or every engine, is to grant credit. -/
def State.due (s : State) (k : Coll) (isl : Option Nat) (x : Rx) : Bool :=
  !x.granted && !x.got && !s.withheld k x && (match isl with | some i => x.isl == i || x.isl == 24 | none => true)

theorem State.grantAll_eq (s : State) (k : Coll) (isl : Option Nat) :
    s.grantAll k isl =
      ((k.rx.filter (s.due k isl)).foldl (State.sendGrant k) s).modColl k.num fun y => { y with rx := y.rx.map fun x => if s.due k isl x then { x with granted := true } else x } := rfl

theorem Grants.sendGrant (k : Coll) (t : State) (x : Rx) : Grants t (t.sendGrant k x) := by
  unfold State.sendGrant
  split
  · exact (⟨.of_same rfl rfl, rfl⟩ : Grants t t.took).trans (.control _ _ _)
  · exact .control _ _ _

theorem Grants.modColl (s : State) (n : Nat) (f : Coll → Coll) : Grants s (s.modColl n f) := ⟨.of_same rfl rfl, rfl⟩

theorem Grants.grantAll (s : State) (k : Coll) (isl : Option Nat) : Grants s (s.grantAll k isl) := (Grants.foldl (.sendGrant k) _ s).trans (.modColl _ _ _)

/-- The message of a chunk's credit. -/
def Coll.CreditFor (k : Coll) (r : Rx) (y : Msg) : Prop :=
  y.msg = 1 ∧ y.tag = k.tag ∧ y.dfab = r.sfab ∧ y.dctx = r.sctx ∧ y.disl = r.sisl ∧ y.chunk = r.chunk ∧ y.lo = r.lo ∧ y.log = r.log

theorem State.grantAll_grants (s : State) {k : Coll} {r : Rx} (hr : r ∈ k.rx) (hisl : r.isl < 24) (hgranted : r.granted = false) (hgot : r.got = false) (hheld : s.withheld k r = false) :
    ∃ y ∈ ((s.grantAll k (some r.isl)).eng r.isl).outq, k.CreditFor r y := by
  have hdue : s.due k (some r.isl) r = true := by simp [State.due, hgranted, hgot, hheld]
  obtain ⟨t, -, hrest⟩ := foldl_passes Grants.refl Grants.trans (Grants.sendGrant k) (List.mem_filter.2 ⟨hr, hdue⟩) s
  have hsent : (t.msgTo k r.isl 1 r.sfab r.sctx r.sisl r.chunk r.lo r.log).sealed ∈ ((t.sendGrant k r).eng r.isl).outq := by
    rw [State.sendGrant, if_neg (by omega)]
    exact t.mem_control _ _
  exact ⟨_, (hrest.trans (.modColl _ _ _)).mem hsent, rfl, rfl, rfl, rfl, rfl, rfl, rfl, rfl⟩

theorem creditRegrant_grants (hisl : isl < 24) :
    ∃ u, exec (.creditRegrant isl) s = .next u ∧ u.hbm = s.hbm ∧ u.regs = s.regs ∧
      ∀ k ∈ s.colls, bit k.open_ isl = true → ∀ r ∈ k.rx, r.isl = isl → r.granted = false → r.got = false → s.withheld k r = false → ∃ y ∈ (u.eng isl).outq, k.CreditFor r y := by
  have hgrants : ∀ t k, Grants t (State.grantAll t k (some isl)) := fun t k => .grantAll t k _
  have hall := Grants.foldl hgrants (s.colls.filter fun k => bit k.open_ isl) s
  refine ⟨_, exec_creditRegrant isl s, by rw [hall.only], by rw [hall.only], fun k hk hopen r hr hon hgranted hgot hheld => ?_⟩
  subst hon
  have hmem : k ∈ s.colls.filter fun k => bit k.open_ r.isl := List.mem_filter.2 ⟨hk, hopen⟩
  obtain ⟨t, ht, hrest⟩ := foldl_passes Grants.refl Grants.trans hgrants hmem s
  obtain ⟨y, hy, hcredit⟩ := t.grantAll_grants hr hisl hgranted hgot ((ht.withheld k r).trans hheld)
  exact ⟨y, hrest.mem hy, hcredit⟩

/-! ### Aborts that come (R326) -/

theorem abortReceive_closes {k : Coll} (h : s.takeKind isl 5 = some (m, s1)) (hturn : s1.turn = none)
    (hk : s1.colls.find? (fun k => k.tag == m.tag && (k.ctx == m.dctx || k.tx.any fun t => t.dctx == m.dctx)) = some k) :
    ∃ u, exec (.abortReceive isl) s = .next u ∧ Aborted s1 u k St.collAborted (m.chunk * 2 ^ 28 + m.sfab) := by
  refine ⟨s1.abortHere k m.chunk m.sfab, ?_, .of_end _ _ _ _⟩
  simp only [exec_abortReceive, execAbortReceive, h, hturn, Option.any_none, Bool.false_eq_true, if_false, hk]

end Receives

/-! ### Closing (R313) -/

section Close
variable {s : State} {c tag isl : Nat} {k : Coll}

theorem State.collAt_found (h : s.collAt isl c tag = some k) : k ∈ s.colls ∧ k.ctx = c ∧ k.tag = tag ∧ bit k.open_ isl = true := by
  have hnamed := List.find?_some h
  simp only [Bool.and_eq_true, beq_iff_eq] at hnamed
  exact ⟨List.mem_of_find?_eq_some h, hnamed.1.1, hnamed.1.2, hnamed.2⟩

theorem exec_collectiveClose_closable (h : s.collAt isl c tag = some k) (hclose : s.closable k isl = true) :
    exec (.collectiveClose c tag isl) s = .next (if k.open_ - 2 ^ isl = 0 then s.endColl k 0 0 else s.modColl k.num fun x => { x with open_ := k.open_ - 2 ^ isl }) := by
  simp only [exec_collectiveClose, execCollectiveClose, h, hclose, Bool.not_true, Bool.false_eq_true, if_false]

theorem collectiveClose_last (h : s.collAt isl c tag = some k) (hclose : s.closable k isl = true) (hlast : k.open_ = 2 ^ isl) :
    ∃ u, exec (.collectiveClose c tag isl) s = .next u ∧ (∀ x ∈ u.colls, x.num ≠ k.num) ∧
      ∀ q n e, k.owner = .record q n → s.entry c q n = some e → e.done = false → e.point = none → Outcome u c q n 0 0 := by
  obtain ⟨-, rfl, -, -⟩ := State.collAt_found h
  refine ⟨s.endColl k 0 0, ?_, s.endColl_gone k 0 0, fun q n e howner he => State.endColl_outcome 0 0 howner he⟩
  rw [exec_collectiveClose_closable h hclose, if_pos (by rw [hlast, Nat.sub_self])]

theorem collectiveClose_more (h : s.collAt isl c tag = some k) (hclose : s.closable k isl = true) (hmore : k.open_ ≠ 2 ^ isl) :
    ∃ u, exec (.collectiveClose c tag isl) s = .next u ∧ u = { s with colls := u.colls } ∧ { k with open_ := k.open_ - 2 ^ isl } ∈ u.colls := by
  obtain ⟨hmem, -, -, hopen⟩ := State.collAt_found h
  have hle : 2 ^ isl ≤ k.open_ := Nat.ge_two_pow_of_testBit (by simpa [bit] using hopen)
  refine ⟨_, ?_, rfl, mem_modColl hmem fun x => { x with open_ := k.open_ - 2 ^ isl }⟩
  rw [exec_collectiveClose_closable h hclose, if_neg (by omega)]

end Close

/-! ### Another engine reopened (R327) -/

section Resync
variable (s : State) (m : Msg)

/-- A data chunk that an engine sent before it was reopened. -/
def Msg.stales (m : Msg) (x : InMsg) : Bool := x.m.sfab == m.sfab && x.m.sisl == m.sisl && x.m.msg == 0 && decide (x.m.epoch < m.epoch)

/-- One engine notes the epoch of an engine reopened, and drops its old chunks. -/
def State.noteEpoch (m : Msg) (t : State) (i : Nat) : State :=
  ((t.eng i).inbox.filter m.stales).foldl (fun u x => u.freeVia x.via)
    (t.modEng i fun e => { e with inbox := e.inbox.filter (fun x => !m.stales x), peers := Tbl.set natZero e.peers (engKey m.sfab m.sisl) m.epoch })

/-- Every engine does. -/
def State.noteEpochs : State := (List.range 24).foldl (State.noteEpoch m) s

/-- The collective of an engine reopened, as it sends to that engine and expects from it again. -/
def Coll.again (k : Coll) (m : Msg) : Coll :=
  { k with
    tx := k.tx.map fun t => if t.dfab == m.sfab && t.disl == m.sisl then { t with credit := false, out := false, acked := false, copy := [] } else t
    rx := k.rx.map fun (r : Rx) => if r.sfab = m.sfab ∧ r.sisl = m.sisl then { r with granted := true } else r }

/-- With its chunks before the reopening dropped, the collective named is aborted, or goes on with that engine again (R327). -/
theorem State.resynced_eq :
    ((s.noteEpochs m).coll m.dctx m.tag = none → s.resynced m = s.noteEpochs m) ∧
      ∀ k, (s.noteEpochs m).coll m.dctx m.tag = some k → s.resynced m =
        if k.posted ∧ k.tx.any (fun t => (t.dfab == m.sfab && t.disl == m.sisl) && t.acked) then (s.noteEpochs m).abortColl k 4
        else
          ((k.again m).rx.filter fun r => r.sfab == m.sfab && r.sisl == m.sisl && r.isl != 24).foldl (State.grantTo k) ((s.noteEpochs m).modColl k.num fun _ => k.again m) := by
  unfold State.resynced
  extract_lets old s1
  have hs1 : s1 = s.noteEpochs m := by
    unfold s1 State.noteEpochs
    congr 1
  rw [hs1]
  refine ⟨fun h => by rw [h], fun k h => ?_⟩
  rw [h]
  dsimp only
  congr 1

theorem OnlyWire.noteEpoch (t : State) (i : Nat) : OnlyWire t (t.noteEpoch m i) :=
  OnlyWire.trans (rfl : OnlyWire t (t.modEng i _)) (OnlyWire.foldl (fun u _ => .freeVia u _) _ _)

theorem OnlyWire.noteEpochs : OnlyWire s (s.noteEpochs m) := .foldl (.noteEpoch m) _ s

theorem State.eng_noteEpoch (t : State) (i j : Nat) : (t.noteEpoch m i).eng j =
    if j = i then { t.eng i with inbox := (t.eng i).inbox.filter (fun x => !m.stales x), peers := Tbl.set natZero (t.eng i).peers (engKey m.sfab m.sisl) m.epoch } else t.eng j := by
  have hkept : ((t.noteEpoch m i).engs) = (t.modEng i _).engs := foldl_keeps (fun u : State => u.engs) _ (fun u x => u.engs_freeVia _) _ _
  rw [State.eng_congr hkept, State.eng_modEng]

/-- The engine knows the epoch, and nothing older waits at it. -/
def Engine.Notes (e : Engine) (m : Msg) : Prop := Tbl.get natZero e.peers (engKey m.sfab m.sisl) = m.epoch ∧ ∀ x ∈ e.inbox, m.stales x = false

theorem State.noteEpochs_notes {i : Nat} (hi : i < 24) : ((s.noteEpochs m).eng i).Notes m := by
  have hnoted : ∀ t : State, ((t.noteEpoch m i).eng i).Notes m := fun t => by
    rw [State.eng_noteEpoch, if_pos rfl]
    exact ⟨Tbl.get_set_same _ _ _ _, fun x hx => by simpa using (List.mem_filter.1 hx).2⟩
  obtain ⟨t, -, hrest⟩ := foldl_passes (R := fun t u : State => (t.eng i).Notes m → (u.eng i).Notes m) (fun _ h => h) (fun h g hs => g (h hs))
    (f := State.noteEpoch m) (fun t j ht => by
      by_cases hj : i = j
      · exact hj ▸ hnoted t
      · rwa [State.eng_noteEpoch, if_neg hj]) (List.mem_range.2 hi) s
  exact hrest (hnoted t)

theorem Speaks.resynced : Speaks (s.noteEpochs m) (s.resynced m) := by
  cases h : (s.noteEpochs m).coll m.dctx m.tag with
  | none =>
    rw [(s.resynced_eq m).1 h]
    exact .refl _
  | some k =>
    rw [(s.resynced_eq m).2 k h]
    split
    · exact .abortColl _ _ _
    · exact (Speaks.modColl (s.noteEpochs m) _ _).trans (.foldl (fun t _ => .control t _ _) _ _)

variable {s m}

theorem State.resynced_coll {k : Coll} (hk : s.coll m.dctx m.tag = some k) (hposted : k.posted = false) : k.again m ∈ (s.resynced m).colls := by
  have hnoted : (s.noteEpochs m).coll m.dctx m.tag = some k := by
    rwa [State.coll, (OnlyWire.noteEpochs s m).colls]
  rw [(s.resynced_eq m).2 k hnoted, if_neg (by rw [hposted]; exact fun h => absurd h.1 Bool.false_ne_true)]
  rw [foldl_keeps (fun t : State => t.colls) (State.grantTo k) (fun _ _ => rfl)]
  exact mem_modColl (List.mem_of_find?_eq_some hnoted) fun _ => k.again m

theorem resyncReceive_notes {s s1 : State} {isl : Nat} {m : Msg} (h : s.takeKind isl 6 = some (m, s1)) :
    ∃ u, exec (.resyncReceive isl) s = .next u ∧
      (∀ i, i < 24 → Tbl.get natZero (u.eng i).peers (engKey m.sfab m.sisl) = m.epoch ∧
        ∀ x ∈ (u.eng i).inbox, ¬ (x.m.sfab = m.sfab ∧ x.m.sisl = m.sisl ∧ x.m.msg = 0 ∧ x.m.epoch < m.epoch)) ∧
      ∀ k, s1.coll m.dctx m.tag = some k → k.posted = false → ∃ k' ∈ u.colls, k'.num = k.num ∧ k'.tx.length = k.tx.length ∧
        ∀ t ∈ k'.tx, t.dfab = m.sfab → t.disl = m.sisl → t.credit = false ∧ t.out = false ∧ t.acked = false ∧ t.copy = [] := by
  have hsays := Speaks.resynced s1 m
  refine ⟨s1.resynced m, by simp only [exec_resyncReceive, execResyncReceive, h], fun i hi => ?_, fun k hk hposted => ⟨_, State.resynced_coll hk hposted, rfl, List.length_map _, ?_⟩⟩
  · obtain ⟨hpeers, hinbox⟩ := s1.noteEpochs_notes m hi
    rw [hsays.peers, hsays.inbox]
    exact ⟨hpeers, fun x hx => by simpa [Msg.stales] using hinbox x hx⟩
  · intro t ht hfab hisl
    obtain ⟨t', -, rfl⟩ := List.mem_map.1 ht
    split
    case isTrue => exact ⟨rfl, rfl, rfl, rfl⟩
    case isFalse hnot =>
      rw [if_neg hnot] at hfab hisl
      exact absurd (by simp [hfab, hisl]) hnot

end Resync

end Sys2Proof.Machine
end

section
/-! PROOFS. What running a collective leaves: chunks of the module's own range, values read and combined, ends by faults, and reopening (R312, R320, R323, R327). -/
namespace Sys2Proof.Machine

/-! ### Values end a collective only by a read (R323) -/

section Values
variable {s t : State} {k : Coll}

theorem State.collRead_ended {dva n : Nat} (h : s.collRead k dva n = .ended t) : (∃ c a, t = s.faultColl k c a) ∨ ∃ a key, t = s.poisonColl k a key := by
  unfold State.collRead at h
  split at h
  case h_1 => exact absurd h NodeRes.noConfusion
  case h_2 => exact .inl ⟨_, _, (NodeRes.ended.inj h).symm⟩
  case h_3 => exact .inr ⟨_, _, (NodeRes.ended.inj h).symm⟩
  case h_4 => exact absurd h NodeRes.noConfusion

/-- A node that is neither held nor an entry ends the collective only as one of its children does. -/
theorem State.nodeVal_ended {c o : Nat} (log : Nat) : ∀ {lo : Nat}, s.nodeVal k c o lo log = .ended t → ∃ dva n, s.collRead k dva n = .ended t := by
  have hentry : ∀ (e : GEnt) (dva n : Nat), (if e.fab ≠ s.fabId ∨ k.posted then NodeRes.wait else s.collRead k dva n) = .ended t → ∃ dva n, s.collRead k dva n = .ended t := fun e dva n h => by
    split at h
    · exact absurd h NodeRes.noConfusion
    · exact ⟨_, _, h⟩
  induction log with
  | zero =>
    intro lo h
    unfold State.nodeVal at h
    split at h
    case h_1 => exact absurd h NodeRes.noConfusion
    case h_2 =>
      split at h
      case h_1 => exact hentry _ _ _ h
      case h_2 => split at h <;> exact absurd h NodeRes.noConfusion
  | succ n ih =>
    intro lo h
    unfold State.nodeVal at h
    dsimp only at h
    split at h
    case h_1 => exact absurd h NodeRes.noConfusion
    case h_2 =>
      split at h
      case h_1 => exact hentry _ _ _ h
      case h_2 =>
        split at h
        · exact absurd h NodeRes.noConfusion
        · split at h
          case h_1 => exact absurd h NodeRes.noConfusion
          case h_2 hleft => exact ih (hleft.trans h)
          case h_3 =>
            split at h
            · exact absurd h NodeRes.noConfusion
            · split at h
              case h_1 => exact absurd h NodeRes.noConfusion
              case h_2 hright => exact ih (hright.trans h)
              case h_3 => exact absurd h NodeRes.noConfusion

theorem State.txVal_ended {x : Tx} (h : s.txVal k x = .ended t) : ∃ dva n, s.collRead k dva n = .ended t := by
  unfold State.txVal at h
  dsimp only at h
  split at h
  case h_1 => exact absurd h NodeRes.noConfusion
  case h_2 =>
    split at h
    · exact State.nodeVal_ended _ h
    · split at h
      case h_1 => exact absurd h NodeRes.noConfusion
      case h_2 =>
        split at h
        · exact absurd h NodeRes.noConfusion
        · split at h <;> exact ⟨_, _, h⟩

end Values

/-! ### What running a collective may change -/

/-- A collective as it was, but for credit noted, values held and chunks landed. -/
def Coll.RunOf (x y : Coll) : Prop := x = { y with rx := x.rx, vals := x.vals, landed := x.landed }

/-- Running the collective of a number: it is there no more, or stands as it was but for credit noted, values held and chunks landed, and then record entries are as they were. -/
structure CollRuns (num : Nat) (s u : State) : Prop extends Speaks s u where
  next : u.collNum = s.collNum
  listed : ∀ x ∈ u.colls, x.num = num → u.entries = s.entries ∧ ∃ y ∈ s.colls, y.num = num ∧ x.RunOf y

namespace CollRuns

variable {num : Nat} {s t u : State}

theorem of_same (he : u.engs = s.engs) (hf : u.fabId = s.fabId) (hn : u.collNum = s.collNum) (hc : u.colls = s.colls) (hent : u.entries = s.entries) : CollRuns num s u :=
  ⟨.of_same he hf, hn, fun x hx hnum => ⟨hent, x, hc ▸ hx, hnum, rfl⟩⟩

theorem refl (s : State) : CollRuns num s s := of_same rfl rfl rfl rfl rfl

theorem trans (h : CollRuns num s t) (g : CollRuns num t u) : CollRuns num s u := by
  refine ⟨h.toSpeaks.trans g.toSpeaks, g.next.trans h.next, fun x hx hnum => ?_⟩
  obtain ⟨hent, y, hy, hynum, hxy⟩ := g.listed x hx hnum
  obtain ⟨hent', z, hz, hznum, hyz⟩ := h.listed y hy hynum
  refine ⟨hent.trans hent', z, hz, hznum, ?_⟩
  unfold Coll.RunOf at *
  rw [hyz] at hxy
  exact hxy

theorem ite {p : Prop} [Decidable p] (ht : CollRuns num s t) (hu : CollRuns num s u) : CollRuns num s (if p then t else u) := by split <;> assumption

theorem foldl {α : Type} {f : State → α → State} (hf : ∀ t a, CollRuns num t (f t a)) (l : List α) (s : State) : CollRuns num s (l.foldl f s) :=
  List.foldlRecOn l f (refl s) fun t ht a _ => ht.trans (hf t a)

theorem aside (h : Aside s u) : CollRuns num s u := of_same h.engs h.fabId h.collNum h.colls h.entries

theorem control (s : State) (i : Nat) (m : Msg) : CollRuns num s (s.control i m) := ⟨.control s i m, rfl, fun x hx hnum => ⟨rfl, x, hx, hnum, rfl⟩⟩

theorem bump (s : State) {f : Fld} (i n : Nat) (h : f.off < 2 ^ 12 ∧ Fld.fabIdId.off ≠ f.off) : CollRuns num s (s.bump f i n) :=
  of_same rfl (by rw [State.fabId, State.fld, s.reg_bump_of_off _ _ _ h.1 (by rw [Fld.key_mod _ _ _ (by decide)]; exact h.2)]; rfl) rfl rfl rfl

theorem modColl (s : State) (n : Nat) {f : Coll → Coll} (hf : ∀ x : Coll, (f x).RunOf x) : CollRuns num s (s.modColl n f) := by
  refine ⟨.modColl s n f, rfl, fun x hx hnum => ⟨rfl, ?_⟩⟩
  obtain ⟨y, hy, rfl⟩ := List.mem_map.1 hx
  have hrun : (if y.num = n then f y else y).RunOf y := by
    split
    · exact hf y
    · rfl
  have hname : (if y.num = n then f y else y).num = y.num := by rw [hrun]
  exact ⟨y, hy, hname ▸ hnum, hrun⟩

/-- A collective that is gone leaves nothing to keep. -/
theorem gone (h : Speaks s u) (hn : u.collNum = s.collNum) (hgone : ∀ x ∈ u.colls, x.num ≠ num) : CollRuns num s u := ⟨h, hn, fun x hx hnum => absurd hnum (hgone x hx)⟩

variable {k : Coll}

theorem endColl (s : State) (k : Coll) (st d : Nat) : CollRuns k.num s (s.endColl k st d) := gone (.endColl s k st d) (s.endColl_collNum k st d) (s.endColl_gone k st d)

theorem abortColl (s : State) (k : Coll) (cause : Nat) : CollRuns k.num s (s.abortColl k cause) := by
  refine gone (.abortColl s k cause) ?_ (State.endColl_gone _ _ _ _)
  rw [State.abortColl_eq, State.abortHere_eq, State.endColl_collNum, State.countAborts_only, State.tellAborts_only]

theorem faultColl (s : State) (k : Coll) (cause dva : Nat) : CollRuns k.num s (s.faultColl k cause dva) := by
  have hnoted : CollRuns k.num s (s.faultEnd k.ctx cause 2 (engineFor k.mask 0) dva).1 := aside (.faultEnd s _ _ _ _ _)
  unfold State.faultColl
  exact ite (hnoted.trans (abortColl _ k _)) (ite (hnoted.trans (endColl _ k _ _)) (hnoted.trans (endColl _ k _ _)))

theorem poisonColl (s : State) (k : Coll) (dva key : Nat) : CollRuns k.num s (s.poisonColl k dva key) := (aside (.poisonEnd s _ _ _)).trans (abortColl _ k _)

theorem of_read (h : ∃ dva n, s.collRead k dva n = .ended t) : CollRuns k.num s t := by
  obtain ⟨dva, n, h⟩ := h
  obtain ⟨c, a, rfl⟩ | ⟨a, key, rfl⟩ := State.collRead_ended h
  · exact faultColl s k c a
  · exact poisonColl s k a key

theorem notify (s : State) (k : Coll) (i : Nat) : CollRuns num s (s.notify k i) := by
  unfold State.notify
  split <;> exact of_same rfl rfl rfl rfl rfl

/-- A chunk landed, or the collective ended by a fault of its destination. -/
theorem land (s : State) (k : Coll) (isl chunk off : Nat) (bs : List (BitVec 8)) : CollRuns k.num s (match s.land k isl chunk off bs with | .ok t => t | .error t => t) := by
  have hdone : ∀ t : State, CollRuns k.num t ((t.modColl k.num fun x => { x with landed := x.landed ++ [chunk] }).notify k isl) := fun t =>
    (modColl t k.num (f := fun x => { x with landed := x.landed ++ [chunk] }) fun _ => rfl).trans (notify _ _ _)
  unfold State.land
  dsimp only
  by_cases hls : k.dstLs = true
  · rw [if_pos hls]
    exact (of_same rfl rfl rfl rfl rfl : CollRuns k.num s (s.setCay ⟨isl, k.dstCay⟩ _)).trans (hdone _)
  · rw [if_neg hls]
    cases s.pieces k.ctx (k.dst + off) bs.length true false true true with
    | error e => exact faultColl s k _ _
    | ok ps => exact (aside (.devWrite s k.ctx _ _)).trans (hdone _)

theorem countSats (s : State) (i c n : Nat) : CollRuns num s (s.countSats i c n) := ite (refl s) ((bump s i n (by decide)).trans (bump _ c n (by decide)))

/-- A chunk of the module's own range. -/
theorem ownChunk (s : State) (num c : Nat) : CollRuns num s (s.ownChunk num c) := by
  unfold State.ownChunk
  split
  case h_1 => exact refl s
  case h_2 k hfind =>
    obtain rfl : k.num = num := by simpa using List.find?_some hfind
    split
    case h_1 => exact refl s
    case h_2 o _ =>
      refine ite (refl s) ?_
      dsimp only
      split
      case isTrue =>
        refine ite (refl s) ?_
        split
        case h_1 => exact refl s
        case h_2 h => exact of_read (State.nodeVal_ended _ h)
        case h_3 bs n _ =>
          have hkept : CollRuns k.num s ((s.countSats (engineFor k.mask c) k.ctx n).modColl k.num fun x =>
              { x with vals := x.vals.filter (fun v => v.chunk != c) ++ (if k.op = 2 then [] else [⟨c, 0, k.top, bs⟩]) }) :=
            (countSats s _ _ _).trans (modColl _ _ fun _ => rfl)
          exact ite hkept (hkept.trans (land _ k _ _ _ _))
      case isFalse =>
        split
        case h_1 => exact refl s
        case h_2 h => exact of_read (State.txVal_ended h)
        case h_3 => exact land s k _ _ _ _

theorem grantAll (s : State) (k : Coll) (i : Option Nat) : CollRuns num s (s.grantAll k i) := by
  have hsend : ∀ t x, CollRuns num t (State.sendGrant k t x) := fun t x => by
    unfold State.sendGrant
    split
    · exact (of_same rfl rfl rfl rfl rfl : CollRuns num t t.took).trans (control _ _ _)
    · exact control _ _ _
  rw [State.grantAll_eq]
  exact (foldl hsend _ s).trans (modColl _ _ fun _ => rfl)

end CollRuns

/-! ### This module's engine reopened (R327) -/

section Reopen
variable (s : State) (isl : Nat) (k : Coll)

/-- A collective as an engine opens it again. -/
def Coll.reopened (k : Coll) (isl : Nat) : Coll :=
  { k with
    tx := k.tx.map fun t => if t.isl = isl then { t with credit := false, out := false, acked := false, copy := [] } else t
    rx := k.rx.map fun r => if r.isl = isl then { r with granted := false, got := false } else if r.isl = 24 ∧ !r.got then { r with granted := false } else r
    vals := k.vals.filter fun v => !(engineFor k.mask v.chunk == isl)
    landed := if k.op = 5 then k.landed else k.landed.filter fun c => !(engineFor k.mask c == isl) }

/-- The other members told that the engine was reopened. -/
def State.tellReopened (s : State) (isl : Nat) (k : Coll) : State :=
  (k.desc.members.filter fun m => m.fab != s.fabId).foldl (fun t m => t.control isl (t.msgTo k isl 6 m.fab m.ctx (engineFor m.engines 0) 0 0 0)) s

theorem State.reopenColl_eq :
    s.reopenColl isl k =
      if k.posted ∧ (k.vals.any (fun v => engineFor k.mask v.chunk == isl) ∨ (k.dstLs ∧ k.landed.any fun c => engineFor k.mask c == isl)) then s.abortColl k 4
      else
        (List.range (k.reopened isl).nchunks).foldl (fun t c => if engineFor k.mask c == isl then t.ownChunk k.num c else t)
          ((((s.modColl k.num fun _ => k.reopened isl).tellReopened isl (k.reopened isl))).grantAll (k.reopened isl) (some isl)) := rfl

theorem Speaks.ownChunks (num : Nat) (p : Nat → Bool) (l : List Nat) (s : State) : Speaks s (l.foldl (fun t c => if p c then t.ownChunk num c else t) s) :=
  .foldl (fun t c => .ite (CollRuns.ownChunk t num c).toSpeaks (.refl t)) l s

theorem Speaks.tellReopened : Speaks s (s.tellReopened isl k) := tell_speaks _ s

theorem Speaks.reopenColl : Speaks s (s.reopenColl isl k) := by
  rw [State.reopenColl_eq]
  exact .ite (.abortColl s k 4) ((((Speaks.modColl s _ _).trans (.tellReopened _ _ _)).trans (Grants.grantAll _ _ _).toSpeaks).trans (.ownChunks _ _ _ _))

/-- The message that tells a member of the engine reopened. -/
def Coll.ReopenTo (k : Coll) (m : GEnt) (epoch : Nat) (y : Msg) : Prop := y.msg = 6 ∧ y.tag = k.tag ∧ y.dfab = m.fab ∧ y.dctx = m.ctx ∧ y.epoch = epoch

variable {k}

theorem State.reopenColl_tells (hposted : k.posted = false) {m : GEnt} (hm : m ∈ k.desc.members) (hne : m.fab ≠ s.fabId) :
    ∃ y ∈ ((s.reopenColl isl k).eng isl).outq, k.ReopenTo m (s.eng isl).epoch y := by
  have hothers : m ∈ (k.reopened isl).desc.members.filter fun m => m.fab != (s.modColl k.num fun _ => k.reopened isl).fabId := mem_others hm hne
  obtain ⟨t, ht, htold⟩ := tell_told (isl := isl) (msg := fun t m => t.msgTo (k.reopened isl) isl 6 m.fab m.ctx (engineFor m.engines 0) 0 0 0) hothers
    (s.modColl k.num fun _ => k.reopened isl)
  rw [State.reopenColl_eq, if_neg (by rw [hposted]; exact fun h => absurd h.1 Bool.false_ne_true)]
  exact ⟨_, ((Grants.grantAll _ _ _).toSpeaks.trans (.ownChunks _ _ _ _)).mem htold, rfl, rfl, rfl, rfl, ht.epoch isl⟩

theorem collectiveReopen_tells :
    ∃ u, exec (.collectiveReopen isl) s = .next u ∧ (u.eng isl).epoch = ((s.eng isl).epoch + 1) % 2 ^ 32 ∧
      ∀ k ∈ s.colls, bit k.open_ isl = true → k.posted = false → ∀ m ∈ k.desc.members, m.fab ≠ s.fabId →
        ∃ y ∈ (u.eng isl).outq, k.ReopenTo m (((s.eng isl).epoch + 1) % 2 ^ 32) y := by
  have hsays : ∀ t k, Speaks t (State.reopenColl t isl k) := fun t k => .reopenColl t isl k
  have hepoch : ((s.modEng isl fun e => { e with epoch := (e.epoch + 1) % 2 ^ 32 }).eng isl).epoch = ((s.eng isl).epoch + 1) % 2 ^ 32 := by rw [State.eng_modEng_same]
  refine ⟨_, exec_collectiveReopen isl s, ((Speaks.foldl hsays _ _).epoch isl).trans hepoch, fun k hk hopen hposted m hm hne => ?_⟩
  have hmem : k ∈ s.colls.filter fun k => bit k.open_ isl := List.mem_filter.2 ⟨hk, hopen⟩
  obtain ⟨t, ht, hrest⟩ := foldl_passes Speaks.refl Speaks.trans hsays hmem (s.modEng isl fun e => { e with epoch := (e.epoch + 1) % 2 ^ 32 })
  obtain ⟨y, hy, htold⟩ := t.reopenColl_tells isl hposted hm (ht.fab ▸ hne)
  rw [ht.epoch, hepoch] at htold
  exact ⟨y, hrest.mem hy, htold⟩

end Reopen

/-- Settles O37, clause by clause: "not open", credit granted again, aborts that come, engines reopened elsewhere, closing, and reopening here. -/
theorem collectiveEnds : Obligations.CollectiveEnds := by
  refine ⟨fun s s1 isl m => notOpenReceive_due, fun s isl hisl => creditRegrant_grants hisl, fun s s1 isl m k h hturn hk => ?_, fun s s1 isl m => resyncReceive_notes,
    fun s c tag isl k hisl hat hclose => ⟨collectiveClose_last hat hclose, collectiveClose_more hat hclose⟩, fun s isl hisl => collectiveReopen_tells s isl⟩
  obtain ⟨u, hexec, haborted⟩ := abortReceive_closes h hturn hk
  exact ⟨u, hexec, haborted.gone, haborted.counts, haborted.outcome⟩

end Sys2Proof.Machine
end

section
/-! PROOFS. Collective records: opening and refusal, library aborts, and CPOST (R309 to R311, R314, R320, R321, R325, R326). -/
namespace Sys2Proof.Machine

/-! ### A record that ends at once -/

section EndOp
variable (t : State) (e : Entry) (st d : Nat)

theorem State.endOp_aside : ∃ es, Aside { t with entries := es } (t.endOp e st d) := (t.begin e).finish_aside e.ctx e.stream e.seq st d

theorem State.endOp_work : ∃ es, WorkEnds { t with entries := es } (t.endOp e st d) := (t.begin e).finish_work e.ctx e.stream e.seq st d

theorem State.endOp_colls : (t.endOp e st d).colls = t.colls := by
  obtain ⟨es, h⟩ := t.endOp_aside e st d
  exact h.colls

theorem State.endOp_engs : (t.endOp e st d).engs = t.engs := by
  obtain ⟨es, h⟩ := t.endOp_aside e st d
  exact h.engs

theorem Speaks.endOp : Speaks t (t.endOp e st d) := by
  obtain ⟨es, h⟩ := t.endOp_aside e st d
  exact ⟨h.speaks.engs, h.speaks.fab⟩

theorem State.endOp_raised {s : State} {cls inst n : Nat} (h : Raised s t cls inst n) : Raised s (t.endOp e st d) cls inst n := by
  obtain ⟨es, hwork⟩ := t.endOp_work e st d
  exact hwork.raised h

theorem State.endOp_counted {s : State} {f : Fld} {i n : Nat} (hf : f.off < 2 ^ 12 ∧ f.off ∉ endOffs) (h : Counted s t f i 0 n) : Counted s (t.endOp e st d) f i 0 n := by
  obtain ⟨es, hend⟩ := t.endOp_aside e st d
  rw [Counted, hend.fld hf]
  exact h

end EndOp

/-! ### The words of a collective record (R311) -/

theorem leAt_drop (b : List (BitVec 8)) (a o n : Nat) : leAt (b.drop a) o n = leAt b (a + o) n := by rw [leAt, leAt, List.drop_drop]

/-- The top byte of a word. -/
theorem bits_leAt_top (b : List (BitVec 8)) : bits (leAt b 0 4) 31 24 = leAt b 3 1 := by
  match b with
  | [] => rfl
  | [x] => simp [leAt, leNat, bits, Nat.shiftRight_eq_div_pow]; omega
  | [x, y] => simp [leAt, leNat, bits, Nat.shiftRight_eq_div_pow]; omega
  | [x, y, z] => simp [leAt, leNat, bits, Nat.shiftRight_eq_div_pow]; omega
  | x :: y :: z :: w :: b => simp [leAt, leNat, bits, Nat.shiftRight_eq_div_pow]; omega

theorem collOf_op (e : Entry) (c num : Nat) (o : CollOwner) : (collOf (e.raw.drop 0x30) c num o).op = e.op := by
  show bits (leAt (e.raw.drop 0x30) 0 4) 31 24 = leAt e.raw 0x33 1
  rw [bits_leAt_top, leAt_drop]

/-! ### Opening (R309, R310, R314, R325) -/

section Place
variable (s : State) (k : Coll) (clr : Bool)

/-- A collective as it is listed when it opens. -/
def State.listed (s : State) (k : Coll) : Coll :=
  { k with
    open_ := k.mask
    tx := (k.plan s.fabId).1.map fun t =>
      { t with credit := (s.eng t.isl).early.any fun m => m.dctx == k.ctx && m.tag == k.tag && m.chunk == t.chunk && m.lo == t.lo && m.log == t.log && m.sfab == t.dfab }
    rx := if k.op = 5 then (List.range k.nchunks).map (fun c => (⟨24, 0, 0, 0, c, 0, 0, false, false⟩ : Rx)) else (k.plan s.fabId).2 }

/-- A notification counter of a context cleared on an engine. -/
def State.clearNotif (k : Coll) (n : Nat) (s : State) (i : Nat) : State := { s with notifs := Tbl.set natZero s.notifs (i * 1024 + k.ctx * 16 + n) 0 }

/-- An engine's early credit for a collective's tag dropped. -/
def State.dropEarly (k : Coll) (s : State) (i : Nat) : State := s.modEng i fun e => { e with early := e.early.filter fun m => !(m.dctx == k.ctx && m.tag == k.tag) }

/-- The credit kept for a collective's tag leaves the engines that carry it, and its notification counter is cleared where it asks. -/
def State.claimed (s : State) (k : Coll) (clr : Bool) : State :=
  let on := (List.range 24).filter fun i => bit k.mask i
  let s1 := on.foldl (State.dropEarly k)
    ({ s with colls := s.colls ++ [s.listed k], collNum := s.collNum + 1 } : State)
  match clr, k.notify with
  | true, some n => on.foldl (State.clearNotif k n) s1
  | _, _ => s1

theorem State.place?_eq :
    s.place? k clr =
      (List.range k.nchunks).foldl (fun t c => t.ownChunk k.num c)
        (((s.claimed k clr).account k.ctx k.tgroup k.step fun a => { a with opened := a.opened + 1 }).grantAll (s.listed k) none) := rfl

theorem State.claimed_keeps :
    (s.claimed k clr).colls = s.colls ++ [s.listed k] ∧ (s.claimed k clr).entries = s.entries ∧ (s.claimed k clr).collNum = s.collNum + 1 := by
  have hkept : ((s.claimed k clr).colls, (s.claimed k clr).entries, (s.claimed k clr).collNum) = (s.colls ++ [s.listed k], s.entries, s.collNum + 1) := by
    have hearly := fun l t => foldl_keeps (fun u : State => (u.colls, u.entries, u.collNum))
      (State.dropEarly k) (fun _ _ => rfl) l t
    unfold State.claimed
    dsimp only
    split
    · exact (foldl_keeps (fun u : State => (u.colls, u.entries, u.collNum)) (State.clearNotif k _) (fun _ _ => rfl) _ _).trans (hearly _ _)
    · exact hearly _ _
  simpa using hkept

/-- What placing does after the collective is listed is running it. -/
theorem CollRuns.place? : CollRuns k.num (s.claimed k clr) (s.place? k clr) := by
  have hcounted : CollRuns k.num (s.claimed k clr) ((s.claimed k clr).account k.ctx k.tgroup k.step fun a => { a with opened := a.opened + 1 }) := by
    rw [State.account_only]
    exact .of_same rfl rfl rfl rfl rfl
  rw [State.place?_eq]
  exact (hcounted.trans (.grantAll _ _ _)).trans (.foldl (fun t c => .ownChunk t _ c) _ _)

theorem State.place?_collNum : (s.place? k clr).collNum = s.collNum + 1 := (CollRuns.place? s k clr).next.trans (s.claimed_keeps k clr).2.2

variable {s k clr}

/-- Placed under a number that no other has, a collective that is still there is the one listed, and record entries are as they were. -/
theorem State.place?_stands (hnew : ∀ y ∈ s.colls, y.num ≠ k.num) {x : Coll} (hx : x ∈ (s.place? k clr).colls) (hnum : x.num = k.num) :
    (s.place? k clr).entries = s.entries ∧ x.RunOf (s.listed k) := by
  obtain ⟨hcolls, hentries, -⟩ := s.claimed_keeps k clr
  obtain ⟨hent, y, hy, hynum, hrun⟩ := (CollRuns.place? s k clr).listed x hx hnum
  rw [hcolls] at hy
  obtain hold | hlisted := List.mem_append.1 hy
  · exact absurd hynum (hnew y hold)
  · exact ⟨hent.trans hentries, List.mem_singleton.1 hlisted ▸ hrun⟩

end Place

/-- What opening a collective answers: it is placed with its group and engines known, or refused with collectives and record entries as they were. -/
def OpenRes.Answers (s : State) (k : Coll) (clr : Bool) : OpenRes → Prop
  | .ok t => ∃ d r m, t = s.place? { k with desc := d, rank := r, mask := m } clr
  | .refuse t _ _ => t.colls = s.colls ∧ t.entries = s.entries
  | .full => ∀ q n, k.owner ≠ .record q n

theorem State.openColl_answers (s : State) (k : Coll) (group : Nat) (clr : Bool) : (s.openColl k group clr).Answers s k clr := by
  unfold State.openColl
  extract_lets fits bad unit
  have hrefused : ∀ (st d : Nat), (OpenRes.refuse s st d).Answers s k clr := fun _ _ => ⟨rfl, rfl⟩
  have hcounted : ∀ st d : Nat, (match k.owner with | .record _ _ => OpenRes.refuse (s.bump .colRefuseCnt k.ctx) st d | _ => .full).Answers s k clr := fun st d => by
    cases howner : k.owner with
    | record q n => exact ⟨rfl, rfl⟩
    | handoff r l => exact fun _ _ h => CollOwner.noConfusion (howner.symm.trans h)
    | recv r f i => exact fun _ _ h => CollOwner.noConfusion (howner.symm.trans h)
  have hfits : ∀ d r m, (fits { k with desc := d, rank := r, mask := m }).Answers s k clr := fun d r m => by
    unfold fits
    dsimp only
    split
    case h_1 => exact hcounted _ _
    case h_2 =>
      split
      case h_1 => exact hcounted _ _
      case h_2 =>
        split
        case h_1 => exact hrefused _ _
        case h_2 => exact ⟨d, r, m, rfl⟩
  have hbad : ∀ r, (bad r).Answers s k clr := fun r => by
    unfold bad
    cases r with
    | fault c a => exact ⟨(Aside.faultEnd s _ _ _ _ _).colls, (Aside.faultEnd s _ _ _ _ _).entries⟩
    | poison a key => exact ⟨(Aside.poisonEnd s _ _ _).colls, (Aside.poisonEnd s _ _ _).entries⟩
    | wait _ => exact hrefused _ _
    | ok _ => exact hrefused _ _
  split
  case isTrue => exact hfits _ _ _
  case isFalse =>
    split
    case h_1 =>
      split
      case isTrue => exact hrefused _ _
      case isFalse =>
        split
        case h_1 =>
          split
          case h_1 => exact hrefused _ _
          case h_2 => exact hfits _ _ _
        case h_2 => exact hbad _
    case h_2 => exact hbad _

/-! ### Records of the six operations (R311) -/

/-- The commands of the six collective operations, with their operation codes. -/
def collOps : List ((Nat → Nat → Nat → Instr) × Nat) := [(.allReduce, 1), (.reduceScatter, 2), (.allGather, 3), (.broadcast, 4), (.receive, 5), (.reduceUpdateGather, 6)]

theorem exec_collOps {mk : Nat → Nat → Nat → Instr} {op : Nat} (h : (mk, op) ∈ collOps) (c q n : Nat) (s : State) : exec (mk c q n) s = s.withOp c q n 3 op s.collOp := by
  simp only [collOps, List.mem_cons, Prod.mk.injEq, List.not_mem_nil, or_false] at h
  obtain ⟨rfl, rfl⟩ | ⟨rfl, rfl⟩ | ⟨rfl, rfl⟩ | ⟨rfl, rfl⟩ | ⟨rfl, rfl⟩ | ⟨rfl, rfl⟩ := h <;> rfl

/-- The collective of a record, its group's alternate half known. -/
def State.recordColl (s : State) (e : Entry) : Coll :=
  let k0 := collOf (e.raw.drop 0x30) e.ctx s.collNum (.record e.stream e.seq)
  let half := if k0.op = 6 then 1 - ((s.tgroup e.ctx k0.tgroup).map (fun g => g.live)).getD 0 else 0
  { k0 with half := half, dst := k0.dst + half * e.u 0x5C 4 }

section Records
variable {s : State} {c q n : Nat} {e : Entry}

theorem State.collOp_unbound (hgroup : (s.recordColl e).tgroup ≠ 0xFFFF) (hnone : s.tgroup e.ctx (s.recordColl e).tgroup = none) :
    s.collOp e = s.endOp e St.tgUnknown (s.recordColl e).tgroup := if_pos ⟨hgroup, Option.isNone_iff_eq_none.2 hnone⟩

theorem State.collOp_bound (hbound : (s.recordColl e).tgroup = 0xFFFF ∨ (s.tgroup e.ctx (s.recordColl e).tgroup).isSome = true) :
    s.collOp e = match (s.begin e).openColl (s.recordColl e) (e.u 0x40 6) (bit (e.u 0x30 4) 12) with
      | .ok t => t
      | .refuse t st d => t.endOp e st d
      | .full => s :=
  if_neg fun h => hbound.elim h.1 fun hsome => by
    have hnone : (s.tgroup e.ctx (s.recordColl e).tgroup).isNone = true := h.2
    simp [Option.isNone_iff_eq_none.1 hnone] at hsome

/-- A record that ends at once in a state in which it has begun. -/
theorem State.endOp_begun {t : State} {k : Nat} (he : s.entry c q n = some e) (hr : e.ripe k = true) (ht : t.entries = (s.begin e).entries) (st d : Nat) :
    Outcome (t.endOp e st d) c q n st d := by
  have hbegun : t.entry c q n = some { e with begun := true } := (State.entry_congr ht _ _ _).trans (State.entry_begin he)
  have hagain := State.entry_begin hbegun
  have hdone : e.done = false := Entry.ripe_done hr
  have hpoint : e.point = none := Entry.ripe_point hr
  obtain ⟨rfl, rfl, rfl⟩ := State.entry_named he
  exact (State.finish_ends hagain hdone hpoint st d).outcome

theorem collOp_refused {t : State} {st d : Nat} (he : s.entry c q n = some e) (hr : e.ripe 3 = true)
    (hbound : (s.recordColl e).tgroup = 0xFFFF ∨ (s.tgroup e.ctx (s.recordColl e).tgroup).isSome = true)
    (h : (s.begin e).openColl (s.recordColl e) (e.u 0x40 6) (bit (e.u 0x30 4) 12) = .refuse t st d) :
    Outcome (s.collOp e) c q n st d ∧ (s.collOp e).colls = s.colls := by
  have hanswers := (s.begin e).openColl_answers (s.recordColl e) (e.u 0x40 6) (bit (e.u 0x30 4) 12)
  rw [h] at hanswers
  obtain ⟨hcolls, hentries⟩ := hanswers
  rw [State.collOp_bound hbound, h]
  exact ⟨State.endOp_begun he hr hentries st d, (t.endOp_colls e st d).trans hcolls⟩

theorem collOp_opens {t : State} (he : s.entry c q n = some e)
    (hbound : (s.recordColl e).tgroup = 0xFFFF ∨ (s.tgroup e.ctx (s.recordColl e).tgroup).isSome = true)
    (h : (s.begin e).openColl (s.recordColl e) (e.u 0x40 6) (bit (e.u 0x30 4) 12) = .ok t) (hstands : (t.colls.any fun x => x.num == s.collNum) = true)
    (hnew : ∀ x ∈ s.colls, x.num ≠ s.collNum) :
    s.collOp e = t ∧ t.collNum = s.collNum + 1 ∧ t.entry c q n = some { e with begun := true } ∧
      ∃ x ∈ t.colls, ∃ d r m, x.RunOf ((s.begin e).listed { s.recordColl e with desc := d, rank := r, mask := m }) := by
  have hanswers := (s.begin e).openColl_answers (s.recordColl e) (e.u 0x40 6) (bit (e.u 0x30 4) 12)
  rw [h] at hanswers
  obtain ⟨d, r, m, rfl⟩ := hanswers
  obtain ⟨x, hx, hnum⟩ := List.any_eq_true.1 hstands
  have hxnum : x.num = (s.recordColl e).num := eq_of_beq hnum
  have hfree : ∀ y ∈ (s.begin e).colls, y.num ≠ (s.recordColl e).num := hnew
  obtain ⟨hentries, hrun⟩ := State.place?_stands (k := { s.recordColl e with desc := d, rank := r, mask := m }) hfree hx hxnum
  have hcount : ((s.begin e).place? { s.recordColl e with desc := d, rank := r, mask := m } (bit (e.u 0x30 4) 12)).collNum = s.collNum + 1 := State.place?_collNum _ _ _
  refine ⟨?_, hcount, (State.entry_congr hentries _ _ _).trans (State.entry_begin he), x, hx, d, r, m, hrun⟩
  rw [State.collOp_bound hbound, h]

theorem State.recordColl_eq {op half : Nat} {k0 k : Coll} (he : s.entry c q n = some e) (hop : e.op = op) (hk0 : k0 = collOf (e.raw.drop 0x30) c s.collNum (.record q n))
    (hhalf : half = if op = 6 then 1 - ((s.tgroup c k0.tgroup).map (fun g => g.live)).getD 0 else 0) (hk : k = { k0 with half := half, dst := k0.dst + half * e.u 0x5C 4 }) :
    s.recordColl e = k := by
  obtain ⟨rfl, rfl, rfl⟩ := State.entry_named he
  subst hk hhalf hk0 hop
  simp only [State.recordColl, collOf_op]

/-- What the record says of its collective (R311). -/
theorem State.recordColl_words (s : State) (e : Entry) :
    (s.recordColl e).tag = e.u 0x38 6 ∧ (s.recordColl e).count = e.u 0x58 4 ∧ (s.recordColl e).src = e.u 0x48 6 ∧ (s.recordColl e).dst = e.u 0x50 6 + (s.recordColl e).half * e.u 0x5C 4 := by
  have hword : ∀ o m, leAt (e.raw.drop 0x30) o m = e.u (0x30 + o) m := leAt_drop e.raw 0x30
  exact ⟨hword 8 6, hword 0x28 4, hword 0x18 6, congrArg (· + (s.recordColl e).half * e.u 0x5C 4) (hword 0x20 6)⟩

end Records

/-! ### A library abort (R326) -/

section Aborts
variable {s : State} {c q n : Nat} {e : Entry}

theorem collectiveAbort_unknown (he : s.entry c q n = some e) (hr : e.ripe 3 = true) (hop : e.op = 7) (hnone : s.coll c (e.u 0x38 6) = none) :
    ∃ u, exec (.collectiveAbort c q n) s = .next u ∧ Outcome u c q n 0 0 ∧ u.colls = s.colls := by
  have habort : s.abortOp e = s.endOp e 0 0 := by
    obtain ⟨rfl, -, -⟩ := State.entry_named he
    rw [State.abortOp, hnone]
  exact ⟨_, by rw [exec_collectiveAbort, execCollectiveAbort, State.withOp_ripe he hr hop, habort], (State.endOp_ends he hr 0 0).outcome, s.endOp_colls e 0 0⟩

theorem collectiveAbort_closes {k : Coll} (he : s.entry c q n = some e) (hr : e.ripe 3 = true) (hop : e.op = 7) (hk : s.coll c (e.u 0x38 6) = some k) (howner : k.owner ≠ .record q n) :
    ∃ u, exec (.collectiveAbort c q n) s = .next u ∧ Outcome u c q n 0 0 ∧ (∀ x ∈ u.colls, x.num ≠ k.num) ∧
      (∀ i, i < 24 → bit k.open_ i = true → Counted s u .colAbortCnt i ∧ Raised s u 0x17 i 1) ∧
      (∀ m ∈ k.desc.members, m.fab ≠ s.fabId → ∃ y ∈ (u.eng (engineFor k.mask 0)).outq, y.msg = 5 ∧ y.tag = k.tag ∧ y.dfab = m.fab ∧ y.dctx = m.ctx ∧ y.chunk = 1) := by
  have habort : s.abortOp e = (s.abortColl k 1).endOp e 0 0 := by
    obtain ⟨rfl, -, -⟩ := State.entry_named he
    rw [State.abortOp, hk]
  have haborted := Aborted.abortColl s (k := k) 1
  have hent : (s.abortColl k 1).entry c q n = some e := (haborted.others c q n howner).trans he
  have hspeaks : Speaks (s.tellAborts k 1) ((s.abortColl k 1).endOp e 0 0) := (Speaks.abortHere _ k 1 s.fabId).trans (.endOp _ _ _ _)
  refine ⟨_, by rw [exec_collectiveAbort, execCollectiveAbort, State.withOp_ripe he hr hop, habort], (State.endOp_ends hent hr 0 0).outcome, ?_, fun i hi hopen => ?_, fun m hm hne => ?_⟩
  · rw [State.endOp_colls]
    exact haborted.gone
  · obtain ⟨hcounted, hraised⟩ := haborted.counts i hi hopen
    exact ⟨State.endOp_counted _ e 0 0 (by decide) hcounted, State.endOp_raised _ e 0 0 hraised⟩
  · obtain ⟨y, hy, hsaid⟩ := s.tellAborts_told k 1 hm hne
    exact ⟨y, hspeaks.mem hy, hsaid⟩

end Aborts

/-! ### CPOST (R320, R321) -/

/-- A chunk of a collective that another member owns, or no one, is not this module's to finish. -/
theorem State.ownChunk_elsewhere {s : State} {num c : Nat} {k : Coll} (hk : s.colls.find? (fun x => x.num == num) = some k) (hown : ∀ o, k.ownerOf c = some o → o.fab ≠ s.fabId) :
    s.ownChunk num c = s := by
  rw [State.ownChunk, hk]
  dsimp only
  cases ho : k.ownerOf c with
  | none => rfl
  | some o => exact if_pos (.inl (hown o ho))

theorem find?_modColl {s : State} {n : Nat} {k : Coll} (hk : s.colls.find? (fun x => x.num == n) = some k) {f : Coll → Coll} (hf : ∀ x, (f x).num = x.num) :
    (s.modColl n f).colls.find? (fun x => x.num == n) = some (f k) := by
  have hnum : k.num = n := by simpa using List.find?_some hk
  have hsame : ((fun x : Coll => x.num == n) ∘ fun x => if x.num = n then f x else x) = fun x => x.num == n := funext fun x => by
    rw [Function.comp_apply]
    split
    · rw [hf]
    · rfl
  rw [State.modColl, List.find?_map, hsame, hk, Option.map_some, if_pos hnum]

/-- A contribution not posted before, of a chunk another member owns, is kept as a value. -/
theorem State.contribute_keeps {s : State} {isl chunk : Nat} {k : Coll} (bs : List (BitVec 8)) (hk : s.colls.find? (fun x => x.num == k.num) = some k) (hown : ∀ o, k.ownerOf chunk = some o → o.fab ≠ s.fabId)
    (hvals : ∀ v ∈ k.vals, v.chunk ≠ chunk) (hland : chunk ∉ k.landed) :
    ∃ v : NodeVal, v.chunk = chunk ∧ v.data = bs ∧ s.contribute isl k chunk bs = s.modColl k.num fun x => { x with vals := x.vals ++ [v] } := by
  unfold State.contribute
  extract_lets n
  have hfresh : ¬ ((k.vals.any fun v => v.chunk == chunk && v.lo == n.1 && v.log == n.2) = true ∨ k.landed.contains chunk = true) := by
    rintro (h | h)
    · obtain ⟨v, hv, hsame⟩ := List.any_eq_true.1 h
      simp only [Bool.and_eq_true, beq_iff_eq] at hsame
      exact hvals v hv hsame.1.1
    · exact hland (by simpa using h)
  rw [if_neg hfresh]
  exact ⟨⟨chunk, n.1, n.2, bs⟩, rfl, rfl, State.ownChunk_elsewhere (k := { k with vals := k.vals ++ [⟨chunk, n.1, n.2, bs⟩] }) (find?_modColl hk fun _ => rfl) hown⟩

section Cpost
variable {s : State} {c : CayRef} {t ls : Nat} {f : SFields} {p : PostArgs}

/-- The bytes a CPOST names can be posted: aligned, not too many, and no copy or store is still to write them. -/
structure Posts (s : State) (c : CayRef) (t : Nat) (f : SFields) (p : PostArgs) (ls : Nat) : Prop where
  issues : Issues s c t
  settled : Settled s c t [f.d, f.a, f.b]
  reserved : f.rsv = 0
  args : p = postArgs (((s.cay c).thr t).reg f.a).toNat (((s.cay c).thr t).reg f.b).toNat (((s.cay c).thr t).reg f.d).toNat
  operand : s.lsOperand c.island (((s.cay c).thr t).reg f.a).toNat p.bytes 1 false = some ls
  sizes : ¬ (ls % 64 ≠ 0 ∨ p.bytes = 0 ∨ p.bytes % 64 ≠ 0 ∨ 65536 < p.bytes)
  free : (s.cay c).pendingRange (s.cay c).issue ls p.bytes = false

/-- What an issuing CPOST does with the bytes it names. -/
def State.cposted (s : State) (c : CayRef) (t : Nat) (p : PostArgs) (bs : List (BitVec 8)) : State :=
  let th := (s.cay c).thr t
  let ctx := (s.task th.task).ctx
  if p.direct then
    if 64 ≤ (s.eng c.island).posts.length then s.blockThr c t .post 3
    else (s.modEng c.island fun e => { e with
      posts := e.posts ++ [⟨ctx, p.tag, p.chunk, p.dfab, p.disl, (s.eng c.island).creditFor ctx p.tag p.chunk p.dfab p.disl, false, false, 0, bs⟩]
      early := e.early.filter fun m => !(m.tag == p.tag && m.chunk == p.chunk && m.sfab == p.dfab && m.sisl == p.disl && m.dctx == ctx) }).putThr c t th.next
  else match s.collAt c.island ctx p.tag with
    | none => s.failTask th.task St.copyRefused 0
    | some k => if s.postable k p then (s.putThr c t th.next).contribute c.island k p.chunk bs else s.failTask th.task St.copyRefused 0

theorem exec_cpost_posts (h : Posts s c t f p ls) : exec (.cpost c f) s = .next (s.cposted c t p ((s.cay c).lsRead ls p.bytes)) := by
  obtain ⟨hissue, hsettled, hrsv, hargs, hls, hsizes, hfree⟩ := h
  rw [exec_cpost, execCpost, beq_iff_eq.2 hrsv, issueRegs_running hissue.1 hissue.2 hsettled]
  dsimp only
  rw [← hargs, hls]
  dsimp only
  rw [if_neg hsizes, if_neg (by simp [hfree])]
  rfl

theorem State.eng_putThr (s : State) (c : CayRef) (t : Nat) (th : Thread) (i : Nat) : (s.putThr c t th).eng i = s.eng i := rfl

theorem cpost_direct (h : Posts s c t f p ls) (hdirect : p.direct = true) (hroom : (s.eng c.island).posts.length < 64) :
    ∃ u g, exec (.cpost c f) s = .next u ∧ u = { s with cays := u.cays, engs := u.engs } ∧
      (u.eng c.island).posts = (s.eng c.island).posts ++ [⟨(s.task ((s.cay c).thr t).task).ctx, p.tag, p.chunk, p.dfab, p.disl, g, false, false, 0, (s.cay c).lsRead ls p.bytes⟩] ∧
      (∀ i, i ≠ c.island → u.eng i = s.eng i) ∧ (u.cay c).thr t = ((s.cay c).thr t).next ∧ (u.cay c).ls = (s.cay c).ls := by
  have hexec := exec_cpost_posts h
  rw [State.cposted, if_pos hdirect, if_neg (by omega)] at hexec
  exact ⟨_, _, hexec, rfl, by rw [State.eng_putThr, State.eng_modEng_same], fun i hi => by rw [State.eng_putThr, State.eng_modEng, if_neg hi], State.thr_putThr _ _ _ _, State.putThr_ls _ _ _ _ _⟩

theorem cpost_contributes {k : Coll} (h : Posts s c t f p ls) (hdirect : p.direct = false) (hat : s.collAt c.island (s.task ((s.cay c).thr t).task).ctx p.tag = some k)
    (hpost : s.postable k p = true) (hk : s.colls.find? (fun x => x.num == k.num) = some k) (hown : ∀ o, k.ownerOf p.chunk = some o → o.fab ≠ s.fabId)
    (hvals : ∀ v ∈ k.vals, v.chunk ≠ p.chunk) (hland : p.chunk ∉ k.landed) :
    ∃ u k' v, exec (.cpost c f) s = .next u ∧ u = { s with cays := u.cays, colls := u.colls } ∧ k' ∈ u.colls ∧ k' = { k with vals := k.vals ++ [v] } ∧ v.chunk = p.chunk ∧
      v.data = (s.cay c).lsRead ls p.bytes ∧ (u.cay c).thr t = ((s.cay c).thr t).next := by
  obtain ⟨v, hchunk, hdata, hcontr⟩ := State.contribute_keeps (s := s.putThr c t ((s.cay c).thr t).next) (isl := c.island) ((s.cay c).lsRead ls p.bytes) hk hown hvals hland
  have hexec := exec_cpost_posts h
  rw [State.cposted, if_neg (by simp [hdirect]), hat] at hexec
  dsimp only at hexec
  rw [if_pos hpost, hcontr] at hexec
  exact ⟨_, _, v, hexec, rfl, mem_modColl (List.mem_of_find?_eq_some hk) _, rfl, hchunk, hdata, (State.thr_putThr s c t _ :)⟩

end Cpost

/-- Settles O35: what opening answers decides a record's end, a library abort is an abort of the collective found, and a CPOST of good operands is a post or a contribution. -/
theorem collectiveRecords : Obligations.CollectiveRecords := by
  refine ⟨fun mk op hmk s c q n half e k0 k he hr hop hk0 => ?_, fun s c q n e he hr hop => ⟨collectiveAbort_unknown he hr hop, fun k => collectiveAbort_closes he hr hop⟩,
    fun s c t ls f p hissue hsettled hrsv hargs hls halign hbytes hsize hmax hfree => ?_⟩
  · have hexec := (exec_collOps hmk c q n s).trans (State.withOp_ripe he hr hop _)
    have hkey := fun half k => State.recordColl_eq (half := half) (k := k) he hop hk0
    obtain ⟨rfl, rfl, rfl⟩ := State.entry_named he
    refine ⟨fun hgroup hnone => ?_, fun hbound hhalf hk => ?_⟩
    · have hk := hkey _ _ rfl rfl
      have hend : s.collOp e = s.endOp e St.tgUnknown k0.tgroup := (State.collOp_unbound (by rw [hk]; exact hgroup) (by rw [hk]; exact hnone)).trans (by rw [hk])
      exact ⟨_, hexec, hend ▸ (State.endOp_ends he hr _ _).outcome, hend ▸ s.endOp_colls e _ _⟩
    · obtain rfl := hkey half k hhalf hk
      have hgroup : (s.recordColl e).tgroup = k0.tgroup := (congrArg Coll.tgroup hk :)
      have hhalf : (s.recordColl e).half = half := (congrArg Coll.half hk :)
      have hop' : (s.recordColl e).op = op := (congrArg Coll.op hk :).trans ((congrArg Coll.op hk0).trans ((collOf_op e _ _ _).trans hop))
      rw [← hgroup] at hbound
      refine ⟨fun t st d h => ⟨_, hexec, collOp_refused he hr hbound h⟩, fun t h hstands hnew => ?_⟩
      obtain ⟨hu, hcount, hentry, x, hx, d, r, m, hrun⟩ := collOp_opens he hbound h hstands hnew
      obtain ⟨htag, hcnt, hsrc, hdst⟩ := s.recordColl_words e
      rw [hu] at hexec
      exact ⟨t, x, hexec, hx, congrArg Coll.num hrun, hcount, congrArg Coll.ctx hrun, (congrArg Coll.op hrun).trans hop', (congrArg Coll.tag hrun).trans htag, (congrArg Coll.count hrun).trans hcnt,
        (congrArg Coll.src hrun).trans hsrc, (congrArg Coll.dst hrun).trans (hhalf ▸ hdst), congrArg Coll.owner hrun, (congrArg Coll.open_ hrun).trans (congrArg Coll.mask hrun).symm, hentry⟩
  · have hposts : Posts s c t f p ls := ⟨hissue, hsettled, hrsv, hargs, hls, by omega, hfree⟩
    exact ⟨cpost_direct hposts, fun k hdirect hat hpost hk _ => cpost_contributes hposts hdirect hat hpost hk⟩

end Sys2Proof.Machine
end

section
/-! PROOFS. What leaves an engine: control messages and chunks that hold credit (R316, R317, R398, R402, R517). -/
namespace Sys2Proof.Machine

/-! ### Leaving by a strait (R396, R402, R411) -/

theorem firstSome_cons_some {α β : Type} {f : α → Option β} {x : α} {y : β} (h : f x = some y) (xs : List α) : firstSome f (x :: xs) = some y := by rw [firstSome, h]

section Leaving
variable {s : State} {isl i : Nat} {m : Msg}

/-- What waits at a strait for a channel after a message joined it. -/
theorem State.waiting_strQueue (s : State) (i vc : Nat) (m : Msg) :
    Tbl.get noMsgs ((s.strQueue i vc m).str i).waiting vc = Tbl.get noMsgs (s.str i).waiting vc ++ [m] ++ Tbl.get noMsgs (s.str i).heldMsg vc := by
  rw [State.strQueue, State.str_modStr, if_pos rfl]
  exact Tbl.get_set_same _ _ _ _

/-- Where nothing is injected a message joins those that wait. -/
theorem State.strSend_quiet (h : s.fld .strInjCtlMode i = 0) (m : Msg) : s.strSend i m = s.strQueue i (vcOf m (s.fld .strPeerFabricId i)) m := by
  have hquiet : ¬ s.injects i 1 m.dctx m.sctx m.again = true := by simp [State.injects, h]
  exact if_neg hquiet

theorem State.hop_here (h : m.dfab = s.fabId) : s.hop isl m = some (s.modEng m.disl fun e => { e with inbox := e.inbox ++ [⟨m, none⟩] }) := if_pos h

theorem State.hop_by (hne : m.dfab ≠ s.fabId) (hi : s.straitFor isl m.dfab = some i) (hmode : s.fld .strInjCtlMode i = 0) :
    s.hop isl m = some (s.strQueue i (vcOf m (s.fld .strPeerFabricId i)) m) := by rw [State.hop, if_neg hne, hi, Option.map_some, State.strSend_quiet hmode]

/-- A strait a chunk takes is one of the module's. -/
theorem State.straitFor_lt {d : Nat} (h : s.straitFor isl d = some i) : i < 24 := by
  unfold State.straitFor at h
  split at h
  · exact absurd h (by simp)
  · have hnamed := List.find?_some h
    exact List.mem_range.1 (List.mem_filter.1 (by simpa using hnamed : i ∈ s.straitsTo _)).1

theorem State.straitFor_congr {u : State} (hroutes : u.routes = s.routes) (hup : ∀ j < 24, ∀ d, u.upTo j d = s.upTo j d) (isl d : Nat) : u.straitFor isl d = s.straitFor isl d := by
  have hroute : ∀ x, u.route x = s.route x := fun x => by rw [State.route, State.route, hroutes]
  have hstraits : ∀ x, u.straitsTo x = s.straitsTo x := fun x => List.filter_congr fun j hj => by rw [hroute, hup j (List.mem_range.1 hj)]
  have hhop : u.hopTo d = s.hopTo d := by simp only [State.hopTo, hroute]
  simp only [State.straitFor, hhop, hstraits]

/-! ### Control messages (R316, R398) -/

variable {rest : List Msg}

/-- The first control message of an engine leaves where its hop can be made. -/
theorem State.sendControl_first {t : State} (hq : (s.eng isl).outq = m :: rest) (h : (s.modEng isl fun e => { e with outq := e.outq.eraseIdx 0 }).hop isl m = some t) :
    s.sendControl isl = some t := by
  rw [State.sendControl, hq, List.zipIdx_cons]
  exact firstSome_cons_some (x := (m, 0)) h _

theorem chunkSend_control {t : State} (h : s.sendControl isl = some t) : exec (.chunkSend isl) s = .next t := by rw [exec_chunkSend, execChunkSend, h]

theorem chunkSend_here (hq : (s.eng isl).outq = m :: rest) (h : m.dfab = s.fabId) :
    ∃ u, exec (.chunkSend isl) s = .next u ∧ (u.eng isl).outq = rest ∧ (u.eng m.disl).inbox = (s.eng m.disl).inbox ++ [⟨m, none⟩] ∧ u = { s with engs := u.engs } := by
  refine ⟨_, chunkSend_control (State.sendControl_first hq (State.hop_here h)), ?_, ?_, rfl⟩
  · rw [State.eng_modEng]
    split
    case isTrue hself => rw [← hself, State.eng_modEng_same, hq]; rfl
    case isFalse => rw [State.eng_modEng_same, hq]; rfl
  · rw [State.eng_modEng_same, State.eng_modEng]
    split
    case isTrue hself => rw [hself]
    case isFalse => rfl

theorem chunkSend_by (hq : (s.eng isl).outq = m :: rest) (hne : m.dfab ≠ s.fabId) (hi : s.straitFor isl m.dfab = some i) (hmode : s.fld .strInjCtlMode i = 0) :
    ∃ u, exec (.chunkSend isl) s = .next u ∧ (u.eng isl).outq = rest ∧ u = { s with engs := u.engs, strs := u.strs } ∧
      Tbl.get noMsgs (u.str i).waiting (vcOf m (s.fld .strPeerFabricId i)) =
        Tbl.get noMsgs (s.str i).waiting (vcOf m (s.fld .strPeerFabricId i)) ++ [m] ++ Tbl.get noMsgs (s.str i).heldMsg (vcOf m (s.fld .strPeerFabricId i)) := by
  refine ⟨_, chunkSend_control (State.sendControl_first hq (State.hop_by hne hi hmode)), ?_, rfl, State.waiting_strQueue _ _ _ _⟩
  exact (congrArg Engine.outq (State.eng_modEng_same s isl fun e => { e with outq := e.outq.eraseIdx 0 })).trans (congrArg (List.eraseIdx · 0) hq)

end Leaving

/-! ### Saturations counted (R81, R83) -/

section Sats
variable (s : State) {isl ctx : Nat} (n : Nat)

theorem State.countSats_only (isl ctx : Nat) : s.countSats isl ctx n = { s with regs := (s.countSats isl ctx n).regs } := by
  unfold State.countSats
  split <;> rfl

/-- Counting saturations leaves the fields of every page that is neither the numerics page of an island nor a context's. -/
theorem State.fld_countSats (hisl : isl < 24) (hctx : ctx < 64) {f : Fld} {j : Nat} (hf : (f.cls < 64 ∧ f.off < 2 ^ 12) ∧ f.cls ≠ 0x13 ∧ f.cls ≠ 0x21) (hj : j < 24) :
    (s.countSats isl ctx n).fld f j = s.fld f j := by
  obtain ⟨⟨hcls, hoff⟩, hnum, hnumc⟩ := hf
  have hkey : ∀ (g : Fld) (a : Nat), (g.cls < 64 ∧ g.off < 2 ^ 12) → a < 64 → f.cls ≠ g.cls → f.key j 0 ≠ g.key a 0 := fun g a hg ha hne h =>
    hne (rkey_inj hcls (by omega) hoff hg.1 (by omega) hg.2 h).1
  unfold State.countSats
  split
  · rfl
  · rw [State.fld_bump_ne _ _ _ _ _ _ _ _ (by decide) (.inl (hkey _ ctx (by decide) hctx hnumc)), State.fld_bump_ne _ _ _ _ _ _ _ _ (by decide) (.inl (hkey _ isl (by decide) (by omega) hnum))]

end Sats

/-! ### A chunk that holds credit (R316, R317, R517) -/

/-- The message of a chunk of a collective. -/
def State.txMsg (s : State) (k : Coll) (t : Tx) (bs : List (BitVec 8)) : Msg :=
  { s.msgTo k t.isl 0 t.dfab t.dctx t.disl t.chunk t.lo t.log with attempt := t.attempt, again := t.copy != [], data := bs }.sealed

section Chunk
variable {s : State} {isl i n : Nat} {k : Coll} {t : Tx} {bs : List (BitVec 8)}

/-- A chunk as this module holds it after it left: its copy kept. -/
def Tx.sent (t : Tx) (bs : List (BitVec 8)) : Tx := { t with out := true, copy := bs }

/-- A chunk of a collective on its way by a strait, its copy kept. -/
def State.txGone (s : State) (k : Coll) (t : Tx) (i n : Nat) (bs : List (BitVec 8)) : State :=
  ((s.countSats t.isl k.ctx n).strQueue i (vcOf (s.txMsg k t bs) (s.fld .strPeerFabricId i)) (s.txMsg k t bs)).modColl k.num fun x => { x with tx := x.tx.map fun y => if y = t then t.sent bs else y }

theorem State.sendTx_leaves (hisl : t.isl < 24) (hctx : k.ctx < 64) (hcredit : t.credit = true) (hout : t.out = false) (hack : t.acked = false) (hcopy : t.copy = []) (hval : s.txVal k t = .ok bs n)
    (hne : t.dfab ≠ s.fabId) (hi : s.straitFor t.isl t.dfab = some i) (hmode : s.fld .strInjCtlMode i = 0) : s.sendTx k t = some (s.txGone k t i n bs) := by
  have hkept : ∀ (f : Fld) (j : Nat), ((f.cls < 64 ∧ f.off < 2 ^ 12) ∧ f.cls ≠ 0x13 ∧ f.cls ≠ 0x21) → j < 24 → (s.countSats t.isl k.ctx n).fld f j = s.fld f j :=
    fun f j hf hj => s.fld_countSats n hisl hctx hf hj
  have hlt := State.straitFor_lt hi
  have hpeer := hkept .strPeerFabricId i (by decide) hlt
  have hhop : (s.countSats t.isl k.ctx n).hop t.isl (s.txMsg k t bs) = some ((s.countSats t.isl k.ctx n).strQueue i (vcOf (s.txMsg k t bs) (s.fld .strPeerFabricId i)) (s.txMsg k t bs)) := by
    rw [← hpeer]
    refine State.hop_by (fun h => hne (h.trans (hkept .fabIdId 0 (by decide) (by decide)))) ?_ ((hkept .strInjCtlMode i (by decide) hlt).trans hmode)
    refine (State.straitFor_congr (by rw [State.countSats_only]) (fun j hj d => ?_) _ _).trans hi
    rw [State.upTo, State.upTo, hkept .strStatState j (by decide) hj, hkept .strPeerValid j (by decide) hj, hkept .strPeerFabricId j (by decide) hj]
  unfold State.sendTx
  rw [if_neg (by simp [hcredit, hout, hack]), if_pos hcopy, hval]
  exact congrArg (Option.map _) hhop

theorem State.sendable_single {u : State} (hcolls : s.colls = [k]) (htx : k.tx = [t]) (hisl : t.isl = isl) (hposts : (s.eng isl).posts = []) (h : s.sendTx k t = some u) :
    s.sendable isl = [(k.ctx, s.collClass k, k.len t.chunk, u)] := by
  simp [State.sendable, hcolls, htx, hisl, hposts, h]

theorem State.vpick_single (s : State) (pt c n : Nat) : s.vpick pt [(c, n)] = some c := by simp [State.vpick]

theorem State.vwaiting_only (s : State) (pt : Nat) (now : List Nat) : ∃ v w, s.vwaiting pt now = { s with vts := v, vwait := w } := by
  unfold State.vwaiting
  extract_lets old low s1
  have hfold : ∃ v, s1 = { s with vts := v } := List.foldlRecOn (motive := fun t : State => ∃ v, t = { s with vts := v }) _ _ ⟨s.vts, rfl⟩ fun t ht c _ => by
    obtain ⟨v, rfl⟩ := ht
    cases low with
    | none => exact ⟨v, rfl⟩
    | some x => exact ⟨_, rfl⟩
  clear_value s1
  obtain ⟨v, rfl⟩ := hfold
  exact ⟨v, _, rfl⟩

theorem State.vserve_only (s : State) (pt ctx cost : Nat) : s.vserve pt ctx cost = { s with vts := (s.vserve pt ctx cost).vts } := by
  unfold State.vserve
  dsimp only
  split <;> rfl

/-- An engine with nothing before it sends the one chunk its contexts have. -/
theorem chunkSend_single {s1 u u1 : State} {c p p1 len : Nat} (hcontrol : s.sendControl isl = none) (hrelay : s.sendRelay isl = none) (hturn : s.turn = none) (h : s.sendable isl = [(c, p, len, u)])
    (hwait : s.vwaiting (ptStrait isl) [c] = s1) (h1 : s1.sendable isl = [(c, p1, len, u1)]) : exec (.chunkSend isl) s = .next (u1.vserve (ptStrait isl) c len) := by
  have hpick : s1.vpick (ptStrait isl) [(c, p)] = some c := s1.vpick_single _ _ _
  have hnow : noDups [c] = [c] := by simp [noDups]
  have hturns : s.sendTurn isl = none := by rw [State.sendTurn, hturn]
  rw [exec_chunkSend, execChunkSend, hcontrol, hrelay, hturns, hturn, h]
  simp only [Option.any_none, Bool.false_eq_true, if_false, List.map_cons, List.map_nil, hnow, hwait, hpick, h1, List.find?_cons, beq_self_eq_true]

theorem chunkSend_chunk (hisl : isl < 24) (hctx : k.ctx < 64) (hq : (s.eng isl).outq = []) (hrelays : (s.eng isl).relays = []) (hposts : (s.eng isl).posts = []) (hturn : s.turn = none) (hcolls : s.colls = [k])
    (htx : k.tx = [t]) (ht : t.isl = isl) (hcredit : t.credit = true) (hout : t.out = false) (hack : t.acked = false) (hcopy : t.copy = [])
    (hval : ∀ v w, ({ s with vts := v, vwait := w } : State).txVal k t = .ok bs n) (hne : t.dfab ≠ s.fabId) (hi : s.straitFor isl t.dfab = some i) (hmode : s.fld .strInjCtlMode i = 0) :
    ∃ u m, exec (.chunkSend isl) s = .next u ∧ u.colls = [{ k with tx := [{ t with out := true, copy := bs }] }] ∧ m ∈ Tbl.get noMsgs (u.str i).waiting (vcOf m (s.fld .strPeerFabricId i)) ∧
      m.msg = 0 ∧ m.data = bs ∧ m.tag = k.tag ∧ m.chunk = t.chunk ∧ m.dfab = t.dfab ∧ m.attempt = t.attempt ∧ m.crc = m.sum ∧ u.hbm = s.hbm := by
  subst ht
  have hsend : ∀ v w, ({ s with vts := v, vwait := w } : State).sendable t.isl =
      [(k.ctx, ({ s with vts := v, vwait := w } : State).collClass k, k.len t.chunk, ({ s with vts := v, vwait := w } : State).txGone k t i n bs)] := fun v w =>
    State.sendable_single hcolls htx rfl hposts (State.sendTx_leaves hisl hctx hcredit hout hack hcopy (hval v w) hne hi hmode)
  obtain ⟨v, w, hwait⟩ := s.vwaiting_only (ptStrait t.isl) [k.ctx]
  have hexec := chunkSend_single (by rw [State.sendControl, hq]; rfl) (by rw [State.sendRelay, hrelays]; rfl) hturn (hsend s.vts s.vwait) hwait (hsend v w)
  generalize hgone : ({ s with vts := v, vwait := w } : State).txGone k t i n bs = g at hexec
  have hserved := g.vserve_only (ptStrait t.isl) k.ctx (k.len t.chunk)
  refine ⟨_, s.txMsg k t bs, hexec, ?_, ?_, rfl, rfl, rfl, rfl, rfl, rfl, rfl, ?_⟩ <;> rw [hserved, ← hgone]
  · show (({ s with vts := v, vwait := w } : State).countSats t.isl k.ctx n).colls.map _ = _
    rw [State.countSats_only]
    simp [hcolls, htx, Tx.sent]
  · exact (State.waiting_strQueue _ i _ _).symm ▸ List.mem_append_left _ (List.mem_append_right _ (List.mem_singleton_self _))
  · show (({ s with vts := v, vwait := w } : State).countSats t.isl k.ctx n).hbm = _
    rw [State.countSats_only]

end Chunk

end Sys2Proof.Machine
end

section
/-! PROOFS. What engines make of data chunks, credit, acknowledgements, nacks and timeouts, and of chunks for other modules (R316 to R320, R324). -/
namespace Sys2Proof.Machine

theorem OnlyWire.hbm {s u : State} (h : OnlyWire s u) : u.hbm = s.hbm := by
  unfold OnlyWire at h
  rw [h]

theorem OnlyWire.routes {s u : State} (h : OnlyWire s u) : u.routes = s.routes := by
  unfold OnlyWire at h
  rw [h]

/-! ### Data chunks with a wrong CRC (R318) -/

/-- Offsets of the registers in which a chunk whose CRC failed is captured. -/
def captOffs : List Nat := [0x060, 0x064, 0x068]

section Bad
variable (s : State) {isl : Nat} (m : Msg)

/-- What is captured of a chunk whose CRC failed. -/
def Msg.captures (m : Msg) : List (Fld × Nat) :=
  [(.colCrcCaptValid, 1), (.colCrcCaptCtx, m.dctx), (.colCrcCaptSrcFabric, m.sfab), (.colCrcCaptSrcIsland, m.sisl), (.colCrcTagLo, m.tag % 2 ^ 32), (.colCrcTagHiTag, m.tag / 2 ^ 32)]

/-- The capture of a chunk whose CRC failed, where none is held. -/
def State.captureChunk (s : State) (isl : Nat) (m : Msg) : State :=
  if s.fld .colCrcCaptValid isl = 1 then s else m.captures.foldl (fun t p => t.setFld p.1 p.2 isl) s

theorem State.badChunk_eq (s : State) (isl : Nat) (x : InMsg) : s.badChunk isl x = (((s.answer isl x 3).bump .colCrcFailCnt isl).captureChunk isl x.m).raise 0x17 isl 0 := rfl

theorem State.captureChunk_only (isl : Nat) : s.captureChunk isl m = { s with regs := (s.captureChunk isl m).regs } := by
  unfold State.captureChunk
  split
  · rfl
  · exact List.foldlRecOn (motive := fun t : State => t = { s with regs := t.regs }) _ _ rfl fun t ht p _ => by
      rw [State.setFld_only, ht]

theorem State.reg_captureChunk (isl : Nat) {k : Nat} (hk : k % 2 ^ 12 ∉ captOffs) : (s.captureChunk isl m).reg k = s.reg k := by
  have hoffs : ∀ p ∈ m.captures, p.1.off < 2 ^ 12 ∧ p.1.off ∈ captOffs := by simp [Msg.captures, captOffs]; decide
  unfold State.captureChunk
  split
  · rfl
  · exact List.foldlRecOn (motive := fun t : State => t.reg k = s.reg k) _ _ rfl fun t ht p hp =>
      (t.reg_setFld_of_off _ _ _ (hoffs p hp).1 fun hoff => hk (hoff ▸ (hoffs p hp).2)).trans ht

theorem State.captureChunk_valid (hisl : isl < 24) : (s.captureChunk isl m).fld .colCrcCaptValid isl = 1 := by
  unfold State.captureChunk
  split
  case isTrue h => exact h
  case isFalse =>
    rw [Msg.captures]
    dsimp only [List.foldl_cons, List.foldl_nil]
    rw [State.fld_setFld_apart _ (by decide) _ hisl hisl, State.fld_setFld_apart _ (by decide) _ hisl hisl, State.fld_setFld_apart _ (by decide) _ hisl hisl,
      State.fld_setFld_apart _ (by decide) _ hisl hisl, State.fld_setFld_apart _ (by decide) _ hisl hisl, State.fld_setFld_of_lt _ _ (by decide) (by decide)]

theorem State.captureChunk_ctx (hisl : isl < 24) (h : s.fld .colCrcCaptValid isl ≠ 1) : (s.captureChunk isl m).fld .colCrcCaptCtx isl = m.dctx % 64 := by
  unfold State.captureChunk
  rw [if_neg h, Msg.captures]
  dsimp only [List.foldl_cons, List.foldl_nil]
  rw [State.fld_setFld_apart _ (by decide) _ hisl hisl, State.fld_setFld_apart _ (by decide) _ hisl hisl, State.fld_setFld_apart _ (by decide) _ hisl hisl,
    State.fld_setFld_apart _ (by decide) _ hisl hisl, State.fld_setFld_same _ _ _ _ _ (by decide)]
  rfl

end Bad

section Data
variable {s s1 : State} {isl : Nat} {x : InMsg}

/-- An answer is queued at its engine and names the chunk. -/
theorem State.outq_answer (s : State) (isl : Nat) (x : InMsg) (kind : Nat) :
    ∃ y, ((s.answer isl x kind).eng isl).outq = (s.eng isl).outq ++ [y] ∧ y.msg = kind ∧ y.tag = x.m.tag ∧ y.chunk = x.m.chunk ∧ y.attempt = x.m.attempt :=
  ⟨_, congrArg Engine.outq (State.eng_control s isl _), rfl, rfl, rfl, rfl⟩

theorem dataChunkReceive_bad (hisl : isl < 24) (htake : s.takeMsg isl (fun m => m.msg == 0 && m.dfab == s.fabId) = some (x, s1)) (hcrc : x.m.crc ≠ x.m.sum) :
    ∃ u, exec (.dataChunkReceive isl) s = .next u ∧ u = { s1 with engs := u.engs, regs := u.regs, outbox := u.outbox } ∧ Counted s1 u .colCrcFailCnt isl ∧ Raised s1 u 0x17 isl 0 ∧
      u.fld .colCrcCaptValid isl = 1 ∧ (s1.fld .colCrcCaptValid isl ≠ 1 → u.fld .colCrcCaptCtx isl = x.m.dctx % 64) ∧
      ∃ y, (u.eng isl).outq = (s1.eng isl).outq ++ [y] ∧ y.msg = 3 ∧ y.tag = x.m.tag ∧ y.chunk = x.m.chunk ∧ y.attempt = x.m.attempt := by
  have hexec : exec (.dataChunkReceive isl) s = .next (s1.badChunk isl x) := by
    rw [exec_dataChunkReceive, execDataChunkReceive, htake]
    exact if_pos hcrc
  have hraise : ∀ (t : State) (f : Fld), (f.off < 2 ^ 12 ∧ f.off ≠ 0x010 ∧ f.off ≠ 0x078 ∧ f.off ≠ 0x07C) → (t.raise 0x17 isl 0).fld f isl = t.fld f isl := fun t f hf =>
    t.fld_raise_ne _ _ _ f isl 0 hf.1 hf.2.1 hf.2.2.1 hf.2.2.2
  have hsame : ∀ f, Fld.apart .colCrcFailCnt f = true → ((s1.answer isl x 3).bump .colCrcFailCnt isl).fld f isl = s1.fld f isl := fun f hf => State.fld_bump_apart _ hf hisl hisl
  refine ⟨_, hexec, ?_, ?_, ?_, ?_, fun hvalid => ?_, ?_⟩ <;> rw [State.badChunk_eq]
  · generalize hu : (((s1.answer isl x 3).bump .colCrcFailCnt isl).captureChunk isl x.m).raise 0x17 isl 0 = u
    rw [State.raise_only, State.captureChunk_only] at hu
    rw [← hu]
    rfl
  · rw [Counted, hraise _ _ (by decide), State.fld, State.reg_captureChunk _ _ _ (by rw [Fld.key, rkey_mod _ _ _ _ (by decide)]; decide)]
    exact State.counted_bump (s1.answer isl x 3) isl (by decide)
  · refine (State.raised_raise _ _ _ _).congr ?_ rfl
    have hoff : ∀ i, rkey 0x17 i evtEnable 0 % 2 ^ 12 = evtEnable := fun i => rkey_mod _ _ _ _ (by decide)
    rw [State.reg_captureChunk _ _ _ (by rw [hoff]; decide), State.reg_bump_of_off _ _ _ _ (by decide) (by rw [hoff]; decide)]
    rfl
  · rw [hraise _ _ (by decide)]
    exact State.captureChunk_valid _ _ hisl
  · rw [hraise _ _ (by decide)]
    exact State.captureChunk_ctx _ _ hisl (by rw [hsame _ (by decide)]; exact hvalid)
  · obtain ⟨y, hy⟩ := s1.outq_answer isl x 3
    refine ⟨y, ?_⟩
    rw [State.raise_only, State.captureChunk_only]
    exact hy

/-! ### Data chunks that are not expected (R318, R320) -/

/-- A sound chunk of a sender not reopened that no turn takes. -/
structure Sound (s s1 : State) (isl : Nat) (x : InMsg) : Prop where
  taken : s.takeMsg isl (fun m => m.msg == 0 && m.dfab == s.fabId) = some (x, s1)
  crc : x.m.crc = x.m.sum
  fresh : s1.stale isl x.m = false
  turn : s1.turn = none

theorem dataChunkReceive_unknown (h : Sound s s1 isl x) (hnone : s1.collAt isl x.m.dctx x.m.tag = none) :
    ∃ u, exec (.dataChunkReceive isl) s = .next u ∧ u = { s1 with engs := u.engs, regs := u.regs } ∧ Counted s1 u .colDupCnt isl ∧
      ∃ y, (u.eng isl).outq = (s1.eng isl).outq ++ [y] ∧ y.msg = 2 ∧ y.chunk = x.m.chunk := by
  have hexec : exec (.dataChunkReceive isl) s = .next ((s1.answer isl x 2).bump .colDupCnt isl) := by
    rw [exec_dataChunkReceive, execDataChunkReceive, h.taken]
    simp [h.crc, h.fresh, h.turn, hnone]
  obtain ⟨y, hy, hmsg, -, hchunk, -⟩ := s1.outq_answer isl x 2
  exact ⟨_, hexec, rfl, State.counted_bump (s1.answer isl x 2) isl (by decide), y, hy, hmsg, hchunk⟩

theorem dataChunkReceive_open {k : Coll} (h : Sound s s1 isl x) (hk : s1.collAt isl x.m.dctx x.m.tag = some k) : exec (.dataChunkReceive isl) s = .next (s1.acceptChunk isl k x) := by
  rw [exec_dataChunkReceive, execDataChunkReceive, h.taken]
  simp [h.crc, h.fresh, h.turn, hk]

end Data

/-! ### Landing (R312, R320, R322) -/

section Values
variable {α : Type} [DecidableEq α] {d : Nat → α} {f : Nat → α → α}

theorem Tbl.get_mapVals_cons (j : Nat) (v : α) (t : Tbl α) (k : Nat) :
    Tbl.get d (Tbl.mapVals d f ((j, v) :: t)) k = if j = k ∧ f j v ≠ d j then f j v else Tbl.get d (Tbl.mapVals d f t) k := by
  unfold Tbl.mapVals
  rw [List.map_cons, List.filter_cons]
  by_cases hd : f j v = d j
  · rw [if_neg (by simpa using hd), if_neg (by simp [hd])]
  · rw [if_pos (by simpa using hd), Tbl.get]
    by_cases hj : j = k <;> simp [hj, hd]
    simp [← hj, hd]

theorem Tbl.get_mapVals_unlisted {t : Tbl α} {k : Nat} (hk : ∀ w, (k, w) ∉ t) : Tbl.get d (Tbl.mapVals d f t) k = d k := by
  induction t with
  | nil => rfl
  | cons e t ih =>
    obtain ⟨j, v⟩ := e
    have hj : ¬ (j = k ∧ f j v ≠ d j) := fun h => hk v (h.1 ▸ List.mem_cons_self)
    rw [Tbl.get_mapVals_cons, if_neg hj, ih fun w hw => hk w (List.mem_cons_of_mem _ hw)]

theorem Tbl.get_mapVals_insert {t : Tbl α} {k : Nat} (v : α) (hk : ∀ w, (k, w) ∉ t) : Tbl.get d (Tbl.mapVals d f (Tbl.insert t k v)) k = f k v := by
  have hfirst : ∀ t : Tbl α, (∀ w, (k, w) ∉ t) → Tbl.get d (Tbl.mapVals d f ((k, v) :: t)) k = f k v := fun t hk => by
    rw [Tbl.get_mapVals_cons]
    split
    case isTrue => rfl
    case isFalse h => rw [Tbl.get_mapVals_unlisted hk, not_and_not_right.1 h rfl]
  induction t with
  | nil => exact hfirst [] hk
  | cons e t ih =>
    obtain ⟨j, w⟩ := e
    rw [Tbl.insert]
    split
    · exact hfirst _ hk
    · have hj : ¬ (j = k ∧ f j w ≠ d j) := fun h => hk w (h.1 ▸ List.mem_cons_self)
      rw [Tbl.get_mapVals_cons, if_neg hj, ih fun y hy => hk y (List.mem_cons_of_mem _ hy)]

/-- Values mapped in a table read, at a key just set, as the value mapped. -/
theorem Tbl.get_mapVals_set {k : Nat} (hd : f k (d k) = d k) (t : Tbl α) (v : α) : Tbl.get d (Tbl.mapVals d f (Tbl.set d t k v)) k = f k v := by
  have hnone := fun w => Tbl.not_mem_erase (t := t) k w
  unfold Tbl.set
  split
  case isTrue h => rw [Tbl.get_mapVals_unlisted hnone, h, hd]
  case isFalse => exact Tbl.get_mapVals_insert v hnone

end Values

section Lands
variable {s t : State} {k : Coll} {isl chunk off : Nat} {bs : List (BitVec 8)}

/-- A chunk noted as landed by an engine, and its notification counted (R320). -/
def State.noteLanded (s : State) (k : Coll) (isl chunk : Nat) : State := (s.modColl k.num fun x => { x with landed := x.landed ++ [chunk] }).notify k isl

theorem State.notify_only (s : State) (k : Coll) (isl : Nat) : s.notify k isl = { s with notifs := (s.notify k isl).notifs, cays := (s.notify k isl).cays } := by
  unfold State.notify
  split <;> rfl

theorem State.noteLanded_colls (s : State) (k : Coll) (isl chunk : Nat) :
    (s.noteLanded k isl chunk).colls = (s.modColl k.num fun x => { x with landed := x.landed ++ [chunk] }).colls := by
  rw [State.noteLanded, State.notify_only]

theorem State.noteLanded_hbm (s : State) (k : Coll) (isl chunk : Nat) : (s.noteLanded k isl chunk).hbm = s.hbm := by
  rw [State.noteLanded, State.notify_only]
  rfl

/-- Landing noted leaves the local store of a cay just set. -/
theorem State.noteLanded_ls (s : State) (r : CayRef) (y : Cay) (k : Coll) (isl chunk : Nat) : (((s.setCay r y).noteLanded k isl chunk).cay r).ls = y.ls := by
  unfold State.noteLanded State.notify
  split
  · exact congrArg Cay.ls (s.cay_setCay_same r y)
  · have hwoken := fun p : Wait → Bool => Tbl.get_mapVals_set (d := cayDef) (f := fun (j : Nat) (c : Cay) => if j / 320 = isl then c.wakeIf fun _ w => p w else c) (k := cayKey r) (by
      split
      · exact Cay.wakeIf_reset _
      · rfl) s.cays y
    refine (congrArg Cay.ls (hwoken _)).trans ?_
    split
    · exact (Cay.Held.wakeIf _ _).ls
    · rfl

theorem State.land_store (hls : k.dstLs = true) :
    s.land k isl chunk off bs = .ok ((s.setCay ⟨isl, k.dstCay⟩ ((s.cay ⟨isl, k.dstCay⟩).lsWrite (k.dst + off) bs)).noteLanded k isl chunk) := if_pos hls

/-- What lands is noted on a state with the collectives there were. -/
theorem State.land_noted (h : s.land k isl chunk off bs = .ok t) : ∃ w : State, w.colls = s.colls ∧ t = w.noteLanded k isl chunk := by
  by_cases hls : k.dstLs = true
  · rw [State.land_store hls] at h
    exact ⟨s.setCay _ _, rfl, (Except.ok.inj h).symm⟩
  · unfold State.land at h
    rw [if_neg hls] at h
    split at h
    · exact absurd h (by simp)
    · exact ⟨_, (Aside.devWrite s _ _ _).colls, (Except.ok.inj h).symm⟩

/-- What lands lets messages be queued only. -/
theorem Speaks.land (h : s.land k isl chunk off bs = .ok t) : Speaks s t := by
  have hruns := CollRuns.land s k isl chunk off bs
  rw [h] at hruns
  exact hruns.toSpeaks

end Lands

section Accept
variable {s s1 : State} {isl : Nat} {x : InMsg} {k : Coll} {r : Rx}

/-- A chunk expected, acknowledged and marked. -/
def State.tookChunk (s : State) (isl : Nat) (k : Coll) (x : InMsg) (r : Rx) : State :=
  (s.answer isl x 2).modColl k.num fun y => { y with rx := y.rx.map fun z => if z = r then { z with got := true } else z }

/-- `r` is what a collective that does not combine expects, and the chunk is that. -/
structure Expects (isl : Nat) (k : Coll) (r : Rx) (m : Msg) : Prop where
  rx : k.rx = [r]
  isl : r.isl = isl
  chunk : r.chunk = m.chunk
  lo : r.lo = m.lo
  log : r.log = m.log
  sfab : r.sfab = m.sfab
  got : r.got = false
  whole : k.reduces = false

theorem State.acceptChunk_lands {t : State} (h : Expects isl k r x.m) (hland : (s.tookChunk isl k x r).land k isl x.m.chunk (k.landAt x.m.chunk x.m.data.length) x.m.data = .ok t) :
    s.acceptChunk isl k x = t := by
  have hit : (r.chunk == x.m.chunk && ((r.isl == isl && r.lo == x.m.lo && r.log == x.m.log && r.sfab == x.m.sfab) || r.isl == 24)) = true := by
    simp [h.isl, h.chunk, h.lo, h.log, h.sfab]
  unfold State.acceptChunk
  dsimp only
  rw [h.rx, List.find?_cons, hit]
  dsimp only
  rw [if_neg (by simp [h.got]), if_neg (by simp [h.whole])]
  unfold State.tookChunk at hland
  rw [hland]

theorem dataChunkReceive_lands {t : State} (hsound : Sound s s1 isl x) (hk : s1.collAt isl x.m.dctx x.m.tag = some k) (h : Expects isl k r x.m)
    (hland : (s1.tookChunk isl k x r).land k isl x.m.chunk (k.landAt x.m.chunk x.m.data.length) x.m.data = .ok t) :
    ∃ u k', exec (.dataChunkReceive isl) s = .next u ∧ k' ∈ u.colls ∧ k' = { k with rx := [{ r with got := true }], landed := k.landed ++ [x.m.chunk] } ∧
      (∃ y ∈ (u.eng isl).outq, y.msg = 2 ∧ y.chunk = x.m.chunk ∧ y.tag = x.m.tag) ∧
      (k.dstLs = true → (u.cay ⟨isl, k.dstCay⟩).ls = Memory.writeN (s1.cay ⟨isl, k.dstCay⟩).ls (k.dst + k.landAt x.m.chunk x.m.data.length) x.m.data ∧ u.hbm = s.hbm) := by
  have hcolls : k ∈ s1.colls := List.mem_of_find?_eq_some hk
  refine ⟨t, _, by rw [dataChunkReceive_open hsound hk, State.acceptChunk_lands h hland], ?_, rfl, ?_, fun hls => ?_⟩
  · obtain ⟨w, hw, rfl⟩ := State.land_noted hland
    have hmarked : { k with rx := [{ r with got := true }] } ∈ w.colls := by
      rw [hw]
      refine (?_ : _ = { k with rx := [{ r with got := true }] }) ▸ mem_modColl (s := s1.answer isl x 2) hcolls _
      rw [h.rx, List.map_singleton, if_pos rfl]
    rw [State.noteLanded_colls]
    exact mem_modColl hmarked fun x' => { x' with landed := x'.landed ++ [x.m.chunk] }
  · obtain ⟨y, hy, hmsg, htag, hchunk, -⟩ := s1.outq_answer isl x 2
    refine ⟨y, (Speaks.land hland).mem ?_, hmsg, hchunk, htag⟩
    show y ∈ ((s1.answer isl x 2).eng isl).outq
    rw [hy]
    exact List.mem_append_right _ (List.mem_singleton_self _)
  · rw [State.land_store hls] at hland
    obtain rfl := Except.ok.inj hland
    exact ⟨State.noteLanded_ls _ _ _ _ _ _, (State.noteLanded_hbm _ _ _ _).trans (State.takeMsg_only hsound.taken).hbm⟩

end Accept

/-! ### Credit and answers (R316, R318) -/

section Sent
variable {s s1 : State} {isl : Nat} {m : Msg} {k : Coll} {t : Tx}

theorem State.sentTx_found {p : Coll → Tx → Bool} (h : s.sentTx isl m p = some (k, t)) : k ∈ s.colls ∧ t ∈ k.tx := by
  unfold State.sentTx at h
  generalize s.colls = ks at h ⊢
  induction ks with
  | nil => exact absurd h (by simp [firstSome])
  | cons k' ks ih =>
    rw [firstSome] at h
    split at h
    case h_1 y hy =>
      obtain rfl := Option.some.inj h
      split at hy
      · obtain ⟨t', ht', hpair⟩ := Option.map_eq_some_iff.1 hy
        obtain ⟨rfl, rfl⟩ := Prod.mk.inj hpair
        exact ⟨List.mem_cons_self, List.mem_of_find?_eq_some ht'⟩
      · exact absurd hy (by simp)
    case h_2 =>
      obtain ⟨hk, ht⟩ := ih h
      exact ⟨List.mem_cons_of_mem _ hk, ht⟩

/-- One chunk sent is changed in its collective. -/
theorem State.modTx_mem (hk : k ∈ s.colls) (ht : t ∈ k.tx) (t1 : Tx) : ∃ k' ∈ (s.modTx k.num t t1).colls, k'.num = k.num ∧ t1 ∈ k'.tx :=
  ⟨_, mem_modColl hk fun x => { x with tx := x.tx.map fun y => if y = t then t1 else y }, rfl, List.mem_map.2 ⟨t, ht, if_pos rfl⟩⟩

theorem creditReceive_used (htake : s.takeKind isl 1 = some (m, s1)) (h : s1.sentTx isl m (fun k _ => k.ctx == m.dctx) = some (k, t)) :
    ∃ u k', exec (.creditReceive isl) s = .next u ∧ u = { s1 with colls := u.colls } ∧ k' ∈ u.colls ∧ k'.num = k.num ∧ { t with credit := true } ∈ k'.tx := by
  obtain ⟨hk, ht⟩ := State.sentTx_found h
  obtain ⟨k', hk', hnum, ht'⟩ := State.modTx_mem hk ht { t with credit := true }
  exact ⟨_, k', by rw [exec_creditReceive, execCreditReceive, htake]; simp only [h], rfl, hk', hnum, ht'⟩

/-- What credit for no open collective and no post meets. -/
theorem creditReceive_spare (htake : s.takeKind isl 1 = some (m, s1)) (hsent : s1.sentTx isl m (fun k _ => k.ctx == m.dctx) = none) (hposts : (s1.eng isl).posts = [])
    (hnone : s1.collAt isl m.dctx m.tag = none) :
    exec (.creditReceive isl) s = .next (if (s1.eng isl).early.length < 256 then s1.modEng isl fun e => { e with early := e.early ++ [m] }
      else (s1.control isl { m with dfab := m.sfab, disl := m.sisl, sfab := m.dfab, sisl := m.disl, msg := 4 }).bump .colNotopenCnt isl) := by
  rw [exec_creditReceive, execCreditReceive, htake]
  simp only [hsent, hposts, List.findIdx?_nil, hnone, Option.isSome_none, Bool.false_eq_true, if_false]
  split <;> rfl

theorem creditReceive_early (htake : s.takeKind isl 1 = some (m, s1)) (hsent : s1.sentTx isl m (fun k _ => k.ctx == m.dctx) = none) (hposts : (s1.eng isl).posts = [])
    (hnone : s1.collAt isl m.dctx m.tag = none) (hroom : (s1.eng isl).early.length < 256) :
    ∃ u, exec (.creditReceive isl) s = .next u ∧ (u.eng isl).early = (s1.eng isl).early ++ [m] ∧ u = { s1 with engs := u.engs } :=
  ⟨_, (creditReceive_spare htake hsent hposts hnone).trans (congrArg _ (if_pos hroom)), congrArg Engine.early (State.eng_modEng_same s1 isl _), rfl⟩

theorem creditReceive_refused (htake : s.takeKind isl 1 = some (m, s1)) (hsent : s1.sentTx isl m (fun k _ => k.ctx == m.dctx) = none) (hposts : (s1.eng isl).posts = [])
    (hnone : s1.collAt isl m.dctx m.tag = none) (hfull : 256 ≤ (s1.eng isl).early.length) :
    ∃ u y, exec (.creditReceive isl) s = .next u ∧ (u.eng isl).outq = (s1.eng isl).outq ++ [y] ∧ y.msg = 4 ∧ y.dfab = m.sfab ∧ y.chunk = m.chunk ∧ Counted s1 u .colNotopenCnt isl :=
  ⟨_, _, (creditReceive_spare htake hsent hposts hnone).trans (congrArg _ (if_neg (by omega))), congrArg Engine.outq (State.eng_control s1 isl _), rfl, rfl, rfl,
    State.counted_bump (s1.control isl _) isl (by decide)⟩

theorem ackReceive_releases (htake : s.takeKind isl 2 = some (m, s1)) (h : s1.sentTx isl m (fun _ t => t.out && t.dctx == m.dctx) = some (k, t)) :
    ∃ u k', exec (.ackReceive isl) s = .next u ∧ u = { s1 with colls := u.colls } ∧ k' ∈ u.colls ∧ k'.num = k.num ∧ { t with acked := true, out := false, copy := [] } ∈ k'.tx := by
  obtain ⟨hk, ht⟩ := State.sentTx_found h
  obtain ⟨k', hk', hnum, ht'⟩ := State.modTx_mem hk ht { t with acked := true, out := false, copy := [] }
  exact ⟨_, k', by rw [exec_ackReceive, execAckReceive, htake]; simp only [h], rfl, hk', hnum, ht'⟩

theorem nackReceive_sent (htake : s.takeKind isl 3 = some (m, s1)) (h : s1.sentTx isl m (fun _ t => t.out && t.dctx == m.dctx) = some (k, t)) :
    exec (.nackReceive isl) s = .next (if 8 ≤ t.attempt then (s1.raise 0x17 isl 2).abortColl k 2
      else (s1.modTx k.num t { t with attempt := t.attempt + 1, out := false }).bump .colReplayCnt isl) := by
  rw [exec_nackReceive, execNackReceive, htake]
  simp only [h]

theorem nackReceive_again (htake : s.takeKind isl 3 = some (m, s1)) (h : s1.sentTx isl m (fun _ t => t.out && t.dctx == m.dctx) = some (k, t)) (hfew : t.attempt < 8) :
    ∃ u k', exec (.nackReceive isl) s = .next u ∧ u = { s1 with colls := u.colls, regs := u.regs } ∧ k' ∈ u.colls ∧ k'.num = k.num ∧
      { t with attempt := t.attempt + 1, out := false } ∈ k'.tx ∧ Counted s1 u .colReplayCnt isl := by
  obtain ⟨hk, ht⟩ := State.sentTx_found h
  obtain ⟨k', hk', hnum, ht'⟩ := State.modTx_mem hk ht { t with attempt := t.attempt + 1, out := false }
  exact ⟨_, k', (nackReceive_sent htake h).trans (congrArg _ (if_neg (by omega))), rfl, hk', hnum, ht', State.counted_bump (s1.modTx k.num t _) isl (by decide)⟩

theorem nackReceive_limit (htake : s.takeKind isl 3 = some (m, s1)) (h : s1.sentTx isl m (fun _ t => t.out && t.dctx == m.dctx) = some (k, t)) (hmany : 8 ≤ t.attempt) :
    ∃ u, exec (.nackReceive isl) s = .next u ∧ (∀ x ∈ u.colls, x.num ≠ k.num) ∧ Raised s1 u 0x17 isl 2 ∧ ∀ q n e, k.owner = .record q n → s1.entry k.ctx q n = some e → e.done = false →
      e.point = none → Outcome u k.ctx q n St.collAborted (2 * 2 ^ 28 + s1.fabId) := by
  have haborted := Aborted.abortColl (s1.raise 0x17 isl 2) (k := k) 2
  rw [(Aside.raise s1 _ _ _).fabId] at haborted
  refine ⟨_, (nackReceive_sent htake h).trans (congrArg _ (if_pos hmany)), haborted.gone, haborted.marks _ _ _ _ (State.raised_raise _ _ _ _), fun q n e howner he => ?_⟩
  exact haborted.outcome q n e howner ((State.entry_congr (Aside.raise s1 _ _ _).entries _ _ _).trans he)

end Sent

/-! ### Timeouts and relays (R319, R324) -/

theorem chunkAckTimeout_again (s : State) (isl ctx tag chunk lo log dfab : Nat) :
    ∃ u, exec (.chunkAckTimeout isl ctx tag chunk lo log dfab) s = .next u ∧ u = { s with colls := u.colls, turn := u.turn, engs := u.engs } ∧
      (∀ k ∈ u.colls, k.ctx = ctx → k.tag = tag → ∀ t ∈ k.tx, t.isl = isl → t.chunk = chunk → t.lo = lo → t.log = log → t.dfab = dfab → t.out = false) ∧
      u.colls.map (fun k => k.tx.map fun t => (t.chunk, t.attempt, t.acked, t.copy)) = s.colls.map fun k => k.tx.map fun t => (t.chunk, t.attempt, t.acked, t.copy) := by
  refine ⟨_, by rw [exec_chunkAckTimeout, execChunkAckTimeout], rfl, fun k hk hctx htag t ht hisl hchunk hlo hlog hfab => ?_, ?_⟩
  · obtain ⟨k', -, rfl⟩ := List.mem_map.1 hk
    split at ht
    case isTrue =>
      obtain ⟨t', -, rfl⟩ := List.mem_map.1 ht
      split
      case isTrue => rfl
      case isFalse hnot =>
        rw [if_neg hnot] at hisl hchunk hlo hlog hfab
        exact absurd ⟨hisl, hchunk, hlo, hlog, hfab⟩ hnot
    case isFalse hother =>
      rw [if_neg hother] at hctx htag
      exact absurd ⟨hctx, htag⟩ hother
  · refine (List.map_map ..).trans (List.map_congr_left fun k _ => ?_)
    rw [Function.comp_apply]
    split
    · rw [List.map_map]
      refine List.map_congr_left fun t _ => ?_
      rw [Function.comp_apply]
      split <;> rfl
    · rfl

theorem chunkRelay_kept {s s1 : State} {isl : Nat} {x : InMsg} (htake : s.takeMsg isl (fun m => m.dfab != s.fabId) = some (x, s1)) (hmsg : x.m.msg = 0) (hroute : routeKind (s.route x.m.dfab) = 1)
    (hcrc : x.m.crc = x.m.sum) (hroom : (s.eng isl).relayed + x.m.data.length ≤ 2 ^ 21) :
    ∃ u y, exec (.chunkRelay isl) s = .next u ∧ u = { s1 with engs := u.engs, regs := u.regs } ∧ (u.eng isl).relays = (s1.eng isl).relays ++ [⟨x.m, false⟩] ∧
      (u.eng isl).outq = (s1.eng isl).outq ++ [y] ∧ y.msg = 2 ∧ y.chunk = x.m.chunk ∧ Counted s1 u .colRelayCnt isl := by
  obtain ⟨hfind, honly⟩ := State.takeMsg_found htake
  have hroutes : s1.routes = s.routes := honly.routes
  have hroute1 : routeKind (s1.route x.m.dfab) = 1 := by rw [State.route, hroutes]; exact hroute
  have hexec : exec (.chunkRelay isl) s = .next (((s1.answer isl x 2).bump .colRelayCnt isl).modEng isl fun e => { e with relays := e.relays ++ [⟨x.m, false⟩] }) := by
    rw [exec_chunkRelay, execChunkRelay, hfind]
    dsimp only
    rw [if_neg (by omega), htake]
    dsimp only
    rw [if_neg (by simp [hcrc]), if_neg (by simp [hroute1]), if_neg (by simp [hmsg])]
  obtain ⟨y, hy, hy2, -, hchunk, -⟩ := s1.outq_answer isl x 2
  refine ⟨_, y, hexec, rfl, ?_, ?_, hy2, hchunk, State.counted_bump (s1.answer isl x 2) isl (by decide)⟩
  · rw [State.eng_modEng_same]
    exact congrArg (· ++ _) (congrArg Engine.relays (State.eng_control s1 isl _) :)
  · rw [State.eng_modEng_same]
    exact hy

/-- Settles O36: what the engine's step does in each case, by what it takes or sends. -/
theorem Engines.chunks : Obligations.Chunks := by
  refine ⟨fun s isl m rest hq => ⟨chunkSend_here hq, fun i => chunkSend_by hq⟩, fun s isl i sat k t bs => chunkSend_chunk,
    fun s s1 isl x hisl htake => ⟨dataChunkReceive_bad hisl htake, fun k r t hcrc hfresh hturn hk hrx hri hchunk hlo hlog hsfab hgot hwhole hland => ?_, fun hcrc hfresh hturn hnone => ?_⟩,
    fun s s1 isl m hisl htake => ⟨fun k t => creditReceive_used htake, fun hsent hposts hnone => ⟨creditReceive_early htake hsent hposts hnone, creditReceive_refused htake hsent hposts hnone⟩⟩,
    fun s s1 isl m k t => ackReceive_releases, fun s s1 isl m k t _ htake h => ⟨nackReceive_again htake h, nackReceive_limit htake h⟩, chunkAckTimeout_again, fun s s1 isl x _ => chunkRelay_kept⟩
  · exact dataChunkReceive_lands ⟨htake, hcrc, hfresh, hturn⟩ hk ⟨hrx, hri, hchunk, hlo, hlog, hsfab, hgot, hwhole⟩ hland
  · exact dataChunkReceive_unknown ⟨htake, hcrc, hfresh, hturn⟩ hnone

end Sys2Proof.Machine
end

section
/-! PROOFS. Ballots and seals: votes, decisions, their application, and voters who ask (R338 to R340). -/
namespace Sys2Proof.Machine

/-! ### The ballot of a seal -/

section Ballots
variable {s u : State} {c i st : Nat} {g : TGroup} {x : Seal} {b : Ballot}

theorem State.topic_named (hg : s.tgroup c i = some g) (hx : g.sealRun = some x) : g.topic = some (x, .sealOf c i x.step) := by
  obtain ⟨rfl, rfl⟩ := State.tgroup_named hg
  rw [TGroup.topic, hx, Option.map_some]

theorem State.ballot_of (hg : s.tgroup c i = some g) (hx : g.sealRun = some x) : s.ballot (.sealOf c i x.step) = some x.ballot := by simp [State.ballot, hg, hx]

theorem State.ballot_held (h : s.ballot (.sealOf c i st) = some b) : ∃ g x, s.tgroup c i = some g ∧ g.sealRun = some x ∧ x.step = st := by
  simp only [State.ballot, Option.bind_eq_some_iff] at h
  obtain ⟨x, ⟨g, hg, hx⟩, hb⟩ := h
  split at hb
  case isTrue hstep => exact ⟨g, x, hg, hx, hstep⟩
  case isFalse => exact absurd hb (by simp)

theorem State.ballot_congr (h : u.tgs = s.tgs) (c i st : Nat) : u.ballot (.sealOf c i st) = s.ballot (.sealOf c i st) := by
  simp only [State.ballot, State.tgroup_congr h]

theorem State.ballot_setBallot (h : s.ballot (.sealOf c i st) = some b) (b' : Ballot) : (s.setBallot (.sealOf c i st) b').ballot (.sealOf c i st) = some b' := by
  obtain ⟨g, x, hg, hx, rfl⟩ := State.ballot_held h
  have hset : (s.setBallot (.sealOf c i x.step) b').tgroup c i = some { g with sealRun := some { x with ballot := b' } } :=
    (State.tgroup_modTg_same (f := fun y => { y with sealRun := y.sealRun.map fun z => { z with ballot := b' } }) (fun _ => ⟨rfl, rfl⟩) hg).trans (by rw [hx]; rfl)
  exact State.ballot_of hset rfl

/-- Messages that enter a seal's ballot leave all but engines, straits and training groups. -/
theorem State.takeBallots_only (s : State) (c i st : Nat) : ∃ tgs, OnlyWire { s with tgs := tgs } (s.takeBallots (.sealOf c i st)) := by
  unfold State.takeBallots
  split
  case h_1 r me b _ _ =>
    extract_lets mine ms s1
    have hwire : OnlyWire s s1 := OnlyWire.trans (rfl : OnlyWire s (s.modEng me.isl _)) (.foldl (fun t (x : InMsg) => .freeVia t x.via) _ _)
    clear_value s1
    refine ⟨(s1.setBallot (.sealOf c i st) (ms.foldl (fun c x => c.take (r == 0) x.m) b)).tgs, ?_⟩
    unfold OnlyWire at *
    rw [hwire]
    rfl
  case h_2 => exact ⟨s.tgs, rfl⟩

/-- What a seal's ballot takes leaves records, registers and the time. -/
theorem State.takeBallots_kept (s : State) (c i st : Nat) :
    (s.takeBallots (.sealOf c i st)).entries = s.entries ∧ (s.takeBallots (.sealOf c i st)).regs = s.regs ∧ (s.takeBallots (.sealOf c i st)).ptime = s.ptime := by
  obtain ⟨tgs, h⟩ := s.takeBallots_only c i st
  unfold OnlyWire at h
  rw [h]
  exact ⟨rfl, rfl, rfl⟩

/-- Each other voter has its message queued. -/
theorem voters_told {ms : List TgMem} {m : TgMem} {fab : Nat} (hm : m ∈ ms) (hne : m.fab ≠ fab) (s : State) (c i st isl kind val rank : Nat) :
    ∃ y ∈ (((ms.filter fun m => m.fab != fab).foldl (fun u m => u.control isl (u.ballotMsg (.sealOf c i st) isl m kind val rank)) s).eng isl).outq,
      y.msg = kind ∧ y.dfab = m.fab ∧ y.dctx = m.ctx ∧ y.chunk = st ∧ y.log = val ∧ y.epoch = rank := by
  obtain ⟨t, -, htold⟩ := tell_told (isl := isl) (msg := fun u m => u.ballotMsg (.sealOf c i st) isl m kind val rank) (List.mem_filter.2 ⟨hm, by simpa using hne⟩ : m ∈ ms.filter fun m => m.fab != fab) s
  exact ⟨_, htold, rfl, rfl, rfl, rfl, rfl, rfl⟩

end Ballots

/-! ### Votes (R338) -/

section Votes
variable {s : State} {c i st r : Nat} {g : TGroup} {x : Seal} {me : TgMem} {b : Ballot} {t : Topic}

theorem Ballot.take_kept (b : Ballot) (rank0 : Bool) (m : Msg) : (b.take rank0 m).vote = b.vote ∧ (b.take rank0 m).asked = b.asked := by
  unfold Ballot.take
  dsimp only
  split <;> exact ⟨rfl, rfl⟩

/-- The first vote rank 0 takes. -/
theorem Ballot.take_first {m : Msg} (hmsg : m.msg ≠ 8) (h : b.votes = []) : (b.take true m).votes = [(m.epoch, m.log == 1)] := by
  unfold Ballot.take
  dsimp only
  rw [if_neg hmsg]
  simp [h]

/-- A module with a rank has a voter of rank 0. -/
theorem State.voters_head (h : s.voterRank t = some (r, me)) : ∃ zero, (s.voters t).head? = some zero := by
  unfold State.voterRank at h
  split at h
  · exact absurd h (by simp)
  · obtain ⟨m, hm, -⟩ := Option.map_eq_some_iff.1 h
    cases hv : s.voters t with
    | nil => rw [hv] at hm; exact absurd hm (by simp)
    | cons z zs => exact ⟨z, rfl⟩

/-- The value of a vote in its message (log entry 33). -/
def voteVal (commit timeout : Bool) : Nat := if commit then 1 else if timeout then 3 else 0

theorem voteVal_commit (v late : Bool) : (voteVal v late == 1) = v := by cases v <;> cases late <;> rfl

/-- A vote not cast before is kept at rank 0, and sent to it elsewhere. -/
theorem State.castVote_new (hr : s.voterRank t = some (r, me)) (hb : s.ballot t = some b) (hvote : b.vote = none) (v late : Bool) :
    ∃ zero, s.castVote t v late =
      if r = 0 then s.setBallot t (({ b with vote := some v, asked := s.ptime } : Ballot).take true (s.ballotMsg t me.isl zero 7 (voteVal v late) r))
      else (s.setBallot t { b with vote := some v, asked := s.ptime }).control me.isl (s.ballotMsg t me.isl zero 7 (voteVal v late) r) := by
  obtain ⟨zero, hzero⟩ := State.voters_head hr
  refine ⟨zero, ?_⟩
  rw [State.castVote, hr, hb, hzero]
  exact if_neg (by simp [hvote])

theorem sealVote_casts {v late : Bool} (hg : s.tgroup c i = some g) (hx : g.sealRun = some x) (hvote : x.ballot.vote = none) (hcan : s.sealVote g x = some (v, late))
    (hr : s.voterRank (.sealOf c i x.step) = some (r, me)) :
    ∃ u b, exec (.sealVote c i) s = .next u ∧ u.ballot (.sealOf c i x.step) = some b ∧ b.vote = some v ∧ b.asked = s.ptime ∧
      (r = 0 → u.engs = s.engs ∧ (x.ballot.votes = [] → b.votes = [(0, v)])) ∧
      (r ≠ 0 → ∃ m, (u.eng me.isl).outq = (s.eng me.isl).outq ++ [m] ∧ m.msg = 7 ∧ m.log = (if v then 1 else if late then 3 else 0) ∧ m.epoch = r ∧ m.tag = i ∧ m.chunk = x.step) := by
  have hexec : exec (.sealVote c i) s = .next (s.castVote (.sealOf c i x.step) v late) := by
    rw [exec_sealVote, execSealVote, hg]
    simp only [State.topic_named hg hx, hcan]
  have hb := State.ballot_of hg hx
  obtain ⟨zero, hcast⟩ := State.castVote_new hr hb hvote v late
  rw [hcast] at hexec
  by_cases hzero : r = 0
  · rw [if_pos hzero] at hexec
    obtain ⟨hkept, hasked⟩ := Ballot.take_kept { x.ballot with vote := some v, asked := s.ptime } true (s.ballotMsg (.sealOf c i x.step) me.isl zero 7 (voteVal v late) r)
    refine ⟨_, _, hexec, State.ballot_setBallot hb _, hkept, hasked, fun _ => ⟨rfl, fun hempty => ?_⟩, fun h => absurd hzero h⟩
    have hmsg : (s.ballotMsg (.sealOf c i x.step) me.isl zero 7 (voteVal v late) r).msg ≠ 8 := by
      show 7 ≠ 8
      decide
    exact (Ballot.take_first (b := { x.ballot with vote := some v, asked := s.ptime }) hmsg hempty).trans (congrArg (fun p => [p]) (Prod.ext hzero (voteVal_commit v late)))
  · rw [if_neg hzero] at hexec
    refine ⟨_, { x.ballot with vote := some v, asked := s.ptime }, hexec, ?_, rfl, rfl, fun h => absurd h hzero, fun _ => ⟨_, congrArg Engine.outq (State.eng_control _ _ _), rfl, rfl, rfl, rfl, rfl⟩⟩
    exact (State.ballot_congr rfl _ _ _).trans (State.ballot_setBallot hb _)

end Votes

/-! ### Decisions (R339) -/

section Decides
variable {s s0 : State} {c i : Nat} {g : TGroup} {x : Seal} {me : TgMem} {b : Ballot}

/-- A decision rank 0 can make. -/
structure CanDecide (s0 : State) (t : Topic) (b : Ballot) (d : Bool) : Prop where
  abort : (b.votes.any fun v => !v.2) = !d
  commit : d = true → ((List.range (s0.voters t).length).all fun j => b.votes.any fun v => v.1 == j && v.2) = true

theorem CanDecide.abort_of {t : Topic} (h : ∃ j, (j, false) ∈ b.votes) : CanDecide s0 t b false := by
  obtain ⟨j, hj⟩ := h
  exact ⟨List.any_eq_true.2 ⟨_, hj, rfl⟩, fun h => absurd h (by decide)⟩

theorem CanDecide.commit_of {t : Topic} (hall : ∀ j, j < (s0.voters t).length → (j, true) ∈ b.votes) (hnone : ∀ j, (j, false) ∉ b.votes) : CanDecide s0 t b true := by
  refine ⟨?_, fun _ => List.all_eq_true.2 fun j hj => List.any_eq_true.2 ⟨_, hall j (List.mem_range.1 hj), by simp⟩⟩
  refine List.any_eq_false.2 fun v hv h => hnone v.1 ?_
  rw [show (v.1, false) = v from Prod.ext rfl (by simpa using h)]
  exact hv

theorem sealDecide_decides {d : Bool} (hg : s.tgroup c i = some g) (hx : g.sealRun = some x) (hs0 : s0 = s.takeBallots (.sealOf c i x.step)) (hr : s0.voterRank (.sealOf c i x.step) = some (0, me))
    (hb : s0.ballot (.sealOf c i x.step) = some b) (hnone : b.decision = none) (hd : CanDecide s0 (.sealOf c i x.step) b d) :
    ∃ u, exec (.sealDecide c i) s = .next u ∧ u.ballot (.sealOf c i x.step) = some { b with decision := some d } ∧
      ∀ m ∈ s0.voters (.sealOf c i x.step), m.fab ≠ s0.fabId → ∃ y ∈ (u.eng me.isl).outq, y.msg = 8 ∧ y.dfab = m.fab ∧ y.dctx = m.ctx ∧ y.chunk = x.step ∧ y.log = b2n d ∧ y.epoch = if d then 0 else b.firstAbort := by
  have hexec : exec (.sealDecide c i) s = .next (((s0.voters (.sealOf c i x.step)).filter fun m => m.fab != s0.fabId).foldl
      (fun u m => u.control me.isl (u.ballotMsg (.sealOf c i x.step) me.isl m 8 (b2n d) (if d then 0 else b.firstAbort)))
      ((s0.setBallot (.sealOf c i x.step) { b with decision := some d }).txnLog c 0 s0.freeSlot)) := by
    have hcan : ¬ (b.decision.isSome = true ∨ (!((b.votes.any fun v => !v.2) || (List.range (s0.voters (.sealOf c i x.step)).length).all fun j => b.votes.any fun v => v.1 == j && v.2)) = true) := by
      rw [hnone, hd.abort]
      cases d with
      | false => simp
      | true => simp [hd.commit rfl]
    rw [exec_sealDecide, execSealDecide, hg, Option.bind_some, State.topic_named hg hx]
    dsimp only
    rw [State.decideBallot, ← hs0, hr, hb]
    refine congrArg _ ((if_neg hcan).trans ?_)
    rw [hd.abort, Bool.not_not]
  refine ⟨_, hexec, ?_, fun m hm hne => voters_told hm hne _ _ _ _ _ _ _ _⟩
  refine (State.ballot_congr (congrArg State.tgs (tell_only _ _)) _ _ _).trans ((State.ballot_congr ?_ _ _ _).trans (State.ballot_setBallot hb _))
  rw [(Logs.txnLog _ _ _ _).only]

end Decides

/-! ### Decisions applied (R339) -/

section Applies
variable {s s1 : State} {c i : Nat} {g g1 : TGroup} {x x1 : Seal} {e : Entry}

/-- A group after its seal: committed or aborted. -/
def TGroup.afterSeal (x : Seal) (commit : Bool) (y : TGroup) : TGroup :=
  let z := { y with sealRun := none, past := (x.step, commit) :: y.past.filter (fun p => p.1 != x.step), acct := y.acct.filter (fun a => a.step != x.step) }
  if commit then
    { z with
      live := 1 - z.live, sealed := x.step
      root := if z.publish.isSome then 1 - z.root else z.root, rootGen := z.publish.getD z.rootGen, publish := none }
  else z

/-- A group's seal applied, without its record's end. -/
def State.sealNoted (s : State) (g : TGroup) (x : Seal) (commit : Bool) : State :=
  let s1 := s.modTg g.ctx g.id (TGroup.afterSeal x commit)
  if commit then s1.bump .sealCommitCnt g.ctx else (s1.bump .sealAbortCnt g.ctx).raise 0x25 g.ctx 0

theorem State.applySeal_eq (s : State) (g : TGroup) (x : Seal) (b : Ballot) (d : Bool) :
    s.applySeal g x b d = (s.sealNoted g x d).finish g.ctx x.stream x.seq (if d then 0 else St.sealAborted) (if d then 0 else b.firstAbort) := by cases d <;> rfl

theorem TGroup.afterSeal_name (x : Seal) (d : Bool) (y : TGroup) : (y.afterSeal x d).ctx = y.ctx ∧ (y.afterSeal x d).id = y.id := by cases d <;> exact ⟨rfl, rfl⟩

theorem State.sealNoted_only (s : State) (g : TGroup) (x : Seal) (d : Bool) :
    s.sealNoted g x d = { s.modTg g.ctx g.id (TGroup.afterSeal x d) with regs := (s.sealNoted g x d).regs, outbox := (s.sealNoted g x d).outbox } := by
  cases d with
  | true => rfl
  | false =>
    show ((s.modTg g.ctx g.id (TGroup.afterSeal x false)).bump .sealAbortCnt g.ctx).raise 0x25 g.ctx 0 = _
    rw [State.raise_only]
    rfl

/-- A seal applied on the ballots taken: the group as its decision leaves it, and its record ended. -/
theorem sealApply_applies {d : Bool} (hg : s.tgroup c i = some g) (hx : g.sealRun = some x) (hs1 : s1 = s.takeBallots (.sealOf c i x.step)) (hg1 : s1.tgroup c i = some g1) (hx1 : g1.sealRun = some x1)
    (hstep : x1.step = x.step) (he : s.entry c x1.stream x1.seq = some e) (hdone : e.done = false) (hpoint : e.point = none) (hd : x1.ballot.decision = some d) :
    ∃ u, exec (.sealApply c i) s = .next u ∧ u.tgroup c i = some (g1.afterSeal x1 d) ∧ Outcome u c x1.stream x1.seq (if d then 0 else St.sealAborted) (if d then 0 else x1.ballot.firstAbort) ∧
      (∀ f : Fld, f.off < 2 ^ 12 ∧ f.off ∉ endOffs → u.fld f c = (s1.sealNoted g1 x1 d).fld f c) ∧
      (∀ t cls inst n, Raised t (s1.sealNoted g1 x1 d) cls inst n → Raised t u cls inst n) := by
  have hexec : exec (.sealApply c i) s = .next (s1.applySeal g1 x1 x1.ballot d) := by
    rw [exec_sealApply, execSealApply, hg, Option.bind_some, State.topic_named hg hx]
    dsimp only
    rw [← hs1, hg1, ← hstep, State.ballot_of hg1 hx1]
    dsimp only
    rw [hx1, hd]
  obtain ⟨hentries, -, -⟩ := hs1 ▸ s.takeBallots_kept c i x.step
  obtain ⟨rfl, rfl⟩ := State.tgroup_named hg1
  have hentry : (s1.sealNoted g1 x1 d).entry g1.ctx x1.stream x1.seq = some e := (State.entry_congr (by rw [State.sealNoted_only]; exact hentries) _ _ _).trans he
  rw [State.applySeal_eq] at hexec
  obtain ⟨es, haside⟩ := (s1.sealNoted g1 x1 d).finish_aside g1.ctx x1.stream x1.seq (if d then 0 else St.sealAborted) (if d then 0 else x1.ballot.firstAbort)
  obtain ⟨es', hwork⟩ := (s1.sealNoted g1 x1 d).finish_work g1.ctx x1.stream x1.seq (if d then 0 else St.sealAborted) (if d then 0 else x1.ballot.firstAbort)
  refine ⟨_, hexec, ?_, (State.finish_ends hentry hdone hpoint _ _).outcome, fun f hf => haside.fld hf _ _, fun t cls inst n h => hwork.raised h⟩
  refine (State.tgroup_congr haside.tgs _ _).trans (.trans ?_ (State.tgroup_modTg_same (TGroup.afterSeal_name x1 d) hg1))
  exact State.tgroup_congr (by rw [State.sealNoted_only]) _ _

/-- A seal committed is counted. -/
theorem State.sealNoted_commits (hregs : s1.regs = s.regs) (g : TGroup) (x : Seal) : Counted s (s1.sealNoted g x true) .sealCommitCnt g.ctx := by
  rw [Counted, ← State.fld_congr hregs]
  exact State.counted_bump (s1.modTg g.ctx g.id _) g.ctx (by decide)

/-- A seal aborted is counted, and raises SEAL_ABORTED. -/
theorem State.sealNoted_aborts (hregs : s1.regs = s.regs) (g : TGroup) (x : Seal) :
    Counted s (s1.sealNoted g x false) .sealAbortCnt g.ctx ∧ Raised s (s1.sealNoted g x false) 0x25 g.ctx 0 := by
  have hnoted : s1.sealNoted g x false = ((s1.modTg g.ctx g.id (TGroup.afterSeal x false)).bump .sealAbortCnt g.ctx).raise 0x25 g.ctx 0 := rfl
  have henable : rkey 0x25 g.ctx evtEnable 0 % 2 ^ 12 = evtEnable := rkey_mod _ _ _ _ (by decide)
  rw [hnoted]
  constructor
  · rw [Counted, State.fld_raise_ne _ _ _ _ _ _ _ (by decide) (by decide) (by decide) (by decide), ← State.fld_congr hregs]
    exact State.counted_bump (s1.modTg g.ctx g.id _) g.ctx (by decide)
  · refine (State.raised_raise _ _ _ _).congr ?_ rfl
    rw [State.reg_bump_of_off _ _ _ _ (by decide) (by rw [henable]; decide)]
    exact congrArg (fun r => Tbl.get resetWord r _) hregs

end Applies

/-! ### Voters who ask, and members who answer (R340) -/

section Asks
variable {s s0 s1 : State} {c i r isl : Nat} {g : TGroup} {x : Seal} {me : TgMem} {b : Ballot} {m : Msg}

/-- Every other voter asked again. -/
def State.asked (s : State) (t : Topic) (r : Nat) (me : TgMem) (b : Ballot) : State :=
  ((s.voters t).filter fun m => m.fab != s.fabId).foldl (fun u m => u.control me.isl (u.ballotMsg t me.isl m 9 0 r)) (s.setBallot t { b with asked := s.ptime })

theorem State.asked_only (s : State) (c i st r : Nat) (me : TgMem) (b : Ballot) :
    s.asked (.sealOf c i st) r me b = { s.setBallot (.sealOf c i st) { b with asked := s.ptime } with engs := (s.asked (.sealOf c i st) r me b).engs } := tell_only _ _

theorem State.askMembers_late {t : Topic} (hs0 : s0 = s.takeBallots t) (hr : s0.voterRank t = some (r, me)) (hb : s0.ballot t = some b) (hvote : b.vote = some true)
    (hopen : b.resolve.decision = none) {limit : Nat} (hlate : b.asked + limit ≤ s0.ptime) (stuck : State → State) :
    s.askMembers t limit stuck = if b.asked = b.began then s0.asked t r me b else stuck (s0.asked t r me b) := by
  rw [State.askMembers, ← hs0, hr, hb]
  dsimp only
  rw [if_neg (by simp [hvote]), if_neg (by simp [hopen]), if_neg (by omega), Option.map_some, Option.getD_some]
  rfl

theorem sealTimeout_asks (hg : s.tgroup c i = some g) (hx : g.sealRun = some x) (hs0 : s0 = s.takeBallots (.sealOf c i x.step)) (hr : s0.voterRank (.sealOf c i x.step) = some (r, me))
    (hb : s0.ballot (.sealOf c i x.step) = some b) (hvote : b.vote = some true) (hopen : b.resolve.decision = none) (hlate : b.asked + us (s.fld .sealTimeoutLimit c) ≤ s.ptime) :
    ∃ u, exec (.sealTimeout c i) s = .next u ∧ u.ballot (.sealOf c i x.step) = some { b with asked := s.ptime } ∧ (b.asked ≠ b.began → Raised s u 0x25 c 1) ∧
      ∀ m ∈ s0.voters (.sealOf c i x.step), m.fab ≠ s0.fabId → ∃ y ∈ (u.eng me.isl).outq, y.msg = 9 ∧ y.dfab = m.fab ∧ y.dctx = m.ctx ∧ y.chunk = x.step := by
  obtain ⟨-, hregs, htime⟩ := hs0 ▸ s.takeBallots_kept c i x.step
  have hexec : exec (.sealTimeout c i) s = .next (s.askMembers (.sealOf c i x.step) (us (s.fld .sealTimeoutLimit c)) fun u => u.raise 0x25 c 1) := by
    rw [exec_sealTimeout, execSealTimeout, hg, Option.bind_some, State.topic_named hg hx]
  rw [State.askMembers_late hs0 hr hb hvote hopen (by rw [htime]; exact hlate)] at hexec
  have honly := s0.asked_only c i x.step r me b
  have hballot : (s0.asked (.sealOf c i x.step) r me b).ballot (.sealOf c i x.step) = some { b with asked := s.ptime } := by
    rw [← htime]
    exact (State.ballot_congr (congrArg State.tgs honly) _ _ _).trans (State.ballot_setBallot hb _)
  have htold : ∀ m ∈ s0.voters (.sealOf c i x.step), m.fab ≠ s0.fabId → ∃ y ∈ ((s0.asked (.sealOf c i x.step) r me b).eng me.isl).outq, y.msg = 9 ∧ y.dfab = m.fab ∧ y.dctx = m.ctx ∧ y.chunk = x.step :=
    fun m hm hne => by
      obtain ⟨y, hy, hmsg, hfab, hctx, hchunk, -⟩ := voters_told hm hne (s0.setBallot (.sealOf c i x.step) { b with asked := s0.ptime }) c i x.step me.isl 9 0 r
      exact ⟨y, hy, hmsg, hfab, hctx, hchunk⟩
  by_cases hfirst : b.asked = b.began
  · rw [if_pos hfirst] at hexec
    exact ⟨_, hexec, hballot, fun h => absurd hfirst h, htold⟩
  · rw [if_neg hfirst] at hexec
    refine ⟨_, hexec, (State.ballot_congr (by rw [State.raise_only]) _ _ _).trans hballot, fun _ => (State.raised_raise _ _ _ _).congr ?_ rfl, fun m hm hne => ?_⟩
    · exact congrArg (fun r => Tbl.get resetWord r _) ((congrArg State.regs honly).trans hregs)
    · rw [State.eng_congr (by rw [State.raise_only])]
      exact htold m hm hne

/-- An answer is a vote or a decision. -/
theorem State.ballotAnswer_kind (s : State) (m : Msg) : (s.ballotAnswer m).2.1 = 7 ∨ (s.ballotAnswer m).2.1 = 8 := by
  unfold State.ballotAnswer
  dsimp only
  split
  · exact .inr rfl
  · split
    · split
      · exact .inr rfl
      · exact .inl rfl
      · exact .inl rfl
    · exact .inl rfl

/-- The message that answers a query about a ballot. -/
def State.ballotReply (s : State) (m : Msg) : Msg :=
  let t := (s.topicOf m).getD .turnOf
  { m with
    dfab := m.sfab, disl := m.sisl, dctx := (((s.voters t)[m.epoch]?).map (fun x => x.ctx)).getD m.dctx, sfab := m.dfab, sisl := m.disl
    msg := (s.ballotAnswer m).2.1, log := (s.ballotAnswer m).2.2, epoch := ((s.voterRank t).map (fun x => x.1)).getD 0 }

theorem sealQuery_answers (h : s.takeKind isl 9 = some (m, s1)) :
    ∃ u y, exec (.sealQuery isl) s = .next u ∧ (u.eng isl).outq.getLast? = some y ∧ y.dfab = m.sfab ∧ y.disl = m.sisl ∧ y.tag = m.tag ∧ y.chunk = m.chunk ∧ y.msg = (s1.ballotAnswer m).2.1 ∧
      y.log = (s1.ballotAnswer m).2.2 ∧ (y.msg = 7 ∨ y.msg = 8) :=
  have hlast : ((((s1.ballotAnswer m).1.control isl (s1.ballotReply m)).eng isl).outq).getLast? = some (s1.ballotReply m).sealed := by
    rw [State.eng_control]
    exact List.getLast?_concat
  ⟨_, _, by rw [exec_sealQuery, execSealQuery, h]; rfl, hlast, rfl, rfl, rfl, rfl, rfl, rfl, s1.ballotAnswer_kind m⟩

end Asks

end Sys2Proof.Machine
end

section
/-! PROOFS. The update pipe's tiles, stored or invalid (R328 to R333), and with them what O34 says of seals and updates. -/
namespace Sys2Proof.Machine

/-! ### The next tile (R332) -/

theorem firstSome_found {α β : Type} {f : α → Option β} {xs : List α} {y : β} (h : firstSome f xs = some y) : ∃ x ∈ xs, f x = some y := by
  induction xs with
  | nil => exact absurd h (by simp [firstSome])
  | cons x xs ih =>
    rw [firstSome] at h
    split at h
    case h_1 y' hy => exact ⟨x, List.mem_cons_self, hy.trans (congrArg some (Option.some.inj h))⟩
    case h_2 =>
      obtain ⟨x', hx', hy⟩ := ih h
      exact ⟨x', List.mem_cons_of_mem _ hx', hy⟩

section Tiles
variable {s s1 s2 : State} {isl own c t i : Nat} {k : Coll} {g : TGroup} {grad : List (BitVec 8)} {rs : List URun} {r : URun} {p : PGroup} {x : TileIn} {o : TileOut}

/-- A tile to do is of a collective of the module. -/
theorem State.nextTile_mem (h : s.nextTile isl = some (k, g, own, c, t, grad)) : k ∈ s.colls := by
  obtain ⟨k', hk', h⟩ := firstSome_found h
  split at h
  · exact absurd h (by simp)
  · split at h
    · obtain ⟨v, -, h⟩ := firstSome_found h
      split at h
      · obtain ⟨t', -, h⟩ := Option.map_eq_some_iff.1 h
        obtain ⟨rfl, -⟩ := Prod.mk.inj h
        exact hk'
      · exact absurd h (by simp)
    · exact absurd h (by simp)

/-- Holding a parameter group's values changes engines only. -/
theorem State.pgroup_only {n : Nat} (h : s.pgroup k g isl n = .ok (s1, p)) : s1 = { s with engs := s1.engs } := by
  unfold State.pgroup at h
  dsimp only at h
  split at h
  · obtain ⟨rfl, -⟩ := Prod.mk.inj (Except.ok.inj h)
    rfl
  · split at h
    · exact absurd h (by simp)
    · split at h
      · exact absurd h (by simp)
      · obtain ⟨rfl, -⟩ := Prod.mk.inj (Except.ok.inj h)
        rfl

/-- Where a tile's results go: the alternate half. -/
def tileWrites (k : Coll) (g : TGroup) (r : URun) (p : PGroup) (i : Nat) (o : TileOut) : List (Nat × List (BitVec 8)) :=
  [(r.master + (1 - g.live) * r.half + 2112 * i, o.w), (r.moment + (1 - g.live) * r.half + 2112 * i, o.m), (k.dst + r.work + o.k.length * i, o.k)] ++
    (if p.mode = 1 then [(r.stats + (1 - g.live) * r.half + 8192 * i, o.stats)] else [])

/-- A collective with a tile done. -/
def Coll.withTile (k : Coll) (t : Nat) (o : TileOut) : Coll := { k with tiles := k.tiles ++ [t], work := k.work ++ [⟨t, 0, 0xFF, o.k⟩] }

/-- A stored tile and its saturations counted. -/
def State.tileCounted (s : State) (k : Coll) (isl n : Nat) : State := ((s.bump64 .updTileLo .updTileHi isl).bump .updSatCnt isl n).countSats isl k.ctx n

/-- A stored tile counted and marked done. -/
def State.tileDone (s : State) (k : Coll) (isl own c t : Nat) (o : TileOut) : State :=
  (((s.tileCounted k isl o.sats).modColl k.num fun _ => k.withTile t o).workDone (k.withTile t o) own c).landNote (k.withTile t o) isl own c

/-- A tile whose inputs are there. -/
structure TileRun (s s1 : State) (isl own c t i : Nat) (k : Coll) (g : TGroup) (grad : List (BitVec 8)) (rs : List URun) (r : URun) (p : PGroup) (x : TileIn) : Prop where
  next : s.nextTile isl = some (k, g, own, c, t, grad)
  map : s.updateMap k = .ok rs
  run : runOf rs t = some (r, i)
  group : s.pgroup k g isl r.pgroup = .ok (s1, p)
  tileIn : s1.tileIn k g r i p grad = .ok x

theorem updateTile_stored (h : TileRun s s1 isl own c t i k g grad rs r p x) (hvalid : updateTile p x = some o) (hout : s1.tileOut k (tileWrites k g r p i o) = .ok s2) :
    exec (.updateTile isl) s = .next (s2.tileDone k isl own c t o) := by
  rw [exec_updateTile, execUpdateTile, h.next]
  unfold tileWrites at hout
  simp only [State.doTile, h.map, h.run, h.group, h.tileIn, hvalid, hout]
  rfl

theorem updateTile_refused (h : TileRun s s1 isl own c t i k g grad rs r p x) (hinvalid : updateTile p x = none) :
    exec (.updateTile isl) s = .next (s1.invalidTile k isl r.pgroup t) := by
  rw [exec_updateTile, execUpdateTile, h.next]
  simp only [State.doTile, h.map, h.run, h.group, h.tileIn, hinvalid]

/-! ### A stored tile (R320, R330, R332) -/

/-- What is written lets the collectives stand. -/
theorem State.tileOut_colls {ws : List (Nat × List (BitVec 8))} (h : s.tileOut k ws = .ok s2) : s2.colls = s.colls := by
  unfold State.tileOut at h
  split at h
  · exact absurd h (by simp)
  · rw [← Except.ok.inj h]
    exact foldl_keeps State.colls _ (fun u w => (Aside.devWrite u k.ctx w.1 w.2).colls) ws s

theorem State.landNote_kept (s : State) (k : Coll) (isl own c : Nat) :
    (s.landNote k isl own c).hbm = s.hbm ∧ (s.landNote k isl own c).regs = s.regs ∧ (s.landNote k isl own c).colls = s.colls := by
  unfold State.landNote
  split
  · rw [State.notify_only]
    exact ⟨rfl, rfl, rfl⟩
  · exact ⟨rfl, rfl, rfl⟩

theorem State.workDone_kept (s : State) (k : Coll) (own c : Nat) : (s.workDone k own c).hbm = s.hbm ∧ (s.workDone k own c).regs = s.regs := by
  unfold State.workDone
  dsimp only
  split <;> exact ⟨rfl, rfl⟩

/-- Work joined keeps a collective's tiles. -/
theorem State.workDone_tiles {y : Coll} (hy : y ∈ s.colls) (hnum : y.num = k.num) : ∃ z ∈ (s.workDone k own c).colls, z.num = k.num ∧ z.tiles = y.tiles := by
  unfold State.workDone
  dsimp only
  split
  · exact ⟨y, hy, hnum, rfl⟩
  · rw [← hnum]
    exact ⟨_, mem_modColl hy _, rfl, rfl⟩

theorem State.tileCounted_kept (s : State) (k : Coll) (isl n : Nat) : (s.tileCounted k isl n).hbm = s.hbm ∧ (s.tileCounted k isl n).colls = s.colls := by
  unfold State.tileCounted
  rw [State.countSats_only]
  exact ⟨rfl, rfl⟩

theorem State.tileDone_kept (s : State) (k : Coll) (isl own c t : Nat) (o : TileOut) : (s.tileDone k isl own c t o).hbm = s.hbm ∧ (s.tileDone k isl own c t o).regs = (s.tileCounted k isl o.sats).regs := by
  obtain ⟨hhbm, hregs, -⟩ := State.landNote_kept (((s.tileCounted k isl o.sats).modColl k.num fun _ => k.withTile t o).workDone (k.withTile t o) own c) (k.withTile t o) isl own c
  obtain ⟨hhbm', hregs'⟩ := State.workDone_kept ((s.tileCounted k isl o.sats).modColl k.num fun _ => k.withTile t o) (k.withTile t o) own c
  exact ⟨hhbm.trans (hhbm'.trans (s.tileCounted_kept k isl o.sats).1), hregs.trans hregs'⟩

theorem State.tileCounted_counted (s : State) {k : Coll} {isl : Nat} (hisl : isl < 24) (hctx : k.ctx < 64) (n : Nat) : Counted s (s.tileCounted k isl n) .updSatCnt isl 0 n := by
  have htiles : (s.bump64 .updTileLo .updTileHi isl).fld .updSatCnt isl = s.fld .updSatCnt isl := by
    have hkey : ∀ f : Fld, (f.off < 2 ^ 12 ∧ f.off ≠ 0x04C) → Fld.updSatCnt.key isl 0 ≠ f.key isl 0 := fun f hf heq => hf.2 (by
      have hoff := congrArg (· % 2 ^ 12) heq
      dsimp only [Fld.key] at hoff
      rw [rkey_mod _ _ _ _ (by decide), rkey_mod _ _ _ _ hf.1] at hoff
      exact hoff.symm)
    rw [State.fld, State.reg_bump64_ne _ _ _ _ _ _ _ (hkey _ (by decide)) (hkey _ (by decide)), ← State.fld]
  rw [Counted, State.tileCounted, State.fld_countSats _ _ hisl hctx (by decide) hisl, State.fld_bump_same _ _ _ _ _ (by decide), htiles]

theorem State.tileDone_marked (hk : k ∈ s.colls) (isl own c t : Nat) (o : TileOut) : ∃ k' ∈ (s.tileDone k isl own c t o).colls, k'.num = k.num ∧ k'.tiles = k.tiles ++ [t] := by
  have hcounted : k ∈ (s.tileCounted k isl o.sats).colls := (s.tileCounted_kept k isl o.sats).2 ▸ hk
  obtain ⟨z, hz, hnum, htiles⟩ := State.workDone_tiles (k := k.withTile t o) (own := own) (c := c) (mem_modColl hcounted fun _ => k.withTile t o) rfl
  obtain ⟨-, -, hcolls⟩ := State.landNote_kept (((s.tileCounted k isl o.sats).modColl k.num fun _ => k.withTile t o).workDone (k.withTile t o) own c) (k.withTile t o) isl own c
  exact ⟨z, hcolls ▸ hz, hnum, htiles⟩

theorem updateTile_stores (hisl : isl < 24) (hctx : k.ctx < 64) (h : TileRun s s1 isl own c t i k g grad rs r p x) (hvalid : updateTile p x = some o)
    (hout : s1.tileOut k (tileWrites k g r p i o) = .ok s2) :
    ∃ u, exec (.updateTile isl) s = .next u ∧ u.hbm = s2.hbm ∧ (∃ k' ∈ u.colls, k'.num = k.num ∧ k'.tiles = k.tiles ++ [t]) ∧ Counted s2 u .updSatCnt isl 0 o.sats := by
  have hk : k ∈ s2.colls := by
    rw [State.tileOut_colls hout, State.pgroup_only h.group]
    exact State.nextTile_mem h.next
  obtain ⟨hhbm, hregs⟩ := s2.tileDone_kept k isl own c t o
  refine ⟨_, updateTile_stored h hvalid hout, hhbm, State.tileDone_marked hk _ _ _ _ _, ?_⟩
  rw [Counted, State.fld_congr hregs]
  exact State.tileCounted_counted _ hisl hctx _

/-! ### An invalid tile (R326, R333) -/

/-- An invalid tile counted and captured. -/
def State.tileCaptured (s : State) (k : Coll) (isl pg tile : Nat) : State :=
  let s1 := s.bump .updInvalidCnt isl
  if s1.fld .updCaptValid isl = 1 then s1
  else (((s1.setFld .updCaptValid 1 isl).setFld .updCaptCtx k.ctx isl).setFld .updCaptPgroup pg isl).setFld .updCaptTile tile isl

theorem State.tileCaptured_counted (s : State) (k : Coll) {isl : Nat} (hisl : isl < 24) (pg tile : Nat) : Counted s (s.tileCaptured k isl pg tile) .updInvalidCnt isl := by
  unfold State.tileCaptured
  dsimp only
  split
  · exact s.counted_bump isl (by decide)
  · rw [Counted, State.fld_setFld_apart _ (by decide) _ hisl hisl, State.fld_setFld_apart _ (by decide) _ hisl hisl, State.fld_setFld_apart _ (by decide) _ hisl hisl,
      State.fld_setFld_apart _ (by decide) _ hisl hisl]
    exact s.counted_bump isl (by decide)

theorem State.tileCaptured_enable (s : State) (k : Coll) (isl pg tile : Nat) {j : Nat} (hj : j % 2 ^ 12 = evtEnable) : (s.tileCaptured k isl pg tile).reg j = s.reg j := by
  have hset : ∀ (t : State) (f : Fld) (v : Nat), (f.off < 2 ^ 12 ∧ evtEnable ≠ f.off) → (t.setFld f v isl).reg j = t.reg j := fun t f v hf =>
    t.reg_setFld_of_off _ _ _ hf.1 (by rw [hj]; exact hf.2)
  have hbump := s.reg_bump_of_off (f := .updInvalidCnt) isl 1 0 (k := j) (by decide) (by rw [hj]; decide)
  unfold State.tileCaptured
  dsimp only
  split
  · exact hbump
  · rw [hset _ _ _ (by decide), hset _ _ _ (by decide), hset _ _ _ (by decide), hset _ _ _ (by decide), hbump]

/-- Counting aborts leaves the fields of another class of pages. -/
theorem State.fld_countAborts_apart (s : State) (k : Coll) {f : Fld} (hf : Fld.colAbortCnt.apart f = true) (hoff : f.off < 2 ^ 12 ∧ f.off ≠ 0x010 ∧ f.off ≠ 0x078 ∧ f.off ≠ 0x07C) {j : Nat} (hj : j < 24) :
    (s.countAborts k.openEngines).fld f j = s.fld f j := by
  obtain ⟨hlt, hcause, hpending, hdrop⟩ := hoff
  exact List.foldlRecOn (motive := fun t : State => t.fld f j = s.fld f j) k.openEngines _ rfl fun t ht i hi => by
    rw [State.fld_raise_ne _ _ _ _ _ _ _ hlt hcause hpending hdrop, State.fld_bump_apart t hf (List.mem_range.1 (List.mem_filter.1 hi).1) hj, ht]

/-- An invalid tile counted in the pages of its island and its context. -/
def State.tileNoted (s : State) (k : Coll) (isl pg tile : Nat) : State := (((s.tileCaptured k isl pg tile).raise 0x18 isl 0).bump .numiInvalidCnt isl).bump .numcInvalidCnt k.ctx

theorem State.tileNoted_counted (s : State) (k : Coll) {isl : Nat} (hisl : isl < 24) (pg tile : Nat) : Counted s (s.tileNoted k isl pg tile) .updInvalidCnt isl := by
  have hkey : Fld.updInvalidCnt.key isl 0 % 2 ^ 12 = 0x050 := rkey_mod _ _ _ _ (by decide)
  have hbumps : (s.tileNoted k isl pg tile).fld .updInvalidCnt isl = ((s.tileCaptured k isl pg tile).raise 0x18 isl 0).fld .updInvalidCnt isl := by
    rw [State.fld, State.tileNoted, State.reg_bump_of_off _ _ _ _ (by decide) (by rw [hkey]; decide), State.reg_bump_of_off _ _ _ _ (by decide) (by rw [hkey]; decide), ← State.fld]
  rw [Counted, hbumps, State.fld_raise_ne _ _ _ _ _ _ _ (by decide) (by decide) (by decide) (by decide)]
  exact s.tileCaptured_counted k hisl pg tile

theorem State.tileNoted_raised (s : State) (k : Coll) (isl pg tile : Nat) : Raised s (s.tileNoted k isl pg tile) 0x18 isl 0 := by
  have hcause : rkey 0x18 isl evtCause 0 % 2 ^ 12 = evtCause := rkey_mod _ _ _ _ (by decide)
  refine (State.raised_raise _ _ _ _).congr (State.tileCaptured_enable s k isl pg tile (rkey_mod _ _ _ _ (by decide))) ?_
  rw [State.tileNoted, State.reg_bump_of_off _ _ _ _ (by decide) (by rw [hcause]; decide), State.reg_bump_of_off _ _ _ _ (by decide) (by rw [hcause]; decide)]

theorem State.invalidTile_ended (s : State) (k : Coll) (isl pg tile : Nat) :
    s.invalidTile k isl pg tile = (((s.tileNoted k isl pg tile).tellAborts k 5).countAborts k.openEngines).endColl k St.numericInvalid 0 := rfl

theorem updateTile_ends (hisl : isl < 24) (h : TileRun s s1 isl own c t i k g grad rs r p x) (hinvalid : updateTile p x = none) :
    ∃ u, exec (.updateTile isl) s = .next u ∧ (∀ k' ∈ u.colls, k'.num ≠ k.num) ∧ Counted s u .updInvalidCnt isl ∧ Raised s u 0x18 isl 0 := by
  have hregs : s1.regs = s.regs := by rw [State.pgroup_only h.group]
  have htold : ((s1.tileNoted k isl r.pgroup t).tellAborts k 5).regs = (s1.tileNoted k isl r.pgroup t).regs := by rw [State.tellAborts_only]
  refine ⟨_, updateTile_refused h hinvalid, ?_, ?_, ?_⟩ <;> rw [State.invalidTile_ended]
  · exact State.endColl_gone _ _ _ _
  · rw [Counted, State.endColl_fld _ _ _ _ (by decide), State.fld_countAborts_apart _ _ (by decide) (by decide) hisl, State.fld_congr htold, ← State.fld_congr hregs]
    exact s1.tileNoted_counted k hisl r.pgroup t
  · refine State.endColl_raised _ _ _ _ fun hen => State.countAborts_marks _ _ (rkey_mod _ _ _ _ (by decide)) ?_
    rw [State.reg, htold, ← State.reg]
    refine s1.tileNoted_raised k isl r.pgroup t ?_
    rw [State.reg, hregs]
    exact hen

end Tiles

/-- Settles O34: votes, decisions and their application by the seal's ballot, and the update pipe's tile by what its arithmetic answers. -/
theorem sealsAndUpdates : Obligations.SealsAndUpdates := by
  refine ⟨fun s c i r g x me v late => sealVote_casts, fun s s0 c i g x me b hg hx hs0 hr hb hnone => ⟨fun hall hno => ?_, fun hsome => ?_⟩,
    fun s s1 c i g g1 x x1 e _ hg hx hs1 hg1 hx1 hstep he hdone hpoint => ⟨fun hd => ?_, fun hd => ?_⟩, fun s s0 c i r g x me b => sealTimeout_asks, fun s s1 isl m => sealQuery_answers,
    fun s s1 s2 isl own c t i k g grad rs r p x hisl hctx hnext hmap hrun hgroup hin => ⟨fun o hvalid hout => ?_, fun hinvalid => ?_⟩⟩
  · obtain ⟨u, hexec, hballot, htold⟩ := sealDecide_decides hg hx hs0 hr hb hnone (CanDecide.commit_of hall hno)
    refine ⟨u, hexec, hballot, fun m hm hne => ?_⟩
    obtain ⟨y, hy, hmsg, hfab, hctx, -, hlog, -⟩ := htold m hm hne
    exact ⟨y, hy, hmsg, hfab, hctx, hlog⟩
  · obtain ⟨u, hexec, hballot, htold⟩ := sealDecide_decides hg hx hs0 hr hb hnone (CanDecide.abort_of hsome)
    refine ⟨u, hexec, hballot, fun m hm hne => ?_⟩
    obtain ⟨y, hy, hmsg, hfab, hctx, -, hlog, hepoch⟩ := htold m hm hne
    exact ⟨y, hy, hmsg, hfab, hctx, hlog, hepoch⟩
  · obtain ⟨u, hexec, htg, houtcome, hfld, -⟩ := sealApply_applies hg hx hs1 hg1 hx1 hstep he hdone hpoint hd
    obtain ⟨-, hregs, -⟩ := hs1 ▸ s.takeBallots_kept c i x.step
    obtain ⟨rfl, -⟩ := State.tgroup_named hg1
    refine ⟨u, _, hexec, htg, hstep, rfl, rfl, rfl, rfl, rfl, houtcome, ?_⟩
    rw [Counted, hfld _ (by decide)]
    exact State.sealNoted_commits hregs g1 x1
  · obtain ⟨u, hexec, htg, houtcome, hfld, hraised⟩ := sealApply_applies hg hx hs1 hg1 hx1 hstep he hdone hpoint hd
    obtain ⟨-, hregs, -⟩ := hs1 ▸ s.takeBallots_kept c i x.step
    obtain ⟨rfl, -⟩ := State.tgroup_named hg1
    obtain ⟨hcounted, hevent⟩ := State.sealNoted_aborts hregs g1 x1
    refine ⟨u, _, hexec, htg, rfl, houtcome, ?_, hraised _ _ _ _ hevent⟩
    rw [Counted, hfld _ (by decide)]
    exact hcounted
  · exact updateTile_stores hisl hctx ⟨hnext, hmap, hrun, hgroup, hin⟩ hvalid hout
  · exact updateTile_ends hisl ⟨hnext, hmap, hrun, hgroup, hin⟩ hinvalid

end Sys2Proof.Machine
end
